-- ==== Sys2Proof/Word.lean ====
section
/-! DEFINITION. The word types of the LY-9612: bytes, instruction words, 64-bit registers, vector registers, and the identifiers of threads, engines and partitions (spec/00_scope.md R1, R20, R21). -/

namespace Sys2Proof

/-- One byte, the package's smallest addressable unit. -/
abbrev Byte := BitVec 8

/-- An Askist or Skim-2 instruction word (R97, R388). -/
abbrev W32 := BitVec 32

/-- A general register, a control register or a register of the register window (R8, R85). -/
abbrev W64 := BitVec 64

/-- A vector register, 512 bits (R85). -/
abbrev V512 := BitVec 512

/-- A general, vector or Skim register number in an encoding. -/
abbrev RegNum := BitVec 5

/-- A global thread number, 0 to 767 (R20). -/
abbrev Gtn := Fin 768

/-- A skim engine number, SK00 to SK55 (R1). -/
abbrev EngNum := Fin 56

/-- A home slice number, H00 to H31 (R1). -/
abbrev SliceNum := Fin 32

/-- A port number, PT00 to PT63 (R1). -/
abbrev PortNum := Fin 64

/-- A partition ID: 1 to 12, and 0 for package services (R21). -/
abbrev PartId := Fin 13

end Sys2Proof
end

