-- ==== Sys2Proof/Syntax.lean ====
section
/-! DEFINITION. The commands of the block: one constructor of Instr for each row of spec/opcode_table.json, with the row's operands. The table gives no row any bits, so the operands are those that the row's rule names: the fields of an instruction word, the content of a protocol message, the value written to a register, or the outcome of something outside the block. -/

namespace Sys2Proof

/-- A compute die by index: die ID less 1 (R6). -/
abbrev CDie := Fin 12

/-- A partition by index: partition ID less 1 (R21). -/
abbrev PartIx := Fin 12

/-- A port die by index: die ID less 0x10 (R6). -/
abbrev PDie := Fin 4

/-- A logic die by index: 0 the hub, 1 to 12 the compute dies, 13 to 16 the port dies. -/
abbrev DieIx := Fin 17

/-- A physical core (R1). -/
abbrev PCore := Fin 34

/-- Who writes a register, as CFG_REJn_INFO SRC codes it (R503). -/
inductive WriterSrc where
  | thread | structureEngine | packageServices | debug | platform
  deriving DecidableEq, Repr

/-- The source of a register access: its partition, world, level and thread (R10, R503). -/
structure Who where
  part : PartId
  world : Bool
  level : BitVec 2
  thread : Gtn
  src : WriterSrc
  deriving DecidableEq, Repr

/-- The part of a register that an access covers (R8). -/
inductive Half where
  | full | low | high
  deriving DecidableEq, Repr

/-- The scalar loads of majors 0x08 to 0x0E (R102). -/
inductive LoadKind where
  | b | h | w | d | bu | hu | wu
  deriving DecidableEq, Repr

/-- The scalar stores of majors 0x10 to 0x13 (R102). -/
inductive StoreKind where
  | b | h | w | d
  deriving DecidableEq, Repr

/-- The conditions of majors 0x18 to 0x1D (R102). -/
inductive Cond where
  | eq | ne | lt | ge | ltu | geu
  deriving DecidableEq, Repr

/-- The fields of the V format (R98): vd or pd, va or ga, vb or gb, pred, esize and Z. -/
structure VFields where
  d : RegNum
  a : RegNum
  b : RegNum
  pred : BitVec 3
  esize : BitVec 2
  z : Bool
  deriving DecidableEq, Repr

/-- Bits [10:8] of a word of major 0x28: bit 10, which must be 0, and FMT (R683). -/
structure FmtField where
  hi : BitVec 1
  fmt : BitVec 2
  deriving DecidableEq, Repr

/-- The compares of R683. -/
inductive FCmpKind where
  | eq | lt | le | unord
  deriving DecidableEq, Repr

/-- The conversions of R683. -/
inductive FCvtKind where
  | from16 | from32 | from64 | toS | toU | fromS | fromU
  deriving DecidableEq, Repr


/-- How an access of a device completes (R232): with success, Unsupported Request, Completer Abort, or poisoned data. -/
inductive DevCpl where
  | ok | ur | ca | poisoned
  deriving DecidableEq, Repr

/-- A line of the coherent memory: PA[51:6]. -/
abbrev Line := BitVec 46

/-- The agents that coherence messages name (R259): a compute die by the core whose request it sends, a skim engine, a port agent, and the translation units of hub and ports. -/
inductive AgentRef where
  | core (die : CDie) (pcore : PCore)
  | eng (n : EngNum)
  | port (n : PortNum)
  | xtl
  deriving DecidableEq, Repr

/-- What the render cache's error codes show for a line that its scrub walker reads (R305). -/
inductive RcErr where
  | clean | corrected | stateLost | dataLost
  deriving DecidableEq, Repr

/-- What the symbol code shows for a word that a scrub reads (R321, R323, R325). -/
inductive ScrubOut where
  | clean
  | corrected (device : BitVec 4)
  | uncorrectable
  deriving DecidableEq, Repr

/-- A command queue of the skim engines, 0 to 95 (R332). -/
abbrev QueueNum := Fin 96

/-- A job slot of the steering unit (R344). -/
abbrev JobSlot := Fin 128

/-- A register field of a Skim-2 instruction (R389). -/
abbrev SReg := BitVec 4

/-- The logic immediates of majors 0x02 to 0x04 (R390). -/
inductive LogicOp where
  | and | or | xor
  deriving DecidableEq, Repr

/-- The fields of the VX format (R389). -/
structure VxFields where
  esize : BitVec 2
  b : SReg
  a : SReg
  d : SReg
  deriving DecidableEq, Repr

/-- A stop of a die (R431). -/
structure StopRef where
  die : DieIx
  stop : BitVec 7
  deriving DecidableEq, Repr

/-- What the checks of R442 find in a packet: nothing; BAD or a wrong ECRC at its destination; an error for which it is removed at a stop, such as parity in header word 0 (R443); or an uncorrectable unit or K word on its scrim link toward the hub or, for `down`, from it, in the header slot or the K word, or in another slot (R462). -/
inductive Check where
  | good | bad | lost
  | unit (down header : Bool) (group : BitVec 4)
  deriving DecidableEq, Repr

/-- What a stale packet was (R453): a snoop of a home, a request of a port agent or of the job steering unit, or a core's access to a device or a register. -/
inductive StalePkt where
  | snoop (a : AgentRef) (l : Line)
  | request (a : AgentRef) (l : Line) (op : BitVec 6)
  | access (t : Gtn)
  deriving DecidableEq, Repr

/-- What a request that is answered FERR was (R443): a thread's read of memory, with its virtual address; a core's access to a device or a register; or the request of another unit for a line. -/
inductive FerrReq where
  | read (t : Gtn) (va : W64)
  | access (t : Gtn)
  | line (a : AgentRef) (l : Line)
  | snoop (a : AgentRef) (l : Line)
  deriving DecidableEq, Repr

/-- A node of the control torus, x * 4 + y (R22, R446). -/
abbrev TNode := Fin 20

/-- A lath port of a node: 0 toward +x, 1 toward -x, 2 toward +y, 3 toward -y (R470). -/
abbrev LPort := Fin 4

/-- A hub scrim port, HP00 to HP15 (R472). -/
abbrev HubPort := Fin 16

/-- A torus frame (R446): the end of the frame passed its CRC when `crcOk`. -/
structure FrameRef where
  dst : TNode
  src : TNode
  type : BitVec 8
  seq : BitVec 8
  alt : Bool
  p3 : Bool
  payload : List Byte
  crcOk : Bool
  deriving DecidableEq, Repr

/-- How a training of a scrim link ended (R465, R466). -/
inductive TrainEnd where
  | ok | failed
  deriving DecidableEq, Repr

/-- What answered at a hub port in discovery (R473, R474): nothing, a die that failed training, or a die with the role, part number and stepping that its DCTL_IDENT reports. -/
inductive DiscRes where
  | none
  | untrained
  | die (role : BitVec 4) (partNum : BitVec 16) (major minor : BitVec 4)
  deriving DecidableEq, Repr

/-- The header fields of a platform request besides its TYPE (R639): SEQ, LAST and ARG, and the payload; `flags` are FLAGS[7:1] and `zero` bytes 6 and 7, which must be zero. -/
structure PmpReq where
  seq : BitVec 16
  last : Bool
  arg : W64
  payload : List Byte
  flags : BitVec 7 := 0
  zero : BitVec 16 := 0
  deriving DecidableEq, Repr

/-- The writer of a message-signalled write (R617): a thread, by a D-P or D-S store, or a device of a port after the port XTL. -/
inductive MsgWriter where
  | thread (t : Gtn) (posted : Bool)
  | device (port : PortNum)
  deriving DecidableEq, Repr

/-- A request of a device (R206, R247): a read of `len` bytes, a write, or an AtomicOp on 4 or 8 bytes: 0 FetchAdd, 1 Swap, 2 compare and swap. -/
inductive DmaOp where
  | read (len : Nat)
  | write (relaxed : Bool) (data : List Byte)
  | atomic (wide : Bool) (kind : Fin 3) (a b : W64)
  deriving DecidableEq, Repr

/-- What training and the devices show to the Sizing loader (R298, R311): the channels that trained in full or verified, those whose saved training failed verification, the ports whose link came up, the capacity in GiB that Identify Memory Device reports of each HDM-H device, and the ports whose HDM decoder refuses the ways or the granule of its set. -/
structure MemReport where
  trained : List (Fin 24)
  verifyBad : List (Fin 24)
  links : List PortNum
  identify : List (PortNum × Nat)
  hdmBad : List PortNum
  deriving DecidableEq, Repr

/-- The commands: one constructor for each row of spec/opcode_table.json. -/
inductive Instr where
  /-- REGISTER_WRITE (R16): a write reaches a register that has no row of its own. -/
  | registerWrite (who : Who) (pa : BitVec 52) (half : Half) (v : W64)
  /-- COLD_RESET (R18). -/
  | coldReset
  /-- PACKAGE_WARM_RESET (R18). -/
  | packageWarmReset
  /-- PARTITION_RESET (R679). -/
  | partitionReset (p : PartIx)
  /-- DIE_RESET (R18). -/
  | dieReset (die : DieIx)
  /-- CORE_RESET (R18). -/
  | coreReset (die : CDie) (pcore : PCore)
  /-- INTEGER_ALU (R103). -/
  | integerAlu (t : Gtn) (d a b : RegNum) (func : BitVec 11)
  /-- ADDI (R101). -/
  | addi (t : Gtn) (d a : RegNum) (imm : BitVec 16)
  /-- ANDI (R101). -/
  | andi (t : Gtn) (d a : RegNum) (imm : BitVec 16)
  /-- ORI (R101). -/
  | ori (t : Gtn) (d a : RegNum) (imm : BitVec 16)
  /-- XORI (R101). -/
  | xori (t : Gtn) (d a : RegNum) (imm : BitVec 16)
  /-- LUI (R101); a must be g0 (R102). -/
  | lui (t : Gtn) (d a : RegNum) (imm : BitVec 16)
  /-- SHIFT_IMMEDIATE (R102). -/
  | shiftImmediate (t : Gtn) (d a : RegNum) (imm : BitVec 16)
  /-- PFX (R100): the prefix and the word that follows it; `settled` and `mispredicted` as in LOAD and JALR. -/
  | pfx (t : Gtn) (ext : BitVec 26) (next : W32) (settled mispredicted : Bool)
  /-- LOAD (R105); `settled`: the load is settled when its request leaves the core (R51). -/
  | load (t : Gtn) (k : LoadKind) (d a : RegNum) (imm : BitVec 16) (settled : Bool)
  /-- STORE (R105). -/
  | store (t : Gtn) (k : StoreKind) (d a : RegNum) (imm : BitVec 16)
  /-- BRANCH (R101); `mispredicted`: the predictor's outcome, which the spec leaves to the part (R70, R80). -/
  | branch (t : Gtn) (c : Cond) (a b : RegNum) (off : BitVec 16) (mispredicted : Bool)
  /-- JAL (R101). -/
  | jal (t : Gtn) (off : BitVec 26) (mispredicted : Bool)
  /-- JALR (R101). -/
  | jalr (t : Gtn) (d a : RegNum) (imm : BitVec 16) (mispredicted : Bool)
  /-- VECTOR_ALU (R107). -/
  | vectorAlu (t : Gtn) (v : VFields) (func : BitVec 5)
  /-- VECTOR_FP (R107). -/
  | vectorFp (t : Gtn) (v : VFields) (func : BitVec 5)
  /-- VLD (R108). -/
  | vld (t : Gtn) (v : VFields) (settled : Bool)
  /-- VST (R108). -/
  | vst (t : Gtn) (v : VFields)
  /-- PCOMP (R107); `z` holds bits [25:24], which must be zero (R98), and the vd field's low bits name pd. -/
  | pcomp (t : Gtn) (v : VFields) (func : BitVec 5)
  /-- VGATHER (R116); at most `chunks` chunks run in this command. -/
  | vgather (t : Gtn) (v : VFields) (scale : BitVec 2) (chunks : Nat)
  /-- VSCATTER (R116). -/
  | vscatter (t : Gtn) (v : VFields) (scale : BitVec 2) (chunks : Nat)
  /-- VCOMPRESS (R109). -/
  | vcompress (t : Gtn) (v : VFields)
  /-- VEXPAND (R109). -/
  | vexpand (t : Gtn) (v : VFields)
  /-- VBCAST (R109). -/
  | vbcast (t : Gtn) (v : VFields)
  /-- VEXTRACT (R109). -/
  | vextract (t : Gtn) (v : VFields)
  /-- VINSERT (R109). -/
  | vinsert (t : Gtn) (v : VFields)
  /-- PAND (R102): five-bit fields of which the low three bits name p registers. -/
  | pand (t : Gtn) (d a b : RegNum)
  /-- POR (R102). -/
  | por (t : Gtn) (d a b : RegNum)
  /-- PXOR (R102). -/
  | pxor (t : Gtn) (d a b : RegNum)
  /-- PNOT (R102); the b field must be 0. -/
  | pnot (t : Gtn) (d a b : RegNum)
  /-- FADD (R683); func is bit 10, FMT and OP. -/
  | fadd (t : Gtn) (d a b : RegNum) (fmt : FmtField)
  /-- FSUB (R683). -/
  | fsub (t : Gtn) (d a b : RegNum) (fmt : FmtField)
  /-- FMUL (R683). -/
  | fmul (t : Gtn) (d a b : RegNum) (fmt : FmtField)
  /-- FDIV (R683). -/
  | fdiv (t : Gtn) (d a b : RegNum) (fmt : FmtField)
  /-- FSQRT (R683); b must be 0. -/
  | fsqrt (t : Gtn) (d a b : RegNum) (fmt : FmtField)
  /-- FMA (R683). -/
  | fma (t : Gtn) (d a b : RegNum) (fmt : FmtField)
  /-- FMIN (R683). -/
  | fmin (t : Gtn) (d a b : RegNum) (fmt : FmtField)
  /-- FMAX (R683). -/
  | fmax (t : Gtn) (d a b : RegNum) (fmt : FmtField)
  /-- FCMP (R683): EQ, LT, LE or UNORD. -/
  | fcmp (t : Gtn) (d a b : RegNum) (fmt : FmtField) (k : FCmpKind)
  /-- FCVT (R683); b must be 0. -/
  | fcvt (t : Gtn) (d a b : RegNum) (fmt : FmtField) (k : FCvtKind)
  /-- LRES (R236): LRES.W, or LRES.D when `wide`. -/
  | lres (t : Gtn) (d a b : RegNum) (wide : Bool)
  /-- SCOND (R238); `spurious`: one of the causes of R239 makes it fail. -/
  | scond (t : Gtn) (d a b : RegNum) (wide spurious : Bool)
  /-- LRES_HOLD_EXPIRE (R240). -/
  | lresHoldExpire (t : Gtn)
  /-- CRC32C (R119) over 1, 2, 4 or 8 bytes: size code 0 to 3. -/
  | crc32c (t : Gtn) (d a b : RegNum) (size : BitVec 2)
  /-- PAR (R118); b must be 0. -/
  | par (t : Gtn) (d a b : RegNum)
  /-- POPC (R118). -/
  | popc (t : Gtn) (d a b : RegNum)
  /-- BREV8 (R118). -/
  | brev8 (t : Gtn) (d a b : RegNum)
  /-- BREV64 (R118). -/
  | brev64 (t : Gtn) (d a b : RegNum)
  /-- CLZ (R118). -/
  | clz (t : Gtn) (d a b : RegNum)
  /-- CTZ (R118). -/
  | ctz (t : Gtn) (d a b : RegNum)
  /-- BMOVE (R114); at most `chunks` chunks run in this command. -/
  | bmove (t : Gtn) (d a b : RegNum) (chunks : Nat)
  /-- BFILL (R114). -/
  | bfill (t : Gtn) (d a b : RegNum) (chunks : Nat)
  /-- BCRC (R115). -/
  | bcrc (t : Gtn) (d a b : RegNum) (chunks : Nat)
  /-- FENCE_C (R224); `zero` holds bits [17:0], which must be zero. -/
  | fenceC (t : Gtn) (p q : BitVec 3) (zero : BitVec 18)
  /-- FENCE_D (R219). -/
  | fenceD (t : Gtn) (p q : BitVec 3) (zero : BitVec 18)
  /-- FENCE_S (R221). -/
  | fenceS (t : Gtn) (p q : BitVec 3) (zero : BitVec 18)
  /-- WC_BUFFER_TIMEOUT (R228). -/
  | wcBufferTimeout (t : Gtn) (line : BitVec 46)
  /-- CRRD (R94); every SYS field is carried, and unused ones must be zero (R120). -/
  | crrd (t : Gtn) (d a : RegNum) (crn : BitVec 12)
  /-- CRWR (R94). -/
  | crwr (t : Gtn) (d a : RegNum) (crn : BitVec 12)
  /-- CRSET (R94). -/
  | crset (t : Gtn) (d a : RegNum) (crn : BitVec 12)
  /-- CRCLR (R94). -/
  | crclr (t : Gtn) (d a : RegNum) (crn : BitVec 12)
  /-- TRAP (R135). -/
  | trap (t : Gtn) (d a : RegNum) (code : BitVec 12)
  /-- TRAP_ENTRY (R139): the thread takes a deliverable asynchronous cause, or the exception of a word that no row spells (R99). -/
  | trapEntry (t : Gtn) (word : Option W32)
  /-- TRET (R158). -/
  | tret (t : Gtn) (d a : RegNum) (crn : BitVec 12)
  /-- GATE (R547). -/
  | gate (t : Gtn) (d a : RegNum) (crn : BitVec 12)
  /-- GMARK (R121). -/
  | gmark (t : Gtn) (d a : RegNum) (crn : BitVec 12)
  /-- GRET (R552). -/
  | gret (t : Gtn) (d a : RegNum) (crn : BitVec 12)
  /-- WAIT (R523). -/
  | wait (t : Gtn) (d a : RegNum) (crn : BitVec 12)
  /-- WAIT_WAKE (R523). -/
  | waitWake (t : Gtn)
  /-- DUST_SHEET_THREAD_WAKE (R525). -/
  | dustSheetThreadWake (t : Gtn)
  /-- TLBI_VA (R195); `hi` holds crn[11:6], which must be zero. -/
  | tlbiVA (t : Gtn) (d a : RegNum) (scope : BitVec 2) (hi : BitVec 6)
  /-- TLBI_VAALL (R195). -/
  | tlbiVAALL (t : Gtn) (d a : RegNum) (scope : BitVec 2) (hi : BitVec 6)
  /-- TLBI_ASID (R195). -/
  | tlbiASID (t : Gtn) (d a : RegNum) (scope : BitVec 2) (hi : BitVec 6)
  /-- TLBI_REGIME (R195). -/
  | tlbiREGIME (t : Gtn) (d a : RegNum) (scope : BitVec 2) (hi : BitVec 6)
  /-- TLBI_IA (R195). -/
  | tlbiIA (t : Gtn) (d a : RegNum) (scope : BitVec 2) (hi : BitVec 6)
  /-- TLBI_VMID (R195). -/
  | tlbiVMID (t : Gtn) (d a : RegNum) (scope : BitVec 2) (hi : BitVec 6)
  /-- TLBI_PART (R195). -/
  | tlbiPART (t : Gtn) (d a : RegNum) (scope : BitVec 2) (hi : BitVec 6)
  /-- INSTRUCTION_RETIRE (R57): the entry of `line` retires; `fetch` names the fetch fill buffer, `pc` the instruction that trains the prefetchers. -/
  | instructionRetire (t : Gtn) (line : BitVec 46) (fetch : Bool) (pc : W64)
  /-- LOAD_SETTLES (R55). -/
  | loadSettles (t : Gtn) (line : BitVec 46)
  /-- CACHE_DISABLE_REQUEST (R48): a write of CORE_CACHE_CTL of a core, or of DCACHE_CTL. -/
  | cacheDisableRequest (who : Who) (die : CDie) (core : Option PCore) (v : W64)
  /-- CACHE_CLEAN_DONE (R49). -/
  | cacheCleanDone (die : CDie) (core : Option PCore)
  /-- MIGRATE_START (R75): a write of DCTL_MIGRATE. -/
  | migrateStart (who : Who) (die : CDie) (v : W64)
  /-- MIGRATION_SOURCE_CLEANED (R75). -/
  | migrationSourceCleaned (die : CDie)
  /-- MIGRATION_DONE (R75). -/
  | migrationDone (die : CDie)
  /-- DEVICE_TIMEOUT (R233). -/
  | deviceTimeout (port : PortNum) (t : Gtn)
  /-- DP_STORE_ERROR_MESSAGE (R233). -/
  | dpStoreErrorMessage (port : PortNum) (t : Gtn)
  /-- PORT_LINK_DOWN (R235). -/
  | portLinkDown (port : PortNum)
  /-- RDS (R262): a request of an agent for a line reaches its home. -/
  | rds (a : AgentRef) (l : Line) (part : PartId) (world : Bool) (chk : Check)
  /-- RDO (R262). -/
  | rdo (a : AgentRef) (l : Line) (part : PartId) (world : Bool) (chk : Check)
  /-- UPG (R262). -/
  | upg (a : AgentRef) (l : Line) (part : PartId) (world : Bool) (chk : Check)
  /-- OWN (R262). -/
  | own (a : AgentRef) (l : Line) (part : PartId) (world : Bool) (chk : Check)
  /-- RDC (R262). -/
  | rdc (a : AgentRef) (l : Line) (part : PartId) (world : Bool) (chk : Check)
  /-- RDP (R53). -/
  | rdp (a : AgentRef) (l : Line) (part : PartId) (world : Bool) (chk : Check)
  /-- STN (R55): the notice overtakes the read it follows. -/
  | stn (a : AgentRef) (l : Line) (part : PartId) (world : Bool) (chk : Check)
  /-- WRF (R263); `relaxed`: the TLP carries the Relaxed Ordering attribute, or the write is a core's. -/
  | wrf (a : AgentRef) (l : Line) (part : PartId) (world relaxed : Bool) (data : V512) (chk : Check)
  /-- WRP (R263). -/
  | wrp (a : AgentRef) (l : Line) (part : PartId) (world relaxed : Bool) (mask : W64) (data : V512) (chk : Check)
  /-- CMT (R32). -/
  | cmt (a : AgentRef) (l : Line) (chk : Check)
  /-- WB (R262). -/
  | wb (a : AgentRef) (l : Line) (part : PartId) (world : Bool) (chk : Check)
  /-- EVC (R262). -/
  | evc (a : AgentRef) (l : Line) (part : PartId) (world : Bool) (chk : Check)
  /-- EVF (R270). -/
  | evf (a : AgentRef) (l : Line) (part : PartId) (world : Bool) (chk : Check)
  /-- DIRECTORY_WRITEBACK_DRAIN (R257): the entry of a line, or of the region of a far-tier line. -/
  | directoryWritebackDrain (l : Line)
  /-- RCS (R266): a snoop reaches an agent. -/
  | rcs (a : AgentRef) (l : Line) (part : PartId) (world : Bool) (chk : Check)
  /-- RCI (R266). -/
  | rci (a : AgentRef) (l : Line) (part : PartId) (world : Bool) (chk : Check)
  /-- RCC (R266). -/
  | rcc (a : AgentRef) (l : Line) (part : PartId) (world : Bool) (chk : Check)
  /-- INV (R266). -/
  | inv (a : AgentRef) (l : Line) (part : PartId) (world : Bool) (chk : Check)
  /-- PRB (R266). -/
  | prb (a : AgentRef) (l : Line) (part : PartId) (world : Bool) (chk : Check)
  /-- FAP (R266). -/
  | fap (a : AgentRef) (l : Line) (part : PartId) (world : Bool) (chk : Check)
  /-- ACK (R259): an answer reaches the home with its flags. -/
  | ack (a : AgentRef) (l : Line) (absent wbpend present : Bool) (chk : Check)
  /-- ACKF (R270). -/
  | ackf (a : AgentRef) (l : Line) (chk : Check)
  /-- RCD (R261); `lines`: the line mask of a far-tier region's answer (R266). -/
  | rcd (a : AgentRef) (l : Line) (lines : BitVec 16) (chk : Check)
  /-- GNT_E (R265): a grant reaches its requester. -/
  | gntE (a : AgentRef) (l : Line) (chk : Check)
  /-- GNT_S (R265). -/
  | gntS (a : AgentRef) (l : Line) (chk : Check)
  /-- GNT_F (R265). -/
  | gntF (a : AgentRef) (l : Line) (chk : Check)
  /-- DATA (R259). -/
  | data (a : AgentRef) (l : Line) (chk : Check)
  /-- GNT_O (R259). -/
  | gntO (a : AgentRef) (l : Line) (chk : Check)
  /-- RDY (R263). -/
  | rdy (a : AgentRef) (l : Line) (chk : Check)
  /-- DONE (R263). -/
  | done (a : AgentRef) (l : Line) (chk : Check)
  /-- WBA (R272). -/
  | wba (a : AgentRef) (l : Line) (chk : Check)
  /-- DFR (R54): the answer to a provisional read of a thread. -/
  | dfr (t : Gtn) (l : Line) (chk : Check)
  /-- REF (R62). -/
  | ref (a : AgentRef) (l : Line) (chk : Check)
  /-- SNOOP_TIMEOUT (R279): the agent that has not answered. -/
  | snoopTimeout (a : AgentRef) (l : Line)
  /-- POISON_ENTRY_HOLD_EXPIRE (R279). -/
  | poisonEntryHoldExpire (l : Line)
  /-- AGENT_FENCE (R283, R284): a write of HOME_FENCE0, or of HOME_FENCE1 when `engines`. -/
  | agentFence (who : Who) (engines : Bool) (v : W64)
  /-- ISET_B_WRITE (R288): a write of HOME_ISETnn_B. -/
  | isetBWrite (who : Who) (nn : Fin 32) (half : Half) (v : W64)
  /-- ISET_A_WRITE (R288): a write of HOME_ISETnn_A. -/
  | isetAWrite (who : Who) (nn : Fin 32) (half : Half) (v : W64)
  /-- ISET_APPLY (R289). -/
  | isetApply (nn : Fin 32)
  /-- RC_QUOTA_APPLY (R303): in one slice, for one partition. -/
  | rcQuotaApply (slice : SliceNum) (p : PartId)
  /-- RC_SCRUB_READ (R305): the line read and what its error codes show. -/
  | rcScrubRead (l : Line) (err : RcErr)
  /-- CXL_READ_TIMEOUT (R299): the line whose read has no answer. -/
  | cxlReadTimeout (l : Line)
  /-- MEM_INIT_GIB_DONE (R314). -/
  | memInitGibDone (gib : BitVec 18)
  /-- HOTSNAP_COPY (R319): a write of HOME_HOTSNAPnn whose OP is 0b01; the command fixes OP, `v` gives the other fields. -/
  | hotsnapCopy (who : Who) (nn : Fin 12) (v : W64)
  /-- HOTSNAP_COPY_CLEAR (R319): OP 0b10. -/
  | hotsnapCopyClear (who : Who) (nn : Fin 12) (v : W64)
  /-- HOTSNAP_COPY_HALVE (R319): OP 0b11. -/
  | hotsnapCopyHalve (who : Who) (nn : Fin 12) (v : W64)
  /-- HOTSNAP_DONE (R319). -/
  | hotsnapDone (nn : Fin 12)
  /-- PATROL_SCRUB_READ (R320): the line read, and what the code shows. -/
  | patrolScrubRead (l : Line) (out : ScrubOut)
  /-- CORRECTIVE_REWRITE (R321). -/
  | correctiveRewrite (l : Line)
  /-- DIRECTORY_SWEEP_START (R322): a write of MEMC_SCRUB with SWEEP = 1; the command fixes SWEEP. -/
  | directorySweepStart (who : Who) (ch : Fin 24) (v : W64)
  /-- DIRECTORY_SWEEP_DONE (R322). -/
  | directorySweepDone (ch : Fin 24)
  /-- RANK_SPARE_START (R326): a write of MEMC_SPARE with START = 1; the command fixes START. -/
  | rankSpareStart (who : Who) (ch : Fin 24) (v : W64)
  /-- RANK_SPARE_DONE (R327). -/
  | rankSpareDone (ch : Fin 24)
  /-- CHANNEL_FAIL (R328). -/
  | channelFail (ch : Fin 24)
  /-- DOORBELL (R334): a write of SKM_QTAILq of a hub engine's block. -/
  | doorbell (who : Who) (q : QueueNum) (half : Half) (v : W64)
  /-- QUEUE_BASE_APPLY (R332). -/
  | queueBaseApply (q : QueueNum)
  /-- DESCRIPTOR_READ (R338): from the queue whose turn it is (R344). -/
  | descriptorRead
  /-- JOB_STEER (R340). -/
  | jobSteer (slot : JobSlot)
  /-- PIECE_START (R345). -/
  | pieceStart (n : EngNum)
  /-- PIECE_END (R346): a step of a piece's end; with a word, the encoding at the PC that no instruction has (R388). -/
  | pieceEnd (n : EngNum) (word : Option W32)
  /-- APPEND_CHUNK_REQUEST (R354). -/
  | appendChunkRequest (n : EngNum)
  /-- COMPLETION_WRITE (R368). -/
  | completionWrite (slot : JobSlot)
  /-- JOB_TIMEOUT (R371). -/
  | jobTimeout (slot : JobSlot)
  /-- ELC_GROUP_POWER_REQUEST (R361): a write of SKM_ELCPWR. -/
  | elcGroupPowerRequest (who : Who) (n : EngNum) (v : W64)
  /-- ELC_GROUP_CLEAN_DONE (R361). -/
  | elcGroupCleanDone (n : EngNum) (g : Fin 6)
  /-- SP_BANK_POWER_CHANGE (R364): a write of SKM_SPPWR. -/
  | spBankPowerChange (who : Who) (n : EngNum) (v : W64)
  /-- SCRATCHPAD_ZERO_DONE (R363): zeroing of one bank ends. -/
  | scratchpadZeroDone (n : EngNum) (bank : Fin 16)
  /-- HOST_SCRATCHPAD_ACCESS (R367): an access at an offset of the scratchpad window. -/
  | hostScratchpadAccess (who : Who) (n : EngNum) (off : BitVec 19) (half : Half) (write : Bool) (v : W64)
  /-- SKIM_ALU (R390). -/
  | skimAlu (n : EngNum) (d a b : SReg) (func : BitVec 13)
  /-- SKIM_ADDI (R390). -/
  | skimAddi (n : EngNum) (d a : SReg) (imm : BitVec 17)
  /-- SKIM_LOGIC_IMMEDIATE (R390). -/
  | skimLogicImmediate (n : EngNum) (op : LogicOp) (d a : SReg) (imm : BitVec 17)
  /-- LIS (R390). -/
  | lis (n : EngNum) (d a : SReg) (imm : BitVec 17)
  /-- SKIM_SHIFT_IMMEDIATE (R390). -/
  | skimShiftImmediate (n : EngNum) (d a : SReg) (imm : BitVec 17)
  /-- LOOP (R412); `z` holds bits [10:9], which must be zero. -/
  | loop (n : EngNum) (z lvl : BitVec 2) (a : SReg) (off : BitVec 17)
  /-- SKIM_LOAD (R395). -/
  | skimLoad (n : EngNum) (k : LoadKind) (d a : SReg) (imm : BitVec 17)
  /-- SKIM_STORE (R395). -/
  | skimStore (n : EngNum) (k : StoreKind) (d a : SReg) (imm : BitVec 17)
  /-- SKIM_VLD (R396); `d` names a w register. -/
  | skimVld (n : EngNum) (d a b : SReg) (off : BitVec 13)
  /-- SKIM_VST (R396). -/
  | skimVst (n : EngNum) (d a b : SReg) (off : BitVec 13)
  /-- SKIM_VECTOR_ALU (R391). -/
  | skimVectorAlu (n : EngNum) (f : VxFields) (func : BitVec 11)
  /-- SKIM_VECTOR_SHIFT (R391). -/
  | skimVectorShift (n : EngNum) (f : VxFields) (func : BitVec 11)
  /-- VCMP (R376). -/
  | vcmp (n : EngNum) (f : VxFields) (func : BitVec 11)
  /-- VCMPS (R376). -/
  | vcmps (n : EngNum) (f : VxFields) (func : BitVec 11)
  /-- VCPRS (R397). -/
  | vcprs (n : EngNum) (f : VxFields)
  /-- SKIM_VBCAST (R397). -/
  | skimVbcast (n : EngNum) (f : VxFields)
  /-- VEXT (R397). -/
  | vext (n : EngNum) (f : VxFields)
  /-- VINS (R397). -/
  | vins (n : EngNum) (f : VxFields)
  /-- VHMIX (R399). -/
  | vhmix (n : EngNum) (f : VxFields)
  /-- VCRC32C (R400). -/
  | vcrc32c (n : EngNum) (f : VxFields)
  /-- DLOOK (R398). -/
  | dlook (n : EngNum) (f : VxFields)
  /-- SKIM_CRC32C (R400). -/
  | skimCrc32c (n : EngNum) (d a b : SReg) (size : BitVec 2)
  /-- CRCP (R400). -/
  | crcp (n : EngNum) (d a b : SReg) (size : BitVec 2)
  /-- SKIM_BIT_HELPER (R400). -/
  | skimBitHelper (n : EngNum) (d a b : SReg) (func : BitVec 13)
  /-- HMIX (R399). -/
  | hmix (n : EngNum) (d a b : SReg)
  /-- SRD (R375). -/
  | srd (n : EngNum) (d : SReg) (sr : BitVec 8)
  /-- SWR (R375). -/
  | swr (n : EngNum) (sr : BitVec 8) (a : SReg)
  /-- SADV (R384). -/
  | sadv (n : EngNum) (a : SReg) (imm : BitVec 8)
  /-- EMITV (R401). -/
  | emitv (n : EngNum) (a : SReg) (imm : BitVec 8)
  /-- EMITM (R401). -/
  | emitm (n : EngNum) (a b : SReg)
  /-- PREF (R402). -/
  | pref (n : EngNum) (a : SReg)
  /-- PLOCK (R402). -/
  | plock (n : EngNum) (a : SReg)
  /-- SKIM_BRANCH (R407). -/
  | skimBranch (n : EngNum) (c : Cond) (a b : SReg) (an : Bool) (off : BitVec 16)
  /-- SKIM_JAL (R407). -/
  | skimJal (n : EngNum) (d : SReg) (off : BitVec 21)
  /-- SKIM_JALR (R407). -/
  | skimJalr (n : EngNum) (d a : SReg)
  /-- END (R403). -/
  | skEnd (n : EngNum)
  /-- C_MV (R392). -/
  | cMv (n : EngNum) (d a : SReg)
  /-- C_ALU (R392): op 1 to 5. -/
  | cAlu (n : EngNum) (op : BitVec 3) (d a : SReg)
  /-- C_SADV (R392). -/
  | cSadv (n : EngNum) (d a : SReg)
  /-- C_NOP (R392). -/
  | cNop (n : EngNum) (a : SReg)
  /-- C_END (R392). -/
  | cEnd (n : EngNum) (a : SReg)
  /-- C_ADDI (R392). -/
  | cAddi (n : EngNum) (d : SReg) (imm : BitVec 10)
  /-- C_SETBANK (R378); `z` holds bits [15:14], which must be zero. -/
  | cSetbank (n : EngNum) (z : BitVec 2) (bank : BitVec 8)
  /-- C_BEQZ (R392). -/
  | cBeqz (n : EngNum) (a : SReg) (an : Bool) (off : BitVec 8)
  /-- C_BNEZ (R392). -/
  | cBnez (n : EngNum) (a : SReg) (an : Bool) (off : BitVec 8)
  /-- HALT (R421): a write of HALT in SKM_DBGCTL. -/
  | halt (who : Who) (n : EngNum)
  /-- RESUME (R421). -/
  | resume (who : Who) (n : EngNum)
  /-- STEP (R421). -/
  | step (who : Who) (n : EngNum)
  /-- BREAKPOINT_HALT (R421). -/
  | breakpointHalt (n : EngNum)
  /-- DEBUG_PORT_HALT (R421). -/
  | debugPortHalt (n : EngNum)
  /-- REGISTER_READ_REQUEST (R434): a register or MMIO read of 1, 2, 4 or 8 bytes (size code 0 to 3). -/
  | registerReadRequest (who : Who) (pa : BitVec 52) (size : BitVec 2) (chk : Check)
  /-- REGISTER_WRITE_REQUEST (R434). -/
  | registerWriteRequest (who : Who) (pa : BitVec 52) (size : BitVec 2) (v : W64) (chk : Check)
  /-- MMIO_POSTED_WRITE (R229): the posted write of a thread's D-P store reaches its port. -/
  | mmioPostedWrite (who : Who) (pa : BitVec 52) (size : BitVec 2) (v : W64) (chk : Check)
  /-- REGISTER_COMPLETION (R228): the device access of a thread completes with data, or with an error of R232. -/
  | registerCompletion (t : Gtn) (data : W64) (cpl : DevCpl) (chk : Check)
  /-- POSTED_ACKNOWLEDGEMENT (R229): of a thread's D-P store. -/
  | postedAcknowledgement (t : Gtn) (chk : Check)
  /-- EVENT_MESSAGE (R615): the oldest event message sent to a thread lands. -/
  | eventMessage (t : Gtn)
  /-- TREQ (R440): `wb` asks for a write-back slot. -/
  | treq (dst src : StopRef) (wb : Bool)
  /-- TGNT (R440): the grant of a slot reaches its source, or (`back`) the source's return of one reaches the destination. -/
  | tgnt (dst src : StopRef) (wb : Bool) (slot : BitVec 8) (back : Bool)
  /-- EPOCH_UPDATE (R452): the update of a die's epoch reaches a stop. -/
  | epochUpdate (die : DieIx) (stop : StopRef)
  /-- OPEN (R451): from the edge of a domain to a source that it answered with ASLEEP. -/
  | openEdge (dst src : StopRef)
  /-- ASLEEP (R451): the answer of a domain's edge to a request of an opcode for a line. -/
  | asleep (dst src : StopRef) (op : BitVec 6) (l : Line) (waking : Bool)
  /-- STALE (R453). -/
  | stale (p : StalePkt)
  /-- FERR (R443). -/
  | ferr (r : FerrReq)
  /-- REQUESTER_WATCHDOG (R443). -/
  | requesterWatchdog (r : FerrReq)
  /-- ROLE_CHANGE (R452): of the unit at a stop. -/
  | roleChange (stop : StopRef)
  /-- DOMAIN_CLOSING (R449): domain `dom` of a die's PWR_DOM toward state `st` (2 Matt, 3 Dust sheet). -/
  | domainClosing (die : DieIx) (dom : BitVec 6) (st : BitVec 2)
  /-- TORUS_FRAME (R446): a frame reaches its destination. -/
  | torusFrame (f : FrameRef)
  /-- TORUS_ACKNOWLEDGEMENT (R447): of a frame from `src` to `dst`. -/
  | torusAcknowledgement (src dst : TNode) (seq : BitVec 8)
  /-- TORUS_RESEND_TIMEOUT (R447). -/
  | torusResendTimeout (src dst : TNode) (seq : BitVec 8)
  /-- ASSIGN (R460): from the hub to the die, or the die's echo. -/
  | assign (hp : HubPort) (id : BitVec 8) (hpArg : BitVec 4) (echo : Bool)
  /-- RMAP (R460): to the hub end, or to the die end, of a link. -/
  | rmap (hp : HubPort) (toHub : Bool) (group : BitVec 4) (dir : Bool) (fail0 fail1 : BitVec 8)
  /-- REPAIR (R464): `late`: an echo that arrives after the switch SEQ; `seq` is the new one then. -/
  | repair (hp : HubPort) (toHub : Bool) (group : BitVec 4) (pos : BitVec 8) (seq : BitVec 6) (echo late : Bool)
  /-- SLEEP (R478): 1 Matt, 2 Dust sheet. -/
  | sleepLink (hp : HubPort) (toHub : Bool) (mode : BitVec 2) (ack : Bool)
  /-- RETRAIN (R465). -/
  | retrain (hp : HubPort) (full : Bool)
  /-- LINK_TRAINING_DONE (R465, R466). -/
  | linkTrainingDone (hp : HubPort) (e : TrainEnd)
  /-- HEARTBEAT_LOSS (R476): seen at the hub end or at the die end. -/
  | heartbeatLoss (hp : HubPort) (atHub : Bool)
  /-- SCRIM_WAKE_TOGGLE (R478). -/
  | scrimWakeToggle (hp : HubPort)
  /-- SCRIM_RECAL_PASS (R482): of the receiver at one end; `closed` lists the wires found closed, as group and position. -/
  | scrimRecalPass (hp : HubPort) (atHub : Bool) (closed : List (BitVec 4 × BitVec 8))
  /-- LATH_ENVELOPE (R467): an envelope reaches a port of a node. -/
  | lathEnvelope (n : TNode) (p : LPort) (lseq : BitVec 8) (f : FrameRef) (crc16Ok : Bool)
  /-- LATH_REPLAY_TIMEOUT (R467): at the port that sent. -/
  | lathReplayTimeout (n : TNode) (p : LPort)
  /-- LATH_HANDSHAKE (R468): the lane-fail marks of this end and of the peer, the coordinate that the peer offers, and whether the handshake ended in time. -/
  | lathHandshake (n : TNode) (p : LPort) (own peer : BitVec 2) (coord : Option (BitVec 8)) (inTime : Bool)
  /-- LANE_SLEEP_ENTRY (R470). -/
  | laneSleepEntry (n : TNode) (p : LPort)
  /-- LINK_CHIRP (R470): received at a port. -/
  | linkChirp (n : TNode) (p : LPort)
  /-- DIE_CHIRP (R470): received at a port. -/
  | dieChirp (n : TNode) (p : LPort)
  /-- LATH_RETRAIN (R469): a write of RETRAIN. -/
  | lathRetrain (who : Who) (n : TNode) (p : LPort)
  /-- UNHOLD (R469): a write of UNHOLD. -/
  | unhold (who : Who) (n : TNode) (p : LPort)
  /-- LATH_REEQUALISE (R483): a lane's re-equalisation begins, or ends (`done`). -/
  | lathReequalise (n : TNode) (p : LPort) (lane : Bool) (done : Bool)
  /-- CFG_LOAD (R497): a write of LOAD. -/
  | cfgLoad (who : Who)
  /-- CFG_LOAD_DONE (R494). -/
  | cfgLoadDone
  /-- CFG_APPLY (R497): a write of APPLY. -/
  | cfgApply (who : Who)
  /-- CFG_ROLLBACK (R497): a write of ROLLBACK. -/
  | cfgRollback (who : Who)
  /-- CFG_ABORT (R497): a write of ABORT. -/
  | cfgAbort (who : Who)
  /-- STAGED_SECTION_APPLY (R504): a staged section, by its type. -/
  | stagedSectionApply (type : BitVec 4)
  /-- APPLY_TIMEOUT (R497). -/
  | applyTimeout
  /-- CFG_CONFIRM (R499): a write of CFG_CONFIRM. -/
  | cfgConfirm (who : Who) (half : Half) (v : W64)
  /-- CONFIRM_WINDOW_EXPIRE (R497). -/
  | confirmWindowExpire
  /-- ROLLBACK_DONE (R497). -/
  | rollbackDone
  /-- EXPLICIT_APPLY (R502): a write of CFG_APPLY. -/
  | explicitApply (who : Who) (half : Half) (v : W64)
  /-- DIE_LEAVES_PARTITION (R508). -/
  | dieLeavesPartition (die : CDie)
  /-- GIB_OWNER_CHANGE (R509). -/
  | gibOwnerChange (gib : BitVec 18)
  /-- GIB_RELEASE_SWEEP_DONE (R509). -/
  | gibReleaseSweepDone (gib : BitVec 18)
  /-- DOMAIN_STATE_REQUEST (R521): a write of PWR_DOMnn. -/
  | domainStateRequest (who : Who) (die : DieIx) (dom : BitVec 6) (half : Half) (v : W64)
  /-- DOMAIN_TRANSITION_DONE (R521). -/
  | domainTransitionDone (die : DieIx) (dom : BitVec 6)
  /-- DOMAIN_IDLE_TIMEOUT (R520). -/
  | domainIdleTimeout (die : DieIx) (dom : BitVec 6)
  /-- DOMAIN_WAKE (R522): the wake source and its DETAIL (R529). -/
  | domainWake (die : DieIx) (dom : BitVec 6) (src : BitVec 4) (detail : BitVec 6)
  /-- DIE_WAKE_FROM_DUST_SHEET (R527). -/
  | dieWakeFromDustSheet (die : CDie)
  /-- EDGE_RELEASE (R528): a write of PWR_EDGEREL. -/
  | edgeRelease (who : Who) (half : Half) (v : W64)
  /-- AO_TIMER_FIRE (R530). -/
  | aoTimerFire (die : DieIx)
  /-- SHELD_SET (R532): a write of PWR_DOMnn that sets SHELD and leaves its other fields as they are. -/
  | sheldSet (who : Who) (die : DieIx) (dom : BitVec 6)
  /-- DEEP_IDLE_ENTER (R534): `low` lists the ports whose links are in L1 or deeper. -/
  | deepIdleEnter (low : List PortNum)
  /-- DEEP_IDLE_EXIT (R535): the package wake source and its DETAIL. -/
  | deepIdleExit (src : BitVec 4) (detail : BitVec 6)
  /-- STAGE_CURRENT_SAMPLE (R513): the output of a stage group in thousandths of its rating. -/
  | stageCurrentSample (die : DieIx) (permille : BitVec 12)
  /-- VIN_SAMPLE (R514): the 48 V input in units of 0.1 V. -/
  | vinSample (dv : BitVec 12)
  /-- SUPPLY_RESTORED (R514). -/
  | supplyRestored
  /-- BUDGET_TICK (R540): logic power over the last 1 ms, and the budget of each die by index. -/
  | budgetTick (nowW : BitVec 12) (budgets : List Nat)
  /-- FCEIL_UPDATE (R540): the ceiling that the die's controller sets on a cluster. -/
  | fceilUpdate (die : CDie) (cluster : Bool) (f : BitVec 8)
  /-- CLUSTER_FREQUENCY_STEP (R539). -/
  | clusterFrequencyStep (die : CDie) (cluster : Bool)
  /-- THERMAL_CONTROL_TICK (R543): the hottest sensor and its temperature, and the hottest cluster. -/
  | thermalControlTick (die : DieIx) (tmax sensor : BitVec 8) (cluster : Bool)
  /-- FAST_THROTTLE (R543). -/
  | fastThrottle (die : DieIx) (tmax sensor : BitVec 8)
  /-- THERMAL_TRIP (R543). -/
  | thermalTrip (die : DieIx) (tmax sensor : BitVec 8)
  /-- SECURE_WATCHDOG (R554). -/
  | secureWatchdog (t : Gtn)
  /-- ACTIVATION_END_ARM (R555): a write of CORE_SECACT. -/
  | activationEndArm (who : Who) (die : CDie) (pcore : PCore) (v : W64)
  /-- SECURE_STATE_WRITE (R546): a write of SEC_SWCTLnn. -/
  | secureStateWrite (who : Who) (p : PartIx) (half : Half) (v : W64)
  /-- MARK_SECURE (R561): a write of SEC_RNGCMDnn with OP 0b01. -/
  | markSecure (who : Who) (p : PartIx) (gib : BitVec 18)
  /-- UNMARK_SECURE (R561): a write of SEC_RNGCMDnn with OP 0b10. -/
  | unmarkSecure (who : Who) (p : PartIx) (gib : BitVec 18)
  /-- SECURE_ENGINE_RESERVE (R562): a write of SEC_SENG. -/
  | secureEngineReserve (who : Who) (half : Half) (v : W64)
  /-- PRIMER_START (R569); `bad`: the slots whose flash answers a read of the manifest or of the Sizing loader with an error. -/
  | primerStart (bad : List (Fin 2))
  /-- SIZING_LOADER_START (R566): what discovery finds at the hub ports, and what training and the memory devices show. -/
  | sizingLoaderStart (disc : List (HubPort × DiscRes)) (mem : MemReport)
  /-- BOOT_RESTART (R574): with the REASON of the failure. -/
  | bootRestart (reason : BitVec 8)
  /-- BOOT_THREAD_RELEASE (R578). -/
  | bootThreadRelease (p : PartIx)
  /-- FLOOR_RAISE (R575): a write of SEC_FLOOR with GO. -/
  | floorRaise (who : Who) (v : W64)
  /-- KEY_REVOKE (R576): a write of SEC_KEYREV with GO. -/
  | keyRevoke (who : Who) (v : W64)
  /-- FLASH_ERASE (R580): a write of SEC_FLASHCMD with GO and OP 0b01. -/
  | flashErase (who : Who) (slot : Bool) (foff : BitVec 32)
  /-- FLASH_PROGRAM (R580): OP 0b10. -/
  | flashProgram (who : Who) (slot : Bool) (foff : BitVec 32)
  /-- FLASH_READ (R580): OP 0b11. -/
  | flashRead (who : Who) (slot : Bool) (foff : BitVec 32)
  /-- MREG_EXTEND (R577): a write of SEC_MEXT with GO. -/
  | mregExtend (who : Who) (v : W64)
  /-- FLASH_OP_DONE (R580): `err`: the flash reported an error. -/
  | flashOpDone (err : Bool)
  /-- FUSE_BURN_DONE (R575): of the floor's fuses, or of a key's revocation fuse. -/
  | fuseBurnDone (floor : Bool)
  /-- METER_SAMPLE (R588): the voltage in mV and the current in mA of each of the 17 channels. -/
  | meterSample (s : List (Nat × Nat))
  /-- INTERVAL_CLOSE (R595). -/
  | intervalClose
  /-- OWNER (R592): an OWNER frame arrives at the meter. -/
  | owner (die : CDie) (o : PartId)
  /-- OWNER_RESEND (R592). -/
  | ownerResend
  /-- TRAFFIC (R593). -/
  | traffic
  /-- TRAFFIC_LATE (R593). -/
  | trafficLate
  /-- METER_SUPPLY_LOSS (R587). -/
  | meterSupplyLoss
  /-- METER_SUPPLY_RESTORE (R587): the meter time at its return. -/
  | meterSupplyRestore (ms : W64)
  /-- SEAL_OPEN (R600). -/
  | sealOpen
  /-- SEAL_CLOSE (R600). -/
  | sealClose
  /-- IDENT (R599). -/
  | ident
  /-- GETREC (R599). -/
  | getrec (rseq : W64)
  /-- GETLATEST (R599). -/
  | getlatest
  /-- GETLOG (R599). -/
  | getlog (ix : BitVec 16)
  /-- SYNC (R599): a signed adjustment in ms. -/
  | sync (adj : BitVec 32)
  /-- CALWRITE (R601). -/
  | calwrite (data : List Byte)
  /-- FWLOAD (R599). -/
  | fwload (off : BitVec 32) (data : List Byte)
  /-- FWCOMMIT (R601): the version that the manifest names, and the manifest's bytes. -/
  | fwcommit (version : BitVec 32) (manifest : List Byte)
  /-- SETADDR (R599). -/
  | setaddr (addr : BitVec 8)
  /-- VERIFY (R599). -/
  | verify (id : List Byte)
  /-- METER_RECORD_DELIVERY (R603): the oldest record or reply on its way to MTRX arrives. -/
  | meterRecordDelivery
  /-- MTRX_IDENT (R604): OP IDENT. -/
  | mtrxIdent (who : Who)
  /-- RESEND (R604): OP RESEND. -/
  | resend (who : Who) (rseq : BitVec 56)
  /-- TIMEMARK (R604): OP TIMEMARK. -/
  | timemark (who : Who)
  /-- EVENT_RAISE (R608): the oldest raise on its way reaches the router, or package services raise a service source of a partition. -/
  | eventRaise (svc : Option (PartId × BitVec 3))
  /-- EVR_ONLINE_CLEAR (R614): a write of EVR_ONLINEw. -/
  | evrOnlineClear (who : Who) (die : CDie) (half : Half) (v : W64)
  /-- SLOT_VOID (R614). -/
  | slotVoid (t : Gtn)
  /-- EVENT_CREDIT_RETURN (R615): naming the vector. -/
  | eventCreditReturn (t : Gtn) (vector : BitVec 16)
  /-- EVR_INVALIDATE (R612): a write of INV in EVR_CTLnn. -/
  | evrInvalidate (who : Who) (p : PartId)
  /-- MESSAGE_SIGNALLED_WRITE (R617): `size` bytes at a physical address of the message region. -/
  | messageSignalledWrite (w : MsgWriter) (pa : BitVec 52) (size : Nat) (data : W64)
  /-- PARTITION_FATAL (R623): with the die on which it was recorded, by ID. -/
  | partitionFatal (p : PartIx) (die : CDie)
  /-- PACKAGE_FATAL (R624). -/
  | packageFatal (kind : BitVec 8)
  /-- DIE_LOSS (R625). -/
  | dieLoss (die : CDie)
  /-- DIE_LOST_REPORT (R626). -/
  | dieLostReport (die : CDie) (complete : Bool)
  /-- PORT_DIE_LOSS (R627). -/
  | portDieLoss (die : PDie)
  /-- FIRMWARE_SWITCH (R629): a write of SWITCH in DCTL_FW. -/
  | firmwareSwitch (who : Who) (die : DieIx)
  /-- UCODE_LOAD (R630): a write of GO in SKM_UCODE. -/
  | ucodeLoad (who : Who) (n : EngNum)
  /-- UPDATE_VERIFY (R631): a write of DCTL_UPDnn_CMD with GO. -/
  | updateVerify (who : Who) (p : PartIx) (type : BitVec 8)
  /-- UPDATE_VERIFY_DONE (R631). -/
  | updateVerifyDone
  /-- FIRMWARE_SWITCH_DONE (R629): the version that runs, and whether its start-up check passed. -/
  | firmwareSwitchDone (die : DieIx) (ok : Bool) (version : BitVec 32)
  /-- UCODE_LOAD_DONE (R630). -/
  | ucodeLoadDone (n : EngNum) (ok : Bool) (version : BitVec 32)
  /-- DDR_RECALIBRATION_PASS (R633): of a channel; `bad` is a rank whose margin is below the limit. -/
  | ddrRecalibrationPass (ch : Fin 24) (bad : Option (Bool × BitVec 2))
  /-- SENSOR_CALIBRATION (R633): the sensors found more than 4 °C from the reference. -/
  | sensorCalibration (die : DieIx) (failed : BitVec 40)
  /-- HOT_PLUG_EVENT (R632): bits of the port's Slot Status register; `up`: the link came up, of a CXL memory device with the capacity in GiB that Identify Memory Device reports; `down`: the link was lost. -/
  | hotPlugEvent (port : PortNum) (bits : BitVec 16) (up down : Bool) (identify : Option Nat)
  /-- DEVICE_DMA_REQUEST (R206): `rid` is the requester ID; `pasid`: the request carries a PASID or a translated address type (R207). -/
  | deviceDmaRequest (port : PortNum) (rid : BitVec 16) (va : W64) (pasid : Bool) (op : DmaOp)
  /-- BOARD (R643). -/
  | board (r : PmpReq)
  /-- DIMM (R644). -/
  | dimm (r : PmpReq)
  /-- PORTS (R645). -/
  | ports (r : PmpReq)
  /-- PARTREQ (R647). -/
  | partreq (r : PmpReq)
  /-- LIMITS (R646). -/
  | limits (r : PmpReq)
  /-- HEALTH (R655). -/
  | health (r : PmpReq)
  /-- SLOTEVT (R648). -/
  | slotevt (r : PmpReq)
  /-- IMAGE_BEGIN (R656). -/
  | imageBegin (r : PmpReq)
  /-- IMAGE_BLOCK (R656): with the bytes of the block buffer. -/
  | imageBlock (r : PmpReq) (block : List Byte)
  /-- IMAGE_END (R656). -/
  | imageEnd (r : PmpReq)
  /-- DUMPHOLD (R641). -/
  | dumphold (r : PmpReq)
  /-- INVENTORY_TIMEOUT (R637). -/
  | inventoryTimeout
  /-- SLOT_CONTROL_WRITE (R649). -/
  | slotControlWrite (port : PortNum) (v : BitVec 16)
  /-- SLOTCTL_TIMEOUT (R649). -/
  | slotctlTimeout (port : PortNum)
  /-- WAKE_PATTERN (R653): a write of PMP_WAKE. -/
  | wakePattern (v : BitVec 32)
  /-- STATUS_BLOCK_READ (R654). -/
  | statusBlockRead
  /-- I3C_WAKE (R654): an I3C private write. -/
  | i3cWake (data : List Byte)
  /-- DYNAMIC_ADDRESS_ASSIGNMENT (R654). -/
  | dynamicAddressAssignment (addr : BitVec 7)
  /-- PKG_RESET_ASSERT (R660, R661): PKG_RESET_N goes low. -/
  | pkgResetAssert
  /-- PKG_RESET_RELEASE (R660): after `us` microseconds low; PKG_RECOV_N as sampled, none where it was not stable. -/
  | pkgResetRelease (us : Nat) (recov : Option Bool)
  /-- POWER_UP (R668). -/
  | powerUp
  /-- AO_SUPPLY_LOSS (R671). -/
  | aoSupplyLoss
  /-- REFCLK_LOSS (R673): REFCLK0 to REFCLK4. -/
  | refclkLoss (n : Fin 5)
  /-- AO_CLOCK_STOP (R673). -/
  | aoClockStop
  /-- BYPASS (R663): in the TAP of a die. -/
  | bypass (die : DieIx)
  /-- IDCODE (R663). -/
  | idcode (die : DieIx)
  /-- SAMPLE_PRELOAD (R663): the value shifted into the boundary register. -/
  | samplePreload (die : DieIx) (v : List Bool)
  /-- EXTEST (R663). -/
  | extest (die : DieIx)
  /-- EXTEST_PULSE (R663). -/
  | extestPulse (die : DieIx)
  /-- EXTEST_TRAIN (R663). -/
  | extestTrain (die : DieIx)
  /-- SAFE_POINT_APPLY (R16): the block of a register reaches its safe point. -/
  | safePointApply (pa : BitVec 52)
  /-- DP_STORE_COMPLETE (R229): the oldest D-P store of a port. -/
  | dpStoreComplete (port : PortNum)
  /-- WIRE_THRESH_REPAIR (R464): at the receiver of one end; `eye`: the wire failed its eye check. -/
  | wireThreshRepair (hp : HubPort) (atHub : Bool) (group : BitVec 4) (pos : BitVec 8) (seq : BitVec 6) (eye : Bool)
  /-- LATH_LINK_LOSS (R481). -/
  | lathLinkLoss (n : TNode) (p : LPort)
  /-- REFCLK_RESTORED (R673). -/
  | refclkRestored (n : Fin 5)
  deriving DecidableEq, Repr

end Sys2Proof
end

