-- ==== Sys2Proof/Decode.lean ====
section
/-! DEFINITION. The words of the opcode table. Its rows give no command any bits (spec/opcode_table.json: every "fields" is empty), so no word spells a command. -/

namespace Sys2Proof

/-- The command that a word spells by the table's bits: none, since the table gives no row any bits. -/
def decodeTableWord (_nbits _w : Nat) : Option Instr := none

end Sys2Proof
end

