-- ==== Sys2Proof/Config.lean ====
section
/-! DEFINITION. What an implementation fixes, and the values the spec leaves open. A constant with no body is a free value: nothing in Lean can prove a value of it. -/

namespace Sys2Proof.Config

/-- A free value of `w` bits: the n-th value that the spec leaves unpredictable (log entry 4). The state counts the values used. -/
opaque freeValue (w : Nat) : Nat → BitVec w

/-- The SHA-384 digest of a string of bytes as a 384-bit number (spec/16_boot.md R572, R577). The spec names the standard and does not give the function (log entry 6). -/
opaque sha384 : List Byte → BitVec 384

/-- Stepping letter and digit that the fuses of every die hold (spec/00_scope.md R3, R685: A2 and B1 ship). DESIGN CHOICE B1 (log entry 7). -/
def stepMajor : Nat := 2

/-- See `stepMajor`. -/
def stepMinor : Nat := 1

/-- Physical cores of a die that failed production test (spec/02_askist_core.md, CORE_STATUS FUSED_BAD). DESIGN CHOICE none (log entry 7). -/
def fusedBad (_die _pcore : Nat) : Bool := false

/-- Key slots present in the fuses (spec/16_boot.md R576). DESIGN CHOICE all four (log entry 7). -/
def keysPresent : Nat := 0xF

/-- Key slots revoked in the fuses. DESIGN CHOICE none (log entry 7). -/
def keysRevoked : Nat := 0

/-- Version floor in the fuses (spec/16_boot.md R575). DESIGN CHOICE 0 (log entry 7). -/
def versionFloor : Nat := 0

/-- Whether a result is judged tiny after rounding: IEEE 754-2019 leaves it to the implementation and spec/03_askist_instruction_set.md R95 does not say (log entry 8). -/
opaque tinyAfterRounding : Bool

/-- Whether the flush of a subnormal result that rounding left exact sets NX: R95 names UF alone (log entry 8). -/
opaque flushSetsInexact : Bool

/-- Whether a fused multiply-add of zero, infinity and a quiet NaN sets NV: IEEE 754-2019 leaves it to the implementation (log entry 8). -/
opaque fmaZeroInfNanInvalid : Bool

/-- What a DIMM's SPD image says (spec/08_memory_tiers.md R291, R292): its type (1 RDIMM, 2 MRDIMM), its ranks and the GiB of one, the device width, the rated speed in MT/s and the module parameters that two DIMMs of a channel share. -/
structure SpdInfo where
  kind : Nat
  ranks : Nat
  rankGib : Nat
  width : Nat
  rate : Nat
  params : Nat
  deriving DecidableEq, Repr, Inhabited

/-- What an SPD image says; the spec leaves the layout of the image to JEDEC (log entry 25). -/
opaque spdInfo : List Byte → SpdInfo

/-- AES-256 encryption of a block under a key (FIPS 197; spec/08_memory_tiers.md R306). The spec names the standard and does not give the function (log entry 6). -/
opaque aes256 : BitVec 256 → BitVec 128 → BitVec 128

/-- The rail, in units of 5 mV, that the fused curve of a die gives for a cluster frequency in units of 100 MHz (spec/14_power_and_clocks.md R538; log entry 59). -/
opaque railOf : Nat → Nat → BitVec 8

/-- What the section bodies of a structure image say (spec/13_partitions_and_structure_image.md R493). The spec gives the layout of the header and of the section table and none of the bodies (log entry 29). -/
structure ImageContent where
  /-- PARTITIONS: present, die-loss tolerant, and the one marked AUTHORITY (0 for none). -/
  present : List Nat
  tolerant : List Nat
  authority : Nat
  /-- DIE_ROLES: the owner of each compute die, and the excluded ones. -/
  dieOwner : List (Nat × Nat)
  excluded : List Nat
  /-- MEM_OWN: the owner of each GiB that has one. -/
  gibOwner : List (Nat × Nat)
  /-- HOME_HASH. -/
  hashId : Nat
  /-- PORT_BIFUR: the first port and the number of ports of each joined group. -/
  joined : List (Nat × Nat)
  /-- PORT_OWN and ENGINES: owners by number. -/
  portOwner : List (Nat × Nat)
  engOwner : List (Nat × Nat)
  /-- POWER: deep idle is permitted, and the dies that wake on package exit (R534, R535). -/
  deepOk : Bool
  wakeOnExit : List Nat
  /-- FABRIC: the credit totals of R439 hold. -/
  creditsOk : Bool
  /-- The registers that the sections set: section type, address of the register, and the values of its img and RWL fields. -/
  regs : List (Nat × Nat × W64)
  deriving DecidableEq, Repr, Inhabited

/-- What the section bodies of an image say; the spec leaves their layout to Molba (log entry 29). -/
opaque imageContent : List Byte → ImageContent

/-- The 48-byte KEYHASH fused in each key slot (spec/16_boot.md R576; log entry 7). -/
opaque keyHash : Nat → BitVec 384

/-- The ECDSA P-384 signature of a digest verifies with a public key (FIPS 186-5; spec/16_boot.md R572, log entry 6). -/
opaque ecdsaOk : List Byte → BitVec 384 → List Byte → Bool

/-- The ML-DSA-87 signature of a message verifies with a public key (FIPS 204; spec/16_boot.md R572, log entry 6). -/
opaque mldsaOk : List Byte → List Byte → List Byte → Bool

/-- The ECDSA P-384 signature that the meter's private key gives a digest (spec/17_energy_meter.md R595, R597, log entry 6). -/
opaque meterSign : BitVec 384 → List Byte

/-- The meter's fused serial number and its 97-byte public key (R595, R597, log entry 7). -/
opaque meterSerial : BitVec 64

/-- See `meterSerial`. -/
opaque meterKey : List Byte

/-- A meter firmware image passes the signature checks of R601 with the meter firmware keys (log entry 6). -/
opaque meterFwOk : List Byte → List Byte → Bool

/-- The size of each boot flash device in bytes: at least 64 MiB (spec/16_boot.md R567). DESIGN CHOICE 64 MiB (log entry 7). -/
def flashBytes : Nat := 0x4000000

/-- JTAG debug access is fused locked (spec/16_boot.md R578). DESIGN CHOICE locked (log entry 7). -/
def debugLocked : Bool := true

/-- Whether a PKG_RESET_N pulse of 1 µs to 10 µs resets the package (spec/20_signals_electrical_package.md R660): either may happen (log entry 4). -/
opaque shortPulseResets : Nat → Bool

/-- Onauri's manufacturer identity in a TAP's IDCODE (spec/20_signals_electrical_package.md R663), which the spec does not give (log entry 7). -/
opaque jtagMaker : BitVec 11

/-- The 8 Hamming check bits of a 128-bit slot on a scrim link (spec/12_die_links.md R461, R462), whose code the spec does not give (log entry 55). -/
opaque unitCheck : BitVec 128 → BitVec 8

/-- The check bits of the (40, 33) SEC-DED code of a K word (spec/12_die_links.md R459), which the spec does not give (log entry 55). -/
opaque kCheck : BitVec 33 → BitVec 7

end Sys2Proof.Config
end

