-- ==== Sys2Proof/Machine/RegTable.lean ====
section
/-! DEFINITION. The register window: the die kinds, the blocks and where they lie (spec/00_scope.md R6, R7), the access and class codes (R12, R16, R17), and every register of the spec's register tables with its fields, as data. -/

namespace Sys2Proof.Machine

/-- The three kinds of logic die (R6). -/
inductive DieKind where
  | hub | compute | port
  deriving DecidableEq, Repr

/-- The register blocks of R7. -/
inductive Block where
  | DCTL | SPINE | HOME | MEMC | SKM | EVR | RAS | PWR | CLK | SEC | CFG | PMP | MTRX | XTL | SLINK | LATH | PERF | RING | DCACHE | CORE | PORT
  deriving DecidableEq, Repr

/-- The access codes of R12. -/
inductive Access where
  | RW | RO | WO | W1C | W1S | RWS | RWL
  deriving DecidableEq, Repr

/-- The class codes of R16; `none` is the dash of a field that software cannot write. -/
inductive FClass where
  | L | G | S | none
  deriving DecidableEq, Repr

/-- The entries of the Reset column (R17). -/
inductive FReset where
  | val (n : Nat)
  | img
  | fuse
  deriving DecidableEq, Repr

/-- One field of a register: its bits, access code, class and reset entry. -/
structure Fld where
  hi : Nat
  lo : Nat
  acc : Access
  cls : FClass
  rst : FReset
  deriving DecidableEq, Repr

/-- The offset of a block in the register window of a die of a kind, and its instances (R7). -/
def Block.place : Block → DieKind → Option (Nat × Nat)
  | .DCTL, .hub => some (0x00000000, 1)
  | .SPINE, .hub => some (0x01000000, 1)
  | .HOME, .hub => some (0x02000000, 32)
  | .MEMC, .hub => some (0x04000000, 24)
  | .SKM, .hub => some (0x06000000, 24)
  | .EVR, .hub => some (0x08000000, 1)
  | .RAS, .hub => some (0x09000000, 1)
  | .PWR, .hub => some (0x0A000000, 1)
  | .CLK, .hub => some (0x0B000000, 1)
  | .SEC, .hub => some (0x0C000000, 1)
  | .CFG, .hub => some (0x0D000000, 1)
  | .PMP, .hub => some (0x0E000000, 1)
  | .MTRX, .hub => some (0x0F000000, 1)
  | .XTL, .hub => some (0x10000000, 1)
  | .SLINK, .hub => some (0x11000000, 1)
  | .LATH, .hub => some (0x12000000, 1)
  | .PERF, .hub => some (0x13000000, 1)
  | .DCTL, .compute => some (0x00000000, 1)
  | .RING, .compute => some (0x01000000, 1)
  | .DCACHE, .compute => some (0x02000000, 1)
  | .CORE, .compute => some (0x03000000, 34)
  | .PWR, .compute => some (0x06000000, 1)
  | .CLK, .compute => some (0x07000000, 1)
  | .RAS, .compute => some (0x08000000, 1)
  | .SLINK, .compute => some (0x09000000, 1)
  | .PERF, .compute => some (0x0A000000, 1)
  | .LATH, .compute => some (0x0B000000, 1)
  | .DCTL, .port => some (0x00000000, 1)
  | .PORT, .port => some (0x01000000, 16)
  | .SKM, .port => some (0x03000000, 8)
  | .XTL, .port => some (0x04000000, 1)
  | .PWR, .port => some (0x05000000, 1)
  | .CLK, .port => some (0x06000000, 1)
  | .RAS, .port => some (0x07000000, 1)
  | .SLINK, .port => some (0x08000000, 1)
  | .LATH, .port => some (0x09000000, 1)
  | _, _ => none

/-- The registers of the register tables of the spec. A register that the spec replicates inside one block is one name with an index. -/
inductive RegName where
  | DCTL_IDENT
  | CORE_STATUS
  | CORE_CACHE_CTL
  | DCACHE_CTL
  | CORE_SPEC_CTL
  | CORE_PF_CTL
  | CORE_WAITCTL
  | CORE_WAKEPC
  | CORE_SECACT
  | CORE_PMSEL
  | CORE_PMC
  | DCTL_LCMAP
  | DCTL_MIGRATE
  | PERF_SEL
  | PERF_CNT
  | XTL_AST
  | XTL_SAST
  | XTL_DEVT
  | XTL_FAULT0_ADDR
  | XTL_FAULT0_INFO
  | XTL_FAULT1_ADDR
  | XTL_FAULT1_INFO
  | XTL_FAULTSTAT
  | PORT_DEVTMO
  | HOME_DIRCTL
  | HOME_TMO
  | HOME_RTBASE
  | HOME_FENCE0
  | HOME_FENCE1
  | HOME_ERR0_ADDR
  | HOME_ERR0_INFO
  | HOME_ERR1_ADDR
  | HOME_ERR1_INFO
  | HOME_ERRSTAT
  | HOME_RCWAY
  | HOME_HOTCTL
  | HOME_HOTSNAP
  | HOME_ISET_A
  | HOME_ISET_B
  | HOME_RNGOWN
  | HOME_RNGSEC
  | MEMC_ERR0_ADDR
  | MEMC_ERR0_INFO
  | MEMC_ERR1_ADDR
  | MEMC_ERR1_INFO
  | MEMC_ERRSTAT
  | MEMC_SCRUB
  | MEMC_DEVFAIL
  | MEMC_SPARE
  | MEMC_RECAL
  | SKM_QBASE
  | SKM_QCTL
  | SKM_QTAIL
  | SKM_QHEAD
  | SKM_STATUS
  | SKM_ELCPWR
  | SKM_SPPWR
  | SKM_RSTAT
  | SKM_DBGCTL
  | SKM_BPADDR
  | SKM_PFAULT
  | SKM_UCODE
  | SKM_RGN_FIRST
  | SKM_RGN_CORE
  | SKM_RGN_HOST
  | RING_ARB
  | SPINE_ARB
  | DCTL_EPOCH
  | DCTL_RSPTMO
  | DCTL_FW
  | DCTL_UPD_CMD
  | DCTL_UPD_ADDR
  | SLINK_CTL
  | SLINK_STAT
  | SLINK_RMAP
  | SLINK_CTL_HP
  | SLINK_STAT_HP
  | SLINK_RMAP_HP
  | SLINK_DISC
  | LATH_PORT
  | LATH_PORT_HUB
  | CFG_CTL
  | CFG_STAT
  | CFG_CONFIRM
  | CFG_WINDOW
  | CFG_APPLY
  | CFG_LOADADDR
  | CFG_ACTSEQ
  | CFG_PREVSEQ
  | CFG_HIGHSEQ
  | CFG_REJ0_ADDR
  | CFG_REJ0_INFO
  | CFG_REJ1_ADDR
  | CFG_REJ1_INFO
  | CFG_REJSTAT
  | PWR_DOM
  | PWR_WAKE_LAST
  | PWR_WAKE_HIST
  | PWR_AOTIME
  | PWR_AOTIMER
  | PWR_REF0
  | PWR_REF1
  | PWR_REFSTAT
  | PWR_THERM
  | PWR_TCAL
  | PWR_PKGLIM
  | PWR_EDGEREL
  | CLK_CLUSTER
  | SEC_SWCTL
  | SEC_GREC
  | SEC_SENG
  | SEC_RNGCMD
  | SEC_BOOTSTAT
  | SEC_KEYSTAT
  | SEC_KEYREV
  | SEC_FLOOR
  | SEC_FLASHCMD
  | SEC_FLASHADDR
  | SEC_MEXT
  | SEC_MREG
  | MTRX_STAT
  | MTRX_RING
  | MTRX_RPTR
  | MTRX_CMD
  | EVR_SRC
  | EVR_CTL
  | EVR_VTBASE
  | EVR_SVTBASE
  | EVR_RPTBASE
  | EVR_ONLINE
  | RAS_ERR0_ADDR
  | RAS_ERR0_INFO
  | RAS_ERR0_MISC0
  | RAS_ERR0_MISC1
  | RAS_ERR1_ADDR
  | RAS_ERR1_INFO
  | RAS_ERR1_MISC0
  | RAS_ERR1_MISC1
  | RAS_ERRSTAT
  | RAS_CTL
  | PMP_IDENT
  | PMP_REQ
  | PMP_RSP
  | PMP_NOTE
  | PMP_WAKE
  | PMP_STATE
  deriving DecidableEq, Repr

/-- Where a register lies: its block, the die kinds that have it, its offset, two strides with their counts (index = i1 * c2 + i2), and whether all instances of the block hold one value (a write in any HOME block acts on all 32 slices). -/
structure RegDesc where
  block : Block
  dies : List DieKind
  off : Nat
  s1 : Nat
  c1 : Nat
  s2 : Nat
  c2 : Nat
  shared : Bool
  fields : List Fld
  deriving DecidableEq, Repr

end Sys2Proof.Machine

namespace Sys2Proof.Machine.F
open Sys2Proof.Machine

/-! DCTL_IDENT (R3). -/
def DCTL_IDENT_PART_NUM : Fld := ⟨63, 48, .RO, .none, .fuse⟩
def DCTL_IDENT_STEP_MAJOR : Fld := ⟨47, 44, .RO, .none, .fuse⟩
def DCTL_IDENT_STEP_MINOR : Fld := ⟨43, 40, .RO, .none, .fuse⟩
def DCTL_IDENT_DIE_ID : Fld := ⟨39, 32, .RO, .none, .val 255⟩
def DCTL_IDENT_DIE_ROLE : Fld := ⟨31, 28, .RO, .none, .fuse⟩
def DCTL_IDENT_ARCH_REV : Fld := ⟨27, 24, .RO, .none, .fuse⟩
def DCTL_IDENT_UNITS : Fld := ⟨23, 16, .RO, .none, .fuse⟩
def DCTL_IDENT_ENGINES : Fld := ⟨15, 8, .RO, .none, .fuse⟩
/-! CORE_STATUS (R73). -/
def CORE_STATUS_LCORE : Fld := ⟨39, 32, .RO, .none, .img⟩
def CORE_STATUS_PCORE : Fld := ⟨29, 24, .RO, .none, .fuse⟩
def CORE_STATUS_CLUSTER : Fld := ⟨20, 20, .RO, .none, .fuse⟩
def CORE_STATUS_ROLE : Fld := ⟨19, 16, .RO, .none, .img⟩
def CORE_STATUS_FUSED_BAD : Fld := ⟨1, 1, .RO, .none, .fuse⟩
def CORE_STATUS_CHECKSTOP : Fld := ⟨0, 0, .RO, .none, .val 0⟩
/-! CORE_CACHE_CTL (R48). -/
def CORE_CACHE_CTL_CLEANING : Fld := ⟨16, 16, .RO, .none, .val 0⟩
def CORE_CACHE_CTL_L2_OFF : Fld := ⟨10, 10, .RO, .none, .val 0⟩
def CORE_CACHE_CTL_L1D_OFF : Fld := ⟨9, 9, .RO, .none, .val 0⟩
def CORE_CACHE_CTL_L1I_OFF : Fld := ⟨8, 8, .RO, .none, .val 0⟩
def CORE_CACHE_CTL_L2_DIS : Fld := ⟨2, 2, .RW, .L, .val 0⟩
def CORE_CACHE_CTL_L1D_DIS : Fld := ⟨1, 1, .RW, .L, .val 0⟩
def CORE_CACHE_CTL_L1I_DIS : Fld := ⟨0, 0, .RW, .L, .val 0⟩
/-! DCACHE_CTL (R48). -/
def DCACHE_CTL_CLEANING : Fld := ⟨16, 16, .RO, .none, .val 0⟩
def DCACHE_CTL_DC_OFF : Fld := ⟨8, 8, .RO, .none, .val 0⟩
def DCACHE_CTL_DC_DIS : Fld := ⟨0, 0, .RW, .L, .val 0⟩
/-! CORE_SPEC_CTL (R65). -/
def CORE_SPEC_CTL_SEC_SETTLE : Fld := ⟨8, 8, .RW, .L, .val 1⟩
def CORE_SPEC_CTL_T1_SETTLE_ONLY : Fld := ⟨1, 1, .RW, .L, .val 0⟩
def CORE_SPEC_CTL_T0_SETTLE_ONLY : Fld := ⟨0, 0, .RW, .L, .val 0⟩
/-! CORE_PF_CTL (R66). -/
def CORE_PF_CTL_PF_PAGE_CROSS : Fld := ⟨16, 16, .RW, .L, .val 0⟩
def CORE_PF_CTL_L2_DEPTH : Fld := ⟨11, 8, .RW, .L, .val 8⟩
def CORE_PF_CTL_I_NEXT_EN : Fld := ⟨3, 3, .RW, .L, .val 1⟩
def CORE_PF_CTL_L2_ADJ_EN : Fld := ⟨2, 2, .RW, .L, .val 1⟩
def CORE_PF_CTL_L2_STREAM_EN : Fld := ⟨1, 1, .RW, .L, .val 1⟩
def CORE_PF_CTL_L1_STRIDE_EN : Fld := ⟨0, 0, .RW, .L, .val 1⟩
/-! CORE_WAITCTL (R523). -/
def CORE_WAITCTL_TRAP_H : Fld := ⟨18, 18, .RW, .L, .val 0⟩
def CORE_WAITCTL_TRAP_S : Fld := ⟨17, 17, .RW, .L, .val 0⟩
def CORE_WAITCTL_TRAP_U : Fld := ⟨16, 16, .RW, .L, .val 0⟩
def CORE_WAITCTL_T1_DEPTH : Fld := ⟨9, 8, .RW, .L, .val 1⟩
def CORE_WAITCTL_T0_DEPTH : Fld := ⟨1, 0, .RW, .L, .val 1⟩
/-! CORE_WAKEPC (R525). -/
def CORE_WAKEPC_PC : Fld := ⟨63, 2, .RW, .L, .val 0⟩
/-! CORE_SECACT (R555). -/
def CORE_SECACT_T1_END : Fld := ⟨17, 17, .W1S, .L, .val 0⟩
def CORE_SECACT_T0_END : Fld := ⟨16, 16, .W1S, .L, .val 0⟩
def CORE_SECACT_T1_ACTIVE : Fld := ⟨9, 9, .RO, .none, .val 0⟩
def CORE_SECACT_T0_ACTIVE : Fld := ⟨8, 8, .RO, .none, .val 0⟩
/-! CORE_PMSEL (R79). -/
def CORE_PMSEL_OVF : Fld := ⟨21, 21, .W1C, .L, .val 0⟩
def CORE_PMSEL_OVF_INT : Fld := ⟨20, 20, .RW, .L, .val 0⟩
def CORE_PMSEL_EN_M : Fld := ⟨19, 19, .RW, .L, .val 0⟩
def CORE_PMSEL_EN_H : Fld := ⟨18, 18, .RW, .L, .val 0⟩
def CORE_PMSEL_EN_S : Fld := ⟨17, 17, .RW, .L, .val 0⟩
def CORE_PMSEL_EN_U : Fld := ⟨16, 16, .RW, .L, .val 0⟩
def CORE_PMSEL_EVENT : Fld := ⟨15, 0, .RW, .L, .val 0⟩
/-! CORE_PMC (R79). -/
def CORE_PMC_COUNT : Fld := ⟨47, 0, .RW, .L, .val 0⟩
/-! DCTL_LCMAP (R72). -/
def DCTL_LCMAP_VALID0 : Fld := ⟨7, 7, .RO, .none, .img⟩
def DCTL_LCMAP_VALID1 : Fld := ⟨15, 15, .RO, .none, .img⟩
def DCTL_LCMAP_VALID2 : Fld := ⟨23, 23, .RO, .none, .img⟩
def DCTL_LCMAP_VALID3 : Fld := ⟨31, 31, .RO, .none, .img⟩
def DCTL_LCMAP_VALID4 : Fld := ⟨39, 39, .RO, .none, .img⟩
def DCTL_LCMAP_VALID5 : Fld := ⟨47, 47, .RO, .none, .img⟩
def DCTL_LCMAP_VALID6 : Fld := ⟨55, 55, .RO, .none, .img⟩
def DCTL_LCMAP_VALID7 : Fld := ⟨63, 63, .RO, .none, .img⟩
def DCTL_LCMAP_PCORE0 : Fld := ⟨5, 0, .RO, .none, .img⟩
def DCTL_LCMAP_PCORE1 : Fld := ⟨13, 8, .RO, .none, .img⟩
def DCTL_LCMAP_PCORE2 : Fld := ⟨21, 16, .RO, .none, .img⟩
def DCTL_LCMAP_PCORE3 : Fld := ⟨29, 24, .RO, .none, .img⟩
def DCTL_LCMAP_PCORE4 : Fld := ⟨37, 32, .RO, .none, .img⟩
def DCTL_LCMAP_PCORE5 : Fld := ⟨45, 40, .RO, .none, .img⟩
def DCTL_LCMAP_PCORE6 : Fld := ⟨53, 48, .RO, .none, .img⟩
def DCTL_LCMAP_PCORE7 : Fld := ⟨61, 56, .RO, .none, .img⟩
/-! DCTL_MIGRATE (R74). -/
def DCTL_MIGRATE_RESULT : Fld := ⟨23, 20, .RO, .none, .val 0⟩
def DCTL_MIGRATE_DONE : Fld := ⟨18, 18, .W1C, .L, .val 0⟩
def DCTL_MIGRATE_BUSY : Fld := ⟨17, 17, .RO, .none, .val 0⟩
def DCTL_MIGRATE_START : Fld := ⟨16, 16, .W1S, .L, .val 0⟩
def DCTL_MIGRATE_DST_PCORE : Fld := ⟨13, 8, .RW, .L, .val 0⟩
def DCTL_MIGRATE_SRC_PCORE : Fld := ⟨5, 0, .RW, .L, .val 0⟩
/-! PERF_SEL (R81). -/
def PERF_SEL_OVF : Fld := ⟨26, 26, .W1C, .L, .val 0⟩
def PERF_SEL_OVF_INT : Fld := ⟨25, 25, .RW, .L, .val 0⟩
def PERF_SEL_EN : Fld := ⟨24, 24, .RW, .L, .val 0⟩
def PERF_SEL_SLICE : Fld := ⟨20, 16, .RW, .L, .val 31⟩
def PERF_SEL_EVENT : Fld := ⟨15, 0, .RW, .L, .val 0⟩
/-! PERF_CNT (R81). -/
def PERF_CNT_COUNT : Fld := ⟨47, 0, .RW, .L, .val 0⟩
/-! XTL_AST (R201). -/
def XTL_AST_EN : Fld := ⟨63, 63, .RW, .L, .val 0⟩
def XTL_AST_BASE : Fld := ⟨51, 12, .RW, .L, .val 0⟩
def XTL_AST_SIZE : Fld := ⟨3, 0, .RW, .L, .val 0⟩
/-! XTL_SAST (R562). -/
def XTL_SAST_EN : Fld := ⟨63, 63, .RW, .L, .val 0⟩
def XTL_SAST_BASE : Fld := ⟨51, 12, .RW, .L, .val 0⟩
def XTL_SAST_SIZE : Fld := ⟨3, 0, .RW, .L, .val 0⟩
/-! XTL_DEVT (R206). -/
def XTL_DEVT_EN : Fld := ⟨63, 63, .RW, .L, .val 0⟩
def XTL_DEVT_BASE : Fld := ⟨51, 12, .RW, .L, .val 0⟩
def XTL_DEVT_SIZE : Fld := ⟨3, 0, .RW, .L, .val 0⟩
/-! XTL_FAULT0_ADDR (R209). -/
def XTL_FAULT0_ADDR_ADDR : Fld := ⟨63, 0, .RO, .none, .val 0⟩
/-! XTL_FAULT0_INFO (R209). -/
def XTL_FAULT0_INFO_VALID : Fld := ⟨63, 63, .W1C, .L, .val 0⟩
def XTL_FAULT0_INFO_RID : Fld := ⟨47, 32, .RO, .none, .val 0⟩
def XTL_FAULT0_INFO_PART : Fld := ⟨31, 28, .RO, .none, .val 0⟩
def XTL_FAULT0_INFO_PORT : Fld := ⟨27, 24, .RO, .none, .val 0⟩
def XTL_FAULT0_INFO_WR : Fld := ⟨23, 23, .RO, .none, .val 0⟩
def XTL_FAULT0_INFO_CAUSE : Fld := ⟨17, 16, .RO, .none, .val 0⟩
def XTL_FAULT0_INFO_DETAIL : Fld := ⟨15, 8, .RO, .none, .val 0⟩
/-! XTL_FAULT1_ADDR (R209). -/
def XTL_FAULT1_ADDR_ADDR : Fld := ⟨63, 0, .RO, .none, .val 0⟩
/-! XTL_FAULT1_INFO (R209). -/
def XTL_FAULT1_INFO_VALID : Fld := ⟨63, 63, .W1C, .L, .val 0⟩
def XTL_FAULT1_INFO_RID : Fld := ⟨47, 32, .RO, .none, .val 0⟩
def XTL_FAULT1_INFO_PART : Fld := ⟨31, 28, .RO, .none, .val 0⟩
def XTL_FAULT1_INFO_PORT : Fld := ⟨27, 24, .RO, .none, .val 0⟩
def XTL_FAULT1_INFO_WR : Fld := ⟨23, 23, .RO, .none, .val 0⟩
def XTL_FAULT1_INFO_CAUSE : Fld := ⟨17, 16, .RO, .none, .val 0⟩
def XTL_FAULT1_INFO_DETAIL : Fld := ⟨15, 8, .RO, .none, .val 0⟩
/-! XTL_FAULTSTAT (R209). -/
def XTL_FAULTSTAT_OVF : Fld := ⟨16, 16, .W1C, .L, .val 0⟩
def XTL_FAULTSTAT_OVF_COUNT : Fld := ⟨15, 0, .RO, .none, .val 0⟩
/-! PORT_DEVTMO (R231). -/
def PORT_DEVTMO_TMO_US : Fld := ⟨23, 0, .RW, .L, .val 1000⟩
/-! HOME_DIRCTL (R256). -/
def HOME_DIRCTL_FAR_EN : Fld := ⟨8, 8, .RWL, .S, .img⟩
def HOME_DIRCTL_WRITE_THROUGH : Fld := ⟨1, 1, .RW, .G, .val 0⟩
def HOME_DIRCTL_EXCL_GRANT : Fld := ⟨0, 0, .RW, .L, .val 1⟩
/-! HOME_TMO (R279). -/
def HOME_TMO_TMO_US : Fld := ⟨19, 0, .RW, .L, .val 2000⟩
/-! HOME_RTBASE (R252). -/
def HOME_RTBASE_BASE : Fld := ⟨51, 30, .RWL, .S, .img⟩
def HOME_RTBASE_SIZE : Fld := ⟨9, 0, .RWL, .S, .img⟩
/-! HOME_FENCE0 (R283). -/
def HOME_FENCE0_PDIE : Fld := ⟨19, 16, .W1S, .L, .val 0⟩
def HOME_FENCE0_CDIE : Fld := ⟨12, 1, .W1S, .L, .val 0⟩
/-! HOME_FENCE1 (R283). -/
def HOME_FENCE1_ENG : Fld := ⟨55, 0, .W1S, .L, .val 0⟩
/-! HOME_ERR0_ADDR (R282). -/
def HOME_ERR0_ADDR_VALID : Fld := ⟨63, 63, .W1C, .L, .val 0⟩
def HOME_ERR0_ADDR_LINE : Fld := ⟨51, 6, .RO, .none, .val 0⟩
/-! HOME_ERR0_INFO (R282). -/
def HOME_ERR0_INFO_PART : Fld := ⟨31, 28, .RO, .none, .val 0⟩
def HOME_ERR0_INFO_ATYPE : Fld := ⟨27, 26, .RO, .none, .val 3⟩
def HOME_ERR0_INFO_ADIE : Fld := ⟨25, 22, .RO, .none, .val 0⟩
def HOME_ERR0_INFO_AID : Fld := ⟨21, 16, .RO, .none, .val 0⟩
def HOME_ERR0_INFO_SEV : Fld := ⟨13, 12, .RO, .none, .val 0⟩
def HOME_ERR0_INFO_CODE : Fld := ⟨7, 0, .RO, .none, .val 0⟩
/-! HOME_ERR1_ADDR (R282). -/
def HOME_ERR1_ADDR_VALID : Fld := ⟨63, 63, .W1C, .L, .val 0⟩
def HOME_ERR1_ADDR_LINE : Fld := ⟨51, 6, .RO, .none, .val 0⟩
/-! HOME_ERR1_INFO (R282). -/
def HOME_ERR1_INFO_PART : Fld := ⟨31, 28, .RO, .none, .val 0⟩
def HOME_ERR1_INFO_ATYPE : Fld := ⟨27, 26, .RO, .none, .val 3⟩
def HOME_ERR1_INFO_ADIE : Fld := ⟨25, 22, .RO, .none, .val 0⟩
def HOME_ERR1_INFO_AID : Fld := ⟨21, 16, .RO, .none, .val 0⟩
def HOME_ERR1_INFO_SEV : Fld := ⟨13, 12, .RO, .none, .val 0⟩
def HOME_ERR1_INFO_CODE : Fld := ⟨7, 0, .RO, .none, .val 0⟩
/-! HOME_ERRSTAT (R282). -/
def HOME_ERRSTAT_OVF : Fld := ⟨16, 16, .W1C, .L, .val 0⟩
def HOME_ERRSTAT_OVF_COUNT : Fld := ⟨15, 0, .RO, .none, .val 0⟩
/-! HOME_RCWAY (R303). -/
def HOME_RCWAY_ALLOC_WR : Fld := ⟨17, 17, .RW, .G, .img⟩
def HOME_RCWAY_ALLOC_RD : Fld := ⟨16, 16, .RW, .G, .img⟩
def HOME_RCWAY_WAYMASK : Fld := ⟨15, 0, .RW, .G, .img⟩
/-! HOME_HOTCTL (R315). -/
def HOME_HOTCTL_EN : Fld := ⟨63, 63, .RW, .L, .val 0⟩
def HOME_HOTCTL_NEAR : Fld := ⟨62, 62, .RW, .L, .val 0⟩
def HOME_HOTCTL_FAR : Fld := ⟨61, 61, .RW, .L, .val 1⟩
def HOME_HOTCTL_HITS : Fld := ⟨60, 60, .RW, .L, .val 0⟩
def HOME_HOTCTL_ENG : Fld := ⟨59, 59, .RW, .L, .val 0⟩
def HOME_HOTCTL_GRAN : Fld := ⟨58, 58, .RW, .L, .val 0⟩
def HOME_HOTCTL_SAMPLE : Fld := ⟨51, 48, .RW, .L, .val 4⟩
def HOME_HOTCTL_QUOTA : Fld := ⟨11, 0, .RWL, .S, .img⟩
/-! HOME_HOTSNAP (R318). -/
def HOME_HOTSNAP_BUSY : Fld := ⟨63, 63, .RO, .none, .val 0⟩
def HOME_HOTSNAP_DONE : Fld := ⟨62, 62, .W1C, .L, .val 0⟩
def HOME_HOTSNAP_RESULT : Fld := ⟨61, 60, .RO, .none, .val 0⟩
def HOME_HOTSNAP_OP : Fld := ⟨59, 58, .WO, .L, .val 0⟩
def HOME_HOTSNAP_BASE : Fld := ⟨51, 12, .RW, .L, .val 0⟩
/-! HOME_ISET_A (R288). -/
def HOME_ISET_A_VALID : Fld := ⟨63, 63, .RW, .G, .img⟩
def HOME_ISET_A_TIER : Fld := ⟨62, 62, .RW, .G, .img⟩
def HOME_ISET_A_GRAN : Fld := ⟨61, 60, .RW, .G, .img⟩
def HOME_ISET_A_FIRST : Fld := ⟨59, 54, .RW, .G, .img⟩
def HOME_ISET_A_N : Fld := ⟨53, 49, .RW, .G, .img⟩
def HOME_ISET_A_BASE : Fld := ⟨21, 0, .RW, .G, .img⟩
/-! HOME_ISET_B (R288). -/
def HOME_ISET_B_DONE : Fld := ⟨63, 46, .RO, .none, .val 0⟩
def HOME_ISET_B_LBASE : Fld := ⟨43, 32, .RW, .G, .img⟩
def HOME_ISET_B_SIZE : Fld := ⟨17, 0, .RW, .G, .img⟩
/-! HOME_RNGOWN (R488). -/
def HOME_RNGOWN_OWNER0 : Fld := ⟨3, 0, .RO, .none, .img⟩
def HOME_RNGOWN_OWNER1 : Fld := ⟨7, 4, .RO, .none, .img⟩
def HOME_RNGOWN_OWNER2 : Fld := ⟨11, 8, .RO, .none, .img⟩
def HOME_RNGOWN_OWNER3 : Fld := ⟨15, 12, .RO, .none, .img⟩
def HOME_RNGOWN_OWNER4 : Fld := ⟨19, 16, .RO, .none, .img⟩
def HOME_RNGOWN_OWNER5 : Fld := ⟨23, 20, .RO, .none, .img⟩
def HOME_RNGOWN_OWNER6 : Fld := ⟨27, 24, .RO, .none, .img⟩
def HOME_RNGOWN_OWNER7 : Fld := ⟨31, 28, .RO, .none, .img⟩
def HOME_RNGOWN_OWNER8 : Fld := ⟨35, 32, .RO, .none, .img⟩
def HOME_RNGOWN_OWNER9 : Fld := ⟨39, 36, .RO, .none, .img⟩
def HOME_RNGOWN_OWNER10 : Fld := ⟨43, 40, .RO, .none, .img⟩
def HOME_RNGOWN_OWNER11 : Fld := ⟨47, 44, .RO, .none, .img⟩
def HOME_RNGOWN_OWNER12 : Fld := ⟨51, 48, .RO, .none, .img⟩
def HOME_RNGOWN_OWNER13 : Fld := ⟨55, 52, .RO, .none, .img⟩
def HOME_RNGOWN_OWNER14 : Fld := ⟨59, 56, .RO, .none, .img⟩
def HOME_RNGOWN_OWNER15 : Fld := ⟨63, 60, .RO, .none, .img⟩
/-! HOME_RNGSEC (R560). -/
def HOME_RNGSEC_SEC : Fld := ⟨63, 0, .RO, .none, .val 0⟩
/-! MEMC_ERR0_ADDR (R324). -/
def MEMC_ERR0_ADDR_VALID : Fld := ⟨63, 63, .W1C, .L, .val 0⟩
def MEMC_ERR0_ADDR_LINE : Fld := ⟨51, 6, .RO, .none, .val 0⟩
/-! MEMC_ERR0_INFO (R324). -/
def MEMC_ERR0_INFO_DIMM : Fld := ⟨56, 56, .RO, .none, .val 0⟩
def MEMC_ERR0_INFO_RANK : Fld := ⟨55, 54, .RO, .none, .val 0⟩
def MEMC_ERR0_INFO_SUBCH : Fld := ⟨53, 53, .RO, .none, .val 0⟩
def MEMC_ERR0_INFO_BG : Fld := ⟨52, 50, .RO, .none, .val 0⟩
def MEMC_ERR0_INFO_BA : Fld := ⟨49, 48, .RO, .none, .val 0⟩
def MEMC_ERR0_INFO_ROW : Fld := ⟨47, 30, .RO, .none, .val 0⟩
def MEMC_ERR0_INFO_DEVICE : Fld := ⟨23, 20, .RO, .none, .val 15⟩
def MEMC_ERR0_INFO_PART : Fld := ⟨19, 16, .RO, .none, .val 0⟩
def MEMC_ERR0_INFO_SEV : Fld := ⟨13, 12, .RO, .none, .val 0⟩
def MEMC_ERR0_INFO_CODE : Fld := ⟨7, 0, .RO, .none, .val 0⟩
/-! MEMC_ERR1_ADDR (R324). -/
def MEMC_ERR1_ADDR_VALID : Fld := ⟨63, 63, .W1C, .L, .val 0⟩
def MEMC_ERR1_ADDR_LINE : Fld := ⟨51, 6, .RO, .none, .val 0⟩
/-! MEMC_ERR1_INFO (R324). -/
def MEMC_ERR1_INFO_DIMM : Fld := ⟨56, 56, .RO, .none, .val 0⟩
def MEMC_ERR1_INFO_RANK : Fld := ⟨55, 54, .RO, .none, .val 0⟩
def MEMC_ERR1_INFO_SUBCH : Fld := ⟨53, 53, .RO, .none, .val 0⟩
def MEMC_ERR1_INFO_BG : Fld := ⟨52, 50, .RO, .none, .val 0⟩
def MEMC_ERR1_INFO_BA : Fld := ⟨49, 48, .RO, .none, .val 0⟩
def MEMC_ERR1_INFO_ROW : Fld := ⟨47, 30, .RO, .none, .val 0⟩
def MEMC_ERR1_INFO_DEVICE : Fld := ⟨23, 20, .RO, .none, .val 15⟩
def MEMC_ERR1_INFO_PART : Fld := ⟨19, 16, .RO, .none, .val 0⟩
def MEMC_ERR1_INFO_SEV : Fld := ⟨13, 12, .RO, .none, .val 0⟩
def MEMC_ERR1_INFO_CODE : Fld := ⟨7, 0, .RO, .none, .val 0⟩
/-! MEMC_ERRSTAT (R324). -/
def MEMC_ERRSTAT_OVF : Fld := ⟨16, 16, .W1C, .L, .val 0⟩
def MEMC_ERRSTAT_OVF_COUNT : Fld := ⟨15, 0, .RO, .none, .val 0⟩
/-! MEMC_SCRUB (R320). -/
def MEMC_SCRUB_EN : Fld := ⟨63, 63, .RW, .L, .val 1⟩
def MEMC_SCRUB_SWEEP_BUSY : Fld := ⟨33, 33, .RO, .none, .val 0⟩
def MEMC_SCRUB_SWEEP : Fld := ⟨32, 32, .W1S, .L, .val 0⟩
def MEMC_SCRUB_SWEEP_PCT : Fld := ⟨23, 16, .RW, .L, .val 25⟩
def MEMC_SCRUB_PERIOD_H : Fld := ⟨7, 0, .RW, .L, .val 24⟩
/-! MEMC_DEVFAIL (R325). -/
def MEMC_DEVFAIL_THRESH : Fld := ⟨63, 56, .RW, .L, .val 16⟩
def MEMC_DEVFAIL_VALID0 : Fld := ⟨8, 8, .RO, .none, .val 0⟩
def MEMC_DEVFAIL_VALID1 : Fld := ⟨17, 17, .RO, .none, .val 0⟩
def MEMC_DEVFAIL_VALID2 : Fld := ⟨26, 26, .RO, .none, .val 0⟩
def MEMC_DEVFAIL_VALID3 : Fld := ⟨35, 35, .RO, .none, .val 0⟩
def MEMC_DEVFAIL_DIMM0 : Fld := ⟨7, 7, .RO, .none, .val 0⟩
def MEMC_DEVFAIL_DIMM1 : Fld := ⟨16, 16, .RO, .none, .val 0⟩
def MEMC_DEVFAIL_DIMM2 : Fld := ⟨25, 25, .RO, .none, .val 0⟩
def MEMC_DEVFAIL_DIMM3 : Fld := ⟨34, 34, .RO, .none, .val 0⟩
def MEMC_DEVFAIL_RANK0 : Fld := ⟨6, 5, .RO, .none, .val 0⟩
def MEMC_DEVFAIL_RANK1 : Fld := ⟨15, 14, .RO, .none, .val 0⟩
def MEMC_DEVFAIL_RANK2 : Fld := ⟨24, 23, .RO, .none, .val 0⟩
def MEMC_DEVFAIL_RANK3 : Fld := ⟨33, 32, .RO, .none, .val 0⟩
def MEMC_DEVFAIL_SUBCH0 : Fld := ⟨4, 4, .RO, .none, .val 0⟩
def MEMC_DEVFAIL_SUBCH1 : Fld := ⟨13, 13, .RO, .none, .val 0⟩
def MEMC_DEVFAIL_SUBCH2 : Fld := ⟨22, 22, .RO, .none, .val 0⟩
def MEMC_DEVFAIL_SUBCH3 : Fld := ⟨31, 31, .RO, .none, .val 0⟩
def MEMC_DEVFAIL_DEVICE0 : Fld := ⟨3, 0, .RO, .none, .val 0⟩
def MEMC_DEVFAIL_DEVICE1 : Fld := ⟨12, 9, .RO, .none, .val 0⟩
def MEMC_DEVFAIL_DEVICE2 : Fld := ⟨21, 18, .RO, .none, .val 0⟩
def MEMC_DEVFAIL_DEVICE3 : Fld := ⟨30, 27, .RO, .none, .val 0⟩
/-! MEMC_SPARE (R326). -/
def MEMC_SPARE_USED : Fld := ⟨36, 36, .RO, .none, .val 0⟩
def MEMC_SPARE_RSV_DIMM : Fld := ⟨35, 35, .RWL, .S, .img⟩
def MEMC_SPARE_RSV_RANK : Fld := ⟨34, 33, .RWL, .S, .img⟩
def MEMC_SPARE_RSV_VALID : Fld := ⟨32, 32, .RWL, .S, .img⟩
def MEMC_SPARE_RESULT : Fld := ⟨23, 20, .RO, .none, .val 0⟩
def MEMC_SPARE_DONE : Fld := ⟨18, 18, .W1C, .L, .val 0⟩
def MEMC_SPARE_BUSY : Fld := ⟨17, 17, .RO, .none, .val 0⟩
def MEMC_SPARE_START : Fld := ⟨16, 16, .W1S, .L, .val 0⟩
def MEMC_SPARE_SRC_DIMM : Fld := ⟨2, 2, .RW, .L, .val 0⟩
def MEMC_SPARE_SRC_RANK : Fld := ⟨1, 0, .RW, .L, .val 0⟩
/-! MEMC_RECAL (R633). -/
def MEMC_RECAL_EN : Fld := ⟨63, 63, .RW, .L, .val 1⟩
def MEMC_RECAL_GO : Fld := ⟨62, 62, .W1S, .L, .val 0⟩
def MEMC_RECAL_BUSY : Fld := ⟨61, 61, .RO, .none, .val 0⟩
def MEMC_RECAL_RESULT : Fld := ⟨60, 58, .RO, .none, .val 0⟩
def MEMC_RECAL_PERIOD_MIN : Fld := ⟨7, 0, .RW, .L, .val 10⟩
/-! SKM_QBASE (R332). -/
def SKM_QBASE_BASE : Fld := ⟨51, 12, .RW, .G, .val 0⟩
def SKM_QBASE_SIZE : Fld := ⟨3, 0, .RW, .G, .val 0⟩
/-! SKM_QCTL (R332). -/
def SKM_QCTL_EN : Fld := ⟨63, 63, .RW, .L, .val 0⟩
def SKM_QCTL_WORLD : Fld := ⟨62, 62, .RO, .none, .img⟩
def SKM_QCTL_PART : Fld := ⟨55, 52, .RO, .none, .img⟩
def SKM_QCTL_EVT : Fld := ⟨47, 32, .RW, .L, .val 0⟩
def SKM_QCTL_TMO_MS : Fld := ⟨31, 16, .RW, .L, .val 0⟩
/-! SKM_QTAIL (R332). -/
def SKM_QTAIL_TAIL : Fld := ⟨15, 0, .RW, .L, .val 0⟩
/-! SKM_QHEAD (R332). -/
def SKM_QHEAD_ERRV : Fld := ⟨56, 56, .W1C, .L, .val 0⟩
def SKM_QHEAD_ERR : Fld := ⟨55, 48, .RO, .none, .val 0⟩
def SKM_QHEAD_INFLIGHT : Fld := ⟨47, 40, .RO, .none, .val 0⟩
def SKM_QHEAD_HEAD : Fld := ⟨15, 0, .RO, .none, .val 0⟩
/-! SKM_STATUS (R370). -/
def SKM_STATUS_STATE : Fld := ⟨63, 60, .RO, .none, .val 0⟩
def SKM_STATUS_PART : Fld := ⟨59, 56, .RO, .none, .img⟩
def SKM_STATUS_WORLD : Fld := ⟨55, 55, .RO, .none, .val 0⟩
def SKM_STATUS_QUEUE : Fld := ⟨54, 48, .RO, .none, .val 127⟩
def SKM_STATUS_PIECE : Fld := ⟨47, 40, .RO, .none, .val 255⟩
def SKM_STATUS_WAITING : Fld := ⟨39, 32, .RO, .none, .val 0⟩
def SKM_STATUS_PIECES_RUN : Fld := ⟨31, 0, .RO, .none, .val 0⟩
/-! SKM_ELCPWR (R361). -/
def SKM_ELCPWR_CLEANING : Fld := ⟨16, 16, .RO, .none, .val 0⟩
def SKM_ELCPWR_GRP_OFF : Fld := ⟨13, 8, .RO, .none, .val 0⟩
def SKM_ELCPWR_GRP_REQ : Fld := ⟨5, 0, .RW, .L, .val 0⟩
/-! SKM_SPPWR (R364). -/
def SKM_SPPWR_ZEROING : Fld := ⟨47, 32, .RO, .none, .val 0⟩
def SKM_SPPWR_BANK0 : Fld := ⟨1, 0, .RW, .L, .val 0⟩
def SKM_SPPWR_BANK1 : Fld := ⟨3, 2, .RW, .L, .val 0⟩
def SKM_SPPWR_BANK2 : Fld := ⟨5, 4, .RW, .L, .val 0⟩
def SKM_SPPWR_BANK3 : Fld := ⟨7, 6, .RW, .L, .val 0⟩
def SKM_SPPWR_BANK4 : Fld := ⟨9, 8, .RW, .L, .val 0⟩
def SKM_SPPWR_BANK5 : Fld := ⟨11, 10, .RW, .L, .val 0⟩
def SKM_SPPWR_BANK6 : Fld := ⟨13, 12, .RW, .L, .val 0⟩
def SKM_SPPWR_BANK7 : Fld := ⟨15, 14, .RW, .L, .val 0⟩
def SKM_SPPWR_BANK8 : Fld := ⟨17, 16, .RW, .L, .val 0⟩
def SKM_SPPWR_BANK9 : Fld := ⟨19, 18, .RW, .L, .val 0⟩
def SKM_SPPWR_BANK10 : Fld := ⟨21, 20, .RW, .L, .val 0⟩
def SKM_SPPWR_BANK11 : Fld := ⟨23, 22, .RW, .L, .val 0⟩
def SKM_SPPWR_BANK12 : Fld := ⟨25, 24, .RW, .L, .val 0⟩
def SKM_SPPWR_BANK13 : Fld := ⟨27, 26, .RW, .L, .val 0⟩
def SKM_SPPWR_BANK14 : Fld := ⟨29, 28, .RW, .L, .val 0⟩
def SKM_SPPWR_BANK15 : Fld := ⟨31, 30, .RW, .L, .val 0⟩
/-! SKM_RSTAT (R421). -/
def SKM_RSTAT_VALID : Fld := ⟨63, 63, .RO, .none, .val 0⟩
def SKM_RSTAT_RPC : Fld := ⟨44, 32, .RO, .none, .val 0⟩
def SKM_RSTAT_OLDBANK : Fld := ⟨15, 8, .RO, .none, .val 0⟩
def SKM_RSTAT_BP : Fld := ⟨1, 1, .RO, .none, .val 0⟩
def SKM_RSTAT_DS : Fld := ⟨0, 0, .RO, .none, .val 0⟩
/-! SKM_DBGCTL (R421). -/
def SKM_DBGCTL_HCAUSE : Fld := ⟨19, 16, .RO, .none, .val 0⟩
def SKM_DBGCTL_HALTED : Fld := ⟨8, 8, .RO, .none, .val 0⟩
def SKM_DBGCTL_STEP : Fld := ⟨2, 2, .W1S, .L, .val 0⟩
def SKM_DBGCTL_RESUME : Fld := ⟨1, 1, .W1S, .L, .val 0⟩
def SKM_DBGCTL_HALT : Fld := ⟨0, 0, .W1S, .L, .val 0⟩
/-! SKM_BPADDR (R421). -/
def SKM_BPADDR_EN : Fld := ⟨63, 63, .RW, .L, .val 0⟩
def SKM_BPADDR_PC : Fld := ⟨12, 0, .RW, .L, .val 0⟩
/-! SKM_PFAULT (R420). -/
def SKM_PFAULT_VALID : Fld := ⟨63, 63, .W1C, .L, .val 0⟩
def SKM_PFAULT_OVW : Fld := ⟨62, 62, .RO, .none, .val 0⟩
def SKM_PFAULT_CAUSE : Fld := ⟨59, 56, .RO, .none, .val 0⟩
def SKM_PFAULT_ADDR : Fld := ⟨55, 40, .RO, .none, .val 0⟩
def SKM_PFAULT_BANK : Fld := ⟨39, 32, .RO, .none, .val 0⟩
def SKM_PFAULT_PIECE : Fld := ⟨23, 16, .RO, .none, .val 0⟩
def SKM_PFAULT_PC : Fld := ⟨12, 0, .RO, .none, .val 0⟩
/-! SKM_UCODE (R630). -/
def SKM_UCODE_VERSION : Fld := ⟨63, 32, .RO, .none, .val 0⟩
def SKM_UCODE_STATE : Fld := ⟨19, 18, .RO, .none, .val 0⟩
def SKM_UCODE_GO : Fld := ⟨16, 16, .W1S, .L, .val 0⟩
/-! SKM_RGN_FIRST (R365). -/
def SKM_RGN_FIRST_EN : Fld := ⟨63, 63, .RW, .G, .val 1⟩
def SKM_RGN_FIRST_RD : Fld := ⟨62, 62, .RW, .G, .val 1⟩
def SKM_RGN_FIRST_WR : Fld := ⟨61, 61, .RW, .G, .val 1⟩
def SKM_RGN_FIRST_LIMIT : Fld := ⟨44, 32, .RW, .G, .val 8191⟩
def SKM_RGN_FIRST_BASE : Fld := ⟨12, 0, .RW, .G, .val 0⟩
/-! SKM_RGN_CORE (R365). -/
def SKM_RGN_CORE_EN : Fld := ⟨63, 63, .RW, .G, .val 0⟩
def SKM_RGN_CORE_RD : Fld := ⟨62, 62, .RW, .G, .val 0⟩
def SKM_RGN_CORE_WR : Fld := ⟨61, 61, .RW, .G, .val 0⟩
def SKM_RGN_CORE_LIMIT : Fld := ⟨44, 32, .RW, .G, .val 0⟩
def SKM_RGN_CORE_BASE : Fld := ⟨12, 0, .RW, .G, .val 0⟩
/-! SKM_RGN_HOST (R365). -/
def SKM_RGN_HOST_EN : Fld := ⟨63, 63, .RW, .L, .val 0⟩
def SKM_RGN_HOST_RD : Fld := ⟨62, 62, .RW, .L, .val 0⟩
def SKM_RGN_HOST_WR : Fld := ⟨61, 61, .RW, .L, .val 0⟩
def SKM_RGN_HOST_LIMIT : Fld := ⟨44, 32, .RW, .L, .val 0⟩
def SKM_RGN_HOST_BASE : Fld := ⟨12, 0, .RW, .L, .val 0⟩
/-! RING_ARB (R428). -/
def RING_ARB_STARVE : Fld := ⟨15, 8, .RW, .L, .val 32⟩
def RING_ARB_P0_SHARE : Fld := ⟨3, 0, .RW, .G, .val 4⟩
/-! SPINE_ARB (R428). -/
def SPINE_ARB_STARVE : Fld := ⟨15, 8, .RW, .L, .val 32⟩
def SPINE_ARB_P0_SHARE : Fld := ⟨3, 0, .RW, .G, .val 4⟩
/-! DCTL_EPOCH (R452). -/
def DCTL_EPOCH_UPD_PEND : Fld := ⟨15, 8, .RO, .none, .val 0⟩
def DCTL_EPOCH_CUR : Fld := ⟨7, 0, .RO, .none, .img⟩
/-! DCTL_RSPTMO (R441). -/
def DCTL_RSPTMO_TMO_MS : Fld := ⟨15, 0, .RW, .L, .val 4000⟩
/-! DCTL_FW (R629). -/
def DCTL_FW_VERSION : Fld := ⟨63, 32, .RO, .none, .val 0⟩
def DCTL_FW_STATE : Fld := ⟨23, 20, .RO, .none, .val 0⟩
def DCTL_FW_BANK : Fld := ⟨19, 19, .RO, .none, .val 0⟩
def DCTL_FW_SWITCH : Fld := ⟨0, 0, .W1S, .L, .val 0⟩
/-! DCTL_UPD_CMD (R631). -/
def DCTL_UPD_CMD_GO : Fld := ⟨63, 63, .W1S, .L, .val 0⟩
def DCTL_UPD_CMD_BUSY : Fld := ⟨62, 62, .RO, .none, .val 0⟩
def DCTL_UPD_CMD_RESULT : Fld := ⟨61, 54, .RO, .none, .val 0⟩
def DCTL_UPD_CMD_TYPE : Fld := ⟨47, 40, .RW, .L, .val 0⟩
/-! DCTL_UPD_ADDR (R631). -/
def DCTL_UPD_ADDR_BASE : Fld := ⟨51, 12, .RW, .L, .val 0⟩
/-! SLINK_CTL (R464). -/
def SLINK_CTL_CLR : Fld := ⟨17, 17, .W1S, .L, .val 0⟩
def SLINK_CTL_RECAL_EN : Fld := ⟨16, 16, .RW, .L, .val 1⟩
def SLINK_CTL_RECAL_MIN : Fld := ⟨15, 8, .RW, .L, .val 10⟩
def SLINK_CTL_WIRE_THRESH : Fld := ⟨7, 0, .RW, .L, .val 16⟩
/-! SLINK_STAT (R466). -/
def SLINK_STAT_STATE : Fld := ⟨63, 60, .RO, .none, .val 0⟩
def SLINK_STAT_CAUSE : Fld := ⟨59, 56, .RO, .none, .val 0⟩
def SLINK_STAT_SPARES_USED : Fld := ⟨55, 48, .RO, .none, .val 0⟩
def SLINK_STAT_UNCORR : Fld := ⟨47, 32, .RO, .none, .val 0⟩
def SLINK_STAT_CORR : Fld := ⟨31, 0, .RO, .none, .val 0⟩
/-! SLINK_RMAP (R463). -/
def SLINK_RMAP_RX_FAIL1 : Fld := ⟨31, 24, .RO, .none, .val 255⟩
def SLINK_RMAP_RX_FAIL0 : Fld := ⟨23, 16, .RO, .none, .val 255⟩
def SLINK_RMAP_TX_FAIL1 : Fld := ⟨15, 8, .RO, .none, .val 255⟩
def SLINK_RMAP_TX_FAIL0 : Fld := ⟨7, 0, .RO, .none, .val 255⟩
/-! SLINK_CTL_HP (R464). -/
def SLINK_CTL_HP_CLR : Fld := ⟨17, 17, .W1S, .L, .val 0⟩
def SLINK_CTL_HP_RECAL_EN : Fld := ⟨16, 16, .RW, .L, .val 1⟩
def SLINK_CTL_HP_RECAL_MIN : Fld := ⟨15, 8, .RW, .L, .val 10⟩
def SLINK_CTL_HP_WIRE_THRESH : Fld := ⟨7, 0, .RW, .L, .val 16⟩
/-! SLINK_STAT_HP (R466). -/
def SLINK_STAT_HP_STATE : Fld := ⟨63, 60, .RO, .none, .val 0⟩
def SLINK_STAT_HP_CAUSE : Fld := ⟨59, 56, .RO, .none, .val 0⟩
def SLINK_STAT_HP_SPARES_USED : Fld := ⟨55, 48, .RO, .none, .val 0⟩
def SLINK_STAT_HP_UNCORR : Fld := ⟨47, 32, .RO, .none, .val 0⟩
def SLINK_STAT_HP_CORR : Fld := ⟨31, 0, .RO, .none, .val 0⟩
/-! SLINK_RMAP_HP (R463). -/
def SLINK_RMAP_HP_RX_FAIL1 : Fld := ⟨31, 24, .RO, .none, .val 255⟩
def SLINK_RMAP_HP_RX_FAIL0 : Fld := ⟨23, 16, .RO, .none, .val 255⟩
def SLINK_RMAP_HP_TX_FAIL1 : Fld := ⟨15, 8, .RO, .none, .val 255⟩
def SLINK_RMAP_HP_TX_FAIL0 : Fld := ⟨7, 0, .RO, .none, .val 255⟩
/-! SLINK_DISC (R474). -/
def SLINK_DISC_RESULT : Fld := ⟨63, 60, .RO, .none, .val 0⟩
def SLINK_DISC_ROLE : Fld := ⟨51, 48, .RO, .none, .val 15⟩
def SLINK_DISC_DIE_ID : Fld := ⟨47, 40, .RO, .none, .val 255⟩
def SLINK_DISC_NODE : Fld := ⟨39, 32, .RO, .none, .val 255⟩
def SLINK_DISC_PART_NUM : Fld := ⟨31, 16, .RO, .none, .val 0⟩
def SLINK_DISC_STEP_MAJOR : Fld := ⟨15, 12, .RO, .none, .val 0⟩
def SLINK_DISC_STEP_MINOR : Fld := ⟨11, 8, .RO, .none, .val 0⟩
/-! LATH_PORT (R470). -/
def LATH_PORT_STATE : Fld := ⟨63, 60, .RO, .none, .val 0⟩
def LATH_PORT_FAILS : Fld := ⟨59, 58, .RO, .none, .val 0⟩
def LATH_PORT_LANE_FAIL : Fld := ⟨57, 56, .RO, .none, .val 0⟩
def LATH_PORT_PEER_FAIL : Fld := ⟨55, 54, .RO, .none, .val 0⟩
def LATH_PORT_REPLAYS : Fld := ⟨47, 32, .RO, .none, .val 0⟩
def LATH_PORT_CRC_ERR : Fld := ⟨31, 16, .RO, .none, .val 0⟩
def LATH_PORT_PEER_NODE : Fld := ⟨15, 8, .RO, .none, .val 255⟩
def LATH_PORT_CLR : Fld := ⟨2, 2, .W1S, .L, .val 0⟩
def LATH_PORT_RETRAIN : Fld := ⟨1, 1, .W1S, .L, .val 0⟩
def LATH_PORT_UNHOLD : Fld := ⟨0, 0, .W1S, .L, .val 0⟩
/-! LATH_PORT_HUB (R470). -/
def LATH_PORT_HUB_STATE : Fld := ⟨63, 60, .RO, .none, .val 0⟩
def LATH_PORT_HUB_FAILS : Fld := ⟨59, 58, .RO, .none, .val 0⟩
def LATH_PORT_HUB_LANE_FAIL : Fld := ⟨57, 56, .RO, .none, .val 0⟩
def LATH_PORT_HUB_PEER_FAIL : Fld := ⟨55, 54, .RO, .none, .val 0⟩
def LATH_PORT_HUB_REPLAYS : Fld := ⟨47, 32, .RO, .none, .val 0⟩
def LATH_PORT_HUB_CRC_ERR : Fld := ⟨31, 16, .RO, .none, .val 0⟩
def LATH_PORT_HUB_PEER_NODE : Fld := ⟨15, 8, .RO, .none, .val 255⟩
def LATH_PORT_HUB_CLR : Fld := ⟨2, 2, .W1S, .L, .val 0⟩
def LATH_PORT_HUB_RETRAIN : Fld := ⟨1, 1, .W1S, .L, .val 0⟩
def LATH_PORT_HUB_UNHOLD : Fld := ⟨0, 0, .W1S, .L, .val 0⟩
/-! CFG_CTL (R497). -/
def CFG_CTL_ABORT : Fld := ⟨4, 4, .W1S, .L, .val 0⟩
def CFG_CTL_ROLLBACK : Fld := ⟨3, 3, .W1S, .L, .val 0⟩
def CFG_CTL_APPLY : Fld := ⟨2, 2, .W1S, .L, .val 0⟩
def CFG_CTL_LOAD : Fld := ⟨1, 1, .W1S, .L, .val 0⟩
/-! CFG_STAT (R497). -/
def CFG_STAT_STATE : Fld := ⟨63, 60, .RO, .none, .val 0⟩
def CFG_STAT_RESULT : Fld := ⟨59, 56, .RO, .none, .val 0⟩
def CFG_STAT_ACTIVE_BANK : Fld := ⟨55, 55, .RO, .none, .val 0⟩
def CFG_STAT_PEND_PKG : Fld := ⟨54, 54, .RO, .none, .val 0⟩
def CFG_STAT_PEND_PART : Fld := ⟨44, 33, .RO, .none, .val 0⟩
def CFG_STAT_STAGED_WAIT : Fld := ⟨15, 1, .RO, .none, .val 0⟩
/-! CFG_CONFIRM (R497). -/
def CFG_CONFIRM_NEED : Fld := ⟨28, 16, .RO, .none, .val 0⟩
def CFG_CONFIRM_HAVE : Fld := ⟨12, 0, .W1S, .L, .val 0⟩
/-! CFG_WINDOW (R497). -/
def CFG_WINDOW_REMAIN_MS : Fld := ⟨31, 0, .RO, .none, .val 0⟩
/-! CFG_APPLY (R502). -/
def CFG_APPLY_GO : Fld := ⟨63, 63, .W1S, .L, .val 0⟩
def CFG_APPLY_BLOCK : Fld := ⟨51, 20, .RW, .L, .val 0⟩
/-! CFG_LOADADDR (R497). -/
def CFG_LOADADDR_BASE : Fld := ⟨51, 12, .RW, .L, .val 0⟩
/-! CFG_ACTSEQ (R496). -/
def CFG_ACTSEQ_SEQ : Fld := ⟨63, 0, .RO, .none, .img⟩
/-! CFG_PREVSEQ (R496). -/
def CFG_PREVSEQ_SEQ : Fld := ⟨63, 0, .RO, .none, .img⟩
/-! CFG_HIGHSEQ (R495). -/
def CFG_HIGHSEQ_SEQ : Fld := ⟨63, 0, .RO, .none, .img⟩
/-! CFG_REJ0_ADDR (R503). -/
def CFG_REJ0_ADDR_VALID : Fld := ⟨63, 63, .W1C, .L, .val 0⟩
def CFG_REJ0_ADDR_REG : Fld := ⟨51, 3, .RO, .none, .val 0⟩
/-! CFG_REJ0_INFO (R503). -/
def CFG_REJ0_INFO_PART : Fld := ⟨31, 28, .RO, .none, .val 0⟩
def CFG_REJ0_INFO_WORLD : Fld := ⟨27, 27, .RO, .none, .val 0⟩
def CFG_REJ0_INFO_LEVEL : Fld := ⟨25, 24, .RO, .none, .val 0⟩
def CFG_REJ0_INFO_THREAD : Fld := ⟨23, 14, .RO, .none, .val 0⟩
def CFG_REJ0_INFO_SRC : Fld := ⟨13, 12, .RO, .none, .val 0⟩
def CFG_REJ0_INFO_REASON : Fld := ⟨7, 0, .RO, .none, .val 0⟩
/-! CFG_REJ1_ADDR (R503). -/
def CFG_REJ1_ADDR_VALID : Fld := ⟨63, 63, .W1C, .L, .val 0⟩
def CFG_REJ1_ADDR_REG : Fld := ⟨51, 3, .RO, .none, .val 0⟩
/-! CFG_REJ1_INFO (R503). -/
def CFG_REJ1_INFO_PART : Fld := ⟨31, 28, .RO, .none, .val 0⟩
def CFG_REJ1_INFO_WORLD : Fld := ⟨27, 27, .RO, .none, .val 0⟩
def CFG_REJ1_INFO_LEVEL : Fld := ⟨25, 24, .RO, .none, .val 0⟩
def CFG_REJ1_INFO_THREAD : Fld := ⟨23, 14, .RO, .none, .val 0⟩
def CFG_REJ1_INFO_SRC : Fld := ⟨13, 12, .RO, .none, .val 0⟩
def CFG_REJ1_INFO_REASON : Fld := ⟨7, 0, .RO, .none, .val 0⟩
/-! CFG_REJSTAT (R503). -/
def CFG_REJSTAT_OVF : Fld := ⟨16, 16, .W1C, .L, .val 0⟩
def CFG_REJSTAT_OVF_COUNT : Fld := ⟨15, 0, .RO, .none, .val 0⟩
/-! PWR_DOM (R520). -/
def PWR_DOM_CUR : Fld := ⟨63, 60, .RO, .none, .img⟩
def PWR_DOM_REQ : Fld := ⟨59, 58, .RW, .L, .img⟩
def PWR_DOM_AUTO : Fld := ⟨57, 56, .RW, .L, .img⟩
def PWR_DOM_SHELD : Fld := ⟨55, 55, .RW, .L, .val 0⟩
def PWR_DOM_REQ_STATUS : Fld := ⟨54, 52, .RO, .none, .val 0⟩
def PWR_DOM_IDLE_US : Fld := ⟨51, 32, .RW, .L, .img⟩
/-! PWR_WAKE_LAST (R529). -/
def PWR_WAKE_LAST_SRC : Fld := ⟨63, 60, .RO, .none, .val 0⟩
def PWR_WAKE_LAST_DOMAIN : Fld := ⟨59, 54, .RO, .none, .val 0⟩
def PWR_WAKE_LAST_DETAIL : Fld := ⟨53, 48, .RO, .none, .val 0⟩
def PWR_WAKE_LAST_TICK : Fld := ⟨47, 0, .RO, .none, .val 0⟩
/-! PWR_WAKE_HIST (R529). -/
def PWR_WAKE_HIST_SRC : Fld := ⟨63, 60, .RO, .none, .val 0⟩
def PWR_WAKE_HIST_DOMAIN : Fld := ⟨59, 54, .RO, .none, .val 0⟩
def PWR_WAKE_HIST_DETAIL : Fld := ⟨53, 48, .RO, .none, .val 0⟩
def PWR_WAKE_HIST_TICK : Fld := ⟨47, 0, .RO, .none, .val 0⟩
/-! PWR_AOTIME (R530). -/
def PWR_AOTIME_TICK : Fld := ⟨47, 0, .RO, .none, .val 0⟩
/-! PWR_AOTIMER (R530). -/
def PWR_AOTIMER_EN : Fld := ⟨63, 63, .RW, .L, .val 0⟩
def PWR_AOTIMER_DOMAIN : Fld := ⟨59, 54, .RW, .L, .val 0⟩
def PWR_AOTIMER_CMP : Fld := ⟨47, 0, .RW, .L, .val 0⟩
/-! PWR_REF0 (R533). -/
def PWR_REF0_VALID : Fld := ⟨63, 63, .W1C, .L, .val 0⟩
def PWR_REF0_DOMAIN : Fld := ⟨62, 57, .RO, .none, .val 0⟩
def PWR_REF0_STATE : Fld := ⟨56, 55, .RO, .none, .val 0⟩
def PWR_REF0_PART : Fld := ⟨54, 51, .RO, .none, .val 0⟩
def PWR_REF0_WORLD : Fld := ⟨50, 50, .RO, .none, .val 0⟩
def PWR_REF0_LEVEL : Fld := ⟨49, 48, .RO, .none, .val 0⟩
def PWR_REF0_THREAD : Fld := ⟨47, 38, .RO, .none, .val 0⟩
def PWR_REF0_SRC : Fld := ⟨37, 36, .RO, .none, .val 0⟩
def PWR_REF0_TICK : Fld := ⟨35, 0, .RO, .none, .val 0⟩
/-! PWR_REF1 (R533). -/
def PWR_REF1_VALID : Fld := ⟨63, 63, .W1C, .L, .val 0⟩
def PWR_REF1_DOMAIN : Fld := ⟨62, 57, .RO, .none, .val 0⟩
def PWR_REF1_STATE : Fld := ⟨56, 55, .RO, .none, .val 0⟩
def PWR_REF1_PART : Fld := ⟨54, 51, .RO, .none, .val 0⟩
def PWR_REF1_WORLD : Fld := ⟨50, 50, .RO, .none, .val 0⟩
def PWR_REF1_LEVEL : Fld := ⟨49, 48, .RO, .none, .val 0⟩
def PWR_REF1_THREAD : Fld := ⟨47, 38, .RO, .none, .val 0⟩
def PWR_REF1_SRC : Fld := ⟨37, 36, .RO, .none, .val 0⟩
def PWR_REF1_TICK : Fld := ⟨35, 0, .RO, .none, .val 0⟩
/-! PWR_REFSTAT (R533). -/
def PWR_REFSTAT_OVF : Fld := ⟨16, 16, .W1C, .L, .val 0⟩
def PWR_REFSTAT_OVF_COUNT : Fld := ⟨15, 0, .RO, .none, .val 0⟩
/-! PWR_THERM (R542). -/
def PWR_THERM_TMAX : Fld := ⟨63, 56, .RO, .none, .val 0⟩
def PWR_THERM_SENSOR : Fld := ⟨55, 48, .RO, .none, .val 0⟩
def PWR_THERM_TCTL : Fld := ⟨47, 40, .RW, .L, .img⟩
def PWR_THERM_HYST : Fld := ⟨39, 32, .RW, .L, .val 5⟩
def PWR_THERM_CUR_THR : Fld := ⟨3, 3, .RO, .none, .val 0⟩
def PWR_THERM_PWR_THR : Fld := ⟨2, 2, .RO, .none, .val 0⟩
def PWR_THERM_FAST_THR : Fld := ⟨1, 1, .RO, .none, .val 0⟩
def PWR_THERM_CTL_THR : Fld := ⟨0, 0, .RO, .none, .val 0⟩
/-! PWR_TCAL (R633). -/
def PWR_TCAL_GO : Fld := ⟨63, 63, .W1S, .L, .val 0⟩
def PWR_TCAL_FAILED : Fld := ⟨39, 0, .RO, .none, .val 0⟩
/-! PWR_PKGLIM (R540). -/
def PWR_PKGLIM_LIMIT_W : Fld := ⟨63, 52, .RW, .L, .img⟩
def PWR_PKGLIM_EFF_W : Fld := ⟨51, 40, .RO, .none, .val 820⟩
def PWR_PKGLIM_WINDOW_MS : Fld := ⟨39, 24, .RW, .L, .img⟩
def PWR_PKGLIM_NOW_W : Fld := ⟨23, 12, .RO, .none, .val 0⟩
def PWR_PKGLIM_VIN_DV : Fld := ⟨11, 0, .RO, .none, .val 0⟩
/-! PWR_EDGEREL (R528). -/
def PWR_EDGEREL_HELD : Fld := ⟨31, 16, .RO, .none, .val 0⟩
def PWR_EDGEREL_REL : Fld := ⟨15, 0, .W1S, .L, .val 0⟩
/-! CLK_CLUSTER (R539). -/
def CLK_CLUSTER_FCUR : Fld := ⟨63, 56, .RO, .none, .val 24⟩
def CLK_CLUSTER_FCEIL : Fld := ⟨55, 48, .RO, .none, .val 34⟩
def CLK_CLUSTER_VCUR : Fld := ⟨47, 40, .RO, .none, .val 150⟩
def CLK_CLUSTER_FMAX : Fld := ⟨15, 8, .RW, .L, .img⟩
def CLK_CLUSTER_FMIN : Fld := ⟨7, 0, .RW, .L, .img⟩
/-! SEC_SWCTL (R546). -/
def SEC_SWCTL_STATE : Fld := ⟨63, 62, .RW, .L, .val 0⟩
def SEC_SWCTL_DBG_EN : Fld := ⟨61, 61, .RW, .L, .val 0⟩
def SEC_SWCTL_REKEY_RST : Fld := ⟨60, 60, .RW, .L, .val 0⟩
def SEC_SWCTL_WD_MS : Fld := ⟨23, 0, .RW, .L, .val 1000⟩
/-! SEC_GREC (R546). -/
def SEC_GREC_BASE : Fld := ⟨51, 12, .RW, .L, .val 0⟩
/-! SEC_SENG (R562). -/
def SEC_SENG_ENGINE : Fld := ⟨55, 0, .RW, .L, .val 0⟩
/-! SEC_RNGCMD (R561). -/
def SEC_RNGCMD_BUSY : Fld := ⟨63, 63, .RO, .none, .val 0⟩
def SEC_RNGCMD_OP : Fld := ⟨62, 61, .WO, .L, .val 0⟩
def SEC_RNGCMD_RESULT : Fld := ⟨60, 58, .RO, .none, .val 0⟩
def SEC_RNGCMD_GIB : Fld := ⟨17, 0, .RW, .L, .val 0⟩
/-! SEC_BOOTSTAT (R579). -/
def SEC_BOOTSTAT_REASON_A : Fld := ⟨63, 56, .RO, .none, .val 0⟩
def SEC_BOOTSTAT_REASON_B : Fld := ⟨55, 48, .RO, .none, .val 0⟩
def SEC_BOOTSTAT_STOP : Fld := ⟨47, 44, .RO, .none, .val 0⟩
def SEC_BOOTSTAT_RECOVERY : Fld := ⟨43, 43, .RO, .none, .val 0⟩
def SEC_BOOTSTAT_SLOT : Fld := ⟨42, 42, .RO, .none, .val 0⟩
def SEC_BOOTSTAT_KEYSLOT : Fld := ⟨41, 40, .RO, .none, .val 0⟩
def SEC_BOOTSTAT_EXCL : Fld := ⟨39, 38, .RO, .none, .val 0⟩
def SEC_BOOTSTAT_SVN : Fld := ⟨31, 24, .RO, .none, .val 0⟩
/-! SEC_KEYSTAT (R576). -/
def SEC_KEYSTAT_REVOKED : Fld := ⟨7, 4, .RO, .none, .fuse⟩
def SEC_KEYSTAT_PRESENT : Fld := ⟨3, 0, .RO, .none, .fuse⟩
/-! SEC_KEYREV (R576). -/
def SEC_KEYREV_GO : Fld := ⟨63, 63, .W1S, .L, .val 0⟩
def SEC_KEYREV_BUSY : Fld := ⟨62, 62, .RO, .none, .val 0⟩
def SEC_KEYREV_RESULT : Fld := ⟨61, 60, .RO, .none, .val 0⟩
def SEC_KEYREV_SLOT : Fld := ⟨1, 0, .RW, .L, .val 0⟩
/-! SEC_FLOOR (R575). -/
def SEC_FLOOR_GO : Fld := ⟨63, 63, .W1S, .L, .val 0⟩
def SEC_FLOOR_BUSY : Fld := ⟨62, 62, .RO, .none, .val 0⟩
def SEC_FLOOR_RESULT : Fld := ⟨61, 60, .RO, .none, .val 0⟩
def SEC_FLOOR_REQ : Fld := ⟨15, 8, .RW, .L, .val 0⟩
def SEC_FLOOR_CUR : Fld := ⟨7, 0, .RO, .none, .fuse⟩
/-! SEC_FLASHCMD (R580). -/
def SEC_FLASHCMD_GO : Fld := ⟨63, 63, .W1S, .L, .val 0⟩
def SEC_FLASHCMD_BUSY : Fld := ⟨62, 62, .RO, .none, .val 0⟩
def SEC_FLASHCMD_RESULT : Fld := ⟨61, 59, .RO, .none, .val 0⟩
def SEC_FLASHCMD_OP : Fld := ⟨58, 57, .RW, .L, .val 0⟩
def SEC_FLASHCMD_SLOT : Fld := ⟨56, 56, .RW, .L, .val 0⟩
def SEC_FLASHCMD_FOFF : Fld := ⟨31, 0, .RW, .L, .val 0⟩
/-! SEC_FLASHADDR (R580). -/
def SEC_FLASHADDR_BUF : Fld := ⟨51, 12, .RW, .L, .val 0⟩
/-! SEC_MEXT (R577). -/
def SEC_MEXT_GO : Fld := ⟨63, 63, .W1S, .L, .val 0⟩
def SEC_MEXT_BUSY : Fld := ⟨62, 62, .RO, .none, .val 0⟩
def SEC_MEXT_RESULT : Fld := ⟨61, 60, .RO, .none, .val 0⟩
def SEC_MEXT_REG : Fld := ⟨59, 56, .RW, .L, .val 0⟩
def SEC_MEXT_BUF : Fld := ⟨51, 6, .RW, .L, .val 0⟩
/-! SEC_MREG (R577). -/
def SEC_MREG_W : Fld := ⟨63, 0, .RO, .none, .val 0⟩
/-! MTRX_STAT (R603). -/
def MTRX_STAT_LINK : Fld := ⟨63, 63, .RO, .none, .val 0⟩
def MTRX_STAT_SEALED : Fld := ⟨62, 62, .RO, .none, .val 0⟩
def MTRX_STAT_LOGFULL : Fld := ⟨61, 61, .RO, .none, .val 0⟩
def MTRX_STAT_OWNER_PEND : Fld := ⟨60, 60, .RO, .none, .val 0⟩
def MTRX_STAT_MISSED : Fld := ⟨47, 32, .RO, .none, .val 0⟩
def MTRX_STAT_FW_VER : Fld := ⟨31, 0, .RO, .none, .val 0⟩
/-! MTRX_RING (R603). -/
def MTRX_RING_EN : Fld := ⟨63, 63, .RW, .L, .val 0⟩
def MTRX_RING_BASE : Fld := ⟨51, 12, .RW, .G, .val 0⟩
def MTRX_RING_SIZE : Fld := ⟨3, 0, .RW, .G, .val 0⟩
/-! MTRX_RPTR (R603). -/
def MTRX_RPTR_RD : Fld := ⟨47, 32, .RW, .L, .val 0⟩
def MTRX_RPTR_WR : Fld := ⟨15, 0, .RO, .none, .val 0⟩
/-! MTRX_CMD (R604). -/
def MTRX_CMD_GO : Fld := ⟨63, 63, .W1S, .L, .val 0⟩
def MTRX_CMD_BUSY : Fld := ⟨62, 62, .RO, .none, .val 0⟩
def MTRX_CMD_RESULT : Fld := ⟨61, 59, .RO, .none, .val 0⟩
def MTRX_CMD_OP : Fld := ⟨58, 56, .RW, .L, .val 0⟩
def MTRX_CMD_ARG : Fld := ⟨55, 0, .RW, .L, .val 0⟩
/-! EVR_SRC (R609). -/
def EVR_SRC_EN : Fld := ⟨63, 63, .RW, .L, .img⟩
def EVR_SRC_PART : Fld := ⟨59, 56, .RO, .none, .img⟩
def EVR_SRC_MODE : Fld := ⟨55, 54, .RO, .none, .fuse⟩
def EVR_SRC_FIXM : Fld := ⟨53, 53, .RO, .none, .fuse⟩
def EVR_SRC_VECTOR : Fld := ⟨15, 0, .RW, .L, .img⟩
/-! EVR_CTL (R613). -/
def EVR_CTL_EN : Fld := ⟨63, 63, .RW, .L, .val 0⟩
def EVR_CTL_INV : Fld := ⟨62, 62, .W1S, .L, .val 0⟩
def EVR_CTL_INV_BUSY : Fld := ⟨61, 61, .RO, .none, .val 0⟩
def EVR_CTL_FALLBACK : Fld := ⟨41, 32, .RW, .L, .img⟩
/-! EVR_VTBASE (R613). -/
def EVR_VTBASE_BASE : Fld := ⟨51, 12, .RW, .L, .val 0⟩
/-! EVR_SVTBASE (R613). -/
def EVR_SVTBASE_BASE : Fld := ⟨51, 12, .RW, .L, .val 0⟩
/-! EVR_RPTBASE (R613). -/
def EVR_RPTBASE_BASE : Fld := ⟨51, 16, .RW, .L, .val 0⟩
/-! EVR_ONLINE (R613). -/
def EVR_ONLINE_ONLINE : Fld := ⟨63, 0, .RW, .L, .val 0⟩
/-! RAS_ERR0_ADDR (R619). -/
def RAS_ERR0_ADDR_VALID : Fld := ⟨63, 63, .W1C, .L, .val 0⟩
def RAS_ERR0_ADDR_ADDR : Fld := ⟨51, 0, .RO, .none, .val 0⟩
/-! RAS_ERR0_INFO (R619). -/
def RAS_ERR0_INFO_UNIT : Fld := ⟨56, 50, .RO, .none, .val 0⟩
def RAS_ERR0_INFO_THREAD : Fld := ⟨49, 40, .RO, .none, .val 1023⟩
def RAS_ERR0_INFO_DETAIL : Fld := ⟨39, 32, .RO, .none, .val 0⟩
def RAS_ERR0_INFO_PART : Fld := ⟨31, 28, .RO, .none, .val 0⟩
def RAS_ERR0_INFO_WORLD : Fld := ⟨27, 27, .RO, .none, .val 0⟩
def RAS_ERR0_INFO_SEV : Fld := ⟨13, 12, .RO, .none, .val 0⟩
def RAS_ERR0_INFO_CODE : Fld := ⟨7, 0, .RO, .none, .val 0⟩
/-! RAS_ERR0_MISC0 (R619). -/
def RAS_ERR0_MISC0_M : Fld := ⟨63, 0, .RO, .none, .val 0⟩
/-! RAS_ERR0_MISC1 (R619). -/
def RAS_ERR0_MISC1_M : Fld := ⟨63, 0, .RO, .none, .val 0⟩
/-! RAS_ERR1_ADDR (R619). -/
def RAS_ERR1_ADDR_VALID : Fld := ⟨63, 63, .W1C, .L, .val 0⟩
def RAS_ERR1_ADDR_ADDR : Fld := ⟨51, 0, .RO, .none, .val 0⟩
/-! RAS_ERR1_INFO (R619). -/
def RAS_ERR1_INFO_UNIT : Fld := ⟨56, 50, .RO, .none, .val 0⟩
def RAS_ERR1_INFO_THREAD : Fld := ⟨49, 40, .RO, .none, .val 1023⟩
def RAS_ERR1_INFO_DETAIL : Fld := ⟨39, 32, .RO, .none, .val 0⟩
def RAS_ERR1_INFO_PART : Fld := ⟨31, 28, .RO, .none, .val 0⟩
def RAS_ERR1_INFO_WORLD : Fld := ⟨27, 27, .RO, .none, .val 0⟩
def RAS_ERR1_INFO_SEV : Fld := ⟨13, 12, .RO, .none, .val 0⟩
def RAS_ERR1_INFO_CODE : Fld := ⟨7, 0, .RO, .none, .val 0⟩
/-! RAS_ERR1_MISC0 (R619). -/
def RAS_ERR1_MISC0_M : Fld := ⟨63, 0, .RO, .none, .val 0⟩
/-! RAS_ERR1_MISC1 (R619). -/
def RAS_ERR1_MISC1_M : Fld := ⟨63, 0, .RO, .none, .val 0⟩
/-! RAS_ERRSTAT (R619). -/
def RAS_ERRSTAT_OVF : Fld := ⟨16, 16, .W1C, .L, .val 0⟩
def RAS_ERRSTAT_OVF_COUNT : Fld := ⟨15, 0, .RO, .none, .val 0⟩
/-! RAS_CTL (R619). -/
def RAS_CTL_CCOUNT : Fld := ⟨63, 48, .RO, .none, .val 0⟩
def RAS_CTL_CREC : Fld := ⟨16, 16, .RW, .L, .val 1⟩
def RAS_CTL_CTHRESH : Fld := ⟨15, 0, .RW, .L, .val 16⟩
/-! PMP_IDENT (R638). -/
def PMP_IDENT_PART_NUM : Fld := ⟨63, 48, .RO, .none, .fuse⟩
def PMP_IDENT_STEP_MAJOR : Fld := ⟨47, 44, .RO, .none, .fuse⟩
def PMP_IDENT_STEP_MINOR : Fld := ⟨43, 40, .RO, .none, .fuse⟩
def PMP_IDENT_IF_VER : Fld := ⟨39, 32, .RO, .none, .val 1⟩
/-! PMP_REQ (R638). -/
def PMP_REQ_GO : Fld := ⟨63, 63, .W1S, .L, .val 0⟩
def PMP_REQ_BUSY : Fld := ⟨62, 62, .RO, .none, .val 0⟩
def PMP_REQ_DISC : Fld := ⟨47, 32, .RO, .none, .val 0⟩
/-! PMP_RSP (R638). -/
def PMP_RSP_DONE : Fld := ⟨63, 63, .W1C, .L, .val 0⟩
def PMP_RSP_STATUS : Fld := ⟨23, 16, .RO, .none, .val 0⟩
def PMP_RSP_SEQ : Fld := ⟨15, 0, .RO, .none, .val 0⟩
/-! PMP_NOTE (R638). -/
def PMP_NOTE_RD : Fld := ⟨47, 32, .RW, .L, .val 0⟩
def PMP_NOTE_LOST : Fld := ⟨31, 16, .RO, .none, .val 0⟩
def PMP_NOTE_WR : Fld := ⟨15, 0, .RO, .none, .val 0⟩
/-! PMP_WAKE (R653). -/
def PMP_WAKE_PATTERN : Fld := ⟨31, 0, .WO, .L, .val 0⟩
/-! PMP_STATE (R638). -/
def PMP_STATE_PHASE : Fld := ⟨63, 60, .RO, .none, .val 0⟩
def PMP_STATE_STOP : Fld := ⟨59, 56, .RO, .none, .val 0⟩
def PMP_STATE_REASON_A : Fld := ⟨55, 48, .RO, .none, .val 0⟩
def PMP_STATE_REASON_B : Fld := ⟨47, 40, .RO, .none, .val 0⟩

end Sys2Proof.Machine.F

namespace Sys2Proof.Machine
open Sys2Proof.Machine.F

/-- The descriptor of each register. -/
def RegName.desc : RegName → RegDesc
  | .DCTL_IDENT => ⟨.DCTL, [.hub, .compute, .port], 0x0, 0x8, 1, 0x8, 1, false,
      [DCTL_IDENT_PART_NUM, DCTL_IDENT_STEP_MAJOR, DCTL_IDENT_STEP_MINOR, DCTL_IDENT_DIE_ID, DCTL_IDENT_DIE_ROLE, DCTL_IDENT_ARCH_REV, DCTL_IDENT_UNITS, DCTL_IDENT_ENGINES]⟩
  | .CORE_STATUS => ⟨.CORE, [.compute], 0x0, 0x8, 1, 0x8, 1, false,
      [CORE_STATUS_LCORE, CORE_STATUS_PCORE, CORE_STATUS_CLUSTER, CORE_STATUS_ROLE, CORE_STATUS_FUSED_BAD, CORE_STATUS_CHECKSTOP]⟩
  | .CORE_CACHE_CTL => ⟨.CORE, [.compute], 0x8, 0x8, 1, 0x8, 1, false,
      [CORE_CACHE_CTL_CLEANING, CORE_CACHE_CTL_L2_OFF, CORE_CACHE_CTL_L1D_OFF, CORE_CACHE_CTL_L1I_OFF, CORE_CACHE_CTL_L2_DIS, CORE_CACHE_CTL_L1D_DIS, CORE_CACHE_CTL_L1I_DIS]⟩
  | .DCACHE_CTL => ⟨.DCACHE, [.compute], 0x0, 0x8, 1, 0x8, 1, false,
      [DCACHE_CTL_CLEANING, DCACHE_CTL_DC_OFF, DCACHE_CTL_DC_DIS]⟩
  | .CORE_SPEC_CTL => ⟨.CORE, [.compute], 0x10, 0x8, 1, 0x8, 1, false,
      [CORE_SPEC_CTL_SEC_SETTLE, CORE_SPEC_CTL_T1_SETTLE_ONLY, CORE_SPEC_CTL_T0_SETTLE_ONLY]⟩
  | .CORE_PF_CTL => ⟨.CORE, [.compute], 0x18, 0x8, 1, 0x8, 1, false,
      [CORE_PF_CTL_PF_PAGE_CROSS, CORE_PF_CTL_L2_DEPTH, CORE_PF_CTL_I_NEXT_EN, CORE_PF_CTL_L2_ADJ_EN, CORE_PF_CTL_L2_STREAM_EN, CORE_PF_CTL_L1_STRIDE_EN]⟩
  | .CORE_WAITCTL => ⟨.CORE, [.compute], 0x20, 0x8, 1, 0x8, 1, false,
      [CORE_WAITCTL_TRAP_H, CORE_WAITCTL_TRAP_S, CORE_WAITCTL_TRAP_U, CORE_WAITCTL_T1_DEPTH, CORE_WAITCTL_T0_DEPTH]⟩
  | .CORE_WAKEPC => ⟨.CORE, [.compute], 0x28, 0x8, 2, 0x8, 1, false,
      [CORE_WAKEPC_PC]⟩
  | .CORE_SECACT => ⟨.CORE, [.compute], 0x40, 0x8, 1, 0x8, 1, false,
      [CORE_SECACT_T1_END, CORE_SECACT_T0_END, CORE_SECACT_T1_ACTIVE, CORE_SECACT_T0_ACTIVE]⟩
  | .CORE_PMSEL => ⟨.CORE, [.compute], 0x100, 0x8, 16, 0x8, 1, false,
      [CORE_PMSEL_OVF, CORE_PMSEL_OVF_INT, CORE_PMSEL_EN_M, CORE_PMSEL_EN_H, CORE_PMSEL_EN_S, CORE_PMSEL_EN_U, CORE_PMSEL_EVENT]⟩
  | .CORE_PMC => ⟨.CORE, [.compute], 0x200, 0x8, 16, 0x8, 1, false,
      [CORE_PMC_COUNT]⟩
  | .DCTL_LCMAP => ⟨.DCTL, [.compute], 0x100, 0x8, 4, 0x8, 1, false,
      [DCTL_LCMAP_VALID0, DCTL_LCMAP_VALID1, DCTL_LCMAP_VALID2, DCTL_LCMAP_VALID3, DCTL_LCMAP_VALID4, DCTL_LCMAP_VALID5, DCTL_LCMAP_VALID6, DCTL_LCMAP_VALID7, DCTL_LCMAP_PCORE0, DCTL_LCMAP_PCORE1, DCTL_LCMAP_PCORE2, DCTL_LCMAP_PCORE3, DCTL_LCMAP_PCORE4, DCTL_LCMAP_PCORE5, DCTL_LCMAP_PCORE6, DCTL_LCMAP_PCORE7]⟩
  | .DCTL_MIGRATE => ⟨.DCTL, [.compute], 0x120, 0x8, 1, 0x8, 1, false,
      [DCTL_MIGRATE_RESULT, DCTL_MIGRATE_DONE, DCTL_MIGRATE_BUSY, DCTL_MIGRATE_START, DCTL_MIGRATE_DST_PCORE, DCTL_MIGRATE_SRC_PCORE]⟩
  | .PERF_SEL => ⟨.PERF, [.compute], 0x0, 0x8, 16, 0x8, 1, false,
      [PERF_SEL_OVF, PERF_SEL_OVF_INT, PERF_SEL_EN, PERF_SEL_SLICE, PERF_SEL_EVENT]⟩
  | .PERF_CNT => ⟨.PERF, [.compute], 0x100, 0x8, 16, 0x8, 1, false,
      [PERF_CNT_COUNT]⟩
  | .XTL_AST => ⟨.XTL, [.hub], 0x8, 0x8, 12, 0x8, 1, false,
      [XTL_AST_EN, XTL_AST_BASE, XTL_AST_SIZE]⟩
  | .XTL_SAST => ⟨.XTL, [.hub], 0x88, 0x8, 12, 0x8, 1, false,
      [XTL_SAST_EN, XTL_SAST_BASE, XTL_SAST_SIZE]⟩
  | .XTL_DEVT => ⟨.XTL, [.port], 0x0, 0x8, 16, 0x8, 1, false,
      [XTL_DEVT_EN, XTL_DEVT_BASE, XTL_DEVT_SIZE]⟩
  | .XTL_FAULT0_ADDR => ⟨.XTL, [.port], 0x100, 0x8, 1, 0x8, 1, false,
      [XTL_FAULT0_ADDR_ADDR]⟩
  | .XTL_FAULT0_INFO => ⟨.XTL, [.port], 0x108, 0x8, 1, 0x8, 1, false,
      [XTL_FAULT0_INFO_VALID, XTL_FAULT0_INFO_RID, XTL_FAULT0_INFO_PART, XTL_FAULT0_INFO_PORT, XTL_FAULT0_INFO_WR, XTL_FAULT0_INFO_CAUSE, XTL_FAULT0_INFO_DETAIL]⟩
  | .XTL_FAULT1_ADDR => ⟨.XTL, [.port], 0x110, 0x8, 1, 0x8, 1, false,
      [XTL_FAULT1_ADDR_ADDR]⟩
  | .XTL_FAULT1_INFO => ⟨.XTL, [.port], 0x118, 0x8, 1, 0x8, 1, false,
      [XTL_FAULT1_INFO_VALID, XTL_FAULT1_INFO_RID, XTL_FAULT1_INFO_PART, XTL_FAULT1_INFO_PORT, XTL_FAULT1_INFO_WR, XTL_FAULT1_INFO_CAUSE, XTL_FAULT1_INFO_DETAIL]⟩
  | .XTL_FAULTSTAT => ⟨.XTL, [.port], 0x120, 0x8, 1, 0x8, 1, false,
      [XTL_FAULTSTAT_OVF, XTL_FAULTSTAT_OVF_COUNT]⟩
  | .PORT_DEVTMO => ⟨.PORT, [.port], 0x40, 0x8, 1, 0x8, 1, false,
      [PORT_DEVTMO_TMO_US]⟩
  | .HOME_DIRCTL => ⟨.HOME, [.hub], 0x0, 0x8, 1, 0x8, 1, false,
      [HOME_DIRCTL_FAR_EN, HOME_DIRCTL_WRITE_THROUGH, HOME_DIRCTL_EXCL_GRANT]⟩
  | .HOME_TMO => ⟨.HOME, [.hub], 0x8, 0x8, 1, 0x8, 1, false,
      [HOME_TMO_TMO_US]⟩
  | .HOME_RTBASE => ⟨.HOME, [.hub], 0x10, 0x8, 1, 0x8, 1, false,
      [HOME_RTBASE_BASE, HOME_RTBASE_SIZE]⟩
  | .HOME_FENCE0 => ⟨.HOME, [.hub], 0x18, 0x8, 1, 0x8, 1, true,
      [HOME_FENCE0_PDIE, HOME_FENCE0_CDIE]⟩
  | .HOME_FENCE1 => ⟨.HOME, [.hub], 0x20, 0x8, 1, 0x8, 1, true,
      [HOME_FENCE1_ENG]⟩
  | .HOME_ERR0_ADDR => ⟨.HOME, [.hub], 0x100, 0x8, 1, 0x8, 1, false,
      [HOME_ERR0_ADDR_VALID, HOME_ERR0_ADDR_LINE]⟩
  | .HOME_ERR0_INFO => ⟨.HOME, [.hub], 0x108, 0x8, 1, 0x8, 1, false,
      [HOME_ERR0_INFO_PART, HOME_ERR0_INFO_ATYPE, HOME_ERR0_INFO_ADIE, HOME_ERR0_INFO_AID, HOME_ERR0_INFO_SEV, HOME_ERR0_INFO_CODE]⟩
  | .HOME_ERR1_ADDR => ⟨.HOME, [.hub], 0x110, 0x8, 1, 0x8, 1, false,
      [HOME_ERR1_ADDR_VALID, HOME_ERR1_ADDR_LINE]⟩
  | .HOME_ERR1_INFO => ⟨.HOME, [.hub], 0x118, 0x8, 1, 0x8, 1, false,
      [HOME_ERR1_INFO_PART, HOME_ERR1_INFO_ATYPE, HOME_ERR1_INFO_ADIE, HOME_ERR1_INFO_AID, HOME_ERR1_INFO_SEV, HOME_ERR1_INFO_CODE]⟩
  | .HOME_ERRSTAT => ⟨.HOME, [.hub], 0x120, 0x8, 1, 0x8, 1, false,
      [HOME_ERRSTAT_OVF, HOME_ERRSTAT_OVF_COUNT]⟩
  | .HOME_RCWAY => ⟨.HOME, [.hub], 0x200, 0x8, 13, 0x8, 1, false,
      [HOME_RCWAY_ALLOC_WR, HOME_RCWAY_ALLOC_RD, HOME_RCWAY_WAYMASK]⟩
  | .HOME_HOTCTL => ⟨.HOME, [.hub], 0x308, 0x8, 12, 0x8, 1, true,
      [HOME_HOTCTL_EN, HOME_HOTCTL_NEAR, HOME_HOTCTL_FAR, HOME_HOTCTL_HITS, HOME_HOTCTL_ENG, HOME_HOTCTL_GRAN, HOME_HOTCTL_SAMPLE, HOME_HOTCTL_QUOTA]⟩
  | .HOME_HOTSNAP => ⟨.HOME, [.hub], 0x388, 0x8, 12, 0x8, 1, true,
      [HOME_HOTSNAP_BUSY, HOME_HOTSNAP_DONE, HOME_HOTSNAP_RESULT, HOME_HOTSNAP_OP, HOME_HOTSNAP_BASE]⟩
  | .HOME_ISET_A => ⟨.HOME, [.hub], 0x1000, 0x10, 32, 0x8, 1, true,
      [HOME_ISET_A_VALID, HOME_ISET_A_TIER, HOME_ISET_A_GRAN, HOME_ISET_A_FIRST, HOME_ISET_A_N, HOME_ISET_A_BASE]⟩
  | .HOME_ISET_B => ⟨.HOME, [.hub], 0x1008, 0x10, 32, 0x8, 1, true,
      [HOME_ISET_B_DONE, HOME_ISET_B_LBASE, HOME_ISET_B_SIZE]⟩
  | .HOME_RNGOWN => ⟨.HOME, [.hub], 0x40000, 0x8, 9216, 0x8, 1, true,
      [HOME_RNGOWN_OWNER0, HOME_RNGOWN_OWNER1, HOME_RNGOWN_OWNER2, HOME_RNGOWN_OWNER3, HOME_RNGOWN_OWNER4, HOME_RNGOWN_OWNER5, HOME_RNGOWN_OWNER6, HOME_RNGOWN_OWNER7, HOME_RNGOWN_OWNER8, HOME_RNGOWN_OWNER9, HOME_RNGOWN_OWNER10, HOME_RNGOWN_OWNER11, HOME_RNGOWN_OWNER12, HOME_RNGOWN_OWNER13, HOME_RNGOWN_OWNER14, HOME_RNGOWN_OWNER15]⟩
  | .HOME_RNGSEC => ⟨.HOME, [.hub], 0x60000, 0x8, 2304, 0x8, 1, true,
      [HOME_RNGSEC_SEC]⟩
  | .MEMC_ERR0_ADDR => ⟨.MEMC, [.hub], 0x100, 0x8, 1, 0x8, 1, false,
      [MEMC_ERR0_ADDR_VALID, MEMC_ERR0_ADDR_LINE]⟩
  | .MEMC_ERR0_INFO => ⟨.MEMC, [.hub], 0x108, 0x8, 1, 0x8, 1, false,
      [MEMC_ERR0_INFO_DIMM, MEMC_ERR0_INFO_RANK, MEMC_ERR0_INFO_SUBCH, MEMC_ERR0_INFO_BG, MEMC_ERR0_INFO_BA, MEMC_ERR0_INFO_ROW, MEMC_ERR0_INFO_DEVICE, MEMC_ERR0_INFO_PART, MEMC_ERR0_INFO_SEV, MEMC_ERR0_INFO_CODE]⟩
  | .MEMC_ERR1_ADDR => ⟨.MEMC, [.hub], 0x110, 0x8, 1, 0x8, 1, false,
      [MEMC_ERR1_ADDR_VALID, MEMC_ERR1_ADDR_LINE]⟩
  | .MEMC_ERR1_INFO => ⟨.MEMC, [.hub], 0x118, 0x8, 1, 0x8, 1, false,
      [MEMC_ERR1_INFO_DIMM, MEMC_ERR1_INFO_RANK, MEMC_ERR1_INFO_SUBCH, MEMC_ERR1_INFO_BG, MEMC_ERR1_INFO_BA, MEMC_ERR1_INFO_ROW, MEMC_ERR1_INFO_DEVICE, MEMC_ERR1_INFO_PART, MEMC_ERR1_INFO_SEV, MEMC_ERR1_INFO_CODE]⟩
  | .MEMC_ERRSTAT => ⟨.MEMC, [.hub], 0x120, 0x8, 1, 0x8, 1, false,
      [MEMC_ERRSTAT_OVF, MEMC_ERRSTAT_OVF_COUNT]⟩
  | .MEMC_SCRUB => ⟨.MEMC, [.hub], 0x200, 0x8, 1, 0x8, 1, false,
      [MEMC_SCRUB_EN, MEMC_SCRUB_SWEEP_BUSY, MEMC_SCRUB_SWEEP, MEMC_SCRUB_SWEEP_PCT, MEMC_SCRUB_PERIOD_H]⟩
  | .MEMC_DEVFAIL => ⟨.MEMC, [.hub], 0x210, 0x8, 1, 0x8, 1, false,
      [MEMC_DEVFAIL_THRESH, MEMC_DEVFAIL_VALID0, MEMC_DEVFAIL_VALID1, MEMC_DEVFAIL_VALID2, MEMC_DEVFAIL_VALID3, MEMC_DEVFAIL_DIMM0, MEMC_DEVFAIL_DIMM1, MEMC_DEVFAIL_DIMM2, MEMC_DEVFAIL_DIMM3, MEMC_DEVFAIL_RANK0, MEMC_DEVFAIL_RANK1, MEMC_DEVFAIL_RANK2, MEMC_DEVFAIL_RANK3, MEMC_DEVFAIL_SUBCH0, MEMC_DEVFAIL_SUBCH1, MEMC_DEVFAIL_SUBCH2, MEMC_DEVFAIL_SUBCH3, MEMC_DEVFAIL_DEVICE0, MEMC_DEVFAIL_DEVICE1, MEMC_DEVFAIL_DEVICE2, MEMC_DEVFAIL_DEVICE3]⟩
  | .MEMC_SPARE => ⟨.MEMC, [.hub], 0x218, 0x8, 1, 0x8, 1, false,
      [MEMC_SPARE_USED, MEMC_SPARE_RSV_DIMM, MEMC_SPARE_RSV_RANK, MEMC_SPARE_RSV_VALID, MEMC_SPARE_RESULT, MEMC_SPARE_DONE, MEMC_SPARE_BUSY, MEMC_SPARE_START, MEMC_SPARE_SRC_DIMM, MEMC_SPARE_SRC_RANK]⟩
  | .MEMC_RECAL => ⟨.MEMC, [.hub], 0x220, 0x8, 1, 0x8, 1, false,
      [MEMC_RECAL_EN, MEMC_RECAL_GO, MEMC_RECAL_BUSY, MEMC_RECAL_RESULT, MEMC_RECAL_PERIOD_MIN]⟩
  | .SKM_QBASE => ⟨.SKM, [.hub], 0x0, 0x20, 4, 0x8, 1, false,
      [SKM_QBASE_BASE, SKM_QBASE_SIZE]⟩
  | .SKM_QCTL => ⟨.SKM, [.hub], 0x8, 0x20, 4, 0x8, 1, false,
      [SKM_QCTL_EN, SKM_QCTL_WORLD, SKM_QCTL_PART, SKM_QCTL_EVT, SKM_QCTL_TMO_MS]⟩
  | .SKM_QTAIL => ⟨.SKM, [.hub], 0x10, 0x20, 4, 0x8, 1, false,
      [SKM_QTAIL_TAIL]⟩
  | .SKM_QHEAD => ⟨.SKM, [.hub], 0x18, 0x20, 4, 0x8, 1, false,
      [SKM_QHEAD_ERRV, SKM_QHEAD_ERR, SKM_QHEAD_INFLIGHT, SKM_QHEAD_HEAD]⟩
  | .SKM_STATUS => ⟨.SKM, [.hub, .port], 0x100, 0x8, 1, 0x8, 1, false,
      [SKM_STATUS_STATE, SKM_STATUS_PART, SKM_STATUS_WORLD, SKM_STATUS_QUEUE, SKM_STATUS_PIECE, SKM_STATUS_WAITING, SKM_STATUS_PIECES_RUN]⟩
  | .SKM_ELCPWR => ⟨.SKM, [.hub, .port], 0x110, 0x8, 1, 0x8, 1, false,
      [SKM_ELCPWR_CLEANING, SKM_ELCPWR_GRP_OFF, SKM_ELCPWR_GRP_REQ]⟩
  | .SKM_SPPWR => ⟨.SKM, [.hub, .port], 0x118, 0x8, 1, 0x8, 1, false,
      [SKM_SPPWR_ZEROING, SKM_SPPWR_BANK0, SKM_SPPWR_BANK1, SKM_SPPWR_BANK2, SKM_SPPWR_BANK3, SKM_SPPWR_BANK4, SKM_SPPWR_BANK5, SKM_SPPWR_BANK6, SKM_SPPWR_BANK7, SKM_SPPWR_BANK8, SKM_SPPWR_BANK9, SKM_SPPWR_BANK10, SKM_SPPWR_BANK11, SKM_SPPWR_BANK12, SKM_SPPWR_BANK13, SKM_SPPWR_BANK14, SKM_SPPWR_BANK15]⟩
  | .SKM_RSTAT => ⟨.SKM, [.hub, .port], 0x120, 0x8, 1, 0x8, 1, false,
      [SKM_RSTAT_VALID, SKM_RSTAT_RPC, SKM_RSTAT_OLDBANK, SKM_RSTAT_BP, SKM_RSTAT_DS]⟩
  | .SKM_DBGCTL => ⟨.SKM, [.hub, .port], 0x128, 0x8, 1, 0x8, 1, false,
      [SKM_DBGCTL_HCAUSE, SKM_DBGCTL_HALTED, SKM_DBGCTL_STEP, SKM_DBGCTL_RESUME, SKM_DBGCTL_HALT]⟩
  | .SKM_BPADDR => ⟨.SKM, [.hub, .port], 0x130, 0x8, 1, 0x8, 1, false,
      [SKM_BPADDR_EN, SKM_BPADDR_PC]⟩
  | .SKM_PFAULT => ⟨.SKM, [.hub, .port], 0x138, 0x8, 1, 0x8, 1, false,
      [SKM_PFAULT_VALID, SKM_PFAULT_OVW, SKM_PFAULT_CAUSE, SKM_PFAULT_ADDR, SKM_PFAULT_BANK, SKM_PFAULT_PIECE, SKM_PFAULT_PC]⟩
  | .SKM_UCODE => ⟨.SKM, [.hub, .port], 0x140, 0x8, 1, 0x8, 1, false,
      [SKM_UCODE_VERSION, SKM_UCODE_STATE, SKM_UCODE_GO]⟩
  | .SKM_RGN_FIRST => ⟨.SKM, [.hub, .port], 0x200, 0x40, 2, 0x8, 1, false,
      [SKM_RGN_FIRST_EN, SKM_RGN_FIRST_RD, SKM_RGN_FIRST_WR, SKM_RGN_FIRST_LIMIT, SKM_RGN_FIRST_BASE]⟩
  | .SKM_RGN_CORE => ⟨.SKM, [.hub, .port], 0x208, 0x40, 2, 0x8, 7, false,
      [SKM_RGN_CORE_EN, SKM_RGN_CORE_RD, SKM_RGN_CORE_WR, SKM_RGN_CORE_LIMIT, SKM_RGN_CORE_BASE]⟩
  | .SKM_RGN_HOST => ⟨.SKM, [.hub, .port], 0x280, 0x8, 16, 0x8, 1, false,
      [SKM_RGN_HOST_EN, SKM_RGN_HOST_RD, SKM_RGN_HOST_WR, SKM_RGN_HOST_LIMIT, SKM_RGN_HOST_BASE]⟩
  | .RING_ARB => ⟨.RING, [.compute], 0x0, 0x8, 1, 0x8, 1, false,
      [RING_ARB_STARVE, RING_ARB_P0_SHARE]⟩
  | .SPINE_ARB => ⟨.SPINE, [.hub], 0x0, 0x8, 1, 0x8, 1, false,
      [SPINE_ARB_STARVE, SPINE_ARB_P0_SHARE]⟩
  | .DCTL_EPOCH => ⟨.DCTL, [.hub, .compute, .port], 0x40, 0x8, 1, 0x8, 1, false,
      [DCTL_EPOCH_UPD_PEND, DCTL_EPOCH_CUR]⟩
  | .DCTL_RSPTMO => ⟨.DCTL, [.hub, .compute, .port], 0x48, 0x8, 1, 0x8, 1, false,
      [DCTL_RSPTMO_TMO_MS]⟩
  | .DCTL_FW => ⟨.DCTL, [.compute, .port], 0x50, 0x8, 1, 0x8, 1, false,
      [DCTL_FW_VERSION, DCTL_FW_STATE, DCTL_FW_BANK, DCTL_FW_SWITCH]⟩
  | .DCTL_UPD_CMD => ⟨.DCTL, [.hub], 0x210, 0x10, 12, 0x8, 1, false,
      [DCTL_UPD_CMD_GO, DCTL_UPD_CMD_BUSY, DCTL_UPD_CMD_RESULT, DCTL_UPD_CMD_TYPE]⟩
  | .DCTL_UPD_ADDR => ⟨.DCTL, [.hub], 0x218, 0x10, 12, 0x8, 1, false,
      [DCTL_UPD_ADDR_BASE]⟩
  | .SLINK_CTL => ⟨.SLINK, [.compute, .port], 0x0, 0x8, 1, 0x8, 1, false,
      [SLINK_CTL_CLR, SLINK_CTL_RECAL_EN, SLINK_CTL_RECAL_MIN, SLINK_CTL_WIRE_THRESH]⟩
  | .SLINK_STAT => ⟨.SLINK, [.compute, .port], 0x8, 0x8, 1, 0x8, 1, false,
      [SLINK_STAT_STATE, SLINK_STAT_CAUSE, SLINK_STAT_SPARES_USED, SLINK_STAT_UNCORR, SLINK_STAT_CORR]⟩
  | .SLINK_RMAP => ⟨.SLINK, [.compute, .port], 0x100, 0x8, 16, 0x8, 1, false,
      [SLINK_RMAP_RX_FAIL1, SLINK_RMAP_RX_FAIL0, SLINK_RMAP_TX_FAIL1, SLINK_RMAP_TX_FAIL0]⟩
  | .SLINK_CTL_HP => ⟨.SLINK, [.hub], 0x0, 0x1000, 16, 0x8, 1, false,
      [SLINK_CTL_HP_CLR, SLINK_CTL_HP_RECAL_EN, SLINK_CTL_HP_RECAL_MIN, SLINK_CTL_HP_WIRE_THRESH]⟩
  | .SLINK_STAT_HP => ⟨.SLINK, [.hub], 0x8, 0x1000, 16, 0x8, 1, false,
      [SLINK_STAT_HP_STATE, SLINK_STAT_HP_CAUSE, SLINK_STAT_HP_SPARES_USED, SLINK_STAT_HP_UNCORR, SLINK_STAT_HP_CORR]⟩
  | .SLINK_RMAP_HP => ⟨.SLINK, [.hub], 0x100, 0x1000, 16, 0x8, 16, false,
      [SLINK_RMAP_HP_RX_FAIL1, SLINK_RMAP_HP_RX_FAIL0, SLINK_RMAP_HP_TX_FAIL1, SLINK_RMAP_HP_TX_FAIL0]⟩
  | .SLINK_DISC => ⟨.SLINK, [.hub], 0x10000, 0x8, 16, 0x8, 1, false,
      [SLINK_DISC_RESULT, SLINK_DISC_ROLE, SLINK_DISC_DIE_ID, SLINK_DISC_NODE, SLINK_DISC_PART_NUM, SLINK_DISC_STEP_MAJOR, SLINK_DISC_STEP_MINOR]⟩
  | .LATH_PORT => ⟨.LATH, [.compute, .port], 0x0, 0x8, 4, 0x8, 1, false,
      [LATH_PORT_STATE, LATH_PORT_FAILS, LATH_PORT_LANE_FAIL, LATH_PORT_PEER_FAIL, LATH_PORT_REPLAYS, LATH_PORT_CRC_ERR, LATH_PORT_PEER_NODE, LATH_PORT_CLR, LATH_PORT_RETRAIN, LATH_PORT_UNHOLD]⟩
  | .LATH_PORT_HUB => ⟨.LATH, [.hub], 0x0, 0x20, 3, 0x8, 4, false,
      [LATH_PORT_HUB_STATE, LATH_PORT_HUB_FAILS, LATH_PORT_HUB_LANE_FAIL, LATH_PORT_HUB_PEER_FAIL, LATH_PORT_HUB_REPLAYS, LATH_PORT_HUB_CRC_ERR, LATH_PORT_HUB_PEER_NODE, LATH_PORT_HUB_CLR, LATH_PORT_HUB_RETRAIN, LATH_PORT_HUB_UNHOLD]⟩
  | .CFG_CTL => ⟨.CFG, [.hub], 0x0, 0x8, 1, 0x8, 1, false,
      [CFG_CTL_ABORT, CFG_CTL_ROLLBACK, CFG_CTL_APPLY, CFG_CTL_LOAD]⟩
  | .CFG_STAT => ⟨.CFG, [.hub], 0x8, 0x8, 1, 0x8, 1, false,
      [CFG_STAT_STATE, CFG_STAT_RESULT, CFG_STAT_ACTIVE_BANK, CFG_STAT_PEND_PKG, CFG_STAT_PEND_PART, CFG_STAT_STAGED_WAIT]⟩
  | .CFG_CONFIRM => ⟨.CFG, [.hub], 0x10, 0x8, 1, 0x8, 1, false,
      [CFG_CONFIRM_NEED, CFG_CONFIRM_HAVE]⟩
  | .CFG_WINDOW => ⟨.CFG, [.hub], 0x18, 0x8, 1, 0x8, 1, false,
      [CFG_WINDOW_REMAIN_MS]⟩
  | .CFG_APPLY => ⟨.CFG, [.hub], 0x20, 0x8, 1, 0x8, 1, false,
      [CFG_APPLY_GO, CFG_APPLY_BLOCK]⟩
  | .CFG_LOADADDR => ⟨.CFG, [.hub], 0x28, 0x8, 1, 0x8, 1, false,
      [CFG_LOADADDR_BASE]⟩
  | .CFG_ACTSEQ => ⟨.CFG, [.hub], 0x30, 0x8, 1, 0x8, 1, false,
      [CFG_ACTSEQ_SEQ]⟩
  | .CFG_PREVSEQ => ⟨.CFG, [.hub], 0x38, 0x8, 1, 0x8, 1, false,
      [CFG_PREVSEQ_SEQ]⟩
  | .CFG_HIGHSEQ => ⟨.CFG, [.hub], 0x40, 0x8, 1, 0x8, 1, false,
      [CFG_HIGHSEQ_SEQ]⟩
  | .CFG_REJ0_ADDR => ⟨.CFG, [.hub], 0x100, 0x8, 1, 0x8, 1, false,
      [CFG_REJ0_ADDR_VALID, CFG_REJ0_ADDR_REG]⟩
  | .CFG_REJ0_INFO => ⟨.CFG, [.hub], 0x108, 0x8, 1, 0x8, 1, false,
      [CFG_REJ0_INFO_PART, CFG_REJ0_INFO_WORLD, CFG_REJ0_INFO_LEVEL, CFG_REJ0_INFO_THREAD, CFG_REJ0_INFO_SRC, CFG_REJ0_INFO_REASON]⟩
  | .CFG_REJ1_ADDR => ⟨.CFG, [.hub], 0x110, 0x8, 1, 0x8, 1, false,
      [CFG_REJ1_ADDR_VALID, CFG_REJ1_ADDR_REG]⟩
  | .CFG_REJ1_INFO => ⟨.CFG, [.hub], 0x118, 0x8, 1, 0x8, 1, false,
      [CFG_REJ1_INFO_PART, CFG_REJ1_INFO_WORLD, CFG_REJ1_INFO_LEVEL, CFG_REJ1_INFO_THREAD, CFG_REJ1_INFO_SRC, CFG_REJ1_INFO_REASON]⟩
  | .CFG_REJSTAT => ⟨.CFG, [.hub], 0x120, 0x8, 1, 0x8, 1, false,
      [CFG_REJSTAT_OVF, CFG_REJSTAT_OVF_COUNT]⟩
  | .PWR_DOM => ⟨.PWR, [.hub, .compute, .port], 0x0, 0x8, 64, 0x8, 1, false,
      [PWR_DOM_CUR, PWR_DOM_REQ, PWR_DOM_AUTO, PWR_DOM_SHELD, PWR_DOM_REQ_STATUS, PWR_DOM_IDLE_US]⟩
  | .PWR_WAKE_LAST => ⟨.PWR, [.hub, .compute, .port], 0x200, 0x8, 1, 0x8, 1, false,
      [PWR_WAKE_LAST_SRC, PWR_WAKE_LAST_DOMAIN, PWR_WAKE_LAST_DETAIL, PWR_WAKE_LAST_TICK]⟩
  | .PWR_WAKE_HIST => ⟨.PWR, [.hub, .compute, .port], 0x208, 0x8, 8, 0x8, 1, false,
      [PWR_WAKE_HIST_SRC, PWR_WAKE_HIST_DOMAIN, PWR_WAKE_HIST_DETAIL, PWR_WAKE_HIST_TICK]⟩
  | .PWR_AOTIME => ⟨.PWR, [.hub, .compute, .port], 0x280, 0x8, 1, 0x8, 1, false,
      [PWR_AOTIME_TICK]⟩
  | .PWR_AOTIMER => ⟨.PWR, [.hub, .compute, .port], 0x288, 0x8, 1, 0x8, 1, false,
      [PWR_AOTIMER_EN, PWR_AOTIMER_DOMAIN, PWR_AOTIMER_CMP]⟩
  | .PWR_REF0 => ⟨.PWR, [.hub, .compute, .port], 0x300, 0x8, 1, 0x8, 1, false,
      [PWR_REF0_VALID, PWR_REF0_DOMAIN, PWR_REF0_STATE, PWR_REF0_PART, PWR_REF0_WORLD, PWR_REF0_LEVEL, PWR_REF0_THREAD, PWR_REF0_SRC, PWR_REF0_TICK]⟩
  | .PWR_REF1 => ⟨.PWR, [.hub, .compute, .port], 0x308, 0x8, 1, 0x8, 1, false,
      [PWR_REF1_VALID, PWR_REF1_DOMAIN, PWR_REF1_STATE, PWR_REF1_PART, PWR_REF1_WORLD, PWR_REF1_LEVEL, PWR_REF1_THREAD, PWR_REF1_SRC, PWR_REF1_TICK]⟩
  | .PWR_REFSTAT => ⟨.PWR, [.hub, .compute, .port], 0x310, 0x8, 1, 0x8, 1, false,
      [PWR_REFSTAT_OVF, PWR_REFSTAT_OVF_COUNT]⟩
  | .PWR_THERM => ⟨.PWR, [.hub, .compute, .port], 0x400, 0x8, 1, 0x8, 1, false,
      [PWR_THERM_TMAX, PWR_THERM_SENSOR, PWR_THERM_TCTL, PWR_THERM_HYST, PWR_THERM_CUR_THR, PWR_THERM_PWR_THR, PWR_THERM_FAST_THR, PWR_THERM_CTL_THR]⟩
  | .PWR_TCAL => ⟨.PWR, [.hub, .compute, .port], 0x408, 0x8, 1, 0x8, 1, false,
      [PWR_TCAL_GO, PWR_TCAL_FAILED]⟩
  | .PWR_PKGLIM => ⟨.PWR, [.hub], 0x800, 0x8, 1, 0x8, 1, false,
      [PWR_PKGLIM_LIMIT_W, PWR_PKGLIM_EFF_W, PWR_PKGLIM_WINDOW_MS, PWR_PKGLIM_NOW_W, PWR_PKGLIM_VIN_DV]⟩
  | .PWR_EDGEREL => ⟨.PWR, [.hub], 0x808, 0x8, 1, 0x8, 1, false,
      [PWR_EDGEREL_HELD, PWR_EDGEREL_REL]⟩
  | .CLK_CLUSTER => ⟨.CLK, [.compute], 0x0, 0x8, 2, 0x8, 1, false,
      [CLK_CLUSTER_FCUR, CLK_CLUSTER_FCEIL, CLK_CLUSTER_VCUR, CLK_CLUSTER_FMAX, CLK_CLUSTER_FMIN]⟩
  | .SEC_SWCTL => ⟨.SEC, [.hub], 0x8, 0x8, 12, 0x8, 1, false,
      [SEC_SWCTL_STATE, SEC_SWCTL_DBG_EN, SEC_SWCTL_REKEY_RST, SEC_SWCTL_WD_MS]⟩
  | .SEC_GREC => ⟨.SEC, [.hub], 0x88, 0x8, 12, 0x8, 1, false,
      [SEC_GREC_BASE]⟩
  | .SEC_SENG => ⟨.SEC, [.hub], 0x100, 0x8, 1, 0x8, 1, false,
      [SEC_SENG_ENGINE]⟩
  | .SEC_RNGCMD => ⟨.SEC, [.hub], 0x188, 0x8, 12, 0x8, 1, false,
      [SEC_RNGCMD_BUSY, SEC_RNGCMD_OP, SEC_RNGCMD_RESULT, SEC_RNGCMD_GIB]⟩
  | .SEC_BOOTSTAT => ⟨.SEC, [.hub], 0x400, 0x8, 1, 0x8, 1, false,
      [SEC_BOOTSTAT_REASON_A, SEC_BOOTSTAT_REASON_B, SEC_BOOTSTAT_STOP, SEC_BOOTSTAT_RECOVERY, SEC_BOOTSTAT_SLOT, SEC_BOOTSTAT_KEYSLOT, SEC_BOOTSTAT_EXCL, SEC_BOOTSTAT_SVN]⟩
  | .SEC_KEYSTAT => ⟨.SEC, [.hub], 0x408, 0x8, 1, 0x8, 1, false,
      [SEC_KEYSTAT_REVOKED, SEC_KEYSTAT_PRESENT]⟩
  | .SEC_KEYREV => ⟨.SEC, [.hub], 0x410, 0x8, 1, 0x8, 1, false,
      [SEC_KEYREV_GO, SEC_KEYREV_BUSY, SEC_KEYREV_RESULT, SEC_KEYREV_SLOT]⟩
  | .SEC_FLOOR => ⟨.SEC, [.hub], 0x418, 0x8, 1, 0x8, 1, false,
      [SEC_FLOOR_GO, SEC_FLOOR_BUSY, SEC_FLOOR_RESULT, SEC_FLOOR_REQ, SEC_FLOOR_CUR]⟩
  | .SEC_FLASHCMD => ⟨.SEC, [.hub], 0x420, 0x8, 1, 0x8, 1, false,
      [SEC_FLASHCMD_GO, SEC_FLASHCMD_BUSY, SEC_FLASHCMD_RESULT, SEC_FLASHCMD_OP, SEC_FLASHCMD_SLOT, SEC_FLASHCMD_FOFF]⟩
  | .SEC_FLASHADDR => ⟨.SEC, [.hub], 0x428, 0x8, 1, 0x8, 1, false,
      [SEC_FLASHADDR_BUF]⟩
  | .SEC_MEXT => ⟨.SEC, [.hub], 0x430, 0x8, 1, 0x8, 1, false,
      [SEC_MEXT_GO, SEC_MEXT_BUSY, SEC_MEXT_RESULT, SEC_MEXT_REG, SEC_MEXT_BUF]⟩
  | .SEC_MREG => ⟨.SEC, [.hub], 0x1000, 0x40, 16, 0x8, 6, false,
      [SEC_MREG_W]⟩
  | .MTRX_STAT => ⟨.MTRX, [.hub], 0x0, 0x8, 1, 0x8, 1, false,
      [MTRX_STAT_LINK, MTRX_STAT_SEALED, MTRX_STAT_LOGFULL, MTRX_STAT_OWNER_PEND, MTRX_STAT_MISSED, MTRX_STAT_FW_VER]⟩
  | .MTRX_RING => ⟨.MTRX, [.hub], 0x8, 0x8, 1, 0x8, 1, false,
      [MTRX_RING_EN, MTRX_RING_BASE, MTRX_RING_SIZE]⟩
  | .MTRX_RPTR => ⟨.MTRX, [.hub], 0x10, 0x8, 1, 0x8, 1, false,
      [MTRX_RPTR_RD, MTRX_RPTR_WR]⟩
  | .MTRX_CMD => ⟨.MTRX, [.hub], 0x18, 0x8, 1, 0x8, 1, false,
      [MTRX_CMD_GO, MTRX_CMD_BUSY, MTRX_CMD_RESULT, MTRX_CMD_OP, MTRX_CMD_ARG]⟩
  | .EVR_SRC => ⟨.EVR, [.hub], 0x0, 0x8, 768, 0x8, 1, false,
      [EVR_SRC_EN, EVR_SRC_PART, EVR_SRC_MODE, EVR_SRC_FIXM, EVR_SRC_VECTOR]⟩
  | .EVR_CTL => ⟨.EVR, [.hub], 0x2000, 0x40, 13, 0x8, 1, false,
      [EVR_CTL_EN, EVR_CTL_INV, EVR_CTL_INV_BUSY, EVR_CTL_FALLBACK]⟩
  | .EVR_VTBASE => ⟨.EVR, [.hub], 0x2008, 0x40, 13, 0x8, 1, false,
      [EVR_VTBASE_BASE]⟩
  | .EVR_SVTBASE => ⟨.EVR, [.hub], 0x2010, 0x40, 13, 0x8, 1, false,
      [EVR_SVTBASE_BASE]⟩
  | .EVR_RPTBASE => ⟨.EVR, [.hub], 0x2018, 0x40, 13, 0x8, 1, false,
      [EVR_RPTBASE_BASE]⟩
  | .EVR_ONLINE => ⟨.EVR, [.hub], 0x3000, 0x8, 12, 0x8, 1, false,
      [EVR_ONLINE_ONLINE]⟩
  | .RAS_ERR0_ADDR => ⟨.RAS, [.hub, .compute, .port], 0x0, 0x100, 4, 0x8, 1, false,
      [RAS_ERR0_ADDR_VALID, RAS_ERR0_ADDR_ADDR]⟩
  | .RAS_ERR0_INFO => ⟨.RAS, [.hub, .compute, .port], 0x8, 0x100, 4, 0x8, 1, false,
      [RAS_ERR0_INFO_UNIT, RAS_ERR0_INFO_THREAD, RAS_ERR0_INFO_DETAIL, RAS_ERR0_INFO_PART, RAS_ERR0_INFO_WORLD, RAS_ERR0_INFO_SEV, RAS_ERR0_INFO_CODE]⟩
  | .RAS_ERR0_MISC0 => ⟨.RAS, [.hub, .compute, .port], 0x10, 0x100, 4, 0x8, 1, false,
      [RAS_ERR0_MISC0_M]⟩
  | .RAS_ERR0_MISC1 => ⟨.RAS, [.hub, .compute, .port], 0x18, 0x100, 4, 0x8, 1, false,
      [RAS_ERR0_MISC1_M]⟩
  | .RAS_ERR1_ADDR => ⟨.RAS, [.hub, .compute, .port], 0x20, 0x100, 4, 0x8, 1, false,
      [RAS_ERR1_ADDR_VALID, RAS_ERR1_ADDR_ADDR]⟩
  | .RAS_ERR1_INFO => ⟨.RAS, [.hub, .compute, .port], 0x28, 0x100, 4, 0x8, 1, false,
      [RAS_ERR1_INFO_UNIT, RAS_ERR1_INFO_THREAD, RAS_ERR1_INFO_DETAIL, RAS_ERR1_INFO_PART, RAS_ERR1_INFO_WORLD, RAS_ERR1_INFO_SEV, RAS_ERR1_INFO_CODE]⟩
  | .RAS_ERR1_MISC0 => ⟨.RAS, [.hub, .compute, .port], 0x30, 0x100, 4, 0x8, 1, false,
      [RAS_ERR1_MISC0_M]⟩
  | .RAS_ERR1_MISC1 => ⟨.RAS, [.hub, .compute, .port], 0x38, 0x100, 4, 0x8, 1, false,
      [RAS_ERR1_MISC1_M]⟩
  | .RAS_ERRSTAT => ⟨.RAS, [.hub, .compute, .port], 0x40, 0x100, 4, 0x8, 1, false,
      [RAS_ERRSTAT_OVF, RAS_ERRSTAT_OVF_COUNT]⟩
  | .RAS_CTL => ⟨.RAS, [.hub, .compute, .port], 0x48, 0x100, 4, 0x8, 1, false,
      [RAS_CTL_CCOUNT, RAS_CTL_CREC, RAS_CTL_CTHRESH]⟩
  | .PMP_IDENT => ⟨.PMP, [.hub], 0x0, 0x8, 1, 0x8, 1, false,
      [PMP_IDENT_PART_NUM, PMP_IDENT_STEP_MAJOR, PMP_IDENT_STEP_MINOR, PMP_IDENT_IF_VER]⟩
  | .PMP_REQ => ⟨.PMP, [.hub], 0x8, 0x8, 1, 0x8, 1, false,
      [PMP_REQ_GO, PMP_REQ_BUSY, PMP_REQ_DISC]⟩
  | .PMP_RSP => ⟨.PMP, [.hub], 0x10, 0x8, 1, 0x8, 1, false,
      [PMP_RSP_DONE, PMP_RSP_STATUS, PMP_RSP_SEQ]⟩
  | .PMP_NOTE => ⟨.PMP, [.hub], 0x18, 0x8, 1, 0x8, 1, false,
      [PMP_NOTE_RD, PMP_NOTE_LOST, PMP_NOTE_WR]⟩
  | .PMP_WAKE => ⟨.PMP, [.hub], 0x20, 0x8, 1, 0x8, 1, false,
      [PMP_WAKE_PATTERN]⟩
  | .PMP_STATE => ⟨.PMP, [.hub], 0x28, 0x8, 1, 0x8, 1, false,
      [PMP_STATE_PHASE, PMP_STATE_STOP, PMP_STATE_REASON_A, PMP_STATE_REASON_B]⟩

/-- Every register name, in the order of the blocks. -/
def RegName.all : List RegName :=
  List.flatten [
    [.DCTL_IDENT, .CORE_STATUS, .CORE_CACHE_CTL, .DCACHE_CTL, .CORE_SPEC_CTL, .CORE_PF_CTL, .CORE_WAITCTL, .CORE_WAKEPC, .CORE_SECACT, .CORE_PMSEL, .CORE_PMC, .DCTL_LCMAP],
    [.DCTL_MIGRATE, .PERF_SEL, .PERF_CNT, .XTL_AST, .XTL_SAST, .XTL_DEVT, .XTL_FAULT0_ADDR, .XTL_FAULT0_INFO, .XTL_FAULT1_ADDR, .XTL_FAULT1_INFO, .XTL_FAULTSTAT, .PORT_DEVTMO],
    [.HOME_DIRCTL, .HOME_TMO, .HOME_RTBASE, .HOME_FENCE0, .HOME_FENCE1, .HOME_ERR0_ADDR, .HOME_ERR0_INFO, .HOME_ERR1_ADDR, .HOME_ERR1_INFO, .HOME_ERRSTAT, .HOME_RCWAY, .HOME_HOTCTL],
    [.HOME_HOTSNAP, .HOME_ISET_A, .HOME_ISET_B, .HOME_RNGOWN, .HOME_RNGSEC, .MEMC_ERR0_ADDR, .MEMC_ERR0_INFO, .MEMC_ERR1_ADDR, .MEMC_ERR1_INFO, .MEMC_ERRSTAT, .MEMC_SCRUB, .MEMC_DEVFAIL],
    [.MEMC_SPARE, .MEMC_RECAL, .SKM_QBASE, .SKM_QCTL, .SKM_QTAIL, .SKM_QHEAD, .SKM_STATUS, .SKM_ELCPWR, .SKM_SPPWR, .SKM_RSTAT, .SKM_DBGCTL, .SKM_BPADDR],
    [.SKM_PFAULT, .SKM_UCODE, .SKM_RGN_FIRST, .SKM_RGN_CORE, .SKM_RGN_HOST, .RING_ARB, .SPINE_ARB, .DCTL_EPOCH, .DCTL_RSPTMO, .DCTL_FW, .DCTL_UPD_CMD, .DCTL_UPD_ADDR],
    [.SLINK_CTL, .SLINK_STAT, .SLINK_RMAP, .SLINK_CTL_HP, .SLINK_STAT_HP, .SLINK_RMAP_HP, .SLINK_DISC, .LATH_PORT, .LATH_PORT_HUB, .CFG_CTL, .CFG_STAT, .CFG_CONFIRM],
    [.CFG_WINDOW, .CFG_APPLY, .CFG_LOADADDR, .CFG_ACTSEQ, .CFG_PREVSEQ, .CFG_HIGHSEQ, .CFG_REJ0_ADDR, .CFG_REJ0_INFO, .CFG_REJ1_ADDR, .CFG_REJ1_INFO, .CFG_REJSTAT, .PWR_DOM],
    [.PWR_WAKE_LAST, .PWR_WAKE_HIST, .PWR_AOTIME, .PWR_AOTIMER, .PWR_REF0, .PWR_REF1, .PWR_REFSTAT, .PWR_THERM, .PWR_TCAL, .PWR_PKGLIM, .PWR_EDGEREL, .CLK_CLUSTER],
    [.SEC_SWCTL, .SEC_GREC, .SEC_SENG, .SEC_RNGCMD, .SEC_BOOTSTAT, .SEC_KEYSTAT, .SEC_KEYREV, .SEC_FLOOR, .SEC_FLASHCMD, .SEC_FLASHADDR, .SEC_MEXT, .SEC_MREG],
    [.MTRX_STAT, .MTRX_RING, .MTRX_RPTR, .MTRX_CMD, .EVR_SRC, .EVR_CTL, .EVR_VTBASE, .EVR_SVTBASE, .EVR_RPTBASE, .EVR_ONLINE, .RAS_ERR0_ADDR, .RAS_ERR0_INFO],
    [.RAS_ERR0_MISC0, .RAS_ERR0_MISC1, .RAS_ERR1_ADDR, .RAS_ERR1_INFO, .RAS_ERR1_MISC0, .RAS_ERR1_MISC1, .RAS_ERRSTAT, .RAS_CTL, .PMP_IDENT, .PMP_REQ, .PMP_RSP, .PMP_NOTE],
    [.PMP_WAKE, .PMP_STATE]]

end Sys2Proof.Machine
end

