-- ==== Sys2Proof/Machine/Bits.lean ====
section
/-! DEFINITION. Bit fields, sign extension, byte order, and the sorted key and value lists that hold every sparse piece of state. -/

namespace Sys2Proof.Machine

/-- Bits [hi:lo] of a number. -/
def nbits (x hi lo : Nat) : Nat := (x >>> lo) % 2 ^ (hi + 1 - lo)

/-- `x` with bits [hi:lo] replaced by the low bits of `v`. -/
def setNbits (x hi lo v : Nat) : Nat :=
  x - (nbits x hi lo <<< lo) + ((v % 2 ^ (hi + 1 - lo)) <<< lo)

/-- Bits [hi:lo] of a 64-bit word. -/
def wbits (x : W64) (hi lo : Nat) : Nat := nbits x.toNat hi lo

/-- Bit `i` of a 64-bit word. -/
def wbit (x : W64) (i : Nat) : Bool := x.getLsbD i

/-- A 64-bit word with bits [hi:lo] replaced. -/
def setWbits (x : W64) (hi lo v : Nat) : W64 := BitVec.ofNat 64 (setNbits x.toNat hi lo v)

/-- A Boolean as a one-bit number. -/
def b2n (b : Bool) : Nat := if b then 1 else 0

/-- A Boolean as a 64-bit word. -/
def b2w (b : Bool) : W64 := if b then 1 else 0

/-- The low `n` bits of `x`, sign-extended to 64 bits. -/
def sextN (n x : Nat) : W64 := (BitVec.ofNat n x).signExtend 64

/-- The value of a two's complement word. -/
def sval (x : W64) : Int := x.toInt

/-- The `n` bytes of a number, the least significant first (R89). -/
def toBytes : Nat → Nat → List Byte
  | 0, _ => []
  | n + 1, x => BitVec.ofNat 8 x :: toBytes n (x >>> 8)

/-- The number that a little-endian list of bytes holds (R89). -/
def ofBytes : List Byte → Nat
  | [] => 0
  | b :: r => b.toNat + (ofBytes r <<< 8)

/-- The number of 1 bits among the low `n` bits of `x`. -/
def popCount : Nat → Nat → Nat
  | 0, _ => 0
  | n + 1, x => x % 2 + popCount n (x / 2)

/-- The low `n` bits of `x` in reverse order. -/
def revBits : Nat → Nat → Nat
  | 0, _ => 0
  | n + 1, x => (x % 2) <<< n + revBits n (x / 2)

/-- The number of trailing zeros of `x` among `n` bits. -/
def ctzN : Nat → Nat → Nat
  | 0, _ => 0
  | n + 1, x => if x % 2 = 1 then 0 else 1 + ctzN n (x / 2)

/-- The number of leading zeros of the `n`-bit number `x`. -/
def clzN : Nat → Nat → Nat
  | 0, _ => 0
  | n + 1, x => if x.testBit n then 0 else 1 + clzN n x

/-- The XOR of the `w`-bit groups of `x`, `n` groups. -/
def foldXor (w : Nat) : Nat → Nat → Nat
  | 0, _ => 0
  | n + 1, x => (x % 2 ^ w) ^^^ foldXor w n (x >>> w)

/-- `x` rounded down to a multiple of `2 ^ k`. -/
def alignDown (x k : Nat) : Nat := (x >>> k) <<< k

/-- One CRC-32C step over a byte (R119). -/
def crcByte (c : BitVec 32) (x : Byte) : BitVec 32 :=
  (List.range 8).foldl (fun c _ => if c.getLsbD 0 then (c >>> 1) ^^^ 0x82f63b78 else c >>> 1) (c ^^^ x.zeroExtend 32)

/-- CRC-32C over bytes, the first byte first (R119). -/
def crcBytes (c : BitVec 32) (l : List Byte) : BitVec 32 := l.foldl crcByte c

/-! Sorted lists of keys and values. -/

/-- The value a list holds for a key, or `d`. -/
def look {β : Type} (d : β) : List (Nat × β) → Nat → β
  | [], _ => d
  | (k, v) :: r, a => if a = k then v else look d r a

/-- The entry a list holds for a key. -/
def look? {β : Type} : List (Nat × β) → Nat → Option β
  | [], _ => none
  | (k, v) :: r, a => if a = k then some v else look? r a

/-- The list without the entries of a key. -/
def del {β : Type} : List (Nat × β) → Nat → List (Nat × β)
  | [], _ => []
  | (k, v) :: r, a => if a = k then del r a else (k, v) :: del r a

/-- The list with a key's value written, in rising order of keys. -/
def put {β : Type} : List (Nat × β) → Nat → β → List (Nat × β)
  | [], a, v => [(a, v)]
  | (k, w) :: r, a, v =>
    if a < k then (a, v) :: (k, w) :: r
    else if a = k then (a, v) :: r
    else (k, w) :: put r a v

/-- The list with a key's value written where no entry equals the value `d` that an unlisted key reads as. -/
def putC {β : Type} [DecidableEq β] (d : β) (l : List (Nat × β)) (a : Nat) (v : β) : List (Nat × β) :=
  if v = d then del l a else put l a v

/-- Keys strictly rising above `lo`, and no entry equal to `d`: the canonical form of a sparse list. -/
def canonFrom {β : Type} [DecidableEq β] (d : β) : Nat → List (Nat × β) → Bool
  | _, [] => true
  | lo, (k, v) :: r => decide (lo ≤ k) && !decide (v = d) && canonFrom d (k + 1) r

/-- The canonical form of a sparse list. -/
def canon {β : Type} [DecidableEq β] (d : β) (l : List (Nat × β)) : Bool := canonFrom d 0 l

/-! Sets of numbers, as rising lists without repeats. -/

/-- Membership of a rising list. -/
def has (l : List Nat) (a : Nat) : Bool := l.any (fun x => x == a)

/-- The list with a number added in rising order. -/
def ins : List Nat → Nat → List Nat
  | [], a => [a]
  | x :: r, a => if a < x then a :: x :: r else if a = x then x :: r else x :: ins r a

/-- The list with a number removed. -/
def rem (l : List Nat) (a : Nat) : List Nat := l.filter (fun x => !(x == a))

/-- The first element that meets a test, removed from the list. -/
def takeFirst {α : Type} (p : α → Bool) : List α → Option (α × List α)
  | [] => none
  | x :: r => if p x then some (x, r) else
    match takeFirst p r with
    | some (y, r') => some (y, x :: r')
    | none => none

/-- The list without its first element that meets a test. -/
def dropFirst {α : Type} (p : α → Bool) : List α → List α
  | [] => []
  | x :: r => if p x then r else x :: dropFirst p r

/-- The list with the first element that meets a test replaced. -/
def markFirst {α : Type} (p : α → Bool) (f : α → α) : List α → List α
  | [] => []
  | x :: r => if p x then f x :: r else x :: markFirst p f r

/-- The list with every element that meets a test replaced. -/
def mapIf {α : Type} (p : α → Bool) (f : α → α) (l : List α) : List α :=
  l.map (fun x => if p x then f x else x)

end Sys2Proof.Machine
end

