-- ==== Sys2Proof/Machine/State.lean ====
section
/-! DEFINITION. The state of the package as plain data, the queue of commands that wait, the state after reset, and the reasons a step can stop. -/

namespace Sys2Proof.Machine

/-- The agents that the directory and the fabric name (R259, R431): a die with a physical core, a skim engine, a port agent, and the hub's own units (job steering, translation units). -/
inductive Agent where
  | core (die pcore : Nat)
  | eng (n : Nat)
  | port (n : Nat)
  | hub
  deriving DecidableEq, Repr

/-- The messages between agents, homes, ports and threads (R434). -/
inductive MsgOp where
  | RDS | RDO | UPG | OWN | RDC | RDP | STN | WRF | WRP | CMT
  | REGRD | REGWR | POSTWR | EVMSG
  | WB | EVC | EVF
  | RCS | RCI | RCC | INV | PRB | FAP
  | ACK | ACKF | RCD
  | GNTE | GNTS | GNTF | GNTO | DATA | RDY | DONE | WBA | DFR | REF
  | REGCPL | POSTACK | CREDIT | TREQ | TGNT | EPOCH | OPEN | ASLEEP | STALE | FERR
  deriving DecidableEq, Repr

/-- One network that a packet crosses on its way (R425): a ring of a compute die from a stop to a stop, in ascending or descending order (R426); the crossbar of a port die; a scrim link, toward the hub or from it; a ring of the spine from a node to a node (R428, R429). -/
inductive Leg where
  | ring (die src dst : Nat) (asc : Bool)
  | crossbar (die src dst : Nat)
  | link (die : Nat) (toHub : Bool)
  | spine (ring entry exit : Nat) (asc : Bool)
  deriving DecidableEq, Repr

/-- A message sent and not yet arrived: its opcode, its address (a line for coherence messages), the agent it is from or for, and its partition and world. -/
structure Msg where
  op : MsgOp
  addr : Nat
  agent : Agent
  part : Nat := 0
  world : Bool := false
  info : Nat := 0
  /-- The data and the byte mask that the message carries. -/
  data : Nat := 0
  mask : Nat := 0
  /-- The requester's response slot, or the home's transaction slot (R433). -/
  txid : Nat := 0
  /-- The slot reserved at the destination; 0xFF means none (R438). -/
  token : Nat := 0xFF
  /-- The role epoch of the destination die as the sender knew it (R452). -/
  epoch : Nat := 0
  /-- The networks that it crosses (R425 to R430). -/
  legs : List Leg := []
  deriving DecidableEq, Repr

/-- A raise of an event source on its way to the router (R608). -/
structure Raise where
  source : Nat
  part : Nat := 0
  sev : Nat := 0
  code : Nat := 0
  thread : Option Nat := none
  /-- The vector raised in place of the source's own (R370). -/
  vec : Option Nat := none
  /-- What the event names besides: a GiB (R314), a partition (R533). -/
  info : Nat := 0
  deriving DecidableEq, Repr

/-- A shadow bank of a thread: g1 to g8 and the record (R143), with the owner and the below link of R146. -/
structure Bank where
  g : List (Nat × W64) := []
  tpc : W64 := 0
  tcause : W64 := 0
  tval : W64 := 0
  tstat : W64 := 0
  tprog : W64 := 0
  /-- Stack code of the level whose trap wrote the record (R127, R135). -/
  owner : BitVec 3 := 0
  /-- Stack code of the stack that holds the frame beneath, 0 if none (R146). -/
  below : BitVec 3 := 0
  /-- The trap found the thread at a vector whose first instruction had not been fetched (R141). -/
  atVec : Bool := false
  deriving DecidableEq, Repr

/-- What a thread is doing (R18, R75, R161, R523, R525). -/
inductive RunState where
  | inReset | running | waiting (depth : BitVec 2) | migrating | checkStopped | offline
  deriving DecidableEq, Repr

/-- A reservation (R236). -/
structure Resv where
  line : Nat
  addr : Nat
  size : Nat
  deriving DecidableEq, Repr

/-- An event in a slot of a thread, or a vector pending in the router: the fields of R616 and the target level as a stack code (R138, R615). -/
structure Event where
  vector : Nat
  level : BitVec 3
  source : Nat := 0x3FF
  sev : Nat := 0
  code : Nat := 0
  count : Nat := 1
  msg : Bool := false
  fbk : Bool := false
  /-- The instance (partition) of the router that holds it. -/
  inst : Nat := 0
  deriving DecidableEq, Repr

/-- A held asynchronous machine check: its class and TVAL (R157, R682). -/
structure McRec where
  detail : Nat
  tval : W64
  deriving DecidableEq, Repr

/-- An open activation (R547, R554, R555). -/
structure Act where
  depth : Nat
  recAddr : Nat
  /-- LOWM (R555): frames of depths at or below the activation's spilled to M's stack since the GATE, less those refilled. -/
  lowm : Int
  started : Nat
  /-- Core cycles since the GATE, which the gap marker of the trace reports (R558). -/
  cycles : Nat := 0
  /-- Stack code of the stack that the bank at the activation's depth was spilled to, 0 while it is resident (R555). -/
  dStk : BitVec 3 := 0
  /-- The watchdog event of this activation has been raised and not withdrawn. -/
  wdRaised : Bool := false
  deriving DecidableEq, Repr

/-- A part of an access that lies in one line: its addresses, its length, and its memory type. -/
structure MemPart where
  va : W64
  pa : Nat
  len : Nat
  mt : Nat
  deriving DecidableEq, Repr

/-- One access of a device instruction: its physical and virtual address, a store's data or a load's lane number, and whether it is a D-P store, which a posted acknowledgement completes. -/
structure DevAcc where
  pa : Nat
  va : W64
  val : Nat
  posted : Bool
  /-- The parts of a lane of N-WB or N-NC memory (R230). -/
  parts : List MemPart := []
  deriving DecidableEq, Repr

/-- A device access that a thread waits for (R228 to R230): the accesses still to complete, the current one first. -/
structure DevWait where
  acc : List DevAcc
  size : Nat
  write : Bool
  /-- Bytes of the instruction, which retires at the last completion. -/
  len : Nat
  /-- A scalar load's register, and whether it sign-extends. -/
  dest : Option (Nat × Bool) := none
  /-- A VLD's register and Z, with the lanes collected. -/
  vd : Option (Nat × Bool) := none
  got : List (Nat × Nat) := []
  /-- The fault of the lane after the last that is performed (R230): code, DETAIL, TVAL, and what a partition-stage fault writes. -/
  stop : Option (Nat × Nat × W64 × Option (W64 × Nat)) := none
  deriving DecidableEq, Repr

/-- A TLB entry (R191): the tags, the page, the attributes and the leaf's D. -/
structure TlbEnt where
  regime : BitVec 2
  /-- Stage 1 translated (R163). -/
  s1 : Bool
  world : Bool
  asid : Option Nat
  vmid : Option Nat
  part : Nat
  va : Nat
  size : Nat
  pa : Nat
  r : Bool
  w : Bool
  x : Bool
  u : Bool
  mt : BitVec 3
  dirty : Bool
  gw : Bool
  /-- The port of a device, in the TLB of a port translation unit (R210). -/
  port : Option Nat := none
  deriving DecidableEq, Repr

/-- A context entry that a translation unit holds (R203): its die, the partition and world, the ASID, and the words of the table entry. -/
structure CtxEnt where
  die : Nat
  part : Nat
  world : Bool
  ix : Nat
  w0 : W64
  w1 : W64
  w2 : W64
  deriving DecidableEq, Repr

/-- A walk-cache entry (R190): the stage, the tags, the entry's address and its value. -/
structure WalkEnt where
  stage2 : Bool
  regime : BitVec 2
  vmid : Option Nat
  pa : Nat
  val : W64
  deriving DecidableEq, Repr

/-- The sort of a control transfer, by the structure of the predictor that it trains (R70). -/
inductive BranchKind where
  | cond | direct | indirect
  deriving DecidableEq, Repr

/-- A branch that trains the predictor when it retires, with the tags of its entries (R70). -/
structure PredEnt where
  thread : Nat
  world : Bool
  pc : W64
  kind : BranchKind
  taken : Bool
  target : W64
  deriving DecidableEq, Repr

/-- A direction counter, with its tags (R70). -/
structure DirEnt where
  thread : Nat
  world : Bool
  pc : W64
  ctr : Nat
  deriving DecidableEq, Repr

/-- An entry of the branch target buffer or of the indirect target table, with its tags (R70). -/
structure TgtEnt where
  thread : Nat
  world : Bool
  pc : W64
  target : W64
  deriving DecidableEq, Repr

/-- One hardware thread (R85 to R134, R183 to R185, R236, R615). DESIGN CHOICE: R85 gives g1 to g31, v0 to v31 and p1 to p7 no value after a core reset, and they start at zero (log entry 5). -/
structure Thread where
  run : RunState := .inReset
  pc : W64 := 0
  level : BitVec 2 := 3
  world : Bool := false
  ie : Bool := false
  ven : Bool := false
  shbank : BitVec 2 := 0
  /-- Nesting depth and the number of resident banks (R144). -/
  depth : Nat := 0
  resident : Nat := 1
  /-- g9 to g31; g1 to g8 are in the banks (R143). -/
  g : List (Nat × W64) := []
  v : List (Nat × V512) := []
  p : List (Nat × W64) := []
  banks : List (Nat × Bank) := [(0, { tstat := 3 })]
  fpcsr : W64 := 0
  progress : W64 := 0
  /-- Every other control register that holds a plain value, by its number (R92, R126, R183 to R185). -/
  cr : List (Nat × W64) := []
  /-- Asynchronous machine checks held, oldest first (R157). -/
  mcs : List McRec := []
  /-- Event slots, at most four (R615). -/
  slots : List Event := []
  /-- Local events pending: counter numbers nn (R79, R135 code 0x31). -/
  locals : List Nat := []
  resv : Option Resv := none
  /-- The line of the hold that an LRES started (R240). -/
  hold : Option Nat := none
  /-- Package time before which no new hold is given (R240). -/
  noHoldUntil : Nat := 0
  /-- Stores that wait for write ownership, oldest first: address and byte (R214). -/
  sq : List (Nat × Byte) := []
  /-- The entries of the store queue that they take (R37): the line, and the set of L1 data that VA[12:6] gives (R39). -/
  sqe : List (Nat × Nat) := []
  /-- Translations that wait for the retirement of their instruction (R61, R192): the instruction's number in `lseq`, whether they are of a fetch, and the entry; and the pointer entries met. -/
  walkBuf : List (Nat × Bool × TlbEnt) := []
  walkPtrs : List (Nat × WalkEnt) := []
  dev : Option DevWait := none
  act : Option Act := none
  /-- The first instruction at a vector has not yet been fetched (R141). -/
  atVector : Bool := false
  /-- Global branch history and return stack (R70). -/
  ghist : Nat := 0
  retStack : List W64 := []
  /-- The number of the next instruction among those behind the oldest unretired load (the model's own; R56). -/
  lseq : Nat := 0
  /-- The instruction that runs has missed: bit 0 the instruction TLB, bit 1 the data TLB (R80 events 0x0021 and 0x0022). -/
  missed : BitVec 2 := 0
  /-- Events of instructions that stand behind an unretired load, to be counted when it retires (R63, R80). -/
  evq : List Nat := []
  /-- Branches that stand behind an unretired load, to train the predictor when it retires (R63, R70). -/
  trainq : List PredEnt := []
  /-- The line of a load that was answered "defer" and waits until it is settled (R54), and whether it has settled since. -/
  deferred : Option (Nat × Bool) := none
  /-- Lines of N-NC memory that the instruction reads, and whether their data has come (R60, R175). -/
  ncReads : List (Nat × Bool) := []
  /-- Lines whose read was completed as FERR: the load or fetch that reads one takes a machine check (R62, R443). -/
  ferrs : List Nat := []
  /-- A fence has reached retirement and waits (R233). -/
  fencing : Bool := false
  /-- TLB maintenance that is not known to be complete (R199): its scope, and the accesses that may have used a removed entry, each as its thread and line. -/
  tlbis : List (Nat × List (Nat × Nat)) := []
  deriving DecidableEq, Repr

/-- Line states of the private caches and of the die cache (R41); F exists only in the die cache. -/
inductive LState where
  | I | S | E | F | M
  deriving DecidableEq, Repr

/-- A load or a fetch that has read from a fill entry and has not retired (R56 to R59): its number in the thread's order, its PC, the bytes that memory supplied to it, and the thread as it was before it, which a replay brings back. A recorded hit keeps no thread. -/
structure FillUse where
  seq : Nat
  pc : W64 := 0
  bytes : List (Nat × Byte) := []
  snap : Option Thread := none
  deriving DecidableEq, Repr

/-- An entry of the speculative fill buffer or of the fetch fill buffer (R54 to R61), or a hit recorded until its load retires (R59). -/
structure FillEnt where
  line : Nat
  /-- The set of the L1 cache that it goes to: VA[12:6] (R39). -/
  vset : Nat := 0
  /-- Thread of the core, by global number. -/
  thread : Nat
  fetch : Bool
  /-- The entry of a page-table read of the thread's walk (R61, R194). -/
  walk : Bool := false
  settled : Bool
  /-- The answer of the read that filled it has not arrived. -/
  inFlight : Bool
  /-- A recorded hit: 1 in L1, 2 in L2 and not in L1; 0 an entry of a fill buffer. -/
  hit : Nat := 0
  /-- The consumed bytes have been compared with the settled read (R56). -/
  valid : Bool := false
  /-- The slice has invalidated or recalled the line, or its settled read was refused: the loads run again (R58, R62). -/
  bad : Bool := false
  /-- A settle notice has been sent after the provisional read (R55). -/
  noticed : Bool := false
  /-- The state that the settled read granted. -/
  grant : LState := .I
  /-- The loads that have read from it, oldest first. -/
  uses : List FillUse := []
  deriving DecidableEq, Repr

/-- A write-combining buffer (R228). -/
structure WcBuf where
  line : Nat
  thread : Nat
  world : Bool
  bytes : List (Nat × Byte)
  /-- The write has been sent, and the home has not answered it (R214, R228). -/
  sent : Bool := false
  deriving DecidableEq, Repr

/-- A stride table entry (R67): the load's PC, its last line and the last stride in lines. -/
structure StrideEnt where
  pc : W64
  last : Nat
  stride : Int
  deriving DecidableEq, Repr

/-- One physical core (R39, R45, R54, R67, R70, R190, R228). -/
structure Core where
  /-- L1 instruction lines, the most recently used first: the line and its set, which VA[12:6] gives (R39). -/
  l1i : List (Nat × Nat) := []
  /-- L1 data lines, as L1 instruction, with their state. -/
  l1d : List (Nat × Nat × LState) := []
  /-- L2 lines with their state, the most recently used first (R39, R41). -/
  l2 : List (Nat × LState) := []
  fills : List FillEnt := []
  wcbs : List WcBuf := []
  itlb : List TlbEnt := []
  dtlb : List TlbEnt := []
  l2tlb : List TlbEnt := []
  l2large : List TlbEnt := []
  walk1 : List WalkEnt := []
  walk2 : List WalkEnt := []
  /-- The branch predictor's direction counters, branch target buffer and indirect target table (R70). -/
  dirs : List DirEnt := []
  btb : List TgtEnt := []
  indirect : List TgtEnt := []
  strides : List StrideEnt := []
  streams : List Nat := []
  /-- Lines whose prefetch is outstanding (R45, R67), and prefetched lines of L2 that no load has used (R80 event 0x0041). -/
  pfOut : List Nat := []
  pfLines : List Nat := []
  /-- Bits 0 to 2: L1I, L1D, L2 being cleaned; a re-enable waits for the end (R49). -/
  cleaning : BitVec 3 := 0
  deriving DecidableEq, Repr

/-- A migration in progress on a compute die (R75). -/
structure Migration where
  src : Nat
  dst : Nat
  /-- The source has been cleaned and its state copied. -/
  copied : Bool := false
  /-- Started by the SPARING section (R510) and not by DCTL_MIGRATE. -/
  byImage : Bool := false
  /-- What the two threads of the logical core were doing. -/
  runs : List (Nat × RunState) := []
  deriving DecidableEq, Repr

/-- The caches of one compute die (R39 to R46). -/
structure CDieSt where
  /-- The die's state of each line toward the home (R41, R43), the most recently used first. -/
  dc : List (Nat × LState) := []
  /-- Snoop filter, the most recently used first: a line and the mask of the physical cores whose L2 may hold it (R44). -/
  sf : List (Nat × Nat) := []
  /-- Lines in the write-back buffer toward the home (R45, R46). -/
  wbb : List Nat := []
  /-- Lines whose request to the home is outstanding (R45). -/
  miss : List Nat := []
  /-- Requests that wait for the acknowledgement of a write-back of their line (R46). -/
  parked : List Msg := []
  /-- Snoops held until an outstanding miss has its grant (R265). -/
  heldSnoops : List Msg := []
  /-- Lines that the die may still hold although the home has given it up (R281). -/
  stale : List Nat := []
  /-- Lines whose copies in the die are marked POISON because a packet that brought them failed its check (R443). -/
  pzn : List Nat := []
  /-- Lines that only a check-stopped core held dirty: a recall of one has no answer (R78). -/
  lost : List Nat := []
  /-- Write-backs that wait for an entry of their slice's buffer toward the home (R45). -/
  wbWait : List Msg := []
  dcCleaning : Bool := false
  migration : Option Migration := none
  /-- Migrations of the SPARING section still to start: source and destination (R510). -/
  migQueue : List (Nat × Nat) := []
  deriving DecidableEq, Repr

/-- A D-P store in a port's queue (R229, R233). -/
structure DpStore where
  thread : Nat
  addr : Nat
  data : List Byte
  /-- The posted acknowledgement has reached the thread. -/
  acked : Bool := false
  deriving DecidableEq, Repr

/-- An error message of a port to a thread (R233). -/
structure DpError where
  port : Nat
  thread : Nat
  addr : Nat
  cls : Nat
  deriving DecidableEq, Repr

/-- A request that waits at a home or is in a transaction (R260, R262). -/
structure HReq where
  op : MsgOp
  line : Nat
  agent : Agent
  part : Nat
  world : Bool
  /-- The data of a write, and the byte mask of a partial one. -/
  data : Nat := 0
  mask : Nat := 0
  /-- The write's TLP carries the Relaxed Ordering attribute, or the write comes from a core (R263). -/
  relaxed : Bool := true
  /-- What the requester's answer is for, returned with it. -/
  tag : Nat := 0
  /-- The requester's response slot (R433). -/
  txid : Nat := 0
  deriving DecidableEq, Repr

/-- The stable directory states (R248); `lmask` is the LMASK of a far-tier region (R253). -/
inductive Dir where
  | unc
  | shared (vec : List Nat) (fdie : Nat)
  | owned (a : Agent) (lmask : Nat)
  deriving DecidableEq, Repr

/-- An open transaction at a home (R264, R270, R286). -/
structure Txn where
  key : Nat
  line : Nat
  req : Option HReq
  snoop : MsgOp
  /-- Agents whose answer is outstanding. -/
  wait : List Agent
  /-- Agents that answered WBPEND, or whose own write-back must come first (R262, R273). -/
  wb : List Agent := []
  /-- Dies that answered PRESENT to a probe (R270). -/
  present : List Nat := []
  /-- Lines whose data came back. -/
  back : List Nat := []
  /-- Every answer so far was ABSENT. -/
  absent : Bool := true
  /-- The data of a write waits for the port's commit (R263). -/
  cmt : Bool := false
  /-- The directory state was lost (R286). -/
  lost : Bool := false
  /-- The home's transaction slot, which its snoops carry (R433). -/
  slot : Nat := 0
  /-- The package time at which its last snoops time out (R279). -/
  due : Nat := 0
  deriving DecidableEq, Repr

/-- A posted write of a port that is not yet visible (R32): its line, the home's RDY, the Relaxed Ordering attribute, whether its CMT has been sent, and the requester ID and address of its TLP (R208). -/
structure PWrite where
  line : Nat
  ready : Bool := false
  relaxed : Bool := false
  sent : Bool := false
  rid : Nat := 0
  va : W64 := 0
  deriving DecidableEq, Repr

/-- A read of a device whose data the port awaits: the requester ID and address of the request, and the lines still to come. -/
structure PRead where
  rid : Nat
  va : W64
  lines : List Nat
  /-- The lines that have come, with their data. -/
  got : List (Nat × Nat) := []
  poison : Bool := false
  deriving DecidableEq, Repr

/-- The completion that a port sends a device for its read or AtomicOp (R208). -/
structure DmaCpl where
  rid : Nat
  va : W64
  /-- Unsupported Request. -/
  ur : Bool := false
  /-- The data of a read, by line. -/
  data : List (Nat × Nat) := []
  /-- Its data is poisoned. -/
  poison : Bool := false
  deriving DecidableEq, Repr

/-- A PCIe AtomicOp that a port agent performs when it has ownership of the line (R247, R265): 0 FetchAdd, 1 Swap, 2 compare and swap. -/
structure PAtomic where
  addr : Nat
  size : Nat
  kind : Nat
  a : Nat
  b : Nat
  rid : Nat := 0
  va : W64 := 0
  deriving DecidableEq, Repr

/-- A line of the render cache (R300): its way, its tag and DDIRTY. -/
structure RcWay where
  way : Nat
  line : Nat
  ddirty : Bool
  deriving DecidableEq, Repr

/-- An HDM decoder of a CXL memory device (R298): the ways, the granule and the host base of a set, and the device base in GiB. -/
structure HdmDec where
  ways : Nat
  gran : Nat
  base : Nat
  lbase : Nat
  deriving DecidableEq, Repr

/-- A job in a slot of the steering unit: the fields of its descriptor (R337) and its progress. -/
structure Job where
  queue : Nat
  /-- Order in which the steering unit read it (R339). -/
  order : Nat
  part : Nat
  world : Bool
  compat : Bool := false
  event : Bool := false
  ordered : Bool := false
  nosplit : Bool := false
  outMode : Nat := 0
  asid : Nat := 0
  elcAddr : Nat := 0
  tag : Nat := 0
  progVa : Nat := 0
  argVa : Nat := 0
  inVa : Nat := 0
  inLen : Nat := 0
  outVa : Nat := 0
  outLen : Nat := 0
  recLen : Nat := 0
  cplVa : Nat := 0
  /-- The walk of its input has ended, or the job was refused. -/
  steered : Bool := false
  /-- Status of the job itself (R369), with its DETAIL and FAULT_VA. -/
  status : Nat := 0
  detail : Nat := 0
  faultVa : Nat := 0
  pieces : Nat := 0
  /-- Pieces that have reported: number, status, s1, FAULT_VA and DETAIL. -/
  ended : List (Nat × Nat × W64 × Nat × Nat) := []
  /-- Input bytes completed, by piece number; those of the job's own walk at 0xFF (R204). -/
  bytes : List (Nat × Nat) := []
  /-- Chunks handed out (R354). -/
  chunks : Nat := 0
  /-- The completion record has been sent to its home. -/
  recorded : Bool := false
  /-- Its partition has been reset: no record is written (R372). -/
  silent : Bool := false
  deriving DecidableEq, Repr

/-- A piece of a job that waits for its engine: the job's slot, the piece's number and its granules as input offset and length (R340). -/
structure Piece where
  slot : Nat
  num : Nat
  grans : List (Nat × Nat)
  deriving DecidableEq, Repr

/-- A snapshot copy in an engine line cache (R347, R357): its data, and whether it is marked POISON, is stream input, or is locked. -/
structure SnapLine where
  data : Nat
  poison : Bool
  stream : Bool
  locked : Bool
  deriving DecidableEq, Repr

/-- How a read is held: live, stream input, a resident snapshot, a program fetch, or a locked snapshot (R347, R350, R356, R360). -/
inductive ReadKind where
  | live | stream | snapshot | prog | lock
  deriving DecidableEq, Repr

/-- A hardware loop level (R412). -/
structure LoopLvl where
  ls : Nat := 0
  le : Nat := 0
  lc : Nat := 0
  deriving DecidableEq, Repr

/-- A branch whose delay slot is the next instruction (R407): its PC, where control goes after the slot, and the registers that it read (R411). -/
structure SlotSt where
  pc : Nat
  target : Nat
  reads : List Nat
  deriving DecidableEq, Repr

/-- The output chunk in use (R354): its number in the area, the payload bytes used, its sequence number and its first granule's offset. -/
structure ChunkSt where
  num : Nat
  used : Nat
  seq : Nat
  first : Nat
  deriving DecidableEq, Repr

/-- How a piece ended or was stopped: status, FAULT_VA and DETAIL (R346, R369). -/
structure PieceStop where
  status : Nat
  va : Nat := 0
  detail : Nat := 0
  deriving DecidableEq, Repr

/-- A piece that runs on an engine: the architectural state of R373 and R374, the engine line cache's snapshot side, and the output. -/
structure EngRun where
  piece : Piece
  s : List (Nat × W64) := []
  w : List (Nat × V512) := []
  pc : Nat := 0
  /-- The bank that the next instruction uses, and the value most recently written (R378). -/
  bankCur : Nat := 0
  bankNew : Nat := 0
  /-- The last instruction wrote BANK: the next one stands in its shadow. -/
  bankPend : Bool := false
  sbase : Nat := 0
  obase : W64 := 0
  loops : List (Nat × LoopLvl) := []
  crcpoly : W64 := 0
  crccfg : W64 := 0
  wd : List (Nat × W64) := []
  slot : Option SlotSt := none
  /-- Two-bit counters of R408; an unlisted one is 0b01. -/
  ctr : List (Nat × Nat) := []
  /-- Branch target buffer of compatibility mode, the most recently used first: PC and target (R418). -/
  btb : List (Nat × Nat) := []
  /-- GO of SKM_UCODE waits for the end of this secure piece (R630). -/
  ucode : Bool := false
  /-- The argument block is still to be read (R345). -/
  argDue : Bool := false
  snap : List (Nat × SnapLine) := []
  /-- Lines whose read the home has not answered, with how they will be held (R358). -/
  want : List (Nat × ReadKind) := []
  /-- Lines that live reads of the instruction at the PC have brought (R350). -/
  got : List (Nat × SnapLine) := []
  /-- Stores merged into the miss register of each line (R358). -/
  merges : List (Nat × Nat) := []
  /-- Sectors of the general pool, the most recently used first (R356, R359). -/
  pool : List Nat := []
  /-- Sectors of append-mode output in the two staging entries, the newest first (R356, R401). -/
  outSecs : List Nat := []
  /-- Bytes of the addressable entries (R381). -/
  amem : List (Nat × Byte) := []
  chunk : Option ChunkSt := none
  nextSeq : Nat := 0
  /-- Chunks granted and not yet begun. -/
  granted : List Nat := []
  noChunk : Bool := false
  /-- The last chunk's header has been written (R346). -/
  closed : Bool := false
  halted : Bool := false
  stepping : Bool := false
  /-- The instruction at a breakpoint runs, because the engine has just resumed there. -/
  bpSkip : Bool := false
  /-- The branch of a delay slot runs again after a resume, and its slot follows without a halt (R422). -/
  dsRun : Bool := false
  stop : Option PieceStop := none
  deriving DecidableEq, Repr

/-- A request for a shared slot that waits at its destination (R440): stops as 128 * die ID + stop, and the kind of slot, 0 request, 1 write-back, 2 snoop. -/
structure TokReq where
  dst : Nat
  src : Nat
  kind : Nat
  deriving DecidableEq, Repr

/-- A reserved slot at a destination (R438, R439): the stop that holds it, and, from its use on, the message for which it is reserved; a granted slot that has not been used names no agent. -/
structure TokSlot where
  dst : Nat
  kind : Nat
  slot : Nat
  src : Nat
  agent : Option Agent := none
  line : Nat := 0
  deriving DecidableEq, Repr

/-- A reserved response slot of a requester, or a transaction slot of a home (R433, R438): its stop, its number, what it waits for, and the package time since which it has been empty. -/
structure RspSlot where
  src : Nat
  txid : Nat
  agent : Agent
  op : MsgOp
  line : Nat
  since : Nat := 0
  deriving DecidableEq, Repr

/-- A request that a domain's edge answered with ASLEEP and WAKING, which its source sends again at OPEN (R451). -/
structure Sleeper where
  dst : Nat
  msg : Msg
  deriving DecidableEq, Repr

/-- A fabric domain that closes (R449): the state it will enter, the wake registered at its edge, and the stops of the domain with the sources that they answered with ASLEEP. -/
structure Closing where
  target : Nat
  wake : Bool := false
  answered : List (Nat × Nat) := []
  deriving DecidableEq, Repr

/-- A torus frame that its source keeps until it is acknowledged (R447): how often it has been sent; 0 while an earlier frame to the same node is unacknowledged. -/
structure TFrame where
  dst : Nat
  src : Nat
  type : Nat
  seq : Nat
  p3 : Bool
  payload : List Byte
  sends : Nat := 1
  /-- The last send took the alternate route. -/
  alt : Bool := false
  deriving DecidableEq, Repr

/-- A repair of a wire in progress at a receiver (R464): the physical position and the switch SEQ. -/
structure RepairSt where
  group : Nat
  pos : Nat
  seq : Nat
  deriving DecidableEq, Repr

/-- A link command sent and not yet received (R460): its hub port, whether it goes to the hub, CMD, and the 28-bit argument. -/
structure LinkCmd where
  hp : Nat
  toHub : Bool
  cmd : Nat
  arg : Nat
  deriving DecidableEq, Repr

/-- The assist settings of the SRAM arrays of a rail (R515). -/
structure Assist where
  underdrive : Bool := false
  negBitline : Bool := true
  retention : Bool := false
  deriving DecidableEq, Repr

/-- One end of a lath link (R467): the last LSEQ sent, the last one accepted, and the envelopes kept for replay, oldest first. -/
structure LathEnd where
  txSeq : Nat := 0
  rxSeq : Option Nat := none
  kept : List (Nat × TFrame) := []
  /-- Frames that wait for an envelope, or for the link to wake or to train. -/
  wait : List TFrame := []
  /-- A lane under re-equalisation (R483). -/
  reeq : Option Bool := none
  deriving DecidableEq, Repr

/-- Why a GiB is in transition (R509, R561, R565). -/
inductive GibWhy where
  | owner | mark | unmark | rekey
  deriving DecidableEq, Repr

/-- A GiB in transition (R509, R561): its new owner, and whether the release sweep has ended and the initialisation runs. -/
structure GibMove where
  gib : Nat
  owner : Nat
  why : GibWhy
  init : Bool := false
  deriving DecidableEq, Repr

/-- The commit machine's working state beside the CFG registers (R496 to R510). -/
structure Commit where
  /-- The image in bank 0 and in bank 1; empty where the bank holds none (R496). -/
  bank0 : List Byte := []
  bank1 : List Byte := []
  /-- The writer of the LOAD in progress (R501). -/
  loader : Option Who := none
  /-- Every section type that the apply changes, static ones too (R499). -/
  changed : List Nat := []
  /-- Package time at which the apply limit or the confirm window ends, in ns (R497). -/
  windowEnd : Nat := 0
  /-- RESULT that the rollback in progress will leave (R497). -/
  rollResult : Nat := 0
  /-- Partitions that PARTITIONS marks present, and die-loss tolerant, as in force (R493). -/
  present : List Nat := []
  tolerant : List Nat := []
  /-- Dies that DIE_ROLES excludes (R493). -/
  excluded : List Nat := []
  /-- Joined port groups in force: the first port and the number of ports (R493). -/
  joined : List (Nat × Nat) := []
  /-- Units whose new owner waits for a safe point: dies, ports and engines (R504). -/
  dieMoves : List (Nat × Nat) := []
  portMoves : List (Nat × Nat) := []
  engMoves : List (Nat × Nat) := []
  /-- GiBs whose move has not begun, with the new owner (R509). -/
  gibQueue : List (Nat × Nat) := []
  /-- Committed static sections that wait for a partition's reset: the partition and the section type (R498). -/
  pendStatic : List (Nat × Nat) := []
  /-- Sparing maps that stand in the active bank in place of its own SPARING section, as registers by address (R506, R510). -/
  sparing : Option (List (Nat × W64)) := none
  deriving DecidableEq, Repr

/-- A flash operation in progress (R580): 1 erase, 2 program, 3 read; its slot, its offset and the bytes to program. -/
structure FlashOp where
  op : Nat
  slot : Nat
  off : Nat
  data : List Byte := []
  deriving DecidableEq, Repr

/-- The training record of R312: the inventory digest, the hub temperature, the data rate and the channels whose trained parameters it holds. -/
structure TrainRec where
  digest : BitVec 384
  temp : Nat
  rate : Nat
  chans : List Nat
  deriving DecidableEq, Repr

/-- Boot and image trust beside the SEC registers (R566 to R581). -/
structure Boot where
  /-- Bytes of the two boot flash devices that are not erased, by slot * 2 ^ 32 + offset (R567). -/
  flash : List (Nat × Byte) := []
  /-- Revocation fuses burned, and the version floor that the fuses hold (R575, R576). -/
  revoked : Nat := 0
  floor : Nat := 0
  /-- The manifest of the running slot, its SEQ and its MDIGEST (R569). -/
  manifest : List Byte := []
  seq : Nat := 0
  mdigest : BitVec 384 := 0
  /-- The slot that ran before the last reset (R581). -/
  lastSlot : Option Nat := none
  /-- The Sizing loader runs or has run in this boot (R566). -/
  sizing : Bool := false
  /-- The Sizing loader's staging: what initialisation writes in a boot GiB, as offsets and bytes, by GiB (R578). -/
  stage : List (Nat × List (Nat × List Byte)) := []
  /-- Boot GiBs by partition (R578). -/
  bootGib : List (Nat × Nat) := []
  flashOp : Option FlashOp := none
  /-- The slot whose revocation fuse is being burned, and the floor being reached (R575, R576). -/
  keyBurn : Option Nat := none
  floorBurn : Option Nat := none
  /-- The log of extensions: register, component TYPE and digest (R577). -/
  mlog : List (Nat × Nat × BitVec 384) := []
  /-- The commit record of the target slot of recovery, once chosen (R579). -/
  target : Option Nat := none
  /-- A recovery image was written in this boot (R579). -/
  recovered : Bool := false
  trainRec : Option TrainRec := none
  deriving DecidableEq, Repr

/-- The meter die (R585 to R606): energy is counted in units of 1/8,000 µJ, of which 8,000,000 make 1 mJ. -/
structure Meter where
  /-- The meter has its supply (R587). -/
  on : Bool := true
  /-- Meter time in ms since 1970-01-01 00:00 UTC at the interval's first sample (R595). -/
  tStart : Nat := 0
  /-- Samples of the interval so far, at 8 kHz (R588). -/
  samples : Nat := 0
  /-- Energy of each channel below 1 mJ, in units. -/
  frac : List (Nat × Nat) := []
  chE : List (Nat × Nat) := []
  chTot : List (Nat × Nat) := []
  /-- Samples of each channel below 5 % of its nominal current in the interval (R589). -/
  lowSamples : List (Nat × Nat) := []
  /-- Samples in a row of each channel above 120 % of its nominal current (R605). -/
  overSamples : List (Nat × Nat) := []
  /-- Energy of the hub and port-die channels in the second that waits for its TRAFFIC frame, in mJ (R593). -/
  secE : List (Nat × Nat) := []
  legal : List (Nat × Nat) := []
  info : List (Nat × Nat) := []
  /-- The owner map, and the one at the interval's start (R591, R595). -/
  owners : List (Nat × Nat) := []
  owners0 : List (Nat × Nat) := []
  /-- Changes of owner in the interval: die, owner, sample index. -/
  chg : List (Nat × Nat × Nat) := []
  infoGap : Bool := false
  timeAdj : Bool := false
  vrange : Bool := false
  powerRestored : Bool := false
  /-- Adjustments of meter time accepted in the interval, in ms, which the next interval's T_START shows (R599, R606). -/
  adj : Int := 0
  sealOpen : Bool := false
  /-- The seal opened with the audit log full: no legal energy any more (R602). -/
  dead : Bool := false
  /-- RSEQ of the open record, and the digest of the whole previous one (R595). -/
  rseq : Nat := 1
  prev : BitVec 384 := 0
  /-- The newest 1,024 records by RSEQ (R597). -/
  records : List (Nat × List Byte) := []
  /-- The interrupted interval's record without its signature (R587). -/
  unsigned : Option (List Byte) := none
  fwVer : Nat := 0
  calSeq : Nat := 0
  /-- The calibration block in force (R601). -/
  cal : List Byte := []
  busAddr : Nat := 1
  /-- The audit log, oldest entry first (R602). -/
  audit : List (List Byte) := [List.replicate 4 0 ++ [1] ++ List.replicate 59 0]
  /-- SYNC adjustments accepted, with the meter time (R599). -/
  syncs : List (Nat × Int) := []
  /-- Firmware bytes loaded for the next FWCOMMIT (R599). -/
  fwBuf : List (Nat × Byte) := []
  /-- Firmware that is being installed: its version, and the DATA of its audit entry (R601). -/
  installing : Option (Nat × List Byte) := none
  tmHub : Nat := 0
  tmMtr : Nat := 0
  /-- The input lies outside 40 V to 60 V (R605). -/
  outOfRange : Bool := false
  /-- Records and IDENT replies on their way to MTRX, oldest first (R603). -/
  outq : List (List Byte) := []
  /-- The last reply on the seal port (R598). -/
  sealReply : List Byte := []
  deriving DecidableEq, Repr

/-- What the hub keeps for the meter beside the registers of its MTRX block. -/
structure Mtrx where
  /-- OWNER frames not yet acknowledged: die and owner, oldest first (R592). -/
  ownerPend : List (Nat × Nat) := []
  /-- The weights of the current second: 16 * unit + account, where unit 0 is the hub and 1 to 4 are the port dies (R593). -/
  weights : List (Nat × Nat) := []
  deriving DecidableEq, Repr

/-- A vector pending in the router (R608): its instance, the thread that the raise names, whether it goes to the fallback thread, and what its delivery will show. -/
structure EvPend where
  inst : Nat
  vector : Nat
  thread : Option Nat := none
  fbk : Bool := false
  fixM : Bool := false
  source : Nat := 0x3FF
  sev : Nat := 0
  code : Nat := 0
  count : Nat := 1
  msg : Bool := false
  deriving DecidableEq, Repr

/-- A die loss that is being reported (R625, R626). -/
structure DieLoss where
  die : Nat
  part : Nat
  cause : Nat
  tick : Nat
  /-- Lines poisoned before the loss, which its report does not count. -/
  before : List Nat
  /-- The report slot taken, and the number of the last report. -/
  slot : Option Nat := none
  seq : Nat := 0
  deriving DecidableEq, Repr

/-- An entry of a PARTREQ (R647). -/
structure PartReq where
  part : Nat
  tolerant : Bool
  dies : Nat
  memGib : Nat
  ports : Nat
  deriving DecidableEq, Repr

/-- An image that the platform controller delivers (R656, R657): its purpose, the blocks announced, how many came, and the bytes. -/
structure ImgSeq where
  purpose : Nat
  blocks : Nat
  count : Nat := 0
  next : Nat := 0
  /-- Blocks accepted, by their offset. -/
  data : List (Nat × List Byte) := []
  deriving DecidableEq, Repr

/-- Where a port sends a request of its window (R178): a configuration request, or a memory request with a 32-bit or 64-bit address. -/
inductive TlpTo where
  | config (bus device function register : Nat)
  | mem32 (addr : Nat)
  | mem64 (addr : Nat)
  deriving DecidableEq, Repr

/-- A request that a port sends on its link: a posted one is a memory write that no completion answers (R178, R229). -/
structure Tlp where
  port : Nat
  dest : TlpTo
  write : Bool
  posted : Bool
  size : Nat
  data : List Byte := []
  deriving DecidableEq, Repr

/-- The platform controller's interface and the pins (R635 to R664). -/
structure Plat where
  /-- Entries of the notification ring, by entry number (R650). -/
  ring : List (Nat × List Byte) := []
  /-- LOST has advanced since RD last advanced (R652). -/
  lostSince : Bool := false
  /-- MSIs sent (R650). -/
  msis : Nat := 0
  /-- In-band interrupts raised and not yet served: the mandatory data byte (R654). -/
  ibis : List Nat := []
  /-- FLAGS of the status block when it was last compared (R654). -/
  flags : Nat := 0
  /-- The dynamic address of the I3C target (R654). -/
  dynAddr : Option Nat := none
  /-- The request buffer, the response buffer and the block buffer (R638). -/
  reqBuf : List Byte := []
  rspBuf : List Byte := []
  block : List Byte := []
  /-- TYPE and SEQ of the last response (R640). -/
  lastRsp : Option (Nat × Nat) := none
  /-- The last BOARD accepted, the SPD reports by position, and whether they came in this boot (R637, R643, R644). -/
  board : List Byte := []
  boardSeen : Bool := false
  spd : List (Nat × List Byte) := []
  dimmSeen : List Nat := []
  /-- What PORTS reported: port, WIDTH, KIND and CAP_GIB (R645). -/
  ports : List (Nat × Nat × Nat × Nat) := []
  /-- The inventory is complete, and INV_REQ has been sent (R637). -/
  invDone : Bool := false
  invSent : Bool := false
  partreq : Option (List PartReq) := none
  coolantC : Nat := 0
  /-- Partitions whose next reset is held (R641). -/
  dumphold : List Nat := []
  /-- Partitions whose reset waits for the hold to be released (R623). -/
  resetHeld : List Nat := []
  /-- Slot Status and Slot Control of each port (R648, R649). -/
  slotStat : List (Nat × Nat) := []
  slotCtl : List (Nat × Nat) := []
  /-- Ports whose SLOTCTL awaits its answer, with the power asked for (R649). -/
  slotWait : List (Nat × Bool) := []
  image : Option ImgSeq := none
  /-- A supply condition is in force (R514, R652). -/
  supplyCond : Bool := false
  /-- PKG_RESET_N is low (R660). -/
  resetLow : Bool := false
  /-- Reference clocks that have stopped (R673). -/
  refclkBad : List Nat := []
  /-- The 32.768 kHz clock runs (R673). -/
  aoRun : Bool := true
  /-- The JTAG instruction and the boundary register of each die (R663). -/
  tapIr : List (Nat × Nat) := []
  tapDr : List (Nat × List Bool) := []
  /-- The last word that each die shifted out for IDCODE (R663). -/
  tapId : List (Nat × W32) := []
  /-- Gap markers that the trace port has put out, oldest first: the thread and the activation's core cycles (R558, R664). -/
  trace : List (Nat × Nat) := []
  /-- Requests that the ports have sent on their links, oldest first (R178). -/
  tlps : List Tlp := []
  /-- The last block read on I3C (R654). -/
  i3cReply : List Byte := []
  deriving DecidableEq, Repr

/-- The state of the package: everything the spec names but the queue of waiting commands. Every sparse list reads, where a key is not listed, as the reset value of what it holds. -/
structure Hw where
  /-- Nanoseconds since package warm reset: cr.time (R96). -/
  now : Nat := 0
  /-- The time counter runs (R673). -/
  clockOn : Bool := true
  /-- Nanoseconds since cold reset counted by the always-on clock (R530). -/
  ao : Nat := 0
  /-- How many free values have been used (the model's own field; log entry 4). -/
  free : Nat := 0
  /-- The coherent memory: one value for each byte of the near and far tiers (R213). -/
  mem : List Host.Cell := []
  /-- Lines marked POISON, by PA[51:6] (R249, R280). -/
  poison : List Nat := []
  /-- Registers of the register window that do not hold their reset value, by address (R7). -/
  regs : List (Nat × W64) := []
  /-- Staged values held in shadow registers, by address (R16). -/
  shadow : List (Nat × W64) := []
  /-- Threads by global thread number (R20). -/
  thr : List (Nat × Thread) := []
  /-- Physical cores by 64 * die ID + core. -/
  cores : List (Nat × Core) := []
  /-- Compute dies by die ID. -/
  cdies : List (Nat × CDieSt) := []
  /-- D-P stores queued at each port (R229). -/
  dpq : List (Nat × List DpStore) := []
  /-- Error messages of ports on their way to threads (R233). -/
  dpErrs : List DpError := []
  /-- Ports whose link is up (R232, R235). -/
  portUp : List Nat := []
  /-- Raises on their way to the event router (R608). -/
  raises : List Raise := []
  /-- Messages sent and not yet arrived. -/
  msgs : List Msg := []
  /-- Owner of each compute die and port die, by die ID (R485); 0 where none. -/
  dieOwner : List (Nat × Nat) := []
  /-- Owner of each port (R485); 0 where none. -/
  portOwner : List (Nat × Nat) := []
  /-- Owner of each skim engine (R485); 0 where none. -/
  engOwner : List (Nat × Nat) := []
  /-- Entries of the hub and port translation units, by die ID (R203, R208). -/
  xtl : List (Nat × List TlbEnt) := []
  /-- Context entries that the translation units hold (R203). -/
  xctx : List CtxEnt := []
  /-- Directory states by key: the line of the near tier, 2 ^ 50 + region of the far tier (R248, R251, R253). -/
  dir : List (Nat × Dir) := []
  /-- Directory cache sets: keys with DDIRTY, the most recently used first (R254). -/
  dcs : List (Nat × List (Nat × Bool)) := []
  /-- Keys in the directory write-back buffers (R257). -/
  dwb : List Nat := []
  /-- Keys whose entry is kept after a timeout, with the package time of the timeout (R279). -/
  dhold : List (Nat × Nat) := []
  txns : List Txn := []
  /-- Requests that wait for a Busy line, in order of arrival (R264). -/
  waitq : List HReq := []
  /-- Lines of each skim engine's line cache, by engine (R247). -/
  elc : List (Nat × List (Nat × LState)) := []
  /-- Posted writes of each port in TLP order (R32). -/
  pwr : List (Nat × List PWrite) := []
  /-- AtomicOps that wait for ownership, by port. -/
  patom : List (Nat × List PAtomic) := []
  /-- Reads of devices that wait for their data, by port. -/
  prd : List (Nat × List PRead) := []
  /-- Completions that the ports have sent their devices, the newest last (R208). -/
  dmaCpls : List (Nat × List DmaCpl) := []
  /-- Bytes that an engine has stored and that wait for ownership of their line, by engine. -/
  esq : List (Nat × List (Nat × Byte)) := []
  /-- Lines whose owner obtained them with OWN (R263). -/
  ownLines : List Nat := []
  /-- Snoops that engines and port agents hold until their miss is granted or their AtomicOp is done (R265). -/
  heldSn : List Msg := []
  /-- Lines of engines and port agents in write-back until WBA, by the key of the agent (R272, R273). -/
  agWb : List (Nat × List Nat) := []
  /-- Render-cache sets, by 24,576 * slice + set (R300). -/
  rc : List (Nat × List RcWay) := []
  /-- The 15-bit pseudo-LRU tree of each render-cache set (R304). -/
  rcPlru : List (Nat × Nat) := []
  /-- Hotness tracker entries, by 16 * slice + partition: page and COUNT (R315 to R317). -/
  hot : List (Nat × List (Nat × Nat)) := []
  /-- Lines returned marked POISON that memory does not hold so (R299). -/
  tpoison : List Nat := []
  /-- Lines for which a controller has asked a corrective rewrite (R321). -/
  rewrites : List Nat := []
  /-- Corrected errors of each device, by its channel and place (R325). -/
  devCount : List (Nat × Nat) := []
  /-- Channels that have failed (R328). -/
  chFail : List Nat := []
  /-- Capacity in GiB of each channel that trained, spare rank included, and of the device mapped at each port, at 100 + port (R289). -/
  cap : List (Nat × Nat) := []
  /-- HDM decoders of the devices at the ports, by 32 * port + set (R298). -/
  hdm : List (Nat × HdmDec) := []
  /-- The rank whose place the spare rank has taken, as 4 * DIMM + rank, by channel (R327). -/
  spared : List (Nat × Nat) := []
  /-- FAR_EN of the structure image, while the region table is not yet initialised (R311). -/
  farHeld : Bool := false
  /-- SPD images reported for DIMM positions, by 2 * channel + DIMM (R311). -/
  dimms : List (Nat × List Byte) := []
  /-- Writers of staged interleave descriptors, by set (R289, R503). -/
  isetWho : List (Nat × Who) := []
  /-- Job slots of the steering unit (R344). -/
  jobs : List (Nat × Job) := []
  /-- The number of descriptors read, and the queue after which the round robin goes on (R344). -/
  jobOrder : Nat := 0
  queueTurn : Nat := 95
  /-- Pieces waiting on each engine, at most three (R344). -/
  engq : List (Nat × List Piece) := []
  /-- Pieces that their engine has no room for yet, with the engine. -/
  held : List (Nat × Piece) := []
  /-- The piece that each engine runs. -/
  run : List (Nat × EngRun) := []
  /-- Scratchpads, by engine (R362). -/
  sp : List (Nat × List (Nat × Byte)) := []
  /-- Owner and world of the last piece of each engine; zeroing is due when they differ (R363). -/
  engLast : List (Nat × Nat × Bool) := []
  /-- Requests for shared slots in order of arrival (R440). -/
  treqs : List TokReq := []
  /-- Slots reserved at destinations (R438, R439). -/
  toks : List TokSlot := []
  /-- Response slots and transaction slots in use (R433, R438). -/
  rsps : List RspSlot := []
  /-- Messages that wait for a slot at their destination, in order (R438, R440). -/
  tokWait : List Msg := []
  /-- Requests that wait for OPEN (R451). -/
  sleepers : List Sleeper := []
  /-- Domains that are closing, by 64 * die ID + domain (R449). -/
  closing : List (Nat × Closing) := []
  /-- Epoch of the last change of role of each stop, by 128 * die ID + stop (R452). -/
  epochLast : List (Nat × Nat) := []
  /-- Stops that have not acknowledged the last epoch update of a die (R452). -/
  epochPend : List (Nat × List Nat) := []
  /-- Package time of the last advance of a die's epoch (R452). -/
  epochAt : List (Nat × Nat) := []
  /-- Torus frames that their sources keep (R447). -/
  torusTx : List TFrame := []
  /-- The next sequence number of each source for each destination, by 20 * source + destination (R446). -/
  torusSeq : List (Nat × Nat) := []
  /-- The last frame that each destination accepted from each source, by 20 * destination + source (R447). -/
  torusRx : List (Nat × TFrame) := []
  /-- Frames for a die controller that is switching its firmware, oldest first (R629). -/
  torusHeld : List TFrame := []
  /-- Coordinates that nodes learned at their first training (R471). -/
  coords : List (Nat × Nat) := []
  /-- Nodes that recorded a coordinate conflict (R471). -/
  coordBad : List Nat := []
  /-- Ends of lath links, by 4 * node + port. -/
  lath : List (Nat × LathEnd) := []
  /-- Scrim links that train fully (true) or fast (false), by hub port (R465). -/
  training : List (Nat × Bool) := []
  /-- Full trainings that failed in a row, by hub port (R466). -/
  trainFails : List (Nat × Nat) := []
  /-- Repairs in progress at a receiving end: 2 * hub port for the hub end, 2 * hub port + 1 for the die end. -/
  repairs : List (Nat × RepairSt) := []
  /-- Hub ports whose die's edge is held (R528). -/
  edgeHeld : List Nat := []
  /-- Links that a SLEEP without its acknowledgement concerns, by hub port, with its mode (R478). -/
  sleepReq : List (Nat × Nat) := []
  /-- Dies whose controller is switching its firmware (R629). -/
  fwSwitch : List Nat := []
  /-- Link commands sent and not yet received (R460). -/
  lcmds : List LinkCmd := []
  /-- Package times of the last uncorrectable units and K words of each receiving end, the newest first (R462). -/
  uncAt : List (Nat × List Nat) := []
  /-- The structure image has been committed since the last cold or package warm reset: RWL fields are locked (R13, R496). -/
  committed : Bool := false
  /-- Section types that the apply or rollback in progress changes (R497, R500). -/
  applying : List Nat := []
  /-- The partition that PARTITIONS marks AUTHORITY; 0 for none (R493). -/
  authority : Nat := 0
  /-- GiBs in transition (R509, R561). -/
  gibMoves : List GibMove := []
  /-- The commit machine (R496). -/
  commit : Commit := {}
  /-- Partitions that have been started, and those that a partition-fatal error has stopped or that are held in reset (R499, R623). -/
  partUp : List Nat := []
  partStopped : List Nat := []
  /-- Partitions whose reset waits for the last piece on their engines to end (R372). -/
  resetWait : List Nat := []
  /-- The state that each domain moves to, by 64 * die ID + domain: 0 to 3, and 8 for a wake from Dust sheet (R521). -/
  domGoal : List (Nat × Nat) := []
  /-- Domains whose REQ was written during a transition (R521). -/
  reqPend : List Nat := []
  /-- Who last wrote REQ or AUTO of a domain (R532). -/
  domWho : List (Nat × Who) := []
  /-- Compute dies that start their wake after deep idle at a package time, with SRC and DETAIL of the wake (R535). -/
  wakeDue : List (Nat × Nat × Nat × Nat) := []
  /-- The assist settings of each rail, by the domain that it feeds (R515). -/
  assist : List (Nat × Assist) := []
  /-- The package is in deep idle (R534). -/
  deepIdle : Bool := false
  /-- The POWER section permits deep idle, and names compute dies for wake on package exit (R534, R535). -/
  deepOk : Bool := false
  wakeOnExit : List Nat := []
  /-- Samples in a row of each die's stage current above its rating, and below 90 % of it (R513). -/
  curOver : List (Nat × Nat) := []
  curUnder : List (Nat × Nat) := []
  /-- Stage groups that have shut down, by die ID (R513, R514). -/
  groupOff : List Nat := []
  /-- Samples in a row of the 48 V input outside 36 V to 63 V (R514). -/
  vinBad : Nat := 0
  /-- The 3.3 V supply left its range while the stage groups were stopped (R514, R671). -/
  v33Left : Bool := false
  /-- Power budget of each die in W (R540). -/
  budgets : List (Nat × Nat) := []
  /-- The 48 V supply limit and the cooling capacity in W that the platform controller reported (R540, R646). -/
  supplyW : Option Nat := none
  coolW : Option Nat := none
  /-- Ceilings of the clusters for power and for temperature, by 2 * die ID + cluster (R540, R543). -/
  ceilPwr : List (Nat × Nat) := []
  ceilTherm : List (Nat × Nat) := []
  /-- Ticks since a ceiling last rose after a thermal restriction, by die; listed while ceilings rise (R543). -/
  thermTicks : List (Nat × Nat) := []
  /-- A thermal trip has taken the package down (R544). -/
  tripped : Bool := false
  /-- The pin PKG_THERMTRIP_N is asserted (R543). -/
  thermtripPin : Bool := false
  /-- The die and the temperature of the last thermal trip, for the status block (R655). -/
  tripInfo : Nat × Nat := (0, 0)
  /-- Memory keys of the partitions, by partition ID (R564). -/
  keys : List (Nat × BitVec 512) := []
  /-- Boot and image trust (R566). -/
  boot : Boot := {}
  /-- The meter die (R585). -/
  meter : Meter := {}
  /-- What the hub keeps for the meter (R592, R593). -/
  mtrx : Mtrx := {}
  /-- Vectors pending in the router (R608). -/
  evPend : List EvPend := []
  /-- Events in slots of threads as the router counts them, by thread (R615). -/
  evSlots : List (Nat × List Event) := []
  /-- Event messages on their way to threads, in order; no event for a slot-void message (R614, R615). -/
  evFly : List (Nat × Option Event) := []
  /-- Vector table entries that the router caches, by 65,536 * instance + vector, the newest first (R612). -/
  evCache : List (Nat × W64) := []
  /-- Events delivered to package services (R607). -/
  svcEvents : List EvPend := []
  /-- Corrected errors of the last second that name an address: record set (4 * die + set), CODE, address and time (R622). -/
  corrected : List (Nat × Nat × Nat × Nat) := []
  /-- Die losses whose last report has not been written (R626). -/
  losses : List DieLoss := []
  /-- Verifications that wait for the security controller: partition and component TYPE (R631). -/
  updq : List (Nat × Nat) := []
  /-- Components of live updates that package services hold: TYPE and digest (R628). -/
  updates : List (Nat × BitVec 384) := []
  /-- The platform controller's interface and the pins (R635, R660). -/
  plat : Plat := {}
  deriving DecidableEq, Repr

/-- The state of the model: the commands that wait, first in first out, and the package. -/
structure State where
  pending : List Instr := []
  hw : Hw := {}
  deriving DecidableEq, Repr

/-- The reasons a step can stop in a fault. No meaning of this model raises one: every error that the spec describes is an effect on the state. -/
inductive Fault where
  /-- Raised by no meaning; a closed type needs an inhabitant for the host's interface. Safe. -/
  | none
  deriving DecidableEq, Repr

/-- The reasons a command is refused. -/
inductive Refusal where
  /-- A command that has no meaning yet, rejected by its mnemonic in Dispatch. Safe. -/
  | notModelled (mnemonic : String)
  deriving DecidableEq, Repr

/-- The machine right after cold reset (R17, R18): no command waits, every thread is in core reset, every register of the register window reads its Reset entry, and memory lists nothing. -/
def State.reset : State := {}

end Sys2Proof.Machine
end

