-- ==== Sys2Proof/Machine/Ops.lean ====
section
/-! DEFINITION. The named operations over the state: threads, cores, registers, memory, the error records and the raises. -/

namespace Sys2Proof.Machine

/-- The outcome of a command that always has its effect: the queue stays, the package changes. -/
def State.onHw (s : State) (f : Hw → Hw) : Host.Outcome State Fault Refusal :=
  .next { s with hw := f s.hw }

/-! Threads, cores and dies. -/

/-- The thread with a global number. -/
def Hw.thread (h : Hw) (t : Nat) : Thread := look {} h.thr t

/-- The thread with a global number, replaced. -/
def Hw.setThread (h : Hw) (t : Nat) (x : Thread) : Hw := { h with thr := put h.thr t x }

/-- The thread with a global number, changed. -/
def Hw.onThread (h : Hw) (t : Nat) (f : Thread → Thread) : Hw := h.setThread t (f (h.thread t))

/-- The die ID of a logic die by index: 0 the hub, 1 to 12 compute dies, 13 to 16 port dies (R6). -/
def dieId (i : DieIx) : Nat := if i.val ≤ 12 then i.val else 0x10 + (i.val - 13)

/-- The kind of the die with an ID, if it is assigned (R6). -/
def dieKind (d : Nat) : Option DieKind :=
  if d = 0 then some .hub else if d ≤ 0x0C then some .compute
  else if 0x10 ≤ d ∧ d ≤ 0x13 then some .port else none

/-- The compute die of a global thread number (R20). -/
def dieOfThread (t : Nat) : Nat := t / 64 + 1

/-- The logical core of a global thread number on its die (R20). -/
def lcoreOf (t : Nat) : Nat := t / 2 % 32

/-- The key of a physical core in the state. -/
def coreKey (die pcore : Nat) : Nat := 64 * die + pcore

/-- The physical core with a key. -/
def Hw.core (h : Hw) (k : Nat) : Core := look {} h.cores k

/-- A physical core, changed. -/
def Hw.onCore (h : Hw) (k : Nat) (f : Core → Core) : Hw := { h with cores := put h.cores k (f (h.core k)) }

/-- The compute die with an ID. -/
def Hw.cdie (h : Hw) (d : Nat) : CDieSt := look {} h.cdies d

/-- A compute die, changed. -/
def Hw.onCDie (h : Hw) (d : Nat) (f : CDieSt → CDieSt) : Hw := { h with cdies := put h.cdies d (f (h.cdie d)) }

/-! The register window (R7). -/

/-- The base of the register window of a die (R7). -/
def winBase (die : Nat) : Nat := 0xFFF0000000000 + (die <<< 32)

/-- The address of a register: the window of the die, the block's offset, the instance and the index (R7). -/
def regPlace (n : RegName) (die inst i : Nat) : Nat :=
  let d := n.desc
  let blk := match dieKind die with
    | some k => (d.block.place k).elim 0 (·.1)
    | none => 0
  winBase die + blk + inst * 0x100000 + d.off + (i / d.c2) * d.s1 + (i % d.c2) * d.s2

/-- The address under which a register is held: one that every instance of its block shows is held once. -/
def regAddr (n : RegName) (die inst i : Nat) : Nat := regPlace n die (if n.desc.shared then 0 else inst) i

/-- A register that an address names: its name, die, block instance and index. -/
structure RegRef where
  name : RegName
  die : Nat
  inst : Nat
  idx : Nat
  deriving DecidableEq, Repr

/-- The address that an access to the register has (R7). -/
def RegRef.pa (r : RegRef) : Nat := regPlace r.name r.die r.inst r.idx

/-- The index of an offset inside a block in a register's descriptor. -/
def RegDesc.index (d : RegDesc) (off : Nat) : Option Nat :=
  if off < d.off then none else
    let r := off - d.off
    let i1 := if d.c2 = 1 then r / d.s1 else if d.c1 = 1 then 0 else r / d.s1
    let r2 := r - i1 * d.s1
    let i2 := if d.c2 = 1 then 0 else r2 / d.s2
    if i1 < d.c1 ∧ i2 < d.c2 ∧ r2 = i2 * d.s2 then some (i1 * d.c2 + i2) else none

/-- The register of a block at an offset. -/
def findIn (k : DieKind) (b : Block) (off : Nat) : List RegName → Option (RegName × Nat)
  | [] => none
  | n :: r =>
    if n.desc.block = b ∧ n.desc.dies.contains k then
      match n.desc.index off with
      | some i => some (n, i)
      | none => findIn k b off r
    else findIn k b off r

/-- The blocks of a die kind, as data. -/
def Block.all : List Block :=
  [.DCTL, .SPINE, .HOME, .MEMC, .SKM, .EVR, .RAS, .PWR, .CLK, .SEC, .CFG, .PMP, .MTRX, .XTL, .SLINK, .LATH, .PERF, .RING, .DCACHE, .CORE, .PORT]

/-- The block and instance at an offset of a die's window, with the offset inside the instance (R7). -/
def blockAt (k : DieKind) (off : Nat) : List Block → Option (Block × Nat × Nat)
  | [] => none
  | b :: r =>
    match b.place k with
    | some (base, n) =>
      if base ≤ off ∧ off < base + n * 0x100000 then
        some (b, (off - base) / 0x100000, (off - base) % 0x100000)
      else blockAt k off r
    | none => blockAt k off r

/-- The block, its die and its instance at a physical address of the register window. DESIGN CHOICE: an ID of R6 whose die discovery gave no ID counts as assigned here, so its window answers as after reset (log entry 41). -/
def blockOf (pa : Nat) : Option (Nat × DieKind × Block × Nat × Nat) :=
  if pa < winBase 0 then none else
    let die := (pa - winBase 0) >>> 32
    match dieKind die with
    | none => none
    | some k => (blockAt k (pa % 2 ^ 32) Block.all).map (fun (b, i, o) => (die, k, b, i, o))

/-- The register at a physical address of the register window (R7, R9). -/
def findReg (pa : Nat) : Option RegRef :=
  match blockOf (alignDown pa 3) with
  | none => none
  | some (die, k, b, inst, off) => (findIn k b off RegName.all).map (fun (n, i) => ⟨n, die, inst, i⟩)

/-- The MODE of an event source (R610, R611): 0 routed, 1 directed, 2 broadcast. -/
def srcMode (src : Nat) : Nat :=
  if src < 192 then
    if src % 16 = 5 then 2 else if src % 16 = 12 ∨ src % 16 = 13 then 1 else 0
  else 0

/-- The FIXM of an event source (R611): the compute-die sources that are delivered at M whatever the vector entry's LEVEL. -/
def srcFixM (src : Nat) : Bool :=
  decide (src < 192) && [2, 3, 4, 5, 6, 9, 12, 13].contains (src % 16)

/-- The fuse value of a field (R17): the identity of a die, of a core, the keys and the floor. The mode and M-only bits of event sources are read from their own table (R610). -/
def fuseOf (n : RegName) (die inst i : Nat) (f : Fld) : Nat :=
  match n with
  | .DCTL_IDENT =>
    if f.lo = 48 then 0x9612 else if f.lo = 44 then Config.stepMajor else if f.lo = 40 then Config.stepMinor
    else if f.lo = 28 then (if die = 0 then 0 else if die ≤ 12 then 1 else 2)
    else if f.lo = 24 then 2
    else if f.lo = 16 then (if die = 0 then 0x20 else if die ≤ 12 then 0x22 else 0x10)
    else (if die = 0 then 0x18 else if die ≤ 12 then 0 else 0x08)
  | .PMP_IDENT =>
    if f.lo = 48 then 0x9612 else if f.lo = 44 then Config.stepMajor else Config.stepMinor
  | .CORE_STATUS =>
    if f.lo = 24 then inst
    else if f.lo = 20 then (if inst < 16 ∨ inst = 32 then 0 else 1)
    else b2n (Config.fusedBad die inst)
  | .SEC_KEYSTAT => if f.lo = 0 then Config.keysPresent else Config.keysRevoked
  | .SEC_FLOOR => Config.versionFloor
  | .EVR_SRC => if f.lo = 54 then srcMode i else b2n (srcFixM i)
  | _ => 0

/-- The value of a field after cold reset (R17); an img field reads zero before the image is applied. -/
def fieldReset (n : RegName) (die inst i : Nat) (f : Fld) : Nat :=
  match f.rst with
  | .val v => v
  | .img => 0
  | .fuse => fuseOf n die inst i f

/-- The value of a register after cold reset (R17). -/
def regReset (n : RegName) (die inst i : Nat) : W64 :=
  n.desc.fields.foldl (fun v f => setWbits v f.hi f.lo (fieldReset n die inst i f)) 0

/-- A register of the register window. -/
def Hw.reg (h : Hw) (n : RegName) (die inst i : Nat) : W64 :=
  look (regReset n die inst i) h.regs (regAddr n die inst i)

/-- A register of the register window, replaced by the hardware. -/
def Hw.setReg (h : Hw) (n : RegName) (die inst i : Nat) (v : W64) : Hw :=
  { h with regs := put h.regs (regAddr n die inst i) v }

/-- A field of a word. -/
def Fld.get (f : Fld) (v : W64) : Nat := wbits v f.hi f.lo

/-- A word with a field replaced. -/
def Fld.set (f : Fld) (v : W64) (x : Nat) : W64 := setWbits v f.hi f.lo x

/-- A field of a register. -/
def Hw.fld (h : Hw) (n : RegName) (die inst i : Nat) (f : Fld) : Nat := f.get (h.reg n die inst i)

/-- A field of a register, replaced by the hardware. -/
def Hw.setFld (h : Hw) (n : RegName) (die inst i : Nat) (f : Fld) (x : Nat) : Hw :=
  h.setReg n die inst i (f.set (h.reg n die inst i) x)

/-- A one-bit field of a register. -/
def Hw.flag (h : Hw) (n : RegName) (die inst i : Nat) (f : Fld) : Bool := decide (h.fld n die inst i f ≠ 0)

/-- A free value of `w` bits, and the state that has used it (log entry 4). -/
def Hw.fresh (h : Hw) (w : Nat) : BitVec w × Hw := (Config.freeValue w h.free, { h with free := h.free + 1 })

/-! Raises and records. -/

/-- A source is raised toward the event router (R608). -/
def Hw.raise (h : Hw) (r : Raise) : Hw := { h with raises := h.raises ++ [r] }

/-- The two slots of a record set and its overflow register (R282). -/
structure RecSet where
  addr0 : RegName
  info0 : RegName
  addr1 : RegName
  info1 : RegName
  stat : RegName

/-- The slot and overflow rules of R282: the lower-numbered free slot takes the record; with both in use, OVF is set and OVF_COUNT advances, saturating. The valid bit is bit 63 of the slot's `valid` register. -/
def Hw.record (h : Hw) (r : RecSet) (die inst i : Nat) (validInInfo : Bool) (addr info : W64) : Hw :=
  let v0 := h.reg (if validInInfo then r.info0 else r.addr0) die inst i
  let v1 := h.reg (if validInInfo then r.info1 else r.addr1) die inst i
  if !wbit v0 63 then (h.setReg r.addr0 die inst i addr).setReg r.info0 die inst i info
  else if !wbit v1 63 then (h.setReg r.addr1 die inst i addr).setReg r.info1 die inst i info
  else
    let s := h.reg r.stat die inst i
    let c := wbits s 15 0
    h.setReg r.stat die inst i (setWbits (setWbits s 16 16 1) 15 0 (if c < 0xFFFF then c + 1 else c))

/-- Whether a record set has a free slot (R282). -/
def Hw.slotFree (h : Hw) (r : RecSet) (die inst i : Nat) (validInInfo : Bool) : Bool :=
  !wbit (h.reg (if validInInfo then r.info0 else r.addr0) die inst i) 63 ||
  !wbit (h.reg (if validInInfo then r.info1 else r.addr1) die inst i) 63

/-- The content of a die RAS record (R619). -/
structure RasInfo where
  code : Nat
  sev : Nat
  addr : Nat := 0
  detail : Nat := 0
  part : Nat := 0
  world : Bool := false
  thread : Nat := 0x3FF
  unit : Nat := 0
  misc0 : W64 := 0
  misc1 : W64 := 0
  deriving DecidableEq, Repr

/-- RAS_ERRn_INFO of a record (R619). -/
def RasInfo.word (r : RasInfo) : W64 :=
  setWbits (setWbits (setWbits (setWbits (setWbits (setWbits (setWbits 0 56 50 r.unit) 49 40 r.thread)
    39 32 r.detail) 31 28 r.part) 27 27 (b2n r.world)) 13 12 r.sev) 7 0 r.code

/-- The event source that the RAS block of a die raises (R610, R611, R618): local source 0, 1 or 2 of a compute die, source 0x20C + k of port die k, and package sources 0x232, 0x233 and, for a package-fatal error, 0x234 of the hub. -/
def rasSource (die sev part : Nat) : Nat :=
  if die = 0 then (if sev = 1 then 0x232 else if sev = 3 ∧ part = 0 then 0x234 else 0x233)
  else if die ≤ 12 then 16 * (die - 1) + (if sev = 1 then 0 else if sev = 3 then 2 else 1)
  else 0x20C + (die - 0x10)

/-- An error takes a slot of a die RAS record set, if one is free (R282, R619). -/
def Hw.rasSlot (h : Hw) (die set : Nat) (r : RasInfo) : Hw :=
  let rs : RecSet := ⟨.RAS_ERR0_ADDR, .RAS_ERR0_INFO, .RAS_ERR1_ADDR, .RAS_ERR1_INFO, .RAS_ERRSTAT⟩
  let addr : W64 := setWbits (setWbits 0 51 0 r.addr) 63 63 1
  let free0 := !wbit (h.reg .RAS_ERR0_ADDR die 0 set) 63
  let free1 := !wbit (h.reg .RAS_ERR1_ADDR die 0 set) 63
  let h1 := h.record rs die 0 set false addr r.word
  if free0 then (h1.setReg .RAS_ERR0_MISC0 die 0 set r.misc0).setReg .RAS_ERR0_MISC1 die 0 set r.misc1
  else if free1 then (h1.setReg .RAS_ERR1_MISC0 die 0 set r.misc0).setReg .RAS_ERR1_MISC1 die 0 set r.misc1
  else h1

/-- An error is recorded and raises its source (R622). -/
def Hw.rasRaise (h : Hw) (die set : Nat) (r : RasInfo) : Hw :=
  (h.rasSlot die set r).raise { source := rasSource die r.sev r.part, part := r.part, sev := r.sev, code := r.code }

/-- A corrected error that names an address recurs there CTHRESH times in 1 s: it is recorded a further time with SEV 0b10 (R622). -/
def Hw.rasRecurs (h : Hw) (die set thr : Nat) (r : RasInfo) : Hw :=
  if r.addr = 0 then h
  else
    let key := 4 * die + set
    let same (e : Nat × Nat × Nat × Nat) : Bool := decide (e.1 = key ∧ e.2.1 = r.code ∧ e.2.2.1 = r.addr)
    let l := h.corrected.filter (fun e => decide (h.now < e.2.2.2 + 1000000000)) ++ [(key, r.code, r.addr, h.now)]
    if thr ≤ (l.filter same).length then ({ h with corrected := l.filter (fun e => !same e) } : Hw).rasRaise die set { r with sev := 2 }
    else { h with corrected := l }

/-- An error is written into a die RAS record set and escalated (R619, R621, R622): a corrected error advances CCOUNT, takes a slot only with CREC, and raises its source when CCOUNT reaches CTHRESH; any other error takes a slot and raises its source. -/
def Hw.ras (h : Hw) (die set : Nat) (r : RasInfo) : Hw :=
  let ctl := h.reg .RAS_CTL die 0 set
  if r.sev = 1 then
    let h1 := if F.RAS_CTL_CREC.get ctl = 1 then h.rasSlot die set r else h
    let n := F.RAS_CTL_CCOUNT.get ctl + 1
    let thr := max 1 (F.RAS_CTL_CTHRESH.get ctl)
    let h2 := if thr ≤ n then
        (h1.setFld .RAS_CTL die 0 set F.RAS_CTL_CCOUNT 0).raise { source := rasSource die 1 r.part, part := r.part, sev := 1, code := r.code }
      else h1.setFld .RAS_CTL die 0 set F.RAS_CTL_CCOUNT n
    h2.rasRecurs die set thr r
  else h.rasRaise die set r

/-- CFG_REJn_INFO SRC of a writer (R503). -/
def srcCode : WriterSrc → Nat
  | .thread => 0
  | .structureEngine => 1
  | .packageServices => 2
  | .debug => 3
  | .platform => 2

/-- A refused write is logged in CFG_REJECT (R503). -/
def Hw.cfgReject (h : Hw) (pa : Nat) (w : Who) (reason : Nat) : Hw :=
  let info := setWbits (setWbits (setWbits (setWbits (setWbits (setWbits 0 31 28 w.part.val) 27 27 (b2n w.world))
    25 24 w.level.toNat) 23 14 (if w.src = .thread then w.thread.val else 0)) 13 12 (srcCode w.src)) 7 0 reason
  (h.record ⟨.CFG_REJ0_ADDR, .CFG_REJ0_INFO, .CFG_REJ1_ADDR, .CFG_REJ1_INFO, .CFG_REJSTAT⟩ 0 0 0 false
    (setWbits (setWbits 0 51 3 (pa >>> 3)) 63 63 1) info).raise { source := 0x231, part := w.part.val }

/-! Notifications to the platform controller (R639, R650 to R655). -/

/-- ALERT_N is asserted (R652). -/
def Hw.alertN (h : Hw) : Bool :=
  let v := h.reg .PMP_NOTE 0 0 0
  let rd := F.PMP_NOTE_RD.get v
  let n := (F.PMP_NOTE_WR.get v + 65536 - rd) % 65536
  let phase := h.fld .PMP_STATE 0 0 0 F.PMP_STATE_PHASE
  (List.range n).any (fun i => match look [] h.plat.ring ((rd + i) % 32) with
    | _ :: f :: _ => f.getLsbD 1
    | _ => false) || h.plat.lostSince || decide (phase = 3) || decide (phase = 4) || h.plat.supplyCond

/-- FLAGS of the status block (R655). -/
def Hw.statusFlags (h : Hw) : Nat :=
  b2n h.tripped + 2 * b2n h.plat.supplyCond + 4 * b2n h.alertN + 8 * b2n (has h.groupOff 0)

/-- An in-band interrupt is raised when FLAGS has changed (R654); its mandatory data byte is a free value, since no notification names it (log entry 4). -/
def Hw.flagsIbi (h : Hw) : Hw :=
  if h.statusFlags = h.plat.flags then h
  else
    let (b, h1) := h.fresh 8
    { h1 with plat := { h1.plat with flags := h1.statusFlags, ibis := h1.plat.ibis ++ [b.toNat] } }

/-- The 16-byte header of a request, a response or a notification (R639). -/
def pmpHeader (type flags len seq status arg : Nat) : List Byte :=
  toBytes 1 type ++ toBytes 1 flags ++ toBytes 2 len ++ toBytes 2 seq ++ toBytes 1 status ++ [0] ++ toBytes 8 arg

/-- A notification is written into the ring, or counted in LOST while the ring is full (R650); its SEQ is the sender's free choice (log entry 4). -/
def Hw.notify (h : Hw) (type : Nat) (alert : Bool) (payload : List Byte) : Hw :=
  let v := h.reg .PMP_NOTE 0 0 0
  let wr := F.PMP_NOTE_WR.get v
  if (wr + 65536 - F.PMP_NOTE_RD.get v) % 65536 = 32 then
    (({ h with plat := { h.plat with lostSince := true } }).setFld .PMP_NOTE 0 0 0 F.PMP_NOTE_LOST
      (min 0xFFFF (F.PMP_NOTE_LOST.get v + 1))).flagsIbi
  else
    let (seq, h1) := h.fresh 16
    let e := pmpHeader type (if alert then 2 else 0) payload.length seq.toNat 0 0 ++ payload
    let h2 : Hw := { h1 with plat := { h1.plat with
      ring := put h1.plat.ring (wr % 32) e, msis := h1.plat.msis + 1,
      ibis := if alert then h1.plat.ibis ++ [type] else h1.plat.ibis } }
    (h2.setFld .PMP_NOTE 0 0 0 F.PMP_NOTE_WR ((wr + 1) % 65536)).flagsIbi

/-- A health alert (R651). -/
def Hw.healthAlert (h : Hw) (kind part die thread code : Nat) : Hw :=
  h.notify 0x84 true (toBytes 1 kind ++ toBytes 1 part ++ toBytes 1 die ++ toBytes 2 thread ++ toBytes 1 code)

/-! Ownership and memory. -/

/-- The owner of a GiB of the near or far tier, as HOME_RNGOWN codes it (R487, R488). -/
def Hw.gibOwner (h : Hw) (gib : Nat) : Nat :=
  nbits (h.reg .HOME_RNGOWN 0 0 (gib / 16)).toNat (4 * (gib % 16) + 3) (4 * (gib % 16))

/-- A GiB is marked secure (R560). -/
def Hw.gibSecure (h : Hw) (gib : Nat) : Bool := wbit (h.reg .HOME_RNGSEC 0 0 (gib / 64)) (gib % 64)

/-- The ranges of the physical address map (R177). -/
inductive PaRange where
  | near | far | mmio | message | window | none
  deriving DecidableEq, Repr

/-- The range of a physical address (R177). -/
def paRange (pa : Nat) : PaRange :=
  if pa < 0x0100000000000 then .near
  else if pa < 0x0900000000000 then .far
  else if 0xE000000000000 ≤ pa ∧ pa < 0xE800000000000 then .mmio
  else if 0xEFFFFFFFF0000 ≤ pa ∧ pa < 0xF000000000000 then .message
  else if 0xFFF0000000000 ≤ pa ∧ pa < 0x10000000000000 then .window
  else .none

/-- The range is coherent memory. -/
def PaRange.isMem : PaRange → Bool
  | .near => true
  | .far => true
  | _ => false

/-! The MMIO windows (R178). -/

/-- The base of the port MMIO windows. -/
def mmioBase : Nat := 0xE000000000000

/-- The port whose window holds an address. -/
def portOfPa (pa : Nat) : Nat := (pa - mmioBase) / 2 ^ 41

/-- The request that a port forms from an address of its window (R178). -/
def tlpTo (pa : Nat) : TlpTo :=
  let off := (pa - mmioBase) % 2 ^ 41
  if off < 0x10000000 then .config (off / 2 ^ 20) (off / 2 ^ 15 % 32) (off / 2 ^ 12 % 8) (off % 2 ^ 12)
  else if off < 2 ^ 32 then .mem32 off else .mem64 off

/-- A port sends a request of its window on its link (R178). -/
def Hw.sendTlp (h : Hw) (pa : Nat) (write posted : Bool) (size : Nat) (data : List Byte) : Hw :=
  { h with plat := { h.plat with tlps := h.plat.tlps ++ [{ port := portOfPa pa, dest := tlpTo pa, write := write, posted := posted, size := size, data := data }] } }

/-- The access that a thread waits for. -/
def DevWait.cur (w : DevWait) : DevAcc := w.acc.headD ⟨0, 0, 0, false, []⟩

/-- Its address. -/
def DevWait.addr (w : DevWait) : Nat := w.cur.pa

/-- Its port. -/
def DevWait.port (w : DevWait) : Nat := portOfPa w.addr

/-- The device access that a thread waits for. -/
def Thread.devOpen (x : Thread) : Option DevWait := x.dev.filter (fun w => !w.acc.isEmpty)

/-- It is an access of a port. -/
def DevWait.atPort (w : DevWait) (n : Nat) : Bool := decide (paRange w.addr = .mmio) && w.port == n

/-- It is a D-P store, which retires at its posted acknowledgement (R229). -/
def DevWait.posted (w : DevWait) : Bool := w.cur.posted

/-- The home's partition range filter and secure check pass a request (R487, R560). -/
def Hw.homePass (h : Hw) (part : Nat) (world : Bool) (pa : Nat) : Bool :=
  let g := pa >>> 30
  let o := h.gibOwner g
  decide (o = part) && decide (o ≤ 12) && (world || !h.gibSecure g)

/-- The valid interleave set whose initialised GiBs hold an address (R287, R311, R314). -/
def Hw.isetOf (h : Hw) (pa : Nat) : Option Nat :=
  (List.range 32).find? (fun nn =>
    let a := h.reg .HOME_ISET_A 0 0 nn
    let b := h.reg .HOME_ISET_B 0 0 nn
    let g := pa >>> 30
    let base := F.HOME_ISET_A_BASE.get a
    wbit a 63 && decide (base ≤ g) && decide (g < base + F.HOME_ISET_B_SIZE.get b)
      && decide (g < base + F.HOME_ISET_B_DONE.get b))

/-- An address lies in an initialised part of a valid interleave set (R287, R314). -/
def Hw.mapped (h : Hw) (pa : Nat) : Bool := (h.isetOf pa).isSome

/-- The target and the target-local address of an address in a set (R290). -/
def Hw.target (h : Hw) (nn pa : Nat) : Nat × Nat :=
  let a := h.reg .HOME_ISET_A 0 0 nn
  let b := h.reg .HOME_ISET_B 0 0 nn
  let off := pa - (F.HOME_ISET_A_BASE.get a <<< 30)
  let g := match F.HOME_ISET_A_GRAN.get a with
    | 0 => 8
    | 1 => 12
    | _ => 14
  let n := max 1 (F.HOME_ISET_A_N.get a)
  let chunk := off >>> g
  let row := chunk / n
  let idx := if wbit a 62 then chunk % n else (chunk + row) % n
  (F.HOME_ISET_A_FIRST.get a + idx, (F.HOME_ISET_B_LBASE.get b <<< 30) + (row <<< g) + off % 2 ^ g)

/-- What an unlisted byte of memory reads as: DESIGN CHOICE zero (log entry 3); the near tier is zero after initialisation (R313). -/
def memDefault : Byte := 0

/-- One byte of the coherent memory. -/
def Hw.byte (h : Hw) (a : Nat) : Byte := look memDefault h.mem a

/-- A byte of the coherent memory, written. -/
def memSet (m : List Host.Cell) (a : Nat) (v : Byte) : List Host.Cell := putC memDefault m a v

/-- Consecutive bytes of the coherent memory, written. -/
def memSets : List Host.Cell → Nat → List Byte → List Host.Cell
  | m, _, [] => m
  | m, a, b :: r => memSets (memSet m a b) (a + 1) r

/-- The canonical form of the memory. -/
def Memory.wf (m : List Host.Cell) : Bool := canon memDefault m

/-- `n` consecutive bytes of the coherent memory. -/
def Hw.bytes (h : Hw) (a : Nat) : Nat → List Byte
  | 0 => []
  | n + 1 => h.byte a :: h.bytes (a + 1) n

/-- The line of an address. -/
def lineOf (pa : Nat) : Nat := pa >>> 6

/-- The line lies on a channel that has failed, no agent holds it and the render cache has no copy: reads of it answer POISON (R328). -/
def Hw.chLost (h : Hw) (line : Nat) : Bool :=
  !h.chFail.isEmpty && decide (line <<< 6 < 0x0100000000000) &&
    (match h.isetOf (line <<< 6) with
     | some nn => has h.chFail (h.target nn (line <<< 6)).1
     | none => false) &&
    decide (look .unc h.dir line = .unc) && !(h.rc.any (fun e => e.2.any (fun w => w.line == line)))

/-- A reader receives the line marked POISON (R249, R299, R328). -/
def Hw.poisoned (h : Hw) (pa : Nat) : Bool :=
  has h.poison (lineOf pa) || has h.tpoison (lineOf pa) || h.chLost (lineOf pa)

/-- A line is poisoned. -/
def Hw.setPoison (h : Hw) (line : Nat) : Hw := { h with poison := ins h.poison line }

/-- A line's poison is cleared. -/
def Hw.clearPoison (h : Hw) (line : Nat) : Hw := { h with poison := rem h.poison line, tpoison := rem h.tpoison line }

/-- The observer of an access, for the loss of reservations (R237): a thread, or any other agent. -/
inductive Observer where
  | thread (t : Nat)
  | other
  deriving DecidableEq, Repr

/-- Every reservation on a line is lost but the one of a thread named (R237). -/
def dropResv (keep : Option Nat) (line : Nat) (l : List (Nat × Thread)) : List (Nat × Thread) :=
  l.map (fun (k, x) =>
    match x.resv with
    | some r => if r.line = line ∧ keep ≠ some k then (k, { x with resv := none }) else (k, x)
    | none => (k, x))

/-- Bytes are written into the coherent memory and every reservation on their lines is lost, the writer's own too (R213, R237). -/
def Hw.writeMem (h : Hw) (a : Nat) (bs : List Byte) : Hw :=
  let last := a + (bs.length - 1)
  let thr1 := dropResv none (lineOf a) h.thr
  let thr2 := if lineOf last = lineOf a then thr1 else dropResv none (lineOf last) thr1
  { h with mem := memSets h.mem a bs, thr := thr2 }

/-- A number is written into the coherent memory, little-endian. -/
def Hw.writeNum (h : Hw) (a n v : Nat) : Hw := h.writeMem a (toBytes n v)

/-- A number read from the coherent memory, little-endian. -/
def Hw.readNum (h : Hw) (a n : Nat) : Nat := ofBytes (h.bytes a n)

end Sys2Proof.Machine
end

