-- ==== Sys2Proof/Machine/Packet.lean ====
section
/-! DEFINITION. The packets of the fabric: stops, the ends and the way of a packet, its header, its reserved slots, and its form on a scrim link (spec/01_package_anatomy.md R25; spec/11_fabric.md R425 to R441; spec/12_die_links.md R458 to R461). -/

namespace Sys2Proof.Machine

/-! Agents and homes (R246, R248). -/

/-- The agent that an operand names. -/
def toAgent : AgentRef → Agent
  | .core d p => .core (d.val + 1) p.val
  | .eng n => .eng n.val
  | .port n => .port n.val
  | .xtl => .hub

/-- The compute die of an agent, if it is one. -/
def Agent.cdie : Agent → Option Nat
  | .core d _ => some d
  | _ => none

/-- Two names of one agent toward the home: a compute die holds lines at die level (R248). -/
def Agent.same (a b : Agent) : Bool :=
  match a, b with
  | .core d _, .core e _ => d == e
  | _, _ => a == b

/-- The partition that owns an agent (R485). -/
def Hw.agentPart (h : Hw) (a : Agent) : Nat :=
  match a with
  | .core d _ => look 0 h.dieOwner d
  | .eng n => look 0 h.engOwner n
  | .port n => look 0 h.portOwner n
  | .hub => 0

/-- The die-cache slice of a line (R40). -/
def dcSlice (line : Nat) : Nat := foldXor 4 12 line

/-- The home slice of an address (R246). -/
def homeOf (pa : Nat) : Nat := if pa < 0x0100000000000 then foldXor 5 10 (pa >>> 6) else foldXor 5 8 (pa >>> 14)

/-- The home slice of a line. -/
def homeOfLine (line : Nat) : Nat := homeOf (line <<< 6)

/-- The world bit of a message about a held line: the secure tag that its grant gave it (R681, log entry 22). -/
def Hw.secureLine (h : Hw) (line : Nat) : Bool := h.gibSecure (line >>> 24)

/-! Keys of the directory (R250, R253). -/

/-- A line of the far tier. -/
def isFar (line : Nat) : Bool := decide (0x0100000000000 ≤ line <<< 6)

/-- The directory key of a line: the line, or its 1 KiB region in the far tier (R253). -/
def dirKey (line : Nat) : Nat := if isFar line then 2 ^ 50 + line / 16 else line

/-- The bit of a line in LMASK (R253). -/
def lbit (line : Nat) : Nat := 2 ^ (line % 16)

/-! Stops, as 128 * die ID + stop (R25, R431). -/

/-- A stop as a number. -/
def stopNum (s : StopRef) : Nat := 128 * dieId s.die + s.stop.toNat

/-- The highest stop number that R431 assigns on a die. -/
def lastStop (die : Nat) : Nat := if die = 0 then 0x64 else if die ≤ 12 then 0x11 else 0x1A

/-- The table of R431 assigns the stop. -/
def stopOk (s : StopRef) : Bool := decide (s.stop.toNat ≤ lastStop (dieId s.die))

/-- The stops of every die (R431). -/
def allStops : List Nat :=
  ((List.range 13) ++ [0x10, 0x11, 0x12, 0x13]).flatMap (fun d => (List.range (lastStop d + 1)).map (fun k => 128 * d + k))

/-- The ring stop to which a physical core attaches (R25). -/
def coreStop (pcore : Nat) : Nat := if pcore < 32 then pcore / 2 else if pcore = 32 then 0 else 8

/-- The stop of an agent: of a core, the one that it attaches to. -/
def Agent.stop : Agent → Nat
  | .core d p => 128 * d + coreStop p
  | .eng n => if n < 24 then 0x38 + n else 128 * (0x10 + (n - 24) / 8) + 0x10 + (n - 24) % 8
  | .port n => 128 * (0x10 + n / 16) + n % 16
  | .hub => 0x61

/-- The stop that acts for an agent on a line: the die-cache slice for the cores of its die (R40). -/
def Agent.lineStop (a : Agent) (line : Nat) : Nat :=
  match a with
  | .core d _ => 128 * d + dcSlice line
  | _ => a.stop

/-- The agent at a stop, for the messages that it sends. -/
def agentOfStop (n : Nat) : Agent :=
  let d := n / 128
  let s := n % 128
  if 1 ≤ d ∧ d ≤ 12 then .core d (if s ≤ 15 then 2 * s else 0)
  else if d = 0 then (if 0x38 ≤ s ∧ s ≤ 0x4F then .eng (s - 0x38) else .hub)
  else if s < 16 then .port (16 * (d - 0x10) + s)
  else if s < 0x18 then .eng (24 + 8 * (d - 0x10) + (s - 16))
  else .hub

/-- The register access port of the block at an address of the register window (R431). -/
def regStop (pa : Nat) : Nat :=
  match blockOf pa with
  | none => 0x64
  | some (die, k, b, inst, _) =>
    match k, b with
    | .compute, _ => 128 * die + 0x11
    | .port, _ => 128 * die + 0x1A
    | .hub, .HOME => inst
    | .hub, .MEMC => 0x20 + inst
    | .hub, .SKM => 0x38 + inst
    | .hub, .XTL => 0x61
    | .hub, .EVR => 0x62
    | .hub, .RAS => 0x63
    | .hub, _ => 0x64

/-- The stop that serves a device or register access (R431). -/
def accessStop (pa : Nat) : Nat :=
  match paRange pa with
  | .mmio => (Agent.port (portOfPa pa)).stop
  | .message => 0x62
  | _ => regStop pa

/-! Classes, priorities and opcodes (R259, R432, R434). -/

/-- CLASS of a message (R432, R434). -/
def MsgOp.cls : MsgOp → Nat
  | .RDS | .RDO | .UPG | .OWN | .RDC | .RDP | .STN | .WRF | .WRP | .CMT | .REGRD | .REGWR | .POSTWR | .EVMSG => 0
  | .RCS | .RCI | .RCC | .INV | .PRB | .FAP => 1
  | .ACK | .ACKF | .GNTO | .RDY | .DONE | .WBA | .DFR | .REF | .ASLEEP | .STALE | .FERR | .REGCPL | .POSTACK => 2
  | .RCD | .GNTE | .GNTS | .GNTF | .DATA => 3
  | .WB | .EVC | .EVF => 4
  | .TREQ | .TGNT | .EPOCH | .OPEN | .CREDIT => 5

/-- PRIO of a message (R259, R347, R352, R437): an engine's stream reads, their data, and its ownership requests for append-mode output travel at P0; the tag 8 marks them. -/
def Msg.prio (m : Msg) : Nat :=
  match m.op with
  | .RCS | .RCI | .RCC | .RCD | .EPOCH | .OPEN => 3
  | .INV | .PRB | .FAP | .ACK | .ACKF | .EVMSG => 2
  | .RDC | .OWN | .DATA => match m.agent with
    | .eng _ => if m.info = 8 then 0 else 1
    | _ => 1
  | _ => 1

/-- OPCODE of a message (R434); the return of an event credit goes as a control packet (log entry 54). -/
def MsgOp.code : MsgOp → Nat
  | .RDS => 0x01 | .RDO => 0x02 | .UPG => 0x03 | .OWN => 0x04 | .RDC => 0x05 | .RDP => 0x06 | .STN => 0x07
  | .WRF => 0x08 | .WRP => 0x09 | .CMT => 0x0A | .REGRD => 0x10 | .REGWR => 0x11 | .POSTWR => 0x12 | .EVMSG => 0x13
  | .WB => 0x18 | .EVC => 0x19 | .EVF => 0x1A
  | .RCS => 0x20 | .RCI => 0x21 | .RCC => 0x22 | .INV => 0x23 | .PRB => 0x24 | .FAP => 0x25
  | .RCD => 0x28 | .GNTE => 0x29 | .GNTS => 0x2A | .GNTF => 0x2B | .DATA => 0x2C
  | .ACK => 0x30 | .ACKF => 0x31 | .GNTO => 0x32 | .RDY => 0x33 | .DONE => 0x34 | .WBA => 0x35 | .DFR => 0x36 | .REF => 0x37
  | .ASLEEP => 0x38 | .STALE => 0x39 | .FERR => 0x3A | .REGCPL => 0x3B | .POSTACK => 0x3C
  | .TREQ => 0x3D | .TGNT => 0x3D | .CREDIT => 0x3D | .EPOCH => 0x3E | .OPEN => 0x3F

/-- The message that a request opcode names (R434). -/
def opOf (c : Nat) : Option MsgOp :=
  [MsgOp.RDS, .RDO, .UPG, .OWN, .RDC, .RDP, .STN, .WRF, .WRP, .CMT, .REGRD, .REGWR, .POSTWR, .EVMSG].find? (fun o => o.code == c)

/-- Messages of a home's protocol carry a line; others the address of an access. -/
def Msg.ofHome (m : Msg) : Bool := decide (m.op.code ≤ 0x0A ∨ 0x18 ≤ m.op.code ∧ m.op.code ≤ 0x3A) && decide (m.addr < 2 ^ 46)

/-- PA[51:6] of a packet, if it carries an address (R432). -/
def Msg.line (m : Msg) : Option Nat :=
  if m.ofHome then some m.addr
  else match m.op with
    | .REGRD | .REGWR | .POSTWR | .REGCPL | .POSTACK | .REF | .ASLEEP | .STALE | .FERR => some (m.addr / 64)
    | _ => none

/-- DATA that a port delivers to an engine of its own die; its `mask` is the port's number plus 1 (R31). -/
def Msg.relay (m : Msg) : Bool := m.op == .DATA && (match m.agent with
  | .eng _ => decide (m.mask ≠ 0)
  | _ => false)

/-- The home's grant of an engine's far-tier read to the port that delivers the data; its `mask` is the engine's number plus 1, and the response slot is the engine's (R31). -/
def Msg.forEngine (m : Msg) : Bool := m.op == .DATA && (match m.agent with
  | .port _ => decide (m.mask ≠ 0)
  | _ => false)

/-- The source and the destination stop of a message (R431, R433): the STALE of a snoop, marked by its `mask`, goes to the home. A core's reads of N-NC memory and the writes of its write-combining buffers are the core's own; any other line message of a core is its die-cache slice's. -/
def Msg.ends (m : Msg) : Nat × Nat :=
  let own := m.op == .RDC || m.op == .WRF || m.op == .WRP || decide (m.info ≠ 0) && (m.op == .DATA || m.op == .DONE || m.op == .REF)
  let unit := if own then m.agent.stop else m.agent.lineStop m.addr
  match m.op with
  | .REGRD | .REGWR | .POSTWR => (m.agent.stop, accessStop m.addr)
  | .REGCPL | .POSTACK => (accessStop m.addr, m.agent.stop)
  | .EVMSG => (0x62, m.agent.stop)
  | .CREDIT => (m.agent.stop, 0x62)
  | .TREQ => (m.data, m.addr)
  | .TGNT => (m.addr, m.data)
  | .EPOCH | .OPEN => (m.addr, m.agent.stop)
  | .DATA => (if m.relay then (match m.mask with
      | 0 => homeOfLine m.addr
      | n + 1 => (Agent.port n).stop) else homeOfLine m.addr, unit)
  | .RCS | .RCI | .RCC | .INV | .PRB | .FAP | .GNTE | .GNTS | .GNTF | .GNTO | .RDY | .DONE | .WBA | .DFR => (homeOfLine m.addr, unit)
  | .STALE => if m.mask = 1 then (unit, homeOfLine m.addr) else if m.addr < 2 ^ 46 then (homeOfLine m.addr, unit) else (accessStop m.addr, m.agent.stop)
  | .REF | .ASLEEP | .FERR => if m.addr < 2 ^ 46 then (homeOfLine m.addr, unit) else (accessStop m.addr, m.agent.stop)
  | _ => (unit, homeOfLine m.addr)

/-! The way of a packet (R425 to R430). -/

/-- The spine node to which a stop of the hub attaches (R428). -/
def spineNode (s : Nat) : Nat :=
  if s < 0x20 then s / 4 else if s < 0x38 then (s - 0x20) / 3 else if s < 0x50 then (s - 0x38) / 3
  else if s < 0x5C then 2 * ((s - 0x50) / 3) + (s - 0x50) % 3 / 2 else if s < 0x60 then 2 * (s - 0x5C) + 1
  else if s = 0x60 then 0 else if s = 0x61 then 4 else if s = 0x62 then 2 else if s = 0x63 then 3 else 6

/-- The hub's scrim port of a die, as a stop (R431). -/
def scrimPort (die : Nat) : Nat := if die ≤ 12 then 0x50 + (die - 1) else 0x5C + (die - 0x10)

/-- A packet on a ring of a compute die takes the shorter way; at 9 hops the ascending ring (R426). -/
def ringAsc (src dst : Nat) : Bool := decide ((dst + 18 - src) % 18 ≤ 9)

/-- The spine ring of a packet: by its line, or by its destination stop (R429). -/
def spineRing (line : Option Nat) (dstStop : Nat) : Nat :=
  match line with
  | some l => (l ^^^ (l >>> 3) ^^^ (l >>> 6)) % 8
  | none => dstStop % 8

/-- A packet crosses the spine by the shorter way; at 4 nodes in ascending order (R429). -/
def spineLeg (line : Option Nat) (dstStop a b : Nat) : Leg := .spine (spineRing line dstStop) a b (decide ((b + 8 - a) % 8 ≤ 4))

/-- The way of a packet inside a die other than the hub, between two of its stops. -/
def dieLeg (die s d : Nat) : List Leg :=
  if s = d then [] else if die ≤ 12 then [.ring die s d (ringAsc s d)] else [.crossbar die s d]

/-- The scrim link stop of a die other than the hub (R431). -/
def scrimStop (die : Nat) : Nat := if die ≤ 12 then 0x10 else 0x19

/-- The networks that a packet crosses from one stop to another (R425). -/
def legsOf (line : Option Nat) (src dst : Nat) : List Leg :=
  let sd := src / 128
  let dd := dst / 128
  let ds := dst % 128
  if sd = dd ∧ sd ≠ 0 then dieLeg sd (src % 128) ds
  else
    let up := if sd = 0 then [] else dieLeg sd (src % 128) (scrimStop sd) ++ [.link sd true]
    let down := if dd = 0 then [] else .link dd false :: dieLeg dd (scrimStop dd) ds
    up ++ [spineLeg line ds (spineNode (if sd = 0 then src else scrimPort sd)) (spineNode (if dd = 0 then ds else scrimPort dd))] ++ down

/-- The ring stops that a packet passes after the one that it leaves, its destination last (R427). -/
def ringStops (src dst : Nat) (asc : Bool) : List Nat :=
  let n := if asc then (dst + 18 - src) % 18 else (src + 18 - dst) % 18
  (List.range n).map (fun i => if asc then (src + i + 1) % 18 else (src + 17 - i) % 18)

/-! The header (R432, R433) and the form of a packet on a scrim link (R435, R442, R458, R459, R461). -/

/-- LEN of a packet (R432, R435): 64 B of data; a partial write has its mask in a second slot; an access and its completion carry 16 B (log entry 54). -/
def Msg.len (m : Msg) : Nat :=
  match m.op with
  | .RCD | .GNTE | .GNTS | .GNTF | .DATA | .WRF | .WB => 3
  | .WRP => 4
  | .REGRD | .REGWR | .POSTWR | .REGCPL | .EVMSG => 1
  | _ => 0

/-- FLAGS of a packet (R432): POISON and SECURE of a data class, ABSENT, WBPEND and PRESENT of an ACK, whose bits 0 to 2 the model's `info` holds in that order, and WAKING of an ASLEEP. -/
def Hw.flagsOf (h : Hw) (m : Msg) : Nat :=
  if m.op.cls = 3 then 8 * b2n (h.poisoned (m.addr <<< 6)) + 4 * b2n (h.secureLine m.addr)
  else match m.op with
    | .ACK => 4 * (m.info % 2) + 2 * (m.info / 2 % 2) + m.info / 4 % 2
    | .ASLEEP => m.info % 2
    | _ => 0

/-- Header word 0 (R432). -/
def Hw.word0 (h : Hw) (m : Msg) (bad : Bool) : W64 :=
  let (s, d) := m.ends
  BitVec.ofNat 64 ((d / 128) <<< 56 ||| (d % 128) <<< 49 ||| (s / 128) <<< 41 ||| (s % 128) <<< 34 ||| m.op.cls <<< 31 |||
    m.prio <<< 29 ||| (m.part % 16) <<< 25 ||| b2n m.world <<< 24 ||| m.epoch <<< 16 ||| m.token <<< 8 ||| m.len <<< 5 |||
    b2n bad <<< 4 ||| h.flagsOf m)

/-- Header word 1 (R432). -/
def Msg.word1 (m : Msg) : W64 :=
  BitVec.ofNat 64 (m.op.code <<< 58 ||| (m.txid % 4096) <<< 46 ||| (m.line.getD 0) % 2 ^ 46)

/-- The payload of a packet: the data of a write or of an access, or the line's. -/
def Hw.payload (h : Hw) (m : Msg) : List Byte :=
  match m.len with
  | 1 => toBytes 16 (if m.op == .REGRD || m.op == .REGWR || m.op == .POSTWR then m.addr % 64 ||| m.data <<< 64 else m.info)
  | 3 => if m.op == .WRF then toBytes 64 m.data else h.bytes (m.addr <<< 6) 64
  | 4 => toBytes 64 m.data
  | _ => []

/-- The trailer of a partial write: its byte mask in the low 8 bytes (R435). -/
def Msg.trailer (m : Msg) : List Byte := if m.len = 4 then toBytes 16 m.mask else []

/-- The end-to-end CRC of a packet (R442): over both header words with BAD taken as 0, the payload and the trailer. -/
def Hw.ecrc (h : Hw) (m : Msg) : BitVec 32 :=
  ~~~(crcBytes 0xFFFFFFFF (toBytes 8 (h.word0 m false).toNat ++ toBytes 8 m.word1.toNat ++ h.payload m ++ m.trailer))

/-- The 128-bit slots of a list of bytes. -/
def slots16 : Nat → List Byte → List (BitVec 128)
  | 0, _ => []
  | _ + 1, [] => []
  | n + 1, l => BitVec.ofNat 128 (ofBytes (l.take 16)) :: slots16 n (l.drop 16)

/-- The slots of a packet on a scrim link, in order (R458): the header, the payload, the trailer, and the tail with the ECRC. -/
def Hw.slots (h : Hw) (m : Msg) (bad : Bool) : List (BitVec 128) :=
  (m.word1 ++ h.word0 m bad) :: (slots16 4 (h.payload m) ++ slots16 1 m.trailer ++ [(h.ecrc m).zeroExtend 128])

/-- A slot as the unit that a wire group carries (R461, R462): its 128 bits, the 8 Hamming check bits on wires 128 to 135, and the overall parity on wire 136. -/
def unitOf (slot : BitVec 128) : BitVec 137 :=
  let d : BitVec 136 := Config.unitCheck slot ++ slot
  BitVec.ofNat 1 (popCount 136 d.toNat) ++ d

/-- The K word of a flit of 8 slots (R459): SOP, VAL, SEQ, CMD and ARG under their check bits. -/
def kWord (sop val : BitVec 8) (seq : BitVec 6) (cmd : BitVec 4) (arg : BitVec 7) : BitVec 40 :=
  let d : BitVec 33 := sop ++ val ++ seq ++ cmd ++ arg
  Config.kCheck d ++ d

/-- The flits that carry packets back to back from slot 0 on: for each, its slots and its SOP and VAL (R458, R459). -/
def flitsOf (width : Nat) : Nat → List (Bool × BitVec 128) → List (List (BitVec 128) × Nat × Nat)
  | 0, _ => []
  | _ + 1, [] => []
  | n + 1, l =>
    let f := l.take width
    (f.map (·.2), ((f.zipIdx).map (fun e => if e.1.1 then 2 ^ e.2 else 0)).sum, 2 ^ f.length - 1) :: flitsOf width n (l.drop width)

/-- The slots of packets in their order, each with whether it is a header slot. -/
def Hw.linkSlots (h : Hw) (l : List Msg) : List (Bool × BitVec 128) :=
  l.flatMap (fun m => (h.slots m false).zipIdx.map (fun e => (decide (e.2 = 0), e.1)))

/-- The flits of a scrim link that carry packets (R458): a compute die's link has 8 slots a flit, a port die's 16. -/
def Hw.linkFlits (h : Hw) (die : Nat) (l : List Msg) : List (List (BitVec 128) × Nat × Nat) :=
  let s := h.linkSlots l
  flitsOf (if die ≤ 12 then 8 else 16) s.length s

/-- The K words of the four flits that carry a link command (R460): its 28-bit argument goes lowest bits first. -/
def commandWords (seq : BitVec 6) (cmd : BitVec 4) (arg : BitVec 28) : List (BitVec 40) :=
  (List.range 4).map (fun i => kWord 0 0 (seq + BitVec.ofNat 6 i) cmd (BitVec.ofNat 7 (arg.toNat >>> (7 * i))))

/-! Reserved slots (R438 to R441). -/

/-- The kind of slot that a message needs at its destination: 0 request, 1 write-back, 2 snoop. A commit uses its write's slot, and an event message one of its thread's (R32, R615). -/
def MsgOp.slotKind (op : MsgOp) : Option Nat :=
  match op with
  | .CMT | .EVMSG => none
  | _ => match op.cls with
    | 0 => some 0
    | 1 => some 2
    | 4 => some 1
    | _ => none

/-- The stop at which a message's slot lies: a port die holds the snoop slots of its port agents (R439). -/
def Msg.slotStop (m : Msg) : Nat :=
  let d := m.ends.2
  match m.agent, m.op.cls with
  | .port _, 1 => 128 * (d / 128) + 0x19
  | _, _ => d

/-- The engine at a stop. -/
def engOfStop (n : Nat) : Option Nat :=
  match agentOfStop n with
  | .eng k => some k
  | _ => none

/-- The stop is a home slice. -/
def isHomeStop (n : Nat) : Bool := decide (n < 0x20)

/-- The slots dedicated to a source at a destination (R439). -/
def dedicated (dst src kind : Nat) : List Nat :=
  let d := src / 128
  let run (a n : Nat) : List Nat := (List.range n).map (· + a)
  if isHomeStop dst then
    match kind, engOfStop src with
    | 0, some n => [96 + n]
    | 0, none => if 1 ≤ d ∧ d ≤ 12 then run (8 * (d - 1)) 8 else if 0x10 ≤ d then run (152 + 4 * (d - 0x10)) 4 else []
    | 1, none => if 1 ≤ d ∧ d ≤ 12 then run (4 * (d - 1)) 4 else if 0x10 ≤ d then [48 + (d - 0x10)] else []
    | _, _ => []
  else if kind = 2 ∧ isHomeStop src then (if (engOfStop dst).isSome then [src] else [2 * src, 2 * src + 1])
  else []

/-- The shared slots of a destination that a source may be granted (R439). -/
def sharedPool (dst src kind : Nat) : List Nat :=
  let d := dst / 128
  let s := dst % 128
  let hubAgent := decide (src = 0x60) || decide (src = 0x61) || (decide (0x20 ≤ src) && decide (src ≤ 0x37))
  if isHomeStop dst then
    match kind with
    | 0 => (if hubAgent then (List.range 8).map (· + 168) else []) ++ (List.range 16).map (· + 176)
    | 1 => if hubAgent || (engOfStop src).isSome then (List.range 12).map (· + 52) else []
    | _ => []
  else if kind ≠ 0 then []
  else if dst = 0x60 then (List.range 8).map (· + 56)
  else if dst = 0x61 ∨ dst = 0x62 ∨ dst = 0x63 ∨ dst = 0x64 ∨ (0x20 ≤ dst ∧ dst < 0x50) then List.range 32
  else if 1 ≤ d ∧ d ≤ 12 ∧ s = 0x11 then List.range 32
  else if 0x10 ≤ d ∧ (s = 0x1A ∨ s < 16) then List.range 32
  else []

/-- The core requests that a port holds: posted writes that wait for the link partner, and accesses that its device has not completed (R228, R439). -/
def Hw.portHolds (h : Hw) (n : Nat) : Nat :=
  let flying (t : Nat) (w : DevWait) : Bool := (h.msgs ++ h.tokWait).any (fun m => decide (m.addr = w.addr ∧ m.info = t) && (m.op == .REGRD || m.op == .REGWR))
  (look [] h.dpq n).length + (h.thr.filter (fun e => match e.2.devOpen with
    | some w => w.atPort n && !w.posted && !flying e.1 w
    | none => false)).length

/-- A destination has a slot of its shared pool to give: a port agent's 32 are held also by the requests that it has taken. -/
def Hw.poolOpen (h : Hw) (dst : Nat) : Bool :=
  match agentOfStop dst with
  | .port n => decide ((h.toks.filter (fun t => decide (t.dst = dst))).length + h.portHolds n < 32)
  | _ => true

/-- A slot of a pool that no one holds. -/
def Hw.freeSlot (h : Hw) (dst kind : Nat) (pool : List Nat) : Option Nat :=
  pool.find? (fun k => !(h.toks.any (fun t => decide (t.dst = dst ∧ t.kind = kind ∧ t.slot = k))))

/-- A message that needs no slot, or has one, is on its way: it is stamped with the epoch of its destination as its source knows it, and with its way (R425, R452). -/
def Hw.inject (h : Hw) (m : Msg) : Hw :=
  let (s, d) := m.ends
  let cur := h.fld .DCTL_EPOCH (d / 128) 0 0 F.DCTL_EPOCH_CUR
  { h with msgs := h.msgs ++ [{ m with epoch := if (look [] h.epochPend (d / 128)).contains s then (cur + 255) % 256 else cur,
                                       legs := legsOf m.line s d }] }

/-- A message is sent with a slot that its source now holds for it. -/
def Hw.injectWith (h : Hw) (m : Msg) (kind slot : Nat) : Hw :=
  ({ h with toks := h.toks ++ [⟨m.slotStop, kind, slot, m.ends.1, some m.agent, m.addr⟩] } : Hw).inject { m with token := slot }

/-- A source has a request for a shared slot of a destination under way, or a granted one that it has not used (R440). -/
def Hw.treqOpen (h : Hw) (dst src : Nat) : Bool :=
  h.msgs.any (fun m => (m.op == .TREQ || m.op == .TGNT) && decide (m.addr = dst ∧ m.data = src)) ||
  h.treqs.any (fun r => decide (r.dst = dst ∧ r.src = src)) ||
  h.toks.any (fun t => decide (t.dst = dst ∧ t.src = src) && t.agent.isNone)

/-- A source that has no slot for a message asks for a shared one, once at a time (R440). -/
def Hw.askSlot (h : Hw) (m : Msg) (kind : Nat) : Hw :=
  let src := m.ends.1
  let dst := m.slotStop
  if (sharedPool dst src kind).isEmpty || h.treqOpen dst src then h
  else h.inject { op := .TREQ, addr := dst, agent := m.agent, part := m.part, data := src, mask := kind }

/-- A message goes into a slot dedicated to its source, or waits for one (R438 to R440). -/
def Hw.post (h : Hw) (m : Msg) : Hw :=
  match m.op.slotKind with
  | none => h.inject m
  | some kind =>
    match h.freeSlot m.slotStop kind (dedicated m.slotStop m.ends.1 kind) with
    | some k => h.injectWith m kind k
    | none => ({ h with tokWait := h.tokWait ++ [m] } : Hw).askSlot m kind

/-- The smallest number of a list of names that are not in use. -/
def freshNum (used : List Nat) : Nat := ((List.range (used.length + 1)).find? (fun k => !used.contains k)).getD 0

/-- A request reserves the slot of its answer (R438): a commit has its write's, and a settle notice its read's. -/
def MsgOp.reserves (op : MsgOp) : Bool := decide (op.cls = 0) && !(op == .CMT || op == .STN || op == .EVMSG)

/-- A message is sent: a request reserves its response slot first. -/
def Hw.send (h : Hw) (m : Msg) : Hw :=
  if m.op.reserves then
    let s := m.ends.1
    let k := freshNum ((h.rsps.filter (fun r => decide (r.src = s))).map (·.txid))
    ({ h with rsps := h.rsps ++ [⟨s, k, m.agent, m.op, m.addr, h.now⟩] } : Hw).post { m with txid := k }
  else h.post m

/-- A slot that a source may use goes to the first of its messages that wait for one (R439): the sources of a die share its dedicated slots. -/
def Hw.serveSlot (h : Hw) (dst kind slot : Nat) : Hw :=
  match takeFirst (fun (m : Msg) => decide (m.slotStop = dst) && m.op.slotKind == some kind && (dedicated dst m.ends.1 kind).contains slot) h.tokWait with
  | some (m, r) => ({ h with tokWait := r } : Hw).injectWith m kind slot
  | none => h

/-- A destination grants its shared slots in the order in which the requests arrived (R440); `n` bounds how many. -/
def Hw.grantToks : Nat → Nat → Hw → Hw
  | 0, _, h => h
  | n + 1, dst, h =>
    match takeFirst (fun (r : TokReq) => decide (r.dst = dst) && h.poolOpen dst && (h.freeSlot r.dst r.kind (sharedPool r.dst r.src r.kind)).isSome) h.treqs with
    | some (r, rest) =>
      match h.freeSlot r.dst r.kind (sharedPool r.dst r.src r.kind) with
      | some k =>
        let h1 : Hw := { h with treqs := rest, toks := h.toks ++ [⟨r.dst, r.kind, k, r.src, none, 0⟩] }
        Hw.grantToks n dst (h1.inject { op := .TGNT, addr := dst, agent := agentOfStop r.src, data := r.src, mask := r.kind, info := k })
      | none => h
    | none => h

/-- A destination frees a slot (R439): a dedicated one returns to its source, a shared one to the pool. -/
def Hw.dropSlot (h : Hw) (t : TokSlot) : Hw :=
  let h1 : Hw := { h with toks := dropFirst (fun x => x == t) h.toks }
  if (dedicated t.dst t.src t.kind).contains t.slot then h1.serveSlot t.dst t.kind t.slot else h1.grantToks (h1.treqs.length) t.dst

/-- The slot of a message of an agent about a line is freed (R439); a snoop's names its die by any core. -/
def Hw.freeTok (h : Hw) (kind : Nat) (a : Agent) (line : Nat) : Hw :=
  match h.toks.find? (fun t => decide (t.kind = kind ∧ t.line = line) && (if kind = 2 then t.agent.any (fun x => x.same a) else t.agent == some a)) with
  | some t => h.dropSlot t
  | none => h

/-- The slots, the waiting messages and the response slots of an agent end with it (R284). -/
def Hw.dropAgentSlots (h : Hw) (a : Agent) : Hw :=
  let mine (x : Agent) : Bool := x.same a
  let h1 : Hw := { h with tokWait := h.tokWait.filter (fun m => !mine m.agent), rsps := h.rsps.filter (fun r => !mine r.agent) }
  (h1.toks.filter (fun t => t.agent.any mine)).foldl Hw.dropSlot h1

/-- The answers after which a request's response slot is free (R433). -/
def MsgOp.answers (op : MsgOp) : Bool :=
  [MsgOp.GNTE, .GNTS, .GNTF, .GNTO, .DATA, .RDY, .DONE, .DFR, .REF, .REGCPL, .POSTACK, .FERR, .STALE].contains op

/-- A response slot has its answer. -/
def Hw.freeRsp (h : Hw) (src txid : Nat) : Hw := { h with rsps := h.rsps.filter (fun r => !decide (r.src = src ∧ r.txid = txid)) }

/-! Arrival. -/

/-- The message of an opcode that waits at a line from an agent; for an answer, to one. -/
def Hw.waitingMsg (h : Hw) (op : MsgOp) (a : Agent) (line : Nat) : Option Msg :=
  h.msgs.find? (fun m => decide (m.op = op ∧ m.addr = line ∧ m.agent = a))

/-- An earlier packet that is delivered first is still under way (R436): the same ends, class, priority and line. A settle notice overtakes the read that it follows (R55). -/
def Hw.behind (h : Hw) (m : Msg) : Bool :=
  !(m.op == .STN) && (h.msgs.takeWhile (fun x => !(x == m))).any (fun x =>
    decide (x.ends = m.ends ∧ x.op.cls = m.op.cls ∧ x.prio = m.prio ∧ x.line = m.line))

/-- The token of a packet names a slot that its source holds (R441); a commit's write holds its slot. -/
def Hw.tokenOk (h : Hw) (m : Msg) : Bool :=
  match m.op.slotKind with
  | none => true
  | some kind => h.toks.any (fun t => decide (t.dst = m.slotStop ∧ t.kind = kind ∧ t.slot = m.token ∧ t.src = m.ends.1))

/-- The role epoch of a die. -/
def Hw.epoch (h : Hw) (die : Nat) : Nat := h.fld .DCTL_EPOCH die 0 0 F.DCTL_EPOCH_CUR

/-- The age of an epoch at a die (R453). -/
def age (cur e : Nat) : Nat := (cur + 256 - e % 256) % 256

/-- A packet that carries an epoch is stale at a stop (R453). -/
def Hw.isStale (h : Hw) (n e : Nat) : Bool :=
  let cur := h.epoch (n / 128)
  decide (age cur (look cur h.epochLast n) < age cur e)

end Sys2Proof.Machine
end

