-- ==== Sys2Proof/Machine/Translate.lean ====
section
/-! DEFINITION. Address translation (spec/05_address_translation.md): regimes, table entries, permissions, memory types, and which TLB and walk-cache entries match. The walks stand in Walk.lean. -/

namespace Sys2Proof.Machine

/-- The kind of an access (R172). -/
inductive Acc where
  | fetch | load | store
  deriving DecidableEq, Repr

/-- A translation failure (R187): of stage 1, of the partition stage (with the IA and whether a stage-1 table access met it), a refused access or walk read, the memory-type exception with the effective type, or a poisoned table read with the entry's level. A thread's walk read that lacks a miss register or a token, or is deferred, waits (R45, R47, R52). -/
inductive TF where
  | page (detail : Nat)
  | part (detail : Nat) (ia : Nat) (table : Bool)
  | access (detail : Nat)
  | memType (eff : Nat)
  | poison (lvl pa : Nat)
  | wait
  deriving DecidableEq, Repr

/-- A translation context: the regime (R162, coded as R196 codes it), its registers, the level that permissions are checked as, and who makes the request. -/
structure Ctx where
  /-- 0 S, 1 H, 2 M, 3 secure. -/
  regime : BitVec 2
  s1en : Bool
  s1base : Nat
  asid : Nat
  hwad1 : Bool
  sum : Bool
  psen : Bool
  psbase : Nat
  vmid : Nat
  hwad2 : Bool
  /-- Permissions are checked as at U or secure-U. -/
  user : Bool
  part : Nat
  world : Bool
  /-- The thread whose walk it is, if any: its walk buffer takes what the walk read (R61). -/
  thread : Option Nat
  /-- Skim engine and device accesses: X is not examined and D types fail with reason 0x04 (R204). -/
  engine : Bool
  /-- The port whose device it is: U accesses of N types to memory and of D types to MMIO windows (R207); it tags the entries of the port XTL (R210). -/
  port : Option Nat := none
  /-- The walk reads may wait: the command of the access is given again. -/
  waits : Bool := true
  deriving DecidableEq, Repr

/-- The S and secure regimes, in which U and SUM are examined (R172). -/
def Ctx.checksU (c : Ctx) : Bool := decide (c.regime = 0 ∨ c.regime = 3)

/-- The regime has a partition stage (R162). -/
def Ctx.hasPs (c : Ctx) : Bool := c.checksU

/-- The result of a translation: the PA, the effective memory type, GW of the leaf, an entry for the TLBs, and the table entries whose D a store sets once every check has passed (R180). -/
structure XRes where
  pa : Nat
  mt : Nat
  gw : Bool
  ent : Option TlbEnt
  ds : List Nat := []
  deriving DecidableEq, Repr

/-- DETAIL of R187: the level and the reason. -/
def tdetail (lvl reason : Nat) : Nat := lvl <<< 5 ||| reason

/-- Output address bits [51:12] of an entry (R170). -/
def pteOA (e : W64) : Nat := wbits e 51 12 <<< 12

/-- The page size of a leaf, as a power of two (R168). DESIGN CHOICE: of a badly formed 64 KiB group, whose outcome R169 leaves unpredictable, an access takes its own entry with OA[51:16] (log entry 44). -/
def leafShift (lvl : Nat) (e : W64) : Nat :=
  if lvl = 2 then 30 else if lvl = 1 then 21 else if wbit e 52 then 16 else 12

/-- An entry with V = 1 is malformed (R171). -/
def pteMalformed (e : W64) (lvl : Nat) (stage2 secure : Bool) : Bool :=
  let leaf := wbit e 1
  (if leaf then
    decide (3 ≤ lvl) || (decide (lvl = 2) && wbits e 29 12 != 0) || (decide (lvl = 1) && wbits e 20 12 != 0)
      || (wbit e 6 && !wbit e 5) || wbit e 4
      || (wbit e 53 && (stage2 || !secure)) || (wbit e 52 && lvl != 0)
  else
    decide (lvl = 0) || wbit e 11 || wbits e 9 2 != 0 || wbits e 55 52 != 0)
  || wbit e 54 || wbit e 55

/-- The strictness order of the memory types (R173): D-S, D-P, N-NC, N-WB. -/
def mtRank (mt : Nat) : Nat := if mt = 2 then 3 else if mt = 3 then 2 else if mt = 1 then 1 else 0

/-- The stricter of two memory types (R173). -/
def mtStricter (a b : Nat) : Nat := if mtRank b ≤ mtRank a then a else b

/-- The walk-cache entry for a table entry's address (R190). -/
def walkHit (l : List WalkEnt) (stage2 : Bool) (c : Ctx) (pa : Nat) : Option W64 :=
  (l.find? (fun e => e.stage2 == stage2 && e.pa == pa && e.regime == c.regime &&
    (e.vmid == (if c.psen then some c.vmid else none)))).map (·.val)

/-- The home refuses a request: the hub RAS block records it (R487). -/
def Hw.homeRefusal (h : Hw) (part : Nat) (world : Bool) (pa : Nat) : Hw :=
  h.ras 0 0 { code := 0x40, sev := 2, addr := pa, part := part, world := world }

/-- A leaf permits an access in stage 1 (R172, R204). -/
def s1Permits (c : Ctx) (r w x u : Bool) (acc : Acc) : Bool :=
  match acc with
  | .fetch => if c.engine then r && (!c.checksU || (if c.user then u else !u || c.sum))
              else x && (!c.checksU || (if c.user then u else !u))
  | .load => r && (!c.checksU || (if c.user then u else !u || c.sum))
  | .store => w && (!c.checksU || (if c.user then u else !u || c.sum))

/-- The effective memory type of an address (R173): `t1` and `t2` are the types of the stages that translated; a bare stage gives the default type of the range. -/
def effType (c : Ctx) (pa : Nat) (t1 t2 : Option Nat) : Nat :=
  let dflt := if (paRange pa).isMem then 0 else 2
  let a := t1.getD dflt
  if c.hasPs then mtStricter a (t2.getD dflt) else a

/-- The last checks of a translation (R173, R174, R177, R204, R207): the range of the PA and its effective type; `lvl` is the level of the leaf that gave the type, 7 if none did. -/
def typeCheck (c : Ctx) (pa eff lvl : Nat) (acc : Acc) : Except TF Unit :=
  let r := paRange pa
  if r = .none then .error (.access (tdetail 7 0x11))
  else if c.engine then (if 2 ≤ eff then .error (.page (tdetail lvl 0x04)) else .ok ())
  else if c.port.isSome then
    (if (if r.isMem then decide (eff < 2) else (decide (r = .mmio) || decide (r = .message)) && decide (2 ≤ eff)) then .ok () else .error (.page (tdetail lvl 0x04)))
  else
    let allowed := if r.isMem then true else if r = .window then eff == 2 else eff == 2 || eff == 3
    if !allowed || (decide (acc = .fetch) && decide (2 ≤ eff)) then .error (.memType eff) else .ok ()

/-- A TLB entry matches an access (R163, R191, R205, R210): regime, whether stage 1 is on, world, ASID unless global, VMID, partition, the port of a device, and page. -/
def TlbEnt.hits (e : TlbEnt) (c : Ctx) (va : Nat) : Bool :=
  e.regime == c.regime && e.s1 == c.s1en && e.world == c.world && e.port == c.port && e.part == c.part && e.vmid == (if c.psen then some c.vmid else none) &&
  (match e.asid with | none => true | some a => a == c.asid) && (va >>> e.size == e.va >>> e.size)

/-- The entry may serve the access: its permissions and its type allow it (R172, R174), and for a store its D is 1 (R181). -/
def TlbEnt.serves (e : TlbEnt) (c : Ctx) (acc : Acc) : Bool :=
  s1Permits c e.r e.w e.x e.u acc && (decide (acc ≠ .store) || e.dirty) &&
    (match typeCheck c e.pa e.mt.toNat 7 acc with
     | .ok _ => true
     | .error _ => false)

/-- The address range rule of a regime (R163, R165). -/
def vaInRange (c : Ctx) (va : W64) : Bool :=
  if c.s1en then (if wbit va 56 then wbits va 63 57 == 0x7F else wbits va 63 57 == 0)
  else wbits va 63 52 == 0

end Sys2Proof.Machine
end

