-- ==== Sys2Proof/Machine/Thread.lean ====
section
/-! DEFINITION. Threads: their registers and banks, the core that carries one, its context of translation, and its write-combining buffers (spec/03_askist_instruction_set.md R85, R86; spec/04_privilege_and_traps.md R143; spec/05_address_translation.md R162; spec/06_memory_ordering.md R228). -/

namespace Sys2Proof.Machine

/-! Registers of a thread. -/

/-- The bank in use (R143). -/
def Thread.bank (x : Thread) (i : Nat) : Bank := look {} x.banks (i % 4)

/-- A bank replaced. -/
def Thread.setBank (x : Thread) (i : Nat) (b : Bank) : Thread := { x with banks := put x.banks (i % 4) b }

/-- A general register of a thread: g0 reads as zero, g1 to g8 are those of the bank in use (R85, R143). -/
def Thread.readG (x : Thread) (n : Nat) : W64 :=
  if n = 0 then 0 else if n ≤ 8 then look 0 (x.bank x.shbank.toNat).g n else look 0 x.g n

/-- A general register written; a write to g0 is discarded (R86). -/
def Thread.writeG (x : Thread) (n : Nat) (v : W64) : Thread :=
  if n = 0 then x
  else if n ≤ 8 then
    let b := x.bank x.shbank.toNat
    x.setBank x.shbank.toNat { b with g := put b.g n v }
  else { x with g := put x.g n v }

/-- A vector register (R85). -/
def Thread.readV (x : Thread) (n : Nat) : V512 := look 0 x.v n

/-- A vector register written. -/
def Thread.writeV (x : Thread) (n : Nat) (w : V512) : Thread := { x with v := put x.v n w }

/-- A predicate register: p0 reads as all ones (R85). -/
def Thread.readP (x : Thread) (n : Nat) : W64 := if n = 0 then BitVec.allOnes 64 else look 0 x.p n

/-- A predicate register written; a write to p0 is discarded (R86). -/
def Thread.writeP (x : Thread) (n : Nat) (w : W64) : Thread := if n = 0 then x else { x with p := put x.p n w }

/-- A plain control register of a thread. -/
def Thread.crv (x : Thread) (n : Nat) : W64 := look 0 x.cr n

/-- A plain control register replaced. -/
def Thread.setCrv (x : Thread) (n : Nat) (v : W64) : Thread := { x with cr := put x.cr n v }

/-! Stack codes (R135): 1 S, 2 H, 3 M, 5 secure-S. -/

/-- The first control register number of a level's trap state (R126). -/
def trapBase (code : Nat) : Nat :=
  if code = 1 then 0x440 else if code = 2 then 0x840 else if code = 5 then 0x640 else 0xC40

/-- The LEVEL of a stack code (R122). -/
def codeLevel (code : Nat) : Nat := if code = 5 then 1 else code

/-- The stack code of a level at which a trap handler runs, in a world (R122). -/
def stackCode (level : Nat) (world : Bool) : Nat := if level = 1 ∧ world then 5 else level

/-- The stack code at which a thread runs; 0 at U and secure-U. -/
def Thread.code (x : Thread) : Nat := if x.level = 0 then 0 else stackCode x.level.toNat x.world

/-- The limit field of a level's trap stack (R132). -/
def Thread.tsLimit (x : Thread) (code : Nat) : Nat :=
  let l := x.crv 0xC4C
  if code = 1 then wbits l 15 0 else if code = 2 then wbits l 31 16 else if code = 3 then wbits l 47 32 else wbits l 63 48

/-- MCIP of cr.m_mcstat (R134). -/
def Thread.mcip (x : Thread) : Bool := wbit (x.crv 0xC4F) 0

/-- MCIP written. -/
def Thread.setMcip (x : Thread) (b : Bool) : Thread := x.setCrv 0xC4F (setWbits (x.crv 0xC4F) 0 0 (b2n b))

/-! The core of a thread (R20, R72). -/

/-- The physical core that carries a thread's logical core, if any (R72). -/
def Hw.pcoreOf (h : Hw) (t : Nat) : Option Nat :=
  let c := lcoreOf t
  let b := nbits (h.reg .DCTL_LCMAP (dieOfThread t) 0 (c / 8)).toNat (8 * (c % 8) + 7) (8 * (c % 8))
  if b.testBit 7 then some (b % 64) else none

/-- The agent that a thread's core is. -/
def Hw.threadAgent (h : Hw) (t : Nat) : Agent := .core (dieOfThread t) ((h.pcoreOf t).getD 0)

/-- The key of the physical core that carries a thread. -/
def Hw.coreKeyOf (h : Hw) (t : Nat) : Nat := coreKey (dieOfThread t) ((h.pcoreOf t).getD 0)

/-- The owner of a compute die, read from its core registers' partition: the die's owner as the fabric holds it (R485). -/
def Hw.partOf (h : Hw) (t : Nat) : Nat := look 0 h.dieOwner (dieOfThread t)

/-- Nanoseconds of a number of core cycles at the current frequency of the thread's cluster (R240, R539). -/
def Hw.cycNs (h : Hw) (t n : Nat) : Nat :=
  let p := (h.pcoreOf t).getD 0
  let c := if p < 16 ∨ p = 32 then 0 else 1
  let f := max 1 (h.fld .CLK_CLUSTER (dieOfThread t) 0 c F.CLK_CLUSTER_FCUR)
  (n * 10 + f - 1) / f

/-- The translation context of a thread's regime (R162), checked as at a level. -/
def ctxOf (x : Thread) (t part : Nat) (level : Nat) (world : Bool) : Ctx :=
  let mk (regime : BitVec 2) (base asid ctl : Nat) (ps psbase vmid : Nat) : Ctx :=
    { regime := regime, s1en := wbit (x.crv ctl) 0, s1base := wbits (x.crv base) 51 12 <<< 12,
      asid := if asid = 0 then 0 else wbits (x.crv asid) 15 0, hwad1 := wbit (x.crv ctl) 2, sum := wbit (x.crv ctl) 1,
      psen := ps != 0 && wbit (x.crv ps) 0, psbase := wbits (x.crv psbase) 51 12 <<< 12,
      vmid := wbits (x.crv vmid) 7 0, hwad2 := wbit (x.crv ps) 2, user := level == 0,
      part := part, world := world, thread := some t, engine := false }
  if level = 3 then mk 2 0xC80 0 0xC82 0 0 0
  else if world then mk 3 0x680 0x681 0x682 0xC86 0xC84 0xC85
  else if level = 2 then mk 1 0x880 0 0x882 0 0 0
  else mk 0 0x480 0x481 0x482 0x886 0x884 0x885

/-- The context in which a thread makes its own accesses now. -/
def Hw.ctx (h : Hw) (t : Nat) : Ctx :=
  let x := h.thread t
  ctxOf x t (h.partOf t) x.level.toNat x.world

/-- The identity a thread carries in its requests (R10, R503). -/
def Hw.who (h : Hw) (t : Nat) : Who :=
  let x := h.thread t
  { part := Fin.ofNat 13 (h.partOf t), world := x.world, level := x.level, thread := Fin.ofNat 768 t, src := .thread }

/-! Write-combining buffers (R228). -/

/-- An asynchronous machine check is held for a thread (R157). -/
def Hw.addMc (h : Hw) (t : Nat) (detail : Nat) (tval : W64) : Hw :=
  h.onThread t (fun x => { x with mcs := x.mcs ++ [⟨detail, tval⟩] })

/-- Single bytes are written into the coherent memory. -/
def Hw.writeCells (h : Hw) (l : List (Nat × Byte)) : Hw := l.foldl (fun h (a, b) => h.writeMem a [b]) h

/-- The data and the byte mask of a buffer. -/
def WcBuf.payload (b : WcBuf) : Nat × Nat :=
  b.bytes.foldl (fun m e => let i := e.1 % 64; (setNbits m.1 (8 * i + 7) (8 * i) e.2.toNat, m.2 ||| 2 ^ i)) (0, 0)

/-- A buffer that holds all 64 bytes of its line. -/
def WcBuf.full (b : WcBuf) : Bool := b.payload.2 == 2 ^ 64 - 1

/-- One write-combining buffer is written to the home, as one write of the bytes it holds, in the world of the stores that it merged (R228); its thread reads them from it until the home has answered (R214). -/
def Hw.wcFlushOne (h : Hw) (key : Nat) (b : WcBuf) : Hw :=
  if b.sent then h else
    (h.onCore key (fun c => { c with wcbs := mapIf (fun w => w == b) (fun w => { w with sent := true }) c.wcbs })).send
      { op := if b.full then .WRF else .WRP, addr := b.line, agent := .core (key / 64) (key % 64), part := h.partOf b.thread, world := b.world,
        info := 2, data := b.payload.1, mask := b.payload.2 }

/-- Every write-combining buffer of a thread is written (R228). -/
def Hw.wcFlush (h : Hw) (t : Nat) : Hw :=
  let key := h.coreKeyOf t
  ((h.core key).wcbs.filter (fun w => w.thread == t)).foldl (fun h b => h.wcFlushOne key b) h

/-- The home has answered the write of a buffer: it is done, or its stores are discarded and its thread takes a machine check (R228). -/
def Hw.wcAnswered (h : Hw) (key line : Nat) (refused : Bool) : Hw :=
  match takeFirst (fun (w : WcBuf) => w.sent && w.line == line) (h.core key).wcbs with
  | some (b, r) =>
    let h1 := h.onCore key (fun c => { c with wcbs := r })
    if refused then h1.addMc b.thread 0x05 (BitVec.ofNat 64 (line <<< 6)) else h1
  | none => h

/-- The thread waits for no write of its write-combining buffers (R221). -/
def Hw.wcDone (h : Hw) (t : Nat) : Bool := !((h.core (h.coreKeyOf t)).wcbs.any (fun w => w.thread == t))

end Sys2Proof.Machine
end

