-- ==== Sys2Proof/Machine/Counters.lean ====
section
/-! DEFINITION. The per-thread counters of a core, the counters of a compute die, and the return of a thread to an earlier point of its execution (spec/02_askist_core.md R56, R79 to R84). -/

namespace Sys2Proof.Machine

/-! Counters of a thread (R79, R80, R83). -/

/-- One counter of a thread counts an event n times, if it is selected and enabled at the level: a wrap sets OVF and raises a local event (R79, R80). -/
def countOne (h : Hw) (t die pcore nn : Nat) (level : Nat) (ev n : Nat) : Hw :=
  let sel := h.reg .CORE_PMSEL die pcore nn
  if F.CORE_PMSEL_EVENT.get sel = ev ∧ ev ≠ 0 ∧ wbit sel (16 + level) then
    let m := h.fld .CORE_PMC die pcore nn F.CORE_PMC_COUNT + n
    let h1 := h.setFld .CORE_PMC die pcore nn F.CORE_PMC_COUNT (m % 2 ^ 48)
    if 2 ^ 48 ≤ m then
      let h2 := h1.setFld .CORE_PMSEL die pcore nn F.CORE_PMSEL_OVF 1
      if F.CORE_PMSEL_OVF_INT.get sel = 1 then h2.onThread t (fun x => { x with locals := x.locals ++ [nn] }) else h2
    else h1
  else h

/-- The eight counters of a thread count an event n times; they are frozen while an activation is open (R80, R83). -/
def Hw.countN (h : Hw) (t ev n : Nat) : Hw :=
  let x := h.thread t
  match x.act, h.pcoreOf t with
  | none, some p =>
    (List.range 8).foldl (fun h i => countOne h t (dieOfThread t) p (8 * (t % 2) + i) x.level.toNat ev n) h
  | _, _ => h

/-- The counters of a thread count one event. -/
def Hw.count (h : Hw) (t : Nat) (ev : Nat) : Hw := h.countN t ev 1

/-- Several events in turn. -/
def Hw.counts (h : Hw) (t : Nat) (evs : List Nat) : Hw := evs.foldl (fun h e => h.count t e) h

/-! Counters of a die (R81, R82, R84). -/

/-- One counter of a die counts an event of a slice or stop, if it is enabled and selects both: a wrap sets OVF, and with OVF_INT raises the die's counter-overflow source (R81, R611). -/
def countDieOne (h : Hw) (die nn stop ev : Nat) : Hw :=
  let sel := h.reg .PERF_SEL die 0 nn
  if F.PERF_SEL_EN.get sel = 1 ∧ F.PERF_SEL_EVENT.get sel = ev ∧ (F.PERF_SEL_SLICE.get sel = 0x1F ∨ F.PERF_SEL_SLICE.get sel = stop) then
    let m := h.fld .PERF_CNT die 0 nn F.PERF_CNT_COUNT + 1
    let h1 := h.setFld .PERF_CNT die 0 nn F.PERF_CNT_COUNT (m % 2 ^ 48)
    if 2 ^ 48 ≤ m then
      let h2 := h1.setFld .PERF_SEL die 0 nn F.PERF_SEL_OVF 1
      if F.PERF_SEL_OVF_INT.get sel = 1 then h2.raise { source := 16 * (die - 1) + 6, part := look 0 h.dieOwner die } else h2
    else h1
  else h

/-- The sixteen counters of a compute die count an event; a request that carries the world bit, and what it causes, is not counted (R82, R84). -/
def Hw.countDie (h : Hw) (die stop ev : Nat) (world : Bool) : Hw :=
  if world then h else (List.range 16).foldl (fun h nn => countDieOne h die nn stop ev) h

/-- A sum kept by number. -/
def addTo (l : List (Nat × Nat)) (k n : Nat) : List (Nat × Nat) := put l k (look 0 l k + n)

/-- One more home transaction (unit 0) or 64 B unit (port die) in an account's weight of the second (R593). -/
def Hw.weigh (h : Hw) (unit p : Nat) : Hw := { h with mtrx := { h.mtrx with weights := addTo h.mtrx.weights (16 * unit + p) 1 } }

/-- A packet's slots on a ring of a compute die are counted at every stop that it passes after the one that it leaves (R82 event 0x0108, log entry 56). -/
def Hw.countRing (h : Hw) (die src dst : Nat) (asc : Bool) (slots : Nat) (world : Bool) : Hw :=
  (ringStops src dst asc).foldl (fun (h : Hw) k => (List.range slots).foldl (fun (h : Hw) _ => h.countDie die k 0x0108 world) h) h

/-- The flits of a packet are counted on its way (R82 events 0x0108 to 0x010A, log entry 56), and 64 B units on a port die's scrim link for the meter (R593). -/
def Hw.countLegs (h : Hw) (m : Msg) : Hw :=
  m.legs.foldl (fun (h : Hw) l => match l with
    | .ring die s d asc => h.countRing die s d asc (if m.len = 4 then 2 else 1) m.world
    | .link die toHub => if die ≤ 12 then h.countDie die 0x10 (if toHub then 0x0109 else 0x010A) m.world
        else if 3 ≤ m.len ∧ m.forEngine = false then h.weigh (die - 0xF) m.part else h
    | _ => h) h

/-- A core's request crosses the ring to a die-cache slice, whose answer crosses back (R25, R82 events 0x0101 and 0x0108). -/
def Hw.sliceLookup (h : Hw) (die pcore line : Nat) (world : Bool) : Hw :=
  let a := coreStop pcore
  let b := dcSlice line
  ((h.countRing die a b (ringAsc a b) 1 world).countRing die b a (ringAsc b a) 1 world).countDie die b 0x0101 world

/-- A message has arrived: its flits are counted, and an answer frees its request's response slot (R433). -/
def Hw.taken (h : Hw) (m : Msg) : Hw :=
  let h1 : Hw := { h with msgs := dropFirst (fun x => x == m) h.msgs }
  (if m.op.answers && !m.forEngine then h1.freeRsp m.ends.2 m.txid else h1).countLegs m

/-- The first waiting message that meets a test has arrived. -/
def Hw.arrivedBy (h : Hw) (p : Msg → Bool) : Hw :=
  match h.msgs.find? p with
  | some m => h.taken m
  | none => h

/-- The first waiting message of an opcode at an address from or for an agent has arrived. -/
def Hw.arrived (h : Hw) (op : MsgOp) (addr : Nat) (a : Agent) : Hw := h.arrivedBy (fun m => decide (m.op = op ∧ m.addr = addr ∧ m.agent = a))

/-! Replays. -/

/-- The thread goes back to an earlier point of its execution (R56, R63): registers, PC, and the events and branches that wait for their retirement as they were; what has arrived for it since stays. -/
def Thread.replayTo (now snap : Thread) : Thread :=
  { snap with run := now.run, mcs := now.mcs, slots := now.slots, locals := now.locals, resv := now.resv,
              hold := now.hold, noHoldUntil := now.noHoldUntil, sq := now.sq, sqe := now.sqe, dev := now.dev, ferrs := now.ferrs }

end Sys2Proof.Machine
end

