-- ==== Sys2Proof/Machine/Domains.lean ====
section
/-! DEFINITION. The power domains, their states, and the record of their wakes (spec/14_power_and_clocks.md R516 to R530). -/

namespace Sys2Proof.Machine

/-! Domains (R516 to R519). -/

/-- The key of a domain. -/
def domKey (die nn : Nat) : Nat := 64 * die + nn

/-- The deepest state that R519 permits for a domain; none for a number that names no domain. -/
def domDeepest (die nn : Nat) : Option Nat :=
  if die = 0 then (if nn ≤ 3 then some 2 else if nn = 4 then some 3 else if nn ≤ 7 then some 0 else if nn ≤ 31 then some 2
    else if nn ≤ 55 then some 3 else none)
  else if die ≤ 12 then (if nn ≤ 36 then some 3 else if nn = 37 then some 0 else none)
  else if nn = 0 then some 1 else if nn ≤ 9 then some 3 else none

/-- The domains that close under R449. -/
def closes (die nn : Nat) : Bool :=
  if die = 0 then decide (nn = 4) || decide (8 ≤ nn) else if die ≤ 12 then decide (nn = 36) else decide (1 ≤ nn)

/-- The cluster domain of a physical core (R519). -/
def clusterOf (pcore : Nat) : Nat := if pcore < 16 ∨ pcore = 32 then 34 else 35

/-- The parents of a domain, the nearest first (R518). -/
def domParents (die nn : Nat) : List Nat :=
  if die = 0 then (if 8 ≤ nn ∧ nn ≤ 19 then [2] else if 20 ≤ nn ∧ nn ≤ 31 then [3] else if 32 ≤ nn ∧ nn ≤ 55 then [4] else [])
  else if die ≤ 12 then (if nn ≤ 33 then [clusterOf nn, 36] else if nn ≤ 35 then [36] else [])
  else if 2 ≤ nn ∧ nn ≤ 9 then [1] else []

/-- The children of a domain whose state bounds its own on the way to a state (R518). -/
def domChildren (die nn st : Nat) : List Nat :=
  if die = 0 then
    (if nn = 2 then (List.range 12).map (· + 8) else if nn = 3 then (List.range 12).map (· + 20)
     else if nn = 4 then (List.range 24).map (· + 32) else [])
  else if die ≤ 12 then
    (if nn = 34 ∨ nn = 35 then (List.range 34).filter (fun p => clusterOf p == nn)
     else if nn = 36 then (if st = 3 then List.range 34 else [34, 35]) else [])
  else if nn = 1 then (List.range 8).map (· + 2) else []

/-- CUR of a domain. -/
def Hw.domCur (h : Hw) (die nn : Nat) : Nat := h.fld .PWR_DOM die 0 nn F.PWR_DOM_CUR

/-- CUR of a domain, set. -/
def Hw.setCur (h : Hw) (die nn st : Nat) : Hw := h.setFld .PWR_DOM die 0 nn F.PWR_DOM_CUR st

/-- A domain has reached a state or a deeper one. -/
def Hw.domAt (h : Hw) (die nn st : Nat) : Bool := decide (st ≤ h.domCur die nn) && decide (h.domCur die nn ≤ 3)

/-- The deepest state that a thread permits its core (R516, R523); a thread that does not run permits any. -/
def RunState.depth : RunState → Nat
  | .running => 0
  | .migrating => 0
  | .waiting d => d.toNat
  | _ => 3

/-! The always-on clock and wake records (R529, R530). -/

/-- TICK of PWR_AOTIME: the 32.768 kHz clock since cold reset (R530). -/
def Hw.aoTick (h : Hw) : Nat := h.ao * 32768 / 1000000000 % 2 ^ 48

/-- A wake is recorded, and the earlier records move down the history (R529); of sources that reach one domain within one tick the lowest is recorded. -/
def Hw.recordWake (h : Hw) (die src nn detail : Nat) : Hw :=
  let v : W64 := setWbits (setWbits (setWbits (BitVec.ofNat 64 h.aoTick) 63 60 src) 59 54 nn) 53 48 detail
  let last := h.reg .PWR_WAKE_LAST die 0 0
  if wbits last 59 54 = nn ∧ wbits last 47 0 = h.aoTick ∧ wbits last 63 60 ≠ 0 then
    (if src < wbits last 63 60 then h.setReg .PWR_WAKE_LAST die 0 0 v else h)
  else
  let hist := (List.range 7).foldl (fun (x : Hw) i => x.setReg .PWR_WAKE_HIST die 0 (7 - i) (h.reg .PWR_WAKE_HIST die 0 (6 - i))) h
  (hist.setReg .PWR_WAKE_HIST die 0 0 (h.reg .PWR_WAKE_LAST die 0 0)).setReg .PWR_WAKE_LAST die 0 0 v

/-! Waking, up to the edges of the domains (R518, R522). -/

/-- The skim engine of a domain (R519). -/
def domEngine (die nn : Nat) : Option Nat :=
  if die = 0 ∧ 32 ≤ nn ∧ nn ≤ 55 then some (nn - 32) else if 0x10 ≤ die ∧ 2 ≤ nn ∧ nn ≤ 9 then some (24 + 8 * (die - 0x10) + (nn - 2)) else none

/-- A domain is held in Dust sheet once the structure image is in force: those of a compute die or a skim engine that no partition owns, and of an excluded die (R486, R493, R508). -/
def Hw.heldIdle (h : Hw) (die nn : Nat) : Bool :=
  h.committed &&
    (if 1 ≤ die ∧ die ≤ 12 then decide (look 0 h.dieOwner die = 0) || h.commit.excluded.contains die
     else (domEngine die nn).any (fun n => decide (look 0 h.engOwner n = 0)))

/-- A wake source reaches a domain that is in a low state, or on its way to one that does not close: it starts to wake; but a spare or failed core, and a domain that is held idle, stay in Dust sheet (R73, R486). -/
def Hw.wakeBase (h : Hw) (die nn : Nat) : Hw × Bool :=
  let c := h.domCur die nn
  let k := domKey die nn
  let role := h.fld .CORE_STATUS die nn 0 F.CORE_STATUS_ROLE
  if (1 ≤ die ∧ die ≤ 12 ∧ nn < 34 ∧ (role = 1 ∨ role = 2)) ∨ (c = 3 ∧ h.heldIdle die nn) then (h, false)
  else if 1 ≤ c ∧ c ≤ 3 then (({ h with domGoal := put h.domGoal k (if c = 3 then 8 else 0) } : Hw).setCur die nn 5, true)
  else if c = 0 ∧ (look? h.domGoal k).isSome then ({ h with domGoal := del h.domGoal k }, true)
  else (h, false)

/-- A snoop of its slice wakes a core that is in Satin or Matt, and its cluster (R516, R524). -/
def Hw.coreWake (h : Hw) (die pcore stop : Nat) : Hw :=
  if 1 ≤ h.domCur die pcore ∧ h.domCur die pcore ≤ 2 then
    let (h1, did) := h.wakeBase die pcore
    if did then ((h1.recordWake die 8 pcore stop).wakeBase die (clusterOf pcore)).1 else h1
  else h

end Sys2Proof.Machine
end

