-- ==== Sys2Proof/Machine/CohDie.lean ====
section
/-! DEFINITION. The caches of a core and of a compute die: evictions, the snoop filter, requests to the home, the shares of the threads of a core, and the answers to snoops (spec/02_askist_core.md R37 to R49; spec/07_coherence.md R247, R265 to R278). -/

namespace Sys2Proof.Machine

/-- A key moved to the front of a list of most recent use. -/
def mruPut {β : Type} (l : List (Nat × β)) (k : Nat) (v : β) : List (Nat × β) := (k, v) :: l.filter (fun e => !(e.1 == k))

/-- The key of a list removed. -/
def mruDel {β : Type} (l : List (Nat × β)) (k : Nat) : List (Nat × β) := l.filter (fun e => !(e.1 == k))

/-- The key that leaves a full set, when more than `ways` keys that meet a test are listed. DESIGN CHOICE: R39 gives L1, L2, the die cache and the snoop filter no replacement policy, and the least recently used key leaves (log entry 11). -/
def mruVictim {β : Type} (l : List (Nat × β)) (p : Nat → β → Bool) (ways : Nat) : Option Nat :=
  let s := l.filter (fun e => p e.1 e.2)
  if ways < s.length then s.getLast?.map (·.1) else none

/-! Dies. -/

/-- The state of a line toward the home (R41). -/
def Hw.dieState (h : Hw) (die line : Nat) : LState := look .I (h.cdie die).dc line

/-- The die owns a line toward the home. -/
def Hw.dieOwns (h : Hw) (die line : Nat) : Bool := h.dieState die line == .M || h.dieState die line == .E

/-- The cores of a die whose L2 may hold a line (R44). -/
def Hw.sfCores (h : Hw) (die line : Nat) : List Nat :=
  (List.range 34).filter (fun p => (look 0 (h.cdie die).sf line).testBit p)

/-- The state of a line in the L2 of a core. -/
def Hw.l2State (h : Hw) (die pcore line : Nat) : LState := look .I (h.core (coreKey die pcore)).l2 line

/-- The die cache is disabled or being cleaned (R48). -/
def Hw.dcOff (h : Hw) (die : Nat) : Bool :=
  (h.cdie die).dcCleaning || h.flag .DCACHE_CTL die 0 0 F.DCACHE_CTL_DC_OFF

/-- A cache of a core is disabled or being cleaned: 0 L1 instruction, 1 L1 data, 2 L2, which takes both L1s with it (R48). -/
def Hw.coreCacheOff (h : Hw) (die pcore which : Nat) : Bool :=
  let v := h.reg .CORE_CACHE_CTL die pcore 0
  let c := h.core (coreKey die pcore)
  wbit v (8 + which) || c.cleaning.getLsbD which || wbit v 10 || c.cleaning.getLsbD 2

/-- The threads that a physical core carries. -/
def Hw.threadsOn (h : Hw) (die pcore : Nat) : List Nat :=
  ((List.range 64).map (fun i => 64 * (die - 1) + i)).filter (fun t => h.pcoreOf t == some pcore)

/-- The reservations of a core's threads on a line are lost: L1 data lost write ownership of it (R237). -/
def Hw.coreLosesLine (h : Hw) (die pcore line : Nat) : Hw :=
  (h.threadsOn die pcore).foldl (fun h t =>
    match (h.thread t).resv with
    | some r => if r.line = line then h.onThread t (fun x => { x with resv := none }) else h
    | none => h) h

/-! Write-backs toward the home (R45, R247). -/

/-- A line is in the write-back buffer of its slice, or waits for an entry of it (R46). -/
def Hw.wbHeld (h : Hw) (die line : Nat) : Bool := has (h.cdie die).wbb line || (h.cdie die).wbWait.any (fun m => m.addr == line)

/-- The slice's write-back buffer holds 32 entries (R45). -/
def Hw.wbFull (h : Hw) (die line : Nat) : Bool :=
  decide (32 ≤ ((h.cdie die).wbb.filter (fun l => dcSlice l == dcSlice line)).length)

/-- A message to the home about a line that the die gives up (R454), marked POISON if the copy is, which takes an entry of the slice's write-back buffer or waits for one (R45). -/
def Hw.sendGiveUp (h : Hw) (op : MsgOp) (die line : Nat) : Hw :=
  let m : Msg := { op := op, addr := line, agent := .core die 0, part := h.gibOwner (line >>> 24), world := h.secureLine line,
                   info := b2n (has (h.cdie die).pzn line) }
  let h0 := if op == .WB then h.countDie die (dcSlice line) 0x0103 m.world else h
  if h0.wbFull die line then h0.onCDie die (fun c => { c with wbWait := c.wbWait ++ [m] })
  else (h0.onCDie die (fun c => { c with wbb := ins c.wbb line })).send m

/-- The die gives a line up: WB for M, EVC for E, EVF for F, nothing for S (R247); not a line whose data a check-stopped core holds (R78). -/
def Hw.dieGiveUp (h : Hw) (die line : Nat) : Hw :=
  let st := h.dieState die line
  if has (h.cdie die).lost line then h else
  let h1 := match st with
    | .M => h.sendGiveUp .WB die line
    | .E => h.sendGiveUp .EVC die line
    | .F => h.sendGiveUp .EVF die line
    | .S => h
    | .I => h
  h1.onCDie die (fun c => { c with dc := mruDel c.dc line, stale := rem c.stale line, pzn := rem c.pzn line })

/-- A set of the die cache holds 16 lines besides those that L2s of the die hold, which the model lists with them; the least recently used one makes room (R39, log entry 11). -/
def Hw.dcTrim (h : Hw) (die line : Nat) : Hw :=
  match mruVictim (h.cdie die).dc (fun k _ => dcSlice k == dcSlice line && k % 4096 == line % 4096 && (h.sfCores die k).isEmpty && !has (h.cdie die).lost k) 16 with
  | some v => h.dieGiveUp die v
  | none => h

/-! The caches of a core. -/

/-- The settled entries of a core's fill buffers that hold a line are marked invalid: the slice has invalidated or recalled it (R58). -/
def Hw.fillsBad (h : Hw) (die pcore line : Nat) : Hw :=
  h.onCore (coreKey die pcore) (fun c =>
    { c with fills := mapIf (fun f => f.line == line && f.settled && !f.inFlight && f.hit == 0) (fun f => { f with bad := true }) c.fills })

/-- A line in settled entries is invalidated at every core of a die before their loads retire (R58). -/
def Hw.fillsInvalid (h : Hw) (die line : Nat) : Hw := (List.range 34).foldl (fun (h : Hw) p => h.fillsBad die p line) h

/-- A line leaves the L2 of a core, and both L1s with it; a dirty line is written back to the slice (R39, R44). -/
def Hw.l2Drop (h : Hw) (die pcore line : Nat) : Hw :=
  let dirty := h.l2State die pcore line == .M
  let h1 := h.onCore (coreKey die pcore) (fun c =>
    { c with l1i := mruDel c.l1i line, l1d := mruDel c.l1d line, l2 := mruDel c.l2 line, pfLines := rem c.pfLines line })
  let h2 := h1.onCDie die (fun c =>
    let m := look 0 c.sf line
    let m' := if m.testBit pcore then m - 2 ^ pcore else m
    { c with sf := if m' = 0 then mruDel c.sf line else mapIf (fun e => e.1 == line) (fun e => (e.1, m')) c.sf,
             dc := if dirty && !(look .I c.dc line == .I) then mruPut c.dc line .M else c.dc })
  let h3 := h2.coreLosesLine die pcore line
  if (h3.sfCores die line).isEmpty then (if h3.dcOff die then h3.dieGiveUp die line else h3.dcTrim die line) else h3

/-- A line leaves every L2 and fill buffer of the die but those of one core (R44, R58). -/
def Hw.l2DropOthers (h : Hw) (die line : Nat) (keep : Option Nat) : Hw :=
  (h.sfCores die line).foldl (fun h p => if keep = some p then h else ((h.coreWake die p (dcSlice line)).fillsBad die p line).l2Drop die p line) h

/-- The L2s of other cores that hold a line M or E, from which the slice recalls it (R42). -/
def Hw.l2Owners (h : Hw) (die line : Nat) (keep : Option Nat) : List Nat :=
  (h.sfCores die line).filter (fun p => !(keep == some p) && (h.l2State die p line == .M || h.l2State die p line == .E))

/-- The slice counts its recalls from L2s (R82 event 0x0105). -/
def Hw.countRecalls (h : Hw) (die line : Nat) (keep : Option Nat) (world : Bool) : Hw :=
  (h.l2Owners die line keep).foldl (fun h _ => h.countDie die (dcSlice line) 0x0105 world) h

/-- A line held M or E in L2s of the die becomes S there; a dirty one is written back to the slice (R42). -/
def Hw.l2Share (h : Hw) (die line : Nat) : Hw :=
  (h.sfCores die line).foldl (fun h p =>
    let st := h.l2State die p line
    if st == .M || st == .E then
      let h1 := (h.coreWake die p (dcSlice line)).onCore (coreKey die p) (fun c =>
        { c with l2 := mapIf (fun e => e.1 == line) (fun e => (e.1, .S)) c.l2,
                 l1d := mapIf (fun e => e.1 == line) (fun e => (e.1, e.2.1, .S)) c.l1d })
      let h2 := if st == .M then h1.onCDie die (fun c => { c with dc := mruPut c.dc line .M }) else h1
      h2.coreLosesLine die p line
    else h) h

/-- The die takes a state for a line (R41). -/
def Hw.dieSet (h : Hw) (die line : Nat) (st : LState) : Hw :=
  (h.onCDie die (fun c => { c with dc := if st == .I then mruDel c.dc line else mruPut c.dc line st })).dcTrim die line

/-- A core is recorded in the snoop filter for a line (R51); the set's least recently used entry makes room, and its line leaves every L2 that it records (R39, R44). -/
def Hw.sfRecord (h : Hw) (die pcore line : Nat) (world : Bool) : Hw :=
  let h1 := h.onCDie die (fun c => { c with sf := mruPut c.sf line (look 0 c.sf line ||| 2 ^ pcore) })
  match mruVictim (h1.cdie die).sf (fun k _ => dcSlice k == dcSlice line && k % 4096 % 2560 == line % 4096 % 2560) 16 with
  | some v => (h1.countDie die (dcSlice line) 0x0104 world).l2DropOthers die v none
  | none => h1

/-- A line enters the L2 of a core in a state; the set's least recently used line makes room (R39). -/
def Hw.l2Install (h : Hw) (die pcore line : Nat) (st : LState) (world : Bool) : Hw :=
  if h.coreCacheOff die pcore 2 then h else
    let key := coreKey die pcore
    let h1 := (h.onCore key (fun c => { c with l2 := mruPut c.l2 line st })).sfRecord die pcore line world
    match mruVictim (h1.core key).l2 (fun k _ => k % 1024 == line % 1024) 16 with
    | some v => h1.l2Drop die pcore v
    | none => h1

/-- A line enters L1 data: its set is that of the virtual address, and the other set's copy goes (R39). -/
def Hw.l1dInstall (h : Hw) (die pcore line vset : Nat) (st : LState) : Hw :=
  if h.coreCacheOff die pcore 1 then h else
    let key := coreKey die pcore
    let h1 := h.onCore key (fun c => { c with l1d := mruPut c.l1d line (vset, st) })
    match mruVictim (h1.core key).l1d (fun _ e => e.1 == vset) 8 with
    | some v => (h1.onCore key (fun c => { c with l1d := mruDel c.l1d v })).coreLosesLine die pcore v
    | none => h1

/-- A line enters L1 instruction. -/
def Hw.l1iInstall (h : Hw) (die pcore line vset : Nat) : Hw :=
  if h.coreCacheOff die pcore 0 then h else
    let key := coreKey die pcore
    let h1 := h.onCore key (fun c => { c with l1i := mruPut c.l1i line vset })
    match mruVictim (h1.core key).l1i (fun _ e => e == vset) 8 with
    | some v => h1.onCore key (fun c => { c with l1i := mruDel c.l1i v })
    | none => h1

/-- The line is in the L2 of the thread's core, and the L2 serves accesses (R48). -/
def Hw.inL2 (h : Hw) (t line : Nat) : Bool :=
  (look? (h.core (h.coreKeyOf t)).l2 line).isSome && !h.coreCacheOff (dieOfThread t) ((h.pcoreOf t).getD 0) 2

/-- The line is in an L1 of the thread's core, which serves accesses (R48). -/
def Hw.inL1 (h : Hw) (t line : Nat) (fetch : Bool) : Bool :=
  let c := h.core (h.coreKeyOf t)
  (if fetch then (look? c.l1i line).isSome else (look? c.l1d line).isSome) &&
    !h.coreCacheOff (dieOfThread t) ((h.pcoreOf t).getD 0) (if fetch then 0 else 1)

/-- The line is in L1 or L2 of the thread's core. -/
def Hw.coreHas (h : Hw) (t line : Nat) (fetch : Bool) : Bool := h.inL1 t line fetch || h.inL2 t line

/-! Requests of a die to the home (R45 to R47). -/

/-- A miss of the slice waits (R45, R46): for the acknowledgement of a write-back of the line, or for one of its 48 miss entries. -/
def Hw.missWaits (h : Hw) (die line : Nat) : Bool :=
  h.wbHeld die line || decide (48 ≤ ((h.cdie die).miss.filter (fun l => dcSlice l == dcSlice line)).length)

/-- A request waits in its miss register; one to a line that another already waits for merges into it (R45, R46). -/
def Hw.park (h : Hw) (die : Nat) (m : Msg) : Hw :=
  if (h.cdie die).parked.any (fun x => x.addr == m.addr && (x.op == m.op || !(x.op == .RDP))) then h
  else h.onCDie die (fun c => { c with parked := c.parked ++ [m] })

/-- A miss of the die: it merges into an outstanding one, waits, or is sent (R45, R46). -/
def Hw.dieRequest (h : Hw) (op : MsgOp) (die pcore line part : Nat) (world : Bool) : Hw :=
  let m : Msg := { op := op, addr := line, agent := .core die pcore, part := part, world := world }
  if has (h.cdie die).miss line then h
  else if h.missWaits die line then h.park die m
  else ((h.countDie die (dcSlice line) 0x0102 world).onCDie die (fun c => { c with miss := ins c.miss line })).send m

/-- A provisional read that misses in the slice is forwarded to the home and allocates nothing (R52). -/
def Hw.dieForward (h : Hw) (die pcore line part : Nat) (world : Bool) : Hw :=
  let m : Msg := { op := .RDP, addr := line, agent := .core die pcore, part := part, world := world }
  if h.missWaits die line then h.park die m
  else (h.countDie die (dcSlice line) 0x0106 world).send m

/-- Requests that waited ask again, in order. -/
def Hw.unpark (h : Hw) (die : Nat) : Hw :=
  (h.cdie die).parked.foldl (fun (h : Hw) m => match m.agent with
    | .core d p => if m.op == .RDP then h.dieForward d p m.addr m.part m.world else h.dieRequest m.op d p m.addr m.part m.world
    | _ => h) (h.onCDie die (fun c => { c with parked := [] }))

/-! Stores (R60, R214). -/

/-- The bytes of a thread's store queue that lie in a line, oldest first. -/
def Thread.sqLine (x : Thread) (line : Nat) : List (Nat × Byte) := x.sq.filter (fun e => lineOf e.1 == line)

/-- Bytes are written into the coherent memory by a thread whose die owns their line (R42, R60); a copy that the home has given up reaches no memory (R281). -/
def Hw.storeOwned (h : Hw) (t line vset : Nat) (bs : List (Nat × Byte)) : Hw :=
  let die := dieOfThread t
  let p := (h.pcoreOf t).getD 0
  let w := (h.thread t).world
  if has (h.cdie die).stale line then h else
    let h1 := ((h.countRecalls die line (some p) w).l2DropOthers die line (some p)).writeCells bs
    let h2 := (h1.dieSet die line .M).l2Install die p line .M w
    let h3 := h2.l1dInstall die p line vset .M
    if (h3.sfCores die line).isEmpty && h3.dcOff die then h3.dieGiveUp die line else h3

/-- The stores of a thread that wait for a line are performed (R214). -/
def Hw.drainThread (h : Hw) (t line : Nat) : Hw :=
  let x := h.thread t
  let bs := x.sqLine line
  if bs.isEmpty || (h.pcoreOf t).isNone then h
  else
    (h.setThread t { x with sq := x.sq.filter (fun e => !(lineOf e.1 == line)), sqe := x.sqe.filter (fun e => !(e.1 == line)) }).storeOwned
      t line (look (line % 128) x.sqe line) bs

/-- Every thread of a die performs its stores that wait for a line. -/
def Hw.drainDie (h : Hw) (die line : Nat) : Hw :=
  (List.range 64).foldl (fun h i => h.drainThread (64 * (die - 1) + i) line) h

/-! The shares of the two threads of a core (R37). -/

/-- The other thread of a core. -/
def sibling (t : Nat) : Nat := if t % 2 = 0 then t + 1 else t - 1

/-- A resource is divided between the threads of a core: the other thread is active, or its entries have not drained (R37). -/
def Hw.divided (h : Hw) (t n : Nat) : Bool := decide ((h.thread (sibling t)).run = .running) || decide (n ≠ 0)

/-- A thread's entries in a fill buffer. -/
def Hw.fillCount (h : Hw) (t : Nat) (fetch : Bool) : Nat :=
  ((h.core (h.coreKeyOf t)).fills.filter (fun f => f.thread == t && f.fetch == fetch && !f.walk && f.hit == 0)).length

/-- A fill buffer has room for a thread (R37): 8 entries of 32 are reserved for each thread and 16 shared; 4 and 8 of the 16 of the fetch fill buffer. -/
def Hw.fillRoom (h : Hw) (t : Nat) (fetch : Bool) : Bool :=
  let k := if fetch then 4 else 8
  let own := h.fillCount t fetch
  let sib := h.fillCount (sibling t) fetch
  if h.divided t sib then decide (own < k ∨ (own - k) + (sib - k) < 2 * k) else decide (own + sib < 4 * k)

/-- Entries of a thread's load queue: its loads that have not retired. -/
def Hw.loadCount (h : Hw) (t : Nat) : Nat :=
  (((h.core (h.coreKeyOf t)).fills.filter (fun f => f.thread == t && !f.fetch && !f.walk)).map (fun f => f.uses.length)).sum

/-- The thread's half of a statically split resource, or all of it (R37). -/
def Hw.share (h : Hw) (t own sib half : Nat) : Bool := decide (own < if h.divided t sib then half else 2 * half)

/-- The load queue has room for a thread (R37). -/
def Hw.loadRoom (h : Hw) (t : Nat) : Bool := h.share t (h.loadCount t) (h.loadCount (sibling t)) 96

/-- Instructions of a thread in the reorder window behind its oldest unretired load (R37). -/
def Thread.inWindow (x : Thread) : Nat := (x.evq.filter (fun e => e == 0x0002)).length

/-- The reorder window has room for a thread (R37). -/
def Hw.windowRoom (h : Hw) (t : Nat) : Bool := h.share t (h.thread t).inWindow (h.thread (sibling t)).inWindow 256

/-- The store queue has room for n more stores of a thread (R37); an instruction whose stores exceed the share goes into an empty queue. -/
def Hw.storeRoom (h : Hw) (t n : Nat) : Bool :=
  let own := (h.thread t).sqe.length
  decide (own = 0) || h.share t (own + n - 1) (h.thread (sibling t)).sqe.length 64

/-- A core has a miss register for one more miss (R45): 24 of L1 data, 48 of L2. -/
def Hw.missRoom (h : Hw) (t : Nat) (fetch : Bool) : Bool :=
  let c := h.core (h.coreKeyOf t)
  let out := c.fills.filter (fun f => f.inFlight)
  (fetch || decide ((out.filter (fun f => !f.fetch && !f.walk)).length < 24)) && decide (out.length + c.pfOut.length < 48)

/-- A core holds two credits at each die-cache slice: a request of it that the slice has not answered holds one (R47, R439). -/
def Hw.sliceToken (h : Hw) (t line : Nat) : Bool :=
  let c := h.core (h.coreKeyOf t)
  let n := ((c.fills.filter (fun f => f.inFlight)).map (·.line) ++ c.pfOut).eraseDups.filter (fun l => !(l == line) && dcSlice l == dcSlice line)
  decide (n.length < 2)

/-! Snoops at a compute die (R265, R266). -/

/-- The transaction slot of the home that an answer to a snoop returns (R433). -/
def Hw.txnSlot (h : Hw) (line : Nat) : Nat := ((h.txns.find? (fun t => t.key == dirKey line)).map (·.slot)).getD 0

/-- An answer to a snoop, whose slot is freed (R433, R439); `pz` are the lines of an RCD that are marked POISON, as a mask. -/
def Hw.answer (h : Hw) (op : MsgOp) (a : Agent) (line info : Nat) (pz : Nat := 0) : Hw :=
  (h.freeTok 2 a line).send { op := op, addr := line, agent := a, part := h.agentPart a, world := h.secureLine line, info := info, mask := pz, txid := h.txnSlot line }

/-- The flags of an ACK: bit 0 ABSENT, bit 1 WBPEND, bit 2 PRESENT. -/
def ackAbsent : Nat := 1

/-- The lines that a snoop covers: one line, or every line of a far-tier region (R266, R271). -/
def snoopLines (line : Nat) : List Nat :=
  if line <<< 6 < 0x0100000000000 then [line] else (List.range 16).map (fun i => line / 16 * 16 + i)

/-- A thread of the die holds the line of its LRES (R240). -/
def Hw.holdActive (h : Hw) (die line : Nat) : Bool :=
  (List.range 64).any (fun i => (h.thread (64 * (die - 1) + i)).hold == some line)

/-- One line of a die answers a snoop: the state after, and whether the line was dirty (R266). -/
def Hw.snoopLine (h : Hw) (op : MsgOp) (die line : Nat) : Hw :=
  let st := h.dieState die line
  let inval (h : Hw) : Hw :=
    let h1 := h.l2DropOthers die line none
    (h1.fillsInvalid die line).onCDie die (fun c => { c with dc := mruDel c.dc line, stale := rem c.stale line, pzn := rem c.pzn line })
  match op, st with
  | _, .I => h
  | .RCS, _ => ((h.fillsInvalid die line).l2Share die line).onCDie die (fun c => { c with dc := mruPut c.dc line .F })
  | .RCC, _ => ((h.fillsInvalid die line).l2Share die line).onCDie die (fun c => { c with dc := mruPut c.dc line .E })
  | .FAP, _ => h.onCDie die (fun c => { c with dc := mruPut c.dc line .F })
  | .PRB, _ => h
  | _, _ => inval h

/-- A combination that cannot arise: a recall of a line held S or F, or an INV, or FAP of a line held M or E (R266). -/
def snoopOdd (op : MsgOp) (st : LState) : Bool :=
  match op, st with
  | .RCS, .F => true
  | .RCS, .S => true
  | .RCI, .F => true
  | .RCI, .S => true
  | .RCC, .F => true
  | .RCC, .S => true
  | .INV, .M => true
  | .INV, .E => true
  | .FAP, .M => true
  | .FAP, .E => true
  | _, _ => false

/-- The mask of the dirty lines among those that a snoop covers; a line dirty in an L2 counts. -/
def Hw.dirtyMask (h : Hw) (die line : Nat) : Nat :=
  (snoopLines line).foldl (fun m l =>
    if h.dieState die l == .M || (h.sfCores die l).any (fun p => h.l2State die p l == .M) then m ||| 2 ^ (l % 16) else m) 0

/-- A compute die answers a snoop that is not held (R266). -/
def Hw.dieAnswer (h : Hw) (op : MsgOp) (die line : Nat) : Hw :=
  let a : Agent := .core die 0
  let ls := snoopLines line
  let held := ls.filter (fun l => !(h.dieState die l == .I))
  let pend := ls.any (fun l => h.wbHeld die l)
  if held.isEmpty then
    let flags := if pend && !(op == .PRB || op == .FAP) then 3 else 1
    h.answer .ACK a line flags
  else if held.all (fun l => snoopOdd op (h.dieState die l)) then
    (h.answer .ACK a line ackAbsent).ras die 1 { code := 0x2A, sev := 2, addr := line <<< 6, part := look 0 h.dieOwner die }
  else
    let dirty := h.dirtyMask die line
    let pz := ls.foldl (fun m l => if has (h.cdie die).pzn l then m ||| 2 ^ (l % 16) else m) 0
    let h1 := held.foldl (fun h l => h.snoopLine op die l) h
    match op with
    | .PRB => h1.answer .ACK a line 4
    | .FAP => h1.answer .ACKF a line 0
    | .INV => h1.answer .ACK a line 0
    | _ => if dirty = 0 then h1.answer .ACK a line 0 else h1.answer .RCD a line dirty pz

/-- The die fabric of a compute die is in Dust sheet, or wakes from it: the hub's scrim port answers for the die (R278, R519). -/
def Hw.dieDust (h : Hw) (die : Nat) : Bool :=
  let c := h.fld .PWR_DOM die 0 36 F.PWR_DOM_CUR
  decide (c = 3) || (decide (c = 5) && decide (look? h.domGoal (64 * die + 36) = some 8))

/-- The die fabric of a compute die is Closing, in Matt, or wakes from it: snoops wait at its edge (R449). -/
def Hw.dieSleeps (h : Hw) (die : Nat) : Bool :=
  let c := h.fld .PWR_DOM die 0 36 F.PWR_DOM_CUR
  (decide (c = 2) || decide (c = 4) || decide (c = 5)) && !h.dieDust die

/-- A snoop waits at a die (R78, R240, R265, R449): for the hold of an LRES, for the grant of an outstanding miss or the answer that follows a settle notice, for the end of Closing or of a wake, or without end for a line that only a check-stopped core held dirty. A line that the die still holds while its UPG is open is no miss: INV, PRB and FAP of it are answered (R270, R275). -/
def Hw.snoopWaits (h : Hw) (op : MsgOp) (die line : Nat) : Bool :=
  ((snoopLines line).any (fun l => h.holdActive die l) && !(op == .PRB)) ||
  (snoopLines line).any (fun l => has (h.cdie die).lost l) ||
  (snoopLines line).any (fun l => (List.range 34).any (fun p => (h.core (coreKey die p)).fills.any (fun f => f.line == l && f.inFlight && f.noticed))) ||
  (snoopLines line).any (fun l => has (h.cdie die).miss l && !((op == .INV || op == .PRB || op == .FAP) && !(h.dieState die l == .I))) ||
  h.dieSleeps die

/-- The held snoops of a die that wait for nothing more are answered, in the order in which they came. -/
def Hw.serveHeld (h : Hw) (die : Nat) : Hw :=
  let ready (m : Msg) : Bool := !h.snoopWaits m.op die m.addr
  let l := (h.cdie die).heldSnoops.filter ready
  l.foldl (fun (x : Hw) m => x.dieAnswer m.op die m.addr)
    (h.onCDie die (fun c => { c with heldSnoops := c.heldSnoops.filter (fun m => !ready m) }))

/-- A hold ends without an SCOND: the delayed snoops are answered, and the thread gets no new hold for 512 core cycles (R240). -/
def Hw.endHold (h : Hw) (t : Nat) : Hw :=
  match (h.thread t).hold with
  | some _ => (h.onThread t (fun x => { x with hold := none, noHoldUntil := h.now + h.cycNs t 512 })).serveHeld (dieOfThread t)
  | none => h

end Sys2Proof.Machine
end

