-- ==== Sys2Proof/Machine/Fills.lean ====
section
/-! DEFINITION. The fill buffers of a core: provisional and settled reads, retirement, prefetching and training, value replays, and the grants that fill them (spec/02_askist_core.md R50 to R70). -/

namespace Sys2Proof.Machine

/-! Fills (R51 to R58). A load reads memory when its command runs; its entry keeps the bytes that it consumed and the thread as it was before it, until the entry is validated and the load retires. -/

/-- Two entries of a core for the same thread, line and buffer. -/
def FillEnt.same (e f : FillEnt) : Bool := f.thread == e.thread && f.line == e.line && f.fetch == e.fetch && f.walk == e.walk

/-- An entry from which an unretired load or fetch has read that a replay can still flush. -/
def FillEnt.isOpen (f : FillEnt) : Bool := f.uses.any (fun u => u.snap.isSome)

/-- The open entries of a thread, oldest first. -/
def Hw.openFills (h : Hw) (t : Nat) : List FillEnt :=
  (h.core (h.coreKeyOf t)).fills.filter (fun f => f.thread == t && f.isOpen)

/-- Every older load of the thread is validated: what follows is settled (R50). -/
def Hw.olderValid (h : Hw) (t : Nat) : Bool := (h.openFills t).all (fun f => f.valid && !f.bad)

/-- The place of a use in the thread's order: a table read stands before the access of its own instruction. -/
def useRank (m : FillEnt × FillUse) : Nat := 2 * m.2.seq + b2n (!m.1.walk)

/-- The oldest unretired load of a thread, with its entry. -/
def Hw.oldestUse (h : Hw) (t : Nat) : Option (FillEnt × FillUse) :=
  ((h.openFills t).flatMap (fun f => (f.uses.filter (fun u => u.snap.isSome)).map (fun u => (f, u)))).foldl
    (fun (b : Option (FillEnt × FillUse)) e => match b with
      | some m => if useRank e < useRank m then some e else some m
      | none => some e) none

/-- A thread's field in CORE_SPEC_CTL, or the secure world, puts it in settle-only mode (R65). -/
def Hw.settleOnly (h : Hw) (t : Nat) : Bool :=
  match h.pcoreOf t with
  | some p =>
    let v := h.reg .CORE_SPEC_CTL (dieOfThread t) p 0
    wbit v (t % 2) || ((h.thread t).world && wbit v 8)
  | none => false

/-- The die-cache slice holds the line and the die cache serves accesses (R48, R52). -/
def Hw.sliceHas (h : Hw) (die line : Nat) : Bool := !(h.dieState die line == .I) && !h.dcOff die

/-- A settled read at the slice (R42, R51): a line that the die cache serves is shared by the L2s that own it and the core recorded; otherwise, copies in other L2s having gone home when the die cache is off, the request goes to the home. The Boolean says that the data is here. -/
def Hw.sliceRead (h : Hw) (t line : Nat) : Hw × Bool :=
  let die := dieOfThread t
  let p := (h.pcoreOf t).getD 0
  let w := (h.thread t).world
  let h1 := h.sliceLookup die p line w
  if h1.sliceHas die line then ((((h1.countRecalls die line none w).l2Share die line).sfRecord die p line w), true)
  else (((h1.countRecalls die line none w).l2DropOthers die line none).dieRequest .RDS die p line (h.partOf t) w, false)

/-- A provisional read at the slice finds the line M or E in another L2 of the die, and is deferred (R52). -/
def Hw.sliceDefers (h : Hw) (t line : Nat) : Bool :=
  !(h.dieState (dieOfThread t) line == .I) && !(h.l2Owners (dieOfThread t) line (h.pcoreOf t)).isEmpty

/-- A miss of a core enters a fill buffer (R51, R54, R61): a settled read is served by the slice or sent to the home; a provisional one changes no cache. -/
def Hw.addFill (h : Hw) (e : FillEnt) : Hw :=
  let t := e.thread
  let die := dieOfThread t
  let p := (h.pcoreOf t).getD 0
  let put (h : Hw) (here : Bool) : Hw := h.onCore (h.coreKeyOf t) (fun c => { c with fills := c.fills ++ [{ e with inFlight := !here, grant := h.dieState die e.line }] })
  if e.settled then
    let r := h.sliceRead t e.line
    put r.1 r.2
  else
    let h1 := h.sliceLookup die p e.line (h.thread t).world
    if h1.sliceHas die e.line then put h1 true
    else
      let merged := (h1.core (h1.coreKeyOf t)).fills.any (fun f => f.line == e.line && f.inFlight)
      put (if merged then h1 else h1.dieForward die p e.line (h1.partOf t) (h1.thread t).world) false

/-! Retirement of loads and fetches (R57, R59, R61, R67 to R70). -/

/-- The least recently used entries beyond a structure's sets and ways leave (R190). -/
def capWays {β : Type} (set : β → Nat) (ways : Nat) (new old : List β) [BEq β] : List β :=
  (new ++ old.filter (fun e => !new.contains e)).foldl (fun (l : List β) e =>
    if (l.filter (fun x => set x == set e)).length < ways then l ++ [e] else l) []

/-- The walks that stand before an instruction's number have retired (R61, R192): they enter the TLBs and the walk caches, fetches the instruction TLB and others the data TLB, in sets of the ways of R190 (log entry 39). -/
def Hw.installWalks (h : Hw) (t : Nat) (before : Option Nat) : Hw :=
  let x := h.thread t
  let due (n : Nat) : Bool := match before with
    | some k => decide (n < k)
    | none => true
  let w := x.walkBuf.filter (fun e => due e.1)
  let p := x.walkPtrs.filter (fun e => due e.1)
  if w.isEmpty && p.isEmpty then h else
    let set (n : Nat) (e : TlbEnt) : Nat := (e.va >>> e.size) % n
    let ents := w.map (·.2.2)
    let h1 := h.onCore (h.coreKeyOf t) (fun c =>
      { c with itlb := capWays (set 8) 8 ((w.filter (fun e => e.2.1)).map (·.2.2)) c.itlb,
               dtlb := capWays (set 12) 8 ((w.filter (fun e => !e.2.1)).map (·.2.2)) c.dtlb,
               l2tlb := capWays (set 512) 8 (ents.filter (fun e => decide (e.size ≤ 16))) c.l2tlb,
               l2large := capWays (set 128) 4 (ents.filter (fun e => decide (16 < e.size))) c.l2large,
               walk1 := capWays (fun e => e.pa / 8 % 16) 4 ((p.map (·.2)).filter (fun e => !e.stage2)) c.walk1,
               walk2 := capWays (fun e => e.pa / 8 % 8) 4 ((p.map (·.2)).filter (fun e => e.stage2)) c.walk2 })
    h1.onThread t (fun x => { x with walkBuf := x.walkBuf.filter (fun e => !due e.1), walkPtrs := x.walkPtrs.filter (fun e => !due e.1) })

/-- A prefetch may touch a line (R68): one of the same 4 KiB page, or with PF_PAGE_CROSS one of an N-WB page that the core's L1 TLB maps. -/
def Hw.mayPrefetch (h : Hw) (t line l : Nat) (fetch : Bool) : Bool :=
  let c := h.core (h.coreKeyOf t)
  decide (l / 64 = line / 64) ||
  (h.flag .CORE_PF_CTL (dieOfThread t) ((h.pcoreOf t).getD 0) 0 F.CORE_PF_CTL_PF_PAGE_CROSS &&
    (if fetch then c.itlb else c.dtlb).any (fun e => e.mt == 0 && (l <<< 6) >>> e.size == e.pa >>> e.size))

/-- The state in which an L2 takes a line from the die: E while no other L2 holds it and the die owns it, else S (R41). -/
def Hw.l2Grant (h : Hw) (die pcore line : Nat) : LState :=
  let owns := h.dieState die line == .M || h.dieState die line == .E
  if owns && (h.sfCores die line).all (fun p => p == pcore) then .E else .S

/-- A prefetched line enters the L2 of a core (R67). -/
def Hw.prefetched (h : Hw) (die pcore line : Nat) (world : Bool) : Hw :=
  let h1 := h.onCore (coreKey die pcore) (fun c => { c with pfOut := rem c.pfOut line, pfLines := if h.coreCacheOff die pcore 2 then c.pfLines else ins c.pfLines line })
  h1.l2Install die pcore line (h1.l2Grant die pcore line) world

/-- A die holds a free credit of the home of a line (R439). -/
def Hw.homeCredit (h : Hw) (die line : Nat) : Bool :=
  (h.freeSlot (homeOfLine line) 0 (dedicated (homeOfLine line) (128 * die + dcSlice line) 0)).isSome

/-- A prefetch into L2 (R67): a settled read at priority P1, dropped when it has no miss register or no token (R37, R45, R440). -/
def Hw.prefetch (h : Hw) (t line l : Nat) (fetch : Bool) : Hw :=
  let die := dieOfThread t
  let p := (h.pcoreOf t).getD 0
  let c := h.core (h.coreKeyOf t)
  if !h.mayPrefetch t line l fetch || (look? c.l2 l).isSome || has c.pfOut l || c.fills.any (fun f => f.line == l && f.hit == 0)
    || h.coreCacheOff die p 2 || !h.missRoom t fetch || !h.sliceToken t l || !(h.sliceHas die l || h.homeCredit die l) then h
  else
    let h1 := h.count t 0x0040
    let r := h1.sliceRead t l
    if r.2 then r.1.prefetched die p l (h.thread t).world
    else r.1.onCore (h.coreKeyOf t) (fun c => { c with pfOut := ins c.pfOut l })

/-- The stride table trained by a retired load: the table after, and the line that a detected stride calls for (R67). DESIGN CHOICE: a stride is detected when two deltas in lines in a row are equal and not zero, and of more than 64 entries the oldest leaves (log entry 12). -/
def strideTrain (l : List StrideEnt) (pc : W64) (line : Nat) : List StrideEnt × Option Nat :=
  match l.find? (fun e => e.pc == pc) with
  | some e =>
    let d : Int := (line : Int) - (e.last : Int)
    let next := if d = e.stride ∧ d ≠ 0 ∧ 0 ≤ (line : Int) + d then some ((line : Int) + d).toNat else none
    (⟨pc, line, d⟩ :: l.filter (fun e => !(e.pc == pc)), next)
  | none => ((⟨pc, line, 0⟩ :: l).take 64, none)

/-- The streams trained by a retired L2 miss: those after, and whether the line goes on with one (R67). DESIGN CHOICE: a stream goes on with the line above its last one, and of more than 32 the oldest leaves (log entry 12). -/
def streamTrain (l : List Nat) (line : Nat) : List Nat × Bool :=
  if l.any (fun s => s + 1 == line) then (line :: l.filter (fun s => !(s + 1 == line)), true) else ((line :: l).take 32, false)

/-- Training by a retired load or fetch of the normal world (R67, R69). -/
def Hw.train (h : Hw) (t line : Nat) (pc : W64) (fetch miss : Bool) : Hw :=
  let die := dieOfThread t
  let p := (h.pcoreOf t).getD 0
  let on (f : Fld) : Bool := h.flag .CORE_PF_CTL die p 0 f
  if (h.thread t).world then h
  else if fetch then (if miss && on F.CORE_PF_CTL_I_NEXT_EN then h.prefetch t line (line + 1) true else h)
  else
    let c := h.core (h.coreKeyOf t)
    let st := strideTrain c.strides pc line
    let h1 := if !on F.CORE_PF_CTL_L1_STRIDE_EN then h else
      let h0 := h.onCore (h.coreKeyOf t) (fun c => { c with strides := st.1 })
      match st.2 with
      | some l => h0.prefetch t line l false
      | none => h0
    if !miss then h1 else
      let sm := streamTrain c.streams line
      let depth := max 1 (h.fld .CORE_PF_CTL die p 0 F.CORE_PF_CTL_L2_DEPTH)
      let h2 := if !on F.CORE_PF_CTL_L2_STREAM_EN then h1 else
        let h0 := h1.onCore (h1.coreKeyOf t) (fun c => { c with streams := sm.1 })
        if sm.2 then (List.range depth).foldl (fun (h : Hw) i => h.prefetch t line (line + 1 + i) false) h0 else h0
      if on F.CORE_PF_CTL_L2_ADJ_EN then h2.prefetch t line (if line % 2 = 0 then line + 1 else line - 1) false else h2

/-- A branch that retires trains the direction counters, the branch target buffer or the indirect target table, in the entry of its own world and thread (R70, log entry 21). -/
def Core.trainPred (c : Core) (e : PredEnt) : Core :=
  let tgt (l : List TgtEnt) : List TgtEnt := ⟨e.thread, e.world, e.pc, e.target⟩ :: l.filter (fun x => !(x.thread == e.thread && x.world == e.world && x.pc == e.pc))
  match e.kind with
  | .indirect => { c with indirect := tgt c.indirect }
  | .direct => { c with btb := tgt c.btb }
  | .cond =>
    let mine (x : DirEnt) : Bool := x.thread == e.thread && x.world == e.world && x.pc == e.pc
    let old := ((c.dirs.find? mine).map (·.ctr)).getD (if e.taken then 1 else 2)
    let ctr := if e.taken then min 3 (old + 1) else old - 1
    { c with dirs := ⟨e.thread, e.world, e.pc, ctr⟩ :: c.dirs.filter (fun x => !mine x), btb := if e.taken then tgt c.btb else c.btb }

/-- No load of the thread is open any more: the events and branches behind it are counted and trained, and the walks enter the TLBs (R61, R63, R70, R80). -/
def Hw.flushQ (h : Hw) (t : Nat) : Hw :=
  let x := h.thread t
  if !(h.openFills t).isEmpty then h else
    let h1 := if x.evq.isEmpty && x.trainq.isEmpty && decide (x.lseq = 0) then h else
      ((h.onThread t (fun x => { x with evq := [], trainq := [], lseq := 0 })).counts t x.evq).onCore (h.coreKeyOf t)
        (fun c => x.trainq.foldl Core.trainPred c)
    h1.installWalks t none

/-- A settled entry is installed (R57, R61): into L2 and L1 data, or L1 instruction, and a table read into L2 alone; a line that the die no longer holds is not. -/
def Hw.installFill (h : Hw) (e : FillEnt) : Hw :=
  let die := dieOfThread e.thread
  let p := (h.pcoreOf e.thread).getD 0
  if h.dieState die e.line == .I then h
  else if h.coreCacheOff die p 2 then h.l2Drop die p e.line
  else
    let cur := h.l2State die p e.line
    let st := if cur == .I then h.l2Grant die p e.line else cur
    let h2 := h.l2Install die p e.line st (h.thread e.thread).world
    if e.walk then h2 else if e.fetch then h2.l1iInstall die p e.line e.vset else h2.l1dInstall die p e.line e.vset st

/-- A recorded hit updates the replacement state of the cache that it hit (R59): L1, or L2 with a fill of L1. -/
def Hw.hitTouch (h : Hw) (e : FillEnt) : Hw :=
  let die := dieOfThread e.thread
  let p := (h.pcoreOf e.thread).getD 0
  let key := h.coreKeyOf e.thread
  let c := h.core key
  if e.hit = 1 then
    h.onCore key (fun c => if e.fetch then { c with l1i := match look? c.l1i e.line with
                                                | some v => mruPut c.l1i e.line v
                                                | none => c.l1i }
                           else { c with l1d := match look? c.l1d e.line with
                                                | some v => mruPut c.l1d e.line v
                                                | none => c.l1d })
  else match look? c.l2 e.line with
    | some st =>
      let h1 := h.onCore key (fun c => { c with l2 := mruPut c.l2 e.line st })
      if e.walk then h1 else if e.fetch then h1.l1iInstall die p e.line e.vset else h1.l1dInstall die p e.line e.vset st
    | none => h

/-- A load or fetch retires from its entry (R57, R59, R67, R80): the first one installs the entry, which is a recorded hit for those that are left; the prefetchers are trained, and a prefetched line counts as used. -/
def Hw.retireUse (h : Hw) (e : FillEnt) (u : FillUse) : Hw :=
  let t := e.thread
  let left := e.uses.drop 1
  let h1 := h.onCore (h.coreKeyOf t) (fun c =>
    { c with fills := c.fills.filterMap (fun f => if !e.same f then some f else if left.isEmpty then none else some { f with uses := left, hit := if e.hit != 0 then e.hit else if e.walk then 2 else 1 }) })
  let h2 := if e.hit = 0 then h1.installFill e else h1.hitTouch e
  let h3 := if !e.fetch && !e.walk && has (h2.core (h2.coreKeyOf t)).pfLines e.line then
      (h2.onCore (h2.coreKeyOf t) (fun c => { c with pfLines := rem c.pfLines e.line })).count t 0x0041 else h2
  let h4 := if e.fetch && e.hit != 1 then h3.count t 0x0020 else h3
  let h5 := if e.walk then h4 else h4.train t e.line u.pc e.fetch (if e.fetch then e.hit != 1 else e.hit == 0)
  match h5.oldestUse t with
  | some m => h5.installWalks t (some m.2.seq)
  | none => h5.flushQ t

/-! Value replays and validation (R55 to R58, R62). -/

/-- The load with a number and everything after it are flushed, and the thread executes again from it (R56, R58): settled entries whose loads are gone are installed, or when their data comes, and the others dropped (R57, R59). -/
def Hw.replayAt (h : Hw) (t seq : Nat) : Hw :=
  let key := h.coreKeyOf t
  let fs := (h.core key).fills
  let snap := ((fs.filter (fun f => f.thread == t)).flatMap (·.uses)).find? (fun u => u.seq == seq && u.snap.isSome)
  let cut (f : FillEnt) : FillEnt := if f.thread == t then { f with uses := f.uses.filter (fun u => decide (u.seq < seq)) } else f
  let gone (f : FillEnt) : Bool := f.thread == t && !f.uses.isEmpty && (cut f).uses.isEmpty
  let later (f : FillEnt) : Bool := f.settled && !f.bad && f.hit == 0
  let h1 := h.onCore key (fun c => { c with fills := (c.fills.filter (fun f => !gone f || (later f && f.inFlight))).map cut })
  let h2 := (fs.filter (fun f => gone f && later f && !f.inFlight)).foldl (fun (h : Hw) f => h.installFill f) h1
  match snap.bind (·.snap) with
  | some s => (h2.onThread t (fun x => x.replayTo s)).flushQ t
  | none => h2

/-- The thread's loads that have not retired are flushed by an asynchronous event (R50, R57). -/
def Hw.flushOpen (h : Hw) (t : Nat) : Hw :=
  match h.oldestUse t with
  | some m => h.replayAt t m.2.seq
  | none => h

/-- The first load of an entry. -/
def FillEnt.firstSeq (e : FillEnt) : Nat := ((e.uses.head?).map (·.seq)).getD 0

/-- An entry changed. -/
def Hw.setFill (h : Hw) (e : FillEnt) (g : FillEnt → FillEnt) : Hw :=
  h.onCore (h.coreKeyOf e.thread) (fun c => { c with fills := mapIf (fun f => e.same f) g c.fills })

/-- An entry whose settled read has returned is validated (R56): the first load that consumed a differing byte, and what follows it, is executed again; without one the entry is settled. A line that its read has found poisoned, or that has been marked invalid, is executed again from its first load, which then takes the machine check or sends a new request (R58, R62). The Boolean says that the thread was flushed. -/
def Hw.validate (h : Hw) (e : FillEnt) : Hw × Bool :=
  if e.bad || (e.uses.any (fun u => !u.bytes.isEmpty) && (h.poisoned (e.line <<< 6) || has (h.cdie (dieOfThread e.thread)).pzn e.line)) then
    ((h.setFill e (fun f => { f with bad := true })).replayAt e.thread e.firstSeq, true)
  else
    let h1 := h.setFill e (fun f => { f with settled := true, valid := true })
    match e.uses.find? (fun u => u.snap.isSome && u.bytes.any (fun b => h.byte b.1 != b.2)) with
    | none => (h1, false)
    | some u => ((h1.replayAt e.thread u.seq).count e.thread 0x0014, true)

/-- A load whose entry is provisional becomes settled (R55, R56): after its data has come, its settled read is served by the slice or sent to the home; while its provisional read is in flight a settle notice follows it once, and a slice that has not yet sent it on sends a settled read instead. -/
def Hw.sendSettled (h : Hw) (e : FillEnt) : Hw :=
  let t := e.thread
  if e.inFlight then
    if e.noticed then h
    else if (h.cdie (dieOfThread t)).parked.any (fun m => m.addr == e.line && m.op == .RDP) then
      ((h.onCDie (dieOfThread t) (fun c => { c with parked := c.parked.filter (fun m => !(m.addr == e.line && m.op == .RDP)) })).setFill e
        (fun f => { f with settled := true })).dieRequest .RDS (dieOfThread t) ((h.pcoreOf t).getD 0) e.line (h.partOf t) (h.thread t).world
    else (h.setFill e (fun f => { f with noticed := true })).send
      { op := .STN, addr := e.line, agent := h.threadAgent t, part := h.partOf t, world := (h.thread t).world }
  else
    let r := h.sliceRead t e.line
    r.1.setFill e (fun f => { f with settled := true, inFlight := !r.2, grant := r.1.dieState (dieOfThread t) e.line })

/-- An entry is settled and validated (R50, R55, R56). The Boolean says that what waits for it goes no further now: its data has not come, or the thread was flushed. -/
def Hw.settleOne (h : Hw) (e : FillEnt) : Hw × Bool :=
  let h1 := if e.settled || e.bad then h else h.sendSettled e
  match (h1.core (h1.coreKeyOf e.thread)).fills.find? (fun f => e.same f) with
  | some f => if !f.bad && (f.inFlight || !f.settled) then (h1, true) else if f.valid && !f.bad then (h1, false) else h1.validate f
  | none => (h1, false)

/-- Every open entry of a thread is settled in order (R60, R62); a value replay, or data that has not come, ends the attempt. -/
def settleAll (h : Hw) (t : Nat) : Hw × Bool :=
  (h.openFills t).foldl (fun (p : Hw × Bool) e => if p.2 then p else p.1.settleOne e) (h, false)

/-- Every load of a thread whose entries are settled retires in order (R57). -/
def retireAll (h : Hw) (t : Nat) : Hw :=
  (List.range (((h.openFills t).map (fun f => f.uses.length)).sum)).foldl (fun (h : Hw) _ => match h.oldestUse t with
    | some m => h.retireUse m.1 m.2
    | none => h) h

/-- The settled reads of a line have returned to a die: the entries that waited for them are validated (R56), and those whose loads are gone installed (R57). -/
def Hw.validateLine (h : Hw) (die line : Nat) : Hw :=
  ((List.range 34).flatMap (fun p => (h.core (coreKey die p)).fills.filter (fun f => f.line == line && f.settled && !f.inFlight && f.hit == 0 && !f.valid))).foldl
    (fun (h : Hw) e =>
      if e.uses.isEmpty then (h.onCore (h.coreKeyOf e.thread) (fun c => { c with fills := c.fills.filter (fun f => !e.same f) })).installFill e
      else (h.validate e).1) h

/-! Grants at a compute die. -/

/-- The state that a grant gives the die. -/
def grantState (op : MsgOp) : LState :=
  match op with
  | .GNTS => .S
  | .GNTF => .F
  | _ => .E

/-- A line that no L2 of the die holds does not stay while the die cache is off (R48). -/
def Hw.dcSettle (h : Hw) (die line : Nat) : Hw :=
  let wanted := (List.range 34).any (fun p => (h.core (coreKey die p)).fills.any (fun f => f.line == line && f.hit == 0))
  if (h.sfCores die line).isEmpty && h.dcOff die && !wanted then h.dieGiveUp die line else h

/-- A grant is installed (R57, R265): the die's state, the fills that waited for the line, the prefetches into L2s, the stores that waited for ownership, and then the held snoops and the misses that waited for an entry. -/
def Hw.dieGranted (h : Hw) (op : MsgOp) (die pcore line : Nat) : Hw :=
  let w := h.secureLine line
  let waits (f : FillEnt) : Bool := f.line == line && f.inFlight && f.hit == 0
  let cores := (List.range 34).filter (fun p => (h.core (coreKey die p)).fills.any waits)
  let pf := (List.range 34).filter (fun p => has (h.core (coreKey die p)).pfOut line)
  let stores := (List.range 64).any (fun i => !((h.thread (64 * (die - 1) + i)).sqLine line).isEmpty)
  let h0 := if h.poisoned (line <<< 6) || has (h.cdie die).pzn line then h.countDie die (dcSlice line) 0x010B w else h
  let h1 := h0.onCDie die (fun c => { c with miss := rem c.miss line, stale := rem c.stale line })
  let h2 := h1.dieSet die line (grantState op)
  let h3 := cores.foldl (fun (h : Hw) p => (h.sfRecord die p line w).onCore (coreKey die p) (fun c =>
    { c with fills := mapIf waits (fun f => { f with inFlight := false, settled := true, grant := grantState op }) c.fills })) h2
  let h4 := (pf.foldl (fun (h : Hw) p => h.prefetched die p line w) h3).validateLine die line
  let h5 := if (op == .GNTE || op == .GNTO) && stores then h4.drainDie die line
    else if stores then h4.dieRequest .UPG die pcore line (look 0 h.dieOwner die) w
    else h4
  ((h5.dcSettle die line).unpark die).serveHeld die

/-- A provisional read of a core is answered with a defer or a refusal (R54, R62): its loads run again, and wait until they are settled. -/
def Hw.provisionalEnds (h : Hw) (key line : Nat) (deferred : Bool) : Hw :=
  ((h.core key).fills.filter (fun f => f.line == line && f.inFlight && !f.settled)).foldl (fun (h : Hw) e =>
    let h1 := if e.uses.isEmpty then h.onCore key (fun c => { c with fills := c.fills.filter (fun f => !e.same f) }) else h.replayAt e.thread e.firstSeq
    let h2 := h1.onThread e.thread (fun x => { x with deferred := some (line, e.noticed || e.fetch || e.walk) })
    if deferred then h2.count e.thread 0x0015 else h2) h

/-- A request of a die ends without a grant: the loads that waited for it run again (R62), stores that waited for ownership are discarded, and prefetches are forgotten. -/
def Hw.dieRequestEnds (h : Hw) (die line : Nat) : Hw :=
  let h1 := h.onCDie die (fun c => { c with miss := rem c.miss line })
  let h2 := (List.range 34).foldl (fun h p => h.onCore (coreKey die p) (fun c =>
    let l := c.fills.filter (fun f => !(f.line == line && f.inFlight && f.settled && f.uses.isEmpty))
    { c with fills := mapIf (fun f => f.line == line && f.inFlight && f.settled) (fun f => { f with inFlight := false, bad := true }) l,
             pfOut := rem c.pfOut line })) h1
  let drop (x : Thread) : Thread := { x with sq := x.sq.filter (fun q => !(lineOf q.1 == line)), sqe := x.sqe.filter (fun q => !(q.1 == line)) }
  let h3 : Hw := { h2 with thr := mapIf (fun e => dieOfThread e.1 == die && e.2.sqe.any (fun q => q.1 == line)) (fun e => (e.1, drop e.2)) h2.thr }
  (h3.unpark die).serveHeld die

end Sys2Proof.Machine
end

