-- ==== Sys2Proof/Machine/Walk.lean ====
section
/-! DEFINITION. The walks of address translation: table reads, walk caches, accessed and dirty bits, and the use of TLB entries (spec/05_address_translation.md R166 to R182, R190 to R194). -/

namespace Sys2Proof.Machine

/-! Table reads (R61, R176, R194). -/

/-- A table read misses L2 and cannot be sent now (R45, R47, R52, R65): it lacks a miss register or a token, or may send no provisional read, or that is deferred. -/
def Hw.walkWaits (h : Hw) (t line : Nat) : Bool :=
  !h.missRoom t true || !h.sliceToken t line || (!h.olderValid t && (h.settleOnly t || h.sliceDefers t line))

/-- A thread's table read goes through L2 and the die cache as a settled read, or as a provisional one behind loads that are not validated (R51, R61, R194); it keeps the bytes that it consumed. The Boolean says that it waits. -/
def Hw.walkTouch (h : Hw) (t pa : Nat) (waits : Bool) : Hw × Bool :=
  let x := h.thread t
  let line := lineOf pa
  let behind := !(h.openFills t).isEmpty
  let st := h.olderValid t
  let hit := h.inL2 t line
  let u : FillUse := { seq := x.lseq, pc := x.pc, bytes := if hit then [] else (List.range 8).map (fun i => (pa + i, h.byte (pa + i))),
                       snap := if behind then some x else none }
  let e : FillEnt := { line := line, thread := t, fetch := false, walk := true, settled := st || hit, inFlight := false, hit := if hit then 2 else 0,
                       valid := hit, uses := [u] }
  match (h.core (h.coreKeyOf t)).fills.find? (fun f => e.same f) with
  | some _ => (if behind then h.setFill e (fun f => { f with uses := f.uses ++ [u] }) else h, false)
  | none =>
    if hit then (if behind then h.onCore (h.coreKeyOf t) (fun c => { c with fills := c.fills ++ [e] }) else h.hitTouch e, false)
    else if waits && h.walkWaits t line then (h, true)
    else (h.addFill e, false)

/-- A walker's read of a table entry (R164, R176, R187, R205): the home's filter and the set that holds the address, then poison; a translation unit's read goes to the home as an RDC. An address in no range of R173 is refused for that. -/
def readPte (h : Hw) (c : Ctx) (lvl pa : Nat) : Except (Hw × TF) (Hw × W64) :=
  if paRange pa = .none then .error (h, .access (tdetail lvl 0x11))
  else if !(paRange pa).isMem || !h.homePass c.part c.world pa then
    .error (h.homeRefusal c.part c.world pa, .access (tdetail lvl 0x10))
  else if !h.mapped pa then .error (h, .access (tdetail lvl 0x11))
  else if h.poisoned pa || (match c.thread with
    | some t => has (h.cdie (dieOfThread t)).pzn (lineOf pa) || (h.thread t).ferrs.contains (lineOf pa)
    | none => false) then .error (h, .poison lvl pa)
  else
    let v : W64 := BitVec.ofNat 64 (h.readNum pa 8)
    match c.thread with
    | some t =>
      let r := h.walkTouch t pa c.waits
      if r.2 then .error (r.1, .wait) else .ok (r.1, v)
    | none => .ok (h.send { op := .RDC, addr := lineOf pa, agent := .hub, part := c.part, world := c.world }, v)

/-! Walk caches (R190, R192). -/

/-- An entry that a walk has passed, with A set, waits for the walk caches until the instruction retires (R61, R192). -/
def notePtr (h : Hw) (c : Ctx) (stage2 : Bool) (pa : Nat) (e : W64) : Hw :=
  match c.thread with
  | some t => if wbit e 10 then
      h.onThread t (fun x => { x with walkPtrs := (x.lseq, ⟨stage2, c.regime, if c.psen then some c.vmid else none, pa, e⟩) :: x.walkPtrs }) else h
  | none => h

/-- A table entry through the walk caches: a cached leaf serves no store while its D is 0 (R181). -/
def readPteC (h : Hw) (c : Ctx) (wc : List WalkEnt) (stage2 : Bool) (isStore : Bool) (lvl pa : Nat) :
    Except (Hw × TF) (Hw × W64) :=
  match walkHit wc stage2 c pa with
  | some e => if isStore && wbit e 1 && !wbit e 11 then readPte h c lvl pa else .ok (h, e)
  | none => readPte h c lvl pa

/-- A bit of a table entry is set (R180). The walk that read the entry and this update are one step, so the compare with the value read cannot fail. -/
def orPte (h : Hw) (pa bitNo : Nat) : Hw := h.writeNum pa 8 (h.readNum pa 8 ||| 1 <<< bitNo)

/-- A is set in an entry whose A is 0 while its stage's HWAD is 1 (R179); the entry goes to the walk caches. -/
def passPte (h : Hw) (c : Ctx) (stage2 : Bool) (pa : Nat) (e : W64) (hwad : Bool) : Hw :=
  if !wbit e 10 && hwad then notePtr (orPte h pa 10) c stage2 pa (setWbits e 10 10 1) else notePtr h c stage2 pa e

/-- D is set in each of a list of entries. -/
def setDs (h : Hw) (l : List Nat) : Hw := l.foldl (fun h pa => orPte h pa 11) h

/-! The partition stage. -/

/-- The leaf a partition-stage walk found: its level, its address and its value. -/
structure PsLeaf where
  lvl : Nat
  epa : Nat
  e : W64
  deriving DecidableEq, Repr

/-- The partition-stage walk of R167 from a level downward; A is set in each pointer it passes (R179). -/
def psWalk (c : Ctx) (wc : List WalkEnt) (ia : Nat) (table isStore : Bool) :
    (lvl : Nat) → (base : Nat) → Hw → Except (Hw × TF) (Hw × PsLeaf)
  | lvl, base, h =>
    let idx := if lvl = 4 then nbits ia 51 48 else nbits ia (12 + 9 * lvl + 8) (12 + 9 * lvl)
    let pa := base + 8 * idx
    match readPteC h c wc true isStore lvl pa with
    | .error e => .error e
    | .ok (h1, e) =>
      if !wbit e 0 then .error (h1, .part (tdetail lvl 0x02) ia table)
      else if pteMalformed e lvl true false then .error (h1, .part (tdetail lvl 0x03) ia table)
      else if wbit e 1 then .ok (h1, ⟨lvl, pa, e⟩)
      else
        let h2 := passPte h1 c true pa e c.hwad2
        match lvl with
        | 0 => .error (h2, .part (tdetail 0 0x03) ia table)
        | k + 1 => psWalk c wc ia table isStore k (pteOA e) h2

/-- The partition stage of an IA (R167, R172, R179): the PA, the leaf, and the D updates that wait for the last check. -/
def psTranslate (c : Ctx) (wc : List WalkEnt) (ia : Nat) (acc : Acc) (table : Bool) (h : Hw) :
    Except (Hw × TF) (Hw × Nat × PsLeaf × List Nat) :=
  match psWalk c wc ia table (decide (acc = .store)) 4 c.psbase h with
  | .error e => .error e
  | .ok (h1, l) =>
    let ok := match acc with
      | .fetch => if c.engine then wbit l.e 5 else wbit l.e 7
      | .load => wbit l.e 5
      | .store => wbit l.e 6
    let needD := decide (acc = .store) && !wbit l.e 11
    if !ok then .error (h1, .part (tdetail l.lvl 0x04) ia table)
    else if (!wbit l.e 10 || needD) && !c.hwad2 then .error (h1, .part (tdetail l.lvl 0x05) ia table)
    else
      let sh := leafShift l.lvl l.e
      .ok (passPte h1 c true l.epa l.e c.hwad2, alignDown (pteOA l.e) sh + ia % 2 ^ sh, l, if needD then [l.epa] else [])

/-! Stage 1. -/

/-- A hardware update of a stage-1 entry is checked in the partition stage as a store, on the entry that memory holds (R176, R181); the D updates it needs are returned. -/
def s1ModCheck (c : Ctx) (wc : List WalkEnt) (ia : Nat) (h : Hw) : Except (Hw × TF) (Hw × List Nat) :=
  if !c.psen then .ok (h, []) else
    match psTranslate c wc ia .store true h with
    | .error e => .error e
    | .ok (h1, _, _, ds) => .ok (h1, ds)

/-- The leaf that a stage-1 walk found. -/
structure S1Leaf where
  lvl : Nat
  ia : Nat
  epa : Nat
  e : W64
  deriving DecidableEq, Repr

/-- The address of a stage-1 entry: itself, or through the partition stage as a load of N-WB memory (R176). -/
def s1EntryPa (c : Ctx) (wc : List WalkEnt) (ea : Nat) (h : Hw) : Except (Hw × TF) (Hw × Nat) :=
  if !c.psen then .ok (h, ea) else
    match psTranslate c wc ea .load true h with
    | .error e => .error e
    | .ok (h1, pa, l, _) => if wbits l.e 4 2 != 0 then .error (h1, .part (tdetail l.lvl 0x06) ea true) else .ok (h1, pa)

/-- A is set in a stage-1 entry, once the partition stage permits the update (R176, R179). -/
def s1Pass (c : Ctx) (wc : List WalkEnt) (ia pa : Nat) (e : W64) (h : Hw) : Except (Hw × TF) Hw :=
  if !wbit e 10 && c.hwad1 then
    match s1ModCheck c wc ia h with
    | .error x => .error x
    | .ok (h1, ds) => .ok (passPte (setDs h1 ds) c false pa e true)
  else .ok (passPte h c false pa e false)

/-- The stage-1 walk of R166 from a level downward. DESIGN CHOICE: a pointer with A = 0 raises no fault while HWAD is 0 (R179, log entry 45). -/
def s1Walk (c : Ctx) (wc : List WalkEnt) (va : Nat) :
    (lvl : Nat) → (base : Nat) → Hw → Except (Hw × TF) (Hw × S1Leaf)
  | lvl, base, h =>
    let ea := base + 8 * nbits va (12 + 9 * lvl + 8) (12 + 9 * lvl)
    match s1EntryPa c wc ea h with
    | .error e => .error e
    | .ok (h1, pa) => match readPteC h1 c wc false false lvl pa with
      | .error e => .error e
      | .ok (h2, e) =>
        if !wbit e 0 then .error (h2, .page (tdetail lvl 0x02))
        else if pteMalformed e lvl false (decide (c.regime = 3)) then .error (h2, .page (tdetail lvl 0x03))
        else if wbit e 1 then .ok (h2, ⟨lvl, ea, pa, e⟩)
        else match s1Pass c wc ea pa e h2 with
          | .error x => .error x
          | .ok h3 => match lvl with
            | 0 => .error (h3, .page (tdetail 0 0x03))
            | k + 1 => s1Walk c wc va k (pteOA e) h3

/-- Stage 1 of an access: the leaf, with its A bit set, and the D updates that wait for the last check (R166, R172, R179, R180). -/
def stage1 (c : Ctx) (wc : List WalkEnt) (va : Nat) (acc : Acc) (h : Hw) : Except (Hw × TF) (Hw × S1Leaf × List Nat) :=
  match s1Walk c wc va 4 c.s1base h with
  | .error e => .error e
  | .ok (h1, l) =>
    let needD := decide (acc = .store) && !wbit l.e 11
    let upd := !wbit l.e 10 || needD
    if !s1Permits c (wbit l.e 5) (wbit l.e 6) (wbit l.e 7) (wbit l.e 8) acc then .error (h1, .page (tdetail l.lvl 0x04))
    else if upd && !c.hwad1 then .error (h1, .page (tdetail l.lvl 0x05))
    else
      match (if upd then s1ModCheck c wc l.ia h1 else .ok (h1, [])) with
      | .error e => .error e
      | .ok (h2, ds) => .ok (if !wbit l.e 10 then orPte (setDs h2 ds) l.epa 10 else h2, l, if needD then ds ++ [l.epa] else [])

/-! Whole translations. -/

/-- The entry that a finished walk gives the TLBs (R190, R191). -/
def walkEntry (c : Ctx) (va pa eff : Nat) (acc : Acc) (l1 : Option S1Leaf) (l2 : Option PsLeaf) : TlbEnt :=
  let sh := min (l1.elim 64 (fun l => leafShift l.lvl l.e)) (l2.elim 64 (fun l => leafShift l.lvl l.e))
  let p (i : Nat) : Bool := l1.elim true (fun l => wbit l.e i) && l2.elim true (fun l => wbit l.e i)
  let dirty := (l1.elim true (fun l => wbit l.e 11 || decide (acc = .store))) &&
    (l2.elim true (fun l => wbit l.e 11 || decide (acc = .store)))
  let glob := !c.checksU || l1.elim false (fun l => wbit l.e 9)
  { regime := c.regime, s1 := c.s1en, world := c.world, asid := if glob then none else some c.asid,
    vmid := if c.psen then some c.vmid else none, part := c.part, va := alignDown va sh,
    size := sh, pa := alignDown pa sh, r := p 5, w := p 6, x := p 7,
    u := l1.elim c.user (fun l => wbit l.e 8), mt := BitVec.ofNat 3 eff, dirty := dirty,
    gw := c.regime == 3 && (l1.elim false (fun l => wbit l.e 53)), port := c.port }

/-- The level of the leaf that gave the effective type (R187, R204); 7 if a bare stage gave it. -/
def typeLevel (eff : Nat) (l1 : Option S1Leaf) (l2 : Option PsLeaf) : Nat :=
  match l1, l2 with
  | some l, _ => if wbits l.e 4 2 = eff then l.lvl else l2.elim 7 (fun l => if wbits l.e 4 2 = eff then l.lvl else 7)
  | none, some l => if wbits l.e 4 2 = eff then l.lvl else 7
  | none, none => 7

/-- The last part of a walk: the type; the D updates are left to the access (R173, R180). -/
def walkEnd (c : Ctx) (va : Nat) (acc : Acc) (l1 : Option S1Leaf) (l2 : Option PsLeaf) (pa : Nat) (ds : List Nat) (h : Hw) :
    Except (Hw × TF) (Hw × XRes) :=
  let eff := effType c pa (l1.map (fun l => wbits l.e 4 2)) (l2.map (fun l => wbits l.e 4 2))
  match typeCheck c pa eff (typeLevel eff l1 l2) acc with
  | .error f => .error (h, f)
  | .ok _ => .ok (h, ⟨pa, eff, c.regime == 3 && (l1.elim false (fun l => wbit l.e 53)),
      if l1.isSome || l2.isSome then some (walkEntry c va pa eff acc l1 l2) else none, ds⟩)

/-- The partition stage of an access and the last part of its walk. -/
def walkPart (c : Ctx) (wc : List WalkEnt) (va ia : Nat) (acc : Acc) (l1 : Option S1Leaf) (d1 : List Nat) (h : Hw) :
    Except (Hw × TF) (Hw × XRes) :=
  if c.psen then
    match psTranslate c wc ia acc false h with
    | .error e => .error e
    | .ok (h2, pa, l, ds) => walkEnd c va acc l1 (some l) pa (d1 ++ ds) h2
  else walkEnd c va acc l1 none ia d1 h

/-- Translation of an access by a walk (R162 to R182). -/
def walkAll (c : Ctx) (wc : List WalkEnt) (va : Nat) (acc : Acc) (h : Hw) : Except (Hw × TF) (Hw × XRes) :=
  if c.s1en then
    match stage1 c wc va acc h with
    | .error e => .error e
    | .ok (h1, l, ds) => walkPart c wc va (alignDown (pteOA l.e) (leafShift l.lvl l.e) + va % 2 ^ leafShift l.lvl l.e) acc (some l) ds h1
  else walkPart c wc va va acc none [] h

/-- Translation of an access through TLB entries: one matching entry serves it, which one is a free choice when several match (R193, log entry 4); otherwise it walks. -/
def translate (c : Ctx) (ents : List TlbEnt) (wc : List WalkEnt) (va : W64) (acc : Acc) (h : Hw) :
    Except (Hw × TF) (Hw × XRes) :=
  if !vaInRange c va then .error (h, .page (tdetail 7 0x01)) else
  let v := if c.s1en then nbits va.toNat 56 0 else va.toNat
  if !c.s1en && !c.psen then
    let eff := effType c v none none
    match typeCheck c v eff 7 acc with
    | .ok _ => .ok (h, ⟨v, eff, false, none, []⟩)
    | .error f => .error (h, f)
  else
    match ents.filter (fun e => e.hits c v) with
    | [] => walkAll c wc v acc h
    | [e] =>
      if e.serves c acc then .ok (h, ⟨e.pa + v % 2 ^ e.size, e.mt.toNat, e.gw, none, []⟩) else walkAll c wc v acc h
    | e0 :: es =>
      let (k, h1) := h.fresh 16
      let e := ((e0 :: es)[k.toNat % (es.length + 1)]?).getD e0
      if e.serves c acc then .ok (h1, ⟨e.pa + v % 2 ^ e.size, e.mt.toNat, e.gw, none, []⟩) else walkAll c wc v acc h1

end Sys2Proof.Machine
end

