-- ==== Sys2Proof/Machine/Trap.lean ====
section
/-! DEFINITION. Taking a trap (R139 to R157), the trap stacks, and check-stop. One shared operation takes every exception. -/

namespace Sys2Proof.Machine

/-! Causes and routing. -/

/-- A trap cause: the code, DETAIL, TVAL, whether it is asynchronous, the target of an event (R138), and what a partition-stage fault writes at the level that takes it (R185): the VA and ACCESS. -/
structure Cause where
  code : Nat
  detail : Nat := 0
  tval : W64 := 0
  async : Bool := false
  target : Option Nat := none
  fva : Option (W64 × Nat) := none
  deriving DecidableEq, Repr

/-- The stack code of the level that takes a cause (R136, R138). An illegal return of a GRET at secure-U, a level that no trap can enter (R122), goes to M: log entry 10. -/
def routeTo (x : Thread) (c : Cause) : Nat :=
  match c.target with
  | some k => k
  | none =>
    let l := x.level.toNat
    if c.code = 0x12 then (if l = 0 then 3 else stackCode l x.world)
    else if 0x18 ≤ c.code then 3
    else if x.world then
      let t := if wbit (x.crv 0xC4E) c.code then 1 else 3
      stackCode (max t l) true
    else
      let t := if wbit (x.crv 0xC4D) c.code then (if wbit (x.crv 0x84C) c.code then 1 else 2) else 3
      max t l

/-- The vector offset of a cause (R140). -/
def vectorOff (x : Thread) (code target : Nat) : Nat :=
  if code = 0x18 ∨ code = 0x22 ∨ code = 0x23 then 0x400
  else if code = 0x20 ∨ code = 0x21 then 0x300
  else if 0x30 ≤ code then 0x200
  else if x.level.toNat = codeLevel target then 0x100 else 0x000

/-! Check-stop (R161). -/

/-- A thread check-stops: it keeps its banks, CORE_STATUS CHECKSTOP is set, the die's RAS block records it, the event and the health alert are raised (R161). -/
def Hw.checkStop (h : Hw) (t cond stack : Nat) : Hw :=
  let die := dieOfThread t
  let h1 := h.onThread t (fun x => { x with run := .checkStopped })
  let h2 := match h.pcoreOf t with
    | some p => h1.setFld .CORE_STATUS die p 0 F.CORE_STATUS_CHECKSTOP 1
    | none => h1
  let h3 := h2.ras die 2 { code := 0x23, sev := 2, detail := cond, part := h.partOf t, world := (h.thread t).world,
                            thread := t, unit := (h.pcoreOf t).getD 0, misc0 := BitVec.ofNat 64 stack }
  let h4 := h3.raise { source := 16 * (die - 1) + 5, part := h.partOf t, thread := some t }
  h4.healthAlert 1 (h.partOf t) die t 0x23

/-! The trap stacks (R146 to R150, R189). -/

/-! Accesses of the thread that are made as one step with a trap, a return or a gate (R148, R551): N-WB, in whole lines, and never trained on. -/

/-- Bytes to consecutive physical addresses. -/
def cellsAt (pa : Nat) (bs : List Byte) : List (Nat × Byte) := bs.zipIdx.map (fun e => (pa + e.2, e.1))

/-- The lines of `n` bytes from the start of a line. -/
def lineRange (pa n : Nat) : List Nat := (List.range ((n + 63) / 64)).map (fun i => lineOf pa + i)

/-- The thread's older stores are performed and its die owns the lines, or their ownership is requested (R60, R148, R551). The Boolean says that the writes can be made now. -/
def Hw.ownRange (h : Hw) (t : Nat) (ls : List Nat) : Hw × Bool :=
  let die := dieOfThread t
  let ready (l : Nat) : Bool := h.dieOwns die l && !has (h.cdie die).lost l
  if !(h.thread t).sq.isEmpty then (h, false)
  else if ls.all ready then (h, true)
  else (ls.foldl (fun (h : Hw) l => if ready l then h else
    h.dieRequest (if h.dieState die l == .S || h.dieState die l == .F then .UPG else .RDO) die ((h.pcoreOf t).getD 0) l (h.partOf t) (h.thread t).world) h, false)

/-- Bytes from the start of a line are written, line by line, into lines that the die owns. -/
def Hw.writeRange (h : Hw) (t pa : Nat) (bs : List Byte) : Hw :=
  (List.range ((bs.length + 63) / 64)).foldl (fun (h : Hw) i =>
    h.storeOwned t (lineOf pa + i) (nbits (pa + 64 * i) 12 6) (cellsAt (pa + 64 * i) ((bs.drop (64 * i)).take 64))) h

/-- A settled read of one line, without training (R59, R148): a hit updates the replacement state, a miss is installed when its data is here. -/
def Hw.lineTouch (h : Hw) (t line : Nat) : Hw :=
  let hit := if h.inL1 t line false then 1 else if h.inL2 t line then 2 else 0
  let e : FillEnt := { line := line, vset := line % 128, thread := t, fetch := false, settled := true, inFlight := false, hit := hit }
  if (h.core (h.coreKeyOf t)).fills.any (fun f => e.same f) then h
  else if hit != 0 then h.hitTouch e
  else
    let h1 := h.addFill e
    match (h1.core (h1.coreKeyOf t)).fills.find? (fun f => e.same f) with
    | some f => if f.inFlight then h1 else (h1.onCore (h1.coreKeyOf t) (fun c => { c with fills := c.fills.filter (fun f => !e.same f) })).installFill f
    | none => h1

/-- The lines of a range are read, after the thread's older stores. -/
def Hw.readRange (h : Hw) (t pa n : Nat) : Hw := (lineRange pa n).foldl (fun (h : Hw) l => h.lineTouch t l) h

/-- The PA of a frame on a level's trap stack: an IA through the partition stage for S and secure-S, a PA for H and M; the page must be N-WB memory that the thread's partition owns, in an initialised set, and that is not poisoned (R131, R148, R149, R189). The Boolean says whether a partition-stage fault stopped it. -/
def frameAddr (h : Hw) (t code addr : Nat) (acc : Acc) : Except (Hw × Bool) (Hw × Nat) :=
  let x := h.thread t
  let part := h.partOf t
  let world := decide (code = 5)
  let check (h1 : Hw) (pa : Nat) : Except (Hw × Bool) (Hw × Nat) :=
    if !(paRange pa).isMem || h1.poisoned pa || h1.poisoned (pa + 127) then .error (h1, false)
    else if !h1.homePass part world pa then .error (h1.homeRefusal part world pa, false)
    else if !h1.mapped pa then .error (h1, false)
    else .ok (h1, pa)
  if code = 1 ∨ code = 5 then
    let c := { ctxOf x t part 1 world with s1en := false, waits := false }
    if c.psen then
      match psTranslate c (h.core (h.coreKeyOf t)).walk2 addr acc false h with
      | .error (h1, _) => .error (h1, true)
      | .ok (h1, pa, l, ds) =>
        if wbits l.e 4 2 != 0 then .error (h1, false)
        else check (setDs h1 ds) pa
    else check h addr
  else check h addr

/-- The words of a frame (R147): the bank, its below link, and the tag. -/
def frameWords (b : Bank) (count code ctxLevel : Nat) (ctxWorld diverted : Bool) : List W64 :=
  ((List.range 8).map (fun i => look 0 b.g (i + 1))) ++ [b.tpc, b.tcause, b.tval, b.tstat, b.tprog,
    BitVec.ofNat 64 b.below.toNat,
    BitVec.ofNat 64 ((0x7A5C <<< 48) + ((count % 65536) <<< 32) + ((code % 4) <<< 6) + ((code / 4) <<< 5)
      + (ctxLevel <<< 2) + (b2n ctxWorld <<< 1) + b2n diverted),
    0]

/-- The bytes of a list of words. -/
def wordsBytes (l : List W64) : List Byte := l.flatMap (fun w => toBytes 8 w.toNat)

/-- The address of the next frame down a trap stack: FRAME is PA or IA [51:7] (R131, R146). -/
def frameBelow (tsp : W64) : Nat := (tsp.toNat + 2 ^ 52 - 128) % 2 ^ 52

/-- Why a bank is not spilled (R149): the stack is full, the write is refused, by a partition-stage fault or not, or its lines are not yet owned. -/
inductive SpillErr where
  | full
  | refused (ps : Bool)
  | wait
  deriving DecidableEq, Repr

/-- The oldest bank is written as a frame to a stack (R146 to R148); `diverted` says that R149 sends it to M's stack. DESIGN CHOICE: the context world in the tag is the world of the context that the bank above returns to, and the context level of depth 0 is the PLEVEL there (log entry 46). -/
def pushFrame (h : Hw) (t code : Nat) (diverted : Bool) : Except (Hw × SpillErr) Hw :=
  let x := h.thread t
  let base := trapBase code
  let cnt := wbits (x.crv (base + 7)) 15 0
  let frame := frameBelow (x.crv (base + 6))
  if x.tsLimit code ≤ cnt then .error (h, .full) else
    match frameAddr h t code frame .store with
    | .error (h1, ps) => .error (h1, .refused ps)
    | .ok (h1, pa) =>
      match h1.ownRange t (lineRange pa 128) with
      | (h2, false) => .error (h2, .wait)
      | (h2, true) =>
      let cur := x.shbank.toNat
      let old := (cur + 1) % 4
      let bk := x.bank old
      let nxt := x.bank (cur + 2)
      let k := x.depth - 3
      let lvl := if k = 0 then wbits nxt.tstat 1 0 else codeLevel bk.owner.toNat
      let h3 := h2.writeRange t pa (wordsBytes (frameWords bk (cnt + 1) code lvl (wbit nxt.tstat 2) diverted))
      .ok (h3.onThread t (fun x =>
        let x1 := (x.setCrv (base + 6) (BitVec.ofNat 64 frame)).setCrv (base + 7) (BitVec.ofNat 64 (cnt + 1))
        let x2 := x1.setBank (cur + 2) { nxt with below := BitVec.ofNat 3 code }
        { x2 with resident := 3,
                  act := x2.act.map (fun a =>
                    let a1 := if code = 3 ∧ k ≤ a.depth then { a with lowm := a.lowm + 1 } else a
                    if k = a.depth then { a1 with dStk := BitVec.ofNat 3 code } else a1) }))

/-- The record of a trap is written, the bank switched and the vector entered (R139). -/
def enterTrap (h : Hw) (t : Nat) (c : Cause) (target : Nat) : Hw :=
  let x := h.thread t
  let cur := x.shbank.toNat
  let nb := (cur + 1) % 4
  let tc : W64 := setWbits (setWbits (setWbits 0 63 63 (b2n c.async)) 23 16 c.detail) 15 0 c.code
  let ts : W64 := setWbits (setWbits (setWbits (setWbits 0 8 8 (b2n x.ven)) 3 3 (b2n x.ie)) 2 2 (b2n x.world)) 1 0 x.level.toNat
  let b : Bank := { g := (x.bank cur).g, tpc := x.pc, tcause := tc, tval := c.tval, tstat := ts, tprog := x.progress,
                    owner := BitVec.ofNat 3 target, below := 0, atVec := x.atVector }
  let x1 := (x.setBank nb b)
  let x2 := { x1 with
    progress := 0, shbank := BitVec.ofNat 2 nb, level := BitVec.ofNat 2 (codeLevel target), ie := false, missed := 0, deferred := none, ncReads := [], fencing := false, walkBuf := [], walkPtrs := [],
    depth := x.depth + 1, resident := min 4 (x.resident + 1), resv := none, atVector := true,
    pc := BitVec.ofNat 64 ((wbits (x.crv (trapBase target + 5)) 63 12 <<< 12) + vectorOff x c.code target) }
  let x3 := if c.code = 0x20 ∨ c.code = 0x21 then x2.setMcip true else x2
  let x4 := match c.fva with
    | some (va, acc) =>
      if target = 3 then (x3.setCrv 0xC8A va).setCrv 0xC8B (BitVec.ofNat 64 acc)
      else (x3.setCrv 0x88A va).setCrv 0x88B (BitVec.ofNat 64 acc)
    | none => x3
  h.setThread t x4

/-- How the attempt to take a cause ends: it is taken; an entry to M's stack fault or overflow is taken in its place, or the thread check-stops; or the spill waits. -/
inductive TrapEnd where
  | taken | diverted | waits
  deriving DecidableEq, Repr

/-- Trap entry (R139), one indivisible step: a synchronous machine check while MCIP is 1 check-stops (R157); the oldest bank is spilled when four are resident, and a spill that fails is diverted to M (R149) or check-stops the thread (R150). A spill follows the thread's older stores and needs ownership of its lines (R148): until then nothing is taken, and the trap is tried again. DESIGN CHOICE: ASYNC of a diverted entry's TCAUSE is 0 whatever the abandoned cause was (log entry 47). -/
def takeTrap (h0 : Hw) (t : Nat) (c : Cause) : Hw × TrapEnd :=
  let h := (h0.wcFlush t).endHold t
  let x := h.thread t
  if c.code = 0x20 ∧ x.mcip then (h.checkStop t 3 0, .diverted) else
  let target := routeTo x c
  if x.resident < 4 then (enterTrap h t c target, .taken) else
    let y := (x.bank (x.shbank.toNat + 2)).owner.toNat
    match pushFrame h t y false with
    | .ok h1 => (enterTrap h1 t c target, .taken)
    | .error (h1, .wait) => (h1, .waits)
    | .error (h1, e) =>
      if y = 3 then (h1.checkStop t 2 3, .diverted) else
        let frame := frameBelow (x.crv (trapBase y + 6))
        match pushFrame h1 t 3 true with
        | .error (h2, .wait) => (h2, .waits)
        | .error (h2, _) => (h2.checkStop t 2 3, .diverted)
        | .ok h2 =>
          let tc : W64 := setWbits (setWbits (setWbits 0 63 63 (b2n c.async)) 23 16 c.detail) 15 0 c.code
          let c' : Cause :=
            if e = .full then { code := 0x22, detail := y, tval := tc }
            else { code := 0x23, detail := y, tval := BitVec.ofNat 64 frame, fva := if e = .refused true then some (0, 2) else none }
          (enterTrap h2 t c' 3, .diverted)

/-- A synchronous cause of an instruction at the thread's PC. A fetch fault on the first instruction at a vector raises a vector fault at M, and check-stops the thread at M itself (R141). -/
def syncTrap (h : Hw) (t : Nat) (c : Cause) : Hw := (takeTrap h t c).1

/-- A fetch cause (R141). DESIGN CHOICE: a partition-stage fault and a poisoned walk read of the first fetch at a vector count as such a cause (log entry 48). -/
def fetchTrap (h : Hw) (t : Nat) (c : Cause) : Hw :=
  let x := h.thread t
  if x.atVector then
    if x.level = 3 then h.checkStop t 1 0
    else syncTrap h t { code := 0x18, tval := x.pc }
  else syncTrap h t c

/-! Asynchronous causes (R156, R157). -/

/-- An event targeted at a stack code is deliverable to the thread (R156, R553). -/
def Thread.takes (x : Thread) (code : Nat) : Bool :=
  let l := x.level.toNat
  if x.level = 3 then code == 3 && x.ie
  else if x.world then code == 3 || (code == 5 && (decide (l < 1) || (decide (l = 1) && x.ie)))
  else code != 5 && (decide (l < code) || (decide (l = code) && x.ie))

/-- The asynchronous causes a thread can take at a boundary. -/
inductive AsyncPick where
  | mc (m : McRec)
  | event (e : Event)
  | localEv (nn : Nat)
  deriving DecidableEq, Repr

/-- The first event in the thread's slots with a target level that is deliverable. -/
def Thread.pickLevel (x : Thread) (code : Nat) : Option Event :=
  if x.takes code then x.slots.find? (fun e => e.level.toNat == code) else none

/-- The asynchronous cause taken at this boundary, in the order of R156; the machine check of a store that a fence waits for follows the fence (R233). DESIGN CHOICE: a local event comes after the events of the slots that target S (log entry 49). -/
def Thread.pick (x : Thread) : Option AsyncPick :=
  match x.mcs with
  | m :: _ => if x.mcip || x.fencing then pickEvent x else some (.mc m)
  | [] => pickEvent x
where
  pickEvent (x : Thread) : Option AsyncPick :=
    match x.pickLevel 3 with
    | some e => some (.event e)
    | none => match x.pickLevel 2 with
      | some e => some (.event e)
      | none => match x.pickLevel 1 with
        | some e => some (.event e)
        | none => match x.pickLevel 5 with
          | some e => some (.event e)
          | none => if x.takes 1 then x.locals.head?.map (.localEv ·) else none

/-- TVAL of an event (R616). -/
def eventTval (e : Event) : W64 :=
  setWbits (setWbits (setWbits (setWbits (setWbits (setWbits (setWbits 0 57 56 e.sev) 55 48 e.code)
    47 32 (min e.count 0xFFFF)) 27 27 (b2n e.fbk)) 26 26 (b2n e.msg)) 25 16 e.source) 15 0 e.vector

/-- The thread takes the asynchronous cause that is first under R156, if any; a diverted entry leaves the cause pending (R149). The credit of an event's slot returns (R615). -/
def takeAsync (h : Hw) (t : Nat) : Option Hw :=
  let x := h.thread t
  match x.pick with
  | none => none
  | some (.mc m) =>
    let (h1, ok) := takeTrap h t { code := 0x21, detail := m.detail, tval := m.tval, async := true }
    some (if ok = .taken then h1.onThread t (fun x => { x with mcs := x.mcs.drop 1 }) else h1)
  | some (.event e) =>
    let (h1, ok) := takeTrap h t { code := 0x30, tval := eventTval e, async := true, target := some e.level.toNat }
    some (if ok = .taken then (h1.onThread t (fun x => { x with slots := dropFirst (fun y => y == e) x.slots })).send
        { op := .CREDIT, addr := t, agent := h.threadAgent t, part := e.inst, info := e.vector } else h1)
  | some (.localEv nn) =>
    let (h1, ok) := takeTrap h t { code := 0x31, tval := BitVec.ofNat 64 nn, async := true, target := some 1 }
    some (if ok = .taken then h1.onThread t (fun x => { x with locals := x.locals.drop 1 }) else h1)

end Sys2Proof.Machine
end

