-- ==== Sys2Proof/Machine/Askist.lean ====
section
/-! DEFINITION. What every Askist instruction shares: whether its thread can run it, the fetch, the encoding checks of R99, the counters, and retirement (spec/02_askist_core.md, spec/03_askist_instruction_set.md). -/

namespace Sys2Proof.Machine

/-- The result of an instruction's own work: the package after it, or a synchronous cause. -/
abbrev Exe := Except (Hw × Cause) Hw

/-- No cause: the instruction goes no further now, and its command is given again. -/
def notNow : Cause := { code := 0 }

/-! Words of the formats of R98, rebuilt from their fields. -/

/-- R3 format. -/
def wordR3 (major : Nat) (d a b : RegNum) (func : Nat) : W32 :=
  BitVec.ofNat 32 (major <<< 26 ||| d.toNat <<< 21 ||| a.toNat <<< 16 ||| b.toNat <<< 11 ||| func % 2048)

/-- I16 format. -/
def wordI16 (major : Nat) (d a : RegNum) (imm : BitVec 16) : W32 :=
  BitVec.ofNat 32 (major <<< 26 ||| d.toNat <<< 21 ||| a.toNat <<< 16 ||| imm.toNat)

/-- B16 format. -/
def wordB16 (major : Nat) (a b : RegNum) (off : BitVec 16) : W32 :=
  BitVec.ofNat 32 (major <<< 26 ||| a.toNat <<< 21 ||| b.toNat <<< 16 ||| off.toNat)

/-- J26 and PFX formats. -/
def wordJ26 (major : Nat) (off : BitVec 26) : W32 := BitVec.ofNat 32 (major <<< 26 ||| off.toNat)

/-- V format. -/
def wordV (major : Nat) (v : VFields) (func : BitVec 5) : W32 :=
  BitVec.ofNat 32 (major <<< 26 ||| v.d.toNat <<< 21 ||| v.a.toNat <<< 16 ||| v.b.toNat <<< 11 ||| v.pred.toNat <<< 8
    ||| v.esize.toNat <<< 6 ||| b2n v.z <<< 5 ||| func.toNat)

/-- F format. -/
def wordF (scope : Nat) (p q : BitVec 3) (zero : BitVec 18) : W32 :=
  BitVec.ofNat 32 (0x3C <<< 26 ||| scope <<< 24 ||| p.toNat <<< 21 ||| q.toNat <<< 18 ||| zero.toNat)

/-- SYS format. -/
def wordSys (sub : Nat) (d a : RegNum) (crn : BitVec 12) : W32 :=
  BitVec.ofNat 32 (0x3D <<< 26 ||| d.toNat <<< 21 ||| a.toNat <<< 16 ||| sub <<< 12 ||| crn.toNat)

/-! Exceptions that decoding raises (R99, R107). -/

/-- The illegal-instruction exception: TVAL holds the word (R135). -/
def illegal (w : W32) : Cause := { code := 0x04, tval := w.zeroExtend 64 }

/-- The privileged-register exception (R91). -/
def privReg (w : W32) : Cause := { code := 0x05, tval := w.zeroExtend 64 }

/-- The vector-disabled exception (R107). -/
def vecDisabled (w : W32) : Cause := { code := 0x06, tval := w.zeroExtend 64 }

/-- Words that raise the illegal-instruction exception whatever they would encode (R99). -/
def wordBad (w : W32) : Bool := w == 0 || w == BitVec.allOnes 32

/-! Retirement. -/

/-- What an instruction leaves of its execution when it retires: VALID of cr.progress is cleared, which a long instruction that stops sets again (R113). -/
def Thread.clearProg (x : Thread) : Thread := { x with progress := setWbits x.progress 63 63 0, missed := 0, deferred := none, ncReads := [], fencing := false }

/-- The TLB misses of the instruction that retires (R80). -/
def Thread.missEvents (x : Thread) : List Nat := (if x.missed.getLsbD 0 then [0x0021] else []) ++ (if x.missed.getLsbD 1 then [0x0022] else [])

/-- The events of an instruction that retires (R63, R80): counted now, or behind an unretired load when that retires. The instruction has used an issue slot. -/
def Hw.note (h : Hw) (t : Nat) (evs : List Nat) : Hw :=
  let h0 := h.count t 0x0030
  if (h.openFills t).isEmpty then h0.counts t evs
  else h0.onThread t (fun x => { x with evq := x.evq ++ evs, lseq := x.lseq + 1 })

/-- The walks of the instruction that has retired enter the TLBs, unless it stands behind an unretired load (R61, R192). -/
def Hw.walksDone (h : Hw) (t : Nat) : Hw := if (h.openFills t).isEmpty then h.installWalks t none else h

/-- The instruction retires with a last change of its thread: the events are counted (R80). -/
def retireAs (h : Hw) (t : Nat) (evs : List Nat) (f : Thread → Thread) : Hw :=
  ((h.note t (0x0002 :: (h.thread t).missEvents ++ evs)).onThread t f).walksDone t

/-- The instruction retires and control goes to a target; VALID is cleared (R97, R113). -/
def retireTo (h : Hw) (t : Nat) (target : W64) (evs : List Nat := []) : Hw :=
  retireAs h t evs (fun x => { x.clearProg with pc := target })

/-- The instruction retires, and the PC moves on by its length (R97). -/
def retire (h : Hw) (t : Nat) (len : Nat) (evs : List Nat := []) : Hw :=
  retireTo h t ((h.thread t).pc + BitVec.ofNat 64 len) evs

/-- A general register of a thread is written. -/
def Hw.setG (h : Hw) (t n : Nat) (v : W64) : Hw := h.onThread t (fun x => x.writeG n v)

/-! Translation of a thread's accesses. -/

/-- ACCESS of a partition-stage fault (R185). -/
def accCode (acc : Acc) : Nat :=
  match acc with
  | .fetch => 0
  | .load => 1
  | .store => 2

/-- The cause of a translation failure (R187, R188). -/
def tfCause (f : TF) (va : W64) (acc : Acc) : Cause :=
  let pg := match acc with
    | .fetch => 0x02
    | .load => 0x08
    | .store => 0x09
  let ac := match acc with
    | .fetch => 0x03
    | .load => 0x0A
    | .store => 0x0B
  match f with
  | .page d => { code := pg, detail := d, tval := va }
  | .access d => { code := ac, detail := d, tval := va }
  | .part d ia table => { code := 0x0D, detail := d, tval := BitVec.ofNat 64 ia, fva := some (va, if table then 3 else accCode acc) }
  | .memType _ => { code := 0x0C, tval := va }
  | .poison _ pa => { code := 0x20, detail := 0x02, tval := BitVec.ofNat 64 pa }
  | .wait => notNow

/-- The TLB entries that an access of a core may use (R190), with those that its own walks have put into the walk buffer (R61). -/
def Core.tlbFor (c : Core) (x : Thread) (acc : Acc) : List TlbEnt :=
  ((if acc = .fetch then c.itlb else c.dtlb) ++ c.l2tlb ++ c.l2large ++ x.walkBuf.map (·.2.2)).eraseDups

/-- A translation in a context, with the TLBs of the thread's core; a walk's result waits for retirement (R61). -/
def xlate (h : Hw) (t : Nat) (c : Ctx) (va : W64) (acc : Acc) : Except (Hw × TF) (Hw × XRes) :=
  let core := h.core (h.coreKeyOf t)
  match translate c (core.tlbFor (h.thread t) acc) (core.walk1 ++ core.walk2) va acc h with
  | .error e => .error e
  | .ok (h1, r) =>
    match r.ent with
    | some e => .ok (h1.onThread t (fun x => { x with walkBuf := (x.lseq, decide (acc = .fetch), e) :: x.walkBuf,
                                                      missed := x.missed ||| (if acc = .fetch then 1 else 2) }), r)
    | none => .ok (h1, r)

/-- Translation of a thread's own access, a failure as its cause. -/
def xlateT (h : Hw) (t : Nat) (va : W64) (acc : Acc) : Except (Hw × Cause) (Hw × XRes) :=
  match xlate h t (h.ctx t) va acc with
  | .ok r => .ok r
  | .error (h1, f) => .error (h1, tfCause f va acc)

/-- The home's answer to a thread's read of memory (R62, R187): none, or the cause that the load or fetch takes. The refusal and the consumed poison are recorded; a read completed as FERR has been recorded where it failed (R443). -/
def homeCause (h : Hw) (t pa : Nat) (va : W64) (acc : Acc) : Option (Hw × Cause) :=
  let part := h.partOf t
  let world := (h.thread t).world
  let ac := match acc with
    | .fetch => 0x03
    | .load => 0x0A
    | .store => 0x0B
  if !h.homePass part world pa then
    some (h.homeRefusal part world pa, { code := ac, detail := 0xF0, tval := va })
  else if !h.mapped pa then some (h, { code := ac, detail := 0xF1, tval := va })
  else if acc != .store && (h.thread t).ferrs.contains (lineOf pa) then
    some (h.onThread t (fun x => { x with ferrs := x.ferrs.filter (fun l => !(l == lineOf pa)) }), { code := 0x20, detail := 0x04, tval := va })
  else if acc != .store && (h.poisoned pa || has (h.cdie (dieOfThread t)).pzn (lineOf pa)) then
    some (h.ras (dieOfThread t) 0 { code := 0x22, sev := 2, addr := pa, part := part, world := world, thread := t,
                                    unit := (h.pcoreOf t).getD 0 },
      { code := 0x20, detail := 0x01, tval := va })
  else none

/-! Fetch. -/

/-- The fetches and table reads of instructions that have retired leave their buffers: their lines enter L2, and fetched ones L1 instruction, but for those that the slice has taken back (R58, R61). -/
def Hw.retireFetches (h0 : Hw) (t : Nat) : Hw :=
  let done (f : FillEnt) : Bool := f.thread == t && (f.fetch || f.walk) && f.settled && !f.inFlight && !f.isOpen
  let c := h0.core (h0.coreKeyOf t)
  let h := if c.fills.any (fun f => done f && f.bad) then h0.onCore (h0.coreKeyOf t) (fun c => { c with fills := c.fills.filter (fun f => !(done f && f.bad)) }) else h0
  (c.fills.filter (fun f => done f && !f.bad)).foldl
    (fun (h : Hw) f => h.retireUse { f with uses := f.uses.take 1 } ((f.uses.head?).getD { seq := 0 })) h

/-- A fetch of a line waits (R37, R45, R47, R52, R65): it misses, and there is no entry, miss register or token for it, or it is not settled and may send no provisional read or is deferred. -/
def Hw.fetchWaits (h : Hw) (t line : Nat) : Bool :=
  !h.coreHas t line true && !(h.core (h.coreKeyOf t)).fills.any (fun f => f.thread == t && f.line == line && f.fetch) &&
    (!h.fillRoom t true || !h.missRoom t true || !h.sliceToken t line || (!h.olderValid t && (h.settleOnly t || h.sliceDefers t line)))

/-- A fetched line (R59, R61): a hit updates the replacement state at once, or when the loads before it have retired; a miss enters the fetch fill buffer, as a provisional read while an older load is not validated. -/
def Hw.fetchFill (h : Hw) (t pa : Nat) (va : W64) : Hw :=
  let x := h.thread t
  let behind := !(h.openFills t).isEmpty
  let st := h.olderValid t
  let line := lineOf pa
  let hit := if h.inL1 t line true then 1 else if h.inL2 t line then 2 else 0
  let u : FillUse := { seq := x.lseq, pc := x.pc, bytes := if st || hit != 0 then [] else (List.range 4).map (fun i => (pa + i, h.byte (pa + i))),
                       snap := if behind then some x else none }
  let e : FillEnt := { line := line, vset := wbits va 12 6, thread := t, fetch := true, settled := st || hit != 0, inFlight := false, hit := hit,
                       valid := hit != 0, uses := [u] }
  match (h.core (h.coreKeyOf t)).fills.find? (fun f => e.same f) with
  | some f => if behind && !(f.uses.any (fun v => v.seq == u.seq)) then h.setFill e (fun f => { f with uses := f.uses ++ [u] }) else h
  | none =>
    if hit = 1 && !behind then h.hitTouch e
    else if hit != 0 then h.onCore (h.coreKeyOf t) (fun c => { c with fills := c.fills ++ [e] })
    else h.addFill e

/-! Lines of N-NC memory (R60, R175): read from the home by an RDC whose answer the thread awaits. -/

/-- The data of a line of N-NC memory is here. -/
def Thread.ncHas (x : Thread) (line : Nat) : Bool := x.ncReads.any (fun e => e == (line, true))

/-- A line of N-NC memory is read from the home, once for the instruction. -/
def Hw.ncAsk (h : Hw) (t line : Nat) : Hw :=
  if (h.thread t).ncReads.any (fun e => e.1 == line) then h
  else (h.onThread t (fun x => { x with ncReads := (line, false) :: x.ncReads })).send
    { op := .RDC, addr := line, agent := h.threadAgent t, part := h.partOf t, world := (h.thread t).world, info := 1 }

/-- The data of a line has come to a core: the threads that read it as N-NC have it. -/
def Hw.ncArrived (h : Hw) (die pcore line : Nat) (ok : Bool) : Hw :=
  (h.threadsOn die pcore).foldl (fun (h : Hw) t => h.onThread t (fun x =>
    { x with ncReads := if ok then mapIf (fun e => e.1 == line) (fun _ => (line, true)) x.ncReads else x.ncReads.filter (fun e => !(e.1 == line)) })) h

/-- The line of a fetched word is read (R61, R175): through the fetch fill buffer, or from the home where the memory is N-NC; an error stands for a fetch that waits. -/
def fetchLine (h : Hw) (t : Nat) (r : XRes) (va : W64) : Except Hw Hw :=
  if r.mt = 0 then (if h.fetchWaits t (lineOf r.pa) then .error h else .ok (h.fetchFill t r.pa va))
  else if (h.thread t).ncHas (lineOf r.pa) then .ok h
  else .error (if h.olderValid t then h.ncAsk t (lineOf r.pa) else h)

/-- The fetch of one word at an address (R97, R162, R174): alignment, translation as a fetch, the home's answer; no cause stands for a fetch that waits, or of which an older load that is not validated may still spare the fault (R62). -/
def fetchWord (h : Hw) (t : Nat) (va : W64) : Except (Hw × Option Cause) Hw :=
  if wbits va 1 0 != 0 then .error (h, some { code := 0x01, tval := va })
  else
    match xlateT h t va .fetch with
    | .error (h1, c) => .error (h1, if c.code = 0 then none else some c)
    | .ok (h1, r) =>
      let h2 := setDs h1 r.ds
      match homeCause h2 t r.pa va .fetch with
      | some (h3, c) => .error (h3, some c)
      | none =>
        match fetchLine h2 t r va with
        | .ok h3 => .ok h3
        | .error h3 => .error (h3, none)

/-- The fetch of an instruction of one or two words at the thread's PC (R97, R100), once the fetches of retired instructions have left the buffer. -/
def fetchAll (h0 : Hw) (t : Nat) (words : Nat) : Except (Hw × Option Cause) Hw :=
  let h := if (h0.openFills t).isEmpty then h0.retireFetches t else h0
  let pc := (h.thread t).pc
  match fetchWord h t pc with
  | .error e => .error e
  | .ok h1 => if words = 2 then fetchWord h1 t (pc + 4) else .ok h1

/-! A thread's own view of memory. -/

/-- The bytes of memory as a thread's own loads see them: its waiting stores and its write-combining buffers over the coherent memory (R214, R215). -/
def ownByte (h : Hw) (t : Nat) (a : Nat) : Byte :=
  match (h.thread t).sq.reverse.find? (fun e => e.1 == a) with
  | some e => e.2
  | none =>
    match ((h.core (h.coreKeyOf t)).wcbs.filter (fun w => w.thread == t)).reverse.findSome? (fun w => (w.bytes.reverse.find? (fun e => e.1 == a))) with
    | some e => e.2
    | none => h.byte a

/-! Running an instruction. -/

/-- The thread can execute an instruction now: it is running, its logical core is carried by a physical core, it waits for no device access, and PKG_RESET_N is not low (R660). -/
def Hw.canRun (h : Hw) (t : Nat) : Bool :=
  decide ((h.thread t).run = .running) && !h.plat.resetLow && (h.pcoreOf t).isSome && (h.thread t).dev.isNone

/-- The package when the fetch of an instruction has succeeded: the first fetch at a vector is over (R141). -/
def Hw.fetched (h : Hw) (t : Nat) : Hw := h.onThread t (fun x => { x with atVector := false })

/-- The walks of an attempt that ends before its instruction retires are dropped (R192): the thread's walk buffer is that of an earlier moment. -/
def Hw.dropWalks (h : Hw) (t : Nat) (x : Thread) : Hw :=
  h.onThread t (fun y => { y with walkBuf := x.walkBuf, walkPtrs := x.walkPtrs, missed := 0 })

/-- An attempt that waits ends: its command is given again. -/
def Hw.tryEnds (h : Hw) (t : Nat) (x : Thread) : Hw := (h.dropWalks t x).onThread t (fun y => { y with atVector := x.atVector })

/-- One instruction of a thread (R153 to R155): the fetch, then the instruction's own work; the PC stays where it waits. -/
def runInstr (t : Nat) (words : Nat) (body : Hw → Exe) (h : Hw) : Hw :=
  match fetchAll h t words with
  | .error (h1, some c) => fetchTrap (h1.dropWalks t (h.thread t)) t c
  | .error (h1, none) => h1.tryEnds t (h.thread t)
  | .ok h1 =>
    match body (h1.fetched t) with
    | .ok h2 => h2
    | .error (h2, c) => if c.code = 0 then h2.tryEnds t (h.thread t) else syncTrap (h2.dropWalks t (h.thread t)) t c

/-- The instruction can run while loads before it are not validated (R60, R62): it takes no trap and sets no bit of a table entry, and the reorder window has room. A load that is deferred can (R54). -/
def speculable (t : Nat) (words : Nat) (body : Hw → Exe) (h : Hw) : Bool :=
  (h.thread t).pick.isNone && h.windowRoom t && (h.thread t).deferred.isNone && (h.openFills t).all (fun f => !f.bad) &&
  (match fetchAll h t words with
   | .error _ => false
   | .ok h1 => match body h1 with
     | .ok h2 => h2.mem == h.mem
     | .error (h2, c) => decide (c.code = 0) && h2.mem == h.mem && (h2.thread t).deferred.isSome)

/-! A trap that ends a device access (R230, R234). -/

/-- A cause as the end of a device access. -/
def Cause.stop (c : Cause) : Nat × Nat × W64 × Option (W64 × Nat) := (c.code, c.detail, c.tval, c.fva)

/-- A device access ends with a cause; while the spill of a bank waits (R148), so does the access. -/
def Hw.devTrap (h : Hw) (t : Nat) (c : Cause) : Hw :=
  match takeTrap (h.onThread t (fun x => { x with dev := none })) t c with
  | (h1, .waits) => h1.onThread t (fun x => { x with dev := some { acc := [], size := 8, write := false, len := 4, stop := some c.stop } })
  | (h1, _) => h1

/-- A thread that cannot execute an instruction: the trap that its ended device access waits to take is tried again. -/
def Hw.dueTrap (h : Hw) (t : Nat) : Hw :=
  match (h.thread t).dev with
  | some w => match w.stop with
    | some (code, detail, tval, fva) =>
      if w.acc.isEmpty && decide ((h.thread t).run = .running) && !h.plat.resetLow && (h.pcoreOf t).isSome then
        h.devTrap t { code := code, detail := detail, tval := tval, fva := fva } else h
    | none => h
  | none => h

/-- A deliverable asynchronous cause is taken in an instruction's place (R154); the loads that have not retired are flushed, and execute again after it (R50). -/
def Hw.asyncNow (h : Hw) (t : Nat) : Option Hw :=
  if (h.thread t).pick.isNone then none else takeAsync (h.flushOpen t) t

/-- An instruction that is sent only when settled (R60): the thread's open entries are settled and its loads retire first; a value replay, or data that has not come, ends the attempt. A thread that cannot run does nothing. -/
def issueSettled (t : Nat) (words : Nat) (body : Hw → Exe) (h : Hw) : Hw :=
  if !h.canRun t then h.dueTrap t else
    match h.asyncNow t with
    | some h1 => h1
    | none => match settleAll h t with
      | (h1, true) => h1
      | (h1, false) => runInstr t words body (retireAll h1 t)

/-- An instruction of a thread. -/
def issue (t : Nat) (words : Nat) (body : Hw → Exe) (h : Hw) : Hw :=
  if h.canRun t && !(h.openFills t).isEmpty && speculable t words body h then runInstr t words body h
  else issueSettled t words body h

/-- A cause of the instruction, if one holds, before its work. -/
def guardC (bad : Bool) (c : Cause) (h : Hw) (k : Exe) : Exe := if bad then .error (h, c) else k

end Sys2Proof.Machine
end

