-- ==== Sys2Proof/Machine/AskistCr.lean ====
section
/-! DEFINITION. The control registers and CRRD, CRWR, CRSET and CRCLR (spec/03_askist_instruction_set.md R90 to R96; spec/04_privilege_and_traps.md R126 to R134, R143; spec/05_address_translation.md R183 to R186). -/

namespace Sys2Proof.Machine

/-- The stack code of a trap-state set, by the upper bits of its number (R126). -/
def setCode (n : Nat) : Nat :=
  match n >>> 4 with
  | 0x44 => 1
  | 0x84 => 2
  | 0xC4 => 3
  | 0x64 => 5
  | _ => 0

/-- A trap-state number is assigned (R126). -/
def trapAssigned (n : Nat) : Bool :=
  let o := n % 16
  match setCode n with
  | 0 => false
  | 1 => decide (o ≤ 0xA)
  | 5 => decide (o ≤ 0xA)
  | 2 => decide (o ≤ 0xA) || o == 0xC
  | _ => decide (o ≤ 0xA) || decide (0xC ≤ o)

/-- The writable bits of a register that holds a plain value (R128 to R134, R183 to R185); `none` for a number that is no such register. -/
def plainMask (n : Nat) : Option W64 :=
  let low12 : W64 := 0x000FFFFFFFFFF000
  match n with
  | 0x401 => some 0xFF
  | 0x480 => some low12
  | 0x680 => some low12
  | 0x880 => some low12
  | 0xC80 => some low12
  | 0x884 => some low12
  | 0xC84 => some low12
  | 0x482 => some 7
  | 0x682 => some 7
  | 0x882 => some 5
  | 0xC82 => some 5
  | 0x886 => some 5
  | 0xC86 => some 5
  | 0x481 => some 0xFFFF
  | 0x681 => some 0xFFFF
  | 0x885 => some 0xFF
  | 0xC85 => some 0xFF
  | 0x88A => some (BitVec.allOnes 64)
  | 0xC8A => some (BitVec.allOnes 64)
  | 0x88B => some 3
  | 0xC8B => some 3
  | 0x84C => some 0x3DFFE
  | 0xC4C => some (BitVec.allOnes 64)
  | 0xC4D => some 0x3FFFE
  | 0xC4E => some 0x1DFFE
  | _ =>
    if trapAssigned n then
      match n % 16 with
      | 0x5 => some 0xFFFFFFFFFFFFF000
      | 0x6 => some 0x000FFFFFFFFFFF80
      | 0x7 => some 0
      | 0x8 => some 7
      | 0xA => some (BitVec.allOnes 64)
      | _ => none
    else none

/-- A control register number is assigned (R92). -/
def crAssigned (n : Nat) : Bool :=
  n == 0x001 || n == 0x002 || n == 0x010 || n == 0x011 || (decide (0x020 ≤ n) && decide (n ≤ 0x027))
    || n == 0x400 || n == 0x402 || trapAssigned n || (plainMask n).isSome

/-- A control register is read-only as a whole (R92, R126). -/
def crReadOnly (n : Nat) : Bool :=
  n == 0x010 || n == 0x011 || n == 0x402 || (trapAssigned n && n % 16 == 7)

/-- The level and world rule of a control register number (R90), with the further conditions of its row (R92): U reads cr.pmc only as cr.pmuen lets it, and writes none. -/
def crAllowed (x : Thread) (n : Nat) (write : Bool) : Bool :=
  let lvl := x.level.toNat
  let base := decide (n >>> 10 ≤ lvl) && (decide (lvl = 3) || !n.testBit 9 || x.world)
  if 0x020 ≤ n ∧ n ≤ 0x027 then
    base && (decide (1 ≤ lvl) || (!write && wbit (x.crv 0x401) (n % 8)))
  else base

/-- The resident banks, the newest first (R144). -/
def Thread.residents (x : Thread) : List Nat :=
  (List.range x.resident).map (fun i => (x.shbank.toNat + 4 - i) % 4)

/-- The bank that the banked registers of a level refer to (R127). -/
def Thread.bankFor (x : Thread) (code : Nat) : Option Nat :=
  if x.code = code then some x.shbank.toNat
  else x.residents.find? (fun i => (x.bank i).owner.toNat == code)

/-- The bank beneath the one that a level's registers refer to, if it is resident (R143, R127). -/
def Thread.bankUnder (x : Thread) (code : Nat) : Option Nat :=
  match x.bankFor code with
  | none => none
  | some i =>
    let j := (i + 3) % 4
    if x.residents.contains j && decide (i ≠ (x.shbank.toNat + 5 - x.resident) % 4) && decide (x.depth ≠ 0) then some j else none

/-- A banked register of the trap state (R126): TPC, TCAUSE, TVAL, TSTAT or TPROG. -/
def Bank.get (b : Bank) (o : Nat) : W64 :=
  match o with
  | 0 => b.tpc
  | 1 => b.tcause
  | 2 => b.tval
  | 3 => b.tstat
  | _ => b.tprog

/-- A value of cr.progress or a TPROG: VALID, DIR, OPTAG and DONE (R111). -/
def progMask : W64 := 0x81FFFFFFFFFFFFFF

/-- A banked register written: reserved bits and PWORLD stay (R128, R129). -/
def Bank.setReg (b : Bank) (o : Nat) (v : W64) : Bank :=
  match o with
  | 0 => { b with tpc := v }
  | 1 => { b with tcause := v &&& 0x8000000000FFFFFF }
  | 2 => { b with tval := v }
  | 3 => { b with tstat := (v &&& 0x10B) ||| (b.tstat &&& 4) }
  | _ => { b with tprog := v &&& progMask }

/-- cr.status as it reads (R93). -/
def Hw.statusOf (h : Hw) (t : Nat) : W64 :=
  let x := h.thread t
  BitVec.ofNat 64 (x.shbank.toNat <<< 10 ||| b2n (h.settleOnly t) <<< 9 ||| b2n x.ven <<< 8 ||| b2n x.ie <<< 3
    ||| b2n x.world <<< 2 ||| x.level.toNat)

/-- The number nn of a thread's counter n (R79). -/
def pmcIndex (t n : Nat) : Nat := 8 * (t % 2) + n % 8

/-- The value of an assigned control register as the thread reads it (R92). -/
def Hw.crRead (h : Hw) (t n : Nat) : W64 :=
  let x := h.thread t
  if n = 0x001 then x.fpcsr
  else if n = 0x002 then x.progress
  else if n = 0x010 then BitVec.ofNat 64 h.now
  else if n = 0x011 then BitVec.ofNat 64 t
  else if 0x020 ≤ n ∧ n ≤ 0x027 then
    match h.pcoreOf t with
    | some p => h.reg .CORE_PMC (dieOfThread t) p (pmcIndex t n)
    | none => 0
  else if n = 0x400 then h.statusOf t
  else if n = 0x402 then BitVec.ofNat 64 (h.partOf t)
  else if n = 0xC4F then
    setWbits (b2w x.mcip) 1 1 (b2n (x.mcip && !x.mcs.isEmpty))
  else if trapAssigned n && decide (n % 16 < 5) then
    match x.bankFor (setCode n) with
    | some i => (x.bank i).get (n % 16)
    | none => 0
  else if trapAssigned n && n % 16 == 9 then
    match x.bankUnder (setCode n) with
    | some i => look 0 (x.bank i).g (wbits (x.crv (n - 1)) 2 0 + 1)
    | none => 0
  else x.crv n

/-- RM keeps its value when 0b101 to 0b111 is written (R95). -/
def fpcsrWrite (old v : W64) : W64 :=
  let rm := if wbits v 2 0 ≤ 4 then wbits v 2 0 else wbits old 2 0
  setWbits (v &&& 0x3F0) 2 0 rm

/-- An assigned control register is written (R92 to R95, R126 to R134, R143, R183 to R185). -/
def Hw.crWrite (h : Hw) (t n : Nat) (v : W64) : Hw :=
  let x := h.thread t
  if n = 0x001 then h.setThread t { x with fpcsr := fpcsrWrite x.fpcsr v }
  else if n = 0x002 then h.setThread t { x with progress := v &&& progMask }
  else if 0x020 ≤ n ∧ n ≤ 0x027 then
    match h.pcoreOf t with
    | some p =>
      if x.world then h
      else h.setFld .CORE_PMC (dieOfThread t) p (pmcIndex t n) F.CORE_PMC_COUNT (wbits v 47 0)
    | none => h
  else if n = 0x400 then h.setThread t { x with ven := wbit v 8, ie := wbit v 3 }
  else if n = 0xC4F then h.setThread t (x.setMcip (wbit v 0))
  else if trapAssigned n && decide (n % 16 < 5) then
    match x.bankFor (setCode n) with
    | some i => h.setThread t (x.setBank i ((x.bank i).setReg (n % 16) v))
    | none => h
  else if trapAssigned n && n % 16 == 9 then
    match x.bankUnder (setCode n) with
    | some i =>
      let b := x.bank i
      h.setThread t (x.setBank i { b with g := put b.g (wbits (x.crv (n - 1)) 2 0 + 1) v })
    | none => h
  else
    match plainMask n with
    | some m => h.setThread t (x.setCrv n (v &&& m))
    | none => h

/-- The four control register instructions (R94). -/
inductive CrOp where
  | rd | wr | set | clr
  deriving DecidableEq, Repr

/-- The SYS sub value (R120). -/
def CrOp.sub : CrOp → Nat
  | .rd => 0
  | .wr => 1
  | .set => 2
  | .clr => 3

/-- A SYS instruction that is no long instruction retires; one that wrote cr.progress leaves VALID as written (R113). -/
def retireCr (h : Hw) (t : Nat) (wroteProgress : Bool) : Hw :=
  if wroteProgress then
    retireAs h t [] (fun x => { x.clearProg with progress := x.progress, pc := x.pc + 4 })
  else retire h t 4

/-- A control register instruction at work (R91, R94, R99). -/
def crBody (o : CrOp) (t : Nat) (d a : RegNum) (crn : BitVec 12) (h : Hw) : Exe :=
  let w := wordSys o.sub d a crn
  let n := crn.toNat
  let write := decide (o ≠ .rd)
  let x := h.thread t
  if (decide (o = .rd) && a != 0) || (decide (o = .wr) && d != 0) || !crAssigned n || (write && crReadOnly n) then
    .error (h, illegal w)
  else if !crAllowed x n write then .error (h, privReg w)
  else
    let old := h.crRead t n
    let g := x.readG a.toNat
    let h1 := match o with
      | .rd => h
      | .wr => h.crWrite t n g
      | .set => h.crWrite t n (old ||| g)
      | .clr => h.crWrite t n (old &&& ~~~g)
    let h2 := if o = .wr then h1 else h1.setG t d.toNat old
    .ok (retireCr h2 t (write && n == 0x002))

/-- CRRD (R94). -/
def execCrrd (t : Gtn) (d a : RegNum) (crn : BitVec 12) (s : State) : Host.Outcome State Fault Refusal :=
  s.onHw (issue t.val 1 (crBody .rd t.val d a crn))

/-- CRWR (R94). -/
def execCrwr (t : Gtn) (d a : RegNum) (crn : BitVec 12) (s : State) : Host.Outcome State Fault Refusal :=
  s.onHw (issueSettled t.val 1 (crBody .wr t.val d a crn))

/-- CRSET (R94). -/
def execCrset (t : Gtn) (d a : RegNum) (crn : BitVec 12) (s : State) : Host.Outcome State Fault Refusal :=
  s.onHw (issueSettled t.val 1 (crBody .set t.val d a crn))

/-- CRCLR (R94). -/
def execCrclr (t : Gtn) (d a : RegNum) (crn : BitVec 12) (s : State) : Host.Outcome State Fault Refusal :=
  s.onHw (issueSettled t.val 1 (crBody .clr t.val d a crn))

end Sys2Proof.Machine
end

