-- ==== Sys2Proof/Machine/Float.lean ====
section
/-! DEFINITION. Floating point as IEEE 754-2019 gives it for binary16, binary32 and binary64, with the rounding modes, the sticky flags and the flush of R95 and the results of R683 (spec/03_askist_instruction_set.md). Operands are taken as exact numbers, and each result is rounded once. -/

namespace Sys2Proof.Machine

/-- A binary format: the widths of its exponent and fraction fields. -/
structure FFmt where
  eb : Nat
  fb : Nat
  deriving DecidableEq, Repr

/-- The format of FMT (R683). -/
def fmtOf (code : Nat) : FFmt := if code = 1 then ⟨5, 10⟩ else if code = 2 then ⟨8, 23⟩ else ⟨11, 52⟩

/-- The exponent bias. -/
def FFmt.bias (f : FFmt) : Int := 2 ^ (f.eb - 1) - 1

/-- The exponent of the last place of the least normal number. -/
def FFmt.qmin (f : FFmt) : Int := 1 - f.bias - f.fb

/-- The default quiet NaN (R683). -/
def FFmt.qnan (f : FFmt) : Nat := ((2 ^ f.eb - 1) <<< f.fb) + 2 ^ (f.fb - 1)

/-- Infinity of a sign. -/
def FFmt.inf (f : FFmt) (neg : Bool) : Nat := (b2n neg <<< (f.eb + f.fb)) + ((2 ^ f.eb - 1) <<< f.fb)

/-- The greatest finite number of a sign. -/
def FFmt.maxFin (f : FFmt) (neg : Bool) : Nat := f.inf neg - 1

/-- Zero of a sign. -/
def FFmt.zero (f : FFmt) (neg : Bool) : Nat := b2n neg <<< (f.eb + f.fb)

/-- An operand: a NaN, an infinity, or the finite number of a sign and a magnitude m * 2 ^ e. -/
inductive FVal where
  | nan (signalling : Bool)
  | inf (neg : Bool)
  | fin (neg : Bool) (m : Nat) (e : Int)
  deriving DecidableEq, Repr

/-- The operand that the low bits of a word hold. -/
def FFmt.decode (f : FFmt) (x : Nat) : FVal :=
  let neg := x.testBit (f.eb + f.fb)
  let e := nbits x (f.eb + f.fb - 1) f.fb
  let m := x % 2 ^ f.fb
  if e = 2 ^ f.eb - 1 then
    if m = 0 then .inf neg else .nan (!m.testBit (f.fb - 1))
  else if e = 0 then .fin neg m f.qmin
  else .fin neg (m + 2 ^ f.fb) ((e : Int) - 1 + f.qmin)

/-- The sticky flags an operation sets (R95). -/
structure FFlags where
  nv : Bool := false
  dz : Bool := false
  of : Bool := false
  uf : Bool := false
  nx : Bool := false
  deriving DecidableEq, Repr

/-- Flags of several operations. -/
def FFlags.or (a b : FFlags) : FFlags := ⟨a.nv || b.nv, a.dz || b.dz, a.of || b.of, a.uf || b.uf, a.nx || b.nx⟩

/-- The flags in the places of cr.fpcsr (R95). -/
def FFlags.word (a : FFlags) : W64 :=
  BitVec.ofNat 64 (b2n a.nv <<< 4 ||| b2n a.dz <<< 5 ||| b2n a.of <<< 6 ||| b2n a.uf <<< 7 ||| b2n a.nx <<< 8)

/-- The rounding control: RM and FTZ of cr.fpcsr (R95). -/
structure FCtl where
  rm : Nat
  ftz : Bool
  deriving DecidableEq, Repr

/-- RM and FTZ of a value of cr.fpcsr. -/
def fctlOf (fpcsr : W64) : FCtl := ⟨wbits fpcsr 2 0, wbit fpcsr 9⟩

/-- Whether a magnitude with `rest` of `2 ^ d` units cut off is rounded up (R95). -/
def roundsUp (rm : Nat) (neg : Bool) (mant rest d : Nat) : Bool :=
  if rest = 0 then false else
    let half := 2 ^ (d - 1)
    match rm with
    | 0 => decide (half < rest) || (decide (rest = half) && mant.testBit 0)
    | 1 => false
    | 2 => neg
    | 3 => !neg
    | _ => decide (half ≤ rest)

/-- The number of bits of a number. -/
def bitLen (m : Nat) : Nat := if m = 0 then 0 else Nat.log2 m + 1

/-- The result of rounding a nonzero magnitude (m + a little, if `sticky`) * 2 ^ e to a format, with the flags it sets (R95). -/
def FFmt.round (f : FFmt) (c : FCtl) (neg : Bool) (m : Nat) (e : Int) (sticky : Bool) : Nat × FFlags :=
  let p := f.fb + 1
  let m1 := (m <<< (p + 3)) + b2n sticky
  let e1 := e - (p + 3)
  let qn := e1 + bitLen m1 - p
  let q := max qn f.qmin
  let d := (q - e1).toNat
  let mant := m1 >>> d
  let rest := m1 % 2 ^ d
  let mant1 := mant + b2n (roundsUp c.rm neg mant rest d)
  let inexact := decide (rest ≠ 0)
  let bits := if mant1 < 2 ^ f.fb then mant1
    else ((q - f.qmin + 1).toNat <<< f.fb) + (mant1 - 2 ^ f.fb)
  let dn := (qn - e1).toNat
  let mn := m1 >>> dn
  let mn1 := mn + b2n (roundsUp c.rm neg mn (m1 % 2 ^ dn) dn)
  let tinyBefore := decide (qn < f.qmin)
  let tinyAfter := tinyBefore && !(decide (qn + 1 = f.qmin) && decide (mn1 = 2 ^ p))
  let tiny := if Config.tinyAfterRounding then tinyAfter else tinyBefore
  if ((2 ^ f.eb - 1) <<< f.fb) ≤ bits then
    let toInf := match c.rm with
      | 1 => false
      | 2 => neg
      | 3 => !neg
      | _ => true
    (if toInf then f.inf neg else f.maxFin neg, { of := true, nx := true })
  else if c.ftz ∧ bits ≠ 0 ∧ bits < 2 ^ f.fb then
    (f.zero neg, { uf := true, nx := inexact || Config.flushSetsInexact })
  else if inexact then (f.zero neg + bits, { uf := tiny, nx := true })
  else (f.zero neg + bits, {})

/-- A result that one rounding of an exact magnitude gives; zero keeps its sign. -/
def FFmt.fromExact (f : FFmt) (c : FCtl) (neg : Bool) (m : Nat) (e : Int) : Nat × FFlags :=
  if m = 0 then (f.zero neg, {}) else f.round c neg m e false

/-- An operand is a signalling NaN. -/
def FVal.snan : FVal → Bool
  | .nan s => s
  | _ => false

/-- An operand is a NaN. -/
def FVal.isNan : FVal → Bool
  | .nan _ => true
  | _ => false

/-- The default NaN, with NV if an operand signals or the operation is invalid. -/
def FFmt.nanRes (f : FFmt) (nv : Bool) : Nat × FFlags := (f.qnan, { nv := nv })

/-- The sum of two exact numbers, rounded once; an exact zero sum of opposite signs is +0, or -0 when rounding down. -/
def FFmt.sumExact (f : FFmt) (c : FCtl) (na : Bool) (ma : Nat) (ea : Int) (nb : Bool) (mb : Nat) (eb : Int) : Nat × FFlags :=
  let e := min ea eb
  let sa : Int := (if na then -1 else 1) * (ma <<< (ea - e).toNat : Nat)
  let sb : Int := (if nb then -1 else 1) * (mb <<< (eb - e).toNat : Nat)
  let s := sa + sb
  if s = 0 then (f.zero (if na = nb then na else decide (c.rm = 2)), {})
  else f.fromExact c (decide (s < 0)) s.natAbs e

/-- a + b, where b's sign is flipped for a subtraction. -/
def FFmt.add (f : FFmt) (c : FCtl) (sub : Bool) (a b : FVal) : Nat × FFlags :=
  match a, b with
  | .fin na ma ea, .fin nb mb eb => f.sumExact c na ma ea (xor nb sub) mb eb
  | .inf na, .inf nb => if na = xor nb sub then (f.inf na, {}) else f.nanRes true
  | .inf na, .fin _ _ _ => (f.inf na, {})
  | .fin _ _ _, .inf nb => (f.inf (xor nb sub), {})
  | _, _ => f.nanRes (a.snan || b.snan)

/-- a * b. -/
def FFmt.mul (f : FFmt) (c : FCtl) (a b : FVal) : Nat × FFlags :=
  match a, b with
  | .fin na ma ea, .fin nb mb eb => f.fromExact c (xor na nb) (ma * mb) (ea + eb)
  | .inf na, .inf nb => (f.inf (xor na nb), {})
  | .inf na, .fin nb mb _ => if mb = 0 then f.nanRes true else (f.inf (xor na nb), {})
  | .fin na ma _, .inf nb => if ma = 0 then f.nanRes true else (f.inf (xor na nb), {})
  | _, _ => f.nanRes (a.snan || b.snan)

/-- a / b. -/
def FFmt.div (f : FFmt) (c : FCtl) (a b : FVal) : Nat × FFlags :=
  match a, b with
  | .fin na ma ea, .fin nb mb eb =>
    if mb = 0 then (if ma = 0 then f.nanRes true else (f.inf (xor na nb), { dz := true }))
    else if ma = 0 then (f.zero (xor na nb), {})
    else
      let k := bitLen mb + f.fb + 4
      let n := ma <<< k
      f.round c (xor na nb) (n / mb) (ea - eb - k) (n % mb != 0)
  | .inf _, .inf _ => f.nanRes true
  | .inf na, .fin nb _ _ => (f.inf (xor na nb), {})
  | .fin na _ _, .inf nb => (f.zero (xor na nb), {})
  | _, _ => f.nanRes (a.snan || b.snan)

/-- The integer square root by bits, `n` bits still to try. -/
def isqrtFrom (x : Nat) : Nat → Nat → Nat
  | 0, r => r
  | n + 1, r => let r' := r + 2 ^ n; isqrtFrom x n (if r' * r' ≤ x then r' else r)

/-- The square root. -/
def FFmt.sqrt (f : FFmt) (c : FCtl) (a : FVal) : Nat × FFlags :=
  match a with
  | .fin na ma ea =>
    if ma = 0 then (f.zero na, {})
    else if na then f.nanRes true
    else
      let k := 2 * (f.fb + 4) + (if (ea % 2 = 0) then 0 else 1)
      let n := ma <<< k
      let r := isqrtFrom n (bitLen n / 2 + 1) 0
      f.round c false r ((ea - k) / 2) (r * r != n)
  | .inf na => if na then f.nanRes true else (f.inf false, {})
  | .nan s => f.nanRes s

/-- a * b + d with one rounding. -/
def FFmt.fma (f : FFmt) (c : FCtl) (a b d : FVal) : Nat × FFlags :=
  let invalid := match a, b with
    | .inf _, .fin _ m _ => decide (m = 0)
    | .fin _ m _, .inf _ => decide (m = 0)
    | _, _ => false
  let nv := a.snan || b.snan || d.snan
  if a.isNan || b.isNan then f.nanRes nv
  else if d.isNan then f.nanRes (nv || (invalid && Config.fmaZeroInfNanInvalid))
  else if invalid then f.nanRes true
  else
    match a, b, d with
    | .fin na ma ea, .fin nb mb eb, .fin nd md ed => f.sumExact c (xor na nb) (ma * mb) (ea + eb) nd md ed
    | .fin _ _ _, .fin _ _ _, .inf nd => (f.inf nd, {})
    | .inf na, .inf nb, .inf nd => if xor na nb = nd then (f.inf nd, {}) else f.nanRes true
    | .inf na, .fin nb _ _, .inf nd => if xor na nb = nd then (f.inf nd, {}) else f.nanRes true
    | .fin na _ _, .inf nb, .inf nd => if xor na nb = nd then (f.inf nd, {}) else f.nanRes true
    | .inf na, .inf nb, _ => (f.inf (xor na nb), {})
    | .inf na, .fin nb _ _, _ => (f.inf (xor na nb), {})
    | .fin na _ _, .inf nb, _ => (f.inf (xor na nb), {})
    | _, _, _ => f.nanRes true

/-- The order of two exact numbers as an integer comparison; the sign of zero does not count. -/
def finCmp (na : Bool) (ma : Nat) (ea : Int) (nb : Bool) (mb : Nat) (eb : Int) : Ordering :=
  let e := min ea eb
  let sa : Int := (if na then -1 else 1) * (ma <<< (ea - e).toNat : Nat)
  let sb : Int := (if nb then -1 else 1) * (mb <<< (eb - e).toNat : Nat)
  if sa < sb then .lt else if sa = sb then .eq else .gt

/-- The order of two operands; `none` when a NaN makes them unordered. -/
def fcmpOrd (a b : FVal) : Option Ordering :=
  match a, b with
  | .fin na ma ea, .fin nb mb eb => some (finCmp na ma ea nb mb eb)
  | .inf na, .inf nb => some (if na = nb then .eq else if na then .lt else .gt)
  | .inf na, .fin _ _ _ => some (if na then .lt else .gt)
  | .fin _ _ _, .inf nb => some (if nb then .gt else .lt)
  | _, _ => none

/-- An operand as a result of the format: a subnormal number is flushed under FTZ (R95, log entry 8). -/
def FFmt.pass (f : FFmt) (c : FCtl) : FVal → Nat × FFlags
  | .nan s => f.nanRes s
  | .inf n => (f.inf n, {})
  | .fin n m e => f.fromExact c n m e

/-- The sign of an operand. -/
def FVal.neg : FVal → Bool
  | .nan _ => false
  | .inf n => n
  | .fin n _ _ => n

/-- minimumNumber, or maximumNumber when `mx`: a NaN yields the other operand, and -0 lies below +0 (R683). -/
def FFmt.minMax (f : FFmt) (c : FCtl) (mx : Bool) (a b : FVal) : Nat × FFlags :=
  let nv := a.snan || b.snan
  let pick (v : FVal) : Nat × FFlags := let r := f.pass c v; (r.1, { r.2 with nv := r.2.nv || nv })
  match fcmpOrd a b with
  | none => if a.isNan && b.isNan then f.nanRes nv else if a.isNan then pick b else pick a
  | some .lt => pick (if mx then b else a)
  | some .gt => pick (if mx then a else b)
  | some .eq => pick (if a.neg = b.neg then a else if xor a.neg mx then a else b)

/-- A conversion from another format. -/
def FFmt.convert (f : FFmt) (c : FCtl) (a : FVal) : Nat × FFlags := f.pass c a

/-- The integer nearest to an exact number under RM, and whether it is inexact. -/
def roundInt (rm : Nat) (neg : Bool) (m : Nat) (e : Int) : Int × Bool :=
  let s (x : Nat) : Int := if neg then -(x : Int) else x
  if 0 ≤ e then (s (m <<< e.toNat), false) else
    let d := (-e).toNat
    let q := m >>> d
    let rest := m % 2 ^ d
    (s (q + b2n (roundsUp rm neg q rest d)), decide (rest ≠ 0))

/-- A conversion to a 64-bit integer: out of range gives the nearest representable value and NV, and a NaN counts as the largest (R683). -/
def toInt64 (c : FCtl) (signed : Bool) (a : FVal) : W64 × FFlags :=
  let lo : Int := if signed then -(2 ^ 63) else 0
  let hi : Int := if signed then 2 ^ 63 - 1 else 2 ^ 64 - 1
  match a with
  | .nan _ => (BitVec.ofInt 64 hi, { nv := true })
  | .inf n => (BitVec.ofInt 64 (if n then lo else hi), { nv := true })
  | .fin n m e =>
    let (r, nx) := roundInt c.rm n m e
    if r < lo then (BitVec.ofInt 64 lo, { nv := true })
    else if hi < r then (BitVec.ofInt 64 hi, { nv := true })
    else (BitVec.ofInt 64 r, { nx := nx })

/-- A conversion from a 64-bit integer. -/
def FFmt.fromInt64 (f : FFmt) (c : FCtl) (signed : Bool) (x : W64) : Nat × FFlags :=
  let v : Int := if signed then x.toInt else x.toNat
  f.fromExact c (decide (v < 0)) v.natAbs 0

/-! The operations that scalar and vector instructions name. -/

/-- The two- and three-operand arithmetic of R107 and R683. -/
inductive FOp where
  | add | sub | mul | div | fma | min | max
  deriving DecidableEq, Repr

/-- An operation on operands in a format; `d` is the addend of a fused multiply-add. -/
def FOp.run (o : FOp) (f : FFmt) (c : FCtl) (a b d : Nat) : Nat × FFlags :=
  let x := f.decode a
  let y := f.decode b
  match o with
  | .add => f.add c false x y
  | .sub => f.add c true x y
  | .mul => f.mul c x y
  | .div => f.div c x y
  | .fma => f.fma c x y (f.decode d)
  | .min => f.minMax c false x y
  | .max => f.minMax c true x y

/-- The compares of R683: the result and whether NV is set. -/
inductive FCmpOp where
  | eq | lt | le | unord
  deriving DecidableEq, Repr

/-- A compare of two operands (R683). -/
def FCmpOp.run (o : FCmpOp) (f : FFmt) (a b : Nat) : Bool × FFlags :=
  let x := f.decode a
  let y := f.decode b
  let quiet : FFlags := { nv := x.snan || y.snan }
  let loud : FFlags := { nv := x.isNan || y.isNan }
  let r := fcmpOrd x y
  match o with
  | .eq => (r == some .eq, quiet)
  | .lt => (r == some .lt, loud)
  | .le => (r == some .lt || r == some .eq, loud)
  | .unord => (r.isNone, quiet)

end Sys2Proof.Machine
end

