-- ==== Sys2Proof/Machine/AskistFp.lean ====
section
/-! DEFINITION. Scalar floating point: major 0x28 (spec/03_askist_instruction_set.md R683, R95). -/

namespace Sys2Proof.Machine

/-- The word of a major 0x28 instruction (R683). -/
def wordFp (d a b : RegNum) (fmt : FmtField) (op : Nat) : W32 :=
  wordR3 0x28 d a b (fmt.hi.toNat <<< 10 ||| fmt.fmt.toNat <<< 8 ||| op)

/-- A word of major 0x28 is illegal by its func: bit 10, or FMT 0b00 (R683). -/
def fmtBad (fmt : FmtField) : Bool := fmt.hi != 0 || fmt.fmt == 0

/-- Flags are added to cr.fpcsr (R95). -/
def Hw.addFlags (h : Hw) (t : Nat) (f : FFlags) : Hw := h.onThread t (fun x => { x with fpcsr := x.fpcsr ||| f.word })

/-- The end of a scalar floating-point instruction: its result, its flags, its retirement. -/
def fpDone (t : Nat) (d : RegNum) (h : Hw) (r : Nat × FFlags) : Exe :=
  .ok (retire ((h.setG t d.toNat (BitVec.ofNat 64 r.1)).addFlags t r.2) t 4)

/-- The arithmetic forms of major 0x28; `un` holds whether the b field must be 0. -/
def fpBody (op : Nat) (un : Bool) (run : FFmt → FCtl → Nat → Nat → Nat → Nat × FFlags) (t : Nat) (d a b : RegNum)
    (fmt : FmtField) (h : Hw) : Exe :=
  if fmtBad fmt || (un && b != 0) then .error (h, illegal (wordFp d a b fmt op)) else
    let x := h.thread t
    let f := fmtOf fmt.fmt.toNat
    fpDone t d h (run f (fctlOf x.fpcsr) (x.readG a.toNat).toNat (x.readG b.toNat).toNat (x.readG d.toNat).toNat)

/-- FADD (R683). -/
def execFadd (t : Gtn) (d a b : RegNum) (fmt : FmtField) (s : State) : Host.Outcome State Fault Refusal :=
  s.onHw (issue t.val 1 (fpBody 0x00 false FOp.add.run t.val d a b fmt))

/-- FSUB (R683). -/
def execFsub (t : Gtn) (d a b : RegNum) (fmt : FmtField) (s : State) : Host.Outcome State Fault Refusal :=
  s.onHw (issue t.val 1 (fpBody 0x01 false FOp.sub.run t.val d a b fmt))

/-- FMUL (R683). -/
def execFmul (t : Gtn) (d a b : RegNum) (fmt : FmtField) (s : State) : Host.Outcome State Fault Refusal :=
  s.onHw (issue t.val 1 (fpBody 0x02 false FOp.mul.run t.val d a b fmt))

/-- FDIV (R683). -/
def execFdiv (t : Gtn) (d a b : RegNum) (fmt : FmtField) (s : State) : Host.Outcome State Fault Refusal :=
  s.onHw (issue t.val 1 (fpBody 0x03 false FOp.div.run t.val d a b fmt))

/-- FSQRT (R683). -/
def execFsqrt (t : Gtn) (d a b : RegNum) (fmt : FmtField) (s : State) : Host.Outcome State Fault Refusal :=
  s.onHw (issue t.val 1 (fpBody 0x04 true (fun f c a _ _ => f.sqrt c (f.decode a)) t.val d a b fmt))

/-- FMA: g[a] * g[b] + g[d] with one rounding (R683). -/
def execFma (t : Gtn) (d a b : RegNum) (fmt : FmtField) (s : State) : Host.Outcome State Fault Refusal :=
  s.onHw (issue t.val 1 (fpBody 0x05 false FOp.fma.run t.val d a b fmt))

/-- FMIN (R683). -/
def execFmin (t : Gtn) (d a b : RegNum) (fmt : FmtField) (s : State) : Host.Outcome State Fault Refusal :=
  s.onHw (issue t.val 1 (fpBody 0x06 false FOp.min.run t.val d a b fmt))

/-- FMAX (R683). -/
def execFmax (t : Gtn) (d a b : RegNum) (fmt : FmtField) (s : State) : Host.Outcome State Fault Refusal :=
  s.onHw (issue t.val 1 (fpBody 0x07 false FOp.max.run t.val d a b fmt))

/-- OP and operation of a compare (R683). -/
def fcmpOp (k : FCmpKind) : Nat × FCmpOp :=
  match k with
  | .eq => (0x08, .eq)
  | .lt => (0x09, .lt)
  | .le => (0x0A, .le)
  | .unord => (0x0B, .unord)

/-- FCMP (R683). -/
def execFcmp (t : Gtn) (d a b : RegNum) (fmt : FmtField) (k : FCmpKind) (s : State) : Host.Outcome State Fault Refusal :=
  s.onHw (issue t.val 1 (fpBody (fcmpOp k).1 false
    (fun f _ a b _ => let r := (fcmpOp k).2.run f a b; (b2n r.1, r.2)) t.val d a b fmt))

/-- OP of a conversion (R683). -/
def fcvtOp (k : FCvtKind) : Nat :=
  match k with
  | .from16 => 0x10
  | .from32 => 0x11
  | .from64 => 0x12
  | .toS => 0x14
  | .toU => 0x15
  | .fromS => 0x16
  | .fromU => 0x17

/-- The source format of a conversion between formats: FMT may not name it too (R683). -/
def fcvtSrc (k : FCvtKind) : Nat :=
  match k with
  | .from16 => 1
  | .from32 => 2
  | .from64 => 3
  | .toS => 0
  | .toU => 0
  | .fromS => 0
  | .fromU => 0

/-- The result of a conversion (R683). -/
def fcvtRun (k : FCvtKind) (f : FFmt) (c : FCtl) (a : Nat) : Nat × FFlags :=
  match k with
  | .from16 => f.convert c ((fmtOf 1).decode a)
  | .from32 => f.convert c ((fmtOf 2).decode a)
  | .from64 => f.convert c ((fmtOf 3).decode a)
  | .toS => let r := toInt64 c true (f.decode a); (r.1.toNat, r.2)
  | .toU => let r := toInt64 c false (f.decode a); (r.1.toNat, r.2)
  | .fromS => f.fromInt64 c true (BitVec.ofNat 64 a)
  | .fromU => f.fromInt64 c false (BitVec.ofNat 64 a)

/-- FCVT at work: the b field must be 0, and the source format must differ from FMT (R683). -/
def fcvtBody (t : Nat) (d a b : RegNum) (fmt : FmtField) (k : FCvtKind) (h : Hw) : Exe :=
  if fcvtSrc k == fmt.fmt.toNat then .error (h, illegal (wordFp d a b fmt (fcvtOp k)))
  else fpBody (fcvtOp k) true (fun f c a _ _ => fcvtRun k f c a) t d a b fmt h

/-- FCVT (R683). -/
def execFcvt (t : Gtn) (d a b : RegNum) (fmt : FmtField) (k : FCvtKind) (s : State) : Host.Outcome State Fault Refusal :=
  s.onHw (issue t.val 1 (fcvtBody t.val d a b fmt k))

end Sys2Proof.Machine
end

