-- ==== Sys2Proof/Machine/AskistInt.lean ====
section
/-! DEFINITION. The scalar integer instructions, the branches and the scalar helpers of Askist (spec/03_askist_instruction_set.md R101 to R104, R118, R119). -/

namespace Sys2Proof.Machine

/-! The integer ALU (R103, R104). -/

/-- The low 32 bits of a result, sign-extended (R103). -/
def sextW (x : W64) : W64 := (x.setWidth 32).signExtend 64

/-- Signed division: the quotient truncates toward zero; division by zero gives all ones (R104). -/
def divS (a b : W64) : W64 := if b = 0 then BitVec.allOnes 64 else BitVec.ofInt 64 (Int.tdiv a.toInt b.toInt)

/-- Signed remainder: it takes the sign of the dividend; division by zero gives the dividend (R104). -/
def remS (a b : W64) : W64 := if b = 0 then a else BitVec.ofInt 64 (Int.tmod a.toInt b.toInt)

/-- Unsigned division (R104). -/
def divU (a b : W64) : W64 := if b = 0 then BitVec.allOnes 64 else BitVec.ofNat 64 (a.toNat / b.toNat)

/-- Unsigned remainder (R104). -/
def remU (a b : W64) : W64 := if b = 0 then a else BitVec.ofNat 64 (a.toNat % b.toNat)

/-- The integer ALU by func (R103). -/
def aluOp (func : Nat) (a b : W64) : Option W64 :=
  let sh := b.toNat % 64
  match func with
  | 0x000 => some (a + b)
  | 0x001 => some (a - b)
  | 0x002 => some (a &&& b)
  | 0x003 => some (a ||| b)
  | 0x004 => some (a ^^^ b)
  | 0x005 => some (a &&& ~~~b)
  | 0x008 => some (a <<< sh)
  | 0x009 => some (a >>> sh)
  | 0x00A => some (a.sshiftRight sh)
  | 0x00B => some (a.rotateRight sh)
  | 0x010 => some (b2w (a.slt b))
  | 0x011 => some (b2w (a.ult b))
  | 0x012 => some (if a.slt b then a else b)
  | 0x013 => some (if a.slt b then b else a)
  | 0x014 => some (if a.ult b then a else b)
  | 0x015 => some (if a.ult b then b else a)
  | 0x020 => some (a * b)
  | 0x021 => some (BitVec.ofInt 64 ((a.toInt * b.toInt) / 2 ^ 64))
  | 0x022 => some (BitVec.ofNat 64 ((a.toNat * b.toNat) >>> 64))
  | 0x024 => some (divS a b)
  | 0x025 => some (divU a b)
  | 0x026 => some (remS a b)
  | 0x027 => some (remU a b)
  | 0x030 => some (sextW (a + b))
  | 0x031 => some (sextW (a - b))
  | _ => none

/-- INTEGER_ALU: g[d] = g[a] op g[b]; an unassigned func is illegal (R99, R103). -/
def aluBody (t : Nat) (d a b : RegNum) (func : BitVec 11) (h : Hw) : Exe :=
  let w := wordR3 0x01 d a b func.toNat
  let x := h.thread t
  if wordBad w then .error (h, illegal w) else
    match aluOp func.toNat (x.readG a.toNat) (x.readG b.toNat) with
    | some r => .ok (retire (h.setG t d.toNat r) t 4)
    | none => .error (h, illegal w)

/-- INTEGER_ALU (R103, R104). -/
def execIntegerAlu (t : Gtn) (d a b : RegNum) (func : BitVec 11) (s : State) : Host.Outcome State Fault Refusal :=
  s.onHw (issue t.val 1 (aluBody t.val d a b func))

/-! Immediates (R101). -/

/-- The immediate forms that PFX can widen (R100): the operation on g[a] and the immediate. -/
inductive ImmOp where
  | addi | andi | ori | xori | lui
  deriving DecidableEq, Repr

/-- The major opcode of an immediate form (R102). -/
def ImmOp.major : ImmOp → Nat
  | .addi => 0x02
  | .andi => 0x03
  | .ori => 0x04
  | .xori => 0x05
  | .lui => 0x06

/-- The unprefixed extension of an immediate (R101). -/
def ImmOp.ext (o : ImmOp) (imm : BitVec 16) : W64 :=
  match o with
  | .addi => imm.signExtend 64
  | .lui => imm.signExtend 64
  | .andi => imm.zeroExtend 64
  | .ori => imm.zeroExtend 64
  | .xori => imm.zeroExtend 64

/-- The result of an immediate form (R101). -/
def ImmOp.result (o : ImmOp) (a imm : W64) : W64 :=
  match o with
  | .addi => a + imm
  | .andi => a &&& imm
  | .ori => a ||| imm
  | .xori => a ^^^ imm
  | .lui => imm <<< 16

/-- An immediate form with its extended immediate; `len` is the length of the instruction in bytes. -/
def immBody (o : ImmOp) (t : Nat) (d a : RegNum) (imm : W64) (len : Nat) (w : W32) (h : Hw) : Exe :=
  if wordBad w || (decide (o = .lui) && a != 0) then .error (h, illegal w)
  else .ok (retire (h.setG t d.toNat (o.result ((h.thread t).readG a.toNat) imm)) t len)

/-- An unprefixed immediate form. -/
def immBody1 (o : ImmOp) (t : Nat) (d a : RegNum) (imm : BitVec 16) : Hw → Exe :=
  immBody o t d a (o.ext imm) 4 (wordI16 o.major d a imm)

/-- ADDI (R101). -/
def execAddi (t : Gtn) (d a : RegNum) (imm : BitVec 16) (s : State) : Host.Outcome State Fault Refusal :=
  s.onHw (issue t.val 1 (immBody1 .addi t.val d a imm))

/-- ANDI (R101). -/
def execAndi (t : Gtn) (d a : RegNum) (imm : BitVec 16) (s : State) : Host.Outcome State Fault Refusal :=
  s.onHw (issue t.val 1 (immBody1 .andi t.val d a imm))

/-- ORI (R101). -/
def execOri (t : Gtn) (d a : RegNum) (imm : BitVec 16) (s : State) : Host.Outcome State Fault Refusal :=
  s.onHw (issue t.val 1 (immBody1 .ori t.val d a imm))

/-- XORI (R101). -/
def execXori (t : Gtn) (d a : RegNum) (imm : BitVec 16) (s : State) : Host.Outcome State Fault Refusal :=
  s.onHw (issue t.val 1 (immBody1 .xori t.val d a imm))

/-- LUI (R101, R102). -/
def execLui (t : Gtn) (d a : RegNum) (imm : BitVec 16) (s : State) : Host.Outcome State Fault Refusal :=
  s.onHw (issue t.val 1 (immBody1 .lui t.val d a imm))

/-- The shift immediates by imm[15:8] and the shift amount imm[5:0]; imm[7:6] must be zero (R102). -/
def shiftImmOp (imm : BitVec 16) (a : W64) : Option W64 :=
  let n := imm.toNat
  let sh := n % 64
  if nbits n 7 6 != 0 then none else
    match n >>> 8 with
    | 0 => some (a <<< sh)
    | 1 => some (a >>> sh)
    | 2 => some (a.sshiftRight sh)
    | 3 => some (a.rotateRight sh)
    | _ => none

/-- SHIFT_IMMEDIATE at work. -/
def shiftBody (t : Nat) (d a : RegNum) (imm : BitVec 16) (h : Hw) : Exe :=
  let w := wordI16 0x07 d a imm
  match shiftImmOp imm ((h.thread t).readG a.toNat) with
  | some r => .ok (retire (h.setG t d.toNat r) t 4)
  | none => .error (h, illegal w)

/-- SHIFT_IMMEDIATE (R102). -/
def execShiftImmediate (t : Gtn) (d a : RegNum) (imm : BitVec 16) (s : State) : Host.Outcome State Fault Refusal :=
  s.onHw (issue t.val 1 (shiftBody t.val d a imm))

/-! Control transfers (R101, R102) and the training of the predictor (R70). -/

/-- A branch trains the predictor, behind an unretired load when that retires; the global history has taken its prediction and, where that was wrong, been repaired, so it holds its outcome (R70, log entry 21). -/
def trainBranch (h : Hw) (t : Nat) (k : BranchKind) (pc : W64) (taken : Bool) (target : W64) : Hw :=
  let e : PredEnt := ⟨t, (h.thread t).world, pc, k, taken, target⟩
  let h1 := if (h.openFills t).isEmpty then h.onCore (h.coreKeyOf t) (fun c => c.trainPred e)
    else h.onThread t (fun x => { x with trainq := x.trainq ++ [e] })
  h1.onThread t (fun x => { x with ghist := (2 * x.ghist + b2n taken) % 2 ^ 64 })

/-- The events of a retired control transfer (R80). -/
def ctlEvents (mispredicted : Bool) : List Nat := if mispredicted then [0x0003, 0x0004] else [0x0003]

/-- The conditions of R102. -/
def condHolds (c : Cond) (a b : W64) : Bool :=
  match c with
  | .eq => a == b
  | .ne => a != b
  | .lt => a.slt b
  | .ge => !a.slt b
  | .ltu => a.ult b
  | .geu => !a.ult b

/-- The major opcode of a conditional branch (R102). -/
def condMajor (c : Cond) : Nat :=
  match c with
  | .eq => 0x18
  | .ne => 0x19
  | .lt => 0x1A
  | .ge => 0x1B
  | .ltu => 0x1C
  | .geu => 0x1D

/-- A branch offset in words from the branch's own PC (R101). -/
def branchTarget {n : Nat} (pc : W64) (off : BitVec n) : W64 := pc + (off.signExtend 64 <<< 2)

/-- BRANCH at work. -/
def branchBody (t : Nat) (c : Cond) (a b : RegNum) (off : BitVec 16) (mispredicted : Bool) (h : Hw) : Exe :=
  let x := h.thread t
  let taken := condHolds c (x.readG a.toNat) (x.readG b.toNat)
  let target := branchTarget x.pc off
  let h1 := trainBranch h t .cond x.pc taken target
  .ok (retireTo h1 t (if taken then target else x.pc + 4) (ctlEvents mispredicted))

/-- BRANCH (R101, R102). -/
def execBranch (t : Gtn) (c : Cond) (a b : RegNum) (off : BitVec 16) (mispredicted : Bool) (s : State) :
    Host.Outcome State Fault Refusal :=
  s.onHw (issue t.val 1 (branchBody t.val c a b off mispredicted))

/-- JAL at work: the link address goes to g31 and to the return stack (R70, R101). -/
def jalBody (t : Nat) (off : BitVec 26) (mispredicted : Bool) (h : Hw) : Exe :=
  let pc := (h.thread t).pc
  let target := branchTarget pc off
  let h1 := (trainBranch h t .direct pc true target).onThread t (fun x => { x with retStack := (pc + 4) :: x.retStack })
  .ok (retireTo (h1.setG t 31 (pc + 4)) t target (ctlEvents mispredicted))

/-- JAL (R101). -/
def execJal (t : Gtn) (off : BitVec 26) (mispredicted : Bool) (s : State) : Host.Outcome State Fault Refusal :=
  s.onHw (issue t.val 1 (jalBody t.val off mispredicted))

/-- JALR at work with its extended immediate; the target's bits [1:0] are cleared, and g[a] is read before g[d] is written (R101). A JALR through g31 to g0 takes an entry off the return stack. -/
def jalrBody (t : Nat) (d a : RegNum) (imm : W64) (len : Nat) (mispredicted : Bool) (h : Hw) : Exe :=
  let x := h.thread t
  let target := (x.readG a.toNat + imm) &&& ~~~3
  let h1 := (trainBranch h t .indirect x.pc true target).onThread t (fun x =>
    if a.toNat = 31 ∧ d = 0 then { x with retStack := x.retStack.drop 1 } else x)
  .ok (retireTo (h1.setG t d.toNat (x.pc + BitVec.ofNat 64 len)) t target (ctlEvents mispredicted))

/-- JALR (R101). -/
def execJalr (t : Gtn) (d a : RegNum) (imm : BitVec 16) (mispredicted : Bool) (s : State) : Host.Outcome State Fault Refusal :=
  s.onHw (issue t.val 1 (jalrBody t.val d a (imm.signExtend 64) 4 mispredicted))

/-! Helpers (R118, R119); the Skim-2 instructions of the same names share them. -/

/-- CRC over 1, 2, 4 or 8 bytes of a word (R118). -/
def crcOp (size : BitVec 2) (acc b : W64) : W64 :=
  (crcBytes (acc.setWidth 32) (toBytes (2 ^ size.toNat) b.toNat)).zeroExtend 64

/-- The bits of each byte reversed, the byte order kept (R118). -/
def brev8Op (a : W64) : W64 :=
  BitVec.ofNat 64 (ofBytes ((toBytes 8 a.toNat).map (fun b => BitVec.ofNat 8 (revBits 8 b.toNat))))

/-- The unary helpers of R118. -/
inductive Helper where
  | par | popc | brev8 | brev64 | clz | ctz
  deriving DecidableEq, Repr

/-- The func of a helper (R118). -/
def Helper.func : Helper → Nat
  | .par => 0x010
  | .popc => 0x011
  | .brev8 => 0x012
  | .brev64 => 0x013
  | .clz => 0x014
  | .ctz => 0x015

/-- The result of a helper (R118). -/
def Helper.result (k : Helper) (a : W64) : W64 :=
  match k with
  | .par => BitVec.ofNat 64 (popCount 64 a.toNat % 2)
  | .popc => BitVec.ofNat 64 (popCount 64 a.toNat)
  | .brev8 => brev8Op a
  | .brev64 => BitVec.ofNat 64 (revBits 64 a.toNat)
  | .clz => BitVec.ofNat 64 (clzN 64 a.toNat)
  | .ctz => BitVec.ofNat 64 (ctzN 64 a.toNat)

/-- A helper at work; its b field must be 0 (R99, R118). -/
def helperBody (k : Helper) (t : Nat) (d a b : RegNum) (h : Hw) : Exe :=
  if b != 0 then .error (h, illegal (wordR3 0x32 d a b k.func))
  else .ok (retire (h.setG t d.toNat (k.result ((h.thread t).readG a.toNat))) t 4)

/-- PAR (R118). -/
def execPar (t : Gtn) (d a b : RegNum) (s : State) : Host.Outcome State Fault Refusal :=
  s.onHw (issue t.val 1 (helperBody .par t.val d a b))

/-- POPC (R118). -/
def execPopc (t : Gtn) (d a b : RegNum) (s : State) : Host.Outcome State Fault Refusal :=
  s.onHw (issue t.val 1 (helperBody .popc t.val d a b))

/-- BREV8 (R118). -/
def execBrev8 (t : Gtn) (d a b : RegNum) (s : State) : Host.Outcome State Fault Refusal :=
  s.onHw (issue t.val 1 (helperBody .brev8 t.val d a b))

/-- BREV64 (R118). -/
def execBrev64 (t : Gtn) (d a b : RegNum) (s : State) : Host.Outcome State Fault Refusal :=
  s.onHw (issue t.val 1 (helperBody .brev64 t.val d a b))

/-- CLZ (R118). -/
def execClz (t : Gtn) (d a b : RegNum) (s : State) : Host.Outcome State Fault Refusal :=
  s.onHw (issue t.val 1 (helperBody .clz t.val d a b))

/-- CTZ (R118). -/
def execCtz (t : Gtn) (d a b : RegNum) (s : State) : Host.Outcome State Fault Refusal :=
  s.onHw (issue t.val 1 (helperBody .ctz t.val d a b))

/-- CRC32C at work (R118, R119). -/
def crcBody (t : Nat) (d a b : RegNum) (size : BitVec 2) (h : Hw) : Exe :=
  let x := h.thread t
  .ok (retire (h.setG t d.toNat (crcOp size (x.readG a.toNat) (x.readG b.toNat))) t 4)

/-- CRC32C (R118, R119). -/
def execCrc32c (t : Gtn) (d a b : RegNum) (size : BitVec 2) (s : State) : Host.Outcome State Fault Refusal :=
  s.onHw (issue t.val 1 (crcBody t.val d a b size))

end Sys2Proof.Machine
end

