-- ==== Sys2Proof/Machine/Lanes.lean ====
section
/-! DEFINITION. Vector registers as lanes and predicates as lane masks (spec/03_askist_instruction_set.md R87, R88; the Skim-2 lanes of spec/10_skim_programming.md share them). -/

namespace Sys2Proof.Machine

/-- The number of lanes of `e` bytes (R87). -/
def laneCount (e : Nat) : Nat := 64 / e

/-- Lane `i` of a vector register with lanes of `e` bytes (R87). -/
def lane (e : Nat) (v : V512) (i : Nat) : Nat := (v.toNat >>> (8 * e * i)) % 2 ^ (8 * e)

/-- A vector register from its lanes, lane 0 first. -/
def ofLanes (e : Nat) : List Nat → Nat
  | [] => 0
  | x :: r => x % 2 ^ (8 * e) + (ofLanes e r <<< (8 * e))

/-- A vector register whose lane `i` is `f i`. -/
def mkLanes (e : Nat) (f : Nat → Nat) : V512 := BitVec.ofNat 512 (ofLanes e ((List.range (laneCount e)).map f))

/-- A lane is active under a predicate: bit i * e (R87). -/
def laneActive (e : Nat) (p : W64) (i : Nat) : Bool := p.getLsbD (i * e)

/-- A result of lanes under a predicate: an inactive lane keeps the old value, or becomes zero when Z is 1 (R88). -/
def maskLanes (e : Nat) (p : W64) (z : Bool) (old : V512) (f : Nat → Nat) : V512 :=
  mkLanes e (fun i => if laneActive e p i then f i else if z then 0 else lane e old i)

/-- A predicate whose bits in every lane are the lane's result; an inactive lane gives 0 (R87, R88). -/
def mkPred (e : Nat) (p : W64) (f : Nat → Bool) : W64 :=
  BitVec.ofNat 64 (ofLanes 1 ((List.range 8).map (fun byte =>
    (List.range 8).foldl (fun acc b =>
      let i := (8 * byte + b) / e
      acc + (b2n (laneActive e p i && f i) <<< b)) 0)))

/-- A lane as a signed number. -/
def laneS (e x : Nat) : Int := if x < 2 ^ (8 * e - 1) then x else (x : Int) - 2 ^ (8 * e)

/-- The active lanes, in ascending order. -/
def activeLanes (e : Nat) (p : W64) : List Nat := (List.range (laneCount e)).filter (laneActive e p)

end Sys2Proof.Machine
end

