-- ==== Sys2Proof/Machine/AskistVec.lean ====
section
/-! DEFINITION. Vector arithmetic, compares, permutes and predicate logic (spec/03_askist_instruction_set.md R87, R88, R102, R107, R109). -/

namespace Sys2Proof.Machine

/-- The element size in bytes of an esize code (R98). -/
def eBytes (v : VFields) : Nat := 2 ^ v.esize.toNat

/-- The checks every vector instruction passes first: the illegal cases, then VEN (R99, R107, R155). -/
def vecGuard (bad : Bool) (w : W32) (t : Nat) (h : Hw) (k : Hw → Exe) : Exe :=
  if bad then .error (h, illegal w)
  else if !(h.thread t).ven then .error (h, vecDisabled w)
  else k h

/-- The integer vector operations of R107. -/
def vaddOp (e func : Nat) (a b : Nat) : Option Nat :=
  match func with
  | 0x00 => some ((a + b) % 2 ^ (8 * e))
  | 0x01 => some ((a + 2 ^ (8 * e) - b) % 2 ^ (8 * e))
  | 0x02 => some (a &&& b)
  | 0x03 => some (a ||| b)
  | 0x04 => some (a ^^^ b)
  | 0x08 => some ((a * b) % 2 ^ (8 * e))
  | 0x0C => some (if laneS e a ≤ laneS e b then a else b)
  | 0x0D => some (if laneS e a ≤ laneS e b then b else a)
  | 0x0E => some (min a b)
  | 0x0F => some (max a b)
  | _ => none

/-- The floating-point vector operations of R107. -/
def vfpOp (func : Nat) : Option FOp :=
  match func with
  | 0x10 => some .add
  | 0x11 => some .sub
  | 0x12 => some .mul
  | 0x13 => some .fma
  | 0x14 => some .div
  | 0x15 => some .min
  | 0x16 => some .max
  | _ => none

/-- A word of major 0x20 at work: integer or floating point by its func; only active lanes compute or set flags (R88, R107). -/
def vec20Body (t : Nat) (v : VFields) (func : BitVec 5) (h : Hw) : Exe :=
  let w := wordV 0x20 v func
  let n := func.toNat
  let e := eBytes v
  match vfpOp n with
  | some o =>
    vecGuard (decide (e = 1)) w t h (fun h =>
      let x := h.thread t
      let p := x.readP v.pred.toNat
      let a := x.readV v.a.toNat
      let b := x.readV v.b.toNat
      let d := x.readV v.d.toNat
      let f := fmtOf v.esize.toNat
      let c := fctlOf x.fpcsr
      let res (i : Nat) : Nat × FFlags := o.run f c (lane e a i) (lane e b i) (lane e d i)
      let flags := (activeLanes e p).foldl (fun fl i => fl.or (res i).2) {}
      let r := maskLanes e p v.z d (fun i => (res i).1)
      .ok (retire ((h.onThread t (fun x => x.writeV v.d.toNat r)).addFlags t flags) t 4))
  | none =>
    vecGuard (vaddOp e n 0 0).isNone w t h (fun h =>
      let x := h.thread t
      let a := x.readV v.a.toNat
      let b := x.readV v.b.toNat
      let r := maskLanes e (x.readP v.pred.toNat) v.z (x.readV v.d.toNat)
        (fun i => (vaddOp e n (lane e a i) (lane e b i)).getD 0)
      .ok (retire (h.onThread t (fun x => x.writeV v.d.toNat r)) t 4))

/-- VECTOR_ALU (R107). -/
def execVectorAlu (t : Gtn) (v : VFields) (func : BitVec 5) (s : State) : Host.Outcome State Fault Refusal :=
  s.onHw (issue t.val 1 (vec20Body t.val v func))

/-- VECTOR_FP (R107). -/
def execVectorFp (t : Gtn) (v : VFields) (func : BitVec 5) (s : State) : Host.Outcome State Fault Refusal :=
  s.onHw (issue t.val 1 (vec20Body t.val v func))

/-- The integer compares of PCOMP (R107). -/
def pcompInt (e func : Nat) (a b : Nat) : Option Bool :=
  match func with
  | 0x00 => some (a == b)
  | 0x01 => some (a != b)
  | 0x02 => some (decide (laneS e a < laneS e b))
  | 0x03 => some (decide (a < b))
  | 0x04 => some (decide (laneS e a ≤ laneS e b))
  | 0x05 => some (decide (a ≤ b))
  | _ => none

/-- The floating compares of PCOMP (R107); their NV rules are those of FCMP (R683, log entry 9). -/
def pcompFp (func : Nat) : Option FCmpOp :=
  match func with
  | 0x08 => some .eq
  | 0x09 => some .lt
  | 0x0A => some .le
  | 0x0B => some .unord
  | _ => none

/-- PCOMP at work: bits [25:24] must be zero and bits [23:21] name pd (R98). -/
def pcompBody (t : Nat) (v : VFields) (func : BitVec 5) (h : Hw) : Exe :=
  let w := wordV 0x22 v func
  let n := func.toNat
  let e := eBytes v
  let bad := decide (8 ≤ v.d.toNat) ||
    (match pcompFp n with
     | some _ => decide (e = 1)
     | none => (pcompInt e n 0 0).isNone)
  vecGuard bad w t h (fun h =>
    let x := h.thread t
    let p := x.readP v.pred.toNat
    let a := x.readV v.a.toNat
    let b := x.readV v.b.toNat
    let res (i : Nat) : Bool × FFlags :=
      match pcompFp n with
      | some o => o.run (fmtOf v.esize.toNat) (lane e a i) (lane e b i)
      | none => ((pcompInt e n (lane e a i) (lane e b i)).getD false, {})
    let flags := (activeLanes e p).foldl (fun fl i => fl.or (res i).2) {}
    let r := mkPred e p (fun i => (res i).1)
    .ok (retire ((h.onThread t (fun x => x.writeP v.d.toNat r)).addFlags t flags) t 4))

/-- PCOMP (R107, R88). -/
def execPcomp (t : Gtn) (v : VFields) (func : BitVec 5) (s : State) : Host.Outcome State Fault Refusal :=
  s.onHw (issue t.val 1 (pcompBody t.val v func))

/-! Permutes (R109). -/

/-- The permutes of major 0x24. -/
inductive VPerm where
  | compress | expand | bcast | extract | insert
  deriving DecidableEq, Repr

/-- The func of a permute (R107). -/
def VPerm.func : VPerm → BitVec 5
  | .compress => 0
  | .expand => 1
  | .bcast => 2
  | .extract => 3
  | .insert => 4

/-- The number of active lanes below lane `i`. -/
def activeBelow (e : Nat) (p : W64) (i : Nat) : Nat := ((List.range i).filter (laneActive e p)).length

/-- VCOMPRESS: the active lanes of `a` in the lowest lanes (R109). -/
def compressLanes (e : Nat) (p : W64) (z : Bool) (a d : V512) : V512 :=
  let l := activeLanes e p
  mkLanes e (fun i => match l[i]? with
    | some j => lane e a j
    | none => if z then 0 else lane e d i)

/-- VEXPAND: consecutive low lanes of `a` in the active lanes (R109). -/
def expandLanes (e : Nat) (p : W64) (z : Bool) (a d : V512) : V512 :=
  maskLanes e p z d (fun i => lane e a (activeBelow e p i))

/-- A permute at work. -/
def permBody (k : VPerm) (t : Nat) (v : VFields) (h : Hw) : Exe :=
  let w := wordV 0x24 v k.func
  let e := eBytes v
  let bad := (decide (k = .extract ∨ k = .insert)) && v.pred != 0
  vecGuard bad w t h (fun h =>
    let x := h.thread t
    let p := x.readP v.pred.toNat
    let a := x.readV v.a.toNat
    let d := x.readV v.d.toNat
    let ga := (x.readG v.a.toNat).toNat
    let gi := (x.readG v.b.toNat).toNat % laneCount e
    let h1 := match k with
      | .compress => h.onThread t (fun x => x.writeV v.d.toNat (compressLanes e p v.z a d))
      | .expand => h.onThread t (fun x => x.writeV v.d.toNat (expandLanes e p v.z a d))
      | .bcast => h.onThread t (fun x => x.writeV v.d.toNat (maskLanes e p v.z d (fun _ => ga)))
      | .extract => h.setG t v.d.toNat (BitVec.ofNat 64 (lane e a gi))
      | .insert => h.onThread t (fun x => x.writeV v.d.toNat (mkLanes e (fun i => if i = gi then ga else lane e d i)))
    .ok (retire h1 t 4))

/-- VCOMPRESS (R109). -/
def execVcompress (t : Gtn) (v : VFields) (s : State) : Host.Outcome State Fault Refusal :=
  s.onHw (issue t.val 1 (permBody .compress t.val v))

/-- VEXPAND (R109). -/
def execVexpand (t : Gtn) (v : VFields) (s : State) : Host.Outcome State Fault Refusal :=
  s.onHw (issue t.val 1 (permBody .expand t.val v))

/-- VBCAST (R109). -/
def execVbcast (t : Gtn) (v : VFields) (s : State) : Host.Outcome State Fault Refusal :=
  s.onHw (issue t.val 1 (permBody .bcast t.val v))

/-- VEXTRACT (R109). -/
def execVextract (t : Gtn) (v : VFields) (s : State) : Host.Outcome State Fault Refusal :=
  s.onHw (issue t.val 1 (permBody .extract t.val v))

/-- VINSERT (R109). -/
def execVinsert (t : Gtn) (v : VFields) (s : State) : Host.Outcome State Fault Refusal :=
  s.onHw (issue t.val 1 (permBody .insert t.val v))

/-! Predicate logic (R102). -/

/-- Predicate logic at work: bits [25:24], [20:19] and [15:14] must be zero; PNOT has no b field. -/
def predBody (func : Nat) (op : W64 → W64 → W64) (t : Nat) (d a b : RegNum) (h : Hw) : Exe :=
  let w := wordR3 0x25 d a b func
  let bad := decide (8 ≤ d.toNat) || decide (8 ≤ a.toNat) || decide (8 ≤ b.toNat) || (func == 3 && b != 0)
  vecGuard bad w t h (fun h =>
    let x := h.thread t
    .ok (retire (h.onThread t (fun y => y.writeP d.toNat (op (x.readP a.toNat) (x.readP b.toNat)))) t 4))

/-- PAND (R102). -/
def execPand (t : Gtn) (d a b : RegNum) (s : State) : Host.Outcome State Fault Refusal :=
  s.onHw (issue t.val 1 (predBody 0 (· &&& ·) t.val d a b))

/-- POR (R102). -/
def execPor (t : Gtn) (d a b : RegNum) (s : State) : Host.Outcome State Fault Refusal :=
  s.onHw (issue t.val 1 (predBody 1 (· ||| ·) t.val d a b))

/-- PXOR (R102). -/
def execPxor (t : Gtn) (d a b : RegNum) (s : State) : Host.Outcome State Fault Refusal :=
  s.onHw (issue t.val 1 (predBody 2 (· ^^^ ·) t.val d a b))

/-- PNOT (R102). -/
def execPnot (t : Gtn) (d a b : RegNum) (s : State) : Host.Outcome State Fault Refusal :=
  s.onHw (issue t.val 1 (predBody 3 (fun p _ => ~~~p) t.val d a b))

end Sys2Proof.Machine
end

