-- ==== Sys2Proof/Machine/Access.lean ====
section
/-! DEFINITION. How the loads and stores of a thread reach memory: its own waiting stores, the caches and fill buffers, reads of N-NC memory, the store queue and the write-combining buffers (spec/02_askist_core.md R37, R45 to R65; spec/06_memory_ordering.md R211 to R228). -/

namespace Sys2Proof.Machine

/-- The sibling thread holds a line of the access (R240). -/
def siblingHolds (h : Hw) (t : Nat) (ps : List MemPart) : Bool :=
  ps.any (fun p => (h.thread (sibling t)).hold == some (lineOf p.pa))

/-- What is done only when settled (R60): it waits while a load of the thread is open. -/
def whenSettled (t : Nat) (h : Hw) (k : Hw → Exe) : Exe := if (h.openFills t).isEmpty then k h else .error (h, notNow)

/-- A part of an access that follows the rules of N-WB memory, or of N-NC memory (R227). -/
def MemPart.isWb (p : MemPart) : Bool := p.mt == 0

/-- As `isWb`, of N-NC memory. -/
def MemPart.isNc (p : MemPart) : Bool := p.mt == 1

/-! Loads. -/

/-- The thread reads its own waiting store of a byte (R214, R215). -/
def forwarded (h : Hw) (t a : Nat) : Bool :=
  (h.thread t).sq.any (fun e => e.1 == a) ||
  (h.core (h.coreKeyOf t)).wcbs.any (fun w => w.thread == t && w.bytes.any (fun e => e.1 == a))

/-- The die may still hold the line although its home has given it up (R281). -/
def Hw.lineStale (h : Hw) (t line : Nat) : Bool := has (h.cdie (dieOfThread t)).stale line

/-- Bytes that a thread loads, each at its address; a byte of a line that the home has given up under the die is a free value (R281, log entry 4). -/
def loadBytes (t : Nat) : Nat → Nat → Hw → Hw × List Byte
  | _, 0, h => (h, [])
  | a, n + 1, h =>
    let (h1, b) : Hw × Byte :=
      if h.lineStale t (lineOf a) && !forwarded h t a then (let r := h.fresh 8; (r.2, r.1)) else (h, ownByte h t a)
    let (h2, l) := loadBytes t (a + 1) n h1
    (h2, b :: l)

/-- The bytes of the parts of an access, each with its virtual address. -/
def loadPieces (t : Nat) : List MemPart → Hw → Hw × List (Nat × Byte)
  | [], h => (h, [])
  | p :: r, h =>
    let (h1, l) := loadBytes t p.pa p.len h
    let (h2, m) := loadPieces t r h1
    (h2, (l.zipIdx.map (fun e => ((p.va + BitVec.ofNat 64 e.2).toNat, e.1))) ++ m)

/-- The number at a virtual address among loaded bytes. -/
def numAt (m : List (Nat × Byte)) (va : W64) (n : Nat) : Nat :=
  ofBytes ((List.range n).map (fun i => look 0 m (va + BitVec.ofNat 64 i).toNat))

/-- The bytes that a provisional entry is validated against (R56): those that memory supplied. -/
def usedBytes (h : Hw) (t : Nat) (p : MemPart) : List (Nat × Byte) :=
  if h.lineStale t (lineOf p.pa) then []
  else ((List.range p.len).map (fun i => p.pa + i)).filterMap (fun a => if forwarded h t a then none else some (a, h.byte a))

/-- The fill entry that a load of a line uses. -/
def loadEnt (h : Hw) (t : Nat) (p : MemPart) (st : Bool) (u : FillUse) : FillEnt :=
  let line := lineOf p.pa
  let hit := if h.inL1 t line false then 1 else if h.inL2 t line then 2 else 0
  { line := line, vset := wbits p.va 12 6, thread := t, fetch := false, settled := st || hit != 0, inFlight := false, hit := hit, valid := hit != 0,
    uses := [{ u with bytes := if hit = 0 then usedBytes h t p else [] }] }

/-- A load's effect on the caches, for one line of N-WB memory, with the thread as it was before it: a hit is recorded, and updates the replacement state when the load retires, at once if no older load is open (R59); a miss enters the speculative fill buffer as a settled or a provisional read (R51, R54). -/
def loadTouch (t : Nat) (st : Bool) (snap : Thread) (p : MemPart) (h : Hw) : Hw :=
  let u : FillUse := { seq := snap.lseq, pc := snap.pc, snap := some snap }
  let e := loadEnt h t p st u
  match (h.core (h.coreKeyOf t)).fills.find? (fun f => e.same f) with
  | some _ => h.setFill e (fun f => { f with valid := f.valid && f.hit != 0, uses := f.uses ++ [{ u with bytes := if f.hit = 0 then usedBytes h t p else [] }] })
  | none =>
    if e.hit = 0 then h.addFill e
    else if (h.openFills t).isEmpty then h.retireUse e { u with snap := none }
    else h.onCore (h.coreKeyOf t) (fun c => { c with fills := c.fills ++ [e] })

/-- The events of a load of one line (R80): a miss of L1 data, of L2 and of the die cache, and a provisional entry consumed. -/
def lineEvents (t : Nat) (st : Bool) (p : MemPart) (h : Hw) : List Nat :=
  let e := loadEnt h t p st { seq := 0 }
  match (h.core (h.coreKeyOf t)).fills.find? (fun f => e.same f) with
  | some f => if f.hit = 1 then [] else if f.hit = 2 then [0x0010] else [0x0010, 0x0011] ++ (if f.inFlight then [0x0012] else []) ++ (if f.settled then [] else [0x0013])
  | none =>
    if e.hit = 1 then [] else if e.hit = 2 then [0x0010]
    else [0x0010, 0x0011] ++ (if h.sliceHas (dieOfThread t) e.line then [] else [0x0012]) ++ (if st then [] else [0x0013])

/-- The effects of the parts of a load: N-NC memory allocates nothing (R175, R227). -/
def loadParts (t : Nat) (st : Bool) (snap : Thread) (ps : List MemPart) (h : Hw) : Hw :=
  (ps.filter (·.isWb)).foldl (fun (h : Hw) p => loadTouch t st snap p h) h

/-- The lines of N-NC memory of a load whose data has not come. -/
def ncMissing (h : Hw) (t : Nat) (ps : List MemPart) : List Nat :=
  ((ps.filter (·.isNc)).map (fun p => lineOf p.pa)).filter (fun l => !(h.thread t).ncHas l)

/-- A load that reads N-NC memory is sent when it is settled, and waits for the home's answer (R60, R175). -/
def ncGate (t : Nat) (ps : List MemPart) (h : Hw) (k : Hw → Exe) : Exe :=
  if !ps.any (·.isNc) then k h
  else whenSettled t h (fun h =>
    match ncMissing h t ps with
    | [] => k h
    | ls => .error (ls.foldl (fun (h : Hw) l => h.ncAsk t l) h, notNow))

/-- The events of a load, each once (R80). -/
def loadEvents (t : Nat) (st : Bool) (ps : List MemPart) (h : Hw) : List Nat :=
  ((ps.filter (·.isWb)).flatMap (fun p => lineEvents t st p h)).eraseDups

/-- The lines of a load that need an entry of the fill buffer. -/
def newLines (h : Hw) (t : Nat) (ps : List MemPart) : List MemPart :=
  ps.filter (fun p => p.isWb && !h.coreHas t (lineOf p.pa) false &&
    !(h.core (h.coreKeyOf t)).fills.any (fun f => f.thread == t && f.line == lineOf p.pa && !f.fetch && !f.walk))

/-- The load's read is deferred at the slice (R52, R54): it waits until it is settled. -/
def Hw.deferLoad (h : Hw) (t line : Nat) (settled : Bool) : Hw :=
  (((h.sliceLookup (dieOfThread t) ((h.pcoreOf t).getD 0) line (h.thread t).world).countDie (dieOfThread t) (dcSlice line) 0x0107 (h.thread t).world).count t 0x0015).onThread t
    (fun x => { x with deferred := some (line, settled) })

/-- A load of N-WB memory goes on, with whether its reads are settled; it waits for room and tokens (R37, R45, R47), in settle-only mode until it is settled (R65), and after a defer (R52, R54). A line that only a check-stopped core held has no data (R78). -/
def loadGate (t : Nat) (settled : Bool) (ps : List MemPart) (h : Hw) (k : Bool → Hw → Exe) : Exe :=
  let st := settled && h.olderValid t
  let news := newLines h t ps
  let waits := ps.any (fun p => has (h.cdie (dieOfThread t)).lost (lineOf p.pa)) || (!st && !news.isEmpty && h.settleOnly t)
  if waits then .error (h, notNow)
  else match (if st then none else news.find? (fun p => h.sliceDefers t (lineOf p.pa))) with
    | some p => .error (h.deferLoad t (lineOf p.pa) settled, notNow)
    | none =>
      if h.loadRoom t && news.all (fun p => h.fillRoom t false && h.missRoom t false && h.sliceToken t (lineOf p.pa)) then k st h else .error (h, notNow)

/-! Stores (R214, R228). -/

/-- The thread's own store to the line of its reservation loses it (R237). -/
def Hw.dropOwn (h : Hw) (t line : Nat) : Hw :=
  h.onThread t (fun x => match x.resv with
    | some r => if r.line = line then { x with resv := none } else x
    | none => x)

/-- A store of N-WB memory to one line (R60, R214): performed at once while the die owns the line; otherwise it waits in the store queue, and ownership is requested. -/
def storeWb (t pa vset : Nat) (bs : List Byte) (h0 : Hw) : Hw :=
  let line := lineOf pa
  let die := dieOfThread t
  let p := (h0.pcoreOf t).getD 0
  let h1 := h0.dropOwn t line
  let w := (h1.thread t).world
  let h := if h1.l2State die p line == .M || h1.l2State die p line == .E then h1 else h1.sliceLookup die p line w
  let st := h.dieState die line
  let cells := cellsAt pa bs
  if h.dieOwns die line && ((h.thread t).sqLine line).isEmpty && !has (h.cdie die).lost line then h.storeOwned t line vset cells
  else
    let h2 := h.onThread t (fun x => { x with sq := x.sq ++ cells, sqe := x.sqe ++ [(line, vset)] })
    if h.dieOwns die line then h2
    else h2.dieRequest (if st == .S || st == .F then .UPG else .RDO) die p line (h.partOf t) w

/-- A store of N-NC memory to one line (R228): it merges in the buffer that its thread has for the line in its world; when 8 buffers of the core are taken, the oldest is written first. A full buffer is written. -/
def storeNc (t pa : Nat) (bs : List Byte) (h0 : Hw) : Hw :=
  let line := lineOf pa
  let key := h0.coreKeyOf t
  let h := h0.dropOwn t line
  let w := (h.thread t).world
  let put (h : Hw) (b : WcBuf) : Hw :=
    let h1 := h.onCore key (fun c => { c with wcbs := c.wcbs ++ [b] })
    if b.full then h1.wcFlushOne key b else h1
  match takeFirst (fun w' : WcBuf => w'.line == line && w'.thread == t && w'.world == w && !w'.sent) (h.core key).wcbs with
  | some (b, r) => put (h.onCore key (fun c => { c with wcbs := r })) { b with bytes := b.bytes ++ cellsAt pa bs }
  | none =>
    let used := (h.core key).wcbs.filter (fun b => !b.sent)
    let h1 := match used with
      | [] => h
      | b :: _ => if 8 ≤ used.length then h.wcFlushOne key b else h
    put h1 ⟨line, t, w, cellsAt pa bs, false⟩

/-- A store's effect for one part. -/
def storePart (t : Nat) (p : MemPart) (bs : List Byte) (h : Hw) : Hw :=
  if p.isWb then storeWb t p.pa (wbits p.va 12 6) bs h else storeNc t p.pa bs h

/-- The bytes of an access stored, part by part. -/
def storeParts (t : Nat) : List MemPart → List Byte → Hw → Hw
  | [], _, h => h
  | p :: r, bs, h => storeParts t r (bs.drop p.len) (storePart t p (bs.take p.len) h)

/-- The thread's own write-combining buffers for a line. -/
def Hw.wcOf (h : Hw) (t line : Nat) : List WcBuf := (h.core (h.coreKeyOf t)).wcbs.filter (fun w => w.thread == t && w.line == line)

/-- Older stores of the thread to the same lines wait in the other place (R215): those of N-NC memory in its buffers, those of N-WB memory in its queue. -/
def aliasWaits (h : Hw) (t : Nat) (ps : List MemPart) : Bool :=
  ps.any (fun p => if p.isWb then !(h.wcOf t (lineOf p.pa)).isEmpty else p.isNc && !((h.thread t).sqLine (lineOf p.pa)).isEmpty)

/-- The thread's buffers for the lines of N-WB parts are written. -/
def aliasFlush (h : Hw) (t : Nat) (ps : List MemPart) : Hw :=
  ((ps.filter (·.isWb)).flatMap (fun p => h.wcOf t (lineOf p.pa))).foldl (fun (h : Hw) b => h.wcFlushOne (h.coreKeyOf t) b) h

/-- A store goes on when its sibling's hold lets it (R240), the store queue has room (R37), and no older store of its own to the same line waits in the other place (R215). -/
def storeGate (t : Nat) (ps : List MemPart) (h : Hw) (k : Hw → Exe) : Exe :=
  if siblingHolds h t ps || !h.storeRoom t (ps.filter (·.isWb)).length then .error (h, notNow)
  else if aliasWaits h t ps then .error (aliasFlush h t ps, notNow)
  else k h

/-! Settled accesses that retire with their own step: a chunk of a long instruction, and a lane of a device access. -/

/-- A line that a chunk loads: a settled load that retires with its chunk, so a miss is installed when its data is here (R57, R113). -/
def chunkTouch (t : Nat) (p : MemPart) (h : Hw) : Hw :=
  let u : FillUse := { seq := 0, pc := (h.thread t).pc }
  let e := loadEnt h t p true u
  if (h.core (h.coreKeyOf t)).fills.any (fun f => e.same f) then h
  else if e.hit ≠ 0 then h.retireUse e u
  else
    let h1 := h.addFill { e with uses := [] }
    match (h1.core (h1.coreKeyOf t)).fills.find? (fun f => e.same f) with
    | some f => if f.inFlight then h1 else h1.retireUse f u
    | none => h1

/-- The checked bytes of a chunk are loaded: the bytes, with the loads' effects on the caches and their events; the reads of N-NC memory are used up. -/
def chunkLoad (t : Nat) (ps : List MemPart) (h : Hw) : Hw × List Byte :=
  let (h1, m) := loadPieces t ps h
  (((ps.filter (·.isWb)).foldl (fun (h : Hw) p => chunkTouch t p h) (h1.counts t (loadEvents t true ps h1))).onThread t (fun x => { x with ncReads := [] }), m.map (·.2))

/-- Such a load waits for room and tokens (R37, R45, R47), and has no data of a line that only a check-stopped core held (R78). -/
def chunkWaits (h : Hw) (t : Nat) (ps : List MemPart) : Bool :=
  (newLines h t ps).any (fun p => !h.fillRoom t false || !h.missRoom t false || !h.sliceToken t (lineOf p.pa)) ||
    ps.any (fun p => has (h.cdie (dieOfThread t)).lost (lineOf p.pa))

/-- Parts that are loaded and parts that are stored go on together. -/
def chunkGate (t : Nat) (ld st : List MemPart) (h : Hw) (k : Hw → Exe) : Exe :=
  if siblingHolds h t ld || chunkWaits h t ld then .error (h, notNow)
  else ncGate t ld h (fun h => storeGate t st h k)

end Sys2Proof.Machine
end

