-- ==== Sys2Proof/Machine/Device.lean ====
section
/-! DEFINITION. Accesses of threads to the ports: completions, posted acknowledgements, timeouts and links that go down (spec/06_memory_ordering.md R228 to R235; spec/05_address_translation.md R178; spec/11_fabric.md R455). -/

namespace Sys2Proof.Machine

/-! The MMIO windows (R178). -/

/-- The address lies in the configuration space of its port. -/
def isConfig (pa : Nat) : Bool := decide ((pa - mmioBase) % 2 ^ 41 < 0x10000000)

/-- The address names bus 0, where only device 0 function 0 is present; the Boolean says that it is the root port. -/
def busZero (pa : Nat) : Option Bool :=
  let off := (pa - mmioBase) % 2 ^ 41
  if isConfig pa && decide (off / 0x100000 = 0) then some (decide (off / 0x1000 % 256 = 0)) else none

/-- The port is another than the first of a joined group. -/
def Hw.joinedOther (h : Hw) (n : Nat) : Bool := h.commit.joined.any (fun g => decide (g.1 < n) && decide (n < g.1 + g.2))

/-! Records and failures (R232 to R234). -/

/-- A port's source is raised to its owner (R610, R632). -/
def Hw.portRaise (h : Hw) (n : Nat) : Hw := h.raise { source := 0x1C8 + n, part := look 0 h.portOwner n }

/-- A device error is recorded by the port die and raises the port's source (R232, R610, R620). -/
def Hw.devRecord (h : Hw) (n t pa cls : Nat) : Hw :=
  (h.ras (0x10 + n / 16) 0 { code := 0x30, sev := 2, addr := pa, detail := cls, part := h.partOf t, thread := t, unit := n % 16 }).portRaise n

/-- A D-S access or a load ends with a class of R232 (R234). -/
def Hw.devFail (h : Hw) (t cls : Nat) : Hw :=
  match (h.thread t).devOpen with
  | some w => (h.devRecord w.port t w.addr cls).devTrap t { code := 0x20, detail := cls, tval := BitVec.ofNat 64 w.addr }
  | none => h

/-! Sending. -/

/-- A port's slots for core accesses go to the requests that wait for one (R439, R440). -/
def Hw.portPump (h : Hw) (n : Nat) : Hw := h.grantToks h.treqs.length (Agent.port n).stop

/-- The response slot of an agent's access, which its answer returns (R433). -/
def Hw.rspOf (h : Hw) (a : Agent) (pa : Nat) : Nat :=
  ((h.rsps.find? (fun r => r.agent == a && decide (r.line = pa))).map (·.txid)).getD 0

/-- A device access is sent to its port (R434). -/
def Hw.devSend (h : Hw) (t : Nat) (w : DevWait) : Hw :=
  (h.onThread t (fun x => { x with dev := some w })).send
    { op := if w.posted then .POSTWR else if w.write then .REGWR else .REGRD, addr := w.addr, agent := h.threadAgent t,
      part := h.partOf t, world := (h.thread t).world, info := t }

/-- The packet of the access is still on its way. -/
def Hw.devFlying (h : Hw) (t : Nat) (w : DevWait) : Bool :=
  (h.msgs ++ h.tokWait ++ h.sleepers.map (·.msg)).any (fun m => decide (m.addr = w.addr ∧ m.info = t) && [MsgOp.POSTWR, .REGWR, .REGRD].contains m.op)

/-! Arrival at a port. -/

/-- A port agent's check of a core's access (R178, R455): the partition owns the port, and the access is from the normal world. -/
def Hw.portPass (h : Hw) (n : Nat) (w : Who) : Bool :=
  let o := look 0 h.portOwner n
  decide (o ≠ 0) && decide (o = w.part.val) && !w.world

/-- A refused access at a port (R178, R455): recorded, and an access fault with reason 0x10 on the instruction that waits for it. -/
def Hw.portRefuse (h : Hw) (n pa : Nat) (w : Who) (write : Bool) : Hw :=
  let h1 := h.ras (0x10 + n / 16) 2 { code := 0x28, sev := 2, addr := pa, detail := look 0 h.portOwner n, part := w.part.val, world := w.world,
                                        thread := w.thread.val, unit := n % 16 }
  match (h1.thread w.thread.val).devOpen with
  | some d => if d.addr = pa ∧ d.atPort n then h1.devTrap w.thread.val { code := if write then 0x0B else 0x0A, detail := 0xF0, tval := d.cur.va } else h1
  | none => h1

/-- A D-P store reaches its port (R229, R233, R235): it is queued and acknowledged; on a link that is down it ends at once with class 0x44. -/
def Hw.postedArrives (h : Hw) (w : Who) (pa size : Nat) (v : W64) : Hw :=
  let t := w.thread.val
  let n := portOfPa pa
  let a := h.threadAgent t
  if !h.portPass n w then h.portRefuse n pa w true
  else
    let h1 := h.send { op := .POSTACK, addr := pa, agent := a, part := w.part.val, info := t, txid := h.rspOf a pa }
    if has h1.portUp n then
      let h2 := h1.sendTlp pa true true size (toBytes size v.toNat)
      { h2 with dpq := put h2.dpq n (look [] h2.dpq n ++ [{ thread := t, addr := pa, data := toBytes size v.toNat }]) }
    else { h1.devRecord n t pa 0x44 with dpErrs := h1.dpErrs ++ [⟨n, t, pa, 0x44⟩] }

/-! Timeouts, errors and links that go down (R233, R235). -/

/-- DEVICE_TIMEOUT (R233, R234): of a thread's oldest D-P store in the port's queue with every later one of its own, or else of the access that the thread waits for. -/
def execDeviceTimeout (port : PortNum) (t : Gtn) (s : State) : Host.Outcome State Fault Refusal :=
  s.onHw (fun h =>
    match (look [] h.dpq port.val).filter (fun e => e.thread == t.val) with
    | e :: r =>
      let h1 := (h.ras (0x10 + port.val / 16) 0 { code := 0x33, sev := 2, addr := e.addr, detail := 0x40, part := h.partOf t.val, thread := t.val,
                                                  unit := port.val % 16, misc0 := BitVec.ofNat 64 (r.length + 1) }).portRaise port.val
      ({ h1 with dpq := put h1.dpq port.val ((look [] h1.dpq port.val).filter (fun e => !(e.thread == t.val))),
                 dpErrs := h1.dpErrs ++ [⟨port.val, t.val, e.addr, 0x40⟩] } : Hw).portPump port.val
    | [] => match (h.thread t.val).devOpen with
      | some w => if w.atPort port.val && !w.posted then (h.devFail t.val 0x40).portPump port.val else h
      | none => h)

/-- DP_STORE_ERROR_MESSAGE (R233 steps 5 and 6): the machine check is held for the thread. -/
def execDpStoreErrorMessage (port : PortNum) (t : Gtn) (s : State) : Host.Outcome State Fault Refusal :=
  s.onHw (fun h =>
    match takeFirst (fun (e : DpError) => decide (e.port = port.val ∧ e.thread = t.val)) h.dpErrs with
    | some (e, r) => ({ h with dpErrs := r } : Hw).addMc t.val e.cls (BitVec.ofNat 64 e.addr)
    | none => h)

/-- Every queued core access of a port completes with class 0x44 (R235). -/
def Hw.portAbort (h : Hw) (n : Nat) : Hw :=
  let q := look [] h.dpq n
  let waiting := (h.thr.filter (fun e => match e.2.devOpen with
    | some w => w.atPort n && !w.posted && !h.devFlying e.1 w
    | none => false)).map (·.1)
  let errs := (q.map (·.thread)).eraseDups.filterMap (fun t => (q.find? (fun e => e.thread == t)).map (fun e => (⟨n, t, e.addr, 0x44⟩ : DpError)))
  let count := q.length + waiting.length
  let h1 : Hw := { h with dpq := del h.dpq n, dpErrs := h.dpErrs ++ errs }
  let h2 := if count = 0 then h1 else
    (h1.ras (0x10 + n / 16) 0 { code := 0x32, sev := 2, part := look 0 h.portOwner n, unit := n % 16, misc0 := BitVec.ofNat 64 count }).portRaise n
  (waiting.foldl (fun (x : Hw) t => x.devFail t 0x44) h2).portPump n

/-- A port's link goes down (R235). -/
def Hw.portDown (h : Hw) (n : Nat) : Hw := ({ h with portUp := rem h.portUp n } : Hw).portAbort n

/-- PORT_LINK_DOWN (R235). -/
def execPortLinkDown (port : PortNum) (s : State) : Host.Outcome State Fault Refusal := s.onHw (fun h => h.portDown port.val)

/-- DP_STORE_COMPLETE (R229): the link partner has acknowledged the oldest store of a port. -/
def execDpStoreComplete (port : PortNum) (s : State) : Host.Outcome State Fault Refusal :=
  s.onHw (fun h => match look [] h.dpq port.val with
    | _ :: r => if has h.portUp port.val then ({ h with dpq := if r.isEmpty then del h.dpq port.val else put h.dpq port.val r } : Hw).portPump port.val else h
    | [] => h)

end Sys2Proof.Machine
end

