-- ==== Sys2Proof/Machine/RegAccess.lean ====
section
/-! DEFINITION. Access to the register window: who may write which register, what a write does to each field under its access and class code, and how a refused write is recorded (spec/00_scope.md R8 to R16; spec/13_partitions_and_structure_image.md R500, R501; spec/15_secure_world.md R545). -/

namespace Sys2Proof.Machine

/-- The bits that an access covers (R8). -/
def halfMask : Half → W64
  | .full => BitVec.allOnes 64
  | .low => 0xFFFFFFFF
  | .high => 0xFFFFFFFF00000000

/-- The owner of a die's register blocks: a compute die's owner; package services for the hub and the port dies (R485, R486). -/
def Hw.dieOwnerOf (h : Hw) (die : Nat) : Nat := if 1 ≤ die ∧ die ≤ 12 then look 0 h.dieOwner die else 0

/-- The engine of an SKM block (R7). -/
def engOf (die inst : Nat) : Nat := if die = 0 then inst else 24 + 8 * (die - 0x10) + inst

/-- The port of a PORT block (R7). -/
def portOf (die inst : Nat) : Nat := 16 * (die - 0x10) + inst

/-- The die, the block instance of an engine's registers (R7). -/
def engPlace (n : Nat) : Nat × Nat := if n < 24 then (0, n) else (0x10 + (n - 24) / 8, (n - 24) % 8)

/-- The die, the block instance of a port's registers (R7). -/
def portPlace (n : Nat) : Nat × Nat := (0x10 + n / 16, n % 16)

/-- The instance of an event source, as the PART column of R610 and R611 gives it; none where the raise names it. -/
def Hw.srcPart (h : Hw) (src : Nat) : Option Nat :=
  if src < 192 then (if src % 16 = 8 then none else some (h.dieOwnerOf (src / 16 + 1)))
  else if src < 0x130 then none
  else if src < 0x190 then some (h.fld .SKM_QCTL 0 ((src - 0x130) / 4) ((src - 0x130) % 4) F.SKM_QCTL_PART)
  else if src < 0x1C8 then some (look 0 h.engOwner (src - 0x190))
  else if src < 0x208 then some (look 0 h.portOwner (src - 0x1C8))
  else if src < 0x210 then none
  else if src < 0x220 then some (src - 0x210)
  else if src < 0x230 then some (src - 0x220)
  else if src < 0x240 then (if src = 0x231 ∨ src = 0x233 ∨ src = 0x23C ∨ src = 0x23E then none else some 0)
  else if 0x2A0 ≤ src ∧ src < 0x300 then some ((src - 0x2A0) / 8 + 1)
  else some 0

/-- The partition to which a register belongs under R10: the owner of the unit that it serves, or the partition that its index names. -/
def Hw.regOwner (h : Hw) (r : RegRef) : Nat :=
  match r.name with
  | .HOME_HOTCTL => r.idx + 1
  | .HOME_HOTSNAP => r.idx + 1
  | .XTL_AST => r.idx + 1
  | .XTL_SAST => r.idx + 1
  | .XTL_DEVT => look 0 h.portOwner (portOf r.die r.idx)
  | .SKM_QBASE => h.fld .SKM_QCTL r.die r.inst r.idx F.SKM_QCTL_PART
  | .SKM_QCTL => h.fld .SKM_QCTL r.die r.inst r.idx F.SKM_QCTL_PART
  | .SKM_QTAIL => h.fld .SKM_QCTL r.die r.inst r.idx F.SKM_QCTL_PART
  | .SKM_QHEAD => h.fld .SKM_QCTL r.die r.inst r.idx F.SKM_QCTL_PART
  | .SKM_UCODE => 0
  | .DCTL_FW => 0
  | .DCTL_UPD_CMD => r.idx + 1
  | .DCTL_UPD_ADDR => r.idx + 1
  | .EVR_SRC => (h.srcPart r.idx).getD 0
  | .EVR_CTL => r.idx
  | .EVR_VTBASE => r.idx
  | .EVR_SVTBASE => r.idx
  | .EVR_RPTBASE => r.idx
  | .EVR_ONLINE => h.dieOwnerOf (r.idx + 1)
  | .PWR_DOM =>
    if r.die = 0 then (if 32 ≤ r.idx ∧ r.idx < 56 then look 0 h.engOwner (r.idx - 32) else 0)
    else if r.die ≤ 12 then (if r.idx ≤ 36 then h.dieOwnerOf r.die else 0)
    else if 2 ≤ r.idx ∧ r.idx ≤ 9 then look 0 h.engOwner (engOf r.die (r.idx - 2)) else 0
  | n =>
    match n.desc.block with
    | .PORT => look 0 h.portOwner (portOf r.die r.inst)
    | .SKM => look 0 h.engOwner (engOf r.die r.inst)
    | _ => h.dieOwnerOf r.die

/-- The outcome of the permission checks on an access. -/
inductive Permit where
  /-- The access may go on. -/
  | ok
  /-- Refused under R10. -/
  | r10
  /-- Refused and logged in CFG_REJECT with reason 0x05 (R332, R501, R545, R555). -/
  | reject
  deriving DecidableEq, Repr

/-- A register of the SEC block, or one that is secure-only with it (R545, R562). -/
def secureOnly (n : RegName) : Bool := decide (n.desc.block = .SEC) || decide (n = .XTL_SAST)

/-- A partition's access to a secure-only register: at M with WORLD = 1, to a register whose index names the partition or that another rule opens (R545, R562; spec/16_boot.md, registers). -/
def secPermit (r : RegRef) (w : Who) (write : Bool) : Bool :=
  decide (w.level = 3) && w.world &&
    (match r.name with
     | .SEC_SWCTL => decide (r.idx + 1 = w.part.val)
     | .SEC_GREC => decide (r.idx + 1 = w.part.val)
     | .SEC_RNGCMD => decide (r.idx + 1 = w.part.val)
     | .XTL_SAST => decide (r.idx + 1 = w.part.val)
     | .SEC_SENG => true
     | .SEC_MEXT => write
     | .SEC_BOOTSTAT => !write
     | .SEC_KEYSTAT => !write
     | .SEC_FLOOR => !write
     | .SEC_MREG => !write
     | _ => false)

/-- The partition that PARTITIONS marks AUTHORITY (R493). -/
def Hw.isAuthority (h : Hw) (p : Nat) : Bool := decide (p ≠ 0) && decide (h.authority = p)

/-- The owner of the block instance that a CFG_APPLY value names (R501, R502). -/
def Hw.blockOwner (h : Hw) (pa : Nat) : Nat :=
  match blockOf pa with
  | some (die, _, .SKM, inst, _) => look 0 h.engOwner (engOf die inst)
  | some (die, _, .PORT, inst, _) => look 0 h.portOwner (portOf die inst)
  | some (die, _, _, _, _) => h.dieOwnerOf die
  | none => 0

/-- A partition's write to the CFG block (R501). -/
def Hw.cfgPermit (h : Hw) (r : RegRef) (w : Who) (v : W64) : Bool :=
  decide (w.level = 3) &&
    (match r.name with
     | .CFG_CTL => h.isAuthority w.part.val
     | .CFG_LOADADDR => h.isAuthority w.part.val
     | .CFG_APPLY => h.isAuthority w.part.val && decide (h.blockOwner (wbits v 51 20 <<< 20) = w.part.val)
     | .CFG_CONFIRM => decide (wbits v 12 0 = 2 ^ w.part.val) || decide (wbits v 12 0 = 0)
     | _ => false)

/-- Whether a write to a register may go on (R10, R332, R501, R545, R555, R613). -/
def Hw.mayWrite (h : Hw) (r : RegRef) (w : Who) (v : W64) : Permit :=
  if r.name = .CORE_SECACT ∧ !w.world then .reject
  else if decide (r.name.desc.block = .SKM) && decide (r.die = 0) &&
      (match r.name with
       | .SKM_QBASE => true
       | .SKM_QCTL => true
       | .SKM_QTAIL => true
       | _ => false) && h.flag .SKM_QCTL r.die r.inst r.idx F.SKM_QCTL_WORLD && !w.world then .reject
  else if w.part.val = 0 then .ok
  else if secureOnly r.name then (if secPermit r w true then .ok else .reject)
  else if r.name.desc.block = .CFG then (if h.cfgPermit r w v then .ok else .reject)
  else if h.regOwner r = w.part.val then (if r.name = .EVR_SVTBASE ∧ !w.world then .r10 else .ok)
  else .r10

/-- Whether a read of a register may go on (R10, R501, R545). -/
def Hw.mayRead (h : Hw) (r : RegRef) (w : Who) : Bool :=
  if w.part.val = 0 then true
  else if secureOnly r.name then secPermit r w false
  else if r.name.desc.block = .CFG then decide (w.level = 3) && has h.partUp w.part.val && !has h.partStopped w.part.val
  else decide (h.regOwner r = w.part.val) && (r.name != .EVR_SVTBASE || w.world)

/-- The record set of a die that takes register access refusals (R620 code 0x29). -/
def refusalSet (die : Nat) : Nat := if die = 0 then 0 else if die ≤ 12 then 3 else 2

/-- A refused access is recorded by the RAS block of a die (R8 to R10). -/
def Hw.refuseReg (h : Hw) (die pa : Nat) (w : Who) : Hw :=
  h.ras die (refusalSet die)
    { code := 0x29, sev := 2, addr := pa, part := w.part.val, world := w.world,
      thread := if w.src = .thread then w.thread.val else 0x3FF }

/-- The section of the structure image that loads the img fields of a register (R493). -/
def imgSection (n : RegName) : Nat :=
  match n with
  | .DCTL_LCMAP => 0x03
  | .HOME_RNGOWN => 0x04
  | .HOME_ISET_A => 0x05
  | .HOME_ISET_B => 0x05
  | .XTL_DEVT => 0x08
  | .SKM_QCTL => 0x09
  | .RING_ARB => 0x0A
  | .SPINE_ARB => 0x0A
  | .EVR_SRC => 0x0C
  | .EVR_CTL => 0x0C
  | .HOME_RCWAY => 0x0E
  | .HOME_RTBASE => 0x0F
  | .HOME_DIRCTL => 0x0F
  | .HOME_HOTCTL => 0x0F
  | .MEMC_SPARE => 0x0F
  | _ => if n.desc.block = .PWR ∨ n.desc.block = .CLK then 0x0D else 0

/-- What a write to one field does: the register, its shadow register, and the reasons of the refusals (R12 to R16, R500). -/
structure FieldWrite where
  reg : W64
  shadow : Option W64
  reasons : List Nat
  deriving DecidableEq, Repr

/-- The block of a register runs, for its static fields (R16). DEDUCED: the homes and the memory controllers run from the first valid interleave set, the other blocks from the commit (log entry 42). -/
def Hw.blockRuns (h : Hw) (n : RegName) : Bool :=
  h.committed || ((decide (n.desc.block = .HOME) || decide (n.desc.block = .MEMC)) && (List.range 32).any (fun i => wbit (h.reg .HOME_ISET_A 0 0 i) 63))

/-- One field of a write (R12, R13, R16). `runs`: the block runs (R16). `held`: the field's section is being applied (R500). -/
def fieldWrite (locked runs held : Bool) (v mask : W64) (a : FieldWrite) (f : Fld) : FieldWrite :=
  let cur := a.reg
  let base := if f.cls = .G then a.shadow.getD cur else cur
  let nv := f.get ((base &&& ~~~mask) ||| (v &&& mask))
  let bits := f.get (v &&& mask)
  if held && f.rst == .img && f.cls != .none then
    (if f.get (mask &&& (v ^^^ cur)) = 0 then a else { a with reasons := a.reasons ++ [0x06] })
  else
    match f.acc with
    | .RO => a
    | .WO => a
    | .W1C => { a with reg := f.set cur (f.get (cur &&& ~~~(v &&& mask))) }
    | .W1S => { a with reg := f.set cur (f.get cur ||| bits) }
    | .RWL =>
      if locked then (if nv = f.get cur then a else { a with reasons := a.reasons ++ [0x02] })
      else if runs && f.cls == .S then (if nv = f.get cur then a else { a with reasons := a.reasons ++ [0x01] })
      else { a with reg := f.set cur nv }
    | _ =>
      if f.cls = .G then { a with shadow := some (f.set (a.shadow.getD cur) nv) }
      else if runs && f.cls == .S then (if nv = f.get cur then a else { a with reasons := a.reasons ++ [0x01] })
      else { a with reg := f.set cur nv }

/-- A permitted write takes its effect on the fields of its register (R16); each reason of refusal is logged once. -/
def Hw.writeFields (h : Hw) (r : RegRef) (w : Who) (half : Half) (v : W64) : Hw :=
  let pa := regAddr r.name r.die r.inst r.idx
  let s := imgSection r.name
  let a := r.name.desc.fields.foldl (fieldWrite h.committed (h.blockRuns r.name) (s != 0 && has h.applying s) v (halfMask half))
    ⟨h.reg r.name r.die r.inst r.idx, look? h.shadow pa, []⟩
  let h1 := h.setReg r.name r.die r.inst r.idx a.reg
  let h2 := match a.shadow with
    | some x => { h1 with shadow := put h1.shadow pa x }
    | none => h1
  a.reasons.eraseDups.foldl (fun h q => h.cfgReject r.pa w q) h2

/-- The staged fields of a register take the values that its shadow register holds (R16). -/
def Hw.applyShadow (h : Hw) (r : RegRef) : Hw :=
  let pa := regAddr r.name r.die r.inst r.idx
  match look? h.shadow pa with
  | none => h
  | some x =>
    let v := r.name.desc.fields.foldl (fun acc f => if f.cls = .G then f.set acc (f.get x) else acc)
      (h.reg r.name r.die r.inst r.idx)
    { h.setReg r.name r.die r.inst r.idx v with shadow := del h.shadow pa }

/-- A write that reaches a register: refused under its permission, or given to `body` (R10, R332, R501, R545). -/
def Hw.permit (h : Hw) (r : RegRef) (w : Who) (v : W64) (body : Hw → Hw) : Hw :=
  match h.mayWrite r w v with
  | .ok => body h
  | .r10 => h.refuseReg r.die r.pa w
  | .reject => h.cfgReject r.pa w 0x05

/-- A register reference that a register of one instance has. -/
def RegRef.at (n : RegName) (die : Nat) (inst : Nat := 0) (idx : Nat := 0) : RegRef := ⟨n, die, inst, idx⟩

end Sys2Proof.Machine
end

