-- ==== Sys2Proof/Machine/RenderCache.lean ====
section
/-! DEFINITION. The render cache and the hotness trackers of the home slices (spec/08_memory_tiers.md R300 to R304, R315 to R317). -/

namespace Sys2Proof.Machine

/-! The pseudo-LRU tree (R304). -/

/-- The tree after a use of a way: every node on its path points away from it. -/
def plruTouch (bits way : Nat) : Nat :=
  let step (a : Nat × Nat) (d : Nat) : Nat × Nat :=
    let b := way >>> (3 - d) % 2
    (setNbits a.1 a.2 a.2 (1 - b), 2 * a.2 + 1 + b)
  ((List.range 4).foldl step (bits, 0)).1

/-- The ways below a node at depth `d` whose leftmost way is `lo`. -/
def plruWays (lo d : Nat) : List Nat := (List.range (2 ^ (4 - d))).map (lo + ·)

/-- The way that the tree names among those that a mask allows; a side without an allowed way is not entered (log entry 23). -/
def plruVictim (bits mask : Nat) : Nat :=
  let step (a : Nat × Nat) (d : Nat) : Nat × Nat :=
    let half := 2 ^ (3 - d)
    let want := if bits.testBit a.1 then 1 else 0
    let ok (s : Nat) : Bool := (plruWays (a.2 + s * half) (d + 1)).any (fun w => mask.testBit w)
    let s := if ok want then want else 1 - want
    (2 * a.1 + 1 + s, a.2 + s * half)
  ((List.range 4).foldl step (0, 0)).2

/-! The sets (R300). -/

/-- The set of a line, over all slices. -/
def rcSet (line : Nat) : Nat := homeOfLine line * 24576 + line % 24576

/-- The line in the render cache. -/
def Hw.rcFind (h : Hw) (line : Nat) : Option RcWay := (look [] h.rc (rcSet line)).find? (fun w => w.line == line)

/-- A set replaced. -/
def Hw.rcPut (h : Hw) (s : Nat) (l : List RcWay) : Hw := { h with rc := putC [] h.rc s l }

/-- A line of the render cache is used. -/
def Hw.rcTouch (h : Hw) (line way : Nat) : Hw :=
  { h with rcPlru := putC 0 h.rcPlru (rcSet line) (plruTouch (look 0 h.rcPlru (rcSet line)) way) }

/-- DDIRTY of a line that hits is set. -/
def Hw.rcDirty (h : Hw) (line : Nat) : Hw :=
  h.rcPut (rcSet line) (mapIf (fun w => w.line == line) (fun w => { w with ddirty := true }) (look [] h.rc (rcSet line)))

/-- A line leaves the render cache without being written. -/
def Hw.rcDrop (h : Hw) (line : Nat) : Hw :=
  h.rcPut (rcSet line) ((look [] h.rc (rcSet line)).filter (fun w => !(w.line == line)))

/-- The quota register of the partition that owns a line's range, as its slice holds it (R303). -/
def Hw.rcQuota (h : Hw) (line : Nat) : W64 :=
  let p := h.gibOwner (line >>> 24)
  if p ≤ 12 then h.reg .HOME_RCWAY 0 (homeOfLine line) p else 0

/-- Lines of a far-tier range cross the port of their device, for the meter's weights (R593); they count for the range's owner. -/
def Hw.weighFar (h : Hw) (line n : Nat) : Hw :=
  if isFar line then
    match h.isetOf (line <<< 6) with
    | some nn => (List.range n).foldl (fun (x : Hw) _ => x.weigh (1 + (h.target nn (line <<< 6)).1 / 16) (h.gibOwner (line >>> 24))) h
    | none => h
  else h

/-- A fill (R304): the lowest empty allowed way, else the victim of the tree; nothing while no way is allowed. A victim with DDIRTY goes to memory, which already holds its value. -/
def Hw.rcFill (h : Hw) (line : Nat) (ddirty : Bool) : Hw :=
  let mask := F.HOME_RCWAY_WAYMASK.get (h.rcQuota line)
  if mask = 0 then h else
    let s := rcSet line
    let l := look [] h.rc s
    let free := (List.range 16).find? (fun w => mask.testBit w && !(l.any (fun x => x.way == w)))
    let way := free.getD (plruVictim (look 0 h.rcPlru s) mask)
    let h1 := (l.filter (fun x => x.way == way && x.ddirty)).foldl (fun (x : Hw) v => x.weighFar v.line 1) h
    (h1.rcPut s ((l.filter (fun x => !(x.way == way))) ++ [⟨way, line, ddirty⟩])).rcTouch line way

/-- A request is served (R301): the state after, and whether the line hit. `data`: the request reads or writes the line's data; `eng`: a read at P0. -/
def Hw.rcServe (h : Hw) (op : MsgOp) (eng : Bool) (line : Nat) : Hw × Bool :=
  match h.rcFind line with
  | some w =>
    match op with
    | .RDC => (if eng then h else h.rcTouch line w.way, true)
    | .RDP => (h, true)
    | .OWN => (h, true)
    | .WB => (h.rcDirty line, true)
    | .WRF => (h.rcDirty line, true)
    | .WRP => (h.rcDirty line, true)
    | _ => (h.rcTouch line w.way, true)
  | none =>
    let q := h.rcQuota line
    let write := if wbit q 17 then h.rcFill line true else h.weighFar line 1
    match op with
    | .RDC => (h.weighFar line (if eng then 16 else 1), false)
    | .RDP => (h.weighFar line 1, false)
    | .OWN => (h, false)
    | .WB => (write, false)
    | .WRF => (write, false)
    | .WRP => (write, false)
    | _ => (if wbit q 16 then (h.weighFar line 1).rcFill line false else h.weighFar line 1, false)

/-! The hotness trackers (R315 to R317). -/

/-- The page of a line at the granularity counted (R315): PA[51:12]. -/
def hotPage (ctl : W64) (line : Nat) : Nat := if wbit ctl 58 then line / 2 ^ 15 * 2 ^ 9 else line / 2 ^ 6

/-- A counted request updates the slice's entries of its partition (R317). -/
def hotUpdate (quota page : Nat) (l : List (Nat × Nat)) : List (Nat × Nat) :=
  if l.any (fun e => e.1 == page) then mapIf (fun e => e.1 == page) (fun e => (e.1, min 0xFFFF (e.2 + 1))) l
  else if l.length < quota then l ++ [(page, 1)]
  else
    match l.foldl (fun (m : Option Nat) e => some (match m with
        | none => e.2
        | some c => min c e.2)) none with
    | none => l
    | some lo =>
      let i := l.findIdx (fun e => e.2 == lo)
      l.set i (page, min 0xFFFF (lo + 1))

/-- A request is counted if it is eligible and sampled (R316); the generator's bits are free values (log entry 24). -/
def Hw.hotCount (h : Hw) (op : MsgOp) (eng world : Bool) (part line : Nat) (hit : Bool) : Hw :=
  if part = 0 ∨ world then h else
    let n := homeOfLine line
    let ctl := h.reg .HOME_HOTCTL 0 n (part - 1)
    let isWr := op == .WRF || op == .WRP
    let kind := op == .RDS || op == .RDO || op == .UPG || isWr || (op == .RDC && (!eng || wbit ctl 59))
    let tier := if line <<< 6 < 0x0100000000000 then wbit ctl 62 else wbit ctl 61
    let memAccess := !hit && !(op == .WRF && wbit (h.rcQuota line) 17 && F.HOME_RCWAY_WAYMASK.get (h.rcQuota line) != 0)
    if wbit ctl 63 && kind && tier && (wbit ctl 60 || memAccess) then
      let (r, h1) := h.fresh 32
      let s := min 10 (F.HOME_HOTCTL_SAMPLE.get ctl)
      if r.toNat % 2 ^ s = 0 then
        let k := 16 * n + part
        { h1 with hot := putC [] h1.hot k (hotUpdate (F.HOME_HOTCTL_QUOTA.get ctl) (hotPage ctl line) (look [] h1.hot k)) }
      else h1
    else h

end Sys2Proof.Machine
end

