-- ==== Sys2Proof/Machine/Coherence.lean ====
section
/-! DEFINITION. The homes: directory, transactions, recalls, writes, the forward role, timeouts, poison and fences, and the agents' answers (spec/07_coherence.md R246 to R286, R680, R681). -/

namespace Sys2Proof.Machine

/-! The directory (R248 to R257). -/

/-- The agent is fenced, itself or with its die (R283). -/
def Hw.fenced (h : Hw) (a : Agent) : Bool :=
  let f0 := h.reg .HOME_FENCE0 0 0 0
  let f1 := h.reg .HOME_FENCE1 0 0 0
  match a with
  | .core d _ => wbit f0 d
  | .eng n => wbit f1 n || (decide (24 ≤ n) && wbit f0 (16 + (n - 24) / 8))
  | .port n => wbit f0 (16 + n / 16)
  | .hub => false

/-- The directory state of a key as the home reads it: fenced dies are no longer in VEC (R284). -/
def Hw.dirOf (h : Hw) (key : Nat) : Dir :=
  match look .unc h.dir key with
  | .shared vec f => .shared (vec.filter (fun d => !h.fenced (.core d 0))) f
  | d => d

/-- The first line of a key. -/
def keyLine (key : Nat) : Nat := if key < 2 ^ 50 then key else (key - 2 ^ 50) * 16

/-- The directory cache set of a key (R254), over all slices. -/
def dcsSet (key : Nat) : Nat :=
  homeOfLine (keyLine key) * 8192 + (if key < 2 ^ 50 then nbits key 17 5 else nbits (key - 2 ^ 50) 12 0)

/-- A key's line has an open transaction, which pins its entry (R256). -/
def Hw.busy (h : Hw) (key : Nat) : Bool := h.txns.any (fun t => t.key == key)

/-- An entry may not be replaced: its line is Busy, or it is kept after a timeout (R256, R279). -/
def Hw.pinnedKey (h : Hw) (key : Nat) : Bool := h.busy key || (look? h.dhold key).isSome

/-- The directory cache holds an entry for a key. -/
def Hw.dcsHas (h : Hw) (key : Nat) : Bool := (look [] h.dcs (dcsSet key)).any (fun e => e.1 == key)

/-- The write-back buffer of the slice of a key holds 32 entries (R257). -/
def Hw.dwbFull (h : Hw) (key : Nat) : Bool :=
  decide (32 ≤ (h.dwb.filter (fun k => homeOfLine (keyLine k) == homeOfLine (keyLine key))).length)

/-- An entry for a key can not be made now (R256, R257): every way of its set is pinned, or the one to leave finds the write-back buffer full. -/
def Hw.setPinned (h : Hw) (key : Nat) : Bool :=
  let l := look [] h.dcs (dcsSet key)
  if h.dcsHas key || decide (l.length < 16) then false
  else match (l.filter (fun e => !h.pinnedKey e.1)).getLast? with
    | none => true
    | some v => v.2 && h.dwbFull key

/-- OTYPE, ODIE and OID of an owner (R251). -/
def ownerBits (a : Agent) : Nat :=
  match a with
  | .core d p => (d % 16) <<< 6 ||| p % 64
  | .eng n => 1 <<< 10 ||| n % 64
  | .port n => 2 <<< 10 ||| n % 64
  | .hub => 0

/-- VEC of a Shared state: bit d - 1 for compute die d (R251). -/
def vecBits (vec : List Nat) : Nat := vec.foldl (fun m d => m ||| 2 ^ (d - 1)) 0

/-- The 24 directory bits of a near-tier line (R251). -/
def dirBits (st : Dir) (poison : Bool) : Nat :=
  b2n poison <<< 21 ||| (match st with
    | .unc => 0
    | .shared vec f => 1 <<< 22 ||| vecBits vec <<< 8 ||| f <<< 4
    | .owned a _ => 2 <<< 22 ||| ownerBits a <<< 8)

/-- The directory bits that the home keeps of a near-tier line (R250, R251). -/
def Hw.lineBits (h : Hw) (line : Nat) : Nat := dirBits (look .unc h.dir line) (has h.poison line)

/-- A region entry (R253). -/
def regionWord (st : Dir) : Nat :=
  match st with
  | .unc => 0
  | .shared vec f => 1 <<< 30 ||| vecBits vec <<< 17 ||| f <<< 13
  | .owned a m => 2 <<< 30 ||| ownerBits a <<< 17 ||| (m % 65536) <<< 1

/-- The address of a region's entry in the region table (R252); none beyond the table. -/
def Hw.regionPa (h : Hw) (region : Nat) : Option Nat :=
  let off := (region * 1024 - 0x0100000000000) / 1024 * 4
  if off < h.fld .HOME_RTBASE 0 0 0 F.HOME_RTBASE_SIZE * 2 ^ 30 then some (h.fld .HOME_RTBASE 0 0 0 F.HOME_RTBASE_BASE * 2 ^ 30 + off) else none

/-- The state of a key is written to memory (R257): of a region, its entry into the region table. The bits of a near-tier line go into its ECC word or the render cache, where no address shows them (log entry 57). -/
def Hw.dirStore (h : Hw) (key : Nat) : Hw :=
  if key < 2 ^ 50 then h
  else match h.regionPa (key - 2 ^ 50) with
    | some pa => h.writeNum pa 4 (regionWord (look .unc h.dir key))
    | none => h

/-- The slice of a key writes every change of state to memory at once: its WRITE_THROUGH is in force (R252). -/
def Hw.writeThrough (h : Hw) (key : Nat) : Bool := h.flag .HOME_DIRCTL 0 (homeOfLine (keyLine key)) 0 F.HOME_DIRCTL_WRITE_THROUGH

/-- An entry of the directory cache is used or made; the least recently used entry that may be replaced leaves, into the write-back buffer if it differs from memory (R254 to R257). -/
def Hw.dirTouch (h : Hw) (key : Nat) (dirty : Bool) : Hw :=
  let s := dcsSet key
  let l := look [] h.dcs s
  let was := look false l key
  let l1 := mruPut l key ((was || dirty) && !h.writeThrough key)
  if 16 < l1.length then
    match (l1.filter (fun e => !(e.1 == key) && !h.pinnedKey e.1)).getLast? with
    | some v => { h with dcs := put h.dcs s (mruDel l1 v.1), dwb := if v.2 then ins h.dwb v.1 else h.dwb }
    | none => { h with dcs := put h.dcs s l1 }
  else { h with dcs := put h.dcs s l1 }

/-- The directory state of a key changes (R250, R255). -/
def Hw.setDir (h : Hw) (key : Nat) (d : Dir) : Hw :=
  let changed := decide (look .unc h.dir key ≠ d)
  let h1 := { h with dir := putC .unc h.dir key d,
                     tpoison := if d = Dir.unc then h.tpoison.filter (fun l => !(dirKey l == key)) else h.tpoison }
  let h2 := if changed ∧ key < 2 ^ 50 ∧ (h1.rcFind key).isSome then h1.rcDirty key else h1
  let h3 := h2.dirTouch key changed
  if changed ∧ h3.writeThrough key then h3.dirStore key else h3

/-! Error records (R282). -/

/-- ATYPE, ADIE and AID of an agent (R282). -/
def agentWord (a : Option Agent) : Nat :=
  match a with
  | some (.core d p) => (d % 16) <<< 22 ||| (p % 64) <<< 16
  | some (.eng n) => 1 <<< 26 ||| n <<< 16
  | some (.port n) => 2 <<< 26 ||| n <<< 16
  | _ => 3 <<< 26

/-- A home records an error and raises its source (R282, R610). -/
def Hw.homeErr (h : Hw) (code sev line : Nat) (a : Option Agent) : Hw :=
  let n := homeOfLine line
  let part := h.gibOwner (line >>> 24)
  let addr : W64 := setWbits (BitVec.ofNat 64 (line <<< 6)) 63 63 1
  let info : W64 := BitVec.ofNat 64 (part <<< 28 ||| agentWord a ||| sev <<< 12 ||| code)
  (h.record ⟨.HOME_ERR0_ADDR, .HOME_ERR0_INFO, .HOME_ERR1_ADDR, .HOME_ERR1_INFO, .HOME_ERRSTAT⟩ 0 n 0 false addr info).raise
    { source := 0x0C0 + 2 * n + (if sev = 1 then 0 else 1), part := part, sev := sev, code := code }

/-- What a record about a snoop names: the line, or the first line of a far-tier region (R282). -/
def snoopedLine (line : Nat) : Nat := if isFar line then line / 16 * 16 else line

/-! Replies. -/

/-- A reply of the home to a requester, with the request's tag and response slot (R433); the request's slot is freed, but of a write that its CMT will end (R263, R439). -/
def Hw.reply (h : Hw) (op : MsgOp) (r : HReq) : Hw :=
  (if op == .RDY then h else h.freeTok (if r.op.cls = 4 then 1 else 0) r.agent r.line).send
    { op := op, addr := r.line, agent := r.agent, part := r.part, world := r.world, info := r.tag, txid := r.txid }

/-- The byte addresses and values of a write (R259). -/
def HReq.cells (r : HReq) : List (Nat × Byte) :=
  ((List.range 64).filter (fun i => r.op == .WRF || r.mask.testBit i)).map
    (fun i => ((r.line <<< 6) + i, BitVec.ofNat 8 (r.data >>> (8 * i))))

/-- A write's data becomes visible; a full-line write clears POISON (R263). -/
def Hw.homeWrite (h : Hw) (r : HReq) : Hw :=
  let h1 := h.writeCells r.cells
  if r.op == .WRF then h1.clearPoison r.line else h1

/-- The ownership record of a requester: the line's bit for a region (R253, R262). -/
def ownedBy (r : HReq) (old : Dir) : Dir :=
  match old with
  | .owned a m => if a.same r.agent && isFar r.line then .owned a (m ||| lbit r.line) else .owned r.agent (lbit r.line)
  | _ => .owned r.agent (lbit r.line)

/-! Serving requests (R262). `complete` ends a request from a state in which no other agent can hold a newer value. -/

/-- An engine as a port's delivery names it: its number plus 1; 0 for another agent. -/
def Agent.engTag : Agent → Nat
  | .eng n => n + 1
  | _ => 0

/-- The port that delivers the data of an engine's far-tier read: one of the engine's own die (R31). -/
def Hw.relayPort (h : Hw) (r : HReq) : Option Nat :=
  match r.agent, h.isetOf (r.line <<< 6) with
  | .eng n, some nn =>
    let p := (h.target nn (r.line <<< 6)).1
    if isFar r.line && decide (24 ≤ n) && decide (p / 16 = (n - 24) / 8) then some p else none
  | _, _ => none

/-- A read of a far-tier device ends with POISON (R299): the line is returned marked so, nothing is written into the device, and the port die records it. -/
def Hw.farLate (h : Hw) (line : Nat) : Hw :=
  let pa := line <<< 6
  match h.isetOf pa with
  | some nn =>
    let (port, loc) := h.target nn pa
    ({ h with tpoison := ins h.tpoison line }).ras (0x10 + port / 16) 0
      { code := 0x31, sev := 2, addr := loc, part := h.gibOwner (pa >>> 30), unit := port % 16, misc0 := BitVec.ofNat 64 pa }
  | none => h

/-- The home reads a line's data from memory or its device (R299): a far-tier port whose link is down answers at once with POISON, and a poisoned data flit is recorded. -/
def Hw.farRead (h : Hw) (op : MsgOp) (hit : Bool) (line : Nat) : Hw :=
  if isFar line && !hit && !(op == .OWN || op == .WRF) then
    match h.isetOf (line <<< 6) with
    | some nn =>
      if !has h.portUp (h.target nn (line <<< 6)).1 then h.farLate line
      else if has h.poison line then { h.farLate line with tpoison := h.tpoison } else h
    | none => h
  else h

/-- The die of a requester; 0 for another agent. -/
def HReq.die (r : HReq) : Nat := r.agent.cdie.getD 0

/-- A request that needs no more answers: the render cache, the new state and the reply (R262, R301). `st` is the state it is served from; a write that needs a commit keeps its transaction open. The Boolean says whether the transaction ends. -/
def Hw.complete (h0 : Hw) (r : HReq) (st : Dir) : Hw × Bool :=
  let key := dirKey r.line
  let d := r.die
  let eng := match r.agent with
    | .eng _ => true
    | _ => false
  let upg := r.op == .UPG && (match st with
    | .shared vec _ => vec.contains d
    | _ => false)
  let (h1, hit) := if upg then (h0, true) else h0.rcServe r.op eng r.line
  let h := (h1.farRead r.op hit r.line).hotCount r.op eng r.world r.part r.line hit
  match r.op with
  | .RDS =>
    match st with
    | .shared vec f =>
      if vec.isEmpty then ((h.setDir key (.shared [d] d)).reply .GNTF r, true)
      else ((h.setDir key (.shared (ins vec d) f)).reply .GNTS r, true)
    | .owned a m =>
      if a.same r.agent then ((h.setDir key (.owned a (m ||| lbit r.line))).reply .GNTE r, true)
      else ((h.setDir key (.shared [d] d)).reply .GNTF r, true)
    | .unc =>
      if h.flag .HOME_DIRCTL 0 (homeOfLine r.line) 0 F.HOME_DIRCTL_EXCL_GRANT then
        ((h.setDir key (ownedBy r st)).reply .GNTE r, true)
      else ((h.setDir key (.shared [d] d)).reply .GNTF r, true)
  | .OWN => ((({ h with ownLines := ins h.ownLines r.line }).setDir key (ownedBy r st)).reply .GNTO r, true)
  | .UPG =>
    match st with
    | .shared vec _ => ((h.setDir key (ownedBy r st)).reply (if vec.contains d then .GNTO else .GNTE) r, true)
    | _ => ((h.setDir key (ownedBy r st)).reply .GNTE r, true)
  | .RDC =>
    let h1 := if st = Dir.unc then h else h.dirTouch key false
    match h1.relayPort r with
    | some p =>
      let m : Msg := { op := .DATA, addr := r.line, agent := .port p, part := r.part, world := r.world, info := r.tag, mask := r.agent.engTag, txid := r.txid }
      ((h1.freeTok 0 r.agent r.line).send m, true)
    | none => (h1.reply .DATA r, true)
  | .WRF =>
    let h1 := h.setDir key .unc
    if r.relaxed then ((h1.homeWrite r).reply .DONE r, true) else (h1.reply .RDY r, false)
  | .WRP =>
    let h1 := h.setDir key .unc
    if r.relaxed then ((h1.homeWrite r).reply .DONE r, true) else (h1.reply .RDY r, false)
  | _ => ((h.setDir key (ownedBy r st)).reply .GNTE r, true)

/-- The home timeout in force, in nanoseconds (R279). -/
def Hw.homeTmo (h : Hw) (line : Nat) : Nat := 1000 * max 64 (min 1000000 (h.fld .HOME_TMO 0 (homeOfLine line) 0 F.HOME_TMO_TMO_US))

/-- Snoops of a transaction are sent to agents, with the partition of the line's range and the world of the request being served (R433, R454). -/
def Hw.sendSnoops (h : Hw) (t : Txn) (op : MsgOp) (l : List Agent) : Hw :=
  l.foldl (fun h a => h.send { op := op, addr := t.line, agent := a, part := h.gibOwner (t.line >>> 24),
                               world := (t.req.map (·.world)).getD (h.secureLine t.line), txid := t.slot }) h

/-- A transaction opens with its snoops, in the home's smallest free transaction slot (R264, R433). -/
def Hw.openTxn (h : Hw) (t0 : Txn) : Hw :=
  let k := freshNum ((h.txns.filter (fun t => homeOfLine t.line == homeOfLine t0.line)).map (·.slot))
  let t := { t0 with slot := k, due := h.now + h.homeTmo t0.line }
  (({ h with txns := h.txns ++ [t] }).dirTouch t.key false).sendSnoops t t.snoop t.wait

/-- The snoop that a request needs toward an owner that is not the requester (R262, R271). -/
def ownerSnoop (r : HReq) (a : Agent) : MsgOp :=
  match r.op with
  | .RDS => match a with
    | .core _ _ => .RCS
    | _ => .RCI
  | .RDC => .RCC
  | _ => .RCI

/-- The dies of a Shared state, the F die first, then in ascending die ID (R269). -/
def invOrder (vec : List Nat) (f : Nat) : List Nat := (if vec.contains f then [f] else []) ++ vec.filter (fun d => !(d == f))

/-- The lines that the open transaction of a key covers. -/
def coveredLines (t : Txn) (st : Dir) : List Nat :=
  if isFar t.line then
    match st with
    | .owned _ m => ((List.range 16).map (fun i => t.line / 16 * 16 + i)).filter (fun l => m &&& lbit l != 0)
    | _ => (List.range 16).map (fun i => t.line / 16 * 16 + i)
  else [t.line]

/-- Lines are poisoned (R279). -/
def Hw.poisonLines (h : Hw) (l : List Nat) : Hw := l.foldl (fun h x => h.setPoison x) h

/-- An agent that did not answer may keep a copy that no one accepts any more (R281). -/
def Hw.makeStale (h : Hw) (a : Agent) (lines : List Nat) : Hw :=
  match a with
  | .core d _ => h.onCDie d (fun c => { c with lost := c.lost.filter (fun l => !(lines.contains l)), dc := c.dc.filter (fun e => !(has c.lost e.1 && lines.contains e.1)), heldSnoops := c.heldSnoops.filter (fun m => !(lines.contains m.addr && has c.lost m.addr)), stale := (lines.filter (fun l => !(look .I c.dc l == .I) && !(has c.lost l))).foldl ins c.stale })
  | .eng n => { h with elc := put h.elc n ((look [] h.elc n).filter (fun e => !(lines.contains e.1))) }
  | _ => h

/-- What the home does when an agent does not answer (R279): the lines are poisoned and Uncached, the error is recorded, and the entry is held. -/
def Hw.loseAgent (h : Hw) (a : Agent) (line c : Nat) (ls : List Nat) : Hw :=
  let h1 := ((h.poisonLines ls).makeStale a ls).homeErr c 2 (snoopedLine line) (some a)
  { h1.setDir (dirKey line) .unc with dhold := put h1.dhold (dirKey line) h1.now }

/-- A recall to a fenced owner times out at once, with code 0x04 (R284). -/
def Hw.recallFenced (h : Hw) (a : Agent) (line : Nat) : Hw :=
  h.loseAgent a line 0x04 (coveredLines { key := dirKey line, line := line, req := none, snoop := .RCI, wait := [] } (h.dirOf (dirKey line)))

/-- A request starts (R262): it is refused, served at once, or opens a transaction. -/
def Hw.startReq (h : Hw) (r : HReq) : Hw :=
  let key := dirKey r.line
  let pa := r.line <<< 6
  if !h.homePass r.part r.world pa then (h.homeRefusal r.part r.world pa).reply .REF r
  else if !h.mapped pa || (isFar r.line && !h.flag .HOME_DIRCTL 0 (homeOfLine r.line) 0 F.HOME_DIRCTL_FAR_EN) then
    (if r.tag = 2 && r.die != 0 then h.homeRefusal r.part r.world pa else h).reply .REF r
  else
    let h0 := h
    let h := h.weigh 0 r.part
    let st := h.dirOf key
    let t0 : Txn := { key := key, line := r.line, req := some r, snoop := .INV, wait := [] }
    let fin (h : Hw) (st : Dir) : Hw :=
      let (h1, ended) := h.complete r st
      if ended then h1 else h1.openTxn { t0 with cmt := true }
    match st with
    | .unc => fin h st
    | .owned a m =>
      if a.same r.agent && (r.op == .RDS || r.op == .RDO || r.op == .UPG || r.op == .OWN) then
        if isFar r.line && m &&& lbit r.line == 0 then fin h st else h.openTxn { t0 with wb := [a] }
      else if h.fenced a then fin (h.recallFenced a r.line) .unc
      else h.openTxn { t0 with snoop := ownerSnoop r a, wait := [a] }
    | .shared vec f =>
      if f = 0 ∨ !(vec.contains f) then
        if vec.isEmpty then fin (h.setDir key .unc) .unc
        else
          ({ h0 with waitq := r :: h.waitq }).openTxn
            { key := key, line := r.line, req := none, snoop := .PRB, wait := vec.map (fun d => .core d 0) }
      else
        let others := (invOrder vec f).filter (fun d => !(r.agent.cdie == some d))
        match r.op with
        | .RDS => fin h st
        | .RDC => fin h st
        | .WRF => h.openTxn { t0 with wait := (invOrder vec f).map (fun d => .core d 0) }
        | .WRP => h.openTxn { t0 with wait := (invOrder vec f).map (fun d => .core d 0) }
        | _ => if others.isEmpty then fin h st else h.openTxn { t0 with wait := others.map (fun d => .core d 0) }

/-- A request reaches its home (R256, R257, R260, R264, R284): a fenced agent's is dropped, one for a Busy line waits. -/
def Hw.homeRequest (h : Hw) (r : HReq) : Hw :=
  let key := dirKey r.line
  if h.fenced r.agent then h
  else if h.busy key || has h.dwb key || h.setPinned key then { h with waitq := h.waitq ++ [r] }
  else h.startReq r

/-- Waiting requests are served in order while their line is free (R264); `n` bounds how many. -/
def Hw.serveWaiters : Nat → Hw → Hw
  | 0, h => h
  | n + 1, h =>
    match takeFirst (fun r => !(h.busy (dirKey r.line) || has h.dwb (dirKey r.line) || h.setPinned (dirKey r.line))) h.waitq with
    | some (r, rest) => Hw.serveWaiters n (({ h with waitq := rest }).startReq r)
    | none => h

/-- The waiting requests are served after a transaction has ended. -/
def Hw.wakeWaiters (h : Hw) : Hw := Hw.serveWaiters (2 * h.waitq.length + 2) h

/-- A transaction ends. -/
def Hw.endTxn (h : Hw) (key : Nat) : Hw := { h with txns := h.txns.filter (fun t => !(t.key == key)) }

/-- The state that a request is served from once its snoops are answered (R262, R268, R271). An RDS after a recall is granted F unless the former owner keeps the line, which an empty VEC says here. -/
def afterSnoops (t : Txn) (r : HReq) (st : Dir) : Dir :=
  if r.op == .RDS && (t.snoop == .RCS || t.snoop == .RCI) then
    match st with
    | .owned (.core d _) _ => if t.snoop == .RCS && !t.absent then .shared [d] d else .shared [] 0
    | _ => .shared [] 0
  else
    match st with
    | .owned a m => if t.snoop == .RCC then .owned a m else .unc
    | .shared vec _ => if r.op == .UPG && vec.contains r.die then st else .unc
    | .unc => .unc

/-- A probe transaction goes on once every answer is in (R270): the lowest die that answered PRESENT is appointed, or the line is Uncached. -/
def Hw.probeNext (h : Hw) (t : Txn) : Hw :=
  match t.present with
  | [] => ((h.setDir t.key .unc).endTxn t.key).wakeWaiters
  | d :: rest =>
    let h1 := h.setDir t.key (.shared t.present 0)
    let t1 := { t with snoop := .FAP, wait := [.core d 0], present := d :: rest, due := h.now + h.homeTmo t.line }
    ({ h1 with txns := mapIf (fun x => x.key == t.key) (fun _ => t1) h1.txns }).sendSnoops t1 .FAP [.core d 0]

/-- The state after snoops that serve no request: those of a release sweep (R509), or of a request whose agent has been fenced since. -/
def Hw.settleSnooped (h : Hw) (t : Txn) : Hw :=
  match t.snoop, h.dirOf t.key with
  | .RCI, _ => h.setDir t.key .unc
  | .RCS, .owned (.core d _) _ => h.setDir t.key (if t.absent then .unc else .shared [d] d)
  | .RCS, _ => h.setDir t.key .unc
  | .INV, .shared vec _ => if vec.isEmpty then h.setDir t.key .unc else h
  | _, _ => h

/-- A transaction with no answer outstanding goes on (R262, R270, R286). -/
def Hw.advance (h : Hw) (key : Nat) : Hw :=
  match h.txns.find? (fun t => t.key == key) with
  | none => h
  | some t =>
    if !t.wait.isEmpty || !t.wb.isEmpty || t.cmt then h
    else if t.lost then
      let ls := if isFar t.line then (List.range 16).map (fun i => t.line / 16 * 16 + i) else [t.line]
      let bad := ls.filter (fun l => !(t.back.contains l))
      let h1 := ((h.poisonLines bad).setDir key .unc).homeErr (if bad.isEmpty then 0x07 else 0x06) (if bad.isEmpty then 1 else 2) (snoopedLine t.line) none
      (h1.endTxn key).wakeWaiters
    else
      match t.req with
      | none => if t.snoop == .PRB then h.probeNext t else ((h.settleSnooped t).endTxn key).wakeWaiters
      | some r =>
        let st := afterSnoops t r (h.dirOf key)
        let (h2, ended) := h.complete r st
        if ended then (h2.endTxn key).wakeWaiters
        else { h2 with txns := mapIf (fun x => x.key == key) (fun x => { x with cmt := true }) h2.txns }

/-- An answer to a snoop, or a write-back taken as one, is counted (R262, R273). A late answer is discarded and recorded (R281); answers of a fenced agent are discarded (R284). -/
def Hw.homeAnswer (h : Hw) (a : Agent) (line : Nat) (absent wbpend present : Bool) (back : List Nat) : Hw :=
  let key := dirKey line
  if h.fenced a then h else
  match h.txns.find? (fun t => t.key == key && t.wait.any (fun x => x.same a)) with
  | none => h.homeErr 0x05 1 (snoopedLine line) (some a)
  | some t =>
    let t1 := { t with wait := t.wait.filter (fun x => !x.same a), wb := if wbpend then t.wb ++ [a] else t.wb,
                       present := if present then (match a.cdie with
                         | some d => ins t.present d
                         | none => t.present) else if t.snoop == .FAP then t.present.drop 1 else t.present,
                       back := t.back ++ back, absent := t.absent && absent && back.isEmpty }
    let h1 := { h with txns := mapIf (fun x => x.key == key) (fun _ => t1) h.txns }
    let h2 := if t.snoop == .INV || t.snoop == .PRB || (t.snoop == .FAP && absent) then
        match h1.dirOf key, a.cdie with
        | .shared vec f, some d => if t.snoop == .INV || absent then h1.setDir key (.shared (rem vec d) (if f = d then 0 else f)) else h1
        | _, _ => h1
      else h1
    if t.snoop == .FAP && absent then
      match h2.txns.find? (fun x => x.key == key) with
      | some x => h2.probeNext x
      | none => h2
    else h2.advance key

/-- An appointment is accepted (R270). -/
def Hw.homeAckF (h : Hw) (a : Agent) (line : Nat) : Hw :=
  let key := dirKey line
  if h.fenced a then h else
  match h.txns.find? (fun t => t.key == key && t.snoop == .FAP && t.wait.any (fun x => x.same a)), a.cdie with
  | some t, some d => ((h.setDir key (.shared (ins t.present d) d)).endTxn key).wakeWaiters
  | _, _ => h.homeErr 0x05 1 (snoopedLine line) (some a)

/-- A write-back-class message whose sender the state does not name: WBA, a record, no other effect (R680). -/
def Hw.wbStray (h : Hw) (r : HReq) : Hw := (h.reply .WBA r).homeErr 0x05 1 r.line (some r.agent)

/-- A write-back-class message fails the home's checks of partition and world (R681): WBA, its data discarded, code 0x08. -/
def Hw.wbRefused (h : Hw) (r : HReq) : Bool := !h.homePass r.part r.world (r.line <<< 6)

/-- The owner of a line, if the state names one that may give this line up. -/
def Hw.ownerGives (h : Hw) (r : HReq) : Option Nat :=
  match h.dirOf (dirKey r.line) with
  | .owned a m => if a.same r.agent && (!isFar r.line || m &&& lbit r.line != 0) then some m else none
  | _ => none

/-- A WB or an EVC is applied: the state after, WBA, and the transactions that waited for it (R262, R271, R273). Data is the coherent value already; a WB of a line obtained with OWN clears its POISON (R263), and a WB that failed its check is written as poisoned (R443). -/
def Hw.wbApply (h : Hw) (r : HReq) (st : Dir) (bad : Bool) : Hw :=
  let key := dirKey r.line
  let hw := if r.op == .WB then (h.rcServe .WB false r.line).1 else h
  let h0 := if r.op == .WB && has h.ownLines r.line then hw.clearPoison r.line else hw
  let hp := if bad && r.op == .WB then h0.setPoison r.line else h0
  let h1 := ((({ hp with ownLines := rem hp.ownLines r.line }).setDir key st).dirTouch key (decide (r.op = MsgOp.EVC))).reply .WBA r
  let h2 := { h1 with txns := mapIf (fun x => x.key == key) (fun x => { x with wb := x.wb.filter (fun a => !a.same r.agent) }) h1.txns }
  h2.advance key

/-- A WB or an EVC reaches the home (R258, R262, R264, R271, R273): of a near-tier line without an entry in the directory cache it is applied without reading the state. -/
def Hw.homeWb (h : Hw) (r : HReq) (bad : Bool) : Hw :=
  if h.fenced r.agent then h
  else if h.wbRefused r then (h.reply .WBA r).homeErr 0x08 2 r.line (some r.agent)
  else if !isFar r.line && !h.dcsHas r.line then h.wbApply r .unc bad
  else match h.ownerGives r with
    | none => h.wbStray r
    | some m =>
      let m1 := m &&& (65535 ^^^ lbit r.line)
      h.wbApply r (if isFar r.line && m1 != 0 then .owned r.agent m1 else .unc) bad

/-- An EVF reaches the home (R270, R680). -/
def Hw.homeEvf (h : Hw) (r : HReq) : Hw :=
  let key := dirKey r.line
  let d := r.die
  if h.fenced r.agent then h
  else if h.wbRefused r then (h.reply .WBA r).homeErr 0x08 2 r.line (some r.agent)
  else
    match h.dirOf key with
    | .shared vec f =>
      let vec1 := rem vec d
      if f ≠ d then
        let h1 := (h.setDir key (.shared vec1 f)).wbStray r
        let h2 := { h1 with txns := mapIf (fun x => x.key == key) (fun x => { x with wb := x.wb.filter (fun a => !a.same r.agent) }) h1.txns }
        h2.advance key
      else
        let h1 := (h.setDir key (if vec1.isEmpty then .unc else .shared vec1 0)).reply .WBA r
        if h1.busy key then
          let h2 := { h1 with txns := mapIf (fun x => x.key == key) (fun x => { x with wb := x.wb.filter (fun a => !a.same r.agent) }) h1.txns }
          h2.advance key
        else if vec1.isEmpty then h1
        else h1.openTxn { key := key, line := r.line, req := none, snoop := .PRB, wait := vec1.map (fun d => .core d 0) }
    | _ => h.wbStray r

/-! Timeouts (R279, R284). -/

/-- The code of the error record of a snoop that timed out (R282). -/
def timeoutCode (t : Txn) : Nat :=
  match t.snoop with
  | .INV => 0x02
  | .PRB => 0x03
  | .FAP => 0x03
  | _ => 0x01

/-- A snoop has timed out (R279): the line is poisoned and Uncached, the waiting request is answered with its grant, and the error is recorded. -/
def Hw.snoopTimedOut (h : Hw) (a : Agent) (line : Nat) (code : Option Nat) : Hw :=
  let key := dirKey line
  match h.txns.find? (fun t => t.key == key && (t.wait ++ t.wb).any (fun x => x.same a)) with
  | none => h
  | some t =>
    let ls := coveredLines t (h.dirOf key)
    let c := code.getD (timeoutCode t)
    let h2 := (h.loseAgent a line c ls).endTxn key
    match t.req with
    | some r => (h2.startReq r).wakeWaiters
    | none => h2.wakeWaiters

/-- A snoop and those that were sent at the same moment and have no answer either (R269, R279): each silent agent has its record, and may keep a copy that no one accepts. -/
def Hw.snoopsTimedOut (h : Hw) (a : Agent) (line : Nat) : Hw :=
  match h.txns.find? (fun t => t.key == dirKey line && (t.wait ++ t.wb).any (fun x => x.same a)) with
  | none => h
  | some t =>
    let others := if t.wait.any (fun x => x.same a) then t.wait.filter (fun x => !x.same a) else []
    let ls := coveredLines t (h.dirOf (dirKey line))
    others.foldl (fun (k : Hw) x => (k.makeStale x ls).homeErr (timeoutCode t) 2 (snoopedLine line) (some x)) (h.snoopTimedOut a line none)

/-- The snoops of the open transaction of a line have had their time (R279). -/
def Hw.snoopDue (h : Hw) (line : Nat) : Bool := h.txns.any (fun t => t.key == dirKey line && decide (t.due ≤ h.now))

/-- The lost directory state of a line (R286): every compute die, engine and port of the partition that owns the range is recalled; a fenced one has no answer (R284). -/
def Hw.dirLost (h : Hw) (line : Nat) : Hw :=
  let part := h.gibOwner (line >>> 24)
  let dies := ((List.range 12).map (· + 1)).filter (fun d => look 0 h.dieOwner d == part)
  let engs := (List.range 56).filter (fun n => look 0 h.engOwner n == part)
  let prts := (List.range 64).filter (fun n => look 0 h.portOwner n == part)
  let agents := (dies.map (fun d => Agent.core d 0) ++ engs.map Agent.eng ++ prts.map Agent.port).filter (fun a => !h.fenced a)
  let key := dirKey line
  if h.busy key then h
  else
    let h1 := h.openTxn { key := key, line := line, req := none, snoop := .RCI, wait := agents, lost := true }
    if agents.isEmpty then h1.advance key else h1

/-! Engines and ports as agents (R267). -/

/-- The key of an engine or a port agent among those with lines in write-back. -/
def agKey (a : Agent) : Nat :=
  match a with
  | .eng n => n
  | .port n => 100 + n
  | _ => 999

/-- An agent has a line in write-back (R272, R273). -/
def Hw.agPending (h : Hw) (a : Agent) (line : Nat) : Bool := has (look [] h.agWb (agKey a)) line

/-- An engine or a port agent gives a line up: its miss register waits for WBA (R272, R454). -/
def Hw.agGiveUp (h : Hw) (op : MsgOp) (a : Agent) (line : Nat) : Hw :=
  ({ h with agWb := put h.agWb (agKey a) (ins (look [] h.agWb (agKey a)) line) } : Hw).send
    { op := op, addr := line, agent := a, part := h.gibOwner (line >>> 24), world := h.secureLine line }

/-- A line's write-back is accepted (R272). -/
def Hw.agWritten (h : Hw) (a : Agent) (line : Nat) : Hw :=
  let l := rem (look [] h.agWb (agKey a)) line
  { h with agWb := if l.isEmpty then del h.agWb (agKey a) else put h.agWb (agKey a) l }

/-- The flags of an agent that holds none of the lines of a snoop (R266). -/
def Hw.absentFlags (h : Hw) (op : MsgOp) (a : Agent) (line : Nat) : Nat :=
  if (snoopLines line).any (fun l => h.agPending a l) && !(op == .PRB || op == .FAP) then 3 else ackAbsent

/-- An engine line cache answers a snoop (R267). -/
def Hw.elcAnswer (h : Hw) (op : MsgOp) (n line : Nat) : Hw :=
  let l := look [] h.elc n
  let held := (snoopLines line).filter (fun x => !(look .I l x == .I))
  let dirty := held.foldl (fun m x => if look .I l x == .M then m ||| lbit x else m) 0
  let drop (h : Hw) : Hw := { h with elc := put h.elc n (l.filter (fun e => !(held.contains e.1))) }
  if held.isEmpty then h.answer .ACK (.eng n) line (h.absentFlags op (.eng n) line)
  else match op with
    | .RCC => ({ h with elc := put h.elc n (mapIf (fun e => held.contains e.1) (fun e => (e.1, .E)) l) }).answer .RCD (.eng n) line dirty
    | .RCS => if dirty = 0 then (drop h).answer .ACK (.eng n) line 0 else (drop h).answer .RCD (.eng n) line dirty
    | .RCI => if dirty = 0 then (drop h).answer .ACK (.eng n) line 0 else (drop h).answer .RCD (.eng n) line dirty
    | _ => h.answer .ACK (.eng n) line ackAbsent

/-- An engine or a port agent holds a snoop: a miss on one of its lines is outstanding, or an AtomicOp waits for it (R265). -/
def Hw.agHolds (h : Hw) (a : Agent) (line : Nat) : Bool :=
  (snoopLines line).any (fun l => match a with
    | .eng n => (look [] h.esq n).any (fun e => lineOf e.1 == l) && look .I (look [] h.elc n) l == .I
    | .port n => (look [] h.patom n).any (fun p => lineOf p.addr == l)
    | _ => false)

/-- An engine, a port agent or a unit of the hub answers a snoop (R267). -/
def Hw.agAnswer (h : Hw) (op : MsgOp) (a : Agent) (line : Nat) : Hw :=
  match a with
  | .eng n => h.elcAnswer op n line
  | _ => h.answer .ACK a line (h.absentFlags op a line)

/-- The snoops that an engine or a port agent has held are answered once nothing holds them (R265). -/
def Hw.serveAgent (h : Hw) (a : Agent) : Hw :=
  let ready (m : Msg) : Bool := m.agent == a && !h.agHolds a m.addr
  (h.heldSn.filter ready).foldl (fun (h : Hw) m => h.agAnswer m.op a m.addr) { h with heldSn := h.heldSn.filter (fun m => !ready m) }

/-! Replies at the requester. -/

/-- The value that an AtomicOp leaves (R247). -/
def PAtomic.result (p : PAtomic) (old : Nat) : Nat :=
  if p.kind = 0 then (old + p.a) % 2 ^ (8 * p.size)
  else if p.kind = 1 then p.a
  else if old = p.a then p.b else old

/-- A port sends a completion to its device. -/
def Hw.dmaCpl (h : Hw) (n : Nat) (c : DmaCpl) : Hw := { h with dmaCpls := put h.dmaCpls n (look [] h.dmaCpls n ++ [c]) }

/-- A port that has ownership of a line performs the AtomicOps that wait for it, completes them and returns the line (R247, R265). -/
def Hw.portGranted (h : Hw) (n line : Nat) : Hw :=
  let l := look [] h.patom n
  let mine := l.filter (fun p => lineOf p.addr == line)
  let h1 := mine.foldl (fun (h : Hw) p => (h.writeNum p.addr p.size (p.result (h.readNum p.addr p.size))).dmaCpl n { rid := p.rid, va := p.va, poison := h.poisoned p.addr })
    { h with patom := put h.patom n (l.filter (fun p => !(lineOf p.addr == line))) }
  (h1.agGiveUp .WB (.port n) line).serveAgent (.port n)

/-- An engine that has ownership of a line performs its waiting stores (R265). -/
def Hw.engGranted (h : Hw) (n line : Nat) : Hw :=
  let q := look [] h.esq n
  let mine := q.filter (fun e => lineOf e.1 == line)
  let h1 := { h with esq := put h.esq n (q.filter (fun e => !(lineOf e.1 == line))),
                     elc := put h.elc n (mruPut (look [] h.elc n) line (if mine.isEmpty then .E else .M)),
                     run := mapIf (fun e => e.1 == n) (fun e => (e.1, { e.2 with merges := del e.2.merges line })) h.run }
  (h1.writeCells mine).serveAgent (.eng n)

/-- The relaxed writes at the head of a port's order queue that are visible leave it. -/
def dropVisible : List PWrite → List PWrite
  | [] => []
  | w :: r => if w.relaxed && w.ready then dropVisible r else w :: r

/-- A port sends the CMT of its oldest posted write once that is ready: every earlier one is visible (R32). -/
def Hw.portCommits (h : Hw) (n : Nat) : Hw :=
  match dropVisible (look [] h.pwr n) with
  | [] => { h with pwr := del h.pwr n }
  | w :: r =>
    if w.ready && !w.sent then
      ({ h with pwr := put h.pwr n ({ w with sent := true } :: r) } : Hw).send { op := .CMT, addr := w.line, agent := .port n, part := h.agentPart (.port n) }
    else { h with pwr := put h.pwr n (w :: r) }

/-- The first posted write of a port to a line that has had no answer. -/
def openWrite (line : Nat) (w : PWrite) : Bool := w.line == line && !w.ready

/-- A posted write of a port is ready, or visible when relaxed (R32). -/
def Hw.portReady (h : Hw) (n line : Nat) : Hw :=
  ({ h with pwr := put h.pwr n (markFirst (openWrite line) (fun w => { w with ready := true }) (look [] h.pwr n)) } : Hw).portCommits n

/-- The write that a port's CMT names is visible: the next one may be committed (R32). -/
def Hw.portVisible (h : Hw) (n line : Nat) : Hw :=
  ({ h with pwr := put h.pwr n (dropFirst (fun (w : PWrite) => w.sent && w.line == line) (look [] h.pwr n)) } : Hw).portCommits n

/-! Fences (R283, R284). -/

/-- The requests and snoops of a newly fenced agent: waiting requests are dropped, grants on their way to it are discarded, recalls time out at once, and other snoops count as ABSENT. -/
def Hw.fenceAgent (h : Hw) (a : Agent) : Hw :=
  let gone (m : Msg) : Bool := m.agent.same a && [MsgOp.GNTE, .GNTS, .GNTF, .GNTO, .DATA, .RDY, .DONE, .WBA, .DFR, .REF].contains m.op
  let h0 : Hw := { h with waitq := h.waitq.filter (fun r => !r.agent.same a), msgs := h.msgs.filter (fun m => !gone m) }
  let h1 := h0.dropAgentSlots a
  h1.txns.foldl (fun h t =>
    let h := if (t.req.map (fun r => r.agent.same a)).getD false then
        { h with txns := mapIf (fun x => x.key == t.key) (fun x => { x with req := none }) h.txns } else h
    if (t.wait ++ t.wb).any (fun x => x.same a) then
      if t.snoop == .INV || t.snoop == .PRB || t.snoop == .FAP then
        let h2 := { h with txns := mapIf (fun x => x.key == t.key) (fun x => { x with wait := x.wait.filter (fun y => !y.same a), wb := x.wb.filter (fun y => !y.same a) }) h.txns }
        h2.advance t.key
      else h.snoopTimedOut a t.line (some 0x04)
    else h) h1

/-- The agents that bits of a fence register name (R283): a port die fences its ports and engines too. -/
def fenceAgents (engines : Bool) (v : W64) : List Agent :=
  if engines then ((List.range 56).filter (fun n => wbit v n)).map Agent.eng
  else (((List.range 12).filter (fun d => wbit v (d + 1))).map (fun d => Agent.core (d + 1) 0)) ++
    (((List.range 4).filter (fun k => wbit v (16 + k))).flatMap (fun k =>
      ((List.range 16).map (fun i => Agent.port (16 * k + i))) ++ ((List.range 8).map (fun i => Agent.eng (24 + 8 * k + i)))))

/-- The fence bits that a write sets (R283): W1S, the same in every slice. -/
def Hw.fenceSet (h : Hw) (engines : Bool) (v : W64) : Hw :=
  let old := h.reg (if engines then .HOME_FENCE1 else .HOME_FENCE0) 0 0 0
  let m : W64 := v &&& (if engines then 0x00FFFFFFFFFFFFFF else 0x00000000000F1FFE)
  let new : W64 := m &&& ~~~old
  let h1 := h.setReg (if engines then .HOME_FENCE1 else .HOME_FENCE0) 0 0 0 (old ||| m)
  (fenceAgents engines new).foldl Hw.fenceAgent h1

/-! Reads and writes of the package's own units through the homes. -/

/-- The pieces of a range of bytes by line: the line, the byte mask and the data at its place. -/
def linePieces : Nat → Nat → List Byte → List (Nat × Nat × Nat)
  | 0, _, _ => []
  | _ + 1, _, [] => []
  | n + 1, pa, b :: r =>
    let off := pa % 64
    let k := 64 - off
    let l := (b :: r).take k
    (pa / 64, (2 ^ l.length - 1) <<< off, ofBytes l <<< (8 * off)) :: linePieces n (pa + k) ((b :: r).drop k)

/-- An agent writes bytes through the homes: WRF for a whole line, WRP for a part (R263). -/
def Hw.agentWrite (h : Hw) (a : Agent) (part : Nat) (world : Bool) (pa : Nat) (bs : List Byte) : Hw :=
  (linePieces (bs.length / 64 + 2) pa bs).foldl (fun h p =>
    h.homeRequest { op := if p.2.1 = 2 ^ 64 - 1 then .WRF else .WRP, line := p.1, agent := a, part := part, world := world,
                    data := p.2.2, mask := p.2.1 }) h

/-- The homes would pass a request for every line of a range (R287, R487, R560). -/
def Hw.rangePass (h : Hw) (part : Nat) (world : Bool) (pa len : Nat) : Bool :=
  (List.range (len / 64 + 2)).all (fun i =>
    let a := pa / 64 * 64 + 64 * i
    decide (pa + len ≤ a) || (h.homePass part world a && h.mapped a))

/-- A line of a range is marked POISON. -/
def Hw.rangePoisoned (h : Hw) (pa len : Nat) : Bool :=
  (List.range (len / 64 + 2)).any (fun i =>
    let a := pa / 64 * 64 + 64 * i
    decide (a < pa + len) && h.poisoned a)

/-- An agent reads bytes through the homes; none where a home refuses or a line is poisoned. -/
def Hw.agentRead (h : Hw) (part : Nat) (world : Bool) (pa len : Nat) : Option (List Byte) :=
  if h.rangePass part world pa len && !h.rangePoisoned pa len then some (h.bytes pa len) else none

end Sys2Proof.Machine
end

