-- ==== Sys2Proof/Machine/MemTier.lean ====
section
/-! DEFINITION. The memory tiers: interleave descriptors, quotas, render-cache scrub, initialisation, hotness snapshots, patrol scrub, sweeps, sparing and channel failure (spec/08_memory_tiers.md R287 to R329). -/

namespace Sys2Proof.Machine

/-! Ranks of a channel (R291, R326, R327). -/

/-- What the SPD image of a DIMM position says; none where it is empty. -/
def Hw.spd (h : Hw) (ch dimm : Nat) : Option Config.SpdInfo := (look? h.dimms (2 * ch + dimm)).map Config.spdInfo

/-- The ranks of a channel's DIMMs, as 4 * DIMM + rank, in the order of R291. -/
def Hw.allRanks (h : Hw) (ch : Nat) : List Nat :=
  [0, 1].flatMap (fun d => match h.spd ch d with
    | some i => (List.range (min 4 i.ranks)).map (4 * d + ·)
    | none => [])

/-- The spare rank that is held, as 4 * DIMM + rank (R326). -/
def Hw.spareRank (h : Hw) (ch : Nat) : Option Nat :=
  let v := h.reg .MEMC_SPARE 0 ch 0
  if wbit v 32 then some (wbits v 35 33) else none

/-- The ranks in use, in order: the spare is left out, and once used it stands in its source's place (R291, R326, R327). -/
def Hw.ranks (h : Hw) (ch : Nat) : List Nat :=
  let l := (h.allRanks ch).filter (fun r => h.spareRank ch ≠ some r)
  match look? h.spared ch, h.spareRank ch with
  | some src, some sp => l.map (fun r => if r = src then sp else r)
  | _, _ => l

/-- What the DIMMs of a channel say, which R292 makes alike. -/
def Hw.chInfo (h : Hw) (ch : Nat) : Option Config.SpdInfo :=
  match h.spd ch 0 with
  | some i => some i
  | none => h.spd ch 1

/-- GiB of one rank of a channel. -/
def Hw.rankGib (h : Hw) (ch : Nat) : Nat := ((h.chInfo ch).map (·.rankGib)).getD 0

/-- The devices of a channel are x8. -/
def Hw.chX8 (h : Hw) (ch : Nat) : Bool := decide ((h.chInfo ch).map (·.width) = some 8)

/-- Where a word lies in its channel, as MEMC_ERRn_INFO gives it (R324). -/
structure MemLoc where
  dimm : Nat
  rank : Nat
  subch : Nat
  bg : Nat
  ba : Nat
  row : Nat
  deriving DecidableEq, Repr

/-- A place that names nothing. -/
def noLoc : MemLoc := ⟨0, 0, 0, 0, 0, 0⟩

/-- The DRAM place of a local address of a channel (R291). -/
def Hw.memLoc (h : Hw) (ch loc : Nat) : MemLoc :=
  let size := max 1 (h.rankGib ch <<< 30)
  let r := (h.ranks ch).getD (loc / size) 0
  let a := loc % size
  let row := a >>> (if h.chX8 ch then 18 else 19)
  ⟨r / 4, r % 4, nbits a 6 6, nbits a 12 10 ^^^ row % 8, nbits a 14 13 ^^^ row / 8 % 4, row⟩

/-! Interleave descriptors (R288, R289). -/

/-- A descriptor: the values of HOME_ISETnn_A and HOME_ISETnn_B. -/
structure ISet where
  a : W64
  b : W64
  deriving DecidableEq, Repr

/-- The descriptor in force of a set. -/
def Hw.iset (h : Hw) (nn : Nat) : ISet := ⟨h.reg .HOME_ISET_A 0 0 nn, h.reg .HOME_ISET_B 0 0 nn⟩

namespace ISet
/-- VALID. -/
def valid (d : ISet) : Bool := wbit d.a 63
/-- TIER: true for the far tier. -/
def far (d : ISet) : Bool := wbit d.a 62
/-- N. -/
def n (d : ISet) : Nat := F.HOME_ISET_A_N.get d.a
/-- FIRST. -/
def first (d : ISet) : Nat := F.HOME_ISET_A_FIRST.get d.a
/-- BASE, a GiB index. -/
def base (d : ISet) : Nat := F.HOME_ISET_A_BASE.get d.a
/-- SIZE in GiB. -/
def size (d : ISet) : Nat := F.HOME_ISET_B_SIZE.get d.b
/-- LBASE in GiB. -/
def lbase (d : ISet) : Nat := F.HOME_ISET_B_LBASE.get d.b
/-- GiB on each target. -/
def share (d : ISet) : Nat := d.size / max 1 d.n
end ISet

/-- Two ranges of numbers meet. -/
def meet (a la b lb : Nat) : Bool := decide (a < b + lb) && decide (b < a + la)

/-- The rules of the table of R289 for one descriptor. -/
def ISet.formed (d : ISet) : Bool :=
  let gran := F.HOME_ISET_A_GRAN.get d.a
  (if d.far then [1, 2, 4, 8, 16].contains d.n && [1, 2].contains gran && decide (d.first / 16 = (d.first + d.n - 1) / 16)
   else [1, 2, 3, 4, 6, 8, 12, 24].contains d.n && [0, 1].contains gran && decide (d.first + d.n ≤ 24)) &&
  decide (d.first % max 1 d.n = 0) && decide (d.size % max 1 d.n = 0)

/-- The capacity of a target in GiB (R289): of a channel that trained, its ranks in use; of a port, what is mapped on its device. -/
def Hw.capOf (h : Hw) (far : Bool) (t : Nat) : Nat :=
  if far then look 0 h.cap (100 + t)
  else if (look? h.cap t).isSome then (h.ranks t).length * h.rankGib t else 0

/-- The rules of R289 for one descriptor, with the capacity of each target. -/
def Hw.isetRules (h : Hw) (d : ISet) : Bool :=
  d.formed && (List.range d.n).all (fun i => decide (d.lbase + d.share ≤ h.capOf d.far (d.first + i)))

/-- The HDM decoders of a set's devices (R298): programmed for a valid far set, for a port whose device is mapped; none otherwise. -/
def Hw.hdmProgram (h : Hw) (nn : Nat) : Hw :=
  let d := h.iset nn
  let h1 : Hw := { h with hdm := h.hdm.filter (fun e => decide (e.1 % 32 ≠ nn)) }
  if d.valid && d.far then
    ((List.range d.n).filter (fun i => (look? h.cap (100 + d.first + i)).isSome)).foldl (fun (x : Hw) i =>
      { x with hdm := put x.hdm (32 * (d.first + i) + nn) ⟨d.n, F.HOME_ISET_A_GRAN.get d.a, d.base, d.lbase⟩ }) h1
  else h1

/-- The device address that a device's decoder gives a physical address (R298), as the decoder arithmetic of CXL 3.1 for a number of ways that is a power of two. -/
def HdmDec.decode (x : HdmDec) (pa : Nat) : Nat :=
  let g := if x.gran = 1 then 12 else 14
  let off := pa - (x.base <<< 30)
  (x.lbase <<< 30) + ((off >>> g) / max 1 x.ways) * 2 ^ g + off % 2 ^ g

/-- A descriptor overlaps another valid set, in physical address or on the local range of a target (R289). -/
def isetClash (d e : ISet) : Bool :=
  e.valid && (meet d.base d.size e.base e.size ||
    (d.far == e.far && meet d.first d.n e.first e.n && meet d.lbase d.share e.lbase e.share))

/-- A descriptor may be applied to a set (R289). -/
def Hw.isetOk (h : Hw) (nn : Nat) (d : ISet) : Bool :=
  !d.valid || (h.isetRules d && (List.range 32).all (fun k => k == nn || !isetClash d (h.iset k)))

/-- A partition owns a GiB of a range (R289). -/
def Hw.ownedIn (h : Hw) (base size : Nat) : Bool :=
  let w := regAddr .HOME_RNGOWN 0 0 0
  h.regs.any (fun (a, v) => decide (w ≤ a) && decide (a < w + 8 * 9216) &&
    (List.range 16).any (fun j =>
      let g := 16 * ((a - w) / 8) + j
      let o := wbits v (4 * j + 3) (4 * j)
      decide (base ≤ g) && decide (g < base + size) && decide (1 ≤ o) && decide (o ≤ 12)))

/-- A GiB of a range is being initialised: it belongs to a valid set that is not done (R289, R311). -/
def Hw.initIn (h : Hw) (base size : Nat) : Bool :=
  (List.range 32).any (fun k =>
    let d := h.iset k
    let done := F.HOME_ISET_B_DONE.get d.b
    d.valid && decide (done < d.size) && meet base size (d.base + done) (d.size - done))

/-- A write that would change a set in use is discarded and logged with reason 0x03 (R289). -/
def Hw.isetBusy (h : Hw) (d : ISet) : Bool :=
  d.valid && (h.ownedIn d.base d.size || h.initIn d.base d.size)

/-- The value that a write leaves in a register's fields. -/
def merged (half : Half) (old v : W64) : W64 := (old &&& ~~~(halfMask half)) ||| (v &&& halfMask half)

/-- A write of HOME_ISETnn_B: held in its shadow (R288). -/
def Hw.isetB (h : Hw) (w : Who) (nn : Nat) (half : Half) (v : W64) (slice : Nat := 0) : Hw :=
  let r := RegRef.at .HOME_ISET_B 0 slice nn
  if h.isetBusy (h.iset nn) then h.cfgReject r.pa w 0x03 else h.writeFields r w half v

/-- A write of HOME_ISETnn_A: it stages the descriptor with the held B value, or with the B value in force (R288). -/
def Hw.isetA (h : Hw) (w : Who) (nn : Nat) (half : Half) (v : W64) (slice : Nat := 0) : Hw :=
  let r := RegRef.at .HOME_ISET_A 0 slice nn
  let pa := regAddr r.name 0 0 nn
  let pb := regAddr .HOME_ISET_B 0 0 nn
  let new : ISet := ⟨merged half (look (h.iset nn).a h.shadow pa) v, look (h.iset nn).b h.shadow pb⟩
  if h.isetBusy (h.iset nn) || h.isetBusy new then h.cfgReject r.pa w 0x03
  else { h.writeFields r w half v with isetWho := put h.isetWho nn w }

/-- ISET_B_WRITE (R288). -/
def execIsetBWrite (who : Who) (nn : Fin 32) (half : Half) (v : W64) (s : State) : Host.Outcome State Fault Refusal :=
  s.onHw (fun h => h.permit (RegRef.at .HOME_ISET_B 0 0 nn.val) who v (fun h => h.isetB who nn.val half v))

/-- ISET_A_WRITE (R288). -/
def execIsetAWrite (who : Who) (nn : Fin 32) (half : Half) (v : W64) (s : State) : Host.Outcome State Fault Refusal :=
  s.onHw (fun h => h.permit (RegRef.at .HOME_ISET_A 0 0 nn.val) who v (fun h => h.isetA who nn.val half v))

/-- The writer named in a record for a staged descriptor: its writer, or the structure engine. -/
def structureEngine : Who := { part := 0, world := false, level := 3, thread := 0, src := .structureEngine }

/-- A transaction is open on a range of GiBs at some home. -/
def Hw.openIn (h : Hw) (base size : Nat) : Bool :=
  h.txns.any (fun t => decide (base ≤ t.line >>> 24) && decide (t.line >>> 24 < base + size))

/-- A staged descriptor is checked and applied, with nothing yet initialised (R289, R311); while a transaction is open on the set's range, it waits. -/
def Hw.isetApplied (h : Hw) (nn : Nat) : Hw :=
  let pa := regAddr .HOME_ISET_A 0 0 nn
  let pb := regAddr .HOME_ISET_B 0 0 nn
  match look? h.shadow pa with
  | none => h
  | some a =>
    let old := h.iset nn
    let new : ISet := ⟨a, F.HOME_ISET_B_DONE.set (look old.b h.shadow pb) 0⟩
    if (old.valid && h.openIn old.base old.size) || (new.valid && h.openIn new.base new.size) then h
    else
      let h1 := { h with shadow := del (del h.shadow pa) pb, isetWho := del h.isetWho nn }
      if h.isetOk nn new then ((h1.setReg .HOME_ISET_A 0 0 nn new.a).setReg .HOME_ISET_B 0 0 nn new.b).hdmProgram nn
      else h1.cfgReject pa (look structureEngine h.isetWho nn) 0x03

/-- ISET_APPLY (R289). -/
def execIsetApply (nn : Fin 32) (s : State) : Host.Outcome State Fault Refusal := s.onHw (fun h => h.isetApplied nn.val)

/-! Quotas and the scrub of the render cache (R303, R305). -/

/-- A write of HOME_RCWAYnn acts on all 32 slices (R303). -/
def Hw.rcwayWrite (h : Hw) (w : Who) (slice idx : Nat) (half : Half) (v : W64) : Hw :=
  let pa := regAddr .HOME_RCWAY 0 slice idx
  let h1 := h.writeFields (RegRef.at .HOME_RCWAY 0 slice idx) w half v
  match look? h1.shadow pa with
  | some x => { h1 with shadow := (List.range 32).foldl (fun l k => put l (regAddr .HOME_RCWAY 0 k idx) x) h1.shadow }
  | none => h1

/-- RC_QUOTA_APPLY (R303). -/
def execRcQuotaApply (slice : SliceNum) (p : PartId) (s : State) : Host.Outcome State Fault Refusal :=
  s.onHw (fun h => h.applyShadow (RegRef.at .HOME_RCWAY 0 slice.val p.val))

/-- RC_SCRUB_READ (R305): the scrub walker reads a line that the render cache holds. -/
def execRcScrubRead (l : Line) (err : RcErr) (s : State) : Host.Outcome State Fault Refusal :=
  s.onHw (fun h =>
    let line := l.toNat
    match h.rcFind line with
    | none => h
    | some w =>
      match err with
      | .clean => h
      | .corrected => h.ras 0 1 { code := 0x41, sev := 1, addr := line <<< 6, part := h.gibOwner (line >>> 24) }
      | .stateLost => if h.dcsHas (dirKey line) then h else h.dirLost line
      | .dataLost =>
        if !w.ddirty then h.rcDrop line
        else match h.dirOf (dirKey line) with
          | .owned a _ =>
            if h.busy (dirKey line) then h
            else if h.fenced a then h.recallFenced a line
            else h.openTxn { key := dirKey line, line := line, req := none, snoop := .RCI, wait := [a], lost := true }
          | _ => (h.setPoison line).homeErr 0x06 2 line none)

/-! The far tier (R299). -/

/-- CXL_READ_TIMEOUT (R299): the line is returned marked POISON, nothing is written into the device, and the port die records it. -/
def execCxlReadTimeout (l : Line) (s : State) : Host.Outcome State Fault Refusal :=
  s.onHw (fun h => if isFar l.toNat then h.farLate l.toNat else h)

/-! Initialisation (R310, R313, R314). -/

/-- A directory key lies in a GiB. -/
def keyInGib (g key : Nat) : Bool := decide ((if key < 2 ^ 50 then key else (key - 2 ^ 50) * 16) >>> 24 = g)

/-- The homes discard the render-cache lines and the directory entries of a GiB, without writing them back (R310). -/
def Hw.discardGib (h : Hw) (g : Nat) : Hw :=
  { h with
    dcs := (h.dcs.map (fun e => (e.1, e.2.filter (fun x => !keyInGib g x.1)))).filter (fun e => !e.2.isEmpty),
    dwb := h.dwb.filter (fun k => !keyInGib g k),
    dhold := h.dhold.filter (fun k => !keyInGib g k.1),
    rc := (h.rc.map (fun e => (e.1, e.2.filter (fun w => !decide (w.line >>> 24 = g))))).filter (fun e => !e.2.isEmpty) }

/-- A GiB is initialised (R310, R313): a near GiB is zero, Uncached and free of POISON, but for what the Sizing loader staged for a boot GiB (R578); a far GiB is Uncached, and the POISON of its device stays (R509). -/
def Hw.initGib (h : Hw) (g : Nat) : Hw :=
  let near := decide (g <<< 30 < 0x0100000000000)
  let h1 := h.discardGib g
  let m := h1.mem.filter (fun e => decide (e.1 >>> 30 ≠ g))
  { h1 with
    mem := if near then (look [] h1.boot.stage g).foldl (fun (x : List Host.Cell) (e : Nat × List Byte) => memSets x ((g <<< 30) + e.1) e.2) m else m,
    dir := h1.dir.filter (fun e => !keyInGib g e.1),
    poison := if near then h1.poison.filter (fun l => !decide (l >>> 24 = g)) else h1.poison,
    tpoison := h1.tpoison.filter (fun l => !decide (l >>> 24 = g)),
    boot := { h1.boot with stage := del h1.boot.stage g } }

/-- The memory-ready event of a partition, which names the GiB (R314). -/
def Hw.memReady (h : Hw) (p g : Nat) : Hw := if p ≤ 12 then h.raise { source := 0x210 + p, part := p, info := g } else h

/-- DONE of a descriptor. -/
def ISet.done (d : ISet) : Nat := F.HOME_ISET_B_DONE.get d.b

/-- The place of a set in the order of initialisation (R311 step 7, R313): the set that holds the region table comes first. -/
def Hw.initRank (h : Hw) (nn : Nat) : Nat :=
  let d := h.iset nn
  let t := h.fld .HOME_RTBASE 0 0 0 F.HOME_RTBASE_BASE
  if d.valid && decide (d.base ≤ t) && decide (t < d.base + d.size) then 0 else nn + 1

/-- A set waits for an earlier set with a target of its own that is not yet initialised (R313). -/
def Hw.initWaits (h : Hw) (nn : Nat) : Bool :=
  let d := h.iset nn
  (List.range 32).any (fun k =>
    let e := h.iset k
    e.valid && decide (e.done < e.size) && decide (h.initRank k < h.initRank nn) && (d.far == e.far) && meet d.first d.n e.first e.n)

/-- FAR_EN takes the structure image's value once every GiB of the region table is initialised (R311 step 7). -/
def Hw.farEnable (h : Hw) : Hw :=
  let t := h.fld .HOME_RTBASE 0 0 0 F.HOME_RTBASE_BASE
  let n := h.fld .HOME_RTBASE 0 0 0 F.HOME_RTBASE_SIZE
  if h.farHeld && (List.range n).all (fun i => h.mapped ((t + i) <<< 30)) then
    (List.range 32).foldl (fun (x : Hw) k => x.setFld .HOME_DIRCTL 0 k 0 F.HOME_DIRCTL_FAR_EN 1) { h with farHeld := false }
  else h

/-- FAR_EN of the structure image is held back until the region table is initialised (R311 step 7). -/
def Hw.farHold (h : Hw) : Hw :=
  if h.flag .HOME_DIRCTL 0 0 0 F.HOME_DIRCTL_FAR_EN then
    ((List.range 32).foldl (fun (x : Hw) k => x.setFld .HOME_DIRCTL 0 k 0 F.HOME_DIRCTL_FAR_EN 0) { h with farHeld := true }).farEnable
  else { h with farHeld := false }

/-- The next GiB of a set finishes its initialisation (R313, R314); a GiB that is not the next one of its set, or whose set waits for another, has no effect. -/
def Hw.initDone (h : Hw) (g : Nat) : Hw :=
  match (List.range 32).find? (fun nn =>
    let d := h.iset nn
    d.valid && decide (g = d.base + d.done) && decide (d.done < d.size)) with
  | some nn =>
    if h.initWaits nn then h
    else
      let h1 := h.initGib g
      ((h1.setFld .HOME_ISET_B 0 0 nn F.HOME_ISET_B_DONE (h1.fld .HOME_ISET_B 0 0 nn F.HOME_ISET_B_DONE + 1)).memReady (h.gibOwner g) g).farEnable
  | none => h

/-! GiBs in transition (R509, R561). -/

/-- The owner of a GiB, written by the homes (R488). -/
def Hw.setGibOwner (h : Hw) (g o : Nat) : Hw :=
  h.setReg .HOME_RNGOWN 0 0 (g / 16) (setWbits (h.reg .HOME_RNGOWN 0 0 (g / 16)) (4 * (g % 16) + 3) (4 * (g % 16)) o)

/-- The secure mark of a GiB (R560). -/
def Hw.setGibSecure (h : Hw) (g : Nat) (b : Bool) : Hw :=
  h.setReg .HOME_RNGSEC 0 0 (g / 64) (setWbits (h.reg .HOME_RNGSEC 0 0 (g / 64)) (g % 64) (g % 64) (b2n b))

/-- The keys of a GiB whose directory state is not Uncached. -/
def Hw.gibKeys (h : Hw) (g : Nat) : List (Nat × Dir) :=
  h.dir.filter (fun e => decide ((if e.1 < 2 ^ 50 then e.1 else (e.1 - 2 ^ 50) * 16) >>> 24 = g))

/-- The release sweep's recall of one state (R509 step 2). -/
def Hw.sweepRecall (h : Hw) (key : Nat) (d : Dir) : Hw :=
  let line := if key < 2 ^ 50 then key else (key - 2 ^ 50) * 16
  if h.busy key then h else
    match d with
    | .owned a _ => if h.fenced a then h.recallFenced a line else h.openTxn { key := key, line := line, req := none, snoop := .RCI, wait := [a] }
    | .shared vec0 f =>
      let vec := vec0.filter (fun d => !h.fenced (.core d 0))
      if vec.isEmpty then h.setDir key .unc
      else h.openTxn { key := key, line := line, req := none, snoop := .INV, wait := (invOrder vec f).map (fun x => .core x 0) }
    | .unc => h

/-- The release sweep of a GiB begins (R509 step 2). -/
def Hw.releaseSweep (h : Hw) (g : Nat) : Hw := (h.gibKeys g).foldl (fun x e => x.sweepRecall e.1 e.2) h

/-- The release sweep of a GiB has recalled every copy. -/
def Hw.released (h : Hw) (g : Nat) : Bool :=
  (h.gibKeys g).isEmpty && !(h.txns.any (fun t => decide (t.line >>> 24 = g)))

/-- A GiB begins a transition (R509 steps 1 and 2, R561): all but a marking refuse every request from now on. -/
def Hw.gibStart (h : Hw) (g owner : Nat) (why : GibWhy) : Hw :=
  let h1 := if why = .mark then h.setGibSecure g true else h.setGibOwner g 0xE
  let h2 : Hw := { h1 with gibMoves := h1.gibMoves.filter (fun (m : GibMove) => decide (m.gib ≠ g)) ++ [{ gib := g, owner := owner, why := why }] }
  h2.releaseSweep g

/-- The command of SEC_RNGCMD that names a GiB ends with a result (R560, R561). -/
def Hw.rngDone (h : Hw) (g res : Nat) : Hw :=
  (List.range 12).foldl (fun x i =>
    if x.flag .SEC_RNGCMD 0 0 i F.SEC_RNGCMD_BUSY && decide (x.fld .SEC_RNGCMD 0 0 i F.SEC_RNGCMD_GIB = g) then
      (x.setFld .SEC_RNGCMD 0 0 i F.SEC_RNGCMD_BUSY 0).setFld .SEC_RNGCMD 0 0 i F.SEC_RNGCMD_RESULT res
    else x) h

/-- The transition of a GiB ends (R509 step 5, R561): its owner and its mark take their values, and the new owner's event is raised. -/
def Hw.gibEnd (h : Hw) (m : GibMove) : Hw :=
  let h1 := { h with gibMoves := h.gibMoves.filter (fun x => decide (x.gib ≠ m.gib)) }
  match m.why with
  | .mark => h1.rngDone m.gib 0
  | .unmark => ((h1.setGibSecure m.gib false).setGibOwner m.gib m.owner).rngDone m.gib 0
  | .owner => (((h1.setGibSecure m.gib false).setGibOwner m.gib m.owner).rngDone m.gib 1).memReady m.owner m.gib
  | .rekey => (h1.setGibOwner m.gib m.owner).memReady m.owner m.gib

/-- The release sweep of a GiB ends (R509 step 3, R561): its render-cache lines and directory entries are discarded; a GiB with an owner is then initialised. -/
def Hw.gibSwept (h : Hw) (g : Nat) : Hw :=
  match h.gibMoves.find? (fun m => decide (m.gib = g) && !m.init) with
  | none => h
  | some m =>
    if !h.released g then h
    else if m.why = .mark then h.gibEnd m
    else if m.owner = 0xF then (h.discardGib g).gibEnd m
    else { h.discardGib g with gibMoves := mapIf (fun x => decide (x.gib = g)) (fun x => { x with init := true }) h.gibMoves }

/-- MEM_INIT_GIB_DONE (R314, R509 steps 4 and 5): a GiB in transition ends it; the next GiB of a set is counted in DONE. -/
def execMemInitGibDone (gib : BitVec 18) (s : State) : Host.Outcome State Fault Refusal :=
  s.onHw (fun h =>
    match h.gibMoves.find? (fun m => decide (m.gib = gib.toNat) && m.init) with
    | some m => (h.initGib gib.toNat).gibEnd m
    | none => h.initDone gib.toNat)

/-! Hotness snapshots (R318, R319). -/

/-- A record of a snapshot (R319). -/
def hotRecord (e : Nat × Nat) : Nat := e.2 <<< 48 ||| (e.1 % 2 ^ 40) <<< 8 ||| 1

/-- The bytes that a slice writes for a partition. -/
def hotBytes (quota : Nat) (l : List (Nat × Nat)) : List Byte :=
  (List.range quota).flatMap (fun i => toBytes 8 (match l[i]? with
    | some e => hotRecord e
    | none => 0))

/-- A slice applies the operation to its entries. -/
def hotAfter (op : Nat) (l : List (Nat × Nat)) : List (Nat × Nat) :=
  if op = 2 then [] else if op = 3 then l.map (fun e => (e.1, e.2 / 2)) else l

/-- The snapshot of one slice (R319); the Boolean says that a record write was refused, which ends it. -/
def Hw.hotSlice (h : Hw) (p op base quota k : Nat) : Hw × Bool :=
  let key := 16 * k + p
  let l := look [] h.hot key
  let pa := base + k * quota * 8
  let h1 := { h with hot := putC [] h.hot key (hotAfter op l) }
  let bs := hotBytes quota l
  match (List.range ((8 * quota + 63) / 64)).find? (fun i => !h.rangePass p false (pa + 64 * i) 1) with
  | none => (h1.agentWrite .hub p false pa bs, false)
  | some i => ((h1.agentWrite .hub p false pa (bs.take (64 * i))).homeRefusal p false (pa + 64 * i), true)

/-- A write of HOME_HOTSNAPnn (R318): its fields, and the snapshot that a nonzero OP starts. While BUSY is 1, a write with OP nonzero is discarded. -/
def Hw.hotsnapWrite (h : Hw) (w : Who) (idx : Nat) (half : Half) (v : W64) : Hw :=
  let r := RegRef.at .HOME_HOTSNAP 0 0 idx
  let op := wbits (v &&& halfMask half) 59 58
  if op ≠ 0 ∧ wbit (h.reg .HOME_HOTSNAP 0 0 idx) 63 then h
  else
    let h1 := h.writeFields r w half v
    if op = 0 then h1
    else
      let quota := h1.fld .HOME_HOTCTL 0 0 idx F.HOME_HOTCTL_QUOTA
      let base := h1.fld .HOME_HOTSNAP 0 0 idx F.HOME_HOTSNAP_BASE <<< 12
      let (h2, bad) := if quota = 0 then (h1, false) else
        (List.range 32).foldl (fun (a : Hw × Bool) k =>
          let (x, y) := a.1.hotSlice (idx + 1) op base quota k
          (x, a.2 || y)) (h1, false)
      let res := if quota = 0 then 2 else if bad then 1 else 0
      (h2.setFld .HOME_HOTSNAP 0 0 idx F.HOME_HOTSNAP_RESULT res).setFld .HOME_HOTSNAP 0 0 idx F.HOME_HOTSNAP_BUSY 1

/-- The snapshot command of an OP. -/
def hotsnapCmd (op : Nat) (who : Who) (nn : Fin 12) (v : W64) (s : State) : Host.Outcome State Fault Refusal :=
  let v1 := setWbits v 59 58 op
  s.onHw (fun h => h.permit (RegRef.at .HOME_HOTSNAP 0 0 nn.val) who v1 (fun h => h.hotsnapWrite who nn.val .full v1))

/-- HOTSNAP_COPY (R319). -/
def execHotsnapCopy (who : Who) (nn : Fin 12) (v : W64) (s : State) : Host.Outcome State Fault Refusal := hotsnapCmd 1 who nn v s

/-- HOTSNAP_COPY_CLEAR (R319). -/
def execHotsnapCopyClear (who : Who) (nn : Fin 12) (v : W64) (s : State) : Host.Outcome State Fault Refusal := hotsnapCmd 2 who nn v s

/-- HOTSNAP_COPY_HALVE (R319). -/
def execHotsnapCopyHalve (who : Who) (nn : Fin 12) (v : W64) (s : State) : Host.Outcome State Fault Refusal := hotsnapCmd 3 who nn v s

/-- A write of the hub is not yet visible. -/
def Hw.hubWrites (h : Hw) : Bool :=
  h.waitq.any (fun r => decide (r.agent = .hub)) || h.txns.any (fun t => decide (t.req.map (·.agent) = some .hub))

/-- HOTSNAP_DONE (R319): BUSY falls, DONE is set and the event is raised; nothing while no snapshot runs or while a record is not yet visible. -/
def execHotsnapDone (nn : Fin 12) (s : State) : Host.Outcome State Fault Refusal :=
  s.onHw (fun h =>
    if h.flag .HOME_HOTSNAP 0 0 nn.val F.HOME_HOTSNAP_BUSY && !h.hubWrites then
      ((h.setFld .HOME_HOTSNAP 0 0 nn.val F.HOME_HOTSNAP_BUSY 0).setFld .HOME_HOTSNAP 0 0 nn.val F.HOME_HOTSNAP_DONE 1).raise
        { source := 0x220 + (nn.val + 1), part := nn.val + 1 }
    else h)

/-- A write of HOME_HOTCTLnn (R315): a QUOTA that is not locked and that would take the sum of all QUOTA above 2,048 is discarded and logged with reason 0x04; the other fields are written (R16). -/
def Hw.hotctlWrite (h : Hw) (w : Who) (slice idx : Nat) (half : Half) (v : W64) : Hw :=
  let r := RegRef.at .HOME_HOTCTL 0 slice idx
  let q (i : Nat) : Nat := h.fld .HOME_HOTCTL 0 0 i F.HOME_HOTCTL_QUOTA
  let new := F.HOME_HOTCTL_QUOTA.get (merged half (h.reg .HOME_HOTCTL 0 0 idx) v)
  let sum := (List.range 12).foldl (fun n i => n + (if i = idx then new else q i)) 0
  if h.committed || h.blockRuns .HOME_HOTCTL || decide (new = q idx) || decide (sum ≤ 2048) then h.writeFields r w half v
  else (h.writeFields r w half (F.HOME_HOTCTL_QUOTA.set v (q idx))).cfgReject r.pa w 0x04

/-! Patrol scrub and memory errors (R320 to R325). -/

/-- MEMC_ERRn_INFO of a record (R324). -/
def memcInfo (loc : MemLoc) (dev part sev code : Nat) : W64 :=
  BitVec.ofNat 64 (loc.dimm <<< 56 ||| loc.rank <<< 54 ||| loc.subch <<< 53 ||| loc.bg <<< 50 |||
    loc.ba <<< 48 ||| loc.row % 2 ^ 18 <<< 30 ||| dev <<< 20 ||| part <<< 16 ||| sev <<< 12 ||| code)

/-- A memory controller records an error and raises its source (R324, R610): a corrected error that finds both slots full only counts in OVF_COUNT. -/
def Hw.memcErr (h : Hw) (ch code sev pa : Nat) (loc : MemLoc) (dev : Nat) : Hw :=
  let part := h.gibOwner (pa >>> 30)
  let rs : RecSet := ⟨.MEMC_ERR0_ADDR, .MEMC_ERR0_INFO, .MEMC_ERR1_ADDR, .MEMC_ERR1_INFO, .MEMC_ERRSTAT⟩
  let h1 := if sev = 1 ∧ !(h.slotFree rs 0 ch 0 false) then
      let c := wbits (h.reg .MEMC_ERRSTAT 0 ch 0) 15 0
      h.setReg .MEMC_ERRSTAT 0 ch 0 (setWbits (h.reg .MEMC_ERRSTAT 0 ch 0) 15 0 (if c < 0xFFFF then c + 1 else c))
    else h.record rs 0 ch 0 false (setWbits (BitVec.ofNat 64 pa) 63 63 1) (memcInfo loc dev part sev code)
  h1.raise { source := 0x100 + 2 * ch + (if sev = 1 then 0 else 1), part := part, sev := sev, code := code }

/-- The bits [8:0] of a mark of MEMC_DEVFAIL (R325). -/
def markBits (loc : MemLoc) (dev : Nat) : Nat :=
  0x100 + (loc.dimm <<< 7) + (loc.rank <<< 5) + (loc.subch <<< 4) + dev % 16

/-- The marks of a channel. -/
def Hw.devMarks (h : Hw) (ch : Nat) : List Nat :=
  (List.range 4).map (fun j => wbits (h.reg .MEMC_DEVFAIL 0 ch 0) (9 * j + 8) (9 * j))

/-- The counter of a device. -/
def devKey (ch : Nat) (loc : MemLoc) (dev : Nat) : Nat := 512 * ch + markBits loc dev

/-- A corrected error in one device (R321, R325): counted toward the device's mark; a device whose mark is in force is named by code 0x11. -/
def Hw.devError (h : Hw) (ch pa : Nat) (loc : MemLoc) (dev : Nat) : Hw :=
  let marks := h.devMarks ch
  if marks.contains (markBits loc dev) then h.memcErr ch 0x11 1 pa loc dev
  else
    let key := devKey ch loc dev
    let n := look 0 h.devCount key + 1
    let thr := max 1 (h.fld .MEMC_DEVFAIL 0 ch 0 F.MEMC_DEVFAIL_THRESH)
    if n < thr then ({ h with devCount := put h.devCount key n }).memcErr ch 0x10 1 pa loc dev
    else
      let sameSub := marks.any (fun m => decide (0x100 ≤ m) && decide (m / 16 = markBits loc 0 / 16))
      match (List.range 4).find? (fun j => !((marks.getD j 0).testBit 8)) with
      | some j =>
        if sameSub then h.memcErr ch 0x10 1 pa loc dev
        else
          let v := setWbits (h.reg .MEMC_DEVFAIL 0 ch 0) (9 * j + 8) (9 * j) (markBits loc dev)
          ({ h.setReg .MEMC_DEVFAIL 0 ch 0 v with devCount := h.devCount.filter (fun e => decide (e.1 / 512 ≠ ch)) }).memcErr ch 0x13 1 pa loc dev
      | none => h.memcErr ch 0x10 1 pa loc dev

/-- The region-table line's regions, as the far-tier line that begins each (R252, R286); none for a line outside the table. -/
def Hw.tableRegions (h : Hw) (line : Nat) : List Nat :=
  let base := h.fld .HOME_RTBASE 0 0 0 F.HOME_RTBASE_BASE <<< 30
  let size := h.fld .HOME_RTBASE 0 0 0 F.HOME_RTBASE_SIZE <<< 30
  let pa := line <<< 6
  if base ≤ pa ∧ pa < base + size then
    (List.range 16).map (fun i => (0x0100000000000 + (((pa - base) / 4 + i) <<< 10)) >>> 6)
  else []

/-- A word that the code cannot correct, found by scrub (R323): its directory state is lost. -/
def Hw.uncorrectable (h : Hw) (ch line : Nat) (loc : MemLoc) : Hw :=
  let h1 := h.memcErr ch 0x12 2 (line <<< 6) loc 0xF
  match h.tableRegions line with
  | [] => h1.dirLost line
  | l => l.foldl (fun h x => h.dirLost x) h1

/-- The channel and the local address of a near-tier line, by the interleave set that covers it (R290). -/
def Hw.channelOf (h : Hw) (line : Nat) : Option (Nat × Nat) :=
  if isFar line then none else (h.isetOf (line <<< 6)).map (fun nn => h.target nn (line <<< 6))

/-- PATROL_SCRUB_READ (R320, R321, R323): no line is read while EN is 0; a corrected error asks the home for a rewrite. -/
def execPatrolScrubRead (l : Line) (out : ScrubOut) (s : State) : Host.Outcome State Fault Refusal :=
  s.onHw (fun h =>
    match h.channelOf l.toNat with
    | none => h
    | some (ch, a) =>
      let loc := h.memLoc ch a
      if !h.flag .MEMC_SCRUB 0 ch 0 F.MEMC_SCRUB_EN then h
      else match out with
        | .clean => h
        | .corrected dev => ({ h with rewrites := ins h.rewrites l.toNat }).devError ch (l.toNat <<< 6) loc dev.toNat
        | .uncorrectable => h.uncorrectable ch l.toNat loc)

/-- CORRECTIVE_REWRITE (R321): the rewrite that a controller asked for is done, with the line's own corrected contents; for a Busy line it waits. -/
def execCorrectiveRewrite (l : Line) (s : State) : Host.Outcome State Fault Refusal :=
  s.onHw (fun h => if h.busy (dirKey l.toNat) then h else { h with rewrites := rem h.rewrites l.toNat })

/-- A write of MEMC_SCRUB (R320): SWEEP starts a pass and reads 0. -/
def Hw.scrubWrite (h : Hw) (w : Who) (ch : Nat) (half : Half) (v : W64) : Hw :=
  let h1 := h.writeFields (RegRef.at .MEMC_SCRUB 0 ch 0) w half v
  let go := h1.flag .MEMC_SCRUB 0 ch 0 F.MEMC_SCRUB_SWEEP
  let h2 := h1.setFld .MEMC_SCRUB 0 ch 0 F.MEMC_SCRUB_SWEEP 0
  if go then h2.setFld .MEMC_SCRUB 0 ch 0 F.MEMC_SCRUB_SWEEP_BUSY 1 else h2

/-- DIRECTORY_SWEEP_START (R322). -/
def execDirectorySweepStart (who : Who) (ch : Fin 24) (v : W64) (s : State) : Host.Outcome State Fault Refusal :=
  let v1 := setWbits v 32 32 1
  s.onHw (fun h => h.permit (RegRef.at .MEMC_SCRUB 0 ch.val 0) who v1 (fun h => h.scrubWrite who ch.val .full v1))

/-- The channel that stores a key's directory state: its line's, or that of its region-table line (R252, R322). -/
def Hw.keyChannel (h : Hw) (key : Nat) : Option Nat :=
  if key < 2 ^ 50 then (h.channelOf key).map (·.1)
  else
    let base := h.fld .HOME_RTBASE 0 0 0 F.HOME_RTBASE_BASE <<< 30
    (h.channelOf ((base + ((((key - 2 ^ 50) * 16) <<< 6) - 0x0100000000000) / 1024 * 4) >>> 6)).map (·.1)

/-- A state that names a fenced agent is rewritten (R285): Owned becomes Uncached with POISON; Shared loses the agent. -/
def Hw.sweepKey (h : Hw) (key : Nat) (d : Dir) : Hw :=
  match d with
  | .owned a m =>
    if h.fenced a then
      let lines := if key < 2 ^ 50 then [key]
        else ((List.range 16).filter (fun i => m.testBit i)).map (fun i => (key - 2 ^ 50) * 16 + i)
      (h.poisonLines lines).setDir key .unc
    else h
  | .shared vec f =>
    let vec1 := vec.filter (fun x => !h.fenced (.core x 0))
    if vec1 = vec then h else h.setDir key (.shared vec1 (if vec1.contains f then f else 0))
  | .unc => h

/-- The pass over a channel ends (R285, R322): every state stored on it that names a fenced agent has been rewritten. -/
def Hw.sweepDone (h : Hw) (ch : Nat) : Hw :=
  if h.flag .MEMC_SCRUB 0 ch 0 F.MEMC_SCRUB_SWEEP_BUSY then
    let h1 := h.dir.foldl (fun x e => if h.keyChannel e.1 = some ch ∧ !(h.busy e.1) then x.sweepKey e.1 e.2 else x) h
    h1.setFld .MEMC_SCRUB 0 ch 0 F.MEMC_SCRUB_SWEEP_BUSY 0
  else h

/-- DIRECTORY_SWEEP_DONE (R322). -/
def execDirectorySweepDone (ch : Fin 24) (s : State) : Host.Outcome State Fault Refusal := s.onHw (fun h => h.sweepDone ch.val)

/-! Rank sparing and channel failure (R326 to R328). -/

/-- A copy ends with a result (R326); any result but done is recorded with code 0x15. -/
def Hw.spareEnd (h : Hw) (ch res : Nat) : Hw :=
  let h1 := ((h.setFld .MEMC_SPARE 0 ch 0 F.MEMC_SPARE_RESULT res).setFld .MEMC_SPARE 0 ch 0 F.MEMC_SPARE_DONE 1).setFld
    .MEMC_SPARE 0 ch 0 F.MEMC_SPARE_BUSY 0
  if res = 0 then h1 else h1.memcErr ch 0x15 2 0 noLoc 0xF

/-- A write of MEMC_SPARE (R326): with START while BUSY is 1 it is discarded; START checks the spare and the source. -/
def Hw.spareWrite (h : Hw) (w : Who) (ch : Nat) (half : Half) (v : W64) : Hw :=
  let start := wbit (v &&& halfMask half) 16
  if start && h.flag .MEMC_SPARE 0 ch 0 F.MEMC_SPARE_BUSY then h
  else
    let h1 := (h.writeFields (RegRef.at .MEMC_SPARE 0 ch 0) w half v).setFld .MEMC_SPARE 0 ch 0 F.MEMC_SPARE_START 0
    if !start then h1
    else
      let x := h1.reg .MEMC_SPARE 0 ch 0
      if !wbit x 32 || wbit x 36 then h1.spareEnd ch 1
      else if !(h1.ranks ch).contains (wbits x 2 0) then h1.spareEnd ch 2
      else if has h1.chFail ch then h1.spareEnd ch 3
      else h1.setFld .MEMC_SPARE 0 ch 0 F.MEMC_SPARE_BUSY 1

/-- RANK_SPARE_START (R326). -/
def execRankSpareStart (who : Who) (ch : Fin 24) (v : W64) (s : State) : Host.Outcome State Fault Refusal :=
  let v1 := setWbits v 16 16 1
  s.onHw (fun h => h.permit (RegRef.at .MEMC_SPARE 0 ch.val 0) who v1 (fun h => h.spareWrite who ch.val .full v1))

/-- RANK_SPARE_DONE (R327): the spare takes the source's place and code 0x14 is recorded; nothing while no copy runs. -/
def execRankSpareDone (ch : Fin 24) (s : State) : Host.Outcome State Fault Refusal :=
  s.onHw (fun h =>
    if h.flag .MEMC_SPARE 0 ch.val 0 F.MEMC_SPARE_BUSY then
      let h1 : Hw := { h with spared := put h.spared ch.val (wbits (h.reg .MEMC_SPARE 0 ch.val 0) 2 0) }
      ((h1.spareEnd ch.val 0).setFld .MEMC_SPARE 0 ch.val 0 F.MEMC_SPARE_USED 1).memcErr ch.val 0x14 1 0 noLoc 0xF
    else h)

/-- CHANNEL_FAIL (R328): code 0x16 is recorded, a copy in progress stops, and each line of the channel that an agent holds is handled as lost directory state; the others answer POISON from then on. -/
def execChannelFail (ch : Fin 24) (s : State) : Host.Outcome State Fault Refusal :=
  s.onHw (fun h =>
    let h1 := h.memcErr ch.val 0x16 2 0 noLoc 0xF
    let h2 := if h1.flag .MEMC_SPARE 0 ch.val 0 F.MEMC_SPARE_BUSY then h1.spareEnd ch.val 3 else h1
    let h3 := h.dir.foldl (fun x e => if h.keyChannel e.1 = some ch.val then
        x.dirLost (if e.1 < 2 ^ 50 then e.1 else (e.1 - 2 ^ 50) * 16) else x) h2
    { h3 with chFail := ins h3.chFail ch.val })

end Sys2Proof.Machine
end

