-- ==== Sys2Proof/Machine/Xtl.lean ====
section
/-! DEFINITION. The hub and port translation units: address-space and device tables, contexts, and translation (spec/05_address_translation.md R201 to R210). -/

namespace Sys2Proof.Machine

/-- A word of a table entry. -/
def Hw.word64 (h : Hw) (pa : Nat) : W64 := BitVec.ofNat 64 (h.readNum pa 8)

/-- The bits that an entry must hold as zero (R202, R206). -/
def entryBad (w0 w1 w2 w3 : W64) (device : Bool) : Bool :=
  (if device then wbits w0 11 3 != 0 else wbits w0 11 1 != 0) || wbits w0 63 52 != 0 ||
    (if device then wbits w1 63 8 != 0 else wbits w1 63 12 != 0) ||
    wbits w2 11 0 != 0 || wbits w2 63 52 != 0 || w3 != 0

/-- The entry of a table that a register of the layout of R201 names, read from its home with the partition's identity (R203); the error is the DETAIL of the refusal. -/
def Hw.tableEntry (h : Hw) (reg : W64) (ix part : Nat) (world : Bool) : Except (Hw × Nat) (Hw × W64 × W64 × W64 × W64) :=
  let size := 16 <<< (if 0xC < wbits reg 3 0 then 0xC else wbits reg 3 0)
  if !wbit reg 63 || decide (size ≤ ix) then .error (h, 0xE2)
  else
    let pa := (wbits reg 51 12 <<< 12) + 32 * ix
    if !h.homePass part world pa || !h.mapped pa then .error (h.homeRefusal part world pa, 0xF0)
    else if h.poisoned pa then .error (h, 0xF2)
    else .ok (h.send { op := .RDC, addr := lineOf pa, agent := .hub, part := part, world := world }, h.word64 pa, h.word64 (pa + 8), h.word64 (pa + 16), h.word64 (pa + 24))

/-- The context that the words of an entry give a job (R202, R204). -/
def ctxWords (part asid : Nat) (world : Bool) (w0 w1 w2 : W64) : Ctx :=
  { regime := if world then 3 else 0, s1en := wbit w1 8, s1base := wbits w0 51 12 <<< 12, asid := asid,
    hwad1 := wbit w1 10, sum := false, psen := wbit w1 9, psbase := wbits w2 51 12 <<< 12,
    vmid := wbits w1 7 0, hwad2 := wbit w1 10, user := !wbit w1 11, part := part, world := world,
    thread := none, engine := true }

/-- The context of a job (R201 to R204), which the translation unit of a die keeps once it has read the entry. -/
def Hw.jobCtx (h : Hw) (die part asid : Nat) (world : Bool) : Except (Hw × Nat) (Hw × Ctx) :=
  let reg := h.reg (if world then .XTL_SAST else .XTL_AST) 0 0 (part - 1)
  match h.xctx.find? (fun e => e.die == die && e.part == part && e.world == world && e.ix == asid) with
  | some e => if wbit reg 63 then .ok (h, ctxWords part asid world e.w0 e.w1 e.w2) else .error (h, 0xE2)
  | none => match h.tableEntry reg asid part world with
    | .error e => .error e
    | .ok (h1, w0, w1, w2, w3) =>
      if !wbit w0 0 then .error (h1, 0xE2)
      else if entryBad w0 w1 w2 w3 false then .error (h1, 0xE3)
      else .ok ({ h1 with xctx := ⟨die, part, world, asid, w0, w1, w2⟩ :: h1.xctx }, ctxWords part asid world w0 w1 w2)

/-- The die whose translation unit serves an engine (R205, R210). -/
def engXtl (n : Nat) : Nat := if n < 24 then 0 else 0x10 + (n - 24) / 8

/-- The sets of a translation unit's TLB, of 8 ways each: 16,384 entries in the hub, 4,096 in a port die (R205, R210). -/
def xtlSets (die : Nat) : Nat := if die = 0 then 2048 else 512

/-- A translation through a hub or port translation unit (R204 to R207): a walk's result enters its TLB, and the D bits that a store needs are set. -/
def Hw.xtlTranslate (h : Hw) (die : Nat) (c : Ctx) (va : W64) (acc : Acc) : Except (Hw × TF) (Hw × Nat) :=
  match translate c (look ([] : List TlbEnt) h.xtl die) [] va acc h with
  | .error e => .error e
  | .ok (h0, r) =>
    let h1 := setDs h0 r.ds
    match r.ent with
    | some e => .ok ({ h1 with xtl := put h1.xtl die (capWays (fun (e : TlbEnt) => (e.va >>> e.size) % xtlSets die) 8 [e] (look [] h1.xtl die)) }, r.pa)
    | none => .ok (h1, r.pa)

/-- The DETAIL of a translation failure of an engine or a device (R187, R204). -/
def TF.detail : TF → Nat
  | .page d => d
  | .part d _ _ => d
  | .access d => d
  | .memType _ => tdetail 7 0x04
  | .poison lvl _ => tdetail lvl 0x12
  | .wait => 0

/-- A device's context and how it translates (R206): MODE 1 through the partition stage alone, MODE 2 through both. The error is a cause of XTL_FAULTn_INFO with its DETAIL. -/
def Hw.deviceCtx (h : Hw) (port rid part : Nat) : Except (Hw × Nat) (Hw × Ctx) :=
  let (die, inst) := portPlace port
  match h.tableEntry (h.reg .XTL_DEVT die 0 inst) rid part false with
  | .error (h1, _) => .error (h1, 3)
  | .ok (h1, w0, w1, w2, w3) =>
    if !wbit w0 0 || entryBad w0 w1 w2 w3 true then .error (h1, 3)
    else
      let mode := wbits w0 2 1
      if mode = 0 ∨ mode = 3 then .error (h1, 1)
      else
        let c : Ctx :=
          { regime := 0, s1en := decide (mode = 2), s1base := wbits w0 51 12 <<< 12, asid := 0, hwad1 := false,
            sum := false, psen := true, psbase := wbits w2 51 12 <<< 12, vmid := wbits w1 7 0, hwad2 := false,
            user := true, part := part, world := false, thread := none, engine := false, port := some port }
        .ok (h1, c)

end Sys2Proof.Machine
end

