-- ==== Sys2Proof/Machine/SkimEng.lean ====
section
/-! DEFINITION. A skim engine's memory: the engine line cache, snapshot and live reads, owned writes, the input stream, the scratchpad and the engine's own addresses (spec/09_skim_engines.md R347 to R367; spec/10_skim_programming.md R377 to R387). -/

namespace Sys2Proof.Machine

/-- Why an instruction of a piece does not complete: it waits in MEM and has had no effect, or it stops the piece, with the program fault that it writes: cause, address and bank (R420). -/
inductive SkExc where
  | wait
  | stop (p : PieceStop) (fault : Option (Nat × Nat × Nat))
  deriving DecidableEq, Repr

/-- A part of an instruction's execution. -/
abbrev SkM (α : Type) := Except (Hw × SkExc) α

/-- A job that stands in for an empty slot. -/
def noJob : Job := { queue := 0, order := 0, part := 0, world := false }

/-- The job in a slot. -/
def Hw.job (h : Hw) (slot : Nat) : Job := look noJob h.jobs slot

/-- A job replaced. -/
def Hw.setJob (h : Hw) (slot : Nat) (j : Job) : Hw := { h with jobs := put h.jobs slot j }

/-- The run of an engine replaced. -/
def Hw.setRun (h : Hw) (n : Nat) (r : EngRun) : Hw := { h with run := put h.run n r }

/-- The ELC entries of an engine that are powered (R361). -/
def Hw.elcPowered (h : Hw) (n : Nat) : Nat :=
  let (die, inst) := engPlace n
  48 - 8 * popCount 6 (h.fld .SKM_ELCPWR die inst 0 F.SKM_ELCPWR_GRP_OFF)

/-- The power domain of an engine (R519). -/
def engDomain (n : Nat) : Nat × Nat := if n < 24 then (0, 32 + n) else (0x10 + (n - 24) / 8, 2 + (n - 24) % 8)

/-- The engine's domain is not running (R520). -/
def Hw.engDown (h : Hw) (n : Nat) : Bool :=
  let (die, nn) := engDomain n
  decide (2 ≤ h.fld .PWR_DOM die 0 nn F.PWR_DOM_CUR)

/-! Owned lines (R352, R359). -/

/-- An engine gives a line up: WB for M, EVC for E. -/
def Hw.engGiveUp (h : Hw) (n line : Nat) : Hw :=
  let l := look [] h.elc n
  let st := look .I l line
  let h1 := { h with elc := put h.elc n (mruDel l line) }
  match st with
  | .M => h1.agGiveUp .WB (.eng n) line
  | .E => h1.agGiveUp .EVC (.eng n) line
  | _ => h1

/-- The owned lines of a sector are given up. -/
def Hw.engEvict (h : Hw) (n sector : Nat) : Hw :=
  ((look [] h.elc n).filter (fun e => decide (e.1 / 16 = sector))).foldl (fun h e => h.engGiveUp n e.1) h

/-- Stores of the engine that wait for ownership of a line. -/
def Hw.engPending (h : Hw) (n line : Nat) : Bool := (look [] h.esq n).any (fun e => lineOf e.1 == line)

/-! The general pool (R356, R359). -/

/-- The entries of the general pool for the running piece. -/
def Hw.poolSize (h : Hw) (n : Nat) (r : EngRun) : Nat :=
  let j := h.job r.piece.slot
  let prog := min 6 (((r.snap.filter (fun e => e.2.stream && e.2.locked)).map (fun e => e.1 / 16)).eraseDups.length)
  h.elcPowered n - (if j.inLen = 0 then 0 else 6) - (if j.outMode = 1 then 2 else 0) - prog - j.elcAddr

/-- A sector is kept by snapshot lines that are not stream input, or by a lock (R348, R359). -/
def EngRun.pinned (r : EngRun) (sector : Nat) : Bool :=
  r.snap.any (fun e => decide (e.1 / 16 = sector) && !e.2.stream)

/-- A sector of the general pool is used or taken; the least recently used sector that may leave is evicted, and without one the piece stops with status 0x09 (R348, R359). -/
def Hw.poolTouch (h : Hw) (n sector : Nat) : SkM Hw :=
  match look? h.run n with
  | none => .ok h
  | some r =>
    if r.pool.contains sector then .ok (h.setRun n { r with pool := sector :: rem r.pool sector })
    else if r.pool.length < h.poolSize n r then .ok (h.setRun n { r with pool := sector :: r.pool })
    else
      match r.pool.reverse.find? (fun s => !r.pinned s) with
      | none => .error (h, .stop { status := 9 } none)
      | some v => .ok ((h.engEvict n v).setRun n { r with pool := sector :: rem r.pool v })

/-- A resident sector of the general pool is used (R359). -/
def Hw.poolUse (h : Hw) (n sector : Nat) : Hw :=
  match look? h.run n with
  | some r => if r.pool.contains sector then h.setRun n { r with pool := sector :: rem r.pool sector } else h
  | none => h

/-- A sector of append-mode output takes one of the two staging entries; the older one is written back, unless a store of it waits (R356, R401). -/
def Hw.stageTouch (h : Hw) (n sector : Nat) : SkM Hw :=
  match look? h.run n with
  | none => .ok h
  | some r =>
    if r.outSecs.contains sector then .ok h
    else if r.outSecs.length < 2 then .ok (h.setRun n { r with outSecs := sector :: r.outSecs })
    else match r.outSecs.getLast? with
      | none => .ok h
      | some v =>
        if (look [] h.esq n).any (fun e => decide (lineOf e.1 / 16 = v)) then .error (h, .wait)
        else .ok ((h.engEvict n v).setRun n { r with outSecs := sector :: rem r.outSecs v })

/-! Reads (R347 to R350, R357, R358). -/

/-- The stronger of two ways of holding a read. -/
def ReadKind.max (a b : ReadKind) : ReadKind := if a.ctorIdx < b.ctorIdx then b else a

/-- A line as its read has brought it. -/
def Hw.snapOf (h : Hw) (line : Nat) (k : ReadKind) (bad : Bool) : SnapLine :=
  { data := h.readNum (line <<< 6) 64, poison := bad || h.poisoned (line <<< 6),
    stream := k == .stream || k == .prog, locked := k == .lock || k == .prog }

/-- The lines that a read of a line brings: in the far tier its whole sector (R357). -/
def sectorLines (line : Nat) : List Nat := if isFar line then (List.range 16).map (fun i => line / 16 * 16 + i) else [line]

/-- The data of an engine's read has come (R347, R350, R357): the lines that the engine neither owns nor holds already are held as the read asked, or serve the instruction that reads live. -/
def Hw.engData (h : Hw) (n line : Nat) (bad : Bool) : Hw :=
  match look? h.run n with
  | none => h
  | some r =>
    match takeFirst (fun e => dirKey e.1 == dirKey line) r.want with
    | none => h
    | some (e, rest) =>
      let ls := (sectorLines e.1).filter (fun l => look .I (look [] h.elc n) l == .I && !h.engPending n l && (look? r.snap l).isNone)
      let add (m : List (Nat × SnapLine)) : List (Nat × SnapLine) := ls.foldl (fun m l => put m l (h.snapOf l e.2 bad)) m
      if e.2 = .live then h.setRun n { r with want := rest, got := add r.got } else h.setRun n { r with want := rest, snap := add r.snap }

/-- The distinct lines whose ownership the engine waits for. -/
def Hw.engMisses (h : Hw) (n : Nat) : List Nat := ((look [] h.esq n).map (fun e => lineOf e.1)).eraseDups

/-- One of the 16 miss registers is free (R358): a line whose ownership or data is awaited holds one, and one in write-back until its WBA (R272). -/
def Hw.engRoom (h : Hw) (n : Nat) : Bool :=
  decide ((h.engMisses n).length + (((look? h.run n).map (fun r => r.want.length)).getD 0) + (look [] h.agWb n).length < 16)

/-- The line is at the engine for a read of a kind, with its data and whether it is marked POISON: owned, a snapshot, or brought by a live read. -/
def Hw.engHere (h : Hw) (n line : Nat) (k : ReadKind) : Option (Hw × Nat × Bool) :=
  match look? h.run n with
  | none => some (h, 0, false)
  | some r =>
    if h.engPending n line then none
    else if !(look .I (look [] h.elc n) line == .I) then some (h.poolUse n (line / 16), h.readNum (line <<< 6) 64, h.poisoned (line <<< 6))
    else match look? r.snap line with
      | some e =>
        let h1 := h.poolUse n (line / 16)
        if k = .lock ∧ !e.locked then some (h1.setRun n { ((look? h1.run n).getD r) with snap := put r.snap line { e with locked := true } }, e.data, e.poison)
        else some (h1, e.data, e.poison)
      | none => if k = .live then (look? r.got line).map (fun e => (h, e.data, e.poison)) else none

/-- A read of a line that is not at the engine begins (R347, R358): one that already waits for the line, or for its far-tier sector, is merged with; a line in write-back, a store of it that waits, or 16 busy miss registers hold it. -/
def Hw.engAsk (h : Hw) (n line : Nat) (k : ReadKind) : SkM Hw :=
  match look? h.run n with
  | none => .ok h
  | some r =>
    let j := h.job r.piece.slot
    let pa := line <<< 6
    if !h.homePass j.part j.world pa then .error (h.homeRefusal j.part j.world pa, .stop { status := 1, detail := 0xF0 } none)
    else if !h.mapped pa then .error (h, .stop { status := 1, detail := 0xF1 } none)
    else if r.want.any (fun e => dirKey e.1 == dirKey line) then
      .ok (h.setRun n { r with want := mapIf (fun e => dirKey e.1 == dirKey line) (fun e => (e.1, e.2.max k)) r.want })
    else if h.engPending n line || h.agPending (.eng n) line || !h.engRoom n then .error (h, .wait)
    else do
      let h1 ← if k = .stream ∨ k = .prog then .ok h else h.poolTouch n (line / 16)
      match look? h1.run n with
      | none => .ok h1
      | some r1 =>
        .ok ((h1.setRun n { r1 with want := r1.want ++ [(line, k)] }).send
          { op := .RDC, addr := line, agent := .eng n, part := j.part, world := j.world, info := if k = .stream then 8 else 9 })

/-- One line as the piece reads it, with whether the copy is marked POISON; the instruction waits in MEM until it is at the engine (R347, R358). -/
def Hw.engLine (h : Hw) (n line : Nat) (k : ReadKind) : SkM (Hw × Nat × Bool) :=
  match h.engHere n line k with
  | some x => .ok x
  | none => do
    let h1 ← h.engAsk n line k
    .error (h1, .wait)

/-- A virtual address of the job is translated by the engine's translation unit (R204). -/
def Hw.engXlate (h : Hw) (n va : Nat) (acc : Acc) : SkM (Hw × Nat) :=
  match look? h.run n with
  | none => .ok (h, 0)
  | some r =>
    let j := h.job r.piece.slot
    match h.jobCtx (engXtl n) j.part j.asid j.world with
    | .error (h1, d) => .error (h1, .stop { status := 6, va := va, detail := d } none)
    | .ok (h, c) =>
      match h.xtlTranslate (engXtl n) c (BitVec.ofNat 64 va) acc with
      | .error (h1, f) => .error (h1, .stop { status := 1, va := va, detail := f.detail } none)
      | .ok r => .ok r

/-- A failure that has no address of its own is reported at a VA. -/
def atVa {α : Type} (va : Nat) (x : SkM α) : SkM α :=
  match x with
  | .error (h, .stop p f) => .error (h, .stop (if p.va = 0 then { p with va := va } else p) f)
  | y => y

/-- Consecutive bytes at a virtual address, line by line; a copy marked POISON stops the piece (R367, R369). -/
def Hw.engRead (h : Hw) (n : Nat) (k : ReadKind) : Nat → Nat → Nat → SkM (Hw × List Byte)
  | 0, _, _ => .ok (h, [])
  | fuel + 1, va, len =>
    if len = 0 then .ok (h, [])
    else do
      let (h1, pa) ← h.engXlate n va (if k = .prog then .fetch else .load)
      let m := min len (64 - pa % 64)
      let (h2, data, bad) ← atVa va (h1.engLine n (pa / 64) k)
      if bad then .error (h2, .stop { status := 2, va := va } none)
      else
        let bs := ((toBytes 64 data).drop (pa % 64)).take m
        let (h3, rest) ← h2.engRead n k fuel (va + m) (len - m)
        .ok (h3, bs ++ rest)

/-! Writes (R352). -/

/-- Bytes are stored into one line, whose home has been found to pass the piece: merged into an owned line, or held until ownership is granted. The instruction waits for a miss register, for a read or a write-back of the line, and after 8 stores merged into its register (R358). -/
def Hw.engStoreLine (h : Hw) (n pa : Nat) (append : Bool) (bs : List Byte) : SkM Hw :=
  match look? h.run n with
  | none => .ok h
  | some r =>
    let j := h.job r.piece.slot
    let line := pa / 64
    let cells := (List.range bs.length).map (fun i => (pa + i, bs.getD i 0))
    if !(look .I (look [] h.elc n) line == .I) then
      .ok (({ h with elc := put h.elc n (mruPut (look [] h.elc n) line .M) }.writeCells cells).poolUse n (line / 16))
    else
      let first := !h.engPending n line
      if first && (!h.engRoom n || h.agPending (.eng n) line || r.want.any (fun e => dirKey e.1 == dirKey line)) then .error (h, .wait)
      else if !first && decide (8 ≤ look 0 r.merges line) then .error (h, .wait)
      else do
        let h1 ← if append then h.stageTouch n (line / 16) else h.poolTouch n (line / 16)
        let h2 := { h1 with esq := put h1.esq n (look [] h1.esq n ++ cells) }
        let h3 := match look? h2.run n with
          | some r => h2.setRun n { r with snap := del r.snap line, merges := put r.merges line (if first then 0 else look 0 r.merges line + 1) }
          | none => h2
        if first then
          .ok (h3.send { op := if bs.length = 64 then .OWN else .RDO, addr := line, agent := .eng n, part := j.part, world := j.world,
                         info := if append then 8 else 9 })
        else .ok h3

/-- The pieces of a store by line, each translated and passed by its home, before any byte is written (R396). -/
def Hw.engStorePlan (h : Hw) (n : Nat) : Nat → Nat → List Byte → SkM (Hw × List (Nat × List Byte))
  | 0, _, _ => .ok (h, [])
  | _ + 1, _, [] => .ok (h, [])
  | fuel + 1, va, b :: rest => do
    let (h1, pa) ← h.engXlate n va .store
    let j := match look? h1.run n with
      | some r => h1.job r.piece.slot
      | none => noJob
    if !h1.homePass j.part j.world pa then
      .error (h1.homeRefusal j.part j.world pa, .stop { status := 1, va := va, detail := 0xF0 } none)
    else if !h1.mapped pa then .error (h1, .stop { status := 1, va := va, detail := 0xF1 } none)
    else
      let m := 64 - pa % 64
      let (h2, l) ← h1.engStorePlan n fuel (va + m) ((b :: rest).drop m)
      .ok (h2, (pa, (b :: rest).take m) :: l)

/-- The pieces of a store are written; where one must wait, none is. -/
def Hw.engApply (h : Hw) (n : Nat) (append : Bool) (plan : List (Nat × List Byte)) : SkM Hw :=
  match plan.foldlM (fun (h : Hw) p => h.engStoreLine n p.1 append p.2) h with
  | .error (_, .wait) => .error (h, .wait)
  | x => x

/-- Bytes are stored at a virtual address. -/
def Hw.engWrite (h : Hw) (n va : Nat) (append : Bool) (bs : List Byte) : SkM Hw := do
  let (h1, plan) ← h.engStorePlan n (bs.length / 64 + 2) va bs
  h1.engApply n append plan

/-! The input stream (R343, R382, R383). -/

/-- The bytes that a granule gives to its piece: the whole records whose first byte lies in it (R343), as job input offset and length. -/
def granSeg (recLen inLen : Nat) (g : Nat × Nat) : Nat × Nat :=
  let rl := max 1 recLen
  let r0 := (g.1 + rl - 1) / rl * rl
  let r1 := (g.1 + g.2 + rl - 1) / rl * rl
  (r0, min r1 inLen - r0)

/-- The stream of a piece as runs of job input bytes. -/
def streamSegs (j : Job) (p : Piece) : List (Nat × Nat) :=
  (p.grans.map (granSeg j.recLen j.inLen)).filter (fun s => decide (0 < s.2))

/-- The length of a piece's stream: s2 at its start (R345, R383). -/
def streamLen (j : Job) (p : Piece) : Nat := (streamSegs j p).foldl (fun n s => n + s.2) 0

/-- The job input offset of a stream offset, with the bytes that follow it in its run. -/
def streamAt : List (Nat × Nat) → Nat → Option (Nat × Nat)
  | [], _ => none
  | (o, l) :: r, x => if x < l then some (o + x, l - x) else streamAt r (x - l)

/-- The granule that holds a job input offset (R354). -/
def granOf (p : Piece) (off : Nat) : Nat :=
  match p.grans.find? (fun g => decide (g.1 ≤ off) && decide (off < g.1 + g.2)) with
  | some g => g.1
  | none => 0

/-- Stream bytes: zero from the end of the piece's input on (R383). -/
def Hw.streamRead (h : Hw) (n : Nat) (j : Job) (segs : List (Nat × Nat)) : Nat → Nat → Nat → SkM (Hw × List Byte)
  | 0, _, _ => .ok (h, [])
  | fuel + 1, x, len =>
    if len = 0 then .ok (h, [])
    else match streamAt segs x with
      | none => .ok (h, List.replicate len 0)
      | some (off, left) => do
        let m := min len (min left (64 - (j.inVa + off) % 64))
        let (h1, bs) ← h.engRead n .stream (m / 64 + 2) (j.inVa + off) m
        let (h2, rest) ← h1.streamRead n j segs fuel (x + m) (len - m)
        .ok (h2, bs ++ rest)

/-! The scratchpad (R362 to R366). -/

/-- A byte of a scratchpad. -/
def Hw.spByte (h : Hw) (n a : Nat) : Byte := look 0 (look [] h.sp n) a

/-- Bytes of a scratchpad, written. -/
def Hw.spWrite (h : Hw) (n a : Nat) (bs : List Byte) : Hw :=
  { h with sp := put h.sp n ((List.range bs.length).foldl (fun l i => putC 0 l (a + i) (bs.getD i 0)) (look [] h.sp n)) }

/-- A region register of a master: EN, RD, WR, BASE and LIMIT (R365). -/
def Hw.rgn (h : Hw) (n m k : Nat) : W64 :=
  let (die, inst) := engPlace n
  if 2 ≤ m then h.reg .SKM_RGN_HOST die inst ((m - 2) * 8 + k)
  else if k = 0 then h.reg .SKM_RGN_FIRST die inst m else h.reg .SKM_RGN_CORE die inst (m * 7 + (k - 1))

/-- Some enabled region of a master covers an access and grants its direction, and each bank that it touches is on (R364, R366). -/
def Hw.spAllowed (h : Hw) (n m a len : Nat) (write : Bool) : Bool :=
  let (die, inst) := engPlace n
  let u0 := a / 64
  let u1 := (a + len - 1) / 64
  let pw := h.reg .SKM_SPPWR die inst 0
  let on (b : Nat) : Bool := decide (wbits pw (2 * b + 1) (2 * b) = 0)
  (List.range 8).any (fun k =>
    let v := h.rgn n m k
    wbit v 63 && wbit v (if write then 61 else 62) && decide (wbits v 12 0 ≤ u0) && decide (u1 ≤ wbits v 44 32)) &&
  on (a / 32768) && on ((a + len - 1) / 32768)

/-! Engine addresses (R377 to R387). -/

/-- What an engine address reaches. -/
inductive SkLoc where
  | sp (off : Nat)
  | amem (off : Nat)
  | stream (off : Nat)
  | mem (va : Nat) (live : Bool)
  deriving DecidableEq, Repr

/-- A valid window that covers a bank, the lowest-numbered one (R387): its base with the bank's place in it, and its attributes. -/
def EngRun.window (r : EngRun) (bank : Nat) : Option (Nat × W64) :=
  ((List.range 16).find? (fun i =>
    let b := look 0 r.wd (2 * i + 1)
    wbit b 63 && decide (wbits b 7 0 ≤ bank) && decide (bank ≤ wbits b 7 0 + wbits b 15 8))).map (fun i =>
      let b := look 0 r.wd (2 * i + 1)
      ((look 0 r.wd (2 * i)).toNat + (bank - wbits b 7 0) * 65536, b))

/-- The place of an access, or the cause of its fault with the VA that FAULT_VA names, where it has one (R377 to R387, R420). `old` decides whether bytes below the stream's served range are still resident (R382, a free value). -/
def skLoc (j : Job) (r : EngRun) (bank a len : Nat) (isStore old : Bool) : Except (Nat × Option Nat) SkLoc :=
  let wraps := decide (65536 < a + len)
  if bank ≤ 7 then (if wraps then .error (3, none) else .ok (.sp (bank * 65536 + a)))
  else if bank ≤ 15 then
    let off := (bank - 8) * 4096 + a
    if a + len ≤ 0x1000 ∧ off + len ≤ j.elcAddr * 1024 then .ok (.amem off) else .error (3, none)
  else if bank = 16 then
    let x : Int := (r.sbase : Int) + (sextN 16 a).toInt
    let segs := streamSegs j r.piece
    let va := (streamAt segs x.toNat).map (fun o => j.inVa + o.1)
    if wraps ∨ isStore ∨ x < 0 ∨ (r.sbase : Int) + 4095 < x + len - 1 then .error (3, va)
    else if x < (r.sbase : Int) - 1024 ∧ !old then .error (3, va)
    else .ok (.stream x.toNat)
  else if bank = 17 then
    let off := r.obase.toNat + a
    if j.outMode ≠ 2 then .error (3, none)
    else if !wraps ∧ off + len ≤ j.outLen then .ok (.mem (j.outVa + off) false) else .error (3, some (j.outVa + off))
  else
    match r.window bank with
    | none => .error (3, none)
    | some (base, b) =>
      if !wraps && wbit b (if isStore then 17 else 16) then .ok (.mem (base + a) (wbit b 18)) else .error (3, some (base + a))

/-- The stop of a program fault: status 0x03, the fault register, and FAULT_VA, which is PROG_VA + PC where the access names no VA (R420). -/
def progFault (j : Job) (pc cause addr bank : Nat) (va : Option Nat) : SkExc :=
  .stop { status := 3, va := va.getD (j.progVa + pc) } (some (cause, addr, bank))

/-- Bytes at an engine address are read. -/
def Hw.skRead (h : Hw) (n bank a len : Nat) : SkM (Hw × List Byte) :=
  match look? h.run n with
  | none => .ok (h, [])
  | some r =>
    let j := h.job r.piece.slot
    let below := decide (bank = 16) && decide ((r.sbase : Int) + (sextN 16 a).toInt < (r.sbase : Int) - 1024)
    let (f, h0) := if below then h.fresh 1 else (0, h)
    match skLoc j r bank a len false (f == 1) with
    | .error (c, va) => .error (h0, progFault j r.pc c a bank va)
    | .ok (.sp off) =>
      if h0.spAllowed n 0 off len false then .ok (h0, (List.range len).map (fun i => h0.spByte n (off + i)))
      else .error (h0, progFault j r.pc 4 a bank none)
    | .ok (.amem off) => .ok (h0, (List.range len).map (fun i => look 0 r.amem (off + i)))
    | .ok (.stream x) => h0.streamRead n j (streamSegs j r.piece) (len + 1) x len
    | .ok (.mem va live) => h0.engRead n (if live then .live else .snapshot) (len / 64 + 2) va len

/-- A store that has passed its checks: into the scratchpad, into addressable memory, or into lines. -/
inductive SkPlan where
  | sp (off : Nat) (bs : List Byte)
  | amem (off : Nat) (bs : List Byte)
  | mem (l : List (Nat × List Byte))
  deriving DecidableEq, Repr

/-- The checks of a store at an engine address, before any byte is written (R379, R396). -/
def Hw.skPlan (h : Hw) (n bank a : Nat) (bs : List Byte) : SkM (Hw × SkPlan) :=
  match look? h.run n with
  | none => .ok (h, .mem [])
  | some r =>
    let j := h.job r.piece.slot
    match skLoc j r bank a bs.length true false with
    | .error (c, va) => .error (h, progFault j r.pc c a bank va)
    | .ok (.sp off) =>
      if h.spAllowed n 0 off bs.length true then .ok (h, .sp off bs) else .error (h, progFault j r.pc 4 a bank none)
    | .ok (.amem off) => .ok (h, .amem off bs)
    | .ok (.stream _) => .error (h, progFault j r.pc 3 a bank none)
    | .ok (.mem va _) => do
      let (h1, l) ← h.engStorePlan n (bs.length / 64 + 2) va bs
      .ok (h1, .mem l)

/-- A store that has passed its checks is done. -/
def Hw.skApply (h : Hw) (n : Nat) (p : SkPlan) : SkM Hw :=
  match p with
  | .sp off bs => .ok (h.spWrite n off bs)
  | .amem off bs => match look? h.run n with
    | some r => .ok (h.setRun n { r with amem := (List.range bs.length).foldl (fun l i => putC 0 l (off + i) (bs.getD i 0)) r.amem })
    | none => .ok h
  | .mem l => h.engApply n false l

/-- Stores at engine addresses: every one is checked first, and where one must wait none is done (R396). -/
def Hw.skWrites (h : Hw) (n bank : Nat) (l : List (Nat × List Byte)) : SkM Hw := do
  let (h1, plans) ← l.foldlM (fun (acc : Hw × List SkPlan) e => do
    let (h1, p) ← acc.1.skPlan n bank e.1 e.2
    .ok (h1, acc.2 ++ [p])) (h, [])
  match plans.foldlM (fun (h : Hw) p => h.skApply n p) h1 with
  | .error (_, .wait) => .error (h1, .wait)
  | x => x

end Sys2Proof.Machine
end

