-- ==== Sys2Proof/Machine/Skim.lean ====
section
/-! DEFINITION. Skim jobs: command queues, descriptors, steering, pieces, completion, and the power of the engine line cache and the scratchpad (spec/09_skim_engines.md R330 to R372). -/

namespace Sys2Proof.Machine

/-! What an engine shows (R372, SKM_STATUS). -/

/-- SKM_STATUS of an engine follows its state. -/
def Hw.engStatus (h : Hw) (n : Nat) : Hw :=
  let (die, inst) := engPlace n
  let old := h.reg .SKM_STATUS die inst 0
  let st := if h.fenced (.eng n) then 3 else if h.engDown n then 4 else
    match look? h.run n with
    | some r => if r.stop.isSome then 2 else 1
    | none => 0
  let v0 := F.SKM_STATUS_WAITING.set (F.SKM_STATUS_STATE.set old st) (min 3 (look [] h.engq n).length)
  let v := match look? h.run n with
    | some r =>
      let j := h.job r.piece.slot
      F.SKM_STATUS_PIECE.set (F.SKM_STATUS_QUEUE.set (F.SKM_STATUS_WORLD.set v0 (b2n j.world)) j.queue) r.piece.num
    | none => F.SKM_STATUS_PIECE.set (F.SKM_STATUS_QUEUE.set (F.SKM_STATUS_WORLD.set v0 0) 0x7F) 0xFF
  h.setReg .SKM_STATUS die inst 0 v

/-- The source of an engine is raised (R610). -/
def Hw.engRaise (h : Hw) (n : Nat) : Hw := h.raise { source := 0x190 + n, part := look 0 h.engOwner n }

/-! Queues (R332 to R336). -/

/-- A register of a queue: the block instance and the index. -/
def qReg (n : RegName) (q : Nat) : RegRef := RegRef.at n 0 (q / 4) (q % 4)

/-- A field of a queue's register. -/
def Hw.qFld (h : Hw) (n : RegName) (q : Nat) (f : Fld) : Nat := h.fld n 0 (q / 4) (q % 4) f

/-- A field of a queue's register, replaced. -/
def Hw.setQFld (h : Hw) (n : RegName) (q : Nat) (f : Fld) (v : Nat) : Hw := h.setFld n 0 (q / 4) (q % 4) f v

/-- The ring of a queue holds so many descriptors (R332). -/
def Hw.ringSize (h : Hw) (q : Nat) : Nat := 16 <<< min 8 (h.qFld .SKM_QBASE q F.SKM_QBASE_SIZE)

/-- A queue error is written and its event raised (R335). -/
def Hw.queueError (h : Hw) (q err : Nat) : Hw :=
  ((h.setQFld .SKM_QHEAD q F.SKM_QHEAD_ERR err).setQFld .SKM_QHEAD q F.SKM_QHEAD_ERRV 1).raise
    { source := 0x130 + q, part := h.qFld .SKM_QCTL q F.SKM_QCTL_PART }

/-- A doorbell (R334): accepted while the new TAIL lies at most the ring size beyond HEAD. -/
def Hw.doorbell (h : Hw) (w : Who) (q : Nat) (half : Half) (v : W64) : Hw :=
  let r := qReg .SKM_QTAIL q
  let new := wbits (merged half (h.reg r.name 0 r.inst r.idx) v) 15 0
  let head := h.qFld .SKM_QHEAD q F.SKM_QHEAD_HEAD
  if (new + 65536 - head) % 65536 ≤ h.ringSize q then h.writeFields r w half v else h.queueError q 0x01

/-- DOORBELL (R334). -/
def execDoorbell (who : Who) (q : QueueNum) (half : Half) (v : W64) (s : State) : Host.Outcome State Fault Refusal :=
  s.onHw (fun h => h.permit (qReg .SKM_QTAIL q.val) who v (fun h => h.doorbell who q.val half v))

/-- A staged SKM_QBASE applies: HEAD and TAIL become 0 (R332). -/
def Hw.queueBaseApply (h : Hw) (q : Nat) : Hw :=
  let r := qReg .SKM_QBASE q
  if (look? h.shadow (regAddr r.name 0 r.inst r.idx)).isSome then
    ((h.applyShadow r).setQFld .SKM_QHEAD q F.SKM_QHEAD_HEAD 0).setQFld .SKM_QTAIL q F.SKM_QTAIL_TAIL 0
  else h

/-- QUEUE_BASE_APPLY (R332): at the queue's safe point, EN 0 and INFLIGHT 0. -/
def execQueueBaseApply (q : QueueNum) (s : State) : Host.Outcome State Fault Refusal :=
  s.onHw (fun h =>
    if h.qFld .SKM_QCTL q.val F.SKM_QCTL_EN = 0 ∧ h.qFld .SKM_QHEAD q.val F.SKM_QHEAD_INFLIGHT = 0 then h.queueBaseApply q.val
    else h)

/-- A write of SKM_QCTLq (R332): EN cannot be set on an unassigned queue. -/
def Hw.qctlWrite (h : Hw) (w : Who) (q : Nat) (half : Half) (v : W64) : Hw :=
  let h1 := h.writeFields (qReg .SKM_QCTL q) w half v
  if h1.qFld .SKM_QCTL q F.SKM_QCTL_PART = 0 then h1.setQFld .SKM_QCTL q F.SKM_QCTL_EN 0 else h1

/-! Descriptors (R337, R338, R344). -/

/-- A little-endian field of a descriptor. -/
def dsc (bs : List Byte) (off n : Nat) : Nat := ofBytes ((bs.drop off).take n)

/-- The job that a descriptor describes (R337). -/
def jobOf (bs : List Byte) (q order part : Nat) (world : Bool) : Job :=
  let fl := dsc bs 1 1
  { queue := q, order := order, part := part, world := world, compat := fl.testBit 0, event := fl.testBit 1,
    ordered := fl.testBit 2, nosplit := fl.testBit 3, outMode := nbits fl 5 4, asid := dsc bs 2 2,
    elcAddr := dsc bs 5 1 % 64, tag := dsc bs 6 2, progVa := dsc bs 8 8, argVa := dsc bs 16 8, inVa := dsc bs 24 8,
    inLen := dsc bs 32 8, outVa := dsc bs 40 8, outLen := dsc bs 48 4, recLen := dsc bs 52 4 % 2 ^ 17, cplVa := dsc bs 56 8 }

/-- The cases in which the steering unit refuses a job (R338). -/
def descBad (bs : List Byte) (part : Nat) : Bool :=
  let mode := nbits (dsc bs 1 1) 5 4
  dsc bs 0 1 != 2 || dsc bs 4 1 != part || nbits (dsc bs 1 1) 7 6 != 0 || nbits (dsc bs 5 1) 7 6 != 0 ||
  nbits (dsc bs 52 4) 31 17 != 0 || mode == 3 || decide (32 < dsc bs 5 1 % 64) ||
  decide (dsc bs 52 4 % 2 ^ 17 = 0) || decide (65536 < dsc bs 52 4 % 2 ^ 17) ||
  dsc bs 8 8 % 64 != 0 || dsc bs 16 8 % 64 != 0 || dsc bs 56 8 % 32 != 0 ||
  (mode == 1 && dsc bs 40 8 % 4096 != 0) || (mode == 2 && dsc bs 40 8 % 64 != 0) ||
  (mode != 0 && dsc bs 48 4 == 0)

/-- The queue whose turn it is: enabled, with a pending descriptor (R344). -/
def Hw.nextQueue (h : Hw) : Option Nat :=
  ((List.range 96).map (fun i => (h.queueTurn + 1 + i) % 96)).find? (fun q =>
    h.qFld .SKM_QCTL q F.SKM_QCTL_EN != 0 &&
      decide (h.qFld .SKM_QHEAD q F.SKM_QHEAD_HEAD ≠ h.qFld .SKM_QTAIL q F.SKM_QTAIL_TAIL))

/-- A free job slot (R344). -/
def Hw.freeJob (h : Hw) : Option Nat := (List.range 128).find? (fun i => (look? h.jobs i).isNone)

/-- DESCRIPTOR_READ (R334, R335, R338): the next pending descriptor is read; one that cannot be read stops its queue with error 0x02; nothing while no queue has one or no slot is free. -/
def execDescriptorRead (s : State) : Host.Outcome State Fault Refusal :=
  s.onHw (fun h =>
    match h.nextQueue, h.freeJob with
    | some q, some slot =>
      let part := h.qFld .SKM_QCTL q F.SKM_QCTL_PART
      let world := decide (h.qFld .SKM_QCTL q F.SKM_QCTL_WORLD ≠ 0)
      let head := h.qFld .SKM_QHEAD q F.SKM_QHEAD_HEAD
      let pa := (h.qFld .SKM_QBASE q F.SKM_QBASE_BASE <<< 12) + 64 * (head % h.ringSize q)
      let h0 := { h with queueTurn := q }
      match h0.agentRead part world pa 64 with
      | none =>
        let h1 := if h0.homePass part world pa then h0 else h0.homeRefusal part world pa
        (h1.setQFld .SKM_QCTL q F.SKM_QCTL_EN 0).queueError q 0x02
      | some bs =>
        let h1 := h0.homeRequest { op := .RDC, line := pa / 64, agent := .hub, part := part, world := world }
        let h2 := (h1.setQFld .SKM_QHEAD q F.SKM_QHEAD_HEAD ((head + 1) % 65536)).setQFld .SKM_QHEAD q F.SKM_QHEAD_INFLIGHT
          (h1.qFld .SKM_QHEAD q F.SKM_QHEAD_INFLIGHT + 1)
        let j := jobOf bs q h2.jobOrder part world
        { h2.setJob slot (if descBad bs part then { j with steered := true, status := 5 } else j) with jobOrder := h2.jobOrder + 1 }
    | _, _ => h)

/-! Steering (R340 to R344). -/

/-- The engine bound to a target (R330). -/
def boundEng (far : Bool) (target : Nat) : Nat := if far then 24 + target / 2 else target

/-- An engine can run a job's pieces (R331, R341, R356, R562). -/
def Hw.engUsable (h : Hw) (j : Job) (n : Nat) : Bool :=
  decide (look 0 h.engOwner n = j.part) && !h.fenced (.eng n) && !h.engDown n && decide (16 + j.elcAddr ≤ h.elcPowered n) &&
    (j.world || !wbit (h.reg .SEC_SENG 0 0 0) n)

/-- Pieces queued on an engine. -/
def Hw.engLoad (h : Hw) (n : Nat) : Nat :=
  (look [] h.engq n).length + (h.held.filter (fun e => e.1 == n)).length + (if (look? h.run n).isSome then 1 else 0)

/-- The candidate with the fewest pieces queued, the lowest number on a tie. -/
def Hw.leastLoaded (h : Hw) (l : List Nat) : Option Nat :=
  l.foldl (fun best n => match best with
    | none => some n
    | some b => if h.engLoad n < h.engLoad b then some n else some b) none

/-- The engine of a granule (R340, R341). -/
def Hw.steerTo (h : Hw) (j : Job) (pa : Nat) : Option Nat :=
  match h.isetOf pa with
  | none => none
  | some nn =>
    let far := wbit (h.reg .HOME_ISET_A 0 0 nn) 62
    let e := boundEng far (h.target nn pa).1
    if h.engUsable j e then some e
    else
      let us := (List.range 56).filter (h.engUsable j)
      let hub := us.filter (fun n => decide (n < 24))
      let prt := us.filter (fun n => decide (24 ≤ n))
      let same := prt.filter (fun n => decide (engXtl n = engXtl e))
      if far then
        match h.leastLoaded same with
        | some n => some n
        | none => match h.leastLoaded hub with
          | some n => some n
          | none => h.leastLoaded prt
      else
        match h.leastLoaded hub with
        | some n => some n
        | none => h.leastLoaded prt

/-- The page of a translation as a power of two: that of the entry of the hub's TLB that serves the address; 4 KiB where none does. -/
def Hw.pageShift (h : Hw) (c : Ctx) (va : Nat) : Nat :=
  match (look ([] : List TlbEnt) h.xtl 0).find? (fun e => e.hits c va) with
  | some e => e.size
  | none => 12

/-- The bytes from an address to the end of its interleave granule and of its page (R290, R340). -/
def Hw.granLeft (h : Hw) (c : Ctx) (va pa : Nat) : Nat :=
  let g := match h.isetOf pa with
    | some nn => match F.HOME_ISET_A_GRAN.get (h.reg .HOME_ISET_A 0 0 nn) with
      | 0 => 8
      | 1 => 12
      | _ => 14
    | none => 12
  let m := 2 ^ min g (h.pageShift c va)
  m - pa % m

/-- The state of a walk: the assignments so far, and how it ended: a translation fault with its DETAIL and VA, or no engine for a granule. -/
structure Steer where
  grans : List (Nat × Nat × Nat) := []
  fault : Option (Nat × Nat) := none
  noEng : Bool := false
  /-- Input bytes before the fault. -/
  walked : Nat := 0
  deriving DecidableEq, Repr

/-- The engine of a granule: that of the whole job where it is one piece (R342), else by R340 and R341. -/
def Hw.granEng (h : Hw) (j : Job) (a : Steer) (pa : Nat) : Option Nat :=
  match a.grans with
  | g :: _ => if j.nosplit then some g.1 else h.steerTo j pa
  | [] => h.steerTo j pa

/-- The walk of the input range (R340, R342, R344). -/
def Hw.steerWalk (j : Job) (c : Ctx) : Nat → Nat → Hw → Steer → Hw × Steer
  | 0, _, h, a => (h, a)
  | fuel + 1, off, h, a =>
    if j.inLen ≤ off then (h, a)
    else
      match h.xtlTranslate 0 c (BitVec.ofNat 64 (j.inVa + off)) .load with
      | .error (h1, f) => (h1, { a with fault := some (f.detail, j.inVa + off), walked := off })
      | .ok (h1, pa) =>
        match h1.granEng j a pa with
        | none => (h1, { a with noEng := true })
        | some e =>
          let len := min (h1.granLeft c (j.inVa + off) pa) (j.inLen - off)
          Hw.steerWalk j c fuel (off + len) h1 { a with grans := a.grans ++ [(e, off, len)] }

/-- A piece joins its engine's queue, or is held while the engine has four (R344). -/
def Hw.dispatch (h : Hw) (n : Nat) (p : Piece) : Hw :=
  let q := look [] h.engq n
  if q.length + (if (look? h.run n).isSome then 1 else 0) < 4 then ({ h with engq := put h.engq n (q ++ [p]) }).engStatus n
  else { h with held := h.held ++ [(n, p)] }

/-- The pieces of a job, in ascending order of engine number (R345). -/
def piecesOf (slot : Nat) (l : List (Nat × Nat × Nat)) : List (Nat × Piece) :=
  let engs := (List.range 56).filter (fun n => l.any (fun g => g.1 == n))
  engs.mapIdx (fun i n => (n, { slot := slot, num := i, grans := (l.filter (fun g => g.1 == n)).map (·.2) }))

/-- The one piece of a job without input (R342), on the engine of the granule that holds PROG_VA. -/
def Hw.steerWhole (h : Hw) (slot : Nat) (j : Job) (c : Ctx) : Hw :=
  match h.xtlTranslate 0 c (BitVec.ofNat 64 j.progVa) .load with
  | .error (h1, f) => h1.setJob slot { j with steered := true, status := 1, detail := f.detail, faultVa := j.progVa }
  | .ok (h1, pa) =>
    match h1.steerTo j pa with
    | none => h1.setJob slot { j with steered := true, status := 0x0B }
    | some e => (h1.setJob slot { j with steered := true, pieces := 1 }).dispatch e { slot := slot, num := 0, grans := [] }

/-- The steering of a job (R339 to R344): a job with ORDER waits for every earlier job of its queue. -/
def Hw.jobSteer (h : Hw) (slot : Nat) : Hw :=
  match look? h.jobs slot with
  | none => h
  | some j =>
    if j.steered || (j.ordered && h.jobs.any (fun e => e.2.queue == j.queue && decide (e.2.order < j.order))) then h
    else
      match h.jobCtx 0 j.part j.asid j.world with
      | .error (h1, d) => h1.setJob slot { j with steered := true, status := 6, detail := d }
      | .ok (h, c) =>
        if j.inLen == 0 then h.steerWhole slot j c
        else
          let (h1, a) := Hw.steerWalk j c (j.inLen / 256 + 4) 0 h {}
          if a.noEng then h1.setJob slot { j with steered := true, status := 0x0B }
          else
            let ps := piecesOf slot a.grans
            let j1 := { j with steered := true, pieces := ps.length }
            let j2 := match a.fault with
              | some (d, va) => { j1 with status := 1, detail := d, faultVa := va, bytes := put j1.bytes 0xFF a.walked }
              | none => j1
            ps.foldl (fun h p => h.dispatch p.1 p.2) (h1.setJob slot j2)

/-- JOB_STEER (R340). -/
def execJobSteer (slot : JobSlot) (s : State) : Host.Outcome State Fault Refusal := s.onHw (fun h => h.jobSteer slot.val)

/-! Pieces (R345, R346). -/

/-- Zeroing of every bank of a scratchpad begins (R363). -/
def Hw.spZeroAll (h : Hw) (n : Nat) : Hw :=
  let (die, inst) := engPlace n
  ({ h with sp := del h.sp n }).setFld .SKM_SPPWR die inst 0 F.SKM_SPPWR_ZEROING 0xFFFF

/-- Staged regions of masters 0 and 1 apply between pieces (R365). -/
def Hw.rgnApply (h : Hw) (n : Nat) : Hw :=
  let (die, inst) := engPlace n
  let h1 := (List.range 2).foldl (fun h i => h.applyShadow (RegRef.at .SKM_RGN_FIRST die inst i)) h
  (List.range 14).foldl (fun h i => h.applyShadow (RegRef.at .SKM_RGN_CORE die inst i)) h1

/-- The state of a run at its start (R345). -/
def EngRun.start (j : Job) (p : Piece) (args : List Byte) : EngRun :=
  { piece := p,
    s := [(2, BitVec.ofNat 64 (streamLen j p)), (3, BitVec.ofNat 64 p.num), (4, BitVec.ofNat 64 j.pieces),
          (5, BitVec.ofNat 64 j.recLen)] ++
      (if args.isEmpty then [] else (List.range 8).map (fun i => (8 + i, BitVec.ofNat 64 (ofBytes ((args.drop (8 * i)).take 8))))) }

/-- A piece is stopped or ends (R346): it runs nothing more. -/
def Hw.stopRun (h : Hw) (n : Nat) (p : PieceStop) : Hw :=
  match look? h.run n with
  | some r => (h.setRun n { r with stop := some (r.stop.getD p), halted := false }).engStatus n
  | none => h

/-- The argument block is read, with one read (R345); until it is here the piece runs no instruction. -/
def Hw.argRead (h : Hw) (n : Nat) : Hw :=
  match look? h.run n with
  | none => h
  | some r =>
    let j := h.job r.piece.slot
    if !r.argDue || r.stop.isSome then h
    else match h.engRead n .snapshot 2 j.argVa 64 with
      | .error (h1, .stop q _) => h1.stopRun n q
      | .error (h1, .wait) => h1
      | .ok (h1, bs) => match look? h1.run n with
        | some r1 => h1.setRun n { r1 with s := (EngRun.start j r.piece bs).s, argDue := false }
        | none => h1

/-- The first waiting piece starts (R345). -/
def Hw.pieceStart (h : Hw) (n : Nat) : Hw :=
  let (die, inst) := engPlace n
  match look? h.run n, look [] h.engq n with
  | none, p :: rest =>
    let j := h.job p.slot
    if h.fenced (.eng n) || h.engDown n || decide (h.fld .SKM_UCODE die inst 0 F.SKM_UCODE_STATE = 2) || decide (h.elcPowered n < 16 + j.elcAddr)
        || h.fld .SKM_SPPWR die inst 0 F.SKM_SPPWR_ZEROING != 0 then h
    else if look? h.engLast n ≠ some (j.part, j.world) then
      { h.spZeroAll n with engLast := put h.engLast n (j.part, j.world) }
    else
      let r0 := { EngRun.start j p [] with argDue := decide (j.argVa ≠ 0) }
      (((({ h with engq := put h.engq n rest }).rgnApply n).setRun n r0).argRead n).engStatus n
  | _, _ => h.argRead n

/-- PIECE_START (R345): the first piece that waits on an idle engine starts, unless microcode is being loaded (R630), after the zeroing that a change of owner or world asks for (R363). -/
def execPieceStart (n : EngNum) (s : State) : Host.Outcome State Fault Refusal := s.onHw (fun h => h.pieceStart n.val)

/-- A piece reports to the steering unit (R204, R346, R369): its end, s1 and the input bytes that its program has moved past. -/
def Hw.pieceReport (h : Hw) (slot num : Nat) (p : PieceStop) (s1 : W64) (bytes : Nat := 0) : Hw :=
  let j := h.job slot
  h.setJob slot { j with ended := j.ended ++ [(num, p.status, s1, p.va, p.detail)], bytes := put j.bytes num bytes }

/-- A held piece of an engine takes the room that another has left (R344). -/
def Hw.refillQueue (h : Hw) (n : Nat) : Hw :=
  match takeFirst (fun e => e.1 == n) h.held with
  | some (e, rest) => ({ h with held := rest }).dispatch n e.2
  | none => h

/-- The engine waits for the acknowledgement of a write-back (R346). -/
def Hw.engWbOpen (h : Hw) (n : Nat) : Bool := !(look [] h.agWb (agKey (.eng n))).isEmpty

/-- The header of a chunk (R354). -/
def chunkHeader (c : ChunkSt) : List Byte := toBytes 8 c.first ++ toBytes 4 c.used ++ toBytes 4 c.seq

/-- The steps of R346: the last chunk's header, the write-back of the line cache, and the report; a step that must wait leaves the rest to a later command. A fenced engine's piece is completed by the steering unit (R372). -/
def Hw.pieceEnd (h : Hw) (n : Nat) : Hw :=
  match look? h.run n with
  | none => h
  | some r =>
    match r.stop with
    | none => h
    | some p =>
      let j := h.job r.piece.slot
      let fin (h : Hw) : Hw :=
        let (die, inst) := engPlace n
        let h1 := ({ h with run := del h.run n }).pieceReport r.piece.slot r.piece.num p (look 0 r.s 1) r.sbase
        let c := h1.fld .SKM_STATUS die inst 0 F.SKM_STATUS_PIECES_RUN
        ((h1.setFld .SKM_STATUS die inst 0 F.SKM_STATUS_PIECES_RUN ((c + 1) % 2 ^ 32)).refillQueue n).engStatus n
      if h.fenced (.eng n) then fin h
      else
        match r.chunk, r.closed with
        | some c, false =>
          match h.engWrite n (j.outVa + 4096 * c.num) true (chunkHeader c) with
          | .error (h1, .wait) => h1
          | .error (h1, .stop _ _) => match look? h1.run n with
            | some r1 => h1.setRun n { r1 with closed := true }
            | none => h1
          | .ok h1 => match look? h1.run n with
            | some r1 => h1.setRun n { r1 with closed := true }
            | none => h1
        | _, _ =>
          if !(look [] h.esq n).isEmpty then h
          else if !(look [] h.elc n).isEmpty then (look [] h.elc n).foldl (fun h e => h.engGiveUp n e.1) h
          else if h.engWbOpen n then h
          else fin h

/-- APPEND_CHUNK_REQUEST (R354): an engine with no chunk in hand, or whose chunk is half full, is granted the next chunk; without one left it learns so. -/
def execAppendChunkRequest (n : EngNum) (s : State) : Host.Outcome State Fault Refusal :=
  s.onHw (fun h =>
    match look? h.run n.val with
    | none => h
    | some r =>
      let j := h.job r.piece.slot
      let due := match r.chunk with
        | none => true
        | some c => decide (2040 ≤ c.used)
      if decide (j.outMode = 1) && r.granted.isEmpty && due && r.stop.isNone then
        if (j.chunks + 1) * 4096 ≤ j.outLen then
          (h.setRun n.val { r with granted := [j.chunks] }).setJob r.piece.slot { j with chunks := j.chunks + 1 }
        else h.setRun n.val { r with noChunk := true }
      else h)

/-! Completion (R368 to R371). -/

/-- The status of a job (R369): the lowest nonzero code among its own and its pieces'. -/
def Job.result (j : Job) : Nat :=
  ((j.status :: j.ended.map (fun e => e.2.1)).filter (fun x => x != 0)).foldl (fun m x => if m = 0 then x else min m x) 0

/-- The first failed piece: the one with the lowest number. -/
def Job.firstFailed (j : Job) : Option (Nat × Nat × W64 × Nat × Nat) :=
  (j.ended.filter (fun e => e.2.1 != 0)).foldl (fun (m : Option (Nat × Nat × W64 × Nat × Nat)) e => match m with
    | none => some e
    | some x => if e.1 < x.1 then some e else some x) none

/-- The completion record (R368). -/
def Job.record (j : Job) : List Byte :=
  let st := j.result
  let ff := j.firstFailed
  let own := decide (j.status = st) && decide (st ≠ 0)
  let detail := if st = 1 ∨ st = 6 then (if own then j.detail else ff.elim 0 (fun e => e.2.2.2.2)) else 0
  let va := if st = 1 ∨ st = 2 ∨ st = 3 then (if own then j.faultVa else ff.elim 0 (fun e => e.2.2.2.1)) else 0
  let failed := (j.ended.filter (fun e => e.2.1 != 0)).length
  let sum := j.ended.foldl (fun (n : Nat) e => (n + e.2.2.1.toNat) % 2 ^ 64) 0
  [1, BitVec.ofNat 8 st] ++ toBytes 2 j.tag ++ [BitVec.ofNat 8 j.pieces, BitVec.ofNat 8 failed, BitVec.ofNat 8 detail,
    BitVec.ofNat 8 (ff.elim 0xFF (fun e => e.1))] ++ toBytes 8 sum ++
    toBytes 8 (if j.outMode = 1 then j.chunks * 4096 else 0) ++ toBytes 8 va

/-- A job leaves its slot: INFLIGHT falls, and the vector that it asked for is raised (R370). -/
def Hw.jobDone (h : Hw) (slot : Nat) (j : Job) (event : Bool) : Hw :=
  let n := h.qFld .SKM_QHEAD j.queue F.SKM_QHEAD_INFLIGHT
  let h1 := ({ h with jobs := del h.jobs slot }).setQFld .SKM_QHEAD j.queue F.SKM_QHEAD_INFLIGHT (n - 1)
  if event && j.event then
    h1.raise { source := 0x130 + j.queue, part := j.part, vec := some (h.qFld .SKM_QCTL j.queue F.SKM_QCTL_EVT) }
  else h1

/-- The record's write has not yet become visible. -/
def Hw.hubWriteOpen (h : Hw) (line : Nat) : Bool :=
  h.txns.any (fun t => (t.req.map (fun r => decide (r.agent = .hub) && decide (r.line = line) && r.op == .WRP)).getD false) ||
    h.waitq.any (fun r => decide (r.agent = .hub) && decide (r.line = line) && r.op == .WRP)

/-- The translation of the completion record's address (R337, R338). -/
def Hw.cplPa (h : Hw) (j : Job) : Except Hw (Hw × Nat) :=
  match h.jobCtx 0 j.part j.asid j.world with
  | .error (h1, _) => .error h1
  | .ok (h, c) =>
    match h.xtlTranslate 0 c (BitVec.ofNat 64 j.cplVa) .store with
    | .error (h1, _) => .error h1
    | .ok (h1, pa) =>
      if !h1.homePass j.part j.world pa then .error (h1.homeRefusal j.part j.world pa)
      else if !h1.mapped pa then .error h1
      else .ok (h1, pa)

/-- COMPLETION_WRITE (R368): once every piece has reported, the record is written; when it is visible the job leaves its slot and its vector is raised. A record that cannot be written is queue error 0x03. -/
def Hw.completionWrite (h : Hw) (slot : Nat) : Hw :=
  match look? h.jobs slot with
  | none => h
  | some j =>
    if !j.steered || decide (j.ended.length < j.pieces) then h
    else if j.silent then h.jobDone slot j false
    else
      match h.cplPa j with
      | .error h1 => (h1.queueError j.queue 0x03).jobDone slot j false
      | .ok (h1, pa) =>
        let h2 := if j.recorded then h1 else
          (h1.setJob slot { j with recorded := true }).agentWrite .hub j.part j.world pa j.record
        if h2.hubWriteOpen (pa / 64) then h2 else h2.jobDone slot j true

/-- COMPLETION_WRITE (R368). -/
def execCompletionWrite (slot : JobSlot) (s : State) : Host.Outcome State Fault Refusal :=
  s.onHw (fun h => h.completionWrite slot.val)

/-- The pieces of some jobs are stopped (R371, R372): running ones end by R346, waiting and held ones report at once. -/
def Hw.stopPieces (h : Hw) (sel : Nat → Piece → Bool) (status : Nat) : Hw :=
  let h1 := (List.range 56).foldl (fun h n => match look? h.run n with
    | some r => if sel n r.piece then h.stopRun n { status := status } else h
    | none => h) h
  let h2 := (List.range 56).foldl (fun h n =>
    let q := look [] h.engq n
    (q.filter (sel n)).foldl (fun h p => h.pieceReport p.slot p.num { status := status } 0)
      { h with engq := put h.engq n (q.filter (fun p => !sel n p)) }) h1
  (h2.held.filter (fun e => sel e.1 e.2)).foldl (fun h e => h.pieceReport e.2.slot e.2.num { status := status } 0)
    { h2 with held := h2.held.filter (fun e => !sel e.1 e.2) }

/-- JOB_TIMEOUT (R371): a job with TMO_MS and a dispatched piece has every piece stopped with status 0x0A. -/
def execJobTimeout (slot : JobSlot) (s : State) : Host.Outcome State Fault Refusal :=
  s.onHw (fun h =>
    match look? h.jobs slot.val with
    | none => h
    | some j =>
      if h.qFld .SKM_QCTL j.queue F.SKM_QCTL_TMO_MS = 0 ∨ !j.steered ∨ j.pieces ≤ j.ended.length then h
      else (h.setJob slot.val { j with status := if j.status = 0 then 0x0A else j.status }).stopPieces
        (fun _ p => p.slot == slot.val) 0x0A)

/-- Every piece on an engine stops (R372): its ownership changes, or it is fenced. -/
def Hw.engCancel (h : Hw) (n status : Nat) : Hw := h.stopPieces (fun m _ => m == n) status

/-- The pieces of a partition stop at its reset, and its jobs write no record (R372). -/
def Hw.partCancel (h : Hw) (p : Nat) : Hw :=
  let h1 := { h with jobs := h.jobs.map (fun (e : Nat × Job) => if e.2.part = p then (e.1, { e.2 with silent := true, steered := true }) else e) }
  h1.stopPieces (fun _ x => decide ((h.job x.slot).part = p)) 7

/-- The engines that a fence takes: their pieces end with status 0x08 and their source is raised (R372, R610). -/
def Hw.engFenced (h : Hw) (l : List Agent) : Hw :=
  l.foldl (fun h a => match a with
    | .eng n => ((h.engCancel n 8).engRaise n).engStatus n
    | _ => h) h

/-- AGENT_FENCE (R283, R284). -/
def execAgentFence (who : Who) (engines : Bool) (v : W64) (s : State) : Host.Outcome State Fault Refusal :=
  s.onHw (fun h => h.permit (RegRef.at (if engines then .HOME_FENCE1 else .HOME_FENCE0) 0) who v
    (fun h => (h.fenceSet engines v).engFenced (fenceAgents engines v)))

/-! Power of the line cache and of the scratchpad (R361 to R364). -/

/-- A group of entries holds addressable, locked or program entries of the running piece (R361, log entry 26). -/
def Hw.groupHeld (h : Hw) (n g : Nat) : Bool :=
  match look? h.run n with
  | none => false
  | some r =>
    let j := h.job r.piece.slot
    let locked := ((r.snap.filter (fun e => e.2.locked)).map (fun e => e.1 / 16)).eraseDups.length
    decide (8 * g < j.elcAddr + locked)

/-- A write of SKM_ELCPWR (R361): a group that is asked for powers up empty; one that is given up is cleaned first. -/
def Hw.elcpwrWrite (h : Hw) (w : Who) (n : Nat) (half : Half) (v : W64) : Hw :=
  let (die, inst) := engPlace n
  let h1 := h.writeFields (RegRef.at .SKM_ELCPWR die inst 0) w half v
  let req := h1.fld .SKM_ELCPWR die inst 0 F.SKM_ELCPWR_GRP_REQ
  let off := h1.fld .SKM_ELCPWR die inst 0 F.SKM_ELCPWR_GRP_OFF
  let h2 := h1.setFld .SKM_ELCPWR die inst 0 F.SKM_ELCPWR_GRP_OFF (off &&& req)
  h2.setFld .SKM_ELCPWR die inst 0 F.SKM_ELCPWR_CLEANING (if req &&& (63 ^^^ off) = 0 then 0 else 1)

/-- ELC_GROUP_POWER_REQUEST (R361). -/
def execElcGroupPowerRequest (who : Who) (n : EngNum) (v : W64) (s : State) : Host.Outcome State Fault Refusal :=
  let (die, inst) := engPlace n.val
  s.onHw (fun h => h.permit (RegRef.at .SKM_ELCPWR die inst 0) who v (fun h => h.elcpwrWrite who n.val .full v))

/-- ELC_GROUP_CLEAN_DONE (R361): a requested group whose entries no running piece needs is clean; its owned lines have gone to the homes. Which of the engine's lines lie in a group the spec leaves to the part: the engine gives up every owned line (log entry 26). -/
def execElcGroupCleanDone (n : EngNum) (g : Fin 6) (s : State) : Host.Outcome State Fault Refusal :=
  s.onHw (fun h =>
    let (die, inst) := engPlace n.val
    let req := h.fld .SKM_ELCPWR die inst 0 F.SKM_ELCPWR_GRP_REQ
    let off := h.fld .SKM_ELCPWR die inst 0 F.SKM_ELCPWR_GRP_OFF
    if req.testBit g.val && !off.testBit g.val && !h.groupHeld n.val g.val then
      let h1 := (look [] h.elc n.val).foldl (fun h e => h.engGiveUp n.val e.1) h
      let off1 := off ||| 2 ^ g.val
      (h1.setFld .SKM_ELCPWR die inst 0 F.SKM_ELCPWR_GRP_OFF off1).setFld .SKM_ELCPWR die inst 0 F.SKM_ELCPWR_CLEANING
        (if req &&& (63 ^^^ off1) = 0 then 0 else 1)
    else h)

/-- A write of SKM_SPPWR (R363, R364): a bank that goes off loses its contents; one that comes on from off is zeroed. -/
def Hw.sppwrWrite (h : Hw) (w : Who) (n : Nat) (half : Half) (v : W64) : Hw :=
  let (die, inst) := engPlace n
  let old := h.reg .SKM_SPPWR die inst 0
  let h1 := h.writeFields (RegRef.at .SKM_SPPWR die inst 0) w half v
  let new := h1.reg .SKM_SPPWR die inst 0
  let st (x : W64) (b : Nat) : Nat := wbits x (2 * b + 1) (2 * b)
  let lost := (List.range 16).filter (fun b => decide (2 ≤ st new b) || (decide (2 ≤ st old b) && decide (st new b < 2)))
  let due := (List.range 16).foldl (fun m b => if 2 ≤ st old b ∧ st new b < 2 then m ||| 2 ^ b else m)
    (h1.fld .SKM_SPPWR die inst 0 F.SKM_SPPWR_ZEROING)
  let cells := (look [] h1.sp n).filter (fun e => !(lost.contains (e.1 / 32768)))
  ({ h1 with sp := put h1.sp n cells }).setFld .SKM_SPPWR die inst 0 F.SKM_SPPWR_ZEROING due

/-- SP_BANK_POWER_CHANGE (R364). -/
def execSpBankPowerChange (who : Who) (n : EngNum) (v : W64) (s : State) : Host.Outcome State Fault Refusal :=
  let (die, inst) := engPlace n.val
  s.onHw (fun h => h.permit (RegRef.at .SKM_SPPWR die inst 0) who v (fun h => h.sppwrWrite who n.val .full v))

/-- SCRATCHPAD_ZERO_DONE (R363). -/
def execScratchpadZeroDone (n : EngNum) (bank : Fin 16) (s : State) : Host.Outcome State Fault Refusal :=
  s.onHw (fun h =>
    let (die, inst) := engPlace n.val
    let z := h.fld .SKM_SPPWR die inst 0 F.SKM_SPPWR_ZEROING
    h.setFld .SKM_SPPWR die inst 0 F.SKM_SPPWR_ZEROING (z &&& (0xFFFF ^^^ 2 ^ bank.val)))

/-- The address of the scratchpad window of an engine (R367). -/
def spWindow (n : Nat) : Nat :=
  let (die, inst) := engPlace n
  winBase die + (if die = 0 then 0x06000000 else 0x03000000) + inst * 0x100000 + 0x80000

/-- The host access port (R10, R366, R367): the value of a load, or nothing where the access is refused and recorded. -/
def Hw.hostSp (h : Hw) (w : Who) (n off : Nat) (half : Half) (write : Bool) (v : W64) : Hw × Option W64 :=
  let (die, _) := engPlace n
  let pa := spWindow n + off / 8 * 8
  let a := off / 8 * 8 + (if half = .high then 4 else 0)
  let len := if half = .full then 8 else 4
  if w.part.val ≠ 0 ∧ w.part.val ≠ look 0 h.engOwner n then (h.refuseReg die pa w, none)
  else if !h.spAllowed n 2 a len write then (h.refuseReg die pa w, none)
  else if write then
    (h.spWrite n a (toBytes len (if half = .high then v.toNat >>> 32 else v.toNat)), some 0)
  else (h, some (BitVec.ofNat 64 (ofBytes ((List.range len).map (fun i => h.spByte n (a + i))) <<< (if half = .high then 32 else 0))))

/-- HOST_SCRATCHPAD_ACCESS (R367): the answer goes to the requester as a completion (R434). -/
def execHostScratchpadAccess (who : Who) (n : EngNum) (off : BitVec 19) (half : Half) (write : Bool) (v : W64) (s : State) :
    Host.Outcome State Fault Refusal :=
  s.onHw (fun h =>
    match h.hostSp who n.val off.toNat half write v with
    | (h1, some x) => h1.send { op := .REGCPL, addr := spWindow n.val + off.toNat / 8 * 8, agent := h1.threadAgent who.thread.val,
                                part := who.part.val, world := who.world, info := x.toNat }
    | (h1, none) => h1.send { op := .REF, addr := spWindow n.val + off.toNat / 8 * 8, agent := h1.threadAgent who.thread.val,
                              part := who.part.val, world := who.world })

end Sys2Proof.Machine
end

