-- ==== Sys2Proof/Machine/Fabric.lean ====
section
/-! DEFINITION. The on-package fabric: stops, shared slots, closing domains' answers, and role epochs (spec/11_fabric.md R431 to R453). -/

namespace Sys2Proof.Machine

/-- The kind of slot that a TREQ or a TGNT names. -/
def slotKindOf (wb : Bool) : Nat := b2n wb

/-- TREQ (R440): a source holds at most one outstanding request for a destination, and one that can be granted no slot has none. -/
def execTreq (dst src : StopRef) (wb : Bool) (s : State) : Host.Outcome State Fault Refusal :=
  s.onHw (fun h =>
    let r : TokReq := ⟨stopNum dst, stopNum src, slotKindOf wb⟩
    let h1 := h.arrivedBy (fun m => m.op == .TREQ && decide (m.addr = r.dst ∧ m.data = r.src ∧ m.mask = r.kind))
    if h1.treqs.any (fun q => decide (q.dst = r.dst ∧ q.src = r.src)) || (sharedPool r.dst r.src r.kind).isEmpty then h1
    else ({ h1 with treqs := h1.treqs ++ [r] } : Hw).grantToks (h1.treqs.length + 1) r.dst)

/-- A granted slot reaches its source (R440): its first message that waits for one takes it, and without one the slot goes back; if more messages wait, the source asks again. -/
def Hw.granted (h : Hw) (t : TokSlot) : Hw :=
  let waits (m : Msg) : Bool := decide (m.slotStop = t.dst ∧ m.ends.1 = t.src) && m.op.slotKind == some t.kind
  match takeFirst waits h.tokWait with
  | some (m, rest) =>
    let h1 := ({ h with tokWait := rest, toks := dropFirst (fun x => x == t) h.toks } : Hw).injectWith m t.kind t.slot
    match rest.find? waits with
    | some m2 => h1.askSlot m2 t.kind
    | none => h1
  | none => h.dropSlot t

/-- TGNT (R440): a grant reaches its source; or a slot is given back and granted to the next request. -/
def execTgnt (dst src : StopRef) (wb : Bool) (slot : BitVec 8) (back : Bool) (s : State) : Host.Outcome State Fault Refusal :=
  s.onHw (fun h =>
    let t : TokSlot := { dst := stopNum dst, kind := slotKindOf wb, slot := slot.toNat, src := stopNum src }
    let h1 := h.arrivedBy (fun m => m.op == .TGNT && decide (m.addr = t.dst ∧ m.data = t.src ∧ m.mask = t.kind ∧ m.info = t.slot))
    if !h1.toks.contains t then h1 else if back then h1.dropSlot t else h1.granted t)

/-! Closing domains (R451). -/

/-- The request of a source for a line or an address that an ASLEEP names, which the source keeps. -/
def Sleeper.names (x : Sleeper) (dst src op line : Nat) : Bool :=
  decide (x.dst = dst ∧ x.msg.ends.1 = src ∧ x.msg.op.code = op ∧ x.msg.line = some line)

/-- ASLEEP (R451): with WAKING the request keeps its response slot until OPEN; without it, it ends as a dropped prefetch does. -/
def execAsleep (dst src : StopRef) (op : BitVec 6) (l : Line) (waking : Bool) (s : State) : Host.Outcome State Fault Refusal :=
  s.onHw (fun h =>
    let a := agentOfStop (stopNum src)
    let h1 := h.arrivedBy (fun m => m.op == .ASLEEP && m.line == some l.toNat && decide (m.ends = (stopNum dst, stopNum src)))
    if waking then
      if h1.sleepers.any (fun x => x.names (stopNum dst) (stopNum src) op.toNat l.toNat) || h1.msgs.length < h.msgs.length then h1
      else match opOf op.toNat with
        | some o => { h1 with sleepers := h1.sleepers ++ [⟨stopNum dst, { op := o, addr := l.toNat, agent := a, part := h1.agentPart a }⟩] }
        | none => h1
    else match a with
      | .core d _ => h1.dieRequestEnds d l.toNat
      | _ => h1)

/-- OPEN (R451): the requests that the domain's edge answered with ASLEEP are sent again, each with a new token and its response slot. -/
def execOpenEdge (dst src : StopRef) (s : State) : Host.Outcome State Fault Refusal :=
  s.onHw (fun h =>
    let h1 := h.arrivedBy (fun m => m.op == .OPEN && decide (m.ends = (stopNum dst, stopNum src)))
    let (mine, rest) := h1.sleepers.partition (fun x => decide (x.dst = stopNum dst ∧ x.msg.ends.1 = stopNum src))
    mine.foldl (fun h x => h.post x.msg) { h1 with sleepers := rest })

/-! Role epochs (R452, R453). -/

/-- The unit at a stop has no request outstanding and has given up every line that it holds (R452). -/
def Hw.stopIdle (h : Hw) (n : Nat) : Bool :=
  let a := agentOfStop n
  !(h.txns.any (fun t => (t.req.map (fun r => r.agent.same a)).getD false || (t.wait ++ t.wb).any (fun x => x.same a))) &&
  !(h.waitq.any (fun r => r.agent.same a)) &&
  (match a with
   | .core d _ => (h.cdie d).dc.isEmpty && (h.cdie d).miss.isEmpty && (h.cdie d).wbb.isEmpty
   | .eng k => (look [] h.elc k).isEmpty && (look? h.run k).isNone && (look [] h.esq k).isEmpty
   | .port k => (look [] h.pwr k).isEmpty && (look [] h.patom k).isEmpty && (look [] h.dpq k).isEmpty
   | .hub => true)

/-- UPD_PEND shows the stops that have not acknowledged, saturating (R452). -/
def Hw.showPend (h : Hw) (die : Nat) : Hw :=
  h.setFld .DCTL_EPOCH die 0 0 F.DCTL_EPOCH_UPD_PEND (min 0xFF (look [] h.epochPend die).length)

/-- A die's role epoch advances for a stop (R452): every stop is sent an update. -/
def Hw.advanceEpoch (h : Hw) (n : Nat) : Hw :=
  let die := n / 128
  let e := (h.epoch die + 1) % 256
  let h1 := h.setFld .DCTL_EPOCH die 0 0 F.DCTL_EPOCH_CUR e
  let h2 : Hw := { h1 with epochLast := put h1.epochLast n e, epochPend := put h1.epochPend die allStops, epochAt := put h1.epochAt die h1.now }
  h2.showPend die

/-- The role of a stop may change now: its unit is idle, every stop has acknowledged the die's last update, and 32 ms have passed since (R452). -/
def Hw.mayChangeRole (h : Hw) (n : Nat) : Bool :=
  h.stopIdle n && (look [] h.epochPend (n / 128)).isEmpty &&
    (match look? h.epochAt (n / 128) with
     | some t => decide (t + 32000000 ≤ h.now)
     | none => true)

/-- ROLE_CHANGE (R452). -/
def execRoleChange (stop : StopRef) (s : State) : Host.Outcome State Fault Refusal :=
  s.onHw (fun h => if stopOk stop && h.mayChangeRole (stopNum stop) then h.advanceEpoch (stopNum stop) else h)

/-- EPOCH_UPDATE (R452, R453): the stop takes the die's epoch into its table and acknowledges; a stop of that die whose last change is too old takes the current epoch less 251. -/
def execEpochUpdate (die : DieIx) (stop : StopRef) (s : State) : Host.Outcome State Fault Refusal :=
  s.onHw (fun h =>
    let d := dieId die
    let n := stopNum stop
    let cur := h.epoch d
    let last := look ((cur + 256 - 251) % 256) h.epochLast n
    let h1 : Hw := { h with
      epochPend := put h.epochPend d ((look [] h.epochPend d).filter (fun k => decide (k ≠ n))),
      epochLast := if n / 128 = d ∧ 251 < age cur last then put h.epochLast n ((cur + 256 - 251) % 256) else h.epochLast }
    h1.showPend d)

end Sys2Proof.Machine
end

