-- ==== Sys2Proof/Machine/MeterOps.lean ====
section
/-! DEFINITION. What the meter does with the frames of the hub's MTRX block that it acknowledges (spec/17_energy_meter.md R586, R592, R597, R599, R603, R604). -/

namespace Sys2Proof.Machine

/-- The meter, changed. -/
def Hw.onMeter (h : Hw) (f : Meter → Meter) : Hw := { h with meter := f h.meter }

/-- Meter time in ms: the interval's first sample, the samples since, at 8 kHz, and the adjustments accepted since (R588, R595, R599). -/
def Meter.time (m : Meter) : Nat := (((m.tStart + m.samples / 8 : Nat) : Int) + m.adj).toNat

/-- The meter accumulates legal energy: the seal is closed, and it never opened with the audit log full (R596, R600, R602). -/
def Meter.legalOn (m : Meter) : Bool := !m.sealOpen && !m.dead

/-- The audit log has 4,080 entries or more (R602). -/
def Meter.logFull (m : Meter) : Bool := decide (4080 ≤ m.audit.length)

/-- Fixed-length bytes: cut, or padded with zeros. -/
def padTo (n : Nat) (bs : List Byte) : List Byte := (bs ++ List.replicate n 0).take n

/-- The IDENT reply after its status byte (R599). -/
def Meter.identity (m : Meter) : List Byte :=
  toBytes 8 Config.meterSerial.toNat ++ toBytes 4 m.fwVer ++ toBytes 4 m.calSeq ++ toBytes 4 m.audit.length ++
  toBytes 1 m.busAddr ++ toBytes 1 (b2n m.sealOpen) ++ padTo 97 Config.meterKey

/-- A command of MTRX_CMD ends with a RESULT (R603). -/
def Hw.mtrxDone (h : Hw) (result : Nat) : Hw :=
  (h.setFld .MTRX_CMD 0 0 0 F.MTRX_CMD_BUSY 0).setFld .MTRX_CMD 0 0 0 F.MTRX_CMD_RESULT result

/-- The meter carries out a command of MTRX_CMD (R604): 1 IDENT, 2 RESEND, 3 TIMEMARK. The first two end when their slot is written. -/
def Hw.meterCommand (h : Hw) (op arg : Nat) : Hw :=
  match op with
  | 1 => h.onMeter (fun m => { m with outq := m.outq ++ [padTo 640 (toBytes 4 0x44494D4C ++ m.identity)] })
  | 2 => match look? h.meter.records arg with
    | some r => h.onMeter (fun m => { m with outq := m.outq ++ [r] })
    | none => h.mtrxDone 2
  | 3 => (h.onMeter (fun m => { m with tmHub := arg, tmMtr := m.time })).mtrxDone 0
  | _ => h

/-- The meter has acknowledged a frame (R447, R592, R604): an OWNER frame waits no longer, and a command is carried out. -/
def Hw.meterAcked (h : Hw) (f : TFrame) : Hw :=
  match f.payload with
  | k :: r =>
    if k = 0 then
      let mine (e : Nat × Nat) : Bool := decide (e = ((r.headD 0).toNat, (r.getD 1 0).toNat))
      let h1 : Hw := { h with mtrx := { h.mtrx with ownerPend := dropFirst mine h.mtrx.ownerPend } }
      h1.setFld .MTRX_STAT 0 0 0 F.MTRX_STAT_OWNER_PEND (b2n !h1.mtrx.ownerPend.isEmpty)
    else if k = 2 then h.meterCommand (r.headD 0).toNat (ofBytes (r.drop 1))
    else h
  | [] => h

end Sys2Proof.Machine
end

