-- ==== Sys2Proof/Machine/Links.lean ====
section
/-! DEFINITION. The control torus, the scrim links and the lath links (spec/11_fabric.md R444 to R448; spec/12_die_links.md R456 to R484). -/

namespace Sys2Proof.Machine

/-! The control torus (R22, R445 to R448). -/

/-- The node of a die; the hub's first node, the security controller, for the hub (R22). -/
def nodeOfDie (die : Nat) : Nat :=
  ([(0x00, 5), (0x01, 0), (0x02, 4), (0x03, 8), (0x10, 12), (0x04, 16), (0x05, 17), (0x06, 18), (0x11, 14), (0x07, 15), (0x08, 11),
    (0x09, 7), (0x12, 10), (0x0A, 3), (0x0B, 2), (0x0C, 1), (0x13, 6)].find? (fun e => e.1 == die)).elim 0 (·.2)

/-- The die of a node other than the hub's three and the meter's (R22). -/
def dieOfNode (n : Nat) : Option Nat :=
  ([(0, 0x01), (4, 0x02), (8, 0x03), (12, 0x10), (16, 0x04), (17, 0x05), (18, 0x06), (14, 0x11), (15, 0x07), (11, 0x08), (7, 0x09),
    (10, 0x12), (3, 0x0A), (2, 0x0B), (1, 0x0C), (6, 0x13)].find? (fun e => e.1 == n)).map (·.2)

/-- The hub nodes: 0 the security controller, 1 the package power controller, 2 the structure engine (R470). -/
def hubNode (n : Nat) : Option Nat := if n = 5 then some 0 else if n = 9 then some 1 else if n = 13 then some 2 else none

/-- The meter's node (R22). -/
def meterNode : Nat := 19

/-- The neighbour of a node through a port (R470). -/
def peerNode (n p : Nat) : Nat :=
  let x := n / 4
  let y := n % 4
  if p = 0 then (x + 1) % 5 * 4 + y else if p = 1 then (x + 4) % 5 * 4 + y
  else if p = 2 then x * 4 + (y + 1) % 4 else x * 4 + (y + 3) % 4

/-- The port at the other end of a link. -/
def peerPort (p : Nat) : Nat := p ^^^ 1

/-- The shorter signed distance around a ring of `k` nodes; +2 at a distance of 2 of 4 (R445). -/
def ringDist (k a b : Nat) : Int :=
  let d := (b + k - a) % k
  if 2 * d ≤ k then d else (d : Int) - k

/-- `n` hops through one port, as the ports taken. -/
def hops (p : Nat) (n : Nat) : List Nat := (List.range n).map (fun _ => p)

/-- The ports that a route takes (R445). -/
def routePorts (src dst : Nat) (alt : Bool) : List Nat :=
  let dx := ringDist 5 (src / 4) (dst / 4)
  let dy := ringDist 4 (src % 4) (dst % 4)
  let xs := hops (if 0 ≤ dx then 0 else 1) dx.natAbs
  let ys := hops (if 0 ≤ dy then 2 else 3) dy.natAbs
  if !alt then xs ++ ys
  else if dx ≠ 0 ∧ dy ≠ 0 then ys ++ xs
  else if dx ≠ 0 then hops (if 0 ≤ dx then 1 else 0) (5 - dx.natAbs)
  else if dy ≠ 0 then hops (if 0 ≤ dy then 3 else 2) (4 - dy.natAbs)
  else []

/-- The nodes of a route with the port by which each is left. -/
def routeFrom : Nat → List Nat → List (Nat × Nat)
  | _, [] => []
  | n, p :: r => (n, p) :: routeFrom (peerNode n p) r

/-- The port by which a frame leaves a node of its route. -/
def nextPort (n src dst : Nat) (alt : Bool) : Option Nat :=
  ((routeFrom src (routePorts src dst alt)).find? (fun e => e.1 == n)).map (·.2)

/-- The register of a lath port, for a node that has one (R470). -/
def lathRef (n p : Nat) : Option RegRef :=
  match hubNode n, dieOfNode n with
  | some j, _ => some ⟨.LATH_PORT_HUB, 0, 0, 4 * j + p⟩
  | none, some d => some ⟨.LATH_PORT, d, 0, p⟩
  | none, none => none

/-- A field of a lath port; both register layouts agree (R470). -/
def Hw.lathFld (h : Hw) (n p : Nat) (f : Fld) : Nat :=
  match lathRef n p with
  | some r => h.fld r.name r.die 0 r.idx f
  | none => match lathRef (peerNode n p) (peerPort p) with
    | some r => h.fld r.name r.die 0 r.idx f
    | none => 0

/-- A field of a lath port, replaced. -/
def Hw.setLathFld (h : Hw) (n p : Nat) (f : Fld) (v : Nat) : Hw :=
  match lathRef n p with
  | some r => h.setFld r.name r.die 0 r.idx f v
  | none => h

/-- A field of both ends of a lath link, replaced. -/
def Hw.setLathBoth (h : Hw) (n p : Nat) (f : Fld) (v : Nat) : Hw :=
  (h.setLathFld n p f v).setLathFld (peerNode n p) (peerPort p) f v

/-- STATE of a lath port. -/
def Hw.lathState (h : Hw) (n p : Nat) : Nat := h.lathFld n p F.LATH_PORT_STATE

/-- A hop of a route is over a link held down or down (R448). -/
def Hw.routeDown (h : Hw) (src dst : Nat) (alt : Bool) : Bool :=
  (routeFrom src (routePorts src dst alt)).any (fun e => let st := h.lathState e.1 e.2; st == 5 || st == 0)

/-! Envelopes (R467). -/

/-- An end of a lath link. -/
def Hw.lathEnd (h : Hw) (n p : Nat) : LathEnd := look {} h.lath (4 * n + p)

/-- An end of a lath link, changed. -/
def Hw.onLath (h : Hw) (n p : Nat) (f : LathEnd → LathEnd) : Hw := { h with lath := put h.lath (4 * n + p) (f (h.lathEnd n p)) }

/-- Frames that wait go into envelopes, of which at most eight are kept for replay. -/
def LathEnd.fill (e : LathEnd) : LathEnd :=
  let k := 8 - e.kept.length
  let l := e.wait.take k
  { e with txSeq := (e.txSeq + l.length) % 256, kept := e.kept ++ l.zipIdx.map (fun x => ((e.txSeq + x.2) % 256, x.1)), wait := e.wait.drop k }

/-- A link that is up carries the frames that wait at an end. -/
def Hw.lathPump (h : Hw) (n p : Nat) : Hw :=
  let st := h.lathState n p
  if (st = 2 ∨ st = 3) ∧ !(h.lathEnd n p).wait.isEmpty then h.onLath n p LathEnd.fill else h

/-- A frame leaves a node by a port, in an envelope (R467); over a link that sleeps or trains it waits (R470). -/
def Hw.lathSend (h : Hw) (n p : Nat) (f : TFrame) : Hw :=
  (h.onLath n p (fun e => { e with wait := e.wait ++ [f] })).lathPump n p

/-! Frames (R445 to R448). -/

/-- The bytes of a frame (R446). -/
def TFrame.bytes (f : TFrame) : List Byte :=
  let l := [f.dst, f.src, f.type, f.seq, b2n f.alt + 2 * b2n f.p3, f.payload.length, 0, 0].map (fun v => BitVec.ofNat 8 v) ++ f.payload
  l ++ toBytes 4 (~~~(crcBytes 0xFFFFFFFF l)).toNat

/-- The port by which a frame leaves a node: of its route, or, for an acknowledgement, of the route by which the frame came, taken back. -/
def TFrame.port (f : TFrame) (n : Nat) : Option Nat :=
  if f.type = 0 then ((routeFrom f.dst (routePorts f.dst f.src f.alt)).find? (fun e => peerNode e.1 e.2 == n)).map (fun e => peerPort e.2)
  else nextPort n f.src f.dst f.alt

/-- A frame goes on from a node toward its destination. -/
def Hw.torusHop (h : Hw) (n : Nat) (f : TFrame) : Hw :=
  match f.port n with
  | some p => h.lathSend n p f
  | none => h

/-- A source sends a frame that it keeps: one at P3 on both routes at once (R448). -/
def Hw.torusLaunch (h : Hw) (f : TFrame) : Hw :=
  if f.p3 then (h.torusHop f.src { f with alt := false }).torusHop f.src { f with alt := true } else h.torusHop f.src f

/-- The first of a source's frames to a destination is sent once no earlier one is unacknowledged, so that they are accepted in SEQ order (R447, log entry 58); a route over a link that is down is not taken (R448). -/
def Hw.torusNext (h : Hw) (src dst : Nat) : Hw :=
  let mine (f : TFrame) : Bool := decide (f.src = src ∧ f.dst = dst)
  match h.torusTx.find? mine with
  | some f =>
    if f.sends = 0 then
      let g : TFrame := { f with sends := 1, alt := h.routeDown src dst false }
      ({ h with torusTx := mapIf (fun x => x == f) (fun _ => g) h.torusTx } : Hw).torusLaunch g
    else h
  | none => h

/-- A source has a frame to send (R446 to R448): it keeps the frame until it is acknowledged. -/
def Hw.torusSend (h : Hw) (src dst type : Nat) (p3 : Bool) (payload : List Byte) : Hw :=
  let k := 20 * src + dst
  let q := look 0 h.torusSeq k
  ({ h with torusSeq := put h.torusSeq k ((q + 1) % 256),
            torusTx := h.torusTx ++ [{ dst := dst, src := src, type := type, seq := q, p3 := p3, payload := payload, sends := 0 }] } : Hw).torusNext src dst

/-- The event and the record of a torus or lath failure, naming two nodes (R447, R469, R620). -/
def Hw.torusTrouble (h : Hw) (source a b : Nat) : Hw :=
  (h.ras 0 2 { code := 0x42, sev := 1, misc0 := BitVec.ofNat 64 (a + 256 * b) }).raise { source := source, code := 0x42, sev := 1, info := a + 256 * b }

/-- A frame is taken in at its destination (R447): a SEQ already accepted is discarded. -/
def Hw.torusAccept (h : Hw) (f : TFrame) : Hw :=
  let k := 20 * f.dst + f.src
  match look? h.torusRx k with
  | some g => if g.seq = f.seq then h else { h with torusRx := put h.torusRx k f }
  | none => { h with torusRx := put h.torusRx k f }

/-- A frame as data. -/
def frameOf (f : FrameRef) : TFrame :=
  { dst := f.dst.val, src := f.src.val, type := f.type.toNat, seq := f.seq.toNat, p3 := f.p3, payload := f.payload, alt := f.alt }

/-- The destination answers a frame with an acknowledgement of 8 bytes, on the route by which it arrived (R446). -/
def Hw.torusAck (h : Hw) (f : TFrame) : Hw := h.torusHop f.dst { dst := f.src, src := f.dst, type := 0, seq := f.seq, p3 := f.p3, payload := [], alt := f.alt }

/-- TORUS_FRAME (R446, R447): a frame that passes its CRC, with no more than 52 bytes of payload, is acknowledged, and accepted once; for a die controller that is switching its firmware up to 64 frames wait for the end of the switch (R629). -/
def execTorusFrame (f : FrameRef) (s : State) : Host.Outcome State Fault Refusal :=
  s.onHw (fun h =>
    let g := frameOf f
    let switching := match dieOfNode f.dst.val with
      | some d => has h.fwSwitch d
      | none => (hubNode f.dst.val).isSome && has h.fwSwitch 0
    if !f.crcOk || decide (52 < f.payload.length) then h
    else if !switching then (h.torusAck g).torusAccept g
    else if (h.torusHeld.filter (fun x => decide (x.dst = g.dst))).length < 64 then { h.torusAck g with torusHeld := h.torusHeld ++ [g] }
    else h)

/-- TORUS_ACKNOWLEDGEMENT (R447): the source sends its next frame. LINK of MTRX_STAT shows that the meter node acknowledges (R603), and what the meter does with a frame is done when it acknowledges it. -/
def execTorusAcknowledgement (src dst : TNode) (seq : BitVec 8) (s : State) : Host.Outcome State Fault Refusal :=
  s.onHw (fun h =>
    let mine (f : TFrame) : Bool := decide (f.src = src.val ∧ f.dst = dst.val ∧ f.seq = seq.toNat ∧ f.sends ≠ 0)
    match h.torusTx.find? mine with
    | none => h
    | some f =>
      let h1 := ({ h with torusTx := h.torusTx.filter (fun x => !mine x) } : Hw).torusNext src.val dst.val
      if dst.val = meterNode ∧ src.val = 5 ∧ h.meter.on then (h1.setFld .MTRX_STAT 0 0 0 F.MTRX_STAT_LINK 1).meterAcked f else h1)

/-- A frame of the hub's MTRX block to the meter: the first byte of its payload says what it is, 0 OWNER, 1 TRAFFIC, 2 a command (R604, log entry 32). -/
def Hw.meterSend (h : Hw) (kind : Nat) (payload : List Byte) : Hw := h.torusSend 5 meterNode 4 true (toBytes 1 kind ++ payload)

/-- A frame to the meter was not delivered (R447, R603): a command ends so. -/
def Hw.meterUndelivered (h : Hw) (f : TFrame) : Hw :=
  if f.dst = meterNode ∧ f.src = 5 then
    let h1 := h.setFld .MTRX_STAT 0 0 0 F.MTRX_STAT_LINK 0
    if f.payload.head? = some 2 ∧ h1.flag .MTRX_CMD 0 0 0 F.MTRX_CMD_BUSY then
      (h1.setFld .MTRX_CMD 0 0 0 F.MTRX_CMD_BUSY 0).setFld .MTRX_CMD 0 0 0 F.MTRX_CMD_RESULT 1
    else h1
  else h

/-- TORUS_RESEND_TIMEOUT (R447): four sends at most, the routes alternating; after the fourth the source gives up and goes on. -/
def execTorusResendTimeout (src dst : TNode) (seq : BitVec 8) (s : State) : Host.Outcome State Fault Refusal :=
  s.onHw (fun h =>
    let mine (f : TFrame) : Bool := decide (f.src = src.val ∧ f.dst = dst.val ∧ f.seq = seq.toNat ∧ f.sends ≠ 0)
    match h.torusTx.find? mine with
    | none => h
    | some f =>
      if f.sends < 4 then
        let g : TFrame := { f with sends := f.sends + 1, alt := !f.alt }
        ({ h with torusTx := mapIf mine (fun _ => g) h.torusTx } : Hw).torusLaunch g
      else (((({ h with torusTx := h.torusTx.filter (fun f => !mine f) } : Hw).meterUndelivered f).torusTrouble 0x235 src.val dst.val).torusNext src.val dst.val))

/-! Lath links (R467 to R471, R481, R483). -/

/-- Envelopes are sent again: REPLAYS counts them, saturating (R467, R470). -/
def Hw.replay (h : Hw) (n p : Nat) : Hw :=
  h.setLathFld n p F.LATH_PORT_REPLAYS (min 0xFFFF (h.lathFld n p F.LATH_PORT_REPLAYS + (h.lathEnd n p).kept.length))

/-- LATH_ENVELOPE (R467): a good envelope is acknowledged and its frame goes on; a bad one is answered NAK, and the sender sends it and every later one again. What the frame does at its destination is TORUS_FRAME's or TORUS_ACKNOWLEDGEMENT's. -/
def execLathEnvelope (n : TNode) (p : LPort) (lseq : BitVec 8) (f : FrameRef) (crc16Ok : Bool) (s : State) : Host.Outcome State Fault Refusal :=
  s.onHw (fun h =>
    let st := h.lathState n.val p.val
    if st ≠ 2 ∧ st ≠ 3 then h
    else
      let pn := peerNode n.val p.val
      let pp := peerPort p.val
      if !crc16Ok then
        (h.setLathFld n.val p.val F.LATH_PORT_CRC_ERR (min 0xFFFF (h.lathFld n.val p.val F.LATH_PORT_CRC_ERR + 1))).replay pn pp
      else
        let h1 := (h.onLath pn pp (fun e => { e with kept := e.kept.filter (fun x => decide (x.1 ≠ lseq.toNat)) })).lathPump pn pp
        if (h1.lathEnd n.val p.val).rxSeq = some lseq.toNat then h1
        else
          let h2 := h1.onLath n.val p.val (fun e => { e with rxSeq := some lseq.toNat })
          if f.dst = n then h2 else h2.torusHop n.val (frameOf f))

/-- LATH_REPLAY_TIMEOUT (R467). -/
def execLathReplayTimeout (n : TNode) (p : LPort) (s : State) : Host.Outcome State Fault Refusal :=
  s.onHw (fun h => h.replay n.val p.val)

/-- The coordinate that a node takes from an offer on a port (R471). -/
def offered (c p : Nat) : Nat :=
  let x := c / 4
  let y := c % 4
  if p = 1 then (x + 1) % 5 * 4 + y else if p = 0 then (x + 4) % 5 * 4 + y
  else if p = 3 then x * 4 + (y + 1) % 4 else x * 4 + (y + 3) % 4

/-- The coordinate that a node has: fixed for the hub's nodes and the meter's, else the first one learned (R471). -/
def Hw.coordOf (h : Hw) (n : Nat) : Option Nat :=
  if (hubNode n).isSome || n == meterNode then some n else look? h.coords n

/-- An offer of a coordinate reaches a node (R471): the first is kept, and one that disagrees is a conflict. -/
def Hw.learn (h : Hw) (n p c : Nat) : Hw :=
  let mine := offered c p
  match h.coordOf n with
  | none => { h with coords := put h.coords n mine }
  | some x => if x = mine then h else ({ h with coordBad := ins h.coordBad n } : Hw).raise { source := 0x237, info := n }

/-- A handshake of a lath link ends (R468, R469). -/
def Hw.handshake (h : Hw) (n p own peer : Nat) (coord : Option Nat) (inTime : Bool) : Hw :=
  let st := h.lathState n p
  if st = 4 ∨ st = 5 then h
  else
    let bad := (own ||| peer) % 4
    let h1 := (h.setLathFld n p F.LATH_PORT_LANE_FAIL own).setLathFld n p F.LATH_PORT_PEER_FAIL peer
    let pn := peerNode n p
    let pp := peerPort p
    let h2 := (h1.setLathFld pn pp F.LATH_PORT_LANE_FAIL peer).setLathFld pn pp F.LATH_PORT_PEER_FAIL own
    if inTime && bad != 3 then
      let h3 := (((h2.setLathBoth n p F.LATH_PORT_STATE (if bad = 0 then 2 else 3)).setLathBoth n p F.LATH_PORT_FAILS 0).lathPump n p).lathPump pn pp
      match coord with
      | some c => (h3.setLathFld n p F.LATH_PORT_PEER_NODE c).learn n p c
      | none => h3
    else
      let k := h2.lathFld n p F.LATH_PORT_FAILS + 1
      let h3 := h2.setLathBoth n p F.LATH_PORT_FAILS (min 3 k)
      if 3 ≤ k then (h3.setLathBoth n p F.LATH_PORT_STATE 5).torusTrouble 0x236 n pn
      else h3.setLathBoth n p F.LATH_PORT_STATE 1

/-- LATH_HANDSHAKE (R468, R469, R471). -/
def execLathHandshake (n : TNode) (p : LPort) (own peer : BitVec 2) (coord : Option (BitVec 8)) (inTime : Bool) (s : State) :
    Host.Outcome State Fault Refusal :=
  s.onHw (fun h => h.handshake n.val p.val own.toNat peer.toNat (coord.map BitVec.toNat) inTime)

/-- LANE_SLEEP_ENTRY (R470): both ends agree only while neither has anything to send. -/
def execLaneSleepEntry (n : TNode) (p : LPort) (s : State) : Host.Outcome State Fault Refusal :=
  s.onHw (fun h =>
    let st := h.lathState n.val p.val
    let idle (e : LathEnd) : Bool := e.kept.isEmpty && e.wait.isEmpty
    if (st = 2 ∨ st = 3) ∧ idle (h.lathEnd n.val p.val) ∧ idle (h.lathEnd (peerNode n.val p.val) (peerPort p.val)) then
      h.setLathBoth n.val p.val F.LATH_PORT_STATE 4
    else h)

/-- A chirp wakes a sleeping lath link, which retrains (R470). -/
def Hw.lathWake (h : Hw) (n p : Nat) : Hw := if h.lathState n p = 4 then h.setLathBoth n p F.LATH_PORT_STATE 1 else h

/-- LINK_CHIRP (R470). -/
def execLinkChirp (n : TNode) (p : LPort) (s : State) : Host.Outcome State Fault Refusal :=
  s.onHw (fun h => h.lathWake n.val p.val)

/-- A lath link retrains; only a link that is not held down does (R469, R470). -/
def Hw.lathRetrain (h : Hw) (n p : Nat) : Hw := if h.lathState n p = 5 then h else h.setLathBoth n p F.LATH_PORT_STATE 1

/-- A hold-down ends, and three new attempts follow (R469). -/
def Hw.lathUnhold (h : Hw) (n p : Nat) : Hw :=
  if h.lathState n p = 5 then (h.setLathBoth n p F.LATH_PORT_STATE 1).setLathBoth n p F.LATH_PORT_FAILS 0 else h

/-- A write of LATH_PORT (R470): CLR clears the counts; RETRAIN and UNHOLD act on the link; all three read 0. -/
def Hw.lathWrite (h : Hw) (n p : Nat) (v : W64) : Hw :=
  let h1 := if wbit v 2 then (h.setLathFld n p F.LATH_PORT_REPLAYS 0).setLathFld n p F.LATH_PORT_CRC_ERR 0 else h
  let h2 := if wbit v 1 then h1.lathRetrain n p else h1
  if wbit v 0 then h2.lathUnhold n p else h2

/-- A write to the LATH_PORT register of a node's port. -/
def Hw.lathCmd (h : Hw) (who : Who) (n p : Nat) (v : W64) : Hw :=
  match lathRef n p with
  | some r => h.permit r who v (fun h => h.lathWrite n p v)
  | none => h

/-- LATH_RETRAIN (R469). -/
def execLathRetrain (who : Who) (n : TNode) (p : LPort) (s : State) : Host.Outcome State Fault Refusal :=
  s.onHw (fun h => h.lathCmd who n.val p.val 2)

/-- UNHOLD (R469). -/
def execUnhold (who : Who) (n : TNode) (p : LPort) (s : State) : Host.Outcome State Fault Refusal :=
  s.onHw (fun h => h.lathCmd who n.val p.val 1)

/-- LATH_REEQUALISE (R483): a link at x2 runs at x1 while one lane is tested, and then returns to x2. -/
def execLathReequalise (n : TNode) (p : LPort) (lane : Bool) (done : Bool) (s : State) : Host.Outcome State Fault Refusal :=
  s.onHw (fun h =>
    let e := h.lathEnd n.val p.val
    if done then
      (if e.reeq = some lane ∧ h.lathState n.val p.val = 3 then
        (h.onLath n.val p.val (fun e => { e with reeq := none })).setLathBoth n.val p.val F.LATH_PORT_STATE 2 else h)
    else if h.lathState n.val p.val = 2 then
      (h.onLath n.val p.val (fun e => { e with reeq := some lane })).setLathBoth n.val p.val F.LATH_PORT_STATE 3
    else h)

/-- A lath link goes down at both ends, with the envelopes of both (R481): it trains anew. -/
def Hw.lathDown (h : Hw) (n p : Nat) : Hw :=
  ((h.onLath n p (fun _ => {})).onLath (peerNode n p) (peerPort p) (fun _ => {})).setLathBoth n p F.LATH_PORT_STATE 0

/-- LATH_LINK_LOSS (R481). -/
def execLathLinkLoss (n : TNode) (p : LPort) (s : State) : Host.Outcome State Fault Refusal :=
  s.onHw (fun h => h.lathDown n.val p.val)

/-- A die's torus node is reset (R481): its links go down, its lath ports read as after reset, and its own frames and its record of those accepted are gone. -/
def Hw.torusReset (h : Hw) (n : Nat) : Hw :=
  let h1 := (List.range 4).foldl (fun (x : Hw) p =>
    let y := x.lathDown n p
    match lathRef n p with
    | some r => y.setReg r.name r.die 0 r.idx (regReset r.name r.die 0 r.idx)
    | none => y) h
  { h1 with torusTx := h1.torusTx.filter (fun f => decide (f.src ≠ n)), torusRx := h1.torusRx.filter (fun e => decide (e.1 / 20 ≠ n)),
            torusSeq := h1.torusSeq.filter (fun e => decide (e.1 / 20 ≠ n)), torusHeld := h1.torusHeld.filter (fun f => decide (f.dst ≠ n)) }

/-! Scrim links. -/

/-- The die that answers on a hub port (R472). -/
def hpDie (hp : Nat) : Nat := if hp % 4 = 3 then 0x10 + hp / 4 else 3 * (hp / 4) + hp % 4 + 1

/-- The hub port of a die (R472). -/
def dieHp (die : Nat) : Nat := if 0x10 ≤ die then 4 * (die - 0x10) + 3 else (die - 1) / 3 * 4 + (die - 1) % 3

/-- A field of one end of a link; the layouts of both ends agree (R464). -/
def Hw.linkFld (h : Hw) (hp : Nat) (hub : Bool) (f : Fld) : Nat :=
  if hub then h.fld .SLINK_STAT_HP 0 0 hp f else h.fld .SLINK_STAT (hpDie hp) 0 0 f

/-- A field of SLINK_STAT of one end, replaced. -/
def Hw.setLinkFld (h : Hw) (hp : Nat) (hub : Bool) (f : Fld) (v : Nat) : Hw :=
  if hub then h.setFld .SLINK_STAT_HP 0 0 hp f v else h.setFld .SLINK_STAT (hpDie hp) 0 0 f v

/-- STATE at one end. -/
def Hw.linkState (h : Hw) (hp : Nat) (hub : Bool) : Nat := h.linkFld hp hub F.SLINK_STAT_STATE

/-- STATE at both ends. -/
def Hw.setLinkState (h : Hw) (hp st : Nat) : Hw :=
  (h.setLinkFld hp true F.SLINK_STAT_STATE st).setLinkFld hp false F.SLINK_STAT_STATE st

/-- A link end goes down in a state, with its cause (R464). -/
def Hw.linkDownEnd (h : Hw) (hp : Nat) (hub : Bool) (st cause : Nat) : Hw :=
  (h.setLinkFld hp hub F.SLINK_STAT_STATE st).setLinkFld hp hub F.SLINK_STAT_CAUSE cause

/-- The threads and engines of a die stop at their next boundaries (R476). -/
def Hw.stopDie (h : Hw) (die : Nat) : Hw :=
  let h1 : Hw := if 1 ≤ die ∧ die ≤ 12 then
      { h with thr := h.thr.map (fun (e : Nat × Thread) => if dieOfThread e.1 = die then
          (e.1, match e.2.run with
            | .running => { e.2 with run := .offline }
            | .waiting _ => { e.2 with run := .offline }
            | _ => e.2) else e) }
    else h
  if 0x10 ≤ die then
    { h1 with run := h1.run.map (fun (e : Nat × EngRun) => if 24 ≤ e.1 ∧ (e.1 - 24) / 8 + 0x10 = die then (e.1, { e.2 with halted := true }) else e) }
  else h1

/-- The bit of a die in HOME_FENCE0 (R283). -/
def fenceBit (die : Nat) : W64 := BitVec.ofNat 64 (2 ^ die)

/-- A die is fenced by the hub (R476). -/
def Hw.fenceDie (h : Hw) (die : Nat) : Hw :=
  (h.fenceSet false (fenceBit die)).engFenced (fenceAgents false (fenceBit die))

/-- A link is lost (R466, R476, R477): it is held down at both ends with a cause, the die is fenced, and it stops. -/
def Hw.linkLost (h : Hw) (hp cause : Nat) : Hw :=
  (((h.linkDownEnd hp true 5 cause).linkDownEnd hp false 5 cause).fenceDie (hpDie hp)).stopDie (hpDie hp)

/-- The wire groups of a link (R456). -/
def linkGroups (hp : Nat) : Nat := if hp % 4 = 3 then 16 else 8

/-- A repair map register of one end. -/
def Hw.rmapReg (h : Hw) (hp : Nat) (hub : Bool) (g : Nat) : W64 :=
  if hub then h.reg .SLINK_RMAP_HP 0 0 (16 * hp + g) else h.reg .SLINK_RMAP (hpDie hp) 0 g

/-- The failed positions that an end's map names in one direction (R463). -/
def Hw.rmapList (h : Hw) (hp : Nat) (hub : Bool) (g : Nat) (rx : Bool) : List Nat :=
  let v := h.rmapReg hp hub g
  (if rx then [wbits v 23 16, wbits v 31 24] else [wbits v 7 0, wbits v 15 8]).filter (fun x => decide (x ≠ 0xFF))

/-- Spares in use over both directions of an end. -/
def Hw.sparesUsed (h : Hw) (hp : Nat) (hub : Bool) : Nat :=
  (List.range (linkGroups hp)).foldl (fun n g => n + (h.rmapList hp hub g true).length + (h.rmapList hp hub g false).length) 0

/-- An end's map of one direction of a group takes at most two positions, in ascending order (R463). -/
def Hw.setRmap (h : Hw) (hp : Nat) (hub : Bool) (g : Nat) (rx : Bool) (l : List Nat) : Hw :=
  let f0 := l.headD 0xFF
  let f1 := (l.drop 1).headD 0xFF
  let v := h.rmapReg hp hub g
  let v1 := if rx then setWbits (setWbits v 23 16 f0) 31 24 f1 else setWbits (setWbits v 7 0 f0) 15 8 f1
  let h1 := if hub then h.setReg .SLINK_RMAP_HP 0 0 (16 * hp + g) v1 else h.setReg .SLINK_RMAP (hpDie hp) 0 g v1
  h1.setLinkFld hp hub F.SLINK_STAT_SPARES_USED (h1.sparesUsed hp hub)

/-- The union of two lists of positions, ascending. -/
def union (a b : List Nat) : List Nat := b.foldl ins (a.foldl ins [])

/-! Link commands (R460). -/

/-- A link command is sent. -/
def Hw.linkSend (h : Hw) (hp : Nat) (toHub : Bool) (cmd arg : Nat) : Hw := { h with lcmds := h.lcmds ++ [⟨hp, toHub, cmd, arg⟩] }

/-- A link command has been received. -/
def Hw.linkTaken (h : Hw) (hp : Nat) (toHub : Bool) (cmd arg : Nat) : Hw := { h with lcmds := dropFirst (fun c => c == ⟨hp, toHub, cmd, arg⟩) h.lcmds }

/-- The argument of ASSIGN. -/
def assignArg (id hp : Nat) : Nat := id ||| hp <<< 8

/-- The argument of REPAIR. -/
def repairArg (g pos seq : Nat) (echo : Bool) : Nat := g ||| pos <<< 4 ||| seq <<< 12 ||| b2n echo <<< 18

/-- The argument of SLEEP. -/
def sleepArg (mode : Nat) (ack : Bool) : Nat := mode ||| b2n ack <<< 2

/-- The hub sends ASSIGN on a port that has trained, with the ID of R472 (R473). -/
def Hw.sendAssign (h : Hw) (hp : Nat) : Hw := h.linkSend hp false 1 (assignArg (hpDie hp) hp)

/-! The wires of a group (R462, R463). -/

/-- The physical position that carries a logical wire. -/
def physWire (failed : List Nat) (i : Nat) : Nat := ((List.range 144).filter (fun p => !failed.contains p)).getD i 0

/-- What each physical position of a group carries: the unit on logical wires 0 to 136, and the group's bits of the K word on 137 to 141. -/
def groupWires (failed : List Nat) (unit : BitVec 137) (k : BitVec 5) : List (Nat × Bool) :=
  (List.range 142).map (fun i => (physWire failed i, (k ++ unit).getLsbD i))

/-- The bits of the K word that a group carries (R459). -/
def groupK (g : Nat) (k : BitVec 40) : BitVec 5 := k.extractLsb' (5 * (g % 8)) 5

/-- ASSIGN (R460, R472, R473): the die takes the ID that its hub port gives it and echoes it, and the echo readmits a fenced die whose sweep has covered every range (R285, R477). -/
def execAssign (hp : HubPort) (id : BitVec 8) (hpArg : BitVec 4) (echo : Bool) (s : State) : Host.Outcome State Fault Refusal :=
  s.onHw (fun h =>
    let st := h.linkState hp.val true
    let die := hpDie hp.val
    let h := h.linkTaken hp.val echo 1 (assignArg id.toNat hpArg.toNat)
    if (st ≠ 2 ∧ st ≠ 3) ∨ id.toNat ≠ die ∨ hpArg.toNat ≠ hp.val then h
    else if !echo then (h.setFld .DCTL_IDENT die 0 0 F.DCTL_IDENT_DIE_ID id.toNat).linkSend hp.val true 1 (assignArg id.toNat hpArg.toNat)
    else if h.dir.any (fun e => match e.2 with
        | .owned (.core d _) _ => d == die
        | .owned (.eng n) _ => decide (24 ≤ n) && (n - 24) / 8 + 0x10 == die
        | .shared vec f => vec.contains die || f == die
        | _ => false) then h
    else h.setReg .HOME_FENCE0 0 0 0 (h.reg .HOME_FENCE0 0 0 0 &&& ~~~(fenceBit die)))

/-- RMAP (R460, R480): the end takes the union of both ends' maps; a union of more than two positions loses the link. -/
def execRmap (hp : HubPort) (toHub : Bool) (group : BitVec 4) (dir : Bool) (fail0 fail1 : BitVec 8) (s : State) : Host.Outcome State Fault Refusal :=
  s.onHw (fun h =>
    let g := group.toNat
    if linkGroups hp.val ≤ g then h else
    let theirs := [fail0.toNat, fail1.toNat].filter (fun x => decide (x < 144))
    let u := union (h.rmapList hp.val toHub g dir) theirs
    if 2 < u.length then h.linkLost hp.val 2
    else (h.setRmap hp.val toHub g dir u).setRmap hp.val (!toHub) g (!dir) (union u (h.rmapList hp.val (!toHub) g (!dir)) |>.take 2))

/-- The key of a link end among the repairs. -/
def endKey (hp : Nat) (hub : Bool) : Nat := 2 * hp + (if hub then 0 else 1)

/-- The group and the position of a repair exist on a link (R456, R463). -/
def wireOk (hp g pos : Nat) : Bool := decide (g < linkGroups hp) && decide (pos < 144)

/-- REPAIR (R464): the transmitter takes the position into its map and echoes; the receiver ends the repair when the echo came in time, and else sends REPAIR again with a new SEQ. -/
def execRepair (hp : HubPort) (toHub : Bool) (group : BitVec 4) (pos : BitVec 8) (seq : BitVec 6) (echo late : Bool) (s : State) :
    Host.Outcome State Fault Refusal :=
  s.onHw (fun h =>
    let g := group.toNat
    if !wireOk hp.val g pos.toNat ∨ h.linkState hp.val toHub ≠ 3 then h
    else if !echo then
      let h1 := h.linkTaken hp.val toHub 3 (repairArg g pos.toNat seq.toNat false)
      let u := union (h1.rmapList hp.val toHub g false) [pos.toNat]
      if 2 < u.length then h1.linkLost hp.val 2
      else (h1.setRmap hp.val toHub g false u).linkSend hp.val (!toHub) 3 (repairArg g pos.toNat seq.toNat true)
    else
      let k := endKey hp.val toHub
      match look? h.repairs k with
      | none => h
      | some r =>
        if r.group = g ∧ r.pos = pos.toNat then
          let h1 := h.linkTaken hp.val toHub 3 (repairArg g pos.toNat r.seq true)
          (if late then ({ h1 with repairs := put h1.repairs k { r with seq := seq.toNat } } : Hw).linkSend hp.val (!toHub) 3 (repairArg g pos.toNat seq.toNat false)
           else { h1 with repairs := del h1.repairs k })
        else h)

/-- The die that records an error of a link (R462, R464). -/
def Hw.linkWarn (h : Hw) (hp g : Nat) : Hw :=
  h.ras (hpDie hp) 1 { code := 0x26, sev := 1, detail := g, part := h.dieOwnerOf (hpDie hp) }

/-- WIRE_THRESH_REPAIR (R464, R465, R477): a receiver's wire reached WIRE_THRESH, or failed its eye check, in service or in training. In training the position goes into the map only, which the ends then exchange. -/
def execWireThreshRepair (hp : HubPort) (atHub : Bool) (group : BitVec 4) (pos : BitVec 8) (seq : BitVec 6) (eye : Bool) (s : State) :
    Host.Outcome State Fault Refusal :=
  s.onHw (fun h =>
    let g := group.toNat
    if !wireOk hp.val g pos.toNat then h else
    let th := max 1 (if atHub then h.fld .SLINK_CTL_HP 0 0 hp.val F.SLINK_CTL_WIRE_THRESH
      else h.fld .SLINK_CTL (hpDie hp.val) 0 0 F.SLINK_CTL_WIRE_THRESH)
    let h1 := if eye then h else h.setLinkFld hp.val atHub F.SLINK_STAT_CORR
      (min 0xFFFFFFFF (h.linkFld hp.val atHub F.SLINK_STAT_CORR + th))
    let u := union (h1.rmapList hp.val atHub g true) [pos.toNat]
    let st := h1.linkState hp.val atHub
    if !(decide (st = 3) || eye && decide (st = 1)) then h1
    else if u.length ≤ 2 then
      let h2 := h1.setRmap hp.val atHub g true u
      if st = 1 then h2
      else ({ h2 with repairs := put h2.repairs (endKey hp.val atHub) ⟨g, pos.toNat, seq.toNat⟩ } : Hw).linkSend hp.val (!atHub) 3 (repairArg g pos.toNat seq.toNat false)
    else if eye then h1.linkLost hp.val 2
    else h1.linkWarn hp.val g)

/-- SLEEP (R478): its receiver acknowledges it, and the acknowledgement puts both ends asleep. -/
def execSleepLink (hp : HubPort) (toHub : Bool) (mode : BitVec 2) (ack : Bool) (s : State) : Host.Outcome State Fault Refusal :=
  s.onHw (fun h =>
    let m := mode.toNat
    let h1 := h.linkTaken hp.val toHub 4 (sleepArg m ack)
    if (m ≠ 1 ∧ m ≠ 2) ∨ h.linkState hp.val toHub ≠ 3 then h1
    else if !ack then ({ h1 with sleepReq := put h1.sleepReq hp.val m } : Hw).linkSend hp.val (!toHub) 4 (sleepArg m true)
    else if look? h1.sleepReq hp.val = some m then ({ h1 with sleepReq := del h1.sleepReq hp.val } : Hw).setLinkState hp.val 4
    else h1)

/-- A scrim link starts training, fully or fast (R465, R466). -/
def Hw.startTraining (h : Hw) (hp : Nat) (full : Bool) : Hw :=
  ({ h with training := put h.training hp full } : Hw).setLinkState hp 1

/-- RETRAIN (R460, R465), from either end. -/
def execRetrain (hp : HubPort) (full : Bool) (s : State) : Host.Outcome State Fault Refusal :=
  s.onHw (fun h0 =>
    let h : Hw := { h0 with lcmds := dropFirst (fun c => decide (c.hp = hp.val ∧ c.cmd = 5 ∧ c.arg = b2n full)) h0.lcmds }
    if h.linkState hp.val true = 2 ∨ h.linkState hp.val true = 3 then h.startTraining hp.val full else h)

/-- A receiver finds an uncorrectable unit or K word (R462): UNCORR counts it, the die records it, and the sixteenth within 1,024 fabric cycles starts a fast retraining. -/
def Hw.unitError (h : Hw) (hp : Nat) (atHub : Bool) (g : Nat) : Hw :=
  let k := endKey hp atHub
  let die := hpDie hp
  let l := (h.now :: look [] h.uncAt k).take 16
  let h1 := (h.setLinkFld hp atHub F.SLINK_STAT_UNCORR (min 0xFFFF (h.linkFld hp atHub F.SLINK_STAT_UNCORR + 1))).ras die 1
    { code := 0x25, sev := 2, detail := g, part := h.dieOwnerOf die }
  if 16 ≤ l.length ∧ h.now < (l.getLastD 0) + 512 then
    (({ h1 with uncAt := del h1.uncAt k } : Hw).linkSend hp (!atHub) 5 0).startTraining hp false
  else { h1 with uncAt := put h1.uncAt k l }

/-- A die that package services reset comes back (R479, R481): its hub port is in STATE 0x0 with CAUSE 0x4, nothing of its link's exchanges is left, its torus node is reset, and the link will train fully. -/
def Hw.linkReset (h : Hw) (die : Nat) : Hw :=
  let hp := dieHp die
  let h1 : Hw := { h with
    training := put h.training hp true, trainFails := del h.trainFails hp, sleepReq := del h.sleepReq hp,
    lcmds := h.lcmds.filter (fun c => c.hp != hp), repairs := del (del h.repairs (endKey hp true)) (endKey hp false),
    uncAt := del (del h.uncAt (endKey hp true)) (endKey hp false), fwSwitch := rem h.fwSwitch die }
  (((h1.linkDownEnd hp true 0 4).setLinkFld hp false F.SLINK_STAT_STATE 0).torusReset (nodeOfDie die)).setFld .DCTL_IDENT die 0 0 F.DCTL_IDENT_DIE_ID 0xFF

/-- A training of a link ends (R465, R466); a die that has no ID is then sent ASSIGN (R473, R477). -/
def Hw.trained (h : Hw) (hp : Nat) (e : TrainEnd) : Hw :=
  match look? h.training hp with
  | none => h
  | some full =>
    match e with
    | .ok =>
      let h1 := ({ h with training := del h.training hp, trainFails := del h.trainFails hp } : Hw).setLinkState hp (if has h.edgeHeld hp then 2 else 3)
      if h1.fld .DCTL_IDENT (hpDie hp) 0 0 F.DCTL_IDENT_DIE_ID = 0xFF ∧ full then h1.sendAssign hp else h1
    | .failed =>
      if !full then { h with training := put h.training hp true }
      else
        let n := look 0 h.trainFails hp + 1
        if n < 3 then { h with trainFails := put h.trainFails hp n }
        else ({ h with training := del h.training hp, trainFails := del h.trainFails hp } : Hw).linkLost hp 3

/-- LINK_TRAINING_DONE (R465, R466). -/
def execLinkTrainingDone (hp : HubPort) (e : TrainEnd) (s : State) : Host.Outcome State Fault Refusal :=
  s.onHw (fun h => h.trained hp.val e)

/-- HEARTBEAT_LOSS (R475, R476): at the hub the die is fenced and the port held down; at the die its threads and engines stop, and its controller reports the loss. -/
def execHeartbeatLoss (hp : HubPort) (atHub : Bool) (s : State) : Host.Outcome State Fault Refusal :=
  s.onHw (fun h =>
    let die := hpDie hp.val
    let st := h.linkState hp.val atHub
    if atHub then
      (if st = 3 then (h.linkDownEnd hp.val true 5 1).fenceDie die else h)
    else if st = 2 ∨ st = 3 then
      (((h.stopDie die).linkDownEnd hp.val false 5 1).ras die 1 { code := 0x27, sev := 2, part := h.dieOwnerOf die }).torusSend
        (nodeOfDie die) 5 5 true []
    else h)

/-- SCRIM_RECAL_PASS (R482): groups without a free spare are skipped and recorded; a wire found closed stays on its spare and enters the map. -/
def execScrimRecalPass (hp : HubPort) (atHub : Bool) (closed : List (BitVec 4 × BitVec 8)) (s : State) : Host.Outcome State Fault Refusal :=
  s.onHw (fun h =>
    let en := if atHub then h.fld .SLINK_CTL_HP 0 0 hp.val F.SLINK_CTL_RECAL_EN else h.fld .SLINK_CTL (hpDie hp.val) 0 0 F.SLINK_CTL_RECAL_EN
    if en = 0 ∨ h.linkState hp.val atHub ≠ 3 then h
    else (List.range (linkGroups hp.val)).foldl (fun h g =>
      if 2 ≤ (h.rmapList hp.val atHub g true).length then h.linkWarn hp.val g
      else (closed.filter (fun c => decide (c.1.toNat = g) && decide (c.2.toNat < 144))).foldl (fun h c =>
        let u := union (h.rmapList hp.val atHub g true) [c.2.toNat]
        if u.length ≤ 2 then (h.setRmap hp.val atHub g true u).setRmap hp.val (!atHub) g false u else h) h) h)

end Sys2Proof.Machine
end

