-- ==== Sys2Proof/Machine/Power.lean ====
section
/-! DEFINITION. Power states, wakes, deep idle, supplies, clocks and thermal control (spec/14_power_and_clocks.md R511 to R544), and the closing of fabric domains (spec/11_fabric.md R449 to R451). -/

namespace Sys2Proof.Machine

/-! What the threads and the children of a domain permit (R518, R563). -/

/-- The state that the threads of a physical core permit it (R518). -/
def Hw.coreDepth (h : Hw) (die pcore : Nat) : Nat :=
  (h.threadsOn die pcore).foldl (fun m t => min m (RunState.depth (h.thread t).run)) 3

/-- The children of a domain permit it a state (R518). -/
def Hw.childrenAt (h : Hw) (die nn st : Nat) : Bool :=
  (domChildren die nn st).all (fun k => h.domAt die k st) &&
  (!(decide (1 ≤ die) && decide (die ≤ 12) && decide (nn ≤ 33)) || decide (st ≤ h.coreDepth die nn))

/-- A core of the domain has an open activation (R563). -/
def Hw.domActive (h : Hw) (die nn : Nat) : Bool :=
  decide (1 ≤ die) && decide (die ≤ 12) && decide (nn ≤ 36) &&
  (List.range 64).any (fun i =>
    let t := 64 * (die - 1) + i
    (h.thread t).act.isSome && (match h.pcoreOf t with
      | some p => nn == 36 || nn == p || nn == clusterOf p
      | none => false))

/-! Register save and restore (R526). -/

/-- The blocks of a die that lose power in Dust sheet: all but the always-on island and its controllers (log entry 28). -/
def losesPower (die : Nat) (b : Block) : Bool :=
  if die ≤ 12 then
    (match b with
     | .RING => true
     | .DCACHE => true
     | .CORE => true
     | .CLK => true
     | .RAS => true
     | .SLINK => true
     | .PERF => true
     | _ => false)
  else
    (match b with
     | .PORT => true
     | .SKM => true
     | .XTL => true
     | .CLK => true
     | .RAS => true
     | .SLINK => true
     | _ => false)

/-- Registers that keep their contents beside their RW, RWS and RWL fields (R463, R526). -/
def savedWhole (n : RegName) : Bool :=
  match n with
  | .CORE_STATUS => true
  | .DCTL_LCMAP => true
  | .CORE_PMC => true
  | .SLINK_RMAP => true
  | _ => decide (n.desc.block = .PERF)

/-- The registers of some blocks after a wake from Dust sheet: RW, RWS and RWL fields keep their values, every other field reads its reset value (R526). -/
def Hw.wakeRegs (h : Hw) (die : Nat) (keep : RegRef → Bool) : Hw :=
  { h with regs := h.regs.filterMap (fun (a, v) =>
      match findReg a with
      | some r =>
        if r.die = die && keep r && !savedWhole r.name then
          let z := regReset r.name r.die r.inst r.idx
          let v1 := r.name.desc.fields.foldl (fun acc f =>
            match f.acc with
            | .RW => f.set acc (f.get v)
            | .RWS => f.set acc (f.get v)
            | .RWL => f.set acc (f.get v)
            | _ => acc) z
          if v1 = z then none else some (a, v1)
        else some (a, v)
      | none => some (a, v)) }

/-! Waking (R522, R527, R529, R478). -/

/-- OPEN is sent to every source that a domain's edge answered with ASLEEP (R451). -/
def Hw.sendOpens (h : Hw) (die nn : Nat) : Hw :=
  match look? h.closing (domKey die nn) with
  | none => h
  | some c =>
    c.answered.foldl (fun (x : Hw) s => x.send { op := .OPEN, addr := s.1, agent := agentOfStop s.2 })
      { h with closing := del h.closing (domKey die nn) }

/-- The snoops that waited at a die's edge go on (R449). -/
def Hw.edgeSnoops (h : Hw) (die nn : Nat) : Hw := if 1 ≤ die ∧ die ≤ 12 ∧ nn = 36 then h.serveHeld die else h

/-- The hub port of a die whose whole fabric the domain is. -/
def fabricPort (die nn : Nat) : Option Nat :=
  if (1 ≤ die ∧ die ≤ 12 ∧ nn = 36) ∨ (0x10 ≤ die ∧ nn = 1) then some (dieHp die) else none

/-- A transition has ended: a REQ that was written during it is acted on (R521). -/
def Hw.reqDue (h : Hw) (die nn : Nat) (act : Hw → Hw) : Hw :=
  let k := domKey die nn
  if has h.reqPend k then act { h with reqPend := rem h.reqPend k } else h

/-- A wake source reaches a domain (R522): an entry ends, and a domain in a low state starts to wake. A link that went to sleep for the entry resumes (R478). -/
def Hw.wakeOne (h : Hw) (die nn : Nat) : Hw × Bool :=
  let k := domKey die nn
  if h.domCur die nn = 4 then
    let h1 : Hw := { h with domGoal := del h.domGoal k }
    let h2 := match fabricPort die nn with
      | some hp => if h1.linkState hp true = 4 then ({ h1 with sleepReq := del h1.sleepReq hp } : Hw).setLinkState hp 3 else { h1 with sleepReq := del h1.sleepReq hp }
      | none => h1
    (((h2.setCur die nn 0).sendOpens die nn).edgeSnoops die nn, true)
  else h.wakeBase die nn

/-- The package leaves deep idle (R36, R535): the hub domains return to Gloss, and the compute dies that the POWER section names will start their wake, at most four at a time, 1 ms apart, in ascending die ID. -/
def Hw.leaveDeep (h : Hw) (src detail : Nat) : Hw :=
  if h.deepIdle then
    let h1 := (0 :: 1 :: 4 :: (List.range 24).map (· + 8)).foldl (fun (x : Hw) nn => x.setCur 0 nn 0) ({ h with deepIdle := false } : Hw)
    let dies := (List.range 12).filter (fun i => has h1.wakeOnExit (i + 1))
    let h2 : Hw := { h1 with wakeDue := dies.zipIdx.map (fun e => (e.1 + 1, h.now + 1000000 * (e.2 / 4), src, detail)) }
    ((h2.recordWake 0 src 0x3F detail).setFld .PMP_STATE 0 0 0 F.PMP_STATE_PHASE 2).flagsIbi
  else h

/-- A wake of a domain and of every parent that it needs, recorded (R518, R529); it brings the package out of deep idle (R36). -/
def Hw.wake (h : Hw) (die nn src detail : Nat) : Hw :=
  let h0 := h.leaveDeep src detail
  let (h1, did) := h0.wakeOne die nn
  if did then (domParents die nn).foldl (fun (x : Hw) p => (x.wakeOne die p).1) (h1.recordWake die src nn detail)
  else if h0.domCur die nn = 5 ∧ wbits (h0.reg .PWR_WAKE_LAST die 0 0) 59 54 = nn ∧ wbits (h0.reg .PWR_WAKE_LAST die 0 0) 47 0 = h0.aoTick then
    h0.recordWake die src nn detail
  else h1

/-! Entering a state. -/

/-- The caches of a core are cleaned before it is powered off (R48, R516); loads that have not retired are flushed. -/
def Hw.cleanCore (h : Hw) (die pcore : Nat) : Hw :=
  let h1 := (h.threadsOn die pcore).foldl (fun x t => (x.flushOpen t).wcFlush t) h
  let h2 := ((h1.core (coreKey die pcore)).l2.map (·.1)).foldl (fun x l => x.l2Drop die pcore l) h1
  h2.onCore (coreKey die pcore) (fun _ => {})

/-- The unit of a domain gives up every line it holds (R278, R361). -/
def Hw.cleanDomain (h : Hw) (die nn : Nat) : Hw :=
  if 1 ≤ die ∧ die ≤ 12 ∧ nn = 36 then ((h.cdie die).dc.map (·.1)).foldl (fun x l => x.dieGiveUp die l) h
  else
    let eng := if die = 0 ∧ 32 ≤ nn then some (nn - 32) else if 0x10 ≤ die ∧ 2 ≤ nn then some (24 + 8 * (die - 0x10) + (nn - 2)) else none
    match eng with
    | some n => ((look [] h.elc n).map (·.1)).foldl (fun x l => x.engGiveUp n l) h
    | none => h

/-- The unit of a domain has a request outstanding (R449 step 1). -/
def Hw.domBusy (h : Hw) (die nn : Nat) : Bool :=
  let agentBusy (a : Agent) : Bool :=
    h.txns.any (fun t => (t.req.map (fun r => r.agent.same a)).getD false) || h.waitq.any (fun r => r.agent.same a)
  let engBusy (n : Nat) : Bool := agentBusy (.eng n) || (look? h.run n).isSome || !(look [] h.esq n).isEmpty
  if 1 ≤ die ∧ die ≤ 12 then agentBusy (.core die 0) || !(h.cdie die).miss.isEmpty
  else if die = 0 then
    (if 32 ≤ nn then engBusy (nn - 32) else if nn = 4 then !h.jobs.isEmpty else false)
  else if nn = 1 then (List.range 16).any (fun i => agentBusy (.port (16 * (die - 0x10) + i)))
  else engBusy (24 + 8 * (die - 0x10) + (nn - 2))

/-- The hold of a die's edge, and HELD that shows it (R528). -/
def Hw.holdEdge (h : Hw) (hp : Nat) (on : Bool) : Hw :=
  let v := h.fld .PWR_EDGEREL 0 0 0 F.PWR_EDGEREL_HELD
  let v1 := if on then v ||| 2 ^ hp else v &&& (0xFFFF ^^^ 2 ^ hp)
  ({ h with edgeHeld := if on then ins h.edgeHeld hp else rem h.edgeHeld hp } : Hw).setFld .PWR_EDGEREL 0 0 0 F.PWR_EDGEREL_HELD v1

/-- The assist settings of a rail at a voltage in mV (R515). -/
def assistAt (mv : Nat) : Assist := ⟨decide (mv < 650), decide (mv < 800), false⟩

/-- The assist settings of a rail: at cold reset every rail stands at 0.75 V (R515, R539). -/
def Hw.assistOf (h : Hw) (die nn : Nat) : Assist := look {} h.assist (domKey die nn)

/-- The assist settings of a rail, switched. -/
def Hw.setAssist (h : Hw) (die nn : Nat) (a : Assist) : Hw := { h with assist := put h.assist (domKey die nn) a }

/-- A domain is in a state (R515, R516, R528). -/
def Hw.enterState (h : Hw) (die nn st : Nat) : Hw :=
  let k := domKey die nn
  let h0 : Hw := { h with domGoal := del h.domGoal k, closing := del h.closing k }
  let h1 := if st = 3 ∧ 1 ≤ die ∧ die ≤ 12 ∧ nn ≤ 33 then h0.cleanCore die nn else h0
  let h2 := match fabricPort die nn with
    | some hp => if st = 3 then h1.holdEdge hp true else h1
    | none => h1
  let h3 := match (domEngine die nn).filter (fun _ => decide (st = 3)) with
    | some n => { h2 with sp := del h2.sp n, engLast := del h2.engLast n }
    | none => h2
  let h4 := if st = 2 then h3.setAssist die nn { h3.assistOf die nn with retention := true } else h3
  (h4.setCur die nn st).edgeSnoops die nn

/-! Requests (R520, R521). -/

/-- REQ of a domain is acted on (R518, R521, R522): Gloss wakes it; a deeper state starts an entry, or waits for the children; during another transition, or on the way from a deeper state, REQ waits for its end. -/
def Hw.actReq (h : Hw) (die nn : Nat) : Hw :=
  let c := h.domCur die nn
  let r := h.fld .PWR_DOM die 0 nn F.PWR_DOM_REQ
  let k := domKey die nn
  let pend (h : Hw) : Hw := { h with reqPend := ins h.reqPend k }
  if r = 0 then ({ h with reqPend := rem h.reqPend k } : Hw).wake die nn 9 0
  else if 4 ≤ c ∨ (look? h.domGoal k).isSome then pend h
  else if r < c then pend (h.wake die nn 9 0)
  else if r = c then h
  else if h.childrenAt die nn r then
    ({ h with domGoal := put h.domGoal k r } : Hw).setFld .PWR_DOM die 0 nn F.PWR_DOM_REQ_STATUS 0
  else h.setFld .PWR_DOM die 0 nn F.PWR_DOM_REQ_STATUS 3

/-- Parents that wait for their children act on their requests again (R518). -/
def Hw.actParents (h : Hw) (die nn : Nat) : Hw :=
  (domParents die nn).foldl (fun (x : Hw) p => if x.fld .PWR_DOM die 0 p F.PWR_DOM_REQ_STATUS = 3 then x.actReq die p else x) h

/-- A power refusal is recorded and raised (R533). -/
def Hw.powerRefusal (h : Hw) (die nn st : Nat) (w : Who) : Hw :=
  let src := match w.src with
    | .thread => 0
    | .packageServices => 1
    | .structureEngine => 1
    | .debug => 3
    | .platform => 1
  let v : W64 := setWbits (setWbits (setWbits (setWbits (setWbits (setWbits (setWbits (setWbits (BitVec.ofNat 64 (h.aoTick % 2 ^ 36))
    63 63 1) 62 57 nn) 56 55 st) 54 51 w.part.val) 50 50 (b2n w.world)) 49 48 w.level.toNat)
    47 38 (if src = 0 then w.thread.val else 0)) 37 36 src
  let h1 :=
    if !wbit (h.reg .PWR_REF0 die 0 0) 63 then h.setReg .PWR_REF0 die 0 0 v
    else if !wbit (h.reg .PWR_REF1 die 0 0) 63 then h.setReg .PWR_REF1 die 0 0 v
    else
      let s := h.reg .PWR_REFSTAT die 0 0
      h.setReg .PWR_REFSTAT die 0 0 (setWbits (setWbits s 16 16 1) 15 0 (min 0xFFFF (wbits s 15 0 + 1)))
  if 1 ≤ die ∧ die ≤ 12 then h1.raise { source := 16 * (die - 1) + 8, part := w.part.val, info := nn } else h1

/-- One of REQ and AUTO of a write: its new value, or the refusal of R521 (2) or R531 and R563 (1). -/
def domField (die nn : Nat) (w : Who) (held : Bool) (old new : Nat) (written : Bool) : Except Nat Nat :=
  if !written then .ok old
  else if (domDeepest die nn).getD 0 < new then .error 2
  else if !w.world && decide (1 ≤ new) && held then .error 1
  else .ok new

/-- A write of PWR_DOMnn (R520, R521, R531, R532, R563). -/
def Hw.domWrite (h : Hw) (w : Who) (die nn : Nat) (half : Half) (v : W64) : Hw :=
  let ref := RegRef.at .PWR_DOM die 0 nn
  let old := h.reg .PWR_DOM die 0 nn
  let hi := wbit (halfMask half) 63
  let was := wbit old 55
  let sheld := if hi && w.world then wbit v 55 else was
  let held := was || h.domActive die nn
  let req := domField die nn w held (wbits old 59 58) (wbits v 59 58) hi
  let auto := domField die nn w held (wbits old 57 56) (wbits v 57 56) hi
  let status := match req, auto with
    | .error 1, _ => 1
    | _, .error 1 => 1
    | .error _, _ => 2
    | _, .error _ => 2
    | _, _ => 0
  let reqv := match req with
    | .ok x => x
    | .error _ => wbits old 59 58
  let autov := match auto with
    | .ok x => x
    | .error _ => wbits old 57 56
  let h1 := h.writeFields ref w half (setWbits (setWbits v 59 58 reqv) 57 56 autov)
  let h2 := h1.setFld .PWR_DOM die 0 nn F.PWR_DOM_SHELD (b2n sheld)
  let h3 := if hi then h2.setFld .PWR_DOM die 0 nn F.PWR_DOM_REQ_STATUS status else h2
  let h4 := match req with
    | .error 1 => h3.powerRefusal die nn (wbits v 59 58) w
    | _ => h3
  let h5 := match auto with
    | .error 1 => h4.powerRefusal die nn (wbits v 57 56) w
    | _ => h4
  let k := domKey die nn
  let asker := (look? h.domWho k).getD w
  let h6 : Hw := if hi && w.src != .debug && (status == 0) then { h5 with domWho := put h5.domWho k w } else h5
  if sheld && !was then
    let pending := if asker.world then [] else
      (match look? h6.domGoal k with
       | some g => if 1 ≤ g ∧ g ≤ 3 then [g] else []
       | none => []) ++
      (if has h6.reqPend k || wbits old 54 52 == 3 then [wbits old 59 58] else [])
    let h7 := pending.foldl (fun (x : Hw) g => x.powerRefusal die nn g asker) h6
    let h8 := (({ h7 with reqPend := rem h7.reqPend k } : Hw).setFld .PWR_DOM die 0 nn F.PWR_DOM_REQ 0).setFld .PWR_DOM die 0 nn F.PWR_DOM_REQ_STATUS status
    h8.wake die nn 9 0
  else if hi then
    match req with
    | .ok _ => if status = 0 then h6.actReq die nn else (h6.actReq die nn).setFld .PWR_DOM die 0 nn F.PWR_DOM_REQ_STATUS status
    | .error _ => h6
  else h6

/-- DOMAIN_STATE_REQUEST (R521). -/
def execDomainStateRequest (who : Who) (die : DieIx) (dom : BitVec 6) (half : Half) (v : W64) (s : State) : Host.Outcome State Fault Refusal :=
  s.onHw (fun h => if (domDeepest (dieId die) dom.toNat).isNone then h else
    h.permit (RegRef.at .PWR_DOM (dieId die) 0 dom.toNat) who v (fun h => h.domWrite who (dieId die) dom.toNat half v))

/-- SHELD_SET (R532). -/
def execSheldSet (who : Who) (die : DieIx) (dom : BitVec 6) (s : State) : Host.Outcome State Fault Refusal :=
  s.onHw (fun h => if (domDeepest (dieId die) dom.toNat).isNone then h else
    let v := setWbits (h.reg .PWR_DOM (dieId die) 0 dom.toNat) 55 55 1
    h.permit (RegRef.at .PWR_DOM (dieId die) 0 dom.toNat) who v (fun h => h.domWrite who (dieId die) dom.toNat .high v))

/-- DOMAIN_CLOSING (R449 steps 1 to 3): a domain on its way to Matt or Dust sheet, with no request outstanding, cleans its caches for Dust sheet and enters Closing. -/
def execDomainClosing (die : DieIx) (dom : BitVec 6) (st : BitVec 2) (s : State) : Host.Outcome State Fault Refusal :=
  s.onHw (fun h => if (domDeepest (dieId die) dom.toNat).isNone || !closes (dieId die) dom.toNat then h else
    let d := dieId die
    let nn := dom.toNat
    if look? h.domGoal (domKey d nn) = some st.toNat ∧ (st = 2 ∨ st = 3) ∧ h.domCur d nn ≤ 3 ∧ !h.domBusy d nn then
      let h1 := if st = 3 then h.cleanDomain d nn else h
      ({ h1 with closing := put h1.closing (domKey d nn) { target := st.toNat } } : Hw).setCur d nn 4
    else h)

/-- The registers of a die's blocks after its wake from Dust sheet, with its link in STATE 0x2 (R463, R526, R527). -/
def Hw.dieRestored (h : Hw) (d : Nat) : Hw :=
  let h1 := h.wakeRegs d (fun r => losesPower d r.name.desc.block)
  (h1.setLinkFld (dieHp d) false F.SLINK_STAT_SPARES_USED (h1.sparesUsed (dieHp d) false)).setLinkState (dieHp d) 2

/-- A wake ends: the domain is in Gloss; the blocks that lost power have their saved registers (R526), the assist is that of the rail (R515), and the link of a die that left Matt resumes (R478). -/
def Hw.wokenUp (h : Hw) (die nn goal : Nat) : Hw :=
  let h1 := ({ h with domGoal := del h.domGoal (domKey die nn) } : Hw).setCur die nn 0
  let h2 := h1.setAssist die nn (if goal = 8 then assistAt 750 else { h1.assistOf die nn with retention := false })
  let h3 := if goal = 8 ∧ 1 ≤ die ∧ die ≤ 12 ∧ nn ≤ 33 then h2.wakeRegs die (fun r => r.name.desc.block == .CORE && r.inst == nn) else h2
  let h4 := match (domEngine die nn).filter (fun _ => decide (goal = 8)) with
    | some n => h3.wakeRegs die (fun r => decide (r.name.desc.block = Block.SKM) && r.inst == (engPlace n).2)
    | none => h3
  let h5 := match fabricPort die nn with
    | some hp => if h4.linkState hp true = 4 then h4.setLinkState hp 3 else h4
    | none => h4
  ((h5.sendOpens die nn).edgeSnoops die nn).reqDue die nn (fun h => h.actReq die nn)

/-- A domain that no partition owns any more goes to Dust sheet (R331, R486). -/
def Hw.holdIdle (h : Hw) (die nn : Nat) : Hw := if h.domCur die nn = 3 then h else (h.cleanDomain die nn).enterState die nn 3

/-- The transitions of domains that are reset end: whoever waits at an edge is told OPEN (R451). -/
def Hw.dropTransitions (h : Hw) (die : Nat) (doms : List Nat) : Hw :=
  doms.foldl (fun (x : Hw) nn =>
    let k := domKey die nn
    let y : Hw := { x.sendOpens die nn with domGoal := del x.domGoal k, reqPend := rem x.reqPend k, domWho := del x.domWho k }
    if 4 ≤ y.domCur die nn then y.setCur die nn 0 else y) h

/-- A domain has entered a state: a REQ written meanwhile is acted on, and the parents that wait act (R518, R521). -/
def Hw.entered (h : Hw) (die nn st : Nat) : Hw := ((h.enterState die nn st).reqDue die nn (fun h => h.actReq die nn)).actParents die nn

/-- The state that a core or a cluster takes of itself: that of its threads, or of its cores (R518); a secure-held one stays in Gloss (R531). -/
def Hw.ownState (h : Hw) (die nn : Nat) : Nat :=
  let c := h.domCur die nn
  if !(decide (1 ≤ die) && decide (die ≤ 12) && decide (nn ≤ 35)) || h.flag .PWR_DOM die 0 nn F.PWR_DOM_SHELD || h.domActive die nn then c
  else if nn ≤ 33 then (if (h.threadsOn die nn).isEmpty then c else h.coreDepth die nn)
  else (domChildren die nn 0).foldl (fun m p => min m (if h.domCur die p ≤ 3 then h.domCur die p else 0)) 3

/-- A domain that has closed enters its state once its packets are processed (R449 step 5): a die's link first exchanges SLEEP and its acknowledgement (R478). -/
def Hw.closedEnters (h : Hw) (die nn target : Nat) : Hw :=
  match (fabricPort die nn).filter (fun hp => decide (h.linkState hp true = 3)) with
  | some hp =>
    if (look? h.sleepReq hp).isSome then h
    else ({ h with sleepReq := put h.sleepReq hp (target - 1) } : Hw).linkSend hp true 4 (sleepArg (target - 1) false)
  | none => h.entered die nn target

/-- DOMAIN_TRANSITION_DONE (R449 step 5, R518, R521): a closed domain enters its state, or returns to Gloss when a wake is registered; a waking one is in Gloss once its parents are; a core or a cluster enters the state of its threads or cores. A die that wakes from Dust sheet has its own steps (R527). -/
def execDomainTransitionDone (die : DieIx) (dom : BitVec 6) (s : State) : Host.Outcome State Fault Refusal :=
  s.onHw (fun h => if (domDeepest (dieId die) dom.toNat).isNone then h else
    let d := dieId die
    let nn := dom.toNat
    let c := h.domCur d nn
    let k := domKey d nn
    if c = 4 then
      match look? h.closing k with
      | none => h
      | some x =>
        if x.wake then ((h.wakeOne d nn).1).reqDue d nn (fun h => h.actReq d nn)
        else if 1 ≤ d ∧ d ≤ 12 ∧ !((h.cdie d).wbb.isEmpty && (h.cdie d).wbWait.isEmpty) then h
        else h.closedEnters d nn x.target
    else if c = 5 then
      let g := (look? h.domGoal k).getD 0
      if !(domParents d nn).all (fun p => h.domCur d p == 0) then h
      else if g = 8 ∧ (fabricPort d nn).isSome then (if d ≤ 12 then h else h.dieRestored d)
      else h.wokenUp d nn g
    else
      match look? h.domGoal k with
      | some g => if c < g && g ≤ 3 && (g == 1 || !closes d nn) && h.childrenAt d nn g then h.entered d nn g else h
      | none => if c < h.ownState d nn then h.entered d nn (h.ownState d nn) else h)

/-- DOMAIN_IDLE_TIMEOUT (R520): the deepest state that AUTO permits; a secure-held domain goes no deeper than Satin (R531). -/
def execDomainIdleTimeout (die : DieIx) (dom : BitVec 6) (s : State) : Host.Outcome State Fault Refusal :=
  s.onHw (fun h => if (domDeepest (dieId die) dom.toNat).isNone then h else
    let d := dieId die
    let nn := dom.toNat
    let held := h.flag .PWR_DOM d 0 nn F.PWR_DOM_SHELD || h.domActive d nn
    let a := h.fld .PWR_DOM d 0 nn F.PWR_DOM_AUTO
    let g := if held then min 1 a else a
    if h.domCur d nn < g ∧ (look? h.domGoal (domKey d nn)).isNone ∧ h.childrenAt d nn g then { h with domGoal := put h.domGoal (domKey d nn) g } else h)

/-- DOMAIN_WAKE (R522). -/
def execDomainWake (die : DieIx) (dom : BitVec 6) (src : BitVec 4) (detail : BitVec 6) (s : State) : Host.Outcome State Fault Refusal :=
  s.onHw (fun h => if (domDeepest (dieId die) dom.toNat).isNone then h else h.wake (dieId die) dom.toNat src.toNat detail.toNat)

/-- DIE_WAKE_FROM_DUST_SHEET (R527): the die's registers are restored, its link retrains fast to STATE 0x2, and the die-ready event is raised; its edge stays held. -/
def execDieWakeFromDustSheet (die : CDie) (s : State) : Host.Outcome State Fault Refusal :=
  s.onHw (fun h =>
    let d := die.val + 1
    if h.domCur d 36 = 5 ∧ look? h.domGoal (domKey d 36) = some 8 then
      let h1 := (h.dieRestored d).onCDie d (fun c => { c with dc := [], sf := [] })
      let h2 := (List.range 34).foldl (fun (x : Hw) p => x.onCore (coreKey d p) (fun _ => {})) h1
      (h2.setAssist d 36 (assistAt 750)).raise { source := 16 * (d - 1) + 3, part := h2.dieOwnerOf d }
    else h)

/-- The edge of a die is released: its link must be in STATE 0x2 (R528). -/
def Hw.releaseEdge (h : Hw) (hp : Nat) : Hw :=
  if h.linkState hp true = 2 then
    let d := hpDie hp
    let nn := if d ≤ 12 then 36 else 1
    let h1 := (h.holdEdge hp false).setLinkState hp 3
    let h2 := ({ h1 with domGoal := del h1.domGoal (domKey d nn) } : Hw).setCur d nn 0
    ((h2.sendOpens d nn).edgeSnoops d nn).reqDue d nn (fun h => h.actReq d nn)
  else h

/-- A write of PWR_EDGEREL: REL reads 0 (R528). -/
def Hw.edgeWrite (h : Hw) (half : Half) (v : W64) : Hw :=
  (List.range 16).foldl (fun (x : Hw) hp => if wbit (v &&& halfMask half) hp then x.releaseEdge hp else x) h

/-- EDGE_RELEASE (R528). -/
def execEdgeRelease (who : Who) (half : Half) (v : W64) (s : State) : Host.Outcome State Fault Refusal :=
  s.onHw (fun h => h.permit (RegRef.at .PWR_EDGEREL 0) who v (fun h => h.edgeWrite half v))

/-- The timer of a die's always-on domain fires (R530). -/
def Hw.timerFire (h : Hw) (die : Nat) : Hw :=
  let v := h.reg .PWR_AOTIMER die 0 0
  if wbit v 63 && decide (wbits v 47 0 ≤ h.aoTick) then
    let nn := wbits v 59 54
    let h1 := (h.setReg .PWR_AOTIMER die 0 0 (setWbits v 63 63 0)).setFld .PWR_DOM die 0 nn F.PWR_DOM_REQ 0
    let h2 := h1.wake die nn 5 0
    if 1 ≤ die ∧ die ≤ 12 then h2.raise { source := 16 * (die - 1) + 9, part := h2.dieOwnerOf die, info := nn } else h2
  else h

/-- AO_TIMER_FIRE (R530). -/
def execAoTimerFire (die : DieIx) (s : State) : Host.Outcome State Fault Refusal :=
  s.onHw (fun h => h.timerFire (dieId die))

/-- SCRIM_WAKE_TOGGLE (R478): the die of a sleeping link wakes. -/
def execScrimWakeToggle (hp : HubPort) (s : State) : Host.Outcome State Fault Refusal :=
  s.onHw (fun h => if h.linkState hp.val true = 4 then h.wake (hpDie hp.val) (if hpDie hp.val ≤ 12 then 36 else 1) 1 0 else h)

/-- DIE_CHIRP (R470): the lath link wakes, and the wake source of the receiving die is raised. -/
def execDieChirp (n : TNode) (p : LPort) (s : State) : Host.Outcome State Fault Refusal :=
  s.onHw (fun h =>
    let h1 := h.lathWake n.val p.val
    match dieOfNode n.val with
    | some d => h1.wake d (if d ≤ 12 then 36 else 1) 2 p.val
    | none => h1)

/-! Package deep idle (R534, R535). -/

/-- A command queue has descriptors that wait. -/
def Hw.queueWaits (h : Hw) (q : Nat) : Bool :=
  !decide (h.fld .SKM_QTAIL 0 (q / 4) (q % 4) F.SKM_QTAIL_TAIL = h.fld .SKM_QHEAD 0 (q / 4) (q % 4) F.SKM_QHEAD_HEAD)

/-- DEEP_IDLE_ENTER (R534). -/
def execDeepIdleEnter (low : List PortNum) (s : State) : Host.Outcome State Fault Refusal :=
  s.onHw (fun h =>
    let st := h.fld .CFG_STAT 0 0 0 F.CFG_STAT_STATE
    if h.deepOk && !h.deepIdle &&
        (List.range 12).all (fun i => h.domCur (i + 1) 36 == 3) && h.jobs.isEmpty &&
        (List.range 96).all (fun q => !h.queueWaits q) &&
        (List.range 64).all (fun p => look 0 h.portOwner p == 0 || low.any (fun x => x.val == p)) &&
        st != 3 && st != 4 && st != 5 then
      let h1 := (0 :: 1 :: (List.range 24).map (· + 8)).foldl (fun (x : Hw) nn => x.setCur 0 nn 2) h
      (({ h1.setCur 0 4 3 with deepIdle := true } : Hw).setFld .PMP_STATE 0 0 0 F.PMP_STATE_PHASE 5).flagsIbi
    else h)

/-- DEEP_IDLE_EXIT (R36, R535): by any wake source of R529. -/
def execDeepIdleExit (src : BitVec 4) (detail : BitVec 6) (s : State) : Host.Outcome State Fault Refusal :=
  s.onHw (fun h => if 1 ≤ src.toNat ∧ src.toNat ≤ 10 then h.leaveDeep src.toNat detail.toNat else h)

/-- The compute dies whose wake after deep idle is due start it (R535). -/
def Hw.wakesDue (h : Hw) : Hw :=
  let due (e : Nat × Nat × Nat × Nat) : Bool := decide (e.2.1 ≤ h.now)
  (h.wakeDue.filter due).foldl (fun (x : Hw) e => x.wake e.1 36 e.2.2.1 e.2.2.2) { h with wakeDue := h.wakeDue.filter (fun e => !due e) }

/-! Clocks (R536, R537). -/

/-- The PLL of a domain runs (R537): in Gloss and Satin, and from the start of a wake. -/
def Hw.pllRuns (h : Hw) (die nn : Nat) : Bool := decide (h.domCur die nn ≤ 1) || decide (4 ≤ h.domCur die nn)

/-- The frequency of a domain's clock in MHz (R536): of the DDR domains, a quarter of the data rate in MT/s. -/
def Hw.clockMhz (h : Hw) (die nn ddr : Nat) : Nat :=
  if die = 0 then (if nn = 2 ∨ nn = 3 ∨ (8 ≤ nn ∧ nn ≤ 31) then ddr / 4 else if nn = 5 ∨ nn = 6 then 1000 else 2000)
  else if die ≤ 12 then
    (if nn = 36 then 2000 else 100 * h.fld .CLK_CLUSTER die 0 (if nn = 34 ∨ (nn ≤ 33 ∧ clusterOf nn = 34) then 0 else 1) F.CLK_CLUSTER_FCUR)
  else if nn = 0 then 1000 else 2000

/-! Frequencies and limits (R539, R540, R543). -/

/-- The index of a cluster. -/
def clusterIx (c : Bool) : Nat := if c then 1 else 0

/-- A frequency in steps of 100 MHz, brought into 0x06 to 0x22 (R539). -/
def clampF (f : Nat) : Nat := min 0x22 (max 6 f)

/-- The frequency that a cluster runs toward (R539): the highest step no higher than FMAX and FCEIL, and 1.2 GHz while a fast throttle is in force (R513, R543). -/
def Hw.goalF (h : Hw) (die c : Nat) : Nat :=
  let v := h.reg .CLK_CLUSTER die 0 c
  let f := min (clampF (F.CLK_CLUSTER_FMAX.get v)) (F.CLK_CLUSTER_FCEIL.get v)
  if h.flag .PWR_THERM die 0 0 F.PWR_THERM_FAST_THR || h.flag .PWR_THERM die 0 0 F.PWR_THERM_CUR_THR then min 12 f else f

/-- A cluster takes a frequency, with the rail that its die's fused curve gives (R538) and the assist settings of that rail (R515). -/
def Hw.setF (h : Hw) (die c f : Nat) : Hw :=
  let v := (Config.railOf die f).toNat
  ((h.setFld .CLK_CLUSTER die 0 c F.CLK_CLUSTER_FCUR f).setFld .CLK_CLUSTER die 0 c F.CLK_CLUSTER_VCUR v).setAssist die (34 + c)
    { assistAt (5 * v) with retention := (h.assistOf die (34 + c)).retention }

/-- CLUSTER_FREQUENCY_STEP (R537, R539). -/
def execClusterFrequencyStep (die : CDie) (cluster : Bool) (s : State) : Host.Outcome State Fault Refusal :=
  s.onHw (fun h =>
    let d := die.val + 1
    let c := clusterIx cluster
    let cur := h.fld .CLK_CLUSTER d 0 c F.CLK_CLUSTER_FCUR
    let g := h.goalF d c
    if !h.pllRuns d (34 + c) then h
    else if cur < g then h.setF d c (cur + 1) else if g < cur then h.setF d c (cur - 1) else h)

/-- Temperature sensors of a die (R541). -/
def sensorCount (die : Nat) : Nat := if die = 0 then 40 else if die ≤ 12 then 18 else 8

/-- Every sensor of a die is marked failed (R633). -/
def Hw.noSensor (h : Hw) (die : Nat) : Bool := decide (h.fld .PWR_TCAL die 0 0 F.PWR_TCAL_FAILED % 2 ^ sensorCount die + 1 = 2 ^ sensorCount die)

/-- FCEIL is the lower of the ceilings for power and for temperature (R540, R543); it is held at 1.2 GHz while every sensor is marked failed (R633). -/
def Hw.setCeil (h : Hw) (die c : Nat) : Hw :=
  h.setFld .CLK_CLUSTER die 0 c F.CLK_CLUSTER_FCEIL
    (if h.noSensor die then 0x0C else min (look 0x22 h.ceilPwr (2 * die + c)) (look 0x22 h.ceilTherm (2 * die + c)))

/-- FCEIL_UPDATE (R540): the ceiling that keeps the die within its budget and its stage rating; PWR_THR shows a restriction of either cluster. -/
def execFceilUpdate (die : CDie) (cluster : Bool) (f : BitVec 8) (s : State) : Host.Outcome State Fault Refusal :=
  s.onHw (fun h =>
    let d := die.val + 1
    let h1 : Hw := { h with ceilPwr := put h.ceilPwr (2 * d + clusterIx cluster) (clampF f.toNat) }
    (h1.setCeil d (clusterIx cluster)).setFld .PWR_THERM d 0 0 F.PWR_THERM_PWR_THR
      (b2n ([0, 1].any (fun c => decide (look 0x22 h1.ceilPwr (2 * d + c) < 0x22)))))

/-- The effective limit in W, rounded down (R514, R540). -/
def Hw.effW (h : Hw) : Nat :=
  let v := h.reg .PWR_PKGLIM 0 0 0
  let lim := min 820 (F.PWR_PKGLIM_LIMIT_W.get v)
  let sup := match h.supplyW with
    | some w => w * 922 / 1000
    | none => 820
  let cool := h.coolW.getD 820
  let vin := F.PWR_PKGLIM_VIN_DV.get v
  let low := if 0 < vin ∧ vin < 400 then vin * 205606 / 100000 else 820
  min (min lim sup) (min cool low)

/-- The stage group rating of a die in W (R34). -/
def stageRating (die : Nat) : Nat := if die = 0 then 140 else if die ≤ 12 then 75 else 50

/-- The budgets of the 17 logic dies that R34 and R540 permit: each within its stage group's rating, and all within the effective limit, with 2 W for the meter die and the control torus. -/
def budgetsOk (budgets : List Nat) (e : Nat) : Bool :=
  decide (budgets.length = 17) && decide (budgets.sum + 2 ≤ e) &&
    budgets.zipIdx.all (fun (w, i) => decide (w ≤ stageRating (if i ≤ 12 then i else 0x10 + (i - 13))))

/-- BUDGET_TICK (R34, R540): EFF_W is set anew, and the budgets are taken. -/
def execBudgetTick (nowW : BitVec 12) (budgets : List Nat) (s : State) : Host.Outcome State Fault Refusal :=
  s.onHw (fun h =>
    let e := h.effW
    let h1 := (h.setFld .PWR_PKGLIM 0 0 0 F.PWR_PKGLIM_EFF_W e).setFld .PWR_PKGLIM 0 0 0 F.PWR_PKGLIM_NOW_W nowW.toNat
    if budgetsOk budgets e then { h1 with budgets := (budgets.zipIdx).map (fun (w, i) => (if i ≤ 12 then i else 0x10 + (i - 13), w)) }
    else h1)

/-- The junction limit of a die in °C (R541). -/
def junction (die : Nat) : Nat := if 1 ≤ die ∧ die ≤ 12 then 105 else 100

/-- The compute clusters of a die go to 1.2 GHz (R543). -/
def Hw.throttleClusters (h : Hw) (die : Nat) : Hw :=
  if 1 ≤ die ∧ die ≤ 12 then
    [0, 1].foldl (fun (x : Hw) c => if 12 < x.fld .CLK_CLUSTER die 0 c F.CLK_CLUSTER_FCUR then x.setF die c 12 else x) h
  else h

/-- A THERMAL notification (R651): 1 control, 2 fast throttle, 3 trip, 4 ended. -/
def Hw.thermNotify (h : Hw) (die tmax kind : Nat) : Hw :=
  h.notify 0x85 (kind == 2 || kind == 3) (toBytes 1 die ++ toBytes 1 tmax ++ toBytes 1 kind)

/-- A SUPPLY notification (R651): 1 below 40 V, 2 logic power removed, 3 restored. -/
def Hw.supplyNotify (h : Hw) (dv kind : Nat) : Hw := h.notify 0x86 true (toBytes 2 dv ++ toBytes 1 kind)

/-- TMAX and SENSOR of a die. -/
def Hw.setTemp (h : Hw) (die tmax sensor : Nat) : Hw :=
  (h.setFld .PWR_THERM die 0 0 F.PWR_THERM_TMAX tmax).setFld .PWR_THERM die 0 0 F.PWR_THERM_SENSOR sensor

/-- The thermal-control event of a compute die (R611). -/
def Hw.thermEvent (h : Hw) (die : Nat) : Hw :=
  if 1 ≤ die ∧ die ≤ 12 then h.raise { source := 16 * (die - 1) + 7, part := h.dieOwnerOf die } else h

/-- A sensor marked failed is ignored for control (R633). -/
def Hw.sensorFailed (h : Hw) (die sensor : Nat) : Bool := decide (sensor < 40) && (h.fld .PWR_TCAL die 0 0 F.PWR_TCAL_FAILED).testBit sensor

/-- THERMAL_CONTROL_TICK (R543): every 100 µs a ceiling falls by one step while TMAX is above TCTL; after cooling, ceilings rise by one step every tenth tick; the fast throttle ends at limit - 5. -/
def execThermalControlTick (die : DieIx) (tmax sensor : BitVec 8) (cluster : Bool) (s : State) : Host.Outcome State Fault Refusal :=
  s.onHw (fun h =>
    let d := dieId die
    if h.sensorFailed d sensor.toNat then h else
    let t := tmax.toNat
    let j := junction d
    let h0 := h.setTemp d t sensor.toNat
    let h1 := if t ≤ j - 5 ∧ h0.flag .PWR_THERM d 0 0 F.PWR_THERM_FAST_THR then
        (h0.setFld .PWR_THERM d 0 0 F.PWR_THERM_FAST_THR 0).thermNotify d t 4 else h0
    let raw := h1.fld .PWR_THERM d 0 0 F.PWR_THERM_TCTL
    let tctl := if raw = 0 then j - 5 else min raw (j - 3)
    let hyst := min 20 (max 2 (h1.fld .PWR_THERM d 0 0 F.PWR_THERM_HYST))
    let on := h1.flag .PWR_THERM d 0 0 F.PWR_THERM_CTL_THR
    let compute := decide (1 ≤ d) && decide (d ≤ 12)
    if tctl < t then
      let c := clusterIx cluster
      let h2 := if on then h1 else ((h1.setFld .PWR_THERM d 0 0 F.PWR_THERM_CTL_THR 1).thermEvent d).thermNotify d t 1
      let h3 : Hw := { h2 with thermTicks := del h2.thermTicks d }
      if compute then ({ h3 with ceilTherm := put h3.ceilTherm (2 * d + c) (max 6 (h3.fld .CLK_CLUSTER d 0 c F.CLK_CLUSTER_FCEIL - 1)) } : Hw).setCeil d c else h3
    else if on then
      (if t + hyst ≤ tctl then
        let h2 := ((h1.setFld .PWR_THERM d 0 0 F.PWR_THERM_CTL_THR 0).thermEvent d).thermNotify d t 4
        if compute then { h2 with thermTicks := put h2.thermTicks d 0 } else h2
      else h1)
    else match look? h1.thermTicks d with
      | none => h1
      | some n =>
        if n + 1 < 10 then { h1 with thermTicks := put h1.thermTicks d (n + 1) }
        else
          let h2 := [0, 1].foldl (fun (x : Hw) c =>
            ({ x with ceilTherm := put x.ceilTherm (2 * d + c) (min 0x22 (look 0x22 x.ceilTherm (2 * d + c) + 1)) } : Hw).setCeil d c) h1
          if [0, 1].all (fun c => look 0x22 h2.ceilTherm (2 * d + c) == 0x22) then { h2 with thermTicks := del h2.thermTicks d }
          else { h2 with thermTicks := put h2.thermTicks d 0 })

/-- FAST_THROTTLE (R543): at the junction limit. -/
def execFastThrottle (die : DieIx) (tmax sensor : BitVec 8) (s : State) : Host.Outcome State Fault Refusal :=
  s.onHw (fun h =>
    let d := dieId die
    if h.sensorFailed d sensor.toNat then h else
    let h1 := h.setTemp d tmax.toNat sensor.toNat
    if junction d ≤ tmax.toNat ∧ !(h1.flag .PWR_THERM d 0 0 F.PWR_THERM_FAST_THR) then
      ((h1.setFld .PWR_THERM d 0 0 F.PWR_THERM_FAST_THR 1).throttleClusters d).thermNotify d tmax.toNat 2 else h1)

/-- The logic dies lose power (R514, R543): every thread, cache, transaction and running piece is gone; the always-on islands keep their state. -/
def Hw.logicOff (h : Hw) : Hw :=
  { h with
    groupOff := (List.range 13) ++ [0x10, 0x11, 0x12, 0x13], thr := [], cores := [], cdies := [], msgs := [], raises := [],
    txns := [], waitq := [], elc := [], pwr := [], patom := [], prd := [], dmaCpls := [], xctx := [], xtl := [], esq := [], dpq := [], dpErrs := [], portUp := [],
    jobs := [], engq := [], held := [], run := [], sp := [], engLast := [], treqs := [], toks := [], rsps := [], tokWait := [], heldSn := [], agWb := [], sleepers := [], closing := [],
    domGoal := [], reqPend := [], domWho := [], wakeDue := [], lcmds := [], uncAt := [], assist := [], deepIdle := false }

/-- The loss of the hub's stage group is a package-fatal error, whose kind the spec leaves open (R624). -/
def Hw.hubStageLost (h : Hw) : Hw :=
  let (k, h1) := h.fresh 8
  (h1.ras 0 3 { code := 0x45, sev := 3, detail := k.toNat }).healthAlert 3 0 0 0x3FF 0x45

/-- THERMAL_TRIP (R543, R544): at limit + 10 °C every logic die loses power, the pin is asserted, and the trip is recorded and reported. -/
def execThermalTrip (die : DieIx) (tmax sensor : BitVec 8) (s : State) : Host.Outcome State Fault Refusal :=
  s.onHw (fun h =>
    let d := dieId die
    let h1 := h.setTemp d tmax.toNat sensor.toNat
    if junction d + 10 ≤ tmax.toNat then
      let h2 := h1.logicOff
      let h3 := h2.ras 0 3 { code := 0x44, sev := 3, unit := d, misc0 := BitVec.ofNat 64 (sensor.toNat + 256 * tmax.toNat) }
      let h4 : Hw := { h3 with tripped := true, thermtripPin := true, coolW := none, tripInfo := (d, tmax.toNat),
                               plat := { h3.plat with image := none } }
      h4.thermNotify d tmax.toNat 3
    else h1)

/-- STAGE_CURRENT_SAMPLE (R513). -/
def execStageCurrentSample (die : DieIx) (permille : BitVec 12) (s : State) : Host.Outcome State Fault Refusal :=
  s.onHw (fun h =>
    let d := dieId die
    let p := permille.toNat
    let ov := if 1000 < p then look 0 h.curOver d + 1 else 0
    let un := if p < 900 then look 0 h.curUnder d + 1 else 0
    let h1 : Hw := { h with curOver := putC 0 h.curOver d ov, curUnder := putC 0 h.curUnder d un }
    if 1500 < p then
      (if d = 0 then h1.logicOff.hubStageLost
       else ({ h1 with groupOff := ins h1.groupOff d } : Hw).stopDie d)
    else if 100 ≤ ov then (h1.setFld .PWR_THERM d 0 0 F.PWR_THERM_CUR_THR 1).throttleClusters d
    else if 1000 ≤ un then h1.setFld .PWR_THERM d 0 0 F.PWR_THERM_CUR_THR 0
    else h1)

/-- VIN_SAMPLE (R514): samples come every 10 µs, so that five in a row are 50 µs. -/
def execVinSample (dv : BitVec 12) (s : State) : Host.Outcome State Fault Refusal :=
  s.onHw (fun h =>
    let v := dv.toNat
    let h1 := h.setFld .PWR_PKGLIM 0 0 0 F.PWR_PKGLIM_VIN_DV v
    let bad := if v < 360 ∨ 630 < v then h1.vinBad + 1 else 0
    let h2 : Hw := { h1 with vinBad := bad }
    let h3 := if v < 400 then
        let x := h2.setFld .PWR_PKGLIM 0 0 0 F.PWR_PKGLIM_EFF_W (min (h2.fld .PWR_PKGLIM 0 0 0 F.PWR_PKGLIM_EFF_W) h2.effW)
        if h2.plat.supplyCond then x
        else (({ x with plat := { x.plat with supplyCond := true } }).supplyNotify v 1).raise { source := 0x238, info := v }
      else if h2.plat.supplyCond && decide (v ≤ 600) && !(has h2.groupOff 0) then
        ({ h2 with plat := { h2.plat with supplyCond := false } } : Hw).supplyNotify v 3
      else h2
    if 5 ≤ bad ∧ !(has h3.groupOff 0) then (h3.supplyNotify v 2).logicOff else h3)

end Sys2Proof.Machine
end

