-- ==== Sys2Proof/Machine/Router.lean ====
section
/-! DEFINITION. The event router: raises, vectors, delivery to threads, credits and message-signalled events (spec/18_events_errors_service.md R607 to R617). -/

namespace Sys2Proof.Machine

/-! Threads as the router knows them (R613, R614). -/

/-- A thread is online (R613). -/
def Hw.online (h : Hw) (t : Nat) : Bool := wbit (h.reg .EVR_ONLINE 0 0 (t / 64)) (t % 64)

/-- A thread can be the target of an event of a partition: of the partition, online, and not on a fenced die (R614). -/
def Hw.evTarget (h : Hw) (p t : Nat) : Bool :=
  decide (t < 768) && decide (h.partOf t = p) && h.online t && !h.fenced (.core (dieOfThread t) 0)

/-- The thread to which fallback events of a partition go: FALLBACK, or the lowest-numbered online thread (R614). -/
def Hw.fallback (h : Hw) (p : Nat) : Option Nat :=
  let f := h.fld .EVR_CTL 0 0 p F.EVR_CTL_FALLBACK
  if h.evTarget p f then some f else (List.range 768).find? (h.evTarget p)

/-! Pending vectors (R608). -/

/-- The higher of two severities gives the pending vector its source and code (log entry 30). -/
def EvPend.merge (a b : EvPend) : EvPend :=
  let n := min 0xFFFF (a.count + b.count)
  if a.sev < b.sev then { b with count := n } else { a with count := n }

/-- Two raises of one vector for one target (R608, R609). -/
def EvPend.meets (a b : EvPend) : Bool :=
  decide (a.inst = b.inst ∧ a.vector = b.vector ∧ a.thread = b.thread ∧ a.fbk = b.fbk ∧ a.msg = b.msg)

/-- A pending vector in its place: by instance and ascending vector number (R615). -/
def evInsert (e : EvPend) : List EvPend → List EvPend
  | [] => [e]
  | x :: r => if e.inst < x.inst ∨ (e.inst = x.inst ∧ e.vector < x.vector) then e :: x :: r else x :: evInsert e r

/-- A vector is set pending, or merges into the one that is pending (R608). Vectors of instance 0 are delivered to package services (R607, R609). -/
def Hw.setPending (h : Hw) (e : EvPend) : Hw :=
  if e.inst = 0 then
    (if h.svcEvents.any e.meets then { h with svcEvents := mapIf e.meets (fun x => x.merge e) h.svcEvents }
     else { h with svcEvents := h.svcEvents ++ [e] })
  else if h.evPend.any e.meets then { h with evPend := mapIf e.meets (fun x => x.merge e) h.evPend }
  else { h with evPend := evInsert e h.evPend }

/-! Vector tables (R612). -/

/-- An entry of the vector table: the cached one, or one read for the instance; none where the read is refused or poisoned. -/
def Hw.vecEntry (h : Hw) (p v : Nat) : Hw × Option W64 :=
  let key := 65536 * p + v
  match look? h.evCache key with
  | some e => (h, some e)
  | none =>
    let sec := decide (0xF000 ≤ v)
    let base := if sec then h.fld .EVR_SVTBASE 0 0 p F.EVR_SVTBASE_BASE <<< 12 else h.fld .EVR_VTBASE 0 0 p F.EVR_VTBASE_BASE <<< 12
    let pa := base + 8 * (if sec then v - 0xF000 else v)
    if sec && !h.gibSecure (pa >>> 30) then (h, none)
    else
      match h.agentRead p sec pa 8 with
      | none => (if h.homePass p sec pa then h else h.homeRefusal p sec pa, none)
      | some bs =>
        let e : W64 := BitVec.ofNat 64 (ofBytes bs)
        let h1 := h.homeRequest { op := .RDC, line := pa / 64, agent := .hub, part := p, world := sec }
        ({ h1 with evCache := ((key, e) :: h1.evCache).take 8192 }, some e)

/-- A valid entry of R612: V, a LEVEL, zero fields, and SSEC only in the secure table with LEVEL S. -/
def entryOk (v : Nat) (e : W64) : Bool :=
  wbit e 63 && decide (wbits e 61 60 ≠ 0) && decide (wbits e 58 10 = 0) &&
    (!wbit e 59 || (decide (0xF000 ≤ v) && decide (wbits e 61 60 = 1)))

/-- The target level of an entry as a stack code (R612, R615). -/
def entryLevel (e : W64) : Nat := if wbit e 59 then 5 else wbits e 61 60

/-! Delivery (R614, R615). -/

/-- Events of a thread that hold its credits. -/
def Hw.slotsUsed (h : Hw) (t : Nat) : List Event := look [] h.evSlots t

/-- The event is held at the router: no slot is free, or the logical core migrates (R76, R615). -/
def Hw.evHeld (h : Hw) (t : Nat) : Bool :=
  decide (4 ≤ (h.slotsUsed t).length) || decide ((h.thread t).run = .migrating)

/-- A pending vector is sent to a thread at a level (R615). -/
def Hw.evSend (h : Hw) (e : EvPend) (t level : Nat) (fbk : Bool) : Hw :=
  let ev : Event := { vector := e.vector, level := BitVec.ofNat 3 level, source := e.source, sev := e.sev, code := e.code,
                      count := e.count, msg := e.msg, fbk := fbk, inst := e.inst }
  let h1 : Hw := { h with evPend := h.evPend.filter (fun x => !(x == e)),
                          evSlots := put h.evSlots t (h.slotsUsed t ++ [ev]),
                          evFly := h.evFly ++ [(t, some ev)] }
  h1.send { op := .EVMSG, addr := t, agent := h.threadAgent t, part := e.inst }

/-- A pending vector goes to the fallback thread at M; with no thread online it stays pending (R614). -/
def Hw.evFallback (h : Hw) (e : EvPend) : Hw :=
  match h.fallback e.inst with
  | some t => if h.evHeld t then h else h.evSend e t 3 true
  | none => h

/-- One pending vector is delivered if it can be (R612 to R615). -/
def Hw.evTry (h : Hw) (e : EvPend) : Hw :=
  if !h.flag .EVR_CTL 0 0 e.inst F.EVR_CTL_EN then h
  else if e.fbk then h.evFallback e
  else
    match h.vecEntry e.inst e.vector with
    | (h1, none) => h1.evFallback e
    | (h1, some w) =>
      if !entryOk e.vector w then h1.evFallback e
      else if wbit w 62 then h1
      else
        let t := e.thread.getD (wbits w 9 0)
        if !h1.evTarget e.inst t then h1.evFallback e
        else if h1.evHeld t then h1
        else h1.evSend e t (if e.fixM then 3 else entryLevel w) false

/-- Every pending vector that can be delivered is sent (R615). -/
def Hw.evPump (h : Hw) : Hw := h.evPend.foldl (fun x e => x.evTry e) h

/-! Raises (R608, R609). -/

/-- A source that R610 and R611 assign. -/
def srcAssigned (src : Nat) : Bool :=
  (decide (src < 192) && decide (src % 16 < 14)) || (decide (0xC0 ≤ src) && decide (src < 0x210)) ||
    (decide (0x210 ≤ src) && decide (src ≤ 0x21C)) || (decide (0x221 ≤ src) && decide (src ≤ 0x22C)) ||
    (decide (0x230 ≤ src) && decide (src ≤ 0x23E)) || (decide (0x2A0 ≤ src) && decide (src < 0x300))

/-- A raise reaches the router (R608, R609): routed, directed at the thread it names, or broadcast to every online thread of the partition but its subject; a queue's completion raises the vector of its own (R370). -/
def Hw.raiseArrives (h : Hw) (r : Raise) : Hw :=
  let src := r.source
  let base : EvPend := { inst := 0, vector := h.fld .EVR_SRC 0 0 src F.EVR_SRC_VECTOR, source := src, sev := r.sev, code := r.code, fixM := srcFixM src }
  match r.vec with
  | some v => (h.setPending { base with inst := r.part, vector := v, fixM := false }).evPump
  | none =>
    let p := (h.srcPart src).getD r.part
    if !srcAssigned src || !h.flag .EVR_SRC 0 0 src F.EVR_SRC_EN then h
    else
      let e := { base with inst := p }
      if p = 0 then h.setPending e
      else match srcMode src with
        | 2 => (((List.range 768).filter (fun t => h.evTarget p t && decide (r.thread ≠ some t))).foldl
            (fun (x : Hw) t => x.setPending { e with thread := some t }) h).evPump
        | 1 => (match r.thread with
            | some t => if h.evTarget p t then h.setPending { e with thread := some t } else h.setPending { e with fbk := true }
            | none => h.setPending { e with fbk := true }).evPump
        | _ => (h.setPending e).evPump

/-- EVENT_RAISE (R608). -/
def execEventRaise (svc : Option (PartId × BitVec 3)) (s : State) : Host.Outcome State Fault Refusal :=
  s.onHw (fun h =>
    match svc with
    | some (p, k) => if p.val = 0 then h else h.raiseArrives { source := 0x2A0 + 8 * (p.val - 1) + k.toNat, part := p.val }
    | none => match h.raises with
      | r :: rest => ({ h with raises := rest } : Hw).raiseArrives r
      | [] => h)

/-! Threads that go offline (R614). -/

/-- An event that is raised again at the fallback thread. -/
def Event.again (e : Event) : EvPend :=
  { inst := e.inst, vector := e.vector, fbk := true, source := e.source, sev := e.sev, code := e.code, count := e.count, msg := e.msg }

/-- A thread's online bit has cleared (R614): its pending vectors and those in its slots go to the fallback thread, its credits return, and a slot-void message follows the events already sent. -/
def Hw.offlined (h : Hw) (t : Nat) : Hw :=
  let (mine, rest) := h.evPend.partition (fun e => decide (e.thread = some t))
  let slots := h.slotsUsed t
  let h1 : Hw := { h with evPend := rest, evSlots := del h.evSlots t, evFly := h.evFly ++ [(t, none)] }
  let h2 := mine.foldl (fun (x : Hw) e => x.setPending { e with thread := none, fbk := true }) h1
  slots.foldl (fun (x : Hw) e => x.setPending e.again) h2

/-- A new value of EVR_ONLINEw (R613, R614). -/
def Hw.onlineSet (h : Hw) (w : Nat) (v : W64) : Hw :=
  let old := h.reg .EVR_ONLINE 0 0 w
  let h1 := h.setReg .EVR_ONLINE 0 0 w v
  (((List.range 64).filter (fun b => wbit old b && !wbit v b)).foldl (fun (x : Hw) b => x.offlined (64 * w + b)) h1).evPump

/-- A write of EVR_ONLINEw (R613). -/
def Hw.onlineWrite (h : Hw) (w : Nat) (half : Half) (v : W64) : Hw :=
  h.onlineSet w (merged half (h.reg .EVR_ONLINE 0 0 w) v)

/-- EVR_ONLINE_CLEAR (R614): a write of EVR_ONLINEw. -/
def execEvrOnlineClear (who : Who) (die : CDie) (half : Half) (v : W64) (s : State) : Host.Outcome State Fault Refusal :=
  s.onHw (fun h => h.permit (RegRef.at .EVR_ONLINE 0 0 die.val) who v (fun h => h.onlineWrite die.val half v))

/-- The first message on its way to a thread, and the messages without it. -/
def Hw.firstFly (h : Hw) (t : Nat) : Option ((Nat × Option Event) × List (Nat × Option Event)) :=
  takeFirst (fun e => e.1 == t) h.evFly

/-- SLOT_VOID (R614): when it is the thread's oldest message, the thread discards the events in its slots that it has not taken. -/
def execSlotVoid (t : Gtn) (s : State) : Host.Outcome State Fault Refusal :=
  s.onHw (fun h =>
    match h.firstFly t.val with
    | some ((_, none), rest) => ({ h with evFly := rest } : Hw).onThread t.val (fun x => { x with slots := [] })
    | _ => h)

/-- EVENT_MESSAGE (R615): the thread's oldest event message lands in a slot; one for a fenced die reaches nothing. -/
def execEventMessage (t : Gtn) (s : State) : Host.Outcome State Fault Refusal :=
  s.onHw (fun h =>
    match h.firstFly t.val with
    | some ((_, some e), rest) =>
      let h1 : Hw := { h with evFly := rest, msgs := dropFirst (fun m => decide (m.op = .EVMSG ∧ m.addr = t.val)) h.msgs }
      if h1.fenced (.core (dieOfThread t.val) 0) then h1
      else h1.onThread t.val (fun x => { x with slots := x.slots ++ [e] })
    | _ => h)

/-- EVENT_CREDIT_RETURN (R614, R615): a credit that names no vector in the thread's slots is discarded. -/
def execEventCreditReturn (t : Gtn) (vector : BitVec 16) (s : State) : Host.Outcome State Fault Refusal :=
  s.onHw (fun h =>
    let h1 : Hw := { h with msgs := dropFirst (fun m => decide (m.op = .CREDIT ∧ m.addr = t.val ∧ m.info = vector.toNat)) h.msgs }
    ({ h1 with evSlots := put h1.evSlots t.val (dropFirst (fun e => decide (e.vector = vector.toNat)) (h1.slotsUsed t.val)) } : Hw).evPump)

/-- Every cached vector entry of an instance is dropped (R613). -/
def Hw.evDrop (h : Hw) (p : Nat) : Hw := { h with evCache := h.evCache.filter (fun e => decide (e.1 / 65536 ≠ p)) }

/-- A write of EVR_CTLnn (R613): INV drops the cached entries, and vectors that can now be delivered are sent. -/
def Hw.evrCtlWrite (h : Hw) (w : Who) (p : Nat) (half : Half) (v : W64) : Hw :=
  let h1 := (h.writeFields (RegRef.at .EVR_CTL 0 0 p) w half v).setFld .EVR_CTL 0 0 p F.EVR_CTL_INV 0
  (if wbit (v &&& halfMask half) 62 then h1.evDrop p else h1).evPump

/-- EVR_INVALIDATE (R612): a write of INV that keeps the register's other fields. -/
def execEvrInvalidate (who : Who) (p : PartId) (s : State) : Host.Outcome State Fault Refusal :=
  s.onHw (fun h =>
    let v := setWbits (h.reg .EVR_CTL 0 0 p.val) 62 62 1
    h.permit (RegRef.at .EVR_CTL 0 0 p.val) who v (fun h => h.evrCtlWrite who p.val .full v))

/-! Message-signalled events (R617). -/

/-- The base of the message region. -/
def msgBase : Nat := 0xEFFFFFFFF0000

/-- A discarded message is recorded: by the port die for a device, by the hub for a thread (R617, R620). -/
def Hw.msgDiscard (h : Hw) (port : Option Nat) (part : Nat) (world : Bool) (t : Nat) (pa : Nat) (data : W64) : Hw :=
  let r : RasInfo := { code := 0x34, sev := 2, addr := pa, part := part, world := world, thread := t, misc0 := data }
  match port with
  | some n => h.ras (0x10 + n / 16) 3 { r with unit := n % 16 }
  | none => h.ras 0 0 r

/-- Why a message is not raised (R617): another partition's page, or a size, data or vector that makes it be discarded. -/
inductive MsgBad where
  | page | form
  deriving DecidableEq, Repr

/-- The checks of R617. -/
def msgCheck (part : Nat) (world : Bool) (pa size : Nat) (data : W64) : Option MsgBad :=
  let p := (pa - msgBase) / 0x1000
  if p ≠ part ∨ p = 0 ∨ 12 < p then some .page
  else if size ≠ 4 ∨ wbits data 31 16 ≠ 0 ∨ (0xF000 ≤ wbits data 15 0 ∧ !world) ∨ pa % 4 ≠ 0 then some .form
  else none

/-- A message is raised in its partition's instance (R608, R617). -/
def Hw.msgRaise (h : Hw) (part : Nat) (data : W64) : Hw :=
  (h.setPending { inst := part, vector := wbits data 15 0, msg := true }).evPump

/-- MESSAGE_SIGNALLED_WRITE (R617): a device's message waits while an earlier posted write of its port is not visible (R32, R245); a thread's write to another partition's page is refused under R10. -/
def execMessageSignalledWrite (w : MsgWriter) (pa : BitVec 52) (size : Nat) (data : W64) (s : State) : Host.Outcome State Fault Refusal :=
  s.onHw (fun h => if paRange pa.toNat ≠ .message then h else
    match w with
    | .device n =>
      if !(look [] h.pwr n.val).isEmpty then h
      else
        let part := look 0 h.portOwner n.val
        match msgCheck part false pa.toNat size data with
        | none => h.msgRaise part data
        | some _ => h.msgDiscard (some n.val) part false 0x3FF pa.toNat data
    | .thread t posted =>
      let part := h.partOf t.val
      let world := (h.thread t.val).world
      let reply (op : MsgOp) (h : Hw) : Hw := h.send { op := op, addr := pa.toNat, agent := h.threadAgent t.val, part := part, world := world }
      match msgCheck part world pa.toNat size data with
      | none => reply (if posted then .POSTACK else .REGCPL) (h.msgRaise part data)
      | some .page => reply .REF (h.refuseReg 0 pa.toNat (h.who t.val))
      | some .form => reply .REF (h.msgDiscard none part world t.val pa.toNat data))

end Sys2Proof.Machine
end

