-- ==== Sys2Proof/Machine/Migrate.lean ====
section
/-! DEFINITION. The migration of a logical core to a spare physical core (spec/02_askist_core.md R72 to R78). The commands stand in Cfg.lean, because a failed migration of the SPARING section rolls the image back (R510). -/

namespace Sys2Proof.Machine

/-- ROLE of a physical core (R73). -/
def Hw.roleOf (h : Hw) (die p : Nat) : Nat := h.fld .CORE_STATUS die p 0 F.CORE_STATUS_ROLE

/-- The byte of the sparing map for a logical core (R72). -/
def Hw.lcmapByte (h : Hw) (die c : Nat) : Nat :=
  nbits (h.reg .DCTL_LCMAP die 0 (c / 8)).toNat (8 * (c % 8) + 7) (8 * (c % 8))

/-- A logical core is carried by a physical core (R72). -/
def Hw.setLcmap (h : Hw) (die c p : Nat) : Hw :=
  h.setReg .DCTL_LCMAP die 0 (c / 8)
    (setWbits (h.reg .DCTL_LCMAP die 0 (c / 8)) (8 * (c % 8) + 7) (8 * (c % 8)) (0x80 + p % 64))

/-- ROLE and LCORE of a physical core (R73). -/
def Hw.setRole (h : Hw) (die p role lcore : Nat) : Hw :=
  (h.setFld .CORE_STATUS die p 0 F.CORE_STATUS_ROLE role).setFld .CORE_STATUS die p 0 F.CORE_STATUS_LCORE lcore

/-- The threads of the logical core that a migration moves: those that its source carries. -/
def Hw.migThreads (h : Hw) (die : Nat) (m : Migration) : List Nat := h.threadsOn die m.src

/-- One of the logical core's threads has check-stopped (R78). -/
def Hw.migStopped (h : Hw) (die : Nat) (m : Migration) : Bool :=
  (h.migThreads die m).any (fun t => decide ((h.thread t).run = .checkStopped)) ||
    h.flag .CORE_STATUS die m.src 0 F.CORE_STATUS_CHECKSTOP

/-- A migration ends with a result: DONE is set and the event raised (R75). -/
def Hw.migEnd (h : Hw) (die result : Nat) : Hw :=
  let v := h.reg .DCTL_MIGRATE die 0 0
  let v' := F.DCTL_MIGRATE_RESULT.set (F.DCTL_MIGRATE_DONE.set (F.DCTL_MIGRATE_BUSY.set v 0) 1) result
  ((h.setReg .DCTL_MIGRATE die 0 0 v').onCDie die (fun c => { c with migration := none })).raise
    { source := 16 * (die - 1) + 4, part := h.dieOwnerOf die }

/-- The check of step 1 (R75): the source first, then the destination; 0 when it passes. -/
def Hw.migCheck (h : Hw) (die src dst : Nat) : Nat :=
  if 33 < src ∨ h.roleOf die src ≠ 0 then 3
  else if dst ≤ 33 ∧ (h.roleOf die dst = 2 ∨ h.flag .CORE_STATUS die dst 0 F.CORE_STATUS_FUSED_BAD) then 2
  else if 33 < dst ∨ dst = src ∨ h.roleOf die dst ≠ 1 then 1
  else 0

/-- Steps 1 to 3 of a migration (R73, R75): the roles, the destination in Gloss, and the threads stopped at their next instruction boundary, with their younger work flushed. -/
def Hw.migStart (h : Hw) (die src dst : Nat) (byImage : Bool) : Hw :=
  match h.migCheck die src dst with
  | 0 =>
    let ts := h.threadsOn die src
    let runs := ts.map (fun t => (t, (h.thread t).run))
    let h1 := (h.setRole die src 3 0xFF).setRole die dst 4 0xFF
    let h2 := ((h1.setCur die dst 0).setCur die (clusterOf dst) 0).setFld .DCTL_MIGRATE die 0 0 F.DCTL_MIGRATE_BUSY 1
    let h3 := ts.foldl (fun (x : Hw) t =>
      if (x.thread t).run = .checkStopped then x else ((x.flushOpen t).wcFlush t).onThread t (fun y => { y with run := .migrating })) h2
    { h3 with domGoal := del (del h3.domGoal (domKey die dst)) (domKey die (clusterOf dst)) }.onCDie die
      (fun c => { c with migration := some { src := src, dst := dst, byImage := byImage, runs := runs } })
  | r => h.migEnd die r

/-- The store queues of the threads have drained and no device access is outstanding (R75 step 3). -/
def Hw.migDrained (h : Hw) (die : Nat) (m : Migration) : Bool :=
  (h.migThreads die m).all (fun t => (h.thread t).sq.isEmpty && h.wcDone t && (h.thread t).devOpen.isNone)

/-- Registers of a physical core that are thread state: the performance counters and their selects, and the activation bits (R75 step 5, R555). -/
def Hw.copyCounters (h : Hw) (die src dst : Nat) : Hw :=
  let h1 := (List.range 16).foldl (fun (x : Hw) i =>
    (x.setReg .CORE_PMSEL die dst i (x.reg .CORE_PMSEL die src i)).setReg .CORE_PMC die dst i (x.reg .CORE_PMC die src i)) h
  h1.setReg .CORE_SECACT die dst 0 (h1.reg .CORE_SECACT die src 0)

/-- Steps 4 and 5 (R75): the source's caches are cleaned and its threads' state copied; not of a source that has check-stopped (R78). -/
def Hw.migClean (h : Hw) (die : Nat) : Hw :=
  match (h.cdie die).migration with
  | some m =>
    if m.copied || h.migStopped die m || !h.migDrained die m then h
    else
      let h1 := (h.migThreads die m).foldl (fun (x : Hw) t =>
        x.onThread t (fun y => { y with resv := none, hold := none, walkBuf := [], walkPtrs := [], ghist := 0, retStack := [] })) h
      ((h1.cleanCore die m.src).copyCounters die m.src m.dst).onCDie die
        (fun c => { c with migration := some { m with copied := true } })
  | none => h

/-- The dirty lines that a check-stopped source could not clean are lost: their recalls have no answer, and the homes poison them when those time out (R78). Its other lines leave the snoop filter, and the core holds nothing any more. -/
def Hw.migLoseLines (h : Hw) (die p : Nat) : Hw :=
  let l2 := (h.core (coreKey die p)).l2
  let h1 := h.onCDie die (fun c => { c with lost := (l2.filter (fun e => e.2 == .M)).foldl (fun l e => ins l e.1) c.lost })
  let h2 := h1.onCore (coreKey die p) (fun c => { c with l2 := mapIf (fun e => e.2 == .M) (fun e => (e.1, .S)) c.l2 })
  let h3 := (l2.map (·.1)).foldl (fun (x : Hw) l => x.l2Drop die p l) h2
  h3.onCore (coreKey die p) (fun _ => {})

/-- A thread in core reset, offline (R18, R78, R508). -/
def Hw.threadReset (h : Hw) (t : Nat) : Hw :=
  (h.setThread t {}).onlineSet (t / 64) (setWbits (h.reg .EVR_ONLINE 0 0 (t / 64)) (t % 64) (t % 64) 0)

/-- The sparing maps in force, by register (R506). -/
def Hw.mapsInForce (h : Hw) : List (Nat × W64) :=
  (List.range 12).flatMap (fun d => (List.range 4).map (fun i => (regAddr .DCTL_LCMAP (d + 1) 0 i, h.reg .DCTL_LCMAP (d + 1) 0 i)))

/-- Steps 6 to 8 (R75, R78), with the result; none while the migration cannot end yet. -/
def Hw.migFinish (h : Hw) (die : Nat) : Option (Hw × Migration × Nat) :=
  match (h.cdie die).migration with
  | none => none
  | some m =>
    let bad := !m.copied && h.migStopped die m
    if !m.copied && !bad then none
    else
      let ts := h.migThreads die m
      let c := ((List.range 32).find? (fun c => h.lcmapByte die c == 0x80 + m.src)).getD 0xFF
      let h1 := if bad then h.migLoseLines die m.src else h
      let h2 := ((h1.setLcmap die c m.dst).setRole die m.dst 0 c).setRole die m.src 2 0xFF
      let h3 := h2.onCore (coreKey die m.dst) (fun _ => {})
      let h4 := if bad then ts.foldl (fun (x : Hw) t => x.threadReset t) h3
        else ts.foldl (fun (x : Hw) t => x.onThread t (fun y => { y with run := look .running m.runs t })) h3
      let h5 := ((h4.setCur die m.src 3).migEnd die (if bad then 4 else 0)).evPump
      some (if m.byImage then h5 else { h5 with commit := { h5.commit with sparing := some h5.mapsInForce } }, m, if bad then 4 else 0)

/-- A write of DCTL_MIGRATE (R74, R500): with START while BUSY is 1 it is discarded; START during the apply of SPARING is logged with reason 0x06. -/
def Hw.migrateWrite (h : Hw) (w : Who) (die : Nat) (half : Half) (v : W64) : Hw :=
  let start := wbit (v &&& halfMask half) 16
  let r := RegRef.at .DCTL_MIGRATE die
  if start && h.flag .DCTL_MIGRATE die 0 0 F.DCTL_MIGRATE_BUSY then h
  else if start && has h.applying 3 && decide (h.fld .CFG_STAT 0 0 0 F.CFG_STAT_STATE = 3) then
    h.cfgReject (regAddr .DCTL_MIGRATE die 0 0) w 0x06
  else
    let h1 := (h.writeFields r w half v).setFld .DCTL_MIGRATE die 0 0 F.DCTL_MIGRATE_START 0
    if start then
      h1.migStart die (h1.fld .DCTL_MIGRATE die 0 0 F.DCTL_MIGRATE_SRC_PCORE) (h1.fld .DCTL_MIGRATE die 0 0 F.DCTL_MIGRATE_DST_PCORE) false
    else h1

end Sys2Proof.Machine
end

