-- ==== Sys2Proof/Machine/Manifest.lean ====
section
/-! DEFINITION. Signed manifests, block-wise verification and the measurement registers (spec/16_boot.md R570 to R577). -/

namespace Sys2Proof.Machine

/-- The 48 bytes of a digest. -/
def digestBytes (d : BitVec 384) : List Byte := toBytes 48 d.toNat

/-- The digest that 48 bytes hold. -/
def digestOf (bs : List Byte) : BitVec 384 := BitVec.ofNat 384 (ofBytes (bs.take 48))

/-- Bytes of a list, by offset and number. -/
def slice (bs : List Byte) (off n : Nat) : List Byte := (bs.drop off).take n

/-- Bytes that must be zero. -/
def zeroAt (bs : List Byte) (off n : Nat) : Bool := (slice bs off n).all (fun b => b == 0)

/-- A component entry (R571). -/
structure Comp where
  type : Nat
  target : Nat
  zero : Bool
  len : Nat
  foff : Nat
  htoff : Nat
  digest : BitVec 384
  deriving DecidableEq, Repr

/-- The component table of a manifest body. -/
def compsOf (m : List Byte) : List Comp :=
  (List.range (dsc m 12 2)).map (fun i =>
    let e := slice m (2816 + 64 * i) 64
    ⟨dsc e 0 1, dsc e 1 1, zeroAt e 2 2, dsc e 4 4, dsc e 8 4, dsc e 12 4, digestOf (e.drop 16)⟩)

/-- BLOCKS of a component. -/
def Comp.blocks (c : Comp) : Nat := (c.len + 65535) / 65536

/-- The fields of an entry are as R571 requires. -/
def Comp.ok (c : Comp) (bodyLen ncomp : Nat) : Bool :=
  c.zero && decide (1 ≤ c.type) && decide (c.type ≤ 7) && (if c.type = 7 then decide (1 ≤ c.target) && decide (c.target ≤ 12) else decide (c.target = 0)) &&
    decide (1 ≤ c.len) && decide (c.foff % 65536 = 0) && decide (0x50000 ≤ c.foff) &&
    decide (2816 + 64 * ncomp ≤ c.htoff) && decide (c.htoff + 48 * c.blocks ≤ bodyLen)

/-- The largest length of a component (R491, R571). -/
def Comp.maxLen (c : Comp) : Nat :=
  match c.type with
  | 1 => 0x100000
  | 2 => 0x400000
  | 3 => 0x4000000
  | 7 => 0x10000000
  | _ => 0xFFFFFFFF

/-- Two components overlap in the flash. -/
def Comp.clash (a b : Comp) : Bool := decide (a.foff < b.foff + b.len) && decide (b.foff < a.foff + a.len)

/-- No two elements of a list meet in a relation. -/
def apart {α : Type} (r : α → α → Bool) : List α → Bool
  | [] => true
  | a :: l => l.all (fun b => !r a b) && apart r l

/-- Each of TYPE 1 to 6 exactly once, at most one OS loader for each partition, and no component too large (R571). -/
def compsOk (l : List Comp) : Bool :=
  ([1, 2, 3, 4, 5, 6].all (fun t => (l.filter (fun c => decide (c.type = t))).length == 1)) &&
    apart (fun a b => decide (a.type = 7) && decide (b.type = 7) && decide (a.target = b.target)) l && l.all (fun c => decide (c.len ≤ c.maxLen))

/-- BODY_LEN of a manifest. -/
def bodyLen (m : List Byte) : Nat := dsc m 16 4

/-- The format rules of R570 and R571, but for the set of components. -/
def manifestForm (m : List Byte) : Bool :=
  let n := dsc m 12 2
  decide (m.length = bodyLen m + 4723) && decide (bodyLen m ≤ 0x40000 - 4723) && decide (dsc m 0 4 = 0x464D594C) &&
    decide (dsc m 4 2 = 1) && decide (dsc m 6 1 ≤ 3) && zeroAt m 7 1 && decide (dsc m 8 4 ≤ 128) && decide (1 ≤ n) && decide (n ≤ 32) &&
    zeroAt m 14 2 && zeroAt m 20 44 && decide (dsc m 64 1 = 4) && zeroAt m 161 31 && zeroAt m 2784 32 &&
    decide (2816 + 64 * n ≤ bodyLen m) && (compsOf m).all (fun c => c.ok (bodyLen m) n) && apart Comp.clash (compsOf m)

/-- The key slots that are present, and those that are revoked (R576). -/
def Hw.keyRevoked (h : Hw) (k : Nat) : Bool := (Config.keysRevoked ||| h.boot.revoked).testBit k

/-- The fused version floor (R575). -/
def Hw.floorNow (h : Hw) : Nat := max Config.versionFloor h.boot.floor

/-- The REASON with which a manifest is refused, 0 if it is accepted (R572). `md`: MDIGEST of a commit record, if there is one. -/
def Hw.manifestCheck (h : Hw) (m : List Byte) (md : Option (BitVec 384)) : Nat :=
  let k := dsc m 6 1
  let body := m.take (bodyLen m)
  let dig := Config.sha384 body
  let ecpk := slice m 64 97
  let mlpk := slice m 192 2592
  if !manifestForm m then 0x02
  else if !compsOk (compsOf m) then 0x0B
  else if (match md with
    | some d => decide (Config.sha384 m ≠ d)
    | none => false) then 0x03
  else if !Config.keysPresent.testBit k || decide (Config.keyHash k ≠ Config.sha384 (slice m 64 2752)) then 0x04
  else if h.keyRevoked k then 0x05
  else if !Config.ecdsaOk ecpk dig (slice m (bodyLen m) 96) then 0x06
  else if !Config.mldsaOk mlpk (digestBytes dig) (slice m (bodyLen m + 96) 4627) then 0x07
  else if dsc m 8 4 < h.floorNow then 0x08
  else 0

/-- One block of a component matches its entry in the block hash table (R573). -/
def blockOk (m : List Byte) (c : Comp) (k : Nat) (bs : List Byte) : Bool :=
  decide (slice m (c.htoff + 48 * k) 48 = digestBytes (Config.sha384 bs))

/-- A component matches block by block and whole (R573). -/
def compGood (m : List Byte) (c : Comp) (data : List Byte) : Bool :=
  decide (data.length = c.len) && (List.range c.blocks).all (fun k => blockOk m c k (slice data (65536 * k) 65536)) &&
    decide (Config.sha384 data = c.digest)

/-- The component of a TYPE, and of a TARGET for an OS loader. -/
def compOf (m : List Byte) (type target : Nat) : Option Comp :=
  (compsOf m).find? (fun c => decide (c.type = type) && decide (c.target = target))

/-! Measurement registers (R577). -/

/-- The 48 bytes of a measurement register. -/
def Hw.mreg (h : Hw) (nn : Nat) : List Byte := (List.range 6).flatMap (fun w => toBytes 8 (h.reg .SEC_MREG 0 0 (6 * nn + w)).toNat)

/-- A measurement register set. -/
def Hw.setMreg (h : Hw) (nn : Nat) (d : BitVec 384) : Hw :=
  (List.range 6).foldl (fun (x : Hw) w => x.setReg .SEC_MREG 0 0 (6 * nn + w) (BitVec.ofNat 64 (d.toNat >>> (64 * w)))) h

/-- An extension (R577), entered in package services' log with the component's TYPE. -/
def Hw.mregExt (h : Hw) (nn type : Nat) (d : BitVec 384) : Hw :=
  let h1 := h.setMreg nn (Config.sha384 (h.mreg nn ++ digestBytes d))
  { h1 with boot := { h1.boot with mlog := h1.boot.mlog ++ [(nn, type, d)] } }

end Sys2Proof.Machine
end

