-- ==== Sys2Proof/Machine/Cfg.lean ====
section
/-! DEFINITION. The structure image and the commit machine: loading, applying, confirming and rolling back, and the safe points of staged sections (spec/13_partitions_and_structure_image.md R491 to R510). -/

namespace Sys2Proof.Machine

/-! The image (R491 to R495). -/

/-- A section table entry (R492). -/
structure Sec where
  type : Nat
  cls : Nat
  version : Nat
  scope : Nat
  zero : Bool
  off : Nat
  len : Nat
  digest : List Byte
  deriving DecidableEq, Repr

/-- The section table of an image: 15 entries after the 128-byte header. -/
def secsOf (img : List Byte) : List Sec :=
  (List.range 15).map (fun i =>
    let e := slice img (128 + 32 * i) 32
    ⟨dsc e 0 1, dsc e 1 1, dsc e 2 2, dsc e 4 2, zeroAt e 6 2, dsc e 8 4, dsc e 12 4, slice e 16 16⟩)

/-- SEQ of an image. -/
def imgSeq (img : List Byte) : Nat := dsc img 8 8

/-- The class that R493 gives a section type: 1 live, 2 staged, 3 static. -/
def classOf (t : Nat) : Nat :=
  if [1, 6, 7, 10, 11, 15].contains t then 3 else if t = 12 ∨ t = 13 then 1 else 2

/-- The section of a type. -/
def secOf (img : List Byte) (t : Nat) : Option Sec := (secsOf img).find? (fun s => s.type == t)

/-- SCOPE of a section. -/
def scopeOf (img : List Byte) (t : Nat) : Nat := ((secOf img t).map (·.scope)).getD 0

/-- RESULT 0x1 (R494): MAGIC, FMT_MAJOR, SECTIONS, LENGTH, the zero fields, and where the sections lie. -/
def imgForm (img : List Byte) : Bool :=
  decide (dsc img 0 4 = 0x4D49534C) && decide (dsc img 4 1 = 1) && decide (dsc img 6 2 = 15) && decide (dsc img 24 4 = img.length) &&
    decide (img.length ≤ 0x400000) && decide (608 ≤ img.length) && zeroAt img 21 1 && zeroAt img 30 2 && zeroAt img 36 4 && zeroAt img 88 40 &&
    (secsOf img).all (fun s => s.zero && decide (s.off % 64 = 0) && decide (608 ≤ s.off) && decide (s.off + s.len ≤ img.length)) &&
    apart (fun a b => decide (a.off < b.off + b.len) && decide (b.off < a.off + a.len)) (secsOf img)

/-- The package's stepping as one byte (R3, R491). -/
def stepByte : Nat := 16 * Config.stepMajor + Config.stepMinor

/-- RESULT 0x2: the part, the architecture revision and the steppings. -/
def imgPart (img : List Byte) : Bool :=
  decide (dsc img 16 2 = 0x9612) && decide (dsc img 20 1 = 2) && decide (dsc img 18 1 ≤ stepByte) && decide (stepByte ≤ dsc img 19 1)

/-- RESULT 0x3, the digests inside the image: DIGEST of the header and SDIGEST of each section. -/
def imgDigests (img : List Byte) : Bool :=
  decide (slice img 40 48 = digestBytes (Config.sha384 (img.drop 128))) &&
    (secsOf img).all (fun s => decide (s.digest = (digestBytes (Config.sha384 (slice img s.off s.len))).take 16))

/-- RESULT 0x5: each type once, with its class and VERSION. -/
def imgTypes (img : List Byte) : Bool :=
  (List.range 15).all (fun i => ((secsOf img).filter (fun s => s.type == i + 1)).length == 1) &&
    (secsOf img).all (fun s => decide (s.cls = classOf s.type) && decide (s.version = 1))

/-- The value that an image gives a register, or the register's own. -/
def Hw.imgReg (h : Hw) (img : List Byte) (t : Nat) (n : RegName) (die inst i : Nat) : W64 :=
  let a := regAddr n die inst i
  match (Config.imageContent img).regs.find? (fun e => decide (e.1 = t ∧ e.2.1 = a)) with
  | some e => e.2.2
  | none => h.reg n die inst i

/-- The owner that an image gives a GiB; 0xF where it names none. -/
def imgGib (img : List Byte) (g : Nat) : Nat := look 0xF (Config.imageContent img).gibOwner g

/-- GiBs of the coherent memory. -/
def gibCount : Nat := 0x0900000000000 >>> 30

/-- The byte of an image's sparing map for a logical core (R72). -/
def Hw.imgLcmap (h : Hw) (img : List Byte) (die c : Nat) : Nat :=
  nbits (h.imgReg img 3 .DCTL_LCMAP die 0 (c / 8)).toNat (8 * (c % 8) + 7) (8 * (c % 8))

/-- A sparing map names physical cores that exist and have passed their test, none of them twice (R72, R73). -/
def Hw.imgMapOk (h : Hw) (img : List Byte) (die : Nat) : Bool :=
  let named := (((List.range 32).map (h.imgLcmap img die)).filter (fun b => decide (128 ≤ b))).map (· % 64)
  apart (fun a b => decide (a = b)) named && named.all (fun p => decide (p < 34) && !h.flag .CORE_STATUS die p 0 F.CORE_STATUS_FUSED_BAD)

/-- The die that an engine stands on, and the die of a port (R7). -/
def dieOfEng (n : Nat) : Nat := (engPlace n).1

/-- Every die that an image names has an ID (R494): a die with an owner, and a port die with a port or an engine that has one. -/
def Hw.diesAssigned (h : Hw) (c : Config.ImageContent) : Bool :=
  let named := (c.dieOwner.filter (fun e => e.2 != 0)).map (·.1) ++ (c.portOwner.filter (fun e => e.2 != 0)).map (fun e => (portPlace e.1).1) ++
    (c.engOwner.filter (fun e => e.2 != 0)).map (fun e => dieOfEng e.1)
  named.all (fun d => d == 0 || h.fld .SLINK_DISC 0 0 (dieHp d) F.SLINK_DISC_RESULT == 1)

/-- MEM_SERVICE differs from the active image's only in its RWL fields (R493, R494). -/
def memServiceOk (img old : List Byte) : Bool :=
  let vals (i : List Byte) : List (Nat × W64) := ((Config.imageContent i).regs.filter (fun e => e.1 == 15)).map (·.2)
  (vals img).all (fun e => match findReg e.1, look? (vals old) e.1 with
    | some r, some v => r.name.desc.fields.all (fun f => f.acc == .RWL || f.get e.2 == f.get v)
    | _, _ => true)

/-- A joined port group lies on one port die, aligned to four, if a partition owns any of its ports (R494). -/
def joinedOk (c : Config.ImageContent) (g : Nat × Nat) : Bool :=
  (List.range g.2).all (fun i => look 0 c.portOwner (g.1 + i) == 0) ||
    (decide (g.1 % 4 = 0) && decide (g.1 / 16 = (g.1 + g.2 - 1) / 16))

/-- A section of the image differs from the active image's (R497); the SPARING section in force may have been rewritten in place (R506). -/
def Hw.secDiffers (h : Hw) (img old : List Byte) (t : Nat) : Bool :=
  match (if t = 3 then h.commit.sparing else none) with
  | some maps => maps.any (fun e => match (Config.imageContent img).regs.find? (fun r => decide (r.1 = 3 ∧ r.2.1 = e.1)) with
      | some r => decide (r.2.2 ≠ e.2)
      | none => false)
  | none => decide ((secOf img t).map (·.digest) ≠ (secOf old t).map (·.digest))

/-- Units that a section changes, as the partitions that own them or will (R505). -/
def Hw.touched (h : Hw) (img : List Byte) (t : Nat) : List Nat :=
  let c := Config.imageContent img
  let pairs (l : List (Nat × Nat)) : List Nat := l.flatMap (fun e => if e.1 = e.2 then [] else [e.1, e.2])
  match t with
  | 1 => (List.range 13).filter (fun p => c.present.contains p != h.commit.present.contains p || c.tolerant.contains p != h.commit.tolerant.contains p ||
      (c.authority == p) != (h.authority == p))
  | 2 => pairs ((List.range 13).map (fun d => (look 0 h.dieOwner d, look 0 c.dieOwner d)))
  | 3 => (List.range 12).flatMap (fun d => if (List.range 32).any (fun k => h.imgLcmap img (d + 1) k != h.lcmapByte (d + 1) k) then [look 0 h.dieOwner (d + 1)] else [])
  | 4 => pairs ((List.range gibCount).map (fun g => (h.gibOwner g, imgGib img g)))
  | 7 => ((h.commit.joined ++ c.joined).filter (fun g => h.commit.joined.contains g != c.joined.contains g)).flatMap (fun g =>
      (List.range g.2).map (fun i => look 0 h.portOwner (g.1 + i)))
  | 8 => pairs ((List.range 64).map (fun n => (look 0 h.portOwner n, look 0 c.portOwner n)))
  | 9 => pairs ((List.range 56).map (fun n => (look 0 h.engOwner n, look 0 c.engOwner n))) ++
      pairs ((List.range 96).map (fun q => (h.qFld .SKM_QCTL q F.SKM_QCTL_PART, F.SKM_QCTL_PART.get (h.imgReg img 9 .SKM_QCTL 0 (q / 4) (q % 4)))))
  | 14 => (List.range 13).filter (fun p => h.imgReg img 14 .HOME_RCWAY 0 0 p != h.reg .HOME_RCWAY 0 0 p)
  | _ => []

/-- SCOPE names every partition whose units a section changes (R505). -/
def Hw.scopeOk (h : Hw) (img old : List Byte) (t : Nat) : Bool :=
  !h.secDiffers img old t || (h.touched img t).all (fun p => p == 0 || 12 < p || (scopeOf img t).testBit p)

/-- RESULT 0x6 (R494): the content rules. `old` is the active image, empty at boot, where there is nothing to compare, and where a set that runs past what was found is left out instead (R311). -/
def Hw.imgContent (h : Hw) (img old : List Byte) : Bool :=
  let c := Config.imageContent img
  let sets : List ISet := (List.range 32).map (fun nn => ⟨h.imgReg img 5 .HOME_ISET_A 0 0 nn, h.imgReg img 5 .HOME_ISET_B 0 0 nn⟩)
  let live := sets.filter (fun d => d.valid)
  live.all ISet.formed && (old.isEmpty || (live.filter (fun d => !((List.range 32).map h.iset).contains d)).all h.isetRules) && apart isetClash live &&
    decide (((List.range 12).map (fun p => F.HOME_HOTCTL_QUOTA.get (h.imgReg img 15 .HOME_HOTCTL 0 0 p))).sum ≤ 2048) &&
    c.creditsOk && decide (c.hashId = 1) && decide (c.authority ≤ 12) &&
    c.present.all (fun p => (List.range 13).any (fun d => decide (1 ≤ d) && look 0 c.dieOwner d == p)) &&
    c.joined.all (joinedOk c) && (List.range 12).all (fun d => h.imgMapOk img (d + 1)) &&
    h.diesAssigned c && (old.isEmpty || (memServiceOk img old && [1, 2, 3, 4, 7, 8, 9, 14].all (h.scopeOk img old)))

/-- RESULT of the checks on an image (R494); `live`: loaded through CFG_LOADADDR, so that SEQ must be above HIGHSEQ. -/
def Hw.imgCheck (h : Hw) (img old : List Byte) (live : Bool) : Nat :=
  if !imgForm img then 1
  else if !imgPart img then 2
  else if !imgDigests img then 3
  else if live && decide (imgSeq img ≤ (h.reg .CFG_HIGHSEQ 0 0 0).toNat) then 4
  else if !imgTypes img then 5
  else if !h.imgContent img old then 6
  else 0

/-! State of the commit machine (R497). -/

/-- STATE of CFG_STAT. -/
def Hw.cfgState (h : Hw) : Nat := h.fld .CFG_STAT 0 0 0 F.CFG_STAT_STATE

/-- The commit machine enters a state; the event of package source 0x230 is raised (R611). -/
def Hw.cfgEnter (h : Hw) (st : Nat) : Hw := (h.setFld .CFG_STAT 0 0 0 F.CFG_STAT_STATE st).raise { source := 0x230 }

/-- RESULT of CFG_STAT. -/
def Hw.cfgResult (h : Hw) (r : Nat) : Hw := h.setFld .CFG_STAT 0 0 0 F.CFG_STAT_RESULT r

/-- ACTIVE_BANK. -/
def Hw.activeBank (h : Hw) : Nat := h.fld .CFG_STAT 0 0 0 F.CFG_STAT_ACTIVE_BANK

/-- The image in a bank. -/
def Hw.bank (h : Hw) (b : Nat) : List Byte := if b = 0 then h.commit.bank0 else h.commit.bank1

/-- The image in a bank, replaced. -/
def Hw.setBank (h : Hw) (b : Nat) (img : List Byte) : Hw :=
  { h with commit := if b = 0 then { h.commit with bank0 := img } else { h.commit with bank1 := img } }

/-- The active image, and the other bank's. -/
def Hw.activeImg (h : Hw) : List Byte := h.bank h.activeBank

/-- See `Hw.activeImg`. -/
def Hw.otherImg (h : Hw) : List Byte := h.bank (1 - h.activeBank)

/-- STAGED_WAIT as a mask by section type. -/
def Hw.stagedWait (h : Hw) : Nat := wbits (h.reg .CFG_STAT 0 0 0) 15 0

/-- A bit of STAGED_WAIT. -/
def Hw.setStaged (h : Hw) (t : Nat) (b : Bool) : Hw :=
  h.setReg .CFG_STAT 0 0 0 (setWbits (h.reg .CFG_STAT 0 0 0) t t (b2n b))

/-! Loading registers from sections (R493). -/

/-- The img and RWL fields of a register take the values of an image. -/
def Hw.imgLoadReg (h : Hw) (r : RegRef) (v : W64) : Hw :=
  let cur := h.reg r.name r.die r.inst r.idx
  h.setReg r.name r.die r.inst r.idx
    (r.name.desc.fields.foldl (fun a f => if f.rst = .img ∨ f.acc = .RWL then f.set a (f.get v) else a) cur)

/-- Every register that a section of an image sets. -/
def Hw.imgLoad (h : Hw) (img : List Byte) (t : Nat) : Hw :=
  ((Config.imageContent img).regs.filter (fun e => e.1 == t)).foldl (fun (x : Hw) e =>
    match findReg e.2.1 with
    | some r => x.imgLoadReg r e.2.2
    | none => x) h

/-- ROLE and LCORE of every physical core follow the sparing map (R73): a core that the map does not name is failed or spare. -/
def Hw.rolesFromMap (h : Hw) (die : Nat) : Hw :=
  (List.range 34).foldl (fun (x : Hw) p =>
    let fused := x.flag .CORE_STATUS die p 0 F.CORE_STATUS_FUSED_BAD
    match (List.range 32).find? (fun c => x.lcmapByte die c == 0x80 + p && !fused) with
    | some c => x.setRole die p 0 c
    | none =>
      let bad := fused || decide (x.roleOf die p = 2)
      (x.setRole die p (if bad then 2 else 1) 0xFF).setCur die p 3) h

/-- Package services take the POWER section (R534, R535). -/
def Hw.takePower (h : Hw) (img : List Byte) : Hw :=
  { h with deepOk := (Config.imageContent img).deepOk, wakeOnExit := (Config.imageContent img).wakeOnExit }

/-- A live section applies at once (R497). -/
def Hw.applyLive (h : Hw) (img : List Byte) (t : Nat) : Hw :=
  let h1 := h.imgLoad img t
  if t = 13 then h1.takePower img else h1

/-- The structure engine tells the meter a die's owner (R592). -/
def Hw.ownerSend (h : Hw) (die owner : Nat) : Hw :=
  (({ h with mtrx := { h.mtrx with ownerPend := h.mtrx.ownerPend ++ [(die, owner)] } } : Hw).setFld .MTRX_STAT 0 0 0 F.MTRX_STAT_OWNER_PEND 1).meterSend 0 (toBytes 1 die ++ toBytes 1 owner)

/-- What no partition owns is held idle (R486). -/
def Hw.idleUnowned (h : Hw) : Hw :=
  let dies := (List.range 12).flatMap (fun d => (List.range 37).map (fun nn => (d + 1, nn)))
  let engs := (List.range 24).map (fun n => (0, 32 + n)) ++ (List.range 4).flatMap (fun k => (List.range 8).map (fun i => (0x10 + k, 2 + i)))
  ((dies ++ engs).filter (fun e => h.heldIdle e.1 e.2)).foldl (fun (x : Hw) e => x.setCur e.1 e.2 3)
    { h with portUp := h.portUp.filter (fun n => look 0 h.portOwner n != 0) }

/-- Every section applies while no block runs, and the image is committed without a window (R496): at cold reset and at package warm reset. -/
def Hw.applyAll (h : Hw) (img : List Byte) : Hw :=
  let c := Config.imageContent img
  let h1 := (List.range 15).foldl (fun (x : Hw) i => x.imgLoad img (i + 1)) h
  let h2 := match h.commit.sparing with
    | some maps => maps.foldl (fun (x : Hw) e => match findReg e.1 with
        | some r => x.setReg r.name r.die r.inst r.idx e.2
        | none => x) h1
    | none => h1
  let h3 := (List.range gibCount).foldl (fun (x : Hw) g => x.setGibOwner g (imgGib img g)) h2
  let h4 : Hw := { h3 with
    dieOwner := (List.range 12).map (fun d => (d + 1, look 0 c.dieOwner (d + 1))), portOwner := c.portOwner, engOwner := c.engOwner,
    authority := c.authority, shadow := [], applying := [], committed := true,
    commit := { h3.commit with present := c.present, tolerant := c.tolerant, excluded := c.excluded, joined := c.joined, pendStatic := [],
                               changed := [], dieMoves := [], portMoves := [], engMoves := [], gibQueue := [] } }
  let h5 := (List.range 12).foldl (fun (x : Hw) d => x.rolesFromMap (d + 1)) (h4.takePower img)
  let h6 := (List.range 12).foldl (fun (x : Hw) d => x.ownerSend (d + 1) (look 0 c.dieOwner (d + 1))) h5
  let h7 := h6.idleUnowned
  let v := h7.reg .CFG_STAT 0 0 0
  (h7.setReg .CFG_STAT 0 0 0 (setWbits (setWbits (setWbits (setWbits v 63 60 0) 54 54 0) 44 33 0) 15 1 0)).setReg .CFG_ACTSEQ 0 0 0
    (BitVec.ofNat 64 (imgSeq img))

/-! Staged sections (R504, R507 to R510). -/

/-- A staged section of an image starts toward its safe points: the units that differ from the state in force. -/
def Hw.startStaged (h : Hw) (img : List Byte) (t : Nat) : Hw :=
  let c := Config.imageContent img
  let diff (n : Nat) (f g : Nat → Nat) : List (Nat × Nat) :=
    ((List.range n).filter (fun i => f i != g i)).map (fun i => (i, g i))
  let h0 := h.setStaged t true
  match t with
  | 2 => { h0 with commit := { h0.commit with dieMoves := (diff 13 (look 0 h.dieOwner) (look 0 c.dieOwner)).filter (fun e => e.1 != 0), excluded := c.excluded } }
  | 4 => { h0 with commit := { h0.commit with gibQueue := diff gibCount h.gibOwner (imgGib img) } }
  | 5 => (List.range 32).foldl (fun (x : Hw) nn =>
      let a := x.imgReg img 5 .HOME_ISET_A 0 0 nn
      let b := x.imgReg img 5 .HOME_ISET_B 0 0 nn
      let same := decide ((F.HOME_ISET_B_DONE.set (x.reg .HOME_ISET_B 0 0 nn) 0) = F.HOME_ISET_B_DONE.set b 0) && decide (x.reg .HOME_ISET_A 0 0 nn = a)
      if same then { x with shadow := del (del x.shadow (regAddr .HOME_ISET_A 0 0 nn)) (regAddr .HOME_ISET_B 0 0 nn) }
      else { x with shadow := put (put x.shadow (regAddr .HOME_ISET_A 0 0 nn) a) (regAddr .HOME_ISET_B 0 0 nn) b,
                    isetWho := put x.isetWho nn structureEngine }) h0
  | 8 => { h0 with commit := { h0.commit with portMoves := diff 64 (look 0 h.portOwner) (look 0 c.portOwner) } }
  | 9 =>
    let moves := diff 56 (look 0 h.engOwner) (look 0 c.engOwner)
    moves.foldl (fun (x : Hw) e => x.engCancel e.1 7) { h0 with commit := { h0.commit with engMoves := moves } }
  | 14 => (List.range 13).foldl (fun (x : Hw) p =>
      (List.range 32).foldl (fun (y : Hw) k =>
        let v := y.imgReg img 14 .HOME_RCWAY 0 0 p
        { y with shadow := if v = y.reg .HOME_RCWAY 0 k p then del y.shadow (regAddr .HOME_RCWAY 0 k p) else put y.shadow (regAddr .HOME_RCWAY 0 k p) v }) x) h0
  | _ => h0

/-- The image that the machine applies: the active one in APPLYING, the other bank's while it rolls back. -/
def Hw.targetImg (h : Hw) : List Byte := if h.cfgState = 5 then h.otherImg else h.activeImg

/-- Several stops of one die change their role with one epoch advance (R452, R507). -/
def Hw.advanceStops (h : Hw) : List Nat → Hw
  | [] => h
  | n :: r =>
    let h1 := h.advanceEpoch n
    r.foldl (fun (x : Hw) m => { x with epochLast := put x.epochLast m (x.epoch (n / 128)) }) h1

/-- The stops of a compute die's cores, of a port and of an engine (R431). -/
def dieStops (die : Nat) : List Nat := (List.range 16).map (fun k => 128 * die + k)

/-- See `dieStops`. -/
def portStop (n : Nat) : Nat := 128 * (0x10 + n / 16) + n % 16

/-- See `dieStops`. -/
def engStop (n : Nat) : Nat := if n < 24 then 0x38 + n else 128 * (0x10 + (n - 24) / 8) + 16 + (n - 24) % 8

/-- No access is queued at a port and its link is disabled (R507). -/
def Hw.portSafe (h : Hw) (n : Nat) : Bool :=
  h.fenced (.port n) || (!has h.portUp n && (look [] h.dpq n).isEmpty && (look [] h.pwr n).isEmpty && (look [] h.patom n).isEmpty &&
    !(h.thr.any (fun e => match e.2.devOpen with
      | some d => d.atPort n
      | none => false)) && h.mayChangeRole (portStop n))

/-- An engine has stopped its pieces (R507). -/
def Hw.engSafe (h : Hw) (n : Nat) : Bool :=
  h.fenced (.eng n) || ((look? h.run n).isNone && (look [] h.engq n).isEmpty && !(h.held.any (fun e => e.1 == n)) && h.mayChangeRole (engStop n))

/-- The power domain of an engine (R519). -/
def engDom (n : Nat) : Nat := if n < 24 then 32 + n else 2 + (n - 24) % 8

/-- The owner of an engine changes (R507, R562): a secure reservation of its old owner ends, and an engine without an owner goes to Dust sheet (R331). -/
def Hw.engMove (h : Hw) (n o : Nat) : Hw :=
  let h1 : Hw := { h with engOwner := put h.engOwner n o }
  let h2 := (h1.setReg .SEC_SENG 0 0 0 (setWbits (h1.reg .SEC_SENG 0 0 0) n n 0)).setFld .SKM_STATUS (engPlace n).1 (engPlace n).2 0 F.SKM_STATUS_PART o
  if o = 0 then h2.holdIdle (engPlace n).1 (engDom n) else h2

/-- The queues whose PART or WORLD an image changes: the fields are loaded, and EN of a queue that moves to another partition is cleared (R507). -/
def Hw.queuesMove (h : Hw) (img : List Byte) : Hw :=
  (List.range 96).foldl (fun (x : Hw) q =>
    let v := x.imgReg img 9 .SKM_QCTL 0 (q / 4) (q % 4)
    let p := F.SKM_QCTL_PART.get v
    let w := F.SKM_QCTL_WORLD.get v
    if p = x.qFld .SKM_QCTL q F.SKM_QCTL_PART ∧ w = x.qFld .SKM_QCTL q F.SKM_QCTL_WORLD then x
    else
      let y := (x.setQFld .SKM_QCTL q F.SKM_QCTL_PART p).setQFld .SKM_QCTL q F.SKM_QCTL_WORLD w
      if p = x.qFld .SKM_QCTL q F.SKM_QCTL_PART then y else y.setQFld .SKM_QCTL q F.SKM_QCTL_EN 0) h

/-- Units grouped by their die, so that one epoch advance covers those of a die. -/
def Hw.advanceDies (h : Hw) (stops : List Nat) : Hw :=
  (List.range 32).foldl (fun (x : Hw) d => x.advanceStops (stops.filter (fun n => n / 128 == d))) h

/-- Migrations of the SPARING section start, one on each die, but for a fenced one (R500, R510); the Boolean says that one failed at its start. -/
def Hw.sparingGo (h : Hw) (img : List Byte) : Hw × Bool :=
  (List.range 12).foldl (fun (a : Hw × Bool) i =>
    let die := i + 1
    let x := a.1
    if (x.cdie die).migration.isSome || x.fenced (.core die 0) then a
    else match (List.range 32).find? (fun c => decide (128 ≤ x.imgLcmap img die c) && decide (128 ≤ x.lcmapByte die c) &&
        decide (x.imgLcmap img die c ≠ x.lcmapByte die c)) with
      | some c =>
        let src := x.lcmapByte die c % 64
        let dst := x.imgLcmap img die c % 64
        let bad := decide (x.migCheck die src dst ≠ 0)
        (x.migStart die src dst true, a.2 || bad)
      | none => a) (h, false)

/-- Every logical core is carried as an image's sparing map says, as far as migrations can bring it (R504); for a fenced die the safe point counts as reached (R500). -/
def Hw.sparingDone (h : Hw) (img : List Byte) : Bool :=
  (List.range 12).all (fun i => h.fenced (.core (i + 1) 0) || (h.cdie (i + 1)).migration.isNone && (List.range 32).all (fun c =>
    !(decide (128 ≤ h.imgLcmap img (i + 1) c) && decide (128 ≤ h.lcmapByte (i + 1) c) && decide (h.imgLcmap img (i + 1) c ≠ h.lcmapByte (i + 1) c))))

/-- The units of a staged section that have reached their safe points take their new values (R504). -/
def Hw.stagedUnits (h : Hw) (img : List Byte) (t : Nat) : Hw :=
  match t with
  | 8 =>
    let ready := h.commit.portMoves.filter (fun e => h.portSafe e.1)
    let h1 : Hw := { h with commit := { h.commit with portMoves := h.commit.portMoves.filter (fun e => !(ready.any (fun r => r.1 == e.1))) },
                            portOwner := ready.foldl (fun l e => put l e.1 e.2) h.portOwner }
    let h2 := ready.foldl (fun (x : Hw) e =>
      x.imgLoadReg (RegRef.at .XTL_DEVT (0x10 + e.1 / 16) 0 (e.1 % 16)) (x.imgReg img 8 .XTL_DEVT (0x10 + e.1 / 16) 0 (e.1 % 16))) h1
    h2.advanceDies (ready.map (fun e => portStop e.1))
  | 9 =>
    let ready := h.commit.engMoves.filter (fun e => h.engSafe e.1)
    let h1 : Hw := { h with commit := { h.commit with engMoves := h.commit.engMoves.filter (fun e => !(ready.any (fun r => r.1 == e.1))) } }
    let h2 := (ready.foldl (fun (x : Hw) e => x.engMove e.1 e.2) h1).advanceDies (ready.map (fun e => engStop e.1))
    if h2.commit.engMoves.isEmpty then h2.queuesMove img else h2
  | _ => h

/-- Every unit that a staged section changes has reached its safe point (R504). -/
def Hw.stagedDone (h : Hw) (img : List Byte) (t : Nat) : Bool :=
  match t with
  | 2 => h.commit.dieMoves.isEmpty
  | 3 => h.sparingDone img
  | 4 => h.commit.gibQueue.isEmpty && !(h.gibMoves.any (fun m => decide (m.why = .owner)))
  | 5 => (List.range 32).all (fun nn => (look? h.shadow (regAddr .HOME_ISET_A 0 0 nn)).isNone)
  | 8 => h.commit.portMoves.isEmpty
  | 9 => h.commit.engMoves.isEmpty
  | 14 => (List.range 13).all (fun p => (List.range 32).all (fun k => (look? h.shadow (regAddr .HOME_RCWAY 0 k p)).isNone))
  | _ => true

/-! Apply, confirm and roll back (R497 to R500). -/

/-- The members of the confirm set (R499): package services, and every running partition in the SCOPE of a changed section. -/
def Hw.confirmSet (h : Hw) (img : List Byte) (changed : List Nat) : Nat :=
  (List.range 13).foldl (fun m p =>
    if p = 0 ∨ (has h.partUp p ∧ !has h.partStopped p ∧ changed.any (fun t => (scopeOf img t).testBit p)) then m + 2 ^ p else m) 0

/-- CONFIRM_S of an image. -/
def confirmS (img : List Byte) : Nat := if dsc img 22 2 = 0 then 120 else dsc img 22 2

/-- APPLY_S of an image. -/
def applyS (img : List Byte) : Nat := if dsc img 28 2 = 0 then 60 else dsc img 28 2

/-- AWAIT_CONFIRM is entered (R497, R501). -/
def Hw.awaitConfirm (h : Hw) : Hw :=
  let img := h.activeImg
  let need := h.confirmSet img h.commit.changed
  let h1 : Hw := { h with applying := [], commit := { h.commit with windowEnd := h.now + 1000000000 * confirmS img } }
  (h1.setReg .CFG_CONFIRM 0 0 0 (setWbits 0 28 16 need)).cfgEnter 4

/-- A static section of a committed image applies to a partition (R498): a port group once each owner of its ports is quiesced (R493). -/
def Hw.applyStatic (h : Hw) (img : List Byte) (p t : Nat) : Hw :=
  let c := Config.imageContent img
  if t = 1 then
    let take (l new : List Nat) : List Nat := if new.contains p then ins l p else rem l p
    { h with commit := { h.commit with present := take h.commit.present c.present, tolerant := take h.commit.tolerant c.tolerant },
             authority := if c.authority = p then p else if h.authority = p then c.authority else h.authority }
  else if t = 7 then
    let owner (g : Nat × Nat) (i : Nat) : Nat := look 0 h.portOwner (g.1 + i)
    let mine (g : Nat × Nat) : Bool := (List.range g.2).any (fun i => owner g i == p) &&
      (List.range g.2).all (fun i => owner g i == p || !h.commit.pendStatic.contains (owner g i, 7))
    { h with commit := { h.commit with joined := h.commit.joined.filter (fun g => !mine g) ++ c.joined.filter mine } }
  else h

/-- The sparing maps that a committed image stands for: those in force, and for a fenced die its own (R500, R506). -/
def Hw.mapsOf (h : Hw) (img : List Byte) : List (Nat × W64) :=
  h.mapsInForce.map (fun e => match findReg e.1 with
    | some r => if h.fenced (.core r.die 0) then (e.1, h.imgReg img 3 .DCTL_LCMAP r.die 0 r.idx) else e
    | none => e)

/-- The image commits (R497 to R499): static sections apply or wait, and MREG01 is extended (R577). -/
def Hw.cfgCommit (h : Hw) : Hw :=
  let img := h.activeImg
  let st := h.commit.changed.filter (fun t => classOf t == 3)
  let parts := ((List.range 12).map (· + 1)).flatMap (fun p => (st.filter (fun t => (t == 1 || t == 7) && (scopeOf img t).testBit p)).map (fun t => (p, t)))
  let (wait, now) := parts.partition (fun e => has h.partUp e.1)
  let pkg := st.any (fun t => (t != 1 && t != 7) || (scopeOf img t).testBit 0)
  let h0 : Hw := { h with commit := { h.commit with pendStatic := h.commit.pendStatic ++ wait } }
  let h1 := now.foldl (fun (x : Hw) e => x.applyStatic img e.1 e.2) h0
  let h2 : Hw := { h1 with commit := { h1.commit with changed := [], sparing := some (h1.mapsOf img) }, committed := true }
  let mask := h2.commit.pendStatic.foldl (fun m e => m ||| 2 ^ e.1) 0
  let v := setWbits (h2.reg .CFG_STAT 0 0 0) 44 33 (mask / 2)
  let v1 := if pkg then setWbits v 54 54 1 else v
  (((h2.setReg .CFG_STAT 0 0 0 v1).cfgResult 0).setReg .CFG_CONFIRM 0 0 0 0).mregExt 1 2 (Config.sha384 img) |>.cfgEnter 0

/-- A partition's pending static sections apply at its reset (R498). -/
def Hw.staticAtReset (h : Hw) (p : Nat) : Hw :=
  let mine := h.commit.pendStatic.filter (fun e => e.1 == p)
  let h1 := mine.foldl (fun (x : Hw) e => x.applyStatic x.activeImg e.1 e.2) h
  let h2 : Hw := { h1 with commit := { h1.commit with pendStatic := h1.commit.pendStatic.filter (fun e => e.1 != p) } }
  h2.setReg .CFG_STAT 0 0 0 (setWbits (h2.reg .CFG_STAT 0 0 0) (32 + p) (32 + p) 0)

/-- Every member of the confirm set has confirmed (R499). -/
def Hw.confirmCheck (h : Hw) : Hw :=
  let v := h.reg .CFG_CONFIRM 0 0 0
  let need := wbits v 28 16
  if h.cfgState = 4 ∧ wbits v 12 0 &&& need = need then h.cfgCommit else h

/-- A partition stops running and leaves the confirm set (R499). -/
def Hw.confirmLeave (h : Hw) (p : Nat) : Hw :=
  if h.cfgState = 4 then (h.setReg .CFG_CONFIRM 0 0 0 (setWbits (h.reg .CFG_CONFIRM 0 0 0) (16 + p) (16 + p) 0)).confirmCheck else h

/-- An apply or a rollback goes on once no staged section waits (R497). -/
def Hw.cfgNext (h : Hw) : Hw := if h.cfgState = 3 ∧ h.stagedWait = 0 then h.awaitConfirm else h

/-- Live sections apply and staged sections start (R497). -/
def Hw.startSections (h : Hw) (img : List Byte) (l : List Nat) : Hw :=
  let h1 := (l.filter (fun t => classOf t == 1)).foldl (fun (x : Hw) t => x.applyLive img t) h
  (l.filter (fun t => classOf t == 2)).foldl (fun (x : Hw) t => x.startStaged img t) h1

/-- A rollback begins (R497, R510): the previous image's sparing maps become those in force; its live sections that differ apply, and its staged ones start. -/
def Hw.rollback (h : Hw) (result : Nat) : Hw :=
  let new := h.activeImg
  let old := h.otherImg
  let l := ((List.range 15).map (· + 1)).filter (fun t => classOf t != 3 && t != 3 && decide ((secOf new t).map (·.digest) ≠ (secOf old t).map (·.digest)))
  let h1 : Hw := { h with
    applying := l,
    commit := { h.commit with rollResult := result, changed := [], sparing := some h.mapsInForce, dieMoves := [], portMoves := [], engMoves := [], gibQueue := [] } }
  let h2 := (h1.setReg .CFG_STAT 0 0 0 (setWbits (h1.reg .CFG_STAT 0 0 0) 15 1 0)).setReg .CFG_CONFIRM 0 0 0 0
  (h2.cfgEnter 5).startSections old l

/-- The rollback has ended (R497): the previous image is the active one again. -/
def Hw.rolledBack (h : Hw) : Hw :=
  if h.cfgState = 5 ∧ h.stagedWait = 0 then
    let act := h.reg .CFG_ACTSEQ 0 0 0
    let h1 : Hw := { h with applying := [] }
    let h2 := (h1.setReg .CFG_ACTSEQ 0 0 0 (h1.reg .CFG_PREVSEQ 0 0 0)).setReg .CFG_PREVSEQ 0 0 0 act
    ((h2.setFld .CFG_STAT 0 0 0 F.CFG_STAT_ACTIVE_BANK (1 - h2.activeBank)).cfgResult h.commit.rollResult).cfgEnter 0
  else h

/-- Migrations of the SPARING section go on; one that fails rolls the image back (R510). -/
def Hw.sparingStep (h : Hw) : Hw :=
  if h.cfgState = 3 ∧ h.stagedWait.testBit 3 then
    match h.sparingGo h.activeImg with
    | (h1, true) => h1.rollback 7
    | (h1, false) => h1
  else h

/-- A staged section has reached its safe points (R504). -/
def Hw.stagedApply (h : Hw) (t : Nat) : Hw :=
  if (h.cfgState = 3 ∨ h.cfgState = 5) ∧ h.stagedWait.testBit t then
    let img := h.targetImg
    let h1 := h.stagedUnits img t
    if h1.stagedDone img t then
      (({ h1 with applying := rem h1.applying t } : Hw).setStaged t false).cfgNext
    else if t = 3 then h1.sparingStep else h1
  else h

/-- APPLY (R495, R497): HIGHSEQ is set, the loaded bank becomes the active one, and every differing section starts. -/
def Hw.cfgApply (h : Hw) : Hw :=
  let old := h.activeImg
  let new := h.otherImg
  let l := ((List.range 15).map (· + 1)).filter (fun t => h.secDiffers new old t)
  let h1 : Hw := { h with applying := l.filter (fun t => classOf t != 3),
                          commit := { h.commit with changed := l, windowEnd := h.now + 1000000000 * applyS new } }
  let h2 := ((h1.setReg .CFG_HIGHSEQ 0 0 0 (BitVec.ofNat 64 (imgSeq new))).setReg .CFG_PREVSEQ 0 0 0 (h.reg .CFG_ACTSEQ 0 0 0)).setReg .CFG_ACTSEQ 0 0 0 (BitVec.ofNat 64 (imgSeq new))
  let h3 := (h2.setFld .CFG_STAT 0 0 0 F.CFG_STAT_ACTIVE_BANK (1 - h2.activeBank)).cfgEnter 3
  ((h3.startSections new l).sparingStep).cfgNext

/-! Loading (R497, R501). -/

/-- The structure image component at CFG_LOADADDR, with the writer's identity (R501, R572, R573): the components lie after the manifest as in a slot (log entry 33); none where anything is refused or does not verify. -/
def Hw.readLive (h : Hw) (w : Who) (base : Nat) : Option (List Byte) :=
  match h.agentRead w.part.val w.world base 2816 with
  | none => none
  | some hd =>
    match h.agentRead w.part.val w.world base (min (bodyLen hd + 4723) 0x40000) with
    | none => none
    | some m =>
      if h.manifestCheck m none ≠ 0 then none
      else match compOf m 2 0 with
        | none => none
        | some c =>
          match h.agentRead w.part.val w.world (base + c.foff - 0x10000) c.len with
          | none => none
          | some img => if compGood m c img then some img else none

/-- The load has read the image and checked it (R494, R497). -/
def Hw.cfgLoaded (h : Hw) : Hw :=
  if h.cfgState ≠ 1 then h
  else match h.readLive (h.commit.loader.getD structureEngine) (h.fld .CFG_LOADADDR 0 0 0 F.CFG_LOADADDR_BASE <<< 12) with
    | none => (h.cfgResult 3).cfgEnter 0
    | some img =>
      let h1 := h.setBank (1 - h.activeBank) img
      match h.imgCheck img h.activeImg true with
      | 0 => (h1.cfgResult 0).cfgEnter 2
      | r => (h1.cfgResult r).cfgEnter 0

/-- A command bit of CFG_CTL (R497, R500): 1 LOAD, 2 APPLY, 3 ROLLBACK, 4 ABORT. -/
def Hw.cfgBit (h : Hw) (w : Who) (bit : Nat) : Hw :=
  let st := h.cfgState
  match bit with
  | 1 => if st = 0 then ({ h with commit := { h.commit with loader := some w } } : Hw).cfgEnter 1 else h.cfgReject (regAddr .CFG_CTL 0 0 0) w 6
  | 2 => if st = 2 then h.cfgApply else h.cfgReject (regAddr .CFG_CTL 0 0 0) w 6
  | 3 => if st = 3 ∨ st = 4 then h.rollback 0xA else h.cfgReject (regAddr .CFG_CTL 0 0 0) w 6
  | _ => if st = 2 then (h.setBank (1 - h.activeBank) []).cfgEnter 0 else h.cfgReject (regAddr .CFG_CTL 0 0 0) w 6

/-- A write of CFG_CTL: each command bit that is 1 acts; all read 0. -/
def Hw.cfgCtlWrite (h : Hw) (w : Who) (v : W64) : Hw :=
  ([1, 2, 3, 4].filter (fun b => wbit v b)).foldl (fun (x : Hw) b => x.cfgBit w b) h

/-- A command row of CFG_CTL. -/
def cfgCmd (bit : Nat) (who : Who) (s : State) : Host.Outcome State Fault Refusal :=
  s.onHw (fun h => h.permit (RegRef.at .CFG_CTL 0) who (BitVec.ofNat 64 (2 ^ bit)) (fun h => h.cfgCtlWrite who (BitVec.ofNat 64 (2 ^ bit))))

/-- CFG_LOAD (R497). -/
def execCfgLoad (who : Who) (s : State) : Host.Outcome State Fault Refusal := cfgCmd 1 who s

/-- CFG_LOAD_DONE (R494). -/
def execCfgLoadDone (s : State) : Host.Outcome State Fault Refusal := s.onHw (fun h => h.cfgLoaded)

/-- CFG_APPLY (R497). -/
def execCfgApply (who : Who) (s : State) : Host.Outcome State Fault Refusal := cfgCmd 2 who s

/-- CFG_ROLLBACK (R497). -/
def execCfgRollback (who : Who) (s : State) : Host.Outcome State Fault Refusal := cfgCmd 3 who s

/-- CFG_ABORT (R497). -/
def execCfgAbort (who : Who) (s : State) : Host.Outcome State Fault Refusal := cfgCmd 4 who s

/-- STAGED_SECTION_APPLY (R504). -/
def execStagedSectionApply (type : BitVec 4) (s : State) : Host.Outcome State Fault Refusal := s.onHw (fun h => h.stagedApply type.toNat)

/-- APPLY_TIMEOUT (R497): after APPLY_S seconds in APPLYING. -/
def execApplyTimeout (s : State) : Host.Outcome State Fault Refusal := s.onHw (fun h => if h.cfgState = 3 ∧ h.commit.windowEnd ≤ h.now then h.rollback 7 else h)

/-- A write of CFG_CONFIRM (R499): outside AWAIT_CONFIRM it has no effect. -/
def Hw.confirmWrite (h : Hw) (half : Half) (v : W64) : Hw :=
  if h.cfgState = 4 then
    let have' := wbits (v &&& halfMask half) 12 0
    let old := h.reg .CFG_CONFIRM 0 0 0
    (h.setReg .CFG_CONFIRM 0 0 0 (setWbits old 12 0 (wbits old 12 0 ||| have'))).confirmCheck
  else h

/-- CFG_CONFIRM (R499). -/
def execCfgConfirm (who : Who) (half : Half) (v : W64) (s : State) : Host.Outcome State Fault Refusal :=
  s.onHw (fun h => h.permit (RegRef.at .CFG_CONFIRM 0) who (v &&& halfMask half) (fun h => h.confirmWrite half v))

/-- CONFIRM_WINDOW_EXPIRE (R497). -/
def execConfirmWindowExpire (s : State) : Host.Outcome State Fault Refusal := s.onHw (fun h => if h.cfgState = 4 ∧ h.commit.windowEnd ≤ h.now then h.rollback 8 else h)

/-- ROLLBACK_DONE (R497). -/
def execRollbackDone (s : State) : Host.Outcome State Fault Refusal := s.onHw (fun h => h.rolledBack)

/-! Explicit apply (R502). -/

/-- The staged values of one block instance are applied. -/
def Hw.applyBlock (h : Hw) (base : Nat) : Hw :=
  (h.shadow.filter (fun e => decide (base ≤ e.1 ∧ e.1 < base + 0x100000))).foldl (fun (x : Hw) e =>
    match findReg e.1 with
    | some r => if r.name = .SKM_QBASE then x.queueBaseApply (4 * r.inst + r.idx) else x.applyShadow r
    | none => x) h

/-- A write of CFG_APPLY (R501, R502). -/
def Hw.explicitWrite (h : Hw) (w : Who) (half : Half) (v : W64) : Hw :=
  let h1 := (h.writeFields (RegRef.at .CFG_APPLY 0) w half v).setFld .CFG_APPLY 0 0 0 F.CFG_APPLY_GO 0
  let base := h1.fld .CFG_APPLY 0 0 0 F.CFG_APPLY_BLOCK <<< 20
  if wbit (v &&& halfMask half) 63 then
    (if h.cfgState = 3 ∨ h.cfgState = 5 then h1.cfgReject (regAddr .CFG_APPLY 0 0 0) w 6
     else if h1.blockOwner base = 0 then h1.cfgReject (regAddr .CFG_APPLY 0 0 0) w 7
     else h1.applyBlock base)
  else h1

/-- EXPLICIT_APPLY (R502). -/
def execExplicitApply (who : Who) (half : Half) (v : W64) (s : State) : Host.Outcome State Fault Refusal :=
  s.onHw (fun h => h.permit (RegRef.at .CFG_APPLY 0) who (merged half (h.reg .CFG_APPLY 0 0 0) v) (fun h => h.explicitWrite who half v))

/-! Dies and GiBs (R508, R509). -/

/-- Every thread of a die is offline (R508 step 1). -/
def Hw.dieOffline (h : Hw) (die : Nat) : Bool := decide (h.reg .EVR_ONLINE 0 0 (die - 1) = 0)

/-- A die takes its new owner (R452, R508, R71, R592): its cores' state is cleared, the meter learns the owner, and the die is offered to its new partition; a fenced die, or an excluded one, does not wake. -/
def Hw.dieMove (h : Hw) (die o : Nat) : Hw :=
  let h1 := h.advanceStops (dieStops die)
  let h2 : Hw := { h1 with
    dieOwner := put h1.dieOwner die o,
    cores := h1.cores.filter (fun e => decide (e.1 / 64 ≠ die)),
    thr := h1.thr.filter (fun e => decide (dieOfThread e.1 ≠ die)),
    commit := { h1.commit with dieMoves := h1.commit.dieMoves.filter (fun e => e.1 != die) } }
  let h3 := h2.ownerSend die o
  if o = 0 ∨ h3.commit.excluded.contains die ∨ h3.fenced (.core die 0) then h3
  else (h3.wake die 36 9 0).raise { source := 16 * (die - 1) + 11, part := o }

/-- The structure engine brings a die to Dust sheet (R508 step 2). -/
def Hw.dustDie (h : Hw) (die : Nat) : Hw :=
  (List.range 37).foldl (fun (x : Hw) nn => (x.setFld .PWR_DOM die 0 nn F.PWR_DOM_REQ 3).actReq die nn) h

/-- DIE_LEAVES_PARTITION (R508): a die whose threads are offline goes to Dust sheet and then takes its new owner; for a fenced die the safe point counts as reached (R500). -/
def execDieLeavesPartition (die : CDie) (s : State) : Host.Outcome State Fault Refusal :=
  s.onHw (fun h =>
    let d := die.val + 1
    match look? h.commit.dieMoves d with
    | none => h
    | some o =>
      if h.fenced (.core d 0) then h.dieMove d o
      else if !h.dieOffline d then h
      else if h.domCur d 36 = 3 then
        (if (dieStops d).all h.mayChangeRole then h.dieMove d o else h)
      else h.dustDie d)

/-- GIB_OWNER_CHANGE (R509 steps 1 and 2): the GiB begins its move; one that is still in an earlier transition waits. -/
def execGibOwnerChange (gib : BitVec 18) (s : State) : Host.Outcome State Fault Refusal :=
  s.onHw (fun h =>
    match look? h.commit.gibQueue gib.toNat with
    | none => h
    | some o =>
      if h.gibMoves.any (fun m => m.gib == gib.toNat) then h
      else ({ h with commit := { h.commit with gibQueue := del h.commit.gibQueue gib.toNat } } : Hw).gibStart gib.toNat o .owner)

/-- GIB_RELEASE_SWEEP_DONE (R509 step 3). -/
def execGibReleaseSweepDone (gib : BitVec 18) (s : State) : Host.Outcome State Fault Refusal := s.onHw (fun h => h.gibSwept gib.toNat)

/-! Migrations (R74, R75, R510). -/

/-- MIGRATE_START (R74). -/
def execMigrateStart (who : Who) (die : CDie) (v : W64) (s : State) : Host.Outcome State Fault Refusal :=
  s.onHw (fun h => h.permit (RegRef.at .DCTL_MIGRATE (die.val + 1)) who v (fun h => h.migrateWrite who (die.val + 1) .full v))

/-- MIGRATION_SOURCE_CLEANED (R75 steps 4 and 5). -/
def execMigrationSourceCleaned (die : CDie) (s : State) : Host.Outcome State Fault Refusal := s.onHw (fun h => h.migClean (die.val + 1))

/-- MIGRATION_DONE (R75 steps 6 to 8, R78); one of the SPARING section that fails rolls the image back, and the next one starts (R510). -/
def execMigrationDone (die : CDie) (s : State) : Host.Outcome State Fault Refusal :=
  s.onHw (fun h =>
    match h.migFinish (die.val + 1) with
    | none => h
    | some (h1, m, r) =>
      if m.byImage && decide (r ≠ 0) && decide (h1.cfgState = 3) then h1.rollback 7 else h1.sparingStep)

end Sys2Proof.Machine
end

