-- ==== Sys2Proof/Machine/Crypt.lean ====
section
/-! DEFINITION. Memory encryption: AES-256-XTS over 64 B lines, and what the memory devices hold (spec/08_memory_tiers.md R306 to R309). `Hw.mem` is the plaintext that every agent sees (log entry 62). -/

namespace Sys2Proof.Machine

/-- A tweak multiplied by α in GF(2^128), bytes in little-endian order (R307). -/
def alphaMul (t : BitVec 128) : BitVec 128 := (t <<< 1) ^^^ (if t.msb then 0x87 else 0)

/-- A tweak multiplied by α^j. -/
def alphaPow (t : BitVec 128) : Nat → BitVec 128
  | 0 => t
  | j + 1 => alphaMul (alphaPow t j)

/-- The AES key that encrypts the data blocks, the first of a memory key's two (R306, R564). -/
def dataKey (k : BitVec 512) : BitVec 256 := k.extractLsb' 0 256

/-- The AES key that encrypts the tweak. -/
def tweakKey (k : BitVec 512) : BitVec 256 := k.extractLsb' 256 256

/-- Block `j` of a line, bytes 16 j to 16 j + 15, encrypted (R307). -/
def xtsBlock (k : BitVec 512) (line j : Nat) (p : BitVec 128) : BitVec 128 :=
  let t := alphaPow (Config.aes256 (tweakKey k) (BitVec.ofNat 128 line)) j
  Config.aes256 (dataKey k) (p ^^^ t) ^^^ t

/-- A line's 64 bytes encrypted under a key (R307). -/
def xtsLine (k : BitVec 512) (line : Nat) (d : BitVec 512) : BitVec 512 :=
  xtsBlock k line 3 (d.extractLsb' 384 128) ++ xtsBlock k line 2 (d.extractLsb' 256 128) ++
    xtsBlock k line 1 (d.extractLsb' 128 128) ++ xtsBlock k line 0 (d.extractLsb' 0 128)

/-- The key of a line (R306): that of the partition that owns its GiB, which the controllers and the port dies hold in their slots (R309); none while no partition owns it. -/
def Hw.lineKey (h : Hw) (line : Nat) : Option (BitVec 512) :=
  let p := h.gibOwner (line >>> 24)
  if p ≤ 12 then look? h.keys p else none

/-- What the DRAM channel or the CXL device holds of a line whose coherent value has been written to it (R306, R308). -/
def Hw.storedLine (h : Hw) (line : Nat) : Option (BitVec 512) :=
  (h.lineKey line).map (fun k => xtsLine k line (BitVec.ofNat 512 (h.readNum (line <<< 6) 64)))

end Sys2Proof.Machine
end

