-- ==== Sys2Proof/Machine/Secure.lean ====
section
/-! DEFINITION. The secure world outside the cores: the watchdog, the end of activations, the state of secure services, secure memory and engines, and the memory keys (spec/15_secure_world.md R545, R546, R554 to R565). -/

namespace Sys2Proof.Machine

/-- WD_MS of a partition, in ns; 0 acts as 1 (R545, R554). -/
def Hw.wdNs (h : Hw) (p : Nat) : Nat := 1000000 * max 1 (h.fld .SEC_SWCTL 0 0 (p - 1) F.SEC_SWCTL_WD_MS)

/-- SECURE_WATCHDOG (R554): the count of a thread's open activation has reached the limit in force. -/
def execSecureWatchdog (t : Gtn) (s : State) : Host.Outcome State Fault Refusal :=
  s.onHw (fun h =>
    match (h.thread t.val).act with
    | some a =>
      if !a.wdRaised && decide (a.started + h.wdNs (h.partOf t.val) ≤ h.now) then
        (h.onThread t.val (fun x => { x with act := some { a with wdRaised := true } })).raise
          { source := 16 * (dieOfThread t.val - 1) + 12, part := h.partOf t.val, thread := some t.val }
      else h
    | none => h)

/-- A write of CORE_SECACT (R555): an END bit of a thread with no open activation clears. -/
def Hw.secactWrite (h : Hw) (w : Who) (die pcore : Nat) (half : Half) (v : W64) : Hw :=
  let h1 := h.writeFields (RegRef.at .CORE_SECACT die pcore) w half v
  let x := h1.reg .CORE_SECACT die pcore 0
  h1.setReg .CORE_SECACT die pcore 0
    (setWbits (setWbits x 16 16 (b2n (wbit x 16 && wbit x 8))) 17 17 (b2n (wbit x 17 && wbit x 9)))

/-- ACTIVATION_END_ARM (R555). -/
def execActivationEndArm (who : Who) (die : CDie) (pcore : PCore) (v : W64) (s : State) : Host.Outcome State Fault Refusal :=
  s.onHw (fun h => h.permit (RegRef.at .CORE_SECACT (die.val + 1) pcore.val) who v (fun h => h.secactWrite who (die.val + 1) pcore.val .full v))

/-- The gate record area of a partition: its base and its GiBs (R545). -/
def Hw.grecBase (h : Hw) (p : Nat) : Nat := h.fld .SEC_GREC 0 0 (p - 1) F.SEC_GREC_BASE <<< 12

/-- See `Hw.grecBase`. -/
def Hw.grecGibs (h : Hw) (p : Nat) : List Nat := [h.grecBase p >>> 30, (h.grecBase p + 1966079) >>> 30]

/-- Every byte of the gate record area lies in the partition's secure GiBs (R546). -/
def Hw.grecSecure (h : Hw) (p : Nat) : Bool := (h.grecGibs p).all (fun g => decide (h.gibOwner g = p) && h.gibSecure g)

/-- STATE of a partition's secure services; 0b11 acts as 0b10 (R545). -/
def swState (v : Nat) : Nat := min 2 v

/-- The secure-end event on every thread of a partition with an open activation (R556). -/
def Hw.secureEnd (h : Hw) (p : Nat) : Hw :=
  ((List.range 768).filter (fun t => decide (h.partOf t = p) && (h.thread t).act.isSome)).foldl (fun (x : Hw) t =>
    x.raise { source := 16 * (dieOfThread t - 1) + 13, part := p, thread := some t }) h

/-- A write of SEC_SWCTL (R546, R556). -/
def Hw.swctlWrite (h : Hw) (w : Who) (p : Nat) (half : Half) (v : W64) : Hw :=
  let old := h.reg .SEC_SWCTL 0 0 (p - 1)
  let nv := merged half old v
  let refuse := decide (wbits nv 63 62 = 1) && decide (wbits old 63 62 ≠ 1) && !h.grecSecure p
  let h1 := h.writeFields (RegRef.at .SEC_SWCTL 0 0 (p - 1)) w half (if refuse then setWbits v 63 62 (wbits old 63 62) else v)
  let h2 := if refuse then h1.cfgReject (regAddr .SEC_SWCTL 0 0 (p - 1)) w 5 else h1
  if swState (wbits old 63 62) ≠ 2 ∧ swState (h2.fld .SEC_SWCTL 0 0 (p - 1) F.SEC_SWCTL_STATE) = 2 then h2.secureEnd p else h2

/-- SECURE_STATE_WRITE (R546, R556). -/
def execSecureStateWrite (who : Who) (p : PartIx) (half : Half) (v : W64) (s : State) : Host.Outcome State Fault Refusal :=
  s.onHw (fun h => h.permit (RegRef.at .SEC_SWCTL 0 0 p.val) who v (fun h => h.swctlWrite who (p.val + 1) half v))

/-- A command of SEC_RNGCMD starts (R546, R560, R561). -/
def Hw.rngStart (h : Hw) (w : Who) (p op g : Nat) : Hw :=
  let res (h : Hw) (r : Nat) : Hw := h.setFld .SEC_RNGCMD 0 0 (p - 1) F.SEC_RNGCMD_RESULT r
  if op ≠ 1 ∧ op ≠ 2 then h
  else if h.gibOwner g ≠ p then res h 1
  else if op = 2 ∧ (h.grecGibs p).contains g ∧ swState (h.fld .SEC_SWCTL 0 0 (p - 1) F.SEC_SWCTL_STATE) = 1 then
    (res h 2).cfgReject (regAddr .SEC_RNGCMD 0 0 (p - 1)) w 5
  else (h.setFld .SEC_RNGCMD 0 0 (p - 1) F.SEC_RNGCMD_BUSY 1).gibStart g p (if op = 1 then .mark else .unmark)

/-- A write of SEC_RNGCMD: with OP nonzero while BUSY is 1 it is discarded (R560). -/
def Hw.rngcmdWrite (h : Hw) (w : Who) (p : Nat) (half : Half) (v : W64) : Hw :=
  let op := wbits (v &&& halfMask half) 62 61
  if op ≠ 0 ∧ h.flag .SEC_RNGCMD 0 0 (p - 1) F.SEC_RNGCMD_BUSY then h
  else
    let h1 := h.writeFields (RegRef.at .SEC_RNGCMD 0 0 (p - 1)) w half v
    h1.rngStart w p op (h1.fld .SEC_RNGCMD 0 0 (p - 1) F.SEC_RNGCMD_GIB)

/-- A row of SEC_RNGCMD. -/
def rngCmd (op : Nat) (who : Who) (p : PartIx) (gib : BitVec 18) (s : State) : Host.Outcome State Fault Refusal :=
  let v : W64 := setWbits (setWbits 0 62 61 op) 17 0 gib.toNat
  s.onHw (fun h => h.permit (RegRef.at .SEC_RNGCMD 0 0 p.val) who v (fun h => h.rngcmdWrite who (p.val + 1) .full v))

/-- MARK_SECURE (R561). -/
def execMarkSecure (who : Who) (p : PartIx) (gib : BitVec 18) (s : State) : Host.Outcome State Fault Refusal := rngCmd 1 who p gib s

/-- UNMARK_SECURE (R561). -/
def execUnmarkSecure (who : Who) (p : PartIx) (gib : BitVec 18) (s : State) : Host.Outcome State Fault Refusal := rngCmd 2 who p gib s

/-- A write of SEC_SENG (R562): a partition changes only the bits of its own engines. -/
def Hw.sengWrite (h : Hw) (w : Who) (half : Half) (v : W64) : Hw :=
  let old := h.reg .SEC_SENG 0 0 0
  let nv := if w.part.val = 0 then v
    else (List.range 56).foldl (fun (x : W64) n => if look 0 h.engOwner n = w.part.val then x else setWbits x n n (b2n (wbit old n))) v
  h.writeFields (RegRef.at .SEC_SENG 0) w half nv

/-- SECURE_ENGINE_RESERVE (R562). -/
def execSecureEngineReserve (who : Who) (half : Half) (v : W64) (s : State) : Host.Outcome State Fault Refusal :=
  s.onHw (fun h => h.permit (RegRef.at .SEC_SENG 0) who v (fun h => h.sengWrite who half v))

/-- A partition's memory key is drawn anew (R564): a free value whose two AES keys differ (log entry 4). -/
def Hw.drawKey (h : Hw) (p : Nat) : Hw :=
  let (k, h1) := h.fresh 512
  let k' := if dataKey k = tweakKey k then k ^^^ 1 else k
  { h1 with keys := put h1.keys p k' }

/-- Every partition's key is replaced (R565). -/
def Hw.drawKeys (h : Hw) : Hw := (List.range 13).foldl (fun (x : Hw) p => x.drawKey p) h

/-- A partition's key is replaced at its reset, and its GiBs are initialised (R565). -/
def Hw.rekey (h : Hw) (p : Nat) : Hw :=
  ((List.range gibCount).filter (fun g => h.gibOwner g == p)).foldl (fun (x : Hw) g => x.gibStart g p .rekey) (h.drawKey p)

end Sys2Proof.Machine
end

