-- ==== Sys2Proof/Machine/SkimIsa.lean ====
section
/-! DEFINITION. The Skim-2 instruction set and its compatibility mode: registers, issue, loops, delay slots, program faults, halts and restart (spec/10_skim_programming.md R373 to R424). An instruction command stands for the instruction at the piece's PC. -/

namespace Sys2Proof.Machine

/-! Registers (R373). -/

/-- A scalar register of a piece: s0 reads as zero. -/
def EngRun.readS (r : EngRun) (i : SReg) : W64 := if i = 0 then 0 else look 0 r.s i.toNat

/-- A scalar register written; a write to s0 is discarded. -/
def EngRun.writeS (r : EngRun) (i : SReg) (v : W64) : EngRun := if i = 0 then r else { r with s := put r.s i.toNat v }

/-- A vector register of a piece. -/
def EngRun.readW (r : EngRun) (i : SReg) : V512 := look 0 r.w i.toNat

/-- A vector register written. -/
def EngRun.writeW (r : EngRun) (i : SReg) (v : V512) : EngRun := { r with w := put r.w i.toNat v }

/-- A field that names a w register must have bit 3 clear (R389). -/
def badW (i : SReg) : Bool := i.getLsbD 3

/-- A loop level (R412). -/
def EngRun.lvl (r : EngRun) (n : Nat) : LoopLvl := look {} r.loops n

/-! Halts (R421 to R424). -/

/-- A halt at the current boundary, with its record (R421 to R423); the restart of a delay slot is its branch (R422). A piece of a secure queue does not halt. -/
def Hw.skHalt (h : Hw) (n cause : Nat) : Hw :=
  match look? h.run n with
  | none => h
  | some r =>
    if r.halted || r.stop.isSome || h.plat.resetLow || (h.job r.piece.slot).world then h
    else
      let (die, inst) := engPlace n
      let ds := r.slot.isSome
      let pc := match r.slot with
        | some s => s.pc
        | none => r.pc
      let bp := r.bankPend && !ds
      let v := F.SKM_RSTAT_VALID.set (F.SKM_RSTAT_RPC.set (F.SKM_RSTAT_OLDBANK.set (F.SKM_RSTAT_BP.set
        (F.SKM_RSTAT_DS.set 0 (b2n ds)) (b2n bp)) (if bp then r.bankCur else 0)) pc) 1
      let h1 := ((h.setRun n { r with halted := true, stepping := false, pc := pc, slot := none }).setReg .SKM_RSTAT die inst 0 v)
      ((h1.setFld .SKM_DBGCTL die inst 0 F.SKM_DBGCTL_HCAUSE cause).setFld .SKM_DBGCTL die inst 0 F.SKM_DBGCTL_HALTED 1).engRaise n

/-- A resume (R422 to R424): for one instruction when `stepping`; from the record of a delay slot, for its branch and the slot. -/
def Hw.skResume (h : Hw) (n : Nat) (stepping : Bool) : Hw :=
  match look? h.run n with
  | none => h
  | some r =>
    if !r.halted then h
    else
      let (die, inst) := engPlace n
      let ds := h.flag .SKM_RSTAT die inst 0 F.SKM_RSTAT_DS
      let h1 := (h.setRun n { r with halted := false, stepping := stepping, bpSkip := true, dsRun := ds }).setReg .SKM_RSTAT die inst 0 0
      (h1.setFld .SKM_DBGCTL die inst 0 F.SKM_DBGCTL_HCAUSE 0).setFld .SKM_DBGCTL die inst 0 F.SKM_DBGCTL_HALTED 0

/-- A write of SKM_DBGCTL (R421): RESUME and STEP act while halted, HALT while running. -/
def Hw.dbgWrite (h : Hw) (n : Nat) (v : W64) : Hw :=
  let was := ((look? h.run n).map (·.halted)).getD false
  if was then (if wbit v 2 then h.skResume n true else if wbit v 1 then h.skResume n false else h)
  else if wbit v 0 then h.skHalt n 1 else h

/-- A breakpoint stands at the next instruction (R421). -/
def Hw.atBreakpoint (h : Hw) (n : Nat) : Bool :=
  let (die, inst) := engPlace n
  match look? h.run n with
  | none => false
  | some r =>
    let v := h.reg .SKM_BPADDR die inst 0
    wbit v 63 && !r.bpSkip && decide (wbits v 12 1 * 2 = r.pc) && !(h.job r.piece.slot).world

/-! Faults and stops (R420). -/

/-- A program fault is written into SKM_PFAULT, and the engine's source is raised. -/
def Hw.writeFault (h : Hw) (n cause addr bank : Nat) (r : EngRun) : Hw :=
  let (die, inst) := engPlace n
  let old := h.reg .SKM_PFAULT die inst 0
  let v := F.SKM_PFAULT_VALID.set (F.SKM_PFAULT_OVW.set (F.SKM_PFAULT_CAUSE.set (F.SKM_PFAULT_ADDR.set (F.SKM_PFAULT_BANK.set
    (F.SKM_PFAULT_PIECE.set (F.SKM_PFAULT_PC.set 0 r.pc) r.piece.num) bank) addr) cause) (b2n (wbit old 63))) 1
  (h.setReg .SKM_PFAULT die inst 0 v).engRaise n

/-! Issue (R404, R411, R413 to R415). -/

/-- What the placement rules and compatibility mode ask of an instruction: its length, whether it is Skim-2 only, whether it may not stand in a delay slot, whether it may not be a loop end, and the scalar registers it writes. -/
structure SkMeta where
  len : Nat := 4
  skim2 : Bool := false
  noSlot : Bool := false
  noEnd : Bool := false
  wr : List SReg := []
  deriving DecidableEq, Repr

/-- The loop levels after the instruction at a PC commits, and where control loops back to (R413). -/
def loopCommit (pc : Nat) (l : List (Nat × LoopLvl)) : List (Nat × LoopLvl) × Option Nat :=
  [2, 1, 0].foldl (fun (a : List (Nat × LoopLvl) × Option Nat) n =>
    let v := look {} a.1 n
    if a.2.isNone ∧ v.lc ≠ 0 ∧ pc = v.le then
      (put a.1 n { v with lc := v.lc - 1 }, if v.lc - 1 ≠ 0 then some v.ls else none)
    else a) (l, none)

/-- An instruction has committed: the loop counts, the PC after a delay slot, the bank of the next instruction, and the end of a step. -/
def Hw.skCommit (h : Hw) (n len : Nat) (old : EngRun) (redirect : Option Nat) : Hw :=
  match look? h.run n with
  | none => h
  | some r =>
    let (loops, back) := loopCommit old.pc r.loops
    let next := match old.slot with
      | some s => s.target
      | none => match back with
        | some x => x
        | none => redirect.getD (old.pc + len)
    let r1 := { r with pc := next % 8192, loops := loops, bankCur := old.bankNew,
                       slot := if old.slot.isSome then none else r.slot, bpSkip := old.dsRun, dsRun := false, got := [] }
    let h1 := h.setRun n r1
    if old.stepping && r1.stop.isNone && !(old.dsRun && r1.slot.isSome) then h1.skHalt n 3 else h1

/-- A run before an instruction, with what its memory accesses have brought or asked for since (R358). -/
def EngRun.keep (old new : EngRun) : EngRun :=
  { old with snap := new.snap, want := new.want, got := new.got, merges := new.merges, pool := new.pool, outSecs := new.outSecs }

/-- An instruction waits in MEM: only its accesses stay under way. -/
def Hw.skWait (h : Hw) (n : Nat) (old : EngRun) : Hw :=
  match look? h.run n with
  | some r => h.setRun n (old.keep r)
  | none => h

/-- The outcome of an instruction's work. -/
def skFinish (n len : Nat) (old : EngRun) (x : SkM (Hw × Option Nat)) : Hw :=
  match x with
  | .ok (h1, t) => h1.skCommit n len old t
  | .error (h1, .wait) => h1.skWait n old
  | .error (h1, .stop p f) =>
    let h2 := match f with
      | some (c, a, b) => h1.writeFault n c a b old
      | none => h1
    h2.stopRun n p

/-- An instruction breaks a placement rule (R411, R415). -/
def placeBad (m : SkMeta) (r : EngRun) : Bool :=
  (match r.slot with
   | some s => m.noSlot || m.wr.any (fun d => d != 0 && s.reads.contains d.toNat)
   | none => false) ||
  ((m.noEnd || r.slot.isSome) && (List.range 3).any (fun i => decide ((r.lvl i).lc ≠ 0) && decide ((r.lvl i).le = r.pc)))

/-- An instruction issues on an engine: it is fetched through the piece's program lines (R348, R356), checked, and does its work; nothing happens while the engine does not run. -/
def skIssue (n : Nat) (m : SkMeta) (illegal : Bool) (body : Hw → EngRun → Job → SkM (Hw × Option Nat)) (h : Hw) : Hw :=
  match look? h.run n with
  | none => h
  | some r =>
    let j := h.job r.piece.slot
    if r.halted || r.stop.isSome || h.fenced (.eng n) || h.engDown n then h
    else if h.atBreakpoint n then h.skHalt n 2
    else if r.argDue then h.argRead n
    else skFinish n m.len r (do
      if 6144 < r.pc + m.len then .error (h, progFault j r.pc 5 0 0 none)
      let (h1, _) ← h.engRead n .prog 2 (j.progVa + r.pc) m.len
      if illegal || (j.compat && m.skim2) then .error (h1, progFault j r.pc 1 0 0 none)
      if placeBad m r then .error (h1, progFault j r.pc 2 0 0 none)
      match look? h1.run n with
      | none => .ok (h1, none)
      | some r1 =>
        let r2 := { r1 with bankPend := false }
        body (h1.setRun n r2) r2 j)

/-- A bad operand (R420). -/
def badOperand {α : Type} (h : Hw) (r : EngRun) (j : Job) : SkM α := .error (h, progFault j r.pc 6 0 0 none)

/-- The halfword of the program at a PC (R388). -/
def Hw.progHalf (h : Hw) (n : Nat) (r : EngRun) (j : Job) (pc : Nat) : SkM (Hw × Nat) :=
  if 6144 < pc + 2 then .error (h, progFault j r.pc 5 0 0 none)
  else do
    let (h1, bs) ← h.engRead n .prog 2 (j.progVa + pc) 2
    .ok (h1, ofBytes bs)

/-- The length of the instruction at a PC (R388). -/
def Hw.progLen (h : Hw) (n : Nat) (r : EngRun) (j : Job) (pc : Nat) : SkM (Hw × Nat) := do
  let (h1, x) ← h.progHalf n r j pc
  .ok (h1, if x % 4 = 3 then 4 else 2)

/-! Scalar instructions (R390, R394). -/

/-- An instruction that writes one scalar register from the run's registers. -/
def skScalar (n : Nat) (m : SkMeta) (illegal : Bool) (d : SReg) (f : EngRun → W64) : Hw → Hw :=
  skIssue n { m with wr := [d] } illegal (fun h r _ => .ok (h.setRun n (r.writeS d (f r)), none))

/-- The funcs of R103 that major 0x00 accepts (R390). -/
def skAluFunc (func : Nat) : Bool :=
  [0x000, 0x001, 0x002, 0x003, 0x004, 0x005, 0x008, 0x009, 0x00A, 0x00B, 0x010, 0x011, 0x012, 0x013, 0x014, 0x015,
   0x020, 0x021, 0x022].contains func

/-- SKIM_ALU (R390). -/
def execSkimAlu (n : EngNum) (d a b : SReg) (func : BitVec 13) (s : State) : Host.Outcome State Fault Refusal :=
  s.onHw (skScalar n.val {} (!skAluFunc func.toNat) d (fun r => (aluOp func.toNat (r.readS a) (r.readS b)).getD 0))

/-- SKIM_ADDI (R390). -/
def execSkimAddi (n : EngNum) (d a : SReg) (imm : BitVec 17) (s : State) : Host.Outcome State Fault Refusal :=
  s.onHw (skScalar n.val {} false d (fun r => r.readS a + imm.signExtend 64))

/-- A logic immediate (R390). -/
def LogicOp.run (o : LogicOp) (a b : W64) : W64 :=
  match o with
  | .and => a &&& b
  | .or => a ||| b
  | .xor => a ^^^ b

/-- SKIM_LOGIC_IMMEDIATE (R390). -/
def execSkimLogicImmediate (n : EngNum) (op : LogicOp) (d a : SReg) (imm : BitVec 17) (s : State) :
    Host.Outcome State Fault Refusal :=
  s.onHw (skScalar n.val {} false d (fun r => LogicOp.run op (r.readS a) (imm.zeroExtend 64)))

/-- LIS (R390): A and imm17[16] must be 0. -/
def execLis (n : EngNum) (d a : SReg) (imm : BitVec 17) (s : State) : Host.Outcome State Fault Refusal :=
  s.onHw (skScalar n.val {} (a != 0 || imm.getLsbD 16) d (fun r => (r.readS d <<< 16) ||| (imm.zeroExtend 64 &&& 0xFFFF)))

/-- The shift immediates (R390): imm17[7:6] selects, imm17[5:0] is the amount. -/
def skShift (imm : Nat) (a : W64) : W64 :=
  match nbits imm 7 6 with
  | 0 => a <<< (imm % 64)
  | 1 => a >>> (imm % 64)
  | 2 => a.sshiftRight (imm % 64)
  | _ => a.rotateRight (imm % 64)

/-- SKIM_SHIFT_IMMEDIATE (R390): imm17[16:8] must be 0. -/
def execSkimShiftImmediate (n : EngNum) (d a : SReg) (imm : BitVec 17) (s : State) : Host.Outcome State Fault Refusal :=
  s.onHw (skScalar n.val {} (nbits imm.toNat 16 8 != 0) d (fun r => skShift imm.toNat (r.readS a)))

/-- SKIM_CRC32C (R400); the size is the func's low bits. -/
def execSkimCrc32c (n : EngNum) (d a b : SReg) (size : BitVec 2) (s : State) : Host.Outcome State Fault Refusal :=
  s.onHw (skScalar n.val {} false d (fun r => crcOp size (r.readS a) (r.readS b)))

/-- One byte of CRCP (R400). -/
def crcpByte (w : Nat) (reflect : Bool) (poly : Nat) (c : Nat) (x : Byte) : Nat :=
  let mask := 2 ^ w - 1
  if reflect then
    (List.range 8).foldl (fun c _ => if c % 2 = 1 then (c >>> 1) ^^^ poly else c >>> 1) (c ^^^ x.toNat)
  else
    (List.range 8).foldl (fun c _ => if (c >>> (w - 1)) % 2 = 1 then ((c <<< 1) ^^^ poly) &&& mask else (c <<< 1) &&& mask)
      (c ^^^ (x.toNat <<< (w - 8)))

/-- CRCP (R400): width CRCCFG[5:0] + 1, the accumulator masked to it. -/
def crcpOp (cfg poly : W64) (size : BitVec 2) (acc b : W64) : W64 :=
  let w := wbits cfg 5 0 + 1
  BitVec.ofNat 64 ((toBytes (2 ^ size.toNat) b.toNat).foldl (crcpByte w (wbit cfg 8) poly.toNat) (acc.toNat % 2 ^ w))

/-- CRCP (R400). Without reflection its steps need a width of 8 or more, which SWR keeps (R375) and the value of CRCCFG at piece start does not: the result is then a free value of the width (log entry 40). -/
def execCrcp (n : EngNum) (d a b : SReg) (size : BitVec 2) (s : State) : Host.Outcome State Fault Refusal :=
  s.onHw (skIssue n.val { skim2 := true, wr := [d] } false (fun h r _ =>
    let w := wbits r.crccfg 5 0 + 1
    if !wbit r.crccfg 8 && decide (w < 8) then
      let (v, h1) := h.fresh w
      .ok (h1.setRun n.val (r.writeS d (v.setWidth 64)), none)
    else .ok (h.setRun n.val (r.writeS d (crcpOp r.crccfg r.crcpoly size (r.readS a) (r.readS b))), none)))

/-- The helper that a func of major 0x17 names (R391). -/
def skHelper (func : Nat) : Option Helper :=
  match func with
  | 0x010 => some .par
  | 0x011 => some .popc
  | 0x012 => some .brev8
  | 0x013 => some .brev64
  | 0x014 => some .clz
  | 0x015 => some .ctz
  | _ => none

/-- SKIM_BIT_HELPER (R400): B must be 0. -/
def execSkimBitHelper (n : EngNum) (d a b : SReg) (func : BitVec 13) (s : State) : Host.Outcome State Fault Refusal :=
  s.onHw (skScalar n.val {} ((skHelper func.toNat).isNone || b != 0) d
    (fun r => ((skHelper func.toNat).map (fun k => k.result (r.readS a))).getD 0))

/-- HMIX (R399). -/
def hmixOp (a b : W64) : W64 :=
  let x := (a ^^^ b) * 0x6a5d39e1c4b70f93
  let y := (x ^^^ (x >>> 29)) * 0x8f1bc7a35e29d04d
  y ^^^ (y >>> 32)

/-- HMIX (R399). -/
def execHmix (n : EngNum) (d a b : SReg) (s : State) : Host.Outcome State Fault Refusal :=
  s.onHw (skScalar n.val { skim2 := true } false d (fun r => hmixOp (r.readS a) (r.readS b)))

/-! Loads and stores (R395, R396). -/

/-- The bytes and the extension of a load (R395). -/
def loadShape : LoadKind → Nat × Bool
  | .b => (1, true)
  | .h => (2, true)
  | .w => (4, true)
  | .d => (8, false)
  | .bu => (1, false)
  | .hu => (2, false)
  | .wu => (4, false)

/-- A loaded value, extended. -/
def extendLoad (k : LoadKind) (x : Nat) : W64 := if (loadShape k).2 then sextN (8 * (loadShape k).1) x else BitVec.ofNat 64 x

/-- The bytes of a store. -/
def storeSize : StoreKind → Nat
  | .b => 1
  | .h => 2
  | .w => 4
  | .d => 8

/-- A 16-bit engine address: a register plus a signed immediate (R395, R396). -/
def skAddr {w : Nat} (a : W64) (imm : BitVec w) : Nat := (a + imm.signExtend 64).toNat % 65536

/-- SKIM_LOAD (R395). -/
def execSkimLoad (n : EngNum) (k : LoadKind) (d a : SReg) (imm : BitVec 17) (s : State) : Host.Outcome State Fault Refusal :=
  s.onHw (skIssue n.val { wr := [d] } false (fun h r _ => do
    let (h1, bs) ← h.skRead n.val r.bankCur (skAddr (r.readS a) imm) (loadShape k).1
    match look? h1.run n.val with
    | some r1 => .ok (h1.setRun n.val (r1.writeS d (extendLoad k (ofBytes bs))), none)
    | none => .ok (h1, none)))

/-- SKIM_STORE (R395). -/
def execSkimStore (n : EngNum) (k : StoreKind) (d a : SReg) (imm : BitVec 17) (s : State) : Host.Outcome State Fault Refusal :=
  s.onHw (skIssue n.val {} false (fun h r _ => do
    let h1 ← h.skWrites n.val r.bankCur [(skAddr (r.readS a) imm, toBytes (storeSize k) (r.readS d).toNat)]
    .ok (h1, none)))

/-- The lane addresses of a strided access (R396). -/
def strideAddr (x : Nat) (stride : W64) (i : Nat) : Nat := (BitVec.ofNat 64 x + BitVec.ofNat 64 i * stride).toNat % 65536

/-- SKIM_VLD (R396). -/
def execSkimVld (n : EngNum) (d a b : SReg) (off : BitVec 13) (s : State) : Host.Outcome State Fault Refusal :=
  s.onHw (skIssue n.val {} (badW d) (fun h r _ => do
    let x := skAddr (r.readS a) off
    let (h1, bs) ← if b = 0 then h.skRead n.val r.bankCur x 64
      else (List.range 8).foldlM (fun (acc : Hw × List Byte) i => do
        let (h1, l) ← acc.1.skRead n.val r.bankCur (strideAddr x (r.readS b) i) 8
        .ok (h1, acc.2 ++ l)) (h, [])
    match look? h1.run n.val with
    | some r1 => .ok (h1.setRun n.val (r1.writeW d (BitVec.ofNat 512 (ofBytes bs))), none)
    | none => .ok (h1, none)))

/-- SKIM_VST (R396): a fault in any lane writes nothing. -/
def execSkimVst (n : EngNum) (d a b : SReg) (off : BitVec 13) (s : State) : Host.Outcome State Fault Refusal :=
  s.onHw (skIssue n.val {} (badW d) (fun h r _ => do
    let x := skAddr (r.readS a) off
    let bs := toBytes 64 (r.readW d).toNat
    let l := if b = 0 then [(x, bs)] else (List.range 8).map (fun i => (strideAddr x (r.readS b) i, (bs.drop (8 * i)).take 8))
    let h1 ← h.skWrites n.val r.bankCur l
    .ok (h1, none)))

/-! Vector instructions (R391, R397 to R399). -/

/-- The lane size of an esize field. -/
def VxFields.e (f : VxFields) : Nat := 2 ^ f.esize.toNat

/-- The lane operations of R391. -/
def skLaneOp (e func a b : Nat) : Option Nat :=
  let m := 2 ^ (8 * e)
  match func with
  | 0x000 => some ((a + b) % m)
  | 0x001 => some ((a + m - b) % m)
  | 0x002 => some (a &&& b)
  | 0x003 => some (a ||| b)
  | 0x004 => some (a ^^^ b)
  | 0x005 => some (a &&& (b ^^^ (m - 1)))
  | 0x008 => some (if laneS e a < laneS e b then a else b)
  | 0x009 => some (if laneS e a < laneS e b then b else a)
  | 0x00A => some (min a b)
  | 0x00B => some (max a b)
  | _ => none

/-- An instruction that writes one vector register from the run's registers. -/
def skVector (n : Nat) (m : SkMeta) (illegal : Bool) (d : SReg) (f : EngRun → V512) : Hw → Hw :=
  skIssue n m illegal (fun h r _ => .ok (h.setRun n (r.writeW d (f r)), none))

/-- SKIM_VECTOR_ALU (R391). -/
def execSkimVectorAlu (n : EngNum) (f : VxFields) (func : BitVec 11) (s : State) : Host.Outcome State Fault Refusal :=
  s.onHw (skVector n.val {} ((skLaneOp (VxFields.e f) func.toNat 0 0).isNone || badW f.d || badW f.a || badW f.b) f.d
    (fun r => mkLanes (VxFields.e f) (fun i =>
      (skLaneOp (VxFields.e f) func.toNat (lane (VxFields.e f) (r.readW f.a) i) (lane (VxFields.e f) (r.readW f.b) i)).getD 0)))

/-- A lane shift (R391): the amount is s_b mod 8e. -/
def skShiftLane (e func x sh : Nat) : Nat :=
  if func = 0x010 then (x <<< sh) % 2 ^ (8 * e)
  else if func = 0x011 then x >>> sh
  else (laneS e x / 2 ^ sh % 2 ^ (8 * e)).toNat

/-- SKIM_VECTOR_SHIFT (R391). -/
def execSkimVectorShift (n : EngNum) (f : VxFields) (func : BitVec 11) (s : State) : Host.Outcome State Fault Refusal :=
  s.onHw (skVector n.val {} (!([0x010, 0x011, 0x012].contains func.toNat) || badW f.d || badW f.a) f.d
    (fun r => mkLanes (VxFields.e f) (fun i =>
      skShiftLane (VxFields.e f) func.toNat (lane (VxFields.e f) (r.readW f.a) i) ((r.readS f.b).toNat % (8 * VxFields.e f)))))

/-- The comparisons of R391 by the func's low bits: EQ, NE, LT, GE, LTU, GEU. -/
def skCmp (e k a b : Nat) : Option Bool :=
  match k with
  | 0 => some (a == b)
  | 1 => some (a != b)
  | 2 => some (decide (laneS e a < laneS e b))
  | 3 => some (decide (laneS e b ≤ laneS e a))
  | 4 => some (decide (a < b))
  | 5 => some (decide (b ≤ a))
  | _ => none

/-- A vector compare writes a byte mask (R376). -/
def skMask (e : Nat) (f : Nat → Bool) : W64 := mkPred 1 (BitVec.allOnes 64) (fun byte => f (byte / e))

/-- VCMP (R376, R391). -/
def execVcmp (n : EngNum) (f : VxFields) (func : BitVec 11) (s : State) : Host.Outcome State Fault Refusal :=
  s.onHw (skScalar n.val {} ((skCmp (VxFields.e f) (func.toNat - 0x020) 0 0).isNone || decide (func.toNat < 0x020) || badW f.a || badW f.b) f.d
    (fun r => skMask (VxFields.e f) (fun i =>
      (skCmp (VxFields.e f) (func.toNat - 0x020) (lane (VxFields.e f) (r.readW f.a) i) (lane (VxFields.e f) (r.readW f.b) i)).getD false)))

/-- VCMPS (R376, R391): against the low e bytes of s_b. -/
def execVcmps (n : EngNum) (f : VxFields) (func : BitVec 11) (s : State) : Host.Outcome State Fault Refusal :=
  s.onHw (skScalar n.val {} ((skCmp (VxFields.e f) (func.toNat - 0x030) 0 0).isNone || decide (func.toNat < 0x030) || badW f.a) f.d
    (fun r => skMask (VxFields.e f) (fun i =>
      (skCmp (VxFields.e f) (func.toNat - 0x030) (lane (VxFields.e f) (r.readW f.a) i) ((r.readS f.b).toNat % 2 ^ (8 * VxFields.e f))).getD false)))

/-- VCPRS (R397). -/
def execVcprs (n : EngNum) (f : VxFields) (s : State) : Host.Outcome State Fault Refusal :=
  s.onHw (skVector n.val {} (badW f.d || badW f.a) f.d (fun r =>
    let e := VxFields.e f
    let l := (activeLanes e (r.readS f.b)).map (lane e (r.readW f.a))
    mkLanes e (fun i => l.getD i 0)))

/-- SKIM_VBCAST (R397). -/
def execSkimVbcast (n : EngNum) (f : VxFields) (s : State) : Host.Outcome State Fault Refusal :=
  s.onHw (skVector n.val {} (badW f.d) f.d (fun r => mkLanes (VxFields.e f) (fun _ => (r.readS f.a).toNat)))

/-- VEXT (R397): lane B mod (64 / e), zero-extended. -/
def execVext (n : EngNum) (f : VxFields) (s : State) : Host.Outcome State Fault Refusal :=
  s.onHw (skScalar n.val {} (badW f.a) f.d (fun r =>
    BitVec.ofNat 64 (lane (VxFields.e f) (r.readW f.a) (f.b.toNat % laneCount (VxFields.e f)))))

/-- VINS (R397): the other lanes of wd stay. -/
def execVins (n : EngNum) (f : VxFields) (s : State) : Host.Outcome State Fault Refusal :=
  s.onHw (skVector n.val {} (badW f.d) f.d (fun r =>
    mkLanes (VxFields.e f) (fun i =>
      if i = f.b.toNat % laneCount (VxFields.e f) then (r.readS f.a).toNat else lane (VxFields.e f) (r.readW f.d) i)))

/-- VHMIX (R391, R399): 8-byte lanes only. -/
def execVhmix (n : EngNum) (f : VxFields) (s : State) : Host.Outcome State Fault Refusal :=
  s.onHw (skVector n.val { skim2 := true } (f.esize != 3 || badW f.d || badW f.a || badW f.b) f.d (fun r =>
    mkLanes 8 (fun i => (hmixOp (BitVec.ofNat 64 (lane 8 (r.readW f.a) i)) (BitVec.ofNat 64 (lane 8 (r.readW f.b) i))).toNat)))

/-- VCRC32C (R391, R400): esize 0b00 and B 0. -/
def execVcrc32c (n : EngNum) (f : VxFields) (s : State) : Host.Outcome State Fault Refusal :=
  s.onHw (skScalar n.val { skim2 := true } (f.esize != 0 || f.b != 0 || badW f.a) f.d (fun r =>
    (crcBytes ((r.readS f.d).setWidth 32) (toBytes 64 (r.readW f.a).toNat)).zeroExtend 64))

/-- DLOOK (R398): every entry lies in banks 0 to 7 and passes the regions of master 0. -/
def execDlook (n : EngNum) (f : VxFields) (s : State) : Host.Outcome State Fault Refusal :=
  s.onHw (skIssue n.val { skim2 := true } (badW f.d || badW f.a) (fun h r j =>
    let e := VxFields.e f
    let base := (r.readS f.b).toNat % 2 ^ 24
    let addr (i : Nat) : Nat := base + lane e (r.readW f.a) i * e
    if (List.range (laneCount e)).any (fun i => decide (0x80000 < addr i + e)) then badOperand h r j
    else match (List.range (laneCount e)).find? (fun i => !h.spAllowed n.val 0 (addr i) e false) with
      | some i => .error (h, progFault j r.pc 4 (addr i % 65536) (addr i / 65536) none)
      | none => .ok (h.setRun n.val (r.writeW f.d (mkLanes e (fun i =>
          ofBytes ((List.range e).map (fun k => h.spByte n.val (addr i + k)))))), none)))

/-! Special registers (R374, R375). -/

/-- The content of a special register, or none for a number that is not listed. CYC counts engine cycles, which no state of the model decides: a free value (log entry 27). -/
def srdValue (h : Hw) (r : EngRun) (j : Job) (sr : Nat) : Option (Hw × W64) :=
  let lp (i : Nat) : LoopLvl := r.lvl i
  match sr with
  | 0x00 => some (h, BitVec.ofNat 64 r.bankNew)
  | 0x01 => some (h, BitVec.ofNat 64 r.sbase)
  | 0x02 => some (h, BitVec.ofNat 64 ((streamAt (streamSegs j r.piece) r.sbase).elim j.inLen (·.1)))
  | 0x03 => some (h, r.obase)
  | 0x04 => let (v, h1) := h.fresh 64; some (h1, v)
  | 0x08 => some (h, BitVec.ofNat 64 (lp 0).ls)
  | 0x0C => some (h, BitVec.ofNat 64 (lp 1).ls)
  | 0x10 => some (h, BitVec.ofNat 64 (lp 2).ls)
  | 0x09 => some (h, BitVec.ofNat 64 (lp 0).le)
  | 0x0D => some (h, BitVec.ofNat 64 (lp 1).le)
  | 0x11 => some (h, BitVec.ofNat 64 (lp 2).le)
  | 0x0A => some (h, BitVec.ofNat 64 (lp 0).lc)
  | 0x0E => some (h, BitVec.ofNat 64 (lp 1).lc)
  | 0x12 => some (h, BitVec.ofNat 64 (lp 2).lc)
  | 0x14 => some (h, r.crcpoly)
  | 0x15 => some (h, r.crccfg)
  | _ => if 0x20 ≤ sr ∧ sr < 0x40 then
      (let v := look 0 r.wd (sr - 0x20); some (h, if sr % 2 = 0 then setWbits v 5 0 0 else v))
    else none

/-- SRD (R375). -/
def execSrd (n : EngNum) (d : SReg) (sr : BitVec 8) (s : State) : Host.Outcome State Fault Refusal :=
  s.onHw (skIssue n.val { wr := [d] } false (fun h r j =>
    match srdValue h r j sr.toNat with
    | some (h1, v) => .ok (h1.setRun n.val (r.writeS d v), none)
    | none => .error (h, progFault j r.pc 1 0 0 none)))

/-- A window descriptor that sets V breaks R386. -/
def wdBad (a b : W64) : Bool :=
  wbit b 63 && (decide (wbits b 7 0 < 18) || decide (255 < wbits b 7 0 + wbits b 15 8) || wbits a 5 0 != 0 ||
    !(if wbit a 56 then wbits a 63 57 == 0x7F else wbits a 63 57 == 0))

/-- A special register written: none for a bad operand; the number is one that SWR may write. -/
def swrRun (r : EngRun) (sr : Nat) (v : W64) : Option EngRun :=
  let loopReg (i : Nat) (f : LoopLvl → LoopLvl) (ok : Bool) : Option EngRun :=
    if ok then some { r with loops := put r.loops i (f (r.lvl i)) } else none
  let pcOk := !wbit v 0
  match sr with
  | 0x00 => if 0xFF < v.toNat then none else some { r with bankNew := v.toNat, bankPend := true }
  | 0x03 => some { r with obase := v }
  | 0x08 => loopReg 0 (fun l => { l with ls := wbits v 12 0 }) pcOk
  | 0x0C => loopReg 1 (fun l => { l with ls := wbits v 12 0 }) pcOk
  | 0x10 => loopReg 2 (fun l => { l with ls := wbits v 12 0 }) pcOk
  | 0x09 => loopReg 0 (fun l => { l with le := wbits v 12 0 }) pcOk
  | 0x0D => loopReg 1 (fun l => { l with le := wbits v 12 0 }) pcOk
  | 0x11 => loopReg 2 (fun l => { l with le := wbits v 12 0 }) pcOk
  | 0x0A => loopReg 0 (fun l => { l with lc := v.toNat }) (decide (v.toNat < 2 ^ 32))
  | 0x0E => loopReg 1 (fun l => { l with lc := v.toNat }) (decide (v.toNat < 2 ^ 32))
  | 0x12 => loopReg 2 (fun l => { l with lc := v.toNat }) (decide (v.toNat < 2 ^ 32))
  | 0x14 => some { r with crcpoly := v }
  | 0x15 => if !wbit v 8 && decide (wbits v 5 0 < 7) then none else some { r with crccfg := v &&& 0x13F }
  | _ =>
    if sr % 2 = 0 then some { r with wd := put r.wd (sr - 0x20) v }
    else
      let v1 := v &&& 0x800000000007FFFF
      if wdBad (look 0 r.wd (sr - 0x21)) v1 then none else some { r with wd := put r.wd (sr - 0x20) v1 }

/-- The special registers that SWR may write (R374). -/
def swrListed (sr : Nat) : Bool :=
  [0x00, 0x03, 0x08, 0x09, 0x0A, 0x0C, 0x0D, 0x0E, 0x10, 0x11, 0x12, 0x14, 0x15].contains sr || (decide (0x20 ≤ sr) && decide (sr < 0x40))

/-- SWR (R375, R378, R416): a write of BANK or of a loop register may not stand in a delay slot. -/
def execSwr (n : EngNum) (sr : BitVec 8) (a : SReg) (s : State) : Host.Outcome State Fault Refusal :=
  s.onHw (skIssue n.val { noSlot := decide (sr.toNat = 0) || (decide (8 ≤ sr.toNat) && decide (sr.toNat ≤ 0x12)) }
    (!swrListed sr.toNat) (fun h r j =>
      match swrRun r sr.toNat (r.readS a) with
      | some r1 => .ok (h.setRun n.val r1, none)
      | none => badOperand h r j))

/-- The stream advances (R384). -/
def advanceBody (n : Nat) (amount : EngRun → W64) (k : Nat) (h : Hw) (r : EngRun) (j : Job) : SkM (Hw × Option Nat) :=
  if wbit (amount r) 63 then badOperand h r j
  else .ok (h.setRun n { r with sbase := r.sbase + (amount r).toNat + k }, none)

/-- SADV (R384). -/
def execSadv (n : EngNum) (a : SReg) (imm : BitVec 8) (s : State) : Host.Outcome State Fault Refusal :=
  s.onHw (skIssue n.val {} false (advanceBody n.val (fun r => r.readS a) (64 * imm.toNat)))

/-! Output and preload (R401, R402). -/

/-- A record is appended to a chunk (R354, R401). -/
def Hw.emitInto (h : Hw) (n : Nat) (j : Job) (c : ChunkSt) (bs : List Byte) : SkM (Hw × Option Nat) := do
  let h1 ← h.engWrite n (j.outVa + 4096 * c.num + 16 + c.used) true bs
  match look? h1.run n with
  | some r1 => .ok (h1.setRun n { r1 with chunk := some { c with used := c.used + bs.length } }, none)
  | none => .ok (h1, none)

/-- A record is appended (R354, R401): to the chunk in use, or to the next one granted, when the header of the finished chunk is written; without a chunk, or room in the staging entries, the instruction waits and nothing is written; when no chunk is left the piece stops with status 0x04. -/
def Hw.emit (h : Hw) (n : Nat) (r : EngRun) (j : Job) (bs : List Byte) : SkM (Hw × Option Nat) :=
  let fits := match r.chunk with
    | some c => decide (c.used + bs.length ≤ 4080)
    | none => false
  let res : SkM (Hw × Option Nat) := match r.chunk, fits with
    | some c, true => h.emitInto n j c bs
    | oc, _ =>
      match r.granted with
      | [] => if r.noChunk then .error (h, .stop { status := 4 } none) else .error (h, .wait)
      | g :: rest => do
        let h1 ← match oc with
          | some c => h.engWrite n (j.outVa + 4096 * c.num) true (chunkHeader c)
          | none => .ok h
        let off := (streamAt (streamSegs j r.piece) r.sbase).elim j.inLen (·.1)
        match look? h1.run n with
        | some r1 =>
          (h1.setRun n { r1 with granted := rest, nextSeq := r1.nextSeq + 1 }).emitInto n j
            { num := g, used := 0, seq := r1.nextSeq, first := granOf r.piece off } bs
        | none => .ok (h1, none)
  match res with
  | .error (_, .wait) => .error (h, .wait)
  | x => x

/-- EMITV (R401). -/
def execEmitv (n : EngNum) (a : SReg) (imm : BitVec 8) (s : State) : Host.Outcome State Fault Refusal :=
  s.onHw (skIssue n.val {} (badW a) (fun h r j =>
    if imm.toNat = 0 ∨ 64 < imm.toNat ∨ j.outMode ≠ 1 then badOperand h r j
    else h.emit n.val r j ((toBytes 64 (r.readW a).toNat).take imm.toNat)))

/-- EMITM (R401). -/
def execEmitm (n : EngNum) (a b : SReg) (s : State) : Host.Outcome State Fault Refusal :=
  s.onHw (skIssue n.val { skim2 := true } false (fun h r j =>
    let len := (r.readS b).toNat
    let addr := (r.readS a).toNat % 2 ^ 24
    if len = 0 ∨ 4080 < len ∨ j.outMode ≠ 1 ∨ 15 < addr / 65536 then badOperand h r j
    else do
      let (h1, bs) ← h.skRead n.val (addr / 65536) (addr % 65536) len
      match look? h1.run n.val with
      | some r1 => h1.emit n.val r1 j bs
      | none => .ok (h1, none)))

/-- The reads of the 1 KiB sector at a virtual address begin (R402): neither poison nor an outstanding store of a line holds the instruction, but it waits for a free miss register (R358). -/
def Hw.sectorRead (h : Hw) (n va : Nat) (k : ReadKind) : SkM Hw := do
  let (h1, pa) ← h.engXlate n (va / 1024 * 1024) .load
  (List.range 16).foldlM (fun h i =>
    let line := pa / 64 + i
    match h.engHere n line k with
    | some (h2, _, _) => .ok h2
    | none => if h.engPending n line then .ok h else h.engAsk n line k) h1

/-- The sector that PREF and PLOCK act on, through a window of banks 18 to 255 (R402). -/
def sectorBody (n : Nat) (a : SReg) (lock : Bool) (h : Hw) (r : EngRun) (j : Job) : SkM (Hw × Option Nat) :=
  let addr := (r.readS a).toNat % 65536
  if r.bankCur < 18 then badOperand h r j
  else match r.window r.bankCur with
    | none => badOperand h r j
    | some (base, b) =>
      if !wbit b 16 then .error (h, progFault j r.pc 3 addr r.bankCur (some (base + addr)))
      else do
        let h1 ← h.sectorRead n (base + addr) (if lock then .lock else if wbit b 18 then .live else .snapshot)
        .ok (h1, none)

/-- PREF (R402). -/
def execPref (n : EngNum) (a : SReg) (s : State) : Host.Outcome State Fault Refusal :=
  s.onHw (skIssue n.val {} false (sectorBody n.val a false))

/-- PLOCK (R402). -/
def execPlock (n : EngNum) (a : SReg) (s : State) : Host.Outcome State Fault Refusal :=
  s.onHw (skIssue n.val { skim2 := true } false (sectorBody n.val a true))

/-! Branches (R407 to R411, R417 to R419). -/

/-- The two-bit counter of a branch counts its outcome (R408). -/
def EngRun.train (r : EngRun) (taken : Bool) : EngRun :=
  let i := nbits r.pc 9 1
  let c := look 1 r.ctr i
  { r with ctr := put r.ctr i (if taken then min 3 (c + 1) else c - 1) }

/-- A taken branch of compatibility mode enters the branch target buffer (R418). -/
def EngRun.buffer (r : EngRun) (j : Job) (target : Nat) : EngRun :=
  if j.compat then { r with btb := ((r.pc, target) :: r.btb.filter (fun e => e.1 != r.pc)).take 32 } else r

/-- A conditional branch whose condition has been evaluated (R407, R417). -/
def condBody (n len : Nat) (reads : List Nat) (taken an : Bool) (target : Nat) (h : Hw) (r : EngRun) (j : Job) : SkM (Hw × Option Nat) :=
  let r1 := r.train taken
  let r2 := if taken then r1.buffer j target else r1
  if j.compat then .ok (h.setRun n r2, if taken then some target else none)
  else do
    let (h1, sl) ← h.progLen n r j (r.pc + len)
    let r3 := r2.keep ((look? h1.run n).getD r2)
    if taken then .ok (h1.setRun n { r3 with slot := some ⟨r.pc, target, reads⟩ }, none)
    else if an then .ok (h1.setRun n r3, some (r.pc + len + sl))
    else .ok (h1.setRun n { r3 with slot := some ⟨r.pc, r.pc + len + sl, reads⟩ }, none)

/-- A target in halfwords from a PC (R407). -/
def skTarget {w : Nat} (pc : Nat) (off : BitVec w) : Nat := (((pc : Int) + 2 * off.toInt) % 8192).toNat

/-- SKIM_BRANCH (R407); AN must be 0 in compatibility mode (R417). -/
def execSkimBranch (n : EngNum) (c : Cond) (a b : SReg) (an : Bool) (off : BitVec 16) (s : State) : Host.Outcome State Fault Refusal :=
  s.onHw (skIssue n.val { noSlot := true, noEnd := true } false (fun h r j =>
    if j.compat && an then .error (h, progFault j r.pc 1 0 0 none)
    else condBody n.val 4 [a.toNat, b.toNat] (condHolds c (r.readS a) (r.readS b)) an (skTarget r.pc off) h r j))

/-- A jump (R407, R417): the link is the PC after the slot, or PC + 4 in compatibility mode. -/
def jumpBody (n : Nat) (d : SReg) (reads : List Nat) (target : Nat) (h : Hw) (r : EngRun) (j : Job) : SkM (Hw × Option Nat) :=
  if j.compat then .ok (h.setRun n ((r.buffer j target).writeS d (BitVec.ofNat 64 (r.pc + 4))), some target)
  else do
    let (h1, sl) ← h.progLen n r j (r.pc + 4)
    let r1 := { r.keep ((look? h1.run n).getD r) with slot := some ⟨r.pc, target, reads⟩ }
    .ok (h1.setRun n (r1.writeS d (BitVec.ofNat 64 (r.pc + 4 + sl))), none)

/-- SKIM_JAL (R407). -/
def execSkimJal (n : EngNum) (d : SReg) (off : BitVec 21) (s : State) : Host.Outcome State Fault Refusal :=
  s.onHw (skIssue n.val { noSlot := true, noEnd := true, wr := [d] } false (fun h r j => jumpBody n.val d [] (skTarget r.pc off) h r j))

/-- SKIM_JALR (R407): D must differ from A (R391). -/
def execSkimJalr (n : EngNum) (d a : SReg) (s : State) : Host.Outcome State Fault Refusal :=
  s.onHw (skIssue n.val { noSlot := true, noEnd := true, wr := [d] } (d == a) (fun h r j =>
    jumpBody n.val d [a.toNat] ((r.readS a).toNat % 8192 / 2 * 2) h r j))

/-- The end of a piece is reached (R346, R403). -/
def endBody (n : Nat) (h : Hw) (r : EngRun) (_j : Job) : SkM (Hw × Option Nat) :=
  .ok (h.setRun n { r with stop := some { status := 0 } }, none)

/-- END (R403). -/
def execSkEnd (n : EngNum) (s : State) : Host.Outcome State Fault Refusal :=
  s.onHw (fun h => (skIssue n.val { noSlot := true, noEnd := true } false (endBody n.val) h).engStatus n.val)

/-! Loops (R412 to R416). -/

/-- An instruction that may not be a loop end: a branch, JAL, JALR, LOOP or END (R415), by its first halfword and, for a 32-bit one, its word. -/
def endClass (x : Nat) : Bool :=
  if x % 4 = 3 then
    let m := nbits x 6 2
    m == 0x07 || (decide (0x18 ≤ m) && decide (m ≤ 0x1E)) || (m == 0x1F && (nbits x 31 27 == 0x07 || nbits x 31 27 == 0x08))
  else x % 4 == 2 || (x % 4 == 0 && nbits x 4 2 == 7 && nbits x 8 5 == 1)

/-- The instruction at a PC, as its word or its halfword. -/
def Hw.progWord (h : Hw) (n : Nat) (r : EngRun) (j : Job) (pc : Nat) : SkM (Hw × Nat) :=
  if 6144 < pc + 2 then .ok (h, 0)
  else do
    let (h1, x) ← h.progHalf n r j pc
    if x % 4 = 3 then
      if 6144 < pc + 4 then .ok (h1, 3)
      else do
        let (h2, y) ← h1.progHalf n r j (pc + 2)
        .ok (h2, x + y <<< 16)
    else .ok (h1, x)

/-- LOOP (R412, R415). -/
def execLoop (n : EngNum) (z lvl : BitVec 2) (a : SReg) (off : BitVec 17) (s : State) : Host.Outcome State Fault Refusal :=
  s.onHw (skIssue n.val { noSlot := true, noEnd := true } (z != 0 || lvl == 3) (fun h r j =>
    let count := (r.readS a).toNat
    let le := (r.pc + 2 * off.toNat) % 8192
    if 0xFFFFFFFF < count then badOperand h r j
    else do
      let (h1, x) ← h.progWord n.val r j le
      let nest := (List.range lvl.toNat).all (fun m =>
        decide ((r.lvl m).lc = 0) || (decide ((r.lvl m).ls ≤ r.pc + 4) && decide (le ≤ (r.lvl m).le)))
      if endClass x || (!nest && decide (count ≠ 0)) then .error (h1, progFault j r.pc 2 0 0 none)
      else if count = 0 then .ok (h1, some ((le + (if x % 4 = 3 then 4 else 2)) % 8192))
      else match look? h1.run n.val with
        | some r1 => .ok (h1.setRun n.val { r1 with loops := put r1.loops lvl.toNat ⟨(r.pc + 4) % 8192, le, count⟩ }, none)
        | none => .ok (h1, none)))

/-! The 16-bit forms (R392), Skim-2 only. -/

/-- A 16-bit form. -/
def shortMeta : SkMeta := { len := 2, skim2 := true }

/-- C_MV (R392); with A and D 0 it would be the halfword 0x0000, which is illegal (R388). -/
def execCMv (n : EngNum) (d a : SReg) (s : State) : Host.Outcome State Fault Refusal :=
  s.onHw (skScalar n.val shortMeta (d == 0 && a == 0) d (fun r => r.readS a))

/-- The operations of the 16-bit register form (R392). -/
def cAluOp (op : Nat) (d a : W64) : Option W64 :=
  match op with
  | 1 => some (d + a)
  | 2 => some (d - a)
  | 3 => some (d &&& a)
  | 4 => some (d ||| a)
  | 5 => some (d ^^^ a)
  | _ => none

/-- C_ALU (R392). -/
def execCAlu (n : EngNum) (op : BitVec 3) (d a : SReg) (s : State) : Host.Outcome State Fault Refusal :=
  s.onHw (skScalar n.val shortMeta (cAluOp op.toNat 0 0).isNone d (fun r => (cAluOp op.toNat (r.readS d) (r.readS a)).getD 0))

/-- C_SADV (R384, R392): D must be zero. -/
def execCSadv (n : EngNum) (d a : SReg) (s : State) : Host.Outcome State Fault Refusal :=
  s.onHw (skIssue n.val shortMeta (d != 0) (advanceBody n.val (fun r => r.readS a) 0))

/-- C_NOP (R392): A must be zero. -/
def execCNop (n : EngNum) (a : SReg) (s : State) : Host.Outcome State Fault Refusal :=
  s.onHw (skIssue n.val shortMeta (a != 0) (fun h _ _ => .ok (h, none)))

/-- C_END (R392, R403). -/
def execCEnd (n : EngNum) (a : SReg) (s : State) : Host.Outcome State Fault Refusal :=
  s.onHw (fun h => (skIssue n.val { shortMeta with noSlot := true, noEnd := true } (a != 0) (endBody n.val) h).engStatus n.val)

/-- A BANK write of a 16-bit form (R378). -/
def setbankBody (n : Nat) (bank : Nat) (h : Hw) (r : EngRun) (_j : Job) : SkM (Hw × Option Nat) :=
  .ok (h.setRun n { r with bankNew := bank, bankPend := true }, none)

/-- C_SETBANK (R378, R392). -/
def execCSetbank (n : EngNum) (z : BitVec 2) (bank : BitVec 8) (s : State) : Host.Outcome State Fault Refusal :=
  s.onHw (skIssue n.val { shortMeta with noSlot := true } (z != 0) (setbankBody n.val bank.toNat))

/-- C_ADDI (R392): with D = 0 the same encoding is C.SETBANK. -/
def execCAddi (n : EngNum) (d : SReg) (imm : BitVec 10) (s : State) : Host.Outcome State Fault Refusal :=
  s.onHw (if d = 0 then
      skIssue n.val { shortMeta with noSlot := true } (nbits imm.toNat 9 8 != 0) (setbankBody n.val (imm.toNat % 256))
    else skScalar n.val shortMeta false d (fun r => r.readS d + imm.signExtend 64))

/-- C_BEQZ (R392, R407). -/
def execCBeqz (n : EngNum) (a : SReg) (an : Bool) (off : BitVec 8) (s : State) : Host.Outcome State Fault Refusal :=
  s.onHw (skIssue n.val { shortMeta with noSlot := true, noEnd := true } false (fun h r j =>
    condBody n.val 2 [a.toNat] (r.readS a == 0) an (skTarget r.pc off) h r j))

/-- C_BNEZ (R392, R407). -/
def execCBnez (n : EngNum) (a : SReg) (an : Bool) (off : BitVec 8) (s : State) : Host.Outcome State Fault Refusal :=
  s.onHw (skIssue n.val { shortMeta with noSlot := true, noEnd := true } false (fun h r j =>
    condBody n.val 2 [a.toNat] (r.readS a != 0) an (skTarget r.pc off) h r j))

/-! Encodings that no instruction has (R388 to R393). -/

/-- A word, or a halfword in its low bits, that no row of the table spells: an unlisted major opcode or sub, or a 16-bit form with a field that must be zero (R388, R390 to R393). -/
def skUnassigned (w : W32) : Bool :=
  let x := w.toNat
  if x % 4 = 3 then nbits x 6 2 == 0x0F || (nbits x 6 2 == 0x1F && decide (8 < nbits x 31 27))
  else x % 4 == 0 && (nbits x 15 13 != 0 || (nbits x 4 2 == 7 && decide (1 < nbits x 8 5)))

/-- The program holds an unassigned encoding at the PC: a program fault, illegal instruction (R388, R420). -/
def Hw.skUnassignedAt (h : Hw) (n : Nat) (w : W32) : Hw :=
  if skUnassigned w then skIssue n { len := if w.toNat % 4 = 3 then 4 else 2 } true (fun h _ _ => .ok (h, none)) h else h

/-! Debug commands (R421). -/

/-- A debug command is a write of SKM_DBGCTL. -/
def dbgCmd (who : Who) (n : EngNum) (v : W64) (s : State) : Host.Outcome State Fault Refusal :=
  let (die, inst) := engPlace n.val
  s.onHw (fun h => h.permit (RegRef.at .SKM_DBGCTL die inst 0) who v (fun h => h.dbgWrite n.val v))

/-- HALT (R421). -/
def execHalt (who : Who) (n : EngNum) (s : State) : Host.Outcome State Fault Refusal := dbgCmd who n 1 s

/-- RESUME (R421). -/
def execResume (who : Who) (n : EngNum) (s : State) : Host.Outcome State Fault Refusal := dbgCmd who n 2 s

/-- STEP (R421). -/
def execStep (who : Who) (n : EngNum) (s : State) : Host.Outcome State Fault Refusal := dbgCmd who n 4 s

/-- BREAKPOINT_HALT (R421): the next instruction stands at the breakpoint. -/
def execBreakpointHalt (n : EngNum) (s : State) : Host.Outcome State Fault Refusal :=
  s.onHw (fun h => if h.atBreakpoint n.val then h.skHalt n.val 2 else h)

/-- DEBUG_PORT_HALT (R421). -/
def execDebugPortHalt (n : EngNum) (s : State) : Host.Outcome State Fault Refusal := s.onHw (fun h => h.skHalt n.val 4)

end Sys2Proof.Machine
end

