-- ==== Sys2Proof/Machine/Reset.lean ====
section
/-! DEFINITION. The resets of cold, package, partition, die and core scope (spec/00_scope.md R17 to R19, R679). -/

namespace Sys2Proof.Machine

/-! Registers under a reset. -/

/-- Registers of the always-on domains, of links and of nodes that a package warm reset leaves as they are (R18, R463, R496, R529, R530). -/
def keptWarm (n : RegName) : Bool :=
  match n with
  | .CFG_ACTSEQ => true
  | .CFG_PREVSEQ => true
  | .CFG_HIGHSEQ => true
  | .PWR_AOTIMER => true
  | .PWR_WAKE_LAST => true
  | .PWR_WAKE_HIST => true
  | .SLINK_RMAP => true
  | .SLINK_RMAP_HP => true
  | _ => false

/-- What a reset narrower than the package reaches beside the fields of R679. -/
inductive Narrow where
  /-- A partition's dies stay linked: their links, torus nodes and IDs stand as they are. -/
  | partition
  /-- A die's own link, node and ID are reset by `linkReset`. -/
  | die
  /-- A core keeps its place in the sparing map. -/
  | core
  deriving DecidableEq, Repr

/-- Fields that show a unit or an agreement that a reset narrower than the package does not undo: epochs, links, nodes, IDs and roles (log entry 34). -/
def liveField (k : Narrow) (n : RegName) (f : Fld) : Bool :=
  match n with
  | .DCTL_EPOCH => true
  | .SLINK_STAT => k != .die && [F.SLINK_STAT_STATE, F.SLINK_STAT_CAUSE, F.SLINK_STAT_SPARES_USED].contains f || k == .die && f == F.SLINK_STAT_SPARES_USED
  | .LATH_PORT => k != .die && [F.LATH_PORT_STATE, F.LATH_PORT_FAILS, F.LATH_PORT_LANE_FAIL, F.LATH_PORT_PEER_FAIL, F.LATH_PORT_PEER_NODE].contains f
  | .DCTL_IDENT => k != .die && f == F.DCTL_IDENT_DIE_ID
  | .CORE_STATUS => k == .core && (f == F.CORE_STATUS_ROLE || f == F.CORE_STATUS_LCORE)
  | _ => false

/-- Registers whose stored values meet a test, each given a new value. -/
def Hw.mapRegs (h : Hw) (sel : RegRef → Bool) (f : RegRef → W64 → W64) : Hw :=
  h.regs.foldl (fun (x : Hw) e =>
    match findReg e.1 with
    | some r => if sel r then x.setReg r.name r.die r.inst r.idx (f r e.2) else x
    | none => x) h

/-- A field keeps its value under a package warm reset: RWS fields, and ACTIVE_BANK (R18, R496). -/
def fieldKept (n : RegName) (f : Fld) : Bool :=
  decide (f.acc = .RWS) || (decide (n = .CFG_STAT) && decide (f = F.CFG_STAT_ACTIVE_BANK))

/-- A register's value after a package warm reset. -/
def warmValue (r : RegRef) (v : W64) : W64 :=
  if keptWarm r.name then v
  else r.name.desc.fields.foldl (fun a f => if fieldKept r.name f then f.set a (f.get v) else a) (regReset r.name r.die r.inst r.idx)

/-- The fuse fields that burning has changed (R17, R575, R576). -/
def Hw.fuseRegs (h : Hw) : Hw :=
  (h.setFld .SEC_KEYSTAT 0 0 0 F.SEC_KEYSTAT_REVOKED (Config.keysRevoked ||| h.boot.revoked)).setFld .SEC_FLOOR 0 0 0 F.SEC_FLOOR_CUR h.floorNow

/-! Package resets (R18, R500). -/

/-- The commit machine's banks after a package warm reset (R496, R500): a loaded image is discarded; an apply or a rollback in progress gives its place back to the image that was active before it. -/
def Hw.cfgWarm (h : Hw) : Hw :=
  let st := h.cfgState
  if st = 1 ∨ st = 2 then h.setBank (1 - h.activeBank) []
  else if 3 ≤ st then
    let act := h.reg .CFG_ACTSEQ 0 0 0
    ((h.setFld .CFG_STAT 0 0 0 F.CFG_STAT_ACTIVE_BANK (1 - h.activeBank)).setReg .CFG_ACTSEQ 0 0 0 (h.reg .CFG_PREVSEQ 0 0 0)).setReg .CFG_PREVSEQ 0 0 0 act
  else h

/-- What the pins, the board and the always-on islands hold beside the logic dies, through a package warm reset. -/
def Plat.afterWarm (p : Plat) : Plat :=
  { ibis := p.ibis, flags := p.flags, dynAddr := p.dynAddr, board := p.board, spd := p.spd, coolantC := p.coolantC, msis := p.msis,
    supplyCond := p.supplyCond, resetLow := p.resetLow, refclkBad := p.refclkBad, aoRun := p.aoRun, tapIr := p.tapIr, tapDr := p.tapDr,
    tapId := p.tapId, i3cReply := p.i3cReply }

/-- What the pins show through a cold reset. -/
def Plat.afterCold (p : Plat) : Plat :=
  { resetLow := p.resetLow, refclkBad := p.refclkBad, aoRun := p.aoRun, tapIr := p.tapIr, tapDr := p.tapDr, tapId := p.tapId, msis := p.msis }

/-- The slot that runs, if one does. -/
def Hw.runningSlot (h : Hw) : Option Nat :=
  if h.boot.manifest.isEmpty then h.boot.lastSlot else some (h.fld .SEC_BOOTSTAT 0 0 0 F.SEC_BOOTSTAT_SLOT)

/-- The package after a package warm reset (R18, R496, R500, R577): the image banks, the always-on islands and their save RAM, the flash and the meter stay. -/
def Hw.warmReset (h0 : Hw) : Hw :=
  let st := h0.cfgState
  let h := h0.cfgWarm
  let h1 : Hw := {
    free := h.free, ao := h.ao, clockOn := h.clockOn, regs := h.regs, torusSeq := h.torusSeq, torusRx := h.torusRx, coords := h.coords,
    coordBad := h.coordBad, devCount := h.devCount, supplyW := h.supplyW, coolW := h.coolW, thermtripPin := h.thermtripPin,
    tripped := h.tripped, tripInfo := h.tripInfo, groupOff := h.groupOff, v33Left := h.v33Left, vinBad := h.vinBad,
    commit := { bank0 := h.commit.bank0, bank1 := h.commit.bank1, sparing := h.commit.sparing },
    boot := { flash := h.boot.flash, revoked := h.boot.revoked, floor := h.boot.floor, trainRec := h.boot.trainRec, lastSlot := h.runningSlot },
    meter := h.meter, plat := h.plat.afterWarm }
  let h2 := (h1.mapRegs (fun _ => true) warmValue).fuseRegs
  ((if 3 ≤ st then h2.cfgResult 0xB else h2).drawKeys).flagsIbi

/-- The package after a cold reset (R17, R18): the boot flash, the fuses and the meter stay. -/
def Hw.coldReset (h : Hw) : Hw :=
  let h1 : Hw := {
    free := h.free, clockOn := h.clockOn, boot := { flash := h.boot.flash, revoked := h.boot.revoked, floor := h.boot.floor },
    meter := h.meter, plat := h.plat.afterCold }
  (h1.fuseRegs.drawKeys).flagsIbi

/-- COLD_RESET (R18). -/
def execColdReset (s : State) : Host.Outcome State Fault Refusal := s.onHw (fun h => h.coldReset)

/-- PACKAGE_WARM_RESET (R18); during a thermal trip it changes nothing (R661). -/
def execPackageWarmReset (s : State) : Host.Outcome State Fault Refusal := s.onHw (fun h => if h.tripped then h else h.warmReset)

/-! Narrower resets (R18, R71, R679). -/

/-- The active image's value for a register, if any of its sections sets it; its sparing maps stand as R506 and R510 rewrote them. -/
def Hw.imgValue (h : Hw) (r : RegRef) : Option W64 :=
  let a := regAddr r.name r.die r.inst r.idx
  let applied := (h.cfgState = 3 ∨ h.cfgState = 4) ∧ h.commit.changed.contains 3
  match (if r.name = .DCTL_LCMAP ∧ !applied then (h.commit.sparing.getD []).find? (fun e => e.1 == a) else none) with
  | some e => some e.2
  | none => ((Config.imageContent h.activeImg).regs.find? (fun e => e.2.1 == a)).map (fun e => e.2.2)

/-- A register's value after a reset narrower than the package (R679): RWS fields keep their values; img and RWL fields hold those of the active image. -/
def Hw.narrowValue (h : Hw) (k : Narrow) (r : RegRef) (v : W64) : W64 :=
  let img := (h.imgValue r).getD v
  r.name.desc.fields.foldl (fun a f =>
    if f.acc = .RWS ∨ liveField k r.name f then f.set a (f.get v)
    else if f.acc = .RWL then f.set a (f.get img)
    else if f.rst = .img then f.set a (f.get img)
    else a) (regReset r.name r.die r.inst r.idx)

/-- Registers that a narrower reset reaches take their values, and nothing stays staged for them. -/
def Hw.resetRegs (h : Hw) (k : Narrow) (sel : RegRef → Bool) : Hw :=
  let ok (r : RegRef) : Bool := sel r && !keptWarm r.name
  let h1 := h.mapRegs ok (fun r v => h.narrowValue k r v)
  { h1 with shadow := h1.shadow.filter (fun e => match findReg e.1 with
      | some r => !ok r
      | none => true) }

/-- The caches of a compute die are cleaned to the homes, and the snoops that waited find nothing (log entry 34). -/
def Hw.cleanDie (h : Hw) (die : Nat) : Hw :=
  let h1 := (List.range 34).foldl (fun (x : Hw) p => x.cleanCore die p) h
  let h2 := ((h1.cdie die).dc.map (·.1)).foldl (fun (x : Hw) l => x.dieGiveUp die l) h1
  let h3 := (h2.cdie die).heldSnoops.foldl (fun (x : Hw) m => x.answer .ACK (.core die 0) m.addr ackAbsent) h2
  (h3.onCDie die (fun c => { wbb := c.wbb, wbWait := c.wbWait, parked := c.parked, stale := c.stale, lost := c.lost }))

/-- The threads and the cores of a die are in core reset (R18, R71). -/
def Hw.resetThreads (h : Hw) (die : Nat) : Hw :=
  { h with thr := h.thr.filter (fun e => decide (dieOfThread e.1 ≠ die)), cores := h.cores.filter (fun e => decide (e.1 / 64 ≠ die)) }

/-- The event router instance of a partition is reset (R679). -/
def Hw.resetRouter (h : Hw) (p : Nat) : Hw :=
  let mine (t : Nat) : Bool := decide (h.partOf t = p)
  { h.evDrop p with
    evPend := h.evPend.filter (fun e => decide (e.inst ≠ p)),
    evSlots := h.evSlots.filter (fun e => !mine e.1), evFly := h.evFly.filter (fun e => !mine e.1) }

/-- The port's side of a reset (R18, R235): its link goes down, and nothing of its devices' accesses stays. -/
def Hw.portReset (h : Hw) (n : Nat) : Hw :=
  { h.portDown n with pwr := del h.pwr n, patom := del h.patom n, prd := del h.prd n, dmaCpls := del h.dmaCpls n }

/-- A partition's reset applies (R18, R235, R498, R565, R577, R679). -/
def Hw.partResetNow (h : Hw) (p : Nat) : Hw :=
  let dies := (List.range 13).filter (fun d => d != 0 && look 0 h.dieOwner d == p)
  let engs := (List.range 56).filter (fun n => look 0 h.engOwner n == p)
  let h0 := (List.range 64).foldl (fun (x : Hw) n => if look 0 x.portOwner n = p then x.portReset n else x) h
  let h1 := (h0.staticAtReset p).partCancel p
  let h2 := dies.foldl (fun (x : Hw) d => x.cleanDie d) h1
  let h3 := (dies.foldl (fun (x : Hw) d => x.resetThreads d) h2).resetRouter p
  let h4 := h3.resetRegs .partition (fun r => decide (h3.regOwner r = p))
  let h5 := engs.foldl (fun (x : Hw) n => x.dropTransitions (engPlace n).1 [engDom n]) (dies.foldl (fun (x : Hw) d => x.dropTransitions d (List.range 37)) h4)
  let h6 := dies.foldl (fun (x : Hw) d => (x.onCDie d (fun c => { c with migration := none })).rolesFromMap d) h5
  let h7 := (h6.setFld .SEC_SWCTL 0 0 (p - 1) F.SEC_SWCTL_STATE 0).setMreg (3 + p) 0
  let h8 : Hw := { h7 with partStopped := rem h7.partStopped p, partUp := rem h7.partUp p, resetWait := rem h7.resetWait p,
                           engLast := h7.engLast.filter (fun e => !engs.contains e.1),
                           xtl := h7.xtl.map (fun (e : Nat × List TlbEnt) => (e.1, e.2.filter (fun t => decide (t.part ≠ p)))),
                           xctx := h7.xctx.filter (fun e => decide (e.part ≠ p)), dpErrs := h7.dpErrs.filter (fun e => decide (h7.partOf e.thread ≠ p)) }
  let h9 := h8.confirmLeave p
  if h9.flag .SEC_SWCTL 0 0 (p - 1) F.SEC_SWCTL_REKEY_RST then h9.rekey p else h9

/-- A piece still runs on an engine of a partition. -/
def Hw.piecesOn (h : Hw) (p : Nat) : Bool := h.run.any (fun e => decide (look 0 h.engOwner e.1 = p))

/-- A partition's reset (R18, R372): its threads stop and its pieces run the steps of R346; the reset applies when the last of them has ended. -/
def Hw.partReset (h : Hw) (p : Nat) : Hw :=
  let h1 := ((List.range 56).filter (fun n => look 0 h.engOwner n == p)).foldl (fun (x : Hw) n => x.pieceEnd n) (h.partCancel p)
  if h1.piecesOn p then
    { ((List.range 13).filter (fun d => d != 0 && look 0 h1.dieOwner d == p)).foldl (fun (x : Hw) d => x.resetThreads d) h1 with
      partStopped := ins h1.partStopped p, resetWait := ins h1.resetWait p }
  else h1.partResetNow p

/-- Staged microcode that waited for the end of the secure piece that `was` the engine's is loaded (R630); a fenced engine's GO is refused (R634). -/
def Hw.ucodeDue (h : Hw) (n : Nat) (was : Option EngRun) : Hw :=
  let (die, inst) := engPlace n
  let due := match was with
    | some r => r.ucode
    | none => false
  if due && (look? h.run n).isNone && !h.fenced (.eng n) && decide (h.fld .SKM_UCODE die inst 0 F.SKM_UCODE_STATE = 1) then
    h.setFld .SKM_UCODE die inst 0 F.SKM_UCODE_STATE 2
  else h

/-- The next step of the end of an engine's piece; the last piece of a partition whose reset waits lets it apply (R346, R372). -/
def Hw.pieceEnds (h : Hw) (n : Nat) : Hw :=
  let h1 := (h.pieceEnd n).ucodeDue n (look? h.run n)
  (h1.resetWait.filter (fun p => !h1.piecesOn p)).foldl (fun (x : Hw) p => x.partResetNow p) h1

/-- PIECE_END (R346, R388): a step of a piece's end; with a word, the program's encoding at the PC that no instruction has, which stops the piece. -/
def execPieceEnd (n : EngNum) (word : Option W32) (s : State) : Host.Outcome State Fault Refusal :=
  match word with
  | some w => s.onHw (fun h => h.skUnassignedAt n.val w)
  | none => s.onHw (fun h => h.pieceEnds n.val)

/-- PARTITION_RESET (R18, R679). -/
def execPartitionReset (p : PartIx) (s : State) : Host.Outcome State Fault Refusal := s.onHw (fun h => h.partReset (p.val + 1))

/-- Every directory state forgets a die that is reset without a fence, and the lines that it held dirty are poisoned (R18, R279; log entry 34). -/
def Hw.forgetDie (h : Hw) (die : Nat) : Hw :=
  let dirty := (((h.cdie die).dc.filter (fun e => e.2 == .M)).map (·.1)) ++
    (List.range 34).flatMap (fun p => ((h.core (coreKey die p)).l2.filter (fun e => e.2 == .M)).map (·.1))
  let h1 := dirty.foldl (fun (x : Hw) l => x.setPoison l) h
  { h1 with
    dir := h1.dir.filterMap (fun e =>
      match e.2 with
      | .owned (.core d _) _ => if d = die then none else some e
      | .shared vec f => if vec.filter (fun d => d != die) = [] then none else some (e.1, .shared (vec.filter (fun d => d != die)) f)
      | _ => some e) }

/-- The units of a port die stop: its engines' pieces end, and nothing stays queued at its ports (R18). -/
def Hw.resetPortDie (h : Hw) (die : Nat) : Hw :=
  let k := die - 0x10
  let h1 := (List.range 8).foldl (fun (x : Hw) i => x.engCancel (24 + 8 * k + i) 8) ((List.range 16).foldl (fun (x : Hw) i => x.portReset (16 * k + i)) h)
  { h1 with xctx := h1.xctx.filter (fun e => e.die != die), xtl := del h1.xtl die }

/-- The reset of one die (R18, R479, R481): its units, its registers, its link and its torus node; the directory of a fenced die is left to the sweep (R285). -/
def Hw.dieReset (h : Hw) (die : Nat) : Hw :=
  if die = 0 then (if h.tripped then h else h.warmReset)
  else
    let h1 := if die ≤ 12 then
        let h0 := h.onlineSet (die - 1) 0
        ({ (if h0.fenced (.core die 0) then h0 else h0.forgetDie die) with cdies := del h0.cdies die } : Hw).resetThreads die
      else h.resetPortDie die
    let h2 := ((h1.resetRegs .die (fun r => decide (r.die = die))).dropTransitions die (List.range 37)).linkReset die
    let h3 := h2.setLinkFld (dieHp die) false F.SLINK_STAT_SPARES_USED (h2.sparesUsed (dieHp die) false)
    if die ≤ 12 then h3.rolesFromMap die else h3

/-- DIE_RESET (R18): of the hub it is a reset of the package, for no die runs without it (log entry 34). -/
def execDieReset (die : DieIx) (s : State) : Host.Outcome State Fault Refusal := s.onHw (fun h => h.dieReset (dieId die))

/-- The reset of one core and its threads (R18, R71, R78). -/
def Hw.coreReset (h : Hw) (die pcore : Nat) : Hw :=
  let ts := h.threadsOn die pcore
  let h1 := h.cleanCore die pcore
  let h2 := ts.foldl (fun (x : Hw) t => x.threadReset t) h1
  h2.resetRegs .core (fun r => decide (r.die = die) && decide (r.name.desc.block = .CORE) && decide (r.inst = pcore))

/-- CORE_RESET (R18). -/
def execCoreReset (die : CDie) (pcore : PCore) (s : State) : Host.Outcome State Fault Refusal :=
  s.onHw (fun h => h.coreReset (die.val + 1) pcore.val)

end Sys2Proof.Machine
end

