-- ==== Sys2Proof/Machine/Boot.lean ====
section
/-! DEFINITION. Boot: the Primer, the Sizing loader, the boot GiBs, recovery, the fuses and the flash (spec/16_boot.md R566 to R581; spec/08_memory_tiers.md R311, R312; spec/12_die_links.md R473, R474). -/

namespace Sys2Proof.Machine

/-! The boot flash (R567, R568). -/

/-- A byte of a boot flash device; erased bytes read 0xFF. -/
def Hw.flashByte (h : Hw) (slot off : Nat) : Byte := look 0xFF h.boot.flash (slot * 2 ^ 32 + off)

/-- Bytes of a boot flash device; none beyond its end. -/
def Hw.flashRead (h : Hw) (slot off n : Nat) : Option (List Byte) :=
  if off + n ≤ Config.flashBytes then some ((List.range n).map (fun i => h.flashByte slot (off + i))) else none

/-- A flash program clears bits: only an erase sets them. -/
def Hw.flashProgram (h : Hw) (slot off : Nat) (bs : List Byte) : Hw :=
  let f := (List.range bs.length).foldl (fun (l : List (Nat × Byte)) i =>
    putC 0xFF l (slot * 2 ^ 32 + off + i) (look 0xFF l (slot * 2 ^ 32 + off + i) &&& bs.getD i 0xFF)) h.boot.flash
  { h with boot := { h.boot with flash := f } }

/-- A 64 KiB sector is erased. -/
def Hw.flashErase (h : Hw) (slot off : Nat) : Hw :=
  let a := slot * 2 ^ 32 + off / 65536 * 65536
  { h with boot := { h.boot with flash := h.boot.flash.filter (fun e => !decide (a ≤ e.1 ∧ e.1 < a + 65536)) } }

/-- A whole slot is erased but for nothing. -/
def Hw.commitRecord (h : Hw) (slot : Nat) : List Byte := (List.range 128).map (fun i => h.flashByte slot i)

/-- CRC of a commit record: CRC-32C over bytes 8 to 127 (R568). -/
def commitCrc (rcd : List Byte) : Nat := (~~~(crcBytes 0xFFFFFFFF (slice rcd 8 120))).toNat

/-- A valid commit record (R568). -/
def commitValid (rcd : List Byte) : Bool := decide (dsc rcd 0 4 = 0x5A3CC3A5) && decide (dsc rcd 4 4 = commitCrc rcd)

/-- SEQ of a commit record. -/
def commitSeq (rcd : List Byte) : Nat := dsc rcd 8 8

/-- A commit record. -/
def makeCommit (seq mlen : Nat) (md : BitVec 384) : List Byte :=
  let body := toBytes 8 seq ++ toBytes 4 mlen ++ List.replicate 12 0 ++ digestBytes md ++ List.replicate 48 0
  toBytes 4 0x5A3CC3A5 ++ toBytes 4 (~~~(crcBytes 0xFFFFFFFF body)).toNat ++ body

/-! The Primer (R569, R572, R573, R577 to R579). -/

/-- A field of SEC_BOOTSTAT. -/
def Hw.bootFld (h : Hw) (f : Fld) : Nat := h.fld .SEC_BOOTSTAT 0 0 0 f

/-- A field of SEC_BOOTSTAT replaced; PMP_STATE copies STOP and both REASONs (R638). -/
def Hw.setBoot (h : Hw) (f : Fld) (v : Nat) : Hw :=
  let h1 := h.setFld .SEC_BOOTSTAT 0 0 0 f v
  let p := h1.reg .PMP_STATE 0 0 0
  h1.setReg .PMP_STATE 0 0 0
    (F.PMP_STATE_STOP.set (F.PMP_STATE_REASON_A.set (F.PMP_STATE_REASON_B.set p (h1.bootFld F.SEC_BOOTSTAT_REASON_B))
      (h1.bootFld F.SEC_BOOTSTAT_REASON_A)) (h1.bootFld F.SEC_BOOTSTAT_STOP))

/-- REASON of a slot. -/
def reasonFld (slot : Nat) : Fld := if slot = 0 then F.SEC_BOOTSTAT_REASON_A else F.SEC_BOOTSTAT_REASON_B

/-- PHASE of PMP_STATE (R638). -/
def Hw.phase (h : Hw) : Nat := h.fld .PMP_STATE 0 0 0 F.PMP_STATE_PHASE

/-- PHASE set; ALERT_N and FLAGS follow (R652, R654). -/
def Hw.setPhase (h : Hw) (p : Nat) : Hw := (h.setFld .PMP_STATE 0 0 0 F.PMP_STATE_PHASE p).flagsIbi

/-- The BOOT notification (R651). -/
def Hw.bootNotify (h : Hw) (flags : Nat) : Hw :=
  h.notify 0x82 (decide (h.bootFld F.SEC_BOOTSTAT_STOP ≠ 0))
    (toBytes 8 (h.reg .SEC_BOOTSTAT 0 0 0).toNat ++ toBytes 8 (h.reg .CFG_STAT 0 0 0).toNat ++ toBytes 1 flags)

/-- The manifest of a slot, if the flash holds so much. -/
def Hw.slotManifest (h : Hw) (slot : Nat) : Option (List Byte) :=
  let n := dsc (h.commitRecord slot) 16 4
  if 0x40000 < n then none else h.flashRead slot 0x10000 n

/-- A component of a slot is read and checked (R573): its bytes, or the REASON. -/
def Hw.slotComp (h : Hw) (slot : Nat) (m : List Byte) (c : Comp) : Except Nat (List Byte) :=
  match h.flashRead slot c.foff c.len with
  | none => .error 0x0A
  | some d => if compGood m c d then .ok d else .error 0x09

/-- verify_slot of R569: the REASON, 0 if the slot is accepted. `bad`: the slots whose flash answers an error. -/
def Hw.verifySlot (h : Hw) (bad : List Nat) (slot : Nat) : Nat :=
  if bad.contains slot then 0x0A
  else match h.slotManifest slot with
  | none => if 0x40000 < dsc (h.commitRecord slot) 16 4 then 0x02 else 0x0A
  | some m =>
    match h.manifestCheck m (some (digestOf ((h.commitRecord slot).drop 32))) with
    | 0 => match compOf m 1 0 with
      | some c => (match h.slotComp slot m c with
        | .ok _ => 0
        | .error r => r)
      | none => 0x0B
    | r => r

/-- A slot is excluded (R569, R574). -/
def Hw.excluded (h : Hw) (slot : Nat) : Bool := (h.bootFld F.SEC_BOOTSTAT_EXCL).testBit slot

/-- The slots to try, in order (R569). -/
def Hw.slotOrder (h : Hw) : List Nat :=
  let c := [0, 1].filter (fun s => commitValid (h.commitRecord s) && !h.excluded s)
  if c = [0, 1] ∧ commitSeq (h.commitRecord 0) < commitSeq (h.commitRecord 1) then [1, 0] else c

/-- The slots are tried in order; every REASON is recorded (R569). -/
def Hw.trySlots (bad : List Nat) : List Nat → Hw → Hw × Option Nat
  | [], h => (h, none)
  | s :: r, h =>
    let q := h.verifySlot bad s
    let h1 := h.setBoot (reasonFld s) q
    if q = 0 then (h1, some s) else Hw.trySlots bad r h1

/-- The boot configuration block (R578). -/
def Hw.bootConfig (h : Hw) : List Byte :=
  let b := h.boot
  toBytes 1 (h.bootFld F.SEC_BOOTSTAT_KEYSLOT) ++ toBytes 1 (h.bootFld F.SEC_BOOTSTAT_SLOT) ++ toBytes 1 (h.bootFld F.SEC_BOOTSTAT_RECOVERY) ++
    toBytes 1 (if Config.debugLocked then 0 else 1) ++ toBytes 4 (h.bootFld F.SEC_BOOTSTAT_SVN) ++ toBytes 1 h.floorNow ++
    toBytes 1 (h.fld .SEC_KEYSTAT 0 0 0 F.SEC_KEYSTAT_REVOKED) ++ List.replicate 6 0 ++ toBytes 8 b.seq ++ List.replicate 8 0 ++
    digestBytes b.mdigest ++ List.replicate 48 0

/-- The target slot of recovery (R579), never the slot that ran (R581). -/
def Hw.recoveryTarget (h : Hw) : Nat :=
  let noRec := [0, 1].filter (fun s => !commitValid (h.commitRecord s))
  let bad := [0, 1].filter (fun s => let q := h.bootFld (reasonFld s); decide (q ≠ 0) && decide (q ≠ 1))
  let t := ((noRec ++ bad).head?).getD 1
  if h.boot.lastSlot = some t then 1 - t else t

/-- The Primer enters recovery with a STOP code (R579, R651). -/
def Hw.enterRecovery (h : Hw) (stop : Nat) : Hw :=
  let h1 := h.setBoot F.SEC_BOOTSTAT_STOP stop
  let h2 : Hw := { h1 with boot := { h1.boot with target := some h1.recoveryTarget, sizing := false }, plat := { h1.plat with image := none } }
  (h2.setPhase 3).notify 0x89 true (toBytes 1 (h2.bootFld F.SEC_BOOTSTAT_REASON_A) ++ toBytes 1 (h2.bootFld F.SEC_BOOTSTAT_REASON_B) ++ toBytes 1 stop)

/-- The Primer has accepted a slot (R572, R577): the Sizing loader starts. -/
def Hw.primed (h : Hw) (slot : Nat) : Hw :=
  let m := (h.slotManifest slot).getD []
  let rcd := h.commitRecord slot
  let h1 : Hw := { h with boot := { h.boot with manifest := m, seq := commitSeq rcd, mdigest := digestOf (rcd.drop 32), sizing := true, target := none, stage := [], bootGib := [] } }
  let h2 := ((h1.setBoot F.SEC_BOOTSTAT_SLOT slot).setBoot F.SEC_BOOTSTAT_KEYSLOT (dsc m 6 1)).setBoot F.SEC_BOOTSTAT_SVN (dsc m 8 4)
  let h3 := (h2.setBoot F.SEC_BOOTSTAT_STOP 0).setBoot F.SEC_BOOTSTAT_RECOVERY (b2n h2.boot.recovered)
  let h4 := h3.mregExt 0 0 (Config.sha384 h3.bootConfig)
  let h5 := match compOf m 1 0 with
    | some c => h4.mregExt 0 1 c.digest
    | none => h4
  h5.setPhase 1

/-- The Primer runs (R566, R569): not while the package is held in reset, without power, or past PHASE 0. STOP 0x4 says that recovery was requested at reset. -/
def Hw.primer (h : Hw) (bad : List Nat) : Hw :=
  if h.plat.resetLow || h.tripped || has h.groupOff 0 || decide (h.phase ≠ 0) then h
  else if h.bootFld F.SEC_BOOTSTAT_STOP = 4 then h.enterRecovery 4
  else
    let h1 := ([0, 1].filter (fun s => !commitValid (h.commitRecord s) && !h.excluded s)).foldl (fun (x : Hw) s => x.setBoot (reasonFld s) 1) h
    match Hw.trySlots bad h1.slotOrder h1 with
    | (h2, some s) => h2.primed s
    | (h2, none) => h2.enterRecovery 1

/-- PRIMER_START (R566, R569). -/
def execPrimerStart (bad : List (Fin 2)) (s : State) : Host.Outcome State Fault Refusal := s.onHw (fun h => h.primer (bad.map (·.val)))

/-- A boot restart (R574, R579): every logic die is held in reset, and the Primer is re-entered; it is no reset of the package, so that time, keys, measurements, EXCL and what the platform controller has sent stay (log entry 35). -/
def Hw.bootRestart (h : Hw) : Hw :=
  let z := h.warmReset
  let z1 : Hw := { z with now := h.now, keys := h.keys, plat := { h.plat with image := none }, cap := h.cap, dimms := h.dimms,
                          commit := { z.commit with bank0 := h.commit.bank0, bank1 := h.commit.bank1 },
                          boot := { z.boot with recovered := h.boot.recovered, mlog := h.boot.mlog } }
  let keep : List (RegName × Nat) := [(.SEC_BOOTSTAT, 1), (.SEC_MREG, 96), (.PMP_REQ, 1), (.PMP_RSP, 1), (.PMP_NOTE, 1), (.PMP_STATE, 1), (.CFG_STAT, 1)]
  let z2 := keep.foldl (fun (x : Hw) e => (List.range e.2).foldl (fun (y : Hw) i => y.setReg e.1 0 0 i (h.reg e.1 0 0 i)) x) z1
  (z2.setBoot F.SEC_BOOTSTAT_STOP 0).setPhase 0

/-- A failure before Undercoat starts (R574): the running slot is excluded with its REASON. -/
def Hw.bootFail (h : Hw) (reason : Nat) : Hw :=
  let s := h.bootFld F.SEC_BOOTSTAT_SLOT
  ((h.setBoot (reasonFld s) reason).setBoot F.SEC_BOOTSTAT_EXCL (h.bootFld F.SEC_BOOTSTAT_EXCL ||| 2 ^ s)).bootRestart

/-- BOOT_RESTART (R574): in the Sizing loader's phase, with the REASON of its failure. -/
def execBootRestart (reason : BitVec 8) (s : State) : Host.Outcome State Fault Refusal :=
  s.onHw (fun h => if h.phase = 1 then h.bootFail reason.toNat else h)

/-! Discovery (R473, R474). -/

/-- An EXCLUDED notification (R651). -/
def Hw.notifyExcluded (h : Hw) (kind ix code : Nat) : Hw := h.notify 0x83 false (toBytes 1 kind ++ toBytes 1 ix ++ toBytes 1 code)

/-- The RESULT of a hub port's discovery, with what its die reported. -/
def Hw.discResult (h : Hw) (hp : Nat) (r : DiscRes) : Nat × Nat × Nat × Nat × Nat :=
  match r with
  | .none => (2, 15, 0, 0, 0)
  | .untrained => (5, 15, 0, 0, 0)
  | .die role pn mj mn =>
    let want := if hp % 4 = 3 then 2 else 1
    let res := if role.toNat ≠ want ∨ pn.toNat ≠ 0x9612 then 3
      else if has h.coordBad (nodeOfDie (hpDie hp)) then 4
      else if mj.toNat ≠ Config.stepMajor ∨ mn.toNat ≠ Config.stepMinor then 6 else 1
    (res, role.toNat, pn.toNat, mj.toNat, mn.toNat)

/-- One hub port's discovery ends (R473 steps 4 to 6, R474): a die in its place has taken its ID and echoed it. -/
def Hw.discover (h : Hw) (hp : Nat) (r : DiscRes) : Hw :=
  let (res, role, pn, mj, mn) := h.discResult hp r
  let found := decide (res ≠ 2 ∧ res ≠ 5)
  let v : W64 := setWbits (setWbits (setWbits (setWbits (setWbits (setWbits (setWbits 0 63 60 res) 51 48 role) 47 40 (if res = 1 then hpDie hp else 0xFF))
    39 32 (if found then nodeOfDie (hpDie hp) else 0xFF)) 31 16 pn) 15 12 mj) 11 8 mn
  let h1 := h.setReg .SLINK_DISC 0 0 hp v
  if res = 1 then (h1.setLinkState hp 3).setFld .DCTL_IDENT (hpDie hp) 0 0 F.DCTL_IDENT_DIE_ID (hpDie hp)
  else ((h1.linkDownEnd hp true 5 5).linkDownEnd hp false 5 5).notifyExcluded 4 hp res

/-! The Sizing loader (R311, R312, R496, R573, R574, R577, R578). -/

/-- The inventory digest (R311 step 1). -/
def Hw.inventoryDigest (h : Hw) : BitVec 384 := Config.sha384 ((List.range 48).flatMap (fun i => look (List.replicate 1024 0) h.plat.spd i))

/-- The Sizing loader stops with a STOP code and reports (R574, R637). -/
def Hw.sizingStop (h : Hw) (stop : Nat) : Hw := (((h.setBoot F.SEC_BOOTSTAT_STOP stop).setPhase 4)).bootNotify 0

/-! DIMM populations and training (R292, R311). -/

/-- The DIMM positions that the inventory reports, by 2 * channel + DIMM, with what their SPD images say. -/
def Hw.positions (h : Hw) : List (Nat × Config.SpdInfo) := h.plat.spd.map (fun e => (e.1, Config.spdInfo e.2))

/-- The reported positions of a channel. -/
def Hw.chPositions (h : Hw) (c : Nat) : List Config.SpdInfo := (h.positions.filter (fun e => decide (e.1 / 2 = c))).map (·.2)

/-- The DIMM type of the package: that of the first reported position. -/
def Hw.dimmKind (h : Hw) : Nat := (h.positions.head?.map (fun e => e.2.kind)).getD 0

/-- A channel's reported population keeps the rules of R292. -/
def Hw.populationOk (h : Hw) (c : Nat) : Bool :=
  let l := h.chPositions c
  !l.isEmpty &&
  l.all (fun i => [1, 2].contains i.kind && decide (i.kind = h.dimmKind) && decide (i.ranks * i.rankGib ≤ 256) && [4, 8].contains i.width &&
    decide (4800 ≤ i.rate) && decide (i.rate ≤ 8800)) &&
  (match l with
   | [a, b] => decide (a.params = b.params) && decide (a.width = b.width)
   | _ => true)

/-- The data rate of all channels (R292): the lowest of every DIMM's rated speed and the board's limit. -/
def Hw.dataRate (h : Hw) : Nat :=
  (h.positions.filter (fun e => h.populationOk (e.1 / 2))).foldl (fun n e => min n e.2.rate) (dsc h.plat.board 0 2)

/-- The hub temperature (R312). -/
def Hw.hubTemp (h : Hw) : Nat := h.fld .PWR_THERM 0 0 0 F.PWR_THERM_TMAX

/-- The training record is used (R311 step 2, R312): it is valid, holds the same digest, and was taken within 10 °C of the current hub temperature. -/
def Hw.trainReuse (h : Hw) : Option TrainRec :=
  h.boot.trainRec.filter (fun t => decide (t.digest = h.inventoryDigest) && decide (h.hubTemp ≤ t.temp + 10) && decide (t.temp ≤ h.hubTemp + 10))

/-- The channels train (R311 steps 1 to 3): a channel that breaks R292 or does not train is excluded and reported, a failed verification of saved parameters is recorded with code 0x17, and the record is written. -/
def Hw.trainChannels (h : Hw) (m : MemReport) : Hw :=
  let up := (List.range 24).filter (fun c => h.populationOk c && m.trained.any (fun x => x.val == c))
  let saved := (h.trainReuse.map (·.chans)).getD []
  let bad := up.filter (fun c => saved.contains c && m.verifyBad.any (fun x => x.val == c))
  let loaded := up.all (fun c => saved.contains c && !bad.contains c)
  let h1 := bad.foldl (fun (x : Hw) c => x.memcErr c 0x17 1 0 noLoc 0xF) h
  let temp := if loaded then (h.trainReuse.map (·.temp)).getD h.hubTemp else h.hubTemp
  let h2 : Hw := { h1 with boot := { h1.boot with trainRec := some { digest := h.inventoryDigest, temp := temp, rate := h.dataRate, chans := up } },
                           cap := up.map (fun c => (c, ((h.chPositions c).map (fun i => i.ranks * i.rankGib)).foldl (· + ·) 0)), dimms := h1.plat.spd }
  let lost := (List.range 24).filter (fun c => !(h.chPositions c).isEmpty && !up.contains c)
  let (code, h3) := h2.fresh 8
  let h4 := lost.foldl (fun (x : Hw) c => x.notifyExcluded 1 c code.toNat) h3
  if lost.isEmpty then h4 else h4.raise { source := 0x239 }

/-- What PORTS reported of a CXL memory device, in GiB (R645). -/
def Hw.portReport (h : Hw) (n : Nat) : Option Nat := (h.plat.ports.find? (fun q => decide (q.1 = n ∧ q.2.2.1 = 1))).map (fun q => q.2.2.2)

/-- The ports of the group that a port names, which is its first; 0 for another port of a group (R296). -/
def Hw.groupSize (h : Hw) (n : Nat) : Nat :=
  match h.commit.joined.find? (fun g => decide (g.1 ≤ n ∧ n < g.1 + g.2)) with
  | some g => if g.1 = n then g.2 else 0
  | none => 1

/-- A CXL memory device is mapped (R289, R296, R311 step 4): with the least of its two capacities and 2 TiB for each port of its group. One that reports less than the inventory is not mapped, and is reported. -/
def Hw.mapDevice (h : Hw) (n ident : Nat) : Hw :=
  match h.portReport n with
  | none => h
  | some r => if ident < r then { h.notifyExcluded 3 n 2 with cap := del h.cap (100 + n) } else { h with cap := put h.cap (100 + n) (min r (2048 * h.groupSize n)) }

/-- The ports train (R311 step 4): the links of ports that the inventory names and that an owner holds come up, and each device's capacity is compared with the reported one. -/
def Hw.trainPorts (h : Hw) (m : MemReport) : Hw :=
  let up := (List.range 64).filter (fun n => m.links.any (fun x => x.val == n) && h.plat.ports.any (fun q => decide (q.1 = n ∧ q.2.2.1 ≠ 0)) && look 0 h.portOwner n != 0)
  (m.identify.filter (fun e => up.contains e.1.val)).foldl (fun (x : Hw) e => x.mapDevice e.1.val e.2) { h with portUp := up }

/-- The HDM decoders are programmed (R298, R311 step 5): a device whose decoder refuses its set's ways or granule is not mapped and is reported; the poison lists of the devices are cleared within the mapped ranges. -/
def Hw.programHdm (h : Hw) (m : MemReport) : Hw :=
  let named (n : Nat) : Bool := (List.range 32).any (fun k => let d := h.iset k; d.valid && d.far && decide (d.first ≤ n) && decide (n < d.first + d.n))
  let bad := (List.range 64).filter (fun n => (look? h.cap (100 + n)).isSome && named n && m.hdmBad.any (fun x => x.val == n))
  let h1 := bad.foldl (fun (x : Hw) n => ({ x with cap := del x.cap (100 + n) } : Hw).notifyExcluded 3 n 2) h
  let h2 := if bad.isEmpty then h1 else h1.raise { source := 0x239 }
  let h3 := (List.range 32).foldl (fun (x : Hw) k => x.hdmProgram k) h2
  { h3 with poison := h3.poison.filter (fun l => !isFar l) }

/-- A port whose reported width differs from the image's is excluded (R645). -/
def Hw.checkWidths (h : Hw) : Hw :=
  h.plat.ports.foldl (fun (x : Hw) q =>
    let joined := ((x.commit.joined.find? (fun g => g.1 == q.1)).map (·.2)).getD 1
    let want := if joined = 1 then 0 else if joined = 2 then 1 else 2
    if q.2.1 = want ∨ q.2.2.1 = 0 then x else ({ x with cap := del x.cap (100 + q.1) } : Hw).notifyExcluded 3 q.1 1) h

/-- The last PARTREQ differs from the image that was applied (R647). -/
def Hw.partreqDiff (h : Hw) : Bool :=
  match h.plat.partreq with
  | none => false
  | some l => !(h.commit.present.all (fun p => match l.find? (fun e => e.part == p) with
      | none => false
      | some e => decide (e.tolerant = h.commit.tolerant.contains p) &&
          (List.range 13).all (fun d => d == 0 || (e.dies.testBit d == decide (look 0 h.dieOwner d = p))) &&
          (List.range 64).all (fun n => e.ports.testBit n == decide (look 0 h.portOwner n = p)) &&
          decide (e.memGib ≤ ((List.range gibCount).filter (fun g => h.gibOwner g == p)).length)))

/-- The handoff block of a boot GiB (R578): an OS loader that failed its check has its entry zeroed (log entry 36). -/
def Hw.handoff (h : Hw) (p : Nat) (absent : Bool) : List Byte :=
  let m := h.boot.manifest
  let n := dsc m 12 2
  let tab := (List.range n).flatMap (fun i =>
    let e := slice m (2816 + 64 * i) 64
    if absent ∧ dsc e 0 1 = 7 ∧ dsc e 1 1 = p then List.replicate 64 0 else e)
  let head := h.bootConfig ++ toBytes 8 (h.reg .SEC_BOOTSTAT 0 0 0).toNat ++ toBytes 8 p ++ List.replicate 112 0 ++ tab
  head ++ List.replicate (4096 - head.length) 0

/-- The boot GiB of a partition: the lowest near-tier GiB that it owns (R578). -/
def Hw.bootGibOf (h : Hw) (p : Nat) : Option Nat := (List.range 16384).find? (fun g => h.gibOwner g == p)

/-- What is staged for a partition's boot GiB (R578). -/
def Hw.stageBoot (h : Hw) (slot p : Nat) (undercoat : List Byte) : Hw :=
  match h.bootGibOf p with
  | none => h
  | some g =>
    let os : Option (List Byte) := match compOf h.boot.manifest 7 p with
      | none => none
      | some c => match h.slotComp slot h.boot.manifest c with
        | .ok d => some d
        | .error _ => none
    let absent := (compOf h.boot.manifest 7 p).isSome && os.isNone
    let pieces := [(0, h.handoff p absent), (0x100000, undercoat)] ++ (match os with
      | some d => [(0x10000000, d)]
      | none => [])
    { h with boot := { h.boot with stage := put h.boot.stage g pieces, bootGib := put h.boot.bootGib p g } }

/-- The firmware and microcode of a slot run (R573): their versions are the components' own, which the spec does not place (log entry 4). -/
def Hw.loadFirmware (h : Hw) : Hw :=
  let (uc, h1) := h.fresh 32
  let (cd, h2) := h1.fresh 32
  let (pd, h3) := h2.fresh 32
  let h4 := (List.range 12).foldl (fun (x : Hw) d => x.setFld .DCTL_FW (d + 1) 0 0 F.DCTL_FW_VERSION cd.toNat) h3
  let h5 := (List.range 4).foldl (fun (x : Hw) d => x.setFld .DCTL_FW (0x10 + d) 0 0 F.DCTL_FW_VERSION pd.toNat) h4
  (List.range 56).foldl (fun (x : Hw) n => x.setFld .SKM_UCODE (engPlace n).1 (engPlace n).2 0 F.SKM_UCODE_VERSION uc.toNat) h5

/-- Components of some TYPEs in turn: the last one's bytes, or the REASON of the first that fails (R573, R574). -/
def Hw.bootComps (h : Hw) (slot : Nat) (types : List Nat) : Except Nat (List Byte) :=
  types.foldl (fun (a : Except Nat (List Byte)) t =>
    match a with
    | .error r => .error r
    | .ok _ => match compOf h.boot.manifest t 0 with
      | none => .error 0x0B
      | some c => h.slotComp slot h.boot.manifest c) (.ok [])

/-- The structure image to apply (R496): that of the active bank, or at cold reset the chosen slot's; with its digest, and whether it comes from the slot. -/
def Hw.bootImage (h : Hw) (slot : Nat) : Except Nat (List Byte × BitVec 384 × Bool) :=
  if !h.activeImg.isEmpty then .ok (h.activeImg, Config.sha384 h.activeImg, false)
  else match compOf h.boot.manifest 2 0 with
    | none => .error 0x0B
    | some c => match h.slotComp slot h.boot.manifest c with
      | .ok d => .ok (d, c.digest, true)
      | .error r => .error r

/-- An interleave set that names an excluded channel or an unmapped device is not applied (R311 step 6). -/
def Hw.dropSets (h : Hw) : Hw :=
  (List.range 32).foldl (fun (x : Hw) nn =>
    let d := x.iset nn
    if d.valid && !x.isetRules d then x.setFld .HOME_ISET_A 0 0 nn F.HOME_ISET_A_VALID 0 else x) h

/-- MREG01 to MREG03 at boot (R577). -/
def Hw.bootMregs (h : Hw) (img : BitVec 384) : Hw :=
  let h1 := h.mregExt 1 2 img
  let h2 := match compOf h1.boot.manifest 3 0 with
    | some c => h1.mregExt 2 3 c.digest
    | none => h1
  ((compsOf h2.boot.manifest).filter (fun c => decide (4 ≤ c.type ∧ c.type ≤ 6))).foldl (fun (x : Hw) c => x.mregExt 3 c.type c.digest) h2

/-- The rest of the Sizing loader's work (R311 steps 4 to 6, R577, R578, R583 steps 4 to 6): the image applies, the memory is set up, and Undercoat and the OS loaders are staged. -/
def Hw.sizingApply (h : Hw) (m : MemReport) (slot : Nat) (img : List Byte) (dig : BitVec 384) (fresh : Bool) (undercoat : List Byte) : Hw :=
  let h3 := if fresh then (((h.setBank 0 img).setFld .CFG_STAT 0 0 0 F.CFG_STAT_ACTIVE_BANK 0).setReg .CFG_HIGHSEQ 0 0 0 (BitVec.ofNat 64 (imgSeq img))) else h
  let h4 := (((((h3.applyAll img).trainPorts m).checkWidths).programHdm m).dropSets.farHold.loadFirmware).bootMregs dig
  let h5 := h4.commit.present.foldl (fun (x : Hw) p => x.stageBoot slot p undercoat) h4
  (((h5.setBoot F.SEC_BOOTSTAT_STOP 0).setPhase 2)).bootNotify (b2n h5.partreqDiff)

/-- The Sizing loader's work after the inventory is complete (R311, R496, R574, R583): the structure image, firmware and microcode are verified, the memory is trained, and Undercoat is verified. -/
def Hw.sizingRun (h : Hw) (m : MemReport) : Hw :=
  let slot := h.bootFld F.SEC_BOOTSTAT_SLOT
  match h.bootImage slot with
  | .error r => h.bootFail r
  | .ok (img, dig, fresh) =>
    let r := h.imgCheck img [] false
    if r ≠ 0 then (h.cfgResult r).bootFail 0x0C
    else match h.bootComps slot [4, 5, 6] with
      | .error r => h.bootFail r
      | .ok _ =>
        let h2 := h.trainChannels m
        if !(h2.cap.any (fun e => decide (e.1 < 24))) then h2.sizingStop 3
        else match h2.bootComps slot [3] with
          | .error r => h2.bootFail r
          | .ok undercoat => h2.sizingApply m slot img dig fresh undercoat

/-- A die that reported on a hub port has another stepping than the hub (R5, R473 step 7). -/
def Hw.stepDiffers (h : Hw) (hp : Nat) : Bool :=
  let v := h.reg .SLINK_DISC 0 0 hp
  [1, 3, 4, 6].contains (wbits v 63 60) && (decide (wbits v 15 12 ≠ Config.stepMajor) || decide (wbits v 11 8 ≠ Config.stepMinor))

/-- SIZING_LOADER_START (R311, R473, R566, R637): discovery, then the inventory is asked for once; with it complete, the loader goes on. -/
def Hw.sizing (h : Hw) (disc : List (Nat × DiscRes)) (m : MemReport) : Hw :=
  if !h.boot.sizing || decide (h.phase ≠ 1) then h
  else
    let h1 := if h.plat.invSent then h else
      (List.range 16).foldl (fun (x : Hw) hp => x.discover hp (look .none disc hp)) (h.setFld .DCTL_IDENT 0 0 0 F.DCTL_IDENT_DIE_ID 0)
    if (List.range 16).any h1.stepDiffers then h1.sizingStop 2
    else
      let h2 := if h1.plat.invSent then h1 else ({ h1 with plat := { h1.plat with invSent := true } } : Hw).notify 0x81 false []
      if h2.plat.invDone then h2.sizingRun m else h2

/-- SIZING_LOADER_START. -/
def execSizingLoaderStart (disc : List (HubPort × DiscRes)) (mem : MemReport) (s : State) : Host.Outcome State Fault Refusal :=
  s.onHw (fun h => h.sizing (disc.map (fun e => (e.1.val, e.2))) mem)

/-- INVENTORY_TIMEOUT (R637): 10 s after the first INV_REQ. -/
def execInventoryTimeout (s : State) : Host.Outcome State Fault Refusal :=
  s.onHw (fun h => if h.phase = 1 ∧ h.plat.invSent ∧ !h.plat.invDone then h.sizingStop 3 else h)

/-- The thread that starts a partition: thread 0 of logical core 0 on its lowest compute die (R578). -/
def Hw.bootThread (h : Hw) (p : Nat) : Option Nat :=
  ((List.range 13).find? (fun d => d != 0 && look 0 h.dieOwner d == p)).map (fun d => 64 * (d - 1))

/-- BOOT_THREAD_RELEASE (R578): once the partition's boot GiB is counted in DONE. -/
def Hw.bootRelease (h : Hw) (p : Nat) : Hw :=
  match look? h.boot.bootGib p, h.bootThread p with
  | some g, some t =>
    if h.phase = 2 ∧ h.mapped (g <<< 30) ∧ (h.thread t).run = .inReset ∧ !has h.partStopped p then
      let x : Thread := { run := .running, pc := BitVec.ofNat 64 ((g <<< 30) + 0x100000) }
      ({ h with partUp := ins h.partUp p } : Hw).setThread t (x.writeG 1 (BitVec.ofNat 64 (g <<< 30)))
    else h
  | _, _ => h

/-- BOOT_THREAD_RELEASE. -/
def execBootThreadRelease (p : PartIx) (s : State) : Host.Outcome State Fault Refusal := s.onHw (fun h => h.bootRelease (p.val + 1))

/-! Fuses (R575, R576). -/

/-- A write of SEC_FLOOR (R575): with GO while BUSY is 1 it is discarded. -/
def Hw.floorWrite (h : Hw) (w : Who) (half : Half) (v : W64) : Hw :=
  let go := wbit (v &&& halfMask half) 63
  if go && h.flag .SEC_FLOOR 0 0 0 F.SEC_FLOOR_BUSY then h
  else
    let h1 := (h.writeFields (RegRef.at .SEC_FLOOR 0) w half v).setFld .SEC_FLOOR 0 0 0 F.SEC_FLOOR_GO 0
    let req := min 128 (h1.fld .SEC_FLOOR 0 0 0 F.SEC_FLOOR_REQ)
    let res (x : Hw) (r : Nat) : Hw := x.setFld .SEC_FLOOR 0 0 0 F.SEC_FLOOR_RESULT r
    if !go then h1
    else if req ≤ h1.fld .SEC_FLOOR 0 0 0 F.SEC_FLOOR_CUR then res h1 2
    else if h1.bootFld F.SEC_BOOTSTAT_SVN < req then res h1 1
    else ({ h1 with boot := { h1.boot with floorBurn := some req } } : Hw).setFld .SEC_FLOOR 0 0 0 F.SEC_FLOOR_BUSY 1

/-- FLOOR_RAISE (R575). -/
def execFloorRaise (who : Who) (v : W64) (s : State) : Host.Outcome State Fault Refusal :=
  s.onHw (fun h => h.permit (RegRef.at .SEC_FLOOR 0) who v (fun h => h.floorWrite who .full v))

/-- Key slots present and not revoked. -/
def Hw.usableKeys (h : Hw) : List Nat := (List.range 4).filter (fun k => Config.keysPresent.testBit k && !h.keyRevoked k)

/-- A write of SEC_KEYREV (R576): with GO while BUSY is 1 it is discarded. -/
def Hw.keyrevWrite (h : Hw) (w : Who) (half : Half) (v : W64) : Hw :=
  let go := wbit (v &&& halfMask half) 63
  if go && h.flag .SEC_KEYREV 0 0 0 F.SEC_KEYREV_BUSY then h
  else
    let h1 := (h.writeFields (RegRef.at .SEC_KEYREV 0) w half v).setFld .SEC_KEYREV 0 0 0 F.SEC_KEYREV_GO 0
    let k := h1.fld .SEC_KEYREV 0 0 0 F.SEC_KEYREV_SLOT
    let res (x : Hw) (r : Nat) : Hw := x.setFld .SEC_KEYREV 0 0 0 F.SEC_KEYREV_RESULT r
    if !go then h1
    else if !Config.keysPresent.testBit k then res h1 3
    else if !h1.boot.manifest.isEmpty ∧ h1.bootFld F.SEC_BOOTSTAT_KEYSLOT = k then res h1 1
    else if h1.usableKeys = [k] then res h1 2
    else ({ h1 with boot := { h1.boot with keyBurn := some k } } : Hw).setFld .SEC_KEYREV 0 0 0 F.SEC_KEYREV_BUSY 1

/-- KEY_REVOKE (R576). -/
def execKeyRevoke (who : Who) (v : W64) (s : State) : Host.Outcome State Fault Refusal :=
  s.onHw (fun h => h.permit (RegRef.at .SEC_KEYREV 0) who v (fun h => h.keyrevWrite who .full v))

/-- FUSE_BURN_DONE (R575, R576): of the version floor, or of a key slot's revocation. -/
def execFuseBurnDone (floor : Bool) (s : State) : Host.Outcome State Fault Refusal :=
  s.onHw (fun h =>
    if floor then
      match h.boot.floorBurn with
      | some n => (((({ h with boot := { h.boot with floorBurn := none, floor := max h.boot.floor n } } : Hw).fuseRegs).setFld .SEC_FLOOR 0 0 0 F.SEC_FLOOR_BUSY 0).setFld
          .SEC_FLOOR 0 0 0 F.SEC_FLOOR_RESULT 0)
      | none => h
    else
      match h.boot.keyBurn with
      | some k => (((({ h with boot := { h.boot with keyBurn := none, revoked := h.boot.revoked ||| 2 ^ k } } : Hw).fuseRegs).setFld .SEC_KEYREV 0 0 0 F.SEC_KEYREV_BUSY 0).setFld
          .SEC_KEYREV 0 0 0 F.SEC_KEYREV_RESULT 0)
      | none => h)

/-! Flash commands and measurement (R577, R580). -/

/-- A flash command ends with a RESULT. -/
def Hw.flashRes (h : Hw) (r : Nat) : Hw :=
  (h.setFld .SEC_FLASHCMD 0 0 0 F.SEC_FLASHCMD_BUSY 0).setFld .SEC_FLASHCMD 0 0 0 F.SEC_FLASHCMD_RESULT r

/-- A write of SEC_FLASHCMD (R580): with GO while BUSY is 1 it is discarded. -/
def Hw.flashWrite (h : Hw) (w : Who) (half : Half) (v : W64) : Hw :=
  let go := wbit (v &&& halfMask half) 63
  if go && h.flag .SEC_FLASHCMD 0 0 0 F.SEC_FLASHCMD_BUSY then h
  else
    let h1 := (h.writeFields (RegRef.at .SEC_FLASHCMD 0) w half v).setFld .SEC_FLASHCMD 0 0 0 F.SEC_FLASHCMD_GO 0
    let op := h1.fld .SEC_FLASHCMD 0 0 0 F.SEC_FLASHCMD_OP
    let slot := h1.fld .SEC_FLASHCMD 0 0 0 F.SEC_FLASHCMD_SLOT
    let off := h1.fld .SEC_FLASHCMD 0 0 0 F.SEC_FLASHCMD_FOFF
    let buf := h1.fld .SEC_FLASHADDR 0 0 0 F.SEC_FLASHADDR_BUF <<< 12
    let len := if op = 1 then 65536 else 4096
    if !go || op = 0 then h1
    else if op ≠ 3 ∧ !h1.boot.manifest.isEmpty ∧ slot = h1.bootFld F.SEC_BOOTSTAT_SLOT then h1.flashRes 1
    else if off % len ≠ 0 ∨ Config.flashBytes < off + len then h1.flashRes 4
    else
      let start (d : List Byte) : Hw :=
        ({ h1 with boot := { h1.boot with flashOp := some { op := op, slot := slot, off := off, data := d } } } : Hw).setFld .SEC_FLASHCMD 0 0 0 F.SEC_FLASHCMD_BUSY 1
      if op = 2 then
        match h1.agentRead 0 w.world buf 4096 with
        | some d => start d
        | none => h1.flashRes 3
      else if op = 3 ∧ !h1.rangePass 0 w.world buf 4096 then h1.flashRes 3
      else start []

/-- A flash row. -/
def flashCmd (op : Nat) (who : Who) (slot : Bool) (foff : BitVec 32) (s : State) : Host.Outcome State Fault Refusal :=
  let v : W64 := setWbits (setWbits (setWbits (setWbits 0 63 63 1) 58 57 op) 56 56 (b2n slot)) 31 0 foff.toNat
  s.onHw (fun h => h.permit (RegRef.at .SEC_FLASHCMD 0) who v (fun h => h.flashWrite who .full v))

/-- FLASH_ERASE (R580). -/
def execFlashErase (who : Who) (slot : Bool) (foff : BitVec 32) (s : State) : Host.Outcome State Fault Refusal := flashCmd 1 who slot foff s

/-- FLASH_PROGRAM (R580). -/
def execFlashProgram (who : Who) (slot : Bool) (foff : BitVec 32) (s : State) : Host.Outcome State Fault Refusal := flashCmd 2 who slot foff s

/-- FLASH_READ (R580). -/
def execFlashRead (who : Who) (slot : Bool) (foff : BitVec 32) (s : State) : Host.Outcome State Fault Refusal := flashCmd 3 who slot foff s

/-- FLASH_OP_DONE (R580): the operation in progress ends; `err`: the flash answered an error. -/
def execFlashOpDone (err : Bool) (s : State) : Host.Outcome State Fault Refusal :=
  s.onHw (fun h =>
    match h.boot.flashOp with
    | none => h
    | some o =>
      let h1 : Hw := { h with boot := { h.boot with flashOp := none } }
      if err then h1.flashRes 2
      else if o.op = 1 then (h1.flashErase o.slot o.off).flashRes 0
      else if o.op = 2 then (h1.flashProgram o.slot o.off o.data).flashRes 0
      else
        let buf := h1.fld .SEC_FLASHADDR 0 0 0 F.SEC_FLASHADDR_BUF <<< 12
        (h1.agentWrite .hub 0 false buf ((List.range 4096).map (fun i => h1.flashByte o.slot (o.off + i)))).flashRes 0)

/-- A writer may extend a measurement register (R577): package services MREG01 to MREG03, a partition its own at M in the secure world. -/
def mayExtend (w : Who) (nn : Nat) : Bool :=
  if w.part.val = 0 then decide (1 ≤ nn ∧ nn ≤ 3) else decide (nn = 3 + w.part.val)

/-- A write of SEC_MEXT (R577): with GO while BUSY is 1 it is discarded. -/
def Hw.mextWrite (h : Hw) (w : Who) (half : Half) (v : W64) : Hw :=
  let go := wbit (v &&& halfMask half) 63
  if go && h.flag .SEC_MEXT 0 0 0 F.SEC_MEXT_BUSY then h
  else
    let h1 := (h.writeFields (RegRef.at .SEC_MEXT 0) w half v).setFld .SEC_MEXT 0 0 0 F.SEC_MEXT_GO 0
    let nn := h1.fld .SEC_MEXT 0 0 0 F.SEC_MEXT_REG
    let res (x : Hw) (r : Nat) : Hw := x.setFld .SEC_MEXT 0 0 0 F.SEC_MEXT_RESULT r
    if !go then h1
    else if !mayExtend w nn then res h1 1
    else match h1.agentRead w.part.val w.world (h1.fld .SEC_MEXT 0 0 0 F.SEC_MEXT_BUF <<< 6) 48 with
      | none => res h1 2
      | some d => res (h1.mregExt nn 0 (digestOf d)) 0

/-- MREG_EXTEND (R577). -/
def execMregExtend (who : Who) (v : W64) (s : State) : Host.Outcome State Fault Refusal :=
  s.onHw (fun h => h.permit (RegRef.at .SEC_MEXT 0) who v (fun h => h.mextWrite who .full v))

end Sys2Proof.Machine
end

