-- ==== Sys2Proof/Machine/Meter.lean ====
section
/-! DEFINITION. The sealed energy meter: its channels, accounts, records, seal, audit log and mailbox (spec/17_energy_meter.md R585 to R606). -/

namespace Sys2Proof.Machine

/-! The audit log and the alerts (R602, R605). -/

/-- An alert frame (R529, R535, R605): an event to package services, a METER notification, and the wake source 0x6 of the package in deep idle. -/
def Hw.meterAlert (h0 : Hw) (code : Nat) : Hw :=
  let h := h0.leaveDeep 6 code
  let h1 := (h.raise { source := 0x23B, code := code }).notify 0x88 (decide (code = 2 ∨ code = 5 ∨ code = 7)) (toBytes 1 code)
  if code = 2 then h1.setFld .MTRX_STAT 0 0 0 F.MTRX_STAT_SEALED 0
  else if code = 3 then h1.setFld .MTRX_STAT 0 0 0 F.MTRX_STAT_SEALED 1
  else if code = 5 then h1.setFld .MTRX_STAT 0 0 0 F.MTRX_STAT_LOGFULL 1 else h1

/-- An entry of the audit log (R602). -/
def Meter.entry (m : Meter) (type : Nat) (data : List Byte) : List Byte :=
  let chain := match m.audit.getLast? with
    | some e => (digestBytes (Config.sha384 e)).take 16
    | none => List.replicate 16 0
  toBytes 4 m.audit.length ++ toBytes 1 type ++ List.replicate 3 0 ++ toBytes 8 m.time ++ toBytes 8 m.rseq ++
  toBytes 4 m.fwVer ++ toBytes 4 m.calSeq ++ padTo 16 data ++ chain

/-- An entry is written, while the log has room; the log's two marks raise their alerts. -/
def Hw.meterAudit (h : Hw) (type : Nat) (data : List Byte := []) : Hw :=
  if 4096 ≤ h.meter.audit.length then h
  else
    let h1 := h.onMeter (fun m => { m with audit := m.audit ++ [m.entry type data] })
    if h1.meter.audit.length = 3686 then h1.meterAlert 4
    else if h1.meter.audit.length = 4080 then h1.meterAlert 5 else h1

/-! Interval records (R595 to R597). -/

/-- FLAGS of the record. -/
def Meter.flags (m : Meter) (short : Bool) : Nat :=
  b2n (!m.legalOn) + 2 * b2n m.infoGap + 4 * b2n short + 8 * b2n m.powerRestored + 16 * b2n m.timeAdj + 32 * b2n m.logFull + 64 * b2n m.vrange

/-- Bytes 0 to 535 of the record (R595). -/
def Meter.body (m : Meter) (short : Bool) : List Byte :=
  toBytes 4 0x52454D4C ++ toBytes 2 1 ++ toBytes 2 632 ++ toBytes 8 Config.meterSerial.toNat ++ toBytes 8 m.rseq ++ toBytes 8 m.tStart ++
  toBytes 4 (m.samples / 8) ++ toBytes 2 (m.flags short) ++ toBytes 1 m.chg.length ++ [0] ++ toBytes 4 m.fwVer ++ toBytes 4 m.calSeq ++
  toBytes 4 m.audit.length ++ toBytes 4 0 ++
  (List.range 17).flatMap (fun c => toBytes 4 (look 0 m.chE c)) ++ toBytes 4 0 ++
  (List.range 17).flatMap (fun c => toBytes 8 (look 0 m.chTot c)) ++
  (List.range 17).flatMap (fun c => toBytes 1 (look 0 m.lowSamples c / 8000)) ++ toBytes 7 0 ++
  (List.range 12).flatMap (fun d => toBytes 1 (look 0 m.owners0 (d + 1))) ++ toBytes 4 0 ++
  (List.range 13).flatMap (fun p => toBytes 4 (look 0 m.legal p)) ++
  (List.range 13).flatMap (fun p => toBytes 4 (look 0 m.info p)) ++
  padTo 64 (m.chg.flatMap (fun e => toBytes 1 e.1 ++ toBytes 1 e.2.1 ++ toBytes 2 0 ++ toBytes 4 e.2.2)) ++
  toBytes 8 m.tmHub ++ toBytes 8 m.tmMtr ++ digestBytes m.prev

/-- A record is signed, kept among the newest 1,024, chained and sent (R595, R597, R603). -/
def Meter.emit (m : Meter) (body : List Byte) : Meter :=
  let r := body ++ padTo 96 (Config.meterSign (Config.sha384 body))
  let kept := put m.records m.rseq r
  { m with records := kept.drop (kept.length - 1024), prev := Config.sha384 r, rseq := m.rseq + 1, outq := m.outq ++ [r] }

/-- A new interval starts at a meter time (R595, R606). -/
def Meter.startInterval (m : Meter) (t : Nat) : Meter :=
  { m with tStart := t, samples := 0, chE := [], lowSamples := [], legal := [], info := [], owners0 := m.owners, chg := [],
           infoGap := false, timeAdj := false, vrange := false, powerRestored := false, adj := 0, tmHub := 0, tmMtr := 0 }

/-- An interval ends and the next one starts; SHORT says that it was closed before its 480,000 samples (R588, R595). -/
def Meter.close (m : Meter) : Meter :=
  (m.emit (m.body (decide (m.samples < 480000)))).startInterval m.time

/-- INTERVAL_CLOSE (R595). -/
def execIntervalClose (s : State) : Host.Outcome State Fault Refusal :=
  s.onHw (fun h => if h.meter.on then h.onMeter (fun m => m.close) else h)

/-! Samples and accounts (R588 to R593). -/

/-- Nominal current of a channel in mA (R588). -/
def nominalMa (c : Nat) : Nat := if c = 0 then 3200 else if c ≤ 12 then 1700 else 1150

/-- The legal account of a channel's energy (R591). -/
def Meter.account (m : Meter) (c : Nat) : Nat := let o := look 0 m.owners c; if o ≤ 12 then o else 0

/-- One channel's sample (R588, R589, R591, R593): `V * I / 8000` J, the part below 1 mJ carried on. -/
def Meter.channel (m : Meter) (c mv ma : Nat) : Meter :=
  let u := look 0 m.frac c + mv * ma
  let e := u / 8000000
  { m with
    frac := put m.frac c (u % 8000000), chE := addTo m.chE c e,
    chTot := if m.legalOn then addTo m.chTot c e else m.chTot,
    legal := if 1 ≤ c ∧ c ≤ 12 then addTo m.legal (m.account c) e else m.legal,
    secE := if 1 ≤ c ∧ c ≤ 12 then m.secE else addTo m.secE c e,
    lowSamples := if 20 * ma < nominalMa c then addTo m.lowSamples c 1 else m.lowSamples,
    overSamples := put m.overSamples c (if 6 * nominalMa c < 5 * ma then look 0 m.overSamples c + 1 else 0) }

/-- The installation of firmware ends when the meter samples again (R601): its length, at most 20 s, is open, and meter time has gone on (log entry 77). -/
def Hw.meterInstalled (h : Hw) : Hw :=
  match h.meter.installing with
  | none => h
  | some (v, mark) =>
    let (gap, h1) := h.fresh 15
    (h1.onMeter (fun m => { m with installing := none, fwVer := v, adj := m.adj + (gap.toNat % 20001 : Nat) })).meterAudit 5 mark

/-- One sample of every channel, with the alerts that it raises (R588, R605). -/
def Hw.meterSample (hs : Hw) (s : List (Nat × Nat)) : Hw :=
  let h := hs.meterInstalled
  let h0 := if 480000 ≤ h.meter.samples then h.onMeter (fun m => m.close) else h
  let bad := (List.range 17).any (fun c => decide ((s.getD c (0, 0)).1 < 40000 ∨ 60000 < (s.getD c (0, 0)).1))
  let was := h0.meter.outOfRange
  let h1 := h0.onMeter (fun m =>
    let m1 := (List.range 17).foldl (fun (x : Meter) c => x.channel c (s.getD c (0, 0)).1 (s.getD c (0, 0)).2) m
    { m1 with samples := m1.samples + 1, vrange := m1.vrange || bad, outOfRange := bad })
  let h2 := (List.range 17).foldl (fun (x : Hw) c => if look 0 x.meter.overSamples c = 8000 then x.meterAlert 1 else x) h1
  if bad = was then h2 else h2.meterAlert 6

/-- METER_SAMPLE (R588). -/
def execMeterSample (v : List (Nat × Nat)) (s : State) : Host.Outcome State Fault Refusal :=
  s.onHw (fun h => if h.meter.on then h.meterSample v else h)

/-- An OWNER frame is applied (R592, R606): from the next sample; a ninth change closes the interval and opens the next one. -/
def Meter.applyOwner (m : Meter) (die o : Nat) : Meter :=
  if look 0 m.owners die = o then m
  else if 480000 ≤ m.samples ∨ 8 ≤ m.chg.length then
    let m1 := m.close
    { m1 with owners := put m1.owners die o, owners0 := put m1.owners0 die o }
  else { m with owners := put m.owners die o, chg := m.chg ++ [(die, o, m.samples)] }

/-- OWNER (R592). -/
def execOwner (die : CDie) (o : PartId) (s : State) : Host.Outcome State Fault Refusal :=
  s.onHw (fun h => if h.meter.on then h.onMeter (fun m => m.applyOwner (die.val + 1) o.val) else h)

/-- OWNER_RESEND (R592): every OWNER frame that was not delivered is sent again. -/
def execOwnerResend (s : State) : Host.Outcome State Fault Refusal :=
  s.onHw (fun h => h.mtrx.ownerPend.foldl (fun (x : Hw) e =>
    let bs := toBytes 1 0 ++ toBytes 1 e.1 ++ toBytes 1 e.2
    if x.torusTx.any (fun (f : TFrame) => decide (f.dst = meterNode ∧ f.src = 5 ∧ f.payload = bs)) then x
    else x.meterSend 0 (toBytes 1 e.1 ++ toBytes 1 e.2)) h)

/-- The informative accounts take a channel's energy of a second, by weights (R593). -/
def splitInfo (info : List (Nat × Nat)) (e : Nat) (w : List Nat) : List (Nat × Nat) :=
  let t := w.take 13
  let sum := t.foldl (· + ·) 0
  if sum = 0 then addTo info 0 e
  else
    let shares := (List.range 13).map (fun p => (p, e * t.getD p 0 / sum))
    let info1 := shares.foldl (fun (l : List (Nat × Nat)) q => addTo l q.1 q.2) info
    addTo info1 0 (e - shares.foldl (fun n q => n + q.2) 0)

/-- The channels of the hub and of the port dies. -/
def infoChannels : List Nat := [0, 13, 14, 15, 16]

/-- The weights of the accounts 0 to 12 of a unit (R593). -/
def Hw.weightsOf (h : Hw) (unit : Nat) : List Nat := (List.range 13).map (fun p => look 0 h.mtrx.weights (16 * unit + p))

/-- A second of weights begins (R593). -/
def Hw.newSecond (h : Hw) : Hw := { h with mtrx := { h.mtrx with weights := [] } }

/-- TRAFFIC (R593): the second's weights reach the meter, which divides the energy of the hub channel and of the port-die channels; the next second's start at zero. -/
def execTraffic (s : State) : Host.Outcome State Fault Refusal :=
  s.onHw (fun h =>
    if h.meter.on then h.newSecond.onMeter (fun m =>
      { m with info := infoChannels.zipIdx.foldl (fun (l : List (Nat × Nat)) q => splitInfo l (look 0 m.secE q.1) (h.weightsOf q.2)) m.info, secE := [] })
    else h.newSecond)

/-- TRAFFIC_LATE (R593): the second's weights are not used, and its energy goes to account 0. -/
def execTrafficLate (s : State) : Host.Outcome State Fault Refusal :=
  s.onHw (fun h => if h.meter.on then h.newSecond.onMeter (fun m =>
    { m with info := infoChannels.foldl (fun (l : List (Nat × Nat)) c => addTo l 0 (look 0 m.secE c)) m.info, secE := [], infoGap := true })
  else h.newSecond)

/-! The meter's supply (R587). -/

/-- METER_SUPPLY_LOSS (R587): the interrupted interval's record waits for its signature; a firmware load must start again (R606). -/
def execMeterSupplyLoss (s : State) : Host.Outcome State Fault Refusal :=
  s.onHw (fun h => if h.meter.on then h.onMeter (fun m =>
    { m with on := false, unsigned := some (m.body true), fwBuf := [], overSamples := [], outOfRange := false, sealReply := [] }) else h)

/-- METER_SUPPLY_RESTORE (R587, R596): a firmware installation that the loss cut is given up, with entry 0x07 (R606). -/
def execMeterSupplyRestore (ms : W64) (s : State) : Host.Outcome State Fault Refusal :=
  s.onHw (fun h => if h.meter.on then h else
    let h1 := (h.onMeter (fun m => { m with on := true })).meterAudit 9
    let ha := (h1.onMeter (fun m => { m with tStart := ms.toNat, samples := 0, adj := 0 })).meterAudit 0xA
    let h2 := if ha.meter.installing.isSome then (ha.onMeter (fun m => { m with installing := none })).meterAudit 7 else ha
    h2.onMeter (fun m =>
      let m1 := match m.unsigned with
        | some b => m.emit b
        | none => m
      { m1.startInterval ms.toNat with unsigned := none, powerRestored := true }))

/-! The seal (R600, R602). -/

/-- SEAL_OPEN (R600). -/
def execSealOpen (s : State) : Host.Outcome State Fault Refusal :=
  s.onHw (fun h => if !h.meter.on || h.meter.sealOpen then h else
    let full := decide (4096 ≤ h.meter.audit.length)
    let h1 := (h.onMeter (fun m => m.close)).meterAudit 3
    (h1.onMeter (fun m => { m with sealOpen := true, dead := m.dead || full })).meterAlert 2)

/-- SEAL_CLOSE (R600). -/
def execSealClose (s : State) : Host.Outcome State Fault Refusal :=
  s.onHw (fun h => if !h.meter.on || !h.meter.sealOpen then h else
    ((h.meterAudit 4).meterAlert 3).onMeter (fun m => { m.close with sealOpen := false }))

/-! The seal port (R598, R599, R601). -/

/-- One step of the CRC-16 of R598. -/
def crc16Bit (r : Nat) : Nat := if 0x8000 ≤ r then (2 * r % 65536) ^^^ 0x1021 else 2 * r

/-- The CRC-16 of a seal port frame (R598): polynomial 0x1021, initial value 0xFFFF, most significant bit first. -/
def crc16 (bs : List Byte) : Nat := bs.foldl (fun r b => (List.range 8).foldl (fun x _ => crc16Bit x) (r ^^^ (b.toNat <<< 8))) 0xFFFF

/-- A frame of the seal port (R598, log entry 76): ADDR, CMD, LEN, the payload and the CRC-16. -/
def sealFrame (addr cmd : Nat) (payload : List Byte) : List Byte :=
  let bs := toBytes 1 addr ++ toBytes 1 cmd ++ toBytes 2 payload.length ++ payload
  bs ++ toBytes 2 (crc16 bs)

/-- A reply of the seal port (R598): the request's CMD, and a payload that begins with a status. -/
def Hw.sealAnswer (h : Hw) (cmd status : Nat) (bs : List Byte := []) : Hw :=
  h.onMeter (fun m => { m with sealReply := sealFrame m.busAddr cmd (toBytes 1 status ++ bs) })

/-- A command of the seal port, which a meter without its supply does not answer. -/
def State.sealCmd (s : State) (f : Hw → Hw) : Host.Outcome State Fault Refusal :=
  s.onHw (fun h => if h.meter.on then f h else h)

/-- A command that is accepted only while the seal is open (R599): refused while sealed, as a bad request, or under R602. -/
def State.openCmd (s : State) (cmd : Nat) (ok full : Bool) (f : Hw → Hw) : Host.Outcome State Fault Refusal :=
  s.sealCmd (fun h =>
    if !h.meter.sealOpen then h.sealAnswer cmd 3
    else if !ok then h.sealAnswer cmd 1
    else if full && h.meter.logFull then h.sealAnswer cmd 4
    else f h)

/-- IDENT. -/
def execIdent (s : State) : Host.Outcome State Fault Refusal := s.sealCmd (fun h => h.sealAnswer 0x01 0 h.meter.identity)

/-- GETREC. -/
def execGetrec (rseq : W64) (s : State) : Host.Outcome State Fault Refusal :=
  s.sealCmd (fun h => match look? h.meter.records rseq.toNat with
    | some r => h.sealAnswer 0x02 0 r
    | none => h.sealAnswer 0x02 2)

/-- GETLATEST. -/
def execGetlatest (s : State) : Host.Outcome State Fault Refusal :=
  s.sealCmd (fun h => match h.meter.records.getLast? with
    | some r => h.sealAnswer 0x03 0 r.2
    | none => h.sealAnswer 0x03 2)

/-- GETLOG. -/
def execGetlog (ix : BitVec 16) (s : State) : Host.Outcome State Fault Refusal :=
  s.sealCmd (fun h => match h.meter.audit[ix.toNat]? with
    | some e => h.sealAnswer 0x04 0 e
    | none => h.sealAnswer 0x04 2)

/-- SYNC (R599, R602, R606): at most 5 s either way in 24 h of meter time; the adjusted time is the next interval's T_START. -/
def execSync (adj : BitVec 32) (s : State) : Host.Outcome State Fault Refusal :=
  s.sealCmd (fun h =>
    let now := h.meter.time
    let recent := h.meter.syncs.filter (fun e => decide (now < e.1 + 86400000))
    let sum := recent.foldl (fun (n : Int) e => n + e.2) 0 + adj.toInt
    if h.meter.logFull || decide (sum < -5000) || decide (5000 < sum) then h.sealAnswer 0x05 4
    else
      let h1 := (h.onMeter (fun m => { m with syncs := recent ++ [(now, adj.toInt)], adj := m.adj + adj.toInt, timeAdj := true })).meterAudit 8 (toBytes 4 adj.toNat)
      h1.sealAnswer 0x05 0 (toBytes 8 h1.meter.time))

/-- The first 16 bytes of the SHA-384 of data (R602). -/
def dataMark (bs : List Byte) : List Byte := (digestBytes (Config.sha384 bs)).take 16

/-- CALWRITE (R601). -/
def execCalwrite (data : List Byte) (s : State) : Host.Outcome State Fault Refusal :=
  s.openCmd 0x10 (decide (data.length ≤ 512)) true (fun h =>
    let h1 := (h.onMeter (fun m => { m with cal := data, calSeq := m.calSeq + 1 })).meterAudit 6 (dataMark data)
    h1.sealAnswer 0x10 0 (toBytes 4 h1.meter.calSeq))

/-- FWLOAD (R599). -/
def execFwload (off : BitVec 32) (data : List Byte) (s : State) : Host.Outcome State Fault Refusal :=
  s.openCmd 0x11 (decide (data.length ≤ 1020)) false (fun h =>
    (h.onMeter (fun m => { m with fwBuf := (List.range data.length).foldl (fun (l : List (Nat × Byte)) i => put l (off.toNat + i) (data.getD i 0)) m.fwBuf })).sealAnswer 0x11 0)

/-- The firmware image loaded. -/
def Meter.fwImage (m : Meter) : List Byte := m.fwBuf.map (·.2)

/-- FWCOMMIT (R601, R606): an accepted image is installed while the meter takes no samples; its entry is written when the installation has ended. -/
def execFwcommit (version : BitVec 32) (manifest : List Byte) (s : State) : Host.Outcome State Fault Refusal :=
  s.openCmd 0x12 (decide (manifest.length ≤ 1024)) true (fun h =>
    let img := h.meter.fwImage
    if Config.meterFwOk manifest img && decide (h.meter.fwVer ≤ version.toNat) then
      (h.onMeter (fun m => { m with installing := some (version.toNat, dataMark img), fwBuf := [] })).sealAnswer 0x12 0 (toBytes 4 version.toNat)
    else ((h.meterAudit 7).meterAlert 7).sealAnswer 0x12 5)

/-- SETADDR (R599). -/
def execSetaddr (addr : BitVec 8) (s : State) : Host.Outcome State Fault Refusal :=
  s.openCmd 0x13 (decide (1 ≤ addr.toNat ∧ addr.toNat ≤ 247)) true (fun h =>
    ((h.onMeter (fun m => { m with busAddr := addr.toNat })).meterAudit 0xB).sealAnswer 0x13 0)

/-- VERIFY (R599). -/
def execVerify (id : List Byte) (s : State) : Host.Outcome State Fault Refusal :=
  s.openCmd 0x14 (decide (id.length = 16)) true (fun h =>
    (h.meterAudit 0xC id).sealAnswer 0x14 0 (toBytes 2 h.meter.audit.length))

/-! The hub mailbox (R603, R604). -/

/-- Slots of the record ring. -/
def Hw.mtrxSlots (h : Hw) : Nat := 16 <<< min 6 (h.fld .MTRX_RING 0 0 0 F.MTRX_RING_SIZE)

/-- A slot of the record ring is written: 640 B, and the event; or the record is missed. -/
def Hw.mtrxSlot (h : Hw) (r : List Byte) : Hw :=
  let wr := h.fld .MTRX_RPTR 0 0 0 F.MTRX_RPTR_WR
  let rd := h.fld .MTRX_RPTR 0 0 0 F.MTRX_RPTR_RD
  if !h.flag .MTRX_RING 0 0 0 F.MTRX_RING_EN then h
  else if (wr + 65536 - rd) % 65536 = h.mtrxSlots then
    h.setFld .MTRX_STAT 0 0 0 F.MTRX_STAT_MISSED (min 0xFFFF (h.fld .MTRX_STAT 0 0 0 F.MTRX_STAT_MISSED + 1))
  else
    let a := (h.fld .MTRX_RING 0 0 0 F.MTRX_RING_BASE <<< 12) + 1024 * (wr % h.mtrxSlots)
    ((h.agentWrite .hub 0 false a (padTo 640 r)).setFld .MTRX_RPTR 0 0 0 F.MTRX_RPTR_WR ((wr + 1) % 65536)).raise { source := 0x23A }

/-- What the newest record says of the meter (R603); an alert that the record preceded stands. -/
def Hw.mtrxNews (h : Hw) (r : List Byte) : Hw :=
  let fl := dsc r 36 2
  if dsc r 0 4 = 0x52454D4C ∧ dsc r 16 8 + 1 = h.meter.rseq then
    let h1 := (h.setFld .MTRX_STAT 0 0 0 F.MTRX_STAT_FW_VER (dsc r 40 4)).setFld .MTRX_STAT 0 0 0 F.MTRX_STAT_LOGFULL (b2n (fl.testBit 5))
    if !fl.testBit 0 && h.meter.sealOpen then h1 else h1.setFld .MTRX_STAT 0 0 0 F.MTRX_STAT_SEALED (b2n (!fl.testBit 0))
  else h

/-- The command of MTRX_CMD that a slot answers ends (R603). -/
def Hw.mtrxAnswer (h : Hw) (r : List Byte) : Hw :=
  let v := h.reg .MTRX_CMD 0 0 0
  let hit := if dsc r 0 4 = 0x44494D4C then F.MTRX_CMD_OP.get v = 1 else F.MTRX_CMD_OP.get v = 2 ∧ dsc r 16 8 = F.MTRX_CMD_ARG.get v
  if F.MTRX_CMD_BUSY.get v = 1 ∧ hit then h.mtrxDone 0 else h

/-- METER_RECORD_DELIVERY (R603). -/
def execMeterRecordDelivery (s : State) : Host.Outcome State Fault Refusal :=
  s.onHw (fun h => match h.meter.outq with
    | r :: q => (((h.onMeter (fun m => { m with outq := q })).mtrxSlot r).mtrxNews r).mtrxAnswer r
    | [] => h)

/-- A write of MTRX_CMD (R603, R604): with GO while BUSY is 1 it is discarded. -/
def Hw.mtrxCmdWrite (h : Hw) (w : Who) (half : Half) (v : W64) : Hw :=
  let go := wbit (v &&& halfMask half) 63
  if go && h.flag .MTRX_CMD 0 0 0 F.MTRX_CMD_BUSY then h
  else
    let h1 := (h.writeFields (RegRef.at .MTRX_CMD 0) w half v).setFld .MTRX_CMD 0 0 0 F.MTRX_CMD_GO 0
    let op := h1.fld .MTRX_CMD 0 0 0 F.MTRX_CMD_OP
    let arg := if op = 2 then h1.fld .MTRX_CMD 0 0 0 F.MTRX_CMD_ARG else if op = 3 then h1.now else 0
    if go && decide (1 ≤ op) && decide (op ≤ 3) then (h1.setFld .MTRX_CMD 0 0 0 F.MTRX_CMD_BUSY 1).meterSend 2 (toBytes 1 op ++ toBytes 8 arg)
    else h1

/-- The value that a command of MTRX_CMD writes. -/
def mtrxValue (op arg : Nat) : W64 := setWbits (setWbits (setWbits 0 63 63 1) 58 56 op) 55 0 arg

/-- A command of MTRX_CMD from a writer (R604). -/
def Hw.mtrxCmd (h : Hw) (w : Who) (v : W64) : Hw := h.permit (RegRef.at .MTRX_CMD 0) w v (fun h => h.mtrxCmdWrite w .full v)

/-- MTRX_IDENT (R604). -/
def execMtrxIdent (who : Who) (s : State) : Host.Outcome State Fault Refusal := s.onHw (fun h => h.mtrxCmd who (mtrxValue 1 0))

/-- RESEND (R604). -/
def execResend (who : Who) (rseq : BitVec 56) (s : State) : Host.Outcome State Fault Refusal :=
  s.onHw (fun h => h.mtrxCmd who (mtrxValue 2 rseq.toNat))

/-- TIMEMARK (R604). -/
def execTimemark (who : Who) (s : State) : Host.Outcome State Fault Refusal := s.onHw (fun h => h.mtrxCmd who (mtrxValue 3 0))

/-- A write of MTRX_RING (R603): a staged write is applied while EN is 0, and sets WR and RD to 0. -/
def Hw.mtrxRingWrite (h : Hw) (w : Who) (half : Half) (v : W64) : Hw :=
  let r := RegRef.at .MTRX_RING 0
  let h1 := h.writeFields r w half v
  if h1.flag .MTRX_RING 0 0 0 F.MTRX_RING_EN || (look? h1.shadow (regAddr .MTRX_RING 0 0 0)).isNone then h1
  else (h1.applyShadow r).setReg .MTRX_RPTR 0 0 0 0

end Sys2Proof.Machine
end

