-- ==== Sys2Proof/Machine/Service.lean ====
section
/-! DEFINITION. Escalation, die loss, live updates, calibration in service, hot plug and device requests (spec/18_events_errors_service.md R618 to R634; spec/05_address_translation.md R206 to R209). -/

namespace Sys2Proof.Machine

/-! Fatal errors (R623, R624). -/

/-- The threads of a partition stop and keep their state for dump (R623 step 1). -/
def Hw.stopPartition (h : Hw) (p : Nat) : Hw :=
  { h with thr := h.thr.map (fun (e : Nat × Thread) => if h.partOf e.1 = p then
      (e.1, match e.2.run with
        | .running => { e.2 with run := .offline }
        | .waiting _ => { e.2 with run := .offline }
        | _ => e.2) else e) }

/-- The partition's reset that package services carry out, or hold while a DUMPHOLD is in force (R623 step 5, R641). -/
def Hw.fatalReset (h : Hw) (p : Nat) : Hw :=
  if has h.plat.dumphold p then { h with plat := { h.plat with resetHeld := ins h.plat.resetHeld p } } else h.partReset p

/-- A partition-fatal error, recorded on a compute die (R623). A stopped partition leaves the confirm set (R499). -/
def Hw.partFatal (h : Hw) (p die : Nat) : Hw :=
  if p = 0 ∨ has h.partStopped p then h
  else
    let h1 := (({ h with partStopped := ins h.partStopped p } : Hw).stopPartition p).partCancel p
    let h2 := (List.range 64).foldl (fun (x : Hw) n => if look 0 x.portOwner n = p then x.portAbort n else x) h1
    let h3 := (h2.raise { source := 0x23D, part := p, sev := 3 }).raise { source := 16 * (die - 1) + 2, part := p, sev := 3 }
    ((h3.healthAlert 2 p die 0x3FF 0).confirmLeave p).fatalReset p

/-- PARTITION_FATAL (R623). -/
def execPartitionFatal (p : PartIx) (die : CDie) (s : State) : Host.Outcome State Fault Refusal := s.onHw (fun h => h.partFatal (p.val + 1) (die.val + 1))

/-- PACKAGE_FATAL (R624): recorded and reported, then a package warm reset. -/
def execPackageFatal (kind : BitVec 8) (s : State) : Host.Outcome State Fault Refusal :=
  s.onHw (fun h => ((h.ras 0 3 { code := 0x45, sev := 3, detail := kind.toNat }).healthAlert 3 0 0 0x3FF 0x45).warmReset)

/-! Die loss (R625 to R627). -/

/-- The near-tier channels of an interleave set. -/
def ISet.channels (d : ISet) : List Nat := if d.valid && !d.far then (List.range d.n).map (d.first + ·) else []

/-- A set holds memory that a test of its GiBs finds. -/
def Hw.setHolds (h : Hw) (d : ISet) (f : Hw → Nat → Bool) : Bool := (List.range d.size).any (fun i => f h (d.base + i))

/-- The channels that hold memory of a partition, and those that hold the region table (R625 step 3). -/
def Hw.sweepChannels (h : Hw) (p : Nat) : List Nat :=
  let rt := h.fld .HOME_RTBASE 0 0 0 F.HOME_RTBASE_BASE
  let n := h.fld .HOME_RTBASE 0 0 0 F.HOME_RTBASE_SIZE
  ((List.range 32).flatMap (fun nn =>
    let d := h.iset nn
    if h.setHolds d (fun h g => h.gibOwner g == p || (decide (rt ≤ g) && decide (g < rt + n))) then d.channels else [])).eraseDups

/-- Compute dies of a partition that are not fenced. -/
def Hw.diesLeft (h : Hw) (p : Nat) : List Nat := (List.range 13).filter (fun d => d != 0 && look 0 h.dieOwner d == p && !h.fenced (.core d 0))

/-- A compute die is lost (R625). -/
def Hw.dieLost (h : Hw) (die : Nat) : Hw :=
  let p := look 0 h.dieOwner die
  let cause := h.linkFld (dieHp die) true F.SLINK_STAT_CAUSE
  let before := h.poison
  let h1 := ((h.fenceDie die).stopDie die).onlineSet (die - 1) 0
  let fatal := decide (p ≠ 0) && (!h1.commit.tolerant.contains p || (h1.diesLeft p).isEmpty)
  let h2 := (h1.ras 0 3 { code := 0x46, sev := if fatal then 3 else 2, unit := die, detail := cause, part := p }).healthAlert 4 p die 0x3FF 0x46
  let h3 := (h2.sweepChannels p).foldl (fun (x : Hw) c => x.setFld .MEMC_SCRUB 0 c 0 F.MEMC_SCRUB_SWEEP_BUSY 1) h2
  if p = 0 then h3
  else if fatal then h3.partFatal p die
  else { h3 with losses := h3.losses ++ [{ die := die, part := p, cause := cause, tick := h3.aoTick, before := before }] }

/-- DIE_LOSS (R625). -/
def execDieLoss (die : CDie) (s : State) : Host.Outcome State Fault Refusal := s.onHw (fun h => h.dieLost (die.val + 1))

/-- A die-lost report (R626): `pages` are the pages with the number of their poisoned lines. -/
def lossReport (l : DieLoss) (seq : Nat) (complete : Bool) (pages : List (Nat × Nat)) : List Byte :=
  let e := pages.take 2040
  let flags := b2n complete + 2 * b2n (decide (2040 < pages.length))
  let body := toBytes 4 0x52444C44 ++ toBytes 2 1 ++ toBytes 1 l.die ++ toBytes 1 l.cause ++ toBytes 4 seq ++ toBytes 2 flags ++ toBytes 2 0 ++
    toBytes 2 (64 * (l.die - 1)) ++ toBytes 2 64 ++ toBytes 4 e.length ++ toBytes 8 l.tick ++ List.replicate 32 0 ++
    e.flatMap (fun q => toBytes 8 (q.1 * 4096 + q.2))
  padTo ((body.length + 63) / 64 * 64) body

/-- The 4 KiB pages that hold lines, with their number. -/
def pagesOf (lines : List Nat) : List (Nat × Nat) :=
  lines.foldl (fun (l : List (Nat × Nat)) x => addTo l (x / 64) 1) []

/-- A report of a die loss is written in its slot, or held while no slot is free (R626). -/
def Hw.dieReport (h : Hw) (die : Nat) (complete : Bool) : Hw :=
  match h.losses.find? (fun l => l.die == die) with
  | none => h
  | some l =>
    let base := h.fld .EVR_RPTBASE 0 0 l.part F.EVR_RPTBASE_BASE <<< 16
    let free (k : Nat) : Bool := match h.agentRead l.part false (base + 16384 * k) 4 with
      | some bs => decide (ofBytes bs = 0) && !(h.losses.any (fun m => decide (m.part = l.part ∧ m.slot = some k)))
      | none => false
    match l.slot <|> (List.range 4).find? free with
    | none => h
    | some k =>
      let done := complete && (h.sweepChannels l.part).all (fun c => !h.flag .MEMC_SCRUB 0 c 0 F.MEMC_SCRUB_SWEEP_BUSY)
      let pages := pagesOf (h.poison.filter (fun x => !has l.before x && decide (h.gibOwner (x >>> 24) = l.part)))
      let h1 := (h.agentWrite .hub l.part false (base + 16384 * k) (lossReport l (l.seq + 1) done pages)).raise
        { source := 16 * (die - 1) + 10, part := l.part, code := 0x46 }
      if done then { h1 with losses := h1.losses.filter (fun m => !(m.die == die)) }
      else { h1 with losses := mapIf (fun m => m.die == die) (fun m => { m with slot := some k, seq := m.seq + 1 }) h1.losses }

/-- DIE_LOST_REPORT (R626). -/
def execDieLostReport (die : CDie) (complete : Bool) (s : State) : Host.Outcome State Fault Refusal := s.onHw (fun h => h.dieReport (die.val + 1) complete)

/-- A port die is lost (R627): fenced with its port agents and engines; its ports' queued accesses complete under R235. -/
def Hw.portDieLost (h : Hw) (k : Nat) : Hw :=
  let d := 0x10 + k
  let cause := h.linkFld (dieHp d) true F.SLINK_STAT_CAUSE
  let owners := ((List.range 16).map (fun i => look 0 h.portOwner (16 * k + i)) ++ (List.range 8).map (fun i => look 0 h.engOwner (24 + 8 * k + i))).eraseDups
  let h1 := (h.fenceDie d).stopDie d
  let h2 := (List.range 16).foldl (fun (x : Hw) i => x.portDown (16 * k + i)) h1
  let h3 := (h2.ras 0 3 { code := 0x46, sev := 2, unit := d, detail := cause }).healthAlert 5 0 d 0x3FF 0x46
  (owners.filter (fun p => p != 0)).foldl (fun (x : Hw) p => x.raise { source := 0x23C, part := p, sev := 2, code := 0x46 }) h3

/-- PORT_DIE_LOSS (R627). -/
def execPortDieLoss (die : PDie) (s : State) : Host.Outcome State Fault Refusal := s.onHw (fun h => h.portDieLost die.val)

/-! Live updates (R628 to R631). -/

/-- A write of DCTL_FW (R629): with STATE 0x1, SWITCH starts the switch to the staged bank. -/
def Hw.fwWrite (h : Hw) (w : Who) (die : Nat) (half : Half) (v : W64) : Hw :=
  let go := wbit (v &&& halfMask half) 0
  let h1 := (h.writeFields (RegRef.at .DCTL_FW die) w half v).setFld .DCTL_FW die 0 0 F.DCTL_FW_SWITCH 0
  if go && decide (h1.fld .DCTL_FW die 0 0 F.DCTL_FW_STATE = 1) then
    ({ h1 with fwSwitch := ins h1.fwSwitch die } : Hw).setFld .DCTL_FW die 0 0 F.DCTL_FW_STATE 2
  else h1

/-- FIRMWARE_SWITCH (R629): the hub has no DCTL_FW. -/
def execFirmwareSwitch (who : Who) (die : DieIx) (s : State) : Host.Outcome State Fault Refusal :=
  s.onHw (fun h =>
    let d := dieId die
    if d = 0 then h.refuseReg 0 (winBase 0 + 0x50) who
    else h.permit (RegRef.at .DCTL_FW d) who 1 (fun h => h.fwWrite who d .full 1))

/-- FIRMWARE_SWITCH_DONE (R629): the controller runs the new bank or the old one, and takes the frames that were queued for it. -/
def execFirmwareSwitchDone (die : DieIx) (ok : Bool) (version : BitVec 32) (s : State) : Host.Outcome State Fault Refusal :=
  s.onHw (fun h =>
    let d := dieId die
    if !has h.fwSwitch d then h
    else
      let h1 := ({ h with fwSwitch := rem h.fwSwitch d } : Hw).setFld .DCTL_FW d 0 0 F.DCTL_FW_STATE (if ok then 0 else 3)
      let h2 := if ok then
          (h1.setFld .DCTL_FW d 0 0 F.DCTL_FW_BANK (1 - h1.fld .DCTL_FW d 0 0 F.DCTL_FW_BANK)).setFld .DCTL_FW d 0 0 F.DCTL_FW_VERSION version.toNat
        else h1
      let mine (f : TFrame) : Bool := decide (dieOfNode f.dst = some d)
      (h2.torusHeld.filter mine).foldl (fun (x : Hw) f => x.torusAccept f) { h2 with torusHeld := h2.torusHeld.filter (fun f => !mine f) })

/-- The engine is halted or idle (R630). -/
def Hw.engQuiet (h : Hw) (n : Nat) : Bool :=
  match look? h.run n with
  | some r => r.halted && !h.fenced (.eng n)
  | none => !h.fenced (.eng n)

/-- A write of SKM_UCODE (R630): with STATE 0b01 and the engine halted or idle, GO loads the staged microcode; it waits for the end of a piece that a halt does not stop. -/
def Hw.ucodeWrite (h : Hw) (w : Who) (n : Nat) (half : Half) (v : W64) : Hw :=
  let (die, inst) := engPlace n
  let go := wbit (v &&& halfMask half) 16
  let h1 := (h.writeFields (RegRef.at .SKM_UCODE die inst) w half v).setFld .SKM_UCODE die inst 0 F.SKM_UCODE_GO 0
  if !go || decide (h1.fld .SKM_UCODE die inst 0 F.SKM_UCODE_STATE ≠ 1) then h1
  else if h1.engQuiet n then h1.setFld .SKM_UCODE die inst 0 F.SKM_UCODE_STATE 2
  else match look? h1.run n with
    | some r => if (h1.job r.piece.slot).world && !h1.fenced (.eng n) then h1.setRun n { r with ucode := true } else h1
    | none => h1

/-- UCODE_LOAD (R630). -/
def execUcodeLoad (who : Who) (n : EngNum) (s : State) : Host.Outcome State Fault Refusal :=
  s.onHw (fun h => h.permit (RegRef.at .SKM_UCODE (engPlace n.val).1 (engPlace n.val).2) who 0x10000 (fun h => h.ucodeWrite who n.val .full 0x10000))

/-- UCODE_LOAD_DONE (R630). -/
def execUcodeLoadDone (n : EngNum) (ok : Bool) (version : BitVec 32) (s : State) : Host.Outcome State Fault Refusal :=
  s.onHw (fun h =>
    let (die, inst) := engPlace n.val
    if h.fld .SKM_UCODE die inst 0 F.SKM_UCODE_STATE ≠ 2 then h
    else
      let h1 := h.setFld .SKM_UCODE die inst 0 F.SKM_UCODE_STATE (if ok then 0 else 3)
      if ok then h1.setFld .SKM_UCODE die inst 0 F.SKM_UCODE_VERSION version.toNat else h1)

/-- A write of DCTL_UPDnn_CMD (R631): GO queues a verification, in order of GO. -/
def Hw.updWrite (h : Hw) (w : Who) (p : Nat) (half : Half) (v : W64) : Hw :=
  let go := wbit (v &&& halfMask half) 63
  let i := p - 1
  let h1 := (h.writeFields (RegRef.at .DCTL_UPD_CMD 0 0 i) w half v).setFld .DCTL_UPD_CMD 0 0 i F.DCTL_UPD_CMD_GO 0
  if go && !h1.flag .DCTL_UPD_CMD 0 0 i F.DCTL_UPD_CMD_BUSY then
    ({ h1 with updq := h1.updq ++ [(p, h1.fld .DCTL_UPD_CMD 0 0 i F.DCTL_UPD_CMD_TYPE)] } : Hw).setFld .DCTL_UPD_CMD 0 0 i F.DCTL_UPD_CMD_BUSY 1
  else h1

/-- UPDATE_VERIFY (R631). -/
def execUpdateVerify (who : Who) (p : PartIx) (type : BitVec 8) (s : State) : Host.Outcome State Fault Refusal :=
  let v : W64 := setWbits (setWbits 0 63 63 1) 47 40 type.toNat
  s.onHw (fun h => h.permit (RegRef.at .DCTL_UPD_CMD 0 0 p.val) who v (fun h => h.updWrite who (p.val + 1) .full v))

/-- The image at ADDR is read with the partition's ID and checked (R572, R573, R631): the REASON, or the component; memory that the homes refuse gives 0x02 for the manifest and 0x09 for a component. -/
def Hw.updCheck (h : Hw) (p type : Nat) : Except Nat Comp :=
  let base := h.fld .DCTL_UPD_ADDR 0 0 (p - 1) F.DCTL_UPD_ADDR_BASE <<< 12
  if type ≠ 3 ∧ type ≠ 7 then .error 0x0B
  else match h.agentRead p false base 2816 with
    | none => .error 0x02
    | some hd => match h.agentRead p false base (min (bodyLen hd + 4723) 0x40000) with
      | none => .error 0x02
      | some m => match h.manifestCheck m none with
        | 0 => match compOf m type (if type = 7 then p else 0) with
          | none => .error 0x0B
          | some c => match h.agentRead p false (base + c.foff - 0x10000) c.len with
            | none => .error 0x09
            | some d => if compGood m c d then .ok c else .error 0x09
        | r => .error r

/-- UPDATE_VERIFY_DONE (R631). -/
def execUpdateVerifyDone (s : State) : Host.Outcome State Fault Refusal :=
  s.onHw (fun h => match h.updq with
    | [] => h
    | (p, type) :: q =>
      let res (x : Hw) (r : Nat) : Hw := ((x.setFld .DCTL_UPD_CMD 0 0 (p - 1) F.DCTL_UPD_CMD_BUSY 0).setFld .DCTL_UPD_CMD 0 0 (p - 1) F.DCTL_UPD_CMD_RESULT r).raise
        { source := 0x23E, part := p }
      let h1 : Hw := { h with updq := q }
      match h1.updCheck p type with
      | .error r => res h1 r
      | .ok c => res (if type = 3 then h1.mregExt 2 3 c.digest else h1) 0)

/-! Calibration in service (R633, R634). -/

/-- A write of MEMC_RECAL (R633): GO starts a pass. -/
def Hw.recalWrite (h : Hw) (w : Who) (ch : Nat) (half : Half) (v : W64) : Hw :=
  let go := wbit (v &&& halfMask half) 62
  let h1 := (h.writeFields (RegRef.at .MEMC_RECAL 0 ch) w half v).setFld .MEMC_RECAL 0 ch 0 F.MEMC_RECAL_GO 0
  if go then h1.setFld .MEMC_RECAL 0 ch 0 F.MEMC_RECAL_BUSY 1 else h1

/-- DDR_RECALIBRATION_PASS (R633, R634): it waits while a rank is being copied to a spare. -/
def execDdrRecalibrationPass (ch : Fin 24) (bad : Option (Bool × BitVec 2)) (s : State) : Host.Outcome State Fault Refusal :=
  s.onHw (fun h =>
    let c := ch.val
    let res (x : Hw) (r : Nat) : Hw := x.setFld .MEMC_RECAL 0 c 0 F.MEMC_RECAL_RESULT r
    if !h.flag .MEMC_RECAL 0 c 0 F.MEMC_RECAL_EN && !h.flag .MEMC_RECAL 0 c 0 F.MEMC_RECAL_BUSY then h
    else if h.flag .MEMC_SPARE 0 c 0 F.MEMC_SPARE_BUSY then res h 2
    else
      let h1 := h.setFld .MEMC_RECAL 0 c 0 F.MEMC_RECAL_BUSY 0
      match bad with
      | none => res h1 0
      | some (dimm, rank) => (res h1 1).memcErr c 0x10 1 0 { noLoc with dimm := b2n dimm, rank := rank.toNat } 0xF)

/-- SENSOR_CALIBRATION (R633, R634): it waits while a fast throttle lasts; with every sensor failed, FCEIL is held at 1.2 GHz and code 0x26 recorded. -/
def execSensorCalibration (die : DieIx) (failed : BitVec 40) (s : State) : Host.Outcome State Fault Refusal :=
  s.onHw (fun h =>
    let d := dieId die
    if h.flag .PWR_THERM d 0 0 F.PWR_THERM_FAST_THR then h
    else
      let n := 2 ^ sensorCount d
      let m := (h.fld .PWR_TCAL d 0 0 F.PWR_TCAL_FAILED ||| failed.toNat) % n
      let h1 := h.setFld .PWR_TCAL d 0 0 F.PWR_TCAL_FAILED m
      if m + 1 ≠ n then h1
      else
        let h2 := if 1 ≤ d ∧ d ≤ 12 then [0, 1].foldl (fun (x : Hw) c => x.setCeil d c) h1 else h1
        h2.ras d (if d = 0 then 3 else 1) { code := 0x26, sev := 1, detail := 0xFF, part := h2.dieOwnerOf d })

/-! Hot plug (R632). -/

/-- A port's link comes up (R311 step 4, R329): a CXL memory device's capacity is compared with the reported one, and lines that were returned marked POISON while the link was down are read from the device again. -/
def Hw.portLinkUp (h : Hw) (n : Nat) (identify : Option Nat) : Hw :=
  let stale (l : Nat) : Bool := isFar l && decide (look .unc h.dir (dirKey l) = .unc) && ((h.isetOf (l <<< 6)).any (fun nn => decide ((h.target nn (l <<< 6)).1 = n)))
  let h1 : Hw := { h with portUp := ins h.portUp n, tpoison := h.tpoison.filter (fun l => !stale l) }
  match identify with
  | some c => h1.mapDevice n c
  | none => h1

/-- HOT_PLUG_EVENT (R632): Slot Status takes the bits, the link goes up or down, and the port's source is raised; the link of a port that no partition owns stays disabled (R486). -/
def execHotPlugEvent (port : PortNum) (bits : BitVec 16) (up down : Bool) (identify : Option Nat) (s : State) : Host.Outcome State Fault Refusal :=
  s.onHw (fun h =>
    let n := port.val
    let h1 : Hw := { h with plat := { h.plat with slotStat := put h.plat.slotStat n (look 0 h.plat.slotStat n ||| bits.toNat) } }
    let h2 := if down then { h1.portDown n with cap := del h1.cap (100 + n), hdm := h1.hdm.filter (fun e => decide (e.1 / 32 ≠ n)) }
      else if up && look 0 h1.portOwner n != 0 then h1.portLinkUp n identify
      else h1
    h2.portRaise n)

/-! Requests of devices (R206 to R209, R263, R265). -/

/-- A refused device request is recorded (R208, R209). -/
def Hw.xtlFault (h : Hw) (port rid : Nat) (va : W64) (write : Bool) (cause detail : Nat) : Hw :=
  let (die, inst) := portPlace port
  let part := look 0 h.portOwner port
  let info : W64 := setWbits (setWbits (setWbits (setWbits (setWbits (setWbits (setWbits 0 63 63 1) 47 32 rid) 31 28 part) 27 24 inst)
    23 23 (b2n write)) 17 16 cause) 15 8 detail
  (h.record ⟨.XTL_FAULT0_ADDR, .XTL_FAULT0_INFO, .XTL_FAULT1_ADDR, .XTL_FAULT1_INFO, .XTL_FAULTSTAT⟩ die 0 0 true va info).raise
    { source := 0x208 + (die - 0x10), part := part, sev := 2 }

/-- A device's request is refused (R208): recorded, and a read or an AtomicOp completes with Unsupported Request. -/
def Hw.dmaRefuse (h : Hw) (port rid : Nat) (va : W64) (op : DmaOp) (cause detail : Nat) : Hw :=
  match op with
  | .write _ _ => h.xtlFault port rid va true cause detail
  | .read _ => (h.xtlFault port rid va false cause detail).dmaCpl port { rid := rid, va := va, ur := true }
  | .atomic _ _ _ _ => (h.xtlFault port rid va true cause detail).dmaCpl port { rid := rid, va := va, ur := true }

/-- A device's request reaches memory (R206, R263, R265): reads as RDC; writes as WRF or WRP in TLP order; AtomicOps with ownership of the line. -/
def Hw.dmaMem (h : Hw) (port rid : Nat) (va : W64) (part pa : Nat) (op : DmaOp) : Hw :=
  match op with
  | .read len =>
    let ls := (List.range ((pa % 64 + len + 63) / 64)).map (fun i => lineOf pa + i)
    ls.foldl (fun (x : Hw) l => x.send { op := .RDC, addr := l, agent := .port port, part := part, info := 4 })
      { h with prd := put h.prd port (look [] h.prd port ++ [{ rid := rid, va := va, lines := ls }]) }
  | .write relaxed data => (linePieces (data.length / 64 + 2) pa data).foldl (fun (x : Hw) q =>
      ({ x with pwr := put x.pwr port (look [] x.pwr port ++ [{ line := q.1, relaxed := relaxed, rid := rid, va := va }]) } : Hw).send
        { op := if q.2.1 = 2 ^ 64 - 1 then .WRF else .WRP, addr := q.1, agent := .port port, part := part,
          info := if relaxed then 7 else 6, data := q.2.2, mask := q.2.1 }) h
  | .atomic wide kind a b =>
    ({ h with patom := put h.patom port (look [] h.patom port ++ [{ addr := pa, size := if wide then 8 else 4, kind := kind.val, a := a.toNat, b := b.toNat, rid := rid, va := va }]) } : Hw).send
      { op := .RDO, addr := lineOf pa, agent := .port port, part := part, info := 5 }

/-- A line that a device reads has come to its port, marked POISON or not; the last one completes the read. -/
def Hw.portData (h : Hw) (n line : Nat) (bad : Bool) : Hw :=
  let mine (p : PRead) : Bool := has p.lines line
  let l := markFirst mine (fun p => { p with lines := dropFirst (· == line) p.lines, got := p.got ++ [(line, h.readNum (line <<< 6) 64)], poison := p.poison || bad || h.poisoned (line <<< 6) }) (look [] h.prd n)
  let h1 : Hw := { h with prd := put h.prd n (l.filter (fun p => !p.lines.isEmpty)) }
  (l.filter (fun p => p.lines.isEmpty)).foldl (fun (h : Hw) p => h.dmaCpl n { rid := p.rid, va := p.va, data := p.got, poison := p.poison }) h1

/-- A home has refused a port's request (R208): a read for tag 4, an AtomicOp for tag 5, else a posted write, which is discarded. -/
def Hw.portRefused (h : Hw) (n line tag : Nat) : Hw :=
  if tag = 4 then
    match takeFirst (fun (p : PRead) => has p.lines line) (look [] h.prd n) with
    | some (p, r) => ({ h with prd := put h.prd n r } : Hw).dmaRefuse n p.rid p.va (.read 0) 0 (tdetail 7 0x10)
    | none => h
  else if tag = 5 then
    match takeFirst (fun (p : PAtomic) => lineOf p.addr == line) (look [] h.patom n) with
    | some (p, r) => ({ h with patom := put h.patom n r } : Hw).dmaRefuse n p.rid p.va (.atomic false 0 0 0) 0 (tdetail 7 0x10)
    | none => h
  else match takeFirst (openWrite line) (look [] h.pwr n) with
    | some (w, r) => (({ h with pwr := put h.pwr n r } : Hw).dmaRefuse n w.rid w.va (.write w.relaxed []) 0 (tdetail 7 0x10)).portCommits n
    | none => h

/-- Bytes of a device's request. -/
def dmaLen : DmaOp → Nat
  | .read n => n
  | .write _ d => d.length
  | .atomic w _ _ _ => if w then 8 else 4

/-- A device's request changes memory. -/
def dmaWrites : DmaOp → Bool
  | .read _ => false
  | _ => true

/-- A device's message (R617): it waits while an earlier posted write of its port is not visible. -/
def Hw.dmaMessage (h : Hw) (port part pa : Nat) (data : List Byte) : Hw :=
  let v : W64 := BitVec.ofNat 64 (ofBytes (data.take 8))
  match msgCheck part false pa data.length v with
  | none => h.msgRaise part v
  | some _ => h.msgDiscard (some port) part false 0x3FF pa v

/-- A device's request after the port XTL (R178, R206, R617): to memory, to another port of the partition, or as a message. -/
def Hw.dmaGo (h : Hw) (port rid : Nat) (va : W64) (part pa : Nat) (op : DmaOp) : Hw :=
  match paRange pa with
  | .mmio =>
    if look 0 h.portOwner (portOfPa pa) = part ∧ part ≠ 0 ∧ !h.joinedOther (portOfPa pa) ∧ !isConfig pa then
      h.sendTlp pa (dmaWrites op) (match op with | .write _ _ => true | _ => false) (dmaLen op) (match op with | .write _ d => d | _ => [])
    else (h.ras (0x10 + portOfPa pa / 16) 2 { code := 0x28, sev := 2, addr := pa, detail := look 0 h.portOwner (portOfPa pa), part := part, unit := portOfPa pa % 16 }).dmaRefuse
      port rid va op 0 (tdetail 7 0x10)
  | .message => match op with
    | .write _ d => if (look [] h.pwr port).isEmpty then h.dmaMessage port part pa d else h
    | _ => h.dmaRefuse port rid va op 0 (tdetail 7 0x11)
  | .near => h.dmaMem port rid va part pa op
  | .far => h.dmaMem port rid va part pa op
  | _ => h.dmaRefuse port rid va op 0 (tdetail 7 0x11)

/-- DEVICE_DMA_REQUEST (R206 to R208): of at most 4,096 bytes within one page, translated by the port XTL. -/
def Hw.dma (h : Hw) (port rid : Nat) (va : W64) (pasid : Bool) (op : DmaOp) : Hw :=
  let part := look 0 h.portOwner port
  let die := 0x10 + port / 16
  if pasid then h.dmaRefuse port rid va op 2 0
  else match h.deviceCtx port rid part with
    | .error (h1, cause) => h1.dmaRefuse port rid va op cause 0
    | .ok (h0, c) => match h0.xtlTranslate die c va (if (dmaWrites op) then .store else .load) with
      | .error (h1, f) => h1.dmaRefuse port rid va op 0 f.detail
      | .ok (h1, pa) => h1.dmaGo port rid va part pa op

/-- A request that PCIe allows a device: it moves at least a byte, stays within 4 KiB, and an AtomicOp is aligned; a port takes no other (log entry 60). -/
def dmaFormed (va : Nat) (op : DmaOp) : Bool :=
  decide (1 ≤ dmaLen op) && decide (va % 4096 + dmaLen op ≤ 4096) &&
    (match op with
     | .atomic w _ _ _ => decide (va % (if w then 8 else 4) = 0)
     | _ => true)

/-- DEVICE_DMA_REQUEST. -/
def execDeviceDmaRequest (port : PortNum) (rid : BitVec 16) (va : W64) (pasid : Bool) (op : DmaOp) (s : State) : Host.Outcome State Fault Refusal :=
  s.onHw (fun h => if has h.portUp port.val ∧ look 0 h.portOwner port.val ≠ 0 ∧ dmaFormed va.toNat op then h.dma port.val rid.toNat va pasid op else h)

end Sys2Proof.Machine
end

