-- ==== Sys2Proof/Machine/Platform.lean ====
section
/-! DEFINITION. The platform controller's requests, slots, images, the I3C target, the package pins, the supplies, the reference clocks and the TAPs (spec/19_platform_controller.md; spec/20_signals_electrical_package.md). -/

namespace Sys2Proof.Machine

/-! Requests and responses (R638 to R642). -/

/-- The management endpoint has power and is out of reset (R635). -/
def Hw.pmpUp (h : Hw) : Bool := !(has h.groupOff 0) && !h.plat.resetLow

/-- A response is written, DONE is set and BUSY is cleared (R640). -/
def Hw.pmpRespond (h : Hw) (type : Nat) (r : PmpReq) (status arg : Nat) (payload : List Byte) : Hw :=
  let v : W64 := setWbits (setWbits (setWbits 0 63 63 1) 23 16 status) 15 0 r.seq.toNat
  (({ h with plat := { h.plat with rspBuf := pmpHeader type 0 payload.length r.seq.toNat status arg ++ payload,
                                   lastRsp := some (type, r.seq.toNat) } } : Hw).setReg .PMP_RSP 0 0 0 v).setFld .PMP_REQ 0 0 0 F.PMP_REQ_BUSY 0

/-- The STATUS and ARG of the first check of R642 that a request fails. -/
abbrev PmpFail := Option (Nat × Nat)

/-- The first of some checks that fails, each with the byte of the request at which it looks. -/
def firstBad (status : Nat) (l : List (Bool × Nat)) : PmpFail := (l.find? (fun e => e.1)).map (fun e => (status, e.2))

/-- The PHASE column of R641. -/
def phaseBad (h : Hw) (ok : List Nat) : PmpFail := if ok.contains h.phase then none else some (3, h.phase)

/-- A format check of a request's header, of its LEN and ARG, then of its zero fields (R639, R642): FLAGS stands at byte 1, LEN at byte 2, ARG at byte 8, the payload from byte 16. -/
def formBad (r : PmpReq) (len : Nat) (argOk : Bool) (zeros : List (Nat × Nat)) : PmpFail :=
  firstBad 1 ((r.flags != 0, 1) :: (r.payload.length != len, 2) :: (r.zero.toNat % 256 != 0, 6) :: (r.zero != 0, 7) :: (!argOk, 8) ::
    zeros.map (fun z => (!zeroAt r.payload z.1 z.2, 16 + z.1)))

/-- A request as the request buffer holds it (R639). -/
def pmpBytes (r : PmpReq) (type : Nat) : List Byte :=
  toBytes 1 type ++ toBytes 1 (b2n r.last + 2 * r.flags.toNat) ++ toBytes 2 r.payload.length ++ toBytes 2 r.seq.toNat ++ toBytes 2 r.zero.toNat ++
    toBytes 8 r.arg.toNat ++ r.payload

/-- The last response is written again (R640). -/
def Hw.pmpAgain (h : Hw) (seq : Nat) : Hw :=
  h.setReg .PMP_RSP 0 0 0 (setWbits (setWbits (setWbits 0 63 63 1) 23 16 (dsc h.plat.rspBuf 6 1)) 15 0 seq)

/-- A request as the platform controller posts it with GO (R640): discarded while BUSY; a repetition of the last one is answered again with the same response. -/
def Hw.pmpRequest (h : Hw) (type : Nat) (r : PmpReq) (check : Hw → PmpFail) (body : Hw → Hw) : Hw :=
  if !h.pmpUp then h
  else if h.flag .PMP_REQ 0 0 0 F.PMP_REQ_BUSY then
    h.setFld .PMP_REQ 0 0 0 F.PMP_REQ_DISC (min 0xFFFF (h.fld .PMP_REQ 0 0 0 F.PMP_REQ_DISC + 1))
  else
    let h1 : Hw := { h with plat := { h.plat with reqBuf := pmpBytes r type } }
    if h1.plat.lastRsp = some (type, r.seq.toNat) then h1.pmpAgain r.seq.toNat
    else match check h1 with
      | some (st, arg) => h1.pmpRespond type r st arg []
      | none => body h1

/-- GO written to PMP_REQ with the request buffer as it stands (R640 to R642): the last request again, or a TYPE that is none of R641's. -/
def Hw.pmpGo (h : Hw) : Hw :=
  let type := dsc h.plat.reqBuf 0 1
  let seq := dsc h.plat.reqBuf 4 2
  if !h.pmpUp then h
  else if h.flag .PMP_REQ 0 0 0 F.PMP_REQ_BUSY then
    h.setFld .PMP_REQ 0 0 0 F.PMP_REQ_DISC (min 0xFFFF (h.fld .PMP_REQ 0 0 0 F.PMP_REQ_DISC + 1))
  else if h.plat.lastRsp = some (type, seq) then h.pmpAgain seq
  else if type = 0 ∨ 0x0B < type then h.pmpRespond type { seq := BitVec.ofNat 16 seq, last := false, arg := 0, payload := [] } 2 0 []
  else h

/-- What is missing of the inventory (R637, R642): a bit for each DIMM position, and bit 48 for BOARD. -/
def Hw.invMissing (h : Hw) : Nat :=
  ((List.range 48).filter (fun i => !has h.plat.dimmSeen i)).foldl (fun n i => n + 2 ^ i) 0 + (if h.plat.boardSeen then 0 else 2 ^ 48)

/-- A request that has been carried out is answered; one that carries LAST completes the inventory, or asks for it again (R637). -/
def Hw.pmpDone (h : Hw) (type : Nat) (r : PmpReq) : Hw :=
  if !r.last then h.pmpRespond type r 0 0 []
  else if h.invMissing = 0 then ({ h with plat := { h.plat with invDone := true } } : Hw).pmpRespond type r 0 0 []
  else (h.pmpRespond type r 7 h.invMissing []).notify 0x81 false []

/-- A platform request as the request buffer holds it: at most 4,080 bytes of payload (R639). -/
def fitReq (r : PmpReq) : PmpReq := { r with payload := r.payload.take 4080 }

/-! Inventory (R643 to R647). -/

/-- The range checks that BOARD and LIMITS share: supply, cooling and coolant, at their offsets in the payload (R643, R646). -/
def limitsBad (p : List Byte) (sup cool inlet : Nat) : List (Bool × Nat) :=
  [(decide (dsc p sup 2 < 486), 16 + sup), (decide (dsc p cool 2 < 448), 16 + cool),
   (decide (dsc p inlet 1 < 5 ∨ 45 < dsc p inlet 1), 16 + inlet)]

/-- The limits are taken and EFF_W follows (R540, R646). -/
def Hw.takeLimits (h : Hw) (sup cool inlet : Nat) : Hw :=
  let h1 : Hw := { h with supplyW := some sup, coolW := some cool, plat := { h.plat with coolantC := inlet } }
  h1.setFld .PWR_PKGLIM 0 0 0 F.PWR_PKGLIM_EFF_W h1.effW

/-- The checks of BOARD (R641, R643). -/
def boardBad (r : PmpReq) (h : Hw) : PmpFail :=
  let p := r.payload
  (phaseBad h [1, 2]) <|> (formBad r 32 (r.arg == 0) [(11, 5), (24, 8)]) <|>
    firstBad 4 ((decide (dsc p 0 2 < 4800 ∨ 8800 < dsc p 0 2), 16) :: (decide (2 < dsc p 2 1), 18) :: (decide (1 < dsc p 3 1), 19) :: limitsBad p 4 8 10)

/-- BOARD takes effect (R643, R658): in PHASE 0x2 the slots keep their earlier description until the next package warm reset. -/
def Hw.takeBoard (h : Hw) (r : PmpReq) : Hw :=
  let p := r.payload
  let b := if h.phase = 2 then p.take 16 ++ padTo 16 (h.plat.board.drop 16) else p
  let h1 : Hw := { h with plat := { h.plat with board := b, boardSeen := true } }
  h1.takeLimits (dsc p 4 2) (dsc p 8 2) (dsc p 10 1)

/-- BOARD. -/
def execBoard (r : PmpReq) (s : State) : Host.Outcome State Fault Refusal :=
  let r := fitReq r
  s.onHw (fun h => h.pmpRequest 1 r (boardBad r) (fun h => (h.takeBoard r).pmpDone 1 r))

/-- The entries of a payload. -/
def entries (size n : Nat) (p : List Byte) : List (Nat × List Byte) := (List.range n).map (fun i => (16 + size * i, slice p (size * i) size))

/-- The checks of DIMM (R641, R644). -/
def dimmBad (r : PmpReq) (h : Hw) : PmpFail :=
  let n := r.arg.toNat
  (phaseBad h [1, 2]) <|> (formBad r (1040 * n) (decide (1 ≤ n ∧ n ≤ 3)) []) <|>
    firstBad 1 ((entries 1040 n r.payload).flatMap (fun e =>
      [(!zeroAt e.2 3 13, e.1 + 3), (decide (dsc e.2 2 1 = 0) && !zeroAt e.2 16 1024, e.1 + 16)])) <|>
    firstBad 4 ((entries 1040 n r.payload).flatMap (fun e =>
      [(decide (23 < dsc e.2 0 1), e.1), (decide (1 < dsc e.2 1 1), e.1 + 1), (decide (1 < dsc e.2 2 1), e.1 + 2)]))

/-- One DIMM entry takes effect: the last report of a position stands. -/
def Hw.takeDimm (h : Hw) (e : List Byte) : Hw :=
  let k := 2 * dsc e 0 1 + dsc e 1 1
  { h with plat := { h.plat with dimmSeen := ins h.plat.dimmSeen k,
                                 spd := if dsc e 2 1 = 1 then put h.plat.spd k (slice e 16 1024) else del h.plat.spd k } }

/-- DIMM. -/
def execDimm (r : PmpReq) (s : State) : Host.Outcome State Fault Refusal :=
  let r := fitReq r
  s.onHw (fun h => h.pmpRequest 2 r (dimmBad r)
    (fun h => ((entries 1040 r.arg.toNat r.payload).foldl (fun (x : Hw) e => x.takeDimm e.2) h).pmpDone 2 r))

/-- The checks of PORTS (R641, R645). -/
def portsBad (r : PmpReq) (h : Hw) : PmpFail :=
  let n := r.arg.toNat
  (phaseBad h [1, 2]) <|> (formBad r (32 * n) (decide (1 ≤ n ∧ n ≤ 64)) []) <|>
    firstBad 1 ((entries 32 n r.payload).flatMap (fun e =>
      [(!zeroAt e.2 3 1, e.1 + 3), (decide (dsc e.2 2 1 ≠ 1) && !zeroAt e.2 4 4, e.1 + 4), (!zeroAt e.2 8 24, e.1 + 8)])) <|>
    firstBad 4 ((entries 32 n r.payload).flatMap (fun e =>
      [(decide (63 < dsc e.2 0 1), e.1), (decide (2 < dsc e.2 1 1), e.1 + 1), (decide (3 < dsc e.2 2 1), e.1 + 2)]))

/-- One PORTS entry takes effect: the last report of a port stands. -/
def Hw.takePort (h : Hw) (e : List Byte) : Hw :=
  { h with plat := { h.plat with ports := h.plat.ports.filter (fun q => !(q.1 == dsc e 0 1)) ++ [(dsc e 0 1, dsc e 1 1, dsc e 2 1, dsc e 4 4)] } }

/-- PORTS. -/
def execPorts (r : PmpReq) (s : State) : Host.Outcome State Fault Refusal :=
  let r := fitReq r
  s.onHw (fun h => h.pmpRequest 3 r (portsBad r)
    (fun h => ((entries 32 r.arg.toNat r.payload).foldl (fun (x : Hw) e => x.takePort e.2) h).pmpDone 3 r))

/-- The checks of PARTREQ (R641, R647): DIES names compute dies 1 to 12 only. -/
def partreqBad (r : PmpReq) (h : Hw) : PmpFail :=
  let n := r.arg.toNat
  (phaseBad h [1, 2]) <|> (formBad r (16 * n) (decide (n ≤ 12)) []) <|>
    firstBad 1 ((entries 16 n r.payload).map (fun e => (decide (1 < dsc e.2 1 1), e.1 + 1))) <|>
    firstBad 4 ((entries 16 n r.payload).flatMap (fun e =>
      [(decide (dsc e.2 0 1 = 0 ∨ 12 < dsc e.2 0 1), e.1), (decide (dsc e.2 2 2 % 2 = 1 ∨ 0x1FFF < dsc e.2 2 2), e.1 + 2)]))

/-- An entry of a PARTREQ. -/
def partReqOf (e : List Byte) : PartReq := ⟨dsc e 0 1, decide (dsc e 1 1 = 1), dsc e 2 2, dsc e 4 4, dsc e 8 8⟩

/-- PARTREQ takes effect (R647): kept, and at run time service source 0 of the AUTHORITY partition is raised; 0 entries withdraw it. -/
def Hw.takePartreq (h : Hw) (r : PmpReq) : Hw :=
  let l := (entries 16 r.arg.toNat r.payload).map (fun e => partReqOf e.2)
  let h1 : Hw := { h with plat := { h.plat with partreq := if l.isEmpty then none else some l } }
  if h1.phase = 2 ∧ h1.authority ≠ 0 then h1.raise { source := 0x2A0 + 8 * (h1.authority - 1), part := h1.authority } else h1

/-- PARTREQ. -/
def execPartreq (r : PmpReq) (s : State) : Host.Outcome State Fault Refusal :=
  let r := fitReq r
  s.onHw (fun h => h.pmpRequest 4 r (partreqBad r) (fun h => (h.takePartreq r).pmpDone 4 r))

/-! Run time (R646, R648, R649, R655). -/

/-- The checks of LIMITS (R641, R646). -/
def limitsReqBad (r : PmpReq) (h : Hw) : PmpFail :=
  (phaseBad h [2, 5]) <|> (formBad r 8 (r.arg == 0) [(5, 3)]) <|> firstBad 4 (limitsBad r.payload 0 2 4)

/-- LIMITS. -/
def execLimits (r : PmpReq) (s : State) : Host.Outcome State Fault Refusal :=
  let r := fitReq r
  s.onHw (fun h => h.pmpRequest 5 r (limitsReqBad r)
    (fun h => (h.takeLimits (dsc r.payload 0 2) (dsc r.payload 2 2) (dsc r.payload 4 1)).pmpDone 5 r))

/-- A number whose bits are the elements of a list that meet a test. -/
def maskOf (l : List Nat) (f : Nat → Bool) : Nat := (l.filter f).foldl (fun n i => n + 2 ^ i) 0

/-- TMAX of a die. -/
def Hw.tmax (h : Hw) (die : Nat) : Nat := h.fld .PWR_THERM die 0 0 F.PWR_THERM_TMAX

/-- The payload of a HEALTH response (R655). -/
def Hw.healthBytes (h : Hw) : List Byte :=
  let f := (h.reg .HOME_FENCE0 0 0 0).toNat
  let asg (d : Nat) : Bool := decide (h.fld .SLINK_DISC 0 0 (dieHp d) F.SLINK_DISC_RESULT = 1)
  toBytes 8 (h.reg .SEC_BOOTSTAT 0 0 0).toNat ++ toBytes 8 (h.reg .CFG_STAT 0 0 0).toNat ++
    toBytes 2 (maskOf ((List.range 12).map (· + 1)) asg) ++ toBytes 2 (maskOf ((List.range 12).map (· + 1)) (fun d => f.testBit d)) ++
    toBytes 1 (maskOf (List.range 4) (fun k => asg (0x10 + k)) + 16 * maskOf (List.range 4) (fun k => f.testBit (16 + k))) ++ [0, 0, 0] ++
    toBytes 3 (maskOf (List.range 24) (fun c => (look? h.cap c).isSome && !has h.chFail c)) ++ [0] ++
    toBytes 8 (maskOf (List.range 64) (fun n => has h.portUp n)) ++
    toBytes 2 (maskOf (List.range 13) (fun p => has h.partUp p && !has h.partStopped p)) ++ toBytes 2 (maskOf (List.range 13) (fun p => has h.partStopped p)) ++
    toBytes 2 (h.fld .PWR_PKGLIM 0 0 0 F.PWR_PKGLIM_NOW_W) ++ toBytes 2 (h.fld .PWR_PKGLIM 0 0 0 F.PWR_PKGLIM_VIN_DV) ++
    (List.range 12).flatMap (fun i => toBytes 1 (h.tmax (i + 1))) ++ toBytes 1 (h.tmax 0) ++ (List.range 4).flatMap (fun k => toBytes 1 (h.tmax (0x10 + k))) ++
    toBytes 1 (h.fld .MTRX_STAT 0 0 0 F.MTRX_STAT_LINK + 2 * h.fld .MTRX_STAT 0 0 0 F.MTRX_STAT_SEALED + 4 * h.fld .MTRX_STAT 0 0 0 F.MTRX_STAT_LOGFULL) ++ [0, 0]

/-- HEALTH (R641, R655), accepted in every PHASE. -/
def execHealth (r : PmpReq) (s : State) : Host.Outcome State Fault Refusal :=
  let r := fitReq r
  s.onHw (fun h => h.pmpRequest 6 r (fun _ => formBad r 0 (r.arg == 0) []) (fun h => h.pmpRespond 6 r 0 0 h.healthBytes))

/-- A port has a hot-plug slot whose power the platform controller switches: SLOTS of BOARD (R643). -/
def Hw.slotted (h : Hw) (n : Nat) : Bool := (dsc h.plat.board 16 8).testBit n

/-- Slot Status bits of PCIe: attention button pressed, power fault detected, presence detect changed, command completed (log entry 37). -/
def slotBit (event : Nat) : Nat := if event = 3 then 1 else if event = 4 then 2 else if event ≤ 2 then 8 else 16

/-- Bits are set in a port's Slot Status. -/
def Hw.slotSet (h : Hw) (n bits : Nat) : Hw := { h with plat := { h.plat with slotStat := put h.plat.slotStat n (look 0 h.plat.slotStat n ||| bits) } }

/-- SLOTEVT takes effect (R648, R649, R658): the port's Slot Status and source; a completed command answers the SLOTCTL that waits; presence removed abandons it and completes queued accesses. -/
def Hw.slotEvent (h : Hw) (n event : Nat) : Hw :=
  let w := h.plat.slotWait.filter (fun e => !(e.1 == n && (event == 2 || (event == 5 && e.2) || (event == 6 && !e.2))))
  let h1 := ({ h with plat := { h.plat with slotWait := w } } : Hw).slotSet n (slotBit event)
  let h2 := if event = 2 then h1.portAbort n else h1
  h2.portRaise n

/-- The checks of SLOTEVT (R641, R648, R649). -/
def slotevtBad (r : PmpReq) (h : Hw) : PmpFail :=
  let p := r.payload
  (phaseBad h [2, 5]) <|> (formBad r 8 (r.arg == 0) [(2, 6)]) <|>
    firstBad 4 [(decide (63 < dsc p 0 1) || !h.slotted (dsc p 0 1), 16), (decide (dsc p 1 1 = 0 ∨ 6 < dsc p 1 1), 17)]

/-- SLOTEVT. -/
def execSlotevt (r : PmpReq) (s : State) : Host.Outcome State Fault Refusal :=
  let r := fitReq r
  s.onHw (fun h => h.pmpRequest 7 r (slotevtBad r) (fun h => (h.slotEvent (dsc r.payload 0 1) (dsc r.payload 1 1)).pmpDone 7 r))

/-- SLOT_CONTROL_WRITE (R649, R651): Slot Control as PCIe lays it out (log entry 37), with the indicators' codes; the controller switches power on while bit 10 is 0. -/
def execSlotControlWrite (port : PortNum) (v : BitVec 16) (s : State) : Host.Outcome State Fault Refusal :=
  s.onHw (fun h =>
    let n := port.val
    let x := v.toNat
    let on := !x.testBit 10
    let h1 : Hw := { h with plat := { h.plat with slotCtl := put h.plat.slotCtl n x } }
    if h1.slotted n then
      ({ h1 with plat := { h1.plat with slotWait := h1.plat.slotWait.filter (fun e => !(e.1 == n)) ++ [(n, on)] } } : Hw).notify 0x87 false
        (toBytes 1 n ++ toBytes 1 (b2n on) ++ toBytes 1 (x / 2 ^ 8 % 4) ++ toBytes 1 (x / 2 ^ 6 % 4))
    else h1)

/-- SLOTCTL_TIMEOUT (R649): no answer within 1 s. -/
def execSlotctlTimeout (port : PortNum) (s : State) : Host.Outcome State Fault Refusal :=
  s.onHw (fun h =>
    let n := port.val
    if h.plat.slotWait.any (fun e => e.1 == n) then
      ((({ h with plat := { h.plat with slotWait := h.plat.slotWait.filter (fun e => !(e.1 == n)) } } : Hw).slotSet n 2).ras (0x10 + n / 16) 0
        { code := 0x30, sev := 2, detail := 0x44, part := look 0 h.portOwner n, unit := n % 16 }).portRaise n
    else h)

/-! Images (R656, R657). -/

/-- The end of a manifest in a slot image, as its first block gives it: MLEN is BODY_LEN and the two signatures (R570). -/
def ImgSeq.mlen (q : ImgSeq) : Nat := bodyLen (look [] q.data 0x10000) + 4723

/-- The bytes accepted from an offset on, over whole blocks. -/
def ImgSeq.bytes (q : ImgSeq) (off n : Nat) : List Byte :=
  ((List.range ((n + 65535) / 65536)).flatMap (fun k => look [] q.data (off + 65536 * k))).take n

/-- The manifest that was delivered. -/
def ImgSeq.manifest (q : ImgSeq) : List Byte := q.bytes 0x10000 q.mlen

/-- The offsets of the blocks that hold component bytes, in ascending order (R656). -/
def compBlocks (m : List Byte) : List (Nat × Comp × Nat) :=
  let add (l : List (Nat × Comp × Nat)) (e : Nat × Comp × Nat) : List (Nat × Comp × Nat) :=
    l.filter (fun x => decide (x.1 < e.1)) ++ [e] ++ l.filter (fun x => decide (e.1 < x.1))
  ((compsOf m).flatMap (fun c => (List.range c.blocks).map (fun k => (c.foff + 65536 * k, c, k)))).foldl add []

/-- The result of a block's check: the sequence with the block, or the REASON (R572, R573). -/
def Hw.imgBlock (h : Hw) (q : ImgSeq) (off : Nat) (bs : List Byte) : Except Nat ImgSeq :=
  let q1 : ImgSeq := { q with data := put q.data off bs, count := q.count + 1 }
  if off < 0x50000 then
    if 0x40000 < q1.mlen then .error 0x02
    else if off + 65536 < 0x10000 + q1.mlen then .ok { q1 with next := off + 65536 }
    else match h.manifestCheck q1.manifest none with
      | 0 => .ok { q1 with next := ((compBlocks q1.manifest).head?.map (·.1)).getD 0 }
      | r => .error r
  else
    let m := q1.manifest
    match (compBlocks m).find? (fun e => e.1 == off) with
    | none => .error 0x09
    | some (_, c, k) =>
      if !decide (bs.length = min 65536 (c.len - 65536 * k)) || !blockOk m c k bs then .error 0x09
      else if k + 1 = c.blocks ∧ !compGood m c (q1.bytes c.foff c.len) then .error 0x09
      else .ok { q1 with next := (((compBlocks m).find? (fun e => decide (off < e.1))).map (·.1)).getD 0 }

/-- Blocks are written into a slot of the flash, each sector erased first (R579). -/
def Hw.flashBlocks (h : Hw) (slot : Nat) (l : List (Nat × List Byte)) : Hw :=
  l.foldl (fun (x : Hw) e => (x.flashErase slot e.1).flashProgram slot e.1 e.2) h

/-- What an accepted block writes in recovery (R579): a component's block at once, the manifest when it has been accepted whole. -/
def Hw.imgStore (h : Hw) (q : ImgSeq) (off : Nat) : Hw :=
  let slot := h.boot.target.getD 0
  if 0x50000 ≤ off then h.flashBlocks slot [(off, look [] q.data off)]
  else if q.next = 0 ∨ 0x50000 ≤ q.next then h.flashBlocks slot (q.data.filter (fun e => decide (e.1 < 0x50000)))
  else h

/-- An open image sequence ends. -/
def Hw.setImage (h : Hw) (q : Option ImgSeq) : Hw := { h with plat := { h.plat with image := q } }

/-- The PHASE that IMAGE_BLOCK and IMAGE_END need: that of the open sequence's purpose (R641). -/
def imgPhase (h : Hw) : PmpFail :=
  match h.plat.image with
  | some q => phaseBad h [if q.purpose = 0 then 3 else 2]
  | none => phaseBad h [2, 3]

/-- The checks of IMAGE_BEGIN (R641): the purpose in ARG[7:0], the blocks in ARG[31:16]. -/
def imageBeginBad (r : PmpReq) (h : Hw) : PmpFail :=
  let purpose := wbits r.arg 7 0
  (formBad r 0 (wbits r.arg 15 8 == 0 && wbits r.arg 63 32 == 0) []) <|> (firstBad 4 [(decide (1 < purpose), 8)]) <|>
    phaseBad h [if purpose = 0 then 3 else 2]

/-- IMAGE_BEGIN (R656): an open sequence is abandoned, and in recovery the target's commit sector is erased. -/
def execImageBegin (r : PmpReq) (s : State) : Host.Outcome State Fault Refusal :=
  let r := fitReq r
  s.onHw (fun h => h.pmpRequest 8 r (imageBeginBad r) (fun h =>
    let purpose := wbits r.arg 7 0
    let h1 := if purpose = 0 then h.flashErase (h.boot.target.getD 0) 0 else h
    (h1.setImage (some { purpose := purpose, blocks := wbits r.arg 31 16, next := 0x10000 })).pmpDone 8 r))

/-- The checks of IMAGE_BLOCK (R641, R656): a sequence is open and the block is the next one. -/
def imageBlockBad (r : PmpReq) (h : Hw) : PmpFail :=
  let n := wbits r.arg 63 32
  (imgPhase h) <|> (formBad r 0 (decide (1 ≤ n ∧ n ≤ 65536)) []) <|>
    firstBad 1 [(match h.plat.image with
      | some q => decide (q.next = 0 ∨ wbits r.arg 31 0 ≠ q.next)
      | none => true, 8)]

/-- IMAGE_BLOCK (R656), with the bytes that the platform controller has put into the block buffer: the block is checked before it is answered; a failed check ends the sequence. -/
def execImageBlock (r : PmpReq) (block : List Byte) (s : State) : Host.Outcome State Fault Refusal :=
  let r := fitReq r
  s.onHw (fun h =>
    ({ h with plat := { h.plat with block := block.take 65536 ++ h.plat.block.drop block.length } } : Hw).pmpRequest 9 r (imageBlockBad r) (fun h =>
      match h.plat.image with
      | none => h
      | some q => match h.imgBlock q (wbits r.arg 31 0) ((padTo 65536 h.plat.block).take (wbits r.arg 63 32)) with
        | .error reason => (h.setImage none).pmpRespond 9 r 5 reason []
        | .ok q1 => ((if q1.purpose = 0 then h.imgStore q1 (wbits r.arg 31 0) else h).setImage (some q1)).pmpDone 9 r))

/-- Recovery ends (R579, R656): the commit record of the target slot, and a boot restart. -/
def Hw.recoveryEnd (h : Hw) (m : List Byte) : Hw :=
  let slot := h.boot.target.getD 0
  let seq (x : Nat) : Nat := if commitValid (h.commitRecord x) then commitSeq (h.commitRecord x) else 0
  let h1 := h.flashProgram slot 0 (makeCommit (max (seq 0) (seq 1) + 1) m.length (Config.sha384 m))
  (({ h1 with boot := { h1.boot with recovered := true } } : Hw).setImage none).bootRestart

/-- Firmware and microcode of an accepted image are staged (R628 to R630, R657): package services take the components of TYPE 4 to 6, extend MREG03, and stage them in controllers and engines that are not switching. -/
def Hw.stageComp (h : Hw) (c : Comp) : Hw :=
  let h1 := ({ h with updates := h.updates ++ [(c.type, c.digest)] } : Hw).mregExt 3 c.type c.digest
  if c.type = 4 then (List.range 56).foldl (fun (x : Hw) n =>
      let (die, inst) := engPlace n
      if x.fld .SKM_UCODE die inst 0 F.SKM_UCODE_STATE = 2 then x else x.setFld .SKM_UCODE die inst 0 F.SKM_UCODE_STATE 1) h1
  else (if c.type = 5 then (List.range 12).map (· + 1) else (List.range 4).map (· + 0x10)).foldl (fun (x : Hw) d =>
      if x.fld .DCTL_FW d 0 0 F.DCTL_FW_STATE = 2 then x else x.setFld .DCTL_FW d 0 0 F.DCTL_FW_STATE 1) h1

/-- The checks of IMAGE_END: every block announced has come, and every one that the manifest needs. -/
def imageEndBad (r : PmpReq) (h : Hw) : PmpFail :=
  (imgPhase h) <|> (formBad r 0 (r.arg == 0) []) <|>
    firstBad 1 [(match h.plat.image with
      | some q => decide (q.next ≠ 0 ∨ q.count ≠ q.blocks)
      | none => true, 8)]

/-- IMAGE_END (R656, R657). -/
def execImageEnd (r : PmpReq) (s : State) : Host.Outcome State Fault Refusal :=
  let r := fitReq r
  s.onHw (fun h => h.pmpRequest 10 r (imageEndBad r) (fun h =>
    match h.plat.image with
    | none => h
    | some q =>
      if q.purpose = 0 then (h.pmpDone 10 r).recoveryEnd q.manifest
      else (((compsOf q.manifest).filter (fun c => decide (4 ≤ c.type ∧ c.type ≤ 6))).foldl (fun (x : Hw) c => x.stageComp c) (h.setImage none)).pmpDone 10 r))

/-- DUMPHOLD (R641): holds the next reset of a partition after a partition-fatal error; the second one releases it. -/
def execDumphold (r : PmpReq) (s : State) : Host.Outcome State Fault Refusal :=
  let r := fitReq r
  s.onHw (fun h => h.pmpRequest 11 r
    (fun h => (phaseBad h [2]) <|> (formBad r 0 true []) <|> firstBad 4 [(decide (r.arg.toNat = 0 ∨ 12 < r.arg.toNat), 8)])
    (fun h =>
      let p := r.arg.toNat
      if has h.plat.dumphold p then
        let h1 : Hw := { h with plat := { h.plat with dumphold := rem h.plat.dumphold p, resetHeld := rem h.plat.resetHeld p } }
        (if has h.plat.resetHeld p then h1.partReset p else h1).pmpDone 11 r
      else ({ h with plat := { h.plat with dumphold := ins h.plat.dumphold p } } : Hw).pmpDone 11 r))

/-! Wake and I3C (R653 to R655). -/

/-- The wake pattern, in PHASE 0x5 only (R653). -/
def Hw.wakePat (h : Hw) : Hw := if h.phase = 5 then h.leaveDeep 4 0 else h

/-- WAKE_PATTERN (R653): any other value is discarded. -/
def execWakePattern (v : BitVec 32) (s : State) : Host.Outcome State Fault Refusal :=
  s.onHw (fun h => if v = 0xA5C35A3C then h.wakePat else h)

/-- I3C_WAKE (R654): a private write of the one byte 0x01; any other is refused by NACK. -/
def execI3cWake (data : List Byte) (s : State) : Host.Outcome State Fault Refusal :=
  s.onHw (fun h => if data = [1] then h.wakePat else h)

/-- The 32-byte status block (R655). -/
def Hw.statusBlock (h : Hw) : List Byte :=
  let n := h.reg .PMP_NOTE 0 0 0
  toBytes 1 h.phase ++ toBytes 1 (h.bootFld F.SEC_BOOTSTAT_STOP) ++ toBytes 1 (h.bootFld F.SEC_BOOTSTAT_REASON_A) ++
    toBytes 1 (h.bootFld F.SEC_BOOTSTAT_REASON_B) ++ toBytes 1 h.statusFlags ++ toBytes 1 h.tripInfo.1 ++ toBytes 1 h.tripInfo.2 ++
    toBytes 1 ((F.PMP_NOTE_WR.get n + 65536 - F.PMP_NOTE_RD.get n) % 65536) ++ toBytes 8 h.aoTick ++
    toBytes 2 (h.fld .PWR_PKGLIM 0 0 0 F.PWR_PKGLIM_NOW_W) ++ toBytes 2 (h.fld .PWR_PKGLIM 0 0 0 F.PWR_PKGLIM_VIN_DV) ++ List.replicate 12 0

/-- STATUS_BLOCK_READ (R654). -/
def execStatusBlockRead (s : State) : Host.Outcome State Fault Refusal :=
  s.onHw (fun h => { h with plat := { h.plat with i3cReply := h.statusBlock } })

/-- DYNAMIC_ADDRESS_ASSIGNMENT (R654). -/
def execDynamicAddressAssignment (addr : BitVec 7) (s : State) : Host.Outcome State Fault Refusal :=
  s.onHw (fun h => { h with plat := { h.plat with dynAddr := some addr.toNat } })

/-! Reset pins and supplies (R514, R544, R660, R661, R668 to R671). -/

/-- PKG_RESET_ASSERT (R660, R661): the dies stop; boot, a slot update and an image sequence end, unless the pulse turns out shorter than the package takes. -/
def execPkgResetAssert (s : State) : Host.Outcome State Fault Refusal :=
  s.onHw (fun h => { h with plat := { h.plat with resetLow := true } })

/-- The pulse on PKG_RESET_N resets the package (R660): from 1 µs to 10 µs it may or may not. -/
def pulseResets (h : Hw) (us : Nat) : Bool := if us < 1 then false else if us < 10 then Config.shortPulseResets h.free else true

/-- PKG_RESET_RELEASE (R656, R660, R661): PKG_RECOV_N is sampled, low for recovery; an unstable level is sampled as either. -/
def Hw.resetRelease (h : Hw) (us : Nat) (recov : Option Bool) : Hw :=
  let h1 : Hw := { h with plat := { h.plat with resetLow := false } }
  let (b, h2) := h1.fresh 1
  let yes := match recov with
    | some x => x
    | none => b.toNat == 1
  if !h.plat.resetLow || !pulseResets h us || h2.tripped || has h2.groupOff 0 then h1
  else if yes then h2.warmReset.setBoot F.SEC_BOOTSTAT_STOP 4 else h2.warmReset

/-- PKG_RESET_RELEASE. -/
def execPkgResetRelease (us : Nat) (recov : Option Bool) (s : State) : Host.Outcome State Fault Refusal := s.onHw (fun h => h.resetRelease us recov)

/-- The logic dies have power again (R669): a cold reset if the 3.3 V supply left its range, else a package warm reset. -/
def Hw.powerBack (h : Hw) : Hw :=
  let h1 := if h.v33Left then h.coldReset else h.warmReset
  { h1 with groupOff := [], v33Left := false, tripped := false, thermtripPin := false, vinBad := 0, plat := { h1.plat with supplyCond := false } }

/-- POWER_UP (R668, R669): the supplies come in sequence with PKG_RESET_N low. -/
def execPowerUp (s : State) : Host.Outcome State Fault Refusal :=
  s.onHw (fun h =>
    let h1 := h.powerBack
    ({ h1 with plat := { h1.plat with resetLow := true } } : Hw).flagsIbi)

/-- SUPPLY_RESTORED (R514, R544): the input has stayed in range for 100 ms; a thermal trip stands until a power-up. -/
def execSupplyRestored (s : State) : Host.Outcome State Fault Refusal :=
  s.onHw (fun h =>
    if has h.groupOff 0 && !h.tripped then
      let v := h.fld .PWR_PKGLIM 0 0 0 F.PWR_PKGLIM_VIN_DV
      ((h.powerBack.setFld .PWR_PKGLIM 0 0 0 F.PWR_PKGLIM_VIN_DV v).supplyNotify v 3).flagsIbi
    else h)

/-- AO_SUPPLY_LOSS (R660, R671): the logic dies lose power and the always-on islands reset; the next power-up is a cold reset. -/
def execAoSupplyLoss (s : State) : Host.Outcome State Fault Refusal :=
  s.onHw (fun h =>
    let h1 := h.logicOff
    { h1 with v33Left := true, thermtripPin := false, ao := 0, plat := { h1.plat with dynAddr := none, ibis := [], i3cReply := [], image := none } })

/-! Reference clocks (R672, R673). -/

/-- REFCLK_LOSS (R673): REFCLK0 is a package-fatal error whose DETAIL the spec leaves open; the others lose their port die. -/
def execRefclkLoss (n : Fin 5) (s : State) : Host.Outcome State Fault Refusal :=
  s.onHw (fun h =>
    let h1 : Hw := { h with plat := { h.plat with refclkBad := ins h.plat.refclkBad n.val } }
    if n.val = 0 then
      let (k, h2) := h1.fresh 8
      (h2.ras 0 3 { code := 0x45, sev := 3, detail := k.toNat }).healthAlert 3 0 0 0x3FF 0x45
    else (h1.linkLost (dieHp (0x0F + n.val)) 1).portDieLost (n.val - 1))

/-- REFCLK_RESTORED (R477, R673): after 1 ms of a stable clock, a package warm reset; or the port die is reset and its link trains fully, and the ASSIGN readmits it. -/
def execRefclkRestored (n : Fin 5) (s : State) : Host.Outcome State Fault Refusal :=
  s.onHw (fun h =>
    if !has h.plat.refclkBad n.val then h
    else
      let h1 : Hw := { h with plat := { h.plat with refclkBad := rem h.plat.refclkBad n.val } }
      if n.val = 0 then (if h1.tripped then h1 else h1.warmReset)
      else
        let d := 0x0F + n.val
        let h2 := h1.dieReset d
        ({ h2 with training := put h2.training (dieHp d) true } : Hw).setLinkState (dieHp d) 1)

/-- AO_CLOCK_STOP (R673). -/
def execAoClockStop (s : State) : Host.Outcome State Fault Refusal :=
  s.onHw (fun h =>
    let h1 := h.ras 0 3 { code := 0x47, sev := 1, misc0 := BitVec.ofNat 64 h.aoTick }
    { h1 with plat := { h1.plat with aoRun := false } })

/-! JTAG (R663). -/

/-- The instructions of a TAP, numbered by the model: 0 BYPASS, 1 IDCODE, 2 SAMPLE/PRELOAD, 3 EXTEST, 4 EXTEST_PULSE, 5 EXTEST_TRAIN. -/
def Hw.tap (h : Hw) (die ir : Nat) : Hw := { h with plat := { h.plat with tapIr := put h.plat.tapIr die ir } }

/-- A boundary-scan test is carried out only while PKG_RESET_N is low, and acts as BYPASS otherwise. -/
def Hw.tapTest (h : Hw) (die ir : Nat) : Hw := h.tap die (if h.plat.resetLow then ir else 0)

/-- The IDCODE of a die: version STEP_MAJOR, part 0x9612, and Onauri's manufacturer identity, which the spec does not give (log entry 7), in the layout of IEEE 1149.1. -/
def idcodeWord : W32 := BitVec.ofNat 32 (Config.stepMajor <<< 28 ||| 0x9612 <<< 12 ||| Config.jtagMaker.toNat <<< 1 ||| 1)

/-- BYPASS. -/
def execBypass (die : DieIx) (s : State) : Host.Outcome State Fault Refusal := s.onHw (fun h => h.tap (dieId die) 0)

/-- IDCODE. -/
def execIdcode (die : DieIx) (s : State) : Host.Outcome State Fault Refusal :=
  s.onHw (fun h =>
    let h1 := h.tap (dieId die) 1
    { h1 with plat := { h1.plat with tapId := put h1.plat.tapId (dieId die) idcodeWord } })

/-- SAMPLE_PRELOAD: the boundary register takes a value. -/
def execSamplePreload (die : DieIx) (v : List Bool) (s : State) : Host.Outcome State Fault Refusal :=
  s.onHw (fun h =>
    let h1 := h.tap (dieId die) 2
    { h1 with plat := { h1.plat with tapDr := put h1.plat.tapDr (dieId die) v } })

/-- EXTEST. -/
def execExtest (die : DieIx) (s : State) : Host.Outcome State Fault Refusal := s.onHw (fun h => h.tapTest (dieId die) 3)

/-- EXTEST_PULSE. -/
def execExtestPulse (die : DieIx) (s : State) : Host.Outcome State Fault Refusal := s.onHw (fun h => h.tapTest (dieId die) 4)

/-- EXTEST_TRAIN. -/
def execExtestTrain (die : DieIx) (s : State) : Host.Outcome State Fault Refusal := s.onHw (fun h => h.tapTest (dieId die) 5)

end Sys2Proof.Machine
end

