-- ==== Sys2Proof/Machine/Window.lean ====
section
/-! DEFINITION. The register window as a whole: what a read shows, what a write does, the accesses that R8 to R10 refuse, the safe points and the disabling of caches (spec/00_scope.md R7 to R16; spec/02_askist_core.md R48, R49). -/

namespace Sys2Proof.Machine

/-! Reading (R8 to R12). -/

/-- A register as a read shows it: fields that the hardware computes have their value, and write-only fields read zero (R12, R497, R530, R610). -/
def Hw.regView (h : Hw) (r : RegRef) : W64 :=
  let v := h.reg r.name r.die r.inst r.idx
  match r.name with
  | .EVR_SRC => F.EVR_SRC_PART.set v ((h.srcPart r.idx).getD 15)
  | .PWR_AOTIME => BitVec.ofNat 64 h.aoTick
  | .CFG_WINDOW => if h.cfgState = 4 then F.CFG_WINDOW_REMAIN_MS.set 0 ((h.commit.windowEnd - h.now + 999999) / 1000000) else 0
  | n => n.desc.fields.foldl (fun a f => if f.acc = .WO then f.set a 0 else a) v

/-- The part of a register that an access of an aligned size covers (R8). -/
def halfOf (pa size : Nat) : Option Half :=
  if size = 8 ∧ pa % 8 = 0 then some .full
  else if size = 4 ∧ pa % 8 = 0 then some .low
  else if size = 4 ∧ pa % 8 = 4 then some .high
  else none

/-- The value that an access of a half has as its data. -/
def halfValue (half : Half) (v : W64) : W64 :=
  match half with
  | .full => v
  | .low => v &&& 0xFFFFFFFF
  | .high => v >>> 32

/-- The data of a store placed in its half of the register. -/
def halfPlace (half : Half) (v : W64) : W64 :=
  match half with
  | .high => v <<< 32
  | _ => v

/-- The scratchpad of an engine that the host access port shows at an address, and the offset in it (R366). -/
def hostSpAt (pa : Nat) : Option (Nat × Nat) :=
  match blockOf (alignDown pa 3) with
  | some (die, _, .SKM, inst, off) => if 0x80000 ≤ off ∧ off < 0x100000 then some (engOf die inst, off - 0x80000) else none
  | _ => none

/-- The platform controller reaches the PMP block and nothing else; only it has the Access column of that block (R638). -/
def platformOk (n : RegName) (w : Who) : Bool := decide (w.src ≠ .platform) || decide (n.desc.block = .PMP)

/-- A read of the register window: its value, or the DETAIL of the access fault that a load takes (R8 to R10, R367). -/
def Hw.winRead (h : Hw) (w : Who) (pa size : Nat) : Hw × Except Nat W64 :=
  match halfOf pa size with
  | none => (h, .error 0xF1)
  | some half => match hostSpAt pa with
    | some (n, off) => match h.hostSp w n off half false 0 with
      | (h1, some v) => (h1, .ok (halfValue half v))
      | (h1, none) => (h1, .error 0xF0)
    | none => match findReg pa with
      | none => (h, .error 0xF1)
      | some r => if !platformOk r.name w then (h, .ok 0)
        else if h.mayRead r w then (h, .ok (halfValue half (h.regView r)))
        else (h.refuseReg r.die pa w, .error 0xF0)

/-! Writing (R10 to R16). -/

/-- A write of SLINK_CTL (R462): CLR clears the counts of the end and reads 0. -/
def Hw.slinkWrite (h : Hw) (r : RegRef) (w : Who) (half : Half) (v : W64) : Hw :=
  let h1 := (h.writeFields r w half v).setFld r.name r.die r.inst r.idx F.SLINK_CTL_CLR 0
  let hub := decide (r.name = .SLINK_CTL_HP)
  let hp := if hub then r.idx else dieHp r.die
  if wbit (v &&& halfMask half) 17 then (h1.setLinkFld hp hub F.SLINK_STAT_CORR 0).setLinkFld hp hub F.SLINK_STAT_UNCORR 0 else h1

/-- A write of PMP registers by the platform controller (R638, R652, R653). Other writers change nothing there: no field names the package as its writer by register access. -/
def Hw.pmpWrite (h : Hw) (r : RegRef) (w : Who) (half : Half) (v : W64) : Hw :=
  if w.src ≠ .platform then h
  else match r.name with
    | .PMP_NOTE =>
      let h1 := h.writeFields r w half v
      if F.PMP_NOTE_RD.get (h1.reg .PMP_NOTE 0 0 0) = F.PMP_NOTE_RD.get (h.reg .PMP_NOTE 0 0 0) then h1
      else ({ h1 with plat := { h1.plat with lostSince := false } } : Hw).flagsIbi
    | .PMP_WAKE => if wbits (v &&& halfMask half) 31 0 = 0xA5C35A3C then h.wakePat else h
    | .PMP_RSP => h.writeFields r w half v
    | .PMP_REQ => if wbit (v &&& halfMask half) 63 then h.pmpGo else h
    | _ => h

/-- CLEANING and the caches that are being cleaned, when a core's disable bits have been written (R48, R49): a newly disabled cache is cleaned, an L2 with both L1s, but for L1 instruction, which is off at once; a re-enabled one is on at once unless a cleaning runs. -/
def Hw.coreCacheWrite (h : Hw) (w : Who) (die pcore : Nat) (half : Half) (v : W64) : Hw :=
  let old := h.reg .CORE_CACHE_CTL die pcore 0
  let h1 := h.writeFields (RegRef.at .CORE_CACHE_CTL die pcore) w half v
  let new := h1.reg .CORE_CACHE_CTL die pcore 0
  let start := (List.range 3).filter (fun i => wbit new i && !wbit old i && !wbit new (8 + i))
  let stop := (List.range 3).filter (fun i => !wbit new i && wbit old i)
  let m := start.foldl (fun n i => n ||| (if i = 2 then 7 else if i = 1 then 2 else 0)) 0
  let h0 := if start.contains 0 then
      (h1.onCore (coreKey die pcore) (fun c => { c with l1i := [] })).setFld .CORE_CACHE_CTL die pcore 0 F.CORE_CACHE_CTL_L1I_OFF 1 else h1
  let h2 := if m = 0 then h0 else
    (h0.onCore (coreKey die pcore) (fun c => { c with cleaning := c.cleaning ||| BitVec.ofNat 3 m })).setFld .CORE_CACHE_CTL die pcore 0 F.CORE_CACHE_CTL_CLEANING 1
  if h2.flag .CORE_CACHE_CTL die pcore 0 F.CORE_CACHE_CTL_CLEANING then h2
  else stop.foldl (fun (x : Hw) i => x.setReg .CORE_CACHE_CTL die pcore 0 (setWbits (x.reg .CORE_CACHE_CTL die pcore 0) (8 + i) (8 + i) 0)) h2

/-- As `coreCacheWrite`, for the die cache (R48, R49). -/
def Hw.dieCacheWrite (h : Hw) (w : Who) (die : Nat) (half : Half) (v : W64) : Hw :=
  let old := h.reg .DCACHE_CTL die 0 0
  let h1 := h.writeFields (RegRef.at .DCACHE_CTL die) w half v
  let new := h1.reg .DCACHE_CTL die 0 0
  let h2 := if wbit new 0 && !wbit old 0 && !wbit new 8 then
      (h1.onCDie die (fun c => { c with dcCleaning := true })).setFld .DCACHE_CTL die 0 0 F.DCACHE_CTL_CLEANING 1 else h1
  if h2.flag .DCACHE_CTL die 0 0 F.DCACHE_CTL_CLEANING || wbit new 0 then h2 else h2.setFld .DCACHE_CTL die 0 0 F.DCACHE_CTL_DC_OFF 0

/-- A write of an overflow register (R282, and the registers that R209, R324, R503, R533 and R619 give its layout): OVF_COUNT is cleared with OVF. -/
def Hw.errstatWrite (h : Hw) (r : RegRef) (w : Who) (half : Half) (v : W64) : Hw :=
  let h1 := h.writeFields r w half v
  if wbit (v &&& halfMask half) 16 then h1.setReg r.name r.die r.inst r.idx (setWbits (h1.reg r.name r.die r.inst r.idx) 15 0 0) else h1

/-- What a permitted write does to a register and to what it controls. -/
def Hw.regEffect (h : Hw) (r : RegRef) (w : Who) (half : Half) (v : W64) : Hw :=
  let x := v &&& halfMask half
  match r.name with
  | .CORE_CACHE_CTL => h.coreCacheWrite w r.die r.inst half v
  | .DCACHE_CTL => h.dieCacheWrite w r.die half v
  | .CORE_SECACT => h.secactWrite w r.die r.inst half v
  | .DCTL_MIGRATE => h.migrateWrite w r.die half v
  | .HOME_FENCE0 => (h.fenceSet false x).engFenced (fenceAgents false x)
  | .HOME_FENCE1 => (h.fenceSet true x).engFenced (fenceAgents true x)
  | .HOME_RCWAY => h.rcwayWrite w r.inst r.idx half v
  | .HOME_HOTCTL => h.hotctlWrite w r.inst r.idx half v
  | .HOME_HOTSNAP => h.hotsnapWrite w r.idx half v
  | .HOME_ISET_A => h.isetA w r.idx half v r.inst
  | .HOME_ISET_B => h.isetB w r.idx half v r.inst
  | .MEMC_SCRUB => h.scrubWrite w r.inst half v
  | .MEMC_SPARE => h.spareWrite w r.inst half v
  | .MEMC_RECAL => h.recalWrite w r.inst half v
  | .SKM_QCTL => h.qctlWrite w (4 * r.inst + r.idx) half v
  | .SKM_QTAIL => h.doorbell w (4 * r.inst + r.idx) half v
  | .SKM_ELCPWR => h.elcpwrWrite w (engOf r.die r.inst) half v
  | .SKM_SPPWR => h.sppwrWrite w (engOf r.die r.inst) half v
  | .SKM_DBGCTL => h.dbgWrite (engOf r.die r.inst) x
  | .SKM_UCODE => h.ucodeWrite w (engOf r.die r.inst) half v
  | .DCTL_FW => h.fwWrite w r.die half v
  | .DCTL_UPD_CMD => h.updWrite w (r.idx + 1) half v
  | .SLINK_CTL => h.slinkWrite r w half v
  | .SLINK_CTL_HP => h.slinkWrite r w half v
  | .LATH_PORT => h.lathWrite (nodeOfDie r.die) r.idx x
  | .LATH_PORT_HUB => h.lathWrite (4 * (r.idx / 4) + 5) (r.idx % 4) x
  | .CFG_CTL => h.cfgCtlWrite w x
  | .CFG_CONFIRM => h.confirmWrite half v
  | .CFG_APPLY => h.explicitWrite w half v
  | .PWR_DOM => h.domWrite w r.die r.idx half v
  | .PWR_EDGEREL => h.edgeWrite half v
  | .PWR_TCAL => (h.writeFields r w half v).setFld .PWR_TCAL r.die 0 0 F.PWR_TCAL_GO 0
  | .SEC_SWCTL => h.swctlWrite w (r.idx + 1) half v
  | .SEC_RNGCMD => h.rngcmdWrite w (r.idx + 1) half v
  | .SEC_SENG => h.sengWrite w half v
  | .SEC_KEYREV => h.keyrevWrite w half v
  | .SEC_FLOOR => h.floorWrite w half v
  | .SEC_FLASHCMD => h.flashWrite w half v
  | .SEC_MEXT => h.mextWrite w half v
  | .MTRX_CMD => h.mtrxCmdWrite w half v
  | .MTRX_RING => h.mtrxRingWrite w half v
  | .EVR_CTL => h.evrCtlWrite w r.idx half v
  | .EVR_ONLINE => h.onlineWrite r.idx half v
  | .HOME_ERRSTAT => h.errstatWrite r w half v
  | .XTL_FAULTSTAT => h.errstatWrite r w half v
  | .MEMC_ERRSTAT => h.errstatWrite r w half v
  | .CFG_REJSTAT => h.errstatWrite r w half v
  | .PWR_REFSTAT => h.errstatWrite r w half v
  | .RAS_ERRSTAT => h.errstatWrite r w half v
  | n => if n.desc.block = .PMP then h.pmpWrite r w half v else h.writeFields r w half v

/-- The value that the permission of a write looks at (R499, R501, R502). -/
def Hw.permitValue (h : Hw) (r : RegRef) (half : Half) (v : W64) : W64 :=
  if r.name = .CFG_APPLY then merged half (h.reg .CFG_APPLY 0 0 0) v else v &&& halfMask half

/-- A write of the register window, its data placed in its half (R8 to R10). -/
def Hw.winWriteHalf (h : Hw) (w : Who) (pa : Nat) (half : Half) (v : W64) : Hw :=
  match hostSpAt pa with
  | some (n, off) => (h.hostSp w n off half true v).1
  | none => match findReg pa with
    | none => h.refuseReg 0 pa w
    | some r => if !platformOk r.name w then h else h.permit r w (h.permitValue r half v) (fun h => h.regEffect r w half v)

/-- A store to the register window (R8): one of another size or alignment is discarded, and the hub's RAS block records it. -/
def Hw.winWrite (h : Hw) (w : Who) (pa size : Nat) (v : W64) : Hw :=
  match halfOf pa size with
  | none => h.refuseReg 0 pa w
  | some half => h.winWriteHalf w pa half (halfPlace half v)

/-! Commands. -/

/-- REGISTER_WRITE (R16). -/
def execRegisterWrite (who : Who) (pa : BitVec 52) (half : Half) (v : W64) (s : State) : Host.Outcome State Fault Refusal :=
  s.onHw (fun h => if paRange pa.toNat = .window ∧ pa.toNat % 8 = 0 then h.winWriteHalf who pa.toNat half v else h.refuseReg 0 pa.toNat who)

/-- The block of a register is at its safe point for the register (R289, R332, R365, R603). -/
def Hw.atSafePoint (h : Hw) (r : RegRef) : Bool :=
  match r.name with
  | .SKM_QBASE => decide (h.qFld .SKM_QCTL (4 * r.inst + r.idx) F.SKM_QCTL_EN = 0 ∧ h.qFld .SKM_QHEAD (4 * r.inst + r.idx) F.SKM_QHEAD_INFLIGHT = 0)
  | .SKM_RGN_FIRST => (look? h.run (engOf r.die r.inst)).isNone
  | .SKM_RGN_CORE => (look? h.run (engOf r.die r.inst)).isNone
  | .MTRX_RING => !h.flag .MTRX_RING 0 0 0 F.MTRX_RING_EN
  | _ => true

/-- A block reaches its safe point: the register's staged fields take effect (R16). -/
def Hw.safePoint (h : Hw) (r : RegRef) : Hw :=
  if !h.atSafePoint r then h
  else match r.name with
    | .SKM_QBASE => h.queueBaseApply (4 * r.inst + r.idx)
    | .HOME_ISET_A => h.isetApplied r.idx
    | .HOME_ISET_B => h.isetApplied r.idx
    | .MTRX_RING => if (look? h.shadow (regAddr .MTRX_RING 0 0 0)).isNone then h else (h.applyShadow r).setReg .MTRX_RPTR 0 0 0 0
    | _ => h.applyShadow r

/-- SAFE_POINT_APPLY (R16). -/
def execSafePointApply (pa : BitVec 52) (s : State) : Host.Outcome State Fault Refusal :=
  s.onHw (fun h => match findReg pa.toNat with
    | some r => h.safePoint r
    | none => h)

/-! Disabling caches (R48, R49). -/

/-- CACHE_DISABLE_REQUEST (R48): a write of CORE_CACHE_CTL or of DCACHE_CTL. -/
def execCacheDisableRequest (who : Who) (die : CDie) (core : Option PCore) (v : W64) (s : State) : Host.Outcome State Fault Refusal :=
  s.onHw (fun h =>
    let d := die.val + 1
    match core with
    | some p => h.permit (RegRef.at .CORE_CACHE_CTL d p.val) who v (fun h => h.coreCacheWrite who d p.val .full v)
    | none => h.permit (RegRef.at .DCACHE_CTL d) who v (fun h => h.dieCacheWrite who d .full v))

/-- The end of a core's cleaning (R48, R49): L1 data cleans to L2, L2 to the die cache; a cache whose disable bit is still set is off, and one whose bit was cleared meanwhile is on and empty. -/
def Hw.coreCleaned (h : Hw) (die pcore : Nat) : Hw :=
  let key := coreKey die pcore
  let c := (h.core key).cleaning
  let h1 := if c.getLsbD 2 then ((h.core key).l2.map (·.1)).foldl (fun (x : Hw) l => x.l2Drop die pcore l) h else h
  let h2 := h1.onCore key (fun k => { k with
    l1i := if c.getLsbD 0 then [] else k.l1i, l1d := if c.getLsbD 1 then [] else k.l1d, cleaning := 0 })
  let h3 := if c.getLsbD 1 then ((h.core key).l1d.map (·.1)).foldl (fun (x : Hw) l => x.coreLosesLine die pcore l) h2 else h2
  let v := h3.reg .CORE_CACHE_CTL die pcore 0
  let v1 := (List.range 3).foldl (fun (a : W64) i => setWbits a (8 + i) (8 + i) (b2n (wbit v i && (c.getLsbD i || wbit v (8 + i))))) v
  h3.setReg .CORE_CACHE_CTL die pcore 0 (F.CORE_CACHE_CTL_CLEANING.set v1 0)

/-- The end of a die cache's cleaning (R48, R49): every line that no L2 of the die holds is given up to the home, and a dirty one that an L2 holds clean. -/
def Hw.dieCleaned (h : Hw) (die : Nat) : Hw :=
  let gone (x : Hw) (e : Nat × LState) : Bool := (x.sfCores die e.1).all (fun p => e.2 == .M && !(x.l2State die p e.1 == .M))
  let h1 := ((h.cdie die).dc.filter (gone h)).foldl (fun (x : Hw) e => (x.l2DropOthers die e.1 none).dieGiveUp die e.1) h
  let h2 := h1.onCDie die (fun c => { c with dcCleaning := false })
  (h2.setFld .DCACHE_CTL die 0 0 F.DCACHE_CTL_CLEANING 0).setFld .DCACHE_CTL die 0 0 F.DCACHE_CTL_DC_OFF (h2.fld .DCACHE_CTL die 0 0 F.DCACHE_CTL_DC_DIS)

/-- CACHE_CLEAN_DONE (R49). -/
def execCacheCleanDone (die : CDie) (core : Option PCore) (s : State) : Host.Outcome State Fault Refusal :=
  s.onHw (fun h =>
    let d := die.val + 1
    match core with
    | some p => if (h.core (coreKey d p.val)).cleaning = 0 then h else h.coreCleaned d p.val
    | none => if (h.cdie d).dcCleaning then h.dieCleaned d else h)

end Sys2Proof.Machine
end

