-- ==== Sys2Proof/Machine/DeviceAccess.lean ====
section
/-! DEFINITION. The completion of device accesses of threads, and the requests that reach a port or a register access port (spec/06_memory_ordering.md R228 to R234; spec/05_address_translation.md R178; spec/11_fabric.md R434). -/

namespace Sys2Proof.Machine

/-! Completion. -/

/-- A load's data, extended (R105). -/
def devExtend (size : Nat) (signed : Bool) (v : Nat) : W64 :=
  if signed then sextN (8 * size) v else BitVec.ofNat 64 (v % 2 ^ (8 * size))

/-- A vector with 64-bit lanes replaced, and the other lanes zero or kept (R88). -/
def putLanes64 (old : V512) (z : Bool) (l : List (Nat × Nat)) : V512 :=
  l.foldl (fun (v : V512) e => BitVec.ofNat 512 (setNbits v.toNat (64 * e.1 + 63) (64 * e.1) e.2)) (if z then 0 else old)

/-- The instruction retires with what its loads have read (R228 to R230). -/
def Hw.devRetire (h : Hw) (t : Nat) (w : DevWait) : Hw :=
  let h1 := h.onThread t (fun x =>
    let x1 := { x with dev := none }
    match w.dest, w.vd with
    | some (d, s), _ => x1.writeG d (devExtend w.size s ((w.got.headD (0, 0)).2))
    | none, some (d, z) => x1.writeV d (putLanes64 (x1.readV d) z w.got)
    | none, none => x1)
  retire h1 t w.len

/-- The cause of an access fault of a load or a store (R187). -/
def accessFault (write : Bool) (detail : Nat) (va : W64) : Cause :=
  { code := if write then 0x0B else 0x0A, detail := detail, tval := va }

/-- A thread below M reaches the register window only by a mapping: with neither stage of translation on there is none (R10, log entry 61). -/
def Hw.windowBare (h : Hw) (t : Nat) : Bool :=
  let c := h.ctx t
  decide ((h.thread t).level ≠ 3) && !c.s1en && !c.psen

/-- A load or store of the register window (R8 to R10): the block applies it at once. -/
def Hw.devWindow (h : Hw) (t size : Nat) (write : Bool) (a : DevAcc) : Except (Hw × Cause) (Hw × Nat) :=
  if h.windowBare t then
    let h1 := h.refuseReg (match blockOf (alignDown a.pa 3) with
      | some (die, _) => die
      | none => 0) a.pa (h.who t)
    if write then .ok (h1, 0) else .error (h1, accessFault false 0xF0 a.va)
  else if write then .ok (h.winWrite (h.who t) a.pa size (BitVec.ofNat 64 a.val), 0)
  else
    let (h1, r) := h.winRead (h.who t) a.pa size
    match r with
    | .ok v => .ok (h1, v.toNat)
    | .error d => .error (h1, accessFault false d a.va)

/-- A load or store of the message region (R617). -/
def Hw.devMessage (h : Hw) (t size : Nat) (write : Bool) (a : DevAcc) : Except (Hw × Cause) (Hw × Nat) :=
  let part := h.partOf t
  let world := (h.thread t).world
  let data := BitVec.ofNat 64 a.val
  if !write then .error (h.msgDiscard none part world t a.pa 0, accessFault false 0xF0 a.va)
  else match msgCheck part world a.pa size data with
    | none => .ok (h.msgRaise part data, 0)
    | some .page => .error (h.refuseReg 0 a.pa (h.who t), accessFault true 0xF0 a.va)
    | some .form => .error (h.msgDiscard none part world t a.pa data, accessFault true 0xF0 a.va)

/-- A lane of N-WB or N-NC memory of a mixed access follows the rules of its own type (R230). -/
def Hw.devLane (h : Hw) (t size : Nat) (write : Bool) (a : DevAcc) : Hw × Nat :=
  if write then (storeParts t a.parts (toBytes size a.val) h, 0)
  else
    let r := chunkLoad t a.parts h
    (r.1, ofBytes r.2)

/-- A device-type access of memory is sent to the home, and its answer awaited (R174, R175). -/
def Hw.devHome (h : Hw) (t : Nat) (w : DevWait) : Hw :=
  let i := w.addr % 64
  (h.onThread t (fun x => { x with dev := some w })).send
    { op := if w.write then .WRP else .RDC, addr := lineOf w.addr, agent := h.threadAgent t,
      part := h.partOf t, world := (h.thread t).world, info := 3, data := (w.cur.val % 2 ^ (8 * w.size)) <<< (8 * i), mask := (2 ^ w.size - 1) <<< i }

/-- The accesses of a device instruction in order (R228, R230): those that the package itself completes are done at once, and one to a port or to memory is sent and waited for. After the last, the instruction retires or takes the fault of the lane that ended it. -/
def devRun (t : Nat) (w : DevWait) : List DevAcc → List (Nat × Nat) → Hw → Hw
  | [], got, h =>
    match w.stop with
    | some (code, detail, tval, fva) => h.devTrap t { code := code, detail := detail, tval := tval, fva := fva }
    | none => h.devRetire t { w with got := got }
  | a :: r, got, h =>
    let k := paRange a.pa
    let got' (v : Nat) : List (Nat × Nat) := if w.write then got else got ++ [(a.val, v)]
    if !a.parts.isEmpty then
      let (h1, v) := h.devLane t w.size w.write a
      devRun t w r (got' v) h1
    else if k = .mmio then h.devSend t { w with acc := a :: r, got := got }
    else if k.isMem then
      match homeCause h t a.pa a.va (if w.write then .store else .load) with
      | some (h1, c) => h1.devTrap t c
      | none => h.devHome t { w with acc := a :: r, got := got }
    else
      match (if k = .window then h.devWindow t w.size w.write a else h.devMessage t w.size w.write a) with
      | .error (h1, c) => h1.devTrap t c
      | .ok (h1, v) => devRun t w r (got' v) h1

/-- The current access of a thread is complete: the next lane is sent (R230), or the instruction retires. -/
def Hw.devDone (h : Hw) (t : Nat) (v : Nat) : Hw :=
  match (h.thread t).devOpen with
  | none => h
  | some w => devRun t w (w.acc.drop 1) (if w.write then w.got else w.got ++ [(w.cur.val, v)]) (h.onThread t (fun x => { x with dev := none }))

/-- The home has answered a device-type access of memory (R62, R175): its data, the write's completion, or a refusal. -/
def Hw.devAnswered (h : Hw) (die pcore line : Nat) (refused : Bool) : Hw :=
  let mine (t : Nat) : Bool := match (h.thread t).devOpen with
    | some w => (paRange w.addr).isMem && lineOf w.addr == line
    | none => false
  match (h.threadsOn die pcore).find? mine with
  | none => h
  | some t => match (h.thread t).devOpen with
    | none => h
    | some w =>
      let acc : Acc := if w.write then .store else .load
      match homeCause h t w.addr w.cur.va acc with
      | some (h1, c) => h1.devTrap t c
      | none => if refused then h.devTrap t (accessFault w.write 0xF0 w.cur.va) else h.devDone t (h.readNum w.addr w.size)

/-! Arrival at a port. -/

/-- A load or a D-S store of a thread reaches a port (R178, R228, R235): the port sends the request and awaits the device's completion; absent functions of bus 0 are answered by the port itself, and the root port's registers as REGISTER_COMPLETION says. -/
def Hw.mmioArrives (h : Hw) (w : Who) (pa size : Nat) (write : Bool) (v : W64) : Hw :=
  let t := w.thread.val
  let n := portOfPa pa
  let mine := match (h.thread t).devOpen with
    | some d => decide (d.addr = pa) && !d.posted
    | none => false
  if !h.portPass n w then h.portRefuse n pa w write
  else match busZero pa with
    | some true => h
    | some false => if mine then h.devDone t (2 ^ 64 - 1) else h
    | none => if has h.portUp n then h.sendTlp pa write false size (if write then toBytes size v.toNat else []) else if mine then h.devFail t 0x44 else h.devRecord n t pa 0x44

/-! Requests at the register access ports (R434). -/

/-- The answer to a register read: REGCPL with the data, or REF (R434). -/
def Hw.regReply (h : Hw) (w : Who) (pa : Nat) (r : Except Nat W64) : Hw :=
  let a := h.threadAgent w.thread.val
  match r with
  | .ok v => h.send { op := .REGCPL, addr := pa, agent := a, part := w.part.val, world := w.world, info := v.toNat, txid := h.rspOf a pa }
  | .error _ => h.send { op := .REF, addr := pa, agent := a, part := w.part.val, world := w.world, txid := h.rspOf a pa }

end Sys2Proof.Machine
end

