-- ==== Sys2Proof/Machine/AskistMem.lean ====
section
/-! DEFINITION. Scalar and vector loads and stores of Askist, the prefix, and the reserved pairs (spec/03_askist_instruction_set.md R100, R105 to R108; spec/06_memory_ordering.md R211 to R240). -/

namespace Sys2Proof.Machine

/-! The checks of a data access (R105, R106, R155). -/

/-- An access still to be checked: its kind, the address of the whole access, and the part's address and length. -/
structure Want where
  acc : Acc
  whole : W64
  va : W64
  len : Nat
  deriving DecidableEq, Repr

/-- An access of at most 64 bytes by lines (R218). -/
def splitLine (va : W64) (size : Nat) : List (W64 × Nat) :=
  let n := 64 - va.toNat % 64
  if size ≤ n then [(va, size)] else [(va, n), (va + BitVec.ofNat 64 n, size - n)]

/-- What an access of a kind wants checked. -/
def wants (acc : Acc) (a : W64 × Nat) : List Want := (splitLine a.1 a.2).map (fun p => ⟨acc, a.1, p.1, p.2⟩)

/-- A want placed by its address, lowest first. -/
def insWant (a : Want) : List Want → List Want
  | [] => [a]
  | b :: r => if a.va.toNat < b.va.toNat then a :: b :: r else b :: insWant a r

/-- Wants in ascending order of address: the lowest faulting byte is met first (R106). DESIGN CHOICE: of two that begin at one byte the later of the list is first, so a BMOVE checks its store before its load there (log entry 43). -/
def sortWants (l : List Want) : List Want := l.foldr insWant []

/-- The checks of a device type on one access, in the order of R155 (R105, R174, R178): alignment, the windows that reach nothing, and the form of the instruction. -/
def deviceCheck (h : Hw) (r : XRes) (w : Want) (esz : Nat) (devOk : Bool) : Option Cause :=
  if w.whole.toNat % esz ≠ 0 then some { code := 0x07, tval := w.va }
  else if decide (paRange r.pa = .mmio) && h.joinedOther (portOfPa r.pa) then some (accessFault (decide (w.acc = .store)) (tdetail 7 0x11) w.va)
  else if !devOk || (decide (paRange r.pa = .mmio) && decide (r.mt = 3) && isConfig r.pa) then some { code := 0x0C, tval := w.va }
  else none

/-- A translation of a part of an access fails: a device type that its range does not allow comes after the alignment that the type demands (R105, R155). -/
def wantFault (w : Want) (esz : Nat) (f : TF) : Cause :=
  match f with
  | .memType eff => if 2 ≤ eff ∧ w.whole.toNat % esz ≠ 0 then { code := 0x07, tval := w.va } else tfCause f w.va w.acc
  | _ => tfCause f w.va w.acc

/-- One part of an access is checked: translation, its memory type, and the home's answer, which an N-NC store learns only when its buffer is written (R228). The D bits that the access sets are returned. -/
def checkWant (t esz : Nat) (devOk : Bool) (w : Want) (h : Hw) : Except (Hw × Cause) (Hw × MemPart × List Nat) :=
  match xlate h t (h.ctx t) w.va w.acc with
  | .error (h1, f) => .error (h1, wantFault w esz f)
  | .ok (h1, r) =>
    let p : MemPart := ⟨w.va, r.pa, w.len, r.mt⟩
    if 2 ≤ r.mt then
      match deviceCheck h1 r w esz devOk with
      | some c => .error (h1, c)
      | none => .ok (h1, p, r.ds)
    else if w.acc = .store ∧ r.mt = 1 then .ok (h1, p, r.ds)
    else match homeCause h1 t r.pa w.va w.acc with
      | some e => .error e
      | none => .ok (h1, p, r.ds)

/-- The checks of every part of an access. -/
def checkEach (t esz : Nat) (devOk : Bool) : List Want → Hw → Except (Hw × Cause) (Hw × List MemPart × List Nat)
  | [], h => .ok (h, [], [])
  | w :: r, h =>
    match checkWant t esz devOk w h with
    | .error e => .error e
    | .ok (h1, p, d) =>
      match checkEach t esz devOk r h1 with
      | .error e => .error e
      | .ok (h2, ps, ds) => .ok (h2, p :: ps, d ++ ds)

/-- Every part of an access is checked before any byte moves and any D bit is set (R106, R180). -/
def checkWants (t esz : Nat) (devOk : Bool) (l : List Want) (h : Hw) : Except (Hw × Cause) (Hw × List MemPart) :=
  match checkEach t esz devOk l h with
  | .error e => .error e
  | .ok (h1, ps, ds) => .ok (setDs h1 ds, ps)

/-- The checked parts of one access among those of an instruction. -/
def partsOf (ps : List MemPart) (a : W64 × Nat) : List MemPart :=
  (splitLine a.1 a.2).map (fun q => { (ps.find? (fun p => p.va == q.1)).getD ⟨q.1, 0, q.2, 0⟩ with len := q.2 })

/-- An access of a device type is among the parts. -/
def anyDevice (ps : List MemPart) : Bool := ps.any (fun p => decide (2 ≤ p.mt))

/-- The device access of a part: one to a port's window of type D-P is posted (R229). -/
def devAccOf (p : MemPart) (val : Nat) : DevAcc := ⟨p.pa, p.va, val, decide (p.mt = 3) && decide (paRange p.pa = .mmio), []⟩

/-- The size in bytes of a scalar load, and whether it sign-extends (R102, R105). -/
def loadForm : LoadKind → Nat × Bool
  | .b => (1, true)
  | .h => (2, true)
  | .w => (4, true)
  | .d => (8, true)
  | .bu => (1, false)
  | .hu => (2, false)
  | .wu => (4, false)

/-- A scalar load at work (R105, R106), with its extended displacement; `len` is the length of the instruction. -/
def loadBody (t : Nat) (k : LoadKind) (d a : RegNum) (off : W64) (len : Nat) (settled : Bool) (h : Hw) : Exe :=
  let (size, signed) := loadForm k
  let x := h.thread t
  let va := x.readG a.toNat + off
  match checkWants t size true (sortWants (wants .load (va, size))) h with
  | .error e => .error e
  | .ok (h1, ps) =>
    if siblingHolds h1 t ps || (!settled && ps.any (fun p => !p.isWb)) then .error (h1, notNow)
    else if anyDevice ps then
      whenSettled t h1 (fun h2 =>
        let w : DevWait := { acc := [], size := size, write := false, len := len, dest := some (d.toNat, signed) }
        .ok (devRun t w (ps.map (fun p => { devAccOf p 0 with posted := false })) [] h2))
    else
      ncGate t ps h1 (fun h2 => loadGate t settled ps h2 (fun st h2 =>
        let (h3, m) := loadPieces t ps h2
        let h4 := loadParts t st x ps h3
        .ok (retire (h4.setG t d.toNat (devExtend size signed (numAt m va size))) t len (loadEvents t st ps h3))))

/-- The load that the thread's command gives is settled: the command says so, or it was deferred and has settled since (R54). -/
def Hw.loadSettled (h : Hw) (t : Nat) (settled : Bool) : Bool :=
  settled || (match (h.thread t).deferred with
    | some d => d.2
    | none => false)

/-- A load that is not settled runs only as far as a provisional read takes it (R51, R60, R62): it waits where it would take a trap, set a bit of a table entry, or read memory that is not N-WB. -/
def issueLoad (t : Nat) (words : Nat) (settled : Bool) (body : Bool → Hw → Exe) (h : Hw) : Hw :=
  if h.loadSettled t settled then issue t words (body true) h
  else if !h.canRun t then h.dueTrap t
  else match h.asyncNow t with
    | some h1 => h1
    | none => if speculable t words (body false) h then runInstr t words (body false) h else h

/-- LOAD (R105). -/
def execLoad (t : Gtn) (k : LoadKind) (d a : RegNum) (imm : BitVec 16) (settled : Bool) (s : State) :
    Host.Outcome State Fault Refusal :=
  s.onHw (issueLoad t.val 1 settled (loadBody t.val k d a (imm.signExtend 64) 4))

/-- The size in bytes of a scalar store (R102). -/
def storeForm : StoreKind → Nat
  | .b => 1
  | .h => 2
  | .w => 4
  | .d => 8

/-- A scalar store at work (R105, R106). -/
def storeBody (t : Nat) (k : StoreKind) (d a : RegNum) (off : W64) (len : Nat) (h : Hw) : Exe :=
  let size := storeForm k
  let x := h.thread t
  let va := x.readG a.toNat + off
  let v := (x.readG d.toNat).toNat
  match checkWants t size true (sortWants (wants .store (va, size))) h with
  | .error e => .error e
  | .ok (h1, ps) =>
    if anyDevice ps then .ok (devRun t { acc := [], size := size, write := true, len := len } (ps.map (fun p => devAccOf p (v % 2 ^ (8 * size)))) [] h1)
    else storeGate t ps h1 (fun h1 => .ok (retire (storeParts t (partsOf ps (va, size)) (toBytes size v) h1) t len))

/-- STORE (R105). -/
def execStore (t : Gtn) (k : StoreKind) (d a : RegNum) (imm : BitVec 16) (s : State) : Host.Outcome State Fault Refusal :=
  s.onHw (issueSettled t.val 1 (storeBody t.val k d a (imm.signExtend 64) 4))

/-! The prefix (R100). -/

/-- What a prefixed pair does: an immediate form, JALR, a load or a store. -/
inductive PfxForm where
  | imm (o : ImmOp) | jalr | load (k : LoadKind) | store (k : StoreKind)
  deriving DecidableEq, Repr

/-- The instructions that a prefix may precede, by major opcode (R100, R102). -/
def pfxForm : Nat → Option PfxForm
  | 0x02 => some (.imm .addi)
  | 0x03 => some (.imm .andi)
  | 0x04 => some (.imm .ori)
  | 0x05 => some (.imm .xori)
  | 0x06 => some (.imm .lui)
  | 0x08 => some (.load .b)
  | 0x09 => some (.load .h)
  | 0x0A => some (.load .w)
  | 0x0B => some (.load .d)
  | 0x0C => some (.load .bu)
  | 0x0D => some (.load .hu)
  | 0x0E => some (.load .wu)
  | 0x10 => some (.store .b)
  | 0x11 => some (.store .h)
  | 0x12 => some (.store .w)
  | 0x13 => some (.store .d)
  | 0x1F => some .jalr
  | _ => none

/-- The form of a word that a prefix precedes. -/
def pfxOf (next : W32) : Option PfxForm := pfxForm (next.toNat >>> 26)

/-- The d field of an I16 word (R98). -/
def fieldD (w : W32) : RegNum := BitVec.ofNat 5 (w.toNat >>> 21)

/-- The a field of an I16 word (R98). -/
def fieldA (w : W32) : RegNum := BitVec.ofNat 5 (w.toNat >>> 16)

/-- The pair's immediate: 42 bits, sign-extended (R100). -/
def pfxImm (ext : BitVec 26) (next : W32) : W64 := (ext ++ next.setWidth 16 : BitVec 42).signExtend 64

/-- A prefixed pair at work. -/
def pfxBody (t : Nat) (ext : BitVec 26) (next : W32) (settled mispredicted : Bool) (h : Hw) : Exe :=
  let imm := pfxImm ext next
  let d := fieldD next
  let a := fieldA next
  match pfxOf next with
  | none => .error (h, illegal next)
  | some (.imm o) => immBody o t d a imm 8 next h
  | some .jalr => jalrBody t d a imm 8 mispredicted h
  | some (.load k) => loadBody t k d a imm 8 settled h
  | some (.store k) => storeBody t k d a imm 8 h

/-- The pair is a store, which is sent only when settled (R60). -/
def pfxStores (next : W32) : Bool :=
  match pfxOf next with
  | some (.store _) => true
  | _ => false

/-- The pair is a load. -/
def pfxLoads (next : W32) : Bool :=
  match pfxOf next with
  | some (.load _) => true
  | _ => false

/-- PFX (R100): the pair is one instruction. -/
def execPfx (t : Gtn) (ext : BitVec 26) (next : W32) (settled mispredicted : Bool) (s : State) : Host.Outcome State Fault Refusal :=
  s.onHw (if pfxLoads next then issueLoad t.val 2 settled (fun st => pfxBody t.val ext next st mispredicted)
    else (if pfxStores next then issueSettled else issue) t.val 2 (pfxBody t.val ext next settled mispredicted))

/-! Vector loads and stores (R108, R230). -/

/-- The address of a lane (R108): consecutive elements when gb is g0, else a signed stride. -/
def laneAddr (x : Thread) (v : VFields) (i : Nat) : W64 :=
  x.readG v.a.toNat + BitVec.ofNat 64 i * (if v.b = 0 then BitVec.ofNat 64 (eBytes v) else x.readG v.b.toNat)

/-- The lanes of a device access, checked one by one in ascending order, up to the first that fails (R230): each with its parts. -/
def laneChecks (t e : Nat) (acc : Acc) : List (Nat × W64) → Hw → Hw × List (Nat × List MemPart) × Option Cause
  | [], h => (h, [], none)
  | (i, va) :: r, h =>
    match checkWants t e (decide (e = 8)) (wants acc (va, e)) h with
    | .error (h1, c) => (h1, [], some c)
    | .ok (h1, ps) =>
      let (h2, l, c) := laneChecks t e acc r h1
      (h2, (i, ps) :: l, c)

/-- A lane of a device type is met before any lane fails: the access goes lane by lane (R230). -/
def byLanes (l : List (Nat × List MemPart)) : Bool := anyDevice (l.flatMap (·.2))

/-- The access of a lane: a device access, or one that follows the rules of N-WB and N-NC memory. -/
def laneAcc (ps : List MemPart) (val : Nat) : DevAcc :=
  let p := ps.headD ⟨0, 0, 0, 0⟩
  if anyDevice ps then devAccOf p val else ⟨p.pa, p.va, val, false, ps⟩

/-- The parts of the lanes that are not of a device type. -/
def plainParts (l : List (Nat × List MemPart)) : List MemPart := (l.flatMap (·.2)).filter (fun p => p.isWb || p.isNc)

/-- VLD at work. -/
def vldBody (t : Nat) (v : VFields) (settled : Bool) (h : Hw) : Exe :=
  vecGuard false (wordV 0x21 v 0) t h (fun h =>
    let x := h.thread t
    let e := eBytes v
    let pred := x.readP v.pred.toNat
    let lanes := (activeLanes e pred).map (fun i => (i, laneAddr x v i))
    let (hd, ls, stop) := laneChecks t e .load lanes h
    if byLanes ls then
      if !settled || stop = some notNow then .error (hd, notNow) else whenSettled t hd (fun h2 => chunkGate t (plainParts ls) [] h2 (fun h2 =>
        let w : DevWait := { acc := [], size := e, write := false, len := 4, vd := some (v.d.toNat, v.z), stop := stop.map Cause.stop }
        .ok (devRun t w (ls.map (fun q => { laneAcc q.2 q.1 with posted := false })) [] h2)))
    else
      match checkWants t e (decide (e = 8)) (sortWants (lanes.flatMap (fun q => wants .load (q.2, e)))) h with
      | .error c => .error c
      | .ok (h1, ps) =>
        if siblingHolds h1 t ps || (!settled && ps.any (fun p => !p.isWb)) then .error (h1, notNow)
        else
          ncGate t ps h1 (fun h2 => loadGate t settled ps h2 (fun st h2 =>
            let (h3, m) := loadPieces t ps h2
            let h4 := loadParts t st x ps h3
            let r := maskLanes e pred v.z (x.readV v.d.toNat) (fun i => numAt m (laneAddr x v i) e)
            .ok (retire (h4.onThread t (fun y => y.writeV v.d.toNat r)) t 4 (loadEvents t st ps h3)))))

/-- VLD (R108). -/
def execVld (t : Gtn) (v : VFields) (settled : Bool) (s : State) : Host.Outcome State Fault Refusal :=
  s.onHw (issueLoad t.val 1 settled (vldBody t.val v))

/-- VST at work. -/
def vstBody (t : Nat) (v : VFields) (h : Hw) : Exe :=
  vecGuard false (wordV 0x21 v 1) t h (fun h =>
    let x := h.thread t
    let e := eBytes v
    let data := x.readV v.d.toNat
    let lanes := (activeLanes e (x.readP v.pred.toNat)).map (fun i => (i, laneAddr x v i))
    let (hd, ls, stop) := laneChecks t e .store lanes h
    if byLanes ls then
      if stop = some notNow then .error (hd, notNow) else chunkGate t [] (plainParts ls) hd (fun hd =>
        let w : DevWait := { acc := [], size := e, write := true, len := 4, stop := stop.map Cause.stop }
        .ok (devRun t w (ls.map (fun q => laneAcc q.2 (lane e data q.1))) [] hd))
    else
      match checkWants t e (decide (e = 8)) (sortWants (lanes.flatMap (fun q => wants .store (q.2, e)))) h with
      | .error c => .error c
      | .ok (h1, ps) =>
        storeGate t ps h1 (fun h1 =>
          let h2 := lanes.foldl (fun (y : Hw) q => storeParts t (partsOf ps (q.2, e)) (toBytes e (lane e data q.1)) y) h1
          .ok (retire h2 t 4)))

/-- VST (R108). -/
def execVst (t : Gtn) (v : VFields) (s : State) : Host.Outcome State Fault Refusal :=
  s.onHw (issueSettled t.val 1 (vstBody t.val v))

/-! Reserved pairs (R236 to R240). -/

/-- The size of a reserved access (R236). -/
def resSize (wide : Bool) : Nat := if wide then 8 else 4

/-- The checks of LRES and SCOND: natural alignment, translation as a store, and N-WB memory (R236, R238). -/
def resCheck (t : Nat) (wide : Bool) (va : W64) (acc : Acc) (h : Hw) : Except (Hw × Cause) (Hw × MemPart) :=
  if va.toNat % resSize wide ≠ 0 then .error (h, { code := 0x07, tval := va })
  else match xlateT h t va acc with
    | .error e => .error e
    | .ok (h1, r) =>
      if r.mt ≠ 0 then .error (h1, { code := 0x0C, tval := va })
      else match homeCause h1 t r.pa va acc with
        | some e => .error e
        | none => .ok (setDs h1 r.ds, ⟨va, r.pa, resSize wide, 0⟩)

/-- LRES is performed (R236, R240): the line is in L1 data under write ownership, the value is read, the reservation set and, unless one that ended without an SCOND bars it, the hold started. -/
def lresDone (t : Nat) (d : RegNum) (p : MemPart) (h : Hw) : Hw :=
  let line := lineOf p.pa
  let die := dieOfThread t
  let pc := (h.pcoreOf t).getD 0
  let h1 := h.endHold t
  let w := (h1.thread t).world
  let h2 := (((h1.countRecalls die line (some pc) w).l2DropOthers die line (some pc)).l2Install die pc line (if h1.l2State die pc line == .M then .M else .E) w).l1dInstall
    die pc line (wbits p.va 12 6) .E
  let (h3, l) := loadBytes t p.pa p.len h2
  let may := decide ((h3.thread t).noHoldUntil ≤ h3.now)
  let h4 := h3.onThread t (fun x => { x with resv := some ⟨line, p.pa, p.len⟩, hold := if may then some line else none })
  retire (h4.setG t d.toNat (devExtend p.len true (ofBytes l))) t 4

/-- LRES at work: it waits, with its request for ownership sent, while the die does not own the line. -/
def lresBody (t : Nat) (d a b : RegNum) (wide : Bool) (h : Hw) : Exe :=
  if b != 0 then .error (h, illegal (wordR3 0x30 d a b (b2n wide)))
  else
    match resCheck t wide ((h.thread t).readG a.toNat) .load h with
    | .error e => .error e
    | .ok (h1, p) =>
      let line := lineOf p.pa
      let die := dieOfThread t
      let st := h1.dieState die line
      if siblingHolds h1 t [p] || !((h1.thread t).sqLine line).isEmpty || aliasWaits h1 t [p] then .error (aliasFlush h1 t [p], notNow)
      else if h1.dieOwns die line then .ok (lresDone t d p h1)
      else .error (h1.dieRequest (if st == .S || st == .F then .UPG else .RDO) die ((h1.pcoreOf t).getD 0) line (h1.partOf t) (h1.thread t).world, notNow)

/-- LRES (R236). -/
def execLres (t : Gtn) (d a b : RegNum) (wide : Bool) (s : State) : Host.Outcome State Fault Refusal :=
  s.onHw (issueSettled t.val 1 (lresBody t.val d a b wide))

/-- SCOND at work (R215, R238, R239): after its checks, and once no older store of its thread waits for the line, it succeeds when the reservation is held for the same address and size and no spurious cause meets it. The hold ends, and the reservation is lost in either case. -/
def scondBody (t : Nat) (d a b : RegNum) (wide spurious : Bool) (h : Hw) : Exe :=
  let x := h.thread t
  match resCheck t wide (x.readG a.toNat) .store h with
  | .error e => .error e
  | .ok (h1, p) =>
    let line := lineOf p.pa
    let die := dieOfThread t
    if siblingHolds h1 t [p] || !((h1.thread t).sqLine line).isEmpty || aliasWaits h1 t [p] then .error (aliasFlush h1 t [p], notNow)
    else
      let ok := decide (x.resv = some ⟨line, p.pa, p.len⟩) && h1.dieOwns die line && !spurious
      let held := x.hold
      let h2 := if ok then h1.storeOwned t line (wbits p.va 12 6) (cellsAt p.pa (toBytes p.len (x.readG b.toNat).toNat)) else h1
      let h3 := h2.onThread t (fun y => { y with resv := none, hold := none })
      let h4 := if held.isSome then h3.serveHeld die else h3
      .ok (retire (h4.setG t d.toNat (b2w (!ok))) t 4)

/-- SCOND (R238). -/
def execScond (t : Gtn) (d a b : RegNum) (wide spurious : Bool) (s : State) : Host.Outcome State Fault Refusal :=
  s.onHw (issueSettled t.val 1 (scondBody t.val d a b wide spurious))

/-- LRES_HOLD_EXPIRE (R240). -/
def execLresHoldExpire (t : Gtn) (s : State) : Host.Outcome State Fault Refusal :=
  s.onHw (fun h => h.endHold t.val)

end Sys2Proof.Machine
end

