-- ==== Sys2Proof/Machine/AskistLong.lean ====
section
/-! DEFINITION. The long instructions: BMOVE, BFILL, BCRC, VGATHER and VSCATTER, their chunks and cr.progress (spec/03_askist_instruction_set.md R110 to R117). -/

namespace Sys2Proof.Machine

/-- cr.progress of an interrupted long instruction (R111, R112). -/
def progWord (tag : Nat) (dir : Bool) (done : Nat) : W64 :=
  BitVec.ofNat 64 (2 ^ 63 ||| b2n dir <<< 56 ||| tag <<< 48 ||| done % 2 ^ 48)

/-- Where a long instruction starts (R112): DONE of a record with its own OPTAG and, for BMOVE, its direction. -/
def startDone (p : W64) (tag : Nat) (dir : Option Bool) : Nat :=
  if wbit p 63 && wbits p 55 48 == tag && (dir.isNone || dir == some (wbit p 56)) then wbits p 47 0 else 0

/-- A long instruction: its tag and direction, when it is complete, one chunk, what an interruption leaves besides cr.progress, and what completion does. -/
structure LongOp where
  t : Nat
  tag : Nat
  dir : Bool
  finished : Nat → Bool
  chunk : Hw → Nat → Except (Hw × Cause) (Hw × Nat)
  pause : Hw → Hw
  finish : Hw → Hw

/-- The instruction is interrupted: cr.progress holds what is done (R112, R115). -/
def LongOp.stop (o : LongOp) (h : Hw) (done : Nat) : Hw :=
  (o.pause h).onThread o.t (fun x => { x with progress := progWord o.tag o.dir done })

/-- The instruction completes: it writes 0 to cr.progress and retires (R112). -/
def LongOp.complete (o : LongOp) (h : Hw) : Hw :=
  (retire (o.finish h) o.t 4).onThread o.t (fun x => { x with progress := 0 })

/-- At most `n` chunks; a thread takes pending events only between chunks (R114), and a fault leaves the chunks before it done (R115). -/
def LongOp.run (o : LongOp) : Nat → Nat → Hw → Exe
  | 0, done, h => if o.finished done then .ok (o.complete h) else .ok (o.stop h done)
  | n + 1, done, h =>
    if o.finished done then .ok (o.complete h)
    else if (h.thread o.t).pick.isSome then .ok (o.stop h done)
    else match o.chunk h done with
      | .error (h1, c) => .error (o.stop h1 done, c)
      | .ok (h1, k) => o.run n k h1

/-- A chunk is done, and DONE moves on; it waits for a hold of the sibling, for room, and for its data (R37, R45, R47, R175, R240). -/
def chunkDo (t : Nat) (ld st : List MemPart) (next : Nat) (h : Hw) (k : Hw → Hw) : Except (Hw × Cause) (Hw × Nat) :=
  (chunkGate t ld st h (fun h => .ok (k h))).map (fun h => (h, next))

/-! BMOVE, BFILL and BCRC (R114, R115). -/

/-- Bytes to the next 64-byte boundary above an address, or to the end. -/
def toNextLine (a : W64) (left : Nat) : Nat := min (64 - a.toNat % 64) left

/-- Bytes to the 64-byte boundary below an address, or to the start. -/
def toPrevLine (a : W64) (left : Nat) : Nat := min (if a.toNat % 64 = 0 then 64 else a.toNat % 64) left

/-- BMOVE copies descending (R114). -/
def moveDown (dst src len : W64) : Bool := src.ult dst && dst.ult (src + len)

/-- The offset and length of a chunk of BMOVE (R114). -/
def moveChunk (dst : W64) (len done : Nat) (desc : Bool) : Nat × Nat :=
  if desc then
    let n := toPrevLine (dst + BitVec.ofNat 64 (len - done)) (len - done)
    (len - done - n, n)
  else (done, toNextLine (dst + BitVec.ofNat 64 done) (len - done))

/-- BMOVE at work. -/
def bmoveOp (t : Nat) (dst src len : W64) : LongOp :=
  let n := len.toNat
  let desc := moveDown dst src len
  { t := t, tag := 1, dir := desc, finished := fun done => decide (n ≤ done), pause := fun h => h, finish := fun h => h,
    chunk := fun h done =>
      let (off, k) := moveChunk dst n done desc
      let s := (src + BitVec.ofNat 64 off, k)
      let d := (dst + BitVec.ofNat 64 off, k)
      match checkWants t 1 false (sortWants (wants .load s ++ wants .store d)) h with
      | .error e => .error e
      | .ok (h1, ps) => chunkDo t (partsOf ps s) (partsOf ps d) (done + k) h1 (fun h1 =>
          let (h2, bs) := chunkLoad t (partsOf ps s) h1
          storeParts t (partsOf ps d) bs h2) }

/-- BMOVE (R114). -/
def execBmove (t : Gtn) (d a b : RegNum) (chunks : Nat) (s : State) : Host.Outcome State Fault Refusal :=
  s.onHw (issueSettled t.val 1 (fun h =>
    let x := h.thread t.val
    let o := bmoveOp t.val (x.readG d.toNat) (x.readG a.toNat) (x.readG b.toNat)
    o.run chunks (startDone x.progress 1 (some o.dir)) h))

/-- The bytes of BFILL from an address on (R114). -/
def fillBytes (pattern a : W64) (n : Nat) : List Byte :=
  (List.range n).map (fun i => BitVec.ofNat 8 (pattern.toNat >>> (8 * ((a.toNat + i) % 8))))

/-- BFILL at work. -/
def bfillOp (t : Nat) (dst pattern len : W64) : LongOp :=
  let n := len.toNat
  { t := t, tag := 2, dir := false, finished := fun done => decide (n ≤ done), pause := fun h => h, finish := fun h => h,
    chunk := fun h done =>
      let a := dst + BitVec.ofNat 64 done
      let k := toNextLine a (n - done)
      match checkWants t 1 false (sortWants (wants .store (a, k))) h with
      | .error e => .error e
      | .ok (h1, ps) => chunkDo t [] ps (done + k) h1 (fun h1 => storeParts t (partsOf ps (a, k)) (fillBytes pattern a k) h1) }

/-- BFILL (R114). -/
def execBfill (t : Gtn) (d a b : RegNum) (chunks : Nat) (s : State) : Host.Outcome State Fault Refusal :=
  s.onHw (issueSettled t.val 1 (fun h =>
    let x := h.thread t.val
    (bfillOp t.val (x.readG d.toNat) (x.readG a.toNat) (x.readG b.toNat)).run chunks (startDone x.progress 2 none) h))

/-- The accumulator of BCRC: bits [63:32] are zero (R115). -/
def crcClear (t : Nat) (d : RegNum) (h : Hw) : Hw :=
  h.setG t d.toNat (((h.thread t).readG d.toNat).setWidth 32 |>.setWidth 64)

/-- BCRC at work. -/
def bcrcOp (t : Nat) (d : RegNum) (src len : W64) : LongOp :=
  let n := len.toNat
  { t := t, tag := 3, dir := false, finished := fun done => decide (n ≤ done), pause := crcClear t d, finish := crcClear t d,
    chunk := fun h done =>
      let a := src + BitVec.ofNat 64 done
      let k := toNextLine a (n - done)
      match checkWants t 1 false (sortWants (wants .load (a, k))) h with
      | .error e => .error e
      | .ok (h1, ps) => chunkDo t ps [] (done + k) h1 (fun h1 =>
          let (h2, bs) := chunkLoad t (partsOf ps (a, k)) h1
          h2.setG t d.toNat ((crcBytes (((h2.thread t).readG d.toNat).setWidth 32) bs).setWidth 64)) }

/-- BCRC (R110, R115): d is neither a nor b. -/
def execBcrc (t : Gtn) (d a b : RegNum) (chunks : Nat) (s : State) : Host.Outcome State Fault Refusal :=
  s.onHw (issueSettled t.val 1 (fun h =>
    let x := h.thread t.val
    if d = a ∨ d = b then .error (h, illegal (wordR3 0x33 d a b 3))
    else (bcrcOp t.val d (x.readG a.toNat) (x.readG b.toNat)).run chunks (startDone x.progress 3 none) h))

/-! VGATHER and VSCATTER (R110, R115, R116). -/

/-- The func field of a gather or a scatter (R110). -/
def gatherFunc (scatter : Bool) (scale : BitVec 2) : BitVec 5 := BitVec.ofNat 5 (8 * scale.toNat + b2n scatter)

/-- The address of a lane of a gather or a scatter (R110). -/
def gatherAddr (x : Thread) (v : VFields) (scale : BitVec 2) (i : Nat) : W64 :=
  let e := eBytes v
  x.readG v.a.toNat + sextN (8 * e) (lane e (x.readV v.b.toNat) i) * BitVec.ofNat 64 (2 ^ scale.toNat)

/-- The active lanes from a lane on. -/
def lanesFrom (e : Nat) (p : W64) (i : Nat) : List Nat := (activeLanes e p).filter (fun j => decide (i ≤ j))

/-- DONE after a lane: inactive lanes at the end are passed over with it. -/
def doneAfter (e : Nat) (p : W64) (i : Nat) : Nat := if (lanesFrom e p (i + 1)).isEmpty then laneCount e else i + 1

/-- One lane of a vector register replaced. -/
def setLane (e : Nat) (v : V512) (i x : Nat) : V512 := mkLanes e (fun j => if j = i then x else lane e v j)

/-- VGATHER at work: a chunk is one active lane; the Z rule is applied at completion (R115). -/
def gatherOp (t : Nat) (v : VFields) (scale : BitVec 2) (p : W64) : LongOp :=
  let e := eBytes v
  { t := t, tag := 0x10, dir := false, finished := fun done => (lanesFrom e p done).isEmpty, pause := fun h => h,
    finish := fun h => h.onThread t (fun x => x.writeV v.d.toNat (maskLanes e p v.z (x.readV v.d.toNat) (lane e (x.readV v.d.toNat)))),
    chunk := fun h done =>
      let i := (lanesFrom e p done).headD 0
      let a := (gatherAddr (h.thread t) v scale i, e)
      match checkWants t 1 false (sortWants (wants .load a)) h with
      | .error c => .error c
      | .ok (h1, ps) => chunkDo t ps [] (doneAfter e p i) h1 (fun h1 =>
          let (h2, bs) := chunkLoad t ps h1
          h2.onThread t (fun x => x.writeV v.d.toNat (setLane e (x.readV v.d.toNat) i (ofBytes bs)))) }

/-- VSCATTER at work. -/
def scatterOp (t : Nat) (v : VFields) (scale : BitVec 2) (p : W64) : LongOp :=
  let e := eBytes v
  { t := t, tag := 0x11, dir := false, finished := fun done => (lanesFrom e p done).isEmpty, pause := fun h => h, finish := fun h => h,
    chunk := fun h done =>
      let i := (lanesFrom e p done).headD 0
      let x := h.thread t
      let a := (gatherAddr x v scale i, e)
      match checkWants t 1 false (sortWants (wants .store a)) h with
      | .error c => .error c
      | .ok (h1, ps) => chunkDo t [] ps (doneAfter e p i) h1
          (fun h1 => storeParts t (partsOf ps a) (toBytes e (lane e (x.readV v.d.toNat) i)) h1) }

/-- A gather or a scatter: elements of 4 or 8 bytes (R107). -/
def longVec (t : Nat) (v : VFields) (scatter : Bool) (scale : BitVec 2) (chunks : Nat) (h : Hw) : Exe :=
  vecGuard (decide (eBytes v < 4)) (wordV 0x23 v (gatherFunc scatter scale)) t h (fun h =>
    let x := h.thread t
    let p := x.readP v.pred.toNat
    let o := if scatter then scatterOp t v scale p else gatherOp t v scale p
    o.run chunks (startDone x.progress o.tag none) h)

/-- VGATHER (R116). -/
def execVgather (t : Gtn) (v : VFields) (scale : BitVec 2) (chunks : Nat) (s : State) : Host.Outcome State Fault Refusal :=
  s.onHw (issueSettled t.val 1 (longVec t.val v false scale chunks))

/-- VSCATTER (R116). -/
def execVscatter (t : Gtn) (v : VFields) (scale : BitVec 2) (chunks : Nat) (s : State) : Host.Outcome State Fault Refusal :=
  s.onHw (issueSettled t.val 1 (longVec t.val v true scale chunks))

end Sys2Proof.Machine
end

