-- ==== Sys2Proof/Machine/AskistSys.lean ====
section
/-! DEFINITION. Traps by instruction, TRET, the gateway instructions and WAIT (spec/04_privilege_and_traps.md R135 to R160; spec/15_secure_world.md R547 to R557; spec/14_power_and_clocks.md R523 to R525). -/

namespace Sys2Proof.Machine

/-! TRAP and asynchronous entry. -/

/-- TRAP at work: cause 0x10 with the code as TVAL (R120, R135). -/
def trapBody (d a : RegNum) (code : BitVec 12) (h : Hw) : Exe :=
  if d != 0 || a != 0 then .error (h, illegal (wordSys 8 d a code))
  else .error (h, { code := 0x10, tval := code.zeroExtend 64 })

/-- TRAP (R135, R136). -/
def execTrap (t : Gtn) (d a : RegNum) (code : BitVec 12) (s : State) : Host.Outcome State Fault Refusal :=
  s.onHw (issue t.val 1 (trapBody d a code))

/-- A thread that runs takes the asynchronous cause that is first under R156, if one is deliverable; loads that have not retired are flushed (R50). -/
def Hw.asyncEntry (h : Hw) (t : Nat) : Hw :=
  if !h.canRun t then h.dueTrap t else (h.asyncNow t).getD h

/-- The functions that a major opcode has, by the number in their field (R102, R103, R107, R110, R118, R683). -/
def funcsOf : Nat → Option (Nat × List Nat)
  | 0x01 => some (11, [0x00, 0x01, 0x02, 0x03, 0x04, 0x05, 0x08, 0x09, 0x0A, 0x0B, 0x10, 0x11, 0x12, 0x13, 0x14, 0x15, 0x20, 0x21, 0x22, 0x24, 0x25, 0x26, 0x27, 0x30, 0x31])
  | 0x20 => some (5, [0x00, 0x01, 0x02, 0x03, 0x04, 0x08, 0x0C, 0x0D, 0x0E, 0x0F, 0x10, 0x11, 0x12, 0x13, 0x14, 0x15, 0x16])
  | 0x21 => some (5, [0, 1])
  | 0x22 => some (5, [0, 1, 2, 3, 4, 5, 8, 9, 0xA, 0xB])
  | 0x23 => some (3, [0, 1])
  | 0x24 => some (5, [0, 1, 2, 3, 4])
  | 0x25 => some (11, [0, 1, 2, 3])
  | 0x28 => some (8, [0x00, 0x01, 0x02, 0x03, 0x04, 0x05, 0x06, 0x07, 0x08, 0x09, 0x0A, 0x0B, 0x10, 0x11, 0x12, 0x14, 0x15, 0x16, 0x17])
  | 0x30 => some (11, [0, 1, 4, 5])
  | 0x32 => some (11, [0x00, 0x01, 0x02, 0x03, 0x10, 0x11, 0x12, 0x13, 0x14, 0x15])
  | 0x33 => some (11, [1, 2, 3])
  | _ => none

/-- The major opcode of a word, and its function where the major opcode has functions, are assigned (R99, R102, R120, R195). -/
def assigned (w : W32) : Bool :=
  let m := w.toNat >>> 26
  if w == 0 || w == BitVec.allOnes 32 then false
  else match funcsOf m with
    | some (n, l) => l.contains (w.toNat % 2 ^ n)
    | none =>
      if m = 0x3C then decide (nbits w.toNat 25 24 ≤ 2)
      else if m = 0x3D then decide (nbits w.toNat 15 12 ≤ 0xA) && (decide (nbits w.toNat 15 12 ≠ 0xA) || decide (w.toNat % 16 ≤ 6))
      else [0x02, 0x03, 0x04, 0x05, 0x06, 0x07, 0x08, 0x09, 0x0A, 0x0B, 0x0C, 0x0D, 0x0E, 0x10, 0x11, 0x12, 0x13, 0x18, 0x19, 0x1A, 0x1B, 0x1C, 0x1D, 0x1E, 0x1F, 0x3E].contains m

/-- TRAP_ENTRY (R99, R139, R154, R156): a word that is not assigned is fetched and raises the illegal-instruction exception; else the asynchronous cause that is due is taken. -/
def execTrapEntry (t : Gtn) (word : Option W32) (s : State) : Host.Outcome State Fault Refusal :=
  s.onHw (fun h => match word with
    | some w => if assigned w then h.asyncEntry t.val else issue t.val 1 (fun h => .error (h, illegal w)) h
    | none => h.asyncEntry t.val)

/-! TRET (R158). -/

/-- The illegal-return exception with its reason (R158). -/
def illegalReturn (reason : Nat) : Cause := { code := 0x12, tval := BitVec.ofNat 64 reason }

/-- A record restored: level, IE, VEN, cr.progress and PC (R158), and whether the first fetch at a vector is still to come (R141). -/
def restoreRecord (x : Thread) (b : Bank) : Thread :=
  { x with level := BitVec.ofNat 2 (wbits b.tstat 1 0), ie := wbit b.tstat 3, ven := wbit b.tstat 8,
           progress := b.tprog, pc := b.tpc, missed := 0, deferred := none, ncReads := [], fencing := false, atVector := b.atVec }

/-- A stack code (R135). -/
def isStackCode (y : Nat) : Bool := y == 1 || y == 2 || y == 3 || y == 5

/-- How a refill fails (R158): an illegal return, or a fault on a frame of a stack. -/
inductive RefillErr where
  | badFrame
  | fault (stack addr : Nat) (ps : Bool)
  deriving DecidableEq, Repr

/-- The words of a frame in memory. -/
def frameRead (h : Hw) (pa : Nat) : List W64 := (List.range 16).map (fun i => BitVec.ofNat 64 (h.readNum (pa + 8 * i) 8))

/-- The bank that a frame holds (R147, R158): its registers and record, its below link, and as owner the level its record's trap entered. -/
def frameBank (f : List W64) (bankDepth : Nat) : Bank :=
  let w (i : Nat) : W64 := f.getD i 0
  let tag := w 14
  { g := (List.range 8).map (fun i => (i + 1, w i)),
    tpc := w 8, tcause := w 9 &&& 0x8000000000FFFFFF, tval := w 10, tstat := w 11 &&& 0x10F, tprog := w 12 &&& progMask,
    owner := if bankDepth = 0 then 0 else BitVec.ofNat 3 (stackCode (wbits tag 3 2) (wbit tag 1)),
    below := BitVec.ofNat 3 (wbits (w 13) 2 0) }

/-- A frame passes the checks of R158: marker, count, stack, and word 13. -/
def frameOk (f : List W64) (y count bankDepth : Nat) : Bool :=
  let tag := f.getD 14 0
  let w13 := (f.getD 13 0).toNat
  wbits tag 63 48 == 0x7A5C && wbits tag 47 32 == count % 65536 && (wbits tag 7 6 + 4 * wbits tag 5 5) == y &&
    (if bankDepth = 0 then w13 == 0 else isStackCode w13)

/-- An address is a vector of a level's handlers (R140). -/
def isVector (x : Thread) (code : Nat) (pc : W64) : Bool :=
  let base := wbits (x.crv (trapBase code + 5)) 63 12 <<< 12
  decide (base ≤ pc.toNat ∧ pc.toNat ≤ base + 0x400 ∧ pc.toNat % 0x100 = 0)

/-- A bank that comes from a frame, which does not hold whether its context had fetched at its PC. DESIGN CHOICE: a PC that is a vector of its own level counts as one whose first fetch is to come (R141, log entry 50). -/
def frameVec (x : Thread) (b : Bank) : Bank :=
  { b with atVec := decide (wbits b.tstat 1 0 ≠ 0) && isVector x (stackCode (wbits b.tstat 1 0) (wbit b.tstat 2)) b.tpc }

/-- A frame of a given stack at a given address becomes the bank of a depth, in a bank number (R158). -/
def refillFrom (h : Hw) (t y addr count bankNo bankDepth : Nat) : Except (Hw × RefillErr) Hw :=
  match frameAddr h t y addr .load with
  | .error (h1, ps) => .error (h1, .fault y addr ps)
  | .ok (h1, pa) =>
    let h2 := h1.readRange t pa 128
    let f := frameRead h2 pa
    if frameOk f y count bankDepth then .ok (h2.onThread t (fun x => x.setBank bankNo (frameVec x (frameBank f bankDepth))))
    else .error (h2, .badFrame)

/-- The newest frame of a stack is refilled and popped (R158); LOWM follows (R555). -/
def refill (h : Hw) (t y bankNo bankDepth : Nat) : Except (Hw × RefillErr) Hw :=
  let x := h.thread t
  let b := trapBase y
  let tsp := x.crv (b + 6)
  let cnt := wbits (x.crv (b + 7)) 15 0
  match refillFrom h t y tsp.toNat cnt bankNo bankDepth with
  | .error e => .error e
  | .ok h1 => .ok (h1.onThread t (fun x =>
      let x1 := (x.setCrv (b + 6) (BitVec.ofNat 64 ((tsp.toNat + 128) % 2 ^ 52))).setCrv (b + 7) (BitVec.ofNat 64 ((cnt + 65535) % 65536))
      { x1 with act := x1.act.map (fun a =>
          let a1 := if y = 3 ∧ bankDepth ≤ a.depth then { a with lowm := a.lowm - 1 } else a
          if bankDepth = a.depth then { a1 with dStk := 0 } else a1) }))

/-- The cause of a refill that fails: a fault on M's stack check-stops the thread (R158, R159). -/
def refillFails (h : Hw) (t : Nat) (e : RefillErr) : Exe :=
  match e with
  | .badFrame => .error (h, illegalReturn 3)
  | .fault y addr ps =>
    if y = 3 then .ok (h.checkStop t 4 3)
    else .error (h, { code := 0x23, detail := y, tval := BitVec.ofNat 64 addr, fva := if ps then some (0, 1) else none })

/-- A TRET that is none of an armed end (R158): checks, launch at depth 0, a refill of the bank beneath if it is due, after the thread's older stores, and the restore. -/
def tretSteps (t : Nat) (h : Hw) : Exe :=
  let x := h.thread t
  let l := x.level.toNat
  let r := x.bank x.shbank.toNat
  if l < wbits r.tstat 1 0 then .error (h, illegalReturn 1)
  else if l ≠ 3 ∧ wbit r.tstat 2 ≠ x.world then .error (h, illegalReturn 2)
  else if x.depth = 0 then
    .ok (retireAs h t [] (fun x => { restoreRecord x r with resv := none }))
  else
    let p := (x.shbank.toNat + 3) % 4
    let finishRet (h1 : Hw) (resident : Nat) : Hw :=
      retireAs h1 t [] (fun x =>
        let x1 := { restoreRecord x r with shbank := BitVec.ofNat 2 p, depth := x.depth - 1, resident := resident, resv := none }
        if l = 3 ∧ (wbits r.tcause 15 0 = 0x20 ∨ wbits r.tcause 15 0 = 0x21) then x1.setMcip false else x1)
    if 2 ≤ x.depth ∧ x.resident ≤ 2 then
      let y := (x.bank p).below.toNat
      if !isStackCode y then .error (h, illegalReturn 3)
      else if !x.sq.isEmpty then .error (h, notNow)
      else match refill h t y ((p + 3) % 4) (x.depth - 2) with
        | .ok h1 => .ok (finishRet h1 2)
        | .error (h1, e) => refillFails h1 t e
    else .ok (finishRet h (x.resident - 1))

/-! The gate record (R550 to R552). -/

/-- The address of a thread's gate record (R545). -/
def gateRec (h : Hw) (t : Nat) : Nat :=
  (h.fld .SEC_GREC 0 0 (h.partOf t - 1) F.SEC_GREC_BASE) * 4096 + 2560 * t

/-- The record's bytes from 0 to 231, or to 2,367 when VEN is 1 (R550). -/
def gateRecBytes (x : Thread) : List Byte :=
  let head : List W64 := [x.pc + 4,
    BitVec.ofNat 64 (x.level.toNat + (b2n x.ie <<< 3) + (b2n x.ven <<< 8) + (x.shbank.toNat <<< 10) + ((x.depth % 2 ^ 32) <<< 32)),
    x.crv 0x646, x.crv 0xC46, x.crv 0xC47, x.fpcsr]
  let gs := (List.range 23).map (fun i => x.readG (9 + i))
  let ps := (List.range 7).map (fun i => x.readP (1 + i))
  let vs := (List.range 32).flatMap (fun i => toBytes 64 (x.readV i).toNat)
  wordsBytes (head ++ gs) ++ (if x.ven then wordsBytes (ps ++ [0, 0, 0, 0]) ++ vs else [])

/-- The first line of a record that fails: outside the memory that the thread's partition owns, or poisoned (R551). -/
def recordBad (h : Hw) (t addr n : Nat) : Option Nat :=
  ((List.range ((n + 63) / 64)).map (fun i => addr + 64 * i)).find? (fun a =>
    !((paRange a).isMem && h.homePass (h.partOf t) true a && h.mapped a && !h.poisoned a))

/-- A home that refuses a line of a gate record records it (R287, R560). -/
def Hw.recordRefused (h : Hw) (t a : Nat) : Hw :=
  if (paRange a).isMem && !h.homePass (h.partOf t) true a then h.homeRefusal (h.partOf t) true a else h

/-- A gate fault (R548). -/
def gateFault (detail : Nat) (va : W64) : Cause := { code := 0x11, detail := detail, tval := va }

/-- CORE_SECACT Tn_ACTIVE of a thread (R555). -/
def Hw.setActive (h : Hw) (t : Nat) (on : Bool) : Hw :=
  match h.pcoreOf t with
  | some p =>
    let d := dieOfThread t
    if t % 2 = 0 then h.setFld .CORE_SECACT d p 0 F.CORE_SECACT_T0_ACTIVE (b2n on)
    else h.setFld .CORE_SECACT d p 0 F.CORE_SECACT_T1_ACTIVE (b2n on)
  | none => h

/-- A GATE that has passed every check enters the secure world (R547). -/
def gateEnter (t : Nat) (target : W64) (h : Hw) : Hw :=
  let x := h.thread t
  let h1 := retireAs h t [] (fun y =>
    { y with missed := 0, deferred := none, ncReads := [], fencing := false, act := some { depth := x.depth, recAddr := gateRec h t, lowm := 0, started := h.now },
             level := if x.level = 0 then 0 else 1, world := true, ie := false, ven := false, progress := 0, pc := target,
             resv := none, ghist := 0, retStack := [] })
  h1.setActive t true

/-- The target of a GATE is translated and fetched as in the secure world (R547, R548): its word, which must be a GMARK, comes through the fetch fill buffer. -/
def gateTarget (t lt : Nat) (target : W64) (h : Hw) : Except (Hw × Cause) Hw :=
  match xlate h t (ctxOf (h.thread t) t (h.partOf t) lt true) target .fetch with
  | .error (h1, .poison _ _) => .error (h1, { code := 0x20, detail := 0x03, tval := target })
  | .error (h1, .wait) => .error (h1, notNow)
  | .error (h1, _) => .error (h1, gateFault 0x02 target)
  | .ok (h1, r) =>
    if !r.gw then .error (h1, gateFault 0x03 target)
    else if !h1.homePass (h.partOf t) true r.pa then .error (h1.homeRefusal (h.partOf t) true r.pa, gateFault 0x02 target)
    else if !h1.mapped r.pa then .error (h1, gateFault 0x02 target)
    else if h1.poisoned r.pa then .error (h1, { code := 0x20, detail := 0x03, tval := target })
    else match fetchLine h1 t r target with
      | .error h2 => .error (h2, notNow)
      | .ok h2 => if h2.readNum r.pa 4 ≠ 0xF4005000 then .error (h2, gateFault 0x04 target) else .ok h2

/-- The world of a thread that makes an access as in the other world. -/
def Hw.inWorld (h : Hw) (t : Nat) (w : Bool) : Hw := h.onThread t (fun x => { x with world := w })

/-- The gate record is written (R550, R551), after the thread's older stores. -/
def gateRecord (t : Nat) (target : W64) (x : Thread) (h : Hw) : Except (Hw × Cause) Hw :=
  let bs := gateRecBytes x
  let addr := gateRec h t
  match recordBad h t addr bs.length with
  | some a => .error (h.recordRefused t a, gateFault 0x05 target)
  | none => match h.ownRange t (lineRange addr bs.length) with
    | (h1, false) => .error (h1, notNow)
    | (h1, true) => .ok (h1.writeRange t addr bs)

/-- GATE at work (R547, R548). -/
def gateBody (t : Nat) (d a : RegNum) (crn : BitVec 12) (h : Hw) : Exe :=
  let x := h.thread t
  if x.world || d != 0 || crn != 0 then .error (h, illegal (wordSys 4 d a crn)) else
  let target := x.readG a.toNat
  if wbits target 1 0 != 0 then .error (h, gateFault 0x01 target) else
  let st := h.fld .SEC_SWCTL 0 0 (h.partOf t - 1) F.SEC_SWCTL_STATE
  if st ≠ 1 ∧ x.level ≠ 3 then
    .ok (retire (h.setG t 1 (if st = 0 then 0x8000000000000001 else 0x8000000000000002)) t 4)
  else
  match gateTarget t (if x.level = 0 then 0 else 1) target (h.inWorld t true) with
  | .error (h1, c) => .error (h1.inWorld t false, c)
  | .ok h1 => match gateRecord t target x h1 with
    | .error (h2, c) => .error (h2.inWorld t false, c)
    | .ok h2 => .ok (gateEnter t target (h2.inWorld t false))

/-- GATE (R547). -/
def execGate (t : Gtn) (d a : RegNum) (crn : BitVec 12) (s : State) : Host.Outcome State Fault Refusal :=
  s.onHw (issueSettled t.val 1 (gateBody t.val d a crn))

/-- GMARK at work: a no-operation (R121). -/
def gmarkBody (t : Nat) (d a : RegNum) (crn : BitVec 12) (h : Hw) : Exe :=
  if d != 0 || a != 0 || crn != 0 then .error (h, illegal (wordSys 5 d a crn)) else .ok (retire h t 4)

/-- GMARK (R121). -/
def execGmark (t : Gtn) (d a : RegNum) (crn : BitVec 12) (s : State) : Host.Outcome State Fault Refusal :=
  s.onHw (issue t.val 1 (gmarkBody t.val d a crn))

/-- What a GRET and the end of an activation restore from the record: g9 to g31, cr.fpcsr, the vector state or zero, the level, IE, VEN and the PC (R552). -/
def recordRestore (h : Hw) (t addr : Nat) : Hw :=
  let w (i : Nat) : W64 := BitVec.ofNat 64 (h.readNum (addr + i) 8)
  let st := w 8
  let ven := wbit st 8
  let gs := (List.range 23).map (fun i => (9 + i, w (48 + 8 * i)))
  let ps := if ven then (List.range 7).map (fun i => (1 + i, w (232 + 8 * i))) else []
  let vs := if ven then (List.range 32).map (fun i => (i, BitVec.ofNat 512 (h.readNum (addr + 320 + 64 * i) 64))) else []
  h.onThread t (fun x =>
    { x with g := gs, p := ps, v := vs, fpcsr := w 40, level := BitVec.ofNat 2 (wbits st 1 0), ie := wbit st 3, ven := ven,
             world := false, progress := 0, missed := 0, deferred := none, ncReads := [], fencing := false, atVector := false, act := none, pc := w 0, resv := none, ghist := 0, retStack := [] })

/-- The event of the secure watchdog is withdrawn, wherever it is, when the activation closes before the event is taken (R554). -/
def Hw.withdrawWatchdog (h : Hw) (t : Nat) : Hw :=
  let src := 16 * (dieOfThread t - 1) + 12
  let mine (e : Event) : Bool := e.source == src
  let freed := (h.thread t).slots.filter mine
  let h1 := h.onThread t (fun x => { x with slots := x.slots.filter (fun e => !mine e) })
  let h2 := freed.foldl (fun h e => h.send { op := .CREDIT, addr := t, agent := h.threadAgent t, part := e.inst, info := e.vector }) h1
  let flies := h2.evFly.filter (fun e => e.1 == t && (match e.2 with
    | some v => mine v
    | none => false))
  { h2 with
    raises := h2.raises.filter (fun r => !(r.source == src && r.thread == some t)),
    evPend := h2.evPend.filter (fun e => !(e.source == src && e.thread == some t)),
    evFly := h2.evFly.filter (fun e => !flies.contains e),
    evSlots := if flies.isEmpty then h2.evSlots else put h2.evSlots t ((look [] h2.evSlots t).filter (fun e => !mine e)),
    msgs := if flies.isEmpty then h2.msgs else dropFirst (fun m => decide (m.op = .EVMSG ∧ m.addr = t)) h2.msgs }

/-- The length of the record that its own VEN bit gives (R550). -/
def recordLen (h : Hw) (addr : Nat) : Nat := if (h.byte (addr + 9)).getLsbD 0 then 2368 else 232

/-- An activation has ended (R558, R664): while DBG_EN is 0 the trace port puts out one gap marker with its core cycles; outside the hub's Gloss its outputs stay low. -/
def Hw.gapMarker (h : Hw) (t : Nat) (act : Act) : Hw :=
  if h.flag .SEC_SWCTL 0 0 (h.partOf t - 1) F.SEC_SWCTL_DBG_EN || h.deepIdle || decide (h.domCur 0 0 ≠ 0) then h
  else { h with plat := { h.plat with trace := h.plat.trace ++ [(t, act.cycles)] } }

/-- GRET at work (R552). -/
def gretBody (t : Nat) (d a : RegNum) (crn : BitVec 12) (h : Hw) : Exe :=
  let x := h.thread t
  if !x.world || d != 0 || a != 0 || crn != 0 then .error (h, illegal (wordSys 6 d a crn)) else
  match x.act with
  | none => .error (h, illegalReturn 4)
  | some act =>
    if x.depth ≠ act.depth then .error (h, illegalReturn 4)
    else match recordBad h t act.recAddr (recordLen h act.recAddr) with
    | some a => .error (h.recordRefused t a, { code := 0x20, detail := 0x03, tval := BitVec.ofNat 64 act.recAddr })
    | none => if !x.sq.isEmpty then .error (h, notNow)
    else .ok ((((recordRestore (h.readRange t act.recAddr (recordLen h act.recAddr)) t act.recAddr).withdrawWatchdog t).setActive t false).gapMarker t act)

/-- GRET (R552). -/
def execGret (t : Gtn) (d a : RegNum) (crn : BitVec 12) (s : State) : Host.Outcome State Fault Refusal :=
  s.onHw (issueSettled t.val 1 (gretBody t.val d a crn))

/-! Ending an activation (R555). -/

/-- CORE_SECACT Tn_END is armed for a thread. -/
def Hw.endArmed (h : Hw) (t : Nat) : Bool :=
  match h.pcoreOf t with
  | some p => wbit (h.reg .CORE_SECACT (dieOfThread t) p 0) (16 + t % 2)
  | none => false

/-- CORE_SECACT Tn_END clears. -/
def Hw.clearEnd (h : Hw) (t : Nat) : Hw :=
  match h.pcoreOf t with
  | some p =>
    let d := dieOfThread t
    if t % 2 = 0 then h.setFld .CORE_SECACT d p 0 F.CORE_SECACT_T0_END 0 else h.setFld .CORE_SECACT d p 0 F.CORE_SECACT_T1_END 0
  | none => h

/-- The banks that R144 requires at the activation's depth are refilled from the stacks that hold them (R555): the bank at that depth, and the one beneath it. `low` is the lowest resident depth, `stk` the stack that holds the bank at the depth, and `ss` the secure-S stack pointer at the GATE. -/
def endRefill (h : Hw) (t depth bankNo low stk ss : Nat) : Except (Hw × RefillErr) Hw :=
  let step1 : Except (Hw × RefillErr) Hw :=
    if low ≤ depth then .ok h
    else if stk = 5 then refillFrom h t 5 ((ss + 2 ^ 52 - 128) % 2 ^ 52) 1 bankNo depth
    else refill h t 3 bankNo depth
  match step1 with
  | .error e => .error e
  | .ok h1 =>
    if depth = 0 ∨ low < depth then .ok h1
    else
      let y := ((h1.thread t).bank bankNo).below.toNat
      if !isStackCode y then .error (h1, .badFrame) else refill h1 t y ((bankNo + 3) % 4) (depth - 1)

/-- The cause of an end that the hub RAS block records (R555, code 0x43): 1 the watchdog, 3 a secure end, else 2 a crash. -/
def endCause (h : Hw) (t : Nat) (a : Act) : Nat :=
  if a.wdRaised then 1
  else if h.fld .SEC_SWCTL 0 0 (h.partOf t - 1) F.SEC_SWCTL_STATE = 2 then 3 else 2

/-- A TRET at M with END armed and an activation open (R555): a refill that fails ends it with nothing restored. -/
def endActivation (t : Nat) (act : Act) (h0 : Hw) : Exe :=
  if !(h0.thread t).sq.isEmpty then .error (h0, notNow) else
  let h := h0.readRange t act.recAddr (recordLen h0 act.recAddr)
  let x := h.thread t
  let addr := act.recAddr
  match recordBad h t addr (recordLen h addr) with
  | some a => .ok ((h.recordRefused t a).checkStop t 5 0)
  | none =>
  let w (i : Nat) : W64 := BitVec.ofNat 64 (h.readNum (addr + i) 8)
  let depth := wbits (w 8) 63 32
  let bankNo := wbits (w 8) 11 10
  let low := x.depth + 1 - x.resident
  let msp := ((w 24).toInt - 128 * act.lowm).toNat % 2 ^ 52
  let mcnt := ((w 32).toInt + act.lowm).toNat % 65536
  let h1 := h.onThread t (fun x =>
    ((((x.setCrv 0x646 (w 16)).setCrv 0x647 0).setCrv 0xC46 (BitVec.ofNat 64 msp)).setCrv 0xC47 (BitVec.ofNat 64 mcnt)))
  match endRefill h1 t depth bankNo low act.dStk.toNat (w 16).toNat with
  | .error (h2, e) => refillFails (h2.setThread t x) t e
  | .ok h2 =>
    let sss := (h2.thread t).slots.filter (fun e => e.level == 5)
    let h3 := h2.onThread t (fun x =>
      let x1 := { x with depth := depth, shbank := BitVec.ofNat 2 bankNo,
                         resident := if low ≤ depth then max (depth + 1 - low) (min 2 (depth + 1)) else min 2 (depth + 1),
                         slots := x.slots.filter (fun e => !(e.level == 5)) }
      let b := x1.bank bankNo
      (x1.setBank bankNo { b with g := [(1, 0x8000000000000003)] }).setMcip false)
    let h4 := sss.foldl (fun h e => h.send { op := .CREDIT, addr := t, agent := h.threadAgent t, part := e.inst, info := e.vector }) h3
    let h5 := (((((recordRestore h4 t addr).withdrawWatchdog t).setActive t false).clearEnd t).gapMarker t act).note t [0x0002]
    .ok (h5.ras 0 3 { code := 0x43, sev := 2, detail := endCause h t act, part := h.partOf t, world := true, thread := t })

/-- TRET at work (R137, R158, R555): at U and secure-U it is illegal; at M with END armed it ends the open activation. -/
def tretBody (t : Nat) (d a : RegNum) (crn : BitVec 12) (h : Hw) : Exe :=
  let x := h.thread t
  if x.level = 0 || d != 0 || a != 0 || crn != 0 then .error (h, illegal (wordSys 7 d a crn))
  else if x.level = 3 && h.endArmed t then
    match x.act with
    | some act => endActivation t act h
    | none => tretSteps t (h.clearEnd t)
  else tretSteps t h

/-- TRET (R158). -/
def execTret (t : Gtn) (d a : RegNum) (crn : BitVec 12) (s : State) : Host.Outcome State Fault Refusal :=
  s.onHw (issueSettled t.val 1 (tretBody t.val d a crn))

/-! WAIT (R523). -/

/-- A cause that ends a wait is pending: an event whose target level is at or above the current one in the world's order, whatever IE holds, or an asynchronous machine check (R523). -/
def Thread.wakePending (x : Thread) : Bool :=
  let y := { x with ie := true }
  !x.mcs.isEmpty || x.slots.any (fun e => y.takes e.level.toNat) || (!x.locals.isEmpty && y.takes 1)

/-- The state that WAIT enters: Satin below M, the thread's DEPTH at M, where 0b00 acts as 0b01 (R523); Satin in the normal world on a secure-held core (R531). -/
def waitDepth (h : Hw) (t : Nat) : Nat :=
  if (h.thread t).level ≠ 3 then 1 else
    match h.pcoreOf t with
    | some p =>
      if !(h.thread t).world && h.flag .PWR_DOM (dieOfThread t) 0 p F.PWR_DOM_SHELD then 1 else
      let v := h.reg .CORE_WAITCTL (dieOfThread t) p 0
      let d := if t % 2 = 0 then F.CORE_WAITCTL_T0_DEPTH.get v else F.CORE_WAITCTL_T1_DEPTH.get v
      if d = 0 then 1 else d
    | none => 1

/-- WAIT raises the illegal-instruction exception at the level (R523). -/
def waitTraps (h : Hw) (t : Nat) : Bool :=
  let l := (h.thread t).level.toNat
  match h.pcoreOf t with
  | some p => decide (l < 3) && wbit (h.reg .CORE_WAITCTL (dieOfThread t) p 0) (16 + l)
  | none => false

/-- WAIT at work: it retires, and its thread waits unless a wake cause is already pending (R523). -/
def waitBody (t : Nat) (d a : RegNum) (crn : BitVec 12) (h : Hw) : Exe :=
  if d != 0 || a != 0 || crn != 0 || waitTraps h t then .error (h, illegal (wordSys 9 d a crn)) else
    let depth := waitDepth h t
    let h1 := retire h t 4
    .ok (if (h1.thread t).wakePending then h1
      else h1.onThread t (fun x => { x with run := .waiting (BitVec.ofNat 2 depth) }))

/-- WAIT (R523). -/
def execWait (t : Gtn) (d a : RegNum) (crn : BitVec 12) (s : State) : Host.Outcome State Fault Refusal :=
  s.onHw (issueSettled t.val 1 (waitBody t.val d a crn))

/-- A thread in Satin or Matt with a pending wake cause leaves the wait state (R523). -/
def Hw.waitWake (h : Hw) (t : Nat) : Hw :=
  let x := h.thread t
  if (x.run = .waiting 1 ∨ x.run = .waiting 2) ∧ x.wakePending then h.setThread t { x with run := .running } else h

/-- WAIT_WAKE (R523). -/
def execWaitWake (t : Gtn) (s : State) : Host.Outcome State Fault Refusal :=
  s.onHw (fun h => h.waitWake t.val)

/-- A thread that leaves Dust sheet (R525): at M in the normal world, at depth 0 in bank 0, every register at zero or its core-reset value, at the PC of its CORE_WAKEPC; events addressed to it stay pending. -/
def Thread.dustWake (x : Thread) (pc : W64) : Thread :=
  { run := .running, pc := pc, banks := [], mcs := x.mcs, slots := x.slots, locals := x.locals }

/-- A core that wakes from Dust sheet starts with empty caches, TLBs and predictors (R525). -/
def Hw.dustSheetWake (h : Hw) (t : Nat) : Hw :=
  let x := h.thread t
  let other := (h.thread (if t % 2 = 0 then t + 1 else t - 1)).run
  match h.pcoreOf t with
  | some p =>
    if x.run = .waiting 3 then
      let pc : W64 := BitVec.ofNat 64 (h.fld .CORE_WAKEPC (dieOfThread t) p (t % 2) F.CORE_WAKEPC_PC <<< 2)
      let h1 := h.setThread t (x.dustWake pc)
      if other = .running ∨ other = .waiting 1 ∨ other = .waiting 2 then h1 else h1.onCore (h.coreKeyOf t) (fun _ => {})
    else h
  | none => h

/-- DUST_SHEET_THREAD_WAKE (R525). -/
def execDustSheetThreadWake (t : Gtn) (s : State) : Host.Outcome State Fault Refusal :=
  s.onHw (fun h => h.dustSheetWake t.val)

end Sys2Proof.Machine
end

