-- ==== Sys2Proof/Machine/AskistOrder.lean ====
section
/-! DEFINITION. Fences, write-combining timeouts, TLB maintenance, the retirement of fills, and requests that end stale or in FERR (spec/02_askist_core.md R54 to R61; spec/05_address_translation.md R195 to R198; spec/06_memory_ordering.md R219 to R228; spec/11_fabric.md R443, R453). -/

namespace Sys2Proof.Machine

/-! Fences (R219 to R224). -/

/-- A D-P store of the thread has neither been acknowledged on its link nor completed with an error (R221, R233). -/
def Hw.dpOpen (h : Hw) (t : Nat) : Bool :=
  h.dpq.any (fun q => q.2.any (fun e => e.thread == t)) || h.dpErrs.any (fun e => e.thread == t)

/-- The lines of a thread's accesses that are not yet performed: stores that wait, an access of a device, D-P stores, and loads that have not retired. -/
def Hw.outstanding (h : Hw) (t : Nat) : List Nat :=
  let x := h.thread t
  (x.sqe.map (·.1)) ++ ((h.core (h.coreKeyOf t)).wcbs.filter (fun w => w.thread == t)).map (·.line) ++
    (x.devOpen.map (fun w => lineOf w.addr)).toList ++ (h.dpq.flatMap (fun q => (q.2.filter (fun e => e.thread == t)).map (fun e => lineOf e.addr))) ++
    (h.openFills t).map (·.line)

/-- TLB maintenance that the thread issued, of a fence's scope or below, is not complete: an access that may have used a removed entry is not performed (R199). -/
def tlbiWaits (scope t : Nat) (h : Hw) : Bool :=
  (h.thread t).tlbis.any (fun m => decide (m.1 ≤ scope) && m.2.any (fun a => (h.outstanding a.1).contains a.2))

/-- What the fence waits for: the accesses of the predecessor mask that are not yet performed at its scope, bit 1 of the mask being S and bit 0 D (R98, R219, R221), and TLB maintenance unless both masks are empty (R199). -/
def fenceWaits (scope t : Nat) (p q : BitVec 3) (h : Hw) : Bool :=
  (p.getLsbD 1 && (!(h.thread t).sq.isEmpty || !h.wcDone t)) || (decide (scope = 2) && p.getLsbD 0 && h.dpOpen t) ||
    ((p != 0 || q != 0) && tlbiWaits scope t h)

/-- FENCE.C with L in its successor mask: what the thread has fetched ahead is discarded (R224). -/
def Hw.refetch (h : Hw) (t : Nat) : Hw :=
  h.onCore (h.coreKeyOf t) (fun c => { c with fills := c.fills.filter (fun f => !(f.thread == t && f.fetch)) })

/-- A fence at work: with S in its predecessor mask the write-combining buffers are written first; it waits, and its command is given again, while an access that it orders is not performed. While it waits no machine check of a store that it waits for is taken (R233). -/
def fenceBody (scope t : Nat) (p q : BitVec 3) (zero : BitVec 18) (h : Hw) : Exe :=
  if zero != 0 then .error (h, illegal (wordF scope p q zero))
  else
    let h1 := if p.getLsbD 1 then h.wcFlush t else h
    if fenceWaits scope t p q h1 then .error (h1.onThread t (fun x => { x with fencing := true }), notNow)
    else .ok (retire (if decide (scope = 0) && q.getLsbD 2 then h1.refetch t else h1) t 4)

/-- FENCE_C (R221, R224). -/
def execFenceC (t : Gtn) (p q : BitVec 3) (zero : BitVec 18) (s : State) : Host.Outcome State Fault Refusal :=
  s.onHw (issueSettled t.val 1 (fenceBody 0 t.val p q zero))

/-- FENCE_D (R219, R221). -/
def execFenceD (t : Gtn) (p q : BitVec 3) (zero : BitVec 18) (s : State) : Host.Outcome State Fault Refusal :=
  s.onHw (issueSettled t.val 1 (fenceBody 1 t.val p q zero))

/-- FENCE_S (R221). -/
def execFenceS (t : Gtn) (p q : BitVec 3) (zero : BitVec 18) (s : State) : Host.Outcome State Fault Refusal :=
  s.onHw (issueSettled t.val 1 (fenceBody 2 t.val p q zero))

/-- WC_BUFFER_TIMEOUT (R228): the thread's buffer for the line is written. -/
def execWcBufferTimeout (t : Gtn) (line : BitVec 46) (s : State) : Host.Outcome State Fault Refusal :=
  s.onHw (fun h =>
    let key := h.coreKeyOf t.val
    match (h.core key).wcbs.find? (fun w => w.line == line.toNat && w.thread == t.val && !w.sent) with
    | some b => h.wcFlushOne key b
    | none => h)

/-! TLB maintenance (R195 to R198). -/

/-- What a TLB maintenance instruction removes: the entries of a TLB, and those of a walk cache. -/
structure Purge where
  tlb : TlbEnt → Bool
  walk : WalkEnt → Bool
  /-- Of the cached context entries of the partition (R203). -/
  ctx : CtxEnt → Bool := fun _ => true

/-- The operations of R195. -/
inductive TlbOp where
  | va | vaall | asid | regime | ia | vmid | part
  deriving DecidableEq, Repr

/-- OP of an operation (R195). -/
def TlbOp.code : TlbOp → Nat
  | .va => 0
  | .vaall => 1
  | .asid => 2
  | .regime => 3
  | .ia => 4
  | .vmid => 5
  | .part => 6

/-- The lowest level of an operation (R195). -/
def TlbOp.level : TlbOp → Nat
  | .ia => 2
  | .vmid => 2
  | .part => 3
  | _ => 1

/-- The operation works on the partition stage (R196). -/
def TlbOp.stage2 (o : TlbOp) : Bool := decide (o = .ia ∨ o = .vmid)

/-- The word of a TLB maintenance instruction (R195). -/
def tlbiWord (o : TlbOp) (d a : RegNum) (scope : BitVec 2) (hi : BitVec 6) : W32 :=
  wordSys 0xA d a (BitVec.ofNat 12 (hi.toNat <<< 6 ||| scope.toNat <<< 4 ||| o.code))

/-- The execution is illegal (R196): the level, the scope, the zero bits, and at M the selected regime. -/
def tlbiBad (o : TlbOp) (x : Thread) (gd : W64) (scope : BitVec 2) (hi : BitVec 6) : Bool :=
  let sel := wbits gd 18 16
  hi != 0 || scope == 3 || decide (x.level.toNat < o.level) || decide (x.level = 0)
    || (decide (x.level = 3) && (decide (4 < sel) || (decide (sel = 4) && !o.stage2)))

/-- The regime that an operation acts on (R196): the level's own, the S regime for H's work on the partition stage, or the one that M selects. -/
def tlbiRegime (o : TlbOp) (x : Thread) (gd : W64) : BitVec 2 :=
  if x.level = 3 then (if wbits gd 18 16 = 4 then 3 else BitVec.ofNat 2 (wbits gd 18 16))
  else if x.world then 3
  else if x.level = 2 ∧ !o.stage2 then 1
  else 0

/-- The entry's VMID is the one in force, for S and secure-S (R196). -/
def vmidNow (x : Thread) (c : Ctx) (v : Option Nat) : Bool := decide (1 < x.level.toNat) || v == (if c.psen then some c.vmid else none)

/-- What an operation removes (R195). A pointer of a stage-1 table names no address: the operations on addresses and ASIDs remove the regime's pointers whole, and IA the partition-stage entries of its VMID. -/
def purgeOf (o : TlbOp) (x : Thread) (c : Ctx) (gd ga : W64) : Purge :=
  let r := tlbiRegime o x gd
  let asid := wbits gd 15 0
  let covers (e : TlbEnt) : Bool := nbits ga.toNat 56 0 >>> e.size == nbits e.va 56 0 >>> e.size
  let own (e : TlbEnt) : Bool := e.regime == r && vmidNow x c e.vmid
  let ptr (e : WalkEnt) : Bool := e.regime == r && !e.stage2 && vmidNow x c e.vmid
  let v := wbits gd 7 0
  match o with
  | .va => ⟨fun e => own e && covers e && (e.asid.isNone || e.asid == some asid), ptr, fun e => e.ix == asid⟩
  | .vaall => ⟨fun e => own e && covers e, ptr, fun _ => true⟩
  | .asid => ⟨fun e => own e && e.asid == some asid, ptr, fun e => e.ix == asid⟩
  | .regime => ⟨own, ptr, fun _ => true⟩
  | .ia => ⟨fun e => e.regime == r && e.vmid == some v, fun e => e.regime == r && e.stage2 && e.vmid == some v, fun e => wbits e.w1 7 0 == v⟩
  | .vmid => ⟨fun e => e.regime == r && e.vmid == some v, fun e => e.regime == r && e.vmid == some v, fun e => wbits e.w1 7 0 == v⟩
  | .part => ⟨fun e => e.part == c.part, fun _ => true, fun _ => true⟩

/-- Entries leave the structures of a core, and walks of its threads that are not yet installed lose them (R198). -/
def Hw.purgeCore (h : Hw) (g : Purge) (die pcore : Nat) : Hw :=
  let keep (l : List TlbEnt) : List TlbEnt := l.filter (fun e => !g.tlb e)
  let keepW (l : List WalkEnt) : List WalkEnt := l.filter (fun e => !g.walk e)
  let h1 := h.onCore (coreKey die pcore) (fun c =>
    { c with itlb := keep c.itlb, dtlb := keep c.dtlb, l2tlb := keep c.l2tlb, l2large := keep c.l2large,
             walk1 := keepW c.walk1, walk2 := keepW c.walk2 })
  (h1.threadsOn die pcore).foldl (fun (h : Hw) t => h.onThread t (fun x => { x with walkBuf := x.walkBuf.filter (fun e => !g.tlb e.2.2), walkPtrs := x.walkPtrs.filter (fun e => !g.walk e.2) })) h1

/-- Entries leave every core of a die. -/
def Hw.purgeDie (h : Hw) (g : Purge) (die : Nat) : Hw := (List.range 34).foldl (fun (h : Hw) p => h.purgeCore g die p) h

/-- Entries leave the structures that a scope names (R197). -/
def Hw.purge (h : Hw) (g : Purge) (t : Nat) (scope : BitVec 2) : Hw :=
  let die := dieOfThread t
  let part := h.partOf t
  if scope = 0 then h.purgeCore g die ((h.pcoreOf t).getD 0)
  else if scope = 1 then h.purgeDie g die
  else
    let h1 := ((List.range 12).map (· + 1)).foldl (fun (h : Hw) d => if look 0 h.dieOwner d = part then h.purgeDie g d else h) h
    { h1 with xtl := h1.xtl.map (fun e => (e.1, e.2.filter (fun x => !(x.part == part && g.tlb x)))),
              xctx := h1.xctx.filter (fun e => !(e.part == part && g.ctx e)) }

/-- The threads that a scope reaches (R197). -/
def Hw.scopeThreads (h : Hw) (t : Nat) (scope : BitVec 2) : List Nat :=
  let die := dieOfThread t
  let dies := if scope = 2 then ((List.range 12).map (· + 1)).filter (fun d => look 0 h.dieOwner d == h.partOf t) else [die]
  let ts := dies.flatMap (fun d => (List.range 64).map (fun i => 64 * (d - 1) + i))
  if scope = 0 then ts.filter (fun u => u / 2 == t / 2) else ts

/-- Maintenance is recorded with the accesses in its scope that are not yet performed (R199). DESIGN CHOICE: each of them counts as one that may have used a removed entry (log entry 51). -/
def Hw.noteTlbi (h : Hw) (t : Nat) (scope : BitVec 2) : Hw :=
  let l := (h.scopeThreads t scope).flatMap (fun u => (h.outstanding u).map (fun l => (u, l)))
  h.onThread t (fun x => { x with tlbis := x.tlbis.filter (fun m => m.2.any (fun a => (h.outstanding a.1).contains a.2)) ++ (if l.isEmpty then [] else [(scope.toNat, l)]) })

/-- TLB maintenance at work: it is sent only after the thread's older stores are performed (R198). -/
def tlbiBody (o : TlbOp) (t : Nat) (d a : RegNum) (scope : BitVec 2) (hi : BitVec 6) (h : Hw) : Exe :=
  let x := h.thread t
  let gd := x.readG d.toNat
  if tlbiBad o x gd scope hi then .error (h, illegal (tlbiWord o d a scope hi))
  else
    let h1 := h.wcFlush t
    if !(h1.thread t).sq.isEmpty || !h1.wcDone t || h1.dpOpen t then .error (h1, notNow)
    else .ok (retire ((h1.purge (purgeOf o x (h.ctx t) gd (x.readG a.toNat)) t scope).noteTlbi t scope) t 4)

/-- TLBI_VA (R195). -/
def execTlbiVA (t : Gtn) (d a : RegNum) (scope : BitVec 2) (hi : BitVec 6) (s : State) : Host.Outcome State Fault Refusal :=
  s.onHw (issueSettled t.val 1 (tlbiBody .va t.val d a scope hi))

/-- TLBI_VAALL (R195). -/
def execTlbiVAALL (t : Gtn) (d a : RegNum) (scope : BitVec 2) (hi : BitVec 6) (s : State) : Host.Outcome State Fault Refusal :=
  s.onHw (issueSettled t.val 1 (tlbiBody .vaall t.val d a scope hi))

/-- TLBI_ASID (R195). -/
def execTlbiASID (t : Gtn) (d a : RegNum) (scope : BitVec 2) (hi : BitVec 6) (s : State) : Host.Outcome State Fault Refusal :=
  s.onHw (issueSettled t.val 1 (tlbiBody .asid t.val d a scope hi))

/-- TLBI_REGIME (R195). -/
def execTlbiREGIME (t : Gtn) (d a : RegNum) (scope : BitVec 2) (hi : BitVec 6) (s : State) : Host.Outcome State Fault Refusal :=
  s.onHw (issueSettled t.val 1 (tlbiBody .regime t.val d a scope hi))

/-- TLBI_IA (R195). -/
def execTlbiIA (t : Gtn) (d a : RegNum) (scope : BitVec 2) (hi : BitVec 6) (s : State) : Host.Outcome State Fault Refusal :=
  s.onHw (issueSettled t.val 1 (tlbiBody .ia t.val d a scope hi))

/-- TLBI_VMID (R195). -/
def execTlbiVMID (t : Gtn) (d a : RegNum) (scope : BitVec 2) (hi : BitVec 6) (s : State) : Host.Outcome State Fault Refusal :=
  s.onHw (issueSettled t.val 1 (tlbiBody .vmid t.val d a scope hi))

/-- TLBI_PART (R195). -/
def execTlbiPART (t : Gtn) (d a : RegNum) (scope : BitVec 2) (hi : BitVec 6) (s : State) : Host.Outcome State Fault Refusal :=
  s.onHw (issueSettled t.val 1 (tlbiBody .part t.val d a scope hi))

/-! Retirement (R57, R61, R67 to R69, R192). -/

/-- The oldest table read of a thread that has not retired and stands at or before an instruction's number. -/
def Hw.walkUse (h : Hw) (t seq : Nat) : Option (FillEnt × FillUse) :=
  ((h.openFills t).filter (fun f => f.walk)).findSome? (fun f => (f.uses.find? (fun u => u.snap.isSome && decide (u.seq ≤ seq))).map (fun u => (f, u)))

/-- The table reads that stand before an instruction retire with it (R61): each settled and validated. The Boolean says that one keeps it from retiring. -/
def Hw.retireWalks (t seq : Nat) : Nat → Hw → Hw × Bool
  | 0, h => (h, false)
  | n + 1, h => match h.walkUse t seq with
    | none => (h, false)
    | some (e, u) =>
      if !e.settled || e.inFlight then (h, true)
      else match (if e.valid && !e.bad then (h, false) else h.validate e) with
        | (h1, true) => (h1, true)
        | (h1, false) => Hw.retireWalks t seq n (match (h1.core (h1.coreKeyOf t)).fills.find? (fun f => e.same f) with
          | some f => h1.retireUse f u
          | none => h1)

/-- INSTRUCTION_RETIRE at work: an entry that is provisional, whose data has not come, or that stands behind an older unretired load keeps its load from retiring (R56); otherwise its table reads and it are validated and installed, the walks enter the TLBs, and the prefetchers are trained. -/
def Hw.retireFill (h : Hw) (t line : Nat) (fetch : Bool) (pc : W64) : Hw :=
  let mine (f : FillEnt) : Bool := f.thread == t && f.line == line && f.fetch == fetch && !f.walk
  match (h.core (h.coreKeyOf t)).fills.find? mine with
  | none => h.walksDone t
  | some e => match e.uses.head? with
    | none => h
    | some u =>
      let older := (h.openFills t).any (fun f => !f.walk && f.uses.any (fun v => v.snap.isSome && decide (v.seq < u.seq)))
      if !e.settled || e.inFlight || older then h
      else match h.retireWalks t u.seq ((h.openFills t).map (fun f => f.uses.length)).sum with
        | (h0, true) => h0
        | (h0, false) => match (if e.valid && !e.bad then (h0, false) else h0.validate e) with
          | (h1, true) => h1
          | (h1, false) => match (h1.core (h1.coreKeyOf t)).fills.find? mine with
            | some f => h1.retireUse f { u with pc := pc }
            | none => h1

/-- INSTRUCTION_RETIRE (R57, R61); a thread that has check-stopped retires nothing (R161). -/
def execInstructionRetire (t : Gtn) (line : BitVec 46) (fetch : Bool) (pc : W64) (s : State) : Host.Outcome State Fault Refusal :=
  s.onHw (fun h => if (h.pcoreOf t.val).isNone || decide ((h.thread t.val).run = .checkStopped) then h else h.retireFill t.val line.toNat fetch pc)

/-- LOAD_SETTLES (R54 to R56): a deferred load may now send its settled read; while the provisional read is in flight a settle notice follows it; after its data has come the settled read is sent. -/
def execLoadSettles (t : Gtn) (line : BitVec 46) (s : State) : Host.Outcome State Fault Refusal :=
  s.onHw (fun h =>
    if (h.thread t.val).deferred = some (line.toNat, false) then h.onThread t.val (fun x => { x with deferred := some (line.toNat, true) })
    else match (h.openFills t.val).find? (fun f => f.line == line.toNat && !f.fetch && !f.settled) with
      | none => h
      | some e => (h.settleOne e).1)

end Sys2Proof.Machine
end

