-- ==== Sys2Proof/Machine/Packets.lean ====
section
/-! DEFINITION. The arrival of packets at their destinations: what every packet is checked for, the requests at the homes, snoops at the agents, answers at homes and requesters, accesses at ports, and packets that fail (spec/07_coherence.md R259 to R281; spec/11_fabric.md R436 to R455). -/

namespace Sys2Proof.Machine

/-! Checks of a packet (R436, R441 to R443). -/

/-- A packet that the command delivers: the waiting message, or one that stands for it. -/
structure Pkt where
  msg : Msg
  waits : Bool
  deriving DecidableEq, Repr

/-- The die at which a packet arrives. -/
def Pkt.die (p : Pkt) : Nat := p.msg.ends.2 / 128

/-- The destination records a packet that failed its checks (R443, R620): DETAIL is a kind that the spec does not number; of a word that failed its parity the record holds what was received, a free value (log entry 4). -/
def Hw.packetError (h : Hw) (p : Pkt) (bad lost : Bool) : Hw :=
  let (kind, h1) := h.fresh 8
  let (w0, h2) := if lost then h1.fresh 64 else (h1.word0 p.msg bad, h1)
  h2.ras p.die 1 { code := 0x24, sev := 2, detail := kind.toNat, misc0 := w0, misc1 := p.msg.word1 }

/-- The power domain whose edge a request to a stop crosses (R449, R519): of the homes, the engines, the ports. -/
def stopDomain (n : Nat) : Option (Nat × Nat) :=
  let d := n / 128
  let s := n % 128
  if d = 0 then (if s < 0x20 then some (0, 0) else if 0x38 ≤ s ∧ s < 0x50 then some (0, 32 + (s - 0x38)) else if s = 0x60 then some (0, 4) else none)
  else if d ≤ 12 then none
  else if s < 16 then some (d, 1) else if s < 0x18 then some (d, 2 + (s - 16)) else none

/-- A packet crosses a scrim link only while the link is in STATE 0x3 (R466, R484). -/
def Hw.wayOpen (h : Hw) (m : Msg) : Bool :=
  m.legs.all (fun l => match l with
    | .link die _ => h.linkState (dieHp die) true == 3
    | _ => true)

/-- An uncorrectable unit or K word on a packet's scrim link toward the hub, or from it, counts at the receiving end (R462). -/
def Hw.linkError (h : Hw) (m : Msg) (down : Bool) (g : Nat) : Hw :=
  match m.legs.find? (fun l => match l with
    | .link _ toHub => toHub == !down
    | _ => false) with
  | some (.link die _) => h.unitError (dieHp die) (!down) (g % linkGroups (dieHp die))
  | _ => h

/-- The power domain of a stop whose clocks stop in Satin (R449, R519). -/
def clockDomain (n : Nat) : Option (Nat × Nat) := if 1 ≤ n / 128 ∧ n / 128 ≤ 12 then some (n / 128, 36) else stopDomain n

/-- A packet that arrives wakes a domain in Satin (R449, R517). -/
def Hw.satinWake (h : Hw) (m : Msg) : Hw :=
  match clockDomain m.ends.2 with
  | some (d, nn) => if h.domCur d nn = 1 then h.wake d nn 8 (m.ends.1 % 64) else h
  | none => h

/-- A packet arrives (R436, R441, R443): it waits behind an earlier one of its order, and before a link that is not up unless the hub's scrim port takes it; one that is lost, or whose token names no slot of its source, has no effect but its record. The Boolean says that its payload or its second word failed a check. -/
def Hw.receive (h : Hw) (p : Pkt) (chk : Check) (atScrim : Bool := false) : Except Hw (Hw × Bool) :=
  if p.waits && (h.behind p.msg || !(atScrim || h.wayOpen p.msg)) then .error h
  else
    let h1 := if p.waits then h.taken p.msg else h
    let ok := !p.waits || h.tokenOk p.msg
    match chk with
    | .lost => .error (h1.packetError p false true)
    | .good => if ok then .ok (h1.satinWake p.msg, false) else .error (h1.packetError p false false)
    | .bad => if ok then .ok ((h1.satinWake p.msg).packetError p true false, true) else .error (h1.packetError p true false)
    | .unit down header g =>
      let h2 := h1.linkError p.msg down g.toNat
      if header then .error (h2.packetError p false true)
      else if ok then .ok ((h2.satinWake p.msg).packetError p true false, true) else .error (h2.packetError p true false)

/-- The packet of an opcode about a line, from or for an agent; without one that waits, one with the partition and world given. -/
def Hw.pkt (h : Hw) (op : MsgOp) (a : Agent) (line part : Nat) (world : Bool) : Pkt :=
  match h.waitingMsg op a line with
  | some m => ⟨m, true⟩
  | none => ⟨{ op := op, addr := line, agent := a, part := part, world := world }, false⟩

/-! The domain edges (R449 to R451). -/

/-- A request is of no waking class: a prefetch (R450). -/
def Hw.isPrefetch (h : Hw) (m : Msg) : Bool :=
  match m.agent with
  | .core d p => m.op == .RDS && has (h.core (coreKey d p)).pfOut m.addr && !((h.core (coreKey d p)).fills.any (fun f => f.line == m.addr && f.inFlight))
  | _ => false

/-- The edge of a domain that is Closing or in a low state answers a request with ASLEEP (R449, R450, R451): its slot is freed; a waking one registers a wake, or starts it, and is sent again at OPEN. -/
def Hw.edgeAnswer (h : Hw) (m : Msg) (die nn : Nat) : Hw :=
  let c := h.domCur die nn
  let k := domKey die nn
  let waking := !h.isPrefetch m
  let h1 := (h.freeTok 0 m.agent m.addr).send { op := .ASLEEP, addr := m.addr, agent := m.agent, part := m.part, world := m.world, info := b2n waking, txid := m.txid }
  if !waking then h1
  else
    let x := (look? h1.closing k).getD { target := c }
    let h2 : Hw := { h1 with closing := put h1.closing k { x with wake := true, answered := if x.answered.contains (m.ends.2, m.ends.1) then x.answered else x.answered ++ [(m.ends.2, m.ends.1)] },
                             sleepers := h1.sleepers ++ [⟨m.ends.2, m⟩] }
    if c = 4 then h2 else h2.wake die nn 8 (m.ends.1 % 64)

/-- The domain whose edge answers for the destination of a request. -/
def Hw.edgeOf (h : Hw) (m : Msg) : Option (Nat × Nat) :=
  (stopDomain m.ends.2).filter (fun d => decide (2 ≤ h.domCur d.1 d.2) && decide (h.domCur d.1 d.2 ≤ 5))

/-! Partitions (R455). -/

/-- The hub's scrim port of a die passes a packet of the classes whose partition it checks: PART is that of the source's unit, or for a write-back that of the line's range (R454, R455). -/
def Hw.scrimPass (h : Hw) (m : Msg) : Bool :=
  let d := m.ends.1 / 128
  decide (d = 0) || decide (m.part = h.agentPart m.agent) || (decide (m.op.cls = 4) && decide (m.part = h.gibOwner (m.addr >>> 24)))

/-- The record set of a die for partition checks (R619). -/
def partSet (die : Nat) : Nat := if 1 ≤ die ∧ die ≤ 12 then 3 else if die = 0 then 1 else 2

/-- A packet has failed a check of its partition (R455): the record names both partitions. -/
def Hw.partError (h : Hw) (m : Msg) (die sev own other : Nat) : Hw :=
  h.ras die (partSet die) { code := 0x28, sev := sev, addr := m.addr <<< 6, part := own, detail := other, world := m.world, misc0 := h.word0 m false }

/-- A request or a write-back fails the check of the hub's scrim port: it is refused, and the error is fatal for the partition of its source's die (R455). -/
def Hw.scrimRefuse (h : Hw) (m : Msg) : Hw :=
  let d := m.ends.1 / 128
  let own := h.agentPart m.agent
  let h1 := h.freeTok (if m.op.cls = 4 then 1 else 0) m.agent m.addr
  let h2 := (h1.partError m d 3 own m.part).send
    { op := if m.op.cls = 4 then .WBA else .REF, addr := m.addr, agent := m.agent, part := m.part, world := m.world, info := m.info, txid := m.txid }
  h2.partFatal own d

/-! Requests at a home (R259, R262). -/

/-- The request that a packet makes. -/
def Pkt.req (p : Pkt) (part : Nat) (world : Bool) : HReq :=
  { op := p.msg.op, line := p.msg.addr, agent := p.msg.agent, part := part, world := world, data := p.msg.data, mask := p.msg.mask,
    tag := p.msg.info, txid := p.msg.txid }

/-- A request reaches its home: one of a failed partition check is refused; the edge of a domain that is not open answers ASLEEP (R449); a stale one is answered STALE (R453), and one whose check failed FERR (R443); else the home takes it. -/
def requestCmd (op : MsgOp) (ar : AgentRef) (l : Line) (part : Nat) (world : Bool) (chk : Check) (take : Pkt → HReq → Hw → Hw) (h : Hw) : Hw :=
  let a := toAgent ar
  let p0 := h.pkt op a l.toNat part world
  let p : Pkt := { p0 with msg := { p0.msg with part := part, world := world } }
  match h.receive p0 chk with
  | .error h1 => h1
  | .ok (h1, bad) =>
    let m := p.msg
    if !h1.scrimPass m then h1.scrimRefuse m
    else match h1.edgeOf m with
      | some d => if m.op == .CMT || m.op == .STN then take p (p.req part world) h1 else h1.edgeAnswer m d.1 d.2
      | none =>
        if p.waits && h1.isStale m.ends.2 m.epoch then
          (h1.freeTok 0 a m.addr).send { op := .STALE, addr := m.addr, agent := a, part := part, world := world, info := m.info, txid := m.txid }
        else if bad then
          if m.op == .STN then h1
          else (if m.op == .CMT then h1 else h1.freeTok 0 a m.addr).send
            { op := .FERR, addr := m.addr, agent := a, part := part, world := world, info := m.info, mask := b2n (m.op == .CMT), txid := m.txid }
        else take p (p.req part world) h1

/-- A home takes a request. -/
def takeRequest (_ : Pkt) (r : HReq) (h : Hw) : Hw := h.homeRequest r

/-- RDS (R262). -/
def execRds (a : AgentRef) (l : Line) (part : PartId) (world : Bool) (chk : Check) (s : State) : Host.Outcome State Fault Refusal :=
  s.onHw (requestCmd .RDS a l part.val world chk takeRequest)

/-- RDO (R262). -/
def execRdo (a : AgentRef) (l : Line) (part : PartId) (world : Bool) (chk : Check) (s : State) : Host.Outcome State Fault Refusal :=
  s.onHw (requestCmd .RDO a l part.val world chk takeRequest)

/-- UPG (R262). -/
def execUpg (a : AgentRef) (l : Line) (part : PartId) (world : Bool) (chk : Check) (s : State) : Host.Outcome State Fault Refusal :=
  s.onHw (requestCmd .UPG a l part.val world chk takeRequest)

/-- OWN (R262). -/
def execOwn (a : AgentRef) (l : Line) (part : PartId) (world : Bool) (chk : Check) (s : State) : Host.Outcome State Fault Refusal :=
  s.onHw (requestCmd .OWN a l part.val world chk takeRequest)

/-- RDC (R262). -/
def execRdc (a : AgentRef) (l : Line) (part : PartId) (world : Bool) (chk : Check) (s : State) : Host.Outcome State Fault Refusal :=
  s.onHw (requestCmd .RDC a l part.val world chk takeRequest)

/-- The home's answer to a provisional read (R53, R280): the data while the line is Uncached or Shared and not poisoned, else defer; a refusal records nothing. -/
def Hw.provisionalAnswer (h : Hw) (line part : Nat) (world : Bool) : MsgOp :=
  let key := dirKey line
  if !h.homePass part world (line <<< 6) || !h.mapped (line <<< 6) then .REF
  else if h.busy key || h.poisoned (line <<< 6) then .DFR
  else match h.dirOf key with
    | .owned _ _ => .DFR
    | _ => .DATA

/-- A home answers a provisional read (R53). -/
def takeProvisional (_ : Pkt) (r : HReq) (h : Hw) : Hw :=
  if h.fenced r.agent then h else h.reply (h.provisionalAnswer r.line r.part r.world) r

/-- RDP (R53). -/
def execRdp (a : AgentRef) (l : Line) (part : PartId) (world : Bool) (chk : Check) (s : State) : Host.Outcome State Fault Refusal :=
  s.onHw (requestCmd .RDP a l part.val world chk takeProvisional)

/-- A settle notice reaches a home (R55): a provisional read that it has not yet serviced is serviced as a settled read, in its slot. -/
def takeNotice (_ : Pkt) (r : HReq) (h : Hw) : Hw :=
  let h0 := h.freeTok 0 r.agent r.line
  match h0.waitingMsg .RDP r.agent r.line with
  | some m => (h0.taken m).homeRequest { r with op := .RDS, txid := m.txid, tag := 0 }
  | none => h0

/-- STN (R55). -/
def execStn (a : AgentRef) (l : Line) (part : PartId) (world : Bool) (chk : Check) (s : State) : Host.Outcome State Fault Refusal :=
  s.onHw (requestCmd .STN a l part.val world chk takeNotice)

/-- A write reaches its home (R263): of a core it is relaxed; of a port as its TLP says, which the tag 7 marks; a packet that no message stands for carries the command's data. -/
def takeWrite (relaxed : Bool) (mask data : Nat) (p : Pkt) (r : HReq) (h : Hw) : Hw :=
  h.homeRequest (if p.waits then { r with relaxed := decide (r.tag ≠ 6) } else { r with relaxed := relaxed, mask := mask, data := data })

/-- WRF (R263). -/
def execWrf (a : AgentRef) (l : Line) (part : PartId) (world relaxed : Bool) (data : V512) (chk : Check) (s : State) :
    Host.Outcome State Fault Refusal :=
  s.onHw (requestCmd .WRF a l part.val world chk (takeWrite relaxed 0 data.toNat))

/-- WRP (R263). -/
def execWrp (a : AgentRef) (l : Line) (part : PartId) (world relaxed : Bool) (mask : W64) (data : V512) (chk : Check) (s : State) :
    Host.Outcome State Fault Refusal :=
  s.onHw (requestCmd .WRP a l part.val world chk (takeWrite relaxed mask.toNat data.toNat))

/-- A commit reaches the home: the held write becomes visible, its transaction ends and its slot is freed (R32, R263). The port's next write may then be committed. -/
def takeCommit (_ : Pkt) (q : HReq) (h : Hw) : Hw :=
  match h.txns.find? (fun t => t.key == dirKey q.line && t.cmt && (t.req.map (fun r => r.agent == q.agent && r.line == q.line)).getD false) with
  | some t =>
    match t.req with
    | some r =>
      let h1 := (((h.homeWrite r).endTxn t.key).freeTok 0 q.agent q.line).wakeWaiters
      match q.agent with
      | .port n => h1.portVisible n q.line
      | _ => h1
    | none => h
  | none => h

/-- CMT (R32). -/
def execCmt (a : AgentRef) (l : Line) (chk : Check) (s : State) : Host.Outcome State Fault Refusal :=
  s.onHw (fun h => requestCmd .CMT a l (h.agentPart (toAgent a)) false chk takeCommit h)

/-! Write-backs at a home (R262, R270, R443). -/

/-- A write-back-class message reaches its home: a line whose packet failed its check, or that its holder had marked, is written as poisoned (R443). -/
def writebackCmd (op : MsgOp) (ar : AgentRef) (l : Line) (part : Nat) (world : Bool) (chk : Check) (take : HReq → Bool → Hw → Hw) (h : Hw) : Hw :=
  let a := toAgent ar
  let p := h.pkt op a l.toNat part world
  match h.receive p chk with
  | .error h1 => h1
  | .ok (h1, bad) =>
    let m : Msg := { p.msg with part := part, world := world }
    if !h1.scrimPass m then h1.scrimRefuse m
    else take { p.req part world with tag := 0 } (bad || decide (p.msg.info = 1)) h1

/-- WB (R262). -/
def execWb (a : AgentRef) (l : Line) (part : PartId) (world : Bool) (chk : Check) (s : State) : Host.Outcome State Fault Refusal :=
  s.onHw (writebackCmd .WB a l part.val world chk (fun r bad h => h.homeWb r bad))

/-- EVC (R262). -/
def execEvc (a : AgentRef) (l : Line) (part : PartId) (world : Bool) (chk : Check) (s : State) : Host.Outcome State Fault Refusal :=
  s.onHw (writebackCmd .EVC a l part.val world chk (fun r bad h => h.homeWb r bad))

/-- EVF (R270). -/
def execEvf (a : AgentRef) (l : Line) (part : PartId) (world : Bool) (chk : Check) (s : State) : Host.Outcome State Fault Refusal :=
  s.onHw (writebackCmd .EVF a l part.val world chk (fun r _ h => h.homeEvf r))

/-- DIRECTORY_WRITEBACK_DRAIN (R257): the state of a line in the write-back buffer is written to memory, and the requests that waited are served. -/
def execDirectoryWritebackDrain (l : Line) (s : State) : Host.Outcome State Fault Refusal :=
  s.onHw (fun h =>
    let key := dirKey l.toNat
    if has h.dwb key then ({ h.dirStore key with dwb := rem h.dwb key } : Hw).wakeWaiters else h)

/-! Snoops (R265, R266, R278, R449, R455). -/

/-- A snoop that has been accepted is held, or answered. -/
def Hw.snoopTaken (h : Hw) (m : Msg) : Hw :=
  match m.agent with
  | .core d _ =>
    if h.snoopWaits m.op d m.addr then
      let h1 := h.onCDie d (fun c => { c with heldSnoops := c.heldSnoops ++ [m] })
      if h1.dieSleeps d && decide (h1.domCur d 36 ≠ 5) then h1.wake d 36 8 (m.ends.1 % 64) else h1
    else h.dieAnswer m.op d m.addr
  | a => if h.agHolds a m.addr then { h with heldSn := h.heldSn ++ [m] } else h.agAnswer m.op a m.addr

/-- A snoop arrives: for a die in Dust sheet the hub's scrim port answers, and a recall of it has timed out (R278); one of another partition, or stale, is answered ABSENT or STALE (R453, R455); one whose check failed counts as timed out (R443). -/
def snoopCmd (op : MsgOp) (ar : AgentRef) (l : Line) (part : Nat) (world : Bool) (chk : Check) (h : Hw) : Hw :=
  let a := toAgent ar
  let line := l.toNat
  let p := h.pkt op a line part world
  let dust := match a with
    | .core d _ => h.dieDust d
    | _ => false
  match h.receive p chk dust with
  | .error h1 => h1
  | .ok (h1, bad) =>
    let m : Msg := { p.msg with part := part, world := world }
    let own := h1.agentPart a
    if dust then
      if op == .INV || op == .PRB || op == .FAP then h1.answer .ACK a line ackAbsent
      else (h1.freeTok 2 a line).snoopTimedOut a line none
    else if part ≠ 0 ∧ part ≠ own then
      ((h1.answer .ACK a line ackAbsent).homeErr 0x08 2 (snoopedLine line) (some a)).partError m (m.ends.2 / 128) 2 own part
    else if p.waits && h1.isStale m.ends.2 m.epoch then
      (h1.freeTok 2 a line).send { op := .STALE, addr := line, agent := a, part := own, world := world, mask := 1, txid := m.txid }
    else if bad then (h1.freeTok 2 a line).snoopTimedOut a line none
    else h1.snoopTaken m

/-- RCS (R266). -/
def execRcs (a : AgentRef) (l : Line) (part : PartId) (world : Bool) (chk : Check) (s : State) : Host.Outcome State Fault Refusal :=
  s.onHw (snoopCmd .RCS a l part.val world chk)

/-- RCI (R266). -/
def execRci (a : AgentRef) (l : Line) (part : PartId) (world : Bool) (chk : Check) (s : State) : Host.Outcome State Fault Refusal :=
  s.onHw (snoopCmd .RCI a l part.val world chk)

/-- RCC (R266). -/
def execRcc (a : AgentRef) (l : Line) (part : PartId) (world : Bool) (chk : Check) (s : State) : Host.Outcome State Fault Refusal :=
  s.onHw (snoopCmd .RCC a l part.val world chk)

/-- INV (R266). -/
def execInv (a : AgentRef) (l : Line) (part : PartId) (world : Bool) (chk : Check) (s : State) : Host.Outcome State Fault Refusal :=
  s.onHw (snoopCmd .INV a l part.val world chk)

/-- PRB (R266). -/
def execPrb (a : AgentRef) (l : Line) (part : PartId) (world : Bool) (chk : Check) (s : State) : Host.Outcome State Fault Refusal :=
  s.onHw (snoopCmd .PRB a l part.val world chk)

/-- FAP (R266). -/
def execFap (a : AgentRef) (l : Line) (part : PartId) (world : Bool) (chk : Check) (s : State) : Host.Outcome State Fault Refusal :=
  s.onHw (snoopCmd .FAP a l part.val world chk)

/-! Answers at a home (R259, R443). -/

/-- A flawed response ends every transaction that the home holds toward the source stop (R443): each of its snoops counts as timed out. -/
def Hw.flawedAnswer (h : Hw) (m : Msg) : Hw :=
  let (src, dst) := m.ends
  let hit (t : Txn) : List (Agent × Nat) :=
    if homeOfLine t.line = dst then (t.wait.filter (fun a => a.lineStop t.line == src)).map (fun a => (a, t.line)) else []
  (h.txns.flatMap hit).foldl (fun (h : Hw) e => (h.freeTok 2 e.1 e.2).snoopTimedOut e.1 e.2 none) h

/-- An answer to a snoop reaches its home. -/
def answerCmd (op : MsgOp) (ar : AgentRef) (l : Line) (chk : Check) (take : Msg → Bool → Hw → Hw) (h : Hw) : Hw :=
  let a := toAgent ar
  let p := h.pkt op a l.toNat (h.agentPart a) (h.secureLine l.toNat)
  match h.receive p chk with
  | .error h1 => h1
  | .ok (h1, bad) => take p.msg bad h1

/-- ACK (R259). -/
def execAck (a : AgentRef) (l : Line) (absent wbpend present : Bool) (chk : Check) (s : State) : Host.Outcome State Fault Refusal :=
  s.onHw (answerCmd .ACK a l chk (fun m bad h => if bad then h.flawedAnswer m else h.homeAnswer (toAgent a) l.toNat absent wbpend present []))

/-- ACKF (R270). -/
def execAckf (a : AgentRef) (l : Line) (chk : Check) (s : State) : Host.Outcome State Fault Refusal :=
  s.onHw (answerCmd .ACKF a l chk (fun m bad h => if bad then h.flawedAnswer m else h.homeAckF (toAgent a) l.toNat))

/-- The lines that an RCD carries: its own line, or those its mask names in a far-tier region (R266). -/
def rcdLines (line : Nat) (mask : Nat) : List Nat :=
  if isFar line then ((List.range 16).filter (fun i => mask.testBit i)).map (fun i => line / 16 * 16 + i) else [line]

/-- RCD (R261): its data is the line's, marked POISON where its holder had marked it, or where the packet failed its check (R443). -/
def execRcd (a : AgentRef) (l : Line) (lines : BitVec 16) (chk : Check) (s : State) : Host.Outcome State Fault Refusal :=
  s.onHw (answerCmd .RCD a l chk (fun m bad h =>
    let ls := rcdLines l.toNat lines.toNat
    let pz := if bad then ls else ls.filter (fun x => m.mask.testBit (x % 16))
    (h.poisonLines pz).homeAnswer (toAgent a) l.toNat false false false ls))

/-- SNOOP_TIMEOUT (R279): the snoops of the line's transaction have had their time. -/
def execSnoopTimeout (a : AgentRef) (l : Line) (s : State) : Host.Outcome State Fault Refusal :=
  s.onHw (fun h => if h.snoopDue l.toNat then (h.freeTok 2 (toAgent a) l.toNat).snoopsTimedOut (toAgent a) l.toNat else h)

/-- POISON_ENTRY_HOLD_EXPIRE (R279): 8 s after the timeout the entry may be replaced. -/
def execPoisonEntryHoldExpire (l : Line) (s : State) : Host.Outcome State Fault Refusal :=
  s.onHw (fun h => match look? h.dhold (dirKey l.toNat) with
    | some t => if t + 8000000000 ≤ h.now then ({ h with dhold := del h.dhold (dirKey l.toNat) } : Hw).wakeWaiters else h
    | none => h)

/-! Requests that fail (R443, R453). -/

/-- The access of a thread to a device or a register is refused (R10, R453): a load takes an access fault; a store is discarded and completes. -/
def Hw.accessStale (h : Hw) (t : Nat) : Hw :=
  match (h.thread t).devOpen with
  | none => h
  | some w =>
    let h1 := h.refuseReg 0 w.addr (h.who t)
    if w.write then h1.devDone t 0 else h1.devTrap t (accessFault false 0xF0 w.cur.va)

/-- The read of a line by a core is answered FERR (R62, R443): the loads, fetches and table reads that wait for it are executed again, and take a machine check of class 0x04. -/
def Hw.coreReadFails (h : Hw) (die pcore line : Nat) : Hw :=
  let l := (h.core (coreKey die pcore)).fills.filter (fun f => f.line == line && f.inFlight)
  let h1 := l.foldl (fun (x : Hw) e =>
    ((x.setFill e (fun f => { f with bad := true })).replayAt e.thread e.firstSeq).onThread e.thread (fun t => { t with ferrs := ins t.ferrs line })) h
  h1.dieRequestEnds die line

/-- A core's N-NC read is answered FERR (R443): its load takes a machine check of class 0x04. -/
def Hw.ncFails (h : Hw) (die pcore line : Nat) : Hw :=
  ((h.threadsOn die pcore).foldl (fun (x : Hw) t => if (x.thread t).ncReads.any (fun e => e.1 == line) then
    x.onThread t (fun y => { y with ferrs := ins y.ferrs line }) else x) h).ncArrived die pcore line true

/-- A thread's access to a device or a register, or to memory of device type, is answered FERR (R443, R682): a read takes class 0x04, a write class 0x44. -/
def Hw.accessFails (h : Hw) (t : Nat) : Hw :=
  match (h.thread t).devOpen with
  | some w => if w.write then (if (paRange w.addr).isMem then h.devTrap t { code := 0x20, detail := 0x44, tval := BitVec.ofNat 64 w.addr } else h.devFail t 0x44)
              else h.devTrap t { code := 0x20, detail := 0x04, tval := w.cur.va }
  | none => h

/-- The thread of a core that waits for a device-type access of a line of memory. -/
def Hw.devThread (h : Hw) (die pcore line : Nat) : Option Nat :=
  (h.threadsOn die pcore).find? (fun t => match (h.thread t).devOpen with
    | some w => (paRange w.addr).isMem && lineOf w.addr == line
    | none => false)

/-- The request of a core that is answered FERR. -/
def Hw.coreFails (h : Hw) (die pcore : Nat) (r : RspSlot) : Hw :=
  match r.op with
  | .RDC => match h.devThread die pcore r.line with
    | some t => h.accessFails t
    | none => h.ncFails die pcore r.line
  | .WRF | .WRP => if (h.core (coreKey die pcore)).wcbs.any (fun w => w.sent && w.line == r.line) then h.wcAnswered (coreKey die pcore) r.line true
    else match h.devThread die pcore r.line with
      | some t => h.accessFails t
      | none => h
  | .REGRD | .REGWR | .POSTWR =>
    match (h.threadsOn die pcore).find? (fun t => match (h.thread t).devOpen with
      | some w => decide (w.addr = r.line)
      | none => false) with
    | some t => h.accessFails t
    | none => h
  | _ => h.coreReadFails die pcore r.line

/-- A posted write of a port that has failed leaves its order (R32, R443). -/
def Hw.portDrops (h : Hw) (n line : Nat) : Hw :=
  match takeFirst (openWrite line) (look [] h.pwr n) with
  | some (_, r) => ({ h with pwr := put h.pwr n r } : Hw).portCommits n
  | none => h

/-- An engine's store finds no ownership (R352, R443): its bytes are dropped, and the piece stops. -/
def Hw.engStoreFails (h : Hw) (n line : Nat) (p : PieceStop) : Hw :=
  let had := h.engPending n line
  let h1 := ({ h with esq := put h.esq n ((look [] h.esq n).filter (fun e => !(lineOf e.1 == line))) } : Hw).serveAgent (.eng n)
  if had then h1.stopRun n p else h1

/-- A request ends as FERR (R443): a read has poisoned data, anything else has failed. -/
def Hw.requestFails (h0 : Hw) (r : RspSlot) : Hw :=
  let h := h0.freeRsp r.src r.txid
  match r.agent with
  | .core d p => h.coreFails d p r
  | .eng n => if r.op == .RDC then h.engData n r.line true else h.engStoreFails n r.line { status := 2 }
  | .port n =>
    match r.op with
    | .RDC => h.portData n r.line true
    | .RDO => match takeFirst (fun (p : PAtomic) => lineOf p.addr == r.line) (look [] h.patom n) with
      | some (p, rest) => (({ h with patom := put h.patom n rest } : Hw).dmaCpl n { rid := p.rid, va := p.va, poison := true }).serveAgent (.port n)
      | none => h
    | _ => h.portDrops n r.line
  | .hub => h

/-- The stop that a request was sent to. -/
def RspSlot.target (r : RspSlot) : Nat :=
  match r.op with
  | .REGRD | .REGWR | .POSTWR => accessStop r.line
  | _ => homeOfLine r.line

/-- A flawed response ends every request that its destination holds toward its source (R443). -/
def Hw.flawedResponse (h : Hw) (m : Msg) : Hw :=
  let (src, dst) := m.ends
  (h.rsps.filter (fun r => decide (r.src = dst ∧ r.target = src))).foldl Hw.requestFails h

/-! Answers at a requester. -/

/-- An answer of a home reaches its requester: a flawed response ends what the requester holds toward that home (R443); data is taken, marked POISON where its check failed. -/
def replyCmd (op : MsgOp) (a : Agent) (line : Nat) (chk : Check) (take : Msg → Bool → Hw → Hw) (h : Hw) : Hw :=
  let p := h.pkt op a line (h.agentPart a) (h.secureLine line)
  match h.receive p chk with
  | .error h1 => h1
  | .ok (h1, bad) => if bad && decide (op.cls = 2) then h1.flawedResponse p.msg else take p.msg bad h1

/-- A grant reaches its requester (R265); data that failed its check is marked POISON there (R443). -/
def grantTaken (op : MsgOp) (m : Msg) (bad : Bool) (h : Hw) : Hw :=
  match m.agent with
  | .core d p => (if bad then h.onCDie d (fun c => { c with pzn := ins c.pzn m.addr }) else h).dieGranted op d p m.addr
  | .eng n =>
    let h1 := if bad then h.setPoison m.addr else h
    if op == .GNTE || op == .GNTO then h1.engGranted n m.addr else h1
  | .port n =>
    let h1 := if bad then h.setPoison m.addr else h
    if op == .GNTE || op == .GNTO then h1.portGranted n m.addr else h1
  | .hub => h

/-- GNT_E (R265). -/
def execGntE (a : AgentRef) (l : Line) (chk : Check) (s : State) : Host.Outcome State Fault Refusal :=
  s.onHw (replyCmd .GNTE (toAgent a) l.toNat chk (grantTaken .GNTE))

/-- GNT_S (R265). -/
def execGntS (a : AgentRef) (l : Line) (chk : Check) (s : State) : Host.Outcome State Fault Refusal :=
  s.onHw (replyCmd .GNTS (toAgent a) l.toNat chk (grantTaken .GNTS))

/-- GNT_F (R265). -/
def execGntF (a : AgentRef) (l : Line) (chk : Check) (s : State) : Host.Outcome State Fault Refusal :=
  s.onHw (replyCmd .GNTF (toAgent a) l.toNat chk (grantTaken .GNTF))

/-- GNT_O (R259). -/
def execGntO (a : AgentRef) (l : Line) (chk : Check) (s : State) : Host.Outcome State Fault Refusal :=
  s.onHw (replyCmd .GNTO (toAgent a) l.toNat chk (grantTaken .GNTO))

/-- The data of a provisional read reaches its core (R54, R55): entries whose loads have settled meanwhile send their settled read. -/
def Hw.provisionalData (h : Hw) (die pcore line : Nat) : Hw :=
  let key := coreKey die pcore
  let mine (f : FillEnt) : Bool := f.line == line && f.inFlight && !f.settled
  let h0 := if (h.core key).fills.any mine && h.poisoned (line <<< 6) then h.countDie die (dcSlice line) 0x010B (h.secureLine line) else h
  let h1 := h0.onCore key (fun c => { c with fills := mapIf mine (fun f => { f with inFlight := false }) c.fills })
  (((h1.core key).fills.filter (fun f => f.line == line && f.noticed && !f.settled)).foldl (fun (h : Hw) e => (h.settleOne { e with noticed := false }).1) h1).serveHeld die

/-- A port delivers the data of an engine's read to the engine of its die (R31). -/
def Hw.relayData (h : Hw) (m : Msg) (n : Nat) (bad : Bool) : Hw :=
  h.send { op := .DATA, addr := m.addr, agent := .eng (m.mask - 1), part := m.part, world := m.world, info := m.info, mask := n + 1, data := b2n bad, txid := m.txid }

/-- The data of an RDC or of a provisional read reaches its requester (R31, R54, R175, R259): no agent's state changes but the fill, the snapshot, the N-NC read or the device access that waited for it. -/
def dataTaken (m : Msg) (bad : Bool) (h : Hw) : Hw :=
  match m.agent, m.info with
  | .core d p, 1 => if bad then h.ncFails d p m.addr else h.ncArrived d p m.addr true
  | .core d p, 3 => if bad then (match h.devThread d p m.addr with
      | some t => h.accessFails t
      | none => h) else h.devAnswered d p m.addr false
  | .core d p, _ => if bad then (h.provisionalEnds (coreKey d p) m.addr true).serveHeld d else h.provisionalData d p m.addr
  | .port n, _ => if m.forEngine then h.relayData m n bad else h.portData n m.addr bad
  | .eng n, _ => h.engData n m.addr (bad || decide (m.data = 1))
  | .hub, _ => h

/-- DATA (R54, R175, R259). -/
def execData (a : AgentRef) (l : Line) (chk : Check) (s : State) : Host.Outcome State Fault Refusal :=
  s.onHw (replyCmd .DATA (toAgent a) l.toNat chk dataTaken)

/-- RDY (R263, R32). -/
def execRdy (a : AgentRef) (l : Line) (chk : Check) (s : State) : Host.Outcome State Fault Refusal :=
  s.onHw (replyCmd .RDY (toAgent a) l.toNat chk (fun m _ h => match m.agent with
    | .port n => h.portReady n m.addr
    | _ => h))

/-- DONE (R228, R263): the requester's transaction ends; a port's relaxed write leaves its order queue, and a write-combining buffer its core. -/
def execDone (a : AgentRef) (l : Line) (chk : Check) (s : State) : Host.Outcome State Fault Refusal :=
  s.onHw (replyCmd .DONE (toAgent a) l.toNat chk (fun m _ h => match m.agent, m.info with
    | .core d p, 3 => h.devAnswered d p m.addr false
    | .core d p, 2 => h.wcAnswered (coreKey d p) m.addr false
    | .port n, _ => h.portReady n m.addr
    | _, _ => h))

/-- A write-back entry is freed: the next write-back of the slice takes it, and the misses that waited ask again (R45, R46, R272). -/
def Hw.wbaArrives (h : Hw) (die line : Nat) : Hw :=
  let h1 := h.onCDie die (fun c => { c with wbb := rem c.wbb line })
  let h2 := match takeFirst (fun m => dcSlice m.addr == dcSlice line) (h1.cdie die).wbWait with
    | some (m, r) => if h1.wbFull die line then h1 else (h1.onCDie die (fun c => { c with wbWait := r, wbb := ins c.wbb m.addr })).send m
    | none => h1
  h2.unpark die

/-- WBA (R272). -/
def execWba (a : AgentRef) (l : Line) (chk : Check) (s : State) : Host.Outcome State Fault Refusal :=
  s.onHw (replyCmd .WBA (toAgent a) l.toNat chk (fun m _ h => match m.agent with
    | .core d _ => h.wbaArrives d m.addr
    | b => h.agWritten b m.addr))

/-- DFR (R54): the loads of the core that wait for the provisional read wait until they are settled. -/
def execDfr (t : Gtn) (l : Line) (chk : Check) (s : State) : Host.Outcome State Fault Refusal :=
  s.onHw (fun h =>
    let die := dieOfThread t.val
    let p := (h.pcoreOf t.val).getD 0
    replyCmd .DFR (.core die p) l.toNat chk (fun m _ h =>
      ((h.countDie die (dcSlice m.addr) 0x0107 (h.thread t.val).world).provisionalEnds (coreKey die p) m.addr true).serveHeld die) h)

/-- A refusal ends the request it answers (R62): the stores that waited for the line are discarded, as the home refused their ownership, and held snoops go on. -/
def Hw.refArrives (h : Hw) (a : Agent) (line : Nat) : Hw :=
  match a with
  | .core d p =>
    if (h.core (coreKey d p)).fills.any (fun f => f.line == line && f.inFlight && !f.settled) then (h.provisionalEnds (coreKey d p) line false).serveHeld d
    else h.dieRequestEnds d line
  | .port _ => h
  | .eng n =>
    let h1 : Hw := { h with run := mapIf (fun e => e.1 == n) (fun e => (e.1, { e.2 with want := e.2.want.filter (fun w => !(dirKey w.1 == dirKey line)) })) h.run }
    h1.engStoreFails n line { status := 1, detail := 0xF0 }
  | .hub => h

/-- A refusal of a request with a tag (R62, R228). -/
def Hw.refTagged (h : Hw) (a : Agent) (line tag : Nat) : Hw :=
  match a, tag with
  | .core d p, 1 => h.ncArrived d p line false
  | .core d p, 2 => h.wcAnswered (coreKey d p) line true
  | .core d p, 3 => h.devAnswered d p line true
  | .port n, k => (h.portRefused n line k).serveAgent (.port n)
  | _, _ => h.refArrives a line

/-- REF (R62, R228). -/
def execRef (a : AgentRef) (l : Line) (chk : Check) (s : State) : Host.Outcome State Fault Refusal :=
  s.onHw (replyCmd .REF (toAgent a) l.toNat chk (fun m _ h => h.refTagged m.agent m.addr m.info))

/-! STALE and FERR (R443, R453). -/

/-- What a requester still holds of a request, to send it again: a port's write from its answered packet's slot, a core's from its buffer. -/
def Hw.resendOf (h : Hw) (r : RspSlot) (part : Nat) : Msg :=
  let m : Msg := { op := r.op, addr := r.line, agent := r.agent, part := part }
  match r.agent, r.op with
  | .core d p, .WRF | .core d p, .WRP => match (h.core (coreKey d p)).wcbs.find? (fun w => w.sent && w.line == r.line) with
    | some w => { m with world := w.world, info := 2, data := w.payload.1, mask := w.payload.2 }
    | none => m
  | .port _, .RDC => { m with info := 4 }
  | .port _, .RDO => { m with info := 5 }
  | _, _ => m

/-- A request is answered STALE (R453): a port's and a unit's of the hub, which go on under the structure image in force, is sent again; a core's to memory as well. -/
def Hw.sendAgain (h : Hw) (op : MsgOp) (a : Agent) (line : Nat) : Hw :=
  match h.rsps.find? (fun r => r.agent == a && r.op == op && decide (r.line = line)) with
  | some r => (h.freeRsp r.src r.txid).send (h.resendOf r (h.agentPart a))
  | none => h.send { op := op, addr := line, agent := a, part := h.agentPart a }

/-- STALE (R276, R453): a snoop counts as ACK ABSENT; a request is sent again under the new structure image; a core's access is refused. -/
def execStale (p : StalePkt) (s : State) : Host.Outcome State Fault Refusal :=
  s.onHw (fun h => match p with
    | .snoop a l => (h.arrivedBy (fun m => m.op == .STALE && m.agent == toAgent a && decide (m.addr = l.toNat ∧ m.mask = 1))).homeAnswer (toAgent a) l.toNat true false false []
    | .request a l op => match opOf op.toNat with
      | some o =>
        let mine (m : Msg) : Bool := m.op == .STALE && m.agent == toAgent a && decide (m.addr = l.toNat ∧ m.mask = 0)
        ({ h with msgs := dropFirst mine h.msgs } : Hw).sendAgain o (toAgent a) l.toNat
      | none => h
    | .access t => (h.arrivedBy (fun m => m.op == .STALE && decide (m.info = t.val) && !m.ofHome)).accessStale t.val)

/-- The response slot that a FERR, or a watchdog, names: a thread's fill by the set of its address, its open access, or an agent's request for a line. -/
def Hw.ferrSlot (h : Hw) (r : FerrReq) : Option RspSlot :=
  match r with
  | .read t va => ((h.openFills t.val).find? (fun f => f.inFlight && f.vset == wbits va 12 6)).bind (fun f =>
      h.rsps.find? (fun s => decide (s.line = f.line) && s.agent.same (h.threadAgent t.val) && (s.op == .RDS || s.op == .RDP || s.op == .RDO || s.op == .UPG)))
  | .access t => (h.thread t.val).devOpen.bind (fun w =>
      h.rsps.find? (fun s => decide (s.line = (if (paRange w.addr).isMem then lineOf w.addr else w.addr)) && s.agent == h.threadAgent t.val))
  | .line a l => h.rsps.find? (fun s => s.agent == toAgent a && decide (s.line = l.toNat))
  | .snoop _ _ => none

/-- FERR (R443): the request that it answers fails; of a snoop, which counts as timed out. -/
def Hw.ferrArrives (h : Hw) (r : FerrReq) : Hw :=
  match r with
  | .snoop a l => (h.freeTok 2 (toAgent a) l.toNat).snoopTimedOut (toAgent a) l.toNat none
  | _ => match h.ferrSlot r with
    | none => h
    | some s =>
      let mine (m : Msg) : Bool := m.op == .FERR && decide (m.ends.2 = s.src ∧ m.txid = s.txid)
      ({ h with msgs := dropFirst mine h.msgs } : Hw).requestFails s

/-- FERR (R443): a commit that was answered so is sent again. -/
def execFerr (r : FerrReq) (s : State) : Host.Outcome State Fault Refusal :=
  s.onHw (fun h => match r with
    | .line (.port n) l =>
      let mine (m : Msg) : Bool := m.op == .FERR && m.agent == .port n.val && decide (m.addr = l.toNat ∧ m.mask = 1)
      if h.msgs.any mine then
        (({ h with msgs := dropFirst mine h.msgs } : Hw)).send { op := .CMT, addr := l.toNat, agent := .port n.val, part := h.agentPart (.port n.val) }
      else h.ferrArrives r
    | _ => h.ferrArrives r)

/-- The time of the requester watchdog of a die, in ns (R443). -/
def Hw.rspTmo (h : Hw) (die : Nat) : Nat := 1000000 * max 2100 (min 8000 (h.fld .DCTL_RSPTMO die 0 0 F.DCTL_RSPTMO_TMO_MS))

/-- REQUESTER_WATCHDOG (R443): a response slot that has been empty for TMO_MS completes its request as FERR. -/
def execRequesterWatchdog (r : FerrReq) (s : State) : Host.Outcome State Fault Refusal :=
  s.onHw (fun h => match h.ferrSlot r with
    | some s => if s.since + h.rspTmo (s.src / 128) ≤ h.now then h.requestFails s else h
    | none => h)

/-! Accesses at ports and register access ports (R228, R229, R434). -/

/-- The packet of a thread's access. -/
def Hw.accessPkt (h : Hw) (w : Who) (op : MsgOp) (pa : Nat) (v : W64) : Pkt :=
  match h.msgs.find? (fun m => m.op == op && decide (m.addr = pa ∧ m.info = w.thread.val)) with
  | some m => ⟨m, true⟩
  | none => ⟨{ op := op, addr := pa, agent := h.threadAgent w.thread.val, part := w.part.val, world := w.world, info := w.thread.val, data := v.toNat }, false⟩

/-- A thread's access arrives: the edge of a domain that is not open answers ASLEEP (R449), a stale packet STALE (R453), one whose check failed FERR (R443); its slot is freed when it has been taken. -/
def accessCmd (op : MsgOp) (w : Who) (pa : Nat) (v : W64) (chk : Check) (take : Hw → Hw) (h : Hw) : Hw :=
  let p := h.accessPkt w op pa v
  match h.receive p chk with
  | .error h1 => h1
  | .ok (h1, bad) =>
    let m := p.msg
    match h1.edgeOf m with
    | some d => h1.edgeAnswer m d.1 d.2
    | none =>
      let answer (o : MsgOp) : Hw := h1.send { op := o, addr := pa, agent := m.agent, part := m.part, world := m.world, info := m.info, txid := m.txid }
      (if p.waits && h1.isStale m.ends.2 m.epoch then answer .STALE else if bad then answer .FERR else take h1).freeTok 0 m.agent pa

/-- MMIO_POSTED_WRITE (R229). -/
def execMmioPostedWrite (who : Who) (pa : BitVec 52) (size : BitVec 2) (v : W64) (chk : Check) (s : State) : Host.Outcome State Fault Refusal :=
  s.onHw (fun h => if paRange pa.toNat = .mmio then
    accessCmd .POSTWR who pa.toNat v chk (fun h => h.postedArrives who pa.toNat (2 ^ size.toNat) v) h else h)

/-- REGISTER_READ_REQUEST (R434): a read of the register window is answered; a read of a port goes to the port (R178, R228); no register access port lies elsewhere. -/
def execRegisterReadRequest (who : Who) (pa : BitVec 52) (size : BitVec 2) (chk : Check) (s : State) : Host.Outcome State Fault Refusal :=
  s.onHw (fun h =>
    if paRange pa.toNat = .window then
      accessCmd .REGRD who pa.toNat 0 chk (fun h => let (h1, r) := h.winRead who pa.toNat (2 ^ size.toNat); h1.regReply who pa.toNat r) h
    else if paRange pa.toNat = .mmio then accessCmd .REGRD who pa.toNat 0 chk (fun h => h.mmioArrives who pa.toNat (2 ^ size.toNat) false 0) h else h)

/-- REGISTER_WRITE_REQUEST (R434): as REGISTER_READ_REQUEST, for a D-S store. -/
def execRegisterWriteRequest (who : Who) (pa : BitVec 52) (size : BitVec 2) (v : W64) (chk : Check) (s : State) :
    Host.Outcome State Fault Refusal :=
  s.onHw (fun h =>
    if paRange pa.toNat = .window then
      accessCmd .REGWR who pa.toNat v chk (fun h => (h.winWrite who pa.toNat (2 ^ size.toNat) v).regReply who pa.toNat (.ok 0)) h
    else if paRange pa.toNat = .mmio then accessCmd .REGWR who pa.toNat v chk (fun h => h.mmioArrives who pa.toNat (2 ^ size.toNat) true v) h else h)

/-- The packet that answers a thread's access. -/
def Hw.accessAnswer (h : Hw) (op : MsgOp) (t : Nat) (w : DevWait) : Pkt :=
  match h.msgs.find? (fun m => m.op == op && m.agent == h.threadAgent t && decide (m.addr = w.addr)) with
  | some m => ⟨m, true⟩
  | none => ⟨{ op := op, addr := w.addr, agent := h.threadAgent t, part := h.partOf t, txid := h.rspOf (h.threadAgent t) w.addr }, false⟩

/-- The answer to a thread's access reaches it, through its response slot (R433): a flawed one ends what the core holds toward the port (R443). -/
def accessReply (op : MsgOp) (t : Nat) (w : DevWait) (chk : Check) (take : Hw → Hw) (h : Hw) : Hw :=
  let p := h.accessAnswer op t w
  match h.receive p chk with
  | .error h1 => h1
  | .ok (h1, bad) => if bad then h1.flawedResponse p.msg else take (h1.freeRsp p.msg.ends.2 p.msg.txid)

/-- REGISTER_COMPLETION (R228, R232): a configuration access that completes with Unsupported Request reads all ones, or is discarded. -/
def execRegisterCompletion (t : Gtn) (data : W64) (cpl : DevCpl) (chk : Check) (s : State) : Host.Outcome State Fault Refusal :=
  s.onHw (fun h =>
    match (h.thread t.val).devOpen with
    | none => h
    | some w =>
      if w.posted || !w.atPort w.port || h.devFlying t.val w then h
      else (accessReply .REGCPL t.val w chk (fun h => match cpl with
        | .ok => h.devDone t.val data.toNat
        | .ur => if isConfig w.addr then h.devDone t.val (2 ^ 64 - 1) else h.devFail t.val 0x41
        | .ca => h.devFail t.val 0x42
        | .poisoned => h.devFail t.val 0x43) h).portPump w.port)

/-- POSTED_ACKNOWLEDGEMENT (R229): the D-P store retires. -/
def execPostedAcknowledgement (t : Gtn) (chk : Check) (s : State) : Host.Outcome State Fault Refusal :=
  s.onHw (fun h =>
    match (h.thread t.val).devOpen with
    | none => h
    | some w =>
      if !w.posted || h.devFlying t.val w then h
      else accessReply .POSTACK t.val w chk (fun h =>
        let q := (look [] h.dpq w.port).map (fun e => if e.thread = t.val ∧ e.addr = w.addr then { e with acked := true } else e)
        let h1 := h.devDone t.val 0
        if q.isEmpty then h1 else { h1 with dpq := put h1.dpq w.port q }) h)

end Sys2Proof.Machine
end

