-- ==== Sys2Proof/Machine/Dispatch.lean ====
section
/-! DEFINITION. One arm per command: the meaning of each row of spec/opcode_table.json. -/

namespace Sys2Proof.Machine

/-- The effect of a command on everything but the queue (spec/opcode_table.json). -/
def exec (i : Instr) (s : State) : Host.Outcome State Fault Refusal :=
  match i with
  | .registerWrite who pa half v => Sys2Proof.Machine.execRegisterWrite who pa half v s
  | .coldReset => Sys2Proof.Machine.execColdReset s
  | .packageWarmReset => Sys2Proof.Machine.execPackageWarmReset s
  | .partitionReset p => Sys2Proof.Machine.execPartitionReset p s
  | .dieReset die => Sys2Proof.Machine.execDieReset die s
  | .coreReset die pcore => Sys2Proof.Machine.execCoreReset die pcore s
  | .integerAlu t d a b func => Sys2Proof.Machine.execIntegerAlu t d a b func s
  | .addi t d a imm => Sys2Proof.Machine.execAddi t d a imm s
  | .andi t d a imm => Sys2Proof.Machine.execAndi t d a imm s
  | .ori t d a imm => Sys2Proof.Machine.execOri t d a imm s
  | .xori t d a imm => Sys2Proof.Machine.execXori t d a imm s
  | .lui t d a imm => Sys2Proof.Machine.execLui t d a imm s
  | .shiftImmediate t d a imm => Sys2Proof.Machine.execShiftImmediate t d a imm s
  | .pfx t ext next settled mispredicted => Sys2Proof.Machine.execPfx t ext next settled mispredicted s
  | .load t k d a imm settled => Sys2Proof.Machine.execLoad t k d a imm settled s
  | .store t k d a imm => Sys2Proof.Machine.execStore t k d a imm s
  | .branch t c a b off mispredicted => Sys2Proof.Machine.execBranch t c a b off mispredicted s
  | .jal t off mispredicted => Sys2Proof.Machine.execJal t off mispredicted s
  | .jalr t d a imm mispredicted => Sys2Proof.Machine.execJalr t d a imm mispredicted s
  | .vectorAlu t v func => Sys2Proof.Machine.execVectorAlu t v func s
  | .vectorFp t v func => Sys2Proof.Machine.execVectorFp t v func s
  | .vld t v settled => Sys2Proof.Machine.execVld t v settled s
  | .vst t v => Sys2Proof.Machine.execVst t v s
  | .pcomp t v func => Sys2Proof.Machine.execPcomp t v func s
  | .vgather t v scale chunks => Sys2Proof.Machine.execVgather t v scale chunks s
  | .vscatter t v scale chunks => Sys2Proof.Machine.execVscatter t v scale chunks s
  | .vcompress t v => Sys2Proof.Machine.execVcompress t v s
  | .vexpand t v => Sys2Proof.Machine.execVexpand t v s
  | .vbcast t v => Sys2Proof.Machine.execVbcast t v s
  | .vextract t v => Sys2Proof.Machine.execVextract t v s
  | .vinsert t v => Sys2Proof.Machine.execVinsert t v s
  | .pand t d a b => Sys2Proof.Machine.execPand t d a b s
  | .por t d a b => Sys2Proof.Machine.execPor t d a b s
  | .pxor t d a b => Sys2Proof.Machine.execPxor t d a b s
  | .pnot t d a b => Sys2Proof.Machine.execPnot t d a b s
  | .fadd t d a b fmt => Sys2Proof.Machine.execFadd t d a b fmt s
  | .fsub t d a b fmt => Sys2Proof.Machine.execFsub t d a b fmt s
  | .fmul t d a b fmt => Sys2Proof.Machine.execFmul t d a b fmt s
  | .fdiv t d a b fmt => Sys2Proof.Machine.execFdiv t d a b fmt s
  | .fsqrt t d a b fmt => Sys2Proof.Machine.execFsqrt t d a b fmt s
  | .fma t d a b fmt => Sys2Proof.Machine.execFma t d a b fmt s
  | .fmin t d a b fmt => Sys2Proof.Machine.execFmin t d a b fmt s
  | .fmax t d a b fmt => Sys2Proof.Machine.execFmax t d a b fmt s
  | .fcmp t d a b fmt k => Sys2Proof.Machine.execFcmp t d a b fmt k s
  | .fcvt t d a b fmt k => Sys2Proof.Machine.execFcvt t d a b fmt k s
  | .lres t d a b wide => Sys2Proof.Machine.execLres t d a b wide s
  | .scond t d a b wide spurious => Sys2Proof.Machine.execScond t d a b wide spurious s
  | .lresHoldExpire t => Sys2Proof.Machine.execLresHoldExpire t s
  | .crc32c t d a b size => Sys2Proof.Machine.execCrc32c t d a b size s
  | .par t d a b => Sys2Proof.Machine.execPar t d a b s
  | .popc t d a b => Sys2Proof.Machine.execPopc t d a b s
  | .brev8 t d a b => Sys2Proof.Machine.execBrev8 t d a b s
  | .brev64 t d a b => Sys2Proof.Machine.execBrev64 t d a b s
  | .clz t d a b => Sys2Proof.Machine.execClz t d a b s
  | .ctz t d a b => Sys2Proof.Machine.execCtz t d a b s
  | .bmove t d a b chunks => Sys2Proof.Machine.execBmove t d a b chunks s
  | .bfill t d a b chunks => Sys2Proof.Machine.execBfill t d a b chunks s
  | .bcrc t d a b chunks => Sys2Proof.Machine.execBcrc t d a b chunks s
  | .fenceC t p q zero => Sys2Proof.Machine.execFenceC t p q zero s
  | .fenceD t p q zero => Sys2Proof.Machine.execFenceD t p q zero s
  | .fenceS t p q zero => Sys2Proof.Machine.execFenceS t p q zero s
  | .wcBufferTimeout t line => Sys2Proof.Machine.execWcBufferTimeout t line s
  | .crrd t d a crn => Sys2Proof.Machine.execCrrd t d a crn s
  | .crwr t d a crn => Sys2Proof.Machine.execCrwr t d a crn s
  | .crset t d a crn => Sys2Proof.Machine.execCrset t d a crn s
  | .crclr t d a crn => Sys2Proof.Machine.execCrclr t d a crn s
  | .trap t d a code => Sys2Proof.Machine.execTrap t d a code s
  | .trapEntry t word => Sys2Proof.Machine.execTrapEntry t word s
  | .tret t d a crn => Sys2Proof.Machine.execTret t d a crn s
  | .gate t d a crn => Sys2Proof.Machine.execGate t d a crn s
  | .gmark t d a crn => Sys2Proof.Machine.execGmark t d a crn s
  | .gret t d a crn => Sys2Proof.Machine.execGret t d a crn s
  | .wait t d a crn => Sys2Proof.Machine.execWait t d a crn s
  | .waitWake t => Sys2Proof.Machine.execWaitWake t s
  | .dustSheetThreadWake t => Sys2Proof.Machine.execDustSheetThreadWake t s
  | .tlbiVA t d a scope hi => Sys2Proof.Machine.execTlbiVA t d a scope hi s
  | .tlbiVAALL t d a scope hi => Sys2Proof.Machine.execTlbiVAALL t d a scope hi s
  | .tlbiASID t d a scope hi => Sys2Proof.Machine.execTlbiASID t d a scope hi s
  | .tlbiREGIME t d a scope hi => Sys2Proof.Machine.execTlbiREGIME t d a scope hi s
  | .tlbiIA t d a scope hi => Sys2Proof.Machine.execTlbiIA t d a scope hi s
  | .tlbiVMID t d a scope hi => Sys2Proof.Machine.execTlbiVMID t d a scope hi s
  | .tlbiPART t d a scope hi => Sys2Proof.Machine.execTlbiPART t d a scope hi s
  | .instructionRetire t line fetch pc => Sys2Proof.Machine.execInstructionRetire t line fetch pc s
  | .loadSettles t line => Sys2Proof.Machine.execLoadSettles t line s
  | .cacheDisableRequest who die core v => Sys2Proof.Machine.execCacheDisableRequest who die core v s
  | .cacheCleanDone die core => Sys2Proof.Machine.execCacheCleanDone die core s
  | .migrateStart who die v => Sys2Proof.Machine.execMigrateStart who die v s
  | .migrationSourceCleaned die => Sys2Proof.Machine.execMigrationSourceCleaned die s
  | .migrationDone die => Sys2Proof.Machine.execMigrationDone die s
  | .deviceTimeout port t => Sys2Proof.Machine.execDeviceTimeout port t s
  | .dpStoreErrorMessage port t => Sys2Proof.Machine.execDpStoreErrorMessage port t s
  | .portLinkDown port => Sys2Proof.Machine.execPortLinkDown port s
  | .rds a l part world chk => Sys2Proof.Machine.execRds a l part world chk s
  | .rdo a l part world chk => Sys2Proof.Machine.execRdo a l part world chk s
  | .upg a l part world chk => Sys2Proof.Machine.execUpg a l part world chk s
  | .own a l part world chk => Sys2Proof.Machine.execOwn a l part world chk s
  | .rdc a l part world chk => Sys2Proof.Machine.execRdc a l part world chk s
  | .rdp a l part world chk => Sys2Proof.Machine.execRdp a l part world chk s
  | .stn a l part world chk => Sys2Proof.Machine.execStn a l part world chk s
  | .wrf a l part world relaxed data chk => Sys2Proof.Machine.execWrf a l part world relaxed data chk s
  | .wrp a l part world relaxed mask data chk => Sys2Proof.Machine.execWrp a l part world relaxed mask data chk s
  | .cmt a l chk => Sys2Proof.Machine.execCmt a l chk s
  | .wb a l part world chk => Sys2Proof.Machine.execWb a l part world chk s
  | .evc a l part world chk => Sys2Proof.Machine.execEvc a l part world chk s
  | .evf a l part world chk => Sys2Proof.Machine.execEvf a l part world chk s
  | .directoryWritebackDrain l => Sys2Proof.Machine.execDirectoryWritebackDrain l s
  | .rcs a l part world chk => Sys2Proof.Machine.execRcs a l part world chk s
  | .rci a l part world chk => Sys2Proof.Machine.execRci a l part world chk s
  | .rcc a l part world chk => Sys2Proof.Machine.execRcc a l part world chk s
  | .inv a l part world chk => Sys2Proof.Machine.execInv a l part world chk s
  | .prb a l part world chk => Sys2Proof.Machine.execPrb a l part world chk s
  | .fap a l part world chk => Sys2Proof.Machine.execFap a l part world chk s
  | .ack a l absent wbpend present chk => Sys2Proof.Machine.execAck a l absent wbpend present chk s
  | .ackf a l chk => Sys2Proof.Machine.execAckf a l chk s
  | .rcd a l lines chk => Sys2Proof.Machine.execRcd a l lines chk s
  | .gntE a l chk => Sys2Proof.Machine.execGntE a l chk s
  | .gntS a l chk => Sys2Proof.Machine.execGntS a l chk s
  | .gntF a l chk => Sys2Proof.Machine.execGntF a l chk s
  | .data a l chk => Sys2Proof.Machine.execData a l chk s
  | .gntO a l chk => Sys2Proof.Machine.execGntO a l chk s
  | .rdy a l chk => Sys2Proof.Machine.execRdy a l chk s
  | .done a l chk => Sys2Proof.Machine.execDone a l chk s
  | .wba a l chk => Sys2Proof.Machine.execWba a l chk s
  | .dfr t l chk => Sys2Proof.Machine.execDfr t l chk s
  | .ref a l chk => Sys2Proof.Machine.execRef a l chk s
  | .snoopTimeout a l => Sys2Proof.Machine.execSnoopTimeout a l s
  | .poisonEntryHoldExpire l => Sys2Proof.Machine.execPoisonEntryHoldExpire l s
  | .agentFence who engines v => Sys2Proof.Machine.execAgentFence who engines v s
  | .isetBWrite who nn half v => Sys2Proof.Machine.execIsetBWrite who nn half v s
  | .isetAWrite who nn half v => Sys2Proof.Machine.execIsetAWrite who nn half v s
  | .isetApply nn => Sys2Proof.Machine.execIsetApply nn s
  | .rcQuotaApply slice p => Sys2Proof.Machine.execRcQuotaApply slice p s
  | .rcScrubRead l err => Sys2Proof.Machine.execRcScrubRead l err s
  | .cxlReadTimeout l => Sys2Proof.Machine.execCxlReadTimeout l s
  | .memInitGibDone gib => Sys2Proof.Machine.execMemInitGibDone gib s
  | .hotsnapCopy who nn v => Sys2Proof.Machine.execHotsnapCopy who nn v s
  | .hotsnapCopyClear who nn v => Sys2Proof.Machine.execHotsnapCopyClear who nn v s
  | .hotsnapCopyHalve who nn v => Sys2Proof.Machine.execHotsnapCopyHalve who nn v s
  | .hotsnapDone nn => Sys2Proof.Machine.execHotsnapDone nn s
  | .patrolScrubRead l out => Sys2Proof.Machine.execPatrolScrubRead l out s
  | .correctiveRewrite l => Sys2Proof.Machine.execCorrectiveRewrite l s
  | .directorySweepStart who ch v => Sys2Proof.Machine.execDirectorySweepStart who ch v s
  | .directorySweepDone ch => Sys2Proof.Machine.execDirectorySweepDone ch s
  | .rankSpareStart who ch v => Sys2Proof.Machine.execRankSpareStart who ch v s
  | .rankSpareDone ch => Sys2Proof.Machine.execRankSpareDone ch s
  | .channelFail ch => Sys2Proof.Machine.execChannelFail ch s
  | .doorbell who q half v => Sys2Proof.Machine.execDoorbell who q half v s
  | .queueBaseApply q => Sys2Proof.Machine.execQueueBaseApply q s
  | .descriptorRead => Sys2Proof.Machine.execDescriptorRead s
  | .jobSteer slot => Sys2Proof.Machine.execJobSteer slot s
  | .pieceStart n => Sys2Proof.Machine.execPieceStart n s
  | .pieceEnd n word => Sys2Proof.Machine.execPieceEnd n word s
  | .appendChunkRequest n => Sys2Proof.Machine.execAppendChunkRequest n s
  | .completionWrite slot => Sys2Proof.Machine.execCompletionWrite slot s
  | .jobTimeout slot => Sys2Proof.Machine.execJobTimeout slot s
  | .elcGroupPowerRequest who n v => Sys2Proof.Machine.execElcGroupPowerRequest who n v s
  | .elcGroupCleanDone n g => Sys2Proof.Machine.execElcGroupCleanDone n g s
  | .spBankPowerChange who n v => Sys2Proof.Machine.execSpBankPowerChange who n v s
  | .scratchpadZeroDone n bank => Sys2Proof.Machine.execScratchpadZeroDone n bank s
  | .hostScratchpadAccess who n off half write v => Sys2Proof.Machine.execHostScratchpadAccess who n off half write v s
  | .skimAlu n d a b func => Sys2Proof.Machine.execSkimAlu n d a b func s
  | .skimAddi n d a imm => Sys2Proof.Machine.execSkimAddi n d a imm s
  | .skimLogicImmediate n op d a imm => Sys2Proof.Machine.execSkimLogicImmediate n op d a imm s
  | .lis n d a imm => Sys2Proof.Machine.execLis n d a imm s
  | .skimShiftImmediate n d a imm => Sys2Proof.Machine.execSkimShiftImmediate n d a imm s
  | .loop n z lvl a off => Sys2Proof.Machine.execLoop n z lvl a off s
  | .skimLoad n k d a imm => Sys2Proof.Machine.execSkimLoad n k d a imm s
  | .skimStore n k d a imm => Sys2Proof.Machine.execSkimStore n k d a imm s
  | .skimVld n d a b off => Sys2Proof.Machine.execSkimVld n d a b off s
  | .skimVst n d a b off => Sys2Proof.Machine.execSkimVst n d a b off s
  | .skimVectorAlu n f func => Sys2Proof.Machine.execSkimVectorAlu n f func s
  | .skimVectorShift n f func => Sys2Proof.Machine.execSkimVectorShift n f func s
  | .vcmp n f func => Sys2Proof.Machine.execVcmp n f func s
  | .vcmps n f func => Sys2Proof.Machine.execVcmps n f func s
  | .vcprs n f => Sys2Proof.Machine.execVcprs n f s
  | .skimVbcast n f => Sys2Proof.Machine.execSkimVbcast n f s
  | .vext n f => Sys2Proof.Machine.execVext n f s
  | .vins n f => Sys2Proof.Machine.execVins n f s
  | .vhmix n f => Sys2Proof.Machine.execVhmix n f s
  | .vcrc32c n f => Sys2Proof.Machine.execVcrc32c n f s
  | .dlook n f => Sys2Proof.Machine.execDlook n f s
  | .skimCrc32c n d a b size => Sys2Proof.Machine.execSkimCrc32c n d a b size s
  | .crcp n d a b size => Sys2Proof.Machine.execCrcp n d a b size s
  | .skimBitHelper n d a b func => Sys2Proof.Machine.execSkimBitHelper n d a b func s
  | .hmix n d a b => Sys2Proof.Machine.execHmix n d a b s
  | .srd n d sr => Sys2Proof.Machine.execSrd n d sr s
  | .swr n sr a => Sys2Proof.Machine.execSwr n sr a s
  | .sadv n a imm => Sys2Proof.Machine.execSadv n a imm s
  | .emitv n a imm => Sys2Proof.Machine.execEmitv n a imm s
  | .emitm n a b => Sys2Proof.Machine.execEmitm n a b s
  | .pref n a => Sys2Proof.Machine.execPref n a s
  | .plock n a => Sys2Proof.Machine.execPlock n a s
  | .skimBranch n c a b an off => Sys2Proof.Machine.execSkimBranch n c a b an off s
  | .skimJal n d off => Sys2Proof.Machine.execSkimJal n d off s
  | .skimJalr n d a => Sys2Proof.Machine.execSkimJalr n d a s
  | .skEnd n => Sys2Proof.Machine.execSkEnd n s
  | .cMv n d a => Sys2Proof.Machine.execCMv n d a s
  | .cAlu n op d a => Sys2Proof.Machine.execCAlu n op d a s
  | .cSadv n d a => Sys2Proof.Machine.execCSadv n d a s
  | .cNop n a => Sys2Proof.Machine.execCNop n a s
  | .cEnd n a => Sys2Proof.Machine.execCEnd n a s
  | .cAddi n d imm => Sys2Proof.Machine.execCAddi n d imm s
  | .cSetbank n z bank => Sys2Proof.Machine.execCSetbank n z bank s
  | .cBeqz n a an off => Sys2Proof.Machine.execCBeqz n a an off s
  | .cBnez n a an off => Sys2Proof.Machine.execCBnez n a an off s
  | .halt who n => Sys2Proof.Machine.execHalt who n s
  | .resume who n => Sys2Proof.Machine.execResume who n s
  | .step who n => Sys2Proof.Machine.execStep who n s
  | .breakpointHalt n => Sys2Proof.Machine.execBreakpointHalt n s
  | .debugPortHalt n => Sys2Proof.Machine.execDebugPortHalt n s
  | .registerReadRequest who pa size chk => Sys2Proof.Machine.execRegisterReadRequest who pa size chk s
  | .registerWriteRequest who pa size v chk => Sys2Proof.Machine.execRegisterWriteRequest who pa size v chk s
  | .mmioPostedWrite who pa size v chk => Sys2Proof.Machine.execMmioPostedWrite who pa size v chk s
  | .registerCompletion t data cpl chk => Sys2Proof.Machine.execRegisterCompletion t data cpl chk s
  | .postedAcknowledgement t chk => Sys2Proof.Machine.execPostedAcknowledgement t chk s
  | .eventMessage t => Sys2Proof.Machine.execEventMessage t s
  | .treq dst src wb => Sys2Proof.Machine.execTreq dst src wb s
  | .tgnt dst src wb slot back => Sys2Proof.Machine.execTgnt dst src wb slot back s
  | .epochUpdate die stop => Sys2Proof.Machine.execEpochUpdate die stop s
  | .openEdge dst src => Sys2Proof.Machine.execOpenEdge dst src s
  | .asleep dst src op l waking => Sys2Proof.Machine.execAsleep dst src op l waking s
  | .stale p => Sys2Proof.Machine.execStale p s
  | .ferr r => Sys2Proof.Machine.execFerr r s
  | .requesterWatchdog r => Sys2Proof.Machine.execRequesterWatchdog r s
  | .roleChange stop => Sys2Proof.Machine.execRoleChange stop s
  | .domainClosing die dom st => Sys2Proof.Machine.execDomainClosing die dom st s
  | .torusFrame f => Sys2Proof.Machine.execTorusFrame f s
  | .torusAcknowledgement src dst seq => Sys2Proof.Machine.execTorusAcknowledgement src dst seq s
  | .torusResendTimeout src dst seq => Sys2Proof.Machine.execTorusResendTimeout src dst seq s
  | .assign hp id hpArg echo => Sys2Proof.Machine.execAssign hp id hpArg echo s
  | .rmap hp toHub group dir fail0 fail1 => Sys2Proof.Machine.execRmap hp toHub group dir fail0 fail1 s
  | .repair hp toHub group pos seq echo late => Sys2Proof.Machine.execRepair hp toHub group pos seq echo late s
  | .sleepLink hp toHub mode ack => Sys2Proof.Machine.execSleepLink hp toHub mode ack s
  | .retrain hp full => Sys2Proof.Machine.execRetrain hp full s
  | .linkTrainingDone hp e => Sys2Proof.Machine.execLinkTrainingDone hp e s
  | .heartbeatLoss hp atHub => Sys2Proof.Machine.execHeartbeatLoss hp atHub s
  | .scrimWakeToggle hp => Sys2Proof.Machine.execScrimWakeToggle hp s
  | .scrimRecalPass hp atHub closed => Sys2Proof.Machine.execScrimRecalPass hp atHub closed s
  | .lathEnvelope n p lseq f crc16Ok => Sys2Proof.Machine.execLathEnvelope n p lseq f crc16Ok s
  | .lathReplayTimeout n p => Sys2Proof.Machine.execLathReplayTimeout n p s
  | .lathHandshake n p own peer coord inTime => Sys2Proof.Machine.execLathHandshake n p own peer coord inTime s
  | .laneSleepEntry n p => Sys2Proof.Machine.execLaneSleepEntry n p s
  | .linkChirp n p => Sys2Proof.Machine.execLinkChirp n p s
  | .dieChirp n p => Sys2Proof.Machine.execDieChirp n p s
  | .lathRetrain who n p => Sys2Proof.Machine.execLathRetrain who n p s
  | .unhold who n p => Sys2Proof.Machine.execUnhold who n p s
  | .lathReequalise n p lane done => Sys2Proof.Machine.execLathReequalise n p lane done s
  | .cfgLoad who => Sys2Proof.Machine.execCfgLoad who s
  | .cfgLoadDone => Sys2Proof.Machine.execCfgLoadDone s
  | .cfgApply who => Sys2Proof.Machine.execCfgApply who s
  | .cfgRollback who => Sys2Proof.Machine.execCfgRollback who s
  | .cfgAbort who => Sys2Proof.Machine.execCfgAbort who s
  | .stagedSectionApply type => Sys2Proof.Machine.execStagedSectionApply type s
  | .applyTimeout => Sys2Proof.Machine.execApplyTimeout s
  | .cfgConfirm who half v => Sys2Proof.Machine.execCfgConfirm who half v s
  | .confirmWindowExpire => Sys2Proof.Machine.execConfirmWindowExpire s
  | .rollbackDone => Sys2Proof.Machine.execRollbackDone s
  | .explicitApply who half v => Sys2Proof.Machine.execExplicitApply who half v s
  | .dieLeavesPartition die => Sys2Proof.Machine.execDieLeavesPartition die s
  | .gibOwnerChange gib => Sys2Proof.Machine.execGibOwnerChange gib s
  | .gibReleaseSweepDone gib => Sys2Proof.Machine.execGibReleaseSweepDone gib s
  | .domainStateRequest who die dom half v => Sys2Proof.Machine.execDomainStateRequest who die dom half v s
  | .domainTransitionDone die dom => Sys2Proof.Machine.execDomainTransitionDone die dom s
  | .domainIdleTimeout die dom => Sys2Proof.Machine.execDomainIdleTimeout die dom s
  | .domainWake die dom src detail => Sys2Proof.Machine.execDomainWake die dom src detail s
  | .dieWakeFromDustSheet die => Sys2Proof.Machine.execDieWakeFromDustSheet die s
  | .edgeRelease who half v => Sys2Proof.Machine.execEdgeRelease who half v s
  | .aoTimerFire die => Sys2Proof.Machine.execAoTimerFire die s
  | .sheldSet who die dom => Sys2Proof.Machine.execSheldSet who die dom s
  | .deepIdleEnter low => Sys2Proof.Machine.execDeepIdleEnter low s
  | .deepIdleExit src detail => Sys2Proof.Machine.execDeepIdleExit src detail s
  | .stageCurrentSample die permille => Sys2Proof.Machine.execStageCurrentSample die permille s
  | .vinSample dv => Sys2Proof.Machine.execVinSample dv s
  | .supplyRestored => Sys2Proof.Machine.execSupplyRestored s
  | .budgetTick nowW budgets => Sys2Proof.Machine.execBudgetTick nowW budgets s
  | .fceilUpdate die cluster f => Sys2Proof.Machine.execFceilUpdate die cluster f s
  | .clusterFrequencyStep die cluster => Sys2Proof.Machine.execClusterFrequencyStep die cluster s
  | .thermalControlTick die tmax sensor cluster => Sys2Proof.Machine.execThermalControlTick die tmax sensor cluster s
  | .fastThrottle die tmax sensor => Sys2Proof.Machine.execFastThrottle die tmax sensor s
  | .thermalTrip die tmax sensor => Sys2Proof.Machine.execThermalTrip die tmax sensor s
  | .secureWatchdog t => Sys2Proof.Machine.execSecureWatchdog t s
  | .activationEndArm who die pcore v => Sys2Proof.Machine.execActivationEndArm who die pcore v s
  | .secureStateWrite who p half v => Sys2Proof.Machine.execSecureStateWrite who p half v s
  | .markSecure who p gib => Sys2Proof.Machine.execMarkSecure who p gib s
  | .unmarkSecure who p gib => Sys2Proof.Machine.execUnmarkSecure who p gib s
  | .secureEngineReserve who half v => Sys2Proof.Machine.execSecureEngineReserve who half v s
  | .primerStart bad => Sys2Proof.Machine.execPrimerStart bad s
  | .sizingLoaderStart disc mem => Sys2Proof.Machine.execSizingLoaderStart disc mem s
  | .bootRestart reason => Sys2Proof.Machine.execBootRestart reason s
  | .bootThreadRelease p => Sys2Proof.Machine.execBootThreadRelease p s
  | .floorRaise who v => Sys2Proof.Machine.execFloorRaise who v s
  | .keyRevoke who v => Sys2Proof.Machine.execKeyRevoke who v s
  | .flashErase who slot foff => Sys2Proof.Machine.execFlashErase who slot foff s
  | .flashProgram who slot foff => Sys2Proof.Machine.execFlashProgram who slot foff s
  | .flashRead who slot foff => Sys2Proof.Machine.execFlashRead who slot foff s
  | .mregExtend who v => Sys2Proof.Machine.execMregExtend who v s
  | .flashOpDone err => Sys2Proof.Machine.execFlashOpDone err s
  | .fuseBurnDone floor => Sys2Proof.Machine.execFuseBurnDone floor s
  | .meterSample s0 => Sys2Proof.Machine.execMeterSample s0 s
  | .intervalClose => Sys2Proof.Machine.execIntervalClose s
  | .owner die o => Sys2Proof.Machine.execOwner die o s
  | .ownerResend => Sys2Proof.Machine.execOwnerResend s
  | .traffic => Sys2Proof.Machine.execTraffic s
  | .trafficLate => Sys2Proof.Machine.execTrafficLate s
  | .meterSupplyLoss => Sys2Proof.Machine.execMeterSupplyLoss s
  | .meterSupplyRestore ms => Sys2Proof.Machine.execMeterSupplyRestore ms s
  | .sealOpen => Sys2Proof.Machine.execSealOpen s
  | .sealClose => Sys2Proof.Machine.execSealClose s
  | .ident => Sys2Proof.Machine.execIdent s
  | .getrec rseq => Sys2Proof.Machine.execGetrec rseq s
  | .getlatest => Sys2Proof.Machine.execGetlatest s
  | .getlog ix => Sys2Proof.Machine.execGetlog ix s
  | .sync adj => Sys2Proof.Machine.execSync adj s
  | .calwrite data => Sys2Proof.Machine.execCalwrite data s
  | .fwload off data => Sys2Proof.Machine.execFwload off data s
  | .fwcommit version manifest => Sys2Proof.Machine.execFwcommit version manifest s
  | .setaddr addr => Sys2Proof.Machine.execSetaddr addr s
  | .verify id => Sys2Proof.Machine.execVerify id s
  | .meterRecordDelivery => Sys2Proof.Machine.execMeterRecordDelivery s
  | .mtrxIdent who => Sys2Proof.Machine.execMtrxIdent who s
  | .resend who rseq => Sys2Proof.Machine.execResend who rseq s
  | .timemark who => Sys2Proof.Machine.execTimemark who s
  | .eventRaise svc => Sys2Proof.Machine.execEventRaise svc s
  | .evrOnlineClear who die half v => Sys2Proof.Machine.execEvrOnlineClear who die half v s
  | .slotVoid t => Sys2Proof.Machine.execSlotVoid t s
  | .eventCreditReturn t vector => Sys2Proof.Machine.execEventCreditReturn t vector s
  | .evrInvalidate who p => Sys2Proof.Machine.execEvrInvalidate who p s
  | .messageSignalledWrite w pa size data => Sys2Proof.Machine.execMessageSignalledWrite w pa size data s
  | .partitionFatal p die => Sys2Proof.Machine.execPartitionFatal p die s
  | .packageFatal kind => Sys2Proof.Machine.execPackageFatal kind s
  | .dieLoss die => Sys2Proof.Machine.execDieLoss die s
  | .dieLostReport die complete => Sys2Proof.Machine.execDieLostReport die complete s
  | .portDieLoss die => Sys2Proof.Machine.execPortDieLoss die s
  | .firmwareSwitch who die => Sys2Proof.Machine.execFirmwareSwitch who die s
  | .ucodeLoad who n => Sys2Proof.Machine.execUcodeLoad who n s
  | .updateVerify who p type => Sys2Proof.Machine.execUpdateVerify who p type s
  | .updateVerifyDone => Sys2Proof.Machine.execUpdateVerifyDone s
  | .firmwareSwitchDone die ok version => Sys2Proof.Machine.execFirmwareSwitchDone die ok version s
  | .ucodeLoadDone n ok version => Sys2Proof.Machine.execUcodeLoadDone n ok version s
  | .ddrRecalibrationPass ch bad => Sys2Proof.Machine.execDdrRecalibrationPass ch bad s
  | .sensorCalibration die failed => Sys2Proof.Machine.execSensorCalibration die failed s
  | .hotPlugEvent port bits up down identify => Sys2Proof.Machine.execHotPlugEvent port bits up down identify s
  | .deviceDmaRequest port rid va pasid op => Sys2Proof.Machine.execDeviceDmaRequest port rid va pasid op s
  | .board r => Sys2Proof.Machine.execBoard r s
  | .dimm r => Sys2Proof.Machine.execDimm r s
  | .ports r => Sys2Proof.Machine.execPorts r s
  | .partreq r => Sys2Proof.Machine.execPartreq r s
  | .limits r => Sys2Proof.Machine.execLimits r s
  | .health r => Sys2Proof.Machine.execHealth r s
  | .slotevt r => Sys2Proof.Machine.execSlotevt r s
  | .imageBegin r => Sys2Proof.Machine.execImageBegin r s
  | .imageBlock r block => Sys2Proof.Machine.execImageBlock r block s
  | .imageEnd r => Sys2Proof.Machine.execImageEnd r s
  | .dumphold r => Sys2Proof.Machine.execDumphold r s
  | .inventoryTimeout => Sys2Proof.Machine.execInventoryTimeout s
  | .slotControlWrite port v => Sys2Proof.Machine.execSlotControlWrite port v s
  | .slotctlTimeout port => Sys2Proof.Machine.execSlotctlTimeout port s
  | .wakePattern v => Sys2Proof.Machine.execWakePattern v s
  | .statusBlockRead => Sys2Proof.Machine.execStatusBlockRead s
  | .i3cWake data => Sys2Proof.Machine.execI3cWake data s
  | .dynamicAddressAssignment addr => Sys2Proof.Machine.execDynamicAddressAssignment addr s
  | .pkgResetAssert => Sys2Proof.Machine.execPkgResetAssert s
  | .pkgResetRelease us recov => Sys2Proof.Machine.execPkgResetRelease us recov s
  | .powerUp => Sys2Proof.Machine.execPowerUp s
  | .aoSupplyLoss => Sys2Proof.Machine.execAoSupplyLoss s
  | .refclkLoss n => Sys2Proof.Machine.execRefclkLoss n s
  | .aoClockStop => Sys2Proof.Machine.execAoClockStop s
  | .bypass die => Sys2Proof.Machine.execBypass die s
  | .idcode die => Sys2Proof.Machine.execIdcode die s
  | .samplePreload die v => Sys2Proof.Machine.execSamplePreload die v s
  | .extest die => Sys2Proof.Machine.execExtest die s
  | .extestPulse die => Sys2Proof.Machine.execExtestPulse die s
  | .extestTrain die => Sys2Proof.Machine.execExtestTrain die s
  | .safePointApply pa => Sys2Proof.Machine.execSafePointApply pa s
  | .dpStoreComplete port => Sys2Proof.Machine.execDpStoreComplete port s
  | .wireThreshRepair hp atHub group pos seq eye => Sys2Proof.Machine.execWireThreshRepair hp atHub group pos seq eye s
  | .lathLinkLoss n p => Sys2Proof.Machine.execLathLinkLoss n p s
  | .refclkRestored n => Sys2Proof.Machine.execRefclkRestored n s

end Sys2Proof.Machine
end

