-- ==== Sys2Proof/Machine/Tick.lean ====
section
/-! DEFINITION. What a step does while no command waits (log entry 1). -/

namespace Sys2Proof.Machine

/-- Core cycles of a thread's cluster in the nanosecond that has just passed (R80, R539). -/
def Hw.cyclesNow (h : Hw) (t : Nat) : Nat :=
  let p := (h.pcoreOf t).getD 0
  let d := dieOfThread t
  let f := h.clockMhz d p 0
  if h.domCur d p = 0 ∧ h.domCur d (clusterOf p) = 0 then h.now * f / 1000 - (h.now - 1) * f / 1000 else 0

/-- The active threads count their core cycles, also those of an open activation (R558), those with no free fill entry, and those with their reorder share full (R80 events 0x0001, 0x0016 and 0x0031). -/
def Hw.countCycles (h : Hw) : Hw :=
  ((h.thr.filter (fun e => decide (e.2.run = .running))).map (·.1)).foldl (fun (h : Hw) t =>
    let n := h.cyclesNow t
    let h1 := (h.countN t 0x0001 n).onThread t (fun x => { x with act := x.act.map (fun a => { a with cycles := a.cycles + n }) })
    let h2 := if h.fillRoom t false then h1 else h1.countN t 0x0016 n
    if h.windowRoom t then h2 else h2.countN t 0x0031 n) h

/-- One nanosecond passes: the package's time goes on while its clocks run, and the always-on clock while it runs (spec/14_power_and_clocks.md R517, R539; spec/19_platform_controller.md R673); running threads count their core cycles, and dies whose wake is due start it. -/
def Hw.tick (h : Hw) : Hw :=
  let h1 : Hw := { h with now := if h.clockOn then h.now + 1 else h.now, ao := if h.plat.aoRun then h.ao + 1 else h.ao }
  if h.clockOn then h1.countCycles.wakesDue else h1

end Sys2Proof.Machine
end

