-- ==== Sys2Proof/WellFormed.lean ====
section
/-! DEFINITION. Operands within the ranges that the spec gives them. No command is refused: with an operand outside its range a command names nothing, and its meaning leaves the block as it is or answers as the rule says (a register access that misses the window is recorded, for one). -/

namespace Sys2Proof

open Machine in
/-- The operands of a command lie within the ranges that the command's rule gives them: an address in the range that the command is about, a stop, domain, wire or group that exists, a payload that fits. -/
def wellFormed : Instr → Bool
  | .registerWrite _ pa _ _ => decide (paRange pa.toNat = .window) && decide (pa.toNat % 8 = 0)
  | .coldReset => true
  | .packageWarmReset => true
  | .partitionReset _ => true
  | .dieReset _ => true
  | .coreReset _ _ => true
  | .integerAlu _ _ _ _ _ => true
  | .addi _ _ _ _ => true
  | .andi _ _ _ _ => true
  | .ori _ _ _ _ => true
  | .xori _ _ _ _ => true
  | .lui _ _ _ _ => true
  | .shiftImmediate _ _ _ _ => true
  | .pfx _ _ _ _ _ => true
  | .load _ _ _ _ _ _ => true
  | .store _ _ _ _ _ => true
  | .branch _ _ _ _ _ _ => true
  | .jal _ _ _ => true
  | .jalr _ _ _ _ _ => true
  | .vectorAlu _ _ _ => true
  | .vectorFp _ _ _ => true
  | .vld _ _ _ => true
  | .vst _ _ => true
  | .pcomp _ _ _ => true
  | .vgather _ _ _ _ => true
  | .vscatter _ _ _ _ => true
  | .vcompress _ _ => true
  | .vexpand _ _ => true
  | .vbcast _ _ => true
  | .vextract _ _ => true
  | .vinsert _ _ => true
  | .pand _ _ _ _ => true
  | .por _ _ _ _ => true
  | .pxor _ _ _ _ => true
  | .pnot _ _ _ _ => true
  | .fadd _ _ _ _ _ => true
  | .fsub _ _ _ _ _ => true
  | .fmul _ _ _ _ _ => true
  | .fdiv _ _ _ _ _ => true
  | .fsqrt _ _ _ _ _ => true
  | .fma _ _ _ _ _ => true
  | .fmin _ _ _ _ _ => true
  | .fmax _ _ _ _ _ => true
  | .fcmp _ _ _ _ _ _ => true
  | .fcvt _ _ _ _ _ _ => true
  | .lres _ _ _ _ _ => true
  | .scond _ _ _ _ _ _ => true
  | .lresHoldExpire _ => true
  | .crc32c _ _ _ _ _ => true
  | .par _ _ _ _ => true
  | .popc _ _ _ _ => true
  | .brev8 _ _ _ _ => true
  | .brev64 _ _ _ _ => true
  | .clz _ _ _ _ => true
  | .ctz _ _ _ _ => true
  | .bmove _ _ _ _ _ => true
  | .bfill _ _ _ _ _ => true
  | .bcrc _ _ _ _ _ => true
  | .fenceC _ _ _ _ => true
  | .fenceD _ _ _ _ => true
  | .fenceS _ _ _ _ => true
  | .wcBufferTimeout _ _ => true
  | .crrd _ _ _ _ => true
  | .crwr _ _ _ _ => true
  | .crset _ _ _ _ => true
  | .crclr _ _ _ _ => true
  | .trap _ _ _ _ => true
  | .trapEntry _ _ => true
  | .tret _ _ _ _ => true
  | .gate _ _ _ _ => true
  | .gmark _ _ _ _ => true
  | .gret _ _ _ _ => true
  | .wait _ _ _ _ => true
  | .waitWake _ => true
  | .dustSheetThreadWake _ => true
  | .tlbiVA _ _ _ _ _ => true
  | .tlbiVAALL _ _ _ _ _ => true
  | .tlbiASID _ _ _ _ _ => true
  | .tlbiREGIME _ _ _ _ _ => true
  | .tlbiIA _ _ _ _ _ => true
  | .tlbiVMID _ _ _ _ _ => true
  | .tlbiPART _ _ _ _ _ => true
  | .instructionRetire _ _ _ _ => true
  | .loadSettles _ _ => true
  | .cacheDisableRequest _ _ _ _ => true
  | .cacheCleanDone _ _ => true
  | .migrateStart _ _ _ => true
  | .migrationSourceCleaned _ => true
  | .migrationDone _ => true
  | .deviceTimeout _ _ => true
  | .dpStoreErrorMessage _ _ => true
  | .portLinkDown _ => true
  | .rds _ _ _ _ _ => true
  | .rdo _ _ _ _ _ => true
  | .upg _ _ _ _ _ => true
  | .own _ _ _ _ _ => true
  | .rdc _ _ _ _ _ => true
  | .rdp _ _ _ _ _ => true
  | .stn _ _ _ _ _ => true
  | .wrf _ _ _ _ _ _ _ => true
  | .wrp _ _ _ _ _ _ _ _ => true
  | .cmt _ _ _ => true
  | .wb _ _ _ _ _ => true
  | .evc _ _ _ _ _ => true
  | .evf _ _ _ _ _ => true
  | .directoryWritebackDrain _ => true
  | .rcs _ _ _ _ _ => true
  | .rci _ _ _ _ _ => true
  | .rcc _ _ _ _ _ => true
  | .inv _ _ _ _ _ => true
  | .prb _ _ _ _ _ => true
  | .fap _ _ _ _ _ => true
  | .ack _ _ _ _ _ _ => true
  | .ackf _ _ _ => true
  | .rcd _ _ _ _ => true
  | .gntE _ _ _ => true
  | .gntS _ _ _ => true
  | .gntF _ _ _ => true
  | .data _ _ _ => true
  | .gntO _ _ _ => true
  | .rdy _ _ _ => true
  | .done _ _ _ => true
  | .wba _ _ _ => true
  | .dfr _ _ _ => true
  | .ref _ _ _ => true
  | .snoopTimeout _ _ => true
  | .poisonEntryHoldExpire _ => true
  | .agentFence _ _ _ => true
  | .isetBWrite _ _ _ _ => true
  | .isetAWrite _ _ _ _ => true
  | .isetApply _ => true
  | .rcQuotaApply _ _ => true
  | .rcScrubRead _ _ => true
  | .cxlReadTimeout _ => true
  | .memInitGibDone _ => true
  | .hotsnapCopy _ _ _ => true
  | .hotsnapCopyClear _ _ _ => true
  | .hotsnapCopyHalve _ _ _ => true
  | .hotsnapDone _ => true
  | .patrolScrubRead _ _ => true
  | .correctiveRewrite _ => true
  | .directorySweepStart _ _ _ => true
  | .directorySweepDone _ => true
  | .rankSpareStart _ _ _ => true
  | .rankSpareDone _ => true
  | .channelFail _ => true
  | .doorbell _ _ _ _ => true
  | .queueBaseApply _ => true
  | .descriptorRead => true
  | .jobSteer _ => true
  | .pieceStart _ => true
  | .pieceEnd _ _ => true
  | .appendChunkRequest _ => true
  | .completionWrite _ => true
  | .jobTimeout _ => true
  | .elcGroupPowerRequest _ _ _ => true
  | .elcGroupCleanDone _ _ => true
  | .spBankPowerChange _ _ _ => true
  | .scratchpadZeroDone _ _ => true
  | .hostScratchpadAccess _ _ _ _ _ _ => true
  | .skimAlu _ _ _ _ _ => true
  | .skimAddi _ _ _ _ => true
  | .skimLogicImmediate _ _ _ _ _ => true
  | .lis _ _ _ _ => true
  | .skimShiftImmediate _ _ _ _ => true
  | .loop _ _ _ _ _ => true
  | .skimLoad _ _ _ _ _ => true
  | .skimStore _ _ _ _ _ => true
  | .skimVld _ _ _ _ _ => true
  | .skimVst _ _ _ _ _ => true
  | .skimVectorAlu _ _ _ => true
  | .skimVectorShift _ _ _ => true
  | .vcmp _ _ _ => true
  | .vcmps _ _ _ => true
  | .vcprs _ _ => true
  | .skimVbcast _ _ => true
  | .vext _ _ => true
  | .vins _ _ => true
  | .vhmix _ _ => true
  | .vcrc32c _ _ => true
  | .dlook _ _ => true
  | .skimCrc32c _ _ _ _ _ => true
  | .crcp _ _ _ _ _ => true
  | .skimBitHelper _ _ _ _ _ => true
  | .hmix _ _ _ _ => true
  | .srd _ _ _ => true
  | .swr _ _ _ => true
  | .sadv _ _ _ => true
  | .emitv _ _ _ => true
  | .emitm _ _ _ => true
  | .pref _ _ => true
  | .plock _ _ => true
  | .skimBranch _ _ _ _ _ _ => true
  | .skimJal _ _ _ => true
  | .skimJalr _ _ _ => true
  | .skEnd _ => true
  | .cMv _ _ _ => true
  | .cAlu _ _ _ _ => true
  | .cSadv _ _ _ => true
  | .cNop _ _ => true
  | .cEnd _ _ => true
  | .cAddi _ _ _ => true
  | .cSetbank _ _ _ => true
  | .cBeqz _ _ _ _ => true
  | .cBnez _ _ _ _ => true
  | .halt _ _ => true
  | .resume _ _ => true
  | .step _ _ => true
  | .breakpointHalt _ => true
  | .debugPortHalt _ => true
  | .registerReadRequest _ pa _ _ => decide (paRange pa.toNat = .window) || decide (paRange pa.toNat = .mmio)
  | .registerWriteRequest _ pa _ _ _ => decide (paRange pa.toNat = .window) || decide (paRange pa.toNat = .mmio)
  | .mmioPostedWrite _ pa _ _ _ => decide (paRange pa.toNat = .mmio)
  | .registerCompletion _ _ _ _ => true
  | .postedAcknowledgement _ _ => true
  | .eventMessage _ => true
  | .treq dst src _ => stopOk dst && stopOk src
  | .tgnt dst src _ _ _ => stopOk dst && stopOk src
  | .epochUpdate _ stop => stopOk stop
  | .openEdge dst src => stopOk dst && stopOk src
  | .asleep dst src _ _ _ => stopOk dst && stopOk src
  | .stale _ => true
  | .ferr _ => true
  | .requesterWatchdog _ => true
  | .roleChange stop => stopOk stop
  | .domainClosing die dom _ => (domDeepest (dieId die) dom.toNat).isSome && closes (dieId die) dom.toNat
  | .torusFrame f => decide (f.payload.length ≤ 52)
  | .torusAcknowledgement _ _ _ => true
  | .torusResendTimeout _ _ _ => true
  | .assign _ _ _ _ => true
  | .rmap hp _ group _ _ _ => decide (group.toNat < linkGroups hp.val)
  | .repair hp _ group pos _ _ _ => wireOk hp.val group.toNat pos.toNat
  | .sleepLink _ _ _ _ => true
  | .retrain _ _ => true
  | .linkTrainingDone _ _ => true
  | .heartbeatLoss _ _ => true
  | .scrimWakeToggle _ => true
  | .scrimRecalPass _ _ _ => true
  | .lathEnvelope _ _ _ _ _ => true
  | .lathReplayTimeout _ _ => true
  | .lathHandshake _ _ _ _ _ _ => true
  | .laneSleepEntry _ _ => true
  | .linkChirp _ _ => true
  | .dieChirp _ _ => true
  | .lathRetrain _ _ _ => true
  | .unhold _ _ _ => true
  | .lathReequalise _ _ _ _ => true
  | .cfgLoad _ => true
  | .cfgLoadDone => true
  | .cfgApply _ => true
  | .cfgRollback _ => true
  | .cfgAbort _ => true
  | .stagedSectionApply _ => true
  | .applyTimeout => true
  | .cfgConfirm _ _ _ => true
  | .confirmWindowExpire => true
  | .rollbackDone => true
  | .explicitApply _ _ _ => true
  | .dieLeavesPartition _ => true
  | .gibOwnerChange _ => true
  | .gibReleaseSweepDone _ => true
  | .domainStateRequest _ die dom _ _ => (domDeepest (dieId die) dom.toNat).isSome
  | .domainTransitionDone die dom => (domDeepest (dieId die) dom.toNat).isSome
  | .domainIdleTimeout die dom => (domDeepest (dieId die) dom.toNat).isSome
  | .domainWake die dom _ _ => (domDeepest (dieId die) dom.toNat).isSome
  | .dieWakeFromDustSheet _ => true
  | .edgeRelease _ _ _ => true
  | .aoTimerFire _ => true
  | .sheldSet _ die dom => (domDeepest (dieId die) dom.toNat).isSome
  | .deepIdleEnter _ => true
  | .deepIdleExit _ _ => true
  | .stageCurrentSample _ _ => true
  | .vinSample _ => true
  | .supplyRestored => true
  | .budgetTick _ budgets => decide (budgets.length = 17)
  | .fceilUpdate _ _ _ => true
  | .clusterFrequencyStep _ _ => true
  | .thermalControlTick _ _ _ _ => true
  | .fastThrottle _ _ _ => true
  | .thermalTrip _ _ _ => true
  | .secureWatchdog _ => true
  | .activationEndArm _ _ _ _ => true
  | .secureStateWrite _ _ _ _ => true
  | .markSecure _ _ _ => true
  | .unmarkSecure _ _ _ => true
  | .secureEngineReserve _ _ _ => true
  | .primerStart _ => true
  | .sizingLoaderStart _ _ => true
  | .bootRestart _ => true
  | .bootThreadRelease _ => true
  | .floorRaise _ _ => true
  | .keyRevoke _ _ => true
  | .flashErase _ _ _ => true
  | .flashProgram _ _ _ => true
  | .flashRead _ _ _ => true
  | .mregExtend _ _ => true
  | .flashOpDone _ => true
  | .fuseBurnDone _ => true
  | .meterSample s => decide (s.length = 17)
  | .intervalClose => true
  | .owner _ _ => true
  | .ownerResend => true
  | .traffic => true
  | .trafficLate => true
  | .meterSupplyLoss => true
  | .meterSupplyRestore _ => true
  | .sealOpen => true
  | .sealClose => true
  | .ident => true
  | .getrec _ => true
  | .getlatest => true
  | .getlog _ => true
  | .sync _ => true
  | .calwrite _ => true
  | .fwload _ _ => true
  | .fwcommit _ _ => true
  | .setaddr _ => true
  | .verify _ => true
  | .meterRecordDelivery => true
  | .mtrxIdent _ => true
  | .resend _ _ => true
  | .timemark _ => true
  | .eventRaise _ => true
  | .evrOnlineClear _ _ _ _ => true
  | .slotVoid _ => true
  | .eventCreditReturn _ _ => true
  | .evrInvalidate _ _ => true
  | .messageSignalledWrite _ pa _ _ => decide (paRange pa.toNat = .message)
  | .partitionFatal _ _ => true
  | .packageFatal _ => true
  | .dieLoss _ => true
  | .dieLostReport _ _ => true
  | .portDieLoss _ => true
  | .firmwareSwitch _ _ => true
  | .ucodeLoad _ _ => true
  | .updateVerify _ _ _ => true
  | .updateVerifyDone => true
  | .firmwareSwitchDone _ _ _ => true
  | .ucodeLoadDone _ _ _ => true
  | .ddrRecalibrationPass _ _ => true
  | .sensorCalibration _ _ => true
  | .hotPlugEvent _ _ _ _ _ => true
  | .deviceDmaRequest _ _ va _ op => dmaFormed va.toNat op
  | .board _ => true
  | .dimm _ => true
  | .ports _ => true
  | .partreq _ => true
  | .limits _ => true
  | .health _ => true
  | .slotevt _ => true
  | .imageBegin _ => true
  | .imageBlock _ _ => true
  | .imageEnd _ => true
  | .dumphold _ => true
  | .inventoryTimeout => true
  | .slotControlWrite _ _ => true
  | .slotctlTimeout _ => true
  | .wakePattern _ => true
  | .statusBlockRead => true
  | .i3cWake _ => true
  | .dynamicAddressAssignment _ => true
  | .pkgResetAssert => true
  | .pkgResetRelease _ _ => true
  | .powerUp => true
  | .aoSupplyLoss => true
  | .refclkLoss _ => true
  | .aoClockStop => true
  | .bypass _ => true
  | .idcode _ => true
  | .samplePreload _ _ => true
  | .extest _ => true
  | .extestPulse _ => true
  | .extestTrain _ => true
  | .safePointApply pa => (findReg pa.toNat).isSome
  | .dpStoreComplete _ => true
  | .wireThreshRepair hp _ group pos _ _ => wireOk hp.val group.toNat pos.toNat
  | .lathLinkLoss _ _ => true
  | .refclkRestored _ => true

end Sys2Proof
end

