-- ==== Sys2Proof/Safety.lean ====
section
/-! DEFINITION. What the statements call a good state, and the states that a state can reach. -/

namespace Sys2Proof.Machine

/-! Instructions. -/

/-- Two packages alike but for the counters of a thread: its counter registers, its pending local events, and the events that wait to be counted (R79, R80). -/
structure Counted (t : Nat) (h k : Hw) : Prop where
  own : ∃ l q n, k.thread t = { h.thread t with locals := l, evq := q, lseq := n }
  others : ∀ n, n ≠ t → k.thread n = h.thread n
  window : ∀ a, (∀ p n, p < 64 → n < 16 → a ≠ regAddr .CORE_PMC (dieOfThread t) p n ∧ a ≠ regAddr .CORE_PMSEL (dieOfThread t) p n) →
    look 0 k.regs a = look 0 h.regs a
  rest : ∃ r x, k = { h with regs := r, thr := x }

/-- A thread before and after a fetch: alike but for its walk buffer, the events and branches that wait, its pending local events and a reservation that is lost. -/
def Thread.FetchKept (x y : Thread) : Prop :=
  y = { x with walkBuf := y.walkBuf, walkPtrs := y.walkPtrs, missed := y.missed, locals := y.locals, evq := y.evq, trainq := y.trainq, lseq := y.lseq, resv := y.resv }

/-- The thread can run an instruction of one or two words now: it runs on a core, none of its loads is still open, no asynchronous cause can be taken, and the fetch succeeds and leaves the package f. -/
structure Ready (h : Hw) (t words : Nat) (f : Hw) : Prop where
  runs : h.canRun t = true
  settled : h.openFills t = []
  quiet : (h.thread t).pick = none
  fetch : fetchAll h t words = .ok f

/-- A thread once an instruction has retired, but for the instruction's own results: the PC, VALID of cr.progress, and the end of the first fetch at a vector (R97, R113, R141). -/
def Thread.after (x : Thread) (next : W64) : Thread :=
  { x with atVector := false, progress := setWbits x.progress 63 63 0, missed := 0, deferred := none, ncReads := [], fencing := false, pc := next }

/-- An instruction of thread t leaves u: the package is k with the thread as x; otherwise only the thread's counters differ, and its walks have entered the TLBs. -/
def Retires (s u : State) (t : Nat) (k : Hw) (x : Thread) : Prop :=
  u.pending = s.pending ∧ ∃ m, Counted t (k.setThread t x) m ∧ u.hw = m.walksDone t

/-- Command i completes, leaves the queue as it is, and leaves the package so that P holds of it. -/
def Does (s : State) (i : Instr) (P : Hw → Prop) : Prop := ∃ u, exec i s = .next u ∧ u.pending = s.pending ∧ P u.hw

/-- Instruction i completes, retires with the next PC, and writes v into general register d. -/
def WritesG (s : State) (i : Instr) (t : Nat) (f : Hw) (d : RegNum) (v next : W64) : Prop :=
  ∃ u, exec i s = .next u ∧ Retires s u t f (((f.thread t).after next).writeG d.toNat v)

/-- Instruction i takes the exception of a cause that its own decoding or work finds, with nothing of its work done and its own walks dropped (R139, R192). -/
def Traps (s : State) (i : Instr) (t : Nat) (f : Hw) (c : Cause) : Prop :=
  exec i s = .next { s with hw := syncTrap ((f.fetched t).dropWalks t (s.hw.thread t)) t c }

/-- The major opcode, the size in bytes and the sign extension of a scalar load (R102, R105). -/
def loadTable : LoadKind → Nat × Nat × Bool
  | .b => (0x08, 1, true)
  | .h => (0x09, 2, true)
  | .w => (0x0A, 4, true)
  | .d => (0x0B, 8, true)
  | .bu => (0x0C, 1, false)
  | .hu => (0x0D, 2, false)
  | .wu => (0x0E, 4, false)

/-- The major opcode and the size in bytes of a scalar store (R102). -/
def storeTable : StoreKind → Nat × Nat
  | .b => (0x10, 1)
  | .h => (0x11, 2)
  | .w => (0x12, 4)
  | .d => (0x13, 8)

/-- A word whose major opcode and d and a fields are the ones given (R98). -/
def I16Word (w : W32) (major : Nat) (d a : RegNum) : Prop :=
  (w.extractLsb' 26 6).toNat = major ∧ w.extractLsb' 21 5 = d ∧ w.extractLsb' 16 5 = a

/-- The immediate of a prefixed pair (R100). -/
def pairImm (ext : BitVec 26) (next : W32) : W64 := (ext ++ next.extractLsb' 0 16).signExtend 64

/-- Instruction i is a scalar load of a kind, alone or prefixed, with its displacement, its length in words (R100, R102), and whether the command calls it settled. -/
def LoadForm (i : Instr) (t : Gtn) (k : LoadKind) (d a : RegNum) (off : W64) (words : Nat) (st : Bool) : Prop :=
  (∃ imm, i = .load t k d a imm st ∧ off = imm.signExtend 64 ∧ words = 1) ∨
  (∃ ext next m, i = .pfx t ext next st m ∧ I16Word next (loadTable k).1 d a ∧ off = pairImm ext next ∧ words = 2)

/-- Instruction i is a scalar store of a kind, alone or prefixed (R100, R102). -/
def StoreForm (i : Instr) (t : Gtn) (k : StoreKind) (d a : RegNum) (off : W64) (words : Nat) : Prop :=
  (∃ imm, i = .store t k d a imm ∧ off = imm.signExtend 64 ∧ words = 1) ∨
  (∃ ext next st m, i = .pfx t ext next st m ∧ I16Word next (storeTable k).1 d a ∧ off = pairImm ext next ∧ words = 2)

/-- The checked parts of a load can be read now: no thread of the core holds one of their lines, no line is lost with a stopped core, and there are queue and fill entries, miss registers and tokens for the lines that miss (R37, R45, R47, R78, R240). -/
structure LoadGoes (h : Hw) (t : Nat) (ps : List MemPart) : Prop where
  sibling : siblingHolds h t ps = false
  lost : ∀ p ∈ ps, has (h.cdie (dieOfThread t)).lost (lineOf p.pa) = false
  room : h.loadRoom t = true
  news : ∀ p ∈ newLines h t ps, h.fillRoom t false = true ∧ h.missRoom t false = true ∧ h.sliceToken t (lineOf p.pa) = true

/-- A load that is not settled can go on as far as a provisional read (R37, R51, R52, R65): the reorder window has room, the thread is not in settle-only mode, no slice defers the read, no earlier read of the load was deferred, and its checks have written no table entry. -/
structure Provisional (s h : Hw) (t : Nat) (ps : List MemPart) : Prop where
  window : s.windowRoom t = true
  fresh : (s.thread t).deferred = none
  tables : h.mem = s.mem
  normal : h.settleOnly t = false
  defers : ∀ p ∈ newLines h t ps, h.sliceDefers t (lineOf p.pa) = false

/-- The checked parts of a store can be written now: no thread of the core holds one of their lines, the store queue has room, and no older store of the thread to the same lines waits elsewhere (R37, R215, R240). -/
structure StoreGoes (h : Hw) (t : Nat) (ps : List MemPart) : Prop where
  sibling : siblingHolds h t ps = false
  room : h.storeRoom t (ps.filter (·.isWb)).length = true
  alone : aliasWaits h t ps = false

/-! Homes. -/

/-- The packet of an opcode about a line, from an agent, arrives at its home in good order and leaves the package h1 (R436, R441, R449, R453, R455): it stands behind no earlier packet of its order, its token and its partition pass, no domain's edge answers for the home, and it is not stale. -/
structure Arrives (h : Hw) (op : MsgOp) (a : AgentRef) (l : Line) (part : Nat) (world : Bool) (h1 : Hw) : Prop where
  taken : h.receive (h.pkt op (toAgent a) l.toNat part world) .good = .ok (h1, false)
  pass : h1.scrimPass { (h.pkt op (toAgent a) l.toNat part world).msg with part := part, world := world } = true
  edge : h1.edgeOf { (h.pkt op (toAgent a) l.toNat part world).msg with part := part, world := world } = none
  fresh : ((h.pkt op (toAgent a) l.toNat part world).waits && h1.isStale (h.pkt op (toAgent a) l.toNat part world).msg.ends.2 (h.pkt op (toAgent a) l.toNat part world).msg.epoch) = false

/-- The request that the packet of an opcode about a line makes. -/
def askedOf (h : Hw) (op : MsgOp) (a : AgentRef) (l : Line) (part : Nat) (world : Bool) : HReq := (h.pkt op (toAgent a) l.toNat part world).req part world

/-- The home can start a request now: its agent is not fenced, its line is neither Busy nor written back, a way of its set is free, and the range checks pass it (R256, R257, R260, R264, R284, R287, R487, R560). -/
structure StartsNow (h : Hw) (r : HReq) : Prop where
  fenced : h.fenced r.agent = false
  busy : h.busy (dirKey r.line) = false
  dwb : has h.dwb (dirKey r.line) = false
  pinned : h.setPinned (dirKey r.line) = false
  pass : h.homePass r.part r.world (r.line <<< 6) = true
  mapped : h.mapped (r.line <<< 6) = true
  far : isFar r.line = true → h.flag .HOME_DIRCTL 0 (homeOfLine r.line) 0 F.HOME_DIRCTL_FAR_EN = true

/-- The last message sent is the home's reply to request r, with the number of its response slot (R433). -/
def Replied (k : Hw) (op : MsgOp) (r : HReq) : Prop :=
  ∃ m, k.msgs.getLast? = some m ∧ m.op = op ∧ m.addr = r.line ∧ m.agent = r.agent ∧ m.part = r.part ∧ m.world = r.world ∧ m.txid = r.txid

/-- Memory stays, where a change of directory state is not written through into the region table (R252). -/
def SameMemory (h k : Hw) (line : Nat) : Prop := isFar line = false ∨ h.writeThrough (dirKey line) = false → k.mem = h.mem

/-- Command i has the home serve request r at once: its last message is the reply, the line takes a directory state, no other line's does, and no transaction opens. -/
def Served (s : State) (h1 : Hw) (i : Instr) (r : HReq) (op : MsgOp) (d : Dir) (P : Hw → Prop) : Prop :=
  Does s i (fun k => Replied k op r ∧ look .unc k.dir (dirKey r.line) = d ∧
    (∀ n, n ≠ dirKey r.line → look .unc k.dir n = look .unc h1.dir n) ∧ k.txns = h1.txns ∧ k.waitq = h1.waitq ∧ P k)

/-- Command i has the home open a transaction for request r: each agent named has its snoop, sent or waiting for a slot of its destination, and the home waits for their answers for the time in HOME_TMO; memory and the directory stay. -/
def Snoops (s : State) (h1 : Hw) (i : Instr) (r : HReq) (op : MsgOp) (l : List Agent) : Prop :=
  Does s i (fun k => k.mem = h1.mem ∧ k.dir = h1.dir ∧ ∃ t, k.txns = h1.txns ++ [t] ∧ t.key = dirKey r.line ∧ t.line = r.line ∧ t.req = some r ∧
    t.snoop = op ∧ t.wait = l ∧ t.wb = [] ∧ t.cmt = false ∧ t.due = h1.now + h1.homeTmo r.line ∧
    ∀ a ∈ l, ∃ m ∈ k.msgs ++ k.tokWait, m.op = op ∧ m.addr = r.line ∧ m.agent = a ∧ m.part = h1.gibOwner (r.line >>> 24) ∧ m.world = r.world ∧ m.txid = t.slot)

/-- The last message sent is an agent's answer to a snoop of a line, with the flags or the mask of its data, and the slot of the home's transaction (R266, R433, R454). -/
def SnoopAnswered (h k : Hw) (op : MsgOp) (a : Agent) (line info : Nat) : Prop :=
  ∃ m, k.msgs.getLast? = some m ∧ m.op = op ∧ m.addr = line ∧ m.agent = a ∧ m.info = info ∧ m.part = h.agentPart a ∧ m.txid = h.txnSlot line

/-- The answer of a home to an agent about a line arrives in good order: p is its packet, with a tag, and it leaves the package h1 (R433, R436, R443). -/
structure Answers (h : Hw) (op : MsgOp) (a : Agent) (line tag : Nat) (h1 : Hw) : Prop where
  taken : h.receive (h.pkt op a line (h.agentPart a) (h.secureLine line)) .good = .ok (h1, false)
  tag : (h.pkt op a line (h.agentPart a) (h.secureLine line)).msg.info = tag

/-- Nothing of a compute die waits for a line but the request that an answer ends: no store, no fill, no prefetch, no held snoop and no parked miss. -/
structure OnlyMiss (h : Hw) (die line : Nat) : Prop where
  stores : ∀ j, j < 64 → (h.thread (64 * (die - 1) + j)).sqLine line = []
  fills : ∀ j, j < 34 → ∀ f ∈ (h.core (coreKey die j)).fills, f.line ≠ line
  prefetches : ∀ j, j < 34 → has (h.core (coreKey die j)).pfOut line = false
  snoops : (h.cdie die).heldSnoops = []
  parked : (h.cdie die).parked = []

/-- The packet of a thread's access arrives in good order at its port or register access port and leaves the package h1: no domain's edge answers for its destination, and it is not stale (R436, R441, R449, R453). -/
structure Reaches (h : Hw) (op : MsgOp) (w : Who) (pa : Nat) (v : W64) (h1 : Hw) : Prop where
  taken : h.receive (h.accessPkt w op pa v) .good = .ok (h1, false)
  edge : h1.edgeOf (h.accessPkt w op pa v).msg = none
  fresh : ((h.accessPkt w op pa v).waits && h1.isStale (h.accessPkt w op pa v).msg.ends.2 (h.accessPkt w op pa v).msg.epoch) = false

/-- Command i completes: the access is done and leaves k0 so that P holds of it, and then the slot of its packet is freed (R439). -/
def Accesses (s : State) (i : Instr) (op : MsgOp) (w : Who) (pa : Nat) (v : W64) (P : Hw → Prop) : Prop :=
  Does s i (fun k => ∃ k0, k = k0.freeTok 0 (s.hw.accessPkt w op pa v).msg.agent pa ∧ P k0)

/-- The answer to a thread's access reaches it in good order, and frees its response slot, which leaves the package g (R433, R436). -/
def ReplyComes (h : Hw) (op : MsgOp) (t : Nat) (w : DevWait) (g : Hw) : Prop :=
  ∃ h1, h.receive (h.accessAnswer op t w) .good = .ok (h1, false) ∧ g = h1.freeRsp (h.accessAnswer op t w).msg.ends.2 (h.accessAnswer op t w).msg.txid

/-- Package y, alike to h in memory, threads and the queues of the ports, takes an exception of thread t at the end of its device access, and is then k (R139, R234). -/
def DevTraps (h k : Hw) (t : Nat) (c : Cause) : Prop :=
  ∃ y : Hw, k = y.devTrap t c ∧ y.mem = h.mem ∧ y.thr = h.thr ∧ y.dpq = h.dpq

/-! Skim engines. -/

/-- Engine n can issue an instruction of a length at the PC of its piece r now: the engine runs, its argument block is here, it stands at no breakpoint, and its fetch succeeds, which leaves the package f and the piece q, alike but for what its memory accesses hold (R345, R346, R348, R421). -/
structure EngReady (h : Hw) (n len : Nat) (r : EngRun) (f : Hw) (q : EngRun) : Prop where
  here : look? h.run n = some r
  runs : r.halted = false
  goes : r.stop = none
  argued : r.argDue = false
  fenced : h.fenced (.eng n) = false
  up : h.engDown n = false
  bp : h.atBreakpoint n = false
  inside : r.pc + len ≤ 6144
  fetch : ∃ bs, h.engRead n .prog 2 ((h.job r.piece.slot).progVa + r.pc) len = .ok (f, bs)
  same : look? f.run n = some q
  alike : q = r.keep q

/-- Piece r of engine n, after some more of its memory accesses have left the package k: alike but for what they hold (R358). -/
def KeepsRun (k : Hw) (n : Nat) (r z : EngRun) : Prop := look? k.run n = some z ∧ z = r.keep z

/-- The instruction at the PC may stand there: in a delay slot it writes no register that the branch reads, and a delay slot is no loop end (R411). -/
def EngRun.placed (r : EngRun) (wr : List SReg) : Prop :=
  ∀ b, r.slot = some b → (∀ d ∈ wr, d = 0 ∨ d.toNat ∉ b.reads) ∧ ∀ i < 3, (r.lvl i).lc = 0 ∨ (r.lvl i).le ≠ r.pc

/-- A branch, LOOP or END may stand at the PC: it is neither a delay slot nor a loop end (R411, R415). -/
def EngRun.free (r : EngRun) : Prop := r.slot = none ∧ ∀ i < 3, (r.lvl i).lc = 0 ∨ (r.lvl i).le ≠ r.pc

/-- Where control goes after the instruction at the PC: to the branch's way after its delay slot, else to a loop start, else on, or to a way that the instruction takes itself (R407, R413). -/
def EngRun.goesTo (r : EngRun) (loops : List (Nat × LoopLvl)) (len : Nat) (redirect : Option Nat) : Nat :=
  (match r.slot with
   | some b => b.target
   | none => ((loopCommit r.pc loops).2).getD (redirect.getD (r.pc + len))) % 8192

/-- The piece r, fetched as q, once the instruction at its PC has committed: g is its own effect. A step that halts is left open (R378, R413, R421). -/
def EngRun.committed (r q : EngRun) (len : Nat) (redirect : Option Nat) (g : EngRun → EngRun) (halted stepping : Bool) : EngRun :=
  let x := g { q with bankPend := false }
  { x with pc := r.goesTo x.loops len redirect, loops := (loopCommit r.pc x.loops).1, bankCur := r.bankNew, slot := if r.slot.isSome then none else x.slot, bpSkip := r.dsRun, dsRun := false, got := [], halted := halted, stepping := stepping }

/-- Command i completes: the instruction at the PC of engine n commits with its own effect g on the piece q; memory, the scratchpads and the other engines are as the accesses left them. -/
def Commits (s : State) (i : Instr) (n len : Nat) (r : EngRun) (f : Hw) (q : EngRun) (redirect : Option Nat) (g : EngRun → EngRun) : Prop :=
  Does s i (fun k => k.mem = f.mem ∧ k.sp = f.sp ∧ k.msgs = f.msgs ∧ (∀ m, m ≠ n → look? k.run m = look? f.run m) ∧ ∃ ha st, look? k.run n = some (r.committed q len redirect g ha st) ∧
    (r.stepping = false → ha = false ∧ st = false))

/-- Command i completes: the instruction at the PC of engine n has a program fault of a cause, which stops the piece with status 0x03 and is recorded in SKM_PFAULT; it writes no register and no memory (R420). -/
def Breaks (s : State) (i : Instr) (n : Nat) (r : EngRun) (f : Hw) (cause : Nat) : Prop :=
  Does s i (fun k => k.mem = f.mem ∧ k.sp = f.sp ∧ (∃ y, look? k.run n = some y ∧ y.s = r.s ∧ y.w = r.w ∧ y.pc = r.pc ∧ y.sbase = r.sbase ∧ ∃ e, y.stop = some e ∧ e.status = 3) ∧
    k.fld .SKM_PFAULT (engPlace n).1 (engPlace n).2 0 F.SKM_PFAULT_VALID = 1 ∧ k.fld .SKM_PFAULT (engPlace n).1 (engPlace n).2 0 F.SKM_PFAULT_CAUSE = cause ∧
    k.fld .SKM_PFAULT (engPlace n).1 (engPlace n).2 0 F.SKM_PFAULT_PC = r.pc % 8192 ∧ ∃ e ∈ k.raises, e.source = 0x190 + n)

/-! Steps. -/

/-- One step takes a state to the next. -/
def Steps (s t : State) : Prop := step s = .next t

end Sys2Proof.Machine
end

