-- ==== Sys2Proof/Certificates/Slice0/Obligations.lean ====
section
/-! DEFINITION. The statements for the provers: what the commands of each family do, what a step does, and the invariants of a step. -/

open Sys2Proof Sys2Proof.Machine

/-- The model's queue (log entry 2): one step with a command at the front of the queue is that command, done with the rest of the queue. -/
def Obligations.StepRunsTheFrontCommand : Prop :=
  ∀ (c : Instr) (r : List Instr) (s : State), s.pending = c :: r → step s = exec c { s with pending := r }

/-- The model's choice (log entry 1): a step on an empty queue lets one nanosecond pass. The package's time goes on while its clock runs and the always-on count while that clock runs (R539, R673); with no thread running and no wake due nothing else changes. A running thread counts its core cycles, those of its open activation included (R80, R558), and its state is otherwise as before but for its counters. -/
def Obligations.IdleStepLetsTimePass : Prop :=
  ∀ (s : State) (n : Nat) (a : Act), s.pending = [] →
    let h := s.hw
    let now := if h.clockOn then h.now + 1 else h.now
    let ao := if h.plat.aoRun then h.ao + 1 else h.ao
    let later : Hw := { h with now := now, ao := ao }
    ∃ t, step s = .next t ∧ t.pending = [] ∧ t.hw.now = now ∧ t.hw.ao = ao ∧
      (h.clockOn = false → t.hw = later) ∧
      (h.wakeDue = [] → (∀ e ∈ h.thr, e.2.run ≠ .running) → t.hw = later) ∧
      (h.wakeDue = [] → t.hw.mem = h.mem ∧ t.hw.msgs = h.msgs ∧ ((h.thread n).run ≠ .running → t.hw.thread n = h.thread n)) ∧
      (h.clockOn = true → h.wakeDue = [] → (h.thr.map (·.1)).Nodup → (h.thread n).run = .running → (h.thread n).act = some a →
        t.hw.thread n = { h.thread n with act := some { a with cycles := a.cycles + later.cyclesNow n } })

/-- What the spec gives for reset: no command waits, the memory lists nothing, every thread is in core reset, from which it leaves at M in the normal world (R124), and every register of the register window reads the Reset entry that its rule gives (R17). The state meets both invariants of a step. -/
def Obligations.ResetLeavesTheSpecsValues : Prop :=
  let h := State.reset.hw
  State.reset.pending = [] ∧ Memory.wf h.mem = true ∧ h.mem = [] ∧ h.now = 0 ∧ h.ao = 0 ∧ h.committed = false ∧ h.meter.on = true ∧
  (∀ t, h.thread t = {} ∧ (h.thread t).run = .inReset ∧ (h.thread t).level = 3 ∧ (h.thread t).world = false ∧ (h.thread t).resv = none) ∧
  (∀ n d i x, h.reg n d i x = regReset n d i x) ∧
  (∀ c, c < 24 → h.fld .MEMC_RECAL 0 c 0 F.MEMC_RECAL_EN = 1 ∧ h.fld .MEMC_RECAL 0 c 0 F.MEMC_RECAL_PERIOD_MIN = 10) ∧
  h.fld .PWR_PKGLIM 0 0 0 F.PWR_PKGLIM_EFF_W = 820 ∧ (∀ d c, 1 ≤ d → d ≤ 12 → c < 2 → h.fld .CLK_CLUSTER d 0 c F.CLK_CLUSTER_FCEIL = 34)

/-- Every command completes, in every state and with every operand: it answers a next state and leaves the queue as it is. No command ends in a fault or a refusal. -/
def Obligations.EveryCommandCompletes : Prop :=
  ∀ (c : Instr) (s : State), (∃ t, exec c s = .next t ∧ t.pending = s.pending) ∧ (∀ f, exec c s ≠ .fault f) ∧ (∀ r, exec c s ≠ .refused r)

/-- The queue is carried out to its end: from every state, as many steps as commands wait answer a next state whose queue is empty, through no fault and no refusal; each step takes one command. -/
def Obligations.TheQueueIsCarriedOut : Prop :=
  ∀ s : State, (∀ t, Steps s t → t.pending = s.pending.tail) ∧
    ∀ n, n ≤ s.pending.length → ∃ t, Host.Core.run Sys2Proof.core n s = .next t ∧ t.pending = s.pending.drop n

/-- The memory keeps its canonical form: addresses strictly rising, and no entry that equals what an unlisted byte reads as (log entry 3). Every step that answers a next state keeps it, from every state, whatever the command. -/
def Obligations.EveryStepKeepsTheMemoryForm : Prop :=
  ∀ s t : State, Memory.wf s.hw.mem = true → Steps s t → Memory.wf t.hw.mem = true

/-- R89: the memory is little-endian bytes, and what is written is read back. After a write of bytes at an address each of them reads as written and every byte outside them reads as before; a number written reads back modulo its size; and the canonical form stays. -/
def Obligations.MemoryReadsWhatWasWritten : Prop :=
  ∀ (h : Hw) (a n v : Nat) (bs : List Byte),
    (∀ i, i < bs.length → (h.writeMem a bs).byte (a + i) = bs.getD i 0) ∧ (∀ b, b < a ∨ a + bs.length ≤ b → (h.writeMem a bs).byte b = h.byte b) ∧
    (∀ i, i < n → (h.writeNum a n v).byte (a + i) = BitVec.ofNat 8 (v / 256 ^ i)) ∧ ofBytes ((h.writeNum a n v).bytes a n) = v % 256 ^ n ∧
    (Memory.wf h.mem = true → Memory.wf (h.writeMem a bs).mem = true)

/-- R103, R104: every func of the integer ALU that R103 assigns writes g[d] from g[a] and g[b] and goes on at the next word; every other func takes the illegal-instruction exception with the word in TVAL (R99, R135). Division truncates toward zero, and division by zero gives all ones and the dividend. Completes: integerAlu.

R101, R102: the immediate forms. ADDI adds the sign-extended immediate, ANDI, ORI and XORI use the zero-extended one, LUI writes sign-extend(imm) << 16 and needs a = g0; a shift immediate with imm[7:6] zero and imm[15:8] at most 3 shifts or rotates by imm[5:0]. Every other encoding takes the illegal-instruction exception. Completes: addi, andi, ori, xori, lui, shiftImmediate. -/
def Obligations.IntegerAluAndImmediates : Prop :=
  (∀ (s : State) (t : Gtn) (d a b : RegNum) (f : Hw), Ready s.hw t.val 1 f →
    let x := (s.hw.thread t.val).readG a.toNat
    let y := (s.hw.thread t.val).readG b.toNat
    let sh := y.toNat % 64
    let low (z : W64) : W64 := (z.extractLsb' 0 32).signExtend 64
    let table : List (BitVec 11 × W64) :=
      [(0x000, x + y), (0x001, x - y), (0x002, x &&& y), (0x003, x ||| y), (0x004, x ^^^ y), (0x005, x &&& ~~~y),
       (0x008, x <<< sh), (0x009, x >>> sh), (0x00A, x.sshiftRight sh), (0x00B, x.rotateRight sh),
       (0x010, if x.toInt < y.toInt then 1 else 0), (0x011, if x.toNat < y.toNat then 1 else 0),
       (0x012, if x.toInt < y.toInt then x else y), (0x013, if x.toInt < y.toInt then y else x),
       (0x014, if x.toNat < y.toNat then x else y), (0x015, if x.toNat < y.toNat then y else x),
       (0x020, x * y), (0x021, BitVec.ofInt 64 (x.toInt * y.toInt / 2 ^ 64)), (0x022, BitVec.ofNat 64 (x.toNat * y.toNat / 2 ^ 64)),
       (0x024, if y = 0 then BitVec.allOnes 64 else x.sdiv y), (0x025, if y = 0 then BitVec.allOnes 64 else x / y),
       (0x026, if y = 0 then x else x.srem y), (0x027, if y = 0 then x else x % y),
       (0x030, low (x + y)), (0x031, low (x - y))]
    (∀ p ∈ table, WritesG s (.integerAlu t d a b p.1) t.val f d p.2 ((s.hw.thread t.val).pc + 4)) ∧
    (∀ func : BitVec 11, func ∉ table.map (·.1) →
      Traps s (.integerAlu t d a b func) t.val f { code := 0x04, tval := (wordR3 0x01 d a b func.toNat).zeroExtend 64 })) ∧
  (∀ (s : State) (t : Gtn) (d a : RegNum) (imm : BitVec 16) (f : Hw), Ready s.hw t.val 1 f →
    let x := (s.hw.thread t.val).readG a.toNat
    let next := (s.hw.thread t.val).pc + 4
    let sh := (imm.extractLsb' 0 6).toNat
    let kind := (imm.extractLsb' 8 8).toNat
    WritesG s (.addi t d a imm) t.val f d (x + imm.signExtend 64) next ∧
    WritesG s (.andi t d a imm) t.val f d (x &&& imm.zeroExtend 64) next ∧
    WritesG s (.ori t d a imm) t.val f d (x ||| imm.zeroExtend 64) next ∧
    WritesG s (.xori t d a imm) t.val f d (x ^^^ imm.zeroExtend 64) next ∧
    (a = 0 → WritesG s (.lui t d a imm) t.val f d (imm.signExtend 64 <<< 16) next) ∧
    (a ≠ 0 → Traps s (.lui t d a imm) t.val f { code := 0x04, tval := (wordI16 0x06 d a imm).zeroExtend 64 }) ∧
    (imm.extractLsb' 6 2 = 0 → kind ≤ 3 → WritesG s (.shiftImmediate t d a imm) t.val f d
      (if kind = 0 then x <<< sh else if kind = 1 then x >>> sh else if kind = 2 then x.sshiftRight sh else x.rotateRight sh) next) ∧
    (¬ (imm.extractLsb' 6 2 = 0 ∧ kind ≤ 3) → Traps s (.shiftImmediate t d a imm) t.val f { code := 0x04, tval := (wordI16 0x07 d a imm).zeroExtend 64 }))

/-- R101, R102: the control transfers. A conditional branch goes to its own PC plus four times the signed offset when its condition holds, and else to the next word; JAL writes PC + 4 to g31; JALR writes PC + 4 to g[d] and jumps to g[a] plus the sign-extended immediate with bits [1:0] cleared. They change the predictor, the global history and the return stack, and no other register. Completes: branch, jal, jalr. -/
def Obligations.ControlTransferResults : Prop :=
  ∀ (s : State) (t : Gtn) (a b d : RegNum) (c : Cond) (off : BitVec 16) (off26 : BitVec 26) (imm : BitVec 16) (m : Bool) (f : Hw),
    Ready s.hw t.val 1 f →
    let x := (s.hw.thread t.val).readG a.toNat
    let y := (s.hw.thread t.val).readG b.toNat
    let pc := (s.hw.thread t.val).pc
    let holds : Bool := match c with
      | .eq => decide (x = y)
      | .ne => decide (x ≠ y)
      | .lt => decide (x.toInt < y.toInt)
      | .ge => decide (y.toInt ≤ x.toInt)
      | .ltu => decide (x.toNat < y.toNat)
      | .geu => decide (y.toNat ≤ x.toNat)
    let lands (i : Instr) (target : W64) (w : Thread → Thread) : Prop :=
      ∃ (u : State) (cores : List (Nat × Core)) (gh : Nat) (rs : List W64), exec i s = .next u ∧
        Retires s u t.val { f with cores := cores } (w { (f.thread t.val).after target with ghist := gh, retStack := rs })
    lands (.branch t c a b off m) (if holds then pc + (off.signExtend 64 <<< 2) else pc + 4) id ∧
    lands (.jal t off26 m) (pc + (off26.signExtend 64 <<< 2)) (fun z => z.writeG 31 (pc + 4)) ∧
    lands (.jalr t d a imm m) ((x + imm.signExtend 64) &&& ~~~3) (fun z => z.writeG d.toNat (pc + 4))

/-- R118, R119: the scalar helpers. PAR and POPC give the parity and the number of one bits, BREV8 reverses the bits of each byte, BREV64 those of the word, CLZ and CTZ count leading and trailing zeros with 64 for zero; CRC32C folds 1, 2, 4 or 8 bytes of g[b] into the low half of g[a]. A unary helper whose b field is not zero is illegal. Completes: crc32c, par, popc, brev8, brev64, clz, ctz.

R100, R101: a PFX and the word after it are one instruction of two words with the 42-bit immediate, sign-extended: the immediate forms and JALR (loads and stores have their own statements). A PFX before any other word is illegal, and TVAL holds that word. Completes: pfx. -/
def Obligations.HelpersAndPrefixedPairs : Prop :=
  (∀ (s : State) (t : Gtn) (d a b : RegNum) (size : BitVec 2) (f : Hw), Ready s.hw t.val 1 f →
    let x := (s.hw.thread t.val).readG a.toNat
    let y := (s.hw.thread t.val).readG b.toNat
    let next := (s.hw.thread t.val).pc + 4
    let ones := (List.range 64).countP (fun i => x.getLsbD i)
    let unary (i : Instr) (func : Nat) (v : W64) : Prop :=
      (b = 0 → WritesG s i t.val f d v next) ∧ (b ≠ 0 → Traps s i t.val f { code := 0x04, tval := (wordR3 0x32 d a b func).zeroExtend 64 })
    let crc1 (c : BitVec 32) (byte : BitVec 8) : BitVec 32 :=
      (List.range 8).foldl (fun c _ => if c.getLsbD 0 then (c >>> 1) ^^^ 0x82f63b78 else c >>> 1) (c ^^^ byte.zeroExtend 32)
    unary (.par t d a b) 0x010 (BitVec.ofNat 64 (ones % 2)) ∧
    unary (.popc t d a b) 0x011 (BitVec.ofNat 64 ones) ∧
    (∃ v, unary (.brev8 t d a b) 0x012 v ∧ ∀ i < 64, v.getLsbD i = x.getLsbD (8 * (i / 8) + (7 - i % 8))) ∧
    (∃ v, unary (.brev64 t d a b) 0x013 v ∧ ∀ i < 64, v.getLsbD i = x.getLsbD (63 - i)) ∧
    (∃ n, unary (.clz t d a b) 0x014 (BitVec.ofNat 64 n) ∧ (x = 0 → n = 64) ∧ (x ≠ 0 → n < 64 ∧ x.getLsbD (63 - n) = true ∧ ∀ i, 63 - n < i → x.getLsbD i = false)) ∧
    (∃ n, unary (.ctz t d a b) 0x015 (BitVec.ofNat 64 n) ∧ (x = 0 → n = 64) ∧ (x ≠ 0 → n < 64 ∧ x.getLsbD n = true ∧ ∀ i < n, x.getLsbD i = false)) ∧
    WritesG s (.crc32c t d a b size) t.val f d
      (((List.range (2 ^ size.toNat)).foldl (fun c k => crc1 c (y.extractLsb' (8 * k) 8)) (x.extractLsb' 0 32)).zeroExtend 64) next) ∧
  (∀ (s : State) (t : Gtn) (ext : BitVec 26) (next : W32) (st m : Bool) (d a : RegNum) (f : Hw), Ready s.hw t.val 2 f →
    let i : Instr := .pfx t ext next st m
    let x := (s.hw.thread t.val).readG a.toNat
    let pc := (s.hw.thread t.val).pc
    let imm := pairImm ext next
    let major := (next.extractLsb' 26 6).toNat
    let bad := Traps s i t.val f { code := 0x04, tval := next.zeroExtend 64 }
    (I16Word next 0x02 d a → WritesG s i t.val f d (x + imm) (pc + 8)) ∧
    (I16Word next 0x03 d a → WritesG s i t.val f d (x &&& imm) (pc + 8)) ∧
    (I16Word next 0x04 d a → WritesG s i t.val f d (x ||| imm) (pc + 8)) ∧
    (I16Word next 0x05 d a → WritesG s i t.val f d (x ^^^ imm) (pc + 8)) ∧
    (I16Word next 0x06 d a → (a = 0 → WritesG s i t.val f d (imm <<< 16) (pc + 8)) ∧ (a ≠ 0 → bad)) ∧
    (I16Word next 0x1F d a → ∃ (u : State) (cores : List (Nat × Core)) (gh : Nat) (rs : List W64), exec i s = .next u ∧
      Retires s u t.val { f with cores := cores }
        ({ (f.thread t.val).after ((x + imm) &&& ~~~3) with ghist := gh, retStack := rs }.writeG d.toNat (pc + 8))) ∧
    (major ∉ [0x02, 0x03, 0x04, 0x05, 0x06, 0x08, 0x09, 0x0A, 0x0B, 0x0C, 0x0D, 0x0E, 0x10, 0x11, 0x12, 0x13, 0x1F] → bad))

/-- R87, R88, R107: the integer vector operations work lane by lane on the active lanes; an inactive lane keeps its value, or becomes zero when Z is 1. While VEN is 0 they take the vector-disabled exception with nothing touched, and a func that the table does not hold is illegal. Completes: vectorAlu, vectorFp.

R87, R88, R95, R107: the floating-point vector operations compute every active lane of 2, 4 or 8 bytes as the scalar operation of the same name does, VFMA with the lane of vd as its addend, and add the flags of the active lanes to cr.fpcsr; lanes of one byte are illegal. Completes: vectorAlu, vectorFp. -/
def Obligations.VectorLaneResults : Prop :=
  (∀ (s : State) (t : Gtn) (v : VFields) (f : Hw), Ready s.hw t.val 1 f →
    let x := s.hw.thread t.val
    let e := 2 ^ v.esize.toNat
    let w := 8 * e
    let p := x.readP v.pred.toNat
    let a (i : Nat) := lane e (x.readV v.a.toNat) i
    let b (i : Nat) := lane e (x.readV v.b.toNat) i
    let sg (n : Nat) : Int := if n < 2 ^ (w - 1) then n else (n : Int) - 2 ^ w
    let table : List (BitVec 5 × (Nat → Nat)) :=
      [(0x00, fun i => (a i + b i) % 2 ^ w), (0x01, fun i => (a i + 2 ^ w - b i) % 2 ^ w), (0x02, fun i => a i &&& b i),
       (0x03, fun i => a i ||| b i), (0x04, fun i => a i ^^^ b i), (0x08, fun i => a i * b i % 2 ^ w),
       (0x0C, fun i => if sg (a i) ≤ sg (b i) then a i else b i), (0x0D, fun i => if sg (a i) ≤ sg (b i) then b i else a i),
       (0x0E, fun i => if a i ≤ b i then a i else b i), (0x0F, fun i => if a i ≤ b i then b i else a i)]
    (∀ c ∈ table, ∀ i ∈ [Instr.vectorAlu t v c.1, Instr.vectorFp t v c.1],
      (x.ven = true → ∃ u r, exec i s = .next u ∧ Retires s u t.val f (((f.thread t.val).after (x.pc + 4)).writeV v.d.toNat r) ∧
        ∀ n < 64 / e, lane e r n = if p.getLsbD (n * e) then c.2 n else if v.z then 0 else lane e (x.readV v.d.toNat) n) ∧
      (x.ven = false → Traps s i t.val f { code := 0x06, tval := (wordV 0x20 v c.1).zeroExtend 64 })) ∧
    (∀ func : BitVec 5, func ∉ table.map (·.1) → ¬ (0x10 ≤ func.toNat ∧ func.toNat ≤ 0x16) →
      ∀ i ∈ [Instr.vectorAlu t v func, Instr.vectorFp t v func],
        Traps s i t.val f { code := 0x04, tval := (wordV 0x20 v func).zeroExtend 64 })) ∧
  (∀ (s : State) (t : Gtn) (v : VFields) (f : Hw), Ready s.hw t.val 1 f →
    let x := s.hw.thread t.val
    let e := 2 ^ v.esize.toNat
    let p := x.readP v.pred.toNat
    let fm := fmtOf v.esize.toNat
    let ctl := fctlOf x.fpcsr
    let table : List (BitVec 5 × FOp) := [(0x10, .add), (0x11, .sub), (0x12, .mul), (0x13, .fma), (0x14, .div), (0x15, .min), (0x16, .max)]
    ∀ c ∈ table, ∀ i ∈ [Instr.vectorAlu t v c.1, Instr.vectorFp t v c.1],
      let res (n : Nat) := c.2.run fm ctl (lane e (x.readV v.a.toNat) n) (lane e (x.readV v.b.toNat) n) (lane e (x.readV v.d.toNat) n)
      (v.esize = 0 → Traps s i t.val f { code := 0x04, tval := (wordV 0x20 v c.1).zeroExtend 64 }) ∧
      (v.esize ≠ 0 → x.ven = false → Traps s i t.val f { code := 0x06, tval := (wordV 0x20 v c.1).zeroExtend 64 }) ∧
      (v.esize ≠ 0 → x.ven = true → ∃ (u : State) (r : V512) (fl : W64), exec i s = .next u ∧
          Retires s u t.val f { ((f.thread t.val).after (x.pc + 4)).writeV v.d.toNat r with fpcsr := x.fpcsr ||| fl } ∧
          (∀ n < 64 / e, lane e r n = if p.getLsbD (n * e) then (res n).1 % 2 ^ (8 * e) else if v.z then 0 else lane e (x.readV v.d.toNat) n) ∧
          (∀ k : Nat, fl.getLsbD k = decide (∃ n < 64 / e, p.getLsbD (n * e) = true ∧ (res n).2.word.getLsbD k = true))))

/-- R85 to R88, R102, R107: PCOMP writes a predicate whose bits in a lane are the lane's compare, and 0 in the lanes that are not active; PAND, POR, PXOR and PNOT work on whole predicates. A write to p0 is discarded and p0 reads as all ones. A func that the table does not hold and a predicate number above 7 are illegal; while VEN is 0 the others take the vector-disabled exception. Completes: pcomp, pand, por, pxor, pnot. -/
def Obligations.PredicateResults : Prop :=
  ∀ (s : State) (t : Gtn) (v : VFields) (d a b : RegNum) (f : Hw), Ready s.hw t.val 1 f →
    let x := s.hw.thread t.val
    let e := 2 ^ v.esize.toNat
    let w := 8 * e
    let next := x.pc + 4
    let la (i : Nat) := lane e (x.readV v.a.toNat) i
    let lb (i : Nat) := lane e (x.readV v.b.toNat) i
    let sg (n : Nat) : Int := if n < 2 ^ (w - 1) then n else (n : Int) - 2 ^ w
    let table : List (BitVec 5 × (Nat → Bool)) :=
      [(0x00, fun i => decide (la i = lb i)), (0x01, fun i => decide (la i ≠ lb i)), (0x02, fun i => decide (sg (la i) < sg (lb i))),
       (0x03, fun i => decide (la i < lb i)), (0x04, fun i => decide (sg (la i) ≤ sg (lb i))), (0x05, fun i => decide (la i ≤ lb i))]
    let ftable : List (BitVec 5 × FCmpOp) := [(0x08, .eq), (0x09, .lt), (0x0A, .le), (0x0B, .unord)]
    let writesP (i : Instr) (n : Nat) (r : W64) : Prop :=
      ∃ u, exec i s = .next u ∧ Retires s u t.val f (if n = 0 then (f.thread t.val).after next else { (f.thread t.val).after next with p := put (f.thread t.val).p n r })
    let cword (func : BitVec 5) : W64 := (wordV 0x22 v func).zeroExtend 64
    let lword (func : Nat) : W64 := (wordR3 0x25 d a b func).zeroExtend 64
    let known (func : BitVec 5) : Prop := func ∈ table.map (·.1) ∨ (func ∈ ftable.map (·.1) ∧ v.esize ≠ 0)
    let names : Prop := d.toNat < 8 ∧ a.toNat < 8 ∧ b.toNat < 8
    let logic : List (Nat × Instr) := [(0, .pand t d a b), (1, .por t d a b), (2, .pxor t d a b), (3, .pnot t d a b)]
    (∀ func, 8 ≤ v.d.toNat ∨ ¬ known func → Traps s (.pcomp t v func) t.val f { code := 0x04, tval := cword func }) ∧
    (∀ func, v.d.toNat < 8 → known func → x.ven = false → Traps s (.pcomp t v func) t.val f { code := 0x06, tval := cword func }) ∧
    (∀ q ∈ logic, (¬ names ∨ (q.1 = 3 ∧ b ≠ 0) → Traps s q.2 t.val f { code := 0x04, tval := lword q.1 }) ∧
      (names → (q.1 = 3 → b = 0) → x.ven = false → Traps s q.2 t.val f { code := 0x06, tval := lword q.1 })) ∧
    (x.ven = true → v.d.toNat < 8 → ∀ c ∈ table, ∃ r : W64, writesP (.pcomp t v c.1) v.d.toNat r ∧
      ∀ k < 64, r.getLsbD k = ((x.readP v.pred.toNat).getLsbD (k / e * e) && c.2 (k / e))) ∧
    (x.ven = true → v.d.toNat < 8 → v.esize ≠ 0 → ∀ c ∈ ftable, ∃ (u : State) (r fl : W64), exec (.pcomp t v c.1) s = .next u ∧
      Retires s u t.val f { ((f.thread t.val).after next).writeP v.d.toNat r with fpcsr := x.fpcsr ||| fl } ∧
      ∀ k < 64, r.getLsbD k = ((x.readP v.pred.toNat).getLsbD (k / e * e) && (c.2.run (fmtOf v.esize.toNat) (la (k / e)) (lb (k / e))).1)) ∧
    (x.ven = true → names →
      writesP (.pand t d a b) d.toNat (x.readP a.toNat &&& x.readP b.toNat) ∧
      writesP (.por t d a b) d.toNat (x.readP a.toNat ||| x.readP b.toNat) ∧
      writesP (.pxor t d a b) d.toNat (x.readP a.toNat ^^^ x.readP b.toNat) ∧
      (b = 0 → writesP (.pnot t d a b) d.toNat (~~~ x.readP a.toNat)))

/-- R109: the permutes. VCOMPRESS packs the active lanes of va in ascending order and zeroes or keeps the rest; VEXPAND puts consecutive low lanes into the active lanes; VBCAST copies the low bytes of g[ga]; VEXTRACT reads and VINSERT replaces lane g[gb] mod (64 / e), and both need pred 0; while VEN is 0 the permutes take the vector-disabled exception. Completes: vcompress, vexpand, vbcast, vextract, vinsert. -/
def Obligations.PermuteResults : Prop :=
  ∀ (s : State) (t : Gtn) (v : VFields) (f : Hw), Ready s.hw t.val 1 f →
    let x := s.hw.thread t.val
    let e := 2 ^ v.esize.toNat
    let m := 64 / e
    let p := x.readP v.pred.toNat
    let active (i : Nat) : Bool := p.getLsbD (i * e)
    let a (i : Nat) := lane e (x.readV v.a.toNat) i
    let old (i : Nat) := lane e (x.readV v.d.toNat) i
    let ga := (x.readG v.a.toNat).toNat
    let gi := (x.readG v.b.toNat).toNat % m
    let next := x.pc + 4
    let writesV (i : Instr) (q : Nat → Nat → Prop) : Prop :=
      ∃ u r, exec i s = .next u ∧ Retires s u t.val f (((f.thread t.val).after next).writeV v.d.toNat r) ∧ ∀ n < m, q n (lane e r n)
    let word (func : BitVec 5) : W64 := (wordV 0x24 v func).zeroExtend 64
    let all : List (BitVec 5 × Instr) := [(0, .vcompress t v), (1, .vexpand t v), (2, .vbcast t v), (3, .vextract t v), (4, .vinsert t v)]
    (∀ q ∈ all, q.1 ∉ [3, 4] ∨ v.pred = 0 → x.ven = false → Traps s q.2 t.val f { code := 0x06, tval := word q.1 }) ∧
    (∀ q ∈ all, q.1 ∈ [3, 4] → v.pred ≠ 0 → Traps s q.2 t.val f { code := 0x04, tval := word q.1 }) ∧ (x.ven = true →
    writesV (.vcompress t v) (fun n y =>
      (∀ j < m, active j = true → (List.range j).countP active = n → y = a j) ∧
      ((List.range m).countP active ≤ n → y = if v.z then 0 else old n)) ∧
    writesV (.vexpand t v) (fun n y => y = if active n then a ((List.range n).countP active) else if v.z then 0 else old n) ∧
    writesV (.vbcast t v) (fun n y => y = if active n then ga % 2 ^ (8 * e) else if v.z then 0 else old n) ∧
    (v.pred = 0 → WritesG s (.vextract t v) t.val f v.d (BitVec.ofNat 64 (a gi)) next) ∧
    (v.pred = 0 → writesV (.vinsert t v) (fun n y => y = if n = gi then ga % 2 ^ (8 * e) else old n)))

/-- R95, R683: scalar floating point. With FMT naming a format and func bit 10 zero, each operation writes its result, zero-extended, to g[d] and adds its flags to cr.fpcsr; FMA takes g[d] as its addend; FSQRT and FCVT need b = 0, and a conversion between formats two different formats. Any other word is illegal. Completes: fadd, fsub, fmul, fdiv, fsqrt, fma, fmin, fmax, fcmp, fcvt.

R95, R683: what a compare gives and when it sets NV, and the minimum and maximum of two numbers. A NaN is never equal to, below or above an operand; FCMP.EQ and FCMP.UNORD set NV for a signalling NaN alone, FCMP.LT and FCMP.LE for any NaN; FMIN and FMAX of one NaN and one finite normal number give the number. -/
def Obligations.ScalarFloatAndNans : Prop :=
  (∀ (s : State) (t : Gtn) (d a b : RegNum) (fmt : FmtField) (f : Hw), Ready s.hw t.val 1 f →
    let x := s.hw.thread t.val
    let ga := (x.readG a.toNat).toNat
    let gb := (x.readG b.toNat).toNat
    let gd := (x.readG d.toNat).toNat
    let fm := fmtOf fmt.fmt.toNat
    let c := fctlOf x.fpcsr
    let good : Bool := fmt.hi == 0 && fmt.fmt != 0
    let is (i : Instr) (op : Nat) (ok : Bool) (r : Nat × FFlags) : Prop :=
      (good = true → ok = true → ∃ u, exec i s = .next u ∧
          Retires s u t.val f { ((f.thread t.val).after (x.pc + 4)).writeG d.toNat (BitVec.ofNat 64 r.1) with fpcsr := x.fpcsr ||| r.2.word }) ∧
      (¬ (good = true ∧ ok = true) → Traps s i t.val f { code := 0x04, tval := (wordR3 0x28 d a b (fmt.hi.toNat <<< 10 ||| fmt.fmt.toNat <<< 8 ||| op)).zeroExtend 64 })
    let cmp (o : FCmpOp) : Nat × FFlags := (if (o.run fm ga gb).1 then 1 else 0, (o.run fm ga gb).2)
    is (.fadd t d a b fmt) 0x00 true (fm.add c false (fm.decode ga) (fm.decode gb)) ∧
    is (.fsub t d a b fmt) 0x01 true (fm.add c true (fm.decode ga) (fm.decode gb)) ∧
    is (.fmul t d a b fmt) 0x02 true (fm.mul c (fm.decode ga) (fm.decode gb)) ∧
    is (.fdiv t d a b fmt) 0x03 true (fm.div c (fm.decode ga) (fm.decode gb)) ∧
    is (.fsqrt t d a b fmt) 0x04 (b == 0) (fm.sqrt c (fm.decode ga)) ∧
    is (.fma t d a b fmt) 0x05 true (fm.fma c (fm.decode ga) (fm.decode gb) (fm.decode gd)) ∧
    is (.fmin t d a b fmt) 0x06 true (fm.minMax c false (fm.decode ga) (fm.decode gb)) ∧
    is (.fmax t d a b fmt) 0x07 true (fm.minMax c true (fm.decode ga) (fm.decode gb)) ∧
    is (.fcmp t d a b fmt .eq) 0x08 true (cmp .eq) ∧
    is (.fcmp t d a b fmt .lt) 0x09 true (cmp .lt) ∧
    is (.fcmp t d a b fmt .le) 0x0A true (cmp .le) ∧
    is (.fcmp t d a b fmt .unord) 0x0B true (cmp .unord) ∧
    is (.fcvt t d a b fmt .from16) 0x10 (b == 0 && fmt.fmt != 1) (fm.convert c ((fmtOf 1).decode ga)) ∧
    is (.fcvt t d a b fmt .from32) 0x11 (b == 0 && fmt.fmt != 2) (fm.convert c ((fmtOf 2).decode ga)) ∧
    is (.fcvt t d a b fmt .from64) 0x12 (b == 0 && fmt.fmt != 3) (fm.convert c ((fmtOf 3).decode ga)) ∧
    is (.fcvt t d a b fmt .toS) 0x14 (b == 0) ((toInt64 c true (fm.decode ga)).1.toNat, (toInt64 c true (fm.decode ga)).2) ∧
    is (.fcvt t d a b fmt .toU) 0x15 (b == 0) ((toInt64 c false (fm.decode ga)).1.toNat, (toInt64 c false (fm.decode ga)).2) ∧
    is (.fcvt t d a b fmt .fromS) 0x16 (b == 0) (fm.fromInt64 c true (x.readG a.toNat)) ∧
    is (.fcvt t d a b fmt .fromU) 0x17 (b == 0) (fm.fromInt64 c false (x.readG a.toNat))) ∧
  (∀ (fm : FFmt) (c : FCtl) (a b : Nat),
    let nan := (fm.decode a).isNan || (fm.decode b).isNan
    let snan := (fm.decode a).snan || (fm.decode b).snan
    (nan = true → (FCmpOp.eq.run fm a b).1 = false ∧ (FCmpOp.lt.run fm a b).1 = false ∧ (FCmpOp.le.run fm a b).1 = false) ∧
    ((FCmpOp.unord.run fm a b).1 = nan) ∧
    ((FCmpOp.eq.run fm a b).2 = { nv := snan }) ∧ ((FCmpOp.unord.run fm a b).2 = { nv := snan }) ∧
    ((FCmpOp.lt.run fm a b).2 = { nv := nan }) ∧ ((FCmpOp.le.run fm a b).2 = { nv := nan }) ∧
    (nan = true → ∀ o ∈ [FOp.add, FOp.sub, FOp.mul, FOp.div], o.run fm c a b 0 = (fm.qnan, { nv := snan })) ∧
    ((fm.decode a).isNan = true → (fm.decode b).isNan = true → ∀ o ∈ [FOp.min, FOp.max], o.run fm c a b 0 = (fm.qnan, { nv := snan })))

/-- R95: a finite number of a format, brought through the rounding of the same format, is itself and sets no flag, whatever the rounding mode; a subnormal one only while FTZ is 0. -/
def Obligations.FloatRoundingIsExactOnTheFormat : Prop :=
  ∀ (code : Nat) (c : FCtl) (x : Nat) (neg : Bool) (m : Nat) (e : Int), code ∈ [1, 2, 3] →
    let fm := fmtOf code
    x < 2 ^ (1 + fm.eb + fm.fb) → fm.decode x = .fin neg m e → (c.ftz = false ∨ m = 0 ∨ 2 ^ fm.fb ≤ m) →
      fm.convert c (.fin neg m e) = (x, {})

/-- R102, R105, R106, R175, R211, R215: a scalar load of N-WB or N-NC memory. Every part of the access is checked before any byte moves: if a check fails, its cause is taken and nothing is loaded. Otherwise g[d] takes the bytes at g[a] plus the displacement, little-endian and extended, as the thread's own earlier stores and then memory give them; an access across two lines or pages has two parts. Nothing else that software sees of any thread changes, and no byte of memory. Parts of N-NC memory are first asked of the home, and the load completes when their data is here; a load that is not settled completes on N-WB memory alone (R60). Completes: load.

R102, R105, R106, R211, R214, R228: a scalar store to N-WB or N-NC memory. Every part is checked before any byte is written: if a check fails, its cause is taken and nothing is stored. Otherwise only the bytes at g[a] plus the displacement can change; they are the low bytes of g[d], little-endian. A part of N-WB memory whose line the die owns, with no older store of the thread waiting for that line, is written to memory at once, and else it waits in the thread's store queue. A part of N-NC memory goes into a write-combining buffer, where the thread's own loads read it. No register changes. Completes: store. -/
def Obligations.ScalarLoadsAndStores : Prop :=
  (∀ (s : State) (i : Instr) (t : Gtn) (k : LoadKind) (d a : RegNum) (off : W64) (words : Nat) (st : Bool) (f : Hw),
    LoadForm i t k d a off words st → Ready s.hw t.val words f →
    let x := s.hw.thread t.val
    let va := x.readG a.toNat + off
    let size := (loadTable k).2.1
    let settled := s.hw.loadSettled t.val st
    let checked := checkWants t.val size true (sortWants (wants .load (va, size))) (f.fetched t.val)
    (∀ h1 c, checked = .error (h1, c) → c.code ≠ 0 → settled = true → exec i s = .next { s with hw := syncTrap (h1.dropWalks t.val x) t.val c }) ∧
    (∀ h1 ps, checked = .ok (h1, ps) → h1.openFills t.val = [] → LoadGoes h1 t.val ps →
      (settled = true ∧ (∀ p ∈ ps, p.mt ≤ 1) ∧ ncMissing h1 t.val ps = []) ∨ (settled = false ∧ (∀ p ∈ ps, p.mt = 0) ∧ Provisional s.hw h1 t.val ps) →
      ∃ u y v, exec i s = .next u ∧ u.pending = s.pending ∧ x.FetchKept y ∧
        u.hw.thread t.val = (y.after (x.pc + BitVec.ofNat 64 (4 * words))).writeG d.toNat v ∧
        (∀ n, n ≠ t.val → (s.hw.thread n).FetchKept (u.hw.thread n)) ∧
        u.hw.mem = h1.mem ∧
        (∀ (n pa pb m1 m2 : Nat),
          (ps = [⟨va, pa, size, m1⟩] ∧ n = size) ∨ (n < size ∧ ps = [⟨va, pa, n, m1⟩, ⟨va + BitVec.ofNat 64 n, pb, size - n, m2⟩]) →
          (∀ p ∈ ps, ∀ j < p.len, h1.lineStale t.val (lineOf (p.pa + j)) = false) →
          let raw := ofBytes ((List.range size).map (fun j => ownByte h1 t.val (if j < n then pa + j else pb + (j - n))))
          v = if (loadTable k).2.2 then (BitVec.ofNat (8 * size) raw).signExtend 64 else BitVec.ofNat 64 raw)) ∧
    (∀ h1 ps, checked = .ok (h1, ps) → h1.openFills t.val = [] → siblingHolds h1 t.val ps = false → settled = true → (∀ p ∈ ps, p.mt ≤ 1) → ncMissing h1 t.val ps ≠ [] →
      exec i s = .next { s with hw := ((ncMissing h1 t.val ps).foldl (fun (h : Hw) l => h.ncAsk t.val l) h1).tryEnds t.val x })) ∧
  (∀ (s : State) (i : Instr) (t : Gtn) (k : StoreKind) (d a : RegNum) (off : W64) (words : Nat) (f : Hw),
    StoreForm i t k d a off words → Ready s.hw t.val words f →
    let x := s.hw.thread t.val
    let va := x.readG a.toNat + off
    let size := (storeTable k).2
    let data (j : Nat) : Byte := (x.readG d.toNat).extractLsb' (8 * j) 8
    let checked := checkWants t.val size true (sortWants (wants .store (va, size))) (f.fetched t.val)
    (∀ h1 c, checked = .error (h1, c) → c.code ≠ 0 → exec i s = .next { s with hw := syncTrap (h1.dropWalks t.val x) t.val c }) ∧
    (∀ h1 ps, checked = .ok (h1, ps) → Memory.wf h1.mem = true → (∀ p ∈ ps, p.mt ≤ 1) → StoreGoes h1 t.val ps →
      ∃ u y, exec i s = .next u ∧ u.pending = s.pending ∧ Thread.FetchKept { x with sq := y.sq, sqe := y.sqe } y ∧
        u.hw.thread t.val = y.after (x.pc + BitVec.ofNat 64 (4 * words)) ∧
        (∀ n, n ≠ t.val → (s.hw.thread n).FetchKept (u.hw.thread n)) ∧
        (∀ b, (∀ p ∈ ps, p.mt = 0 → ∀ j < p.len, b ≠ p.pa + j) → u.hw.byte b = h1.byte b) ∧
        (∀ pa, ps = [⟨va, pa, size, 1⟩] → y.sq = (h1.thread t.val).sq ∧ ∀ j < size, ownByte u.hw t.val (pa + j) = data j) ∧
        (∀ pa, ps = [⟨va, pa, size, 0⟩] →
          let die := dieOfThread t.val
          let line := lineOf pa
          let now := h1.dieOwns die line && ((h1.thread t.val).sqLine line).isEmpty && !has (h1.cdie die).lost line
          (now = true → has (h1.cdie die).stale line = false → y.sq = (h1.thread t.val).sq ∧ ∀ j < size, u.hw.byte (pa + j) = data j) ∧
          (now = false → u.hw.mem = h1.mem ∧ y.sq = (h1.thread t.val).sq ++ (List.range size).map (fun j => (pa + j, data j))))))

/-- R88, R105, R106, R108: VLD and VST of N-WB and N-NC memory. Lane i is at g[ga] + i × e when gb names g0 and else at g[ga] + i × g[gb]; only active lanes are accessed. Every part is checked before any byte moves, and a failed check is taken with nothing written. Otherwise VLD completes, fills the active lanes and zeroes or keeps the others; VST completes, its thread then reads the active lanes' bytes where it stored them, the last lane winning, and no other byte of memory changes. While VEN is 0 both take the vector-disabled exception. Completes: vld, vst. -/
def Obligations.VectorMemoryResults : Prop :=
  ∀ (s : State) (t : Gtn) (v : VFields) (st : Bool) (f : Hw), Ready s.hw t.val 1 f →
    let x := s.hw.thread t.val
    let e := 2 ^ v.esize.toNat
    let g0 := f.fetched t.val
    let settled := s.hw.loadSettled t.val st
    let active (n : Nat) : Bool := (x.readP v.pred.toNat).getLsbD (n * e)
    let at' (n : Nat) : W64 := x.readG v.a.toNat + BitVec.ofNat 64 n * (if v.b = 0 then BitVec.ofNat 64 e else x.readG v.b.toNat)
    let lanes := ((List.range (64 / e)).filter active).map (fun n => (n, at' n))
    let checked (acc : Acc) := checkWants t.val e (decide (e = 8)) (sortWants (lanes.flatMap (fun q => wants acc (q.2, e)))) g0
    let plain (acc : Acc) : Prop := byLanes (laneChecks t.val e acc lanes g0).2.1 = false
    (x.ven = false →
      (settled = true → Traps s (.vld t v st) t.val f { code := 0x06, tval := (wordV 0x21 v 0).zeroExtend 64 }) ∧
      Traps s (.vst t v) t.val f { code := 0x06, tval := (wordV 0x21 v 1).zeroExtend 64 }) ∧
    (x.ven = true → plain .load →
      (∀ h1 c, checked .load = .error (h1, c) → c.code ≠ 0 → settled = true → exec (.vld t v st) s = .next { s with hw := syncTrap (h1.dropWalks t.val x) t.val c }) ∧
      (∀ h1 ps, checked .load = .ok (h1, ps) → h1.openFills t.val = [] → LoadGoes h1 t.val ps →
        (settled = true ∧ (∀ p ∈ ps, p.mt ≤ 1) ∧ ncMissing h1 t.val ps = []) ∨ (settled = false ∧ (∀ p ∈ ps, p.mt = 0) ∧ Provisional s.hw h1 t.val ps) →
        ∃ u y r, exec (.vld t v st) s = .next u ∧ u.pending = s.pending ∧ x.FetchKept y ∧
          u.hw.thread t.val = (y.after (x.pc + 4)).writeV v.d.toNat r ∧
          (∀ n, n ≠ t.val → (s.hw.thread n).FetchKept (u.hw.thread n)) ∧ u.hw.mem = h1.mem ∧
          ∀ n < 64 / e, lane e r n = if active n then numAt (loadPieces t.val ps h1).2 (at' n) e
            else if v.z then 0 else lane e (x.readV v.d.toNat) n)) ∧
    (x.ven = true → plain .store →
      (∀ h1 c, checked .store = .error (h1, c) → c.code ≠ 0 → exec (.vst t v) s = .next { s with hw := syncTrap (h1.dropWalks t.val x) t.val c }) ∧
      (∀ h1 ps m, checked .store = .ok (h1, ps) → m ≤ 1 → (∀ p ∈ ps, p.mt = m ∧ has (h1.cdie (dieOfThread t.val)).stale (lineOf p.pa) = false) →
        Memory.wf h1.mem = true → StoreGoes h1 t.val ps →
        ∃ u y, exec (.vst t v) s = .next u ∧ u.pending = s.pending ∧ Thread.FetchKept { x with sq := y.sq, sqe := y.sqe } y ∧
          u.hw.thread t.val = y.after (x.pc + 4) ∧
          (∀ n, n ≠ t.val → (s.hw.thread n).FetchKept (u.hw.thread n)) ∧
          (∀ b, (m = 0 → ∀ q ∈ lanes, ∀ p ∈ partsOf ps (q.2, e), ∀ j < p.len, b ≠ p.pa + j) → u.hw.byte b = h1.byte b) ∧
          (∀ q ∈ lanes, ∀ pa j, partsOf ps (q.2, e) = [⟨q.2, pa, e, m⟩] → j < e →
            (∀ r ∈ lanes, q.1 < r.1 → ∀ p ∈ partsOf ps (r.2, e), ∀ i < p.len, pa + j ≠ p.pa + i) →
            ownByte u.hw t.val (pa + j) = BitVec.ofNat 8 (lane e (x.readV v.d.toNat) q.1 >>> (8 * j)))))

/-- R236 to R240, R684: the reserved pair. LRES of a line that the die owns loads the word, sign-extended for .W, sets the reservation and starts a hold unless one is barred; of a line it does not own it has its request for ownership sent or waiting, and is run again. SCOND succeeds when the thread holds the reservation on the same address and size in a line that its die owns and no spurious cause meets it: it stores and writes 0; else it writes 1 and stores nothing; either way it completes, and reservation and hold end. A misaligned address, and LRES with a field that is not zero, take their exceptions. A hold also ends by its own timeout. Completes: lres, scond, lresHoldExpire. -/
def Obligations.ReservedPairResults : Prop :=
  ∀ (s : State) (t : Gtn) (d a b : RegNum) (wide spur : Bool) (f h1 : Hw) (p : MemPart), Ready s.hw t.val 1 f →
    let x := s.hw.thread t.val
    let va := x.readG a.toNat
    let line := lineOf p.pa
    let die := dieOfThread t.val
    let size := if wide then 8 else 4
    let goes : Prop := siblingHolds h1 t.val [p] = false ∧ ((h1.thread t.val).sqLine line).isEmpty = true ∧ aliasWaits h1 t.val [p] = false
    (b ≠ 0 → Traps s (.lres t d a b wide) t.val f { code := 0x04, tval := (wordR3 0x30 d a b (if wide then 1 else 0)).zeroExtend 64 }) ∧
    (va.toNat % size ≠ 0 → b = 0 → Traps s (.lres t d a b wide) t.val f { code := 0x07, tval := va }) ∧
    (va.toNat % size ≠ 0 → Traps s (.scond t d a b wide spur) t.val f { code := 0x07, tval := va }) ∧
    (resCheck t.val wide va .load (f.fetched t.val) = .ok (h1, p) → b = 0 → goes →
      (h1.dieOwns die line = true → ∃ u, exec (.lres t d a b wide) s = .next u ∧ u.pending = s.pending ∧
        (u.hw.thread t.val).resv = some ⟨line, p.pa, size⟩ ∧
        (x.hold = none → (u.hw.thread t.val).pc = x.pc + 4 ∧ u.hw.mem = h1.mem ∧
          (x.noHoldUntil ≤ s.hw.now → (u.hw.thread t.val).hold = some line) ∧
          (u.hw.lineStale t.val line = false → (u.hw.thread t.val).readG d.toNat = if d = 0 then 0 else
            (BitVec.ofNat (8 * size) (ofBytes ((List.range size).map (fun j => ownByte u.hw t.val (p.pa + j))))).signExtend 64))) ∧
      (h1.dieOwns die line = false → ∃ u y, exec (.lres t d a b wide) s = .next u ∧ u.pending = s.pending ∧ x.FetchKept y ∧ u.hw.thread t.val = y ∧
        (has (u.hw.cdie die).miss line = true ∨ ((u.hw.cdie die).parked.any (fun m => m.addr == line)) = true) ∧ u.hw.mem = h1.mem)) ∧
    (resCheck t.val wide va .store (f.fetched t.val) = .ok (h1, p) → goes → Memory.wf h1.mem = true →
      let ok : Bool := decide ((f.thread t.val).resv = some ⟨line, p.pa, size⟩) && h1.dieOwns die line && !spur
      ∃ (u : State) (y : Thread), exec (.scond t d a b wide spur) s = .next u ∧ u.pending = s.pending ∧ Thread.FetchKept x { y with hold := x.hold } ∧
        u.hw.thread t.val = ({ y with resv := none, hold := none }.after (x.pc + 4)).writeG d.toNat (if ok then 0 else 1) ∧
        (∀ n, n ≠ t.val → (s.hw.thread n).FetchKept (u.hw.thread n)) ∧
        (ok = false → u.hw.mem = h1.mem) ∧
        (ok = true → has (h1.cdie die).stale line = false →
          ∀ n, u.hw.byte n = if p.pa ≤ n ∧ n < p.pa + size then (x.readG b.toNat).extractLsb' (8 * (n - p.pa)) 8 else h1.byte n)) ∧
    ∃ u, exec (.lresHoldExpire t) s = .next u ∧ u.pending = s.pending ∧
      (x.hold = none → u = s) ∧
      (x.hold ≠ none → u.hw = (s.hw.onThread t.val (fun x => { x with hold := none, noHoldUntil := s.hw.now + s.hw.cycNs t.val 512 })).serveHeld die)

/-- R110 to R115: a long instruction that is given one chunk. It starts at DONE of a cr.progress with VALID, its own OPTAG and, for BMOVE, its own direction, and else at 0. At or past its end it writes 0 to cr.progress and retires with no access. Otherwise it does its next chunk: after the last one it retires in the same way, after any other cr.progress holds VALID, its direction, its OPTAG and the new DONE, and the PC stays. A chunk that fails its checks leaves DONE at the work before it, and its cause is taken. BCRC into one of its operands and VGATHER or VSCATTER of elements below 4 bytes are illegal; the latter two take the vector-disabled exception while VEN is 0. Completes: bmove, bfill, bcrc, vgather, vscatter.

R110, R114 to R116: the first chunk of each long instruction, with a cr.progress that is not VALID, whose parts are of N-WB memory in one line each, and nothing that it must wait for. The instruction completes. BMOVE stores the loaded bytes; BFILL writes to each byte at address x the byte x mod 8 of g[a]; BCRC folds the bytes into the accumulator, whose upper half becomes zero; VGATHER loads the first active lane; VSCATTER stores it. A chunk of a byte instruction ends at the next 64-byte boundary or at its end. No other byte of memory and no other lane changes, but that the Z rule zeroes inactive lanes when VGATHER is complete. Completes: bmove, bfill, bcrc, vgather, vscatter. -/
def Obligations.LongInstructions : Prop :=
  (∀ (s : State) (t : Gtn) (d a b : RegNum) (v : VFields) (scale : BitVec 2) (f : Hw), Ready s.hw t.val 1 f → (f.thread t.val).pick = none →
    let x := s.hw.thread t.val
    let gd := x.readG d.toNat
    let ga := x.readG a.toNat
    let gb := x.readG b.toNat
    let p := x.readP v.pred.toNat
    let begins (tag : Nat) (dir : Option Bool) : Nat :=
      if x.progress.getLsbD 63 && (x.progress.extractLsb' 48 8).toNat == tag && (dir.isNone || dir == some (x.progress.getLsbD 56))
      then (x.progress.extractLsb' 0 48).toNat else 0
    let word (tag : Nat) (dir : Bool) (done : Nat) : W64 :=
      BitVec.ofNat 64 (2 ^ 63 + (if dir then 2 ^ 56 else 0) + tag * 2 ^ 48 + done % 2 ^ 48)
    let retires (i : Instr) (k : Hw) : Prop := ∃ u m, exec i s = .next u ∧ u.pending = s.pending ∧
      Counted t.val (k.onThread t.val (fun y => { y.clearProg with pc := y.pc + 4 })) m ∧
      u.hw = (m.walksDone t.val).onThread t.val (fun y => { y with progress := 0 })
    let chunked (i : Instr) (o : LongOp) (done : Nat) : Prop :=
      (o.finished done = true → retires i (o.finish (f.fetched t.val))) ∧
      (o.finished done = false → ∀ h1 c, o.chunk (f.fetched t.val) done = .error (h1, c) → c.code ≠ 0 →
        exec i s = .next { s with hw := syncTrap (((o.pause h1).onThread t.val (fun y => { y with progress := word o.tag o.dir done })).dropWalks t.val x) t.val c }) ∧
      (o.finished done = false → ∀ k next, o.chunk (f.fetched t.val) done = .ok (k, next) →
        (o.finished next = true → retires i (o.finish k)) ∧
        (o.finished next = false → exec i s = .next { s with hw := (o.pause k).onThread t.val (fun y => { y with progress := word o.tag o.dir next }) }))
    let move := bmoveOp t.val gd ga gb
    chunked (.bmove t d a b 1) move (begins 1 (some (decide (ga.toNat < gd.toNat ∧ gd.toNat < (ga + gb).toNat)))) ∧
    chunked (.bfill t d a b 1) (bfillOp t.val gd ga gb) (begins 2 none) ∧
    (d = a ∨ d = b → Traps s (.bcrc t d a b 1) t.val f { code := 0x04, tval := (wordR3 0x33 d a b 3).zeroExtend 64 }) ∧
    (d ≠ a → d ≠ b → chunked (.bcrc t d a b 1) (bcrcOp t.val d ga gb) (begins 3 none)) ∧
    (2 ≤ v.esize.toNat → x.ven = true →
      chunked (.vgather t v scale 1) (gatherOp t.val v scale p) (begins 0x10 none) ∧
      chunked (.vscatter t v scale 1) (scatterOp t.val v scale p) (begins 0x11 none)) ∧
    (∀ y, let i : Instr := if y then .vscatter t v scale 1 else .vgather t v scale 1
      let word : W64 := (wordV 0x23 v (gatherFunc y scale)).zeroExtend 64
      (v.esize.toNat < 2 → Traps s i t.val f { code := 0x04, tval := word }) ∧ (2 ≤ v.esize.toNat → x.ven = false → Traps s i t.val f { code := 0x06, tval := word }))) ∧
  (∀ (s : State) (t : Gtn) (d a b : RegNum) (v : VFields) (scale : BitVec 2) (f h1 : Hw) (pa pb k n : Nat),
    Ready s.hw t.val 1 f → (f.thread t.val).pick = none → Memory.wf h1.mem = true →
    let x := s.hw.thread t.val
    let g0 := f.fetched t.val
    let gd := x.readG d.toNat
    let ga := x.readG a.toNat
    let gb := x.readG b.toNat
    let e := 2 ^ v.esize.toNat
    let die := dieOfThread t.val
    let active (m : Nat) : Bool := (x.readP v.pred.toNat).getLsbD (m * e)
    let index := (lane e (x.readV v.b.toNat) n)
    let lva := ga + (BitVec.ofNat 64 (if index < 2 ^ (8 * e - 1) then index else index + 2 ^ 64 - 2 ^ (8 * e))) * BitVec.ofNat 64 (2 ^ scale.toNat)
    let part (va : W64) (pa k : Nat) : MemPart := ⟨va, pa, k, 0⟩
    let loads (p : MemPart) : Prop := siblingHolds h1 t.val [p] = false ∧ chunkWaits h1 t.val [p] = false ∧ ∀ j < p.len, h1.lineStale t.val (lineOf (p.pa + j)) = false
    let owned (h : Hw) (p : MemPart) : Prop := h.dieOwns die (lineOf p.pa) = true ∧ has (h.cdie die).lost (lineOf p.pa) = false ∧ has (h.cdie die).stale (lineOf p.pa) = false
    let stores (p : MemPart) : Prop := StoreGoes h1 t.val [p] ∧ ((h1.thread t.val).sqLine (lineOf p.pa)).isEmpty = true
    let ended (u : State) (last : Bool) : Prop := u.pending = s.pending ∧ (u.hw.thread t.val).pc = if last then x.pc + 4 else x.pc
    let wrote (u : State) (p : MemPart) (g : Nat → Byte) : Prop := ∀ m, u.hw.byte m = if p.pa ≤ m ∧ m < p.pa + p.len then g (m - p.pa) else h1.byte m
    x.progress.getLsbD 63 = false →
    (gb ≠ 0 → k = min (64 - gd.toNat % 64) gb.toNat →
      checkWants t.val 1 false (sortWants (wants .store (gd, k))) g0 = .ok (h1, [part gd pa k]) → stores (part gd pa k) → owned h1 (part gd pa k) →
      ∃ u, exec (.bfill t d a b 1) s = .next u ∧ ended u (decide (k = gb.toNat)) ∧
        wrote u (part gd pa k) (fun j => ga.extractLsb' (8 * ((gd.toNat + j) % 8)) 8)) ∧
    (gb ≠ 0 → d ≠ 0 → d ≠ a → d ≠ b → k = min (64 - ga.toNat % 64) gb.toNat →
      checkWants t.val 1 false (sortWants (wants .load (ga, k))) g0 = .ok (h1, [part ga pa k]) → loads (part ga pa k) → StoreGoes h1 t.val [] →
      ∃ u, exec (.bcrc t d a b 1) s = .next u ∧ ended u (decide (k = gb.toNat)) ∧ u.hw.mem = h1.mem ∧
        (u.hw.thread t.val).readG d.toNat = (crcBytes (gd.setWidth 32) ((List.range k).map (fun j => ownByte h1 t.val (pa + j)))).zeroExtend 64) ∧
    (gb ≠ 0 → ¬ (ga.toNat < gd.toNat ∧ gd.toNat < (ga + gb).toNat) → k = min (64 - gd.toNat % 64) gb.toNat → (ga ≠ gd ∨ pa = pb) →
      (checkWants t.val 1 false (sortWants (wants .load (ga, k) ++ wants .store (gd, k))) g0 = .ok (h1, [part ga pa k, part gd pb k]) ∨
        checkWants t.val 1 false (sortWants (wants .load (ga, k) ++ wants .store (gd, k))) g0 = .ok (h1, [part gd pb k, part ga pa k])) →
      loads (part ga pa k) → stores (part gd pb k) → owned (chunkLoad t.val [part ga pa k] h1).1 (part gd pb k) →
      ∃ u, exec (.bmove t d a b 1) s = .next u ∧ ended u (decide (k = gb.toNat)) ∧ wrote u (part gd pb k) (fun j => ownByte h1 t.val (pa + j))) ∧
    (2 ≤ v.esize.toNat → x.ven = true → n < 64 / e → active n = true → (∀ m < n, active m = false) →
      let last : Bool := decide (∀ m < 64 / e, n < m → active m = false)
      (checkWants t.val 1 false (sortWants (wants .load (lva, e))) g0 = .ok (h1, [part lva pa e]) → loads (part lva pa e) → StoreGoes h1 t.val [] →
        ∃ u, exec (.vgather t v scale 1) s = .next u ∧ ended u last ∧ u.hw.mem = h1.mem ∧
          ∀ m < 64 / e, lane e ((u.hw.thread t.val).readV v.d.toNat) m =
            if m = n then ofBytes ((List.range e).map (fun j => ownByte h1 t.val (pa + j)))
            else if last && v.z && !active m then 0 else lane e (x.readV v.d.toNat) m) ∧
      (checkWants t.val 1 false (sortWants (wants .store (lva, e))) g0 = .ok (h1, [part lva pa e]) → stores (part lva pa e) → owned h1 (part lva pa e) →
        ∃ u, exec (.vscatter t v scale 1) s = .next u ∧ ended u last ∧
          wrote u (part lva pa e) (fun j => BitVec.ofNat 8 (lane e (x.readV v.d.toNat) n >>> (8 * j))))))

/-- R90 to R94, R99, R113: the control register instructions. CRRD writes the register's value to g[d]; CRWR writes g[a] to the register; CRSET and CRCLR set or clear the bits of g[a] and write the old value to g[d]. A number that is not assigned, a write of a read-only register, and a used field that must be zero are illegal; a level or world that may not reach the register takes the privileged-register exception. VALID of cr.progress is cleared unless the instruction writes cr.progress itself. Completes: crrd, crwr, crset, crclr.

R90, R92, R93, R95, R111, R126, R128, R184: what control registers read, and what a write of them leaves. cr.time, cr.tid and cr.part read the package time, the thread's number and its partition; cr.status reads the current bank, settle-only mode, VEN, IE, the world and the level, and a write changes VEN and IE alone; cr.fpcsr keeps RM when a reserved rounding mode is written; cr.progress keeps its reserved bits at zero; a table base keeps bits [51:12]. A register of the secure number range is reached only at M or in the secure world, and a register of a level only at that level or above. -/
def Obligations.ControlRegisters : Prop :=
  (∀ (s : State) (t : Gtn) (d a : RegNum) (crn : BitVec 12) (f : Hw), Ready s.hw t.val 1 f →
    let x := s.hw.thread t.val
    let n := crn.toNat
    let g0 := f.fetched t.val
    let g := x.readG a.toNat
    let old := g0.crRead t.val n
    let ends (i : Instr) (k : Hw) : Prop := ∃ u, exec i s = .next u ∧
      Retires s u t.val k { (k.thread t.val).clearProg with pc := x.pc + 4, progress := if n = 0x002 then (k.thread t.val).progress else setWbits (k.thread t.val).progress 63 63 0 }
    let bad (i : Instr) (sub : Nat) : Prop := Traps s i t.val f { code := 0x04, tval := (wordSys sub d a crn).zeroExtend 64 }
    let priv (i : Instr) (sub : Nat) : Prop := Traps s i t.val f { code := 0x05, tval := (wordSys sub d a crn).zeroExtend 64 }
    let writable : Prop := crAssigned n = true ∧ crReadOnly n = false
    (a ≠ 0 ∨ crAssigned n = false → bad (.crrd t d a crn) 0) ∧
    (a = 0 → crAssigned n = true → (crAllowed x n false = false → priv (.crrd t d a crn) 0) ∧ (crAllowed x n false = true → WritesG s (.crrd t d a crn) t.val f d old (x.pc + 4))) ∧
    (d ≠ 0 ∨ ¬ writable → bad (.crwr t d a crn) 1) ∧
    (d = 0 → writable → (crAllowed x n true = false → priv (.crwr t d a crn) 1) ∧ (crAllowed x n true = true → ends (.crwr t d a crn) (g0.crWrite t.val n g))) ∧
    (¬ writable → bad (.crset t d a crn) 2 ∧ bad (.crclr t d a crn) 3) ∧
    (writable → crAllowed x n true = false → priv (.crset t d a crn) 2 ∧ priv (.crclr t d a crn) 3) ∧
    (writable → crAllowed x n true = true → ends (.crset t d a crn) ((g0.crWrite t.val n (old ||| g)).setG t.val d.toNat old) ∧
      ends (.crclr t d a crn) ((g0.crWrite t.val n (old &&& ~~~g)).setG t.val d.toNat old))) ∧
  (∀ (h : Hw) (t : Nat) (v : W64),
    let x := h.thread t
    h.crRead t 0x010 = BitVec.ofNat 64 h.now ∧ h.crRead t 0x011 = BitVec.ofNat 64 t ∧ h.crRead t 0x402 = BitVec.ofNat 64 (h.partOf t) ∧
    (let r := h.crRead t 0x400
     r.extractLsb' 0 2 = x.level ∧ r.getLsbD 2 = x.world ∧ r.getLsbD 3 = x.ie ∧ r.getLsbD 8 = x.ven ∧ r.getLsbD 9 = h.settleOnly t ∧
       r.extractLsb' 10 2 = x.shbank) ∧
    ((h.crWrite t 0x400 v).thread t = { x with ven := v.getLsbD 8, ie := v.getLsbD 3 }) ∧
    (let r := ((h.crWrite t 0x001 v).thread t).fpcsr
     (∀ k, 4 ≤ k → k ≤ 9 → r.getLsbD k = v.getLsbD k) ∧ (∀ k, 10 ≤ k → r.getLsbD k = false) ∧ r.getLsbD 3 = false ∧
       r.extractLsb' 0 3 = if (v.extractLsb' 0 3).toNat ≤ 4 then v.extractLsb' 0 3 else x.fpcsr.extractLsb' 0 3) ∧
    (let r := ((h.crWrite t 0x002 v).thread t).progress
     r.getLsbD 63 = v.getLsbD 63 ∧ r.extractLsb' 57 6 = 0 ∧ r.extractLsb' 0 57 = v.extractLsb' 0 57) ∧
    (∀ n ∈ [0x480, 0x680, 0x880, 0xC80, 0x884, 0xC84], (h.crWrite t n v).crRead t n = v &&& 0x000FFFFFFFFFF000) ∧
    (∀ n, n.testBit 9 = true → x.world = false → x.level ≠ 3 → crAllowed x n false = false ∧ crAllowed x n true = false) ∧
    (∀ n, x.level.toNat < n >>> 10 → crAllowed x n false = false ∧ crAllowed x n true = false))

/-- R122, R139, R140, R143, R237: what taking a trap leaves while fewer than four banks are resident. The next bank gets a copy of g1 to g8, the resume PC, the cause, TVAL, the old VEN, IE, world and level, and cr.progress, which becomes 0; the thread runs at the target level with IE 0 in that bank, at the target's vector base plus the offset of the cause; VEN, the world and every other register stay; the reservation is lost. A synchronous machine check while MCIP is 1 check-stops the thread instead.

R136, R138: where causes go. An illegal return goes to the level that met it; causes 0x18 and up without a target of their own go to M; any other is delegated in the secure world by cr.m_sdeleg to secure-S, and in the normal world by cr.m_deleg to H and then by cr.h_deleg to S, but never below the level that it interrupts.

R99, R102, R135, R139, R154, R156, R615, R616: TRAP takes cause 0x10 with its code in TVAL. TRAP_ENTRY takes the first deliverable asynchronous cause of a thread that runs: an event gives cause 0x30 with the event's fields in TVAL, leaves its slot, and its credit goes back to the router; with no deliverable cause it changes nothing. TRAP_ENTRY with a word of an unassigned major opcode, SYS sub value, fence scope or TLB operation, or of all zeros or ones, takes the illegal-instruction exception at that fetch, as cause 0x04 with the word in TVAL. Completes: trap, trapEntry. -/
def Obligations.TakingATrap : Prop :=
  (∀ (h0 : Hw) (t : Nat) (c : Cause),
    let h := (h0.wcFlush t).endHold t
    let x := h.thread t
    let y := (syncTrap h0 t c).thread t
    let target := routeTo x c
    let b := y.bank (x.shbank.toNat + 1)
    let offset := if c.code = 0x18 ∨ c.code = 0x22 ∨ c.code = 0x23 then 0x400 else if c.code = 0x20 ∨ c.code = 0x21 then 0x300
      else if 0x30 ≤ c.code then 0x200 else if x.level.toNat = codeLevel target then 0x100 else 0
    (c.code = 0x20 → x.mcip = true → y.run = .checkStopped) ∧
    (x.resident < 4 → ¬ (c.code = 0x20 ∧ x.mcip = true) → c.code < 2 ^ 16 → c.detail < 2 ^ 8 →
      b.tpc = x.pc ∧ b.tval = c.tval ∧ b.tprog = x.progress ∧ b.g = (x.bank x.shbank.toNat).g ∧
      b.tcause = BitVec.ofNat 64 (c.code + c.detail * 2 ^ 16 + (if c.async then 2 ^ 63 else 0)) ∧
      b.tstat = BitVec.ofNat 64 (x.level.toNat + (if x.world then 4 else 0) + (if x.ie then 8 else 0) + (if x.ven then 256 else 0)) ∧
      y.shbank = x.shbank + 1 ∧ y.level = BitVec.ofNat 2 (codeLevel target) ∧ y.ie = false ∧ y.ven = x.ven ∧ y.world = x.world ∧
      y.progress = 0 ∧ y.depth = x.depth + 1 ∧ y.resident = x.resident + 1 ∧ y.resv = none ∧
      y.pc = BitVec.ofNat 64 ((wbits (x.crv (trapBase target + 5)) 63 12 <<< 12) + offset) ∧
      (c.code = 0x20 ∨ c.code = 0x21 → y.mcip = true) ∧
      (∀ n, 9 ≤ n → y.readG n = x.readG n) ∧ y.v = x.v ∧ y.p = x.p ∧ y.fpcsr = x.fpcsr ∧ y.run = x.run)) ∧
  (∀ (x : Thread) (c : Cause), c.target = none →
    let l := x.level.toNat
    let m := routeTo x c
    (0x18 ≤ c.code → m = 3) ∧
    (c.code = 0x12 → l ≠ 0 → codeLevel m = l ∧ (m = 5 ↔ l = 1 ∧ x.world = true)) ∧
    (c.code < 0x18 → c.code ≠ 0x12 → x.world = true → (m = 5 ↔ l ≤ 1 ∧ (x.crv 0xC4E).getLsbD c.code = true)) ∧
    (c.code < 0x18 → c.code ≠ 0x12 → x.world = false →
      (m = 1 ↔ l ≤ 1 ∧ (x.crv 0xC4D).getLsbD c.code = true ∧ (x.crv 0x84C).getLsbD c.code = true)) ∧
    (c.code < 0x18 → c.code ≠ 0x12 → l ≤ codeLevel m)) ∧
  (∀ (s : State) (t : Gtn) (code : BitVec 12),
    (∀ f, Ready s.hw t.val 1 f → Traps s (.trap t 0 0 code) t.val f { code := 0x10, tval := code.zeroExtend 64 }) ∧
    (∀ f d a, Ready s.hw t.val 1 f → d ≠ 0 ∨ a ≠ 0 → Traps s (.trap t d a code) t.val f { code := 0x04, tval := (wordSys 8 d a code).zeroExtend 64 }) ∧
    (s.hw.canRun t.val = true → (s.hw.thread t.val).pick = none → exec (.trapEntry t none) s = .next s) ∧
    ((s.hw.thread t.val).dev = none → s.hw.canRun t.val = false → exec (.trapEntry t none) s = .next s) ∧
    (∀ f w, Ready s.hw t.val 1 f →
      let m := (w.extractLsb' 26 6).toNat
      w = 0 ∨ w = BitVec.allOnes 32 ∨ m ∈ [0x00, 0x0F, 0x14, 0x15, 0x16, 0x17, 0x26, 0x27, 0x29, 0x2A, 0x2B, 0x2C, 0x2D, 0x2E, 0x2F, 0x31, 0x34, 0x35, 0x36, 0x37, 0x38, 0x39, 0x3A, 0x3B, 0x3F] ∨
        (m = 0x3D ∧ (10 < (w.extractLsb' 12 4).toNat ∨ (w.extractLsb' 12 4 = 10 ∧ 6 < (w.extractLsb' 0 4).toNat))) ∨ (m = 0x3C ∧ w.extractLsb' 24 2 = 3) →
      Traps s (.trapEntry t (some w)) t.val f { code := 0x04, tval := w.zeroExtend 64 }) ∧
    (∀ e, s.hw.canRun t.val = true → s.hw.openFills t.val = [] → (s.hw.thread t.val).pick = some (.event e) → 
      (takeTrap s.hw t.val { code := 0x30, tval := eventTval e, async := true, target := some e.level.toNat }).2 = .taken →
      ∃ u, exec (.trapEntry t none) s = .next u ∧ u.pending = s.pending ∧
        u.hw = (((takeTrap s.hw t.val { code := 0x30, tval := eventTval e, async := true, target := some e.level.toNat }).1.onThread t.val
            (fun x => { x with slots := dropFirst (fun y => y == e) x.slots })).send
          { op := .CREDIT, addr := t.val, agent := s.hw.threadAgent t.val, part := e.inst, info := e.vector })))

/-- R137, R141, R158, R159: TRET. It is illegal at U and secure-U. A record of a higher level gives illegal return 0x1, and below M a record of the other world 0x2, with nothing restored. At depth 0 it launches the level and PC of the current record without changing bank; at a depth whose next bank is resident, or is refilled from the stack that holds its frame, it restores level, IE, VEN, cr.progress and the PC, goes back to the bank beneath, and at M clears MCIP after a machine check. The world never changes. Completes: tret. -/
def Obligations.TrapReturnResults : Prop :=
  ∀ (s : State) (t : Gtn) (f : Hw), Ready s.hw t.val 1 f →
    let x := s.hw.thread t.val
    let r := x.bank x.shbank.toNat
    let i : Instr := .tret t 0 0 0
    let p := (x.shbank.toNat + 3) % 4
    let below := (x.bank p).below.toNat
    let stays := (r.tstat.extractLsb' 0 2).toNat ≤ x.level.toNat ∧ (x.level = 3 ∨ r.tstat.getLsbD 2 = x.world)
    let restored (y : Thread) : Thread :=
      { y with level := r.tstat.extractLsb' 0 2, ie := r.tstat.getLsbD 3, ven := r.tstat.getLsbD 8, progress := r.tprog, pc := r.tpc, resv := none,
               missed := 0, deferred := none, ncReads := [], fencing := false, atVector := r.atVec }
    let mc := x.level = 3 ∧ ((r.tcause.extractLsb' 0 16).toNat = 0x20 ∨ (r.tcause.extractLsb' 0 16).toNat = 0x21)
    let returned (k : Hw) (resident : Nat) : Prop := ∃ u, exec i s = .next u ∧
      let y := { restored (k.thread t.val) with shbank := x.shbank - 1, depth := x.depth - 1, resident := resident }
      Retires s u t.val k (if mc then y.setMcip false else y)
    (x.level = 0 → Traps s i t.val f { code := 0x04, tval := (wordSys 7 0 0 0).zeroExtend 64 }) ∧
    (x.level ≠ 0 → (x.level = 3 → f.endArmed t.val = false) →
      (x.level.toNat < (r.tstat.extractLsb' 0 2).toNat → Traps s i t.val f { code := 0x12, tval := 1 }) ∧
      ((r.tstat.extractLsb' 0 2).toNat ≤ x.level.toNat → x.level ≠ 3 → r.tstat.getLsbD 2 ≠ x.world → Traps s i t.val f { code := 0x12, tval := 2 }) ∧
      (stays → x.depth = 0 → ∃ u, exec i s = .next u ∧ Retires s u t.val f (restored (f.thread t.val))) ∧
      (stays → x.depth ≠ 0 → ¬ (2 ≤ x.depth ∧ x.resident ≤ 2) → returned f (x.resident - 1)) ∧
      (stays → 2 ≤ x.depth → x.resident ≤ 2 → (below ∉ [1, 2, 3, 5] → Traps s i t.val f { code := 0x12, tval := 3 }) ∧
        (below ∈ [1, 2, 3, 5] → x.sq = [] → ∀ k, refill (f.fetched t.val) t.val below ((p + 3) % 4) (x.depth - 2) = .ok k → returned k 2)))

/-- R121, R547, R548, R550 to R552, R558, R664: the gateway. A GATE whose target is 4-aligned, whose page is GW and executable in the secure context, whose landing word is GMARK and whose record can be written, and whose partition's secure world is enabled, writes the record of the thread at its place and enters the secure world at the target: secure-U from U, else secure-S, with IE and VEN 0, cr.progress 0 and the activation noted. While the secure world is not enabled it writes 2^63 + 1 or + 2 to g1 and goes on. GMARK elsewhere does nothing. A GRET at its GATE's depth restores what the record holds and ends the activation, with a gap marker on the trace port while DBG_EN is 0 and the hub is in Gloss; outside the secure world it is illegal, and at another depth an illegal return 4. Completes: gate, gmark, gret.

R523, R525: WAIT retires and its thread waits, in Satin below M and at M in the state that CORE_WAITCTL names, unless a wake cause is already pending; CORE_WAITCTL can make it illegal below M. WAIT_WAKE ends Satin or Matt when a wake cause is pending. A thread that leaves Dust sheet starts at M in the normal world at the PC of CORE_WAKEPC with registers at zero, and keeps what is pending for it. Completes: wait, waitWake, dustSheetThreadWake. -/
def Obligations.GatewaysAndWaits : Prop :=
  (∀ (s : State) (t : Gtn) (a : RegNum) (f : Hw), Ready s.hw t.val 1 f →
    let x := s.hw.thread t.val
    let target := x.readG a.toNat
    let g0 := f.fetched t.val
    let part := g0.partOf t.val
    let st := g0.fld .SEC_SWCTL 0 0 (part - 1) F.SEC_SWCTL_STATE
    let lt := if x.level = 0 then 0 else 1
    let i : Instr := .gate t 0 a 0
    let die := dieOfThread t.val
    (x.world = true → Traps s i t.val f { code := 0x04, tval := (wordSys 4 0 a 0).zeroExtend 64 }) ∧
    (x.world = false → target.extractLsb' 0 2 ≠ 0 → Traps s i t.val f { code := 0x11, detail := 1, tval := target }) ∧
    (x.world = false → target.extractLsb' 0 2 = 0 → st ≠ 1 → x.level ≠ 3 →
      WritesG s i t.val f 1 (if st = 0 then 0x8000000000000001 else 0x8000000000000002) (x.pc + 4)) ∧
    (x.world = false → target.extractLsb' 0 2 = 0 → st = 1 ∨ x.level = 3 → ∀ h1 h2 r,
      let g1 := g0.inWorld t.val true
      let bs := gateRecBytes (g0.thread t.val)
      let addr := gateRec g0 t.val
      xlate g1 t.val (ctxOf (g1.thread t.val) t.val part lt true) target .fetch = .ok (h1, r) → r.gw = true →
      h1.homePass part true r.pa = true → h1.mapped r.pa = true → h1.poisoned r.pa = false →
      fetchLine h1 t.val r target = .ok h2 → h2.readNum r.pa 4 = 0xF4005000 →
      recordBad h2 t.val addr bs.length = none → x.sq = [] →
      (∀ l ∈ lineRange addr bs.length, h2.dieOwns die l = true ∧ has (h2.cdie die).lost l = false ∧ has (h2.cdie die).stale l = false) → Memory.wf h2.mem = true →
      ∃ u, exec i s = .next u ∧ u.pending = s.pending ∧
        (let y := u.hw.thread t.val
         y.world = true ∧ y.level = BitVec.ofNat 2 lt ∧ y.pc = target ∧ y.ie = false ∧ y.ven = false ∧ y.progress = 0 ∧ y.resv = none ∧
         y.shbank = x.shbank ∧ y.depth = x.depth ∧ (∀ n, y.readG n = x.readG n) ∧ y.cr = x.cr ∧
         ∃ act, y.act = some act ∧ act.depth = x.depth ∧ act.recAddr = addr) ∧
        (∀ b, u.hw.byte b = if addr ≤ b ∧ b < addr + bs.length then bs.getD (b - addr) 0 else h2.byte b)) ∧
    (∃ u, exec (.gmark t 0 0 0) s = .next u ∧ Retires s u t.val f ((f.thread t.val).after (x.pc + 4))) ∧
    (x.world = false → Traps s (.gret t 0 0 0) t.val f { code := 0x04, tval := (wordSys 6 0 0 0).zeroExtend 64 }) ∧
    (x.world = true → ∀ act, x.act = some act → x.depth ≠ act.depth → Traps s (.gret t 0 0 0) t.val f { code := 0x12, tval := 4 }) ∧
    (x.world = true → ∀ act, x.act = some act → x.depth = act.depth → recordBad g0 t.val act.recAddr (recordLen g0 act.recAddr) = none → x.sq = [] →
      let w (k : Nat) : W64 := BitVec.ofNat 64 (g0.readNum (act.recAddr + k) 8)
      ∃ u, exec (.gret t 0 0 0) s = .next u ∧ u.pending = s.pending ∧ u.hw.mem = f.mem ∧
        (let y := u.hw.thread t.val
         y.world = false ∧ y.act = none ∧ y.pc = w 0 ∧ y.level = (w 8).extractLsb' 0 2 ∧ y.ie = (w 8).getLsbD 3 ∧ y.ven = (w 8).getLsbD 8 ∧
         y.fpcsr = w 40 ∧ y.progress = 0 ∧ y.shbank = x.shbank ∧ y.depth = x.depth ∧
         (∀ n, n ≤ 8 → y.readG n = x.readG n) ∧ (∀ n < 23, y.readG (9 + n) = w (48 + 8 * n))) ∧
        u.hw.plat.trace = if g0.flag .SEC_SWCTL 0 0 (part - 1) F.SEC_SWCTL_DBG_EN = false ∧ g0.deepIdle = false ∧ g0.domCur 0 0 = 0
          then g0.plat.trace ++ [(t.val, act.cycles)] else g0.plat.trace)) ∧
  (∀ (s : State) (t : Gtn) (f : Hw),
    let x := s.hw.thread t.val
    (Ready s.hw t.val 1 f → waitTraps f t.val = true → Traps s (.wait t 0 0 0) t.val f { code := 0x04, tval := (wordSys 9 0 0 0).zeroExtend 64 }) ∧
    (Ready s.hw t.val 1 f → waitTraps f t.val = false → ∃ u, exec (.wait t 0 0 0) s = .next u ∧ u.pending = s.pending ∧
      ∃ y, Counted t.val (f.setThread t.val ((f.thread t.val).after (x.pc + 4))) y ∧
        u.hw.mem = f.mem ∧ (∀ n, n ≠ t.val → u.hw.thread n = f.thread n) ∧ (u.hw.thread t.val).pc = x.pc + 4 ∧ (∀ n, (u.hw.thread t.val).readG n = x.readG n) ∧
        (u.hw.thread t.val).run = (if (y.thread t.val).wakePending then x.run else .waiting (BitVec.ofNat 2 (waitDepth f t.val))) ∧
        (x.level ≠ 3 → waitDepth f t.val = 1)) ∧
    ((x.run = .waiting 1 ∨ x.run = .waiting 2) → x.wakePending = true → exec (.waitWake t) s = .next { s with hw := s.hw.setThread t.val { x with run := .running } }) ∧
    (¬ ((x.run = .waiting 1 ∨ x.run = .waiting 2) ∧ x.wakePending = true) → exec (.waitWake t) s = .next s) ∧
    (∀ p, s.hw.pcoreOf t.val = some p → x.run = .waiting 3 → ∃ u, exec (.dustSheetThreadWake t) s = .next u ∧ u.pending = s.pending ∧
      u.hw.mem = s.hw.mem ∧
      let y := u.hw.thread t.val
      y.run = .running ∧ y.level = 3 ∧ y.world = false ∧ y.depth = 0 ∧ y.shbank = 0 ∧ (∀ n, y.readG n = 0) ∧ y.fpcsr = 0 ∧ y.ie = false ∧
      y.pc = BitVec.ofNat 64 (s.hw.fld .CORE_WAKEPC (dieOfThread t.val) p (t.val % 2) F.CORE_WAKEPC_PC <<< 2) ∧
      y.mcs = x.mcs ∧ y.slots = x.slots ∧ y.locals = x.locals) ∧
    (x.run ≠ .waiting 3 → exec (.dustSheetThreadWake t) s = .next s))

/-- R98, R199, R219 to R221, R224, R228, R233: the fences. Bits set in the zero field make the instruction illegal. With S in its predecessor mask a fence has the thread's write-combining buffers written. It waits, its command given again and its thread taking no machine check of a store, while a store that its mask names waits for ownership or for the home's answer (S), while for FENCE_S a D-P store is neither acknowledged on its link nor completed with an error (D), or, unless both masks are empty, while TLB maintenance of its scope is incomplete. Otherwise it retires; FENCE_C with L in its successor mask discards what the thread fetched ahead. Completes: fenceC, fenceD, fenceS.

R228: WC_BUFFER_TIMEOUT writes the thread's write-combining buffer for the line: one write of the bytes it holds, WRF if it holds all 64 and else WRP, goes to the line's home in the world of the stores that the buffer merged; the thread reads its bytes from the buffer until the home answers. A thread without such a buffer is not affected. Completes: wcBufferTimeout. -/
def Obligations.FencesAndWriteCombining : Prop :=
  (∀ (s : State) (t : Gtn) (p q : BitVec 3) (z : BitVec 18) (f : Hw) (n : Fin 3), Ready s.hw t.val 1 f →
    let x := s.hw.thread t.val
    let i : Instr := if n = 0 then .fenceC t p q z else if n = 1 then .fenceD t p q z else .fenceS t p q z
    let k := if p.getLsbD 1 then (f.fetched t.val).wcFlush t.val else f.fetched t.val
    let waits : Prop := (p.getLsbD 1 = true ∧ (x.sq ≠ [] ∨ ((k.core (k.coreKeyOf t.val)).wcbs.any (fun w => w.thread == t.val)) = true)) ∨
      (n = 2 ∧ p.getLsbD 0 = true ∧ k.dpOpen t.val = true) ∨ ((p ≠ 0 ∨ q ≠ 0) ∧ tlbiWaits n.val t.val k = true)
    let ahead (e : FillEnt) : Bool := e.thread == t.val && e.fetch
    let m := if n = 0 ∧ q.getLsbD 2 = true then k.onCore (k.coreKeyOf t.val) (fun c => { c with fills := c.fills.filter (fun e => !ahead e) }) else k
    (z ≠ 0 → Traps s i t.val f { code := 0x04, tval := (wordF n.val p q z).zeroExtend 64 }) ∧
    (z = 0 → waits → exec i s = .next { s with hw := (k.onThread t.val (fun y => { y with fencing := true })).tryEnds t.val x }) ∧
    (z = 0 → ¬ waits → ∃ u, exec i s = .next u ∧ Retires s u t.val m ((m.thread t.val).after (x.pc + 4)))) ∧
  (∀ (s : State) (t : Gtn) (line : BitVec 46),
    let key := s.hw.coreKeyOf t.val
    let mine (w : WcBuf) : Bool := w.line == line.toNat && w.thread == t.val && !w.sent
    let has (b : WcBuf) (j : Nat) : Bool := b.bytes.any (fun e => e.1 % 64 == j)
    ((s.hw.core key).wcbs.find? mine = none → exec (.wcBufferTimeout t line) s = .next s) ∧
    (∀ b, (s.hw.core key).wcbs.find? mine = some b → ∃ m : Msg,
      exec (.wcBufferTimeout t line) s = .next { s with hw :=
        (s.hw.onCore key (fun c => { c with wcbs := mapIf (fun w => w == b) (fun w => { w with sent := true }) c.wcbs })).send m } ∧
      m.op = (if (List.range 64).all (has b) then .WRF else .WRP) ∧ m.addr = line.toNat ∧ m.part = s.hw.partOf t.val ∧ m.world = b.world ∧
      (∀ j < 64, m.mask.testBit j = has b j ∧
        (has b j = true → BitVec.ofNat 8 (m.data >>> (8 * j)) = ((b.bytes.reverse.find? (fun e => e.1 % 64 == j)).map (·.2)).getD 0))))

/-- R195 to R198: TLB maintenance. It is illegal below the operation's level, with a bad scope or bits set in its zero field. It waits, its command given again, while the thread's older stores, write-combining buffers and D-P stores are not performed. Otherwise it retires, and the entries that the operation names, and only they, leave the TLBs of every core in its scope: this core, this die, or every die of the partition. Completes: tlbiVA, tlbiVAALL, tlbiASID, tlbiREGIME, tlbiIA, tlbiVMID, tlbiPART. -/
def Obligations.TlbMaintenanceResults : Prop :=
  ∀ (s : State) (t : Gtn) (d a : RegNum) (scope : BitVec 2) (hi : BitVec 6) (o : TlbOp) (f : Hw), Ready s.hw t.val 1 f →
    let x := s.hw.thread t.val
    let i : Instr := match o with
      | .va => .tlbiVA t d a scope hi
      | .vaall => .tlbiVAALL t d a scope hi
      | .asid => .tlbiASID t d a scope hi
      | .regime => .tlbiREGIME t d a scope hi
      | .ia => .tlbiIA t d a scope hi
      | .vmid => .tlbiVMID t d a scope hi
      | .part => .tlbiPART t d a scope hi
    let g1 := (f.fetched t.val).wcFlush t.val
    let gd := x.readG d.toNat
    let ga := x.readG a.toNat
    let bad := tlbiBad o x gd scope hi
    let page (e : TlbEnt) : Prop := (ga.toNat % 2 ^ 57) / 2 ^ e.size = (e.va % 2 ^ 57) / 2 ^ e.size
    let own (e : TlbEnt) : Prop := e.regime = tlbiRegime o x gd ∧ vmidNow x (s.hw.ctx t.val) e.vmid = true
    let hit (e : TlbEnt) : Prop := match o with
      | .va => own e ∧ page e ∧ (e.asid = none ∨ e.asid = some (gd.toNat % 2 ^ 16))
      | .vaall => own e ∧ page e
      | .asid => own e ∧ e.asid = some (gd.toNat % 2 ^ 16)
      | .regime => own e
      | .ia | .vmid => e.regime = tlbiRegime o x gd ∧ e.vmid = some (gd.toNat % 2 ^ 8)
      | .part => e.part = s.hw.partOf t.val
    let inScope (die p : Nat) : Prop := p < 34 ∧
      if scope = 0 then die = dieOfThread t.val ∧ p = (s.hw.pcoreOf t.val).getD 0
      else if scope = 1 then die = dieOfThread t.val
      else 1 ≤ die ∧ die ≤ 12 ∧ look 0 s.hw.dieOwner die = s.hw.partOf t.val
    let performed : Prop := x.sq = [] ∧ (g1.wcDone t.val = true) ∧ g1.dpOpen t.val = false
    (bad = true → Traps s i t.val f { code := 0x04, tval := (tlbiWord o d a scope hi).zeroExtend 64 }) ∧
    ((hi ≠ 0 ∨ scope = 3 ∨ x.level = 0 ∨ x.level.toNat < o.level) → bad = true) ∧
    (bad = false → ¬ performed → Does s i (fun k => (k.thread t.val).pc = x.pc ∧ (k.thread t.val).sq = x.sq)) ∧
    (bad = false → performed → Does s i (fun k =>
      (k.thread t.val).pc = x.pc + 4 ∧ (∀ n, (k.thread t.val).readG n = x.readG n) ∧
      (∀ die p, inScope die p → ∀ e, hit e → e ∉ (k.core (coreKey die p)).itlb ∧ e ∉ (k.core (coreKey die p)).dtlb ∧
        e ∉ (k.core (coreKey die p)).l2tlb ∧ e ∉ (k.core (coreKey die p)).l2large) ∧
      ((f.thread t.val).walkBuf = [] → (f.thread t.val).walkPtrs = [] → ∀ die p, inScope die p → ∀ e, ¬ hit e →
        (e ∈ (k.core (coreKey die p)).itlb ↔ e ∈ (f.core (coreKey die p)).itlb) ∧
        (e ∈ (k.core (coreKey die p)).dtlb ↔ e ∈ (f.core (coreKey die p)).dtlb) ∧
        (e ∈ (k.core (coreKey die p)).l2tlb ↔ e ∈ (f.core (coreKey die p)).l2tlb) ∧
        (e ∈ (k.core (coreKey die p)).l2large ↔ e ∈ (f.core (coreKey die p)).l2large))))

/-- R54 to R58, R61, R161, R192: INSTRUCTION_RETIRE and LOAD_SETTLES. A load or fetch whose entry is provisional, whose data has not come, or that stands behind an older unretired load, does not retire; a thread that has check-stopped retires nothing. The last load of a validated entry retires: the entry leaves the buffer, and a missed line that the die holds enters L2 and L1. Where a consumed byte has changed, or the line is poisoned or was taken back, the thread executes again from that load. A deferred load that settles may send its settled read; an entry still in flight sends a settle notice once; one whose data has come, a settled read. Neither command writes memory. Completes: instructionRetire, loadSettles.

R62, R276, R443, R453, R682: requests that end without their answer. STALE: a snoop counts as an ACK ABSENT; a request is sent again under the partition that now owns its agent; a load takes an access fault with reason 0x10, and a D-S store is discarded and retires. FERR: a load takes a machine check of class 0x04 at its address and a D-S store one of class 0x44; a core's line read has its load executed again, which then meets the machine check; a FERR with no request open does nothing. The requester's watchdog completes a request that has waited TMO_MS in the same way, and earlier does nothing. Completes: stale, ferr, requesterWatchdog. -/
def Obligations.RetirementAndAbandonedRequests : Prop :=
  (∀ (s : State) (t : Gtn) (line : BitVec 46) (fetch : Bool) (pc : W64) (p : Nat), s.hw.pcoreOf t.val = some p →
    let x := s.hw.thread t.val
    let key := s.hw.coreKeyOf t.val
    let die := dieOfThread t.val
    let c := s.hw.core key
    let mine (f : FillEnt) : Bool := f.thread == t.val && f.line == line.toNat && f.fetch == fetch && !f.walk
    let older (u : FillUse) : Prop := ∃ f ∈ s.hw.openFills t.val, f.walk = false ∧ ∃ v ∈ f.uses, v.snap.isSome = true ∧ v.seq < u.seq
    let lostLine : Bool := s.hw.poisoned (line.toNat <<< 6) || has (s.hw.cdie die).pzn line.toNat
    let i : Instr := .instructionRetire t line fetch pc
    (x.run = .checkStopped → exec i s = .next s) ∧
    (x.run ≠ .checkStopped →
      (c.fills.find? mine = none → exec i s = .next { s with hw := s.hw.walksDone t.val }) ∧
      (∀ e u r, c.fills.find? mine = some e → e.uses = u :: r →
        (e.settled = false ∨ e.inFlight = true ∨ older u → exec i s = .next s) ∧
        (e.settled = true → e.inFlight = false → ¬ older u → (∀ f ∈ s.hw.openFills t.val, f.walk = false) →
          (e.valid = true → e.bad = false → r = [] → x.world = true → Does s i (fun k =>
            k.mem = s.hw.mem ∧ (∀ f ∈ (k.core key).fills, e.same f = false) ∧ (k.thread t.val).pc = x.pc ∧
            (e.hit = 0 → s.hw.dieState die line.toNat ≠ .I → s.hw.coreCacheOff die p 2 = false → k.l2State die p line.toNat ≠ .I ∧
              (s.hw.coreCacheOff die p (if fetch then 0 else 1) = false →
                if fetch then (look? (k.core key).l1i line.toNat).isSome = true else (look? (k.core key).l1d line.toNat).isSome = true)))) ∧
          (∀ y, s.hw.openFills t.val = [e] → r = [] → u.snap = some y → e.valid = false ∨ e.bad = true →
            e.bad = true ∨ (u.bytes ≠ [] ∧ lostLine = true) ∨ (u.bytes.any (fun b => s.hw.byte b.1 != b.2)) = true →
            Does s i (fun k => k.mem = s.hw.mem ∧ (k.thread t.val).pc = y.pc ∧ ∀ n, (k.thread t.val).readG n = y.readG n))))) ∧
    (let open' := (s.hw.openFills t.val).find? (fun f => f.line == line.toNat && !f.fetch && !f.settled)
     let j : Instr := .loadSettles t line
     (x.deferred = some (line.toNat, false) → exec j s = .next { s with hw := s.hw.onThread t.val (fun x => { x with deferred := some (line.toNat, true) }) }) ∧
     (x.deferred ≠ some (line.toNat, false) →
       (open' = none → exec j s = .next s) ∧
       (∀ e, open' = some e → c.fills.filter (fun f => e.same f) = [e] → e.bad = false → e.inFlight = true →
         (e.noticed = true → exec j s = .next s) ∧
         (e.noticed = false → (s.hw.cdie die).parked.any (fun m => m.addr == e.line && m.op == .RDP) = false → exec j s =
           .next { s with hw := (s.hw.setFill e (fun f => { f with noticed := true })).send { op := .STN, addr := e.line, agent := s.hw.threadAgent t.val, part := s.hw.partOf t.val, world := x.world } })) ∧
       (∀ e, open' = some e → c.fills.filter (fun f => e.same f) = [e] → e.bad = false → e.inFlight = false → Does s j (fun k => k.mem = s.hw.mem ∧
         (s.hw.dieState die e.line = .I → (has (k.cdie die).miss e.line = true ∨ ((k.cdie die).parked.any (fun m => m.addr == e.line)) = true) ∧
           ∀ f ∈ (k.core key).fills, e.same f = true → f.settled = true ∧ f.inFlight = true)))))) ∧
  (∀ (s : State) (t : Gtn) (a : AgentRef) (l : Line) (op : BitVec 6) (va : W64) (w : DevWait) (sl : RspSlot) (ref : FerrReq),
    let x := s.hw.thread t.val
    let noStale : Prop := ∀ m ∈ s.hw.msgs, m.op ≠ .STALE ∧ m.op ≠ .FERR
    let entered (k : Hw) (cause tval : W64) : Prop :=
      let y := k.thread t.val
      let b := y.bank y.shbank.toNat
      y.dev = none ∧ y.depth = x.depth + 1 ∧ b.tcause = cause ∧ b.tval = tval ∧ b.tpc = x.pc
    (noStale → (∀ m ∈ s.hw.msgs, ¬ (m.op = .ACK ∧ m.addr = l.toNat ∧ m.agent = toAgent a)) → s.hw.domCur 0 0 ≠ 1 →
      exec (.stale (.snoop a l)) s = exec (.ack a l true false false .good) s) ∧
    (noStale → ∀ o, opOf op.toNat = some o → s.hw.rsps.find? (fun r => r.agent == toAgent a && r.op == o && decide (r.line = l.toNat)) = some sl → ∃ m : Msg,
      exec (.stale (.request a l op)) s = .next { s with hw := (s.hw.freeRsp sl.src sl.txid).send m } ∧
      m.op = o ∧ m.addr = l.toNat ∧ m.agent = toAgent a ∧ m.part = s.hw.agentPart (toAgent a)) ∧
    (noStale → x.devOpen = none → exec (.stale (.access t)) s = .next s) ∧
    (noStale → x.devOpen = some w → x.resident < 4 → w.write = false → Does s (.stale (.access t)) (fun k => entered k 0xF0000A w.cur.va ∧ k.mem = s.hw.mem)) ∧
    (noStale → x.devOpen = some w → w.write = true → w.acc.length = 1 → w.stop = none → w.dest = none → w.vd = none → Does s (.stale (.access t)) (fun k =>
      k.mem = s.hw.mem ∧ (k.thread t.val).dev = none ∧ (k.thread t.val).pc = x.pc + BitVec.ofNat 64 w.len ∧ ∀ n, (k.thread t.val).readG n = x.readG n)) ∧
    ((∀ a l, ref ≠ .snoop a l) → s.hw.ferrSlot ref = none → noStale → exec (.ferr ref) s = .next s ∧ exec (.requesterWatchdog ref) s = .next s) ∧
    ((∀ a l, ref ≠ .snoop a l) → s.hw.ferrSlot ref = some sl →
      (noStale → sl.since + s.hw.rspTmo (sl.src / 128) ≤ s.hw.now → exec (.requesterWatchdog ref) s = exec (.ferr ref) s) ∧
      (s.hw.now < sl.since + s.hw.rspTmo (sl.src / 128) → exec (.requesterWatchdog ref) s = .next s)) ∧
    (noStale → s.hw.ferrSlot (.access t) = some sl → sl.agent = s.hw.threadAgent t.val → sl.op = .REGRD ∨ sl.op = .REGWR → s.hw.pcoreOf t.val ≠ none →
      (∀ n, n ≠ t.val → ∀ v, (s.hw.thread n).devOpen = some v → v.addr ≠ sl.line) → x.devOpen = some w → w.addr = sl.line → paRange w.addr = .mmio ∨ w.write = false →
      x.mcip = false → x.resident < 4 → Does s (.ferr (.access t)) (fun k =>
        entered k (if w.write then 0x440020 else 0x40020) (if w.write then BitVec.ofNat 64 w.addr else w.cur.va) ∧ (k.thread t.val).level = 3 ∧ (k.thread t.val).mcip = true)) ∧
    (∀ e u y p, noStale → s.hw.ferrSlot (.read t va) = some sl → sl.agent = .core (dieOfThread t.val) p → s.hw.pcoreOf t.val = some p → sl.op = .RDS →
      (s.hw.core (s.hw.coreKeyOf t.val)).fills.filter (fun f => f.line == sl.line && f.inFlight) = [e] → e.thread = t.val → s.hw.openFills t.val = [e] →
      e.uses = [u] → u.snap = some y → Does s (.ferr (.read t va)) (fun k =>
        k.mem = s.hw.mem ∧ (k.thread t.val).pc = y.pc ∧ sl.line ∈ (k.thread t.val).ferrs)))

/-- R262, R268: a request that arrives in good order and that its home can start, for a line that is Uncached, completes at once. RDS from a die: GNT-E with EXCL_GRANT, else GNT-F, and the die is the F die. RDO, UPG: GNT-E; OWN: GNT-O; the requester owns the line. RDC: DATA, and the line stays Uncached. Completes: rds, rdo, upg, own, rdc.

R262, R264, R269, R271, R284: requests for a line that is Shared with an F die, or that another agent owns. RDS adds the die and is granted GNT-S; RDC is answered with data; a request for ownership by the only sharer is granted (UPG without data), and otherwise INV goes to every other sharer, the F die first. An owner is recalled: RCS for RDS of a line that another die owns, RCI for RDS of one that an engine or port owns, RCI for RDO, UPG and OWN, RCC for RDC. A fenced owner's recall times out at once: its lines are poisoned, code 0x04 is raised, and the request is granted. Completes: rds, rdo, upg, own, rdc. -/
def Obligations.HomeGrants : Prop :=
  (∀ (s : State) (a : AgentRef) (l : Line) (part : PartId) (world : Bool) (h1 : Hw),
    let r (op : MsgOp) := askedOf s.hw op a l part.val world
    let arrives (op : MsgOp) := Arrives s.hw op a l part.val world h1
    let key := dirKey l.toNat
    let same (k : Hw) : Prop := SameMemory s.hw k l.toNat
    let own : Dir := .owned (toAgent a) (lbit l.toNat)
    let near : Prop := isFar l.toNat = false ∨ (toAgent a).engTag = 0
    StartsNow h1 (r .RDS) → h1.dirOf key = .unc →
    (∀ d, arrives .RDS → (toAgent a).cdie = some d → if h1.flag .HOME_DIRCTL 0 (homeOfLine l.toNat) 0 F.HOME_DIRCTL_EXCL_GRANT
      then Served s h1 (.rds a l part world .good) (r .RDS) .GNTE own same
      else Served s h1 (.rds a l part world .good) (r .RDS) .GNTF (.shared [d] d) same) ∧
    (arrives .RDO → Served s h1 (.rdo a l part world .good) (r .RDO) .GNTE own same) ∧
    (arrives .UPG → Served s h1 (.upg a l part world .good) (r .UPG) .GNTE own same) ∧
    (arrives .OWN → Served s h1 (.own a l part world .good) (r .OWN) .GNTO own (fun k => same k ∧ has k.ownLines l.toNat = true)) ∧
    (arrives .RDC → near → Served s h1 (.rdc a l part world .good) (r .RDC) .DATA .unc same)) ∧
  (∀ (s : State) (a : AgentRef) (l : Line) (part : PartId) (world : Bool) (vec : List Nat) (f m : Nat) (o : Agent) (h1 : Hw),
    let r (op : MsgOp) := askedOf s.hw op a l part.val world
    let arrives (op : MsgOp) := Arrives s.hw op a l part.val world h1
    let key := dirKey l.toNat
    let same (k : Hw) : Prop := SameMemory s.hw k l.toNat
    let own : Dir := .owned (toAgent a) (lbit l.toNat)
    let near : Prop := isFar l.toNat = false ∨ (toAgent a).engTag = 0
    let others := ((invOrder vec f).filter (fun d => !((toAgent a).cdie == some d))).map (fun d => Agent.core d 0)
    let cmd (op : MsgOp) : Instr := match op with
      | .RDS => .rds a l part world .good
      | .RDO => .rdo a l part world .good
      | .UPG => .upg a l part world .good
      | .OWN => .own a l part world .good
      | _ => .rdc a l part world .good
    StartsNow h1 (r .RDS) →
    (h1.dirOf key = .shared vec f → f ≠ 0 → f ∈ vec →
      (∀ d, arrives .RDS → (toAgent a).cdie = some d → Served s h1 (cmd .RDS) (r .RDS) .GNTS (.shared (ins vec d) f) same) ∧
      (arrives .RDC → near → Served s h1 (cmd .RDC) (r .RDC) .DATA (look .unc h1.dir key) same) ∧
      (others = [] →
        (arrives .RDO → Served s h1 (cmd .RDO) (r .RDO) .GNTE own same) ∧ (arrives .UPG → Served s h1 (cmd .UPG) (r .UPG) .GNTO own same) ∧
        (arrives .OWN → Served s h1 (cmd .OWN) (r .OWN) .GNTO own same)) ∧
      (others ≠ [] → ∀ op ∈ [MsgOp.RDO, .UPG, .OWN], arrives op → Snoops s h1 (cmd op) (r op) .INV others)) ∧
    (h1.dirOf key = .owned o m → o.same (toAgent a) = false → h1.fenced o = true → arrives .RDO → Does s (cmd .RDO) (fun k =>
      Replied k .GNTE (r .RDO) ∧ same k ∧ look .unc k.dir key = own ∧ look? k.dhold key = some s.hw.now ∧
      (∀ x ∈ coveredLines { key := key, line := l.toNat, req := none, snoop := .RCI, wait := [] } (.owned o m), has k.poison x = true) ∧
      ∃ e ∈ k.raises, e.source = 0x0C1 + 2 * homeOfLine (snoopedLine l.toNat) ∧ e.sev = 2 ∧ e.code = 0x04)) ∧
    (h1.dirOf key = .owned o m → o.same (toAgent a) = false → h1.fenced o = false →
      (arrives .RDS → Snoops s h1 (cmd .RDS) (r .RDS) (if o.cdie.isSome then .RCS else .RCI) [o]) ∧
      (∀ op ∈ [MsgOp.RDO, .UPG, .OWN], arrives op → Snoops s h1 (cmd op) (r op) .RCI [o]) ∧
      (arrives .RDC → Snoops s h1 (cmd .RDC) (r .RDC) .RCC [o])))

/-- R256, R257, R262, R264, R284: a request that its home does not start. A fenced agent's is dropped; one for a Busy line, a line in the write-back buffer or a set whose ways are all pinned waits, the last of the queue; one that fails the range filter or the secure check is answered REF, and memory and the directory stay. The same for every request of the request classes.

R259, R262, R263, R32: writes of an agent at the home. A WRF or WRP of an Uncached line that needs no commit is written and answered DONE: WRF writes the 64 bytes and clears POISON, WRP writes the bytes of its mask and leaves POISON. One that needs a commit is answered RDY with memory as it was, and CMT then makes its bytes visible and ends its transaction. A port's write says itself whether it needs a commit; a core's and an engine's does not. Completes: wrf, wrp, cmt. -/
def Obligations.HomeQueueAndAgentWrites : Prop :=
  (∀ (s : State) (a : AgentRef) (l : Line) (part : PartId) (world : Bool) (op : MsgOp) (i : Instr) (h1 : Hw),
    (op, i) ∈ [(MsgOp.RDS, Instr.rds a l part world .good), (.RDO, .rdo a l part world .good), (.UPG, .upg a l part world .good),
      (.OWN, .own a l part world .good), (.RDC, .rdc a l part world .good)] →
    Arrives s.hw op a l part.val world h1 →
    let r := askedOf s.hw op a l part.val world
    let key := dirKey l.toNat
    let blocked := h1.busy key || has h1.dwb key || h1.setPinned key
    (h1.fenced (toAgent a) = true → exec i s = .next { s with hw := h1 }) ∧
    (h1.fenced (toAgent a) = false → blocked = true → exec i s = .next { s with hw := { h1 with waitq := h1.waitq ++ [r] } }) ∧
    (h1.fenced (toAgent a) = false → blocked = false → h1.homePass part.val world (l.toNat <<< 6) = false →
      Does s i (fun k => Replied k .REF r ∧ k.mem = s.hw.mem ∧ k.dir = s.hw.dir ∧ k.txns = s.hw.txns))) ∧
  (∀ (s : State) (a : AgentRef) (l : Line) (part : PartId) (world relaxed : Bool) (mask : W64) (v : V512) (h1 : Hw),
    let asks (op : MsgOp) : HReq :=
      let r := askedOf s.hw op a l part.val world
      if (s.hw.pkt op (toAgent a) l.toNat part.val world).waits then { r with relaxed := decide (r.tag ≠ 6) }
      else { r with relaxed := relaxed, mask := if op = .WRP then mask.toNat else 0, data := v.toNat }
    let cmd (op : MsgOp) : Instr := if op = .WRF then .wrf a l part world relaxed v .good else .wrp a l part world relaxed mask v .good
    let pa := l.toNat * 64
    let wrote (r : HReq) (h k : Hw) : Prop := ∀ n, k.byte n =
      if pa ≤ n ∧ n < pa + 64 ∧ (r.op = .WRF ∨ r.mask.testBit (n - pa) = true) then BitVec.ofNat 8 (r.data >>> (8 * (n - pa))) else h.byte n
    Memory.wf s.hw.mem = true →
    (∀ op ∈ [MsgOp.WRF, .WRP], Arrives s.hw op a l part.val world h1 → StartsNow h1 (asks op) → h1.dirOf (dirKey l.toNat) = .unc →
      let r := asks op
      (r.relaxed = true → Served s h1 (cmd op) r .DONE .unc (fun k => wrote r s.hw k ∧
        if op = .WRF then has k.poison l.toNat = false else k.poison = h1.poison)) ∧
      (r.relaxed = false → Does s (cmd op) (fun k => k.mem = s.hw.mem ∧ Replied k .RDY r ∧
        ∃ x, k.txns = h1.txns ++ [x] ∧ x.key = dirKey l.toNat ∧ x.req = some r ∧ x.wait = [] ∧ x.cmt = true))) ∧
    (∀ x r, Arrives s.hw .CMT a l (s.hw.agentPart (toAgent a)) false h1 →
      h1.txns.find? (fun t => t.key == dirKey l.toNat && t.cmt && (t.req.map (fun r => r.agent == toAgent a && r.line == l.toNat)).getD false) = some x →
      x.req = some r → r.op = .WRF ∨ r.op = .WRP → h1.waitq = [] → Does s (.cmt a l .good) (fun k =>
        wrote r s.hw k ∧ (r.op = .WRF → has k.poison l.toNat = false) ∧ ∀ t ∈ k.txns, t.key ≠ x.key)))

/-- R262, R264, R268, R281, R284: ACK and RCD at the home, once the packet has arrived. A fenced agent's answer is discarded; a late one is recorded with code 0x05 and changes no line. While other agents still owe an answer the transaction only loses the one that answered. The last answer ends it: a waiting RDO is granted GNT-E and owns the line; a waiting RDS after RCS is granted GNT-S and the former owner is the F die, or GNT-F when the owner held nothing; a waiting RDC after RCC is answered with data and the owner keeps the line. Completes: ack, rcd.

R257, R258, R262, R263, R268, R270, R272, R680: write-back-class messages and appointments at the home, once they have arrived and their partition passes. A WB or EVC from the line's owner leaves a near line Uncached, takes a far line out of LMASK, and is answered WBA; a WB of a line obtained with OWN clears POISON. An EVF from the F die takes it out of VEC: with no other sharer the line is Uncached; otherwise the home probes the rest. A message of a sender that the state, as the home reads it, does not name is answered WBA and recorded. ACKF makes its die the F die and ends the probe. DIRECTORY_WRITEBACK_DRAIN writes the state of the line to memory and empties its entry of the buffer. Completes: wb, evc, evf, ackf, directoryWritebackDrain.

R53, R55: a provisional read that arrives in good order is answered with data while its line is Uncached or Shared, free and not poisoned; it is deferred while the line is Busy, poisoned or owned; it is refused where the checks fail, and a refusal records nothing. It changes no line's state. STN makes a provisional read still on its way a settled read; after the read has been served it only frees its own slot. Completes: rdp, stn. -/
def Obligations.AnswersAndWriteBacksAtTheHome : Prop :=
  (∀ (s : State) (a : AgentRef) (l : Line) (absent present rcd : Bool) (lines : BitVec 16) (t : Txn) (r : HReq) (h1 : Hw),
    let g := toAgent a
    let key := dirKey l.toNat
    let i : Instr := if rcd then .rcd a l lines .good else .ack a l absent false present .good
    let p := s.hw.pkt (if rcd then .RCD else .ACK) g l.toNat (s.hw.agentPart g) (s.hw.secureLine l.toNat)
    let waits := h1.txns.find? (fun t => t.key == key && t.wait.any (fun x => x.same g))
    let quiet (k : Hw) : Prop := SameMemory s.hw k l.toNat
    s.hw.receive p .good = .ok (h1, false) → (rcd = true → p.msg.mask = 0) →
    (h1.fenced g = true → exec i s = .next { s with hw := h1 }) ∧
    (h1.fenced g = false → waits = none → Does s i (fun k => k.mem = s.hw.mem ∧ k.dir = s.hw.dir ∧ k.txns = s.hw.txns ∧
      k.raises = h1.raises ++ [{ source := 0x0C0 + 2 * homeOfLine (snoopedLine l.toNat), part := s.hw.gibOwner (snoopedLine l.toNat >>> 24), sev := 1, code := 0x05 }])) ∧
    (h1.fenced g = false → waits = some t → t.snoop ≠ .FAP →
      (t.wait.filter (fun x => !x.same g) ≠ [] → Does s i (fun k => quiet k ∧
        ∀ x ∈ k.txns, x.key = key → x.wait = t.wait.filter (fun x => !x.same g) ∧ x.req = t.req)) ∧
      (t.wait.filter (fun x => !x.same g) = [] → t.wb = [] → t.cmt = false → t.lost = false → t.req = some r → dirKey r.line = key → h1.waitq = [] →
        (r.op = .RDO → t.snoop = .INV ∨ t.snoop = .RCI → Does s i (fun k => quiet k ∧ Replied k .GNTE r ∧
          look .unc k.dir key = .owned r.agent (lbit r.line) ∧ ∀ x ∈ k.txns, x.key ≠ key)) ∧
        (∀ d e p m, r.op = .RDS → t.snoop = .RCS → g = .core d p → h1.dirOf key = .owned g m → r.agent.cdie = some e → t.absent = true → t.back = [] →
          Does s i (fun k => quiet k ∧ (∀ x ∈ k.txns, x.key ≠ key) ∧
            if absent = true ∧ rcd = false then look .unc k.dir key = .shared [e] e ∧ Replied k .GNTF r
            else look .unc k.dir key = .shared (ins [d] e) d ∧ Replied k .GNTS r)) ∧
        (∀ m, r.op = .RDC → t.snoop = .RCC → h1.dirOf key = .owned g m → isFar r.line = false ∨ r.agent.engTag = 0 →
          Does s i (fun k => quiet k ∧ (∀ x ∈ k.txns, x.key ≠ key) ∧ look .unc k.dir key = .owned g m ∧ Replied k .DATA r))))) ∧
  (∀ (s : State) (a : AgentRef) (l : Line) (part : PartId) (world : Bool) (vec : List Nat) (f m d : Nat) (t : Txn) (h1 : Hw),
    let g := toAgent a
    let key := dirKey l.toNat
    let pkt (op : MsgOp) := s.hw.pkt op g l.toNat part.val world
    let r (op : MsgOp) := (pkt op).req part.val world
    let ok (op : MsgOp) : Prop := s.hw.receive (pkt op) .good = .ok (h1, false) ∧ h1.scrimPass { (pkt op).msg with part := part.val, world := world } = true ∧ (pkt op).msg.info ≠ 1 ∧
      h1.fenced g = false ∧ h1.homePass part.val world (l.toNat <<< 6) = true ∧ h1.busy key = false
    let left := m &&& (65535 ^^^ lbit l.toNat)
    let gone (op : MsgOp) (k : Hw) : Prop := SameMemory s.hw k l.toNat ∧ Replied k .WBA (r op)
    (isFar l.toNat = false ∨ m &&& lbit l.toNat ≠ 0 → h1.dirOf key = .owned g m →
      let st : Dir := if isFar l.toNat = true ∧ left ≠ 0 then .owned g left else .unc
      (ok .WB → Does s (.wb a l part world .good) (fun k => gone .WB k ∧ look .unc k.dir key = st ∧ has k.ownLines l.toNat = false ∧
        (has s.hw.ownLines l.toNat = true → has k.poison l.toNat = false) ∧ (has s.hw.ownLines l.toNat = false → k.poison = h1.poison))) ∧
      (ok .EVC → Does s (.evc a l part world .good) (fun k => gone .EVC k ∧ look .unc k.dir key = st ∧ k.poison = h1.poison))) ∧
    (ok .WB → isFar l.toNat = true ∨ h1.dcsHas key = true → h1.dirOf key = .unc → Does s (.wb a l part world .good) (fun k => k.mem = s.hw.mem ∧ k.dir = s.hw.dir ∧
      Replied k .WBA (r .WB) ∧ k.raises.length = h1.raises.length + 1)) ∧
    (ok .EVF → g.cdie = some d → d ≠ 0 → h1.dirOf key = .shared vec d →
      (rem vec d = [] → Does s (.evf a l part world .good) (fun k => gone .EVF k ∧ look .unc k.dir key = .unc)) ∧
      (rem vec d ≠ [] → Does s (.evf a l part world .good) (fun k => SameMemory s.hw k l.toNat ∧ look .unc k.dir key = .shared (rem vec d) 0 ∧
        (∃ x ∈ k.txns, x.key = key ∧ x.snoop = .PRB ∧ x.wait = (rem vec d).map (fun n => Agent.core n 0))))) ∧
    (ok .EVF → g.cdie = some d → f ≠ d → h1.dirOf key = .shared vec f → Does s (.evf a l part world .good) (fun k => SameMemory s.hw k l.toNat ∧
      look .unc k.dir key = .shared (rem vec d) f ∧ Replied k .WBA (r .EVF) ∧ k.raises.length = h1.raises.length + 1)) ∧
    (s.hw.receive (s.hw.pkt .ACKF g l.toNat (s.hw.agentPart g) (s.hw.secureLine l.toNat)) .good = .ok (h1, false) → h1.fenced g = false → g.cdie = some d → h1.waitq = [] →
      h1.txns.find? (fun t => t.key == key && t.snoop == .FAP && t.wait.any (fun x => x.same g)) = some t → Does s (.ackf a l .good) (fun k =>
        SameMemory s.hw k l.toNat ∧ look .unc k.dir key = .shared (ins t.present d) d ∧ ∀ x ∈ k.txns, x.key ≠ key)) ∧
    (s.hw.waitq = [] → Does s (.directoryWritebackDrain l) (fun k => has k.dwb key = false ∧ k.dir = s.hw.dir ∧
      (has s.hw.dwb key = true → k.mem = (s.hw.dirStore key).mem) ∧ (has s.hw.dwb key = false → k.mem = s.hw.mem) ∧ (isFar l.toNat = false → k.mem = s.hw.mem)))) ∧
  (∀ (s : State) (a : AgentRef) (l : Line) (part : PartId) (world : Bool) (h1 : Hw),
    let g := toAgent a
    let pa := l.toNat <<< 6
    let pass := h1.homePass part.val world pa && h1.mapped pa
    let calm := !(h1.busy (dirKey l.toNat) || h1.poisoned pa)
    let answer (op : MsgOp) : Prop := exec (.rdp a l part world .good) s = .next { s with hw := h1.reply op (askedOf s.hw .RDP a l part.val world) }
    let h2 := h1.freeTok 0 g l.toNat
    (Arrives s.hw .RDP a l part.val world h1 → h1.fenced g = false →
      (pass = false → answer .REF) ∧
      (pass = true → calm = false → answer .DFR) ∧
      (pass = true → calm = true → (∃ b m, h1.dirOf (dirKey l.toNat) = .owned b m) → answer .DFR) ∧
      (pass = true → calm = true → (∀ b m, h1.dirOf (dirKey l.toNat) ≠ .owned b m) → answer .DATA)) ∧
    (Arrives s.hw .STN a l part.val world h1 →
      (h2.waitingMsg .RDP g l.toNat = none → exec (.stn a l part world .good) s = .next { s with hw := h2 }) ∧
      (∀ m, h2.waitingMsg .RDP g l.toNat = some m → exec (.stn a l part world .good) s =
        .next { s with hw := (h2.taken m).homeRequest { askedOf s.hw .STN a l part.val world with op := .RDS, txid := m.txid, tag := 0 } })))

/-- R265, R266, R278, R453, R455: snoops at a compute die, once they have arrived. One of another partition is answered ACK ABSENT and recorded by the home and the die; a stale one is answered STALE. For a die in Dust sheet the hub's scrim port answers INV, PRB and FAP with ACK ABSENT. A snoop for a line whose miss is outstanding, or that an LRES holds, is kept. A die that holds nothing of a near line answers ACK ABSENT, with WBPEND for INV and recalls while its write-back is on its way. A clean line held F or S: INV takes it away and answers ACK, PRB leaves it and answers PRESENT, FAP makes it F and answers ACKF. A line held M or E: RCI takes it away, RCS leaves it F, RCC leaves it E, with RCD when it is dirty and ACK when not. None changes memory. Completes: rcs, rci, rcc, inv, prb, fap.

R247, R265, R266, R267: snoops and grants at engines and ports. An engine that holds a near line gives it up for RCS and RCI, with RCD when it is dirty and ACK when not, and keeps it E for RCC, which it answers with RCD; without the line an engine or a port answers ACK ABSENT, with WBPEND for INV and recalls while its write-back is open, and while a miss on the line is outstanding it holds the snoop. A grant of ownership lets an engine perform the stores that wait for the line, and a port perform its AtomicOp, complete it to its device and return the line with WB. Completes: gntE, gntO. -/
def Obligations.SnoopsAtAgents : Prop :=
  (∀ (s : State) (d : CDie) (p : PCore) (l : Line) (part : PartId) (world : Bool) (op : MsgOp) (i : Instr) (h1 : Hw),
    let a : AgentRef := .core d p
    let g := toAgent a
    let n := d.val + 1
    let line := l.toNat
    let m := (s.hw.pkt op g line part.val world).msg
    let waits := (s.hw.pkt op g line part.val world).waits
    (op, i) ∈ [(MsgOp.RCS, Instr.rcs a l part world .good), (.RCI, .rci a l part world .good), (.RCC, .rcc a l part world .good), (.INV, .inv a l part world .good),
      (.PRB, .prb a l part world .good), (.FAP, .fap a l part world .good)] →
    s.hw.receive (s.hw.pkt op g line part.val world) .good (s.hw.dieDust n) = .ok (h1, false) →
    let own : Prop := part.val = 0 ∨ part.val = h1.agentPart g
    let fresh : Prop := own ∧ s.hw.dieDust n = false ∧ (waits && h1.isStale m.ends.2 m.epoch) = false
    let free : Prop := fresh ∧ h1.snoopWaits op n line = false ∧ isFar line = false
    let st := h1.dieState n line
    let clean : Prop := h1.sfCores n line = [] ∧ has (h1.cdie n).pzn line = false
    let die : Agent := .core n 0
    let result (op' : MsgOp) (x : LState) (r : MsgOp) (info : Nat) : Prop := op = op' → Does s i (fun k => k.mem = s.hw.mem ∧ k.dieState n line = x ∧ SnoopAnswered h1 k r die line info)
    (s.hw.dieDust n = true → op = .INV ∨ op = .PRB ∨ op = .FAP → exec i s = .next { s with hw := h1.answer .ACK g line 1 }) ∧
    (s.hw.dieDust n = false → ¬ own → Does s i (fun k => k.mem = s.hw.mem ∧ k.cdies = s.hw.cdies ∧ SnoopAnswered h1 k .ACK g line 1 ∧
      ∃ e ∈ k.raises, e.source = 0x0C1 + 2 * homeOfLine (snoopedLine line) ∧ e.code = 0x08)) ∧
    (s.hw.dieDust n = false → own → (waits && h1.isStale m.ends.2 m.epoch) = true → Does s i (fun k => k.mem = s.hw.mem ∧ k.cdies = s.hw.cdies ∧
      ∃ x, k.msgs.getLast? = some x ∧ x.op = .STALE ∧ x.addr = line ∧ x.agent = g ∧ x.mask = 1)) ∧
    (fresh → h1.snoopWaits op n line = true → h1.dieSleeps n = false → Does s i (fun k => k.mem = s.hw.mem ∧ k.msgs = h1.msgs ∧
      ∃ x, (k.cdie n).heldSnoops = (s.hw.cdie n).heldSnoops ++ [x] ∧ x.op = op ∧ x.addr = line ∧ x.agent = g)) ∧
    (free → st = .I → Does s i (fun k => k.mem = s.hw.mem ∧ k.cdies = s.hw.cdies ∧
      SnoopAnswered h1 k .ACK die line (if h1.wbHeld n line = true ∧ op ≠ .PRB ∧ op ≠ .FAP then 3 else 1))) ∧
    (free → clean → (∀ q, q < 34 → ∀ f ∈ (h1.core (coreKey n q)).fills, f.line ≠ line) →
      (st = .F ∨ st = .S → result .INV .I .ACK 0 ∧ result .PRB st .ACK 4 ∧ result .FAP .F .ACKF 0) ∧
      (st = .M → result .RCI .I .RCD (2 ^ (line % 16)) ∧ result .RCS .F .RCD (2 ^ (line % 16)) ∧ result .RCC .E .RCD (2 ^ (line % 16))) ∧
      (st = .E → result .RCI .I .ACK 0 ∧ result .RCS .F .ACK 0 ∧ result .RCC .E .ACK 0))) ∧
  (∀ (s : State) (n : EngNum) (q : PortNum) (l : Line) (part : PartId) (world : Bool) (v : Nat) (h1 : Hw),
    let line := l.toNat
    let snoops (a : AgentRef) : List (MsgOp × Instr) := [(MsgOp.RCS, Instr.rcs a l part world .good), (.RCI, .rci a l part world .good), (.RCC, .rcc a l part world .good),
      (.INV, .inv a l part world .good), (.PRB, .prb a l part world .good), (.FAP, .fap a l part world .good)]
    let here (op : MsgOp) (a : AgentRef) : Prop :=
      let p := s.hw.pkt op (toAgent a) line part.val world
      s.hw.receive p .good = .ok (h1, false) ∧ (part.val = 0 ∨ part.val = h1.agentPart (toAgent a)) ∧ (p.waits && h1.isStale p.msg.ends.2 p.msg.epoch) = false ∧ isFar line = false
    let own := look .I (look [] h1.elc n.val) line
    let mask := if own = .M then lbit line else 0
    (∀ a, a = AgentRef.eng n ∧ own = .I ∨ a = .port q → ∀ op i, (op, i) ∈ snoops a → here op a →
      (h1.agHolds (toAgent a) line = true → Does s i (fun k => k.mem = s.hw.mem ∧ k.msgs = h1.msgs ∧ ∃ x, k.heldSn = h1.heldSn ++ [x] ∧ x.op = op ∧ x.addr = line ∧ x.agent = toAgent a)) ∧
      (h1.agHolds (toAgent a) line = false → Does s i (fun k => k.mem = s.hw.mem ∧ k.elc = h1.elc ∧
        SnoopAnswered h1 k .ACK (toAgent a) line (if h1.agPending (toAgent a) line = true ∧ op ≠ .PRB ∧ op ≠ .FAP then 3 else 1)))) ∧
    (own ≠ .I →
      (∀ op i, (op, i) ∈ [(MsgOp.RCS, Instr.rcs (.eng n) l part world .good), (.RCI, .rci (.eng n) l part world .good)] → here op (.eng n) → Does s i (fun k =>
        k.mem = s.hw.mem ∧ look .I (look [] k.elc n.val) line = .I ∧ SnoopAnswered h1 k (if own = .M then .RCD else .ACK) (.eng n.val) line mask)) ∧
      (here .RCC (.eng n) → Does s (.rcc (.eng n) l part world .good) (fun k => k.mem = s.hw.mem ∧ look .I (look [] k.elc n.val) line = .E ∧
        SnoopAnswered h1 k .RCD (.eng n.val) line mask))) ∧
    (∀ op i tag, (op, i) ∈ [(MsgOp.GNTE, Instr.gntE (.eng n) l .good), (.GNTO, .gntO (.eng n) l .good)] → Answers s.hw op (.eng n.val) line tag h1 → h1.heldSn = [] →
      let q := look [] h1.esq n.val
      Does s i (fun k => k.msgs = h1.msgs ∧ look [] k.esq n.val = q.filter (fun x => !(lineOf x.1 == line)) ∧
        look .I (look [] k.elc n.val) line = (if q.any (fun x => lineOf x.1 == line) then .M else .E) ∧
        (Memory.wf s.hw.mem = true → ∀ a, k.byte a = match (q.filter (fun x => lineOf x.1 == line)).reverse.find? (fun x => x.1 == a) with
          | some x => x.2
          | none => s.hw.byte a))) ∧
    (∀ op i tag, (op, i) ∈ [(MsgOp.GNTE, Instr.gntE (.port q) l .good), (.GNTO, .gntO (.port q) l .good)] → Answers s.hw op (.port q.val) line tag h1 → h1.heldSn = [] → ∀ x : PAtomic,
      look [] h1.patom q.val = [x] → lineOf x.addr = line → lineOf (x.addr + x.size - 1) = line → Memory.wf s.hw.mem = true → v = s.hw.readNum x.addr x.size →
      Does s i (fun k => look [] k.patom q.val = [] ∧ k.readNum x.addr x.size = x.result v % 256 ^ x.size ∧
        (∀ a, a < x.addr ∨ x.addr + x.size ≤ a → k.byte a = s.hw.byte a) ∧ k.agPending (.port q.val) line = true ∧
        (∃ c, look [] k.dmaCpls q.val = look [] h1.dmaCpls q.val ++ [c] ∧ c.rid = x.rid ∧ c.va = x.va) ∧
        ∃ m ∈ k.msgs ++ k.tokWait, m.op = .WB ∧ m.addr = line ∧ m.agent = .port q.val)))

/-- R32, R45, R46, R54, R57, R62, R175, R228, R263, R265, R272: what a requester does with a reply that has arrived. A grant gives a compute die the line and ends its miss. DATA brings a core's provisional fill, or its N-NC read, its data. WBA ends the write-back. DFR and REF end a provisional read: its loads run again. REF of a settled request ends the miss, and the stores that waited for the line are discarded; so are an engine's, whose piece stops with status 1. RDY marks a port's write ready, and the oldest ready write of the port gets its CMT; DONE makes a relaxed write visible, and ends a core's write-combining write. Completes: gntE, gntS, gntF, gntO, data, wba, dfr, ref, rdy, done.

R269, R279, R281: SNOOP_TIMEOUT, once the snoops of the line's transaction have had the time of HOME_TMO. The lines of the transaction are poisoned and Uncached, the error is recorded with the code of the snoop, the silent agent's answer is no longer awaited and its copy no longer accepted, and the entry is held; a waiting request is then served, here an RDO with GNT-E. Before that time nothing happens. POISON_ENTRY_HOLD_EXPIRE ends the hold of the entry 8 s after it began. Completes: snoopTimeout, poisonEntryHoldExpire. -/
def Obligations.RepliesAndTimeouts : Prop :=
  (∀ (s : State) (d : CDie) (p : PCore) (n : EngNum) (q : PortNum) (t : Gtn) (l : Line) (h1 : Hw),
    let a : AgentRef := .core d p
    let die := d.val + 1
    let key := coreKey die p.val
    let line := l.toNat
    let of (op : MsgOp) (a : AgentRef) (tag : Nat) : Prop := Answers s.hw op (toAgent a) line tag h1
    let calm : Prop := (h1.cdie die).heldSnoops = [] ∧ (h1.cdie die).parked = []
    (∀ op i x tag, (op, i, x) ∈ [(MsgOp.GNTE, Instr.gntE a l .good, LState.E), (.GNTO, .gntO a l .good, .E), (.GNTS, .gntS a l .good, .S), (.GNTF, .gntF a l .good, .F)] →
      of op a tag → OnlyMiss h1 die line → h1.dcOff die = false →
      Does s i (fun k => k.mem = s.hw.mem ∧ has (k.cdie die).miss line = false ∧ k.dieState die line = x)) ∧
    (of .DATA a 0 → (h1.cdie die).heldSnoops = [] → (∀ f ∈ (h1.core key).fills, f.line = line → f.noticed = false) → Does s (.data a l .good) (fun k => k.mem = s.hw.mem ∧ k.msgs = h1.msgs ∧
      ∀ f ∈ (k.core key).fills, f.line = line → f.settled = false → f.inFlight = false)) ∧
    (of .DATA a 1 → Does s (.data a l .good) (fun k => k.mem = s.hw.mem ∧ k.msgs = h1.msgs ∧ ∀ j, j < 768 → dieOfThread j = die → h1.pcoreOf j = some p.val →
      ∀ e ∈ (k.thread j).ncReads, e.1 = line → e.2 = true)) ∧
    (of .WBA a 0 → (h1.cdie die).wbWait = [] → (h1.cdie die).parked = [] → Does s (.wba a l .good) (fun k => k.mem = s.hw.mem ∧ k.msgs = h1.msgs ∧ k.wbHeld die line = false)) ∧
    (of .WBA (.eng n) 0 → Does s (.wba (.eng n) l .good) (fun k => k.mem = s.hw.mem ∧ k.agPending (.eng n.val) line = false)) ∧
    (∀ c e u, c = (s.hw.pcoreOf t.val).getD 0 → Answers s.hw .DFR (.core (dieOfThread t.val) c) line 0 h1 → (h1.cdie (dieOfThread t.val)).heldSnoops = [] →
      h1.coreKeyOf t.val = coreKey (dieOfThread t.val) c → (h1.core (h1.coreKeyOf t.val)).fills.filter (fun f => f.line == line && f.inFlight && !f.settled) = [e] → e.thread = t.val → e.uses = [u] →
      Does s (.dfr t l .good) (fun k => k.mem = s.hw.mem ∧ (k.thread t.val).deferred = some (line, e.noticed || e.fetch || e.walk) ∧
        ∀ f ∈ (k.core (h1.coreKeyOf t.val)).fills, f.line = line → f.settled = false → f.inFlight = false)) ∧
    (of .REF a 0 → calm → (∀ f ∈ (h1.core key).fills, f.line = line → f.settled = true) → Does s (.ref a l .good) (fun k => k.mem = s.hw.mem ∧ has (k.cdie die).miss line = false ∧
      (∀ j, j < 64 → (k.thread (64 * d.val + j)).sqe.any (fun e => e.1 == line) = false) ∧
      ∀ j, j < 34 → ∀ f ∈ (k.core (coreKey die j)).fills, f.line = line → f.settled = true → f.inFlight = false)) ∧
    (∀ r, of .REF (.eng n) 0 → h1.heldSn = [] → look? h1.run n.val = some r → h1.engPending n.val line = true → Does s (.ref (.eng n) l .good) (fun k => k.mem = s.hw.mem ∧
      look [] k.esq n.val = (look [] h1.esq n.val).filter (fun x => !(lineOf x.1 == line)) ∧
      ∃ y, look? k.run n.val = some y ∧ (r.stop = none → ∃ e, y.stop = some e ∧ e.status = 1 ∧ e.detail = 0xF0))) ∧
    (∀ tag, of .RDY (.port q) tag →
      (∀ w r, look [] h1.pwr q.val = w :: r → w.line = line → w.ready = false → w.relaxed = false → w.sent = false → Does s (.rdy (.port q) l .good) (fun k => k.mem = s.hw.mem ∧
        look [] k.pwr q.val = { w with ready := true, sent := true } :: r ∧ ∃ m ∈ k.msgs ++ k.tokWait, m.op = .CMT ∧ m.addr = line ∧ m.agent = .port q.val)) ∧
      (∀ x y, look [] h1.pwr q.val = [x, y] → x.ready = false → x.line ≠ line → y.line = line → y.ready = false → Does s (.rdy (.port q) l .good) (fun k =>
        k.mem = s.hw.mem ∧ k.msgs = h1.msgs ∧ look [] k.pwr q.val = [x, { y with ready := true }]))) ∧
    (∀ tag, of .DONE (.port q) tag → ∀ w r, look [] h1.pwr q.val = w :: r → w.line = line → w.ready = false → w.relaxed = true → (∀ x ∈ r, x.ready = false) → Does s (.done (.port q) l .good) (fun k =>
      k.mem = s.hw.mem ∧ k.msgs = h1.msgs ∧ look [] k.pwr q.val = r)) ∧
    (of .DONE a 2 → ∀ w, (h1.core key).wcbs = [w] → w.sent = true → w.line = line → Does s (.done a l .good) (fun k => k.mem = s.hw.mem ∧ k.msgs = h1.msgs ∧ (k.core key).wcbs = []))) ∧
  (∀ (s : State) (a : AgentRef) (l : Line) (t : Txn) (r : HReq) (t0 : Nat),
    let g := toAgent a
    let line := l.toNat
    let key := dirKey line
    let h0 := s.hw.freeTok 2 g line
    let found := h0.txns.find? (fun t => t.key == key && (t.wait ++ t.wb).any (fun x => x.same g))
    let code := if t.snoop = .INV then 0x02 else if t.snoop = .PRB ∨ t.snoop = .FAP then 0x03 else 0x01
    let i : Instr := .snoopTimeout a l
    let ended (k : Hw) : Prop := SameMemory s.hw k line ∧ (look? k.dhold key).isSome ∧ (∀ x ∈ k.txns, x.key ≠ key) ∧ ∀ x ∈ coveredLines t (h0.dirOf key), has k.poison x = true
    (s.hw.snoopDue line = false → exec i s = .next s) ∧
    (s.hw.snoopDue line = true → found = some t → s.hw.waitq = [] →
      (t.req = none → Does s i (fun k => ended k ∧ look .unc k.dir key = .unc ∧ ∃ e ∈ k.raises, e.source = 0x0C1 + 2 * homeOfLine (snoopedLine line) ∧ e.sev = 2 ∧ e.code = code)) ∧
      (t.req = some r → r.op = .RDO → dirKey r.line = key → StartsNow { h0 with txns := [] } r → Does s i (fun k =>
        ended k ∧ look .unc k.dir key = .owned r.agent (lbit r.line)))) ∧
    (look? s.hw.dhold key = some t0 → s.hw.waitq = [] →
      (t0 + 8000000000 ≤ s.hw.now → Does s (.poisonEntryHoldExpire l) (fun k => look? k.dhold key = none ∧ k.mem = s.hw.mem ∧ k.dir = s.hw.dir)) ∧
      (s.hw.now < t0 + 8000000000 → exec (.poisonEntryHoldExpire l) s = .next s)))

/-- R8, R10, R12, R13, R16, R500, R501: REGISTER_WRITE to a register that has no command of its own. A write that may not go on changes no register: R10 records it, and a reserved register logs it with reason 0x05. A permitted one acts on each field by its access code and class, on the bits of its half alone: RO and WO keep their value, W1C clears, W1S sets, a locked RWL field keeps its value and its refusal is logged, so does a static field while its block runs, and another field takes the value, at once or, staged, in its shadow, where it waits for the safe point. Completes: registerWrite.

R16: SAFE_POINT_APPLY at a register whose block is at its safe point: the staged fields take the values of the shadow, the others keep theirs, and the shadow is empty; without a shadow, or where the block is not at its safe point, nothing changes. Completes: safePointApply.

R48, R49: the disabling of caches. A permitted write that sets the disable bit of a core's cache, or of the die cache, disables it at once: L1 instruction is emptied, and of an L1 data or an L2, which takes both L1s with it, the cleaning starts, and CLEANING reads 1. The end of a core's cleaning empties what was cleaned, and clears CLEANING; without a cleaning in progress CACHE_CLEAN_DONE does nothing. Memory does not change. Completes: cacheDisableRequest, cacheCleanDone. -/
def Obligations.RegisterWindowWrites : Prop :=
  (∀ (s : State) (who : Who) (pa : BitVec 52) (half : Half) (v : W64) (r : RegRef),
    let i : Instr := .registerWrite who pa half v
    let h := s.hw
    let at' := regAddr r.name r.die r.inst r.idx
    let old := h.reg r.name r.die r.inst r.idx
    let m := halfMask half
    let inside (f : Fld) (b : Nat) : Prop := f.lo ≤ b ∧ b ≤ f.hi
    let put (o : W64) (b : Nat) : Bool := if m.getLsbD b then v.getLsbD b else o.getLsbD b
    paRange pa.toNat = .window → pa.toNat % 8 = 0 → hostSpAt pa.toNat = none → findReg pa.toNat = some r → who.src ≠ .platform →
    (∀ k : Hw, k.regEffect r who half v = k.writeFields r who half v) →
    (h.mayWrite r who (h.permitValue r half v) = .r10 → exec i s = .next { s with hw := h.refuseReg r.die at' who }) ∧
    (h.mayWrite r who (h.permitValue r half v) = .reject → Does s i (fun k => k.shadow = h.shadow ∧ ∃ e ∈ k.raises, e.source = 0x231)) ∧
    (h.mayWrite r who (h.permitValue r half v) = .ok → imgSection r.name = 0 ∨ has h.applying (imgSection r.name) = false → Does s i (fun k =>
      let new := k.reg r.name r.die r.inst r.idx
      (∀ f ∈ r.name.desc.fields, ∀ b, inside f b →
        (f.acc = .RO ∨ f.acc = .WO → new.getLsbD b = old.getLsbD b) ∧
        (f.acc = .W1C → new.getLsbD b = (old.getLsbD b && !(v &&& m).getLsbD b)) ∧
        (f.acc = .W1S → new.getLsbD b = (old.getLsbD b || (v &&& m).getLsbD b)) ∧
        (f.acc = .RWL → h.committed = true → new.getLsbD b = old.getLsbD b ∧ (put old b ≠ old.getLsbD b → ∃ e ∈ k.raises, e.source = 0x231)) ∧
        (f.acc = .RWL ∧ h.committed = false ∨ (f.acc = .RW ∨ f.acc = .RWS) ∧ f.cls ≠ .G →
          (f.cls ≠ .S ∨ h.blockRuns r.name = false → new.getLsbD b = put old b) ∧
          (f.cls = .S → h.blockRuns r.name = true → new.getLsbD b = old.getLsbD b ∧ (put old b ≠ old.getLsbD b → ∃ e ∈ k.raises, e.source = 0x231))) ∧
        (f.acc = .RW ∨ f.acc = .RWS → f.cls = .G → new.getLsbD b = old.getLsbD b ∧
          ∃ x, look? k.shadow at' = some x ∧ x.getLsbD b = put ((look? h.shadow at').getD old) b)) ∧
      k.mem = h.mem ∧ k.thr = h.thr))) ∧
  (∀ (s : State) (pa : BitVec 52) (r : RegRef) (x : W64), findReg pa.toNat = some r →
    let at' := regAddr r.name r.die r.inst r.idx
    let i : Instr := .safePointApply pa
    (s.hw.atSafePoint r = false → exec i s = .next s) ∧
    (r.name ∉ [RegName.SKM_QBASE, .HOME_ISET_A, .HOME_ISET_B, .MTRX_RING] → s.hw.atSafePoint r = true →
      (look? s.hw.shadow at' = none → exec i s = .next s) ∧
      (look? s.hw.shadow at' = some x → Does s i (fun k => look? k.shadow at' = none ∧
        (∀ f ∈ r.name.desc.fields, ∀ b, f.lo ≤ b → b ≤ f.hi → (k.reg r.name r.die r.inst r.idx).getLsbD b =
          (if f.cls = .G then x else s.hw.reg r.name r.die r.inst r.idx).getLsbD b) ∧
        (∀ a, a ≠ at' → look? k.regs a = look? s.hw.regs a ∧ look? k.shadow a = look? s.hw.shadow a) ∧ k.mem = s.hw.mem ∧ k.thr = s.hw.thr)))) ∧
  (∀ (s : State) (who : Who) (d : CDie) (p : PCore) (v : W64),
    let die := d.val + 1
    let key := coreKey die p.val
    let old := s.hw.reg .CORE_CACHE_CTL die p.val 0
    let c := s.hw.core key
    (s.hw.mayWrite (RegRef.at .CORE_CACHE_CTL die p.val) who v = .ok →
      c.cleaning = 0 → old = 0 → v.toNat < 8 → v ≠ 0 → Does s (.cacheDisableRequest who d (some p) v) (fun k => k.mem = s.hw.mem ∧
        (∀ j, j < 3 → (k.core key).cleaning.getLsbD j = (v.getLsbD 2 || (v.getLsbD 1 && decide (j = 1)))) ∧ (v.getLsbD 0 = true → (k.core key).l1i = []) ∧
        k.fld .CORE_CACHE_CTL die p.val 0 F.CORE_CACHE_CTL_CLEANING = (if v.getLsbD 1 || v.getLsbD 2 then 1 else 0) ∧ (∀ j, j < 3 → k.coreCacheOff die p.val j = (v.getLsbD j || v.getLsbD 2)))) ∧
    (s.hw.mayWrite (RegRef.at .DCACHE_CTL die) who 1 = .ok → s.hw.reg .DCACHE_CTL die 0 0 = 0 → Does s (.cacheDisableRequest who d none 1) (fun k =>
      k.mem = s.hw.mem ∧ k.dcOff die = true ∧ (k.cdie die).dcCleaning = true ∧ k.fld .DCACHE_CTL die 0 0 F.DCACHE_CTL_CLEANING = 1)) ∧
    (c.cleaning = 0 → exec (.cacheCleanDone d (some p)) s = .next s) ∧
    ((s.hw.cdie die).dcCleaning = false → exec (.cacheCleanDone d none) s = .next s) ∧
    (c.cleaning ≠ 0 → Does s (.cacheCleanDone d (some p)) (fun k => k.mem = s.hw.mem ∧ (k.core key).cleaning = 0 ∧
      (c.cleaning.getLsbD 0 = true → (k.core key).l1i = []) ∧ (c.cleaning.getLsbD 1 = true → (k.core key).l1d = []) ∧
      (c.cleaning.getLsbD 2 = true → (k.core key).l2 = []) ∧ k.fld .CORE_CACHE_CTL die p.val 0 F.CORE_CACHE_CTL_CLEANING = 0)) ∧
    ((s.hw.cdie die).dcCleaning = true → Does s (.cacheCleanDone d none) (fun k => k.mem = s.hw.mem ∧ (k.cdie die).dcCleaning = false ∧
      k.fld .DCACHE_CTL die 0 0 F.DCACHE_CTL_CLEANING = 0 ∧ k.fld .DCACHE_CTL die 0 0 F.DCACHE_CTL_DC_OFF = s.hw.fld .DCACHE_CTL die 0 0 F.DCACHE_CTL_DC_DIS)))

/-- R17, R18, R71, R372, R661, R679: the resets. Cold reset leaves every register at its reset value, but those that fuses give, no thread, no memory and no committed image, and the flash, the fuses and the meter as they were. Package warm reset also keeps the structure image banks and the always-on count; during a thermal trip it changes nothing. A partition's reset stops its pieces; once none runs it puts the threads of its dies in reset and empties its event router instance and its ports' queues, and while one still runs the partition is stopped and the reset waits. A die's reset leaves its threads in reset and its caches empty, or its ports idle; of the hub it is a reset of the package. A core's reset leaves its threads in reset, at M in the normal world, and its caches empty. Completes: coldReset, packageWarmReset, partitionReset, dieReset, coreReset. -/
def Obligations.ResetResults : Prop :=
  ∀ (s : State) (p : PartIx) (d : DieIx) (c : CDie) (q : PCore),
    let h := s.hw
    let part := p.val + 1
    Does s .coldReset (fun k =>
      (∀ r, findReg (regAddr r.name r.die r.inst r.idx) = some r → r.name ≠ .SEC_KEYSTAT → r.name ≠ .SEC_FLOOR →
        k.reg r.name r.die r.inst r.idx = regReset r.name r.die r.inst r.idx) ∧
      k.mem = [] ∧ k.thr = [] ∧ k.cores = [] ∧ k.dir = [] ∧ k.committed = false ∧ k.now = 0 ∧ k.ao = 0 ∧ k.boot.flash = h.boot.flash ∧
      k.boot.revoked = h.boot.revoked ∧ k.boot.floor = h.boot.floor ∧ k.meter = h.meter) ∧
    (h.tripped = true → exec .packageWarmReset s = .next s) ∧
    (h.tripped = false → h.cfgState = 0 → Does s .packageWarmReset (fun k =>
      k.mem = [] ∧ k.thr = [] ∧ k.cores = [] ∧ k.dir = [] ∧ k.committed = false ∧ k.now = 0 ∧ k.ao = h.ao ∧ k.boot.flash = h.boot.flash ∧
      k.commit.bank0 = h.commit.bank0 ∧ k.commit.bank1 = h.commit.bank1 ∧ k.meter = h.meter)) ∧
    (let ended := ((List.range 56).filter (fun n => look 0 h.engOwner n == part)).foldl (fun (x : Hw) n => x.pieceEnd n) (h.partCancel part)
     (ended.piecesOn part = false → Does s (.partitionReset p) (fun k =>
      (∀ t, 1 ≤ dieOfThread t → dieOfThread t ≤ 12 → look 0 ended.dieOwner (dieOfThread t) = part → k.thread t = {}) ∧
      has k.partUp part = false ∧ has k.partStopped part = false ∧ (∀ e ∈ k.evPend, e.inst ≠ part) ∧
      ∀ n, n < 64 → look 0 ended.portOwner n = part → look [] k.dpq n = [])) ∧
     (ended.piecesOn part = true → Does s (.partitionReset p) (fun k => has k.partStopped part = true ∧ has k.resetWait part = true ∧ k.mem = ended.mem ∧
      ∀ t, 1 ≤ dieOfThread t → dieOfThread t ≤ 12 → look 0 ended.dieOwner (dieOfThread t) = part → k.thread t = {}))) ∧
    (d.val = 0 → exec (.dieReset d) s = exec .packageWarmReset s) ∧
    (1 ≤ d.val → d.val ≤ 12 → Does s (.dieReset d) (fun k => (∀ t, dieOfThread t = d.val → k.thread t = {}) ∧ k.cdie d.val = {} ∧
      (h.fenced (.core d.val 0) = false → ∀ e ∈ k.dir, ∀ x m, e.2 ≠ .owned (.core d.val x) m))) ∧
    (13 ≤ d.val → Does s (.dieReset d) (fun k => ∀ n, n / 16 = d.val - 13 → look [] k.dpq n = [] ∧ look [] k.pwr n = [] ∧ has k.portUp n = false)) ∧
    Does s (.coreReset c q) (fun k => (∀ t ∈ h.threadsOn (c.val + 1) q.val, k.thread t = {}) ∧ k.core (coreKey (c.val + 1) q.val) = {}) ∧
    ({} : Thread).run = .inReset ∧ ({} : Thread).level = 3 ∧ ({} : Thread).world = false

/-- R494, R497, R500, R501: loading, applying and giving up a structure image. Each command acts in its own state of the commit machine, and in another is logged with reason 0x06. LOAD: LOADING. Its end: LOADED with RESULT 0 and the image in the other bank, or IDLE with the RESULT of the first check that fails, and 3 where the image does not verify. ABORT: IDLE, and the image is gone. APPLY: the loaded bank is the active one, and HIGHSEQ, PREVSEQ and ACTSEQ follow it; where no section differs, AWAIT_CONFIRM comes at once. Every change of state raises the event. Completes: cfgLoad, cfgLoadDone, cfgAbort, cfgApply.

R497, R498, R499: how an apply ends. Outside AWAIT_CONFIRM a confirmation has no effect; in it, a confirmation is kept until every member of the confirm set has confirmed, and then the image commits: IDLE, RESULT 0, RWL fields locked. ROLLBACK in APPLYING or AWAIT_CONFIRM, the end of the apply time and the end of the window start a rollback with RESULT 0xA, 7 and 8; in other states the first is logged, and the others do nothing there or before their time. The end of a rollback gives the active bank and ACTSEQ back to the previous image. Completes: cfgConfirm, cfgRollback, applyTimeout, confirmWindowExpire, rollbackDone. -/
def Obligations.StructureImage : Prop :=
  (∀ (s : State) (who : Who) (img : List Byte),
    let h := s.hw
    let may (b : Nat) : Prop := h.mayWrite (RegRef.at .CFG_CTL 0) who (BitVec.ofNat 64 (2 ^ b)) = .ok
    let refused (i : Instr) : Prop := exec i s = .next { s with hw := h.cfgReject (regAddr .CFG_CTL 0 0 0) who 6 }
    let event (k : Hw) : Prop := ({ source := 0x230 } : Raise) ∈ k.raises
    let st := h.cfgState
    let other (k : Hw) := k.bank (1 - h.activeBank)
    let source := h.readLive (h.commit.loader.getD structureEngine) (h.fld .CFG_LOADADDR 0 0 0 F.CFG_LOADADDR_BASE <<< 12)
    (may 1 → st = 0 → Does s (.cfgLoad who) (fun k => k.cfgState = 1 ∧ k.commit.loader = some who ∧ event k ∧ k.mem = h.mem)) ∧
    (may 1 → st ≠ 0 → refused (.cfgLoad who)) ∧
    (st ≠ 1 → exec .cfgLoadDone s = .next s) ∧
    (st = 1 → source = none → Does s .cfgLoadDone (fun k => k.cfgState = 0 ∧ k.fld .CFG_STAT 0 0 0 F.CFG_STAT_RESULT = 3 ∧ k.commit = h.commit)) ∧
    (st = 1 → source = some img → Does s .cfgLoadDone (fun k => other k = img ∧ k.activeImg = h.activeImg ∧ event k ∧
      k.cfgState = (if h.imgCheck img h.activeImg true = 0 then 2 else 0) ∧
      k.fld .CFG_STAT 0 0 0 F.CFG_STAT_RESULT = h.imgCheck img h.activeImg true)) ∧
    (may 4 → st = 2 → Does s (.cfgAbort who) (fun k => k.cfgState = 0 ∧ other k = [] ∧ k.activeImg = h.activeImg ∧ event k)) ∧
    (may 4 → st ≠ 2 → refused (.cfgAbort who)) ∧
    (may 2 → st ≠ 2 → refused (.cfgApply who)) ∧
    (may 2 → st = 2 → Does s (.cfgApply who) (fun k => k.commit.bank0 = h.commit.bank0 ∧ k.commit.bank1 = h.commit.bank1 ∧ event k)) ∧
    (may 2 → st = 2 → h.stagedWait = 0 → (∀ t, 1 ≤ t → t ≤ 15 → h.secDiffers h.otherImg h.activeImg t = false) → Does s (.cfgApply who) (fun k =>
      k.cfgState = 4 ∧ k.activeImg = h.otherImg ∧ k.reg .CFG_ACTSEQ 0 0 0 = BitVec.ofNat 64 (imgSeq h.otherImg) ∧
      k.reg .CFG_HIGHSEQ 0 0 0 = BitVec.ofNat 64 (imgSeq h.otherImg) ∧ k.reg .CFG_PREVSEQ 0 0 0 = h.reg .CFG_ACTSEQ 0 0 0 ∧
      k.commit.windowEnd = h.now + 1000000000 * confirmS h.otherImg))) ∧
  (∀ (s : State) (who : Who) (half : Half) (v : W64),
    let h := s.hw
    let st := h.cfgState
    let old := h.reg .CFG_CONFIRM 0 0 0
    let x := v &&& halfMask half
    let conf := wbits old 12 0 ||| wbits x 12 0
    let rolls (i : Instr) (r : Nat) : Prop := Does s i (fun k => k.commit.rollResult = r ∧ k.commit.changed = [] ∧ k.commit.bank0 = h.commit.bank0 ∧ k.commit.bank1 = h.commit.bank1)
    let may : Prop := h.mayWrite (RegRef.at .CFG_CONFIRM 0) who x = .ok
    (may → st ≠ 4 → exec (.cfgConfirm who half v) s = .next s) ∧
    (may → st = 4 → conf &&& wbits old 28 16 ≠ wbits old 28 16 → Does s (.cfgConfirm who half v) (fun k =>
      k.cfgState = 4 ∧ k.fld .CFG_CONFIRM 0 0 0 F.CFG_CONFIRM_HAVE = conf ∧ k.committed = h.committed ∧ k.commit = h.commit)) ∧
    (may → st = 4 → conf &&& wbits old 28 16 = wbits old 28 16 → Does s (.cfgConfirm who half v) (fun k =>
      k.cfgState = 0 ∧ k.committed = true ∧ k.fld .CFG_STAT 0 0 0 F.CFG_STAT_RESULT = 0 ∧ k.activeImg = h.activeImg ∧
      ∃ e ∈ k.boot.mlog, e.2.2 = Config.sha384 h.activeImg)) ∧
    (h.mayWrite (RegRef.at .CFG_CTL 0) who 8 = .ok → (st = 3 ∨ st = 4 → rolls (.cfgRollback who) 0xA) ∧
      (st ≠ 3 → st ≠ 4 → exec (.cfgRollback who) s = .next { s with hw := h.cfgReject (regAddr .CFG_CTL 0 0 0) who 6 })) ∧
    (st = 3 → h.commit.windowEnd ≤ h.now → rolls .applyTimeout 7) ∧ (st ≠ 3 ∨ h.now < h.commit.windowEnd → exec .applyTimeout s = .next s) ∧
    (st = 4 → h.commit.windowEnd ≤ h.now → rolls .confirmWindowExpire 8) ∧ (st ≠ 4 ∨ h.now < h.commit.windowEnd → exec .confirmWindowExpire s = .next s) ∧
    (st = 5 → h.stagedWait = 0 → Does s .rollbackDone (fun k => k.cfgState = 0 ∧ k.fld .CFG_STAT 0 0 0 F.CFG_STAT_RESULT = h.commit.rollResult % 16 ∧
      k.activeBank = 1 - h.activeBank ∧ k.reg .CFG_ACTSEQ 0 0 0 = h.reg .CFG_PREVSEQ 0 0 0 ∧ k.reg .CFG_PREVSEQ 0 0 0 = h.reg .CFG_ACTSEQ 0 0 0 ∧ k.applying = [])) ∧
    (st ≠ 5 ∨ h.stagedWait ≠ 0 → exec .rollbackDone s = .next s))

/-- R500, R502, R504, R507 to R509: safe points of the structure image. A staged section whose units have all reached their safe points leaves STAGED_WAIT and the set that R500 holds; one that does not wait is not affected. An explicit apply without GO only names its block; with GO during an apply or a rollback it is logged with reason 0x06, and of a block without an owner with 0x07. A fenced die that is to leave its partition takes its new owner at once, its threads in reset; one with an online thread waits. A GiB whose owner is to change starts its transition, in which no partition owns it. Completes: stagedSectionApply, explicitApply, dieLeavesPartition, gibOwnerChange, gibReleaseSweepDone.

R74 to R78: the migration of a logical core. A start whose check fails sets DONE with its RESULT and moves nothing; one whose check passes sets BUSY, puts the source and the destination in their roles and stops the threads. The cleaning of the source waits for its threads' stores and device accesses; then its state is copied and its caches are empty. The end gives the logical core to the destination: DONE with RESULT 0, the source failed, and the threads go on as before. Completes: migrateStart, migrationSourceCleaned, migrationDone. -/
def Obligations.SafePointsAndMigration : Prop :=
  (∀ (s : State) (who : Who) (ty : BitVec 4) (v : W64) (d : CDie) (g : BitVec 18) (o : Nat),
    let h := s.hw
    let t := ty.toNat
    let die := d.val + 1
    let may : Prop := h.mayWrite (RegRef.at .CFG_APPLY 0) who (merged .full (h.reg .CFG_APPLY 0 0 0) v) = .ok
    let go := wbit v 63
    let busy : Prop := h.cfgState = 3 ∨ h.cfgState = 5
    (¬ busy ∨ h.stagedWait.testBit t = false → exec (.stagedSectionApply ty) s = .next s) ∧
    (t ∈ [2, 4, 5, 14] → busy → h.stagedWait.testBit t = true → h.stagedDone h.targetImg t = true → h.stagedWait ≠ 2 ^ t → Does s (.stagedSectionApply ty) (fun k =>
      k.stagedWait = h.stagedWait - 2 ^ t ∧ has k.applying t = false ∧ k.cfgState = h.cfgState ∧ k.mem = h.mem)) ∧
    (may → go = false → Does s (.explicitApply who .full v) (fun k => k.fld .CFG_APPLY 0 0 0 F.CFG_APPLY_BLOCK = F.CFG_APPLY_BLOCK.get v ∧
      k.fld .CFG_APPLY 0 0 0 F.CFG_APPLY_GO = 0 ∧ ∀ a, look? k.shadow a = look? h.shadow a)) ∧
    (may → go = true → busy ∨ h.blockOwner (F.CFG_APPLY_BLOCK.get v <<< 20) = 0 → Does s (.explicitApply who .full v) (fun k =>
      (∀ a, look? k.shadow a = look? h.shadow a) ∧ ∃ e ∈ k.raises, e.source = 0x231)) ∧
    (may → go = true → ¬ busy → h.blockOwner (F.CFG_APPLY_BLOCK.get v <<< 20) ≠ 0 → h.shadow = [] → Does s (.explicitApply who .full v) (fun k => k.shadow = [] ∧ k.raises = h.raises)) ∧
    (look? h.commit.dieMoves die = none → exec (.dieLeavesPartition d) s = .next s) ∧
    (look? h.commit.dieMoves die = some o → h.fenced (.core die 0) = true → Does s (.dieLeavesPartition d) (fun k =>
      look 0 k.dieOwner die = o ∧ (∀ th, dieOfThread th = die → k.thread th = {}) ∧ look? k.commit.dieMoves die = none)) ∧
    (look? h.commit.dieMoves die = some o → h.fenced (.core die 0) = false → h.dieOffline die = false → exec (.dieLeavesPartition d) s = .next s) ∧
    (look? h.commit.gibQueue g.toNat = none → exec (.gibOwnerChange g) s = .next s) ∧
    (look? h.commit.gibQueue g.toNat = some o → (∀ m ∈ h.gibMoves, m.gib ≠ g.toNat) → h.gibKeys g.toNat = [] → Does s (.gibOwnerChange g) (fun k =>
      k.gibOwner g.toNat = 0xE ∧ look? k.commit.gibQueue g.toNat = none ∧
      k.gibMoves = h.gibMoves ++ [{ gib := g.toNat, owner := o, why := .owner }] ∧ k.mem = h.mem)) ∧
    ((∀ m ∈ h.gibMoves, m.gib = g.toNat → m.init = true) → exec (.gibReleaseSweepDone g) s = .next s) ∧
    (h.gibMoves = [{ gib := g.toNat, owner := o, why := .owner }] → h.released g.toNat = true → o ≠ 0xF → Does s (.gibReleaseSweepDone g) (fun k =>
      k.gibMoves = [{ gib := g.toNat, owner := o, why := .owner, init := true }] ∧ k.mem = h.mem ∧ k.dir = h.dir))) ∧
  (∀ (s : State) (who : Who) (d : CDie) (v : W64) (m : Migration),
    let h := s.hw
    let die := d.val + 1
    let F1 := F.DCTL_MIGRATE_RESULT
    let src := F.DCTL_MIGRATE_SRC_PCORE.get v
    let dst := F.DCTL_MIGRATE_DST_PCORE.get v
    let i : Instr := .migrateStart who d v
    let may : Prop := h.mayWrite (RegRef.at .DCTL_MIGRATE die) who v = .ok
    let busy := h.flag .DCTL_MIGRATE die 0 0 F.DCTL_MIGRATE_BUSY
    (may → wbit v 16 = true → busy = true → exec i s = .next s) ∧
    (may → wbit v 16 = true → busy = false → has h.applying 3 = false →
      (h.migCheck die src dst ≠ 0 → Does s i (fun k => k.flag .DCTL_MIGRATE die 0 0 F.DCTL_MIGRATE_DONE = true ∧
        k.fld .DCTL_MIGRATE die 0 0 F1 = h.migCheck die src dst ∧ k.thr = h.thr ∧ ∃ e ∈ k.raises, e.source = 16 * d.val + 4)) ∧
      (h.migCheck die src dst = 0 → Does s i (fun k => (∃ y, (k.cdie die).migration = some y ∧ y.src = src ∧ y.dst = dst ∧ y.copied = false) ∧
        (∀ t ∈ h.threadsOn die src, (h.thread t).run ≠ .checkStopped → (k.thread t).run = .migrating) ∧ k.mem = h.mem))) ∧
    ((h.cdie die).migration = none → exec (.migrationSourceCleaned d) s = .next s ∧ exec (.migrationDone d) s = .next s) ∧
    ((h.cdie die).migration = some m → m.copied = false → h.migStopped die m = false →
      (h.migDrained die m = false → exec (.migrationSourceCleaned d) s = .next s) ∧ exec (.migrationDone d) s = .next s ∧
      (h.migDrained die m = true → (∀ t ∈ h.threadsOn die m.src, h.oldestUse t = none) → Does s (.migrationSourceCleaned d) (fun k => (k.cdie die).migration = some { m with copied := true } ∧
        k.core (coreKey die m.src) = {} ∧ ∀ t ∈ h.threadsOn die m.src, (k.thread t).resv = none ∧ (k.thread t).hold = none ∧ (k.thread t).pc = (h.thread t).pc))) ∧
    ((h.cdie die).migration = some m → m.copied = true → m.byImage = false → h.cfgState ≠ 3 → Does s (.migrationDone d) (fun k =>
      (k.cdie die).migration = none ∧ k.mem = h.mem ∧ (∃ e ∈ k.raises, e.source = 16 * d.val + 4) ∧
      ∀ t ∈ h.threadsOn die m.src, (k.thread t).run = look .running m.runs t ∧ (k.thread t).pc = (h.thread t).pc)))

/-- R16, R288, R289, R303: interleave descriptors and quotas. A write of a set in use is logged with reason 0x03 and stages nothing; a permitted write of B is held in its shadow, and the write of A stages the descriptor and its writer. ISET_APPLY of a staged descriptor that keeps the rules, with no transaction open on its range, puts it in force with DONE 0; one that breaks them is discarded and logged; without a staged one nothing happens. RC_QUOTA_APPLY puts the staged quota of a slice in force. Completes: isetBWrite, isetAWrite, isetApply, rcQuotaApply.

R285, R305, R320 to R323, R326 to R328: scrubs, sweeps, sparing and channel failure. A corrected error asks for a rewrite and is recorded; a clean read and a disabled walker change nothing. A lost clean line leaves the render cache; a lost dirty line that no one owns is poisoned. SWEEP sets SWEEP_BUSY, and its end clears it. A copy of a rank without a spare ends with RESULT 1, one that passes the checks sets BUSY, and its end sets DONE with RESULT 0 and USED. A failed channel is recorded with code 0x16, and its lines answer POISON. Completes: patrolScrubRead, correctiveRewrite, rcScrubRead, directorySweepStart, directorySweepDone, rankSpareStart, rankSpareDone, channelFail. -/
def Obligations.InterleaveAndScrub : Prop :=
  (∀ (s : State) (who : Who) (n : Fin 32) (half : Half) (v a : W64) (sl : SliceNum) (p : PartId),
    let h := s.hw
    let pa := regAddr .HOME_ISET_A 0 0 n.val
    let pb := regAddr .HOME_ISET_B 0 0 n.val
    let d := h.iset n.val
    let new : ISet := ⟨a, F.HOME_ISET_B_DONE.set (look d.b h.shadow pb) 0⟩
    let staged : ISet := ⟨merged half (look d.a h.shadow pa) v, look d.b h.shadow pb⟩
    let idle : Prop := has h.applying 5 = false
    (h.mayWrite (RegRef.at .HOME_ISET_B 0 0 n.val) who v = .ok →
      (h.isetBusy d = true → exec (.isetBWrite who n half v) s = .next { s with hw := h.cfgReject pb who 0x03 }) ∧
      (h.isetBusy d = false → idle → Does s (.isetBWrite who n half v) (fun k => k.iset n.val = d ∧ k.mem = h.mem ∧
        ∃ x, look? k.shadow pb = some x ∧ ∀ f ∈ RegName.HOME_ISET_B.desc.fields, f.acc = .RW → f.get x = f.get (merged half (look d.b h.shadow pb) v)))) ∧
    (h.mayWrite (RegRef.at .HOME_ISET_A 0 0 n.val) who v = .ok →
      (h.isetBusy d = true ∨ h.isetBusy staged = true → exec (.isetAWrite who n half v) s = .next { s with hw := h.cfgReject pa who 0x03 }) ∧
      (h.isetBusy d = false → h.isetBusy staged = false → idle → Does s (.isetAWrite who n half v) (fun k => k.iset n.val = d ∧ look? k.isetWho n.val = some who ∧
        ∃ x, look? k.shadow pa = some x ∧ ∀ f ∈ RegName.HOME_ISET_A.desc.fields, f.acc = .RW → f.get x = f.get staged.a))) ∧
    (look? h.shadow pa = none → exec (.isetApply n) s = .next s) ∧
    (look? h.shadow pa = some a → (d.valid = true → h.openIn d.base d.size = false) → (new.valid = true → h.openIn new.base new.size = false) →
      (h.isetOk n.val new = true → Does s (.isetApply n) (fun k => k.iset n.val = new ∧ look? k.shadow pa = none ∧ look? k.shadow pb = none ∧ k.mem = h.mem)) ∧
      (h.isetOk n.val new = false → Does s (.isetApply n) (fun k => k.iset n.val = d ∧ look? k.shadow pa = none ∧ ∃ e ∈ k.raises, e.source = 0x231))) ∧
    (let q := regAddr .HOME_RCWAY 0 sl.val p.val
     (look? h.shadow q = none → exec (.rcQuotaApply sl p) s = .next s) ∧
     ∀ x, look? h.shadow q = some x → Does s (.rcQuotaApply sl p) (fun k => look? k.shadow q = none ∧ k.mem = h.mem ∧
      ∀ f ∈ RegName.HOME_RCWAY.desc.fields, f.cls = .G → f.get (k.reg .HOME_RCWAY 0 sl.val p.val) = f.get x))) ∧
  (∀ (s : State) (who : Who) (l : Line) (dev : BitVec 4) (ch : Fin 24) (v : W64) (c x : Nat) (w : RcWay),
    let h := s.hw
    let line := l.toNat
    let on := h.flag .MEMC_SCRUB 0 c 0 F.MEMC_SCRUB_EN
    let spare (k : Hw) := k.reg .MEMC_SPARE 0 ch.val 0
    let v1 := setWbits v 16 16 1
    (h.channelOf line = none ∨ (h.channelOf line = some (c, x) ∧ on = false) → ∀ o, exec (.patrolScrubRead l o) s = .next s) ∧
    (exec (.patrolScrubRead l .clean) s = .next s) ∧
    (h.channelOf line = some (c, x) → on = true → Does s (.patrolScrubRead l (.corrected dev)) (fun k => has k.rewrites line = true ∧ k.mem = h.mem ∧
      k.dir = h.dir ∧ ∃ e ∈ k.raises, e.source = 0x100 + 2 * c ∧ e.sev = 1)) ∧
    (h.channelOf line = some (c, x) → on = true → Does s (.patrolScrubRead l .uncorrectable) (fun k => (∃ e ∈ k.raises, e.source = 0x101 + 2 * c ∧ e.sev = 2 ∧ e.code = 0x12) ∧
      (h.tableRegions line = [] → h.busy (dirKey line) = true → k.mem = h.mem ∧ k.dir = h.dir ∧ k.txns = h.txns) ∧
      (h.tableRegions line = [] → h.busy (dirKey line) = false → ∀ d, 1 ≤ d → d ≤ 12 → look 0 h.dieOwner d = h.gibOwner (line >>> 24) → h.fenced (.core d 0) = false →
        ∃ t ∈ k.txns, t.key = dirKey line ∧ t.snoop = .RCI ∧ t.lost = true ∧ Agent.core d 0 ∈ t.wait))) ∧
    (h.busy (dirKey line) = true → exec (.correctiveRewrite l) s = .next s) ∧
    (h.busy (dirKey line) = false → Does s (.correctiveRewrite l) (fun k => has k.rewrites line = false ∧ k.mem = h.mem ∧ k.dir = h.dir)) ∧
    (h.rcFind line = none → ∀ e, exec (.rcScrubRead l e) s = .next s) ∧
    (h.rcFind line = some w → w.ddirty = false → Does s (.rcScrubRead l .dataLost) (fun k => k.rcFind line = none ∧ k.mem = h.mem ∧ k.poison = h.poison)) ∧
    (h.rcFind line = some w → w.ddirty = true → h.dirOf (dirKey line) = .unc → Does s (.rcScrubRead l .dataLost) (fun k => has k.poison line = true ∧ k.mem = h.mem)) ∧
    (h.rcFind line = some w → Does s (.rcScrubRead l .corrected) (fun k => k.mem = h.mem ∧ k.rc = h.rc ∧ k.poison = h.poison)) ∧
    (h.mayWrite (RegRef.at .MEMC_SCRUB 0 ch.val 0) who (setWbits v 32 32 1) = .ok → Does s (.directorySweepStart who ch v) (fun k =>
      k.flag .MEMC_SCRUB 0 ch.val 0 F.MEMC_SCRUB_SWEEP_BUSY = true ∧ k.flag .MEMC_SCRUB 0 ch.val 0 F.MEMC_SCRUB_SWEEP = false ∧ k.mem = h.mem ∧ k.dir = h.dir)) ∧
    (h.flag .MEMC_SCRUB 0 ch.val 0 F.MEMC_SCRUB_SWEEP_BUSY = false → exec (.directorySweepDone ch) s = .next s) ∧
    (h.flag .MEMC_SCRUB 0 ch.val 0 F.MEMC_SCRUB_SWEEP_BUSY = true → Does s (.directorySweepDone ch) (fun k =>
      ((∀ key, h.writeThrough key = false) → k.mem = h.mem) ∧ k.flag .MEMC_SCRUB 0 ch.val 0 F.MEMC_SCRUB_SWEEP_BUSY = false)) ∧
    (h.mayWrite (RegRef.at .MEMC_SPARE 0 ch.val 0) who v1 = .ok → has h.applying 15 = false → wbit (spare h) 17 = false → h.committed = true →
      (wbit (spare h) 32 = false → Does s (.rankSpareStart who ch v) (fun k =>
        k.fld .MEMC_SPARE 0 ch.val 0 F.MEMC_SPARE_RESULT = 1 ∧ k.flag .MEMC_SPARE 0 ch.val 0 F.MEMC_SPARE_DONE = true ∧
        k.flag .MEMC_SPARE 0 ch.val 0 F.MEMC_SPARE_BUSY = false ∧ ∃ e ∈ k.raises, e.source = 0x101 + 2 * ch.val ∧ e.code = 0x15)) ∧
      (wbit (spare h) 32 = true → wbit (spare h) 36 = false → has h.chFail ch.val = false → (h.ranks ch.val).contains (wbits v 2 0) = true → Does s (.rankSpareStart who ch v) (fun k =>
          k.flag .MEMC_SPARE 0 ch.val 0 F.MEMC_SPARE_BUSY = true ∧ k.mem = h.mem))) ∧
    (h.flag .MEMC_SPARE 0 ch.val 0 F.MEMC_SPARE_BUSY = false → exec (.rankSpareDone ch) s = .next s) ∧
    (h.flag .MEMC_SPARE 0 ch.val 0 F.MEMC_SPARE_BUSY = true → Does s (.rankSpareDone ch) (fun k => k.fld .MEMC_SPARE 0 ch.val 0 F.MEMC_SPARE_RESULT = 0 ∧
      k.flag .MEMC_SPARE 0 ch.val 0 F.MEMC_SPARE_DONE = true ∧ k.flag .MEMC_SPARE 0 ch.val 0 F.MEMC_SPARE_USED = true ∧
      k.flag .MEMC_SPARE 0 ch.val 0 F.MEMC_SPARE_BUSY = false ∧ ∃ e ∈ k.raises, e.source = 0x100 + 2 * ch.val ∧ e.code = 0x14)) ∧
    Does s (.channelFail ch) (fun k => has k.chFail ch.val = true ∧ ((∀ e ∈ h.dir, h.keyChannel e.1 ≠ some ch.val) → k.mem = h.mem ∧ k.dir = h.dir ∧ k.txns = h.txns) ∧ ∃ e ∈ k.raises, e.source = 0x101 + 2 * ch.val ∧ e.sev = 2 ∧ e.code = 0x16))

/-- R299, R310, R313, R314, R318, R319, R509, R561: initialisation, snapshots and the far tier's timeout. A near GiB that finishes initialisation reads zero but for what the Sizing loader staged, is Uncached and free of POISON; DONE of its set advances and the event is raised; a GiB in transition takes its owner. A snapshot with QUOTA 0 writes nothing and has RESULT 2; otherwise, here while nothing more is counted, CLEAR empties the slices' entries, COPY keeps them and HALVE halves them; BUSY stays set until HOTSNAP_DONE sets DONE and raises the event. A far read that times out marks its line POISON for its readers. Completes: memInitGibDone, hotsnapCopy, hotsnapCopyClear, hotsnapCopyHalve, hotsnapDone, cxlReadTimeout. -/
def Obligations.InitialisationAndSnapshots : Prop :=
  ∀ (s : State) (who : Who) (g : BitVec 18) (n : Fin 12) (v : W64) (l : Line) (m : GibMove) (nn k0 : Nat),
    let h := s.hw
    let clean (k : Hw) : Prop := (∀ e ∈ k.dir, keyInGib g.toNat e.1 = false) ∧
      (g.toNat < 1024 → (look [] h.boot.stage g.toNat = [] → ∀ a, a / 2 ^ 30 = g.toNat → k.byte a = 0) ∧ ∀ x ∈ k.poison, x >>> 24 ≠ g.toNat) ∧
      (∀ a, a / 2 ^ 30 ≠ g.toNat → look [] h.boot.stage g.toNat = [] → k.byte a = h.byte a)
    let at' (k : Hw) (f : Fld) := k.fld .HOME_HOTSNAP 0 0 n.val f
    let cmd (op : Nat) : Instr := if op = 1 then .hotsnapCopy who n v else if op = 2 then .hotsnapCopyClear who n v else .hotsnapCopyHalve who n v
    (h.gibMoves.find? (fun x => decide (x.gib = g.toNat) && x.init) = some m → Does s (.memInitGibDone g) (fun k => clean k ∧ (∀ x ∈ k.gibMoves, x.gib ≠ g.toNat) ∧
      (m.why ≠ .mark → k.gibOwner g.toNat = m.owner % 16) ∧ (m.why = .owner → k.gibSecure g.toNat = false))) ∧
    (h.gibMoves = [] → (List.range 32).find? (fun j => (h.iset j).valid && decide (g.toNat = (h.iset j).base + F.HOME_ISET_B_DONE.get (h.iset j).b) &&
        decide (F.HOME_ISET_B_DONE.get (h.iset j).b < (h.iset j).size)) = some nn → h.initWaits nn = false → Does s (.memInitGibDone g) (fun k => clean k ∧
      F.HOME_ISET_B_DONE.get (k.iset nn).b = F.HOME_ISET_B_DONE.get (h.iset nn).b + 1 ∧
      (h.gibOwner g.toNat ≤ 12 → ∃ e ∈ k.raises, e.source = 0x210 + h.gibOwner g.toNat ∧ e.info = g.toNat))) ∧
    (∀ op, 1 ≤ op → op ≤ 3 → h.mayWrite (RegRef.at .HOME_HOTSNAP 0 0 n.val) who (setWbits v 59 58 op) = .ok →
      (wbit (h.reg .HOME_HOTSNAP 0 0 n.val) 63 = true → exec (cmd op) s = .next s) ∧
      (wbit (h.reg .HOME_HOTSNAP 0 0 n.val) 63 = false → h.fld .HOME_HOTCTL 0 0 n.val F.HOME_HOTCTL_QUOTA = 0 → Does s (cmd op) (fun k =>
        at' k F.HOME_HOTSNAP_RESULT = 2 ∧ at' k F.HOME_HOTSNAP_BUSY = 1 ∧ k.mem = h.mem ∧ k.hot = h.hot)) ∧
      (wbit (h.reg .HOME_HOTSNAP 0 0 n.val) 63 = false → h.fld .HOME_HOTCTL 0 0 n.val F.HOME_HOTCTL_QUOTA ≠ 0 → k0 < 32 →
        h.flag .HOME_HOTCTL 0 0 n.val F.HOME_HOTCTL_EN = false → Does s (cmd op) (fun k =>
        at' k F.HOME_HOTSNAP_BUSY = 1 ∧ look [] k.hot (16 * k0 + (n.val + 1)) = (if op = 2 then [] else
          if op = 3 then (look [] h.hot (16 * k0 + (n.val + 1))).map (fun e => (e.1, e.2 / 2)) else look [] h.hot (16 * k0 + (n.val + 1)))))) ∧
    (at' h F.HOME_HOTSNAP_BUSY = 0 ∨ h.hubWrites = true → exec (.hotsnapDone n) s = .next s) ∧
    (at' h F.HOME_HOTSNAP_BUSY = 1 → h.hubWrites = false → Does s (.hotsnapDone n) (fun k => at' k F.HOME_HOTSNAP_BUSY = 0 ∧ at' k F.HOME_HOTSNAP_DONE = 1 ∧ k.mem = h.mem ∧
      k.raises = h.raises ++ [{ source := 0x221 + n.val, part := n.val + 1 }])) ∧
    (h.isetOf (l.toNat <<< 6) = none → exec (.cxlReadTimeout l) s = .next s) ∧
    (h.isetOf (l.toNat <<< 6) = some nn → isFar l.toNat = true → Does s (.cxlReadTimeout l) (fun k => k.poisoned (l.toNat <<< 6) = true ∧ k.mem = h.mem ∧ k.poison = h.poison))

/-- R332, R334, R335, R338 to R340, R344, R354, R368, R370, R371: queues and jobs. A doorbell within the ring size moves TAIL; one beyond it is error 0x01 with its event. A staged base applies at the queue's safe point and takes HEAD and TAIL to 0. A descriptor that can be read takes a slot with its fields, and HEAD and INFLIGHT advance; a refused one has status 5; one that cannot be read stops its queue with error 0x02. Steering of a job with ORDER waits for the earlier ones of its queue. A job whose pieces have not all reported writes no record; one of a reset partition leaves its slot without one. A timeout stops every piece with status 0x0A. An append chunk is granted while one is left. Completes: doorbell, queueBaseApply, descriptorRead, jobSteer, completionWrite, jobTimeout, appendChunkRequest.

R283, R345, R346, R361 to R367: pieces, the scratchpad and the power of an engine. A waiting piece starts on an idle engine that can run it, after the zeroing that a new owner or world asks for; its argument block is read before its first instruction. A stopped piece writes its last chunk's header, gives its lines up, waits for its stores and write-backs, and reports; that of a fenced engine reports at once. The engine is then idle. A requested ELC group that no running piece needs is off once cleaned. A scratchpad bank that goes off loses its contents, one that comes on is zeroed, and the end of zeroing clears its bit. A host access within the host's regions reads or writes the scratchpad and is completed; a refused one is answered REF. Fence bits are set by writing ones. Completes: pieceStart, pieceEnd, elcGroupPowerRequest, elcGroupCleanDone, spBankPowerChange, scratchpadZeroDone, hostScratchpadAccess, agentFence. -/
def Obligations.SkimQueuesAndPieces : Prop :=
  (∀ (s : State) (who : Who) (q : QueueNum) (half : Half) (v : W64) (slot : JobSlot) (n : EngNum) (j : Job) (r : EngRun) (bs : List Byte) (k0 x0 : Nat),
    let h := s.hw
    let f (k : Hw) (m : RegName) (y : Fld) (q : Nat) := k.qFld m q y
    let new := wbits (merged half (h.reg .SKM_QTAIL 0 (q.val / 4) (q.val % 4)) v) 15 0
    let fits : Prop := (new + 65536 - f h .SKM_QHEAD F.SKM_QHEAD_HEAD q.val) % 65536 ≤ h.ringSize q.val
    let may : Prop := h.mayWrite (qReg .SKM_QTAIL q.val) who v = .ok
    let part := f h .SKM_QCTL F.SKM_QCTL_PART k0
    let world := decide (f h .SKM_QCTL F.SKM_QCTL_WORLD k0 ≠ 0)
    let head := f h .SKM_QHEAD F.SKM_QHEAD_HEAD k0
    let pa := (f h .SKM_QBASE F.SKM_QBASE_BASE k0 <<< 12) + 64 * (head % h.ringSize k0)
    (may → fits → Does s (.doorbell who q half v) (fun k => f k .SKM_QTAIL F.SKM_QTAIL_TAIL q.val = new ∧ k.raises = h.raises ∧ k.mem = h.mem)) ∧
    (may → ¬ fits → Does s (.doorbell who q half v) (fun k => f k .SKM_QTAIL F.SKM_QTAIL_TAIL q.val = f h .SKM_QTAIL F.SKM_QTAIL_TAIL q.val ∧
      f k .SKM_QHEAD F.SKM_QHEAD_ERR q.val = 1 ∧ f k .SKM_QHEAD F.SKM_QHEAD_ERRV q.val = 1 ∧ ∃ e ∈ k.raises, e.source = 0x130 + q.val)) ∧
    (look? h.shadow (regAddr .SKM_QBASE 0 (q.val / 4) (q.val % 4)) = some v → Does s (.queueBaseApply q) (fun k =>
      if f h .SKM_QCTL F.SKM_QCTL_EN q.val = 0 ∧ f h .SKM_QHEAD F.SKM_QHEAD_INFLIGHT q.val = 0 then
        f k .SKM_QBASE F.SKM_QBASE_BASE q.val = F.SKM_QBASE_BASE.get v ∧ f k .SKM_QBASE F.SKM_QBASE_SIZE q.val = F.SKM_QBASE_SIZE.get v ∧
        f k .SKM_QHEAD F.SKM_QHEAD_HEAD q.val = 0 ∧ f k .SKM_QTAIL F.SKM_QTAIL_TAIL q.val = 0
      else k = h)) ∧
    (h.nextQueue = none ∨ h.freeJob = none → exec .descriptorRead s = .next s) ∧
    (h.nextQueue = some k0 → h.freeJob = some x0 → k0 < 96 →
      (h.agentRead part world pa 64 = none → Does s .descriptorRead (fun k => k.jobs = h.jobs ∧ f k .SKM_QCTL F.SKM_QCTL_EN k0 = 0 ∧
        f k .SKM_QHEAD F.SKM_QHEAD_ERR k0 = 2 ∧ ∃ e ∈ k.raises, e.source = 0x130 + k0)) ∧
      (h.agentRead part world pa 64 = some bs →
        let h1 := ({ h with queueTurn := k0 } : Hw).homeRequest { op := .RDC, line := pa / 64, agent := .hub, part := part, world := world }
        f h1 .SKM_QHEAD F.SKM_QHEAD_INFLIGHT k0 < 255 → Does s .descriptorRead (fun k =>
        f k .SKM_QHEAD F.SKM_QHEAD_HEAD k0 = (head + 1) % 65536 ∧ f k .SKM_QHEAD F.SKM_QHEAD_INFLIGHT k0 = f h1 .SKM_QHEAD F.SKM_QHEAD_INFLIGHT k0 + 1 ∧ k.mem = h1.mem ∧
        look? k.jobs x0 = some (let y := jobOf bs k0 h1.jobOrder part world; if descBad bs part then { y with steered := true, status := 5 } else y)))) ∧
    (look? h.jobs slot.val = none → exec (.jobSteer slot) s = .next s ∧ exec (.completionWrite slot) s = .next s ∧ exec (.jobTimeout slot) s = .next s) ∧
    (look? h.jobs slot.val = some j →
      (j.ordered = true → (∃ e ∈ h.jobs, e.2.queue = j.queue ∧ e.2.order < j.order) → exec (.jobSteer slot) s = .next s) ∧
      (j.steered = false → j.ordered = false → j.nosplit = true → j.pieces = 0 → Does s (.jobSteer slot) (fun k => ∃ y, look? k.jobs slot.val = some y ∧ y.steered = true ∧ y.pieces ≤ 1)) ∧
      (j.steered = false ∨ j.ended.length < j.pieces → exec (.completionWrite slot) s = .next s) ∧
      (j.steered = true → j.pieces ≤ j.ended.length → j.silent = true → Does s (.completionWrite slot) (fun k => look? k.jobs slot.val = none ∧ k.mem = h.mem ∧ k.raises = h.raises)) ∧
      (∀ g pa, j.steered = true → j.pieces ≤ j.ended.length → j.silent = false → h.cplPa j = .ok (g, pa) →
        let g1 := if j.recorded then g else (g.setJob slot.val { j with recorded := true }).agentWrite .hub j.part j.world pa j.record
        Does s (.completionWrite slot) (fun k => if g1.hubWriteOpen (pa / 64) then k = g1 else look? k.jobs slot.val = none ∧ k.mem = g1.mem)) ∧
      (j.steered = true → j.ended.length < j.pieces → f h .SKM_QCTL F.SKM_QCTL_TMO_MS j.queue ≠ 0 → Does s (.jobTimeout slot) (fun k =>
        (∀ m, m < 56 → ∀ p ∈ look [] k.engq m, p.slot ≠ slot.val) ∧ ∀ m y, m < 56 → look? h.run m = some y → y.piece.slot = slot.val → y.stop = none →
          ∃ z, look? k.run m = some z ∧ z.stop = some { status := 0x0A }))) ∧
    (look? h.run n.val = none → exec (.appendChunkRequest n) s = .next s) ∧
    (∀ c, look? h.run n.val = some r → r.chunk = some c → c.used < 2040 → exec (.appendChunkRequest n) s = .next s) ∧
    (look? h.run n.val = some r → look? h.jobs r.piece.slot = some j → j.outMode = 1 → r.granted = [] → (∀ c, r.chunk = some c → 2040 ≤ c.used) → r.stop = none → Does s (.appendChunkRequest n) (fun k =>
      if (j.chunks + 1) * 4096 ≤ j.outLen then (∃ y, look? k.run n.val = some y ∧ y.granted = [j.chunks]) ∧ ∃ z, look? k.jobs r.piece.slot = some z ∧ z.chunks = j.chunks + 1
      else ∃ y, look? k.run n.val = some y ∧ y.noChunk = true))) ∧
  (∀ (s : State) (who : Who) (n : EngNum) (g : Fin 6) (b : Fin 16) (v : W64) (off : BitVec 19) (p : Piece) (r : EngRun) (eng : Bool),
    let h := s.hw
    let die := (engPlace n.val).1
    let inst := (engPlace n.val).2
    let f (k : Hw) (m : RegName) (y : Fld) := k.fld m die inst 0 y
    let j := h.job p.slot
    let free : Prop := h.fenced (.eng n.val) = false ∧ h.engDown n.val = false ∧ f h .SKM_UCODE F.SKM_UCODE_STATE ≠ 2 ∧
      16 + j.elcAddr ≤ h.elcPowered n.val ∧ f h .SKM_SPPWR F.SKM_SPPWR_ZEROING = 0
    let req := f h .SKM_ELCPWR F.SKM_ELCPWR_GRP_REQ
    let goff := f h .SKM_ELCPWR F.SKM_ELCPWR_GRP_OFF
    let may (m : RegName) : Prop := h.mayWrite (RegRef.at m die inst 0) who v = .ok
    let pass (w : Bool) : Prop := (who.part.val = 0 ∨ who.part.val = look 0 h.engOwner n.val) ∧ h.spAllowed n.val 2 (off.toNat / 8 * 8) 8 w = true
    (look? h.run n.val = none → look [] h.engq n.val = [] → exec (.pieceStart n) s = .next s) ∧
    (look? h.run n.val = some r → r.argDue = false ∨ r.stop.isSome = true → exec (.pieceStart n) s = .next s) ∧
    (∀ k y bs, look? h.run n.val = some r → r.argDue = true → r.stop = none → h.engRead n.val .snapshot 2 (h.job r.piece.slot).argVa 64 = .ok (k, bs) → KeepsRun k n.val r y →
      Does s (.pieceStart n) (fun u => u.mem = k.mem ∧ look? u.run n.val = some { y with s := (EngRun.start (h.job r.piece.slot) r.piece bs).s, argDue := false })) ∧
    (look? h.run n.val = none → look [] h.engq n.val = [p] → free → look? h.engLast n.val = some (j.part, j.world) → j.argVa = 0 → Does s (.pieceStart n) (fun k =>
      look? k.run n.val = some (EngRun.start j p []) ∧ look [] k.engq n.val = [] ∧ k.mem = h.mem ∧ f k .SKM_STATUS F.SKM_STATUS_STATE = 1 ∧
      f k .SKM_STATUS F.SKM_STATUS_PIECE = p.num % 256)) ∧
    (look? h.run n.val = none → look [] h.engq n.val = [p] → free → look? h.engLast n.val ≠ some (j.part, j.world) → Does s (.pieceStart n) (fun k =>
      look? k.run n.val = none ∧ (∀ a, k.spByte n.val a = 0) ∧ f k .SKM_SPPWR F.SKM_SPPWR_ZEROING = 0xFFFF ∧ look? k.engLast n.val = some (j.part, j.world))) ∧
    (look? h.run n.val = none ∨ (look? h.run n.val = some r ∧ r.stop = none) → h.resetWait = [] → exec (.pieceEnd n none) s = .next s) ∧
    (∀ w, skUnassigned w = false → exec (.pieceEnd n (some w)) s = .next s) ∧
    (∀ e, look? h.run n.val = some r → r.stop = some e → h.held = [] → h.resetWait = [] →
      let reported (st : Nat) : Prop := Does s (.pieceEnd n none) (fun k => look? k.run n.val = none ∧ k.mem = h.mem ∧
        (k.job r.piece.slot).ended = (h.job r.piece.slot).ended ++ [(r.piece.num, e.status, look 0 r.s 1, e.va, e.detail)] ∧
        look 0 (k.job r.piece.slot).bytes r.piece.num = r.sbase ∧ f k .SKM_STATUS F.SKM_STATUS_STATE = st)
      (h.fenced (.eng n.val) = true → reported 3) ∧
      (h.fenced (.eng n.val) = false →
        (∀ c k y, r.chunk = some c → r.closed = false →
          h.engWrite n.val ((h.job r.piece.slot).outVa + 4096 * c.num) true (toBytes 8 c.first ++ toBytes 4 c.used ++ toBytes 4 c.seq) = .ok k → KeepsRun k n.val r y →
          Does s (.pieceEnd n none) (fun u => u.mem = k.mem ∧ look? u.run n.val = some { y with closed := true })) ∧
        (r.chunk = none ∨ r.closed = true →
          (look [] h.esq n.val ≠ [] → exec (.pieceEnd n none) s = .next s) ∧
          (look [] h.esq n.val = [] → look [] h.elc n.val ≠ [] → Does s (.pieceEnd n none) (fun k => k.run = h.run ∧ k.mem = h.mem ∧ ∀ l, look .I (look [] k.elc n.val) l = .I)) ∧
          (look [] h.esq n.val = [] → look [] h.elc n.val = [] → h.engWbOpen n.val = true → exec (.pieceEnd n none) s = .next s) ∧
          (look [] h.esq n.val = [] → look [] h.elc n.val = [] → h.engWbOpen n.val = false → h.engDown n.val = false → reported 0)))) ∧
    (may .SKM_ELCPWR → Does s (.elcGroupPowerRequest who n v) (fun k => f k .SKM_ELCPWR F.SKM_ELCPWR_GRP_REQ = v.toNat % 64 ∧
      f k .SKM_ELCPWR F.SKM_ELCPWR_GRP_OFF = goff &&& (v.toNat % 64) ∧ k.mem = h.mem)) ∧
    (req.testBit g.val = true → goff.testBit g.val = false → h.groupHeld n.val g.val = false → Does s (.elcGroupCleanDone n g) (fun k =>
      f k .SKM_ELCPWR F.SKM_ELCPWR_GRP_OFF = goff ||| 2 ^ g.val ∧ k.mem = h.mem ∧ ∀ l, look .I (look [] k.elc n.val) l = .I)) ∧
    (req.testBit g.val = false → exec (.elcGroupCleanDone n g) s = .next s) ∧
    (may .SKM_SPPWR → Does s (.spBankPowerChange who n v) (fun k => k.mem = h.mem ∧
      (2 ≤ wbits v (2 * b.val + 1) (2 * b.val) → ∀ a, a / 32768 = b.val → k.spByte n.val a = 0) ∧
      (2 ≤ wbits (h.reg .SKM_SPPWR die inst 0) (2 * b.val + 1) (2 * b.val) → wbits v (2 * b.val + 1) (2 * b.val) < 2 → (f k .SKM_SPPWR F.SKM_SPPWR_ZEROING).testBit b.val = true))) ∧
    Does s (.scratchpadZeroDone n b) (fun k => (f k .SKM_SPPWR F.SKM_SPPWR_ZEROING).testBit b.val = false ∧ k.mem = h.mem ∧ k.sp = h.sp) ∧
    (pass true → Does s (.hostScratchpadAccess who n off .full true v) (fun k => ∀ i, i < 8 → k.spByte n.val (off.toNat / 8 * 8 + i) = v.extractLsb' (8 * i) 8)) ∧
    (pass false → Does s (.hostScratchpadAccess who n off .full false v) (fun k => k.sp = h.sp ∧ ∃ m ∈ k.msgs, m.op = .REGCPL ∧
      m.info = ofBytes ((List.range 8).map (fun i => h.spByte n.val (off.toNat / 8 * 8 + i))))) ∧
    (¬ pass true → Does s (.hostScratchpadAccess who n off .full true v) (fun k => k.sp = h.sp ∧ ∃ m ∈ k.msgs, m.op = .REF)) ∧
    (h.mayWrite (RegRef.at (if eng then .HOME_FENCE1 else .HOME_FENCE0) 0) who v = .ok → Does s (.agentFence who eng v) (fun k => ∀ i, i < 64 →
      (k.reg (if eng then .HOME_FENCE1 else .HOME_FENCE0) 0 0 0).getLsbD i = ((h.reg (if eng then .HOME_FENCE1 else .HOME_FENCE0) 0 0 0).getLsbD i ||
        (v.getLsbD i && (if eng then decide (i < 56) else decide (1 ≤ i ∧ i ≤ 12 ∨ 16 ≤ i ∧ i ≤ 19)))))))

/-- R373 to R375, R378, R390 to R394, R399, R400, R417: the scalar instructions of Skim-2. Each writes one s register, a write to s0 being discarded, and control goes on; an encoding that the tables do not list is an illegal-instruction fault, as is an instruction that is Skim-2 only in compatibility mode. SRD and SWR read and write the special registers, CYC being a free value, as is the result of a CRCP without reflection of a width below 8; a BANK write is used from the second instruction on; a value that breaks a register's rule is a bad-operand fault. Completes: skimAlu, skimAddi, skimLogicImmediate, lis, skimShiftImmediate, skimCrc32c, crcp, skimBitHelper, hmix, srd, swr, cMv, cAlu, cNop, cSetbank, cAddi. -/
def Obligations.SkimScalarResults : Prop :=
  ∀ (s : State) (n : EngNum) (d a b : SReg) (imm : BitVec 17) (i10 : BitVec 10) (sz z : BitVec 2) (func : BitVec 13) (op : BitVec 3) (sr bank : BitVec 8) (r : EngRun)
    (f : Hw) (q : EngRun) (len : Nat), EngReady s.hw n.val len r f q →
    let j := s.hw.job r.piece.slot
    let x := r.readS a
    let y := r.readS b
    let sh := y.toNat % 64
    let am := imm.toNat % 64
    let acc := x.setWidth 32
    let word (v : W64) := toBytes (2 ^ sz.toNat) v.toNat
    let mix (u v : W64) : W64 :=
      let p := (u ^^^ v) * 0x6a5d39e1c4b70f93
      let t := (p ^^^ (p >>> 29)) * 0x8f1bc7a35e29d04d
      t ^^^ (t >>> 32)
    let alu : List (BitVec 13 × W64) :=
      [(0x000, x + y), (0x001, x - y), (0x002, x &&& y), (0x003, x ||| y), (0x004, x ^^^ y), (0x005, x &&& ~~~y),
       (0x008, x <<< sh), (0x009, x >>> sh), (0x00A, x.sshiftRight sh), (0x00B, x.rotateRight sh),
       (0x010, if x.toInt < y.toInt then 1 else 0), (0x011, if x.toNat < y.toNat then 1 else 0),
       (0x012, if x.toInt < y.toInt then x else y), (0x013, if x.toInt < y.toInt then y else x),
       (0x014, if x.toNat < y.toNat then x else y), (0x015, if x.toNat < y.toNat then y else x),
       (0x020, x * y), (0x021, BitVec.ofInt 64 (x.toInt * y.toInt / 2 ^ 64)), (0x022, BitVec.ofNat 64 (x.toNat * y.toNat / 2 ^ 64))]
    let helper : List (BitVec 13 × W64) :=
      [(0x010, BitVec.ofNat 64 (popCount 64 x.toNat % 2)), (0x011, BitVec.ofNat 64 (popCount 64 x.toNat)), (0x012, brev8Op x),
       (0x013, BitVec.ofNat 64 (revBits 64 x.toNat)), (0x014, BitVec.ofNat 64 (clzN 64 x.toNat)), (0x015, BitVec.ofNat 64 (ctzN 64 x.toNat))]
    let set (i : Instr) (v : W64) : Prop := Commits s i n.val len r f q none (fun e => e.writeS d v)
    let bad (i : Instr) (c : Nat) : Prop := Breaks s i n.val r f c
    (len = 4 → r.placed [d] →
      (∀ p ∈ alu, set (.skimAlu n d a b p.1) p.2) ∧ (func ∉ alu.map (·.1) → bad (.skimAlu n d a b func) 1) ∧
      set (.skimAddi n d a imm) (x + imm.signExtend 64) ∧ set (.skimLogicImmediate n .and d a imm) (x &&& imm.zeroExtend 64) ∧
      set (.skimLogicImmediate n .or d a imm) (x ||| imm.zeroExtend 64) ∧ set (.skimLogicImmediate n .xor d a imm) (x ^^^ imm.zeroExtend 64) ∧
      (a = 0 ∧ imm.getLsbD 16 = false → set (.lis n d a imm) ((r.readS d <<< 16) ||| imm.zeroExtend 64)) ∧ (a ≠ 0 ∨ imm.getLsbD 16 = true → bad (.lis n d a imm) 1) ∧
      (imm.extractLsb' 8 9 = 0 → set (.skimShiftImmediate n d a imm) (if imm.extractLsb' 6 2 = 0 then x <<< am else if imm.extractLsb' 6 2 = 1 then x >>> am
        else if imm.extractLsb' 6 2 = 2 then x.sshiftRight am else x.rotateRight am)) ∧ (imm.extractLsb' 8 9 ≠ 0 → bad (.skimShiftImmediate n d a imm) 1) ∧
      set (.skimCrc32c n d a b sz) ((crcBytes acc (word y)).zeroExtend 64) ∧
      (b = 0 → ∀ p ∈ helper, set (.skimBitHelper n d a b p.1) p.2) ∧ (b ≠ 0 ∨ func ∉ helper.map (·.1) → bad (.skimBitHelper n d a b func) 1) ∧
      (j.compat = false → set (.hmix n d a b) (mix x y) ∧
        (r.crccfg.getLsbD 8 = true ∨ 7 ≤ wbits r.crccfg 5 0 →
          set (.crcp n d a b sz) (BitVec.ofNat 64 ((word y).foldl (crcpByte (wbits r.crccfg 5 0 + 1) (r.crccfg.getLsbD 8) r.crcpoly.toNat) (x.toNat % 2 ^ (wbits r.crccfg 5 0 + 1))))) ∧
        (r.crccfg.getLsbD 8 = false ∧ wbits r.crccfg 5 0 < 7 → ∃ v : W64, v.toNat < 2 ^ (wbits r.crccfg 5 0 + 1) ∧ set (.crcp n d a b sz) v)) ∧
      (j.compat = true → bad (.hmix n d a b) 1 ∧ bad (.crcp n d a b sz) 1) ∧
      (∀ p ∈ [((0x00 : BitVec 8), BitVec.ofNat 64 r.bankNew), (0x01, BitVec.ofNat 64 r.sbase), (0x03, r.obase), (0x08, BitVec.ofNat 64 (r.lvl 0).ls), (0x09, BitVec.ofNat 64 (r.lvl 0).le),
        (0x0A, BitVec.ofNat 64 (r.lvl 0).lc), (0x10, BitVec.ofNat 64 (r.lvl 2).ls), (0x12, BitVec.ofNat 64 (r.lvl 2).lc), (0x14, r.crcpoly), (0x15, r.crccfg), (0x21, look 0 r.wd 1)],
        set (.srd n d p.1) p.2) ∧
      (∃ v, set (.srd n d 0x04) v) ∧ (sr ∈ [0x05, 0x06, 0x07, 0x0B, 0x0F, 0x13] ∨ 0x16 ≤ sr.toNat ∧ sr.toNat < 0x20 ∨ 0x40 ≤ sr.toNat → bad (.srd n d sr) 1)) ∧
    (len = 4 → r.free →
      (x.toNat ≤ 0xFF → Commits s (.swr n 0x00 a) n.val 4 r f q none (fun e => { e with bankNew := x.toNat, bankPend := true })) ∧ (0xFF < x.toNat → bad (.swr n 0x00 a) 6) ∧
      Commits s (.swr n 0x03 a) n.val 4 r f q none (fun e => { e with obase := x }) ∧ Commits s (.swr n 0x14 a) n.val 4 r f q none (fun e => { e with crcpoly := x }) ∧
      (x.toNat < 2 ^ 32 → Commits s (.swr n 0x0A a) n.val 4 r f q none (fun e => { e with loops := put e.loops 0 { e.lvl 0 with lc := x.toNat } })) ∧
      (2 ^ 32 ≤ x.toNat → bad (.swr n 0x0A a) 6) ∧ (x.getLsbD 0 = true → bad (.swr n 0x08 a) 6) ∧ (x.getLsbD 8 = false → wbits x 5 0 < 7 → bad (.swr n 0x15 a) 6) ∧
      (sr ∈ [0x01, 0x02, 0x04, 0x05, 0x06, 0x07, 0x0B, 0x0F, 0x13] ∨ 0x16 ≤ sr.toNat ∧ sr.toNat < 0x20 ∨ 0x40 ≤ sr.toNat → bad (.swr n sr a) 1) ∧
      (x.getLsbD 63 = true → (wbits x 7 0 < 18 ∨ 255 < wbits x 7 0 + wbits x 15 8 ∨ (look 0 r.wd 0).extractLsb' 0 6 ≠ 0) → bad (.swr n 0x21 a) 6)) ∧
    (len = 2 → j.compat = true → bad (.cMv n d a) 1 ∧ bad (.cAlu n op d a) 1 ∧ bad (.cNop n a) 1 ∧ bad (.cSetbank n z bank) 1 ∧ bad (.cAddi n d i10) 1) ∧
    (len = 2 → j.compat = false → r.placed [d] →
      (d ≠ 0 ∨ a ≠ 0 → set (.cMv n d a) x) ∧ (d = 0 ∧ a = 0 → bad (.cMv n d a) 1) ∧ (∀ p ∈ [((1 : BitVec 3), r.readS d + x), (2, r.readS d - x), (3, r.readS d &&& x), (4, r.readS d ||| x), (5, r.readS d ^^^ x)], set (.cAlu n p.1 d a) p.2) ∧
      (op ∈ [0, 6, 7] → bad (.cAlu n op d a) 1) ∧ (d ≠ 0 → set (.cAddi n d i10) (r.readS d + i10.signExtend 64)) ∧
      Commits s (.cNop n 0) n.val 2 r f q none id ∧ (a ≠ 0 → bad (.cNop n a) 1)) ∧
    (len = 2 → j.compat = false → r.free →
      Commits s (.cSetbank n 0 bank) n.val 2 r f q none (fun e => { e with bankNew := bank.toNat, bankPend := true }) ∧ (z ≠ 0 → bad (.cSetbank n z bank) 1) ∧
      (i10.extractLsb' 8 2 = 0 → Commits s (.cAddi n 0 i10) n.val 2 r f q none (fun e => { e with bankNew := i10.toNat, bankPend := true }))) ∧
    (∀ br, r.slot = some br → len = 2 → j.compat = false → bad (.cSetbank n 0 bank) 2) ∧
    (∀ br, r.slot = some br → len = 4 → d ≠ 0 → d.toNat ∈ br.reads → bad (.skimAddi n d a imm) 2)

/-- R376, R387, R391, R393, R396 to R400, R417: the vector instructions of Skim-2, lane by lane. A field that names a w register with bit 3 set, and an encoding that R391 does not list, is an illegal-instruction fault. A compare writes the byte mask of the lanes that satisfy it; VCPRS packs the lanes that a mask selects; DLOOK reads the scratchpad at s_b[23:0] + index × e, and an entry outside banks 0 to 7 is a bad-operand fault. Completes: skimVectorAlu, skimVectorShift, vcmp, vcmps, vcprs, skimVbcast, vext, vins, vhmix, vcrc32c, dlook. -/
def Obligations.SkimVectorResults : Prop :=
  ∀ (s : State) (n : EngNum) (v : VxFields) (func : BitVec 11) (r : EngRun) (f : Hw) (q : EngRun), EngReady s.hw n.val 4 r f q →
    let j := s.hw.job r.piece.slot
    let e := 2 ^ v.esize.toNat
    let w := 8 * e
    let a (i : Nat) := lane e (r.readW v.a) i
    let b (i : Nat) := lane e (r.readW v.b) i
    let x := r.readS v.a
    let m := r.readS v.b
    let low := m.toNat % 2 ^ w
    let sg (k : Nat) : Int := if k < 2 ^ (w - 1) then k else (k : Int) - 2 ^ w
    let good (t : SReg) : Prop := t.getLsbD 3 = false
    let bad (i : Instr) (c : Nat) : Prop := Breaks s i n.val r f c
    let lanes (i : Instr) (g : Nat → Nat) : Prop := ∃ z, Commits s i n.val 4 r f q none (fun y => y.writeW v.d z) ∧ ∀ k < 64 / e, lane e z k = g k
    let mask (i : Instr) (g : Nat → Bool) : Prop := ∃ z : W64, Commits s i n.val 4 r f q none (fun y => y.writeS v.d z) ∧ ∀ k < 64, z.getLsbD k = g (k / e)
    let base := m.toNat % 2 ^ 24
    let two : List (BitVec 11 × (Nat → Nat)) :=
      [(0x000, fun i => (a i + b i) % 2 ^ w), (0x001, fun i => (a i + 2 ^ w - b i) % 2 ^ w), (0x002, fun i => a i &&& b i), (0x003, fun i => a i ||| b i),
       (0x004, fun i => a i ^^^ b i), (0x005, fun i => a i &&& (b i ^^^ (2 ^ w - 1))), (0x008, fun i => if sg (a i) ≤ sg (b i) then a i else b i),
       (0x009, fun i => if sg (a i) ≤ sg (b i) then b i else a i), (0x00A, fun i => min (a i) (b i)), (0x00B, fun i => max (a i) (b i))]
    let shifts : List (BitVec 11 × (Nat → Nat)) :=
      [(0x010, fun i => a i * 2 ^ (m.toNat % w) % 2 ^ w), (0x011, fun i => a i / 2 ^ (m.toNat % w)), (0x012, fun i => (sg (a i) / 2 ^ (m.toNat % w) % 2 ^ w).toNat)]
    let tests (c : Nat → Nat) : List (BitVec 11 × (Nat → Bool)) :=
      [(0, fun i => decide (a i = c i)), (1, fun i => decide (a i ≠ c i)), (2, fun i => decide (sg (a i) < sg (c i))), (3, fun i => decide (sg (c i) ≤ sg (a i))),
       (4, fun i => decide (a i < c i)), (5, fun i => decide (c i ≤ a i))]
    (∀ p ∈ two, r.placed [] → good v.d → good v.a → good v.b → lanes (.skimVectorAlu n v p.1) p.2) ∧
    (∀ p ∈ shifts, r.placed [] → good v.d → good v.a → lanes (.skimVectorShift n v p.1) p.2) ∧
    (∀ p ∈ tests b, r.placed [v.d] → good v.a → good v.b → mask (.vcmp n v (0x020 + p.1)) p.2) ∧
    (∀ p ∈ tests (fun _ => low), r.placed [v.d] → good v.a → mask (.vcmps n v (0x030 + p.1)) p.2) ∧
    (func ∉ two.map (·.1) ∨ ¬ good v.d ∨ ¬ good v.a ∨ ¬ good v.b → bad (.skimVectorAlu n v func) 1) ∧
    (func ∉ shifts.map (·.1) ∨ ¬ good v.d ∨ ¬ good v.a → bad (.skimVectorShift n v func) 1) ∧
    (func.toNat < 0x020 ∨ 0x025 < func.toNat ∨ ¬ good v.a ∨ ¬ good v.b → bad (.vcmp n v func) 1) ∧
    (func.toNat < 0x030 ∨ 0x035 < func.toNat ∨ ¬ good v.a → bad (.vcmps n v func) 1) ∧
    (r.placed [] → good v.d → good v.a → lanes (.vcprs n v) (fun i => (((List.range (64 / e)).filter (fun k => m.getLsbD (k * e))).map a).getD i 0)) ∧
    (r.placed [] → good v.d → lanes (.skimVbcast n v) (fun _ => x.toNat % 2 ^ w) ∧
      lanes (.vins n v) (fun i => if i = v.b.toNat % (64 / e) then x.toNat % 2 ^ w else lane e (r.readW v.d) i)) ∧
    (r.placed [v.d] → good v.a → Commits s (.vext n v) n.val 4 r f q none (fun y => y.writeS v.d (BitVec.ofNat 64 (a (v.b.toNat % (64 / e)))))) ∧
    (¬ good v.a → bad (.vext n v) 1 ∧ bad (.vcprs n v) 1) ∧ (¬ good v.d → bad (.skimVbcast n v) 1 ∧ bad (.vins n v) 1 ∧ bad (.vcprs n v) 1) ∧
    (j.compat = true → bad (.vhmix n v) 1 ∧ bad (.vcrc32c n v) 1 ∧ bad (.dlook n v) 1) ∧
    (j.compat = false → r.placed [] → v.esize = 3 → good v.d → good v.a → good v.b →
      lanes (.vhmix n v) (fun i => (hmixOp (BitVec.ofNat 64 (a i)) (BitVec.ofNat 64 (b i))).toNat)) ∧
    (v.esize ≠ 3 → bad (.vhmix n v) 1) ∧
    (j.compat = false → r.placed [v.d] → v.esize = 0 → v.b = 0 → good v.a → Commits s (.vcrc32c n v) n.val 4 r f q none
      (fun y => y.writeS v.d ((crcBytes ((r.readS v.d).setWidth 32) (toBytes 64 (r.readW v.a).toNat)).zeroExtend 64))) ∧
    (v.esize ≠ 0 ∨ v.b ≠ 0 → bad (.vcrc32c n v) 1) ∧
    (j.compat = false → r.placed [] → good v.d → good v.a →
      ((∃ i < 64 / e, 0x80000 < base + a i * e + e) → bad (.dlook n v) 6) ∧
      ((∀ i < 64 / e, base + a i * e + e ≤ 0x80000) → (∃ i < 64 / e, f.spAllowed n.val 0 (base + a i * e) e false = false) → bad (.dlook n v) 4) ∧
      ((∀ i < 64 / e, base + a i * e + e ≤ 0x80000 ∧ f.spAllowed n.val 0 (base + a i * e) e false = true) →
        lanes (.dlook n v) (fun i => ofBytes ((List.range e).map (fun k => f.spByte n.val (base + a i * e + k))))))

/-- R348, R349, R354, R377 to R387, R395, R396, R401, R402: engine addresses. Loads and stores reach the scratchpad through the regions, the addressable entries, the stream, the output area and the windows; a load extends as its form says, a store changes the bytes it names and no others; an access that wraps, or that no mapping allows, is a window fault, and a scratchpad access that the regions refuse a region fault. SADV moves the stream on. EMITV and EMITM append to the chunk in use, wait while none is granted, and stop the piece with status 0x04 when none is left. PREF and PLOCK act on a sector of a window. Completes: skimLoad, skimStore, skimVld, skimVst, sadv, cSadv, emitv, emitm, pref, plock. -/
def Obligations.SkimMemoryResults : Prop :=
  ∀ (s : State) (n : EngNum) (d a b : SReg) (kl : LoadKind) (ks : StoreKind) (imm : BitVec 17) (off : BitVec 13) (i8 : BitVec 8) (r q z : EngRun) (f k : Hw) (bs : List Byte)
    (base : Nat) (wd : W64) (c : ChunkSt), EngReady s.hw n.val 4 r f q →
    let j := s.hw.job r.piece.slot
    let x := r.readS a
    let at17 := (x + imm.signExtend 64).toNat % 65536
    let at13 := (x + off.signExtend 64).toNat % 65536
    let q0 := { q with bankPend := false }
    let g := f.setRun n.val q0
    let bad (i : Instr) (c : Nat) : Prop := Breaks s i n.val r f c
    let size : Nat × Nat × Bool := loadTable kl
    let val (l : List Byte) : W64 := if size.2.2 then sextN (8 * size.2.1) (ofBytes l) else BitVec.ofNat 64 (ofBytes l)
    let st := (storeTable ks).2
    let pad (p len : Nat) : List Byte := (List.range len).map (fun i => f.spByte n.val (r.bankCur * 65536 + p + i))
    let allowed (p len : Nat) (w : Bool) : Prop := r.bankCur ≤ 7 ∧ p + len ≤ 65536 ∧ f.spAllowed n.val 0 (r.bankCur * 65536 + p) len w = true
    let refused (p len : Nat) (w : Bool) : Prop := r.bankCur ≤ 7 ∧ p + len ≤ 65536 ∧ f.spAllowed n.val 0 (r.bankCur * 65536 + p) len w = false
    let stores (i : Instr) (p : Nat) (l : List Byte) : Prop := Does s i (fun u => u.mem = f.mem ∧
      (∀ o, u.spByte n.val o = if r.bankCur * 65536 + p ≤ o ∧ o < r.bankCur * 65536 + p + l.length then l.getD (o - (r.bankCur * 65536 + p)) 0 else f.spByte n.val o) ∧
      (∀ m o, m ≠ n.val → u.spByte m o = f.spByte m o) ∧ ∃ ha t, look? u.run n.val = some (r.committed q 4 none id ha t))
    let data := toBytes 64 (r.readW d).toNat
    let loads (i : Instr) (l : List Byte) : Prop := Commits s i n.val 4 r f q none (fun y => y.writeW d (BitVec.ofNat 512 (ofBytes l)))
    let win : Prop := 18 ≤ r.bankCur ∧ r.window r.bankCur = some (base, wd)
    let here : Prop := KeepsRun k n.val q0 z
    let moves (i : Instr) : Prop := Does s i (fun u => u.mem = k.mem ∧ u.sp = k.sp ∧ ∃ y, look? u.run n.val = some y ∧ y.s = r.s ∧ y.w = r.w ∧ y.pc = r.goesTo r.loops 4 none)
    (r.placed [d] →
      (allowed at17 size.2.1 false → Commits s (.skimLoad n kl d a imm) n.val 4 r f q none (fun y => y.writeS d (val (pad at17 size.2.1)))) ∧
      (refused at17 size.2.1 false → bad (.skimLoad n kl d a imm) 4) ∧ (65536 < at17 + size.2.1 → bad (.skimLoad n kl d a imm) 3) ∧
      (8 ≤ r.bankCur → r.bankCur ≤ 15 → at17 + size.2.1 ≤ 0x1000 → (r.bankCur - 8) * 4096 + at17 + size.2.1 ≤ j.elcAddr * 1024 →
        Commits s (.skimLoad n kl d a imm) n.val 4 r f q none (fun y => y.writeS d (val ((List.range size.2.1).map (fun i => look 0 r.amem ((r.bankCur - 8) * 4096 + at17 + i)))))) ∧
      (8 ≤ r.bankCur → r.bankCur ≤ 15 → 0x1000 < at17 + size.2.1 → bad (.skimLoad n kl d a imm) 3) ∧
      (r.bankCur = 16 → at17 < 4096 → 4096 < at17 + size.2.1 → bad (.skimLoad n kl d a imm) 3) ∧
      (r.bankCur = 17 → j.outMode ≠ 2 ∨ j.outLen < r.obase.toNat + at17 + size.2.1 → bad (.skimLoad n kl d a imm) 3) ∧
      (18 ≤ r.bankCur → r.window r.bankCur = none → bad (.skimLoad n kl d a imm) 3) ∧ (win → wd.getLsbD 16 = false → bad (.skimLoad n kl d a imm) 3) ∧
      (win → wd.getLsbD 16 = true → at17 + size.2.1 ≤ 65536 → g.engRead n.val (if wd.getLsbD 18 then .live else .snapshot) (size.2.1 / 64 + 2) (base + at17) size.2.1 = .ok (k, bs) → here →
        Commits s (.skimLoad n kl d a imm) n.val 4 r k z none (fun y => y.writeS d (val bs)))) ∧
    (r.placed [] →
      (allowed at17 st true → stores (.skimStore n ks d a imm) at17 (toBytes st (r.readS d).toNat)) ∧ (refused at17 st true → bad (.skimStore n ks d a imm) 4) ∧
      (65536 < at17 + st ∨ r.bankCur = 16 → bad (.skimStore n ks d a imm) 3) ∧ (win → wd.getLsbD 17 = false → bad (.skimStore n ks d a imm) 3) ∧
      (win → wd.getLsbD 17 = true → at17 + st ≤ 65536 → g.engWrite n.val (base + at17) false (toBytes st (r.readS d).toNat) = .ok k → here → moves (.skimStore n ks d a imm)) ∧
      (d.getLsbD 3 = true → bad (.skimVld n d a b off) 1 ∧ bad (.skimVst n d a b off) 1) ∧
      (d.getLsbD 3 = false →
        (b = 0 → allowed at13 64 false → loads (.skimVld n d a b off) (pad at13 64)) ∧ (b = 0 → allowed at13 64 true → stores (.skimVst n d a b off) at13 data) ∧
        (b = 0 → refused at13 64 false → bad (.skimVld n d a b off) 4) ∧ (b = 0 → refused at13 64 true → bad (.skimVst n d a b off) 4) ∧
        (b ≠ 0 → (∀ i < 8, allowed ((BitVec.ofNat 64 at13 + BitVec.ofNat 64 i * r.readS b).toNat % 65536) 8 false) →
          loads (.skimVld n d a b off) ((List.range 8).flatMap (fun i => pad ((BitVec.ofNat 64 at13 + BitVec.ofNat 64 i * r.readS b).toNat % 65536) 8)))) ∧
      (x.getLsbD 63 = false → Commits s (.sadv n a i8) n.val 4 r f q none (fun y => { y with sbase := r.sbase + x.toNat + 64 * i8.toNat })) ∧ (x.getLsbD 63 = true → bad (.sadv n a i8) 6) ∧
      (i8.toNat = 0 ∨ 64 < i8.toNat ∨ j.outMode ≠ 1 → a.getLsbD 3 = false → bad (.emitv n a i8) 6) ∧
      (0 < i8.toNat → i8.toNat ≤ 64 → j.outMode = 1 → a.getLsbD 3 = false →
        (r.chunk = some c → c.used + i8.toNat ≤ 4080 → g.engWrite n.val (j.outVa + 4096 * c.num + 16 + c.used) true ((toBytes 64 (r.readW a).toNat).take i8.toNat) = .ok k → here →
          Does s (.emitv n a i8) (fun u => u.mem = k.mem ∧ ∃ y, look? u.run n.val = some y ∧ y.chunk = some { c with used := c.used + i8.toNat } ∧ y.pc = r.goesTo r.loops 4 none)) ∧
        (r.chunk = none → r.granted = [] → r.noChunk = false → Does s (.emitv n a i8) (fun u => u.mem = f.mem ∧ u.sp = f.sp ∧ look? u.run n.val = some q)) ∧
        (r.chunk = none → r.granted = [] → r.noChunk = true → Does s (.emitv n a i8) (fun u => u.mem = f.mem ∧ ∃ y, look? u.run n.val = some y ∧ y.stop = some { status := 4 }))) ∧
      (j.compat = true → bad (.emitm n a b) 1 ∧ bad (.plock n a) 1) ∧
      (j.compat = false → (r.readS b).toNat = 0 ∨ 4080 < (r.readS b).toNat ∨ j.outMode ≠ 1 ∨ 15 < x.toNat % 2 ^ 24 / 65536 → bad (.emitm n a b) 6) ∧
      (j.compat = false → j.outMode = 1 → 0 < (r.readS b).toNat → (r.readS b).toNat ≤ 4080 → r.chunk = some c → c.used + (r.readS b).toNat ≤ 4080 → x.toNat % 2 ^ 24 / 65536 ≤ 7 →
        x.toNat % 65536 + (r.readS b).toNat ≤ 65536 → f.spAllowed n.val 0 (x.toNat % 2 ^ 24) (r.readS b).toNat false = true →
        g.engWrite n.val (j.outVa + 4096 * c.num + 16 + c.used) true ((List.range (r.readS b).toNat).map (fun i => f.spByte n.val (x.toNat % 2 ^ 24 + i))) = .ok k → here →
          Does s (.emitm n a b) (fun u => u.mem = k.mem ∧ ∃ y, look? u.run n.val = some y ∧ y.chunk = some { c with used := c.used + (r.readS b).toNat } ∧ y.pc = r.goesTo r.loops 4 none)) ∧
      (r.bankCur < 18 ∨ r.window r.bankCur = none → bad (.pref n a) 6) ∧ (win → wd.getLsbD 16 = false → bad (.pref n a) 3) ∧
      (win → wd.getLsbD 16 = true → g.sectorRead n.val (base + x.toNat % 65536) (if wd.getLsbD 18 then .live else .snapshot) = .ok k → here → moves (.pref n a)) ∧
      (win → wd.getLsbD 16 = true → j.compat = false → g.sectorRead n.val (base + x.toNat % 65536) .lock = .ok k → here → moves (.plock n a))) ∧
    (r.slot = none → j.compat = false → ∀ f q, EngReady s.hw n.val 2 r f q → (x.getLsbD 63 = false → Commits s (.cSadv n 0 a) n.val 2 r f q none (fun y => { y with sbase := r.sbase + x.toNat })) ∧
      (d ≠ 0 → Breaks s (.cSadv n d a) n.val r f 1))

/-- R346, R388, R403, R407, R408, R411 to R415, R417, R418, R420 to R424: the control flow of Skim-2. A taken branch or a jump leaves its delay slot as the next instruction and its target after it; a branch that is not taken goes on through the slot, or past it where AN is 1; a jump writes the PC after the slot. The two-bit counter of the branch moves with its outcome. In compatibility mode there is no slot. LOOP starts a level, or skips its body when the count is 0; at a loop end the innermost active level, the highest numbered, counts down and goes back until it reaches 0. END stops the piece with status 0x00; an encoding that no instruction has stops it with an illegal-instruction fault. A halt records where the piece goes on and is left by RESUME or STEP; a piece of a secure queue does not halt; an instruction at a breakpoint halts in place. Completes: skimBranch, skimJal, skimJalr, loop, skEnd, cBeqz, cBnez, cEnd, halt, resume, step, breakpointHalt, debugPortHalt. -/
def Obligations.SkimControlResults : Prop :=
  ∀ (s : State) (who : Who) (n : EngNum) (c : Cond) (d a b : SReg) (an : Bool) (o16 : BitVec 16) (o21 : BitVec 21) (o8 : BitVec 8) (e17 : BitVec 17) (z lv : BitVec 2) (r : EngRun) (f k : Hw)
    (fr kr : EngRun) (q : Nat), look? s.hw.run n.val = some r →
    let h := s.hw
    let j := h.job r.piece.slot
    let x := r.readS a
    let y := r.readS b
    let q0 := { fr with bankPend := false }
    let g := f.setRun n.val q0
    let bad (i : Instr) (c : Nat) : Prop := Breaks s i n.val r f c
    let ready (l : Nat) : Prop := EngReady h n.val l r f fr ∧ r.stepping = false
    let way (off : Int) : Nat := (((r.pc : Int) + 2 * off) % 8192).toNat
    let old := look 1 r.ctr (r.pc / 2 % 512)
    let counted (u : EngRun) (t : Bool) : Prop := look 1 u.ctr (r.pc / 2 % 512) = (if t then min 3 (old + 1) else old - 1) ∧ u.s = r.s ∧ u.w = r.w
    let branch (i : Instr) (l : Nat) (taken : Bool) (target : Nat) (reads : List Nat) : Prop := Does s i (fun u => u.mem = k.mem ∧ ∃ v, look? u.run n.val = some v ∧ counted v taken ∧
      (if taken then v.pc = r.pc + l ∧ v.slot = some ⟨r.pc, target, reads⟩ else if an then v.pc = (r.pc + l + q) % 8192 ∧ v.slot = none else v.pc = r.pc + l ∧ v.slot = some ⟨r.pc, r.pc + l + q, reads⟩))
    let compat (i : Instr) (taken : Bool) (target : Nat) : Prop := Does s i (fun u => u.mem = f.mem ∧ ∃ v, look? u.run n.val = some v ∧ counted v taken ∧ v.slot = none ∧
      v.pc = (if taken then target else r.pc + 4) ∧ (taken = true → (r.pc, target) ∈ v.btb))
    let jump (i : Instr) (target : Nat) (reads : List Nat) : Prop :=
      (j.compat = false → g.progLen n.val q0 j (r.pc + 4) = .ok (k, q) → Does s i (fun u => u.mem = k.mem ∧
        ∃ v, look? u.run n.val = some v ∧ v.pc = r.pc + 4 ∧ v.slot = some ⟨r.pc, target, reads⟩ ∧ ∀ m, v.readS m = if m = 0 then 0 else if m = d then BitVec.ofNat 64 (r.pc + 4 + q) else r.readS m)) ∧
      (j.compat = true → Does s i (fun u => u.mem = f.mem ∧ ∃ v, look? u.run n.val = some v ∧ v.pc = target ∧ v.slot = none ∧
        ∀ m, v.readS m = if m = 0 then 0 else if m = d then BitVec.ofNat 64 (r.pc + 4) else r.readS m))
    let holds : Bool := match c with | .eq => decide (x = y) | .ne => decide (x ≠ y) | .lt => decide (x.toInt < y.toInt) | .ge => decide (y.toInt ≤ x.toInt) | .ltu => decide (x.toNat < y.toNat) | .geu => decide (y.toNat ≤ x.toNat)
    let le := (r.pc + 2 * e17.toNat) % 8192
    let fld (w : Hw) (m : RegName) (y : Fld) := w.fld m (engPlace n.val).1 (engPlace n.val).2 0 y
    let may (v : W64) : Prop := h.mayWrite (RegRef.at .SKM_DBGCTL (engPlace n.val).1 (engPlace n.val).2) who v = .ok
    let stops (i : Instr) (cause : Nat) : Prop := Does s i (fun u => u.mem = h.mem ∧ (∃ v, look? u.run n.val = some v ∧ v.halted = true ∧ v.s = r.s ∧ v.w = r.w ∧ v.loops = r.loops ∧ v.slot = none ∧
      v.pc = (match r.slot with | some b => b.pc | none => r.pc)) ∧ fld u .SKM_DBGCTL F.SKM_DBGCTL_HALTED = 1 ∧ fld u .SKM_DBGCTL F.SKM_DBGCTL_HCAUSE = cause ∧
      fld u .SKM_RSTAT F.SKM_RSTAT_VALID = 1 ∧ fld u .SKM_RSTAT F.SKM_RSTAT_RPC = (match r.slot with | some b => b.pc | none => r.pc) % 8192 ∧
      fld u .SKM_RSTAT F.SKM_RSTAT_DS = (if r.slot.isSome then 1 else 0) ∧ fld u .SKM_RSTAT F.SKM_RSTAT_BP = (if r.bankPend ∧ r.slot = none then 1 else 0) ∧ ∃ e ∈ u.raises, e.source = 0x190 + n.val)
    let normal : Prop := r.halted = false ∧ r.stop = none ∧ h.plat.resetLow = false ∧ j.world = false
    (ready 4 → r.free →
      (j.compat = false → g.progLen n.val q0 j (r.pc + 4) = .ok (k, q) →
        branch (.skimBranch n c a b an o16) 4 holds (way o16.toInt) [a.toNat, b.toNat]) ∧
      (j.compat = true → (an = false → compat (.skimBranch n c a b an o16) holds (way o16.toInt)) ∧ (an = true → bad (.skimBranch n c a b an o16) 1)) ∧
      jump (.skimJal n d o21) (way o21.toInt) [] ∧ (d ≠ a → jump (.skimJalr n d a) (x.toNat % 8192 / 2 * 2) [a.toNat]) ∧ (d = a → bad (.skimJalr n d a) 1) ∧
      Does s (.skEnd n) (fun u => u.mem = f.mem ∧ (∃ v, look? u.run n.val = some v ∧ v.stop = some { status := 0 } ∧ v.s = r.s) ∧ (f.fenced (.eng n.val) = false → f.engDown n.val = false → fld u .SKM_STATUS F.SKM_STATUS_STATE = 2)) ∧
      (z ≠ 0 ∨ lv = 3 → bad (.loop n z lv a e17) 1) ∧ (lv ≠ 3 → 0xFFFFFFFF < x.toNat → bad (.loop n 0 lv a e17) 6) ∧
      (lv ≠ 3 → x.toNat ≤ 0xFFFFFFFF → g.progWord n.val q0 j le = .ok (k, q) → KeepsRun k n.val q0 kr →
        (endClass q = true → Breaks s (.loop n 0 lv a e17) n.val r k 2) ∧
        (0 < x.toNat → (∃ m < lv.toNat, (r.lvl m).lc ≠ 0 ∧ (r.pc + 4 < (r.lvl m).ls ∨ (r.lvl m).le < le)) → Breaks s (.loop n 0 lv a e17) n.val r k 2) ∧
        (endClass q = false → le ≠ r.pc → (∀ m < lv.toNat, (r.lvl m).lc = 0 ∨ ((r.lvl m).ls ≤ r.pc + 4 ∧ le ≤ (r.lvl m).le)) → Does s (.loop n 0 lv a e17) (fun u => u.mem = k.mem ∧ ∃ v, look? u.run n.val = some v ∧
          (if x.toNat = 0 then v.pc = (le + (if q % 4 = 3 then 4 else 2)) % 8192 ∧ v.loops = r.loops else v.pc = r.pc + 4 ∧ v.lvl lv.toNat = ⟨r.pc + 4, le, x.toNat⟩))))) ∧
    (ready 2 → r.free → j.compat = false →
      (g.progLen n.val q0 j (r.pc + 2) = .ok (k, q) →
        branch (.cBeqz n a an o8) 2 (decide (x = 0)) (way o8.toInt) [a.toNat] ∧ branch (.cBnez n a an o8) 2 (decide (x ≠ 0)) (way o8.toInt) [a.toNat]) ∧
      Does s (.cEnd n 0) (fun u => u.mem = f.mem ∧ ∃ v, look? u.run n.val = some v ∧ v.stop = some { status := 0 } ∧ v.s = r.s) ∧ (a ≠ 0 → bad (.cEnd n a) 1)) ∧
    (ready 4 → ∀ br, r.slot = some br → bad (.skimBranch n c a b false o16) 2 ∧ bad (.skimJal n d o21) 2 ∧ bad (.skEnd n) 2 ∧ (lv ≠ 3 → bad (.loop n 0 lv a e17) 2)) ∧
    (∀ w, skUnassigned w = true → (w.toNat % 4 = 3 → ready 4 → bad (.pieceEnd n (some w)) 1) ∧ (w.toNat % 4 ≠ 3 → ready 2 → bad (.pieceEnd n (some w)) 1)) ∧
    (ready 4 → ∀ br, r.slot = some br → r.placed [] → Does s (.skimAddi n 0 a e17) (fun u => ∃ v, look? u.run n.val = some v ∧ v.pc = br.target % 8192 ∧ v.slot = none)) ∧
    (ready 4 → r.slot = none → ∀ m < 3, (r.lvl m).lc ≠ 0 → (r.lvl m).le = r.pc → (∀ i < 3, m < i → (r.lvl i).lc = 0 ∨ (r.lvl i).le ≠ r.pc) → 1 < (r.lvl m).lc →
      Does s (.skimAddi n 0 a e17) (fun u => ∃ v, look? u.run n.val = some v ∧ v.pc = (r.lvl m).ls % 8192 ∧ v.lvl m = { r.lvl m with lc := (r.lvl m).lc - 1 } ∧ ∀ i, i ≠ m → v.lvl i = r.lvl i)) ∧
    (normal → stops (.debugPortHalt n) 4 ∧ (may 1 → stops (.halt who n) 1) ∧ (h.atBreakpoint n.val = true → stops (.breakpointHalt n) 2 ∧
      (h.fenced (.eng n.val) = false → h.engDown n.val = false → stops (.skimAddi n d a e17) 2))) ∧
    (r.halted = true → (may 2 → Does s (.resume who n) (fun u => u.mem = h.mem ∧ look? u.run n.val = some { r with halted := false, stepping := false, bpSkip := true, dsRun := h.flag .SKM_RSTAT (engPlace n.val).1 (engPlace n.val).2 0 F.SKM_RSTAT_DS } ∧ fld u .SKM_DBGCTL F.SKM_DBGCTL_HALTED = 0)) ∧
      (may 4 → Does s (.step who n) (fun u => u.mem = h.mem ∧ look? u.run n.val = some { r with halted := false, stepping := true, bpSkip := true, dsRun := h.flag .SKM_RSTAT (engPlace n.val).1 (engPlace n.val).2 0 F.SKM_RSTAT_DS } ∧ fld u .SKM_DBGCTL F.SKM_DBGCTL_HALTED = 0)) ∧
      (may 1 → exec (.halt who n) s = .next s)) ∧
    (EngReady h n.val 4 r f fr → r.stepping = true → r.slot = none → r.free → h.plat.resetLow = false → f.plat.resetLow = false → f.jobs = h.jobs → j.world = false →
      Does s (.skimAddi n d a e17) (fun u => ∃ v, look? u.run n.val = some v ∧ v.halted = true ∧ v.stepping = false ∧ v.pc = (r.pc + 4) % 8192 ∧ fld u .SKM_DBGCTL F.SKM_DBGCTL_HCAUSE = 3)) ∧
    (r.halted = false → (may 2 → exec (.resume who n) s = .next s) ∧ (may 4 → exec (.step who n) s = .next s)) ∧
    (j.world = true → exec (.debugPortHalt n) s = .next s) ∧ (h.atBreakpoint n.val = false → exec (.breakpointHalt n) s = .next s)

/-- R8, R10, R178, R228 to R235, R434, R439, R455: accesses of threads to ports and registers, whose packets arrive in good order. A D-P store at a port that its partition owns is acknowledged, sent to its device and queued, or, on a link that is down, ends with class 0x44; the acknowledgement retires it. A load or a D-S store is sent to the device and waits for its completion: the data go to the destination and it retires, the next lane of a vector access is sent, or class 0x41 in configuration space reads all ones, and any other class takes the device-error cause precisely. A refused access is the access fault with reason 0x10. A timeout ends the thread's stores in the queue with an error message, which becomes a held machine check, or else the waiting access. A link that goes down ends every queued store. A window request is answered REGCPL with the register's value or REF. Completes: mmioPostedWrite, registerReadRequest, registerWriteRequest, registerCompletion, postedAcknowledgement, deviceTimeout, dpStoreErrorMessage, portLinkDown, dpStoreComplete. -/
def Obligations.DeviceAccessResults : Prop :=
  ∀ (s : State) (who : Who) (port : PortNum) (t : Gtn) (pa : BitVec 52) (size : BitVec 2) (v data : W64) (cpl : DevCpl) (chk : Check) (w : DevWait) (c c2 : DevAcc) (e : DpStore) (q : List DpStore) (er : DpError) (r : RegRef) (sg : Bool) (d : Nat) (h1 g : Hw),
    let h := s.hw
    let x := h.thread t.val
    let o := who.thread.val
    let n := portOfPa pa.toNat
    let z := pa.toNat
    let bytes := toBytes (2 ^ size.toNat) v.toNat
    let owns : Prop := look 0 h1.portOwner n ≠ 0 ∧ look 0 h1.portOwner n = who.part.val ∧ who.world = false
    let post (i : Instr) (P : Hw → Prop) : Prop := Reaches h .POSTWR who z v h1 → Accesses s i .POSTWR who z v P
    let rd (i : Instr) (P : Hw → Prop) : Prop := Reaches h .REGRD who z 0 h1 → Accesses s i .REGRD who z 0 P
    let wr (i : Instr) (P : Hw → Prop) : Prop := Reaches h .REGWR who z v h1 → Accesses s i .REGWR who z v P
    let pw := Instr.mmioPostedWrite who pa size v .good
    let rr := Instr.registerReadRequest who pa size .good
    let rw := Instr.registerWriteRequest who pa size v .good
    let at0 : Prop := (h1.thread o).devOpen = some w ∧ w.addr = z
    let same (k : Hw) : Prop := k.mem = h1.mem ∧ k.thr = h1.thr ∧ k.dpq = h1.dpq
    let refused (code : Nat) (k : Hw) : Prop := DevTraps h1 k o { code := code, detail := 0xF0, tval := w.cur.va }
    let waits : Prop := x.devOpen = some w ∧ h.devFlying t.val w = false
    let y := g.thread t.val
    let atPort : Prop := paRange w.addr = .mmio ∧ w.posted = false ∧ ReplyComes h .REGCPL t.val w g ∧ y.dev = some w
    let done : Thread := ({ y with dev := none } : Thread).after (y.pc + BitVec.ofNat 64 w.len)
    let ext (z : Nat) : W64 := if sg then (BitVec.ofNat (8 * w.size) z).signExtend 64 else BitVec.ofNat 64 (z % 2 ^ (8 * w.size))
    let comp (c : DevCpl) : Instr := .registerCompletion t data c .good
    let retires (i : Instr) (y : Thread) : Prop := ∃ u, exec i s = .next u ∧ u.pending = s.pending ∧ ∃ m, Counted t.val (g.setThread t.val y) m ∧ u.hw = (m.walksDone t.val).portPump w.port
    let fails (c : DevCpl) (cls : Nat) : Prop := Does s (comp c) (fun k => ∃ k0, k = k0.portPump w.port ∧ DevTraps g k0 t.val { code := 0x20, detail := cls, tval := BitVec.ofNat 64 w.addr })
    (paRange z = .mmio →
      (owns → has h1.portUp n = true → post pw (fun k => k.mem = h1.mem ∧ k.thr = h1.thr ∧ k.dpErrs = h1.dpErrs ∧
        look [] k.dpq n = look [] h1.dpq n ++ [{ thread := o, addr := z, data := bytes }] ∧ k.plat.tlps = h1.plat.tlps ++ [{ port := n, dest := tlpTo z, write := true, posted := true, size := 2 ^ size.toNat, data := bytes }] ∧
        ∃ m ∈ k.msgs, m.op = .POSTACK ∧ m.addr = z ∧ m.agent = h1.threadAgent o)) ∧
      (owns → has h1.portUp n = false → post pw (fun k => same k ∧ k.dpErrs = h1.dpErrs ++ [⟨n, o, z, 0x44⟩] ∧ ∃ m ∈ k.msgs, m.op = .POSTACK ∧ m.addr = z ∧ m.agent = h1.threadAgent o)) ∧
      (¬ owns → (∀ b, (h1.thread o).devOpen = some b → b.addr ≠ z) → post pw same ∧ rd rr same ∧ wr rw same) ∧
      (¬ owns → at0 → post pw (refused 0x0B) ∧ wr rw (refused 0x0B) ∧ rd rr (refused 0x0A)) ∧
      (owns → busZero z = none → has h1.portUp n = true → rd rr (fun k => k = h1.sendTlp z false false (2 ^ size.toNat) []) ∧ wr rw (fun k => k = h1.sendTlp z true false (2 ^ size.toNat) bytes)) ∧
      (owns → busZero z = none → has h1.portUp n = false → at0 → w.posted = false → let cause : Cause := { code := 0x20, detail := 0x44, tval := BitVec.ofNat 64 z }
        rd rr (fun k => DevTraps h1 k o cause) ∧ wr rw (fun k => DevTraps h1 k o cause)) ∧
      (owns → busZero z = some true → rd rr (fun k => k = h1) ∧ wr rw (fun k => k = h1)) ∧
      (owns → busZero z = some false → at0 → w.posted = false → rd rr (fun k => k = h1.devDone o (2 ^ 64 - 1)) ∧ wr rw (fun k => k = h1.devDone o (2 ^ 64 - 1)))) ∧
    (x.devOpen = none → exec (.registerCompletion t data cpl chk) s = .next s ∧ exec (.postedAcknowledgement t chk) s = .next s) ∧
    (waits → atPort → w.stop = none → w.acc = [c] →
      (w.write = true → w.dest = none → w.vd = none → retires (comp .ok) done) ∧
      (w.write = false → w.got = [] → w.dest = some (d, sg) → retires (comp .ok) (done.writeG d (ext data.toNat))) ∧
      (isConfig w.addr = true → w.write = false → w.got = [] → w.dest = some (d, sg) → retires (comp .ur) (done.writeG d (ext (2 ^ 64 - 1))))) ∧
    (waits → atPort → w.write = false → w.acc = [c, c2] → paRange c2.pa = .mmio → c2.posted = false → c2.parts = [] → Does s (comp .ok) (fun k =>
      (k.thread t.val).dev = some { w with acc := [c2], got := w.got ++ [(c.val, data.toNat)] } ∧ (k.thread t.val).pc = y.pc ∧ k.mem = g.mem ∧ ∃ m ∈ k.msgs ++ k.tokWait, m.op = .REGRD ∧ m.addr = c2.pa ∧ m.info = t.val)) ∧
    (waits → atPort → (isConfig w.addr = false → fails .ur 0x41) ∧ fails .ca 0x42 ∧ fails .poisoned 0x43) ∧
    (waits → w.posted = true → ReplyComes h .POSTACK t.val w g → w.write = true → w.dest = none → w.vd = none → w.stop = none → w.acc = [c] → y.dev = some w →
      Does s (.postedAcknowledgement t .good) (fun k => (k.thread t.val).dev = none ∧ (k.thread t.val).pc = y.pc + BitVec.ofNat 64 w.len ∧
      (∀ m, (k.thread t.val).readG m = y.readG m) ∧ k.mem = g.mem ∧ ∀ e ∈ look [] g.dpq w.port, e.thread = t.val → e.addr = w.addr → { e with acked := true } ∈ look [] k.dpq w.port)) ∧
    ((∀ e ∈ look [] h.dpq port.val, e.thread ≠ t.val) →
      (x.devOpen = some w → w.atPort port.val = true → w.posted = false → Does s (.deviceTimeout port t) (fun k => ∃ k0, k = k0.portPump port.val ∧
        DevTraps h k0 t.val { code := 0x20, detail := 0x40, tval := BitVec.ofNat 64 w.addr })) ∧
      (x.devOpen = none → exec (.deviceTimeout port t) s = .next s)) ∧
    ((look [] h.dpq port.val).filter (fun e => e.thread == t.val) = e :: q → Does s (.deviceTimeout port t) (fun k => k.thr = h.thr ∧ k.mem = h.mem ∧
      look [] k.dpq port.val = (look [] h.dpq port.val).filter (fun e => e.thread != t.val) ∧ k.dpErrs = h.dpErrs ++ [⟨port.val, t.val, e.addr, 0x40⟩])) ∧
    (h.dpErrs = er :: h.dpErrs.drop 1 → er.port = port.val → er.thread = t.val → Does s (.dpStoreErrorMessage port t) (fun k => k.dpErrs = h.dpErrs.drop 1 ∧
      (k.thread t.val).mcs = x.mcs ++ [⟨er.cls, BitVec.ofNat 64 er.addr⟩] ∧ (k.thread t.val).pc = x.pc ∧ k.mem = h.mem)) ∧
    ((∀ e ∈ h.dpErrs, ¬ (e.port = port.val ∧ e.thread = t.val)) → exec (.dpStoreErrorMessage port t) s = .next s) ∧
    ((∀ b ∈ h.thr, ∀ z, b.2.devOpen = some z → z.atPort port.val = false) → Does s (.portLinkDown port) (fun k => has k.portUp port.val = false ∧ (∀ m, m ≠ port.val → has k.portUp m = has h.portUp m) ∧ look [] k.dpq port.val = [] ∧
      (∀ m, m ≠ port.val → look [] k.dpq m = look [] h.dpq m) ∧ k.thr = h.thr ∧ k.mem = h.mem ∧ (look [] h.dpq port.val = e :: q → (⟨port.val, e.thread, e.addr, 0x44⟩ : DpError) ∈ k.dpErrs))) ∧
    (has h.portUp port.val = true → look [] h.dpq port.val = e :: q → Does s (.dpStoreComplete port) (fun k => look [] k.dpq port.val = q ∧ (∀ m, m ≠ port.val → look [] k.dpq m = look [] h.dpq m) ∧ k.thr = h.thr ∧ k.mem = h.mem)) ∧
    (has h.portUp port.val = false ∨ look [] h.dpq port.val = [] → exec (.dpStoreComplete port) s = .next s) ∧
    (paRange z = .window → z % 8 = 0 → size = 3 → hostSpAt z = none → findReg z = some r → platformOk r.name who = true →
      (h1.mayRead r who = true → rd rr (fun k => k.regs = h1.regs ∧ k.mem = h1.mem ∧ ∃ m ∈ k.msgs, m.op = .REGCPL ∧ m.addr = z ∧ m.agent = h1.threadAgent o ∧ m.info = (h1.regView r).toNat)) ∧
      (h1.mayRead r who = false → rd rr (fun k => k.mem = h1.mem ∧ k.thr = h1.thr ∧ ∃ m ∈ k.msgs, m.op = .REF ∧ m.addr = z)) ∧
      ((∀ k : Hw, k.regEffect r who .full v = k.writeFields r who .full v) → h1.mayWrite r who (h1.permitValue r .full v) = .ok → wr rw (fun k =>
        k.regs = (h1.writeFields r who .full v).regs ∧ ∃ m ∈ k.msgs, m.op = .REGCPL ∧ m.addr = z)))

/-- R608, R609, R612 to R615, R617: the event router. A raise of an enabled source sets its vector pending in the partition's instance, or merges into the pending one; a disabled or unassigned source does nothing. While an instance is off its vectors stay pending; otherwise a vector whose table entry is valid and not masked goes to the entry's thread if that is online and has a slot free, as a message at the entry's level. The message lands in a slot of the thread. A credit frees the slot. A thread that goes offline is sent a slot-void message, which empties its slots. INV drops the instance's cached entries. A message-signalled write raises its vector in the partition of its page, and one to another page is discarded; a thread's is answered. Completes: eventRaise, eventMessage, slotVoid, eventCreditReturn, evrOnlineClear, evrInvalidate, messageSignalledWrite. -/
def Obligations.EventRouterResults : Prop :=
  ∀ (s : State) (who : Who) (t : Gtn) (die : CDie) (p : PartId) (k3 : BitVec 3) (half : Half) (v w : W64) (vec : BitVec 16) (r : Raise) (rest : List Raise) (e : Event) (fl : List (Nat × Option Event)) (e0 : EvPend) (port : PortNum)
    (pa : BitVec 52) (posted : Bool),
    let h := s.hw
    let x := h.thread t.val
    let q := (h.srcPart r.source).getD r.part
    let n := h.fld .EVR_SRC 0 0 r.source F.EVR_SRC_VECTOR
    let pend : EvPend := { inst := q, vector := n, source := r.source, sev := r.sev, code := r.code, fixM := srcFixM r.source }
    let routed : Prop := h.raises = r :: rest ∧ r.vec = none ∧ srcAssigned r.source = true ∧ h.flag .EVR_SRC 0 0 r.source F.EVR_SRC_EN = true ∧ srcMode r.source ≠ 1 ∧ srcMode r.source ≠ 2
    let on (p : Nat) : Prop := h.flag .EVR_CTL 0 0 p F.EVR_CTL_EN = true
    let dst := wbits w 9 0
    let valid : Prop := w.getLsbD 63 = true ∧ wbits w 61 60 ≠ 0 ∧ wbits w 58 10 = 0 ∧ (w.getLsbD 59 = true → 0xF000 ≤ n ∧ wbits w 61 60 = 1)
    let free (m : Nat) : Prop := h.evTarget q m = true ∧ (look [] h.evSlots m).length < 4 ∧ (h.thread m).run ≠ .migrating
    let msg : Event := { vector := n, level := BitVec.ofNat 3 (if srcFixM r.source then 3 else if w.getLsbD 59 then 5 else wbits w 61 60), source := r.source, sev := r.sev, code := r.code, inst := q }
    let raise : Instr := .eventRaise none
    let online := h.reg .EVR_ONLINE 0 0 die.val
    let page := (pa.toNat - 0xEFFFFFFFF0000) / 0x1000
    let good (part : Nat) (world : Bool) : Prop := page = part ∧ 1 ≤ page ∧ page ≤ 12 ∧ wbits v 31 16 = 0 ∧ (world = false → wbits v 15 0 < 0xF000) ∧ pa.toNat % 4 = 0
    let part := look 0 h.portOwner port.val
    let core : Agent := .core (dieOfThread t.val) 0
    let from0 := h.threadAgent t.val
    (h.raises = [] → exec raise s = .next s) ∧ exec (.eventRaise (some (0, k3))) s = .next s ∧
    (h.raises = r :: rest → r.vec = none → srcAssigned r.source = false ∨ h.flag .EVR_SRC 0 0 r.source F.EVR_SRC_EN = false → exec raise s = .next { s with hw := { h with raises := rest } }) ∧
    (routed → q = 0 → (∀ y ∈ h.svcEvents, y.vector ≠ n) → Does s raise (fun k => k.raises = rest ∧ k.svcEvents = h.svcEvents ++ [pend] ∧ k.evPend = h.evPend ∧ k.thr = h.thr)) ∧
    (routed → q ≠ 0 → ¬ on q → h.evPend = [] → Does s raise (fun k => k.raises = rest ∧ k.evPend = [pend] ∧ k.evFly = h.evFly ∧ k.thr = h.thr ∧ k.mem = h.mem)) ∧
    (routed → q ≠ 0 → ¬ on q → h.evPend = [e0] → e0.inst = q → e0.vector = n → e0.thread = none → e0.fbk = false → e0.msg = false →
      Does s raise (fun k => ∃ y, k.evPend = [y] ∧ y.count = min 0xFFFF (e0.count + 1) ∧ y.vector = n ∧ y.sev = max e0.sev r.sev)) ∧
    (routed → q ≠ 0 → on q → h.evPend = [] → look? h.evCache (65536 * q + n) = some w → valid → w.getLsbD 62 = true → Does s raise (fun k => k.evPend = [pend] ∧ k.evFly = h.evFly)) ∧
    (routed → q ≠ 0 → on q → h.evPend = [] → look? h.evCache (65536 * q + n) = some w → valid → w.getLsbD 62 = false → free dst → Does s raise (fun k => k.evPend = [] ∧ k.evFly = h.evFly ++ [(dst, some msg)] ∧
      look [] k.evSlots dst = look [] h.evSlots dst ++ [msg] ∧ k.thr = h.thr ∧ k.mem = h.mem ∧ ∃ m ∈ k.msgs, m.op = .EVMSG ∧ m.addr = dst)) ∧
    (routed → q ≠ 0 → on q → h.evPend = [] → look? h.evCache (65536 * q + n) = some w → valid → w.getLsbD 62 = false → h.evTarget q dst = true → 4 ≤ (look [] h.evSlots dst).length →
      Does s raise (fun k => k.evPend = [pend] ∧ k.evFly = h.evFly)) ∧
    (routed → q ≠ 0 → on q → h.evPend = [] → look? h.evCache (65536 * q + n) = some w → ¬ valid → free (h.fld .EVR_CTL 0 0 q F.EVR_CTL_FALLBACK) → Does s raise (fun k => k.evPend = [] ∧
      k.evFly = h.evFly ++ [(h.fld .EVR_CTL 0 0 q F.EVR_CTL_FALLBACK, some { msg with level := 3, fbk := true })])) ∧
    (h.firstFly t.val = some ((t.val, some e), fl) → Does s (.eventMessage t) (fun k => k.evFly = fl ∧ k.mem = h.mem ∧ (∀ m, m ≠ t.val → k.thread m = h.thread m) ∧
      k.thread t.val = if h.fenced core then x else { x with slots := x.slots ++ [e] })) ∧
    (h.firstFly t.val = none → exec (.eventMessage t) s = .next s ∧ exec (.slotVoid t) s = .next s) ∧
    (h.firstFly t.val = some ((t.val, none), fl) → exec (.slotVoid t) s = .next { s with hw := ({ h with evFly := fl } : Hw).setThread t.val { x with slots := [] } } ∧ exec (.eventMessage t) s = .next s) ∧
    (h.evPend = [] → Does s (.eventCreditReturn t vec) (fun k => look [] k.evSlots t.val = dropFirst (fun e => decide (e.vector = vec.toNat)) (look [] h.evSlots t.val) ∧
      (∀ m, m ≠ t.val → look [] k.evSlots m = look [] h.evSlots m) ∧ k.thr = h.thr ∧ k.mem = h.mem)) ∧
    (h.evPend = [] → h.evSlots = [] → h.mayWrite (RegRef.at .EVR_ONLINE 0 0 die.val) who v = .ok → Does s (.evrOnlineClear who die half v) (fun k => k.reg .EVR_ONLINE 0 0 die.val = merged half online v ∧ k.thr = h.thr ∧
      ∀ b < 64, online.getLsbD b = true → (merged half online v).getLsbD b = false → (64 * die.val + b, none) ∈ k.evFly)) ∧
    (h.evPend = [] → h.mayWrite (RegRef.at .EVR_CTL 0 0 p.val) who (setWbits (h.reg .EVR_CTL 0 0 p.val) 62 62 1) = .ok → Does s (.evrInvalidate who p) (fun k => (∀ e ∈ k.evCache, e.1 / 65536 ≠ p.val) ∧
      (∀ e ∈ h.evCache, e.1 / 65536 ≠ p.val → e ∈ k.evCache) ∧ k.fld .EVR_CTL 0 0 p.val F.EVR_CTL_INV = 0 ∧ k.mem = h.mem)) ∧
    (paRange pa.toNat = .message →
      (look [] h.pwr port.val ≠ [] → exec (.messageSignalledWrite (.device port) pa 4 v) s = .next s) ∧
      (look [] h.pwr port.val = [] → good part false → h.evPend = [] → ¬ on part → Does s (.messageSignalledWrite (.device port) pa 4 v) (fun k => k.evPend = [{ inst := part, vector := wbits v 15 0, msg := true }] ∧ k.mem = h.mem)) ∧
      (look [] h.pwr port.val = [] → ¬ good part false → Does s (.messageSignalledWrite (.device port) pa 4 v) (fun k => k.evPend = h.evPend ∧ k.evFly = h.evFly ∧ k.thr = h.thr)) ∧
      (good (h.partOf t.val) x.world → h.evPend = [] → ¬ on (h.partOf t.val) → Does s (.messageSignalledWrite (.thread t posted) pa 4 v) (fun k => k.evPend = [{ inst := h.partOf t.val, vector := wbits v 15 0, msg := true }] ∧
        ∃ m ∈ k.msgs, m.op = (if posted then .POSTACK else .REGCPL) ∧ m.addr = pa.toNat ∧ m.agent = from0)) ∧
      (¬ good (h.partOf t.val) x.world → Does s (.messageSignalledWrite (.thread t posted) pa 4 v) (fun k => k.evPend = h.evPend ∧ k.evFly = h.evFly ∧ ∃ m ∈ k.msgs, m.op = .REF ∧ m.addr = pa.toNat)))

/-- R436 to R440, R449 to R453: the fabric. A request for a shared slot is granted a free one that its source may hold, in the order of arrival, or waits; a source has one request at a destination at a time. A granted slot goes to the first message of its source that waits for one, or back to the pool. ASLEEP with WAKING keeps the request, which OPEN sends again in its response slot; without it the request ends. The role of a stop changes only when its unit is idle and every stop has acknowledged the die's last update, at least 32 ms ago: the epoch advances modulo 256 and every stop is to acknowledge; an update takes the stop off the list. Completes: treq, tgnt, asleep, openEdge, roleChange, epochUpdate. -/
def Obligations.FabricResults : Prop :=
  ∀ (s : State) (dst src stop : StopRef) (die : DieIx) (wb back : Bool) (slot : BitVec 8) (op : BitVec 6) (l : Line) (o : MsgOp) (k0 : Nat) (m : Msg) (rest : List Msg),
    let h := s.hw
    let dn := stopNum dst
    let sn := stopNum src
    let n := stopNum stop
    let a := agentOfStop sn
    let kind := b2n wb
    let hr := h.arrivedBy (fun m => m.op == .TREQ && decide (m.addr = dn ∧ m.data = sn ∧ m.mask = kind))
    let hg := h.arrivedBy (fun m => m.op == .TGNT && decide (m.addr = dn ∧ m.data = sn ∧ m.mask = kind ∧ m.info = slot.toNat))
    let hz := h.arrivedBy (fun m => m.op == .ASLEEP && m.line == some l.toNat && decide (m.ends = (dn, sn)))
    let ho := h.arrivedBy (fun m => m.op == .OPEN && decide (m.ends = (dn, sn)))
    let pool := sharedPool dn sn kind
    let mine : TokSlot := ⟨dn, kind, slot.toNat, sn, none, 0⟩
    let none' : Prop := ∀ q ∈ h.treqs, q.dst ≠ dn
    let waits (m : Msg) : Bool := decide (m.slotStop = dn ∧ m.ends.1 = sn) && m.op.slotKind == some kind
    let ends (i : Instr) (k : Hw) : Prop := exec i s = .next { s with hw := k }
    let d := n / 128
    let cur := h.fld .DCTL_EPOCH d 0 0 F.DCTL_EPOCH_CUR
    let quiet : Prop := h.stopIdle n = true ∧ look [] h.epochPend d = [] ∧ ∀ t, look? h.epochAt d = some t → t + 32000000 ≤ h.now
    let e := h.fld .DCTL_EPOCH (dieId die) 0 0 F.DCTL_EPOCH_CUR
    ((∃ q ∈ hr.treqs, q.dst = dn ∧ q.src = sn) ∨ pool = [] → ends (.treq dst src wb) hr) ∧
    (none' → hr.treqs = h.treqs → pool ≠ [] →
      (hr.poolOpen dn = true → hr.freeSlot dn kind pool = some k0 → Does s (.treq dst src wb) (fun k => k.treqs = h.treqs ∧ k.toks = hr.toks ++ [⟨dn, kind, k0, sn, none, 0⟩] ∧ k.mem = hr.mem ∧
        ∃ g, k.msgs = hr.msgs ++ [g] ∧ g.op = .TGNT ∧ g.addr = dn ∧ g.agent = a ∧ g.data = sn ∧ g.mask = kind ∧ g.info = k0)) ∧
      (hr.poolOpen dn = false ∨ hr.freeSlot dn kind pool = none → Does s (.treq dst src wb) (fun k => k.treqs = h.treqs ++ [⟨dn, sn, kind⟩] ∧ k.toks = hr.toks ∧ k.msgs = hr.msgs ∧ k.mem = hr.mem))) ∧
    (mine ∉ hg.toks → ends (.tgnt dst src wb slot back) hg) ∧
    (mine ∈ hg.toks →
      (takeFirst waits hg.tokWait = some (m, rest) → rest.find? waits = none → Does s (.tgnt dst src wb slot false) (fun k => k.tokWait = rest ∧
        k.toks = dropFirst (fun x => x == mine) hg.toks ++ [⟨m.slotStop, kind, slot.toNat, m.ends.1, some m.agent, m.addr⟩] ∧
        ∃ g, k.msgs = hg.msgs ++ [g] ∧ g.op = m.op ∧ g.addr = m.addr ∧ g.agent = m.agent ∧ g.txid = m.txid ∧ g.token = slot.toNat)) ∧
      (slot.toNat ∉ dedicated dn sn kind → (∀ q ∈ hg.treqs, q.dst ≠ dn) → back = true ∨ takeFirst waits hg.tokWait = none →
        Does s (.tgnt dst src wb slot back) (fun k => k.toks = dropFirst (fun x => x == mine) hg.toks ∧ k.treqs = hg.treqs ∧ k.tokWait = hg.tokWait ∧ k.msgs = hg.msgs))) ∧
    ((∃ x ∈ hz.sleepers, x.names dn sn op.toNat l.toNat = true) ∨ hz.msgs.length < h.msgs.length → ends (.asleep dst src op l true) hz) ∧
    ((∀ x ∈ hz.sleepers, x.names dn sn op.toNat l.toNat = false) → hz.msgs.length = h.msgs.length → opOf op.toNat = some o →
      ends (.asleep dst src op l true) { hz with sleepers := hz.sleepers ++ [⟨dn, { op := o, addr := l.toNat, agent := a, part := hz.agentPart a }⟩] }) ∧
    ((∀ m p, a ≠ .core m p) → ends (.asleep dst src op l false) hz) ∧
    (∀ m p, a = .core m p → ends (.asleep dst src op l false) (hz.dieRequestEnds m l.toNat)) ∧
    (ho.sleepers = [⟨dn, m⟩] → m.ends.1 = sn → Does s (.openEdge dst src) (fun k => k.sleepers = [] ∧ k.mem = ho.mem ∧
      ∃ g ∈ k.msgs ++ k.tokWait, g.op = m.op ∧ g.addr = m.addr ∧ g.agent = m.agent ∧ g.part = m.part ∧ g.txid = m.txid)) ∧
    (ho.sleepers = [] → ends (.openEdge dst src) { ho with sleepers := [] }) ∧
    (stopOk stop = true →
      (quiet → Does s (.roleChange stop) (fun k => k.fld .DCTL_EPOCH d 0 0 F.DCTL_EPOCH_CUR = (cur + 1) % 256 ∧ k.fld .DCTL_EPOCH d 0 0 F.DCTL_EPOCH_UPD_PEND = min 0xFF allStops.length ∧ look? k.epochLast n = some ((cur + 1) % 256) ∧
        look [] k.epochPend d = allStops ∧ look? k.epochAt d = some h.now ∧ k.mem = h.mem)) ∧
      (¬ quiet → exec (.roleChange stop) s = .next s)) ∧
    Does s (.epochUpdate die stop) (fun k => n ∉ look [] k.epochPend (dieId die) ∧ (∀ m ∈ look [] h.epochPend (dieId die), m ≠ n → m ∈ look [] k.epochPend (dieId die)) ∧
      k.fld .DCTL_EPOCH (dieId die) 0 0 F.DCTL_EPOCH_UPD_PEND = min 0xFF (look [] k.epochPend (dieId die)).length ∧ k.fld .DCTL_EPOCH (dieId die) 0 0 F.DCTL_EPOCH_CUR = e ∧
      (n / 128 = dieId die → 251 < age e (look ((e + 5) % 256) h.epochLast n) → look? k.epochLast n = some ((e + 5) % 256)) ∧ k.mem = h.mem)

/-- R36, R449 to R451, R470, R478, R516 to R522, R526 to R532, R563: the power states of domains. A request writes REQ: one deeper than R519 permits, or one that a secure hold forbids, is refused and keeps REQ; a permitted one starts the entry once the children are there, and one written during a transition waits for its end. SHELD can be set from the secure world alone, and clears REQ and wakes. A timeout asks for AUTO, no deeper than Satin while held. An idle domain closes, exchanges SLEEP on its link, enters its state, and returns to Gloss when a wake has been registered. A wake takes the domain and the parents it needs to waking and is recorded. A die that wakes from Dust sheet comes with empty caches, its link at 0x2 and its edge held until it is released. The always-on timer, the toggle of a sleeping link and a chirp are wakes. Completes: domainStateRequest, sheldSet, domainIdleTimeout, domainClosing, domainTransitionDone, domainWake, dieWakeFromDustSheet, edgeRelease, aoTimerFire, scrimWakeToggle, dieChirp. -/
def Obligations.DomainPowerStates : Prop :=
  ∀ (s : State) (who : Who) (die : DieIx) (cd : CDie) (dom : BitVec 6) (st2 : BitVec 2) (src : BitVec 4) (hp : HubPort) (tn : TNode) (lp : LPort) (v : W64) (g : Nat) (c : Closing),
    let h := s.hw
    let d := dieId die
    let nn := dom.toNat
    let key := domKey d nn
    let cur (k : Hw) (n : Nat) := k.domCur d n
    let f (k : Hw) (y : Fld) := k.fld .PWR_DOM d 0 nn y
    let exists' : Prop := (domDeepest d nn).isSome = true
    let deepest := (domDeepest d nn).getD 0
    let held : Prop := (h.reg .PWR_DOM d 0 nn).getLsbD 55 = true ∨ h.domActive d nn = true
    let may (v : W64) : Prop := h.mayWrite (RegRef.at .PWR_DOM d 0 nn) who v = .ok
    let spare (d nn : Nat) : Prop := 1 ≤ d ∧ d ≤ 12 ∧ nn < 34 ∧ (h.fld .CORE_STATUS d nn 0 F.CORE_STATUS_ROLE = 1 ∨ h.fld .CORE_STATUS d nn 0 F.CORE_STATUS_ROLE = 2)
    let rises (d nn : Nat) : Prop := 1 ≤ h.domCur d nn ∧ h.domCur d nn ≤ 3 ∧ ¬ spare d nn ∧ (h.domCur d nn = 3 → h.heldIdle d nn = false)
    let last (d : Nat) := h.reg .PWR_WAKE_LAST d 0 0
    let newTick (d nn : Nat) : Prop := wbits (last d) 59 54 ≠ nn ∨ wbits (last d) 47 0 ≠ h.aoTick ∨ wbits (last d) 63 60 = 0
    let wakes (i : Instr) (d nn sr : Nat) (P : Hw → Prop) : Prop := h.deepIdle = false → rises d nn → newTick d nn → Does s i (fun k => k.domCur d nn = 5 ∧ look? k.domGoal (domKey d nn) = some (if h.domCur d nn = 3 then 8 else 0) ∧
      (∀ p ∈ domParents d nn, rises d p → k.domCur d p = 5) ∧ k.fld .PWR_WAKE_LAST d 0 0 F.PWR_WAKE_LAST_SRC = sr ∧ k.fld .PWR_WAKE_LAST d 0 0 F.PWR_WAKE_LAST_DOMAIN = nn ∧
      k.reg .PWR_WAKE_HIST d 0 0 = last d ∧ P k)
    let auto := if held then min 1 (f h F.PWR_DOM_AUTO) else f h F.PWR_DOM_AUTO
    let hd := hpDie hp.val
    let hn := if hd ≤ 12 then 36 else 1
    let still (d nn : Nat) : Prop := h.deepIdle = false ∧ has h.reqPend (domKey d nn) = false ∧ (h.cdie d).heldSnoops = []
    let goal := look? h.domGoal key
    let up : Prop := ∀ p ∈ domParents d nn, cur h p = 0
    let req := wbits v 59 58
    let ask := Instr.domainStateRequest who die dom .full v
    let done := Instr.domainTransitionDone die dom
    (exists' → may v → who.world = false → wbits v 57 56 ≤ deepest → (held → wbits v 57 56 = 0) →
      (deepest < req → Does s ask (fun k => f k F.PWR_DOM_REQ = f h F.PWR_DOM_REQ ∧ f k F.PWR_DOM_REQ_STATUS = 2 ∧ f k F.PWR_DOM_CUR = f h F.PWR_DOM_CUR)) ∧
      (req ≤ deepest → 1 ≤ req → held → (h.reg .PWR_REF0 d 0 0).getLsbD 63 = false → Does s ask (fun k =>
        f k F.PWR_DOM_REQ = f h F.PWR_DOM_REQ ∧ f k F.PWR_DOM_REQ_STATUS = 1 ∧ k.fld .PWR_REF0 d 0 0 F.PWR_REF0_VALID = 1 ∧ k.fld .PWR_REF0 d 0 0 F.PWR_REF0_DOMAIN = nn ∧ k.fld .PWR_REF0 d 0 0 F.PWR_REF0_STATE = req)) ∧
      (¬ held → req ≤ deepest → cur h nn < req → goal = none → h.childrenAt d nn req = true → Does s ask (fun k => f k F.PWR_DOM_REQ = req ∧
        f k F.PWR_DOM_AUTO = wbits v 57 56 ∧ f k F.PWR_DOM_REQ_STATUS = 0 ∧ look? k.domGoal key = some req ∧ f k F.PWR_DOM_CUR = f h F.PWR_DOM_CUR)) ∧
      (¬ held → req ≤ deepest → cur h nn < req → goal = none → h.childrenAt d nn req = false → Does s ask (fun k => f k F.PWR_DOM_REQ = req ∧ f k F.PWR_DOM_REQ_STATUS = 3 ∧ look? k.domGoal key = none)) ∧
      (¬ held → req ≤ deepest → 1 ≤ req → 4 ≤ cur h nn ∨ goal.isSome = true → Does s ask (fun k => f k F.PWR_DOM_REQ = req ∧ has k.reqPend key = true ∧ f k F.PWR_DOM_CUR = f h F.PWR_DOM_CUR ∧ look? k.domGoal key = goal))) ∧
    (exists' → may (setWbits (h.reg .PWR_DOM d 0 nn) 55 55 1) → (h.reg .PWR_DOM d 0 nn).getLsbD 55 = false → h.deepIdle = false → rises d nn → goal = none → f h F.PWR_DOM_AUTO ≤ deepest → f h F.PWR_DOM_REQ ≤ deepest →
      (who.world = true → Does s (.sheldSet who die dom) (fun k => f k F.PWR_DOM_SHELD = 1 ∧ f k F.PWR_DOM_REQ = 0 ∧ cur k nn = 5)) ∧
      (who.world = false → Does s (.sheldSet who die dom) (fun k => f k F.PWR_DOM_SHELD = 0))) ∧
    (exists' → (cur h nn < auto → goal = none → h.childrenAt d nn auto = true → Does s (.domainIdleTimeout die dom) (fun k => look? k.domGoal key = some auto ∧ k.regs = h.regs ∧ k.mem = h.mem)) ∧
      (¬ (cur h nn < auto ∧ goal = none ∧ h.childrenAt d nn auto = true) → exec (.domainIdleTimeout die dom) s = .next s)) ∧
    (exists' → closes d nn = true → (goal = some 2 → cur h nn ≤ 3 → h.domBusy d nn = false → Does s (.domainClosing die dom 2) (fun k => cur k nn = 4 ∧ look? k.closing key = some { target := 2 } ∧ k.mem = h.mem ∧ k.cdies = h.cdies)) ∧
      (goal ≠ some st2.toNat ∨ h.domBusy d nn = true → exec (.domainClosing die dom st2) s = .next s)) ∧
    (exists' → cur h nn = 4 → look? h.closing key = some c →
      (c.target ≤ 3 → c.wake = false → (1 ≤ d → d ≤ 12 → (h.cdie d).wbb = [] ∧ (h.cdie d).wbWait = []) →
        ((∀ b, fabricPort d nn = some b → h.linkState b true ≠ 3) → still d nn → Does s done (fun k => cur k nn = c.target)) ∧
        (∀ b, fabricPort d nn = some b → h.linkState b true = 3 → look? h.sleepReq b = none → Does s done (fun k => cur k nn = 4 ∧ look? k.sleepReq b = some (c.target - 1) ∧ k.mem = h.mem ∧ k.regs = h.regs))) ∧
      (c.wake = false → 1 ≤ d → d ≤ 12 → (h.cdie d).wbb ≠ [] ∨ (h.cdie d).wbWait ≠ [] → exec done s = .next s) ∧
      (c.wake = true → still d nn → Does s done (fun k => cur k nn = 0 ∧ look? k.domGoal key = none ∧ k.mem = h.mem ∧ ∀ a ∈ c.answered, ∃ m ∈ k.msgs, m.op = .OPEN ∧ m.addr = a.1 ∧ m.agent = agentOfStop a.2))) ∧
    (exists' → cur h nn = 5 → (¬ up → exec done s = .next s) ∧
      (up → goal = none ∨ goal = some 0 → still d nn → Does s done (fun k => cur k nn = 0 ∧ k.mem = h.mem)) ∧
      (goal = some 8 → 1 ≤ d → d ≤ 12 → nn = 36 → exec done s = .next s) ∧
      (goal = some 8 → 16 ≤ d → nn = 1 → Does s done (fun k => k.linkState (dieHp d) true = 2 ∧ cur k nn = 5 ∧ k.mem = h.mem))) ∧
    (exists' → cur h nn ≤ 3 →
      (cur h nn < g → g ≤ 2 → goal = some g → g = 1 ∨ closes d nn = false → h.childrenAt d nn g = true → still d nn → Does s done (fun k => cur k nn = g ∧ k.mem = h.mem)) ∧
      (goal = some g → 2 ≤ g → closes d nn = true → exec done s = .next s) ∧
      (goal = none → cur h nn < h.ownState d nn → h.ownState d nn ≤ 2 → still d nn → Does s done (fun k => cur k nn = h.ownState d nn ∧ k.mem = h.mem)) ∧
      (goal = none → h.ownState d nn ≤ cur h nn → exec done s = .next s)) ∧
    (exists' → wakes (.domainWake die dom src 0) d nn src.toNat (fun k => k.mem = h.mem) ∧ (h.deepIdle = false → cur h nn = 0 → goal = none → exec (.domainWake die dom src 0) s = .next s)) ∧
    (h.domCur (cd.val + 1) 36 = 5 → look? h.domGoal (domKey (cd.val + 1) 36) = some 8 → Does s (.dieWakeFromDustSheet cd) (fun k => k.linkState (dieHp (cd.val + 1)) true = 2 ∧ k.linkState (dieHp (cd.val + 1)) false = 2 ∧ (k.cdie (cd.val + 1)).dc = [] ∧
      (∀ p < 34, k.core (coreKey (cd.val + 1) p) = {}) ∧ k.edgeHeld = h.edgeHeld ∧ k.mem = h.mem ∧ ∃ e ∈ k.raises, e.source = 16 * cd.val + 3)) ∧
    (h.domCur (cd.val + 1) 36 ≠ 5 → exec (.dieWakeFromDustSheet cd) s = .next s) ∧
    (h.mayWrite (RegRef.at .PWR_EDGEREL 0) who (BitVec.ofNat 64 (2 ^ hp.val)) = .ok →
      (h.linkState hp.val true = 2 → still hd hn → Does s (.edgeRelease who .full (BitVec.ofNat 64 (2 ^ hp.val))) (fun k => k.linkState hp.val true = 3 ∧ k.linkState hp.val false = 3 ∧ (k.fld .PWR_EDGEREL 0 0 0 F.PWR_EDGEREL_HELD).testBit hp.val = false ∧
        has k.edgeHeld hp.val = false ∧ k.domCur hd hn = 0 ∧ k.mem = h.mem)) ∧
      (h.linkState hp.val true ≠ 2 → exec (.edgeRelease who .full (BitVec.ofNat 64 (2 ^ hp.val))) s = .next s)) ∧
    ((h.reg .PWR_AOTIMER d 0 0).getLsbD 63 = true → wbits (h.reg .PWR_AOTIMER d 0 0) 47 0 ≤ h.aoTick → wbits (h.reg .PWR_AOTIMER d 0 0) 59 54 = nn → exists' →
      wakes (.aoTimerFire die) d nn 5 (fun k => (k.reg .PWR_AOTIMER d 0 0).getLsbD 63 = false ∧ f k F.PWR_DOM_REQ = 0)) ∧
    ((h.reg .PWR_AOTIMER d 0 0).getLsbD 63 = false ∨ h.aoTick < wbits (h.reg .PWR_AOTIMER d 0 0) 47 0 → exec (.aoTimerFire die) s = .next s) ∧
    (h.linkState hp.val true = 4 → wakes (.scrimWakeToggle hp) hd hn 1 (fun k => k.mem = h.mem)) ∧ (h.linkState hp.val true ≠ 4 → exec (.scrimWakeToggle hp) s = .next s) ∧
    (∀ m, dieOfNode tn.val = some m → wakes (.dieChirp tn lp) m (if m ≤ 12 then 36 else 1) 2 (fun k => k.mem = h.mem)) ∧
    (dieOfNode tn.val = none → h.lathState tn.val lp.val ≠ 4 → exec (.dieChirp tn lp) s = .next s)

/-- R34, R513, R514, R534, R535, R538 to R543: deep idle, frequency, power budgets and heat. The package enters deep idle only with every compute die in Dust sheet and no job, and leaves it for its wake sources. A cluster's frequency goes one step of 100 MHz at a time toward the highest step within FMAX and FCEIL; the supply value it shows is that of its rail. EFF_W is the least of the limits, and budgets are taken whole when each is within its stage's rating and their sum, with 2 W for the meter die and the torus, within EFF_W. Above TCTL the ceiling falls one step; at the junction limit the clusters go to 1.2 GHz at once; at the limit plus 10 °C every logic die loses power. A stage above 1.5 times its current stops its die; a supply out of range for five samples takes logic power away. The rail of a frequency is the part's own, Config.railOf (log entry 59). Completes: clusterFrequencyStep, fceilUpdate, budgetTick, thermalControlTick, fastThrottle, thermalTrip, stageCurrentSample, vinSample, deepIdleEnter, deepIdleExit. -/
def Obligations.FrequencyAndHeat : Prop :=
  ∀ (s : State) (cd : CDie) (die : DieIx) (cluster : Bool) (f t sn : BitVec 8) (permille dv nw : BitVec 12) (budgets : List Nat) (low : List PortNum) (src : BitVec 4) (detail : BitVec 6),
    let h := s.hw
    let c := if cluster then 1 else 0
    let d := cd.val + 1
    let fc (k : Hw) (y : Fld) := k.fld .CLK_CLUSTER d 0 c y
    let th (k : Hw) (y : Fld) := k.fld .PWR_THERM (dieId die) 0 0 y
    let pk (k : Hw) (y : Fld) := k.fld .PWR_PKGLIM 0 0 0 y
    let top := min (min 0x22 (max 6 (fc h F.CLK_CLUSTER_FMAX))) (fc h F.CLK_CLUSTER_FCEIL)
    let slow : Prop := h.fld .PWR_THERM d 0 0 F.PWR_THERM_FAST_THR = 1 ∨ h.fld .PWR_THERM d 0 0 F.PWR_THERM_CUR_THR = 1
    let goal := if slow then min 12 top else top
    let runs : Prop := h.pllRuns d (34 + c) = true
    let rating (i : Nat) : Nat := if i = 0 then 140 else if i ≤ 12 then 75 else 50
    let step : Instr := .clusterFrequencyStep cd cluster
    let want := min 0x22 (max 6 f.toNat)
    let limit := if 1 ≤ dieId die ∧ dieId die ≤ 12 then 105 else 100
    let ok : Prop := h.sensorFailed (dieId die) sn.toNat = false
    let tctl := if th h F.PWR_THERM_TCTL = 0 then limit - 5 else min (th h F.PWR_THERM_TCTL) (limit - 3)
    let tick : Instr := .thermalControlTick die t sn cluster
    let hot (k : Hw) : Prop := th k F.PWR_THERM_TMAX = t.toNat ∧ th k F.PWR_THERM_SENSOR = sn.toNat
    let off (k : Hw) : Prop := k.thr = [] ∧ k.cores = [] ∧ k.jobs = [] ∧ k.run = [] ∧ k.txns = [] ∧ k.portUp = [] ∧ k.mem = h.mem ∧ has k.groupOff 0 = true
    let last := h.reg .PWR_WAKE_LAST 0 0 0
    let newTick : Prop := wbits last 59 54 ≠ 0x3F ∨ wbits last 47 0 ≠ h.aoTick ∨ wbits last 63 60 = 0
    let quiet : Prop := h.deepOk = true ∧ h.deepIdle = false ∧ (∀ i < 12, h.domCur (i + 1) 36 = 3) ∧ h.jobs = [] ∧ (∀ q < 96, h.queueWaits q = false) ∧ (∀ p < 64, look 0 h.portOwner p = 0 ∨ ∃ x ∈ low, x.val = p) ∧
      h.fld .CFG_STAT 0 0 0 F.CFG_STAT_STATE ∉ [3, 4, 5]
    (fc h F.CLK_CLUSTER_FCUR < goal → runs → Does s step (fun k => fc k F.CLK_CLUSTER_FCUR = fc h F.CLK_CLUSTER_FCUR + 1 ∧ fc k F.CLK_CLUSTER_VCUR = (Config.railOf d (fc h F.CLK_CLUSTER_FCUR + 1)).toNat ∧ fc k F.CLK_CLUSTER_FCEIL = fc h F.CLK_CLUSTER_FCEIL ∧ k.mem = h.mem ∧ k.thr = h.thr)) ∧
    (goal < fc h F.CLK_CLUSTER_FCUR → runs → Does s step (fun k => fc k F.CLK_CLUSTER_FCUR = fc h F.CLK_CLUSTER_FCUR - 1 ∧ fc k F.CLK_CLUSTER_FMAX = fc h F.CLK_CLUSTER_FMAX ∧ k.mem = h.mem ∧ k.thr = h.thr)) ∧
    (goal = fc h F.CLK_CLUSTER_FCUR ∨ ¬ runs → exec step s = .next s) ∧
    Does s (.fceilUpdate cd cluster f) (fun k => fc k F.CLK_CLUSTER_FCEIL = (if h.noSensor d then 12 else min want (look 0x22 h.ceilTherm (2 * d + c))) ∧
      k.fld .PWR_THERM d 0 0 F.PWR_THERM_PWR_THR = (if want < 0x22 ∨ look 0x22 h.ceilPwr (2 * d + (1 - c)) < 0x22 then 1 else 0) ∧ fc k F.CLK_CLUSTER_FCUR = fc h F.CLK_CLUSTER_FCUR ∧ k.mem = h.mem) ∧
    (budgets.length = 17 → Does s (.budgetTick nw budgets) (fun k => pk k F.PWR_PKGLIM_EFF_W ≤ 820 ∧ pk k F.PWR_PKGLIM_EFF_W ≤ pk h F.PWR_PKGLIM_LIMIT_W ∧ pk k F.PWR_PKGLIM_NOW_W = nw.toNat ∧ k.mem = h.mem ∧
      (h.supplyW = none → h.coolW = none → pk h F.PWR_PKGLIM_VIN_DV = 0 → pk k F.PWR_PKGLIM_EFF_W = min 820 (pk h F.PWR_PKGLIM_LIMIT_W)) ∧
      (let fits : Prop := budgets.sum + 2 ≤ pk k F.PWR_PKGLIM_EFF_W ∧ ∀ i, i < 17 → budgets.getD i 0 ≤ rating i; (fits → k.budgets.map (·.2) = budgets) ∧ (¬ fits → k.budgets = h.budgets)))) ∧
    (¬ ok → exec tick s = .next s ∧ exec (.fastThrottle die t sn) s = .next s) ∧
    (ok → th h F.PWR_THERM_FAST_THR = 0 → tctl < t.toNat → Does s tick (fun k => hot k ∧ th k F.PWR_THERM_CTL_THR = 1 ∧ k.mem = h.mem ∧
      (1 ≤ dieId die → dieId die ≤ 12 → k.fld .CLK_CLUSTER (dieId die) 0 c F.CLK_CLUSTER_FCEIL = (if h.noSensor (dieId die) then 12 else min (look 0x22 h.ceilPwr (2 * dieId die + c)) (max 6 (h.fld .CLK_CLUSTER (dieId die) 0 c F.CLK_CLUSTER_FCEIL - 1)))))) ∧
    (ok → th h F.PWR_THERM_FAST_THR = 0 → t.toNat ≤ tctl → th h F.PWR_THERM_CTL_THR = 1 → t.toNat + min 20 (max 2 (th h F.PWR_THERM_HYST)) ≤ tctl → Does s tick (fun k => hot k ∧ th k F.PWR_THERM_CTL_THR = 0 ∧ k.mem = h.mem)) ∧
    (ok → th h F.PWR_THERM_FAST_THR = 0 → t.toNat ≤ tctl → th h F.PWR_THERM_CTL_THR = 1 → tctl < t.toNat + min 20 (max 2 (th h F.PWR_THERM_HYST)) → Does s tick (fun k => hot k ∧ th k F.PWR_THERM_CTL_THR = 1 ∧ k.mem = h.mem)) ∧
    (ok → th h F.PWR_THERM_FAST_THR = 0 → limit ≤ t.toNat → Does s (.fastThrottle die t sn) (fun k => hot k ∧ th k F.PWR_THERM_FAST_THR = 1 ∧ k.mem = h.mem ∧
      (1 ≤ dieId die → dieId die ≤ 12 → ∀ b ∈ [0, 1], k.fld .CLK_CLUSTER (dieId die) 0 b F.CLK_CLUSTER_FCUR ≤ 12))) ∧
    (ok → t.toNat < limit → Does s (.fastThrottle die t sn) (fun k => hot k ∧ th k F.PWR_THERM_FAST_THR = th h F.PWR_THERM_FAST_THR)) ∧
    (limit + 10 ≤ t.toNat → Does s (.thermalTrip die t sn) (fun k => off k ∧ k.tripped = true ∧ k.thermtripPin = true)) ∧
    (t.toNat < limit + 10 → Does s (.thermalTrip die t sn) (fun k => hot k ∧ k.thr = h.thr ∧ k.tripped = h.tripped ∧ k.mem = h.mem)) ∧
    (1500 < permille.toNat → dieId die = 0 → Does s (.stageCurrentSample die permille) off) ∧
    (1500 < permille.toNat → dieId die ≠ 0 → Does s (.stageCurrentSample die permille) (fun k => has k.groupOff (dieId die) = true ∧ k.mem = h.mem ∧ ∀ n, 1 ≤ dieId die → dieId die ≤ 12 → dieOfThread n = dieId die → (k.thread n).run ≠ .running)) ∧
    (1000 < permille.toNat → permille.toNat ≤ 1500 → 99 ≤ look 0 h.curOver (dieId die) → Does s (.stageCurrentSample die permille) (fun k => th k F.PWR_THERM_CUR_THR = 1 ∧ k.mem = h.mem)) ∧
    (permille.toNat < 900 → 999 ≤ look 0 h.curUnder (dieId die) → Does s (.stageCurrentSample die permille) (fun k => th k F.PWR_THERM_CUR_THR = 0 ∧ k.mem = h.mem)) ∧
    (400 ≤ dv.toNat → dv.toNat ≤ 600 → h.plat.supplyCond = false → Does s (.vinSample dv) (fun k => pk k F.PWR_PKGLIM_VIN_DV = dv.toNat ∧ k.vinBad = 0 ∧ k.thr = h.thr ∧ k.mem = h.mem)) ∧
    (dv.toNat < 360 ∨ 630 < dv.toNat → has h.groupOff 0 = false → 4 ≤ h.vinBad → Does s (.vinSample dv) off) ∧
    (quiet → Does s (.deepIdleEnter low) (fun k => k.deepIdle = true ∧ k.fld .PMP_STATE 0 0 0 F.PMP_STATE_PHASE = 5 ∧ k.domCur 0 4 = 3 ∧ (∀ n, 8 ≤ n → n ≤ 31 → k.domCur 0 n = 2) ∧ k.mem = h.mem ∧ k.thr = h.thr)) ∧
    (¬ quiet → exec (.deepIdleEnter low) s = .next s) ∧
    (h.deepIdle = true → 1 ≤ src.toNat → src.toNat ≤ 10 → newTick → Does s (.deepIdleExit src detail) (fun k => k.deepIdle = false ∧ k.fld .PMP_STATE 0 0 0 F.PMP_STATE_PHASE = 2 ∧ k.domCur 0 4 = 0 ∧
      (∀ n, 8 ≤ n → n ≤ 31 → k.domCur 0 n = 0) ∧ k.fld .PWR_WAKE_LAST 0 0 0 F.PWR_WAKE_LAST_SRC = src.toNat ∧ k.mem = h.mem ∧ k.thr = h.thr ∧ ∀ i < 12, has h.wakeOnExit (i + 1) = true → ∃ e ∈ k.wakeDue, e.1 = i + 1)) ∧
    (h.deepIdle = false ∨ ¬ (1 ≤ src.toNat ∧ src.toNat ≤ 10) → exec (.deepIdleExit src detail) s = .next s)

/-- R446, R447, R467 to R471, R481, R483: the control torus and the lath links. A frame that fails its CRC is ignored; another is accepted once, and a die whose firmware is being switched takes it later. An acknowledged frame is no longer kept; an unacknowledged one is sent again on the other route, four times at most, and then recorded. A good envelope frees its sender's copy and is taken once; a bad one counts. A handshake leaves the link at x2, at x1 with one lane failed, or counts a failure, and the third holds the link down. A link sleeps only while no envelope is kept, a chirp wakes it; RETRAIN and UNHOLD retrain it; equalisation of one lane runs it at x1; a lost link is down at both ends. Completes: torusFrame, torusAcknowledgement, torusResendTimeout, lathEnvelope, lathReplayTimeout, lathHandshake, laneSleepEntry, linkChirp, lathRetrain, unhold, lathReequalise, lathLinkLoss. -/
def Obligations.TorusAndLathResults : Prop :=
  ∀ (s : State) (who : Who) (f : FrameRef) (src dst n : TNode) (seq lseq : BitVec 8) (p : LPort) (own peer : BitVec 2) (lane ok : Bool) (g : TFrame),
    let h := s.hw
    let key := 20 * f.dst.val + f.src.val
    let frame : TFrame := { dst := f.dst.val, src := f.src.val, type := f.type.toNat, seq := f.seq.toNat, p3 := f.p3, payload := f.payload, alt := f.alt }
    let mine (x : TFrame) : Bool := decide (x.src = src.val ∧ x.dst = dst.val ∧ x.seq = seq.toNat ∧ x.sends ≠ 0)
    let idle (a b : Nat) : Prop := (h.lathEnd a b).kept = [] ∧ (h.lathEnd a b).wait = []
    let st := h.lathState n.val p.val
    let pn := peerNode n.val p.val
    let pp := peerPort p.val
    let two (k : Hw) (v : Nat) : Prop := k.lathState n.val p.val = v ∧ k.lathState pn pp = v
    let kept (k : Hw) (a b : Nat) := (k.lathEnd a b).kept
    let bad := (own ||| peer).toNat
    let fails := h.lathFld n.val p.val F.LATH_PORT_FAILS
    let shake : Instr := .lathHandshake n p own peer none ok
    let switching : Prop := (∃ d, dieOfNode f.dst.val = some d ∧ has h.fwSwitch d = true) ∨ (dieOfNode f.dst.val = none ∧ (hubNode f.dst.val).isSome = true ∧ has h.fwSwitch 0 = true)
    (f.payload.length ≤ 52 →
      (f.crcOk = false → exec (.torusFrame f) s = .next s) ∧ (f.crcOk = true → switching → (h.torusHeld.filter (fun x => decide (x.dst = f.dst.val))).length < 64 → exec (.torusFrame f) s = .next { s with hw := { h.torusAck frame with torusHeld := h.torusHeld ++ [frame] } }) ∧
      (f.crcOk = true → ¬ switching → look? h.torusRx key = some g → g.seq = f.seq.toNat → exec (.torusFrame f) s = .next { s with hw := h.torusAck frame }) ∧
      (f.crcOk = true → ¬ switching → (∀ g, look? h.torusRx key = some g → g.seq ≠ f.seq.toNat) → Does s (.torusFrame f) (fun k => look? k.torusRx key = some frame ∧ (∀ m, m ≠ key → look? k.torusRx m = look? h.torusRx m) ∧ k.regs = h.regs))) ∧
    ((∀ x ∈ h.torusTx, mine x = false) → exec (.torusAcknowledgement src dst seq) s = .next s) ∧
    (dst.val ≠ 19 → g ∈ h.torusTx → mine g = true → exec (.torusAcknowledgement src dst seq) s = .next { s with hw := ({ h with torusTx := h.torusTx.filter (fun x => !mine x) } : Hw).torusNext src.val dst.val }) ∧
    ((∀ x ∈ h.torusTx, mine x = false) → exec (.torusResendTimeout src dst seq) s = .next s) ∧
    (h.torusTx = [g] → mine g = true → g.sends < 4 → Does s (.torusResendTimeout src dst seq) (fun k => k.torusTx = [{ g with sends := g.sends + 1, alt := !g.alt }] ∧ k.regs = h.regs ∧ k.raises = h.raises)) ∧
    (h.torusTx = [g] → mine g = true → 4 ≤ g.sends → Does s (.torusResendTimeout src dst seq) (fun k => k.torusTx = [] ∧ k.mem = h.mem ∧ ∃ e ∈ k.raises, e.source = 0x235 ∧ e.info = src.val + 256 * dst.val)) ∧
    (st ≠ 2 → st ≠ 3 → exec (.lathEnvelope n p lseq f ok) s = .next s) ∧
    (st = 2 ∨ st = 3 → (lathRef n.val p.val).isSome = true → Does s (.lathEnvelope n p lseq f false) (fun k => k.lathFld n.val p.val F.LATH_PORT_CRC_ERR = min 0xFFFF (h.lathFld n.val p.val F.LATH_PORT_CRC_ERR + 1) ∧ k.lath = h.lath)) ∧
    (st = 2 ∨ st = 3 → f.dst = n → (h.lathEnd pn pp).wait = [] → Does s (.lathEnvelope n p lseq f true) (fun k => (k.lathEnd n.val p.val).rxSeq = some lseq.toNat ∧ kept k pn pp = (kept h pn pp).filter (fun x => decide (x.1 ≠ lseq.toNat)) ∧ kept k n.val p.val = kept h n.val p.val ∧ k.regs = h.regs)) ∧
    (st = 2 ∨ st = 3 → (h.lathEnd n.val p.val).rxSeq = some lseq.toNat → (h.lathEnd pn pp).wait = [] → Does s (.lathEnvelope n p lseq f true) (fun k => kept k pn pp = (kept h pn pp).filter (fun x => decide (x.1 ≠ lseq.toNat)) ∧ k.torusRx = h.torusRx ∧ k.regs = h.regs)) ∧
    ((lathRef n.val p.val).isSome = true → Does s (.lathReplayTimeout n p) (fun k => k.lathFld n.val p.val F.LATH_PORT_REPLAYS = min 0xFFFF (h.lathFld n.val p.val F.LATH_PORT_REPLAYS + (kept h n.val p.val).length) ∧ k.lath = h.lath)) ∧
    (st = 4 ∨ st = 5 → exec shake s = .next s) ∧
    (st ≠ 4 → st ≠ 5 → ok = true → bad ≠ 3 → Does s shake (fun k => two k (if bad = 0 then 2 else 3) ∧ k.lathFld n.val p.val F.LATH_PORT_FAILS = 0 ∧ k.coords = h.coords ∧ k.mem = h.mem)) ∧
    (st ≠ 4 → st ≠ 5 → ok = false ∨ bad = 3 → fails < 2 → Does s shake (fun k => two k 1 ∧ k.lathFld n.val p.val F.LATH_PORT_FAILS = fails + 1 ∧ k.raises = h.raises)) ∧
    (st ≠ 4 → st ≠ 5 → ok = false ∨ bad = 3 → 2 ≤ fails → Does s shake (fun k => two k 5 ∧ ∃ e ∈ k.raises, e.source = 0x236)) ∧
    ((st = 2 ∨ st = 3) ∧ idle n.val p.val ∧ idle pn pp → Does s (.laneSleepEntry n p) (fun k => two k 4 ∧ k.lath = h.lath)) ∧
    (¬ ((st = 2 ∨ st = 3) ∧ idle n.val p.val ∧ idle pn pp) → exec (.laneSleepEntry n p) s = .next s) ∧
    (st = 4 → Does s (.linkChirp n p) (fun k => two k 1 ∧ k.lath = h.lath)) ∧ (st ≠ 4 → exec (.linkChirp n p) s = .next s) ∧
    (∀ r, lathRef n.val p.val = some r →
      (h.mayWrite r who 2 = .ok → (st ≠ 5 → Does s (.lathRetrain who n p) (fun k => two k 1)) ∧ (st = 5 → exec (.lathRetrain who n p) s = .next s)) ∧
      (h.mayWrite r who 1 = .ok → (st = 5 → Does s (.unhold who n p) (fun k => two k 1 ∧ k.lathFld n.val p.val F.LATH_PORT_FAILS = 0)) ∧ (st ≠ 5 → exec (.unhold who n p) s = .next s))) ∧
    (lathRef n.val p.val = none → exec (.lathRetrain who n p) s = .next s ∧ exec (.unhold who n p) s = .next s) ∧
    (st = 2 → Does s (.lathReequalise n p lane false) (fun k => two k 3 ∧ (k.lathEnd n.val p.val).reeq = some lane)) ∧
    ((h.lathEnd n.val p.val).reeq = some lane → st = 3 → Does s (.lathReequalise n p lane true) (fun k => two k 2 ∧ (k.lathEnd n.val p.val).reeq = none)) ∧
    (st ≠ 2 → exec (.lathReequalise n p lane false) s = .next s) ∧ ((h.lathEnd n.val p.val).reeq = none → exec (.lathReequalise n p lane true) s = .next s) ∧
    Does s (.lathLinkLoss n p) (fun k => two k 0 ∧ k.lathEnd n.val p.val = {} ∧ k.lathEnd pn pp = {} ∧ k.mem = h.mem)

/-- R460 to R466, R472 to R478, R480, R482, R285: the scrim links. ASSIGN gives a die its ID, and its echo readmits a fenced die once no directory entry names it. RMAP and REPAIR take failed positions into the maps, two at most in a group and direction; a third loses the link, which is held down, with its die fenced. A link sleeps when both ends agree. A training ends active, or at STATE 0x2 while the edge is held; a fast one that fails is followed by a full one, and the third full failure loses the link. A lost heartbeat fences the die at the hub, and stops it at the die. Completes: assign, rmap, repair, wireThreshRepair, sleepLink, retrain, linkTrainingDone, heartbeatLoss, scrimRecalPass. -/
def Obligations.ScrimLinkResults : Prop :=
  ∀ (s : State) (hp : HubPort) (hub echo dir : Bool) (id pos f0 f1 : BitVec 8) (arg group : BitVec 4) (seq : BitVec 6) (mode : BitVec 2) (full : Bool),
    let h := s.hw
    let die := hpDie hp.val
    let st (k : Hw) (b : Bool) := k.linkState hp.val b
    let lost (k : Hw) (cause : Nat) : Prop := st k true = 5 ∧ st k false = 5 ∧ k.linkFld hp.val true F.SLINK_STAT_CAUSE = cause ∧ k.linkFld hp.val false F.SLINK_STAT_CAUSE = cause ∧ (k.reg .HOME_FENCE0 0 0 0).getLsbD die = true ∧
      ∀ t, 1 ≤ die → die ≤ 12 → dieOfThread t = die → (k.thread t).run ≠ .running
    let g := group.toNat
    let okg : Prop := g < linkGroups hp.val
    let okp : Prop := pos.toNat < 144
    let map (k : Hw) (b r : Bool) := k.rmapList hp.val b g r
    let valid : Prop := (st h true = 2 ∨ st h true = 3) ∧ id.toNat = die ∧ arg.toNat = hp.val
    let hA (e : Bool) := h.linkTaken hp.val e 1 (assignArg id.toNat arg.toNat)
    let hS (a : Bool) := h.linkTaken hp.val hub 4 (sleepArg mode.toNat a)
    let hT : Hw := { h with lcmds := dropFirst (fun c => decide (c.hp = hp.val ∧ c.cmd = 5 ∧ c.arg = b2n full)) h.lcmds }
    let th := max 1 (if hub then h.fld .SLINK_CTL_HP 0 0 hp.val F.SLINK_CTL_WIRE_THRESH else h.fld .SLINK_CTL die 0 0 F.SLINK_CTL_WIRE_THRESH)
    let named : Prop := ∃ e ∈ h.dir, (∃ d pr, e.2 = .owned (.core die d) pr) ∨ (∃ n pr, e.2 = .owned (.eng n) pr ∧ 24 ≤ n ∧ (n - 24) / 8 + 0x10 = die) ∨ (∃ vec fw, e.2 = .shared vec fw ∧ (die ∈ vec ∨ fw = die))
    (¬ valid → exec (.assign hp id arg echo) s = .next { s with hw := hA echo }) ∧
    (valid → Does s (.assign hp id arg false) (fun k => k.fld .DCTL_IDENT die 0 0 F.DCTL_IDENT_DIE_ID = die ∧ k.reg .HOME_FENCE0 0 0 0 = h.reg .HOME_FENCE0 0 0 0 ∧ k.lcmds = (hA false).lcmds ++ [⟨hp.val, true, 1, assignArg id.toNat arg.toNat⟩])) ∧
    (valid → named → exec (.assign hp id arg true) s = .next { s with hw := hA true }) ∧
    (valid → h.dir = [] → Does s (.assign hp id arg true) (fun k => ∀ b < 64, (k.reg .HOME_FENCE0 0 0 0).getLsbD b = ((h.reg .HOME_FENCE0 0 0 0).getLsbD b && decide (b ≠ die)))) ∧
    (okg → f0 = 0xFF → f1 = 0xFF → map h hub dir = [] → map h (!hub) (!dir) = [] → Does s (.rmap hp hub group dir f0 f1) (fun k => map k hub dir = [] ∧ map k (!hub) (!dir) = [] ∧ k.mem = h.mem ∧ k.thr = h.thr)) ∧
    (okg → f0.toNat < 144 → f1 = 0xFF → map h hub dir = [] → map h (!hub) (!dir) = [] → Does s (.rmap hp hub group dir f0 f1) (fun k => map k hub dir = [f0.toNat] ∧ map k (!hub) (!dir) = [f0.toNat] ∧ k.mem = h.mem ∧ k.thr = h.thr)) ∧
    (okg → (union (map h hub dir) ([f0.toNat, f1.toNat].filter (fun x => decide (x < 144)))).length > 2 → Does s (.rmap hp hub group dir f0 f1) (fun k => lost k 2)) ∧
    (okg → okp → st h hub ≠ 3 → exec (.repair hp hub group pos seq echo false) s = .next s) ∧
    (okg → okp → st h hub = 3 → map h hub false = [] → Does s (.repair hp hub group pos seq false false) (fun k => map k hub false = [pos.toNat] ∧ map k hub true = map h hub true ∧ st k hub = 3)) ∧
    (okg → okp → st h hub = 3 → 2 < (union (map h hub false) [pos.toNat]).length → Does s (.repair hp hub group pos seq false false) (fun k => lost k 2)) ∧
    (okg → okp → st h hub = 3 → look? h.repairs (endKey hp.val hub) = some ⟨g, pos.toNat, 0⟩ → Does s (.repair hp hub group pos seq true false) (fun k => look? k.repairs (endKey hp.val hub) = none ∧ k.regs = h.regs) ∧
      Does s (.repair hp hub group pos seq true true) (fun k => look? k.repairs (endKey hp.val hub) = some ⟨g, pos.toNat, seq.toNat⟩ ∧ k.regs = h.regs)) ∧
    (okg → okp → st h hub ≠ 3 → st h hub ≠ 1 → exec (.wireThreshRepair hp hub group pos seq true) s = .next s) ∧
    (okg → okp → st h hub = 3 → map h hub true = [] → Does s (.wireThreshRepair hp hub group pos seq false) (fun k => map k hub true = [pos.toNat] ∧ look? k.repairs (endKey hp.val hub) = some ⟨g, pos.toNat, seq.toNat⟩ ∧
      k.linkFld hp.val hub F.SLINK_STAT_CORR = min 0xFFFFFFFF (h.linkFld hp.val hub F.SLINK_STAT_CORR + th))) ∧
    (okg → okp → st h hub = 1 → map h hub true = [] → Does s (.wireThreshRepair hp hub group pos seq true) (fun k => map k hub true = [pos.toNat] ∧ k.repairs = h.repairs)) ∧
    (okg → okp → st h hub = 3 → map h hub true = [] → Does s (.wireThreshRepair hp hub group pos seq true) (fun k => map k hub true = [pos.toNat] ∧ look? k.repairs (endKey hp.val hub) = some ⟨g, pos.toNat, seq.toNat⟩)) ∧
    (okg → okp → st h hub = 3 → 2 < (union (map h hub true) [pos.toNat]).length → Does s (.wireThreshRepair hp hub group pos seq true) (fun k => lost k 2)) ∧
    ((mode ≠ 1 ∧ mode ≠ 2) ∨ st h hub ≠ 3 → exec (.sleepLink hp hub mode echo) s = .next { s with hw := hS echo }) ∧
    (mode = 1 ∨ mode = 2 → st h hub = 3 → Does s (.sleepLink hp hub mode false) (fun k => look? k.sleepReq hp.val = some mode.toNat ∧ k.regs = h.regs) ∧
      (look? h.sleepReq hp.val = some mode.toNat → Does s (.sleepLink hp hub mode true) (fun k => st k true = 4 ∧ st k false = 4 ∧ look? k.sleepReq hp.val = none ∧ k.mem = h.mem)) ∧
      (look? h.sleepReq hp.val = none → exec (.sleepLink hp hub mode true) s = .next { s with hw := hS true })) ∧
    (st h true = 2 ∨ st h true = 3 → Does s (.retrain hp full) (fun k => st k true = 1 ∧ st k false = 1 ∧ look? k.training hp.val = some full ∧ k.mem = h.mem)) ∧
    (st h true ≠ 2 → st h true ≠ 3 → exec (.retrain hp full) s = .next { s with hw := hT }) ∧
    (look? h.training hp.val = none → exec (.linkTrainingDone hp .ok) s = .next s ∧ exec (.linkTrainingDone hp .failed) s = .next s) ∧
    (look? h.training hp.val = some full → Does s (.linkTrainingDone hp .ok) (fun k => (let v := if has h.edgeHeld hp.val then 2 else 3; st k true = v ∧ st k false = v) ∧ look? k.training hp.val = none ∧ k.mem = h.mem)) ∧
    (look? h.training hp.val = some false → Does s (.linkTrainingDone hp .failed) (fun k => look? k.training hp.val = some true ∧ k.regs = h.regs)) ∧
    (look? h.training hp.val = some true → look 0 h.trainFails hp.val < 2 → Does s (.linkTrainingDone hp .failed) (fun k => look 0 k.trainFails hp.val = look 0 h.trainFails hp.val + 1 ∧ k.regs = h.regs)) ∧
    (look? h.training hp.val = some true → 2 ≤ look 0 h.trainFails hp.val → Does s (.linkTrainingDone hp .failed) (fun k => lost k 3 ∧ look? k.training hp.val = none)) ∧
    (st h true = 3 → Does s (.heartbeatLoss hp true) (fun k => st k true = 5 ∧ k.linkFld hp.val true F.SLINK_STAT_CAUSE = 1 ∧ (k.reg .HOME_FENCE0 0 0 0).getLsbD die = true)) ∧
    (st h false = 2 ∨ st h false = 3 → Does s (.heartbeatLoss hp false) (fun k => st k false = 5 ∧ k.linkFld hp.val false F.SLINK_STAT_CAUSE = 1 ∧ (∀ t, 1 ≤ die → die ≤ 12 → dieOfThread t = die → (k.thread t).run ≠ .running) ∧ k.mem = h.mem ∧
      ∃ f ∈ k.torusTx, f.src = nodeOfDie die ∧ f.dst = 5)) ∧
    (st h true ≠ 3 → exec (.heartbeatLoss hp true) s = .next s) ∧ (st h false ≠ 2 → st h false ≠ 3 → exec (.heartbeatLoss hp false) s = .next s) ∧
    (st h hub ≠ 3 → exec (.scrimRecalPass hp hub []) s = .next s) ∧
    (st h hub = 3 → (if hub then h.fld .SLINK_CTL_HP 0 0 hp.val F.SLINK_CTL_RECAL_EN else h.fld .SLINK_CTL die 0 0 F.SLINK_CTL_RECAL_EN) = 1 → (∀ g < 16, h.rmapList hp.val hub g true = []) → (∀ g < 16, h.rmapList hp.val (!hub) g false = []) → okg → okp →
      Does s (.scrimRecalPass hp hub [(group, pos)]) (fun k => map k hub true = [pos.toNat] ∧ map k (!hub) false = [pos.toNat] ∧ k.mem = h.mem))

/-- R545, R546, R554 to R556, R560 to R562: the secure world outside the cores. The watchdog raises its event once, when an activation has lasted WD_MS. An END bit is set only for a thread with an open activation, by a secure writer. STATE takes the running value only while the gate record area is secure, and entering the ending value raises the secure-end event at every open activation. MARK and UNMARK start on an owned GiB, and are refused on another, on the record area, or while BUSY. A partition changes the reserve bits of its own engines alone. Completes: secureWatchdog, activationEndArm, secureStateWrite, markSecure, unmarkSecure, secureEngineReserve. -/
def Obligations.SecureWorldResults : Prop :=
  ∀ (s : State) (who : Who) (t : Gtn) (die : CDie) (pc : PCore) (p : PartIx) (gib : BitVec 18) (v : W64) (a : Act),
    let h := s.hw
    let x := h.thread t.val
    let wd := 1000000 * max 1 (h.fld .SEC_SWCTL 0 0 (h.partOf t.val - 1) F.SEC_SWCTL_WD_MS)
    let d := die.val + 1
    let sa (k : Hw) := k.reg .CORE_SECACT d pc.val 0
    let arm : Instr := .activationEndArm who die pc v
    let q := p.val
    let own := p.val + 1
    let sw (k : Hw) (y : Fld) := k.fld .SEC_SWCTL 0 0 q y
    let rng (k : Hw) (y : Fld) := k.fld .SEC_RNGCMD 0 0 q y
    let may (n : RegName) (i : Nat) (v : W64) : Prop := h.mayWrite (RegRef.at n 0 0 i) who v = .ok
    let val (op : Nat) : W64 := BitVec.ofNat 64 (op * 2 ^ 61 + gib.toNat)
    let g := gib.toNat
    let idle : Prop := rng h F.SEC_RNGCMD_BUSY = 0
    (x.act = none → exec (.secureWatchdog t) s = .next s) ∧
    (x.act = some a → a.wdRaised = false → a.started + wd ≤ h.now → Does s (.secureWatchdog t) (fun k => (k.thread t.val).act = some { a with wdRaised := true } ∧ (k.thread t.val).pc = x.pc ∧ k.mem = h.mem ∧
      ∃ e ∈ k.raises, e.source = 16 * (dieOfThread t.val - 1) + 12 ∧ e.thread = some t.val)) ∧
    (x.act = some a → a.wdRaised = true ∨ h.now < a.started + wd → exec (.secureWatchdog t) s = .next s) ∧
    (h.mayWrite (RegRef.at .CORE_SECACT d pc.val) who v = .ok → Does s arm (fun k => (sa k).getLsbD 16 = (((sa h).getLsbD 16 || v.getLsbD 16) && (sa h).getLsbD 8) ∧
      (sa k).getLsbD 17 = (((sa h).getLsbD 17 || v.getLsbD 17) && (sa h).getLsbD 9) ∧ (sa k).getLsbD 8 = (sa h).getLsbD 8 ∧ (sa k).getLsbD 9 = (sa h).getLsbD 9 ∧ k.mem = h.mem ∧ k.thr = h.thr)) ∧
    (who.world = false → Does s arm (fun k => sa k = sa h ∧ k.thr = h.thr ∧ ∃ e ∈ k.raises, e.source = 0x231)) ∧
    (may .SEC_SWCTL q v →
      (sw h F.SEC_SWCTL_STATE = 0 → wbits v 63 62 = 1 → h.grecSecure own = true → Does s (.secureStateWrite who p .full v) (fun k => sw k F.SEC_SWCTL_STATE = 1 ∧ sw k F.SEC_SWCTL_WD_MS = wbits v 23 0 ∧ k.raises = h.raises ∧ k.mem = h.mem)) ∧
      (sw h F.SEC_SWCTL_STATE ≠ 1 → wbits v 63 62 = 1 → h.grecSecure own = false → Does s (.secureStateWrite who p .full v) (fun k => sw k F.SEC_SWCTL_STATE = sw h F.SEC_SWCTL_STATE ∧ sw k F.SEC_SWCTL_WD_MS = wbits v 23 0 ∧ ∃ e ∈ k.raises, e.source = 0x231)) ∧
      (sw h F.SEC_SWCTL_STATE = 1 → wbits v 63 62 = 2 → Does s (.secureStateWrite who p .full v) (fun k => sw k F.SEC_SWCTL_STATE = 2 ∧ k.thr = h.thr ∧
        ∀ t < 768, h.partOf t = own → (h.thread t).act.isSome = true → ∃ e ∈ k.raises, e.source = 16 * (dieOfThread t - 1) + 13 ∧ e.thread = some t))) ∧
    ((may .SEC_RNGCMD q (val 1) → (¬ idle → exec (.markSecure who p gib) s = .next s) ∧
        (idle → h.gibOwner g ≠ own → Does s (.markSecure who p gib) (fun k => rng k F.SEC_RNGCMD_RESULT = 1 ∧ rng k F.SEC_RNGCMD_BUSY = 0 ∧ k.gibMoves = h.gibMoves ∧ k.mem = h.mem)) ∧
        (idle → h.gibOwner g = own → Does s (.markSecure who p gib) (fun k => rng k F.SEC_RNGCMD_BUSY = 1 ∧ rng k F.SEC_RNGCMD_GIB = g ∧ ∃ m ∈ k.gibMoves, m.gib = g ∧ m.owner = own ∧ m.why = .mark))) ∧
      (may .SEC_RNGCMD q (val 2) → (¬ idle → exec (.unmarkSecure who p gib) s = .next s) ∧
        (idle → h.gibOwner g ≠ own → Does s (.unmarkSecure who p gib) (fun k => rng k F.SEC_RNGCMD_RESULT = 1 ∧ rng k F.SEC_RNGCMD_BUSY = 0 ∧ k.gibMoves = h.gibMoves)) ∧
        (idle → h.gibOwner g = own → g ∈ h.grecGibs own → sw h F.SEC_SWCTL_STATE = 1 → Does s (.unmarkSecure who p gib) (fun k => rng k F.SEC_RNGCMD_RESULT = 2 ∧ rng k F.SEC_RNGCMD_BUSY = 0 ∧ k.gibMoves = h.gibMoves ∧ ∃ e ∈ k.raises, e.source = 0x231)) ∧
        (idle → h.gibOwner g = own → g ∉ h.grecGibs own → Does s (.unmarkSecure who p gib) (fun k => rng k F.SEC_RNGCMD_BUSY = 1 ∧ ∃ m ∈ k.gibMoves, m.gib = g ∧ m.owner = own ∧ m.why = .unmark)))) ∧
    (may .SEC_SENG 0 v → Does s (.secureEngineReserve who .full v) (fun k => k.mem = h.mem ∧ k.run = h.run ∧ ∀ n < 56,
      (k.reg .SEC_SENG 0 0 0).getLsbD n = if who.part.val = 0 ∨ look 0 h.engOwner n = who.part.val then v.getLsbD n else (h.reg .SEC_SENG 0 0 0).getLsbD n))

/-- R311, R473, R474, R566 to R581, R637: boot. The Primer tries the slots that hold a valid commit record, the higher sequence number first, and starts the Sizing loader from the first that it accepts; with none it enters recovery, in PHASE 3. Discovery ends a port's link, active or held down, and a die of another stepping stops boot with STOP 0x2; no inventory within its time, and no channel that trains, stop it with 0x3; a component, image or channel set that is good takes it to PHASE 2. A failure excludes the slot. A partition's boot thread starts at its boot GiB. A floor or revocation command is refused for its own reasons, or burns, and is done when the burn ends. A flash command waits for its end: an erase leaves ones, a program only clears bits, a read fills the buffer. A measurement register is extended by those that may. Completes: primerStart, sizingLoaderStart, inventoryTimeout, bootRestart, bootThreadRelease, floorRaise, keyRevoke, fuseBurnDone, flashErase, flashProgram, flashRead, flashOpDone, mregExtend. -/
def Obligations.BootResults : Prop :=
  ∀ (s : State) (who : Who) (p : PartIx) (v : W64) (reason : BitVec 8) (slot : Bool) (foff : BitVec 32) (bad : List (Fin 2)) (disc : List (HubPort × DiscRes)) (mem : MemReport) (g t n r : Nat) (fo : FlashOp) (bs uc img : List Byte) (dig : BitVec 384) (fresh : Bool),
    let h := s.hw
    let b (k : Hw) (y : Fld) := k.fld .SEC_BOOTSTAT 0 0 0 y
    let ph (k : Hw) := k.fld .PMP_STATE 0 0 0 F.PMP_STATE_PHASE
    let asleep : Prop := h.plat.resetLow = true ∨ h.tripped = true ∨ has h.groupOff 0 = true ∨ ph h ≠ 0
    let cand (i : Nat) : Prop := commitValid (h.commitRecord i) = true ∧ (b h F.SEC_BOOTSTAT_EXCL).testBit i = false
    let start : Instr := .primerStart bad
    let bl := bad.map (·.val)
    let own := p.val + 1
    let rsn (i : Nat) : Fld := if i = 0 then F.SEC_BOOTSTAT_REASON_A else F.SEC_BOOTSTAT_REASON_B
    let here := b h F.SEC_BOOTSTAT_SLOT
    let loads : Prop := h.boot.sizing = true ∧ ph h = 1
    let stepsAgree : Prop := ∀ i < 16, h.stepDiffers i = false
    let listed : Prop := loads ∧ h.plat.invSent = true ∧ h.plat.invDone = true ∧ stepsAgree
    let sized : Instr := .sizingLoaderStart disc mem
    let may (n : RegName) (v : W64) : Prop := h.mayWrite (RegRef.at n 0) who v = .ok
    let fl (k : Hw) (y : Fld) := k.fld .SEC_FLOOR 0 0 0 y
    let kr (k : Hw) (y : Fld) := k.fld .SEC_KEYREV 0 0 0 y
    let fc (k : Hw) (y : Fld) := k.fld .SEC_FLASHCMD 0 0 0 y
    let mx (k : Hw) (y : Fld) := k.fld .SEC_MEXT 0 0 0 y
    let req := min 128 (wbits v 15 8)
    let key := wbits v 1 0
    let sl := if slot then 1 else 0
    let cmd (op : Nat) : W64 := BitVec.ofNat 64 (2 ^ 63 + op * 2 ^ 57 + sl * 2 ^ 56 + foff.toNat)
    let mine : Prop := h.boot.manifest ≠ [] ∧ sl = b h F.SEC_BOOTSTAT_SLOT
    let buf := h.fld .SEC_FLASHADDR 0 0 0 F.SEC_FLASHADDR_BUF * 4096
    let started (k : Hw) (op : Nat) (d : List Byte) : Prop := fc k F.SEC_FLASHCMD_BUSY = 1 ∧ k.boot.flashOp = some { op := op, slot := sl, off := foff.toNat, data := d } ∧ k.boot.flash = h.boot.flash ∧ k.mem = h.mem
    let nn := wbits v 59 56
    let mbuf := wbits v 51 6 * 64
    let mayExt : Prop := if who.part.val = 0 then 1 ≤ nn ∧ nn ≤ 3 else nn = 3 + who.part.val
    (asleep → exec start s = .next s) ∧
    (¬ asleep → b h F.SEC_BOOTSTAT_STOP ≠ 4 → ¬ cand 0 → ¬ cand 1 → Does s start (fun k => ph k = 3 ∧ b k F.SEC_BOOTSTAT_STOP = 1 ∧ k.boot.sizing = false ∧ k.boot.target.isSome = true ∧ k.thr = h.thr ∧ k.mem = h.mem ∧
      ∀ i < 2, commitValid (h.commitRecord i) = false → (b h F.SEC_BOOTSTAT_EXCL).testBit i = false → b k (rsn i) = 1)) ∧
    (¬ asleep → b h F.SEC_BOOTSTAT_STOP = 4 → Does s start (fun k => ph k = 3 ∧ b k F.SEC_BOOTSTAT_STOP = 4 ∧ k.boot.sizing = false ∧ k.mem = h.mem)) ∧
    (∀ i < 2, ¬ asleep → b h F.SEC_BOOTSTAT_STOP ≠ 4 → cand i → ¬ cand (1 - i) → h.verifySlot bl i = 0 → Does s start (fun k => ph k = 1 ∧ b k F.SEC_BOOTSTAT_STOP = 0 ∧ b k F.SEC_BOOTSTAT_SLOT = i ∧ k.boot.sizing = true ∧
      k.boot.seq = commitSeq (h.commitRecord i) ∧ k.thr = h.thr ∧ k.mem = h.mem)) ∧
    (∀ i < 2, ¬ asleep → b h F.SEC_BOOTSTAT_STOP ≠ 4 → cand i → ¬ cand (1 - i) → h.verifySlot bl i = r → r ≠ 0 → r < 256 → Does s start (fun k => ph k = 3 ∧ b k F.SEC_BOOTSTAT_STOP = 1 ∧ b k (rsn i) = r ∧ k.boot.sizing = false)) ∧
    (∀ i ∈ bl, h.verifySlot bl i = 0x0A) ∧
    (¬ loads → exec sized s = .next s) ∧
    (loads → h.plat.invSent = true → stepsAgree → h.plat.invDone = false → exec sized s = .next s) ∧
    (loads → h.plat.invSent = true → ¬ stepsAgree → Does s sized (fun k => ph k = 4 ∧ b k F.SEC_BOOTSTAT_STOP = 2 ∧ k.mem = h.mem)) ∧
    (loads → h.plat.invSent = false → h.plat.invDone = false → disc = [] → Does s sized (fun k => k.plat.invSent = true ∧ ph k = 1 ∧ k.mem = h.mem ∧ k.fld .DCTL_IDENT 0 0 0 F.DCTL_IDENT_DIE_ID = 0 ∧
      ∀ i < 16, k.fld .SLINK_DISC 0 0 i F.SLINK_DISC_RESULT = 2 ∧ k.linkState i true = 5 ∧ k.linkState i false = 5)) ∧
    (listed → h.bootImage here = .error r → Does s sized (fun k => ph k = 0 ∧ (b k F.SEC_BOOTSTAT_EXCL).testBit here = true)) ∧
    (listed → h.bootImage here = .ok (img, dig, fresh) → h.imgCheck img [] false ≠ 0 → Does s sized (fun k => ph k = 0 ∧ b k (rsn here) = 0x0C ∧ (b k F.SEC_BOOTSTAT_EXCL).testBit here = true)) ∧
    (listed → h.bootImage here = .ok (img, dig, fresh) → h.imgCheck img [] false = 0 → h.bootComps here [4, 5, 6] = .ok bs →
      ((∀ c < 24, h.populationOk c = true → ∀ x ∈ mem.trained, x.val ≠ c) → Does s sized (fun k => ph k = 4 ∧ b k F.SEC_BOOTSTAT_STOP = 3 ∧ k.mem = h.mem)) ∧
      ((∃ c < 24, h.populationOk c = true ∧ ∃ x ∈ mem.trained, x.val = c) → h.bootComps here [3] = .ok uc → Does s sized (fun k => ph k = 2 ∧ b k F.SEC_BOOTSTAT_STOP = 0))) ∧
    (ph h = 1 ∧ h.plat.invSent = true ∧ h.plat.invDone = false → Does s .inventoryTimeout (fun k => ph k = 4 ∧ b k F.SEC_BOOTSTAT_STOP = 3 ∧ k.mem = h.mem)) ∧
    (¬ (ph h = 1 ∧ h.plat.invSent = true ∧ h.plat.invDone = false) → exec .inventoryTimeout s = .next s) ∧
    (ph h ≠ 1 → exec (.bootRestart reason) s = .next s) ∧
    (ph h = 1 → Does s (.bootRestart reason) (fun k => ph k = 0 ∧ b k F.SEC_BOOTSTAT_STOP = 0 ∧ (b k F.SEC_BOOTSTAT_EXCL).testBit (b h F.SEC_BOOTSTAT_SLOT) = true ∧ k.thr = [] ∧ k.now = h.now ∧ k.keys = h.keys ∧ k.boot.flash = h.boot.flash ∧
      b k (if b h F.SEC_BOOTSTAT_SLOT = 0 then F.SEC_BOOTSTAT_REASON_A else F.SEC_BOOTSTAT_REASON_B) = reason.toNat)) ∧
    (look? h.boot.bootGib own = some g → h.bootThread own = some t → ph h = 2 → h.mapped (g * 2 ^ 30) = true → (h.thread t).run = .inReset → has h.partStopped own = false → Does s (.bootThreadRelease p) (fun k =>
      (k.thread t).run = .running ∧ (k.thread t).pc = BitVec.ofNat 64 (g * 2 ^ 30 + 0x100000) ∧ (k.thread t).readG 1 = BitVec.ofNat 64 (g * 2 ^ 30) ∧ (∀ m, m ≠ 1 → (k.thread t).readG m = 0) ∧ (∀ m, m ≠ t → k.thread m = h.thread m) ∧
      has k.partUp own = true ∧ k.mem = h.mem)) ∧
    (look? h.boot.bootGib own = none ∨ ph h ≠ 2 → exec (.bootThreadRelease p) s = .next s) ∧
    (may .SEC_FLOOR v → v.getLsbD 63 = true →
      (fl h F.SEC_FLOOR_BUSY = 1 → exec (.floorRaise who v) s = .next s) ∧
      (fl h F.SEC_FLOOR_BUSY = 0 → req ≤ fl h F.SEC_FLOOR_CUR → Does s (.floorRaise who v) (fun k => fl k F.SEC_FLOOR_RESULT = 2 ∧ k.boot = h.boot)) ∧
      (fl h F.SEC_FLOOR_BUSY = 0 → fl h F.SEC_FLOOR_CUR < req → b h F.SEC_BOOTSTAT_SVN < req → Does s (.floorRaise who v) (fun k => fl k F.SEC_FLOOR_RESULT = 1 ∧ k.boot = h.boot)) ∧
      (fl h F.SEC_FLOOR_BUSY = 0 → fl h F.SEC_FLOOR_CUR < req → req ≤ b h F.SEC_BOOTSTAT_SVN → Does s (.floorRaise who v) (fun k => fl k F.SEC_FLOOR_BUSY = 1 ∧ k.boot.floorBurn = some req ∧ fl k F.SEC_FLOOR_CUR = fl h F.SEC_FLOOR_CUR))) ∧
    (may .SEC_KEYREV v → v.getLsbD 63 = true →
      (kr h F.SEC_KEYREV_BUSY = 1 → exec (.keyRevoke who v) s = .next s) ∧
      (kr h F.SEC_KEYREV_BUSY = 0 → Config.keysPresent.testBit key = false → Does s (.keyRevoke who v) (fun k => kr k F.SEC_KEYREV_RESULT = 3 ∧ k.boot = h.boot)) ∧
      (kr h F.SEC_KEYREV_BUSY = 0 → Config.keysPresent.testBit key = true → h.boot.manifest = [] → h.usableKeys ≠ [key] → Does s (.keyRevoke who v) (fun k => kr k F.SEC_KEYREV_BUSY = 1 ∧ k.boot.keyBurn = some key))) ∧
    (h.boot.floorBurn = some n → Does s (.fuseBurnDone true) (fun k => k.boot.floorBurn = none ∧ k.boot.floor = max h.boot.floor n ∧ fl k F.SEC_FLOOR_BUSY = 0 ∧ fl k F.SEC_FLOOR_RESULT = 0 ∧ k.boot.keyBurn = h.boot.keyBurn)) ∧
    (h.boot.keyBurn = some n → Does s (.fuseBurnDone false) (fun k => k.boot.keyBurn = none ∧ k.boot.revoked.testBit n = true ∧ kr k F.SEC_KEYREV_BUSY = 0 ∧ kr k F.SEC_KEYREV_RESULT = 0 ∧ k.boot.floor = h.boot.floor)) ∧
    (h.boot.floorBurn = none → exec (.fuseBurnDone true) s = .next s) ∧ (h.boot.keyBurn = none → exec (.fuseBurnDone false) s = .next s) ∧
    (fc h F.SEC_FLASHCMD_BUSY = 1 → (may .SEC_FLASHCMD (cmd 1) → exec (.flashErase who slot foff) s = .next s) ∧ (may .SEC_FLASHCMD (cmd 2) → exec (.flashProgram who slot foff) s = .next s) ∧
      (may .SEC_FLASHCMD (cmd 3) → exec (.flashRead who slot foff) s = .next s)) ∧
    (fc h F.SEC_FLASHCMD_BUSY = 0 →
      (may .SEC_FLASHCMD (cmd 1) → mine → Does s (.flashErase who slot foff) (fun k => fc k F.SEC_FLASHCMD_RESULT = 1 ∧ fc k F.SEC_FLASHCMD_BUSY = 0 ∧ k.boot = h.boot)) ∧
      (may .SEC_FLASHCMD (cmd 1) → ¬ mine → foff.toNat % 65536 = 0 → foff.toNat + 65536 ≤ Config.flashBytes → Does s (.flashErase who slot foff) (fun k => started k 1 [])) ∧
      (may .SEC_FLASHCMD (cmd 1) → ¬ mine → foff.toNat % 65536 ≠ 0 → Does s (.flashErase who slot foff) (fun k => fc k F.SEC_FLASHCMD_RESULT = 4 ∧ k.boot = h.boot)) ∧
      (may .SEC_FLASHCMD (cmd 2) → ¬ mine → foff.toNat % 4096 = 0 → foff.toNat + 4096 ≤ Config.flashBytes → h.agentRead 0 who.world buf 4096 = some bs → Does s (.flashProgram who slot foff) (fun k => started k 2 bs)) ∧
      (may .SEC_FLASHCMD (cmd 2) → ¬ mine → foff.toNat % 4096 = 0 → foff.toNat + 4096 ≤ Config.flashBytes → h.agentRead 0 who.world buf 4096 = none → Does s (.flashProgram who slot foff) (fun k => fc k F.SEC_FLASHCMD_RESULT = 3 ∧ k.boot = h.boot)) ∧
      (may .SEC_FLASHCMD (cmd 3) → foff.toNat % 4096 = 0 → foff.toNat + 4096 ≤ Config.flashBytes → h.rangePass 0 who.world buf 4096 = true → Does s (.flashRead who slot foff) (fun k => started k 3 []))) ∧
    (h.boot.flashOp = none → exec (.flashOpDone false) s = .next s ∧ exec (.flashOpDone true) s = .next s) ∧
    (h.boot.flashOp = some fo → Does s (.flashOpDone true) (fun k => fc k F.SEC_FLASHCMD_BUSY = 0 ∧ fc k F.SEC_FLASHCMD_RESULT = 2 ∧ k.boot.flash = h.boot.flash ∧ k.boot.flashOp = none) ∧
      (fo.op = 1 → Does s (.flashOpDone false) (fun k => fc k F.SEC_FLASHCMD_BUSY = 0 ∧ fc k F.SEC_FLASHCMD_RESULT = 0 ∧ (∀ a, k.flashByte fo.slot a = if a / 65536 = fo.off / 65536 then 0xFF else h.flashByte fo.slot a) ∧ k.mem = h.mem)) ∧
      (fo.op = 2 → Does s (.flashOpDone false) (fun k => fc k F.SEC_FLASHCMD_BUSY = 0 ∧ fc k F.SEC_FLASHCMD_RESULT = 0 ∧ k.mem = h.mem ∧
        ∀ a, k.flashByte fo.slot a = if fo.off ≤ a ∧ a < fo.off + fo.data.length then h.flashByte fo.slot a &&& fo.data.getD (a - fo.off) 0xFF else h.flashByte fo.slot a))) ∧
    (may .SEC_MEXT v → v.getLsbD 63 = true → mx h F.SEC_MEXT_BUSY = 0 →
      (¬ mayExt → Does s (.mregExtend who v) (fun k => mx k F.SEC_MEXT_RESULT = 1 ∧ k.boot = h.boot ∧ ∀ m < 16, k.mreg m = h.mreg m)) ∧
      (mayExt → h.agentRead who.part.val who.world mbuf 48 = none → Does s (.mregExtend who v) (fun k => mx k F.SEC_MEXT_RESULT = 2 ∧ k.boot = h.boot ∧ ∀ m < 16, k.mreg m = h.mreg m)) ∧
      (mayExt → nn < 16 → h.agentRead who.part.val who.world mbuf 48 = some bs → Does s (.mregExtend who v) (fun k => mx k F.SEC_MEXT_RESULT = 0 ∧ k.mreg nn = digestBytes (Config.sha384 (h.mreg nn ++ digestBytes (digestOf bs))) ∧ (∀ m < 16, m ≠ nn → k.mreg m = h.mreg m) ∧ k.mem = h.mem)))

/-- R587 to R597, R600, R605, R606: the meter's accounts, intervals, supply and seal. A sample adds V × I / 8,000 of energy to each channel, the part below 1 mJ carried on, and a compute die's to the account of its owner; past 480,000 samples the interval is closed first. A closed interval's record is signed and kept under its number, and the next one starts at the adjusted time. A change of owner is entered, and a ninth closes the interval. TRAFFIC splits a second's energy of the other channels by the second's weights, rounded down, the rest to account 0, and the next second's weights start at zero; late, all of it goes there. Without its supply the meter does nothing; what it interrupted is signed once it is back. An opened seal stops legal energy and is logged, as is its closing. Completes: meterSample, intervalClose, owner, ownerResend, traffic, trafficLate, meterSupplyLoss, meterSupplyRestore, sealOpen, sealClose. -/
def Obligations.MeterAccounts : Prop :=
  ∀ (s : State) (v : List (Nat × Nat)) (die : CDie) (o : PartId) (ms : W64) (ver : Nat) (mark : List Byte),
    let h := s.hw
    let m := h.meter
    let mv (c : Nat) := (v.getD c (0, 0)).1
    let ma (c : Nat) := (v.getD c (0, 0)).2
    let u (c : Nat) := look 0 m.frac c + mv c * ma c
    let owner (c : Nat) := if look 0 m.owners c ≤ 12 then look 0 m.owners c else 0
    let d := die.val + 1
    let chs := [0, 13, 14, 15, 16]
    let sum (l : List Nat) := l.foldl (· + ·) 0
    let all (k : Hw) := sum ((List.range 13).map (look 0 k.meter.info))
    let sec := sum (chs.map (look 0 m.secE))
    let clear (k : Hw) : Prop := k.meter.samples = 0 ∧ k.meter.chE = [] ∧ k.meter.legal = [] ∧ k.meter.info = [] ∧ k.meter.chg = [] ∧ k.meter.adj = 0
    let closed (k : Hw) : Prop := k.meter.rseq = m.rseq + 1 ∧ ∀ body, body = m.body (decide (m.samples < 480000)) → m.records.length < 1024 →
      look? k.meter.records m.rseq = some (body ++ padTo 96 (Config.meterSign (Config.sha384 body))) ∧ k.meter.prev = Config.sha384 (body ++ padTo 96 (Config.meterSign (Config.sha384 body)))
    let few : Prop := m.audit.length + 3 < 3686
    let w := (List.range 5).map h.weightsOf
    (m.on = false → exec .intervalClose s = .next s ∧ exec (.owner die o) s = .next s ∧ exec .meterSupplyLoss s = .next s ∧ exec .sealOpen s = .next s ∧ exec .sealClose s = .next s ∧
      exec (.meterSample v) s = .next s ∧ Does s .traffic (fun k => k.mtrx.weights = [] ∧ k.meter = m) ∧ Does s .trafficLate (fun k => k.mtrx.weights = [] ∧ k.meter = m)) ∧
    (m.on = true → m.installing = none → m.samples < 480000 → (∀ c < 17, 40000 ≤ mv c ∧ mv c ≤ 60000 ∧ 5 * ma c ≤ 6 * nominalMa c) → m.outOfRange = false → Does s (.meterSample v) (fun k => k.meter.samples = m.samples + 1 ∧ k.raises = h.raises ∧
      k.mem = h.mem ∧ k.meter.rseq = m.rseq ∧ k.meter.owners = m.owners ∧
      (∀ c < 17, look 0 k.meter.chE c = look 0 m.chE c + u c / 8000000 ∧ look 0 k.meter.frac c = u c % 8000000 ∧
        look 0 k.meter.chTot c = look 0 m.chTot c + (if m.sealOpen = false ∧ m.dead = false then u c / 8000000 else 0)) ∧
      (∀ a, look 0 k.meter.legal a = look 0 m.legal a + sum (((List.range 12).filter (fun i => owner (i + 1) == a)).map (fun i => u (i + 1) / 8000000))) ∧
      (∀ c ∈ chs, look 0 k.meter.secE c = look 0 m.secE c + u c / 8000000))) ∧
    (m.on = true → m.samples < 480000 → mv 3 < 40000 → m.outOfRange = false → Does s (.meterSample v) (fun k => k.meter.vrange = true ∧ k.meter.outOfRange = true ∧ ∃ e ∈ k.raises, e.source = 0x23B ∧ e.code = 6)) ∧
    (m.on = true → 480000 ≤ m.samples → Does s (.meterSample v) (fun k => k.meter.samples = 1 ∧ k.meter.rseq = m.rseq + 1)) ∧
    (m.on = true → m.installing = some (ver, mark) → few → Does s (.meterSample v) (fun k => k.meter.installing = none ∧ k.meter.fwVer = ver ∧ k.meter.audit.length = m.audit.length + 1)) ∧
    (m.on = true → Does s .intervalClose (fun k => closed k ∧ clear k ∧ k.meter.tStart = m.time ∧ k.meter.owners0 = m.owners ∧ k.meter.chTot = m.chTot ∧ k.mem = h.mem)) ∧
    (m.on = true → look 0 m.owners d = o.val → exec (.owner die o) s = .next s) ∧
    (m.on = true → look 0 m.owners d ≠ o.val → m.samples < 480000 → m.chg.length < 8 → Does s (.owner die o) (fun k => look 0 k.meter.owners d = o.val ∧ (∀ c, c ≠ d → look 0 k.meter.owners c = look 0 m.owners c) ∧
      k.meter.chg = m.chg ++ [(d, o.val, m.samples)] ∧ k.meter.rseq = m.rseq)) ∧
    (m.on = true → look 0 m.owners d ≠ o.val → 8 ≤ m.chg.length → Does s (.owner die o) (fun k => look 0 k.meter.owners d = o.val ∧ look 0 k.meter.owners0 d = o.val ∧ closed k ∧ clear k)) ∧
    (h.mtrx.ownerPend = [] → exec .ownerResend s = .next s) ∧
    (h.mtrx.ownerPend = [(d, o.val)] → h.torusTx = [] → Does s .ownerResend (fun k => k.mtrx.ownerPend = h.mtrx.ownerPend ∧ ∃ f, k.torusTx = [f] ∧ f.src = 5 ∧ f.dst = 19 ∧ f.payload = toBytes 1 0 ++ toBytes 1 d ++ toBytes 1 o.val)) ∧
    (m.on = true → Does s .traffic (fun k => k.mtrx.weights = [] ∧ k.meter.secE = [] ∧ all k = all h + sec ∧ k.meter.legal = m.legal ∧ k.meter.infoGap = m.infoGap ∧
      ∀ p, 1 ≤ p → p < 13 → look 0 k.meter.info p = look 0 m.info p + sum ((chs.zip w).map (fun q => look 0 m.secE q.1 * q.2.getD p 0 / sum q.2)))) ∧
    (m.on = true → Does s .trafficLate (fun k => k.mtrx.weights = [] ∧ k.meter.secE = [] ∧ k.meter.infoGap = true ∧ look 0 k.meter.info 0 = look 0 m.info 0 + sec ∧ (∀ p, p ≠ 0 → look 0 k.meter.info p = look 0 m.info p) ∧ k.meter.legal = m.legal)) ∧
    (m.on = true → Does s .meterSupplyLoss (fun k => k.meter.on = false ∧ k.meter.unsigned = some (m.body true) ∧ k.meter.records = m.records ∧ k.meter.chTot = m.chTot ∧ k.meter.fwBuf = [] ∧ k.mem = h.mem)) ∧
    (m.on = true → exec (.meterSupplyRestore ms) s = .next s) ∧
    (m.on = false → few → Does s (.meterSupplyRestore ms) (fun k => k.meter.on = true ∧ k.meter.powerRestored = true ∧ k.meter.tStart = ms.toNat ∧ clear k ∧ k.meter.unsigned = none ∧ k.meter.audit.length = m.audit.length + (if m.installing.isSome then 3 else 2) ∧ k.meter.installing = none ∧ k.meter.fwVer = m.fwVer ∧
      k.meter.rseq = (if m.unsigned.isSome then m.rseq + 1 else m.rseq) ∧ k.meter.chTot = m.chTot)) ∧
    (m.on = true → m.sealOpen = false → few → Does s .sealOpen (fun k => k.meter.sealOpen = true ∧ k.meter.legalOn = false ∧ closed k ∧ clear k ∧ k.meter.audit.length = m.audit.length + 1 ∧ k.fld .MTRX_STAT 0 0 0 F.MTRX_STAT_SEALED = 0 ∧
      ∃ e ∈ k.raises, e.source = 0x23B ∧ e.code = 2)) ∧
    (m.on = true → m.sealOpen = true → exec .sealOpen s = .next s) ∧
    (m.on = true → m.sealOpen = true → few → Does s .sealClose (fun k => k.meter.sealOpen = false ∧ clear k ∧ k.meter.rseq = m.rseq + 1 ∧ k.meter.audit.length = m.audit.length + 1 ∧ k.meter.dead = m.dead ∧ k.fld .MTRX_STAT 0 0 0 F.MTRX_STAT_SEALED = 1 ∧
      ∃ e ∈ k.raises, e.source = 0x23B ∧ e.code = 3)) ∧
    (m.on = true → m.sealOpen = false → exec .sealClose s = .next s)

/-- R597 to R599, R601 to R604, R606: the seal port and the hub's mailbox of the meter. Every command of the port is answered with its number and a status. A record, the newest record and a log entry are given when the meter has them. The time moves by at most 5 s either way in 24 h, from the next interval on. Calibration, firmware, address and verification are accepted while the seal is open alone, and logged; firmware that does not verify, or is older, is refused; other firmware is installed. A record that arrives goes into the ring when it is enabled and has room, with its event, and is counted as missed when it is full. A mailbox command sends its frame and sets BUSY; while BUSY is 1 another is discarded. Completes: ident, getrec, getlatest, getlog, sync, calwrite, fwload, fwcommit, setaddr, verify, meterRecordDelivery, mtrxIdent, resend, timemark. -/
def Obligations.SealPortAndMailbox : Prop :=
  ∀ (s : State) (who : Who) (rs : W64) (ix : BitVec 16) (adj off ver : BitVec 32) (data bs : List Byte) (addr : BitVec 8) (rq : BitVec 56) (q : List (List Byte)) (n : Nat),
    let h := s.hw
    let m := h.meter
    let reply (k : Hw) (cmd st : Nat) (p : List Byte) : Prop := k.meter.sealReply = sealFrame k.meter.busAddr cmd (toBytes 1 st ++ p)
    let same (k : Hw) : Prop := k.meter.records = m.records ∧ k.meter.audit = m.audit ∧ k.meter.fwVer = m.fwVer ∧ k.meter.cal = m.cal ∧ k.meter.rseq = m.rseq ∧ k.mem = h.mem
    let tells (i : Instr) (cmd st : Nat) (p : List Byte) : Prop := Does s i (fun k => reply k cmd st p ∧ same k)
    let recent := ((m.syncs.filter (fun e => decide (m.time < e.1 + 86400000))).map (·.2)).foldl (· + ·) 0
    let log (k : Hw) : Prop := k.meter.audit.length = m.audit.length + 1
    let few : Prop := m.audit.length + 1 < 3686
    let opens : List (Instr × Nat × Bool) := [(.calwrite data, 0x10, true), (.fwload off data, 0x11, false), (.fwcommit ver data, 0x12, true), (.setaddr addr, 0x13, true), (.verify data, 0x14, true)]
    let img := m.fwBuf.map (·.2)
    let cmd (k : Hw) (y : Fld) := k.fld .MTRX_CMD 0 0 0 y
    let ring (k : Hw) (y : Fld) := k.fld .MTRX_RING 0 0 0 y
    let ptr (k : Hw) (y : Fld) := k.fld .MTRX_RPTR 0 0 0 y
    let used := (ptr h F.MTRX_RPTR_WR + 65536 - ptr h F.MTRX_RPTR_RD) % 65536
    let slots := 16 * 2 ^ min 6 (ring h F.MTRX_RING_SIZE)
    let val (op arg : Nat) : W64 := BitVec.ofNat 64 (2 ^ 63 + op * 2 ^ 56 + arg)
    let may (op arg : Nat) : Prop := h.mayWrite (RegRef.at .MTRX_CMD 0) who (val op arg) = .ok
    let sends (i : Instr) (op arg : Nat) : Prop := (cmd h F.MTRX_CMD_BUSY = 1 → exec i s = .next s) ∧ (cmd h F.MTRX_CMD_BUSY = 0 → Does s i (fun k => cmd k F.MTRX_CMD_BUSY = 1 ∧ cmd k F.MTRX_CMD_OP = op ∧ k.mem = h.mem ∧
      k.torusTx.length = h.torusTx.length + 1 ∧ ∃ f ∈ k.torusTx, f.src = 5 ∧ f.dst = 19 ∧ f.payload = toBytes 1 2 ++ toBytes 1 op ++ toBytes 8 arg))
    (m.on = false → ∀ i ∈ [Instr.ident, .getrec rs, .getlatest, .getlog ix, .sync adj, .calwrite data, .fwload off data, .fwcommit ver data, .setaddr addr, .verify data], exec i s = .next s) ∧
    (m.on = true → tells .ident 1 0 m.identity ∧ (look? m.records rs.toNat = some bs → tells (.getrec rs) 2 0 bs) ∧ (look? m.records rs.toNat = none → tells (.getrec rs) 2 2 []) ∧
      (m.records.getLast? = some (n, bs) → tells .getlatest 3 0 bs) ∧ (m.records = [] → tells .getlatest 3 2 []) ∧ (m.audit[ix.toNat]? = some bs → tells (.getlog ix) 4 0 bs) ∧ (m.audit.length ≤ ix.toNat → tells (.getlog ix) 4 2 []) ∧
      (recent + adj.toInt < -5000 ∨ 5000 < recent + adj.toInt → tells (.sync adj) 5 4 []) ∧
      (-5000 ≤ recent + adj.toInt → recent + adj.toInt ≤ 5000 → few → Does s (.sync adj) (fun k => reply k 5 0 (toBytes 8 k.meter.time) ∧ k.meter.adj = m.adj + adj.toInt ∧ k.meter.timeAdj = true ∧ k.meter.tStart = m.tStart ∧ log k))) ∧
    (m.on = true → m.sealOpen = false → ∀ e ∈ opens, tells e.1 e.2.1 3 []) ∧
    (m.on = true → m.sealOpen = true → 4080 ≤ m.audit.length → data.length = 16 → 1 ≤ addr.toNat → addr.toNat ≤ 247 → ∀ e ∈ opens, e.2.2 = true → tells e.1 e.2.1 4 []) ∧
    (m.on = true → m.sealOpen = true → (512 < data.length → tells (.calwrite data) 0x10 1 []) ∧ (1020 < data.length → tells (.fwload off data) 0x11 1 []) ∧ (1024 < data.length → tells (.fwcommit ver data) 0x12 1 []) ∧
      (addr.toNat = 0 ∨ 247 < addr.toNat → tells (.setaddr addr) 0x13 1 []) ∧ (data.length ≠ 16 → tells (.verify data) 0x14 1 [])) ∧
    (m.on = true → m.sealOpen = true → few →
      (data.length ≤ 512 → Does s (.calwrite data) (fun k => k.meter.cal = data ∧ k.meter.calSeq = m.calSeq + 1 ∧ log k ∧ reply k 0x10 0 (toBytes 4 (m.calSeq + 1)))) ∧
      (data.length ≤ 1020 → Does s (.fwload off data) (fun k => reply k 0x11 0 [] ∧ same k ∧ ∀ a, look? k.meter.fwBuf a = if off.toNat ≤ a ∧ a < off.toNat + data.length then some (data.getD (a - off.toNat) 0) else look? m.fwBuf a)) ∧
      (data.length ≤ 1024 → Config.meterFwOk data img = true → m.fwVer ≤ ver.toNat → Does s (.fwcommit ver data) (fun k => k.meter.installing = some (ver.toNat, (digestBytes (Config.sha384 img)).take 16) ∧ k.meter.fwVer = m.fwVer ∧ k.meter.fwBuf = [] ∧ k.meter.audit = m.audit ∧ reply k 0x12 0 (toBytes 4 ver.toNat))) ∧
      (data.length ≤ 1024 → Config.meterFwOk data img = false ∨ ver.toNat < m.fwVer → Does s (.fwcommit ver data) (fun k => k.meter.fwVer = m.fwVer ∧ log k ∧ reply k 0x12 5 [] ∧ ∃ e ∈ k.raises, e.source = 0x23B ∧ e.code = 7)) ∧
      (1 ≤ addr.toNat → addr.toNat ≤ 247 → Does s (.setaddr addr) (fun k => k.meter.busAddr = addr.toNat ∧ log k ∧ reply k 0x13 0 [])) ∧
      (data.length = 16 → Does s (.verify data) (fun k => log k ∧ reply k 0x14 0 (toBytes 2 m.audit.length)))) ∧
    (m.outq = [] → exec .meterRecordDelivery s = .next s) ∧
    (m.outq = bs :: q → ring h F.MTRX_RING_EN = 0 → Does s .meterRecordDelivery (fun k => k.meter.outq = q ∧ k.mem = h.mem ∧ ptr k F.MTRX_RPTR_WR = ptr h F.MTRX_RPTR_WR)) ∧
    (m.outq = bs :: q → ring h F.MTRX_RING_EN = 1 → used = slots → Does s .meterRecordDelivery (fun k => k.meter.outq = q ∧ k.mem = h.mem ∧ ptr k F.MTRX_RPTR_WR = ptr h F.MTRX_RPTR_WR ∧
      k.fld .MTRX_STAT 0 0 0 F.MTRX_STAT_MISSED = min 0xFFFF (h.fld .MTRX_STAT 0 0 0 F.MTRX_STAT_MISSED + 1))) ∧
    (m.outq = bs :: q → ring h F.MTRX_RING_EN = 1 → used ≠ slots → Does s .meterRecordDelivery (fun k => k.meter.outq = q ∧ ptr k F.MTRX_RPTR_RD = ptr h F.MTRX_RPTR_RD ∧ ∃ e ∈ k.raises, e.source = 0x23A)) ∧
    (may 1 0 → sends (.mtrxIdent who) 1 0) ∧ (may 2 rq.toNat → sends (.resend who rq) 2 rq.toNat) ∧ (may 3 0 → sends (.timemark who) 3 h.now)

/-- R499, R623 to R627: fatal errors and lost dies. A partition-fatal error stops the partition's threads, which keep their state, and raises the notices; its reset is carried out at once, or held while a DUMPHOLD is in force; other partitions' threads are not affected. A package-fatal error resets the package. A lost compute die is fenced and offline, and its threads stop; for a partition that tolerates the loss and has a die left, the loss waits for its reports and the sweeps start; else it is partition fatal. A report takes the lowest free slot and raises the die's source; without a free slot it is held; the last one ends the loss. A lost port die is fenced, its ports are down, and each owner has the event. Completes: partitionFatal, packageFatal, dieLoss, dieLostReport, portDieLoss. -/
def Obligations.FatalErrorsAndDieLoss : Prop :=
  ∀ (s : State) (p : PartIx) (die : CDie) (pd : PDie) (kind : BitVec 8) (fin : Bool) (l : DieLoss) (d2 c : Nat) (bs : List Byte),
    let h := s.hw
    let d := die.val + 1
    let own := look 0 h.dieOwner d
    let pt := p.val + 1
    let hold (q : Nat) : Prop := has h.plat.dumphold q = true
    let plain : Prop := h.cfgState ≠ 4 ∧ (∀ t, (h.thread t).dev = none) ∧ (∀ n, look [] h.dpq n = []) ∧ h.treqs = [] ∧ h.run = [] ∧ (∀ n, look [] h.engq n = []) ∧ h.held = []
    let real : Prop := ∀ c ∈ h.sweepChannels own, c < 24
    let fresh : Prop := has h.partStopped pt = false
    let noteRoom : Prop := (h.fld .PMP_NOTE 0 0 0 F.PMP_NOTE_WR + 65536 - h.fld .PMP_NOTE 0 0 0 F.PMP_NOTE_RD) % 65536 ≠ 32
    let stops (k : Hw) (t : Nat) : Prop := (h.thread t).run = .running → k.thread t = { h.thread t with run := .offline }
    let slotAt (q n : Nat) := h.fld .EVR_RPTBASE 0 0 q F.EVR_RPTBASE_BASE * 65536 + 16384 * n
    let magic (n : Nat) := h.agentRead l.part false (slotAt l.part n) 4
    let event (k : Hw) : Prop := ∃ e ∈ k.raises, e.source = 16 * (d - 1) + 10 ∧ e.part = l.part
    let swept : Prop := ∀ c, c ∈ h.sweepChannels l.part → h.fld .MEMC_SCRUB 0 c 0 F.MEMC_SCRUB_SWEEP_BUSY = 0
    ((has h.partStopped pt = true → exec (.partitionFatal p die) s = .next s) ∧
      (fresh → plain → hold pt → Does s (.partitionFatal p die) (fun k => has k.partStopped pt = true ∧ has k.plat.resetHeld pt = true ∧ k.mem = h.mem ∧
        (∃ e ∈ k.raises, e.source = 0x23D ∧ e.part = pt) ∧ (∃ e ∈ k.raises, e.source = 16 * (d - 1) + 2 ∧ e.part = pt) ∧
        ∀ t, (h.partOf t = pt → stops k t) ∧ (h.partOf t ≠ pt → k.thread t = h.thread t))) ∧
      (fresh → plain → ¬ hold pt → Does s (.partitionFatal p die) (fun k => has k.partStopped pt = false ∧ has k.partUp pt = false ∧
        (∀ t, 1 ≤ dieOfThread t → dieOfThread t ≤ 12 → h.partOf t = pt → k.thread t = {})))) ∧
    (h.cfgState = 0 → Does s (.packageFatal kind) (fun k => k.mem = [] ∧ k.thr = [] ∧ k.committed = false ∧ k.now = 0 ∧ k.ao = h.ao ∧ k.boot.flash = h.boot.flash ∧ k.commit.bank0 = h.commit.bank0 ∧
      k.commit.bank1 = h.commit.bank1 ∧ k.meter = h.meter ∧ (noteRoom → 0x84 ∈ k.plat.ibis))) ∧
    (own = 0 → real → Does s (.dieLoss die) (fun k => (∀ i, k.fenced (.core d i) = true) ∧ k.reg .EVR_ONLINE 0 0 die.val = 0 ∧ k.losses = h.losses ∧ k.partStopped = h.partStopped ∧ (∃ e ∈ k.raises, e.source = 0x233 ∧ e.code = 0x46) ∧
      ∀ t, (dieOfThread t = d → stops k t) ∧ (dieOfThread t ≠ d → (k.thread t).run = (h.thread t).run))) ∧
    (own ≠ 0 → own ∈ h.commit.tolerant → 1 ≤ d2 → d2 ≤ 12 → d2 ≠ d → look 0 h.dieOwner d2 = own → h.fenced (.core d2 0) = false → real → Does s (.dieLoss die) (fun k => (∀ i, k.fenced (.core d i) = true) ∧ k.reg .EVR_ONLINE 0 0 die.val = 0 ∧
      k.losses = h.losses ++ [{ die := d, part := own, cause := h.linkFld (dieHp d) true F.SLINK_STAT_CAUSE, tick := h.aoTick, before := h.poison }] ∧ k.partStopped = h.partStopped ∧
      (c < 24 → c ∈ h.sweepChannels own → k.fld .MEMC_SCRUB 0 c 0 F.MEMC_SCRUB_SWEEP_BUSY = 1))) ∧
    (own ≠ 0 → own ≤ 12 → own ∉ h.commit.tolerant → has h.partStopped own = false → plain → hold own → real → Does s (.dieLoss die) (fun k => has k.partStopped own = true ∧ has k.plat.resetHeld own = true ∧ k.losses = h.losses)) ∧
    ((∀ x ∈ h.losses, x.die ≠ d) → exec (.dieLostReport die fin) s = .next s) ∧
    (h.losses = [l] → l.die = d → l.slot = none → (∀ n, n < 4 → ∀ x, magic n = some x → ofBytes x ≠ 0) → exec (.dieLostReport die fin) s = .next s) ∧
    (h.losses = [l] → l.die = d → l.slot = none → magic 0 = some bs → ofBytes bs = 0 → fin = false → Does s (.dieLostReport die fin) (fun k => event k ∧ k.losses = [{ l with slot := some 0, seq := l.seq + 1 }])) ∧
    (h.losses = [l] → l.die = d → l.slot = some c → fin = false ∨ ¬ swept → Does s (.dieLostReport die fin) (fun k => event k ∧ k.losses = [{ l with slot := some c, seq := l.seq + 1 }])) ∧
    (h.losses = [l] → l.die = d → l.slot = some c → fin = true → swept → Does s (.dieLostReport die fin) (fun k => event k ∧ k.losses = [])) ∧
    Does s (.portDieLoss pd) (fun k => k.partStopped = h.partStopped ∧ (∃ e ∈ k.raises, e.source = 0x233 ∧ e.code = 0x46) ∧ ∀ n, n / 16 = pd.val →
      k.fenced (.port n) = true ∧ has k.portUp n = false ∧ (look 0 h.portOwner n ≠ 0 → ∃ e ∈ k.raises, e.source = 0x23C ∧ e.part = look 0 h.portOwner n ∧ e.sev = 2))

/-- R629 to R634: live updates, calibration in service, and hot plug. A firmware switch, or a microcode load on an engine that is halted or idle, starts when an image is staged, and waits for the end of a secure piece; done, the controller runs the new bank or keeps the old one and takes its queued frames; a failed load keeps the microcode. An update verification is queued; done, its RESULT is written and the partition has its event, and an accepted Undercoat extends MREG02. A recalibration pass is put off during sparing; a failure gives RESULT 1 and an error. A sensor calibration is put off during a fast throttle; with every sensor failed a compute die is held at 1.2 GHz. A hot-plug event sets Slot Status and raises the port's source; the link of an owned port comes up with its device's capacity, and goes down without it. Completes: firmwareSwitch, firmwareSwitchDone, ucodeLoad, ucodeLoadDone, updateVerify, updateVerifyDone, ddrRecalibrationPass, sensorCalibration, hotPlugEvent. -/
def Obligations.LiveUpdatesAndCalibration : Prop :=
  ∀ (s : State) (who : Who) (dx : DieIx) (n : EngNum) (p : PartIx) (ty : BitVec 8) (ver : BitVec 32) (q : List (Nat × Nat)) (a b : Nat) (cmp : Comp) (ch : Fin 24) (loc : Bool × BitVec 2) (bad : BitVec 40) (port : PortNum) (bits : BitVec 16) (ident : Option Nat) (x : EngRun) (c r : Nat),
    let h := s.hw
    let d := dieId dx
    let fw (k : Hw) (y : Fld) := k.fld .DCTL_FW d 0 0 y
    let e := engPlace n.val
    let uc (k : Hw) (y : Fld) := k.fld .SKM_UCODE e.1 e.2 0 y
    let mine (f : TFrame) : Bool := decide (dieOfNode f.dst = some d)
    let quiet : Prop := h.engQuiet n.val = true
    let secret (x : EngRun) : Prop := (h.job x.piece.slot).world = true
    let own := p.val + 1
    let up (k : Hw) (i : Nat) (y : Fld) := k.fld .DCTL_UPD_CMD 0 0 (i - 1) y
    let val : W64 := BitVec.ofNat 64 (2 ^ 63 + ty.toNat * 2 ^ 40)
    let mayUpd : Prop := h.mayWrite (RegRef.at .DCTL_UPD_CMD 0 0 p.val) who val = .ok
    let h1 : Hw := { h with updq := q }
    let rc (k : Hw) (y : Fld) := k.fld .MEMC_RECAL 0 ch.val 0 y
    let due : Prop := rc h F.MEMC_RECAL_EN = 1 ∨ rc h F.MEMC_RECAL_BUSY = 1
    let sparing : Prop := h.fld .MEMC_SPARE 0 ch.val 0 F.MEMC_SPARE_BUSY = 1
    let size := 2 ^ (if dx.val = 0 then 40 else if dx.val ≤ 12 then 18 else 8)
    let failed (k : Hw) := k.fld .PWR_TCAL d 0 0 F.PWR_TCAL_FAILED
    let now := (failed h ||| bad.toNat) % size
    let owner := look 0 h.portOwner port.val
    let stat := look 0 h.plat.slotStat port.val ||| bits.toNat
    let plug (u w : Bool) (P : Hw → Prop) : Prop := Does s (.hotPlugEvent port bits u w ident) (fun k => look 0 k.plat.slotStat port.val = stat ∧ P k ∧ ∃ e ∈ k.raises, e.source = 0x1C8 + port.val ∧ e.part = owner)
    (d = 0 → Does s (.firmwareSwitch who dx) (fun k => k.fwSwitch = h.fwSwitch ∧ k.mem = h.mem ∧ ∃ e ∈ k.raises, e.source = 0x233 ∧ e.code = 0x29)) ∧
    (d ≠ 0 → h.mayWrite (RegRef.at .DCTL_FW d) who 1 = .ok →
      (fw h F.DCTL_FW_STATE = 1 → Does s (.firmwareSwitch who dx) (fun k => fw k F.DCTL_FW_STATE = 2 ∧ has k.fwSwitch d = true ∧ fw k F.DCTL_FW_BANK = fw h F.DCTL_FW_BANK ∧ fw k F.DCTL_FW_VERSION = fw h F.DCTL_FW_VERSION ∧ k.thr = h.thr)) ∧
      (fw h F.DCTL_FW_STATE ≠ 1 → Does s (.firmwareSwitch who dx) (fun k => fw k F.DCTL_FW_STATE = fw h F.DCTL_FW_STATE ∧ k.fwSwitch = h.fwSwitch))) ∧
    (has h.fwSwitch d = false → ∀ ok, exec (.firmwareSwitchDone dx ok ver) s = .next s) ∧
    (d ≠ 0 → has h.fwSwitch d = true →
      Does s (.firmwareSwitchDone dx true ver) (fun k => fw k F.DCTL_FW_STATE = 0 ∧ fw k F.DCTL_FW_BANK = 1 - fw h F.DCTL_FW_BANK ∧ fw k F.DCTL_FW_VERSION = ver.toNat ∧ has k.fwSwitch d = false ∧ k.torusHeld = h.torusHeld.filter (fun f => !mine f) ∧ k.thr = h.thr) ∧
      Does s (.firmwareSwitchDone dx false ver) (fun k => fw k F.DCTL_FW_STATE = 3 ∧ fw k F.DCTL_FW_BANK = fw h F.DCTL_FW_BANK ∧ fw k F.DCTL_FW_VERSION = fw h F.DCTL_FW_VERSION ∧ has k.fwSwitch d = false ∧ k.torusHeld = h.torusHeld.filter (fun f => !mine f))) ∧
    (h.mayWrite (RegRef.at .SKM_UCODE e.1 e.2) who 0x10000 = .ok →
      (uc h F.SKM_UCODE_STATE = 1 → quiet → Does s (.ucodeLoad who n) (fun k => uc k F.SKM_UCODE_STATE = 2 ∧ uc k F.SKM_UCODE_VERSION = uc h F.SKM_UCODE_VERSION ∧ k.run = h.run)) ∧
      (uc h F.SKM_UCODE_STATE = 1 → ¬ quiet → h.fenced (.eng n.val) = false → look? h.run n.val = some x → secret x → Does s (.ucodeLoad who n) (fun k => uc k F.SKM_UCODE_STATE = 1 ∧ look? k.run n.val = some { x with ucode := true })) ∧
      (uc h F.SKM_UCODE_STATE ≠ 1 ∨ ¬ quiet ∧ (∀ x, look? h.run n.val = some x → ¬ secret x) → Does s (.ucodeLoad who n) (fun k => uc k F.SKM_UCODE_STATE = uc h F.SKM_UCODE_STATE ∧ k.run = h.run))) ∧
    (uc h F.SKM_UCODE_STATE ≠ 2 → ∀ ok, exec (.ucodeLoadDone n ok ver) s = .next s) ∧
    (uc h F.SKM_UCODE_STATE = 2 → Does s (.ucodeLoadDone n true ver) (fun k => uc k F.SKM_UCODE_STATE = 0 ∧ uc k F.SKM_UCODE_VERSION = ver.toNat ∧ k.run = h.run) ∧
      Does s (.ucodeLoadDone n false ver) (fun k => uc k F.SKM_UCODE_STATE = 3 ∧ uc k F.SKM_UCODE_VERSION = uc h F.SKM_UCODE_VERSION ∧ k.run = h.run)) ∧
    (mayUpd → (up h own F.DCTL_UPD_CMD_BUSY = 0 → Does s (.updateVerify who p ty) (fun k => k.updq = h.updq ++ [(own, ty.toNat)] ∧ up k own F.DCTL_UPD_CMD_BUSY = 1 ∧ k.mem = h.mem)) ∧
      (up h own F.DCTL_UPD_CMD_BUSY = 1 → Does s (.updateVerify who p ty) (fun k => k.updq = h.updq ∧ up k own F.DCTL_UPD_CMD_BUSY = 1 ∧ k.mem = h.mem))) ∧
    (h.updq = [] → exec .updateVerifyDone s = .next s) ∧
    (h.updq = (a, b) :: q → 1 ≤ a → a ≤ 12 → b ≠ 3 → b ≠ 7 → Does s .updateVerifyDone (fun k => k.updq = q ∧ up k a F.DCTL_UPD_CMD_BUSY = 0 ∧ up k a F.DCTL_UPD_CMD_RESULT = 0x0B ∧ k.boot.mlog = h.boot.mlog ∧ ∃ e ∈ k.raises, e.source = 0x23E ∧ e.part = a)) ∧
    (h.updq = (a, 3) :: q → 1 ≤ a → a ≤ 12 → h1.updCheck a 3 = .ok cmp → Does s .updateVerifyDone (fun k => k.updq = q ∧ up k a F.DCTL_UPD_CMD_BUSY = 0 ∧ up k a F.DCTL_UPD_CMD_RESULT = 0 ∧ k.mreg 2 = digestBytes (Config.sha384 (h.mreg 2 ++ digestBytes cmp.digest)) ∧
      ∃ e ∈ k.raises, e.source = 0x23E ∧ e.part = a)) ∧
    (¬ due → exec (.ddrRecalibrationPass ch (some loc)) s = .next s ∧ exec (.ddrRecalibrationPass ch none) s = .next s) ∧
    (due → sparing → Does s (.ddrRecalibrationPass ch none) (fun k => rc k F.MEMC_RECAL_RESULT = 2 ∧ rc k F.MEMC_RECAL_BUSY = rc h F.MEMC_RECAL_BUSY ∧ k.raises = h.raises)) ∧
    (due → ¬ sparing → Does s (.ddrRecalibrationPass ch none) (fun k => rc k F.MEMC_RECAL_RESULT = 0 ∧ rc k F.MEMC_RECAL_BUSY = 0 ∧ k.raises = h.raises ∧ k.mem = h.mem) ∧
      Does s (.ddrRecalibrationPass ch (some loc)) (fun k => rc k F.MEMC_RECAL_RESULT = 1 ∧ rc k F.MEMC_RECAL_BUSY = 0 ∧ k.mem = h.mem ∧ ∃ e ∈ k.raises, e.source = 0x100 + 2 * ch.val ∧ e.code = 0x10)) ∧
    (h.fld .PWR_THERM d 0 0 F.PWR_THERM_FAST_THR = 1 → exec (.sensorCalibration dx bad) s = .next s) ∧
    (h.fld .PWR_THERM d 0 0 F.PWR_THERM_FAST_THR = 0 → Does s (.sensorCalibration dx bad) (fun k => failed k = now ∧ k.thr = h.thr ∧
      (now + 1 ≠ size → k.raises = h.raises) ∧ (now + 1 = size → 1 ≤ dx.val → dx.val ≤ 12 → ∀ c, c < 2 → k.fld .CLK_CLUSTER d 0 c F.CLK_CLUSTER_FCEIL = 12))) ∧
    plug false false (fun k => k.portUp = h.portUp ∧ k.cap = h.cap) ∧ (owner = 0 → plug true false (fun k => k.portUp = h.portUp ∧ k.cap = h.cap)) ∧
    (owner ≠ 0 → plug true false (fun k => has k.portUp port.val = true ∧ (∀ m, m ≠ port.val → look? k.cap (100 + m) = look? h.cap (100 + m)) ∧
      (ident = some c → h.portReport port.val = some r → look? k.cap (100 + port.val) = if c < r then none else some (min r (2048 * h.groupSize port.val))))) ∧
    (∀ u, plug u true (fun k => has k.portUp port.val = false ∧ look [] k.dpq port.val = [] ∧ look? k.cap (100 + port.val) = none))

/-- R206 to R209, R263, R265, R617: a request of a device, within one page, is translated by the port XTL for the partition of its port. With a PASID, or without a device entry, it is refused and recorded, and a read or an AtomicOp completes with Unsupported Request; with the port down or unowned nothing happens. Translated to memory, a read becomes an RDC, a write a WRF for a whole line or a WRP for a part, an AtomicOp an RDO; to another port of the partition it goes on, to another partition's it is recorded as code 0x28. Completes: deviceDmaRequest. -/
def Obligations.DeviceRequestResults : Prop :=
  ∀ (s : State) (port : PortNum) (rid : BitVec 16) (va : W64) (op : DmaOp) (h0 h1 h2 : Hw) (cause pa len : Nat) (x : Ctx) (tf : TF) (rel wide : Bool) (data : List Byte) (kind : Fin 3) (a b : W64),
    let h := s.hw
    let n := port.val
    let part := look 0 h.portOwner n
    let sz := if wide then 8 else 4
    let id := rid.toNat
    let acts (o : DmaOp) : Prop := has h.portUp n = true ∧ part ≠ 0 ∧ dmaFormed va.toNat o = true
    let cmd (o : DmaOp) (pasid : Bool) : Instr := .deviceDmaRequest port rid va pasid o
    let isWrite : Prop := ∃ r d, op = .write r d
    let ur : DmaCpl := { rid := id, va := va, ur := true }
    let refused (h k : Hw) : Prop := k.mem = h.mem ∧ k.msgs = h.msgs ∧ (∃ e ∈ k.raises, e.source = 0x208 + n / 16 ∧ e.part = part ∧ e.sev = 2) ∧ (isWrite → k.dmaCpls = h.dmaCpls) ∧
      (¬ isWrite → look [] k.dmaCpls n = look [] h.dmaCpls n ++ [ur])
    let maps (o : DmaOp) : Prop := acts o ∧ h.deviceCtx n id part = .ok (h0, x) ∧ h0.xtlTranslate (0x10 + n / 16) x va (if dmaWrites o then .store else .load) = .ok (h1, pa)
    let inMem : Prop := paRange pa = .near ∨ paRange pa = .far
    let line : Prop := pa % 64 + len ≤ 64
    let wr : DmaOp := .write rel data
    let at6 : DmaOp := .atomic wide kind a b
    let req (o : MsgOp) (tag : Nat) : Msg := { op := o, addr := pa / 64, agent := .port n, part := part, info := tag }
    let posted : Hw := { h1 with pwr := put h1.pwr n (look [] h1.pwr n ++ [{ line := pa / 64, relaxed := rel, rid := id, va := va }]) }
    let tag := if rel then 7 else 6
    (¬ acts op → ∀ y, exec (cmd op y) s = .next s) ∧
    (acts op → Does s (cmd op true) (refused h)) ∧
    (acts op → h.deviceCtx n id part = .error (h1, cause) → Does s (cmd op false) (refused h1)) ∧
    (acts op → h.deviceCtx n id part = .ok (h0, x) → h0.xtlTranslate (0x10 + n / 16) x va (if dmaWrites op then .store else .load) = .error (h2, tf) → Does s (cmd op false) (refused h2)) ∧
    (maps (.read len) → inMem → line → Does s (cmd (.read len) false) (fun k =>
      k = ({ h1 with prd := put h1.prd n (look [] h1.prd n ++ [{ rid := id, va := va, lines := [pa / 64] }]) } : Hw).send (req .RDC 4))) ∧
    (maps wr → inMem → data.length = len → line → len < 64 → Does s (cmd wr false) (fun k => k = posted.send { req .WRP tag with data := ofBytes data * 2 ^ (8 * (pa % 64)), mask := (2 ^ len - 1) * 2 ^ (pa % 64) })) ∧
    (maps wr → inMem → data.length = 64 → pa % 64 = 0 → Does s (cmd wr false) (fun k => k = posted.send { req .WRF tag with data := ofBytes data, mask := 2 ^ 64 - 1 })) ∧
    (maps at6 → inMem → Does s (cmd at6 false) (fun k =>
      k = ({ h1 with patom := put h1.patom n (look [] h1.patom n ++ [{ addr := pa, size := sz, kind := kind.val, a := a.toNat, b := b.toNat, rid := id, va := va }]) } : Hw).send (req .RDO 5))) ∧
    (maps op → paRange pa = .mmio → look 0 h1.portOwner (portOfPa pa) ≠ part → Does s (cmd op false) (fun k => refused h1 k ∧ ∃ e ∈ k.raises, e.source = 0x20C + portOfPa pa / 16 ∧ e.code = 0x28)) ∧
    (maps wr → paRange pa = .mmio → look 0 h1.portOwner (portOfPa pa) = part → h1.joinedOther (portOfPa pa) = false → isConfig pa = false → Does s (cmd wr false) (fun k => k = h1.sendTlp pa true true data.length data)) ∧
    (maps op → paRange pa = .none ∨ paRange pa = .window → Does s (cmd op false) (refused h1)) ∧
    (maps wr → paRange pa = .message → look [] h1.pwr n = [] → msgCheck part false pa data.length (BitVec.ofNat 64 (ofBytes (data.take 8))) = none →
      Does s (cmd wr false) (fun k => k = h1.msgRaise part (BitVec.ofNat 64 (ofBytes (data.take 8)))))

/-- R637, R640 to R649: requests of the platform controller. While BUSY a request is discarded and counted; a repetition of the last one is answered again; a request that fails a check of R642 is answered with its STATUS and ARG, and does nothing else; else it takes effect and is answered with STATUS 0. BOARD and LIMITS set the supply and cooling limits; DIMM, PORTS and PARTREQ keep what they report; HEALTH is answered in every PHASE; SLOTEVT sets the port's Slot Status and raises its source; a second DUMPHOLD releases the first, and a held reset is then carried out. LAST ends the inventory, or has the missing parts named. Slot Control is passed on for a port with a slot, and its answer is awaited for 1 s. Completes: board, dimm, ports, partreq, limits, health, slotevt, dumphold, slotControlWrite, slotctlTimeout. -/
def Obligations.PlatformRequestResults : Prop :=
  ∀ (s : State) (r : PmpReq) (port : PortNum) (v : BitVec 16) (m : Nat),
    let h := s.hw
    let p := r.payload
    let up : Prop := has h.groupOff 0 = false ∧ h.plat.resetLow = false
    let busy := h.fld .PMP_REQ 0 0 0 F.PMP_REQ_BUSY
    let ph := h.fld .PMP_STATE 0 0 0 F.PMP_STATE_PHASE
    let fits : Prop := p.length ≤ 4080
    let repeats (ty : Nat) : Prop := h.plat.lastRsp = some (ty, r.seq.toNat)
    let posted (ty : Nat) : Prop := up ∧ busy = 0 ∧ ¬ repeats ty ∧ fits
    let ready (ty : Nat) : Prop := posted ty ∧ r.flags = 0 ∧ r.zero = 0
    let replies (k : Hw) (ty st arg : Nat) (bs : List Byte) : Prop := k.plat.rspBuf = pmpHeader ty 0 bs.length r.seq.toNat st arg ++ bs ∧ k.fld .PMP_RSP 0 0 0 F.PMP_RSP_DONE = 1 ∧ k.fld .PMP_RSP 0 0 0 F.PMP_RSP_STATUS = st ∧
      k.fld .PMP_RSP 0 0 0 F.PMP_RSP_SEQ = r.seq.toNat ∧ k.fld .PMP_REQ 0 0 0 F.PMP_REQ_BUSY = 0
    let kept (k : Hw) : Prop := k.mem = h.mem ∧ k.supplyW = h.supplyW ∧ k.plat.board = h.plat.board ∧ k.plat.dimmSeen = h.plat.dimmSeen ∧ k.plat.ports = h.plat.ports ∧ k.plat.partreq = h.plat.partreq ∧
      k.plat.slotStat = h.plat.slotStat ∧ k.plat.dumphold = h.plat.dumphold ∧ k.plat.image = h.plat.image ∧ k.thr = h.thr
    let all : List (Nat × Instr × List Nat) := [(1, .board r, [1, 2]), (2, .dimm r, [1, 2]), (3, .ports r, [1, 2]), (4, .partreq r, [1, 2]), (5, .limits r, [2, 5]), (7, .slotevt r, [2, 5]), (11, .dumphold r, [2])]
    let fails (ty : Nat) (i : Instr) (st arg : Nat) : Prop := Does s i (fun k => replies k ty st arg [] ∧ kept k)
    let w (i n : Nat) := dsc p i n
    let limits (sup cool t : Nat) : Prop := 486 ≤ w sup 2 ∧ 448 ≤ w cool 2 ∧ 5 ≤ w t 1 ∧ w t 1 ≤ 45
    let takes (k : Hw) (sup cool t : Nat) : Prop := k.supplyW = some (w sup 2) ∧ k.coolW = some (w cool 2) ∧ k.plat.coolantC = w t 1 ∧ k.mem = h.mem ∧ k.thr = h.thr ∧
      (40 * 10 ≤ h.fld .PWR_PKGLIM 0 0 0 F.PWR_PKGLIM_VIN_DV → k.fld .PWR_PKGLIM 0 0 0 F.PWR_PKGLIM_EFF_W = min (min (min 820 (h.fld .PWR_PKGLIM 0 0 0 F.PWR_PKGLIM_LIMIT_W)) (w sup 2 * 922 / 1000)) (min (w cool 2) 820))
    let boardForm : Prop := ready 1 ∧ p.length = 32 ∧ r.arg = 0 ∧ zeroAt p 11 5 = true ∧ zeroAt p 24 8 = true
    let boardOk : Prop := boardForm ∧ 4800 ≤ w 0 2 ∧ w 0 2 ≤ 8800 ∧ w 2 1 ≤ 2 ∧ w 3 1 ≤ 1 ∧ limits 4 8 10
    let noLast : Prop := r.last = false
    let pos := 2 * w 0 1 + w 1 1
    let slot := w 0 1
    let bit := if w 1 1 = 3 then 1 else if w 1 1 = 4 then 2 else if w 1 1 ≤ 2 then 8 else 16
    let target := r.arg.toNat
    let n := port.val
    let x := v.toNat
    let dsts := look 0 h.plat.slotStat n
    (∀ e ∈ all, fits → ¬ up → exec e.2.1 s = .next s) ∧
    (∀ e ∈ all, fits → up → busy = 1 → Does s e.2.1 (fun k => k.plat.rspBuf = h.plat.rspBuf ∧ kept k ∧ k.fld .PMP_REQ 0 0 0 F.PMP_REQ_DISC = min 0xFFFF (h.fld .PMP_REQ 0 0 0 F.PMP_REQ_DISC + 1))) ∧
    (∀ e ∈ all, fits → up → busy = 0 → repeats e.1 → Does s e.2.1 (fun k => k.plat.rspBuf = h.plat.rspBuf ∧ kept k ∧ k.fld .PMP_RSP 0 0 0 F.PMP_RSP_DONE = 1 ∧ k.fld .PMP_RSP 0 0 0 F.PMP_RSP_SEQ = r.seq.toNat)) ∧
    (∀ e ∈ all, posted e.1 → ph ∉ e.2.2 → fails e.1 e.2.1 3 ph) ∧
    (∀ e ∈ all, posted e.1 → ph ∈ e.2.2 → r.flags ≠ 0 → fails e.1 e.2.1 1 1) ∧
    (ph ∈ [1, 2] → (ready 1 → p.length ≠ 32 → fails 1 (.board r) 1 2) ∧ (boardForm → w 0 2 < 4800 ∨ 8800 < w 0 2 → fails 1 (.board r) 4 16) ∧
      (ready 1 → p.length = 32 → r.arg ≠ 0 → fails 1 (.board r) 1 8) ∧ (ready 2 → p.length ≠ 1040 * target → fails 2 (.dimm r) 1 2) ∧ (ready 3 → p.length ≠ 32 * target → fails 3 (.ports r) 1 2) ∧ (ready 4 → p.length ≠ 16 * target → fails 4 (.partreq r) 1 2)) ∧
    (boardOk → noLast → ph ∈ [1, 2] → Does s (.board r) (fun k => replies k 1 0 0 [] ∧ takes k 4 8 10 ∧ k.plat.boardSeen = true ∧ (ph = 1 → k.plat.board = p))) ∧
    (boardOk → r.last = true → ph ∈ [1, 2] → ((∀ i, i < 48 → has h.plat.dimmSeen i = true) → Does s (.board r) (fun k => replies k 1 0 0 [] ∧ k.plat.invDone = true)) ∧
      (m < 48 → (∀ i, i < 48 → (has h.plat.dimmSeen i = true ↔ i ≠ m)) → Does s (.board r) (fun k => replies k 1 7 (2 ^ m) [] ∧ k.plat.invDone = h.plat.invDone))) ∧
    (ready 2 → noLast → ph ∈ [1, 2] → r.arg = 1 → p.length = 1040 → zeroAt p 3 13 = true → w 0 1 ≤ 23 → w 1 1 ≤ 1 → w 2 1 = 1 → Does s (.dimm r) (fun k => replies k 2 0 0 [] ∧ has k.plat.dimmSeen pos = true ∧ look? k.plat.spd pos = some (slice p 16 1024) ∧
      ∀ i, i ≠ pos → look? k.plat.spd i = look? h.plat.spd i ∧ has k.plat.dimmSeen i = has h.plat.dimmSeen i)) ∧
    (ready 3 → noLast → ph ∈ [1, 2] → r.arg = 1 → p.length = 32 → zeroAt p 3 1 = true → w 2 1 = 1 ∨ zeroAt p 4 4 = true → zeroAt p 8 24 = true → w 0 1 ≤ 63 → w 1 1 ≤ 2 → w 2 1 ≤ 3 → Does s (.ports r) (fun k => replies k 3 0 0 [] ∧
      k.plat.ports = h.plat.ports.filter (fun q => !(q.1 == w 0 1)) ++ [(w 0 1, w 1 1, w 2 1, w 4 4)])) ∧
    (ready 4 → noLast → ph ∈ [1, 2] → r.arg = 0 → p = [] → Does s (.partreq r) (fun k => replies k 4 0 0 [] ∧ k.plat.partreq = none)) ∧
    (ready 4 → noLast → ph = 2 → h.authority ≠ 0 → r.arg = 1 → p.length = 16 → w 1 1 ≤ 1 → 1 ≤ w 0 1 → w 0 1 ≤ 12 → w 2 2 % 2 = 0 → w 2 2 ≤ 0x1FFF → Does s (.partreq r) (fun k => replies k 4 0 0 [] ∧
      k.plat.partreq = some [⟨w 0 1, decide (w 1 1 = 1), w 2 2, w 4 4, w 8 8⟩] ∧ ∃ e ∈ k.raises, e.source = 0x2A0 + 8 * (h.authority - 1) ∧ e.part = h.authority)) ∧
    (ready 5 → noLast → ph ∈ [2, 5] → p.length = 8 → r.arg = 0 → zeroAt p 5 3 = true → limits 0 2 4 → Does s (.limits r) (fun k => replies k 5 0 0 [] ∧ takes k 0 2 4 ∧ k.plat.board = h.plat.board)) ∧
    (ready 6 → p = [] → r.arg = 0 → Does s (.health r) (fun k => ∃ bs, replies k 6 0 0 bs ∧ bs.length = 64 ∧ bs.take 16 = toBytes 8 (h.reg .SEC_BOOTSTAT 0 0 0).toNat ++ toBytes 8 (h.reg .CFG_STAT 0 0 0).toNat ∧ kept k)) ∧
    (ready 7 → noLast → ph ∈ [2, 5] → p.length = 8 → r.arg = 0 → zeroAt p 2 6 = true → slot ≤ 63 → (dsc h.plat.board 16 8).testBit slot = true → 1 ≤ w 1 1 → w 1 1 ≤ 6 → Does s (.slotevt r) (fun k => replies k 7 0 0 [] ∧
      look 0 k.plat.slotStat slot = look 0 h.plat.slotStat slot ||| bit ∧ (w 1 1 = 2 → look [] k.dpq slot = []) ∧ ∃ e ∈ k.raises, e.source = 0x1C8 + slot ∧ e.part = look 0 h.portOwner slot)) ∧
    (ready 11 → noLast → ph = 2 → p = [] → target = 0 ∨ 12 < target → fails 11 (.dumphold r) 4 8) ∧
    (ready 11 → noLast → ph = 2 → p = [] → 1 ≤ target → target ≤ 12 →
      (has h.plat.dumphold target = false → Does s (.dumphold r) (fun k => replies k 11 0 0 [] ∧ has k.plat.dumphold target = true ∧ k.thr = h.thr)) ∧
      (has h.plat.dumphold target = true → Does s (.dumphold r) (fun k => replies k 11 0 0 [] ∧ has k.plat.dumphold target = false ∧ has k.plat.resetHeld target = false ∧ (has h.plat.resetHeld target = false → k.thr = h.thr) ∧
        (has h.plat.resetHeld target = true → h.cfgState ≠ 4 → ∀ t, 1 ≤ dieOfThread t → dieOfThread t ≤ 12 → h.partOf t = target → k.thread t = {})))) ∧
    Does s (.slotControlWrite port v) (fun k => look 0 k.plat.slotCtl n = x ∧ k.mem = h.mem ∧
      ((dsc h.plat.board 16 8).testBit n = true → (n, !x.testBit 10) ∈ k.plat.slotWait) ∧ ((dsc h.plat.board 16 8).testBit n = false → k.plat.slotWait = h.plat.slotWait ∧ k.plat.msis = h.plat.msis)) ∧
    ((∀ e ∈ h.plat.slotWait, e.1 ≠ n) → exec (.slotctlTimeout port) s = .next s) ∧
    ((∃ e ∈ h.plat.slotWait, e.1 = n) → Does s (.slotctlTimeout port) (fun k => (∀ e ∈ k.plat.slotWait, e.1 ≠ n) ∧ look 0 k.plat.slotStat n = dsts ||| 2 ∧ ∃ e ∈ k.raises, e.source = 0x20C + n / 16 ∧ e.code = 0x30))

/-- R579, R637, R642, R653 to R657: images, wakes and the I3C target. IMAGE_BEGIN opens a sequence in the PHASE of its purpose, abandons an open one, and in recovery erases the target's commit sector. A block out of its order is refused, one that fails its checks ends the sequence with STATUS 5 and its REASON, and an accepted one is kept. IMAGE_END needs every block; in recovery the boot starts again, at run time the sequence ends with its components staged. Only the wake pattern, and only in PHASE 5, ends deep idle. The target answers with its status block, and keeps its dynamic address. Completes: imageBegin, imageBlock, imageEnd, wakePattern, i3cWake, statusBlockRead, dynamicAddressAssignment. -/
def Obligations.ImageAndWakeResults : Prop :=
  ∀ (s : State) (r : PmpReq) (b : List Byte) (q : ImgSeq) (v : BitVec 32) (data : List Byte) (ad : BitVec 7) (a c k0 : Nat) (cm : Comp),
    let h := s.hw
    let up : Prop := has h.groupOff 0 = false ∧ h.plat.resetLow = false
    let ph := h.fld .PMP_STATE 0 0 0 F.PMP_STATE_PHASE
    let ready (ty : Nat) : Prop := up ∧ h.fld .PMP_REQ 0 0 0 F.PMP_REQ_BUSY = 0 ∧ h.plat.lastRsp ≠ some (ty, r.seq.toNat) ∧ r.payload = [] ∧ r.last = false ∧ r.flags = 0 ∧ r.zero = 0
    let replies (k : Hw) (ty st arg : Nat) : Prop := k.plat.rspBuf = pmpHeader ty 0 0 r.seq.toNat st arg ∧ k.fld .PMP_RSP 0 0 0 F.PMP_RSP_STATUS = st ∧ k.fld .PMP_RSP 0 0 0 F.PMP_RSP_SEQ = r.seq.toNat ∧ k.fld .PMP_REQ 0 0 0 F.PMP_REQ_BUSY = 0
    let purpose := wbits r.arg 7 0
    let beginOk : Prop := ready 8 ∧ wbits r.arg 15 8 = 0 ∧ wbits r.arg 63 32 = 0
    let opened (k : Hw) : Prop := k.plat.image = some { purpose := purpose, blocks := wbits r.arg 31 16, next := 0x10000 }
    let sec := h.boot.target.getD 0 * 2 ^ 32
    let off := wbits r.arg 31 0
    let n := wbits r.arg 63 32
    let open1 : Prop := h.plat.image = some q
    let phOk : Prop := ph = (if q.purpose = 0 then 3 else 2)
    let blockOk : Prop := ready 9 ∧ 1 ≤ n ∧ n ≤ 65536 ∧ b.length = 65536
    let bs := b.take n
    let q1 : ImgSeq := { q with data := put q.data off bs, count := q.count + 1 }
    let mf := q1.manifest
    let awake (i : Instr) (good : Prop) : Prop := (¬ good ∨ ph ≠ 5 → exec i s = .next s) ∧
      (good → ph = 5 → h.deepIdle = true → Does s i (fun k => k.deepIdle = false ∧ k.fld .PMP_STATE 0 0 0 F.PMP_STATE_PHASE = 2 ∧ k.mem = h.mem ∧ k.thr = h.thr ∧ (h.wakeOnExit = [] → k.wakeDue = []) ∧
        (wbits (h.reg .PWR_WAKE_LAST 0 0 0) 47 0 ≠ h.aoTick → k.fld .PWR_WAKE_LAST 0 0 0 F.PWR_WAKE_LAST_SRC = 4)))
    (beginOk → 1 < purpose → Does s (.imageBegin r) (fun k => replies k 8 4 8 ∧ k.plat.image = h.plat.image ∧ k.boot = h.boot)) ∧
    (beginOk → purpose ≤ 1 → ph ≠ (if purpose = 0 then 3 else 2) → Does s (.imageBegin r) (fun k => replies k 8 3 ph ∧ k.plat.image = h.plat.image ∧ k.boot = h.boot)) ∧
    (beginOk → purpose = 0 → ph = 3 → Does s (.imageBegin r) (fun k => replies k 8 0 0 ∧ opened k ∧ look 0xFF k.boot.flash a = if sec ≤ a ∧ a < sec + 65536 then 0xFF else look 0xFF h.boot.flash a)) ∧
    (beginOk → purpose = 1 → ph = 2 → Does s (.imageBegin r) (fun k => replies k 8 0 0 ∧ opened k ∧ k.boot = h.boot)) ∧
    (blockOk → h.plat.image = none → ph = 2 ∨ ph = 3 → Does s (.imageBlock r b) (fun k => replies k 9 1 8 ∧ k.plat.image = none ∧ k.boot = h.boot)) ∧
    (blockOk → open1 → phOk → q.next = 0 ∨ off ≠ q.next → Does s (.imageBlock r b) (fun k => replies k 9 1 8 ∧ k.plat.image = some q ∧ k.boot = h.boot)) ∧
    (blockOk → open1 → phOk → off = q.next → off < 0x50000 → off ≠ 0 → 0x40000 < q1.mlen → Does s (.imageBlock r b) (fun k => replies k 9 5 2 ∧ k.plat.image = none ∧ k.boot = h.boot)) ∧
    (blockOk → open1 → phOk → off = q.next → off < 0x50000 → off ≠ 0 → q1.mlen ≤ 0x40000 → off + 65536 < 0x10000 + q1.mlen → Does s (.imageBlock r b) (fun k => replies k 9 0 0 ∧ k.plat.image = some { q1 with next := off + 65536 })) ∧
    (blockOk → open1 → phOk → off = q.next → 0x50000 ≤ off → (∀ e ∈ compBlocks mf, e.1 ≠ off) → Does s (.imageBlock r b) (fun k => replies k 9 5 9 ∧ k.plat.image = none ∧ k.boot = h.boot)) ∧
    (blockOk → open1 → phOk → off = q.next → 0x50000 ≤ off → q.purpose = 1 → (compBlocks mf).find? (fun e => e.1 == off) = some (c, cm, k0) → n = min 65536 (cm.len - 65536 * k0) → Sys2Proof.Machine.blockOk mf cm k0 bs = true → k0 + 1 < cm.blocks →
      Does s (.imageBlock r b) (fun k => replies k 9 0 0 ∧ ∃ nx, k.plat.image = some { q1 with next := nx })) ∧
    (ready 10 → r.arg = 0 → open1 → phOk → q.next ≠ 0 ∨ q.count ≠ q.blocks → Does s (.imageEnd r) (fun k => replies k 10 1 8 ∧ k.plat.image = some q ∧ k.boot = h.boot)) ∧
    (ready 10 → r.arg = 0 → open1 → phOk → q.next = 0 → q.count = q.blocks → q.purpose = 0 → Does s (.imageEnd r) (fun k => k.boot.recovered = true ∧ k.plat.image = none ∧ k.thr = [] ∧ k.fld .PMP_STATE 0 0 0 F.PMP_STATE_PHASE = 0 ∧ k.fld .SEC_BOOTSTAT 0 0 0 F.SEC_BOOTSTAT_STOP = 0)) ∧
    (ready 10 → r.arg = 0 → open1 → phOk → q.next = 0 → q.count = q.blocks → q.purpose ≠ 0 → Does s (.imageEnd r) (fun k => replies k 10 0 0 ∧ k.plat.image = none ∧ k.thr = h.thr ∧
      k.updates = h.updates ++ ((compsOf q.manifest).filter (fun c => decide (4 ≤ c.type ∧ c.type ≤ 6))).map (fun c => (c.type, c.digest)))) ∧
    awake (.wakePattern v) (v = 0xA5C35A3C) ∧ awake (.i3cWake data) (data = [1]) ∧
    Does s .statusBlockRead (fun k => k.mem = h.mem ∧ k.plat.i3cReply.length = 32 ∧ k.plat.i3cReply.take 4 = toBytes 1 ph ++ toBytes 1 (h.fld .SEC_BOOTSTAT 0 0 0 F.SEC_BOOTSTAT_STOP) ++ toBytes 1 (h.fld .SEC_BOOTSTAT 0 0 0 F.SEC_BOOTSTAT_REASON_A) ++ toBytes 1 (h.fld .SEC_BOOTSTAT 0 0 0 F.SEC_BOOTSTAT_REASON_B) ∧
      (k.plat.i3cReply.drop 8).take 8 = toBytes 8 h.aoTick ∧ k.plat.i3cReply.drop 20 = List.replicate 12 0) ∧
    Does s (.dynamicAddressAssignment ad) (fun k => k.plat.dynAddr = some ad.toNat ∧ k.mem = h.mem)

/-- R514, R544, R656, R660 to R663, R668 to R673: pins, supplies, clocks and TAPs. PKG_RESET_N low is kept until it is released; after 10 µs or more the package is reset, and after less than 1 µs it is not; PKG_RECOV_N low asks for recovery. Power comes back with a cold reset if the 3.3 V supply was out of its range, else with a package warm reset; a thermal trip stands until a power-up. Without the always-on supply every logic die is off. REFCLK0 lost is a package-fatal error, reset once it is stable; another is a lost port die, readmitted by training its link. The always-on clock stops counting. A TAP takes its instruction; the boundary tests act as BYPASS unless PKG_RESET_N is low. Completes: pkgResetAssert, pkgResetRelease, powerUp, supplyRestored, aoSupplyLoss, refclkLoss, refclkRestored, aoClockStop, bypass, idcode, samplePreload, extest, extestPulse, extestTrain. -/
def Obligations.PinsSuppliesAndTaps : Prop :=
  ∀ (s : State) (us : Nat) (rec : Option Bool) (n : Fin 5) (d : DieIx) (l : List Bool),
    let h := s.hw
    let low (b : Bool) : Hw := { h with plat := { h.plat with resetLow := b } }
    let powered : Prop := h.tripped = false ∧ has h.groupOff 0 = false
    let emptied (k : Hw) : Prop := k.mem = [] ∧ k.thr = [] ∧ k.cores = [] ∧ k.dir = [] ∧ k.committed = false ∧ k.now = 0 ∧ k.boot.flash = h.boot.flash ∧ k.meter = h.meter
    let warm (k : Hw) : Prop := emptied k ∧ k.ao = h.ao ∧ k.commit.bank0 = h.commit.bank0 ∧ k.commit.bank1 = h.commit.bank1
    let idle : Prop := h.cfgState = 0
    let vin (k : Hw) := k.fld .PWR_PKGLIM 0 0 0 F.PWR_PKGLIM_VIN_DV
    let bad : Prop := has h.plat.refclkBad n.val = true
    let x := dieId d
    let tap (i : Instr) (ir : Nat) : Prop := Does s i (fun k => look 0 k.plat.tapIr x = ir ∧ k.mem = h.mem ∧ k.thr = h.thr ∧ k.regs = h.regs ∧ (∀ y, y ≠ x → look 0 k.plat.tapIr y = look 0 h.plat.tapIr y))
    let test (i : Instr) (ir : Nat) : Prop := (h.plat.resetLow = true → tap i ir) ∧ (h.plat.resetLow = false → tap i 0)
    exec .pkgResetAssert s = .next { s with hw := low true } ∧
    (h.plat.resetLow = false ∨ us < 1 ∨ ¬ powered → exec (.pkgResetRelease us rec) s = .next { s with hw := low false }) ∧
    (h.plat.resetLow = true → 10 ≤ us → powered → idle → Does s (.pkgResetRelease us (some false)) (fun k => warm k ∧ k.plat.resetLow = false) ∧
      Does s (.pkgResetRelease us (some true)) (fun k => warm k ∧ k.plat.resetLow = false ∧ k.fld .SEC_BOOTSTAT 0 0 0 F.SEC_BOOTSTAT_STOP = 4)) ∧
    (idle → h.v33Left = false → Does s .powerUp (fun k => warm k ∧ k.groupOff = [] ∧ k.tripped = false ∧ k.plat.resetLow = true)) ∧
    (h.v33Left = true → Does s .powerUp (fun k => emptied k ∧ k.ao = 0 ∧ k.groupOff = [] ∧ k.tripped = false ∧ k.v33Left = false ∧ k.plat.resetLow = true)) ∧
    (h.tripped = true ∨ has h.groupOff 0 = false → exec .supplyRestored s = .next s) ∧
    (h.tripped = false → has h.groupOff 0 = true → h.v33Left = true ∨ idle → Does s .supplyRestored (fun k => emptied k ∧ k.groupOff = [] ∧ vin k = vin h ∧ (h.v33Left = false → k.ao = h.ao) ∧ (h.v33Left = true → k.ao = 0))) ∧
    Does s .aoSupplyLoss (fun k => has k.groupOff 0 = true ∧ (∀ y, 1 ≤ y → y ≤ 12 → has k.groupOff y = true) ∧ k.v33Left = true ∧ k.ao = 0 ∧ k.thr = [] ∧ k.plat.dynAddr = none ∧ k.boot.flash = h.boot.flash ∧ k.meter = h.meter) ∧
    (n.val = 0 → Does s (.refclkLoss n) (fun k => has k.plat.refclkBad 0 = true ∧ k.thr = h.thr ∧ k.mem = h.mem ∧ ∃ e ∈ k.raises, e.source = 0x234 ∧ e.sev = 3 ∧ e.code = 0x45)) ∧
    (n.val ≠ 0 → Does s (.refclkLoss n) (fun k => has k.plat.refclkBad n.val = true ∧ (∃ e ∈ k.raises, e.source = 0x233 ∧ e.code = 0x46) ∧ ∀ i, i / 16 + 1 = n.val → k.fenced (.port i) = true ∧ has k.portUp i = false)) ∧
    (¬ bad → exec (.refclkRestored n) s = .next s) ∧
    (bad → n.val = 0 → h.tripped = true → Does s (.refclkRestored n) (fun k => has k.plat.refclkBad 0 = false ∧ k.thr = h.thr ∧ k.mem = h.mem ∧ k.now = h.now)) ∧
    (bad → n.val = 0 → h.tripped = false → idle → Does s (.refclkRestored n) (fun k => warm k ∧ has k.plat.refclkBad 0 = false)) ∧
    (bad → n.val ≠ 0 → Does s (.refclkRestored n) (fun k => has k.plat.refclkBad n.val = false ∧ k.linkState (4 * (n.val - 1) + 3) true = 1 ∧ look? k.training (4 * (n.val - 1) + 3) = some true ∧ ∀ i, i / 16 + 1 = n.val → look [] k.dpq i = [] ∧ has k.portUp i = false)) ∧
    Does s .aoClockStop (fun k => k.plat.aoRun = false ∧ k.ao = h.ao ∧ k.now = h.now ∧ k.thr = h.thr) ∧
    tap (.bypass d) 0 ∧ tap (.idcode d) 1 ∧ tap (.samplePreload d l) 2 ∧ test (.extest d) 3 ∧ test (.extestPulse d) 4 ∧ test (.extestTrain d) 5 ∧
    Does s (.idcode d) (fun k => ∃ y, look? k.plat.tapId x = some y ∧ y.extractLsb' 12 16 = 0x9612 ∧ y.extractLsb' 0 1 = 1) ∧
    Does s (.samplePreload d l) (fun k => look? k.plat.tapDr x = some l)
end

