-- ==== Sys2Proof/Laws/Lists.lean ====
section
/-! SUPPORT. The laws of the sorted lists that State holds: reading what was written, and the canonical form. -/

namespace Sys2Proof.Machine

variable {β : Type}

@[simp] theorem look_nil (d : β) (a : Nat) : look d [] a = d := rfl

@[simp] theorem look?_nil (a : Nat) : look? ([] : List (Nat × β)) a = none := rfl

theorem look_put_self (d : β) (l : List (Nat × β)) (a : Nat) (v : β) : look d (put l a v) a = v := by
  induction l with
  | nil => simp [put, look]
  | cons e r ih =>
    obtain ⟨k, w⟩ := e
    unfold put
    split
    · simp [look]
    · split
      · simp [look]
      · rename_i h1 h2
        rw [look, if_neg h2]
        exact ih

theorem look_put_ne (d : β) (l : List (Nat × β)) (a b : Nat) (v : β) (hb : b ≠ a) : look d (put l a v) b = look d l b := by
  induction l with
  | nil => simp [put, look, hb]
  | cons e r ih =>
    obtain ⟨k, w⟩ := e
    unfold put
    split
    · simp [look, hb]
    · split
      · rename_i h1 h2
        subst h2
        simp [look, hb]
      · simp only [look]
        split
        · rfl
        · exact ih

@[simp] theorem look_put (d : β) (l : List (Nat × β)) (a b : Nat) (v : β) :
    look d (put l a v) b = if b = a then v else look d l b := by
  split
  · rename_i h; subst h; exact look_put_self d l b v
  · exact look_put_ne d l a b v ‹_›

@[simp] theorem look?_put (l : List (Nat × β)) (a b : Nat) (v : β) :
    look? (put l a v) b = if b = a then some v else look? l b := by
  induction l with
  | nil => by_cases h : b = a <;> simp [put, look?, h]
  | cons e r ih =>
    obtain ⟨k, w⟩ := e
    unfold put
    split
    · by_cases h : b = a <;> simp [look?, h]
    · split
      · rename_i h1 h2
        subst h2
        by_cases h : b = a <;> simp [look?, h]
      · simp only [look?]
        by_cases hb : b = k
        · subst hb
          rename_i h2
          have : ¬ b = a := fun h => h2 h.symm
          simp [this]
        · simp only [hb, if_false]
          exact ih

@[simp] theorem has_nil (a : Nat) : has [] a = false := rfl

theorem has_eq (l : List Nat) (a : Nat) : has l a = true ↔ a ∈ l := by simp [has]

@[simp] theorem mem_ins (l : List Nat) (a b : Nat) : b ∈ ins l a ↔ b = a ∨ b ∈ l := by
  induction l with
  | nil => simp [ins]
  | cons x r ih =>
    unfold ins
    split
    · simp
    · split
      · rename_i h; subst h; simp
      · simp only [List.mem_cons, ih]
        constructor
        · rintro (h | h | h) <;> simp [h]
        · rintro (h | h | h) <;> simp [h]

@[simp] theorem has_ins (l : List Nat) (a b : Nat) : has (ins l a) b = (b == a || has l b) := by
  rw [Bool.eq_iff_iff, has_eq, mem_ins]
  simp [has_eq]

@[simp] theorem has_rem (l : List Nat) (a b : Nat) : has (rem l a) b = (b != a && has l b) := by
  rw [Bool.eq_iff_iff, has_eq]
  simp [rem, has_eq]
  exact And.comm

/-! The canonical form. -/

variable [DecidableEq β]

theorem canonFrom_mono (d : β) (l : List (Nat × β)) : ∀ lo lo' : Nat, lo' ≤ lo → canonFrom d lo l = true → canonFrom d lo' l = true := by
  cases l with
  | nil => intros; rfl
  | cons e r =>
    obtain ⟨k, v⟩ := e
    intro lo lo' h
    simp only [canonFrom, Bool.and_eq_true, decide_eq_true_eq]
    rintro ⟨⟨h1, h2⟩, h3⟩
    exact ⟨⟨by omega, h2⟩, h3⟩

theorem canonFrom_put (d : β) (v : β) (hv : v ≠ d) (a : Nat) (l : List (Nat × β)) :
    ∀ lo : Nat, lo ≤ a → canonFrom d lo l = true → canonFrom d lo (put l a v) = true := by
  induction l with
  | nil => intro lo h _; simp [put, canonFrom, h, hv]
  | cons e r ih =>
    obtain ⟨k, w⟩ := e
    intro lo h
    simp only [canonFrom, Bool.and_eq_true, decide_eq_true_eq, put]
    rintro ⟨⟨h1, h2⟩, h3⟩
    split
    · rename_i hk
      simp only [canonFrom, Bool.and_eq_true, decide_eq_true_eq]
      exact ⟨⟨h, by simp [hv]⟩, ⟨by omega, h2⟩, h3⟩
    · split
      · rename_i hk; subst hk
        simp only [canonFrom, Bool.and_eq_true, decide_eq_true_eq]
        exact ⟨⟨h, by simp [hv]⟩, h3⟩
      · simp only [canonFrom, Bool.and_eq_true, decide_eq_true_eq]
        exact ⟨⟨h1, h2⟩, ih (k + 1) (by omega) h3⟩

theorem canonFrom_del (d : β) (a : Nat) (l : List (Nat × β)) :
    ∀ lo : Nat, canonFrom d lo l = true → canonFrom d lo (del l a) = true := by
  induction l with
  | nil => intro lo _; rfl
  | cons e r ih =>
    obtain ⟨k, w⟩ := e
    intro lo
    simp only [canonFrom, Bool.and_eq_true, decide_eq_true_eq, del]
    rintro ⟨⟨h1, h2⟩, h3⟩
    split
    · exact canonFrom_mono d (del r a) (k + 1) lo (by omega) (ih (k + 1) h3)
    · simp only [canonFrom, Bool.and_eq_true, decide_eq_true_eq]
      exact ⟨⟨h1, h2⟩, ih (k + 1) h3⟩

/-- A write keeps the canonical form. -/
theorem canon_putC (d : β) (l : List (Nat × β)) (a : Nat) (v : β) (h : canon d l = true) : canon d (putC d l a v) = true := by
  unfold putC
  split
  · exact canonFrom_del d a l 0 h
  · exact canonFrom_put d v ‹_› a l 0 (Nat.zero_le a) h

theorem look_below (d : β) (l : List (Nat × β)) : ∀ (lo b : Nat), canonFrom d lo l = true → b < lo → look d l b = d := by
  induction l with
  | nil => intros; rfl
  | cons e r ih =>
    obtain ⟨k, w⟩ := e
    intro lo b
    simp only [canonFrom, Bool.and_eq_true, decide_eq_true_eq, look]
    rintro ⟨⟨h1, h2⟩, h3⟩ hb
    rw [if_neg (by omega)]
    exact ih (k + 1) b h3 (by omega)

/-- What a list reads as once a key is removed. -/
theorem look_del (d : β) (l : List (Nat × β)) (a b : Nat) : look d (del l a) b = if b = a then d else look d l b := by
  induction l with
  | nil => simp [del, look]
  | cons e r ih =>
    obtain ⟨k, w⟩ := e
    simp only [del]
    split
    · rename_i hk; subst hk
      rw [ih]
      by_cases hb : b = a <;> simp [look, hb]
    · rename_i hk
      simp only [look, ih]
      by_cases hb : b = k
      · subst hb
        have : ¬ b = a := fun h => hk h.symm
        simp [this]
      · simp [hb]

/-- What a list reads as after a write. -/
theorem look_putC (d : β) (l : List (Nat × β)) (a b : Nat) (v : β) :
    look d (putC d l a v) b = if b = a then v else look d l b := by
  unfold putC
  split
  · rename_i hv; subst hv; exact look_del v l a b
  · exact look_put d l a b v

end Sys2Proof.Machine
end

