-- ==== Sys2Proof/Laws/State.lean ====
section
/-! SUPPORT. What the named updates of the package leave as it is: one lemma for each field and update, all true by unfolding, so that no proof about a later state unfolds an update. -/

namespace Sys2Proof.Machine

@[simp] theorem Hw.setThread_now (h : Hw) (t : Nat) (x : Thread) : (h.setThread t x).now = h.now := rfl
@[simp] theorem Hw.setThread_clockOn (h : Hw) (t : Nat) (x : Thread) : (h.setThread t x).clockOn = h.clockOn := rfl
@[simp] theorem Hw.setThread_ao (h : Hw) (t : Nat) (x : Thread) : (h.setThread t x).ao = h.ao := rfl
@[simp] theorem Hw.setThread_free (h : Hw) (t : Nat) (x : Thread) : (h.setThread t x).free = h.free := rfl
@[simp] theorem Hw.setThread_mem (h : Hw) (t : Nat) (x : Thread) : (h.setThread t x).mem = h.mem := rfl
@[simp] theorem Hw.setThread_poison (h : Hw) (t : Nat) (x : Thread) : (h.setThread t x).poison = h.poison := rfl
@[simp] theorem Hw.setThread_regs (h : Hw) (t : Nat) (x : Thread) : (h.setThread t x).regs = h.regs := rfl
@[simp] theorem Hw.setThread_shadow (h : Hw) (t : Nat) (x : Thread) : (h.setThread t x).shadow = h.shadow := rfl
@[simp] theorem Hw.setThread_cores (h : Hw) (t : Nat) (x : Thread) : (h.setThread t x).cores = h.cores := rfl
@[simp] theorem Hw.setThread_cdies (h : Hw) (t : Nat) (x : Thread) : (h.setThread t x).cdies = h.cdies := rfl
@[simp] theorem Hw.setThread_dpq (h : Hw) (t : Nat) (x : Thread) : (h.setThread t x).dpq = h.dpq := rfl
@[simp] theorem Hw.setThread_dpErrs (h : Hw) (t : Nat) (x : Thread) : (h.setThread t x).dpErrs = h.dpErrs := rfl
@[simp] theorem Hw.setThread_portUp (h : Hw) (t : Nat) (x : Thread) : (h.setThread t x).portUp = h.portUp := rfl
@[simp] theorem Hw.setThread_raises (h : Hw) (t : Nat) (x : Thread) : (h.setThread t x).raises = h.raises := rfl
@[simp] theorem Hw.setThread_msgs (h : Hw) (t : Nat) (x : Thread) : (h.setThread t x).msgs = h.msgs := rfl
@[simp] theorem Hw.setThread_dieOwner (h : Hw) (t : Nat) (x : Thread) : (h.setThread t x).dieOwner = h.dieOwner := rfl
@[simp] theorem Hw.setThread_portOwner (h : Hw) (t : Nat) (x : Thread) : (h.setThread t x).portOwner = h.portOwner := rfl
@[simp] theorem Hw.setThread_engOwner (h : Hw) (t : Nat) (x : Thread) : (h.setThread t x).engOwner = h.engOwner := rfl
@[simp] theorem Hw.setThread_xtl (h : Hw) (t : Nat) (x : Thread) : (h.setThread t x).xtl = h.xtl := rfl
@[simp] theorem Hw.setThread_xctx (h : Hw) (t : Nat) (x : Thread) : (h.setThread t x).xctx = h.xctx := rfl
@[simp] theorem Hw.setThread_dir (h : Hw) (t : Nat) (x : Thread) : (h.setThread t x).dir = h.dir := rfl
@[simp] theorem Hw.setThread_dcs (h : Hw) (t : Nat) (x : Thread) : (h.setThread t x).dcs = h.dcs := rfl
@[simp] theorem Hw.setThread_dwb (h : Hw) (t : Nat) (x : Thread) : (h.setThread t x).dwb = h.dwb := rfl
@[simp] theorem Hw.setThread_dhold (h : Hw) (t : Nat) (x : Thread) : (h.setThread t x).dhold = h.dhold := rfl
@[simp] theorem Hw.setThread_txns (h : Hw) (t : Nat) (x : Thread) : (h.setThread t x).txns = h.txns := rfl
@[simp] theorem Hw.setThread_waitq (h : Hw) (t : Nat) (x : Thread) : (h.setThread t x).waitq = h.waitq := rfl
@[simp] theorem Hw.setThread_elc (h : Hw) (t : Nat) (x : Thread) : (h.setThread t x).elc = h.elc := rfl
@[simp] theorem Hw.setThread_pwr (h : Hw) (t : Nat) (x : Thread) : (h.setThread t x).pwr = h.pwr := rfl
@[simp] theorem Hw.setThread_patom (h : Hw) (t : Nat) (x : Thread) : (h.setThread t x).patom = h.patom := rfl
@[simp] theorem Hw.setThread_prd (h : Hw) (t : Nat) (x : Thread) : (h.setThread t x).prd = h.prd := rfl
@[simp] theorem Hw.setThread_dmaCpls (h : Hw) (t : Nat) (x : Thread) : (h.setThread t x).dmaCpls = h.dmaCpls := rfl
@[simp] theorem Hw.setThread_esq (h : Hw) (t : Nat) (x : Thread) : (h.setThread t x).esq = h.esq := rfl
@[simp] theorem Hw.setThread_ownLines (h : Hw) (t : Nat) (x : Thread) : (h.setThread t x).ownLines = h.ownLines := rfl
@[simp] theorem Hw.setThread_heldSn (h : Hw) (t : Nat) (x : Thread) : (h.setThread t x).heldSn = h.heldSn := rfl
@[simp] theorem Hw.setThread_agWb (h : Hw) (t : Nat) (x : Thread) : (h.setThread t x).agWb = h.agWb := rfl
@[simp] theorem Hw.setThread_rc (h : Hw) (t : Nat) (x : Thread) : (h.setThread t x).rc = h.rc := rfl
@[simp] theorem Hw.setThread_rcPlru (h : Hw) (t : Nat) (x : Thread) : (h.setThread t x).rcPlru = h.rcPlru := rfl
@[simp] theorem Hw.setThread_hot (h : Hw) (t : Nat) (x : Thread) : (h.setThread t x).hot = h.hot := rfl
@[simp] theorem Hw.setThread_tpoison (h : Hw) (t : Nat) (x : Thread) : (h.setThread t x).tpoison = h.tpoison := rfl
@[simp] theorem Hw.setThread_rewrites (h : Hw) (t : Nat) (x : Thread) : (h.setThread t x).rewrites = h.rewrites := rfl
@[simp] theorem Hw.setThread_devCount (h : Hw) (t : Nat) (x : Thread) : (h.setThread t x).devCount = h.devCount := rfl
@[simp] theorem Hw.setThread_chFail (h : Hw) (t : Nat) (x : Thread) : (h.setThread t x).chFail = h.chFail := rfl
@[simp] theorem Hw.setThread_cap (h : Hw) (t : Nat) (x : Thread) : (h.setThread t x).cap = h.cap := rfl
@[simp] theorem Hw.setThread_hdm (h : Hw) (t : Nat) (x : Thread) : (h.setThread t x).hdm = h.hdm := rfl
@[simp] theorem Hw.setThread_spared (h : Hw) (t : Nat) (x : Thread) : (h.setThread t x).spared = h.spared := rfl
@[simp] theorem Hw.setThread_farHeld (h : Hw) (t : Nat) (x : Thread) : (h.setThread t x).farHeld = h.farHeld := rfl
@[simp] theorem Hw.setThread_dimms (h : Hw) (t : Nat) (x : Thread) : (h.setThread t x).dimms = h.dimms := rfl
@[simp] theorem Hw.setThread_isetWho (h : Hw) (t : Nat) (x : Thread) : (h.setThread t x).isetWho = h.isetWho := rfl
@[simp] theorem Hw.setThread_jobs (h : Hw) (t : Nat) (x : Thread) : (h.setThread t x).jobs = h.jobs := rfl
@[simp] theorem Hw.setThread_jobOrder (h : Hw) (t : Nat) (x : Thread) : (h.setThread t x).jobOrder = h.jobOrder := rfl
@[simp] theorem Hw.setThread_queueTurn (h : Hw) (t : Nat) (x : Thread) : (h.setThread t x).queueTurn = h.queueTurn := rfl
@[simp] theorem Hw.setThread_engq (h : Hw) (t : Nat) (x : Thread) : (h.setThread t x).engq = h.engq := rfl
@[simp] theorem Hw.setThread_held (h : Hw) (t : Nat) (x : Thread) : (h.setThread t x).held = h.held := rfl
@[simp] theorem Hw.setThread_run (h : Hw) (t : Nat) (x : Thread) : (h.setThread t x).run = h.run := rfl
@[simp] theorem Hw.setThread_sp (h : Hw) (t : Nat) (x : Thread) : (h.setThread t x).sp = h.sp := rfl
@[simp] theorem Hw.setThread_engLast (h : Hw) (t : Nat) (x : Thread) : (h.setThread t x).engLast = h.engLast := rfl
@[simp] theorem Hw.setThread_treqs (h : Hw) (t : Nat) (x : Thread) : (h.setThread t x).treqs = h.treqs := rfl
@[simp] theorem Hw.setThread_toks (h : Hw) (t : Nat) (x : Thread) : (h.setThread t x).toks = h.toks := rfl
@[simp] theorem Hw.setThread_rsps (h : Hw) (t : Nat) (x : Thread) : (h.setThread t x).rsps = h.rsps := rfl
@[simp] theorem Hw.setThread_tokWait (h : Hw) (t : Nat) (x : Thread) : (h.setThread t x).tokWait = h.tokWait := rfl
@[simp] theorem Hw.setThread_sleepers (h : Hw) (t : Nat) (x : Thread) : (h.setThread t x).sleepers = h.sleepers := rfl
@[simp] theorem Hw.setThread_closing (h : Hw) (t : Nat) (x : Thread) : (h.setThread t x).closing = h.closing := rfl
@[simp] theorem Hw.setThread_epochLast (h : Hw) (t : Nat) (x : Thread) : (h.setThread t x).epochLast = h.epochLast := rfl
@[simp] theorem Hw.setThread_epochPend (h : Hw) (t : Nat) (x : Thread) : (h.setThread t x).epochPend = h.epochPend := rfl
@[simp] theorem Hw.setThread_epochAt (h : Hw) (t : Nat) (x : Thread) : (h.setThread t x).epochAt = h.epochAt := rfl
@[simp] theorem Hw.setThread_torusTx (h : Hw) (t : Nat) (x : Thread) : (h.setThread t x).torusTx = h.torusTx := rfl
@[simp] theorem Hw.setThread_torusSeq (h : Hw) (t : Nat) (x : Thread) : (h.setThread t x).torusSeq = h.torusSeq := rfl
@[simp] theorem Hw.setThread_torusRx (h : Hw) (t : Nat) (x : Thread) : (h.setThread t x).torusRx = h.torusRx := rfl
@[simp] theorem Hw.setThread_torusHeld (h : Hw) (t : Nat) (x : Thread) : (h.setThread t x).torusHeld = h.torusHeld := rfl
@[simp] theorem Hw.setThread_coords (h : Hw) (t : Nat) (x : Thread) : (h.setThread t x).coords = h.coords := rfl
@[simp] theorem Hw.setThread_coordBad (h : Hw) (t : Nat) (x : Thread) : (h.setThread t x).coordBad = h.coordBad := rfl
@[simp] theorem Hw.setThread_lath (h : Hw) (t : Nat) (x : Thread) : (h.setThread t x).lath = h.lath := rfl
@[simp] theorem Hw.setThread_training (h : Hw) (t : Nat) (x : Thread) : (h.setThread t x).training = h.training := rfl
@[simp] theorem Hw.setThread_trainFails (h : Hw) (t : Nat) (x : Thread) : (h.setThread t x).trainFails = h.trainFails := rfl
@[simp] theorem Hw.setThread_repairs (h : Hw) (t : Nat) (x : Thread) : (h.setThread t x).repairs = h.repairs := rfl
@[simp] theorem Hw.setThread_edgeHeld (h : Hw) (t : Nat) (x : Thread) : (h.setThread t x).edgeHeld = h.edgeHeld := rfl
@[simp] theorem Hw.setThread_sleepReq (h : Hw) (t : Nat) (x : Thread) : (h.setThread t x).sleepReq = h.sleepReq := rfl
@[simp] theorem Hw.setThread_fwSwitch (h : Hw) (t : Nat) (x : Thread) : (h.setThread t x).fwSwitch = h.fwSwitch := rfl
@[simp] theorem Hw.setThread_lcmds (h : Hw) (t : Nat) (x : Thread) : (h.setThread t x).lcmds = h.lcmds := rfl
@[simp] theorem Hw.setThread_uncAt (h : Hw) (t : Nat) (x : Thread) : (h.setThread t x).uncAt = h.uncAt := rfl
@[simp] theorem Hw.setThread_committed (h : Hw) (t : Nat) (x : Thread) : (h.setThread t x).committed = h.committed := rfl
@[simp] theorem Hw.setThread_applying (h : Hw) (t : Nat) (x : Thread) : (h.setThread t x).applying = h.applying := rfl
@[simp] theorem Hw.setThread_authority (h : Hw) (t : Nat) (x : Thread) : (h.setThread t x).authority = h.authority := rfl
@[simp] theorem Hw.setThread_gibMoves (h : Hw) (t : Nat) (x : Thread) : (h.setThread t x).gibMoves = h.gibMoves := rfl
@[simp] theorem Hw.setThread_commit (h : Hw) (t : Nat) (x : Thread) : (h.setThread t x).commit = h.commit := rfl
@[simp] theorem Hw.setThread_partUp (h : Hw) (t : Nat) (x : Thread) : (h.setThread t x).partUp = h.partUp := rfl
@[simp] theorem Hw.setThread_partStopped (h : Hw) (t : Nat) (x : Thread) : (h.setThread t x).partStopped = h.partStopped := rfl
@[simp] theorem Hw.setThread_resetWait (h : Hw) (t : Nat) (x : Thread) : (h.setThread t x).resetWait = h.resetWait := rfl
@[simp] theorem Hw.setThread_domGoal (h : Hw) (t : Nat) (x : Thread) : (h.setThread t x).domGoal = h.domGoal := rfl
@[simp] theorem Hw.setThread_reqPend (h : Hw) (t : Nat) (x : Thread) : (h.setThread t x).reqPend = h.reqPend := rfl
@[simp] theorem Hw.setThread_domWho (h : Hw) (t : Nat) (x : Thread) : (h.setThread t x).domWho = h.domWho := rfl
@[simp] theorem Hw.setThread_wakeDue (h : Hw) (t : Nat) (x : Thread) : (h.setThread t x).wakeDue = h.wakeDue := rfl
@[simp] theorem Hw.setThread_assist (h : Hw) (t : Nat) (x : Thread) : (h.setThread t x).assist = h.assist := rfl
@[simp] theorem Hw.setThread_deepIdle (h : Hw) (t : Nat) (x : Thread) : (h.setThread t x).deepIdle = h.deepIdle := rfl
@[simp] theorem Hw.setThread_deepOk (h : Hw) (t : Nat) (x : Thread) : (h.setThread t x).deepOk = h.deepOk := rfl
@[simp] theorem Hw.setThread_wakeOnExit (h : Hw) (t : Nat) (x : Thread) : (h.setThread t x).wakeOnExit = h.wakeOnExit := rfl
@[simp] theorem Hw.setThread_curOver (h : Hw) (t : Nat) (x : Thread) : (h.setThread t x).curOver = h.curOver := rfl
@[simp] theorem Hw.setThread_curUnder (h : Hw) (t : Nat) (x : Thread) : (h.setThread t x).curUnder = h.curUnder := rfl
@[simp] theorem Hw.setThread_groupOff (h : Hw) (t : Nat) (x : Thread) : (h.setThread t x).groupOff = h.groupOff := rfl
@[simp] theorem Hw.setThread_vinBad (h : Hw) (t : Nat) (x : Thread) : (h.setThread t x).vinBad = h.vinBad := rfl
@[simp] theorem Hw.setThread_v33Left (h : Hw) (t : Nat) (x : Thread) : (h.setThread t x).v33Left = h.v33Left := rfl
@[simp] theorem Hw.setThread_budgets (h : Hw) (t : Nat) (x : Thread) : (h.setThread t x).budgets = h.budgets := rfl
@[simp] theorem Hw.setThread_supplyW (h : Hw) (t : Nat) (x : Thread) : (h.setThread t x).supplyW = h.supplyW := rfl
@[simp] theorem Hw.setThread_coolW (h : Hw) (t : Nat) (x : Thread) : (h.setThread t x).coolW = h.coolW := rfl
@[simp] theorem Hw.setThread_ceilPwr (h : Hw) (t : Nat) (x : Thread) : (h.setThread t x).ceilPwr = h.ceilPwr := rfl
@[simp] theorem Hw.setThread_ceilTherm (h : Hw) (t : Nat) (x : Thread) : (h.setThread t x).ceilTherm = h.ceilTherm := rfl
@[simp] theorem Hw.setThread_thermTicks (h : Hw) (t : Nat) (x : Thread) : (h.setThread t x).thermTicks = h.thermTicks := rfl
@[simp] theorem Hw.setThread_tripped (h : Hw) (t : Nat) (x : Thread) : (h.setThread t x).tripped = h.tripped := rfl
@[simp] theorem Hw.setThread_thermtripPin (h : Hw) (t : Nat) (x : Thread) : (h.setThread t x).thermtripPin = h.thermtripPin := rfl
@[simp] theorem Hw.setThread_tripInfo (h : Hw) (t : Nat) (x : Thread) : (h.setThread t x).tripInfo = h.tripInfo := rfl
@[simp] theorem Hw.setThread_keys (h : Hw) (t : Nat) (x : Thread) : (h.setThread t x).keys = h.keys := rfl
@[simp] theorem Hw.setThread_boot (h : Hw) (t : Nat) (x : Thread) : (h.setThread t x).boot = h.boot := rfl
@[simp] theorem Hw.setThread_meter (h : Hw) (t : Nat) (x : Thread) : (h.setThread t x).meter = h.meter := rfl
@[simp] theorem Hw.setThread_mtrx (h : Hw) (t : Nat) (x : Thread) : (h.setThread t x).mtrx = h.mtrx := rfl
@[simp] theorem Hw.setThread_evPend (h : Hw) (t : Nat) (x : Thread) : (h.setThread t x).evPend = h.evPend := rfl
@[simp] theorem Hw.setThread_evSlots (h : Hw) (t : Nat) (x : Thread) : (h.setThread t x).evSlots = h.evSlots := rfl
@[simp] theorem Hw.setThread_evFly (h : Hw) (t : Nat) (x : Thread) : (h.setThread t x).evFly = h.evFly := rfl
@[simp] theorem Hw.setThread_evCache (h : Hw) (t : Nat) (x : Thread) : (h.setThread t x).evCache = h.evCache := rfl
@[simp] theorem Hw.setThread_svcEvents (h : Hw) (t : Nat) (x : Thread) : (h.setThread t x).svcEvents = h.svcEvents := rfl
@[simp] theorem Hw.setThread_corrected (h : Hw) (t : Nat) (x : Thread) : (h.setThread t x).corrected = h.corrected := rfl
@[simp] theorem Hw.setThread_losses (h : Hw) (t : Nat) (x : Thread) : (h.setThread t x).losses = h.losses := rfl
@[simp] theorem Hw.setThread_updq (h : Hw) (t : Nat) (x : Thread) : (h.setThread t x).updq = h.updq := rfl
@[simp] theorem Hw.setThread_updates (h : Hw) (t : Nat) (x : Thread) : (h.setThread t x).updates = h.updates := rfl
@[simp] theorem Hw.setThread_plat (h : Hw) (t : Nat) (x : Thread) : (h.setThread t x).plat = h.plat := rfl

@[simp] theorem Hw.onThread_now (h : Hw) (t : Nat) (f : Thread → Thread) : (h.onThread t f).now = h.now := rfl
@[simp] theorem Hw.onThread_clockOn (h : Hw) (t : Nat) (f : Thread → Thread) : (h.onThread t f).clockOn = h.clockOn := rfl
@[simp] theorem Hw.onThread_ao (h : Hw) (t : Nat) (f : Thread → Thread) : (h.onThread t f).ao = h.ao := rfl
@[simp] theorem Hw.onThread_free (h : Hw) (t : Nat) (f : Thread → Thread) : (h.onThread t f).free = h.free := rfl
@[simp] theorem Hw.onThread_mem (h : Hw) (t : Nat) (f : Thread → Thread) : (h.onThread t f).mem = h.mem := rfl
@[simp] theorem Hw.onThread_poison (h : Hw) (t : Nat) (f : Thread → Thread) : (h.onThread t f).poison = h.poison := rfl
@[simp] theorem Hw.onThread_regs (h : Hw) (t : Nat) (f : Thread → Thread) : (h.onThread t f).regs = h.regs := rfl
@[simp] theorem Hw.onThread_shadow (h : Hw) (t : Nat) (f : Thread → Thread) : (h.onThread t f).shadow = h.shadow := rfl
@[simp] theorem Hw.onThread_cores (h : Hw) (t : Nat) (f : Thread → Thread) : (h.onThread t f).cores = h.cores := rfl
@[simp] theorem Hw.onThread_cdies (h : Hw) (t : Nat) (f : Thread → Thread) : (h.onThread t f).cdies = h.cdies := rfl
@[simp] theorem Hw.onThread_dpq (h : Hw) (t : Nat) (f : Thread → Thread) : (h.onThread t f).dpq = h.dpq := rfl
@[simp] theorem Hw.onThread_dpErrs (h : Hw) (t : Nat) (f : Thread → Thread) : (h.onThread t f).dpErrs = h.dpErrs := rfl
@[simp] theorem Hw.onThread_portUp (h : Hw) (t : Nat) (f : Thread → Thread) : (h.onThread t f).portUp = h.portUp := rfl
@[simp] theorem Hw.onThread_raises (h : Hw) (t : Nat) (f : Thread → Thread) : (h.onThread t f).raises = h.raises := rfl
@[simp] theorem Hw.onThread_msgs (h : Hw) (t : Nat) (f : Thread → Thread) : (h.onThread t f).msgs = h.msgs := rfl
@[simp] theorem Hw.onThread_dieOwner (h : Hw) (t : Nat) (f : Thread → Thread) : (h.onThread t f).dieOwner = h.dieOwner := rfl
@[simp] theorem Hw.onThread_portOwner (h : Hw) (t : Nat) (f : Thread → Thread) : (h.onThread t f).portOwner = h.portOwner := rfl
@[simp] theorem Hw.onThread_engOwner (h : Hw) (t : Nat) (f : Thread → Thread) : (h.onThread t f).engOwner = h.engOwner := rfl
@[simp] theorem Hw.onThread_xtl (h : Hw) (t : Nat) (f : Thread → Thread) : (h.onThread t f).xtl = h.xtl := rfl
@[simp] theorem Hw.onThread_xctx (h : Hw) (t : Nat) (f : Thread → Thread) : (h.onThread t f).xctx = h.xctx := rfl
@[simp] theorem Hw.onThread_dir (h : Hw) (t : Nat) (f : Thread → Thread) : (h.onThread t f).dir = h.dir := rfl
@[simp] theorem Hw.onThread_dcs (h : Hw) (t : Nat) (f : Thread → Thread) : (h.onThread t f).dcs = h.dcs := rfl
@[simp] theorem Hw.onThread_dwb (h : Hw) (t : Nat) (f : Thread → Thread) : (h.onThread t f).dwb = h.dwb := rfl
@[simp] theorem Hw.onThread_dhold (h : Hw) (t : Nat) (f : Thread → Thread) : (h.onThread t f).dhold = h.dhold := rfl
@[simp] theorem Hw.onThread_txns (h : Hw) (t : Nat) (f : Thread → Thread) : (h.onThread t f).txns = h.txns := rfl
@[simp] theorem Hw.onThread_waitq (h : Hw) (t : Nat) (f : Thread → Thread) : (h.onThread t f).waitq = h.waitq := rfl
@[simp] theorem Hw.onThread_elc (h : Hw) (t : Nat) (f : Thread → Thread) : (h.onThread t f).elc = h.elc := rfl
@[simp] theorem Hw.onThread_pwr (h : Hw) (t : Nat) (f : Thread → Thread) : (h.onThread t f).pwr = h.pwr := rfl
@[simp] theorem Hw.onThread_patom (h : Hw) (t : Nat) (f : Thread → Thread) : (h.onThread t f).patom = h.patom := rfl
@[simp] theorem Hw.onThread_prd (h : Hw) (t : Nat) (f : Thread → Thread) : (h.onThread t f).prd = h.prd := rfl
@[simp] theorem Hw.onThread_dmaCpls (h : Hw) (t : Nat) (f : Thread → Thread) : (h.onThread t f).dmaCpls = h.dmaCpls := rfl
@[simp] theorem Hw.onThread_esq (h : Hw) (t : Nat) (f : Thread → Thread) : (h.onThread t f).esq = h.esq := rfl
@[simp] theorem Hw.onThread_ownLines (h : Hw) (t : Nat) (f : Thread → Thread) : (h.onThread t f).ownLines = h.ownLines := rfl
@[simp] theorem Hw.onThread_heldSn (h : Hw) (t : Nat) (f : Thread → Thread) : (h.onThread t f).heldSn = h.heldSn := rfl
@[simp] theorem Hw.onThread_agWb (h : Hw) (t : Nat) (f : Thread → Thread) : (h.onThread t f).agWb = h.agWb := rfl
@[simp] theorem Hw.onThread_rc (h : Hw) (t : Nat) (f : Thread → Thread) : (h.onThread t f).rc = h.rc := rfl
@[simp] theorem Hw.onThread_rcPlru (h : Hw) (t : Nat) (f : Thread → Thread) : (h.onThread t f).rcPlru = h.rcPlru := rfl
@[simp] theorem Hw.onThread_hot (h : Hw) (t : Nat) (f : Thread → Thread) : (h.onThread t f).hot = h.hot := rfl
@[simp] theorem Hw.onThread_tpoison (h : Hw) (t : Nat) (f : Thread → Thread) : (h.onThread t f).tpoison = h.tpoison := rfl
@[simp] theorem Hw.onThread_rewrites (h : Hw) (t : Nat) (f : Thread → Thread) : (h.onThread t f).rewrites = h.rewrites := rfl
@[simp] theorem Hw.onThread_devCount (h : Hw) (t : Nat) (f : Thread → Thread) : (h.onThread t f).devCount = h.devCount := rfl
@[simp] theorem Hw.onThread_chFail (h : Hw) (t : Nat) (f : Thread → Thread) : (h.onThread t f).chFail = h.chFail := rfl
@[simp] theorem Hw.onThread_cap (h : Hw) (t : Nat) (f : Thread → Thread) : (h.onThread t f).cap = h.cap := rfl
@[simp] theorem Hw.onThread_hdm (h : Hw) (t : Nat) (f : Thread → Thread) : (h.onThread t f).hdm = h.hdm := rfl
@[simp] theorem Hw.onThread_spared (h : Hw) (t : Nat) (f : Thread → Thread) : (h.onThread t f).spared = h.spared := rfl
@[simp] theorem Hw.onThread_farHeld (h : Hw) (t : Nat) (f : Thread → Thread) : (h.onThread t f).farHeld = h.farHeld := rfl
@[simp] theorem Hw.onThread_dimms (h : Hw) (t : Nat) (f : Thread → Thread) : (h.onThread t f).dimms = h.dimms := rfl
@[simp] theorem Hw.onThread_isetWho (h : Hw) (t : Nat) (f : Thread → Thread) : (h.onThread t f).isetWho = h.isetWho := rfl
@[simp] theorem Hw.onThread_jobs (h : Hw) (t : Nat) (f : Thread → Thread) : (h.onThread t f).jobs = h.jobs := rfl
@[simp] theorem Hw.onThread_jobOrder (h : Hw) (t : Nat) (f : Thread → Thread) : (h.onThread t f).jobOrder = h.jobOrder := rfl
@[simp] theorem Hw.onThread_queueTurn (h : Hw) (t : Nat) (f : Thread → Thread) : (h.onThread t f).queueTurn = h.queueTurn := rfl
@[simp] theorem Hw.onThread_engq (h : Hw) (t : Nat) (f : Thread → Thread) : (h.onThread t f).engq = h.engq := rfl
@[simp] theorem Hw.onThread_held (h : Hw) (t : Nat) (f : Thread → Thread) : (h.onThread t f).held = h.held := rfl
@[simp] theorem Hw.onThread_run (h : Hw) (t : Nat) (f : Thread → Thread) : (h.onThread t f).run = h.run := rfl
@[simp] theorem Hw.onThread_sp (h : Hw) (t : Nat) (f : Thread → Thread) : (h.onThread t f).sp = h.sp := rfl
@[simp] theorem Hw.onThread_engLast (h : Hw) (t : Nat) (f : Thread → Thread) : (h.onThread t f).engLast = h.engLast := rfl
@[simp] theorem Hw.onThread_treqs (h : Hw) (t : Nat) (f : Thread → Thread) : (h.onThread t f).treqs = h.treqs := rfl
@[simp] theorem Hw.onThread_toks (h : Hw) (t : Nat) (f : Thread → Thread) : (h.onThread t f).toks = h.toks := rfl
@[simp] theorem Hw.onThread_rsps (h : Hw) (t : Nat) (f : Thread → Thread) : (h.onThread t f).rsps = h.rsps := rfl
@[simp] theorem Hw.onThread_tokWait (h : Hw) (t : Nat) (f : Thread → Thread) : (h.onThread t f).tokWait = h.tokWait := rfl
@[simp] theorem Hw.onThread_sleepers (h : Hw) (t : Nat) (f : Thread → Thread) : (h.onThread t f).sleepers = h.sleepers := rfl
@[simp] theorem Hw.onThread_closing (h : Hw) (t : Nat) (f : Thread → Thread) : (h.onThread t f).closing = h.closing := rfl
@[simp] theorem Hw.onThread_epochLast (h : Hw) (t : Nat) (f : Thread → Thread) : (h.onThread t f).epochLast = h.epochLast := rfl
@[simp] theorem Hw.onThread_epochPend (h : Hw) (t : Nat) (f : Thread → Thread) : (h.onThread t f).epochPend = h.epochPend := rfl
@[simp] theorem Hw.onThread_epochAt (h : Hw) (t : Nat) (f : Thread → Thread) : (h.onThread t f).epochAt = h.epochAt := rfl
@[simp] theorem Hw.onThread_torusTx (h : Hw) (t : Nat) (f : Thread → Thread) : (h.onThread t f).torusTx = h.torusTx := rfl
@[simp] theorem Hw.onThread_torusSeq (h : Hw) (t : Nat) (f : Thread → Thread) : (h.onThread t f).torusSeq = h.torusSeq := rfl
@[simp] theorem Hw.onThread_torusRx (h : Hw) (t : Nat) (f : Thread → Thread) : (h.onThread t f).torusRx = h.torusRx := rfl
@[simp] theorem Hw.onThread_torusHeld (h : Hw) (t : Nat) (f : Thread → Thread) : (h.onThread t f).torusHeld = h.torusHeld := rfl
@[simp] theorem Hw.onThread_coords (h : Hw) (t : Nat) (f : Thread → Thread) : (h.onThread t f).coords = h.coords := rfl
@[simp] theorem Hw.onThread_coordBad (h : Hw) (t : Nat) (f : Thread → Thread) : (h.onThread t f).coordBad = h.coordBad := rfl
@[simp] theorem Hw.onThread_lath (h : Hw) (t : Nat) (f : Thread → Thread) : (h.onThread t f).lath = h.lath := rfl
@[simp] theorem Hw.onThread_training (h : Hw) (t : Nat) (f : Thread → Thread) : (h.onThread t f).training = h.training := rfl
@[simp] theorem Hw.onThread_trainFails (h : Hw) (t : Nat) (f : Thread → Thread) : (h.onThread t f).trainFails = h.trainFails := rfl
@[simp] theorem Hw.onThread_repairs (h : Hw) (t : Nat) (f : Thread → Thread) : (h.onThread t f).repairs = h.repairs := rfl
@[simp] theorem Hw.onThread_edgeHeld (h : Hw) (t : Nat) (f : Thread → Thread) : (h.onThread t f).edgeHeld = h.edgeHeld := rfl
@[simp] theorem Hw.onThread_sleepReq (h : Hw) (t : Nat) (f : Thread → Thread) : (h.onThread t f).sleepReq = h.sleepReq := rfl
@[simp] theorem Hw.onThread_fwSwitch (h : Hw) (t : Nat) (f : Thread → Thread) : (h.onThread t f).fwSwitch = h.fwSwitch := rfl
@[simp] theorem Hw.onThread_lcmds (h : Hw) (t : Nat) (f : Thread → Thread) : (h.onThread t f).lcmds = h.lcmds := rfl
@[simp] theorem Hw.onThread_uncAt (h : Hw) (t : Nat) (f : Thread → Thread) : (h.onThread t f).uncAt = h.uncAt := rfl
@[simp] theorem Hw.onThread_committed (h : Hw) (t : Nat) (f : Thread → Thread) : (h.onThread t f).committed = h.committed := rfl
@[simp] theorem Hw.onThread_applying (h : Hw) (t : Nat) (f : Thread → Thread) : (h.onThread t f).applying = h.applying := rfl
@[simp] theorem Hw.onThread_authority (h : Hw) (t : Nat) (f : Thread → Thread) : (h.onThread t f).authority = h.authority := rfl
@[simp] theorem Hw.onThread_gibMoves (h : Hw) (t : Nat) (f : Thread → Thread) : (h.onThread t f).gibMoves = h.gibMoves := rfl
@[simp] theorem Hw.onThread_commit (h : Hw) (t : Nat) (f : Thread → Thread) : (h.onThread t f).commit = h.commit := rfl
@[simp] theorem Hw.onThread_partUp (h : Hw) (t : Nat) (f : Thread → Thread) : (h.onThread t f).partUp = h.partUp := rfl
@[simp] theorem Hw.onThread_partStopped (h : Hw) (t : Nat) (f : Thread → Thread) : (h.onThread t f).partStopped = h.partStopped := rfl
@[simp] theorem Hw.onThread_resetWait (h : Hw) (t : Nat) (f : Thread → Thread) : (h.onThread t f).resetWait = h.resetWait := rfl
@[simp] theorem Hw.onThread_domGoal (h : Hw) (t : Nat) (f : Thread → Thread) : (h.onThread t f).domGoal = h.domGoal := rfl
@[simp] theorem Hw.onThread_reqPend (h : Hw) (t : Nat) (f : Thread → Thread) : (h.onThread t f).reqPend = h.reqPend := rfl
@[simp] theorem Hw.onThread_domWho (h : Hw) (t : Nat) (f : Thread → Thread) : (h.onThread t f).domWho = h.domWho := rfl
@[simp] theorem Hw.onThread_wakeDue (h : Hw) (t : Nat) (f : Thread → Thread) : (h.onThread t f).wakeDue = h.wakeDue := rfl
@[simp] theorem Hw.onThread_assist (h : Hw) (t : Nat) (f : Thread → Thread) : (h.onThread t f).assist = h.assist := rfl
@[simp] theorem Hw.onThread_deepIdle (h : Hw) (t : Nat) (f : Thread → Thread) : (h.onThread t f).deepIdle = h.deepIdle := rfl
@[simp] theorem Hw.onThread_deepOk (h : Hw) (t : Nat) (f : Thread → Thread) : (h.onThread t f).deepOk = h.deepOk := rfl
@[simp] theorem Hw.onThread_wakeOnExit (h : Hw) (t : Nat) (f : Thread → Thread) : (h.onThread t f).wakeOnExit = h.wakeOnExit := rfl
@[simp] theorem Hw.onThread_curOver (h : Hw) (t : Nat) (f : Thread → Thread) : (h.onThread t f).curOver = h.curOver := rfl
@[simp] theorem Hw.onThread_curUnder (h : Hw) (t : Nat) (f : Thread → Thread) : (h.onThread t f).curUnder = h.curUnder := rfl
@[simp] theorem Hw.onThread_groupOff (h : Hw) (t : Nat) (f : Thread → Thread) : (h.onThread t f).groupOff = h.groupOff := rfl
@[simp] theorem Hw.onThread_vinBad (h : Hw) (t : Nat) (f : Thread → Thread) : (h.onThread t f).vinBad = h.vinBad := rfl
@[simp] theorem Hw.onThread_v33Left (h : Hw) (t : Nat) (f : Thread → Thread) : (h.onThread t f).v33Left = h.v33Left := rfl
@[simp] theorem Hw.onThread_budgets (h : Hw) (t : Nat) (f : Thread → Thread) : (h.onThread t f).budgets = h.budgets := rfl
@[simp] theorem Hw.onThread_supplyW (h : Hw) (t : Nat) (f : Thread → Thread) : (h.onThread t f).supplyW = h.supplyW := rfl
@[simp] theorem Hw.onThread_coolW (h : Hw) (t : Nat) (f : Thread → Thread) : (h.onThread t f).coolW = h.coolW := rfl
@[simp] theorem Hw.onThread_ceilPwr (h : Hw) (t : Nat) (f : Thread → Thread) : (h.onThread t f).ceilPwr = h.ceilPwr := rfl
@[simp] theorem Hw.onThread_ceilTherm (h : Hw) (t : Nat) (f : Thread → Thread) : (h.onThread t f).ceilTherm = h.ceilTherm := rfl
@[simp] theorem Hw.onThread_thermTicks (h : Hw) (t : Nat) (f : Thread → Thread) : (h.onThread t f).thermTicks = h.thermTicks := rfl
@[simp] theorem Hw.onThread_tripped (h : Hw) (t : Nat) (f : Thread → Thread) : (h.onThread t f).tripped = h.tripped := rfl
@[simp] theorem Hw.onThread_thermtripPin (h : Hw) (t : Nat) (f : Thread → Thread) : (h.onThread t f).thermtripPin = h.thermtripPin := rfl
@[simp] theorem Hw.onThread_tripInfo (h : Hw) (t : Nat) (f : Thread → Thread) : (h.onThread t f).tripInfo = h.tripInfo := rfl
@[simp] theorem Hw.onThread_keys (h : Hw) (t : Nat) (f : Thread → Thread) : (h.onThread t f).keys = h.keys := rfl
@[simp] theorem Hw.onThread_boot (h : Hw) (t : Nat) (f : Thread → Thread) : (h.onThread t f).boot = h.boot := rfl
@[simp] theorem Hw.onThread_meter (h : Hw) (t : Nat) (f : Thread → Thread) : (h.onThread t f).meter = h.meter := rfl
@[simp] theorem Hw.onThread_mtrx (h : Hw) (t : Nat) (f : Thread → Thread) : (h.onThread t f).mtrx = h.mtrx := rfl
@[simp] theorem Hw.onThread_evPend (h : Hw) (t : Nat) (f : Thread → Thread) : (h.onThread t f).evPend = h.evPend := rfl
@[simp] theorem Hw.onThread_evSlots (h : Hw) (t : Nat) (f : Thread → Thread) : (h.onThread t f).evSlots = h.evSlots := rfl
@[simp] theorem Hw.onThread_evFly (h : Hw) (t : Nat) (f : Thread → Thread) : (h.onThread t f).evFly = h.evFly := rfl
@[simp] theorem Hw.onThread_evCache (h : Hw) (t : Nat) (f : Thread → Thread) : (h.onThread t f).evCache = h.evCache := rfl
@[simp] theorem Hw.onThread_svcEvents (h : Hw) (t : Nat) (f : Thread → Thread) : (h.onThread t f).svcEvents = h.svcEvents := rfl
@[simp] theorem Hw.onThread_corrected (h : Hw) (t : Nat) (f : Thread → Thread) : (h.onThread t f).corrected = h.corrected := rfl
@[simp] theorem Hw.onThread_losses (h : Hw) (t : Nat) (f : Thread → Thread) : (h.onThread t f).losses = h.losses := rfl
@[simp] theorem Hw.onThread_updq (h : Hw) (t : Nat) (f : Thread → Thread) : (h.onThread t f).updq = h.updq := rfl
@[simp] theorem Hw.onThread_updates (h : Hw) (t : Nat) (f : Thread → Thread) : (h.onThread t f).updates = h.updates := rfl
@[simp] theorem Hw.onThread_plat (h : Hw) (t : Nat) (f : Thread → Thread) : (h.onThread t f).plat = h.plat := rfl

@[simp] theorem Hw.onCore_now (h : Hw) (k : Nat) (f : Core → Core) : (h.onCore k f).now = h.now := rfl
@[simp] theorem Hw.onCore_clockOn (h : Hw) (k : Nat) (f : Core → Core) : (h.onCore k f).clockOn = h.clockOn := rfl
@[simp] theorem Hw.onCore_ao (h : Hw) (k : Nat) (f : Core → Core) : (h.onCore k f).ao = h.ao := rfl
@[simp] theorem Hw.onCore_free (h : Hw) (k : Nat) (f : Core → Core) : (h.onCore k f).free = h.free := rfl
@[simp] theorem Hw.onCore_mem (h : Hw) (k : Nat) (f : Core → Core) : (h.onCore k f).mem = h.mem := rfl
@[simp] theorem Hw.onCore_poison (h : Hw) (k : Nat) (f : Core → Core) : (h.onCore k f).poison = h.poison := rfl
@[simp] theorem Hw.onCore_regs (h : Hw) (k : Nat) (f : Core → Core) : (h.onCore k f).regs = h.regs := rfl
@[simp] theorem Hw.onCore_shadow (h : Hw) (k : Nat) (f : Core → Core) : (h.onCore k f).shadow = h.shadow := rfl
@[simp] theorem Hw.onCore_thr (h : Hw) (k : Nat) (f : Core → Core) : (h.onCore k f).thr = h.thr := rfl
@[simp] theorem Hw.onCore_cdies (h : Hw) (k : Nat) (f : Core → Core) : (h.onCore k f).cdies = h.cdies := rfl
@[simp] theorem Hw.onCore_dpq (h : Hw) (k : Nat) (f : Core → Core) : (h.onCore k f).dpq = h.dpq := rfl
@[simp] theorem Hw.onCore_dpErrs (h : Hw) (k : Nat) (f : Core → Core) : (h.onCore k f).dpErrs = h.dpErrs := rfl
@[simp] theorem Hw.onCore_portUp (h : Hw) (k : Nat) (f : Core → Core) : (h.onCore k f).portUp = h.portUp := rfl
@[simp] theorem Hw.onCore_raises (h : Hw) (k : Nat) (f : Core → Core) : (h.onCore k f).raises = h.raises := rfl
@[simp] theorem Hw.onCore_msgs (h : Hw) (k : Nat) (f : Core → Core) : (h.onCore k f).msgs = h.msgs := rfl
@[simp] theorem Hw.onCore_dieOwner (h : Hw) (k : Nat) (f : Core → Core) : (h.onCore k f).dieOwner = h.dieOwner := rfl
@[simp] theorem Hw.onCore_portOwner (h : Hw) (k : Nat) (f : Core → Core) : (h.onCore k f).portOwner = h.portOwner := rfl
@[simp] theorem Hw.onCore_engOwner (h : Hw) (k : Nat) (f : Core → Core) : (h.onCore k f).engOwner = h.engOwner := rfl
@[simp] theorem Hw.onCore_xtl (h : Hw) (k : Nat) (f : Core → Core) : (h.onCore k f).xtl = h.xtl := rfl
@[simp] theorem Hw.onCore_xctx (h : Hw) (k : Nat) (f : Core → Core) : (h.onCore k f).xctx = h.xctx := rfl
@[simp] theorem Hw.onCore_dir (h : Hw) (k : Nat) (f : Core → Core) : (h.onCore k f).dir = h.dir := rfl
@[simp] theorem Hw.onCore_dcs (h : Hw) (k : Nat) (f : Core → Core) : (h.onCore k f).dcs = h.dcs := rfl
@[simp] theorem Hw.onCore_dwb (h : Hw) (k : Nat) (f : Core → Core) : (h.onCore k f).dwb = h.dwb := rfl
@[simp] theorem Hw.onCore_dhold (h : Hw) (k : Nat) (f : Core → Core) : (h.onCore k f).dhold = h.dhold := rfl
@[simp] theorem Hw.onCore_txns (h : Hw) (k : Nat) (f : Core → Core) : (h.onCore k f).txns = h.txns := rfl
@[simp] theorem Hw.onCore_waitq (h : Hw) (k : Nat) (f : Core → Core) : (h.onCore k f).waitq = h.waitq := rfl
@[simp] theorem Hw.onCore_elc (h : Hw) (k : Nat) (f : Core → Core) : (h.onCore k f).elc = h.elc := rfl
@[simp] theorem Hw.onCore_pwr (h : Hw) (k : Nat) (f : Core → Core) : (h.onCore k f).pwr = h.pwr := rfl
@[simp] theorem Hw.onCore_patom (h : Hw) (k : Nat) (f : Core → Core) : (h.onCore k f).patom = h.patom := rfl
@[simp] theorem Hw.onCore_prd (h : Hw) (k : Nat) (f : Core → Core) : (h.onCore k f).prd = h.prd := rfl
@[simp] theorem Hw.onCore_dmaCpls (h : Hw) (k : Nat) (f : Core → Core) : (h.onCore k f).dmaCpls = h.dmaCpls := rfl
@[simp] theorem Hw.onCore_esq (h : Hw) (k : Nat) (f : Core → Core) : (h.onCore k f).esq = h.esq := rfl
@[simp] theorem Hw.onCore_ownLines (h : Hw) (k : Nat) (f : Core → Core) : (h.onCore k f).ownLines = h.ownLines := rfl
@[simp] theorem Hw.onCore_heldSn (h : Hw) (k : Nat) (f : Core → Core) : (h.onCore k f).heldSn = h.heldSn := rfl
@[simp] theorem Hw.onCore_agWb (h : Hw) (k : Nat) (f : Core → Core) : (h.onCore k f).agWb = h.agWb := rfl
@[simp] theorem Hw.onCore_rc (h : Hw) (k : Nat) (f : Core → Core) : (h.onCore k f).rc = h.rc := rfl
@[simp] theorem Hw.onCore_rcPlru (h : Hw) (k : Nat) (f : Core → Core) : (h.onCore k f).rcPlru = h.rcPlru := rfl
@[simp] theorem Hw.onCore_hot (h : Hw) (k : Nat) (f : Core → Core) : (h.onCore k f).hot = h.hot := rfl
@[simp] theorem Hw.onCore_tpoison (h : Hw) (k : Nat) (f : Core → Core) : (h.onCore k f).tpoison = h.tpoison := rfl
@[simp] theorem Hw.onCore_rewrites (h : Hw) (k : Nat) (f : Core → Core) : (h.onCore k f).rewrites = h.rewrites := rfl
@[simp] theorem Hw.onCore_devCount (h : Hw) (k : Nat) (f : Core → Core) : (h.onCore k f).devCount = h.devCount := rfl
@[simp] theorem Hw.onCore_chFail (h : Hw) (k : Nat) (f : Core → Core) : (h.onCore k f).chFail = h.chFail := rfl
@[simp] theorem Hw.onCore_cap (h : Hw) (k : Nat) (f : Core → Core) : (h.onCore k f).cap = h.cap := rfl
@[simp] theorem Hw.onCore_hdm (h : Hw) (k : Nat) (f : Core → Core) : (h.onCore k f).hdm = h.hdm := rfl
@[simp] theorem Hw.onCore_spared (h : Hw) (k : Nat) (f : Core → Core) : (h.onCore k f).spared = h.spared := rfl
@[simp] theorem Hw.onCore_farHeld (h : Hw) (k : Nat) (f : Core → Core) : (h.onCore k f).farHeld = h.farHeld := rfl
@[simp] theorem Hw.onCore_dimms (h : Hw) (k : Nat) (f : Core → Core) : (h.onCore k f).dimms = h.dimms := rfl
@[simp] theorem Hw.onCore_isetWho (h : Hw) (k : Nat) (f : Core → Core) : (h.onCore k f).isetWho = h.isetWho := rfl
@[simp] theorem Hw.onCore_jobs (h : Hw) (k : Nat) (f : Core → Core) : (h.onCore k f).jobs = h.jobs := rfl
@[simp] theorem Hw.onCore_jobOrder (h : Hw) (k : Nat) (f : Core → Core) : (h.onCore k f).jobOrder = h.jobOrder := rfl
@[simp] theorem Hw.onCore_queueTurn (h : Hw) (k : Nat) (f : Core → Core) : (h.onCore k f).queueTurn = h.queueTurn := rfl
@[simp] theorem Hw.onCore_engq (h : Hw) (k : Nat) (f : Core → Core) : (h.onCore k f).engq = h.engq := rfl
@[simp] theorem Hw.onCore_held (h : Hw) (k : Nat) (f : Core → Core) : (h.onCore k f).held = h.held := rfl
@[simp] theorem Hw.onCore_run (h : Hw) (k : Nat) (f : Core → Core) : (h.onCore k f).run = h.run := rfl
@[simp] theorem Hw.onCore_sp (h : Hw) (k : Nat) (f : Core → Core) : (h.onCore k f).sp = h.sp := rfl
@[simp] theorem Hw.onCore_engLast (h : Hw) (k : Nat) (f : Core → Core) : (h.onCore k f).engLast = h.engLast := rfl
@[simp] theorem Hw.onCore_treqs (h : Hw) (k : Nat) (f : Core → Core) : (h.onCore k f).treqs = h.treqs := rfl
@[simp] theorem Hw.onCore_toks (h : Hw) (k : Nat) (f : Core → Core) : (h.onCore k f).toks = h.toks := rfl
@[simp] theorem Hw.onCore_rsps (h : Hw) (k : Nat) (f : Core → Core) : (h.onCore k f).rsps = h.rsps := rfl
@[simp] theorem Hw.onCore_tokWait (h : Hw) (k : Nat) (f : Core → Core) : (h.onCore k f).tokWait = h.tokWait := rfl
@[simp] theorem Hw.onCore_sleepers (h : Hw) (k : Nat) (f : Core → Core) : (h.onCore k f).sleepers = h.sleepers := rfl
@[simp] theorem Hw.onCore_closing (h : Hw) (k : Nat) (f : Core → Core) : (h.onCore k f).closing = h.closing := rfl
@[simp] theorem Hw.onCore_epochLast (h : Hw) (k : Nat) (f : Core → Core) : (h.onCore k f).epochLast = h.epochLast := rfl
@[simp] theorem Hw.onCore_epochPend (h : Hw) (k : Nat) (f : Core → Core) : (h.onCore k f).epochPend = h.epochPend := rfl
@[simp] theorem Hw.onCore_epochAt (h : Hw) (k : Nat) (f : Core → Core) : (h.onCore k f).epochAt = h.epochAt := rfl
@[simp] theorem Hw.onCore_torusTx (h : Hw) (k : Nat) (f : Core → Core) : (h.onCore k f).torusTx = h.torusTx := rfl
@[simp] theorem Hw.onCore_torusSeq (h : Hw) (k : Nat) (f : Core → Core) : (h.onCore k f).torusSeq = h.torusSeq := rfl
@[simp] theorem Hw.onCore_torusRx (h : Hw) (k : Nat) (f : Core → Core) : (h.onCore k f).torusRx = h.torusRx := rfl
@[simp] theorem Hw.onCore_torusHeld (h : Hw) (k : Nat) (f : Core → Core) : (h.onCore k f).torusHeld = h.torusHeld := rfl
@[simp] theorem Hw.onCore_coords (h : Hw) (k : Nat) (f : Core → Core) : (h.onCore k f).coords = h.coords := rfl
@[simp] theorem Hw.onCore_coordBad (h : Hw) (k : Nat) (f : Core → Core) : (h.onCore k f).coordBad = h.coordBad := rfl
@[simp] theorem Hw.onCore_lath (h : Hw) (k : Nat) (f : Core → Core) : (h.onCore k f).lath = h.lath := rfl
@[simp] theorem Hw.onCore_training (h : Hw) (k : Nat) (f : Core → Core) : (h.onCore k f).training = h.training := rfl
@[simp] theorem Hw.onCore_trainFails (h : Hw) (k : Nat) (f : Core → Core) : (h.onCore k f).trainFails = h.trainFails := rfl
@[simp] theorem Hw.onCore_repairs (h : Hw) (k : Nat) (f : Core → Core) : (h.onCore k f).repairs = h.repairs := rfl
@[simp] theorem Hw.onCore_edgeHeld (h : Hw) (k : Nat) (f : Core → Core) : (h.onCore k f).edgeHeld = h.edgeHeld := rfl
@[simp] theorem Hw.onCore_sleepReq (h : Hw) (k : Nat) (f : Core → Core) : (h.onCore k f).sleepReq = h.sleepReq := rfl
@[simp] theorem Hw.onCore_fwSwitch (h : Hw) (k : Nat) (f : Core → Core) : (h.onCore k f).fwSwitch = h.fwSwitch := rfl
@[simp] theorem Hw.onCore_lcmds (h : Hw) (k : Nat) (f : Core → Core) : (h.onCore k f).lcmds = h.lcmds := rfl
@[simp] theorem Hw.onCore_uncAt (h : Hw) (k : Nat) (f : Core → Core) : (h.onCore k f).uncAt = h.uncAt := rfl
@[simp] theorem Hw.onCore_committed (h : Hw) (k : Nat) (f : Core → Core) : (h.onCore k f).committed = h.committed := rfl
@[simp] theorem Hw.onCore_applying (h : Hw) (k : Nat) (f : Core → Core) : (h.onCore k f).applying = h.applying := rfl
@[simp] theorem Hw.onCore_authority (h : Hw) (k : Nat) (f : Core → Core) : (h.onCore k f).authority = h.authority := rfl
@[simp] theorem Hw.onCore_gibMoves (h : Hw) (k : Nat) (f : Core → Core) : (h.onCore k f).gibMoves = h.gibMoves := rfl
@[simp] theorem Hw.onCore_commit (h : Hw) (k : Nat) (f : Core → Core) : (h.onCore k f).commit = h.commit := rfl
@[simp] theorem Hw.onCore_partUp (h : Hw) (k : Nat) (f : Core → Core) : (h.onCore k f).partUp = h.partUp := rfl
@[simp] theorem Hw.onCore_partStopped (h : Hw) (k : Nat) (f : Core → Core) : (h.onCore k f).partStopped = h.partStopped := rfl
@[simp] theorem Hw.onCore_resetWait (h : Hw) (k : Nat) (f : Core → Core) : (h.onCore k f).resetWait = h.resetWait := rfl
@[simp] theorem Hw.onCore_domGoal (h : Hw) (k : Nat) (f : Core → Core) : (h.onCore k f).domGoal = h.domGoal := rfl
@[simp] theorem Hw.onCore_reqPend (h : Hw) (k : Nat) (f : Core → Core) : (h.onCore k f).reqPend = h.reqPend := rfl
@[simp] theorem Hw.onCore_domWho (h : Hw) (k : Nat) (f : Core → Core) : (h.onCore k f).domWho = h.domWho := rfl
@[simp] theorem Hw.onCore_wakeDue (h : Hw) (k : Nat) (f : Core → Core) : (h.onCore k f).wakeDue = h.wakeDue := rfl
@[simp] theorem Hw.onCore_assist (h : Hw) (k : Nat) (f : Core → Core) : (h.onCore k f).assist = h.assist := rfl
@[simp] theorem Hw.onCore_deepIdle (h : Hw) (k : Nat) (f : Core → Core) : (h.onCore k f).deepIdle = h.deepIdle := rfl
@[simp] theorem Hw.onCore_deepOk (h : Hw) (k : Nat) (f : Core → Core) : (h.onCore k f).deepOk = h.deepOk := rfl
@[simp] theorem Hw.onCore_wakeOnExit (h : Hw) (k : Nat) (f : Core → Core) : (h.onCore k f).wakeOnExit = h.wakeOnExit := rfl
@[simp] theorem Hw.onCore_curOver (h : Hw) (k : Nat) (f : Core → Core) : (h.onCore k f).curOver = h.curOver := rfl
@[simp] theorem Hw.onCore_curUnder (h : Hw) (k : Nat) (f : Core → Core) : (h.onCore k f).curUnder = h.curUnder := rfl
@[simp] theorem Hw.onCore_groupOff (h : Hw) (k : Nat) (f : Core → Core) : (h.onCore k f).groupOff = h.groupOff := rfl
@[simp] theorem Hw.onCore_vinBad (h : Hw) (k : Nat) (f : Core → Core) : (h.onCore k f).vinBad = h.vinBad := rfl
@[simp] theorem Hw.onCore_v33Left (h : Hw) (k : Nat) (f : Core → Core) : (h.onCore k f).v33Left = h.v33Left := rfl
@[simp] theorem Hw.onCore_budgets (h : Hw) (k : Nat) (f : Core → Core) : (h.onCore k f).budgets = h.budgets := rfl
@[simp] theorem Hw.onCore_supplyW (h : Hw) (k : Nat) (f : Core → Core) : (h.onCore k f).supplyW = h.supplyW := rfl
@[simp] theorem Hw.onCore_coolW (h : Hw) (k : Nat) (f : Core → Core) : (h.onCore k f).coolW = h.coolW := rfl
@[simp] theorem Hw.onCore_ceilPwr (h : Hw) (k : Nat) (f : Core → Core) : (h.onCore k f).ceilPwr = h.ceilPwr := rfl
@[simp] theorem Hw.onCore_ceilTherm (h : Hw) (k : Nat) (f : Core → Core) : (h.onCore k f).ceilTherm = h.ceilTherm := rfl
@[simp] theorem Hw.onCore_thermTicks (h : Hw) (k : Nat) (f : Core → Core) : (h.onCore k f).thermTicks = h.thermTicks := rfl
@[simp] theorem Hw.onCore_tripped (h : Hw) (k : Nat) (f : Core → Core) : (h.onCore k f).tripped = h.tripped := rfl
@[simp] theorem Hw.onCore_thermtripPin (h : Hw) (k : Nat) (f : Core → Core) : (h.onCore k f).thermtripPin = h.thermtripPin := rfl
@[simp] theorem Hw.onCore_tripInfo (h : Hw) (k : Nat) (f : Core → Core) : (h.onCore k f).tripInfo = h.tripInfo := rfl
@[simp] theorem Hw.onCore_keys (h : Hw) (k : Nat) (f : Core → Core) : (h.onCore k f).keys = h.keys := rfl
@[simp] theorem Hw.onCore_boot (h : Hw) (k : Nat) (f : Core → Core) : (h.onCore k f).boot = h.boot := rfl
@[simp] theorem Hw.onCore_meter (h : Hw) (k : Nat) (f : Core → Core) : (h.onCore k f).meter = h.meter := rfl
@[simp] theorem Hw.onCore_mtrx (h : Hw) (k : Nat) (f : Core → Core) : (h.onCore k f).mtrx = h.mtrx := rfl
@[simp] theorem Hw.onCore_evPend (h : Hw) (k : Nat) (f : Core → Core) : (h.onCore k f).evPend = h.evPend := rfl
@[simp] theorem Hw.onCore_evSlots (h : Hw) (k : Nat) (f : Core → Core) : (h.onCore k f).evSlots = h.evSlots := rfl
@[simp] theorem Hw.onCore_evFly (h : Hw) (k : Nat) (f : Core → Core) : (h.onCore k f).evFly = h.evFly := rfl
@[simp] theorem Hw.onCore_evCache (h : Hw) (k : Nat) (f : Core → Core) : (h.onCore k f).evCache = h.evCache := rfl
@[simp] theorem Hw.onCore_svcEvents (h : Hw) (k : Nat) (f : Core → Core) : (h.onCore k f).svcEvents = h.svcEvents := rfl
@[simp] theorem Hw.onCore_corrected (h : Hw) (k : Nat) (f : Core → Core) : (h.onCore k f).corrected = h.corrected := rfl
@[simp] theorem Hw.onCore_losses (h : Hw) (k : Nat) (f : Core → Core) : (h.onCore k f).losses = h.losses := rfl
@[simp] theorem Hw.onCore_updq (h : Hw) (k : Nat) (f : Core → Core) : (h.onCore k f).updq = h.updq := rfl
@[simp] theorem Hw.onCore_updates (h : Hw) (k : Nat) (f : Core → Core) : (h.onCore k f).updates = h.updates := rfl
@[simp] theorem Hw.onCore_plat (h : Hw) (k : Nat) (f : Core → Core) : (h.onCore k f).plat = h.plat := rfl

@[simp] theorem Hw.onCDie_now (h : Hw) (d : Nat) (f : CDieSt → CDieSt) : (h.onCDie d f).now = h.now := rfl
@[simp] theorem Hw.onCDie_clockOn (h : Hw) (d : Nat) (f : CDieSt → CDieSt) : (h.onCDie d f).clockOn = h.clockOn := rfl
@[simp] theorem Hw.onCDie_ao (h : Hw) (d : Nat) (f : CDieSt → CDieSt) : (h.onCDie d f).ao = h.ao := rfl
@[simp] theorem Hw.onCDie_free (h : Hw) (d : Nat) (f : CDieSt → CDieSt) : (h.onCDie d f).free = h.free := rfl
@[simp] theorem Hw.onCDie_mem (h : Hw) (d : Nat) (f : CDieSt → CDieSt) : (h.onCDie d f).mem = h.mem := rfl
@[simp] theorem Hw.onCDie_poison (h : Hw) (d : Nat) (f : CDieSt → CDieSt) : (h.onCDie d f).poison = h.poison := rfl
@[simp] theorem Hw.onCDie_regs (h : Hw) (d : Nat) (f : CDieSt → CDieSt) : (h.onCDie d f).regs = h.regs := rfl
@[simp] theorem Hw.onCDie_shadow (h : Hw) (d : Nat) (f : CDieSt → CDieSt) : (h.onCDie d f).shadow = h.shadow := rfl
@[simp] theorem Hw.onCDie_thr (h : Hw) (d : Nat) (f : CDieSt → CDieSt) : (h.onCDie d f).thr = h.thr := rfl
@[simp] theorem Hw.onCDie_cores (h : Hw) (d : Nat) (f : CDieSt → CDieSt) : (h.onCDie d f).cores = h.cores := rfl
@[simp] theorem Hw.onCDie_dpq (h : Hw) (d : Nat) (f : CDieSt → CDieSt) : (h.onCDie d f).dpq = h.dpq := rfl
@[simp] theorem Hw.onCDie_dpErrs (h : Hw) (d : Nat) (f : CDieSt → CDieSt) : (h.onCDie d f).dpErrs = h.dpErrs := rfl
@[simp] theorem Hw.onCDie_portUp (h : Hw) (d : Nat) (f : CDieSt → CDieSt) : (h.onCDie d f).portUp = h.portUp := rfl
@[simp] theorem Hw.onCDie_raises (h : Hw) (d : Nat) (f : CDieSt → CDieSt) : (h.onCDie d f).raises = h.raises := rfl
@[simp] theorem Hw.onCDie_msgs (h : Hw) (d : Nat) (f : CDieSt → CDieSt) : (h.onCDie d f).msgs = h.msgs := rfl
@[simp] theorem Hw.onCDie_dieOwner (h : Hw) (d : Nat) (f : CDieSt → CDieSt) : (h.onCDie d f).dieOwner = h.dieOwner := rfl
@[simp] theorem Hw.onCDie_portOwner (h : Hw) (d : Nat) (f : CDieSt → CDieSt) : (h.onCDie d f).portOwner = h.portOwner := rfl
@[simp] theorem Hw.onCDie_engOwner (h : Hw) (d : Nat) (f : CDieSt → CDieSt) : (h.onCDie d f).engOwner = h.engOwner := rfl
@[simp] theorem Hw.onCDie_xtl (h : Hw) (d : Nat) (f : CDieSt → CDieSt) : (h.onCDie d f).xtl = h.xtl := rfl
@[simp] theorem Hw.onCDie_xctx (h : Hw) (d : Nat) (f : CDieSt → CDieSt) : (h.onCDie d f).xctx = h.xctx := rfl
@[simp] theorem Hw.onCDie_dir (h : Hw) (d : Nat) (f : CDieSt → CDieSt) : (h.onCDie d f).dir = h.dir := rfl
@[simp] theorem Hw.onCDie_dcs (h : Hw) (d : Nat) (f : CDieSt → CDieSt) : (h.onCDie d f).dcs = h.dcs := rfl
@[simp] theorem Hw.onCDie_dwb (h : Hw) (d : Nat) (f : CDieSt → CDieSt) : (h.onCDie d f).dwb = h.dwb := rfl
@[simp] theorem Hw.onCDie_dhold (h : Hw) (d : Nat) (f : CDieSt → CDieSt) : (h.onCDie d f).dhold = h.dhold := rfl
@[simp] theorem Hw.onCDie_txns (h : Hw) (d : Nat) (f : CDieSt → CDieSt) : (h.onCDie d f).txns = h.txns := rfl
@[simp] theorem Hw.onCDie_waitq (h : Hw) (d : Nat) (f : CDieSt → CDieSt) : (h.onCDie d f).waitq = h.waitq := rfl
@[simp] theorem Hw.onCDie_elc (h : Hw) (d : Nat) (f : CDieSt → CDieSt) : (h.onCDie d f).elc = h.elc := rfl
@[simp] theorem Hw.onCDie_pwr (h : Hw) (d : Nat) (f : CDieSt → CDieSt) : (h.onCDie d f).pwr = h.pwr := rfl
@[simp] theorem Hw.onCDie_patom (h : Hw) (d : Nat) (f : CDieSt → CDieSt) : (h.onCDie d f).patom = h.patom := rfl
@[simp] theorem Hw.onCDie_prd (h : Hw) (d : Nat) (f : CDieSt → CDieSt) : (h.onCDie d f).prd = h.prd := rfl
@[simp] theorem Hw.onCDie_dmaCpls (h : Hw) (d : Nat) (f : CDieSt → CDieSt) : (h.onCDie d f).dmaCpls = h.dmaCpls := rfl
@[simp] theorem Hw.onCDie_esq (h : Hw) (d : Nat) (f : CDieSt → CDieSt) : (h.onCDie d f).esq = h.esq := rfl
@[simp] theorem Hw.onCDie_ownLines (h : Hw) (d : Nat) (f : CDieSt → CDieSt) : (h.onCDie d f).ownLines = h.ownLines := rfl
@[simp] theorem Hw.onCDie_heldSn (h : Hw) (d : Nat) (f : CDieSt → CDieSt) : (h.onCDie d f).heldSn = h.heldSn := rfl
@[simp] theorem Hw.onCDie_agWb (h : Hw) (d : Nat) (f : CDieSt → CDieSt) : (h.onCDie d f).agWb = h.agWb := rfl
@[simp] theorem Hw.onCDie_rc (h : Hw) (d : Nat) (f : CDieSt → CDieSt) : (h.onCDie d f).rc = h.rc := rfl
@[simp] theorem Hw.onCDie_rcPlru (h : Hw) (d : Nat) (f : CDieSt → CDieSt) : (h.onCDie d f).rcPlru = h.rcPlru := rfl
@[simp] theorem Hw.onCDie_hot (h : Hw) (d : Nat) (f : CDieSt → CDieSt) : (h.onCDie d f).hot = h.hot := rfl
@[simp] theorem Hw.onCDie_tpoison (h : Hw) (d : Nat) (f : CDieSt → CDieSt) : (h.onCDie d f).tpoison = h.tpoison := rfl
@[simp] theorem Hw.onCDie_rewrites (h : Hw) (d : Nat) (f : CDieSt → CDieSt) : (h.onCDie d f).rewrites = h.rewrites := rfl
@[simp] theorem Hw.onCDie_devCount (h : Hw) (d : Nat) (f : CDieSt → CDieSt) : (h.onCDie d f).devCount = h.devCount := rfl
@[simp] theorem Hw.onCDie_chFail (h : Hw) (d : Nat) (f : CDieSt → CDieSt) : (h.onCDie d f).chFail = h.chFail := rfl
@[simp] theorem Hw.onCDie_cap (h : Hw) (d : Nat) (f : CDieSt → CDieSt) : (h.onCDie d f).cap = h.cap := rfl
@[simp] theorem Hw.onCDie_hdm (h : Hw) (d : Nat) (f : CDieSt → CDieSt) : (h.onCDie d f).hdm = h.hdm := rfl
@[simp] theorem Hw.onCDie_spared (h : Hw) (d : Nat) (f : CDieSt → CDieSt) : (h.onCDie d f).spared = h.spared := rfl
@[simp] theorem Hw.onCDie_farHeld (h : Hw) (d : Nat) (f : CDieSt → CDieSt) : (h.onCDie d f).farHeld = h.farHeld := rfl
@[simp] theorem Hw.onCDie_dimms (h : Hw) (d : Nat) (f : CDieSt → CDieSt) : (h.onCDie d f).dimms = h.dimms := rfl
@[simp] theorem Hw.onCDie_isetWho (h : Hw) (d : Nat) (f : CDieSt → CDieSt) : (h.onCDie d f).isetWho = h.isetWho := rfl
@[simp] theorem Hw.onCDie_jobs (h : Hw) (d : Nat) (f : CDieSt → CDieSt) : (h.onCDie d f).jobs = h.jobs := rfl
@[simp] theorem Hw.onCDie_jobOrder (h : Hw) (d : Nat) (f : CDieSt → CDieSt) : (h.onCDie d f).jobOrder = h.jobOrder := rfl
@[simp] theorem Hw.onCDie_queueTurn (h : Hw) (d : Nat) (f : CDieSt → CDieSt) : (h.onCDie d f).queueTurn = h.queueTurn := rfl
@[simp] theorem Hw.onCDie_engq (h : Hw) (d : Nat) (f : CDieSt → CDieSt) : (h.onCDie d f).engq = h.engq := rfl
@[simp] theorem Hw.onCDie_held (h : Hw) (d : Nat) (f : CDieSt → CDieSt) : (h.onCDie d f).held = h.held := rfl
@[simp] theorem Hw.onCDie_run (h : Hw) (d : Nat) (f : CDieSt → CDieSt) : (h.onCDie d f).run = h.run := rfl
@[simp] theorem Hw.onCDie_sp (h : Hw) (d : Nat) (f : CDieSt → CDieSt) : (h.onCDie d f).sp = h.sp := rfl
@[simp] theorem Hw.onCDie_engLast (h : Hw) (d : Nat) (f : CDieSt → CDieSt) : (h.onCDie d f).engLast = h.engLast := rfl
@[simp] theorem Hw.onCDie_treqs (h : Hw) (d : Nat) (f : CDieSt → CDieSt) : (h.onCDie d f).treqs = h.treqs := rfl
@[simp] theorem Hw.onCDie_toks (h : Hw) (d : Nat) (f : CDieSt → CDieSt) : (h.onCDie d f).toks = h.toks := rfl
@[simp] theorem Hw.onCDie_rsps (h : Hw) (d : Nat) (f : CDieSt → CDieSt) : (h.onCDie d f).rsps = h.rsps := rfl
@[simp] theorem Hw.onCDie_tokWait (h : Hw) (d : Nat) (f : CDieSt → CDieSt) : (h.onCDie d f).tokWait = h.tokWait := rfl
@[simp] theorem Hw.onCDie_sleepers (h : Hw) (d : Nat) (f : CDieSt → CDieSt) : (h.onCDie d f).sleepers = h.sleepers := rfl
@[simp] theorem Hw.onCDie_closing (h : Hw) (d : Nat) (f : CDieSt → CDieSt) : (h.onCDie d f).closing = h.closing := rfl
@[simp] theorem Hw.onCDie_epochLast (h : Hw) (d : Nat) (f : CDieSt → CDieSt) : (h.onCDie d f).epochLast = h.epochLast := rfl
@[simp] theorem Hw.onCDie_epochPend (h : Hw) (d : Nat) (f : CDieSt → CDieSt) : (h.onCDie d f).epochPend = h.epochPend := rfl
@[simp] theorem Hw.onCDie_epochAt (h : Hw) (d : Nat) (f : CDieSt → CDieSt) : (h.onCDie d f).epochAt = h.epochAt := rfl
@[simp] theorem Hw.onCDie_torusTx (h : Hw) (d : Nat) (f : CDieSt → CDieSt) : (h.onCDie d f).torusTx = h.torusTx := rfl
@[simp] theorem Hw.onCDie_torusSeq (h : Hw) (d : Nat) (f : CDieSt → CDieSt) : (h.onCDie d f).torusSeq = h.torusSeq := rfl
@[simp] theorem Hw.onCDie_torusRx (h : Hw) (d : Nat) (f : CDieSt → CDieSt) : (h.onCDie d f).torusRx = h.torusRx := rfl
@[simp] theorem Hw.onCDie_torusHeld (h : Hw) (d : Nat) (f : CDieSt → CDieSt) : (h.onCDie d f).torusHeld = h.torusHeld := rfl
@[simp] theorem Hw.onCDie_coords (h : Hw) (d : Nat) (f : CDieSt → CDieSt) : (h.onCDie d f).coords = h.coords := rfl
@[simp] theorem Hw.onCDie_coordBad (h : Hw) (d : Nat) (f : CDieSt → CDieSt) : (h.onCDie d f).coordBad = h.coordBad := rfl
@[simp] theorem Hw.onCDie_lath (h : Hw) (d : Nat) (f : CDieSt → CDieSt) : (h.onCDie d f).lath = h.lath := rfl
@[simp] theorem Hw.onCDie_training (h : Hw) (d : Nat) (f : CDieSt → CDieSt) : (h.onCDie d f).training = h.training := rfl
@[simp] theorem Hw.onCDie_trainFails (h : Hw) (d : Nat) (f : CDieSt → CDieSt) : (h.onCDie d f).trainFails = h.trainFails := rfl
@[simp] theorem Hw.onCDie_repairs (h : Hw) (d : Nat) (f : CDieSt → CDieSt) : (h.onCDie d f).repairs = h.repairs := rfl
@[simp] theorem Hw.onCDie_edgeHeld (h : Hw) (d : Nat) (f : CDieSt → CDieSt) : (h.onCDie d f).edgeHeld = h.edgeHeld := rfl
@[simp] theorem Hw.onCDie_sleepReq (h : Hw) (d : Nat) (f : CDieSt → CDieSt) : (h.onCDie d f).sleepReq = h.sleepReq := rfl
@[simp] theorem Hw.onCDie_fwSwitch (h : Hw) (d : Nat) (f : CDieSt → CDieSt) : (h.onCDie d f).fwSwitch = h.fwSwitch := rfl
@[simp] theorem Hw.onCDie_lcmds (h : Hw) (d : Nat) (f : CDieSt → CDieSt) : (h.onCDie d f).lcmds = h.lcmds := rfl
@[simp] theorem Hw.onCDie_uncAt (h : Hw) (d : Nat) (f : CDieSt → CDieSt) : (h.onCDie d f).uncAt = h.uncAt := rfl
@[simp] theorem Hw.onCDie_committed (h : Hw) (d : Nat) (f : CDieSt → CDieSt) : (h.onCDie d f).committed = h.committed := rfl
@[simp] theorem Hw.onCDie_applying (h : Hw) (d : Nat) (f : CDieSt → CDieSt) : (h.onCDie d f).applying = h.applying := rfl
@[simp] theorem Hw.onCDie_authority (h : Hw) (d : Nat) (f : CDieSt → CDieSt) : (h.onCDie d f).authority = h.authority := rfl
@[simp] theorem Hw.onCDie_gibMoves (h : Hw) (d : Nat) (f : CDieSt → CDieSt) : (h.onCDie d f).gibMoves = h.gibMoves := rfl
@[simp] theorem Hw.onCDie_commit (h : Hw) (d : Nat) (f : CDieSt → CDieSt) : (h.onCDie d f).commit = h.commit := rfl
@[simp] theorem Hw.onCDie_partUp (h : Hw) (d : Nat) (f : CDieSt → CDieSt) : (h.onCDie d f).partUp = h.partUp := rfl
@[simp] theorem Hw.onCDie_partStopped (h : Hw) (d : Nat) (f : CDieSt → CDieSt) : (h.onCDie d f).partStopped = h.partStopped := rfl
@[simp] theorem Hw.onCDie_resetWait (h : Hw) (d : Nat) (f : CDieSt → CDieSt) : (h.onCDie d f).resetWait = h.resetWait := rfl
@[simp] theorem Hw.onCDie_domGoal (h : Hw) (d : Nat) (f : CDieSt → CDieSt) : (h.onCDie d f).domGoal = h.domGoal := rfl
@[simp] theorem Hw.onCDie_reqPend (h : Hw) (d : Nat) (f : CDieSt → CDieSt) : (h.onCDie d f).reqPend = h.reqPend := rfl
@[simp] theorem Hw.onCDie_domWho (h : Hw) (d : Nat) (f : CDieSt → CDieSt) : (h.onCDie d f).domWho = h.domWho := rfl
@[simp] theorem Hw.onCDie_wakeDue (h : Hw) (d : Nat) (f : CDieSt → CDieSt) : (h.onCDie d f).wakeDue = h.wakeDue := rfl
@[simp] theorem Hw.onCDie_assist (h : Hw) (d : Nat) (f : CDieSt → CDieSt) : (h.onCDie d f).assist = h.assist := rfl
@[simp] theorem Hw.onCDie_deepIdle (h : Hw) (d : Nat) (f : CDieSt → CDieSt) : (h.onCDie d f).deepIdle = h.deepIdle := rfl
@[simp] theorem Hw.onCDie_deepOk (h : Hw) (d : Nat) (f : CDieSt → CDieSt) : (h.onCDie d f).deepOk = h.deepOk := rfl
@[simp] theorem Hw.onCDie_wakeOnExit (h : Hw) (d : Nat) (f : CDieSt → CDieSt) : (h.onCDie d f).wakeOnExit = h.wakeOnExit := rfl
@[simp] theorem Hw.onCDie_curOver (h : Hw) (d : Nat) (f : CDieSt → CDieSt) : (h.onCDie d f).curOver = h.curOver := rfl
@[simp] theorem Hw.onCDie_curUnder (h : Hw) (d : Nat) (f : CDieSt → CDieSt) : (h.onCDie d f).curUnder = h.curUnder := rfl
@[simp] theorem Hw.onCDie_groupOff (h : Hw) (d : Nat) (f : CDieSt → CDieSt) : (h.onCDie d f).groupOff = h.groupOff := rfl
@[simp] theorem Hw.onCDie_vinBad (h : Hw) (d : Nat) (f : CDieSt → CDieSt) : (h.onCDie d f).vinBad = h.vinBad := rfl
@[simp] theorem Hw.onCDie_v33Left (h : Hw) (d : Nat) (f : CDieSt → CDieSt) : (h.onCDie d f).v33Left = h.v33Left := rfl
@[simp] theorem Hw.onCDie_budgets (h : Hw) (d : Nat) (f : CDieSt → CDieSt) : (h.onCDie d f).budgets = h.budgets := rfl
@[simp] theorem Hw.onCDie_supplyW (h : Hw) (d : Nat) (f : CDieSt → CDieSt) : (h.onCDie d f).supplyW = h.supplyW := rfl
@[simp] theorem Hw.onCDie_coolW (h : Hw) (d : Nat) (f : CDieSt → CDieSt) : (h.onCDie d f).coolW = h.coolW := rfl
@[simp] theorem Hw.onCDie_ceilPwr (h : Hw) (d : Nat) (f : CDieSt → CDieSt) : (h.onCDie d f).ceilPwr = h.ceilPwr := rfl
@[simp] theorem Hw.onCDie_ceilTherm (h : Hw) (d : Nat) (f : CDieSt → CDieSt) : (h.onCDie d f).ceilTherm = h.ceilTherm := rfl
@[simp] theorem Hw.onCDie_thermTicks (h : Hw) (d : Nat) (f : CDieSt → CDieSt) : (h.onCDie d f).thermTicks = h.thermTicks := rfl
@[simp] theorem Hw.onCDie_tripped (h : Hw) (d : Nat) (f : CDieSt → CDieSt) : (h.onCDie d f).tripped = h.tripped := rfl
@[simp] theorem Hw.onCDie_thermtripPin (h : Hw) (d : Nat) (f : CDieSt → CDieSt) : (h.onCDie d f).thermtripPin = h.thermtripPin := rfl
@[simp] theorem Hw.onCDie_tripInfo (h : Hw) (d : Nat) (f : CDieSt → CDieSt) : (h.onCDie d f).tripInfo = h.tripInfo := rfl
@[simp] theorem Hw.onCDie_keys (h : Hw) (d : Nat) (f : CDieSt → CDieSt) : (h.onCDie d f).keys = h.keys := rfl
@[simp] theorem Hw.onCDie_boot (h : Hw) (d : Nat) (f : CDieSt → CDieSt) : (h.onCDie d f).boot = h.boot := rfl
@[simp] theorem Hw.onCDie_meter (h : Hw) (d : Nat) (f : CDieSt → CDieSt) : (h.onCDie d f).meter = h.meter := rfl
@[simp] theorem Hw.onCDie_mtrx (h : Hw) (d : Nat) (f : CDieSt → CDieSt) : (h.onCDie d f).mtrx = h.mtrx := rfl
@[simp] theorem Hw.onCDie_evPend (h : Hw) (d : Nat) (f : CDieSt → CDieSt) : (h.onCDie d f).evPend = h.evPend := rfl
@[simp] theorem Hw.onCDie_evSlots (h : Hw) (d : Nat) (f : CDieSt → CDieSt) : (h.onCDie d f).evSlots = h.evSlots := rfl
@[simp] theorem Hw.onCDie_evFly (h : Hw) (d : Nat) (f : CDieSt → CDieSt) : (h.onCDie d f).evFly = h.evFly := rfl
@[simp] theorem Hw.onCDie_evCache (h : Hw) (d : Nat) (f : CDieSt → CDieSt) : (h.onCDie d f).evCache = h.evCache := rfl
@[simp] theorem Hw.onCDie_svcEvents (h : Hw) (d : Nat) (f : CDieSt → CDieSt) : (h.onCDie d f).svcEvents = h.svcEvents := rfl
@[simp] theorem Hw.onCDie_corrected (h : Hw) (d : Nat) (f : CDieSt → CDieSt) : (h.onCDie d f).corrected = h.corrected := rfl
@[simp] theorem Hw.onCDie_losses (h : Hw) (d : Nat) (f : CDieSt → CDieSt) : (h.onCDie d f).losses = h.losses := rfl
@[simp] theorem Hw.onCDie_updq (h : Hw) (d : Nat) (f : CDieSt → CDieSt) : (h.onCDie d f).updq = h.updq := rfl
@[simp] theorem Hw.onCDie_updates (h : Hw) (d : Nat) (f : CDieSt → CDieSt) : (h.onCDie d f).updates = h.updates := rfl
@[simp] theorem Hw.onCDie_plat (h : Hw) (d : Nat) (f : CDieSt → CDieSt) : (h.onCDie d f).plat = h.plat := rfl

@[simp] theorem Hw.setReg_now (h : Hw) (n : RegName) (die inst i : Nat) (v : W64) : (h.setReg n die inst i v).now = h.now := rfl
@[simp] theorem Hw.setReg_clockOn (h : Hw) (n : RegName) (die inst i : Nat) (v : W64) : (h.setReg n die inst i v).clockOn = h.clockOn := rfl
@[simp] theorem Hw.setReg_ao (h : Hw) (n : RegName) (die inst i : Nat) (v : W64) : (h.setReg n die inst i v).ao = h.ao := rfl
@[simp] theorem Hw.setReg_free (h : Hw) (n : RegName) (die inst i : Nat) (v : W64) : (h.setReg n die inst i v).free = h.free := rfl
@[simp] theorem Hw.setReg_mem (h : Hw) (n : RegName) (die inst i : Nat) (v : W64) : (h.setReg n die inst i v).mem = h.mem := rfl
@[simp] theorem Hw.setReg_poison (h : Hw) (n : RegName) (die inst i : Nat) (v : W64) : (h.setReg n die inst i v).poison = h.poison := rfl
@[simp] theorem Hw.setReg_shadow (h : Hw) (n : RegName) (die inst i : Nat) (v : W64) : (h.setReg n die inst i v).shadow = h.shadow := rfl
@[simp] theorem Hw.setReg_thr (h : Hw) (n : RegName) (die inst i : Nat) (v : W64) : (h.setReg n die inst i v).thr = h.thr := rfl
@[simp] theorem Hw.setReg_cores (h : Hw) (n : RegName) (die inst i : Nat) (v : W64) : (h.setReg n die inst i v).cores = h.cores := rfl
@[simp] theorem Hw.setReg_cdies (h : Hw) (n : RegName) (die inst i : Nat) (v : W64) : (h.setReg n die inst i v).cdies = h.cdies := rfl
@[simp] theorem Hw.setReg_dpq (h : Hw) (n : RegName) (die inst i : Nat) (v : W64) : (h.setReg n die inst i v).dpq = h.dpq := rfl
@[simp] theorem Hw.setReg_dpErrs (h : Hw) (n : RegName) (die inst i : Nat) (v : W64) : (h.setReg n die inst i v).dpErrs = h.dpErrs := rfl
@[simp] theorem Hw.setReg_portUp (h : Hw) (n : RegName) (die inst i : Nat) (v : W64) : (h.setReg n die inst i v).portUp = h.portUp := rfl
@[simp] theorem Hw.setReg_raises (h : Hw) (n : RegName) (die inst i : Nat) (v : W64) : (h.setReg n die inst i v).raises = h.raises := rfl
@[simp] theorem Hw.setReg_msgs (h : Hw) (n : RegName) (die inst i : Nat) (v : W64) : (h.setReg n die inst i v).msgs = h.msgs := rfl
@[simp] theorem Hw.setReg_dieOwner (h : Hw) (n : RegName) (die inst i : Nat) (v : W64) : (h.setReg n die inst i v).dieOwner = h.dieOwner := rfl
@[simp] theorem Hw.setReg_portOwner (h : Hw) (n : RegName) (die inst i : Nat) (v : W64) : (h.setReg n die inst i v).portOwner = h.portOwner := rfl
@[simp] theorem Hw.setReg_engOwner (h : Hw) (n : RegName) (die inst i : Nat) (v : W64) : (h.setReg n die inst i v).engOwner = h.engOwner := rfl
@[simp] theorem Hw.setReg_xtl (h : Hw) (n : RegName) (die inst i : Nat) (v : W64) : (h.setReg n die inst i v).xtl = h.xtl := rfl
@[simp] theorem Hw.setReg_xctx (h : Hw) (n : RegName) (die inst i : Nat) (v : W64) : (h.setReg n die inst i v).xctx = h.xctx := rfl
@[simp] theorem Hw.setReg_dir (h : Hw) (n : RegName) (die inst i : Nat) (v : W64) : (h.setReg n die inst i v).dir = h.dir := rfl
@[simp] theorem Hw.setReg_dcs (h : Hw) (n : RegName) (die inst i : Nat) (v : W64) : (h.setReg n die inst i v).dcs = h.dcs := rfl
@[simp] theorem Hw.setReg_dwb (h : Hw) (n : RegName) (die inst i : Nat) (v : W64) : (h.setReg n die inst i v).dwb = h.dwb := rfl
@[simp] theorem Hw.setReg_dhold (h : Hw) (n : RegName) (die inst i : Nat) (v : W64) : (h.setReg n die inst i v).dhold = h.dhold := rfl
@[simp] theorem Hw.setReg_txns (h : Hw) (n : RegName) (die inst i : Nat) (v : W64) : (h.setReg n die inst i v).txns = h.txns := rfl
@[simp] theorem Hw.setReg_waitq (h : Hw) (n : RegName) (die inst i : Nat) (v : W64) : (h.setReg n die inst i v).waitq = h.waitq := rfl
@[simp] theorem Hw.setReg_elc (h : Hw) (n : RegName) (die inst i : Nat) (v : W64) : (h.setReg n die inst i v).elc = h.elc := rfl
@[simp] theorem Hw.setReg_pwr (h : Hw) (n : RegName) (die inst i : Nat) (v : W64) : (h.setReg n die inst i v).pwr = h.pwr := rfl
@[simp] theorem Hw.setReg_patom (h : Hw) (n : RegName) (die inst i : Nat) (v : W64) : (h.setReg n die inst i v).patom = h.patom := rfl
@[simp] theorem Hw.setReg_prd (h : Hw) (n : RegName) (die inst i : Nat) (v : W64) : (h.setReg n die inst i v).prd = h.prd := rfl
@[simp] theorem Hw.setReg_dmaCpls (h : Hw) (n : RegName) (die inst i : Nat) (v : W64) : (h.setReg n die inst i v).dmaCpls = h.dmaCpls := rfl
@[simp] theorem Hw.setReg_esq (h : Hw) (n : RegName) (die inst i : Nat) (v : W64) : (h.setReg n die inst i v).esq = h.esq := rfl
@[simp] theorem Hw.setReg_ownLines (h : Hw) (n : RegName) (die inst i : Nat) (v : W64) : (h.setReg n die inst i v).ownLines = h.ownLines := rfl
@[simp] theorem Hw.setReg_heldSn (h : Hw) (n : RegName) (die inst i : Nat) (v : W64) : (h.setReg n die inst i v).heldSn = h.heldSn := rfl
@[simp] theorem Hw.setReg_agWb (h : Hw) (n : RegName) (die inst i : Nat) (v : W64) : (h.setReg n die inst i v).agWb = h.agWb := rfl
@[simp] theorem Hw.setReg_rc (h : Hw) (n : RegName) (die inst i : Nat) (v : W64) : (h.setReg n die inst i v).rc = h.rc := rfl
@[simp] theorem Hw.setReg_rcPlru (h : Hw) (n : RegName) (die inst i : Nat) (v : W64) : (h.setReg n die inst i v).rcPlru = h.rcPlru := rfl
@[simp] theorem Hw.setReg_hot (h : Hw) (n : RegName) (die inst i : Nat) (v : W64) : (h.setReg n die inst i v).hot = h.hot := rfl
@[simp] theorem Hw.setReg_tpoison (h : Hw) (n : RegName) (die inst i : Nat) (v : W64) : (h.setReg n die inst i v).tpoison = h.tpoison := rfl
@[simp] theorem Hw.setReg_rewrites (h : Hw) (n : RegName) (die inst i : Nat) (v : W64) : (h.setReg n die inst i v).rewrites = h.rewrites := rfl
@[simp] theorem Hw.setReg_devCount (h : Hw) (n : RegName) (die inst i : Nat) (v : W64) : (h.setReg n die inst i v).devCount = h.devCount := rfl
@[simp] theorem Hw.setReg_chFail (h : Hw) (n : RegName) (die inst i : Nat) (v : W64) : (h.setReg n die inst i v).chFail = h.chFail := rfl
@[simp] theorem Hw.setReg_cap (h : Hw) (n : RegName) (die inst i : Nat) (v : W64) : (h.setReg n die inst i v).cap = h.cap := rfl
@[simp] theorem Hw.setReg_hdm (h : Hw) (n : RegName) (die inst i : Nat) (v : W64) : (h.setReg n die inst i v).hdm = h.hdm := rfl
@[simp] theorem Hw.setReg_spared (h : Hw) (n : RegName) (die inst i : Nat) (v : W64) : (h.setReg n die inst i v).spared = h.spared := rfl
@[simp] theorem Hw.setReg_farHeld (h : Hw) (n : RegName) (die inst i : Nat) (v : W64) : (h.setReg n die inst i v).farHeld = h.farHeld := rfl
@[simp] theorem Hw.setReg_dimms (h : Hw) (n : RegName) (die inst i : Nat) (v : W64) : (h.setReg n die inst i v).dimms = h.dimms := rfl
@[simp] theorem Hw.setReg_isetWho (h : Hw) (n : RegName) (die inst i : Nat) (v : W64) : (h.setReg n die inst i v).isetWho = h.isetWho := rfl
@[simp] theorem Hw.setReg_jobs (h : Hw) (n : RegName) (die inst i : Nat) (v : W64) : (h.setReg n die inst i v).jobs = h.jobs := rfl
@[simp] theorem Hw.setReg_jobOrder (h : Hw) (n : RegName) (die inst i : Nat) (v : W64) : (h.setReg n die inst i v).jobOrder = h.jobOrder := rfl
@[simp] theorem Hw.setReg_queueTurn (h : Hw) (n : RegName) (die inst i : Nat) (v : W64) : (h.setReg n die inst i v).queueTurn = h.queueTurn := rfl
@[simp] theorem Hw.setReg_engq (h : Hw) (n : RegName) (die inst i : Nat) (v : W64) : (h.setReg n die inst i v).engq = h.engq := rfl
@[simp] theorem Hw.setReg_held (h : Hw) (n : RegName) (die inst i : Nat) (v : W64) : (h.setReg n die inst i v).held = h.held := rfl
@[simp] theorem Hw.setReg_run (h : Hw) (n : RegName) (die inst i : Nat) (v : W64) : (h.setReg n die inst i v).run = h.run := rfl
@[simp] theorem Hw.setReg_sp (h : Hw) (n : RegName) (die inst i : Nat) (v : W64) : (h.setReg n die inst i v).sp = h.sp := rfl
@[simp] theorem Hw.setReg_engLast (h : Hw) (n : RegName) (die inst i : Nat) (v : W64) : (h.setReg n die inst i v).engLast = h.engLast := rfl
@[simp] theorem Hw.setReg_treqs (h : Hw) (n : RegName) (die inst i : Nat) (v : W64) : (h.setReg n die inst i v).treqs = h.treqs := rfl
@[simp] theorem Hw.setReg_toks (h : Hw) (n : RegName) (die inst i : Nat) (v : W64) : (h.setReg n die inst i v).toks = h.toks := rfl
@[simp] theorem Hw.setReg_rsps (h : Hw) (n : RegName) (die inst i : Nat) (v : W64) : (h.setReg n die inst i v).rsps = h.rsps := rfl
@[simp] theorem Hw.setReg_tokWait (h : Hw) (n : RegName) (die inst i : Nat) (v : W64) : (h.setReg n die inst i v).tokWait = h.tokWait := rfl
@[simp] theorem Hw.setReg_sleepers (h : Hw) (n : RegName) (die inst i : Nat) (v : W64) : (h.setReg n die inst i v).sleepers = h.sleepers := rfl
@[simp] theorem Hw.setReg_closing (h : Hw) (n : RegName) (die inst i : Nat) (v : W64) : (h.setReg n die inst i v).closing = h.closing := rfl
@[simp] theorem Hw.setReg_epochLast (h : Hw) (n : RegName) (die inst i : Nat) (v : W64) : (h.setReg n die inst i v).epochLast = h.epochLast := rfl
@[simp] theorem Hw.setReg_epochPend (h : Hw) (n : RegName) (die inst i : Nat) (v : W64) : (h.setReg n die inst i v).epochPend = h.epochPend := rfl
@[simp] theorem Hw.setReg_epochAt (h : Hw) (n : RegName) (die inst i : Nat) (v : W64) : (h.setReg n die inst i v).epochAt = h.epochAt := rfl
@[simp] theorem Hw.setReg_torusTx (h : Hw) (n : RegName) (die inst i : Nat) (v : W64) : (h.setReg n die inst i v).torusTx = h.torusTx := rfl
@[simp] theorem Hw.setReg_torusSeq (h : Hw) (n : RegName) (die inst i : Nat) (v : W64) : (h.setReg n die inst i v).torusSeq = h.torusSeq := rfl
@[simp] theorem Hw.setReg_torusRx (h : Hw) (n : RegName) (die inst i : Nat) (v : W64) : (h.setReg n die inst i v).torusRx = h.torusRx := rfl
@[simp] theorem Hw.setReg_torusHeld (h : Hw) (n : RegName) (die inst i : Nat) (v : W64) : (h.setReg n die inst i v).torusHeld = h.torusHeld := rfl
@[simp] theorem Hw.setReg_coords (h : Hw) (n : RegName) (die inst i : Nat) (v : W64) : (h.setReg n die inst i v).coords = h.coords := rfl
@[simp] theorem Hw.setReg_coordBad (h : Hw) (n : RegName) (die inst i : Nat) (v : W64) : (h.setReg n die inst i v).coordBad = h.coordBad := rfl
@[simp] theorem Hw.setReg_lath (h : Hw) (n : RegName) (die inst i : Nat) (v : W64) : (h.setReg n die inst i v).lath = h.lath := rfl
@[simp] theorem Hw.setReg_training (h : Hw) (n : RegName) (die inst i : Nat) (v : W64) : (h.setReg n die inst i v).training = h.training := rfl
@[simp] theorem Hw.setReg_trainFails (h : Hw) (n : RegName) (die inst i : Nat) (v : W64) : (h.setReg n die inst i v).trainFails = h.trainFails := rfl
@[simp] theorem Hw.setReg_repairs (h : Hw) (n : RegName) (die inst i : Nat) (v : W64) : (h.setReg n die inst i v).repairs = h.repairs := rfl
@[simp] theorem Hw.setReg_edgeHeld (h : Hw) (n : RegName) (die inst i : Nat) (v : W64) : (h.setReg n die inst i v).edgeHeld = h.edgeHeld := rfl
@[simp] theorem Hw.setReg_sleepReq (h : Hw) (n : RegName) (die inst i : Nat) (v : W64) : (h.setReg n die inst i v).sleepReq = h.sleepReq := rfl
@[simp] theorem Hw.setReg_fwSwitch (h : Hw) (n : RegName) (die inst i : Nat) (v : W64) : (h.setReg n die inst i v).fwSwitch = h.fwSwitch := rfl
@[simp] theorem Hw.setReg_lcmds (h : Hw) (n : RegName) (die inst i : Nat) (v : W64) : (h.setReg n die inst i v).lcmds = h.lcmds := rfl
@[simp] theorem Hw.setReg_uncAt (h : Hw) (n : RegName) (die inst i : Nat) (v : W64) : (h.setReg n die inst i v).uncAt = h.uncAt := rfl
@[simp] theorem Hw.setReg_committed (h : Hw) (n : RegName) (die inst i : Nat) (v : W64) : (h.setReg n die inst i v).committed = h.committed := rfl
@[simp] theorem Hw.setReg_applying (h : Hw) (n : RegName) (die inst i : Nat) (v : W64) : (h.setReg n die inst i v).applying = h.applying := rfl
@[simp] theorem Hw.setReg_authority (h : Hw) (n : RegName) (die inst i : Nat) (v : W64) : (h.setReg n die inst i v).authority = h.authority := rfl
@[simp] theorem Hw.setReg_gibMoves (h : Hw) (n : RegName) (die inst i : Nat) (v : W64) : (h.setReg n die inst i v).gibMoves = h.gibMoves := rfl
@[simp] theorem Hw.setReg_commit (h : Hw) (n : RegName) (die inst i : Nat) (v : W64) : (h.setReg n die inst i v).commit = h.commit := rfl
@[simp] theorem Hw.setReg_partUp (h : Hw) (n : RegName) (die inst i : Nat) (v : W64) : (h.setReg n die inst i v).partUp = h.partUp := rfl
@[simp] theorem Hw.setReg_partStopped (h : Hw) (n : RegName) (die inst i : Nat) (v : W64) : (h.setReg n die inst i v).partStopped = h.partStopped := rfl
@[simp] theorem Hw.setReg_resetWait (h : Hw) (n : RegName) (die inst i : Nat) (v : W64) : (h.setReg n die inst i v).resetWait = h.resetWait := rfl
@[simp] theorem Hw.setReg_domGoal (h : Hw) (n : RegName) (die inst i : Nat) (v : W64) : (h.setReg n die inst i v).domGoal = h.domGoal := rfl
@[simp] theorem Hw.setReg_reqPend (h : Hw) (n : RegName) (die inst i : Nat) (v : W64) : (h.setReg n die inst i v).reqPend = h.reqPend := rfl
@[simp] theorem Hw.setReg_domWho (h : Hw) (n : RegName) (die inst i : Nat) (v : W64) : (h.setReg n die inst i v).domWho = h.domWho := rfl
@[simp] theorem Hw.setReg_wakeDue (h : Hw) (n : RegName) (die inst i : Nat) (v : W64) : (h.setReg n die inst i v).wakeDue = h.wakeDue := rfl
@[simp] theorem Hw.setReg_assist (h : Hw) (n : RegName) (die inst i : Nat) (v : W64) : (h.setReg n die inst i v).assist = h.assist := rfl
@[simp] theorem Hw.setReg_deepIdle (h : Hw) (n : RegName) (die inst i : Nat) (v : W64) : (h.setReg n die inst i v).deepIdle = h.deepIdle := rfl
@[simp] theorem Hw.setReg_deepOk (h : Hw) (n : RegName) (die inst i : Nat) (v : W64) : (h.setReg n die inst i v).deepOk = h.deepOk := rfl
@[simp] theorem Hw.setReg_wakeOnExit (h : Hw) (n : RegName) (die inst i : Nat) (v : W64) : (h.setReg n die inst i v).wakeOnExit = h.wakeOnExit := rfl
@[simp] theorem Hw.setReg_curOver (h : Hw) (n : RegName) (die inst i : Nat) (v : W64) : (h.setReg n die inst i v).curOver = h.curOver := rfl
@[simp] theorem Hw.setReg_curUnder (h : Hw) (n : RegName) (die inst i : Nat) (v : W64) : (h.setReg n die inst i v).curUnder = h.curUnder := rfl
@[simp] theorem Hw.setReg_groupOff (h : Hw) (n : RegName) (die inst i : Nat) (v : W64) : (h.setReg n die inst i v).groupOff = h.groupOff := rfl
@[simp] theorem Hw.setReg_vinBad (h : Hw) (n : RegName) (die inst i : Nat) (v : W64) : (h.setReg n die inst i v).vinBad = h.vinBad := rfl
@[simp] theorem Hw.setReg_v33Left (h : Hw) (n : RegName) (die inst i : Nat) (v : W64) : (h.setReg n die inst i v).v33Left = h.v33Left := rfl
@[simp] theorem Hw.setReg_budgets (h : Hw) (n : RegName) (die inst i : Nat) (v : W64) : (h.setReg n die inst i v).budgets = h.budgets := rfl
@[simp] theorem Hw.setReg_supplyW (h : Hw) (n : RegName) (die inst i : Nat) (v : W64) : (h.setReg n die inst i v).supplyW = h.supplyW := rfl
@[simp] theorem Hw.setReg_coolW (h : Hw) (n : RegName) (die inst i : Nat) (v : W64) : (h.setReg n die inst i v).coolW = h.coolW := rfl
@[simp] theorem Hw.setReg_ceilPwr (h : Hw) (n : RegName) (die inst i : Nat) (v : W64) : (h.setReg n die inst i v).ceilPwr = h.ceilPwr := rfl
@[simp] theorem Hw.setReg_ceilTherm (h : Hw) (n : RegName) (die inst i : Nat) (v : W64) : (h.setReg n die inst i v).ceilTherm = h.ceilTherm := rfl
@[simp] theorem Hw.setReg_thermTicks (h : Hw) (n : RegName) (die inst i : Nat) (v : W64) : (h.setReg n die inst i v).thermTicks = h.thermTicks := rfl
@[simp] theorem Hw.setReg_tripped (h : Hw) (n : RegName) (die inst i : Nat) (v : W64) : (h.setReg n die inst i v).tripped = h.tripped := rfl
@[simp] theorem Hw.setReg_thermtripPin (h : Hw) (n : RegName) (die inst i : Nat) (v : W64) : (h.setReg n die inst i v).thermtripPin = h.thermtripPin := rfl
@[simp] theorem Hw.setReg_tripInfo (h : Hw) (n : RegName) (die inst i : Nat) (v : W64) : (h.setReg n die inst i v).tripInfo = h.tripInfo := rfl
@[simp] theorem Hw.setReg_keys (h : Hw) (n : RegName) (die inst i : Nat) (v : W64) : (h.setReg n die inst i v).keys = h.keys := rfl
@[simp] theorem Hw.setReg_boot (h : Hw) (n : RegName) (die inst i : Nat) (v : W64) : (h.setReg n die inst i v).boot = h.boot := rfl
@[simp] theorem Hw.setReg_meter (h : Hw) (n : RegName) (die inst i : Nat) (v : W64) : (h.setReg n die inst i v).meter = h.meter := rfl
@[simp] theorem Hw.setReg_mtrx (h : Hw) (n : RegName) (die inst i : Nat) (v : W64) : (h.setReg n die inst i v).mtrx = h.mtrx := rfl
@[simp] theorem Hw.setReg_evPend (h : Hw) (n : RegName) (die inst i : Nat) (v : W64) : (h.setReg n die inst i v).evPend = h.evPend := rfl
@[simp] theorem Hw.setReg_evSlots (h : Hw) (n : RegName) (die inst i : Nat) (v : W64) : (h.setReg n die inst i v).evSlots = h.evSlots := rfl
@[simp] theorem Hw.setReg_evFly (h : Hw) (n : RegName) (die inst i : Nat) (v : W64) : (h.setReg n die inst i v).evFly = h.evFly := rfl
@[simp] theorem Hw.setReg_evCache (h : Hw) (n : RegName) (die inst i : Nat) (v : W64) : (h.setReg n die inst i v).evCache = h.evCache := rfl
@[simp] theorem Hw.setReg_svcEvents (h : Hw) (n : RegName) (die inst i : Nat) (v : W64) : (h.setReg n die inst i v).svcEvents = h.svcEvents := rfl
@[simp] theorem Hw.setReg_corrected (h : Hw) (n : RegName) (die inst i : Nat) (v : W64) : (h.setReg n die inst i v).corrected = h.corrected := rfl
@[simp] theorem Hw.setReg_losses (h : Hw) (n : RegName) (die inst i : Nat) (v : W64) : (h.setReg n die inst i v).losses = h.losses := rfl
@[simp] theorem Hw.setReg_updq (h : Hw) (n : RegName) (die inst i : Nat) (v : W64) : (h.setReg n die inst i v).updq = h.updq := rfl
@[simp] theorem Hw.setReg_updates (h : Hw) (n : RegName) (die inst i : Nat) (v : W64) : (h.setReg n die inst i v).updates = h.updates := rfl
@[simp] theorem Hw.setReg_plat (h : Hw) (n : RegName) (die inst i : Nat) (v : W64) : (h.setReg n die inst i v).plat = h.plat := rfl

@[simp] theorem Hw.setFld_now (h : Hw) (n : RegName) (die inst i : Nat) (g : Fld) (x : Nat) : (h.setFld n die inst i g x).now = h.now := rfl
@[simp] theorem Hw.setFld_clockOn (h : Hw) (n : RegName) (die inst i : Nat) (g : Fld) (x : Nat) : (h.setFld n die inst i g x).clockOn = h.clockOn := rfl
@[simp] theorem Hw.setFld_ao (h : Hw) (n : RegName) (die inst i : Nat) (g : Fld) (x : Nat) : (h.setFld n die inst i g x).ao = h.ao := rfl
@[simp] theorem Hw.setFld_free (h : Hw) (n : RegName) (die inst i : Nat) (g : Fld) (x : Nat) : (h.setFld n die inst i g x).free = h.free := rfl
@[simp] theorem Hw.setFld_mem (h : Hw) (n : RegName) (die inst i : Nat) (g : Fld) (x : Nat) : (h.setFld n die inst i g x).mem = h.mem := rfl
@[simp] theorem Hw.setFld_poison (h : Hw) (n : RegName) (die inst i : Nat) (g : Fld) (x : Nat) : (h.setFld n die inst i g x).poison = h.poison := rfl
@[simp] theorem Hw.setFld_shadow (h : Hw) (n : RegName) (die inst i : Nat) (g : Fld) (x : Nat) : (h.setFld n die inst i g x).shadow = h.shadow := rfl
@[simp] theorem Hw.setFld_thr (h : Hw) (n : RegName) (die inst i : Nat) (g : Fld) (x : Nat) : (h.setFld n die inst i g x).thr = h.thr := rfl
@[simp] theorem Hw.setFld_cores (h : Hw) (n : RegName) (die inst i : Nat) (g : Fld) (x : Nat) : (h.setFld n die inst i g x).cores = h.cores := rfl
@[simp] theorem Hw.setFld_cdies (h : Hw) (n : RegName) (die inst i : Nat) (g : Fld) (x : Nat) : (h.setFld n die inst i g x).cdies = h.cdies := rfl
@[simp] theorem Hw.setFld_dpq (h : Hw) (n : RegName) (die inst i : Nat) (g : Fld) (x : Nat) : (h.setFld n die inst i g x).dpq = h.dpq := rfl
@[simp] theorem Hw.setFld_dpErrs (h : Hw) (n : RegName) (die inst i : Nat) (g : Fld) (x : Nat) : (h.setFld n die inst i g x).dpErrs = h.dpErrs := rfl
@[simp] theorem Hw.setFld_portUp (h : Hw) (n : RegName) (die inst i : Nat) (g : Fld) (x : Nat) : (h.setFld n die inst i g x).portUp = h.portUp := rfl
@[simp] theorem Hw.setFld_raises (h : Hw) (n : RegName) (die inst i : Nat) (g : Fld) (x : Nat) : (h.setFld n die inst i g x).raises = h.raises := rfl
@[simp] theorem Hw.setFld_msgs (h : Hw) (n : RegName) (die inst i : Nat) (g : Fld) (x : Nat) : (h.setFld n die inst i g x).msgs = h.msgs := rfl
@[simp] theorem Hw.setFld_dieOwner (h : Hw) (n : RegName) (die inst i : Nat) (g : Fld) (x : Nat) : (h.setFld n die inst i g x).dieOwner = h.dieOwner := rfl
@[simp] theorem Hw.setFld_portOwner (h : Hw) (n : RegName) (die inst i : Nat) (g : Fld) (x : Nat) : (h.setFld n die inst i g x).portOwner = h.portOwner := rfl
@[simp] theorem Hw.setFld_engOwner (h : Hw) (n : RegName) (die inst i : Nat) (g : Fld) (x : Nat) : (h.setFld n die inst i g x).engOwner = h.engOwner := rfl
@[simp] theorem Hw.setFld_xtl (h : Hw) (n : RegName) (die inst i : Nat) (g : Fld) (x : Nat) : (h.setFld n die inst i g x).xtl = h.xtl := rfl
@[simp] theorem Hw.setFld_xctx (h : Hw) (n : RegName) (die inst i : Nat) (g : Fld) (x : Nat) : (h.setFld n die inst i g x).xctx = h.xctx := rfl
@[simp] theorem Hw.setFld_dir (h : Hw) (n : RegName) (die inst i : Nat) (g : Fld) (x : Nat) : (h.setFld n die inst i g x).dir = h.dir := rfl
@[simp] theorem Hw.setFld_dcs (h : Hw) (n : RegName) (die inst i : Nat) (g : Fld) (x : Nat) : (h.setFld n die inst i g x).dcs = h.dcs := rfl
@[simp] theorem Hw.setFld_dwb (h : Hw) (n : RegName) (die inst i : Nat) (g : Fld) (x : Nat) : (h.setFld n die inst i g x).dwb = h.dwb := rfl
@[simp] theorem Hw.setFld_dhold (h : Hw) (n : RegName) (die inst i : Nat) (g : Fld) (x : Nat) : (h.setFld n die inst i g x).dhold = h.dhold := rfl
@[simp] theorem Hw.setFld_txns (h : Hw) (n : RegName) (die inst i : Nat) (g : Fld) (x : Nat) : (h.setFld n die inst i g x).txns = h.txns := rfl
@[simp] theorem Hw.setFld_waitq (h : Hw) (n : RegName) (die inst i : Nat) (g : Fld) (x : Nat) : (h.setFld n die inst i g x).waitq = h.waitq := rfl
@[simp] theorem Hw.setFld_elc (h : Hw) (n : RegName) (die inst i : Nat) (g : Fld) (x : Nat) : (h.setFld n die inst i g x).elc = h.elc := rfl
@[simp] theorem Hw.setFld_pwr (h : Hw) (n : RegName) (die inst i : Nat) (g : Fld) (x : Nat) : (h.setFld n die inst i g x).pwr = h.pwr := rfl
@[simp] theorem Hw.setFld_patom (h : Hw) (n : RegName) (die inst i : Nat) (g : Fld) (x : Nat) : (h.setFld n die inst i g x).patom = h.patom := rfl
@[simp] theorem Hw.setFld_prd (h : Hw) (n : RegName) (die inst i : Nat) (g : Fld) (x : Nat) : (h.setFld n die inst i g x).prd = h.prd := rfl
@[simp] theorem Hw.setFld_dmaCpls (h : Hw) (n : RegName) (die inst i : Nat) (g : Fld) (x : Nat) : (h.setFld n die inst i g x).dmaCpls = h.dmaCpls := rfl
@[simp] theorem Hw.setFld_esq (h : Hw) (n : RegName) (die inst i : Nat) (g : Fld) (x : Nat) : (h.setFld n die inst i g x).esq = h.esq := rfl
@[simp] theorem Hw.setFld_ownLines (h : Hw) (n : RegName) (die inst i : Nat) (g : Fld) (x : Nat) : (h.setFld n die inst i g x).ownLines = h.ownLines := rfl
@[simp] theorem Hw.setFld_heldSn (h : Hw) (n : RegName) (die inst i : Nat) (g : Fld) (x : Nat) : (h.setFld n die inst i g x).heldSn = h.heldSn := rfl
@[simp] theorem Hw.setFld_agWb (h : Hw) (n : RegName) (die inst i : Nat) (g : Fld) (x : Nat) : (h.setFld n die inst i g x).agWb = h.agWb := rfl
@[simp] theorem Hw.setFld_rc (h : Hw) (n : RegName) (die inst i : Nat) (g : Fld) (x : Nat) : (h.setFld n die inst i g x).rc = h.rc := rfl
@[simp] theorem Hw.setFld_rcPlru (h : Hw) (n : RegName) (die inst i : Nat) (g : Fld) (x : Nat) : (h.setFld n die inst i g x).rcPlru = h.rcPlru := rfl
@[simp] theorem Hw.setFld_hot (h : Hw) (n : RegName) (die inst i : Nat) (g : Fld) (x : Nat) : (h.setFld n die inst i g x).hot = h.hot := rfl
@[simp] theorem Hw.setFld_tpoison (h : Hw) (n : RegName) (die inst i : Nat) (g : Fld) (x : Nat) : (h.setFld n die inst i g x).tpoison = h.tpoison := rfl
@[simp] theorem Hw.setFld_rewrites (h : Hw) (n : RegName) (die inst i : Nat) (g : Fld) (x : Nat) : (h.setFld n die inst i g x).rewrites = h.rewrites := rfl
@[simp] theorem Hw.setFld_devCount (h : Hw) (n : RegName) (die inst i : Nat) (g : Fld) (x : Nat) : (h.setFld n die inst i g x).devCount = h.devCount := rfl
@[simp] theorem Hw.setFld_chFail (h : Hw) (n : RegName) (die inst i : Nat) (g : Fld) (x : Nat) : (h.setFld n die inst i g x).chFail = h.chFail := rfl
@[simp] theorem Hw.setFld_cap (h : Hw) (n : RegName) (die inst i : Nat) (g : Fld) (x : Nat) : (h.setFld n die inst i g x).cap = h.cap := rfl
@[simp] theorem Hw.setFld_hdm (h : Hw) (n : RegName) (die inst i : Nat) (g : Fld) (x : Nat) : (h.setFld n die inst i g x).hdm = h.hdm := rfl
@[simp] theorem Hw.setFld_spared (h : Hw) (n : RegName) (die inst i : Nat) (g : Fld) (x : Nat) : (h.setFld n die inst i g x).spared = h.spared := rfl
@[simp] theorem Hw.setFld_farHeld (h : Hw) (n : RegName) (die inst i : Nat) (g : Fld) (x : Nat) : (h.setFld n die inst i g x).farHeld = h.farHeld := rfl
@[simp] theorem Hw.setFld_dimms (h : Hw) (n : RegName) (die inst i : Nat) (g : Fld) (x : Nat) : (h.setFld n die inst i g x).dimms = h.dimms := rfl
@[simp] theorem Hw.setFld_isetWho (h : Hw) (n : RegName) (die inst i : Nat) (g : Fld) (x : Nat) : (h.setFld n die inst i g x).isetWho = h.isetWho := rfl
@[simp] theorem Hw.setFld_jobs (h : Hw) (n : RegName) (die inst i : Nat) (g : Fld) (x : Nat) : (h.setFld n die inst i g x).jobs = h.jobs := rfl
@[simp] theorem Hw.setFld_jobOrder (h : Hw) (n : RegName) (die inst i : Nat) (g : Fld) (x : Nat) : (h.setFld n die inst i g x).jobOrder = h.jobOrder := rfl
@[simp] theorem Hw.setFld_queueTurn (h : Hw) (n : RegName) (die inst i : Nat) (g : Fld) (x : Nat) : (h.setFld n die inst i g x).queueTurn = h.queueTurn := rfl
@[simp] theorem Hw.setFld_engq (h : Hw) (n : RegName) (die inst i : Nat) (g : Fld) (x : Nat) : (h.setFld n die inst i g x).engq = h.engq := rfl
@[simp] theorem Hw.setFld_held (h : Hw) (n : RegName) (die inst i : Nat) (g : Fld) (x : Nat) : (h.setFld n die inst i g x).held = h.held := rfl
@[simp] theorem Hw.setFld_run (h : Hw) (n : RegName) (die inst i : Nat) (g : Fld) (x : Nat) : (h.setFld n die inst i g x).run = h.run := rfl
@[simp] theorem Hw.setFld_sp (h : Hw) (n : RegName) (die inst i : Nat) (g : Fld) (x : Nat) : (h.setFld n die inst i g x).sp = h.sp := rfl
@[simp] theorem Hw.setFld_engLast (h : Hw) (n : RegName) (die inst i : Nat) (g : Fld) (x : Nat) : (h.setFld n die inst i g x).engLast = h.engLast := rfl
@[simp] theorem Hw.setFld_treqs (h : Hw) (n : RegName) (die inst i : Nat) (g : Fld) (x : Nat) : (h.setFld n die inst i g x).treqs = h.treqs := rfl
@[simp] theorem Hw.setFld_toks (h : Hw) (n : RegName) (die inst i : Nat) (g : Fld) (x : Nat) : (h.setFld n die inst i g x).toks = h.toks := rfl
@[simp] theorem Hw.setFld_rsps (h : Hw) (n : RegName) (die inst i : Nat) (g : Fld) (x : Nat) : (h.setFld n die inst i g x).rsps = h.rsps := rfl
@[simp] theorem Hw.setFld_tokWait (h : Hw) (n : RegName) (die inst i : Nat) (g : Fld) (x : Nat) : (h.setFld n die inst i g x).tokWait = h.tokWait := rfl
@[simp] theorem Hw.setFld_sleepers (h : Hw) (n : RegName) (die inst i : Nat) (g : Fld) (x : Nat) : (h.setFld n die inst i g x).sleepers = h.sleepers := rfl
@[simp] theorem Hw.setFld_closing (h : Hw) (n : RegName) (die inst i : Nat) (g : Fld) (x : Nat) : (h.setFld n die inst i g x).closing = h.closing := rfl
@[simp] theorem Hw.setFld_epochLast (h : Hw) (n : RegName) (die inst i : Nat) (g : Fld) (x : Nat) : (h.setFld n die inst i g x).epochLast = h.epochLast := rfl
@[simp] theorem Hw.setFld_epochPend (h : Hw) (n : RegName) (die inst i : Nat) (g : Fld) (x : Nat) : (h.setFld n die inst i g x).epochPend = h.epochPend := rfl
@[simp] theorem Hw.setFld_epochAt (h : Hw) (n : RegName) (die inst i : Nat) (g : Fld) (x : Nat) : (h.setFld n die inst i g x).epochAt = h.epochAt := rfl
@[simp] theorem Hw.setFld_torusTx (h : Hw) (n : RegName) (die inst i : Nat) (g : Fld) (x : Nat) : (h.setFld n die inst i g x).torusTx = h.torusTx := rfl
@[simp] theorem Hw.setFld_torusSeq (h : Hw) (n : RegName) (die inst i : Nat) (g : Fld) (x : Nat) : (h.setFld n die inst i g x).torusSeq = h.torusSeq := rfl
@[simp] theorem Hw.setFld_torusRx (h : Hw) (n : RegName) (die inst i : Nat) (g : Fld) (x : Nat) : (h.setFld n die inst i g x).torusRx = h.torusRx := rfl
@[simp] theorem Hw.setFld_torusHeld (h : Hw) (n : RegName) (die inst i : Nat) (g : Fld) (x : Nat) : (h.setFld n die inst i g x).torusHeld = h.torusHeld := rfl
@[simp] theorem Hw.setFld_coords (h : Hw) (n : RegName) (die inst i : Nat) (g : Fld) (x : Nat) : (h.setFld n die inst i g x).coords = h.coords := rfl
@[simp] theorem Hw.setFld_coordBad (h : Hw) (n : RegName) (die inst i : Nat) (g : Fld) (x : Nat) : (h.setFld n die inst i g x).coordBad = h.coordBad := rfl
@[simp] theorem Hw.setFld_lath (h : Hw) (n : RegName) (die inst i : Nat) (g : Fld) (x : Nat) : (h.setFld n die inst i g x).lath = h.lath := rfl
@[simp] theorem Hw.setFld_training (h : Hw) (n : RegName) (die inst i : Nat) (g : Fld) (x : Nat) : (h.setFld n die inst i g x).training = h.training := rfl
@[simp] theorem Hw.setFld_trainFails (h : Hw) (n : RegName) (die inst i : Nat) (g : Fld) (x : Nat) : (h.setFld n die inst i g x).trainFails = h.trainFails := rfl
@[simp] theorem Hw.setFld_repairs (h : Hw) (n : RegName) (die inst i : Nat) (g : Fld) (x : Nat) : (h.setFld n die inst i g x).repairs = h.repairs := rfl
@[simp] theorem Hw.setFld_edgeHeld (h : Hw) (n : RegName) (die inst i : Nat) (g : Fld) (x : Nat) : (h.setFld n die inst i g x).edgeHeld = h.edgeHeld := rfl
@[simp] theorem Hw.setFld_sleepReq (h : Hw) (n : RegName) (die inst i : Nat) (g : Fld) (x : Nat) : (h.setFld n die inst i g x).sleepReq = h.sleepReq := rfl
@[simp] theorem Hw.setFld_fwSwitch (h : Hw) (n : RegName) (die inst i : Nat) (g : Fld) (x : Nat) : (h.setFld n die inst i g x).fwSwitch = h.fwSwitch := rfl
@[simp] theorem Hw.setFld_lcmds (h : Hw) (n : RegName) (die inst i : Nat) (g : Fld) (x : Nat) : (h.setFld n die inst i g x).lcmds = h.lcmds := rfl
@[simp] theorem Hw.setFld_uncAt (h : Hw) (n : RegName) (die inst i : Nat) (g : Fld) (x : Nat) : (h.setFld n die inst i g x).uncAt = h.uncAt := rfl
@[simp] theorem Hw.setFld_committed (h : Hw) (n : RegName) (die inst i : Nat) (g : Fld) (x : Nat) : (h.setFld n die inst i g x).committed = h.committed := rfl
@[simp] theorem Hw.setFld_applying (h : Hw) (n : RegName) (die inst i : Nat) (g : Fld) (x : Nat) : (h.setFld n die inst i g x).applying = h.applying := rfl
@[simp] theorem Hw.setFld_authority (h : Hw) (n : RegName) (die inst i : Nat) (g : Fld) (x : Nat) : (h.setFld n die inst i g x).authority = h.authority := rfl
@[simp] theorem Hw.setFld_gibMoves (h : Hw) (n : RegName) (die inst i : Nat) (g : Fld) (x : Nat) : (h.setFld n die inst i g x).gibMoves = h.gibMoves := rfl
@[simp] theorem Hw.setFld_commit (h : Hw) (n : RegName) (die inst i : Nat) (g : Fld) (x : Nat) : (h.setFld n die inst i g x).commit = h.commit := rfl
@[simp] theorem Hw.setFld_partUp (h : Hw) (n : RegName) (die inst i : Nat) (g : Fld) (x : Nat) : (h.setFld n die inst i g x).partUp = h.partUp := rfl
@[simp] theorem Hw.setFld_partStopped (h : Hw) (n : RegName) (die inst i : Nat) (g : Fld) (x : Nat) : (h.setFld n die inst i g x).partStopped = h.partStopped := rfl
@[simp] theorem Hw.setFld_resetWait (h : Hw) (n : RegName) (die inst i : Nat) (g : Fld) (x : Nat) : (h.setFld n die inst i g x).resetWait = h.resetWait := rfl
@[simp] theorem Hw.setFld_domGoal (h : Hw) (n : RegName) (die inst i : Nat) (g : Fld) (x : Nat) : (h.setFld n die inst i g x).domGoal = h.domGoal := rfl
@[simp] theorem Hw.setFld_reqPend (h : Hw) (n : RegName) (die inst i : Nat) (g : Fld) (x : Nat) : (h.setFld n die inst i g x).reqPend = h.reqPend := rfl
@[simp] theorem Hw.setFld_domWho (h : Hw) (n : RegName) (die inst i : Nat) (g : Fld) (x : Nat) : (h.setFld n die inst i g x).domWho = h.domWho := rfl
@[simp] theorem Hw.setFld_wakeDue (h : Hw) (n : RegName) (die inst i : Nat) (g : Fld) (x : Nat) : (h.setFld n die inst i g x).wakeDue = h.wakeDue := rfl
@[simp] theorem Hw.setFld_assist (h : Hw) (n : RegName) (die inst i : Nat) (g : Fld) (x : Nat) : (h.setFld n die inst i g x).assist = h.assist := rfl
@[simp] theorem Hw.setFld_deepIdle (h : Hw) (n : RegName) (die inst i : Nat) (g : Fld) (x : Nat) : (h.setFld n die inst i g x).deepIdle = h.deepIdle := rfl
@[simp] theorem Hw.setFld_deepOk (h : Hw) (n : RegName) (die inst i : Nat) (g : Fld) (x : Nat) : (h.setFld n die inst i g x).deepOk = h.deepOk := rfl
@[simp] theorem Hw.setFld_wakeOnExit (h : Hw) (n : RegName) (die inst i : Nat) (g : Fld) (x : Nat) : (h.setFld n die inst i g x).wakeOnExit = h.wakeOnExit := rfl
@[simp] theorem Hw.setFld_curOver (h : Hw) (n : RegName) (die inst i : Nat) (g : Fld) (x : Nat) : (h.setFld n die inst i g x).curOver = h.curOver := rfl
@[simp] theorem Hw.setFld_curUnder (h : Hw) (n : RegName) (die inst i : Nat) (g : Fld) (x : Nat) : (h.setFld n die inst i g x).curUnder = h.curUnder := rfl
@[simp] theorem Hw.setFld_groupOff (h : Hw) (n : RegName) (die inst i : Nat) (g : Fld) (x : Nat) : (h.setFld n die inst i g x).groupOff = h.groupOff := rfl
@[simp] theorem Hw.setFld_vinBad (h : Hw) (n : RegName) (die inst i : Nat) (g : Fld) (x : Nat) : (h.setFld n die inst i g x).vinBad = h.vinBad := rfl
@[simp] theorem Hw.setFld_v33Left (h : Hw) (n : RegName) (die inst i : Nat) (g : Fld) (x : Nat) : (h.setFld n die inst i g x).v33Left = h.v33Left := rfl
@[simp] theorem Hw.setFld_budgets (h : Hw) (n : RegName) (die inst i : Nat) (g : Fld) (x : Nat) : (h.setFld n die inst i g x).budgets = h.budgets := rfl
@[simp] theorem Hw.setFld_supplyW (h : Hw) (n : RegName) (die inst i : Nat) (g : Fld) (x : Nat) : (h.setFld n die inst i g x).supplyW = h.supplyW := rfl
@[simp] theorem Hw.setFld_coolW (h : Hw) (n : RegName) (die inst i : Nat) (g : Fld) (x : Nat) : (h.setFld n die inst i g x).coolW = h.coolW := rfl
@[simp] theorem Hw.setFld_ceilPwr (h : Hw) (n : RegName) (die inst i : Nat) (g : Fld) (x : Nat) : (h.setFld n die inst i g x).ceilPwr = h.ceilPwr := rfl
@[simp] theorem Hw.setFld_ceilTherm (h : Hw) (n : RegName) (die inst i : Nat) (g : Fld) (x : Nat) : (h.setFld n die inst i g x).ceilTherm = h.ceilTherm := rfl
@[simp] theorem Hw.setFld_thermTicks (h : Hw) (n : RegName) (die inst i : Nat) (g : Fld) (x : Nat) : (h.setFld n die inst i g x).thermTicks = h.thermTicks := rfl
@[simp] theorem Hw.setFld_tripped (h : Hw) (n : RegName) (die inst i : Nat) (g : Fld) (x : Nat) : (h.setFld n die inst i g x).tripped = h.tripped := rfl
@[simp] theorem Hw.setFld_thermtripPin (h : Hw) (n : RegName) (die inst i : Nat) (g : Fld) (x : Nat) : (h.setFld n die inst i g x).thermtripPin = h.thermtripPin := rfl
@[simp] theorem Hw.setFld_tripInfo (h : Hw) (n : RegName) (die inst i : Nat) (g : Fld) (x : Nat) : (h.setFld n die inst i g x).tripInfo = h.tripInfo := rfl
@[simp] theorem Hw.setFld_keys (h : Hw) (n : RegName) (die inst i : Nat) (g : Fld) (x : Nat) : (h.setFld n die inst i g x).keys = h.keys := rfl
@[simp] theorem Hw.setFld_boot (h : Hw) (n : RegName) (die inst i : Nat) (g : Fld) (x : Nat) : (h.setFld n die inst i g x).boot = h.boot := rfl
@[simp] theorem Hw.setFld_meter (h : Hw) (n : RegName) (die inst i : Nat) (g : Fld) (x : Nat) : (h.setFld n die inst i g x).meter = h.meter := rfl
@[simp] theorem Hw.setFld_mtrx (h : Hw) (n : RegName) (die inst i : Nat) (g : Fld) (x : Nat) : (h.setFld n die inst i g x).mtrx = h.mtrx := rfl
@[simp] theorem Hw.setFld_evPend (h : Hw) (n : RegName) (die inst i : Nat) (g : Fld) (x : Nat) : (h.setFld n die inst i g x).evPend = h.evPend := rfl
@[simp] theorem Hw.setFld_evSlots (h : Hw) (n : RegName) (die inst i : Nat) (g : Fld) (x : Nat) : (h.setFld n die inst i g x).evSlots = h.evSlots := rfl
@[simp] theorem Hw.setFld_evFly (h : Hw) (n : RegName) (die inst i : Nat) (g : Fld) (x : Nat) : (h.setFld n die inst i g x).evFly = h.evFly := rfl
@[simp] theorem Hw.setFld_evCache (h : Hw) (n : RegName) (die inst i : Nat) (g : Fld) (x : Nat) : (h.setFld n die inst i g x).evCache = h.evCache := rfl
@[simp] theorem Hw.setFld_svcEvents (h : Hw) (n : RegName) (die inst i : Nat) (g : Fld) (x : Nat) : (h.setFld n die inst i g x).svcEvents = h.svcEvents := rfl
@[simp] theorem Hw.setFld_corrected (h : Hw) (n : RegName) (die inst i : Nat) (g : Fld) (x : Nat) : (h.setFld n die inst i g x).corrected = h.corrected := rfl
@[simp] theorem Hw.setFld_losses (h : Hw) (n : RegName) (die inst i : Nat) (g : Fld) (x : Nat) : (h.setFld n die inst i g x).losses = h.losses := rfl
@[simp] theorem Hw.setFld_updq (h : Hw) (n : RegName) (die inst i : Nat) (g : Fld) (x : Nat) : (h.setFld n die inst i g x).updq = h.updq := rfl
@[simp] theorem Hw.setFld_updates (h : Hw) (n : RegName) (die inst i : Nat) (g : Fld) (x : Nat) : (h.setFld n die inst i g x).updates = h.updates := rfl
@[simp] theorem Hw.setFld_plat (h : Hw) (n : RegName) (die inst i : Nat) (g : Fld) (x : Nat) : (h.setFld n die inst i g x).plat = h.plat := rfl

@[simp] theorem Hw.inject_now (h : Hw) (m : Msg) : (h.inject m).now = h.now := rfl
@[simp] theorem Hw.inject_clockOn (h : Hw) (m : Msg) : (h.inject m).clockOn = h.clockOn := rfl
@[simp] theorem Hw.inject_ao (h : Hw) (m : Msg) : (h.inject m).ao = h.ao := rfl
@[simp] theorem Hw.inject_free (h : Hw) (m : Msg) : (h.inject m).free = h.free := rfl
@[simp] theorem Hw.inject_mem (h : Hw) (m : Msg) : (h.inject m).mem = h.mem := rfl
@[simp] theorem Hw.inject_poison (h : Hw) (m : Msg) : (h.inject m).poison = h.poison := rfl
@[simp] theorem Hw.inject_regs (h : Hw) (m : Msg) : (h.inject m).regs = h.regs := rfl
@[simp] theorem Hw.inject_shadow (h : Hw) (m : Msg) : (h.inject m).shadow = h.shadow := rfl
@[simp] theorem Hw.inject_thr (h : Hw) (m : Msg) : (h.inject m).thr = h.thr := rfl
@[simp] theorem Hw.inject_cores (h : Hw) (m : Msg) : (h.inject m).cores = h.cores := rfl
@[simp] theorem Hw.inject_cdies (h : Hw) (m : Msg) : (h.inject m).cdies = h.cdies := rfl
@[simp] theorem Hw.inject_dpq (h : Hw) (m : Msg) : (h.inject m).dpq = h.dpq := rfl
@[simp] theorem Hw.inject_dpErrs (h : Hw) (m : Msg) : (h.inject m).dpErrs = h.dpErrs := rfl
@[simp] theorem Hw.inject_portUp (h : Hw) (m : Msg) : (h.inject m).portUp = h.portUp := rfl
@[simp] theorem Hw.inject_raises (h : Hw) (m : Msg) : (h.inject m).raises = h.raises := rfl
@[simp] theorem Hw.inject_dieOwner (h : Hw) (m : Msg) : (h.inject m).dieOwner = h.dieOwner := rfl
@[simp] theorem Hw.inject_portOwner (h : Hw) (m : Msg) : (h.inject m).portOwner = h.portOwner := rfl
@[simp] theorem Hw.inject_engOwner (h : Hw) (m : Msg) : (h.inject m).engOwner = h.engOwner := rfl
@[simp] theorem Hw.inject_xtl (h : Hw) (m : Msg) : (h.inject m).xtl = h.xtl := rfl
@[simp] theorem Hw.inject_xctx (h : Hw) (m : Msg) : (h.inject m).xctx = h.xctx := rfl
@[simp] theorem Hw.inject_dir (h : Hw) (m : Msg) : (h.inject m).dir = h.dir := rfl
@[simp] theorem Hw.inject_dcs (h : Hw) (m : Msg) : (h.inject m).dcs = h.dcs := rfl
@[simp] theorem Hw.inject_dwb (h : Hw) (m : Msg) : (h.inject m).dwb = h.dwb := rfl
@[simp] theorem Hw.inject_dhold (h : Hw) (m : Msg) : (h.inject m).dhold = h.dhold := rfl
@[simp] theorem Hw.inject_txns (h : Hw) (m : Msg) : (h.inject m).txns = h.txns := rfl
@[simp] theorem Hw.inject_waitq (h : Hw) (m : Msg) : (h.inject m).waitq = h.waitq := rfl
@[simp] theorem Hw.inject_elc (h : Hw) (m : Msg) : (h.inject m).elc = h.elc := rfl
@[simp] theorem Hw.inject_pwr (h : Hw) (m : Msg) : (h.inject m).pwr = h.pwr := rfl
@[simp] theorem Hw.inject_patom (h : Hw) (m : Msg) : (h.inject m).patom = h.patom := rfl
@[simp] theorem Hw.inject_prd (h : Hw) (m : Msg) : (h.inject m).prd = h.prd := rfl
@[simp] theorem Hw.inject_dmaCpls (h : Hw) (m : Msg) : (h.inject m).dmaCpls = h.dmaCpls := rfl
@[simp] theorem Hw.inject_esq (h : Hw) (m : Msg) : (h.inject m).esq = h.esq := rfl
@[simp] theorem Hw.inject_ownLines (h : Hw) (m : Msg) : (h.inject m).ownLines = h.ownLines := rfl
@[simp] theorem Hw.inject_heldSn (h : Hw) (m : Msg) : (h.inject m).heldSn = h.heldSn := rfl
@[simp] theorem Hw.inject_agWb (h : Hw) (m : Msg) : (h.inject m).agWb = h.agWb := rfl
@[simp] theorem Hw.inject_rc (h : Hw) (m : Msg) : (h.inject m).rc = h.rc := rfl
@[simp] theorem Hw.inject_rcPlru (h : Hw) (m : Msg) : (h.inject m).rcPlru = h.rcPlru := rfl
@[simp] theorem Hw.inject_hot (h : Hw) (m : Msg) : (h.inject m).hot = h.hot := rfl
@[simp] theorem Hw.inject_tpoison (h : Hw) (m : Msg) : (h.inject m).tpoison = h.tpoison := rfl
@[simp] theorem Hw.inject_rewrites (h : Hw) (m : Msg) : (h.inject m).rewrites = h.rewrites := rfl
@[simp] theorem Hw.inject_devCount (h : Hw) (m : Msg) : (h.inject m).devCount = h.devCount := rfl
@[simp] theorem Hw.inject_chFail (h : Hw) (m : Msg) : (h.inject m).chFail = h.chFail := rfl
@[simp] theorem Hw.inject_cap (h : Hw) (m : Msg) : (h.inject m).cap = h.cap := rfl
@[simp] theorem Hw.inject_hdm (h : Hw) (m : Msg) : (h.inject m).hdm = h.hdm := rfl
@[simp] theorem Hw.inject_spared (h : Hw) (m : Msg) : (h.inject m).spared = h.spared := rfl
@[simp] theorem Hw.inject_farHeld (h : Hw) (m : Msg) : (h.inject m).farHeld = h.farHeld := rfl
@[simp] theorem Hw.inject_dimms (h : Hw) (m : Msg) : (h.inject m).dimms = h.dimms := rfl
@[simp] theorem Hw.inject_isetWho (h : Hw) (m : Msg) : (h.inject m).isetWho = h.isetWho := rfl
@[simp] theorem Hw.inject_jobs (h : Hw) (m : Msg) : (h.inject m).jobs = h.jobs := rfl
@[simp] theorem Hw.inject_jobOrder (h : Hw) (m : Msg) : (h.inject m).jobOrder = h.jobOrder := rfl
@[simp] theorem Hw.inject_queueTurn (h : Hw) (m : Msg) : (h.inject m).queueTurn = h.queueTurn := rfl
@[simp] theorem Hw.inject_engq (h : Hw) (m : Msg) : (h.inject m).engq = h.engq := rfl
@[simp] theorem Hw.inject_held (h : Hw) (m : Msg) : (h.inject m).held = h.held := rfl
@[simp] theorem Hw.inject_run (h : Hw) (m : Msg) : (h.inject m).run = h.run := rfl
@[simp] theorem Hw.inject_sp (h : Hw) (m : Msg) : (h.inject m).sp = h.sp := rfl
@[simp] theorem Hw.inject_engLast (h : Hw) (m : Msg) : (h.inject m).engLast = h.engLast := rfl
@[simp] theorem Hw.inject_treqs (h : Hw) (m : Msg) : (h.inject m).treqs = h.treqs := rfl
@[simp] theorem Hw.inject_toks (h : Hw) (m : Msg) : (h.inject m).toks = h.toks := rfl
@[simp] theorem Hw.inject_rsps (h : Hw) (m : Msg) : (h.inject m).rsps = h.rsps := rfl
@[simp] theorem Hw.inject_tokWait (h : Hw) (m : Msg) : (h.inject m).tokWait = h.tokWait := rfl
@[simp] theorem Hw.inject_sleepers (h : Hw) (m : Msg) : (h.inject m).sleepers = h.sleepers := rfl
@[simp] theorem Hw.inject_closing (h : Hw) (m : Msg) : (h.inject m).closing = h.closing := rfl
@[simp] theorem Hw.inject_epochLast (h : Hw) (m : Msg) : (h.inject m).epochLast = h.epochLast := rfl
@[simp] theorem Hw.inject_epochPend (h : Hw) (m : Msg) : (h.inject m).epochPend = h.epochPend := rfl
@[simp] theorem Hw.inject_epochAt (h : Hw) (m : Msg) : (h.inject m).epochAt = h.epochAt := rfl
@[simp] theorem Hw.inject_torusTx (h : Hw) (m : Msg) : (h.inject m).torusTx = h.torusTx := rfl
@[simp] theorem Hw.inject_torusSeq (h : Hw) (m : Msg) : (h.inject m).torusSeq = h.torusSeq := rfl
@[simp] theorem Hw.inject_torusRx (h : Hw) (m : Msg) : (h.inject m).torusRx = h.torusRx := rfl
@[simp] theorem Hw.inject_torusHeld (h : Hw) (m : Msg) : (h.inject m).torusHeld = h.torusHeld := rfl
@[simp] theorem Hw.inject_coords (h : Hw) (m : Msg) : (h.inject m).coords = h.coords := rfl
@[simp] theorem Hw.inject_coordBad (h : Hw) (m : Msg) : (h.inject m).coordBad = h.coordBad := rfl
@[simp] theorem Hw.inject_lath (h : Hw) (m : Msg) : (h.inject m).lath = h.lath := rfl
@[simp] theorem Hw.inject_training (h : Hw) (m : Msg) : (h.inject m).training = h.training := rfl
@[simp] theorem Hw.inject_trainFails (h : Hw) (m : Msg) : (h.inject m).trainFails = h.trainFails := rfl
@[simp] theorem Hw.inject_repairs (h : Hw) (m : Msg) : (h.inject m).repairs = h.repairs := rfl
@[simp] theorem Hw.inject_edgeHeld (h : Hw) (m : Msg) : (h.inject m).edgeHeld = h.edgeHeld := rfl
@[simp] theorem Hw.inject_sleepReq (h : Hw) (m : Msg) : (h.inject m).sleepReq = h.sleepReq := rfl
@[simp] theorem Hw.inject_fwSwitch (h : Hw) (m : Msg) : (h.inject m).fwSwitch = h.fwSwitch := rfl
@[simp] theorem Hw.inject_lcmds (h : Hw) (m : Msg) : (h.inject m).lcmds = h.lcmds := rfl
@[simp] theorem Hw.inject_uncAt (h : Hw) (m : Msg) : (h.inject m).uncAt = h.uncAt := rfl
@[simp] theorem Hw.inject_committed (h : Hw) (m : Msg) : (h.inject m).committed = h.committed := rfl
@[simp] theorem Hw.inject_applying (h : Hw) (m : Msg) : (h.inject m).applying = h.applying := rfl
@[simp] theorem Hw.inject_authority (h : Hw) (m : Msg) : (h.inject m).authority = h.authority := rfl
@[simp] theorem Hw.inject_gibMoves (h : Hw) (m : Msg) : (h.inject m).gibMoves = h.gibMoves := rfl
@[simp] theorem Hw.inject_commit (h : Hw) (m : Msg) : (h.inject m).commit = h.commit := rfl
@[simp] theorem Hw.inject_partUp (h : Hw) (m : Msg) : (h.inject m).partUp = h.partUp := rfl
@[simp] theorem Hw.inject_partStopped (h : Hw) (m : Msg) : (h.inject m).partStopped = h.partStopped := rfl
@[simp] theorem Hw.inject_resetWait (h : Hw) (m : Msg) : (h.inject m).resetWait = h.resetWait := rfl
@[simp] theorem Hw.inject_domGoal (h : Hw) (m : Msg) : (h.inject m).domGoal = h.domGoal := rfl
@[simp] theorem Hw.inject_reqPend (h : Hw) (m : Msg) : (h.inject m).reqPend = h.reqPend := rfl
@[simp] theorem Hw.inject_domWho (h : Hw) (m : Msg) : (h.inject m).domWho = h.domWho := rfl
@[simp] theorem Hw.inject_wakeDue (h : Hw) (m : Msg) : (h.inject m).wakeDue = h.wakeDue := rfl
@[simp] theorem Hw.inject_assist (h : Hw) (m : Msg) : (h.inject m).assist = h.assist := rfl
@[simp] theorem Hw.inject_deepIdle (h : Hw) (m : Msg) : (h.inject m).deepIdle = h.deepIdle := rfl
@[simp] theorem Hw.inject_deepOk (h : Hw) (m : Msg) : (h.inject m).deepOk = h.deepOk := rfl
@[simp] theorem Hw.inject_wakeOnExit (h : Hw) (m : Msg) : (h.inject m).wakeOnExit = h.wakeOnExit := rfl
@[simp] theorem Hw.inject_curOver (h : Hw) (m : Msg) : (h.inject m).curOver = h.curOver := rfl
@[simp] theorem Hw.inject_curUnder (h : Hw) (m : Msg) : (h.inject m).curUnder = h.curUnder := rfl
@[simp] theorem Hw.inject_groupOff (h : Hw) (m : Msg) : (h.inject m).groupOff = h.groupOff := rfl
@[simp] theorem Hw.inject_vinBad (h : Hw) (m : Msg) : (h.inject m).vinBad = h.vinBad := rfl
@[simp] theorem Hw.inject_v33Left (h : Hw) (m : Msg) : (h.inject m).v33Left = h.v33Left := rfl
@[simp] theorem Hw.inject_budgets (h : Hw) (m : Msg) : (h.inject m).budgets = h.budgets := rfl
@[simp] theorem Hw.inject_supplyW (h : Hw) (m : Msg) : (h.inject m).supplyW = h.supplyW := rfl
@[simp] theorem Hw.inject_coolW (h : Hw) (m : Msg) : (h.inject m).coolW = h.coolW := rfl
@[simp] theorem Hw.inject_ceilPwr (h : Hw) (m : Msg) : (h.inject m).ceilPwr = h.ceilPwr := rfl
@[simp] theorem Hw.inject_ceilTherm (h : Hw) (m : Msg) : (h.inject m).ceilTherm = h.ceilTherm := rfl
@[simp] theorem Hw.inject_thermTicks (h : Hw) (m : Msg) : (h.inject m).thermTicks = h.thermTicks := rfl
@[simp] theorem Hw.inject_tripped (h : Hw) (m : Msg) : (h.inject m).tripped = h.tripped := rfl
@[simp] theorem Hw.inject_thermtripPin (h : Hw) (m : Msg) : (h.inject m).thermtripPin = h.thermtripPin := rfl
@[simp] theorem Hw.inject_tripInfo (h : Hw) (m : Msg) : (h.inject m).tripInfo = h.tripInfo := rfl
@[simp] theorem Hw.inject_keys (h : Hw) (m : Msg) : (h.inject m).keys = h.keys := rfl
@[simp] theorem Hw.inject_boot (h : Hw) (m : Msg) : (h.inject m).boot = h.boot := rfl
@[simp] theorem Hw.inject_meter (h : Hw) (m : Msg) : (h.inject m).meter = h.meter := rfl
@[simp] theorem Hw.inject_mtrx (h : Hw) (m : Msg) : (h.inject m).mtrx = h.mtrx := rfl
@[simp] theorem Hw.inject_evPend (h : Hw) (m : Msg) : (h.inject m).evPend = h.evPend := rfl
@[simp] theorem Hw.inject_evSlots (h : Hw) (m : Msg) : (h.inject m).evSlots = h.evSlots := rfl
@[simp] theorem Hw.inject_evFly (h : Hw) (m : Msg) : (h.inject m).evFly = h.evFly := rfl
@[simp] theorem Hw.inject_evCache (h : Hw) (m : Msg) : (h.inject m).evCache = h.evCache := rfl
@[simp] theorem Hw.inject_svcEvents (h : Hw) (m : Msg) : (h.inject m).svcEvents = h.svcEvents := rfl
@[simp] theorem Hw.inject_corrected (h : Hw) (m : Msg) : (h.inject m).corrected = h.corrected := rfl
@[simp] theorem Hw.inject_losses (h : Hw) (m : Msg) : (h.inject m).losses = h.losses := rfl
@[simp] theorem Hw.inject_updq (h : Hw) (m : Msg) : (h.inject m).updq = h.updq := rfl
@[simp] theorem Hw.inject_updates (h : Hw) (m : Msg) : (h.inject m).updates = h.updates := rfl
@[simp] theorem Hw.inject_plat (h : Hw) (m : Msg) : (h.inject m).plat = h.plat := rfl

@[simp] theorem Hw.raise_now (h : Hw) (r : Raise) : (h.raise r).now = h.now := rfl
@[simp] theorem Hw.raise_clockOn (h : Hw) (r : Raise) : (h.raise r).clockOn = h.clockOn := rfl
@[simp] theorem Hw.raise_ao (h : Hw) (r : Raise) : (h.raise r).ao = h.ao := rfl
@[simp] theorem Hw.raise_free (h : Hw) (r : Raise) : (h.raise r).free = h.free := rfl
@[simp] theorem Hw.raise_mem (h : Hw) (r : Raise) : (h.raise r).mem = h.mem := rfl
@[simp] theorem Hw.raise_poison (h : Hw) (r : Raise) : (h.raise r).poison = h.poison := rfl
@[simp] theorem Hw.raise_regs (h : Hw) (r : Raise) : (h.raise r).regs = h.regs := rfl
@[simp] theorem Hw.raise_shadow (h : Hw) (r : Raise) : (h.raise r).shadow = h.shadow := rfl
@[simp] theorem Hw.raise_thr (h : Hw) (r : Raise) : (h.raise r).thr = h.thr := rfl
@[simp] theorem Hw.raise_cores (h : Hw) (r : Raise) : (h.raise r).cores = h.cores := rfl
@[simp] theorem Hw.raise_cdies (h : Hw) (r : Raise) : (h.raise r).cdies = h.cdies := rfl
@[simp] theorem Hw.raise_dpq (h : Hw) (r : Raise) : (h.raise r).dpq = h.dpq := rfl
@[simp] theorem Hw.raise_dpErrs (h : Hw) (r : Raise) : (h.raise r).dpErrs = h.dpErrs := rfl
@[simp] theorem Hw.raise_portUp (h : Hw) (r : Raise) : (h.raise r).portUp = h.portUp := rfl
@[simp] theorem Hw.raise_msgs (h : Hw) (r : Raise) : (h.raise r).msgs = h.msgs := rfl
@[simp] theorem Hw.raise_dieOwner (h : Hw) (r : Raise) : (h.raise r).dieOwner = h.dieOwner := rfl
@[simp] theorem Hw.raise_portOwner (h : Hw) (r : Raise) : (h.raise r).portOwner = h.portOwner := rfl
@[simp] theorem Hw.raise_engOwner (h : Hw) (r : Raise) : (h.raise r).engOwner = h.engOwner := rfl
@[simp] theorem Hw.raise_xtl (h : Hw) (r : Raise) : (h.raise r).xtl = h.xtl := rfl
@[simp] theorem Hw.raise_xctx (h : Hw) (r : Raise) : (h.raise r).xctx = h.xctx := rfl
@[simp] theorem Hw.raise_dir (h : Hw) (r : Raise) : (h.raise r).dir = h.dir := rfl
@[simp] theorem Hw.raise_dcs (h : Hw) (r : Raise) : (h.raise r).dcs = h.dcs := rfl
@[simp] theorem Hw.raise_dwb (h : Hw) (r : Raise) : (h.raise r).dwb = h.dwb := rfl
@[simp] theorem Hw.raise_dhold (h : Hw) (r : Raise) : (h.raise r).dhold = h.dhold := rfl
@[simp] theorem Hw.raise_txns (h : Hw) (r : Raise) : (h.raise r).txns = h.txns := rfl
@[simp] theorem Hw.raise_waitq (h : Hw) (r : Raise) : (h.raise r).waitq = h.waitq := rfl
@[simp] theorem Hw.raise_elc (h : Hw) (r : Raise) : (h.raise r).elc = h.elc := rfl
@[simp] theorem Hw.raise_pwr (h : Hw) (r : Raise) : (h.raise r).pwr = h.pwr := rfl
@[simp] theorem Hw.raise_patom (h : Hw) (r : Raise) : (h.raise r).patom = h.patom := rfl
@[simp] theorem Hw.raise_prd (h : Hw) (r : Raise) : (h.raise r).prd = h.prd := rfl
@[simp] theorem Hw.raise_dmaCpls (h : Hw) (r : Raise) : (h.raise r).dmaCpls = h.dmaCpls := rfl
@[simp] theorem Hw.raise_esq (h : Hw) (r : Raise) : (h.raise r).esq = h.esq := rfl
@[simp] theorem Hw.raise_ownLines (h : Hw) (r : Raise) : (h.raise r).ownLines = h.ownLines := rfl
@[simp] theorem Hw.raise_heldSn (h : Hw) (r : Raise) : (h.raise r).heldSn = h.heldSn := rfl
@[simp] theorem Hw.raise_agWb (h : Hw) (r : Raise) : (h.raise r).agWb = h.agWb := rfl
@[simp] theorem Hw.raise_rc (h : Hw) (r : Raise) : (h.raise r).rc = h.rc := rfl
@[simp] theorem Hw.raise_rcPlru (h : Hw) (r : Raise) : (h.raise r).rcPlru = h.rcPlru := rfl
@[simp] theorem Hw.raise_hot (h : Hw) (r : Raise) : (h.raise r).hot = h.hot := rfl
@[simp] theorem Hw.raise_tpoison (h : Hw) (r : Raise) : (h.raise r).tpoison = h.tpoison := rfl
@[simp] theorem Hw.raise_rewrites (h : Hw) (r : Raise) : (h.raise r).rewrites = h.rewrites := rfl
@[simp] theorem Hw.raise_devCount (h : Hw) (r : Raise) : (h.raise r).devCount = h.devCount := rfl
@[simp] theorem Hw.raise_chFail (h : Hw) (r : Raise) : (h.raise r).chFail = h.chFail := rfl
@[simp] theorem Hw.raise_cap (h : Hw) (r : Raise) : (h.raise r).cap = h.cap := rfl
@[simp] theorem Hw.raise_hdm (h : Hw) (r : Raise) : (h.raise r).hdm = h.hdm := rfl
@[simp] theorem Hw.raise_spared (h : Hw) (r : Raise) : (h.raise r).spared = h.spared := rfl
@[simp] theorem Hw.raise_farHeld (h : Hw) (r : Raise) : (h.raise r).farHeld = h.farHeld := rfl
@[simp] theorem Hw.raise_dimms (h : Hw) (r : Raise) : (h.raise r).dimms = h.dimms := rfl
@[simp] theorem Hw.raise_isetWho (h : Hw) (r : Raise) : (h.raise r).isetWho = h.isetWho := rfl
@[simp] theorem Hw.raise_jobs (h : Hw) (r : Raise) : (h.raise r).jobs = h.jobs := rfl
@[simp] theorem Hw.raise_jobOrder (h : Hw) (r : Raise) : (h.raise r).jobOrder = h.jobOrder := rfl
@[simp] theorem Hw.raise_queueTurn (h : Hw) (r : Raise) : (h.raise r).queueTurn = h.queueTurn := rfl
@[simp] theorem Hw.raise_engq (h : Hw) (r : Raise) : (h.raise r).engq = h.engq := rfl
@[simp] theorem Hw.raise_held (h : Hw) (r : Raise) : (h.raise r).held = h.held := rfl
@[simp] theorem Hw.raise_run (h : Hw) (r : Raise) : (h.raise r).run = h.run := rfl
@[simp] theorem Hw.raise_sp (h : Hw) (r : Raise) : (h.raise r).sp = h.sp := rfl
@[simp] theorem Hw.raise_engLast (h : Hw) (r : Raise) : (h.raise r).engLast = h.engLast := rfl
@[simp] theorem Hw.raise_treqs (h : Hw) (r : Raise) : (h.raise r).treqs = h.treqs := rfl
@[simp] theorem Hw.raise_toks (h : Hw) (r : Raise) : (h.raise r).toks = h.toks := rfl
@[simp] theorem Hw.raise_rsps (h : Hw) (r : Raise) : (h.raise r).rsps = h.rsps := rfl
@[simp] theorem Hw.raise_tokWait (h : Hw) (r : Raise) : (h.raise r).tokWait = h.tokWait := rfl
@[simp] theorem Hw.raise_sleepers (h : Hw) (r : Raise) : (h.raise r).sleepers = h.sleepers := rfl
@[simp] theorem Hw.raise_closing (h : Hw) (r : Raise) : (h.raise r).closing = h.closing := rfl
@[simp] theorem Hw.raise_epochLast (h : Hw) (r : Raise) : (h.raise r).epochLast = h.epochLast := rfl
@[simp] theorem Hw.raise_epochPend (h : Hw) (r : Raise) : (h.raise r).epochPend = h.epochPend := rfl
@[simp] theorem Hw.raise_epochAt (h : Hw) (r : Raise) : (h.raise r).epochAt = h.epochAt := rfl
@[simp] theorem Hw.raise_torusTx (h : Hw) (r : Raise) : (h.raise r).torusTx = h.torusTx := rfl
@[simp] theorem Hw.raise_torusSeq (h : Hw) (r : Raise) : (h.raise r).torusSeq = h.torusSeq := rfl
@[simp] theorem Hw.raise_torusRx (h : Hw) (r : Raise) : (h.raise r).torusRx = h.torusRx := rfl
@[simp] theorem Hw.raise_torusHeld (h : Hw) (r : Raise) : (h.raise r).torusHeld = h.torusHeld := rfl
@[simp] theorem Hw.raise_coords (h : Hw) (r : Raise) : (h.raise r).coords = h.coords := rfl
@[simp] theorem Hw.raise_coordBad (h : Hw) (r : Raise) : (h.raise r).coordBad = h.coordBad := rfl
@[simp] theorem Hw.raise_lath (h : Hw) (r : Raise) : (h.raise r).lath = h.lath := rfl
@[simp] theorem Hw.raise_training (h : Hw) (r : Raise) : (h.raise r).training = h.training := rfl
@[simp] theorem Hw.raise_trainFails (h : Hw) (r : Raise) : (h.raise r).trainFails = h.trainFails := rfl
@[simp] theorem Hw.raise_repairs (h : Hw) (r : Raise) : (h.raise r).repairs = h.repairs := rfl
@[simp] theorem Hw.raise_edgeHeld (h : Hw) (r : Raise) : (h.raise r).edgeHeld = h.edgeHeld := rfl
@[simp] theorem Hw.raise_sleepReq (h : Hw) (r : Raise) : (h.raise r).sleepReq = h.sleepReq := rfl
@[simp] theorem Hw.raise_fwSwitch (h : Hw) (r : Raise) : (h.raise r).fwSwitch = h.fwSwitch := rfl
@[simp] theorem Hw.raise_lcmds (h : Hw) (r : Raise) : (h.raise r).lcmds = h.lcmds := rfl
@[simp] theorem Hw.raise_uncAt (h : Hw) (r : Raise) : (h.raise r).uncAt = h.uncAt := rfl
@[simp] theorem Hw.raise_committed (h : Hw) (r : Raise) : (h.raise r).committed = h.committed := rfl
@[simp] theorem Hw.raise_applying (h : Hw) (r : Raise) : (h.raise r).applying = h.applying := rfl
@[simp] theorem Hw.raise_authority (h : Hw) (r : Raise) : (h.raise r).authority = h.authority := rfl
@[simp] theorem Hw.raise_gibMoves (h : Hw) (r : Raise) : (h.raise r).gibMoves = h.gibMoves := rfl
@[simp] theorem Hw.raise_commit (h : Hw) (r : Raise) : (h.raise r).commit = h.commit := rfl
@[simp] theorem Hw.raise_partUp (h : Hw) (r : Raise) : (h.raise r).partUp = h.partUp := rfl
@[simp] theorem Hw.raise_partStopped (h : Hw) (r : Raise) : (h.raise r).partStopped = h.partStopped := rfl
@[simp] theorem Hw.raise_resetWait (h : Hw) (r : Raise) : (h.raise r).resetWait = h.resetWait := rfl
@[simp] theorem Hw.raise_domGoal (h : Hw) (r : Raise) : (h.raise r).domGoal = h.domGoal := rfl
@[simp] theorem Hw.raise_reqPend (h : Hw) (r : Raise) : (h.raise r).reqPend = h.reqPend := rfl
@[simp] theorem Hw.raise_domWho (h : Hw) (r : Raise) : (h.raise r).domWho = h.domWho := rfl
@[simp] theorem Hw.raise_wakeDue (h : Hw) (r : Raise) : (h.raise r).wakeDue = h.wakeDue := rfl
@[simp] theorem Hw.raise_assist (h : Hw) (r : Raise) : (h.raise r).assist = h.assist := rfl
@[simp] theorem Hw.raise_deepIdle (h : Hw) (r : Raise) : (h.raise r).deepIdle = h.deepIdle := rfl
@[simp] theorem Hw.raise_deepOk (h : Hw) (r : Raise) : (h.raise r).deepOk = h.deepOk := rfl
@[simp] theorem Hw.raise_wakeOnExit (h : Hw) (r : Raise) : (h.raise r).wakeOnExit = h.wakeOnExit := rfl
@[simp] theorem Hw.raise_curOver (h : Hw) (r : Raise) : (h.raise r).curOver = h.curOver := rfl
@[simp] theorem Hw.raise_curUnder (h : Hw) (r : Raise) : (h.raise r).curUnder = h.curUnder := rfl
@[simp] theorem Hw.raise_groupOff (h : Hw) (r : Raise) : (h.raise r).groupOff = h.groupOff := rfl
@[simp] theorem Hw.raise_vinBad (h : Hw) (r : Raise) : (h.raise r).vinBad = h.vinBad := rfl
@[simp] theorem Hw.raise_v33Left (h : Hw) (r : Raise) : (h.raise r).v33Left = h.v33Left := rfl
@[simp] theorem Hw.raise_budgets (h : Hw) (r : Raise) : (h.raise r).budgets = h.budgets := rfl
@[simp] theorem Hw.raise_supplyW (h : Hw) (r : Raise) : (h.raise r).supplyW = h.supplyW := rfl
@[simp] theorem Hw.raise_coolW (h : Hw) (r : Raise) : (h.raise r).coolW = h.coolW := rfl
@[simp] theorem Hw.raise_ceilPwr (h : Hw) (r : Raise) : (h.raise r).ceilPwr = h.ceilPwr := rfl
@[simp] theorem Hw.raise_ceilTherm (h : Hw) (r : Raise) : (h.raise r).ceilTherm = h.ceilTherm := rfl
@[simp] theorem Hw.raise_thermTicks (h : Hw) (r : Raise) : (h.raise r).thermTicks = h.thermTicks := rfl
@[simp] theorem Hw.raise_tripped (h : Hw) (r : Raise) : (h.raise r).tripped = h.tripped := rfl
@[simp] theorem Hw.raise_thermtripPin (h : Hw) (r : Raise) : (h.raise r).thermtripPin = h.thermtripPin := rfl
@[simp] theorem Hw.raise_tripInfo (h : Hw) (r : Raise) : (h.raise r).tripInfo = h.tripInfo := rfl
@[simp] theorem Hw.raise_keys (h : Hw) (r : Raise) : (h.raise r).keys = h.keys := rfl
@[simp] theorem Hw.raise_boot (h : Hw) (r : Raise) : (h.raise r).boot = h.boot := rfl
@[simp] theorem Hw.raise_meter (h : Hw) (r : Raise) : (h.raise r).meter = h.meter := rfl
@[simp] theorem Hw.raise_mtrx (h : Hw) (r : Raise) : (h.raise r).mtrx = h.mtrx := rfl
@[simp] theorem Hw.raise_evPend (h : Hw) (r : Raise) : (h.raise r).evPend = h.evPend := rfl
@[simp] theorem Hw.raise_evSlots (h : Hw) (r : Raise) : (h.raise r).evSlots = h.evSlots := rfl
@[simp] theorem Hw.raise_evFly (h : Hw) (r : Raise) : (h.raise r).evFly = h.evFly := rfl
@[simp] theorem Hw.raise_evCache (h : Hw) (r : Raise) : (h.raise r).evCache = h.evCache := rfl
@[simp] theorem Hw.raise_svcEvents (h : Hw) (r : Raise) : (h.raise r).svcEvents = h.svcEvents := rfl
@[simp] theorem Hw.raise_corrected (h : Hw) (r : Raise) : (h.raise r).corrected = h.corrected := rfl
@[simp] theorem Hw.raise_losses (h : Hw) (r : Raise) : (h.raise r).losses = h.losses := rfl
@[simp] theorem Hw.raise_updq (h : Hw) (r : Raise) : (h.raise r).updq = h.updq := rfl
@[simp] theorem Hw.raise_updates (h : Hw) (r : Raise) : (h.raise r).updates = h.updates := rfl
@[simp] theorem Hw.raise_plat (h : Hw) (r : Raise) : (h.raise r).plat = h.plat := rfl

@[simp] theorem Hw.setPoison_now (h : Hw) (l : Nat) : (h.setPoison l).now = h.now := rfl
@[simp] theorem Hw.setPoison_clockOn (h : Hw) (l : Nat) : (h.setPoison l).clockOn = h.clockOn := rfl
@[simp] theorem Hw.setPoison_ao (h : Hw) (l : Nat) : (h.setPoison l).ao = h.ao := rfl
@[simp] theorem Hw.setPoison_free (h : Hw) (l : Nat) : (h.setPoison l).free = h.free := rfl
@[simp] theorem Hw.setPoison_mem (h : Hw) (l : Nat) : (h.setPoison l).mem = h.mem := rfl
@[simp] theorem Hw.setPoison_regs (h : Hw) (l : Nat) : (h.setPoison l).regs = h.regs := rfl
@[simp] theorem Hw.setPoison_shadow (h : Hw) (l : Nat) : (h.setPoison l).shadow = h.shadow := rfl
@[simp] theorem Hw.setPoison_thr (h : Hw) (l : Nat) : (h.setPoison l).thr = h.thr := rfl
@[simp] theorem Hw.setPoison_cores (h : Hw) (l : Nat) : (h.setPoison l).cores = h.cores := rfl
@[simp] theorem Hw.setPoison_cdies (h : Hw) (l : Nat) : (h.setPoison l).cdies = h.cdies := rfl
@[simp] theorem Hw.setPoison_dpq (h : Hw) (l : Nat) : (h.setPoison l).dpq = h.dpq := rfl
@[simp] theorem Hw.setPoison_dpErrs (h : Hw) (l : Nat) : (h.setPoison l).dpErrs = h.dpErrs := rfl
@[simp] theorem Hw.setPoison_portUp (h : Hw) (l : Nat) : (h.setPoison l).portUp = h.portUp := rfl
@[simp] theorem Hw.setPoison_raises (h : Hw) (l : Nat) : (h.setPoison l).raises = h.raises := rfl
@[simp] theorem Hw.setPoison_msgs (h : Hw) (l : Nat) : (h.setPoison l).msgs = h.msgs := rfl
@[simp] theorem Hw.setPoison_dieOwner (h : Hw) (l : Nat) : (h.setPoison l).dieOwner = h.dieOwner := rfl
@[simp] theorem Hw.setPoison_portOwner (h : Hw) (l : Nat) : (h.setPoison l).portOwner = h.portOwner := rfl
@[simp] theorem Hw.setPoison_engOwner (h : Hw) (l : Nat) : (h.setPoison l).engOwner = h.engOwner := rfl
@[simp] theorem Hw.setPoison_xtl (h : Hw) (l : Nat) : (h.setPoison l).xtl = h.xtl := rfl
@[simp] theorem Hw.setPoison_xctx (h : Hw) (l : Nat) : (h.setPoison l).xctx = h.xctx := rfl
@[simp] theorem Hw.setPoison_dir (h : Hw) (l : Nat) : (h.setPoison l).dir = h.dir := rfl
@[simp] theorem Hw.setPoison_dcs (h : Hw) (l : Nat) : (h.setPoison l).dcs = h.dcs := rfl
@[simp] theorem Hw.setPoison_dwb (h : Hw) (l : Nat) : (h.setPoison l).dwb = h.dwb := rfl
@[simp] theorem Hw.setPoison_dhold (h : Hw) (l : Nat) : (h.setPoison l).dhold = h.dhold := rfl
@[simp] theorem Hw.setPoison_txns (h : Hw) (l : Nat) : (h.setPoison l).txns = h.txns := rfl
@[simp] theorem Hw.setPoison_waitq (h : Hw) (l : Nat) : (h.setPoison l).waitq = h.waitq := rfl
@[simp] theorem Hw.setPoison_elc (h : Hw) (l : Nat) : (h.setPoison l).elc = h.elc := rfl
@[simp] theorem Hw.setPoison_pwr (h : Hw) (l : Nat) : (h.setPoison l).pwr = h.pwr := rfl
@[simp] theorem Hw.setPoison_patom (h : Hw) (l : Nat) : (h.setPoison l).patom = h.patom := rfl
@[simp] theorem Hw.setPoison_prd (h : Hw) (l : Nat) : (h.setPoison l).prd = h.prd := rfl
@[simp] theorem Hw.setPoison_dmaCpls (h : Hw) (l : Nat) : (h.setPoison l).dmaCpls = h.dmaCpls := rfl
@[simp] theorem Hw.setPoison_esq (h : Hw) (l : Nat) : (h.setPoison l).esq = h.esq := rfl
@[simp] theorem Hw.setPoison_ownLines (h : Hw) (l : Nat) : (h.setPoison l).ownLines = h.ownLines := rfl
@[simp] theorem Hw.setPoison_heldSn (h : Hw) (l : Nat) : (h.setPoison l).heldSn = h.heldSn := rfl
@[simp] theorem Hw.setPoison_agWb (h : Hw) (l : Nat) : (h.setPoison l).agWb = h.agWb := rfl
@[simp] theorem Hw.setPoison_rc (h : Hw) (l : Nat) : (h.setPoison l).rc = h.rc := rfl
@[simp] theorem Hw.setPoison_rcPlru (h : Hw) (l : Nat) : (h.setPoison l).rcPlru = h.rcPlru := rfl
@[simp] theorem Hw.setPoison_hot (h : Hw) (l : Nat) : (h.setPoison l).hot = h.hot := rfl
@[simp] theorem Hw.setPoison_tpoison (h : Hw) (l : Nat) : (h.setPoison l).tpoison = h.tpoison := rfl
@[simp] theorem Hw.setPoison_rewrites (h : Hw) (l : Nat) : (h.setPoison l).rewrites = h.rewrites := rfl
@[simp] theorem Hw.setPoison_devCount (h : Hw) (l : Nat) : (h.setPoison l).devCount = h.devCount := rfl
@[simp] theorem Hw.setPoison_chFail (h : Hw) (l : Nat) : (h.setPoison l).chFail = h.chFail := rfl
@[simp] theorem Hw.setPoison_cap (h : Hw) (l : Nat) : (h.setPoison l).cap = h.cap := rfl
@[simp] theorem Hw.setPoison_hdm (h : Hw) (l : Nat) : (h.setPoison l).hdm = h.hdm := rfl
@[simp] theorem Hw.setPoison_spared (h : Hw) (l : Nat) : (h.setPoison l).spared = h.spared := rfl
@[simp] theorem Hw.setPoison_farHeld (h : Hw) (l : Nat) : (h.setPoison l).farHeld = h.farHeld := rfl
@[simp] theorem Hw.setPoison_dimms (h : Hw) (l : Nat) : (h.setPoison l).dimms = h.dimms := rfl
@[simp] theorem Hw.setPoison_isetWho (h : Hw) (l : Nat) : (h.setPoison l).isetWho = h.isetWho := rfl
@[simp] theorem Hw.setPoison_jobs (h : Hw) (l : Nat) : (h.setPoison l).jobs = h.jobs := rfl
@[simp] theorem Hw.setPoison_jobOrder (h : Hw) (l : Nat) : (h.setPoison l).jobOrder = h.jobOrder := rfl
@[simp] theorem Hw.setPoison_queueTurn (h : Hw) (l : Nat) : (h.setPoison l).queueTurn = h.queueTurn := rfl
@[simp] theorem Hw.setPoison_engq (h : Hw) (l : Nat) : (h.setPoison l).engq = h.engq := rfl
@[simp] theorem Hw.setPoison_held (h : Hw) (l : Nat) : (h.setPoison l).held = h.held := rfl
@[simp] theorem Hw.setPoison_run (h : Hw) (l : Nat) : (h.setPoison l).run = h.run := rfl
@[simp] theorem Hw.setPoison_sp (h : Hw) (l : Nat) : (h.setPoison l).sp = h.sp := rfl
@[simp] theorem Hw.setPoison_engLast (h : Hw) (l : Nat) : (h.setPoison l).engLast = h.engLast := rfl
@[simp] theorem Hw.setPoison_treqs (h : Hw) (l : Nat) : (h.setPoison l).treqs = h.treqs := rfl
@[simp] theorem Hw.setPoison_toks (h : Hw) (l : Nat) : (h.setPoison l).toks = h.toks := rfl
@[simp] theorem Hw.setPoison_rsps (h : Hw) (l : Nat) : (h.setPoison l).rsps = h.rsps := rfl
@[simp] theorem Hw.setPoison_tokWait (h : Hw) (l : Nat) : (h.setPoison l).tokWait = h.tokWait := rfl
@[simp] theorem Hw.setPoison_sleepers (h : Hw) (l : Nat) : (h.setPoison l).sleepers = h.sleepers := rfl
@[simp] theorem Hw.setPoison_closing (h : Hw) (l : Nat) : (h.setPoison l).closing = h.closing := rfl
@[simp] theorem Hw.setPoison_epochLast (h : Hw) (l : Nat) : (h.setPoison l).epochLast = h.epochLast := rfl
@[simp] theorem Hw.setPoison_epochPend (h : Hw) (l : Nat) : (h.setPoison l).epochPend = h.epochPend := rfl
@[simp] theorem Hw.setPoison_epochAt (h : Hw) (l : Nat) : (h.setPoison l).epochAt = h.epochAt := rfl
@[simp] theorem Hw.setPoison_torusTx (h : Hw) (l : Nat) : (h.setPoison l).torusTx = h.torusTx := rfl
@[simp] theorem Hw.setPoison_torusSeq (h : Hw) (l : Nat) : (h.setPoison l).torusSeq = h.torusSeq := rfl
@[simp] theorem Hw.setPoison_torusRx (h : Hw) (l : Nat) : (h.setPoison l).torusRx = h.torusRx := rfl
@[simp] theorem Hw.setPoison_torusHeld (h : Hw) (l : Nat) : (h.setPoison l).torusHeld = h.torusHeld := rfl
@[simp] theorem Hw.setPoison_coords (h : Hw) (l : Nat) : (h.setPoison l).coords = h.coords := rfl
@[simp] theorem Hw.setPoison_coordBad (h : Hw) (l : Nat) : (h.setPoison l).coordBad = h.coordBad := rfl
@[simp] theorem Hw.setPoison_lath (h : Hw) (l : Nat) : (h.setPoison l).lath = h.lath := rfl
@[simp] theorem Hw.setPoison_training (h : Hw) (l : Nat) : (h.setPoison l).training = h.training := rfl
@[simp] theorem Hw.setPoison_trainFails (h : Hw) (l : Nat) : (h.setPoison l).trainFails = h.trainFails := rfl
@[simp] theorem Hw.setPoison_repairs (h : Hw) (l : Nat) : (h.setPoison l).repairs = h.repairs := rfl
@[simp] theorem Hw.setPoison_edgeHeld (h : Hw) (l : Nat) : (h.setPoison l).edgeHeld = h.edgeHeld := rfl
@[simp] theorem Hw.setPoison_sleepReq (h : Hw) (l : Nat) : (h.setPoison l).sleepReq = h.sleepReq := rfl
@[simp] theorem Hw.setPoison_fwSwitch (h : Hw) (l : Nat) : (h.setPoison l).fwSwitch = h.fwSwitch := rfl
@[simp] theorem Hw.setPoison_lcmds (h : Hw) (l : Nat) : (h.setPoison l).lcmds = h.lcmds := rfl
@[simp] theorem Hw.setPoison_uncAt (h : Hw) (l : Nat) : (h.setPoison l).uncAt = h.uncAt := rfl
@[simp] theorem Hw.setPoison_committed (h : Hw) (l : Nat) : (h.setPoison l).committed = h.committed := rfl
@[simp] theorem Hw.setPoison_applying (h : Hw) (l : Nat) : (h.setPoison l).applying = h.applying := rfl
@[simp] theorem Hw.setPoison_authority (h : Hw) (l : Nat) : (h.setPoison l).authority = h.authority := rfl
@[simp] theorem Hw.setPoison_gibMoves (h : Hw) (l : Nat) : (h.setPoison l).gibMoves = h.gibMoves := rfl
@[simp] theorem Hw.setPoison_commit (h : Hw) (l : Nat) : (h.setPoison l).commit = h.commit := rfl
@[simp] theorem Hw.setPoison_partUp (h : Hw) (l : Nat) : (h.setPoison l).partUp = h.partUp := rfl
@[simp] theorem Hw.setPoison_partStopped (h : Hw) (l : Nat) : (h.setPoison l).partStopped = h.partStopped := rfl
@[simp] theorem Hw.setPoison_resetWait (h : Hw) (l : Nat) : (h.setPoison l).resetWait = h.resetWait := rfl
@[simp] theorem Hw.setPoison_domGoal (h : Hw) (l : Nat) : (h.setPoison l).domGoal = h.domGoal := rfl
@[simp] theorem Hw.setPoison_reqPend (h : Hw) (l : Nat) : (h.setPoison l).reqPend = h.reqPend := rfl
@[simp] theorem Hw.setPoison_domWho (h : Hw) (l : Nat) : (h.setPoison l).domWho = h.domWho := rfl
@[simp] theorem Hw.setPoison_wakeDue (h : Hw) (l : Nat) : (h.setPoison l).wakeDue = h.wakeDue := rfl
@[simp] theorem Hw.setPoison_assist (h : Hw) (l : Nat) : (h.setPoison l).assist = h.assist := rfl
@[simp] theorem Hw.setPoison_deepIdle (h : Hw) (l : Nat) : (h.setPoison l).deepIdle = h.deepIdle := rfl
@[simp] theorem Hw.setPoison_deepOk (h : Hw) (l : Nat) : (h.setPoison l).deepOk = h.deepOk := rfl
@[simp] theorem Hw.setPoison_wakeOnExit (h : Hw) (l : Nat) : (h.setPoison l).wakeOnExit = h.wakeOnExit := rfl
@[simp] theorem Hw.setPoison_curOver (h : Hw) (l : Nat) : (h.setPoison l).curOver = h.curOver := rfl
@[simp] theorem Hw.setPoison_curUnder (h : Hw) (l : Nat) : (h.setPoison l).curUnder = h.curUnder := rfl
@[simp] theorem Hw.setPoison_groupOff (h : Hw) (l : Nat) : (h.setPoison l).groupOff = h.groupOff := rfl
@[simp] theorem Hw.setPoison_vinBad (h : Hw) (l : Nat) : (h.setPoison l).vinBad = h.vinBad := rfl
@[simp] theorem Hw.setPoison_v33Left (h : Hw) (l : Nat) : (h.setPoison l).v33Left = h.v33Left := rfl
@[simp] theorem Hw.setPoison_budgets (h : Hw) (l : Nat) : (h.setPoison l).budgets = h.budgets := rfl
@[simp] theorem Hw.setPoison_supplyW (h : Hw) (l : Nat) : (h.setPoison l).supplyW = h.supplyW := rfl
@[simp] theorem Hw.setPoison_coolW (h : Hw) (l : Nat) : (h.setPoison l).coolW = h.coolW := rfl
@[simp] theorem Hw.setPoison_ceilPwr (h : Hw) (l : Nat) : (h.setPoison l).ceilPwr = h.ceilPwr := rfl
@[simp] theorem Hw.setPoison_ceilTherm (h : Hw) (l : Nat) : (h.setPoison l).ceilTherm = h.ceilTherm := rfl
@[simp] theorem Hw.setPoison_thermTicks (h : Hw) (l : Nat) : (h.setPoison l).thermTicks = h.thermTicks := rfl
@[simp] theorem Hw.setPoison_tripped (h : Hw) (l : Nat) : (h.setPoison l).tripped = h.tripped := rfl
@[simp] theorem Hw.setPoison_thermtripPin (h : Hw) (l : Nat) : (h.setPoison l).thermtripPin = h.thermtripPin := rfl
@[simp] theorem Hw.setPoison_tripInfo (h : Hw) (l : Nat) : (h.setPoison l).tripInfo = h.tripInfo := rfl
@[simp] theorem Hw.setPoison_keys (h : Hw) (l : Nat) : (h.setPoison l).keys = h.keys := rfl
@[simp] theorem Hw.setPoison_boot (h : Hw) (l : Nat) : (h.setPoison l).boot = h.boot := rfl
@[simp] theorem Hw.setPoison_meter (h : Hw) (l : Nat) : (h.setPoison l).meter = h.meter := rfl
@[simp] theorem Hw.setPoison_mtrx (h : Hw) (l : Nat) : (h.setPoison l).mtrx = h.mtrx := rfl
@[simp] theorem Hw.setPoison_evPend (h : Hw) (l : Nat) : (h.setPoison l).evPend = h.evPend := rfl
@[simp] theorem Hw.setPoison_evSlots (h : Hw) (l : Nat) : (h.setPoison l).evSlots = h.evSlots := rfl
@[simp] theorem Hw.setPoison_evFly (h : Hw) (l : Nat) : (h.setPoison l).evFly = h.evFly := rfl
@[simp] theorem Hw.setPoison_evCache (h : Hw) (l : Nat) : (h.setPoison l).evCache = h.evCache := rfl
@[simp] theorem Hw.setPoison_svcEvents (h : Hw) (l : Nat) : (h.setPoison l).svcEvents = h.svcEvents := rfl
@[simp] theorem Hw.setPoison_corrected (h : Hw) (l : Nat) : (h.setPoison l).corrected = h.corrected := rfl
@[simp] theorem Hw.setPoison_losses (h : Hw) (l : Nat) : (h.setPoison l).losses = h.losses := rfl
@[simp] theorem Hw.setPoison_updq (h : Hw) (l : Nat) : (h.setPoison l).updq = h.updq := rfl
@[simp] theorem Hw.setPoison_updates (h : Hw) (l : Nat) : (h.setPoison l).updates = h.updates := rfl
@[simp] theorem Hw.setPoison_plat (h : Hw) (l : Nat) : (h.setPoison l).plat = h.plat := rfl

@[simp] theorem Hw.clearPoison_now (h : Hw) (l : Nat) : (h.clearPoison l).now = h.now := rfl
@[simp] theorem Hw.clearPoison_clockOn (h : Hw) (l : Nat) : (h.clearPoison l).clockOn = h.clockOn := rfl
@[simp] theorem Hw.clearPoison_ao (h : Hw) (l : Nat) : (h.clearPoison l).ao = h.ao := rfl
@[simp] theorem Hw.clearPoison_free (h : Hw) (l : Nat) : (h.clearPoison l).free = h.free := rfl
@[simp] theorem Hw.clearPoison_mem (h : Hw) (l : Nat) : (h.clearPoison l).mem = h.mem := rfl
@[simp] theorem Hw.clearPoison_regs (h : Hw) (l : Nat) : (h.clearPoison l).regs = h.regs := rfl
@[simp] theorem Hw.clearPoison_shadow (h : Hw) (l : Nat) : (h.clearPoison l).shadow = h.shadow := rfl
@[simp] theorem Hw.clearPoison_thr (h : Hw) (l : Nat) : (h.clearPoison l).thr = h.thr := rfl
@[simp] theorem Hw.clearPoison_cores (h : Hw) (l : Nat) : (h.clearPoison l).cores = h.cores := rfl
@[simp] theorem Hw.clearPoison_cdies (h : Hw) (l : Nat) : (h.clearPoison l).cdies = h.cdies := rfl
@[simp] theorem Hw.clearPoison_dpq (h : Hw) (l : Nat) : (h.clearPoison l).dpq = h.dpq := rfl
@[simp] theorem Hw.clearPoison_dpErrs (h : Hw) (l : Nat) : (h.clearPoison l).dpErrs = h.dpErrs := rfl
@[simp] theorem Hw.clearPoison_portUp (h : Hw) (l : Nat) : (h.clearPoison l).portUp = h.portUp := rfl
@[simp] theorem Hw.clearPoison_raises (h : Hw) (l : Nat) : (h.clearPoison l).raises = h.raises := rfl
@[simp] theorem Hw.clearPoison_msgs (h : Hw) (l : Nat) : (h.clearPoison l).msgs = h.msgs := rfl
@[simp] theorem Hw.clearPoison_dieOwner (h : Hw) (l : Nat) : (h.clearPoison l).dieOwner = h.dieOwner := rfl
@[simp] theorem Hw.clearPoison_portOwner (h : Hw) (l : Nat) : (h.clearPoison l).portOwner = h.portOwner := rfl
@[simp] theorem Hw.clearPoison_engOwner (h : Hw) (l : Nat) : (h.clearPoison l).engOwner = h.engOwner := rfl
@[simp] theorem Hw.clearPoison_xtl (h : Hw) (l : Nat) : (h.clearPoison l).xtl = h.xtl := rfl
@[simp] theorem Hw.clearPoison_xctx (h : Hw) (l : Nat) : (h.clearPoison l).xctx = h.xctx := rfl
@[simp] theorem Hw.clearPoison_dir (h : Hw) (l : Nat) : (h.clearPoison l).dir = h.dir := rfl
@[simp] theorem Hw.clearPoison_dcs (h : Hw) (l : Nat) : (h.clearPoison l).dcs = h.dcs := rfl
@[simp] theorem Hw.clearPoison_dwb (h : Hw) (l : Nat) : (h.clearPoison l).dwb = h.dwb := rfl
@[simp] theorem Hw.clearPoison_dhold (h : Hw) (l : Nat) : (h.clearPoison l).dhold = h.dhold := rfl
@[simp] theorem Hw.clearPoison_txns (h : Hw) (l : Nat) : (h.clearPoison l).txns = h.txns := rfl
@[simp] theorem Hw.clearPoison_waitq (h : Hw) (l : Nat) : (h.clearPoison l).waitq = h.waitq := rfl
@[simp] theorem Hw.clearPoison_elc (h : Hw) (l : Nat) : (h.clearPoison l).elc = h.elc := rfl
@[simp] theorem Hw.clearPoison_pwr (h : Hw) (l : Nat) : (h.clearPoison l).pwr = h.pwr := rfl
@[simp] theorem Hw.clearPoison_patom (h : Hw) (l : Nat) : (h.clearPoison l).patom = h.patom := rfl
@[simp] theorem Hw.clearPoison_prd (h : Hw) (l : Nat) : (h.clearPoison l).prd = h.prd := rfl
@[simp] theorem Hw.clearPoison_dmaCpls (h : Hw) (l : Nat) : (h.clearPoison l).dmaCpls = h.dmaCpls := rfl
@[simp] theorem Hw.clearPoison_esq (h : Hw) (l : Nat) : (h.clearPoison l).esq = h.esq := rfl
@[simp] theorem Hw.clearPoison_ownLines (h : Hw) (l : Nat) : (h.clearPoison l).ownLines = h.ownLines := rfl
@[simp] theorem Hw.clearPoison_heldSn (h : Hw) (l : Nat) : (h.clearPoison l).heldSn = h.heldSn := rfl
@[simp] theorem Hw.clearPoison_agWb (h : Hw) (l : Nat) : (h.clearPoison l).agWb = h.agWb := rfl
@[simp] theorem Hw.clearPoison_rc (h : Hw) (l : Nat) : (h.clearPoison l).rc = h.rc := rfl
@[simp] theorem Hw.clearPoison_rcPlru (h : Hw) (l : Nat) : (h.clearPoison l).rcPlru = h.rcPlru := rfl
@[simp] theorem Hw.clearPoison_hot (h : Hw) (l : Nat) : (h.clearPoison l).hot = h.hot := rfl
@[simp] theorem Hw.clearPoison_rewrites (h : Hw) (l : Nat) : (h.clearPoison l).rewrites = h.rewrites := rfl
@[simp] theorem Hw.clearPoison_devCount (h : Hw) (l : Nat) : (h.clearPoison l).devCount = h.devCount := rfl
@[simp] theorem Hw.clearPoison_chFail (h : Hw) (l : Nat) : (h.clearPoison l).chFail = h.chFail := rfl
@[simp] theorem Hw.clearPoison_cap (h : Hw) (l : Nat) : (h.clearPoison l).cap = h.cap := rfl
@[simp] theorem Hw.clearPoison_hdm (h : Hw) (l : Nat) : (h.clearPoison l).hdm = h.hdm := rfl
@[simp] theorem Hw.clearPoison_spared (h : Hw) (l : Nat) : (h.clearPoison l).spared = h.spared := rfl
@[simp] theorem Hw.clearPoison_farHeld (h : Hw) (l : Nat) : (h.clearPoison l).farHeld = h.farHeld := rfl
@[simp] theorem Hw.clearPoison_dimms (h : Hw) (l : Nat) : (h.clearPoison l).dimms = h.dimms := rfl
@[simp] theorem Hw.clearPoison_isetWho (h : Hw) (l : Nat) : (h.clearPoison l).isetWho = h.isetWho := rfl
@[simp] theorem Hw.clearPoison_jobs (h : Hw) (l : Nat) : (h.clearPoison l).jobs = h.jobs := rfl
@[simp] theorem Hw.clearPoison_jobOrder (h : Hw) (l : Nat) : (h.clearPoison l).jobOrder = h.jobOrder := rfl
@[simp] theorem Hw.clearPoison_queueTurn (h : Hw) (l : Nat) : (h.clearPoison l).queueTurn = h.queueTurn := rfl
@[simp] theorem Hw.clearPoison_engq (h : Hw) (l : Nat) : (h.clearPoison l).engq = h.engq := rfl
@[simp] theorem Hw.clearPoison_held (h : Hw) (l : Nat) : (h.clearPoison l).held = h.held := rfl
@[simp] theorem Hw.clearPoison_run (h : Hw) (l : Nat) : (h.clearPoison l).run = h.run := rfl
@[simp] theorem Hw.clearPoison_sp (h : Hw) (l : Nat) : (h.clearPoison l).sp = h.sp := rfl
@[simp] theorem Hw.clearPoison_engLast (h : Hw) (l : Nat) : (h.clearPoison l).engLast = h.engLast := rfl
@[simp] theorem Hw.clearPoison_treqs (h : Hw) (l : Nat) : (h.clearPoison l).treqs = h.treqs := rfl
@[simp] theorem Hw.clearPoison_toks (h : Hw) (l : Nat) : (h.clearPoison l).toks = h.toks := rfl
@[simp] theorem Hw.clearPoison_rsps (h : Hw) (l : Nat) : (h.clearPoison l).rsps = h.rsps := rfl
@[simp] theorem Hw.clearPoison_tokWait (h : Hw) (l : Nat) : (h.clearPoison l).tokWait = h.tokWait := rfl
@[simp] theorem Hw.clearPoison_sleepers (h : Hw) (l : Nat) : (h.clearPoison l).sleepers = h.sleepers := rfl
@[simp] theorem Hw.clearPoison_closing (h : Hw) (l : Nat) : (h.clearPoison l).closing = h.closing := rfl
@[simp] theorem Hw.clearPoison_epochLast (h : Hw) (l : Nat) : (h.clearPoison l).epochLast = h.epochLast := rfl
@[simp] theorem Hw.clearPoison_epochPend (h : Hw) (l : Nat) : (h.clearPoison l).epochPend = h.epochPend := rfl
@[simp] theorem Hw.clearPoison_epochAt (h : Hw) (l : Nat) : (h.clearPoison l).epochAt = h.epochAt := rfl
@[simp] theorem Hw.clearPoison_torusTx (h : Hw) (l : Nat) : (h.clearPoison l).torusTx = h.torusTx := rfl
@[simp] theorem Hw.clearPoison_torusSeq (h : Hw) (l : Nat) : (h.clearPoison l).torusSeq = h.torusSeq := rfl
@[simp] theorem Hw.clearPoison_torusRx (h : Hw) (l : Nat) : (h.clearPoison l).torusRx = h.torusRx := rfl
@[simp] theorem Hw.clearPoison_torusHeld (h : Hw) (l : Nat) : (h.clearPoison l).torusHeld = h.torusHeld := rfl
@[simp] theorem Hw.clearPoison_coords (h : Hw) (l : Nat) : (h.clearPoison l).coords = h.coords := rfl
@[simp] theorem Hw.clearPoison_coordBad (h : Hw) (l : Nat) : (h.clearPoison l).coordBad = h.coordBad := rfl
@[simp] theorem Hw.clearPoison_lath (h : Hw) (l : Nat) : (h.clearPoison l).lath = h.lath := rfl
@[simp] theorem Hw.clearPoison_training (h : Hw) (l : Nat) : (h.clearPoison l).training = h.training := rfl
@[simp] theorem Hw.clearPoison_trainFails (h : Hw) (l : Nat) : (h.clearPoison l).trainFails = h.trainFails := rfl
@[simp] theorem Hw.clearPoison_repairs (h : Hw) (l : Nat) : (h.clearPoison l).repairs = h.repairs := rfl
@[simp] theorem Hw.clearPoison_edgeHeld (h : Hw) (l : Nat) : (h.clearPoison l).edgeHeld = h.edgeHeld := rfl
@[simp] theorem Hw.clearPoison_sleepReq (h : Hw) (l : Nat) : (h.clearPoison l).sleepReq = h.sleepReq := rfl
@[simp] theorem Hw.clearPoison_fwSwitch (h : Hw) (l : Nat) : (h.clearPoison l).fwSwitch = h.fwSwitch := rfl
@[simp] theorem Hw.clearPoison_lcmds (h : Hw) (l : Nat) : (h.clearPoison l).lcmds = h.lcmds := rfl
@[simp] theorem Hw.clearPoison_uncAt (h : Hw) (l : Nat) : (h.clearPoison l).uncAt = h.uncAt := rfl
@[simp] theorem Hw.clearPoison_committed (h : Hw) (l : Nat) : (h.clearPoison l).committed = h.committed := rfl
@[simp] theorem Hw.clearPoison_applying (h : Hw) (l : Nat) : (h.clearPoison l).applying = h.applying := rfl
@[simp] theorem Hw.clearPoison_authority (h : Hw) (l : Nat) : (h.clearPoison l).authority = h.authority := rfl
@[simp] theorem Hw.clearPoison_gibMoves (h : Hw) (l : Nat) : (h.clearPoison l).gibMoves = h.gibMoves := rfl
@[simp] theorem Hw.clearPoison_commit (h : Hw) (l : Nat) : (h.clearPoison l).commit = h.commit := rfl
@[simp] theorem Hw.clearPoison_partUp (h : Hw) (l : Nat) : (h.clearPoison l).partUp = h.partUp := rfl
@[simp] theorem Hw.clearPoison_partStopped (h : Hw) (l : Nat) : (h.clearPoison l).partStopped = h.partStopped := rfl
@[simp] theorem Hw.clearPoison_resetWait (h : Hw) (l : Nat) : (h.clearPoison l).resetWait = h.resetWait := rfl
@[simp] theorem Hw.clearPoison_domGoal (h : Hw) (l : Nat) : (h.clearPoison l).domGoal = h.domGoal := rfl
@[simp] theorem Hw.clearPoison_reqPend (h : Hw) (l : Nat) : (h.clearPoison l).reqPend = h.reqPend := rfl
@[simp] theorem Hw.clearPoison_domWho (h : Hw) (l : Nat) : (h.clearPoison l).domWho = h.domWho := rfl
@[simp] theorem Hw.clearPoison_wakeDue (h : Hw) (l : Nat) : (h.clearPoison l).wakeDue = h.wakeDue := rfl
@[simp] theorem Hw.clearPoison_assist (h : Hw) (l : Nat) : (h.clearPoison l).assist = h.assist := rfl
@[simp] theorem Hw.clearPoison_deepIdle (h : Hw) (l : Nat) : (h.clearPoison l).deepIdle = h.deepIdle := rfl
@[simp] theorem Hw.clearPoison_deepOk (h : Hw) (l : Nat) : (h.clearPoison l).deepOk = h.deepOk := rfl
@[simp] theorem Hw.clearPoison_wakeOnExit (h : Hw) (l : Nat) : (h.clearPoison l).wakeOnExit = h.wakeOnExit := rfl
@[simp] theorem Hw.clearPoison_curOver (h : Hw) (l : Nat) : (h.clearPoison l).curOver = h.curOver := rfl
@[simp] theorem Hw.clearPoison_curUnder (h : Hw) (l : Nat) : (h.clearPoison l).curUnder = h.curUnder := rfl
@[simp] theorem Hw.clearPoison_groupOff (h : Hw) (l : Nat) : (h.clearPoison l).groupOff = h.groupOff := rfl
@[simp] theorem Hw.clearPoison_vinBad (h : Hw) (l : Nat) : (h.clearPoison l).vinBad = h.vinBad := rfl
@[simp] theorem Hw.clearPoison_v33Left (h : Hw) (l : Nat) : (h.clearPoison l).v33Left = h.v33Left := rfl
@[simp] theorem Hw.clearPoison_budgets (h : Hw) (l : Nat) : (h.clearPoison l).budgets = h.budgets := rfl
@[simp] theorem Hw.clearPoison_supplyW (h : Hw) (l : Nat) : (h.clearPoison l).supplyW = h.supplyW := rfl
@[simp] theorem Hw.clearPoison_coolW (h : Hw) (l : Nat) : (h.clearPoison l).coolW = h.coolW := rfl
@[simp] theorem Hw.clearPoison_ceilPwr (h : Hw) (l : Nat) : (h.clearPoison l).ceilPwr = h.ceilPwr := rfl
@[simp] theorem Hw.clearPoison_ceilTherm (h : Hw) (l : Nat) : (h.clearPoison l).ceilTherm = h.ceilTherm := rfl
@[simp] theorem Hw.clearPoison_thermTicks (h : Hw) (l : Nat) : (h.clearPoison l).thermTicks = h.thermTicks := rfl
@[simp] theorem Hw.clearPoison_tripped (h : Hw) (l : Nat) : (h.clearPoison l).tripped = h.tripped := rfl
@[simp] theorem Hw.clearPoison_thermtripPin (h : Hw) (l : Nat) : (h.clearPoison l).thermtripPin = h.thermtripPin := rfl
@[simp] theorem Hw.clearPoison_tripInfo (h : Hw) (l : Nat) : (h.clearPoison l).tripInfo = h.tripInfo := rfl
@[simp] theorem Hw.clearPoison_keys (h : Hw) (l : Nat) : (h.clearPoison l).keys = h.keys := rfl
@[simp] theorem Hw.clearPoison_boot (h : Hw) (l : Nat) : (h.clearPoison l).boot = h.boot := rfl
@[simp] theorem Hw.clearPoison_meter (h : Hw) (l : Nat) : (h.clearPoison l).meter = h.meter := rfl
@[simp] theorem Hw.clearPoison_mtrx (h : Hw) (l : Nat) : (h.clearPoison l).mtrx = h.mtrx := rfl
@[simp] theorem Hw.clearPoison_evPend (h : Hw) (l : Nat) : (h.clearPoison l).evPend = h.evPend := rfl
@[simp] theorem Hw.clearPoison_evSlots (h : Hw) (l : Nat) : (h.clearPoison l).evSlots = h.evSlots := rfl
@[simp] theorem Hw.clearPoison_evFly (h : Hw) (l : Nat) : (h.clearPoison l).evFly = h.evFly := rfl
@[simp] theorem Hw.clearPoison_evCache (h : Hw) (l : Nat) : (h.clearPoison l).evCache = h.evCache := rfl
@[simp] theorem Hw.clearPoison_svcEvents (h : Hw) (l : Nat) : (h.clearPoison l).svcEvents = h.svcEvents := rfl
@[simp] theorem Hw.clearPoison_corrected (h : Hw) (l : Nat) : (h.clearPoison l).corrected = h.corrected := rfl
@[simp] theorem Hw.clearPoison_losses (h : Hw) (l : Nat) : (h.clearPoison l).losses = h.losses := rfl
@[simp] theorem Hw.clearPoison_updq (h : Hw) (l : Nat) : (h.clearPoison l).updq = h.updq := rfl
@[simp] theorem Hw.clearPoison_updates (h : Hw) (l : Nat) : (h.clearPoison l).updates = h.updates := rfl
@[simp] theorem Hw.clearPoison_plat (h : Hw) (l : Nat) : (h.clearPoison l).plat = h.plat := rfl

@[simp] theorem Hw.writeMem_now (h : Hw) (a : Nat) (bs : List Byte) : (h.writeMem a bs).now = h.now := rfl
@[simp] theorem Hw.writeMem_clockOn (h : Hw) (a : Nat) (bs : List Byte) : (h.writeMem a bs).clockOn = h.clockOn := rfl
@[simp] theorem Hw.writeMem_ao (h : Hw) (a : Nat) (bs : List Byte) : (h.writeMem a bs).ao = h.ao := rfl
@[simp] theorem Hw.writeMem_free (h : Hw) (a : Nat) (bs : List Byte) : (h.writeMem a bs).free = h.free := rfl
@[simp] theorem Hw.writeMem_poison (h : Hw) (a : Nat) (bs : List Byte) : (h.writeMem a bs).poison = h.poison := rfl
@[simp] theorem Hw.writeMem_regs (h : Hw) (a : Nat) (bs : List Byte) : (h.writeMem a bs).regs = h.regs := rfl
@[simp] theorem Hw.writeMem_shadow (h : Hw) (a : Nat) (bs : List Byte) : (h.writeMem a bs).shadow = h.shadow := rfl
@[simp] theorem Hw.writeMem_cores (h : Hw) (a : Nat) (bs : List Byte) : (h.writeMem a bs).cores = h.cores := rfl
@[simp] theorem Hw.writeMem_cdies (h : Hw) (a : Nat) (bs : List Byte) : (h.writeMem a bs).cdies = h.cdies := rfl
@[simp] theorem Hw.writeMem_dpq (h : Hw) (a : Nat) (bs : List Byte) : (h.writeMem a bs).dpq = h.dpq := rfl
@[simp] theorem Hw.writeMem_dpErrs (h : Hw) (a : Nat) (bs : List Byte) : (h.writeMem a bs).dpErrs = h.dpErrs := rfl
@[simp] theorem Hw.writeMem_portUp (h : Hw) (a : Nat) (bs : List Byte) : (h.writeMem a bs).portUp = h.portUp := rfl
@[simp] theorem Hw.writeMem_raises (h : Hw) (a : Nat) (bs : List Byte) : (h.writeMem a bs).raises = h.raises := rfl
@[simp] theorem Hw.writeMem_msgs (h : Hw) (a : Nat) (bs : List Byte) : (h.writeMem a bs).msgs = h.msgs := rfl
@[simp] theorem Hw.writeMem_dieOwner (h : Hw) (a : Nat) (bs : List Byte) : (h.writeMem a bs).dieOwner = h.dieOwner := rfl
@[simp] theorem Hw.writeMem_portOwner (h : Hw) (a : Nat) (bs : List Byte) : (h.writeMem a bs).portOwner = h.portOwner := rfl
@[simp] theorem Hw.writeMem_engOwner (h : Hw) (a : Nat) (bs : List Byte) : (h.writeMem a bs).engOwner = h.engOwner := rfl
@[simp] theorem Hw.writeMem_xtl (h : Hw) (a : Nat) (bs : List Byte) : (h.writeMem a bs).xtl = h.xtl := rfl
@[simp] theorem Hw.writeMem_xctx (h : Hw) (a : Nat) (bs : List Byte) : (h.writeMem a bs).xctx = h.xctx := rfl
@[simp] theorem Hw.writeMem_dir (h : Hw) (a : Nat) (bs : List Byte) : (h.writeMem a bs).dir = h.dir := rfl
@[simp] theorem Hw.writeMem_dcs (h : Hw) (a : Nat) (bs : List Byte) : (h.writeMem a bs).dcs = h.dcs := rfl
@[simp] theorem Hw.writeMem_dwb (h : Hw) (a : Nat) (bs : List Byte) : (h.writeMem a bs).dwb = h.dwb := rfl
@[simp] theorem Hw.writeMem_dhold (h : Hw) (a : Nat) (bs : List Byte) : (h.writeMem a bs).dhold = h.dhold := rfl
@[simp] theorem Hw.writeMem_txns (h : Hw) (a : Nat) (bs : List Byte) : (h.writeMem a bs).txns = h.txns := rfl
@[simp] theorem Hw.writeMem_waitq (h : Hw) (a : Nat) (bs : List Byte) : (h.writeMem a bs).waitq = h.waitq := rfl
@[simp] theorem Hw.writeMem_elc (h : Hw) (a : Nat) (bs : List Byte) : (h.writeMem a bs).elc = h.elc := rfl
@[simp] theorem Hw.writeMem_pwr (h : Hw) (a : Nat) (bs : List Byte) : (h.writeMem a bs).pwr = h.pwr := rfl
@[simp] theorem Hw.writeMem_patom (h : Hw) (a : Nat) (bs : List Byte) : (h.writeMem a bs).patom = h.patom := rfl
@[simp] theorem Hw.writeMem_prd (h : Hw) (a : Nat) (bs : List Byte) : (h.writeMem a bs).prd = h.prd := rfl
@[simp] theorem Hw.writeMem_dmaCpls (h : Hw) (a : Nat) (bs : List Byte) : (h.writeMem a bs).dmaCpls = h.dmaCpls := rfl
@[simp] theorem Hw.writeMem_esq (h : Hw) (a : Nat) (bs : List Byte) : (h.writeMem a bs).esq = h.esq := rfl
@[simp] theorem Hw.writeMem_ownLines (h : Hw) (a : Nat) (bs : List Byte) : (h.writeMem a bs).ownLines = h.ownLines := rfl
@[simp] theorem Hw.writeMem_heldSn (h : Hw) (a : Nat) (bs : List Byte) : (h.writeMem a bs).heldSn = h.heldSn := rfl
@[simp] theorem Hw.writeMem_agWb (h : Hw) (a : Nat) (bs : List Byte) : (h.writeMem a bs).agWb = h.agWb := rfl
@[simp] theorem Hw.writeMem_rc (h : Hw) (a : Nat) (bs : List Byte) : (h.writeMem a bs).rc = h.rc := rfl
@[simp] theorem Hw.writeMem_rcPlru (h : Hw) (a : Nat) (bs : List Byte) : (h.writeMem a bs).rcPlru = h.rcPlru := rfl
@[simp] theorem Hw.writeMem_hot (h : Hw) (a : Nat) (bs : List Byte) : (h.writeMem a bs).hot = h.hot := rfl
@[simp] theorem Hw.writeMem_tpoison (h : Hw) (a : Nat) (bs : List Byte) : (h.writeMem a bs).tpoison = h.tpoison := rfl
@[simp] theorem Hw.writeMem_rewrites (h : Hw) (a : Nat) (bs : List Byte) : (h.writeMem a bs).rewrites = h.rewrites := rfl
@[simp] theorem Hw.writeMem_devCount (h : Hw) (a : Nat) (bs : List Byte) : (h.writeMem a bs).devCount = h.devCount := rfl
@[simp] theorem Hw.writeMem_chFail (h : Hw) (a : Nat) (bs : List Byte) : (h.writeMem a bs).chFail = h.chFail := rfl
@[simp] theorem Hw.writeMem_cap (h : Hw) (a : Nat) (bs : List Byte) : (h.writeMem a bs).cap = h.cap := rfl
@[simp] theorem Hw.writeMem_hdm (h : Hw) (a : Nat) (bs : List Byte) : (h.writeMem a bs).hdm = h.hdm := rfl
@[simp] theorem Hw.writeMem_spared (h : Hw) (a : Nat) (bs : List Byte) : (h.writeMem a bs).spared = h.spared := rfl
@[simp] theorem Hw.writeMem_farHeld (h : Hw) (a : Nat) (bs : List Byte) : (h.writeMem a bs).farHeld = h.farHeld := rfl
@[simp] theorem Hw.writeMem_dimms (h : Hw) (a : Nat) (bs : List Byte) : (h.writeMem a bs).dimms = h.dimms := rfl
@[simp] theorem Hw.writeMem_isetWho (h : Hw) (a : Nat) (bs : List Byte) : (h.writeMem a bs).isetWho = h.isetWho := rfl
@[simp] theorem Hw.writeMem_jobs (h : Hw) (a : Nat) (bs : List Byte) : (h.writeMem a bs).jobs = h.jobs := rfl
@[simp] theorem Hw.writeMem_jobOrder (h : Hw) (a : Nat) (bs : List Byte) : (h.writeMem a bs).jobOrder = h.jobOrder := rfl
@[simp] theorem Hw.writeMem_queueTurn (h : Hw) (a : Nat) (bs : List Byte) : (h.writeMem a bs).queueTurn = h.queueTurn := rfl
@[simp] theorem Hw.writeMem_engq (h : Hw) (a : Nat) (bs : List Byte) : (h.writeMem a bs).engq = h.engq := rfl
@[simp] theorem Hw.writeMem_held (h : Hw) (a : Nat) (bs : List Byte) : (h.writeMem a bs).held = h.held := rfl
@[simp] theorem Hw.writeMem_run (h : Hw) (a : Nat) (bs : List Byte) : (h.writeMem a bs).run = h.run := rfl
@[simp] theorem Hw.writeMem_sp (h : Hw) (a : Nat) (bs : List Byte) : (h.writeMem a bs).sp = h.sp := rfl
@[simp] theorem Hw.writeMem_engLast (h : Hw) (a : Nat) (bs : List Byte) : (h.writeMem a bs).engLast = h.engLast := rfl
@[simp] theorem Hw.writeMem_treqs (h : Hw) (a : Nat) (bs : List Byte) : (h.writeMem a bs).treqs = h.treqs := rfl
@[simp] theorem Hw.writeMem_toks (h : Hw) (a : Nat) (bs : List Byte) : (h.writeMem a bs).toks = h.toks := rfl
@[simp] theorem Hw.writeMem_rsps (h : Hw) (a : Nat) (bs : List Byte) : (h.writeMem a bs).rsps = h.rsps := rfl
@[simp] theorem Hw.writeMem_tokWait (h : Hw) (a : Nat) (bs : List Byte) : (h.writeMem a bs).tokWait = h.tokWait := rfl
@[simp] theorem Hw.writeMem_sleepers (h : Hw) (a : Nat) (bs : List Byte) : (h.writeMem a bs).sleepers = h.sleepers := rfl
@[simp] theorem Hw.writeMem_closing (h : Hw) (a : Nat) (bs : List Byte) : (h.writeMem a bs).closing = h.closing := rfl
@[simp] theorem Hw.writeMem_epochLast (h : Hw) (a : Nat) (bs : List Byte) : (h.writeMem a bs).epochLast = h.epochLast := rfl
@[simp] theorem Hw.writeMem_epochPend (h : Hw) (a : Nat) (bs : List Byte) : (h.writeMem a bs).epochPend = h.epochPend := rfl
@[simp] theorem Hw.writeMem_epochAt (h : Hw) (a : Nat) (bs : List Byte) : (h.writeMem a bs).epochAt = h.epochAt := rfl
@[simp] theorem Hw.writeMem_torusTx (h : Hw) (a : Nat) (bs : List Byte) : (h.writeMem a bs).torusTx = h.torusTx := rfl
@[simp] theorem Hw.writeMem_torusSeq (h : Hw) (a : Nat) (bs : List Byte) : (h.writeMem a bs).torusSeq = h.torusSeq := rfl
@[simp] theorem Hw.writeMem_torusRx (h : Hw) (a : Nat) (bs : List Byte) : (h.writeMem a bs).torusRx = h.torusRx := rfl
@[simp] theorem Hw.writeMem_torusHeld (h : Hw) (a : Nat) (bs : List Byte) : (h.writeMem a bs).torusHeld = h.torusHeld := rfl
@[simp] theorem Hw.writeMem_coords (h : Hw) (a : Nat) (bs : List Byte) : (h.writeMem a bs).coords = h.coords := rfl
@[simp] theorem Hw.writeMem_coordBad (h : Hw) (a : Nat) (bs : List Byte) : (h.writeMem a bs).coordBad = h.coordBad := rfl
@[simp] theorem Hw.writeMem_lath (h : Hw) (a : Nat) (bs : List Byte) : (h.writeMem a bs).lath = h.lath := rfl
@[simp] theorem Hw.writeMem_training (h : Hw) (a : Nat) (bs : List Byte) : (h.writeMem a bs).training = h.training := rfl
@[simp] theorem Hw.writeMem_trainFails (h : Hw) (a : Nat) (bs : List Byte) : (h.writeMem a bs).trainFails = h.trainFails := rfl
@[simp] theorem Hw.writeMem_repairs (h : Hw) (a : Nat) (bs : List Byte) : (h.writeMem a bs).repairs = h.repairs := rfl
@[simp] theorem Hw.writeMem_edgeHeld (h : Hw) (a : Nat) (bs : List Byte) : (h.writeMem a bs).edgeHeld = h.edgeHeld := rfl
@[simp] theorem Hw.writeMem_sleepReq (h : Hw) (a : Nat) (bs : List Byte) : (h.writeMem a bs).sleepReq = h.sleepReq := rfl
@[simp] theorem Hw.writeMem_fwSwitch (h : Hw) (a : Nat) (bs : List Byte) : (h.writeMem a bs).fwSwitch = h.fwSwitch := rfl
@[simp] theorem Hw.writeMem_lcmds (h : Hw) (a : Nat) (bs : List Byte) : (h.writeMem a bs).lcmds = h.lcmds := rfl
@[simp] theorem Hw.writeMem_uncAt (h : Hw) (a : Nat) (bs : List Byte) : (h.writeMem a bs).uncAt = h.uncAt := rfl
@[simp] theorem Hw.writeMem_committed (h : Hw) (a : Nat) (bs : List Byte) : (h.writeMem a bs).committed = h.committed := rfl
@[simp] theorem Hw.writeMem_applying (h : Hw) (a : Nat) (bs : List Byte) : (h.writeMem a bs).applying = h.applying := rfl
@[simp] theorem Hw.writeMem_authority (h : Hw) (a : Nat) (bs : List Byte) : (h.writeMem a bs).authority = h.authority := rfl
@[simp] theorem Hw.writeMem_gibMoves (h : Hw) (a : Nat) (bs : List Byte) : (h.writeMem a bs).gibMoves = h.gibMoves := rfl
@[simp] theorem Hw.writeMem_commit (h : Hw) (a : Nat) (bs : List Byte) : (h.writeMem a bs).commit = h.commit := rfl
@[simp] theorem Hw.writeMem_partUp (h : Hw) (a : Nat) (bs : List Byte) : (h.writeMem a bs).partUp = h.partUp := rfl
@[simp] theorem Hw.writeMem_partStopped (h : Hw) (a : Nat) (bs : List Byte) : (h.writeMem a bs).partStopped = h.partStopped := rfl
@[simp] theorem Hw.writeMem_resetWait (h : Hw) (a : Nat) (bs : List Byte) : (h.writeMem a bs).resetWait = h.resetWait := rfl
@[simp] theorem Hw.writeMem_domGoal (h : Hw) (a : Nat) (bs : List Byte) : (h.writeMem a bs).domGoal = h.domGoal := rfl
@[simp] theorem Hw.writeMem_reqPend (h : Hw) (a : Nat) (bs : List Byte) : (h.writeMem a bs).reqPend = h.reqPend := rfl
@[simp] theorem Hw.writeMem_domWho (h : Hw) (a : Nat) (bs : List Byte) : (h.writeMem a bs).domWho = h.domWho := rfl
@[simp] theorem Hw.writeMem_wakeDue (h : Hw) (a : Nat) (bs : List Byte) : (h.writeMem a bs).wakeDue = h.wakeDue := rfl
@[simp] theorem Hw.writeMem_assist (h : Hw) (a : Nat) (bs : List Byte) : (h.writeMem a bs).assist = h.assist := rfl
@[simp] theorem Hw.writeMem_deepIdle (h : Hw) (a : Nat) (bs : List Byte) : (h.writeMem a bs).deepIdle = h.deepIdle := rfl
@[simp] theorem Hw.writeMem_deepOk (h : Hw) (a : Nat) (bs : List Byte) : (h.writeMem a bs).deepOk = h.deepOk := rfl
@[simp] theorem Hw.writeMem_wakeOnExit (h : Hw) (a : Nat) (bs : List Byte) : (h.writeMem a bs).wakeOnExit = h.wakeOnExit := rfl
@[simp] theorem Hw.writeMem_curOver (h : Hw) (a : Nat) (bs : List Byte) : (h.writeMem a bs).curOver = h.curOver := rfl
@[simp] theorem Hw.writeMem_curUnder (h : Hw) (a : Nat) (bs : List Byte) : (h.writeMem a bs).curUnder = h.curUnder := rfl
@[simp] theorem Hw.writeMem_groupOff (h : Hw) (a : Nat) (bs : List Byte) : (h.writeMem a bs).groupOff = h.groupOff := rfl
@[simp] theorem Hw.writeMem_vinBad (h : Hw) (a : Nat) (bs : List Byte) : (h.writeMem a bs).vinBad = h.vinBad := rfl
@[simp] theorem Hw.writeMem_v33Left (h : Hw) (a : Nat) (bs : List Byte) : (h.writeMem a bs).v33Left = h.v33Left := rfl
@[simp] theorem Hw.writeMem_budgets (h : Hw) (a : Nat) (bs : List Byte) : (h.writeMem a bs).budgets = h.budgets := rfl
@[simp] theorem Hw.writeMem_supplyW (h : Hw) (a : Nat) (bs : List Byte) : (h.writeMem a bs).supplyW = h.supplyW := rfl
@[simp] theorem Hw.writeMem_coolW (h : Hw) (a : Nat) (bs : List Byte) : (h.writeMem a bs).coolW = h.coolW := rfl
@[simp] theorem Hw.writeMem_ceilPwr (h : Hw) (a : Nat) (bs : List Byte) : (h.writeMem a bs).ceilPwr = h.ceilPwr := rfl
@[simp] theorem Hw.writeMem_ceilTherm (h : Hw) (a : Nat) (bs : List Byte) : (h.writeMem a bs).ceilTherm = h.ceilTherm := rfl
@[simp] theorem Hw.writeMem_thermTicks (h : Hw) (a : Nat) (bs : List Byte) : (h.writeMem a bs).thermTicks = h.thermTicks := rfl
@[simp] theorem Hw.writeMem_tripped (h : Hw) (a : Nat) (bs : List Byte) : (h.writeMem a bs).tripped = h.tripped := rfl
@[simp] theorem Hw.writeMem_thermtripPin (h : Hw) (a : Nat) (bs : List Byte) : (h.writeMem a bs).thermtripPin = h.thermtripPin := rfl
@[simp] theorem Hw.writeMem_tripInfo (h : Hw) (a : Nat) (bs : List Byte) : (h.writeMem a bs).tripInfo = h.tripInfo := rfl
@[simp] theorem Hw.writeMem_keys (h : Hw) (a : Nat) (bs : List Byte) : (h.writeMem a bs).keys = h.keys := rfl
@[simp] theorem Hw.writeMem_boot (h : Hw) (a : Nat) (bs : List Byte) : (h.writeMem a bs).boot = h.boot := rfl
@[simp] theorem Hw.writeMem_meter (h : Hw) (a : Nat) (bs : List Byte) : (h.writeMem a bs).meter = h.meter := rfl
@[simp] theorem Hw.writeMem_mtrx (h : Hw) (a : Nat) (bs : List Byte) : (h.writeMem a bs).mtrx = h.mtrx := rfl
@[simp] theorem Hw.writeMem_evPend (h : Hw) (a : Nat) (bs : List Byte) : (h.writeMem a bs).evPend = h.evPend := rfl
@[simp] theorem Hw.writeMem_evSlots (h : Hw) (a : Nat) (bs : List Byte) : (h.writeMem a bs).evSlots = h.evSlots := rfl
@[simp] theorem Hw.writeMem_evFly (h : Hw) (a : Nat) (bs : List Byte) : (h.writeMem a bs).evFly = h.evFly := rfl
@[simp] theorem Hw.writeMem_evCache (h : Hw) (a : Nat) (bs : List Byte) : (h.writeMem a bs).evCache = h.evCache := rfl
@[simp] theorem Hw.writeMem_svcEvents (h : Hw) (a : Nat) (bs : List Byte) : (h.writeMem a bs).svcEvents = h.svcEvents := rfl
@[simp] theorem Hw.writeMem_corrected (h : Hw) (a : Nat) (bs : List Byte) : (h.writeMem a bs).corrected = h.corrected := rfl
@[simp] theorem Hw.writeMem_losses (h : Hw) (a : Nat) (bs : List Byte) : (h.writeMem a bs).losses = h.losses := rfl
@[simp] theorem Hw.writeMem_updq (h : Hw) (a : Nat) (bs : List Byte) : (h.writeMem a bs).updq = h.updq := rfl
@[simp] theorem Hw.writeMem_updates (h : Hw) (a : Nat) (bs : List Byte) : (h.writeMem a bs).updates = h.updates := rfl
@[simp] theorem Hw.writeMem_plat (h : Hw) (a : Nat) (bs : List Byte) : (h.writeMem a bs).plat = h.plat := rfl

/-- A send changes messages, slots and what waits for them, and nothing else. -/
theorem Hw.send_only (h : Hw) (m : Msg) : ∃ ms tk rs tw, h.send m = { h with msgs := ms, toks := tk, rsps := rs, tokWait := tw } := by
  have ask (x : Hw) (n : Msg) (k : Nat) : ∃ ms, x.askSlot n k = { x with msgs := ms } := by
    unfold Hw.askSlot
    simp only
    split
    · exact ⟨x.msgs, rfl⟩
    · exact ⟨_, rfl⟩
  have post (x : Hw) (n : Msg) : ∃ ms tk tw, x.post n = { x with msgs := ms, toks := tk, tokWait := tw } := by
    unfold Hw.post
    split
    · exact ⟨_, x.toks, x.tokWait, rfl⟩
    · split
      · exact ⟨_, _, x.tokWait, rfl⟩
      · obtain ⟨ms, e⟩ := ask { x with tokWait := x.tokWait ++ [n] } n _
        exact ⟨ms, x.toks, _, e⟩
  unfold Hw.send
  simp only
  split
  · obtain ⟨ms, tk, tw, e⟩ := post { h with rsps := h.rsps ++ [⟨m.ends.1, freshNum ((h.rsps.filter (fun r => decide (r.src = m.ends.1))).map (·.txid)), m.agent, m.op, m.addr, h.now⟩] }
      { m with txid := freshNum ((h.rsps.filter (fun r => decide (r.src = m.ends.1))).map (·.txid)) }
    exact ⟨ms, tk, _, tw, e⟩
  · obtain ⟨ms, tk, tw, e⟩ := post h m
    exact ⟨ms, tk, h.rsps, tw, e⟩

@[simp] theorem Hw.send_now (h : Hw) (m : Msg) : (h.send m).now = h.now := by obtain ⟨_, _, _, _, e⟩ := h.send_only m; rw [e]
@[simp] theorem Hw.send_clockOn (h : Hw) (m : Msg) : (h.send m).clockOn = h.clockOn := by obtain ⟨_, _, _, _, e⟩ := h.send_only m; rw [e]
@[simp] theorem Hw.send_ao (h : Hw) (m : Msg) : (h.send m).ao = h.ao := by obtain ⟨_, _, _, _, e⟩ := h.send_only m; rw [e]
@[simp] theorem Hw.send_free (h : Hw) (m : Msg) : (h.send m).free = h.free := by obtain ⟨_, _, _, _, e⟩ := h.send_only m; rw [e]
@[simp] theorem Hw.send_mem (h : Hw) (m : Msg) : (h.send m).mem = h.mem := by obtain ⟨_, _, _, _, e⟩ := h.send_only m; rw [e]
@[simp] theorem Hw.send_poison (h : Hw) (m : Msg) : (h.send m).poison = h.poison := by obtain ⟨_, _, _, _, e⟩ := h.send_only m; rw [e]
@[simp] theorem Hw.send_regs (h : Hw) (m : Msg) : (h.send m).regs = h.regs := by obtain ⟨_, _, _, _, e⟩ := h.send_only m; rw [e]
@[simp] theorem Hw.send_shadow (h : Hw) (m : Msg) : (h.send m).shadow = h.shadow := by obtain ⟨_, _, _, _, e⟩ := h.send_only m; rw [e]
@[simp] theorem Hw.send_thr (h : Hw) (m : Msg) : (h.send m).thr = h.thr := by obtain ⟨_, _, _, _, e⟩ := h.send_only m; rw [e]
@[simp] theorem Hw.send_cores (h : Hw) (m : Msg) : (h.send m).cores = h.cores := by obtain ⟨_, _, _, _, e⟩ := h.send_only m; rw [e]
@[simp] theorem Hw.send_cdies (h : Hw) (m : Msg) : (h.send m).cdies = h.cdies := by obtain ⟨_, _, _, _, e⟩ := h.send_only m; rw [e]
@[simp] theorem Hw.send_dpq (h : Hw) (m : Msg) : (h.send m).dpq = h.dpq := by obtain ⟨_, _, _, _, e⟩ := h.send_only m; rw [e]
@[simp] theorem Hw.send_dpErrs (h : Hw) (m : Msg) : (h.send m).dpErrs = h.dpErrs := by obtain ⟨_, _, _, _, e⟩ := h.send_only m; rw [e]
@[simp] theorem Hw.send_portUp (h : Hw) (m : Msg) : (h.send m).portUp = h.portUp := by obtain ⟨_, _, _, _, e⟩ := h.send_only m; rw [e]
@[simp] theorem Hw.send_raises (h : Hw) (m : Msg) : (h.send m).raises = h.raises := by obtain ⟨_, _, _, _, e⟩ := h.send_only m; rw [e]
@[simp] theorem Hw.send_dieOwner (h : Hw) (m : Msg) : (h.send m).dieOwner = h.dieOwner := by obtain ⟨_, _, _, _, e⟩ := h.send_only m; rw [e]
@[simp] theorem Hw.send_portOwner (h : Hw) (m : Msg) : (h.send m).portOwner = h.portOwner := by obtain ⟨_, _, _, _, e⟩ := h.send_only m; rw [e]
@[simp] theorem Hw.send_engOwner (h : Hw) (m : Msg) : (h.send m).engOwner = h.engOwner := by obtain ⟨_, _, _, _, e⟩ := h.send_only m; rw [e]
@[simp] theorem Hw.send_xtl (h : Hw) (m : Msg) : (h.send m).xtl = h.xtl := by obtain ⟨_, _, _, _, e⟩ := h.send_only m; rw [e]
@[simp] theorem Hw.send_xctx (h : Hw) (m : Msg) : (h.send m).xctx = h.xctx := by obtain ⟨_, _, _, _, e⟩ := h.send_only m; rw [e]
@[simp] theorem Hw.send_dir (h : Hw) (m : Msg) : (h.send m).dir = h.dir := by obtain ⟨_, _, _, _, e⟩ := h.send_only m; rw [e]
@[simp] theorem Hw.send_dcs (h : Hw) (m : Msg) : (h.send m).dcs = h.dcs := by obtain ⟨_, _, _, _, e⟩ := h.send_only m; rw [e]
@[simp] theorem Hw.send_dwb (h : Hw) (m : Msg) : (h.send m).dwb = h.dwb := by obtain ⟨_, _, _, _, e⟩ := h.send_only m; rw [e]
@[simp] theorem Hw.send_dhold (h : Hw) (m : Msg) : (h.send m).dhold = h.dhold := by obtain ⟨_, _, _, _, e⟩ := h.send_only m; rw [e]
@[simp] theorem Hw.send_txns (h : Hw) (m : Msg) : (h.send m).txns = h.txns := by obtain ⟨_, _, _, _, e⟩ := h.send_only m; rw [e]
@[simp] theorem Hw.send_waitq (h : Hw) (m : Msg) : (h.send m).waitq = h.waitq := by obtain ⟨_, _, _, _, e⟩ := h.send_only m; rw [e]
@[simp] theorem Hw.send_elc (h : Hw) (m : Msg) : (h.send m).elc = h.elc := by obtain ⟨_, _, _, _, e⟩ := h.send_only m; rw [e]
@[simp] theorem Hw.send_pwr (h : Hw) (m : Msg) : (h.send m).pwr = h.pwr := by obtain ⟨_, _, _, _, e⟩ := h.send_only m; rw [e]
@[simp] theorem Hw.send_patom (h : Hw) (m : Msg) : (h.send m).patom = h.patom := by obtain ⟨_, _, _, _, e⟩ := h.send_only m; rw [e]
@[simp] theorem Hw.send_prd (h : Hw) (m : Msg) : (h.send m).prd = h.prd := by obtain ⟨_, _, _, _, e⟩ := h.send_only m; rw [e]
@[simp] theorem Hw.send_dmaCpls (h : Hw) (m : Msg) : (h.send m).dmaCpls = h.dmaCpls := by obtain ⟨_, _, _, _, e⟩ := h.send_only m; rw [e]
@[simp] theorem Hw.send_esq (h : Hw) (m : Msg) : (h.send m).esq = h.esq := by obtain ⟨_, _, _, _, e⟩ := h.send_only m; rw [e]
@[simp] theorem Hw.send_ownLines (h : Hw) (m : Msg) : (h.send m).ownLines = h.ownLines := by obtain ⟨_, _, _, _, e⟩ := h.send_only m; rw [e]
@[simp] theorem Hw.send_heldSn (h : Hw) (m : Msg) : (h.send m).heldSn = h.heldSn := by obtain ⟨_, _, _, _, e⟩ := h.send_only m; rw [e]
@[simp] theorem Hw.send_agWb (h : Hw) (m : Msg) : (h.send m).agWb = h.agWb := by obtain ⟨_, _, _, _, e⟩ := h.send_only m; rw [e]
@[simp] theorem Hw.send_rc (h : Hw) (m : Msg) : (h.send m).rc = h.rc := by obtain ⟨_, _, _, _, e⟩ := h.send_only m; rw [e]
@[simp] theorem Hw.send_rcPlru (h : Hw) (m : Msg) : (h.send m).rcPlru = h.rcPlru := by obtain ⟨_, _, _, _, e⟩ := h.send_only m; rw [e]
@[simp] theorem Hw.send_hot (h : Hw) (m : Msg) : (h.send m).hot = h.hot := by obtain ⟨_, _, _, _, e⟩ := h.send_only m; rw [e]
@[simp] theorem Hw.send_tpoison (h : Hw) (m : Msg) : (h.send m).tpoison = h.tpoison := by obtain ⟨_, _, _, _, e⟩ := h.send_only m; rw [e]
@[simp] theorem Hw.send_rewrites (h : Hw) (m : Msg) : (h.send m).rewrites = h.rewrites := by obtain ⟨_, _, _, _, e⟩ := h.send_only m; rw [e]
@[simp] theorem Hw.send_devCount (h : Hw) (m : Msg) : (h.send m).devCount = h.devCount := by obtain ⟨_, _, _, _, e⟩ := h.send_only m; rw [e]
@[simp] theorem Hw.send_chFail (h : Hw) (m : Msg) : (h.send m).chFail = h.chFail := by obtain ⟨_, _, _, _, e⟩ := h.send_only m; rw [e]
@[simp] theorem Hw.send_cap (h : Hw) (m : Msg) : (h.send m).cap = h.cap := by obtain ⟨_, _, _, _, e⟩ := h.send_only m; rw [e]
@[simp] theorem Hw.send_hdm (h : Hw) (m : Msg) : (h.send m).hdm = h.hdm := by obtain ⟨_, _, _, _, e⟩ := h.send_only m; rw [e]
@[simp] theorem Hw.send_spared (h : Hw) (m : Msg) : (h.send m).spared = h.spared := by obtain ⟨_, _, _, _, e⟩ := h.send_only m; rw [e]
@[simp] theorem Hw.send_farHeld (h : Hw) (m : Msg) : (h.send m).farHeld = h.farHeld := by obtain ⟨_, _, _, _, e⟩ := h.send_only m; rw [e]
@[simp] theorem Hw.send_dimms (h : Hw) (m : Msg) : (h.send m).dimms = h.dimms := by obtain ⟨_, _, _, _, e⟩ := h.send_only m; rw [e]
@[simp] theorem Hw.send_isetWho (h : Hw) (m : Msg) : (h.send m).isetWho = h.isetWho := by obtain ⟨_, _, _, _, e⟩ := h.send_only m; rw [e]
@[simp] theorem Hw.send_jobs (h : Hw) (m : Msg) : (h.send m).jobs = h.jobs := by obtain ⟨_, _, _, _, e⟩ := h.send_only m; rw [e]
@[simp] theorem Hw.send_jobOrder (h : Hw) (m : Msg) : (h.send m).jobOrder = h.jobOrder := by obtain ⟨_, _, _, _, e⟩ := h.send_only m; rw [e]
@[simp] theorem Hw.send_queueTurn (h : Hw) (m : Msg) : (h.send m).queueTurn = h.queueTurn := by obtain ⟨_, _, _, _, e⟩ := h.send_only m; rw [e]
@[simp] theorem Hw.send_engq (h : Hw) (m : Msg) : (h.send m).engq = h.engq := by obtain ⟨_, _, _, _, e⟩ := h.send_only m; rw [e]
@[simp] theorem Hw.send_held (h : Hw) (m : Msg) : (h.send m).held = h.held := by obtain ⟨_, _, _, _, e⟩ := h.send_only m; rw [e]
@[simp] theorem Hw.send_run (h : Hw) (m : Msg) : (h.send m).run = h.run := by obtain ⟨_, _, _, _, e⟩ := h.send_only m; rw [e]
@[simp] theorem Hw.send_sp (h : Hw) (m : Msg) : (h.send m).sp = h.sp := by obtain ⟨_, _, _, _, e⟩ := h.send_only m; rw [e]
@[simp] theorem Hw.send_engLast (h : Hw) (m : Msg) : (h.send m).engLast = h.engLast := by obtain ⟨_, _, _, _, e⟩ := h.send_only m; rw [e]
@[simp] theorem Hw.send_treqs (h : Hw) (m : Msg) : (h.send m).treqs = h.treqs := by obtain ⟨_, _, _, _, e⟩ := h.send_only m; rw [e]
@[simp] theorem Hw.send_sleepers (h : Hw) (m : Msg) : (h.send m).sleepers = h.sleepers := by obtain ⟨_, _, _, _, e⟩ := h.send_only m; rw [e]
@[simp] theorem Hw.send_closing (h : Hw) (m : Msg) : (h.send m).closing = h.closing := by obtain ⟨_, _, _, _, e⟩ := h.send_only m; rw [e]
@[simp] theorem Hw.send_epochLast (h : Hw) (m : Msg) : (h.send m).epochLast = h.epochLast := by obtain ⟨_, _, _, _, e⟩ := h.send_only m; rw [e]
@[simp] theorem Hw.send_epochPend (h : Hw) (m : Msg) : (h.send m).epochPend = h.epochPend := by obtain ⟨_, _, _, _, e⟩ := h.send_only m; rw [e]
@[simp] theorem Hw.send_epochAt (h : Hw) (m : Msg) : (h.send m).epochAt = h.epochAt := by obtain ⟨_, _, _, _, e⟩ := h.send_only m; rw [e]
@[simp] theorem Hw.send_torusTx (h : Hw) (m : Msg) : (h.send m).torusTx = h.torusTx := by obtain ⟨_, _, _, _, e⟩ := h.send_only m; rw [e]
@[simp] theorem Hw.send_torusSeq (h : Hw) (m : Msg) : (h.send m).torusSeq = h.torusSeq := by obtain ⟨_, _, _, _, e⟩ := h.send_only m; rw [e]
@[simp] theorem Hw.send_torusRx (h : Hw) (m : Msg) : (h.send m).torusRx = h.torusRx := by obtain ⟨_, _, _, _, e⟩ := h.send_only m; rw [e]
@[simp] theorem Hw.send_torusHeld (h : Hw) (m : Msg) : (h.send m).torusHeld = h.torusHeld := by obtain ⟨_, _, _, _, e⟩ := h.send_only m; rw [e]
@[simp] theorem Hw.send_coords (h : Hw) (m : Msg) : (h.send m).coords = h.coords := by obtain ⟨_, _, _, _, e⟩ := h.send_only m; rw [e]
@[simp] theorem Hw.send_coordBad (h : Hw) (m : Msg) : (h.send m).coordBad = h.coordBad := by obtain ⟨_, _, _, _, e⟩ := h.send_only m; rw [e]
@[simp] theorem Hw.send_lath (h : Hw) (m : Msg) : (h.send m).lath = h.lath := by obtain ⟨_, _, _, _, e⟩ := h.send_only m; rw [e]
@[simp] theorem Hw.send_training (h : Hw) (m : Msg) : (h.send m).training = h.training := by obtain ⟨_, _, _, _, e⟩ := h.send_only m; rw [e]
@[simp] theorem Hw.send_trainFails (h : Hw) (m : Msg) : (h.send m).trainFails = h.trainFails := by obtain ⟨_, _, _, _, e⟩ := h.send_only m; rw [e]
@[simp] theorem Hw.send_repairs (h : Hw) (m : Msg) : (h.send m).repairs = h.repairs := by obtain ⟨_, _, _, _, e⟩ := h.send_only m; rw [e]
@[simp] theorem Hw.send_edgeHeld (h : Hw) (m : Msg) : (h.send m).edgeHeld = h.edgeHeld := by obtain ⟨_, _, _, _, e⟩ := h.send_only m; rw [e]
@[simp] theorem Hw.send_sleepReq (h : Hw) (m : Msg) : (h.send m).sleepReq = h.sleepReq := by obtain ⟨_, _, _, _, e⟩ := h.send_only m; rw [e]
@[simp] theorem Hw.send_fwSwitch (h : Hw) (m : Msg) : (h.send m).fwSwitch = h.fwSwitch := by obtain ⟨_, _, _, _, e⟩ := h.send_only m; rw [e]
@[simp] theorem Hw.send_lcmds (h : Hw) (m : Msg) : (h.send m).lcmds = h.lcmds := by obtain ⟨_, _, _, _, e⟩ := h.send_only m; rw [e]
@[simp] theorem Hw.send_uncAt (h : Hw) (m : Msg) : (h.send m).uncAt = h.uncAt := by obtain ⟨_, _, _, _, e⟩ := h.send_only m; rw [e]
@[simp] theorem Hw.send_committed (h : Hw) (m : Msg) : (h.send m).committed = h.committed := by obtain ⟨_, _, _, _, e⟩ := h.send_only m; rw [e]
@[simp] theorem Hw.send_applying (h : Hw) (m : Msg) : (h.send m).applying = h.applying := by obtain ⟨_, _, _, _, e⟩ := h.send_only m; rw [e]
@[simp] theorem Hw.send_authority (h : Hw) (m : Msg) : (h.send m).authority = h.authority := by obtain ⟨_, _, _, _, e⟩ := h.send_only m; rw [e]
@[simp] theorem Hw.send_gibMoves (h : Hw) (m : Msg) : (h.send m).gibMoves = h.gibMoves := by obtain ⟨_, _, _, _, e⟩ := h.send_only m; rw [e]
@[simp] theorem Hw.send_commit (h : Hw) (m : Msg) : (h.send m).commit = h.commit := by obtain ⟨_, _, _, _, e⟩ := h.send_only m; rw [e]
@[simp] theorem Hw.send_partUp (h : Hw) (m : Msg) : (h.send m).partUp = h.partUp := by obtain ⟨_, _, _, _, e⟩ := h.send_only m; rw [e]
@[simp] theorem Hw.send_partStopped (h : Hw) (m : Msg) : (h.send m).partStopped = h.partStopped := by obtain ⟨_, _, _, _, e⟩ := h.send_only m; rw [e]
@[simp] theorem Hw.send_resetWait (h : Hw) (m : Msg) : (h.send m).resetWait = h.resetWait := by obtain ⟨_, _, _, _, e⟩ := h.send_only m; rw [e]
@[simp] theorem Hw.send_domGoal (h : Hw) (m : Msg) : (h.send m).domGoal = h.domGoal := by obtain ⟨_, _, _, _, e⟩ := h.send_only m; rw [e]
@[simp] theorem Hw.send_reqPend (h : Hw) (m : Msg) : (h.send m).reqPend = h.reqPend := by obtain ⟨_, _, _, _, e⟩ := h.send_only m; rw [e]
@[simp] theorem Hw.send_domWho (h : Hw) (m : Msg) : (h.send m).domWho = h.domWho := by obtain ⟨_, _, _, _, e⟩ := h.send_only m; rw [e]
@[simp] theorem Hw.send_wakeDue (h : Hw) (m : Msg) : (h.send m).wakeDue = h.wakeDue := by obtain ⟨_, _, _, _, e⟩ := h.send_only m; rw [e]
@[simp] theorem Hw.send_assist (h : Hw) (m : Msg) : (h.send m).assist = h.assist := by obtain ⟨_, _, _, _, e⟩ := h.send_only m; rw [e]
@[simp] theorem Hw.send_deepIdle (h : Hw) (m : Msg) : (h.send m).deepIdle = h.deepIdle := by obtain ⟨_, _, _, _, e⟩ := h.send_only m; rw [e]
@[simp] theorem Hw.send_deepOk (h : Hw) (m : Msg) : (h.send m).deepOk = h.deepOk := by obtain ⟨_, _, _, _, e⟩ := h.send_only m; rw [e]
@[simp] theorem Hw.send_wakeOnExit (h : Hw) (m : Msg) : (h.send m).wakeOnExit = h.wakeOnExit := by obtain ⟨_, _, _, _, e⟩ := h.send_only m; rw [e]
@[simp] theorem Hw.send_curOver (h : Hw) (m : Msg) : (h.send m).curOver = h.curOver := by obtain ⟨_, _, _, _, e⟩ := h.send_only m; rw [e]
@[simp] theorem Hw.send_curUnder (h : Hw) (m : Msg) : (h.send m).curUnder = h.curUnder := by obtain ⟨_, _, _, _, e⟩ := h.send_only m; rw [e]
@[simp] theorem Hw.send_groupOff (h : Hw) (m : Msg) : (h.send m).groupOff = h.groupOff := by obtain ⟨_, _, _, _, e⟩ := h.send_only m; rw [e]
@[simp] theorem Hw.send_vinBad (h : Hw) (m : Msg) : (h.send m).vinBad = h.vinBad := by obtain ⟨_, _, _, _, e⟩ := h.send_only m; rw [e]
@[simp] theorem Hw.send_v33Left (h : Hw) (m : Msg) : (h.send m).v33Left = h.v33Left := by obtain ⟨_, _, _, _, e⟩ := h.send_only m; rw [e]
@[simp] theorem Hw.send_budgets (h : Hw) (m : Msg) : (h.send m).budgets = h.budgets := by obtain ⟨_, _, _, _, e⟩ := h.send_only m; rw [e]
@[simp] theorem Hw.send_supplyW (h : Hw) (m : Msg) : (h.send m).supplyW = h.supplyW := by obtain ⟨_, _, _, _, e⟩ := h.send_only m; rw [e]
@[simp] theorem Hw.send_coolW (h : Hw) (m : Msg) : (h.send m).coolW = h.coolW := by obtain ⟨_, _, _, _, e⟩ := h.send_only m; rw [e]
@[simp] theorem Hw.send_ceilPwr (h : Hw) (m : Msg) : (h.send m).ceilPwr = h.ceilPwr := by obtain ⟨_, _, _, _, e⟩ := h.send_only m; rw [e]
@[simp] theorem Hw.send_ceilTherm (h : Hw) (m : Msg) : (h.send m).ceilTherm = h.ceilTherm := by obtain ⟨_, _, _, _, e⟩ := h.send_only m; rw [e]
@[simp] theorem Hw.send_thermTicks (h : Hw) (m : Msg) : (h.send m).thermTicks = h.thermTicks := by obtain ⟨_, _, _, _, e⟩ := h.send_only m; rw [e]
@[simp] theorem Hw.send_tripped (h : Hw) (m : Msg) : (h.send m).tripped = h.tripped := by obtain ⟨_, _, _, _, e⟩ := h.send_only m; rw [e]
@[simp] theorem Hw.send_thermtripPin (h : Hw) (m : Msg) : (h.send m).thermtripPin = h.thermtripPin := by obtain ⟨_, _, _, _, e⟩ := h.send_only m; rw [e]
@[simp] theorem Hw.send_tripInfo (h : Hw) (m : Msg) : (h.send m).tripInfo = h.tripInfo := by obtain ⟨_, _, _, _, e⟩ := h.send_only m; rw [e]
@[simp] theorem Hw.send_keys (h : Hw) (m : Msg) : (h.send m).keys = h.keys := by obtain ⟨_, _, _, _, e⟩ := h.send_only m; rw [e]
@[simp] theorem Hw.send_boot (h : Hw) (m : Msg) : (h.send m).boot = h.boot := by obtain ⟨_, _, _, _, e⟩ := h.send_only m; rw [e]
@[simp] theorem Hw.send_meter (h : Hw) (m : Msg) : (h.send m).meter = h.meter := by obtain ⟨_, _, _, _, e⟩ := h.send_only m; rw [e]
@[simp] theorem Hw.send_mtrx (h : Hw) (m : Msg) : (h.send m).mtrx = h.mtrx := by obtain ⟨_, _, _, _, e⟩ := h.send_only m; rw [e]
@[simp] theorem Hw.send_evPend (h : Hw) (m : Msg) : (h.send m).evPend = h.evPend := by obtain ⟨_, _, _, _, e⟩ := h.send_only m; rw [e]
@[simp] theorem Hw.send_evSlots (h : Hw) (m : Msg) : (h.send m).evSlots = h.evSlots := by obtain ⟨_, _, _, _, e⟩ := h.send_only m; rw [e]
@[simp] theorem Hw.send_evFly (h : Hw) (m : Msg) : (h.send m).evFly = h.evFly := by obtain ⟨_, _, _, _, e⟩ := h.send_only m; rw [e]
@[simp] theorem Hw.send_evCache (h : Hw) (m : Msg) : (h.send m).evCache = h.evCache := by obtain ⟨_, _, _, _, e⟩ := h.send_only m; rw [e]
@[simp] theorem Hw.send_svcEvents (h : Hw) (m : Msg) : (h.send m).svcEvents = h.svcEvents := by obtain ⟨_, _, _, _, e⟩ := h.send_only m; rw [e]
@[simp] theorem Hw.send_corrected (h : Hw) (m : Msg) : (h.send m).corrected = h.corrected := by obtain ⟨_, _, _, _, e⟩ := h.send_only m; rw [e]
@[simp] theorem Hw.send_losses (h : Hw) (m : Msg) : (h.send m).losses = h.losses := by obtain ⟨_, _, _, _, e⟩ := h.send_only m; rw [e]
@[simp] theorem Hw.send_updq (h : Hw) (m : Msg) : (h.send m).updq = h.updq := by obtain ⟨_, _, _, _, e⟩ := h.send_only m; rw [e]
@[simp] theorem Hw.send_updates (h : Hw) (m : Msg) : (h.send m).updates = h.updates := by obtain ⟨_, _, _, _, e⟩ := h.send_only m; rw [e]
@[simp] theorem Hw.send_plat (h : Hw) (m : Msg) : (h.send m).plat = h.plat := by obtain ⟨_, _, _, _, e⟩ := h.send_only m; rw [e]

/-! Threads. -/

@[simp] theorem Thread.writeV_run (x : Thread) (n : Nat) (w : V512) : (x.writeV n w).run = x.run := rfl
@[simp] theorem Thread.writeV_pc (x : Thread) (n : Nat) (w : V512) : (x.writeV n w).pc = x.pc := rfl
@[simp] theorem Thread.writeV_level (x : Thread) (n : Nat) (w : V512) : (x.writeV n w).level = x.level := rfl
@[simp] theorem Thread.writeV_world (x : Thread) (n : Nat) (w : V512) : (x.writeV n w).world = x.world := rfl
@[simp] theorem Thread.writeV_ie (x : Thread) (n : Nat) (w : V512) : (x.writeV n w).ie = x.ie := rfl
@[simp] theorem Thread.writeV_ven (x : Thread) (n : Nat) (w : V512) : (x.writeV n w).ven = x.ven := rfl
@[simp] theorem Thread.writeV_shbank (x : Thread) (n : Nat) (w : V512) : (x.writeV n w).shbank = x.shbank := rfl
@[simp] theorem Thread.writeV_depth (x : Thread) (n : Nat) (w : V512) : (x.writeV n w).depth = x.depth := rfl
@[simp] theorem Thread.writeV_resident (x : Thread) (n : Nat) (w : V512) : (x.writeV n w).resident = x.resident := rfl
@[simp] theorem Thread.writeV_g (x : Thread) (n : Nat) (w : V512) : (x.writeV n w).g = x.g := rfl
@[simp] theorem Thread.writeV_p (x : Thread) (n : Nat) (w : V512) : (x.writeV n w).p = x.p := rfl
@[simp] theorem Thread.writeV_banks (x : Thread) (n : Nat) (w : V512) : (x.writeV n w).banks = x.banks := rfl
@[simp] theorem Thread.writeV_fpcsr (x : Thread) (n : Nat) (w : V512) : (x.writeV n w).fpcsr = x.fpcsr := rfl
@[simp] theorem Thread.writeV_progress (x : Thread) (n : Nat) (w : V512) : (x.writeV n w).progress = x.progress := rfl
@[simp] theorem Thread.writeV_cr (x : Thread) (n : Nat) (w : V512) : (x.writeV n w).cr = x.cr := rfl
@[simp] theorem Thread.writeV_mcs (x : Thread) (n : Nat) (w : V512) : (x.writeV n w).mcs = x.mcs := rfl
@[simp] theorem Thread.writeV_slots (x : Thread) (n : Nat) (w : V512) : (x.writeV n w).slots = x.slots := rfl
@[simp] theorem Thread.writeV_locals (x : Thread) (n : Nat) (w : V512) : (x.writeV n w).locals = x.locals := rfl
@[simp] theorem Thread.writeV_resv (x : Thread) (n : Nat) (w : V512) : (x.writeV n w).resv = x.resv := rfl
@[simp] theorem Thread.writeV_hold (x : Thread) (n : Nat) (w : V512) : (x.writeV n w).hold = x.hold := rfl
@[simp] theorem Thread.writeV_noHoldUntil (x : Thread) (n : Nat) (w : V512) : (x.writeV n w).noHoldUntil = x.noHoldUntil := rfl
@[simp] theorem Thread.writeV_sq (x : Thread) (n : Nat) (w : V512) : (x.writeV n w).sq = x.sq := rfl
@[simp] theorem Thread.writeV_sqe (x : Thread) (n : Nat) (w : V512) : (x.writeV n w).sqe = x.sqe := rfl
@[simp] theorem Thread.writeV_walkBuf (x : Thread) (n : Nat) (w : V512) : (x.writeV n w).walkBuf = x.walkBuf := rfl
@[simp] theorem Thread.writeV_walkPtrs (x : Thread) (n : Nat) (w : V512) : (x.writeV n w).walkPtrs = x.walkPtrs := rfl
@[simp] theorem Thread.writeV_dev (x : Thread) (n : Nat) (w : V512) : (x.writeV n w).dev = x.dev := rfl
@[simp] theorem Thread.writeV_act (x : Thread) (n : Nat) (w : V512) : (x.writeV n w).act = x.act := rfl
@[simp] theorem Thread.writeV_atVector (x : Thread) (n : Nat) (w : V512) : (x.writeV n w).atVector = x.atVector := rfl
@[simp] theorem Thread.writeV_ghist (x : Thread) (n : Nat) (w : V512) : (x.writeV n w).ghist = x.ghist := rfl
@[simp] theorem Thread.writeV_retStack (x : Thread) (n : Nat) (w : V512) : (x.writeV n w).retStack = x.retStack := rfl
@[simp] theorem Thread.writeV_lseq (x : Thread) (n : Nat) (w : V512) : (x.writeV n w).lseq = x.lseq := rfl
@[simp] theorem Thread.writeV_missed (x : Thread) (n : Nat) (w : V512) : (x.writeV n w).missed = x.missed := rfl
@[simp] theorem Thread.writeV_evq (x : Thread) (n : Nat) (w : V512) : (x.writeV n w).evq = x.evq := rfl
@[simp] theorem Thread.writeV_trainq (x : Thread) (n : Nat) (w : V512) : (x.writeV n w).trainq = x.trainq := rfl
@[simp] theorem Thread.writeV_deferred (x : Thread) (n : Nat) (w : V512) : (x.writeV n w).deferred = x.deferred := rfl
@[simp] theorem Thread.writeV_ncReads (x : Thread) (n : Nat) (w : V512) : (x.writeV n w).ncReads = x.ncReads := rfl
@[simp] theorem Thread.writeV_ferrs (x : Thread) (n : Nat) (w : V512) : (x.writeV n w).ferrs = x.ferrs := rfl
@[simp] theorem Thread.writeV_fencing (x : Thread) (n : Nat) (w : V512) : (x.writeV n w).fencing = x.fencing := rfl
@[simp] theorem Thread.writeV_tlbis (x : Thread) (n : Nat) (w : V512) : (x.writeV n w).tlbis = x.tlbis := rfl

@[simp] theorem Thread.setCrv_run (x : Thread) (n : Nat) (w : W64) : (x.setCrv n w).run = x.run := rfl
@[simp] theorem Thread.setCrv_pc (x : Thread) (n : Nat) (w : W64) : (x.setCrv n w).pc = x.pc := rfl
@[simp] theorem Thread.setCrv_level (x : Thread) (n : Nat) (w : W64) : (x.setCrv n w).level = x.level := rfl
@[simp] theorem Thread.setCrv_world (x : Thread) (n : Nat) (w : W64) : (x.setCrv n w).world = x.world := rfl
@[simp] theorem Thread.setCrv_ie (x : Thread) (n : Nat) (w : W64) : (x.setCrv n w).ie = x.ie := rfl
@[simp] theorem Thread.setCrv_ven (x : Thread) (n : Nat) (w : W64) : (x.setCrv n w).ven = x.ven := rfl
@[simp] theorem Thread.setCrv_shbank (x : Thread) (n : Nat) (w : W64) : (x.setCrv n w).shbank = x.shbank := rfl
@[simp] theorem Thread.setCrv_depth (x : Thread) (n : Nat) (w : W64) : (x.setCrv n w).depth = x.depth := rfl
@[simp] theorem Thread.setCrv_resident (x : Thread) (n : Nat) (w : W64) : (x.setCrv n w).resident = x.resident := rfl
@[simp] theorem Thread.setCrv_g (x : Thread) (n : Nat) (w : W64) : (x.setCrv n w).g = x.g := rfl
@[simp] theorem Thread.setCrv_v (x : Thread) (n : Nat) (w : W64) : (x.setCrv n w).v = x.v := rfl
@[simp] theorem Thread.setCrv_p (x : Thread) (n : Nat) (w : W64) : (x.setCrv n w).p = x.p := rfl
@[simp] theorem Thread.setCrv_banks (x : Thread) (n : Nat) (w : W64) : (x.setCrv n w).banks = x.banks := rfl
@[simp] theorem Thread.setCrv_fpcsr (x : Thread) (n : Nat) (w : W64) : (x.setCrv n w).fpcsr = x.fpcsr := rfl
@[simp] theorem Thread.setCrv_progress (x : Thread) (n : Nat) (w : W64) : (x.setCrv n w).progress = x.progress := rfl
@[simp] theorem Thread.setCrv_mcs (x : Thread) (n : Nat) (w : W64) : (x.setCrv n w).mcs = x.mcs := rfl
@[simp] theorem Thread.setCrv_slots (x : Thread) (n : Nat) (w : W64) : (x.setCrv n w).slots = x.slots := rfl
@[simp] theorem Thread.setCrv_locals (x : Thread) (n : Nat) (w : W64) : (x.setCrv n w).locals = x.locals := rfl
@[simp] theorem Thread.setCrv_resv (x : Thread) (n : Nat) (w : W64) : (x.setCrv n w).resv = x.resv := rfl
@[simp] theorem Thread.setCrv_hold (x : Thread) (n : Nat) (w : W64) : (x.setCrv n w).hold = x.hold := rfl
@[simp] theorem Thread.setCrv_noHoldUntil (x : Thread) (n : Nat) (w : W64) : (x.setCrv n w).noHoldUntil = x.noHoldUntil := rfl
@[simp] theorem Thread.setCrv_sq (x : Thread) (n : Nat) (w : W64) : (x.setCrv n w).sq = x.sq := rfl
@[simp] theorem Thread.setCrv_sqe (x : Thread) (n : Nat) (w : W64) : (x.setCrv n w).sqe = x.sqe := rfl
@[simp] theorem Thread.setCrv_walkBuf (x : Thread) (n : Nat) (w : W64) : (x.setCrv n w).walkBuf = x.walkBuf := rfl
@[simp] theorem Thread.setCrv_walkPtrs (x : Thread) (n : Nat) (w : W64) : (x.setCrv n w).walkPtrs = x.walkPtrs := rfl
@[simp] theorem Thread.setCrv_dev (x : Thread) (n : Nat) (w : W64) : (x.setCrv n w).dev = x.dev := rfl
@[simp] theorem Thread.setCrv_act (x : Thread) (n : Nat) (w : W64) : (x.setCrv n w).act = x.act := rfl
@[simp] theorem Thread.setCrv_atVector (x : Thread) (n : Nat) (w : W64) : (x.setCrv n w).atVector = x.atVector := rfl
@[simp] theorem Thread.setCrv_ghist (x : Thread) (n : Nat) (w : W64) : (x.setCrv n w).ghist = x.ghist := rfl
@[simp] theorem Thread.setCrv_retStack (x : Thread) (n : Nat) (w : W64) : (x.setCrv n w).retStack = x.retStack := rfl
@[simp] theorem Thread.setCrv_lseq (x : Thread) (n : Nat) (w : W64) : (x.setCrv n w).lseq = x.lseq := rfl
@[simp] theorem Thread.setCrv_missed (x : Thread) (n : Nat) (w : W64) : (x.setCrv n w).missed = x.missed := rfl
@[simp] theorem Thread.setCrv_evq (x : Thread) (n : Nat) (w : W64) : (x.setCrv n w).evq = x.evq := rfl
@[simp] theorem Thread.setCrv_trainq (x : Thread) (n : Nat) (w : W64) : (x.setCrv n w).trainq = x.trainq := rfl
@[simp] theorem Thread.setCrv_deferred (x : Thread) (n : Nat) (w : W64) : (x.setCrv n w).deferred = x.deferred := rfl
@[simp] theorem Thread.setCrv_ncReads (x : Thread) (n : Nat) (w : W64) : (x.setCrv n w).ncReads = x.ncReads := rfl
@[simp] theorem Thread.setCrv_ferrs (x : Thread) (n : Nat) (w : W64) : (x.setCrv n w).ferrs = x.ferrs := rfl
@[simp] theorem Thread.setCrv_fencing (x : Thread) (n : Nat) (w : W64) : (x.setCrv n w).fencing = x.fencing := rfl
@[simp] theorem Thread.setCrv_tlbis (x : Thread) (n : Nat) (w : W64) : (x.setCrv n w).tlbis = x.tlbis := rfl

@[simp] theorem Thread.setBank_run (x : Thread) (i : Nat) (b : Bank) : (x.setBank i b).run = x.run := rfl
@[simp] theorem Thread.setBank_pc (x : Thread) (i : Nat) (b : Bank) : (x.setBank i b).pc = x.pc := rfl
@[simp] theorem Thread.setBank_level (x : Thread) (i : Nat) (b : Bank) : (x.setBank i b).level = x.level := rfl
@[simp] theorem Thread.setBank_world (x : Thread) (i : Nat) (b : Bank) : (x.setBank i b).world = x.world := rfl
@[simp] theorem Thread.setBank_ie (x : Thread) (i : Nat) (b : Bank) : (x.setBank i b).ie = x.ie := rfl
@[simp] theorem Thread.setBank_ven (x : Thread) (i : Nat) (b : Bank) : (x.setBank i b).ven = x.ven := rfl
@[simp] theorem Thread.setBank_shbank (x : Thread) (i : Nat) (b : Bank) : (x.setBank i b).shbank = x.shbank := rfl
@[simp] theorem Thread.setBank_depth (x : Thread) (i : Nat) (b : Bank) : (x.setBank i b).depth = x.depth := rfl
@[simp] theorem Thread.setBank_resident (x : Thread) (i : Nat) (b : Bank) : (x.setBank i b).resident = x.resident := rfl
@[simp] theorem Thread.setBank_g (x : Thread) (i : Nat) (b : Bank) : (x.setBank i b).g = x.g := rfl
@[simp] theorem Thread.setBank_v (x : Thread) (i : Nat) (b : Bank) : (x.setBank i b).v = x.v := rfl
@[simp] theorem Thread.setBank_p (x : Thread) (i : Nat) (b : Bank) : (x.setBank i b).p = x.p := rfl
@[simp] theorem Thread.setBank_fpcsr (x : Thread) (i : Nat) (b : Bank) : (x.setBank i b).fpcsr = x.fpcsr := rfl
@[simp] theorem Thread.setBank_progress (x : Thread) (i : Nat) (b : Bank) : (x.setBank i b).progress = x.progress := rfl
@[simp] theorem Thread.setBank_cr (x : Thread) (i : Nat) (b : Bank) : (x.setBank i b).cr = x.cr := rfl
@[simp] theorem Thread.setBank_mcs (x : Thread) (i : Nat) (b : Bank) : (x.setBank i b).mcs = x.mcs := rfl
@[simp] theorem Thread.setBank_slots (x : Thread) (i : Nat) (b : Bank) : (x.setBank i b).slots = x.slots := rfl
@[simp] theorem Thread.setBank_locals (x : Thread) (i : Nat) (b : Bank) : (x.setBank i b).locals = x.locals := rfl
@[simp] theorem Thread.setBank_resv (x : Thread) (i : Nat) (b : Bank) : (x.setBank i b).resv = x.resv := rfl
@[simp] theorem Thread.setBank_hold (x : Thread) (i : Nat) (b : Bank) : (x.setBank i b).hold = x.hold := rfl
@[simp] theorem Thread.setBank_noHoldUntil (x : Thread) (i : Nat) (b : Bank) : (x.setBank i b).noHoldUntil = x.noHoldUntil := rfl
@[simp] theorem Thread.setBank_sq (x : Thread) (i : Nat) (b : Bank) : (x.setBank i b).sq = x.sq := rfl
@[simp] theorem Thread.setBank_sqe (x : Thread) (i : Nat) (b : Bank) : (x.setBank i b).sqe = x.sqe := rfl
@[simp] theorem Thread.setBank_walkBuf (x : Thread) (i : Nat) (b : Bank) : (x.setBank i b).walkBuf = x.walkBuf := rfl
@[simp] theorem Thread.setBank_walkPtrs (x : Thread) (i : Nat) (b : Bank) : (x.setBank i b).walkPtrs = x.walkPtrs := rfl
@[simp] theorem Thread.setBank_dev (x : Thread) (i : Nat) (b : Bank) : (x.setBank i b).dev = x.dev := rfl
@[simp] theorem Thread.setBank_act (x : Thread) (i : Nat) (b : Bank) : (x.setBank i b).act = x.act := rfl
@[simp] theorem Thread.setBank_atVector (x : Thread) (i : Nat) (b : Bank) : (x.setBank i b).atVector = x.atVector := rfl
@[simp] theorem Thread.setBank_ghist (x : Thread) (i : Nat) (b : Bank) : (x.setBank i b).ghist = x.ghist := rfl
@[simp] theorem Thread.setBank_retStack (x : Thread) (i : Nat) (b : Bank) : (x.setBank i b).retStack = x.retStack := rfl
@[simp] theorem Thread.setBank_lseq (x : Thread) (i : Nat) (b : Bank) : (x.setBank i b).lseq = x.lseq := rfl
@[simp] theorem Thread.setBank_missed (x : Thread) (i : Nat) (b : Bank) : (x.setBank i b).missed = x.missed := rfl
@[simp] theorem Thread.setBank_evq (x : Thread) (i : Nat) (b : Bank) : (x.setBank i b).evq = x.evq := rfl
@[simp] theorem Thread.setBank_trainq (x : Thread) (i : Nat) (b : Bank) : (x.setBank i b).trainq = x.trainq := rfl
@[simp] theorem Thread.setBank_deferred (x : Thread) (i : Nat) (b : Bank) : (x.setBank i b).deferred = x.deferred := rfl
@[simp] theorem Thread.setBank_ncReads (x : Thread) (i : Nat) (b : Bank) : (x.setBank i b).ncReads = x.ncReads := rfl
@[simp] theorem Thread.setBank_ferrs (x : Thread) (i : Nat) (b : Bank) : (x.setBank i b).ferrs = x.ferrs := rfl
@[simp] theorem Thread.setBank_fencing (x : Thread) (i : Nat) (b : Bank) : (x.setBank i b).fencing = x.fencing := rfl
@[simp] theorem Thread.setBank_tlbis (x : Thread) (i : Nat) (b : Bank) : (x.setBank i b).tlbis = x.tlbis := rfl

@[simp] theorem Thread.writeG_run (x : Thread) (n : Nat) (w : W64) : (x.writeG n w).run = x.run := by unfold Thread.writeG; split <;> [rfl; (split <;> rfl)]
@[simp] theorem Thread.writeG_pc (x : Thread) (n : Nat) (w : W64) : (x.writeG n w).pc = x.pc := by unfold Thread.writeG; split <;> [rfl; (split <;> rfl)]
@[simp] theorem Thread.writeG_level (x : Thread) (n : Nat) (w : W64) : (x.writeG n w).level = x.level := by unfold Thread.writeG; split <;> [rfl; (split <;> rfl)]
@[simp] theorem Thread.writeG_world (x : Thread) (n : Nat) (w : W64) : (x.writeG n w).world = x.world := by unfold Thread.writeG; split <;> [rfl; (split <;> rfl)]
@[simp] theorem Thread.writeG_ie (x : Thread) (n : Nat) (w : W64) : (x.writeG n w).ie = x.ie := by unfold Thread.writeG; split <;> [rfl; (split <;> rfl)]
@[simp] theorem Thread.writeG_ven (x : Thread) (n : Nat) (w : W64) : (x.writeG n w).ven = x.ven := by unfold Thread.writeG; split <;> [rfl; (split <;> rfl)]
@[simp] theorem Thread.writeG_shbank (x : Thread) (n : Nat) (w : W64) : (x.writeG n w).shbank = x.shbank := by unfold Thread.writeG; split <;> [rfl; (split <;> rfl)]
@[simp] theorem Thread.writeG_depth (x : Thread) (n : Nat) (w : W64) : (x.writeG n w).depth = x.depth := by unfold Thread.writeG; split <;> [rfl; (split <;> rfl)]
@[simp] theorem Thread.writeG_resident (x : Thread) (n : Nat) (w : W64) : (x.writeG n w).resident = x.resident := by unfold Thread.writeG; split <;> [rfl; (split <;> rfl)]
@[simp] theorem Thread.writeG_v (x : Thread) (n : Nat) (w : W64) : (x.writeG n w).v = x.v := by unfold Thread.writeG; split <;> [rfl; (split <;> rfl)]
@[simp] theorem Thread.writeG_p (x : Thread) (n : Nat) (w : W64) : (x.writeG n w).p = x.p := by unfold Thread.writeG; split <;> [rfl; (split <;> rfl)]
@[simp] theorem Thread.writeG_fpcsr (x : Thread) (n : Nat) (w : W64) : (x.writeG n w).fpcsr = x.fpcsr := by unfold Thread.writeG; split <;> [rfl; (split <;> rfl)]
@[simp] theorem Thread.writeG_progress (x : Thread) (n : Nat) (w : W64) : (x.writeG n w).progress = x.progress := by unfold Thread.writeG; split <;> [rfl; (split <;> rfl)]
@[simp] theorem Thread.writeG_cr (x : Thread) (n : Nat) (w : W64) : (x.writeG n w).cr = x.cr := by unfold Thread.writeG; split <;> [rfl; (split <;> rfl)]
@[simp] theorem Thread.writeG_mcs (x : Thread) (n : Nat) (w : W64) : (x.writeG n w).mcs = x.mcs := by unfold Thread.writeG; split <;> [rfl; (split <;> rfl)]
@[simp] theorem Thread.writeG_slots (x : Thread) (n : Nat) (w : W64) : (x.writeG n w).slots = x.slots := by unfold Thread.writeG; split <;> [rfl; (split <;> rfl)]
@[simp] theorem Thread.writeG_locals (x : Thread) (n : Nat) (w : W64) : (x.writeG n w).locals = x.locals := by unfold Thread.writeG; split <;> [rfl; (split <;> rfl)]
@[simp] theorem Thread.writeG_resv (x : Thread) (n : Nat) (w : W64) : (x.writeG n w).resv = x.resv := by unfold Thread.writeG; split <;> [rfl; (split <;> rfl)]
@[simp] theorem Thread.writeG_hold (x : Thread) (n : Nat) (w : W64) : (x.writeG n w).hold = x.hold := by unfold Thread.writeG; split <;> [rfl; (split <;> rfl)]
@[simp] theorem Thread.writeG_noHoldUntil (x : Thread) (n : Nat) (w : W64) : (x.writeG n w).noHoldUntil = x.noHoldUntil := by unfold Thread.writeG; split <;> [rfl; (split <;> rfl)]
@[simp] theorem Thread.writeG_sq (x : Thread) (n : Nat) (w : W64) : (x.writeG n w).sq = x.sq := by unfold Thread.writeG; split <;> [rfl; (split <;> rfl)]
@[simp] theorem Thread.writeG_sqe (x : Thread) (n : Nat) (w : W64) : (x.writeG n w).sqe = x.sqe := by unfold Thread.writeG; split <;> [rfl; (split <;> rfl)]
@[simp] theorem Thread.writeG_walkBuf (x : Thread) (n : Nat) (w : W64) : (x.writeG n w).walkBuf = x.walkBuf := by unfold Thread.writeG; split <;> [rfl; (split <;> rfl)]
@[simp] theorem Thread.writeG_walkPtrs (x : Thread) (n : Nat) (w : W64) : (x.writeG n w).walkPtrs = x.walkPtrs := by unfold Thread.writeG; split <;> [rfl; (split <;> rfl)]
@[simp] theorem Thread.writeG_dev (x : Thread) (n : Nat) (w : W64) : (x.writeG n w).dev = x.dev := by unfold Thread.writeG; split <;> [rfl; (split <;> rfl)]
@[simp] theorem Thread.writeG_act (x : Thread) (n : Nat) (w : W64) : (x.writeG n w).act = x.act := by unfold Thread.writeG; split <;> [rfl; (split <;> rfl)]
@[simp] theorem Thread.writeG_atVector (x : Thread) (n : Nat) (w : W64) : (x.writeG n w).atVector = x.atVector := by unfold Thread.writeG; split <;> [rfl; (split <;> rfl)]
@[simp] theorem Thread.writeG_ghist (x : Thread) (n : Nat) (w : W64) : (x.writeG n w).ghist = x.ghist := by unfold Thread.writeG; split <;> [rfl; (split <;> rfl)]
@[simp] theorem Thread.writeG_retStack (x : Thread) (n : Nat) (w : W64) : (x.writeG n w).retStack = x.retStack := by unfold Thread.writeG; split <;> [rfl; (split <;> rfl)]
@[simp] theorem Thread.writeG_lseq (x : Thread) (n : Nat) (w : W64) : (x.writeG n w).lseq = x.lseq := by unfold Thread.writeG; split <;> [rfl; (split <;> rfl)]
@[simp] theorem Thread.writeG_missed (x : Thread) (n : Nat) (w : W64) : (x.writeG n w).missed = x.missed := by unfold Thread.writeG; split <;> [rfl; (split <;> rfl)]
@[simp] theorem Thread.writeG_evq (x : Thread) (n : Nat) (w : W64) : (x.writeG n w).evq = x.evq := by unfold Thread.writeG; split <;> [rfl; (split <;> rfl)]
@[simp] theorem Thread.writeG_trainq (x : Thread) (n : Nat) (w : W64) : (x.writeG n w).trainq = x.trainq := by unfold Thread.writeG; split <;> [rfl; (split <;> rfl)]
@[simp] theorem Thread.writeG_deferred (x : Thread) (n : Nat) (w : W64) : (x.writeG n w).deferred = x.deferred := by unfold Thread.writeG; split <;> [rfl; (split <;> rfl)]
@[simp] theorem Thread.writeG_ncReads (x : Thread) (n : Nat) (w : W64) : (x.writeG n w).ncReads = x.ncReads := by unfold Thread.writeG; split <;> [rfl; (split <;> rfl)]
@[simp] theorem Thread.writeG_ferrs (x : Thread) (n : Nat) (w : W64) : (x.writeG n w).ferrs = x.ferrs := by unfold Thread.writeG; split <;> [rfl; (split <;> rfl)]
@[simp] theorem Thread.writeG_fencing (x : Thread) (n : Nat) (w : W64) : (x.writeG n w).fencing = x.fencing := by unfold Thread.writeG; split <;> [rfl; (split <;> rfl)]
@[simp] theorem Thread.writeG_tlbis (x : Thread) (n : Nat) (w : W64) : (x.writeG n w).tlbis = x.tlbis := by unfold Thread.writeG; split <;> [rfl; (split <;> rfl)]

@[simp] theorem Thread.writeP_run (x : Thread) (n : Nat) (w : W64) : (x.writeP n w).run = x.run := by unfold Thread.writeP; split <;> rfl
@[simp] theorem Thread.writeP_pc (x : Thread) (n : Nat) (w : W64) : (x.writeP n w).pc = x.pc := by unfold Thread.writeP; split <;> rfl
@[simp] theorem Thread.writeP_level (x : Thread) (n : Nat) (w : W64) : (x.writeP n w).level = x.level := by unfold Thread.writeP; split <;> rfl
@[simp] theorem Thread.writeP_world (x : Thread) (n : Nat) (w : W64) : (x.writeP n w).world = x.world := by unfold Thread.writeP; split <;> rfl
@[simp] theorem Thread.writeP_ie (x : Thread) (n : Nat) (w : W64) : (x.writeP n w).ie = x.ie := by unfold Thread.writeP; split <;> rfl
@[simp] theorem Thread.writeP_ven (x : Thread) (n : Nat) (w : W64) : (x.writeP n w).ven = x.ven := by unfold Thread.writeP; split <;> rfl
@[simp] theorem Thread.writeP_shbank (x : Thread) (n : Nat) (w : W64) : (x.writeP n w).shbank = x.shbank := by unfold Thread.writeP; split <;> rfl
@[simp] theorem Thread.writeP_depth (x : Thread) (n : Nat) (w : W64) : (x.writeP n w).depth = x.depth := by unfold Thread.writeP; split <;> rfl
@[simp] theorem Thread.writeP_resident (x : Thread) (n : Nat) (w : W64) : (x.writeP n w).resident = x.resident := by unfold Thread.writeP; split <;> rfl
@[simp] theorem Thread.writeP_g (x : Thread) (n : Nat) (w : W64) : (x.writeP n w).g = x.g := by unfold Thread.writeP; split <;> rfl
@[simp] theorem Thread.writeP_v (x : Thread) (n : Nat) (w : W64) : (x.writeP n w).v = x.v := by unfold Thread.writeP; split <;> rfl
@[simp] theorem Thread.writeP_banks (x : Thread) (n : Nat) (w : W64) : (x.writeP n w).banks = x.banks := by unfold Thread.writeP; split <;> rfl
@[simp] theorem Thread.writeP_fpcsr (x : Thread) (n : Nat) (w : W64) : (x.writeP n w).fpcsr = x.fpcsr := by unfold Thread.writeP; split <;> rfl
@[simp] theorem Thread.writeP_progress (x : Thread) (n : Nat) (w : W64) : (x.writeP n w).progress = x.progress := by unfold Thread.writeP; split <;> rfl
@[simp] theorem Thread.writeP_cr (x : Thread) (n : Nat) (w : W64) : (x.writeP n w).cr = x.cr := by unfold Thread.writeP; split <;> rfl
@[simp] theorem Thread.writeP_mcs (x : Thread) (n : Nat) (w : W64) : (x.writeP n w).mcs = x.mcs := by unfold Thread.writeP; split <;> rfl
@[simp] theorem Thread.writeP_slots (x : Thread) (n : Nat) (w : W64) : (x.writeP n w).slots = x.slots := by unfold Thread.writeP; split <;> rfl
@[simp] theorem Thread.writeP_locals (x : Thread) (n : Nat) (w : W64) : (x.writeP n w).locals = x.locals := by unfold Thread.writeP; split <;> rfl
@[simp] theorem Thread.writeP_resv (x : Thread) (n : Nat) (w : W64) : (x.writeP n w).resv = x.resv := by unfold Thread.writeP; split <;> rfl
@[simp] theorem Thread.writeP_hold (x : Thread) (n : Nat) (w : W64) : (x.writeP n w).hold = x.hold := by unfold Thread.writeP; split <;> rfl
@[simp] theorem Thread.writeP_noHoldUntil (x : Thread) (n : Nat) (w : W64) : (x.writeP n w).noHoldUntil = x.noHoldUntil := by unfold Thread.writeP; split <;> rfl
@[simp] theorem Thread.writeP_sq (x : Thread) (n : Nat) (w : W64) : (x.writeP n w).sq = x.sq := by unfold Thread.writeP; split <;> rfl
@[simp] theorem Thread.writeP_sqe (x : Thread) (n : Nat) (w : W64) : (x.writeP n w).sqe = x.sqe := by unfold Thread.writeP; split <;> rfl
@[simp] theorem Thread.writeP_walkBuf (x : Thread) (n : Nat) (w : W64) : (x.writeP n w).walkBuf = x.walkBuf := by unfold Thread.writeP; split <;> rfl
@[simp] theorem Thread.writeP_walkPtrs (x : Thread) (n : Nat) (w : W64) : (x.writeP n w).walkPtrs = x.walkPtrs := by unfold Thread.writeP; split <;> rfl
@[simp] theorem Thread.writeP_dev (x : Thread) (n : Nat) (w : W64) : (x.writeP n w).dev = x.dev := by unfold Thread.writeP; split <;> rfl
@[simp] theorem Thread.writeP_act (x : Thread) (n : Nat) (w : W64) : (x.writeP n w).act = x.act := by unfold Thread.writeP; split <;> rfl
@[simp] theorem Thread.writeP_atVector (x : Thread) (n : Nat) (w : W64) : (x.writeP n w).atVector = x.atVector := by unfold Thread.writeP; split <;> rfl
@[simp] theorem Thread.writeP_ghist (x : Thread) (n : Nat) (w : W64) : (x.writeP n w).ghist = x.ghist := by unfold Thread.writeP; split <;> rfl
@[simp] theorem Thread.writeP_retStack (x : Thread) (n : Nat) (w : W64) : (x.writeP n w).retStack = x.retStack := by unfold Thread.writeP; split <;> rfl
@[simp] theorem Thread.writeP_lseq (x : Thread) (n : Nat) (w : W64) : (x.writeP n w).lseq = x.lseq := by unfold Thread.writeP; split <;> rfl
@[simp] theorem Thread.writeP_missed (x : Thread) (n : Nat) (w : W64) : (x.writeP n w).missed = x.missed := by unfold Thread.writeP; split <;> rfl
@[simp] theorem Thread.writeP_evq (x : Thread) (n : Nat) (w : W64) : (x.writeP n w).evq = x.evq := by unfold Thread.writeP; split <;> rfl
@[simp] theorem Thread.writeP_trainq (x : Thread) (n : Nat) (w : W64) : (x.writeP n w).trainq = x.trainq := by unfold Thread.writeP; split <;> rfl
@[simp] theorem Thread.writeP_deferred (x : Thread) (n : Nat) (w : W64) : (x.writeP n w).deferred = x.deferred := by unfold Thread.writeP; split <;> rfl
@[simp] theorem Thread.writeP_ncReads (x : Thread) (n : Nat) (w : W64) : (x.writeP n w).ncReads = x.ncReads := by unfold Thread.writeP; split <;> rfl
@[simp] theorem Thread.writeP_ferrs (x : Thread) (n : Nat) (w : W64) : (x.writeP n w).ferrs = x.ferrs := by unfold Thread.writeP; split <;> rfl
@[simp] theorem Thread.writeP_fencing (x : Thread) (n : Nat) (w : W64) : (x.writeP n w).fencing = x.fencing := by unfold Thread.writeP; split <;> rfl
@[simp] theorem Thread.writeP_tlbis (x : Thread) (n : Nat) (w : W64) : (x.writeP n w).tlbis = x.tlbis := by unfold Thread.writeP; split <;> rfl

end Sys2Proof.Machine
end

