-- ==== Sys2Proof/Laws/Words.lean ====
section
/-! SUPPORT. Bit fields: what a field reads as after a field has been replaced. -/

namespace Sys2Proof.Machine

theorem split_bits (x lo w : Nat) : x = x % 2 ^ lo + ((x >>> lo) % 2 ^ w) * 2 ^ lo + (x / 2 ^ (lo + w)) * 2 ^ (lo + w) := by
  rw [Nat.shiftRight_eq_div_pow, pow_add]
  have h1 := Nat.div_add_mod x (2 ^ lo)
  have h2 := Nat.div_add_mod (x / 2 ^ lo) (2 ^ w)
  rw [Nat.div_div_eq_div_mul] at h2
  have h3 : x / (2 ^ lo * 2 ^ w) * (2 ^ lo * 2 ^ w) = 2 ^ lo * (2 ^ w * (x / (2 ^ lo * 2 ^ w))) := by ring
  have h4 : 2 ^ lo * (x / 2 ^ lo) = 2 ^ lo * (2 ^ w * (x / (2 ^ lo * 2 ^ w))) + x / 2 ^ lo % 2 ^ w * 2 ^ lo := by
    conv_lhs => rw [← h2]
    ring
  rw [h3]
  omega

/-- A number with bits [hi:lo] replaced, as its three parts. -/
theorem setNbits_parts (x hi lo v : Nat) (h : lo ≤ hi) :
    setNbits x hi lo v = x % 2 ^ lo + (v % 2 ^ (hi + 1 - lo)) * 2 ^ lo + (x / 2 ^ (hi + 1)) * 2 ^ (hi + 1) := by
  unfold setNbits nbits
  have hw : lo + (hi + 1 - lo) = hi + 1 := by omega
  have hs := split_bits x lo (hi + 1 - lo)
  rw [hw] at hs
  rw [Nat.shiftLeft_eq, Nat.shiftLeft_eq]
  omega

theorem setNbits_testBit (x hi lo v i : Nat) (h : lo ≤ hi) :
    (setNbits x hi lo v).testBit i = if lo ≤ i ∧ i ≤ hi then v.testBit (i - lo) else x.testBit i := by
  rw [setNbits_parts x hi lo v h]
  have e : x % 2 ^ lo + (v % 2 ^ (hi + 1 - lo)) * 2 ^ lo + (x / 2 ^ (hi + 1)) * 2 ^ (hi + 1)
      = 2 ^ (hi + 1) * (x / 2 ^ (hi + 1)) + (2 ^ lo * (v % 2 ^ (hi + 1 - lo)) + x % 2 ^ lo) := by ring
  have l1 : x % 2 ^ lo < 2 ^ lo := Nat.mod_lt _ (Nat.two_pow_pos _)
  have l2 : v % 2 ^ (hi + 1 - lo) < 2 ^ (hi + 1 - lo) := Nat.mod_lt _ (Nat.two_pow_pos _)
  have hp : 2 ^ (hi + 1) = 2 ^ lo * 2 ^ (hi + 1 - lo) := by rw [← pow_add]; congr 1; omega
  have l3 : 2 ^ lo * (v % 2 ^ (hi + 1 - lo)) + x % 2 ^ lo < 2 ^ (hi + 1) := by
    have := Nat.mul_le_mul_left (2 ^ lo) (Nat.succ_le_of_lt l2)
    rw [hp]
    rw [Nat.mul_succ] at this
    omega
  rw [e, Nat.testBit_two_pow_mul_add _ l3]
  by_cases h1 : i < hi + 1
  · rw [if_pos h1, Nat.testBit_two_pow_mul_add _ l1]
    by_cases h2 : i < lo
    · rw [if_pos h2, if_neg (by omega), Nat.testBit_mod_two_pow]
      simp [h2]
    · rw [if_neg h2, if_pos (by omega), Nat.testBit_mod_two_pow]
      have : i - lo < hi + 1 - lo := by omega
      simp [this]
  · rw [if_neg h1, if_neg (by omega), Nat.testBit_div_two_pow]
    congr 1; omega

theorem nbits_testBit (x hi lo i : Nat) : (nbits x hi lo).testBit i = (decide (i < hi + 1 - lo) && x.testBit (lo + i)) := by
  unfold nbits
  rw [Nat.testBit_mod_two_pow, Nat.testBit_shiftRight]

/-- A replaced field reads as what was written. -/
theorem wbits_setWbits_self (x : W64) (hi lo v : Nat) (h : lo ≤ hi) (h64 : hi < 64) :
    wbits (setWbits x hi lo v) hi lo = v % 2 ^ (hi + 1 - lo) := by
  apply Nat.eq_of_testBit_eq
  intro i
  unfold wbits setWbits
  rw [nbits_testBit, BitVec.toNat_ofNat, Nat.testBit_mod_two_pow, setNbits_testBit _ _ _ _ _ h, Nat.testBit_mod_two_pow]
  by_cases hi' : i < hi + 1 - lo
  · have a1 : lo + i < 64 := by omega
    have a2 : lo ≤ lo + i ∧ lo + i ≤ hi := by omega
    simp [hi', a1, a2]
  · simp [hi']

/-- A field apart from the replaced one keeps its value. -/
theorem wbits_setWbits_ne (x : W64) (hi lo hi' lo' v : Nat) (h : lo ≤ hi) (hne : hi < lo' ∨ hi' < lo) :
    wbits (setWbits x hi lo v) hi' lo' = wbits x hi' lo' := by
  apply Nat.eq_of_testBit_eq
  intro i
  unfold wbits setWbits
  rw [nbits_testBit, nbits_testBit, BitVec.toNat_ofNat, Nat.testBit_mod_two_pow, setNbits_testBit _ _ _ _ _ h]
  by_cases hi1 : i < hi' + 1 - lo'
  · have a2 : ¬ (lo ≤ lo' + i ∧ lo' + i ≤ hi) := by omega
    by_cases a1 : lo' + i < 64
    · simp [hi1, a1, a2]
    · have : x.toNat.testBit (lo' + i) = false := Nat.testBit_lt_two_pow (by
        calc x.toNat < 2 ^ 64 := x.isLt
          _ ≤ 2 ^ (lo' + i) := Nat.pow_le_pow_right (by norm_num) (by omega))
      simp [a1, a2, this]
  · simp [hi1]

theorem wbit_setWbits_self (x : W64) (i v : Nat) (h64 : i < 64) : wbit (setWbits x i i v) i = v.testBit 0 := by
  unfold wbit setWbits
  rw [BitVec.getLsbD_ofNat, setNbits_testBit _ _ _ _ _ (le_refl i)]
  simp [h64]

theorem wbit_setWbits_ne (x : W64) (hi lo i v : Nat) (h : lo ≤ hi) (hne : i < lo ∨ hi < i) : wbit (setWbits x hi lo v) i = wbit x i := by
  unfold wbit setWbits
  rw [BitVec.getLsbD_ofNat, setNbits_testBit _ _ _ _ _ h]
  have a2 : ¬ (lo ≤ i ∧ i ≤ hi) := by omega
  by_cases a1 : i < 64
  · simp [a1, a2, BitVec.getLsbD]
  · simp [a1, BitVec.getLsbD_of_ge x i (by omega)]

theorem b2n_testBit (b : Bool) : (b2n b).testBit 0 = b := by cases b <;> rfl

end Sys2Proof.Machine
end

