-- ==== Sys2Proof/Laws/Ops.lean ====
section
/-! SUPPORT. What the named operations over threads, cores, dies, registers and memory do: a read after a write, and the counters' frame. -/

namespace Sys2Proof.Machine

/-! Outcomes. -/

@[simp] theorem State.onHw_eq (s : State) (f : Hw → Hw) : s.onHw f = .next { s with hw := f s.hw } := rfl

/-! Threads, cores and dies. -/

@[simp] theorem Hw.thread_setThread (h : Hw) (t n : Nat) (x : Thread) : (h.setThread t x).thread n = if n = t then x else h.thread n := by
  simp [Hw.setThread, Hw.thread]

@[simp] theorem Hw.thread_onThread (h : Hw) (t n : Nat) (f : Thread → Thread) :
    (h.onThread t f).thread n = if n = t then f (h.thread t) else h.thread n := by
  simp [Hw.onThread]

@[simp] theorem Hw.core_onCore (h : Hw) (k n : Nat) (f : Core → Core) : (h.onCore k f).core n = if n = k then f (h.core k) else h.core n := by
  simp [Hw.onCore, Hw.core]

@[simp] theorem Hw.cdie_onCDie (h : Hw) (d n : Nat) (f : CDieSt → CDieSt) : (h.onCDie d f).cdie n = if n = d then f (h.cdie d) else h.cdie n := by
  simp [Hw.onCDie, Hw.cdie]

/-- What depends on the threads alone. -/
theorem Hw.thread_congr (h k : Hw) (e : h.thr = k.thr) (n : Nat) : h.thread n = k.thread n := by simp [Hw.thread, e]

@[simp] theorem Hw.thread_onCore (h : Hw) (k n : Nat) (f : Core → Core) : (h.onCore k f).thread n = h.thread n := rfl
@[simp] theorem Hw.thread_onCDie (h : Hw) (d n : Nat) (f : CDieSt → CDieSt) : (h.onCDie d f).thread n = h.thread n := rfl
@[simp] theorem Hw.thread_setReg (h : Hw) (r : RegName) (die inst i n : Nat) (v : W64) : (h.setReg r die inst i v).thread n = h.thread n := rfl
@[simp] theorem Hw.thread_setFld (h : Hw) (r : RegName) (die inst i n : Nat) (g : Fld) (x : Nat) : (h.setFld r die inst i g x).thread n = h.thread n := rfl
@[simp] theorem Hw.thread_send (h : Hw) (m : Msg) (n : Nat) : (h.send m).thread n = h.thread n := by simp [Hw.thread]
@[simp] theorem Hw.thread_raise (h : Hw) (r : Raise) (n : Nat) : (h.raise r).thread n = h.thread n := rfl
@[simp] theorem Hw.core_onThread (h : Hw) (t n : Nat) (f : Thread → Thread) : (h.onThread t f).core n = h.core n := rfl
@[simp] theorem Hw.core_onCDie (h : Hw) (d n : Nat) (f : CDieSt → CDieSt) : (h.onCDie d f).core n = h.core n := rfl
@[simp] theorem Hw.cdie_onThread (h : Hw) (t n : Nat) (f : Thread → Thread) : (h.onThread t f).cdie n = h.cdie n := rfl
@[simp] theorem Hw.cdie_onCore (h : Hw) (k n : Nat) (f : Core → Core) : (h.onCore k f).cdie n = h.cdie n := rfl

/-! Registers of the register window. -/

theorem Hw.reg_congr (h k : Hw) (e : h.regs = k.regs) (r : RegName) (die inst i : Nat) : h.reg r die inst i = k.reg r die inst i := by
  simp [Hw.reg, e]

theorem Hw.fld_congr (h k : Hw) (e : h.regs = k.regs) (r : RegName) (die inst i : Nat) (g : Fld) : h.fld r die inst i g = k.fld r die inst i g := by
  simp [Hw.fld, Hw.reg_congr h k e]

@[simp] theorem Hw.reg_setReg_self (h : Hw) (r : RegName) (die inst i : Nat) (v : W64) : (h.setReg r die inst i v).reg r die inst i = v := by
  simp [Hw.reg, Hw.setReg]

theorem Hw.reg_setReg_ne (h : Hw) (r q : RegName) (die inst i die' inst' i' : Nat) (v : W64) (e : regAddr q die' inst' i' ≠ regAddr r die inst i) :
    (h.setReg r die inst i v).reg q die' inst' i' = h.reg q die' inst' i' := by
  simp [Hw.reg, Hw.setReg, e]

@[simp] theorem Hw.reg_onThread (h : Hw) (t : Nat) (f : Thread → Thread) (r : RegName) (die inst i : Nat) : (h.onThread t f).reg r die inst i = h.reg r die inst i := rfl
@[simp] theorem Hw.reg_onCore (h : Hw) (k : Nat) (f : Core → Core) (r : RegName) (die inst i : Nat) : (h.onCore k f).reg r die inst i = h.reg r die inst i := rfl
@[simp] theorem Hw.reg_onCDie (h : Hw) (k : Nat) (f : CDieSt → CDieSt) (r : RegName) (die inst i : Nat) : (h.onCDie k f).reg r die inst i = h.reg r die inst i := rfl
@[simp] theorem Hw.reg_send (h : Hw) (m : Msg) (r : RegName) (die inst i : Nat) : (h.send m).reg r die inst i = h.reg r die inst i := by simp [Hw.reg]
@[simp] theorem Hw.reg_raise (h : Hw) (m : Raise) (r : RegName) (die inst i : Nat) : (h.raise m).reg r die inst i = h.reg r die inst i := rfl
@[simp] theorem Hw.fld_send (h : Hw) (m : Msg) (r : RegName) (die inst i : Nat) (g : Fld) : (h.send m).fld r die inst i g = h.fld r die inst i g := by simp [Hw.fld]
@[simp] theorem Hw.fld_raise (h : Hw) (m : Raise) (r : RegName) (die inst i : Nat) (g : Fld) : (h.raise m).fld r die inst i g = h.fld r die inst i g := rfl
@[simp] theorem Hw.fld_onThread (h : Hw) (t : Nat) (f : Thread → Thread) (r : RegName) (die inst i : Nat) (g : Fld) : (h.onThread t f).fld r die inst i g = h.fld r die inst i g := rfl

theorem Hw.fld_setReg_self (h : Hw) (r : RegName) (die inst i : Nat) (v : W64) (g : Fld) : (h.setReg r die inst i v).fld r die inst i g = g.get v := by
  simp [Hw.fld]

/-- A replaced field reads as what was written, in its width. -/
theorem Hw.fld_setFld_self (h : Hw) (r : RegName) (die inst i : Nat) (g : Fld) (x : Nat) (h1 : g.lo ≤ g.hi) (h2 : g.hi < 64) :
    (h.setFld r die inst i g x).fld r die inst i g = x % 2 ^ (g.hi + 1 - g.lo) := by
  simp [Hw.fld, Hw.setFld, Fld.get, Fld.set, wbits_setWbits_self _ _ _ _ h1 h2]

/-- A field apart from the replaced one in the same register keeps its value. -/
theorem Hw.fld_setFld_other (h : Hw) (r : RegName) (die inst i : Nat) (g k : Fld) (x : Nat) (h1 : g.lo ≤ g.hi) (hne : g.hi < k.lo ∨ k.hi < g.lo) :
    (h.setFld r die inst i g x).fld r die inst i k = h.fld r die inst i k := by
  simp [Hw.fld, Hw.setFld, Fld.get, Fld.set, wbits_setWbits_ne _ _ _ _ _ _ h1 hne]

/-- A field of a register at another address keeps its value. -/
theorem Hw.fld_setFld_ne (h : Hw) (r q : RegName) (die inst i die' inst' i' : Nat) (g k : Fld) (x : Nat)
    (e : regAddr q die' inst' i' ≠ regAddr r die inst i) : (h.setFld r die inst i g x).fld q die' inst' i' k = h.fld q die' inst' i' k := by
  simp [Hw.fld, Hw.setFld, Hw.reg_setReg_ne h r q die inst i die' inst' i' _ e]

/-! Memory. -/

theorem memSet_wf (m : List Host.Cell) (a : Nat) (v : Byte) (h : Memory.wf m = true) : Memory.wf (memSet m a v) = true :=
  canon_putC memDefault m a v h

theorem memSets_wf (bs : List Byte) : ∀ (m : List Host.Cell) (a : Nat), Memory.wf m = true → Memory.wf (memSets m a bs) = true := by
  induction bs with
  | nil => intro m a h; exact h
  | cons b r ih => intro m a h; exact ih _ _ (memSet_wf m a b h)

/-- Every memory operation keeps the canonical form. -/
theorem Hw.writeMem_wf (h : Hw) (a : Nat) (bs : List Byte) (e : Memory.wf h.mem = true) : Memory.wf (h.writeMem a bs).mem = true :=
  memSets_wf bs h.mem a e

theorem Hw.writeNum_wf (h : Hw) (a n v : Nat) (e : Memory.wf h.mem = true) : Memory.wf (h.writeNum a n v).mem = true :=
  h.writeMem_wf a _ e

theorem Hw.writeCells_wf (l : List (Nat × Byte)) : ∀ h : Hw, Memory.wf h.mem = true → Memory.wf (h.writeCells l).mem = true := by
  induction l with
  | nil => intro h e; exact e
  | cons c r ih => intro h e; exact ih _ (h.writeMem_wf c.1 [c.2] e)

theorem reset_mem_wf : Memory.wf State.reset.hw.mem = true := rfl

theorem memSets_look (bs : List Byte) : ∀ (m : List Host.Cell) (a b : Nat),
    look memDefault (memSets m a bs) b = if a ≤ b ∧ b < a + bs.length then bs.getD (b - a) 0 else look memDefault m b := by
  induction bs with
  | nil => intro m a b; simp [memSets]
  | cons x r ih =>
    intro m a b
    unfold memSets
    rw [ih _ (a + 1) b]
    have e : look memDefault (memSet m a x) b = if b = a then x else look memDefault m b := look_putC memDefault m a b x
    rw [e]
    by_cases h1 : b = a
    · subst h1; simp
    · by_cases h2 : a + 1 ≤ b ∧ b < a + 1 + r.length
      · have : b - a = (b - (a + 1)) + 1 := by omega
        rw [if_pos h2, if_pos (by simp only [List.length_cons]; omega), this]
        simp
      · rw [if_neg h2, if_neg h1, if_neg (by simp only [List.length_cons]; omega)]

/-- A byte after a write: the byte written at its place, and every other byte as before. -/
theorem Hw.byte_writeMem (h : Hw) (a b : Nat) (bs : List Byte) :
    (h.writeMem a bs).byte b = if a ≤ b ∧ b < a + bs.length then bs.getD (b - a) 0 else h.byte b :=
  memSets_look bs h.mem a b

end Sys2Proof.Machine
end

