-- ==== Sys2Proof/Laws/Counters.lean ====
section
/-! SUPPORT. What counting an event can change (Counted), and how it goes with changes of the thread. -/

namespace Sys2Proof.Machine

theorem Counted.refl (t : Nat) (h : Hw) : Counted t h h :=
  ⟨⟨_, _, _, rfl⟩, fun _ _ => rfl, fun _ _ => rfl, ⟨h.regs, h.thr, rfl⟩⟩

theorem Counted.trans {t : Nat} {h k m : Hw} (a : Counted t h k) (b : Counted t k m) : Counted t h m := by
  obtain ⟨l, q0, n0, e⟩ := a.own
  obtain ⟨l', q1, n1, e'⟩ := b.own
  obtain ⟨r, x, q⟩ := a.rest
  obtain ⟨r', x', q'⟩ := b.rest
  exact ⟨⟨l', q1, n1, by rw [e', e]⟩, fun n hn => (b.others n hn).trans (a.others n hn),
    fun c hc => (b.window c hc).trans (a.window c hc), ⟨r', x', by rw [q', q]⟩⟩

/-- A counter register of the thread's core is changed. -/
theorem counted_setReg (t : Nat) (h : Hw) (r : RegName) (p n : Nat) (v : W64) (hr : r = .CORE_PMC ∨ r = .CORE_PMSEL) (hp : p < 64)
    (hn : n < 16) : Counted t h (h.setReg r (dieOfThread t) p n v) := by
  refine ⟨⟨_, _, _, rfl⟩, fun _ _ => rfl, fun a ha => ?_, ⟨_, h.thr, rfl⟩⟩
  have e : a ≠ regAddr r (dieOfThread t) p n := by
    rcases hr with rfl | rfl
    · exact (ha p n hp hn).1
    · exact (ha p n hp hn).2
  simp [Hw.setReg, e]

theorem counted_locals (t : Nat) (h : Hw) (f : Thread → List Nat) : Counted t h (h.onThread t (fun x => { x with locals := f x })) := by
  refine ⟨⟨f (h.thread t), (h.thread t).evq, (h.thread t).lseq, by simp⟩, fun n hn => by simp [hn], fun _ _ => rfl, ⟨h.regs, _, rfl⟩⟩

theorem counted_queue (t : Nat) (h : Hw) (f : Thread → List Nat) (g : Thread → Nat) :
    Counted t h (h.onThread t (fun x => { x with evq := f x, lseq := g x })) := by
  refine ⟨⟨(h.thread t).locals, f (h.thread t), g (h.thread t), by simp⟩, fun n hn => by simp [hn], fun _ _ => rfl, ⟨h.regs, _, rfl⟩⟩

theorem countOne_counted (t : Nat) (h : Hw) (p n level ev m : Nat) (hp : p < 64) (hn : n < 16) :
    Counted t h (countOne h t (dieOfThread t) p n level ev m) := by
  have c1 (x : Hw) (g : Fld) (v : Nat) : Counted t x (x.setFld .CORE_PMC (dieOfThread t) p n g v) := counted_setReg t x _ p n _ (.inl rfl) hp hn
  have c2 (x : Hw) (g : Fld) (v : Nat) : Counted t x (x.setFld .CORE_PMSEL (dieOfThread t) p n g v) := counted_setReg t x _ p n _ (.inr rfl) hp hn
  unfold countOne
  simp only
  split
  · split
    · split
      · exact ((c1 h _ _).trans (c2 _ _ _)).trans (counted_locals t _ (fun x => x.locals ++ [n]))
      · exact (c1 h _ _).trans (c2 _ _ _)
    · exact c1 h _ _
  · exact Counted.refl t h

theorem Hw.pcoreOf_lt (h : Hw) (t p : Nat) (e : h.pcoreOf t = some p) : p < 64 := by
  simp only [Hw.pcoreOf] at e
  split at e
  · cases e; exact Nat.mod_lt _ (by decide)
  · cases e

/-- What counting can change. -/
theorem Hw.countN_counted (h : Hw) (t ev m : Nat) : Counted t h (h.countN t ev m) := by
  unfold Hw.countN
  simp only
  split
  · rename_i p _ hp
    have lt := h.pcoreOf_lt t p hp
    have g : ∀ (l : List Nat) (x : Hw) (lv : Nat), (∀ n ∈ l, n < 8) → Counted t h x →
        Counted t h (l.foldl (fun h n => countOne h t (dieOfThread t) p (8 * (t % 2) + n) lv ev m) x) := by
      intro l
      induction l with
      | nil => intro x _ _ e; exact e
      | cons a r ih =>
        intro x lv hl e
        refine ih _ lv (fun n hn => hl n (List.mem_cons_of_mem _ hn)) (e.trans (countOne_counted t x p _ _ _ _ lt ?_))
        have := hl a (List.mem_cons_self ..)
        have := Nat.mod_lt t (show 0 < 2 by decide)
        omega
    exact g _ h _ (fun n hn => by simpa using hn) (Counted.refl t h)
  · exact Counted.refl t h

/-- What one event can change. -/
theorem Hw.count_counted (h : Hw) (t ev : Nat) : Counted t h (h.count t ev) := h.countN_counted t ev 1

/-- What several events can change. -/
theorem Hw.counts_counted (h : Hw) (t : Nat) (l : List Nat) : Counted t h (h.counts t l) := by
  have g : ∀ (l : List Nat) (x : Hw), Counted t h x → Counted t h (l.foldl (fun h e => h.count t e) x) := by
    intro l
    induction l with
    | nil => intro x e; exact e
    | cons a r ih => intro x e; exact ih _ (e.trans (x.count_counted t a))
  exact g l h (Counted.refl t h)

/-- What the events of a retirement can change. -/
theorem Hw.note_counted (h : Hw) (t : Nat) (l : List Nat) : Counted t h (h.note t l) := by
  unfold Hw.note
  simp only
  split
  · exact (h.count_counted t _).trans (Hw.counts_counted _ t l)
  · exact (h.count_counted t _).trans (counted_queue t _ (fun x => x.evq ++ l) (fun x => x.lseq + 1))

theorem Hw.setThread_setThread (h : Hw) (t : Nat) (x y : Thread) : (h.setThread t x).setThread t y = h.setThread t y := by
  have p : ∀ l : List (Nat × Thread), put (put l t x) t y = put l t y := by
    intro l
    induction l with
    | nil => simp [put]
    | cons e r ih =>
      obtain ⟨k, w⟩ := e
      simp only [put]
      split
      · simp [put]
      · split
        · simp [put]
        · rename_i h1 h2
          simp only [put, h1, h2, if_false, ih]
  simp [Hw.setThread, p]

/-- Counting and a change of the thread that leaves its local events alone can change places. -/
theorem Counted.onThread {t : Nat} {h k : Hw} (a : Counted t h k) (g : Thread → Thread)
    (hg : ∀ x l q n, g { x with locals := l, evq := q, lseq := n } = { g x with locals := l, evq := q, lseq := n }) : Counted t (h.onThread t g) (k.onThread t g) := by
  obtain ⟨l, eq, en, e⟩ := a.own
  obtain ⟨r, x, q⟩ := a.rest
  refine ⟨⟨l, eq, en, ?_⟩, fun n hn => ?_, a.window, ⟨k.regs, (k.onThread t g).thr, ?_⟩⟩
  · rw [Hw.thread_onThread, if_pos rfl, Hw.thread_onThread, if_pos rfl, e]
    exact hg _ _ _ _
  · rw [Hw.thread_onThread, if_neg hn, Hw.thread_onThread, if_neg hn]
    exact a.others n hn
  · rw [q]; rfl

end Sys2Proof.Machine
end

