-- ==== Sys2Proof/Laws/Kept.lean ====
section
/-! SUPPORT. Packages whose threads are alike in what software sees: the steps of such changes, and what counting and a write to memory leave of a thread. -/

namespace Sys2Proof.Machine

theorem Thread.FetchKept.refl (x : Thread) : x.FetchKept x := rfl

theorem Thread.FetchKept.trans {x y z : Thread} (a : x.FetchKept y) (b : y.FetchKept z) : x.FetchKept z := by
  unfold Thread.FetchKept at *
  rw [b, a]

/-- Every thread is kept. -/
def KeptAll (h k : Hw) : Prop := ∀ n, (h.thread n).FetchKept (k.thread n)

theorem KeptAll.refl (h : Hw) : KeptAll h h := fun n => Thread.FetchKept.refl (h.thread n)

theorem KeptAll.trans {h k m : Hw} (a : KeptAll h k) (b : KeptAll k m) : KeptAll h m := fun n => (a n).trans (b n)

theorem KeptAll.of_eq {h k m : Hw} (a : KeptAll h k) (e : m.thr = k.thr) : KeptAll h m := fun n => by
  rw [m.thread_congr k e n]; exact a n

theorem keptAll_onThread (h : Hw) (t : Nat) (g : Thread → Thread) (hg : ∀ x, Thread.FetchKept x (g x)) : KeptAll h (h.onThread t g) := fun n => by
  rw [Hw.thread_onThread]
  split
  · rename_i e; subst e; exact hg _
  · exact Thread.FetchKept.refl _

theorem keptAll_foldl {α : Type} (g : Hw → α → Hw) (hg : ∀ h a, KeptAll h (g h a)) (l : List α) : ∀ h : Hw, KeptAll h (l.foldl g h) := by
  induction l with
  | nil => intro h; exact KeptAll.refl h
  | cons a r ih => intro h; exact (hg h a).trans (ih _)

/-- A lost reservation is all that a write to memory changes of a thread. -/
theorem look_dropResv (keep : Option Nat) (line : Nat) (n : Nat) :
    ∀ l : List (Nat × Thread), ∃ r, look {} (dropResv keep line l) n = { look {} l n with resv := r } := by
  intro l
  induction l with
  | nil => exact ⟨none, rfl⟩
  | cons e l ih =>
    obtain ⟨k, x⟩ := e
    have c : ∃ r, dropResv keep line ((k, x) :: l) = (k, { x with resv := r }) :: dropResv keep line l := by
      unfold dropResv
      simp only [List.map_cons]
      split
      · split
        · exact ⟨none, rfl⟩
        · exact ⟨x.resv, rfl⟩
      · exact ⟨x.resv, rfl⟩
    obtain ⟨r, c⟩ := c
    rw [c]
    simp only [look]
    split
    · exact ⟨r, rfl⟩
    · exact ih

theorem keptAll_writeMem (h : Hw) (a : Nat) (bs : List Byte) : KeptAll h (h.writeMem a bs) := by
  intro n
  obtain ⟨r, e⟩ := look_dropResv none (lineOf a) n h.thr
  obtain ⟨r2, e2⟩ := look_dropResv none (lineOf (a + (bs.length - 1))) n (dropResv none (lineOf a) h.thr)
  have : ∃ q, (h.writeMem a bs).thread n = { h.thread n with resv := q } := by
    unfold Hw.writeMem Hw.thread
    simp only
    split
    · exact ⟨r, e⟩
    · exact ⟨r2, e2.trans (by rw [e])⟩
  obtain ⟨q, e⟩ := this
  unfold Thread.FetchKept
  rw [e]

theorem Counted.kept {t : Nat} {h k : Hw} (a : Counted t h k) : KeptAll h k := by
  intro n
  by_cases e : n = t
  · subst e
    obtain ⟨l, q, m, e⟩ := a.own
    unfold Thread.FetchKept
    rw [e]
  · rw [a.others n e]; exact Thread.FetchKept.refl _

theorem keptAll_count (h : Hw) (t ev : Nat) : KeptAll h (h.count t ev) := (h.count_counted t ev).kept

end Sys2Proof.Machine
end

