-- ==== Sys2Proof/Laws/Caches.lean ====
section
/-! SUPPORT. What the cache operations of a compute die and of its cores can change: caches, the snoop filter, fill buffers, messages, counters and raises, and what KeptAll lets change of threads; never memory. -/

namespace Sys2Proof.Machine

/-- Two packages alike but for caches, messages and what they hold of slots, registers of the window, raises, the meter's weights, domains on their way, and what KeptAll lets change of threads. -/
structure CacheOnly (h k : Hw) : Prop where
  kept : KeptAll h k
  rest : ∃ th co cd ms tk rs tw rg ra mt dg, k = { h with thr := th, cores := co, cdies := cd, msgs := ms, toks := tk, rsps := rs, tokWait := tw, regs := rg, raises := ra, mtrx := mt, domGoal := dg }

theorem CacheOnly.refl (h : Hw) : CacheOnly h h := ⟨KeptAll.refl h, ⟨h.thr, h.cores, h.cdies, h.msgs, h.toks, h.rsps, h.tokWait, h.regs, h.raises, h.mtrx, h.domGoal, rfl⟩⟩

theorem CacheOnly.trans {h k m : Hw} (a : CacheOnly h k) (b : CacheOnly k m) : CacheOnly h m := by
  obtain ⟨_, _, _, _, _, _, _, _, _, _, _, e⟩ := a.rest
  obtain ⟨th, co, cd, ms, tk, rs, tw, rg, ra, mt, dg, e'⟩ := b.rest
  exact ⟨a.kept.trans b.kept, ⟨th, co, cd, ms, tk, rs, tw, rg, ra, mt, dg, by rw [e', e]⟩⟩

theorem CacheOnly.mem {h k : Hw} (a : CacheOnly h k) : k.mem = h.mem := by
  obtain ⟨_, _, _, _, _, _, _, _, _, _, _, e⟩ := a.rest; rw [e]

theorem cacheOnly_foldl {α : Type} (g : Hw → α → Hw) (hg : ∀ h a, CacheOnly h (g h a)) (l : List α) : ∀ h : Hw, CacheOnly h (l.foldl g h) := by
  induction l with
  | nil => intro h; exact CacheOnly.refl h
  | cons a r ih => intro h; exact (hg h a).trans (ih _)

theorem cacheOnly_ite {h a b : Hw} (c : Bool) (x : CacheOnly h a) (y : CacheOnly h b) : CacheOnly h (if c then a else b) := by
  split <;> assumption

/-- As `cacheOnly_ite`, on a proposition. -/
theorem cacheOnly_iteP {h a b : Hw} (c : Prop) [Decidable c] (x : CacheOnly h a) (y : CacheOnly h b) : CacheOnly h (if c then a else b) := by
  split <;> assumption

/-- Every such field is set, and no thread. -/
theorem CacheOnly.of {h k : Hw} (co : List (Nat × Core)) (cd : List (Nat × CDieSt)) (ms : List Msg) (tk : List TokSlot) (rs : List RspSlot) (tw : List Msg) (rg : List (Nat × W64)) (ra : List Raise) (mt : Mtrx) (dg : List (Nat × Nat))
    (e : k = { h with cores := co, cdies := cd, msgs := ms, toks := tk, rsps := rs, tokWait := tw, regs := rg, raises := ra, mtrx := mt, domGoal := dg }) : CacheOnly h k :=
  ⟨fun n => by rw [e]; rfl, ⟨h.thr, co, cd, ms, tk, rs, tw, rg, ra, mt, dg, e⟩⟩

theorem cacheOnly_onCore (h : Hw) (k : Nat) (f : Core → Core) : CacheOnly h (h.onCore k f) := .of _ h.cdies h.msgs h.toks h.rsps h.tokWait h.regs h.raises h.mtrx h.domGoal rfl

theorem cacheOnly_onCDie (h : Hw) (k : Nat) (f : CDieSt → CDieSt) : CacheOnly h (h.onCDie k f) := .of h.cores _ h.msgs h.toks h.rsps h.tokWait h.regs h.raises h.mtrx h.domGoal rfl

theorem cacheOnly_send (h : Hw) (m : Msg) : CacheOnly h (h.send m) := by
  obtain ⟨ms, tk, rs, tw, e⟩ := h.send_only m
  exact .of h.cores h.cdies ms tk rs tw h.regs h.raises h.mtrx h.domGoal e

theorem cacheOnly_raise (h : Hw) (r : Raise) : CacheOnly h (h.raise r) := .of h.cores h.cdies h.msgs h.toks h.rsps h.tokWait h.regs _ h.mtrx h.domGoal rfl

theorem cacheOnly_setReg (h : Hw) (n : RegName) (die i j : Nat) (v : W64) : CacheOnly h (h.setReg n die i j v) := .of h.cores h.cdies h.msgs h.toks h.rsps h.tokWait _ h.raises h.mtrx h.domGoal rfl

theorem cacheOnly_setFld (h : Hw) (n : RegName) (die i j : Nat) (f : Fld) (v : Nat) : CacheOnly h (h.setFld n die i j f v) := .of h.cores h.cdies h.msgs h.toks h.rsps h.tokWait _ h.raises h.mtrx h.domGoal rfl

theorem cacheOnly_weigh (h : Hw) (u p : Nat) : CacheOnly h (h.weigh u p) := .of h.cores h.cdies h.msgs h.toks h.rsps h.tokWait h.regs h.raises _ h.domGoal rfl

theorem cacheOnly_onThread (h : Hw) (t : Nat) (g : Thread → Thread) (hg : ∀ x, Thread.FetchKept x (g x)) : CacheOnly h (h.onThread t g) :=
  ⟨keptAll_onThread h t g hg, ⟨_, h.cores, h.cdies, h.msgs, h.toks, h.rsps, h.tokWait, h.regs, h.raises, h.mtrx, h.domGoal, rfl⟩⟩

/-! Counters. -/

theorem Counted.cacheOnly {t : Nat} {h k : Hw} (a : Counted t h k) : CacheOnly h k := by
  obtain ⟨r, x, e⟩ := a.rest
  exact ⟨a.kept, ⟨x, h.cores, h.cdies, h.msgs, h.toks, h.rsps, h.tokWait, r, h.raises, h.mtrx, h.domGoal, e⟩⟩

theorem cacheOnly_countDieOne (h : Hw) (die nn stop ev : Nat) : CacheOnly h (countDieOne h die nn stop ev) := by
  unfold countDieOne
  simp only
  split
  · split
    · split
      · exact ((cacheOnly_setFld h _ _ _ _ _ _).trans (cacheOnly_setFld _ _ _ _ _ _ _)).trans (cacheOnly_raise _ _)
      · exact (cacheOnly_setFld h _ _ _ _ _ _).trans (cacheOnly_setFld _ _ _ _ _ _ _)
    · exact cacheOnly_setFld h _ _ _ _ _ _
  · exact CacheOnly.refl h

theorem cacheOnly_countDie (h : Hw) (die stop ev : Nat) (w : Bool) : CacheOnly h (h.countDie die stop ev w) :=
  cacheOnly_ite w (CacheOnly.refl h) (cacheOnly_foldl _ (fun h n => cacheOnly_countDieOne h die n stop ev) _ h)

theorem cacheOnly_countRing (h : Hw) (die a b : Nat) (asc : Bool) (n : Nat) (w : Bool) : CacheOnly h (h.countRing die a b asc n w) :=
  cacheOnly_foldl _ (fun h _ => cacheOnly_foldl _ (fun h _ => cacheOnly_countDie h _ _ _ _) _ h) _ h

theorem cacheOnly_sliceLookup (h : Hw) (die p line : Nat) (w : Bool) : CacheOnly h (h.sliceLookup die p line w) :=
  ((cacheOnly_countRing h _ _ _ _ _ _).trans (cacheOnly_countRing _ _ _ _ _ _ _)).trans (cacheOnly_countDie _ _ _ _ _)

/-! Domains. -/

theorem cacheOnly_recordWake (h : Hw) (die src nn d : Nat) : CacheOnly h (h.recordWake die src nn d) := by
  unfold Hw.recordWake
  extract_lets v last hist
  refine cacheOnly_iteP _ (cacheOnly_iteP _ (cacheOnly_setReg h _ _ _ _ _) (CacheOnly.refl h)) ?_
  exact ((cacheOnly_foldl _ (fun x i => cacheOnly_setReg x _ _ _ _ _) _ h).trans (cacheOnly_setReg hist _ _ _ _ _)).trans (cacheOnly_setReg _ _ _ _ _ _)

theorem cacheOnly_wakeBase (h : Hw) (die nn : Nat) : CacheOnly h (h.wakeBase die nn).1 := by
  unfold Hw.wakeBase
  extract_lets c k role
  split
  · exact CacheOnly.refl h
  · split
    · have a : CacheOnly h { h with domGoal := put h.domGoal k (if c = 3 then 8 else 0) } := .of h.cores h.cdies h.msgs h.toks h.rsps h.tokWait h.regs h.raises h.mtrx _ rfl
      exact a.trans (cacheOnly_setFld _ _ _ _ _ _ _)
    · split
      · exact .of h.cores h.cdies h.msgs h.toks h.rsps h.tokWait h.regs h.raises h.mtrx _ rfl
      · exact CacheOnly.refl h

theorem cacheOnly_coreWake (h : Hw) (die p stop : Nat) : CacheOnly h (h.coreWake die p stop) := by
  unfold Hw.coreWake
  split
  · have a := cacheOnly_wakeBase h die p
    simp only
    split
    · exact (a.trans (cacheOnly_recordWake _ _ _ _ _)).trans (cacheOnly_wakeBase _ _ _)
    · exact a
  · exact CacheOnly.refl h

/-! The caches of a die. -/

theorem cacheOnly_coreLosesLine (h : Hw) (die p line : Nat) : CacheOnly h (h.coreLosesLine die p line) := by
  refine cacheOnly_foldl _ (fun h t => ?_) _ h
  split
  · split
    · exact cacheOnly_onThread h t _ (fun _ => rfl)
    · exact CacheOnly.refl h
  · exact CacheOnly.refl h

theorem cacheOnly_sendGiveUp (h : Hw) (op : MsgOp) (die line : Nat) : CacheOnly h (h.sendGiveUp op die line) := by
  unfold Hw.sendGiveUp
  extract_lets m h0
  have a : CacheOnly h h0 := cacheOnly_ite _ (cacheOnly_countDie _ _ _ _ _) (CacheOnly.refl h)
  exact cacheOnly_ite _ (a.trans (cacheOnly_onCDie _ _ _)) ((a.trans (cacheOnly_onCDie _ _ _)).trans (cacheOnly_send _ _))

theorem cacheOnly_dieGiveUp (h : Hw) (die line : Nat) : CacheOnly h (h.dieGiveUp die line) := by
  unfold Hw.dieGiveUp
  extract_lets st h1
  refine cacheOnly_ite _ (CacheOnly.refl h) (CacheOnly.trans ?_ (cacheOnly_onCDie h1 die _))
  show CacheOnly h (match st with | .M => _ | .E => _ | .F => _ | .S => _ | .I => _)
  cases st
  · exact CacheOnly.refl h
  · exact CacheOnly.refl h
  · exact cacheOnly_sendGiveUp h _ _ _
  · exact cacheOnly_sendGiveUp h _ _ _
  · exact cacheOnly_sendGiveUp h _ _ _

theorem cacheOnly_dcTrim (h : Hw) (die line : Nat) : CacheOnly h (h.dcTrim die line) := by
  unfold Hw.dcTrim
  split
  · exact cacheOnly_dieGiveUp h die _
  · exact CacheOnly.refl h

theorem cacheOnly_fillsBad (h : Hw) (die p line : Nat) : CacheOnly h (h.fillsBad die p line) := cacheOnly_onCore h _ _

theorem cacheOnly_l2Drop (h : Hw) (die p line : Nat) : CacheOnly h (h.l2Drop die p line) := by
  unfold Hw.l2Drop
  extract_lets dirty h1 h2 h3
  have a : CacheOnly h h3 := ((cacheOnly_onCore h _ _).trans (cacheOnly_onCDie h1 _ _)).trans (cacheOnly_coreLosesLine h2 _ _ _)
  exact cacheOnly_ite _ (cacheOnly_ite _ (a.trans (cacheOnly_dieGiveUp _ _ _)) (a.trans (cacheOnly_dcTrim _ _ _))) a

theorem cacheOnly_l2DropOthers (h : Hw) (die line : Nat) (keep : Option Nat) : CacheOnly h (h.l2DropOthers die line keep) := by
  refine cacheOnly_foldl _ (fun h p => ?_) _ h
  refine cacheOnly_iteP _ (CacheOnly.refl h) ?_
  exact ((cacheOnly_coreWake h die p _).trans (cacheOnly_fillsBad _ die p line)).trans (cacheOnly_l2Drop _ die p line)

theorem cacheOnly_countRecalls (h : Hw) (die line : Nat) (keep : Option Nat) (w : Bool) : CacheOnly h (h.countRecalls die line keep w) :=
  cacheOnly_foldl _ (fun h _ => cacheOnly_countDie h _ _ _ _) _ h

theorem cacheOnly_l2Share (h : Hw) (die line : Nat) : CacheOnly h (h.l2Share die line) := by
  refine cacheOnly_foldl _ (fun h p => ?_) _ h
  extract_lets st h1 h2
  have a : CacheOnly h h1 := (cacheOnly_coreWake h die p _).trans (cacheOnly_onCore _ _ _)
  have b : CacheOnly h h2 := cacheOnly_ite _ (a.trans (cacheOnly_onCDie h1 _ _)) a
  exact cacheOnly_ite _ (b.trans (cacheOnly_coreLosesLine _ _ _ _)) (CacheOnly.refl h)

theorem cacheOnly_dieSet (h : Hw) (die line : Nat) (st : LState) : CacheOnly h (h.dieSet die line st) :=
  (cacheOnly_onCDie h die _).trans (cacheOnly_dcTrim _ _ _)

theorem cacheOnly_sfRecord (h : Hw) (die p line : Nat) (w : Bool) : CacheOnly h (h.sfRecord die p line w) := by
  unfold Hw.sfRecord
  extract_lets h1
  have a : CacheOnly h h1 := cacheOnly_onCDie h die _
  split
  · exact (a.trans (cacheOnly_countDie h1 _ _ _ _)).trans (cacheOnly_l2DropOthers _ _ _ _)
  · exact a

theorem cacheOnly_l2Install (h : Hw) (die p line : Nat) (st : LState) (w : Bool) : CacheOnly h (h.l2Install die p line st w) := by
  unfold Hw.l2Install
  extract_lets key h1
  have a : CacheOnly h h1 := (cacheOnly_onCore h key _).trans (cacheOnly_sfRecord _ die p line w)
  refine cacheOnly_ite _ (CacheOnly.refl h) ?_
  split
  · exact a.trans (cacheOnly_l2Drop h1 _ _ _)
  · exact a

theorem cacheOnly_l1dInstall (h : Hw) (die p line vset : Nat) (st : LState) : CacheOnly h (h.l1dInstall die p line vset st) := by
  unfold Hw.l1dInstall
  extract_lets key h1
  have a : CacheOnly h h1 := cacheOnly_onCore h key _
  refine cacheOnly_ite _ (CacheOnly.refl h) ?_
  split
  · exact (a.trans (cacheOnly_onCore h1 key _)).trans (cacheOnly_coreLosesLine _ _ _ _)
  · exact a

theorem cacheOnly_l1iInstall (h : Hw) (die p line vset : Nat) : CacheOnly h (h.l1iInstall die p line vset) := by
  unfold Hw.l1iInstall
  extract_lets key h1
  have a : CacheOnly h h1 := cacheOnly_onCore h key _
  refine cacheOnly_ite _ (CacheOnly.refl h) ?_
  split
  · exact a.trans (cacheOnly_onCore h1 key _)
  · exact a

theorem cacheOnly_park (h : Hw) (die : Nat) (m : Msg) : CacheOnly h (h.park die m) :=
  cacheOnly_ite _ (CacheOnly.refl h) (cacheOnly_onCDie h die _)

theorem cacheOnly_dieRequest (h : Hw) (op : MsgOp) (die p line part : Nat) (w : Bool) : CacheOnly h (h.dieRequest op die p line part w) := by
  unfold Hw.dieRequest
  extract_lets m
  refine cacheOnly_ite _ (CacheOnly.refl h) (cacheOnly_ite _ (cacheOnly_park h die m) ?_)
  exact ((cacheOnly_countDie h _ _ _ _).trans (cacheOnly_onCDie _ _ _)).trans (cacheOnly_send _ m)

theorem cacheOnly_dieForward (h : Hw) (die p line part : Nat) (w : Bool) : CacheOnly h (h.dieForward die p line part w) := by
  unfold Hw.dieForward
  extract_lets m
  exact cacheOnly_ite _ (cacheOnly_park h die m) ((cacheOnly_countDie h _ _ _ _).trans (cacheOnly_send _ m))

/-! The fill buffers of a core. -/

theorem cacheOnly_sliceRead (h : Hw) (t line : Nat) : CacheOnly h (h.sliceRead t line).1 := by
  unfold Hw.sliceRead
  extract_lets die p w h1
  have a : CacheOnly h h1 := cacheOnly_sliceLookup h die p line w
  split
  · exact ((a.trans (cacheOnly_countRecalls h1 _ _ _ _)).trans (cacheOnly_l2Share _ _ _)).trans (cacheOnly_sfRecord _ _ _ _ _)
  · exact ((a.trans (cacheOnly_countRecalls h1 _ _ _ _)).trans (cacheOnly_l2DropOthers _ _ _ _)).trans (cacheOnly_dieRequest _ _ _ _ _ _ _)

theorem cacheOnly_addFill (h : Hw) (e : FillEnt) : CacheOnly h (h.addFill e) := by
  unfold Hw.addFill
  extract_lets t die p put r h1 merged
  have hp : ∀ x b, CacheOnly x (put x b) := fun x b => cacheOnly_onCore x _ _
  have a : CacheOnly h h1 := cacheOnly_sliceLookup h _ _ _ _
  refine cacheOnly_ite _ ((cacheOnly_sliceRead h t e.line).trans (hp _ _)) (cacheOnly_ite _ (a.trans (hp _ _)) (CacheOnly.trans (a.trans ?_) (hp _ _)))
  exact cacheOnly_ite _ (CacheOnly.refl h1) (cacheOnly_dieForward h1 _ _ _ _ _)

theorem cacheOnly_installWalks (h : Hw) (t : Nat) (b : Option Nat) : CacheOnly h (h.installWalks t b) := by
  unfold Hw.installWalks
  extract_lets x due w p set ents h1
  refine cacheOnly_ite _ (CacheOnly.refl h) ?_
  have a : CacheOnly h h1 := cacheOnly_onCore h _ _
  refine a.trans (cacheOnly_onThread h1 t _ ?_)
  intro _
  rfl

theorem cacheOnly_walksDone (h : Hw) (t : Nat) : CacheOnly h (h.walksDone t) :=
  cacheOnly_ite _ (cacheOnly_installWalks h t none) (CacheOnly.refl h)

theorem cacheOnly_prefetched (h : Hw) (die p line : Nat) (w : Bool) : CacheOnly h (h.prefetched die p line w) :=
  (cacheOnly_onCore h _ _).trans (cacheOnly_l2Install _ _ _ _ _ _)

theorem cacheOnly_prefetch (h : Hw) (t line l : Nat) (f : Bool) : CacheOnly h (h.prefetch t line l f) := by
  unfold Hw.prefetch
  extract_lets die p c h1 r
  have a : CacheOnly h r.1 := ((h.count_counted t 0x0040).cacheOnly).trans (cacheOnly_sliceRead h1 t l)
  exact cacheOnly_ite _ (CacheOnly.refl h) (cacheOnly_ite _ (a.trans (cacheOnly_prefetched _ _ _ _ _)) (a.trans (cacheOnly_onCore _ _ _)))

theorem cacheOnly_train (h : Hw) (t line : Nat) (pc : W64) (f m : Bool) : CacheOnly h (h.train t line pc f m) := by
  unfold Hw.train
  extract_lets die p on c st h0 h1 sm depth h0' h2
  refine cacheOnly_ite _ (CacheOnly.refl h) (cacheOnly_ite _ (cacheOnly_ite _ (cacheOnly_prefetch _ _ _ _ _) (CacheOnly.refl h)) ?_)
  have b0 : CacheOnly h h0 := cacheOnly_onCore h _ _
  have a1 : CacheOnly h h1 := by
    refine cacheOnly_ite _ (CacheOnly.refl h) ?_
    split
    · exact b0.trans (cacheOnly_prefetch h0 _ _ _ _)
    · exact b0
  have b1 : CacheOnly h h0' := a1.trans (cacheOnly_onCore h1 _ _)
  have a2 : CacheOnly h h2 :=
    cacheOnly_ite _ a1 (cacheOnly_ite _ (b1.trans (cacheOnly_foldl _ (fun h i => cacheOnly_prefetch h t line (line + 1 + i) false) _ h0')) b1)
  exact cacheOnly_ite _ a1 (cacheOnly_ite _ (a2.trans (cacheOnly_prefetch h2 _ _ _ _)) a2)

theorem cacheOnly_flushQ (h : Hw) (t : Nat) : CacheOnly h (h.flushQ t) := by
  unfold Hw.flushQ
  extract_lets x h1
  refine cacheOnly_ite _ (CacheOnly.refl h) (CacheOnly.trans ?_ (cacheOnly_installWalks h1 t none))
  refine cacheOnly_ite _ (CacheOnly.refl h) ?_
  have a : CacheOnly h (h.onThread t (fun x => { x with evq := [], trainq := [], lseq := 0 })) := cacheOnly_onThread h t _ (fun _ => rfl)
  exact (a.trans ((Hw.counts_counted _ t _).cacheOnly)).trans (cacheOnly_onCore _ _ _)

theorem cacheOnly_installFill (h : Hw) (e : FillEnt) : CacheOnly h (h.installFill e) := by
  unfold Hw.installFill
  extract_lets die p cur st h2
  have a : CacheOnly h h2 := cacheOnly_l2Install h _ _ _ _ _
  refine cacheOnly_ite _ (CacheOnly.refl h) (cacheOnly_ite _ (cacheOnly_l2Drop h _ _ _) (cacheOnly_ite _ a ?_))
  exact cacheOnly_ite _ (a.trans (cacheOnly_l1iInstall h2 _ _ _ _)) (a.trans (cacheOnly_l1dInstall h2 _ _ _ _ _))

theorem cacheOnly_hitTouch (h : Hw) (e : FillEnt) : CacheOnly h (h.hitTouch e) := by
  unfold Hw.hitTouch
  extract_lets die p key c
  refine cacheOnly_iteP _ (cacheOnly_onCore h _ _) ?_
  split
  · rename_i st _
    have a : CacheOnly h (h.onCore key (fun c => { c with l2 := mruPut c.l2 e.line st })) := cacheOnly_onCore h _ _
    exact cacheOnly_ite _ a (cacheOnly_ite _ (a.trans (cacheOnly_l1iInstall _ _ _ _ _)) (a.trans (cacheOnly_l1dInstall _ _ _ _ _ _)))
  · exact CacheOnly.refl h

/-- What the retirement of one load or fetch can change. -/
theorem cacheOnly_retireUse (h : Hw) (e : FillEnt) (u : FillUse) : CacheOnly h (h.retireUse e u) := by
  unfold Hw.retireUse
  extract_lets t left h1 h2 h3 h4 h5
  have a1 : CacheOnly h h1 := cacheOnly_onCore h _ _
  have a2 : CacheOnly h h2 := cacheOnly_iteP _ (a1.trans (cacheOnly_installFill h1 _)) (a1.trans (cacheOnly_hitTouch h1 _))
  have a3 : CacheOnly h h3 := cacheOnly_ite _ ((a2.trans (cacheOnly_onCore h2 _ _)).trans (Hw.count_counted _ _ _).cacheOnly) a2
  have a4 : CacheOnly h h4 := cacheOnly_ite _ (a3.trans (Hw.count_counted h3 _ _).cacheOnly) a3
  have a5 : CacheOnly h h5 := cacheOnly_ite _ a4 (a4.trans (cacheOnly_train h4 _ _ _ _ _))
  split
  · exact a5.trans (cacheOnly_installWalks h5 _ _)
  · exact a5.trans (cacheOnly_flushQ h5 _)

theorem cacheOnly_setFill (h : Hw) (e : FillEnt) (g : FillEnt → FillEnt) : CacheOnly h (h.setFill e g) := cacheOnly_onCore h _ _

theorem cacheOnly_retireAll (h : Hw) (t : Nat) : CacheOnly h (retireAll h t) := by
  refine cacheOnly_foldl _ (fun h _ => ?_) _ h
  split
  · exact cacheOnly_retireUse _ _ _
  · exact CacheOnly.refl h

/-! Stores that an agent owns. -/

/-- Bytes reach memory, and the rest is what caches can change. -/
theorem storeOwned_mem (h : Hw) (t line vset : Nat) (bs : List (Nat × Byte)) :
    (h.storeOwned t line vset bs).mem = (if has (h.cdie (dieOfThread t)).stale line then h else h.writeCells bs).mem := by
  unfold Hw.storeOwned
  extract_lets die p w h1 h2 h3
  split
  · rfl
  · have g : ∀ (l : List (Nat × Byte)) (a b : Hw), a.mem = b.mem → (a.writeCells l).mem = (b.writeCells l).mem := by
      intro l
      induction l with
      | nil => intro a b e; exact e
      | cons c r ih =>
        intro a b e
        refine ih _ _ ?_
        show memSets a.mem _ _ = memSets b.mem _ _
        rw [e]
    have e1 : h1.mem = (h.writeCells bs).mem :=
      g bs _ _ ((cacheOnly_countRecalls h die line (some p) w).trans (cacheOnly_l2DropOthers _ die line (some p))).mem
    have e2 : h2.mem = h1.mem := ((cacheOnly_dieSet h1 die line .M).trans (cacheOnly_l2Install _ die p line .M w)).mem
    have e3 : h3.mem = h1.mem := (cacheOnly_l1dInstall h2 die p line vset .M).mem.trans e2
    split
    · rw [(cacheOnly_dieGiveUp h3 die line).mem, e3, e1]
    · rw [e3, e1]

end Sys2Proof.Machine
end

