-- ==== Sys2Proof/Laws/Fetch.lean ====
section
/-! SUPPORT. What a walk and a fetch leave of the threads: the registers and the state that software sees stay as they were (R61, R62). -/

namespace Sys2Proof.Machine

/-! Walks. -/

theorem keptAll_orPte (h : Hw) (pa b : Nat) : KeptAll h (orPte h pa b) := keptAll_writeMem h pa _

theorem keptAll_setDs (l : List Nat) (h : Hw) : KeptAll h (setDs h l) := keptAll_foldl _ (fun h pa => keptAll_orPte h pa 11) l h

theorem keptAll_notePtr (h : Hw) (c : Ctx) (s2 : Bool) (pa : Nat) (e : W64) : KeptAll h (notePtr h c s2 pa e) := by
  unfold notePtr
  split
  · split
    · exact keptAll_onThread _ _ _ (fun _ => rfl)
    · exact KeptAll.refl h
  · exact KeptAll.refl h

theorem keptAll_passPte (h : Hw) (c : Ctx) (s2 : Bool) (pa : Nat) (e : W64) (hwad : Bool) : KeptAll h (passPte h c s2 pa e hwad) := by
  unfold passPte
  split
  · exact (keptAll_orPte h pa 10).trans (keptAll_notePtr _ _ _ _ _)
  · exact keptAll_notePtr _ _ _ _ _

theorem keptAll_walkTouch (h : Hw) (t pa : Nat) (w : Bool) : KeptAll h (h.walkTouch t pa w).1 := by
  unfold Hw.walkTouch
  extract_lets x line behind st hit u e
  have a1 : KeptAll h (h.setFill e (fun f => { f with uses := f.uses ++ [u] })) := (cacheOnly_setFill h e _).kept
  have a2 : KeptAll h (h.onCore (h.coreKeyOf t) (fun c => { c with fills := c.fills ++ [e] })) := (cacheOnly_onCore h _ _).kept
  split
  · show KeptAll h (if behind then _ else h)
    split
    · exact a1
    · exact KeptAll.refl h
  · split
    · show KeptAll h (if behind then _ else h.hitTouch e)
      split
      · exact a2
      · exact (cacheOnly_hitTouch h e).kept
    · split
      · exact KeptAll.refl h
      · exact (cacheOnly_addFill h e).kept

theorem kept_readPte {h : Hw} {c : Ctx} {lvl pa : Nat} {v : Hw × W64} (q : readPte h c lvl pa = .ok v) : KeptAll h v.1 := by
  unfold readPte at q
  extract_lets w at q
  split at q
  · cases q
  · split at q
    · cases q
    · split at q
      · cases q
      · split at q
        · rename_i t _
          split at q
          · cases q
          · extract_lets r at q
            split at q
            · cases q
            · cases q; exact keptAll_walkTouch h t pa c.waits
        · split at q
          · cases q
          · cases q; exact (cacheOnly_send h _).kept

theorem kept_readPteC {h : Hw} {c : Ctx} {wc : List WalkEnt} {s2 st : Bool} {lvl pa : Nat} {v : Hw × W64}
    (q : readPteC h c wc s2 st lvl pa = .ok v) : KeptAll h v.1 := by
  unfold readPteC at q
  split at q
  · split at q
    · exact kept_readPte q
    · cases q; exact KeptAll.refl h
  · exact kept_readPte q

theorem kept_psWalk {c : Ctx} {wc : List WalkEnt} {ia : Nat} {table st : Bool} : ∀ {lvl base : Nat} {h : Hw} {v : Hw × PsLeaf},
    psWalk c wc ia table st lvl base h = .ok v → KeptAll h v.1 := by
  have go : ∀ (lvl : Nat), (∀ j, lvl = j + 1 → ∀ {base : Nat} {h : Hw} {v : Hw × PsLeaf}, psWalk c wc ia table st j base h = .ok v → KeptAll h v.1) →
      ∀ {base : Nat} {h : Hw} {v : Hw × PsLeaf}, psWalk c wc ia table st lvl base h = .ok v → KeptAll h v.1 := by
    intro lvl ih base h v q
    unfold psWalk at q
    extract_lets idx pa at q
    split at q
    · cases q
    · rename_i k e w
      have a : KeptAll h k := kept_readPteC w
      split at q
      · cases q
      · split at q
        · cases q
        · split at q
          · cases q; exact a
          · extract_lets h2 at q
            have b : KeptAll h h2 := a.trans (keptAll_passPte k _ _ _ _ _)
            split at q
            · cases q
            · exact b.trans (ih _ rfl q)
  intro lvl
  induction lvl with
  | zero => exact go 0 (fun j e => by cases e)
  | succ n ih => exact go (n + 1) (fun j e => by cases e; exact ih)

theorem kept_psTranslate {c : Ctx} {wc : List WalkEnt} {ia : Nat} {acc : Acc} {tb : Bool} {h : Hw} {v : Hw × Nat × PsLeaf × List Nat}
    (q : psTranslate c wc ia acc tb h = .ok v) : KeptAll h v.1 := by
  unfold psTranslate at q
  split at q
  · cases q
  · rename_i k l w
    have a : KeptAll h k := kept_psWalk w
    extract_lets ok needD sh at q
    split at q
    · cases q
    · split at q
      · cases q
      · cases q; exact a.trans (keptAll_passPte k _ _ _ _ _)

theorem kept_s1EntryPa {c : Ctx} {wc : List WalkEnt} {ea : Nat} {h : Hw} {v : Hw × Nat} (q : s1EntryPa c wc ea h = .ok v) : KeptAll h v.1 := by
  unfold s1EntryPa at q
  split at q
  · cases q; exact KeptAll.refl h
  · split at q
    · cases q
    · rename_i k pa l d w
      have a : KeptAll h k := kept_psTranslate w
      split at q
      · cases q
      · cases q; exact a

theorem kept_s1ModCheck {c : Ctx} {wc : List WalkEnt} {ia : Nat} {h : Hw} {v : Hw × List Nat} (q : s1ModCheck c wc ia h = .ok v) : KeptAll h v.1 := by
  unfold s1ModCheck at q
  split at q
  · cases q; exact KeptAll.refl h
  · split at q
    · cases q
    · rename_i k pa l d w
      have a : KeptAll h k := kept_psTranslate w
      cases q; exact a

theorem kept_s1Pass {c : Ctx} {wc : List WalkEnt} {ia pa : Nat} {e : W64} {h k : Hw} (q : s1Pass c wc ia pa e h = .ok k) : KeptAll h k := by
  unfold s1Pass at q
  split at q
  · split at q
    · cases q
    · rename_i m ds w
      have a : KeptAll h m := kept_s1ModCheck w
      cases q; exact (a.trans (keptAll_setDs ds m)).trans (keptAll_passPte _ _ _ _ _ _)
  · cases q; exact keptAll_passPte h _ _ _ _ _

theorem kept_s1Walk {c : Ctx} {wc : List WalkEnt} {va : Nat} : ∀ {lvl base : Nat} {h : Hw} {v : Hw × S1Leaf},
    s1Walk c wc va lvl base h = .ok v → KeptAll h v.1 := by
  have go : ∀ (lvl : Nat), (∀ j, lvl = j + 1 → ∀ {base : Nat} {h : Hw} {v : Hw × S1Leaf}, s1Walk c wc va j base h = .ok v → KeptAll h v.1) →
      ∀ {base : Nat} {h : Hw} {v : Hw × S1Leaf}, s1Walk c wc va lvl base h = .ok v → KeptAll h v.1 := by
    intro lvl ih base h v q
    unfold s1Walk at q
    extract_lets ea at q
    split at q
    · cases q
    · rename_i h1 pa w1
      have a1 : KeptAll h h1 := kept_s1EntryPa w1
      split at q
      · cases q
      · rename_i h2 e w2
        have a2 : KeptAll h h2 := a1.trans (kept_readPteC w2)
        split at q
        · cases q
        · split at q
          · cases q
          · split at q
            · cases q; exact a2
            · split at q
              · cases q
              · rename_i h3 w3
                have a3 : KeptAll h h3 := a2.trans (kept_s1Pass w3)
                split at q
                · cases q
                · exact a3.trans (ih _ rfl q)
  intro lvl
  induction lvl with
  | zero => exact go 0 (fun j e => by cases e)
  | succ n ih => exact go (n + 1) (fun j e => by cases e; exact ih)

theorem kept_stage1 {c : Ctx} {wc : List WalkEnt} {va : Nat} {acc : Acc} {h : Hw} {v : Hw × S1Leaf × List Nat}
    (q : stage1 c wc va acc h = .ok v) : KeptAll h v.1 := by
  unfold stage1 at q
  split at q
  · cases q
  · rename_i h1 l w
    have a : KeptAll h h1 := kept_s1Walk w
    extract_lets needD upd at q
    split at q
    · cases q
    · split at q
      · cases q
      · split at q
        · cases q
        · rename_i h2 ds w2
          have b : KeptAll h h2 := by
            revert w2
            split
            · intro w2; exact a.trans (kept_s1ModCheck w2)
            · intro w2; cases w2; exact a
          cases q
          show KeptAll h (if _ then _ else h2)
          split
          · exact (b.trans (keptAll_setDs ds h2)).trans (keptAll_orPte _ _ _)
          · exact b

theorem kept_walkEnd {c : Ctx} {va : Nat} {acc : Acc} {l1 : Option S1Leaf} {l2 : Option PsLeaf} {pa : Nat} {ds : List Nat} {h : Hw} {v : Hw × XRes}
    (q : walkEnd c va acc l1 l2 pa ds h = .ok v) : v.1 = h := by
  unfold walkEnd at q
  extract_lets eff at q
  split at q
  · cases q
  · cases q; rfl

theorem kept_walkPart {c : Ctx} {wc : List WalkEnt} {va ia : Nat} {acc : Acc} {l1 : Option S1Leaf} {ds : List Nat} {h : Hw} {v : Hw × XRes}
    (q : walkPart c wc va ia acc l1 ds h = .ok v) : KeptAll h v.1 := by
  unfold walkPart at q
  split at q
  · split at q
    · cases q
    · rename_i k pa l d w
      have a : KeptAll h k := kept_psTranslate w
      rw [kept_walkEnd q]; exact a
  · rw [kept_walkEnd q]; exact KeptAll.refl h

theorem kept_walkAll {c : Ctx} {wc : List WalkEnt} {va : Nat} {acc : Acc} {h : Hw} {v : Hw × XRes}
    (q : walkAll c wc va acc h = .ok v) : KeptAll h v.1 := by
  unfold walkAll at q
  split at q
  · split at q
    · cases q
    · rename_i k l ds w
      have a : KeptAll h k := kept_stage1 w
      exact a.trans (kept_walkPart q)
  · exact kept_walkPart q

/-- A translation keeps every thread. -/
theorem kept_translate {c : Ctx} {es : List TlbEnt} {wc : List WalkEnt} {va : W64} {acc : Acc} {h : Hw} {v : Hw × XRes}
    (q : translate c es wc va acc h = .ok v) : KeptAll h v.1 := by
  unfold translate at q
  extract_lets w eff at q
  split at q
  · cases q
  · split at q
    · split at q
      · cases q; exact KeptAll.refl h
      · cases q
    · split at q
      · exact kept_walkAll q
      · split at q
        · cases q; exact KeptAll.refl h
        · exact kept_walkAll q
      · simp only at q
        split at q
        · cases q; exact fun _ => rfl
        · exact KeptAll.trans (k := (h.fresh 16).2) (fun _ => rfl) (kept_walkAll q)

/-! Fetches. -/

theorem kept_xlate {h : Hw} {t : Nat} {c : Ctx} {va : W64} {acc : Acc} {v : Hw × XRes} (q : xlate h t c va acc = .ok v) : KeptAll h v.1 := by
  unfold xlate at q
  extract_lets core at q
  split at q
  · cases q
  · rename_i h1 r w
    have a : KeptAll h h1 := kept_translate w
    split at q
    · cases q; exact a.trans (keptAll_onThread h1 _ _ (fun _ => rfl))
    · cases q; exact a

theorem kept_xlateT {h : Hw} {t : Nat} {va : W64} {acc : Acc} {v : Hw × XRes} (q : xlateT h t va acc = .ok v) : KeptAll h v.1 := by
  unfold xlateT at q
  split at q
  · rename_i w; cases q; exact kept_xlate w
  · cases q

theorem cacheOnly_fetchFill (h : Hw) (t pa : Nat) (va : W64) : CacheOnly h (h.fetchFill t pa va) := by
  unfold Hw.fetchFill
  extract_lets x behind st line hit u e
  split
  · exact cacheOnly_ite _ (cacheOnly_setFill h e _) (CacheOnly.refl h)
  · split
    · exact cacheOnly_hitTouch h e
    · split
      · exact cacheOnly_onCore h _ _
      · exact cacheOnly_addFill h e

theorem cacheOnly_fetchLine {h k : Hw} {t : Nat} {r : XRes} {va : W64} (q : fetchLine h t r va = .ok k) : CacheOnly h k := by
  unfold fetchLine at q
  split at q
  · split at q
    · cases q
    · cases q; exact cacheOnly_fetchFill h _ _ _
  · split at q
    · cases q; exact CacheOnly.refl h
    · cases q

theorem kept_fetchWord {h k : Hw} {t : Nat} {va : W64} (q : fetchWord h t va = .ok k) : KeptAll h k := by
  unfold fetchWord at q
  split at q
  · cases q
  · split at q
    · cases q
    · rename_i h1 r w
      have a : KeptAll h h1 := kept_xlateT w
      extract_lets h2 at q
      have b : KeptAll h h2 := a.trans (keptAll_setDs _ _)
      split at q
      · cases q
      · split at q
        · rename_i h3 w3
          cases q; exact b.trans (cacheOnly_fetchLine w3).kept
        · cases q

theorem cacheOnly_retireFetches (h : Hw) (t : Nat) : CacheOnly h (h.retireFetches t) := by
  unfold Hw.retireFetches
  extract_lets done c h1
  have a : CacheOnly h h1 := cacheOnly_ite _ (cacheOnly_onCore h _ _) (CacheOnly.refl h)
  exact a.trans (cacheOnly_foldl _ (fun h f => cacheOnly_retireUse h _ _) _ h1)

/-- A fetch changes nothing that software sees of any thread. -/
theorem kept_fetchAll {h k : Hw} {t w : Nat} (q : fetchAll h t w = .ok k) : KeptAll h k := by
  unfold fetchAll at q
  extract_lets h1 pc at q
  have a : KeptAll h h1 := (cacheOnly_ite _ (cacheOnly_retireFetches h t) (CacheOnly.refl h)).kept
  split at q
  · cases q
  · rename_i h2 w2
    have b : KeptAll h h2 := a.trans (kept_fetchWord w2)
    split at q
    · exact b.trans (kept_fetchWord q)
    · cases q; exact b

theorem Ready.kept {h f : Hw} {t w : Nat} (r : Ready h t w f) (n : Nat) : (h.thread n).FetchKept (f.thread n) := kept_fetchAll r.fetch n

end Sys2Proof.Machine
end

