-- ==== Sys2Proof/Laws/Instr.lean ====
section
/-! SUPPORT. What issuing an instruction does once its thread is ready: the instruction's own work on the fetched package, or the trap of its cause; and what retirement does. -/

namespace Sys2Proof.Machine

theorem asyncNow_none (h : Hw) (t : Nat) (e : (h.thread t).pick = none) : h.asyncNow t = none := by
  simp [Hw.asyncNow, e]

/-- A ready instruction does its work on the fetched package. -/
theorem runInstr_ok {h f k : Hw} {t w : Nat} {body : Hw → Exe} (r : Ready h t w f) (b : body (f.fetched t) = .ok k) : runInstr t w body h = k := by
  simp [runInstr, r.fetch, b]

/-- One whose work finds a cause takes its trap, with its own walks dropped. -/
theorem runInstr_trap {h f k : Hw} {t w : Nat} {body : Hw → Exe} {c : Cause} (r : Ready h t w f) (b : body (f.fetched t) = .error (k, c)) (z : c.code ≠ 0) :
    runInstr t w body h = syncTrap (k.dropWalks t (h.thread t)) t c := by
  simp [runInstr, r.fetch, b, z]

theorem issueSettled_ready {h f : Hw} {t w : Nat} {body : Hw → Exe} (r : Ready h t w f) : issueSettled t w body h = runInstr t w body h := by
  simp [issueSettled, r.runs, asyncNow_none h t r.quiet, settleAll, r.settled, retireAll]

theorem issue_ready {h f : Hw} {t w : Nat} {body : Hw → Exe} (r : Ready h t w f) : issue t w body h = runInstr t w body h := by
  unfold issue
  split
  · rfl
  · exact issueSettled_ready r

/-- A ready instruction whose work succeeds leaves what its work leaves. -/
theorem issue_ok {h f k : Hw} {t w : Nat} {body : Hw → Exe} (r : Ready h t w f) (b : body (f.fetched t) = .ok k) : issue t w body h = k := by
  rw [issue_ready r, runInstr_ok r b]

theorem issueSettled_ok {h f k : Hw} {t w : Nat} {body : Hw → Exe} (r : Ready h t w f) (b : body (f.fetched t) = .ok k) : issueSettled t w body h = k := by
  rw [issueSettled_ready r, runInstr_ok r b]

/-- A ready instruction whose work finds a cause takes the trap. -/
theorem issue_trap {h f k : Hw} {t w : Nat} {body : Hw → Exe} {c : Cause} (r : Ready h t w f) (b : body (f.fetched t) = .error (k, c)) (z : c.code ≠ 0) :
    issue t w body h = syncTrap (k.dropWalks t (h.thread t)) t c := by
  rw [issue_ready r, runInstr_trap r b z]

theorem issueSettled_trap {h f k : Hw} {t w : Nat} {body : Hw → Exe} {c : Cause} (r : Ready h t w f) (b : body (f.fetched t) = .error (k, c)) (z : c.code ≠ 0) :
    issueSettled t w body h = syncTrap (k.dropWalks t (h.thread t)) t c := by
  rw [issueSettled_ready r, runInstr_trap r b z]

/-- Retirement leaves the thread past the instruction, but for counters, and then its walks enter the TLBs. -/
theorem retireTo_counted (h : Hw) (t : Nat) (target : W64) (evs : List Nat) :
    ∃ m, Counted t (h.onThread t (fun x => { x.clearProg with pc := target })) m ∧ retireTo h t target evs = m.walksDone t :=
  ⟨_, (h.note_counted t _).onThread _ (fun _ _ _ _ => rfl), rfl⟩

theorem retire_counted (h : Hw) (t len : Nat) (evs : List Nat) :
    ∃ m, Counted t (h.onThread t (fun x => { x.clearProg with pc := x.pc + BitVec.ofNat 64 len })) m ∧ retire h t len evs = m.walksDone t := by
  obtain ⟨m, c, e⟩ := retireTo_counted h t ((h.thread t).pc + BitVec.ofNat 64 len) evs
  exact ⟨m, c, e⟩

/-! What a write of a register leaves of a thread. -/

theorem Thread.writeG_after (x : Thread) (n : Nat) (v next : W64) : (x.after next).writeG n v = (x.writeG n v).after next := by
  unfold Thread.writeG Thread.setBank Thread.after; split <;> [rfl; (split <;> rfl)]

@[simp] theorem Thread.fetched_readG (x : Thread) (b : Bool) (n : Nat) : ({ x with atVector := b } : Thread).readG n = x.readG n := rfl

theorem Thread.FetchKept.readG {x y : Thread} (e : x.FetchKept y) (n : Nat) : y.readG n = x.readG n := by
  rw [e]; rfl

theorem Thread.writeG_retire (x : Thread) (d : Nat) (v n : W64) :
    { (({ x with atVector := false } : Thread).writeG d v).clearProg with pc := (({ x with atVector := false } : Thread).writeG d v).pc + n } =
      (x.after (x.pc + n)).writeG d v := by
  unfold Thread.writeG Thread.setBank Thread.after Thread.clearProg; split <;> [rfl; (split <;> rfl)]

theorem Hw.onThread_eq (h : Hw) (t : Nat) (g : Thread → Thread) : h.onThread t g = h.setThread t (g (h.thread t)) := rfl

theorem Hw.setThread_thread (h : Hw) (t : Nat) (x : Thread) : (h.setThread t x).thread t = x := by simp

/-! From a meaning to the statement of what it leaves. -/

/-- A ready instruction whose work retires it. -/
theorem retires_of {i : Instr} {s : State} {t w len : Nat} {body : Hw → Exe} {f k : Hw} {evs : List Nat}
    (e : exec i s = s.onHw (issue t w body)) (r : Ready s.hw t w f) (b : body (f.fetched t) = .ok (retire k t len evs)) :
    ∃ u, exec i s = .next u ∧ Retires s u t k { (k.thread t).clearProg with pc := (k.thread t).pc + BitVec.ofNat 64 len } := by
  obtain ⟨m, c, q⟩ := retire_counted k t len evs
  exact ⟨_, e, rfl, m, c, (issue_ok r b).trans q⟩

/-- The same of an instruction that waits until its thread's loads are settled. -/
theorem retires_ofSettled {i : Instr} {s : State} {t w len : Nat} {body : Hw → Exe} {f k : Hw} {evs : List Nat}
    (e : exec i s = s.onHw (issueSettled t w body)) (r : Ready s.hw t w f) (b : body (f.fetched t) = .ok (retire k t len evs)) :
    ∃ u, exec i s = .next u ∧ Retires s u t k { (k.thread t).clearProg with pc := (k.thread t).pc + BitVec.ofNat 64 len } := by
  obtain ⟨m, c, q⟩ := retire_counted k t len evs
  exact ⟨_, e, rfl, m, c, (issueSettled_ok r b).trans q⟩

/-- A ready instruction whose work transfers control. -/
theorem retiresTo_of {i : Instr} {s : State} {t w : Nat} {body : Hw → Exe} {f k : Hw} {evs : List Nat} {target : W64}
    (e : exec i s = s.onHw (issue t w body)) (r : Ready s.hw t w f) (b : body (f.fetched t) = .ok (retireTo k t target evs)) :
    ∃ u, exec i s = .next u ∧ Retires s u t k { (k.thread t).clearProg with pc := target } := by
  obtain ⟨m, c, q⟩ := retireTo_counted k t target evs
  exact ⟨_, e, rfl, m, c, (issue_ok r b).trans q⟩

theorem Ready.pc {h f : Hw} {t w : Nat} (r : Ready h t w f) : (f.thread t).pc = (h.thread t).pc := by
  rw [r.kept t]

theorem Ready.readG {h f : Hw} {t w : Nat} (r : Ready h t w f) (n : Nat) : ((f.fetched t).thread t).readG n = (h.thread t).readG n := by
  rw [Hw.fetched, Hw.thread_onThread, if_pos rfl, Thread.fetched_readG, (r.kept t).readG]

/-- A ready instruction that writes one general register. -/
theorem writesG_of {i : Instr} {s : State} {t w len : Nat} {body : Hw → Exe} {f : Hw} {d : RegNum} {v : W64} {evs : List Nat}
    (e : exec i s = s.onHw (issue t w body)) (r : Ready s.hw t w f)
    (b : body (f.fetched t) = .ok (retire ((f.fetched t).setG t d.toNat v) t len evs)) :
    WritesG s i t f d v ((s.hw.thread t).pc + BitVec.ofNat 64 len) := by
  obtain ⟨u, h, h2⟩ := retires_of e r b
  refine ⟨u, h, ?_⟩
  have e1 : (f.fetched t).setG t d.toNat v = f.setThread t (({ f.thread t with atVector := false } : Thread).writeG d.toNat v) := by
    rw [Hw.setG, Hw.fetched, Hw.onThread_eq, Hw.onThread_eq, Hw.setThread_thread, Hw.setThread_setThread]
  rw [e1] at h2
  obtain ⟨p, h2⟩ := h2
  refine ⟨p, ?_⟩
  rw [Hw.setThread_thread, Hw.setThread_setThread, Thread.writeG_retire, r.pc] at h2
  exact h2

/-- A ready instruction whose work changes its thread alone. -/
theorem retires_onThread {i : Instr} {s : State} {t w len : Nat} {body : Hw → Exe} {f : Hw} {g : Thread → Thread} {evs : List Nat}
    (e : exec i s = s.onHw (issue t w body)) (r : Ready s.hw t w f)
    (b : body (f.fetched t) = .ok (retire ((f.fetched t).onThread t g) t len evs)) :
    ∃ u, exec i s = .next u ∧ Retires s u t f
      { (g { f.thread t with atVector := false }).clearProg with pc := (g { f.thread t with atVector := false }).pc + BitVec.ofNat 64 len } := by
  obtain ⟨u, h, p, h2⟩ := retires_of e r b
  refine ⟨u, h, p, ?_⟩
  have e1 : (f.fetched t).onThread t g = f.setThread t (g { f.thread t with atVector := false }) := by
    rw [Hw.fetched, Hw.onThread_eq, Hw.onThread_eq, Hw.setThread_thread, Hw.setThread_setThread]
  rw [e1, Hw.setThread_thread, Hw.setThread_setThread] at h2
  exact h2

/-- The thread of a fetched package, in its own registers. -/
theorem Ready.fetchedThread {h f : Hw} {t w : Nat} (_ : Ready h t w f) : (f.fetched t).thread t = { f.thread t with atVector := false } := by
  simp [Hw.fetched]

theorem traps_of {i : Instr} {s : State} {t w : Nat} {body : Hw → Exe} {f : Hw} {c : Cause}
    (e : exec i s = s.onHw (issue t w body)) (r : Ready s.hw t w f) (b : body (f.fetched t) = .error (f.fetched t, c))
    (z : c.code ≠ 0 := by simp [illegal]) : Traps s i t f c := by
  rw [Traps, e, State.onHw_eq, issue_trap r b z]

/-! Words of the formats: a major opcode other than 0x00 and 0x3F keeps a word from being all zeros or all ones (R99). -/

theorem wordBad_of_major (w : W32) (m : Nat) (e : w.toNat / 2 ^ 26 = m) (h0 : 0 < m) (h1 : m < 63) : wordBad w = false := by
  unfold wordBad
  have a : w ≠ 0 := fun q => by rw [q] at e; simp at e; omega
  have b : w ≠ BitVec.allOnes 32 := fun q => by rw [q] at e; simp at e; omega
  simp only [Bool.or_eq_false_iff, beq_eq_false_iff_ne]
  exact ⟨a, b⟩

theorem major_of (m n : Nat) (h1 : m < 63) (o : n < 2 ^ 26) : (BitVec.ofNat 32 (m <<< 26 ||| n)).toNat / 2 ^ 26 = m := by
  rw [BitVec.toNat_ofNat, Nat.shiftLeft_eq, Nat.mul_comm, ← Nat.two_pow_add_eq_or_of_lt o, Nat.mod_eq_of_lt (by omega)]
  omega

theorem wordR3_ne (m : Nat) (d a b : RegNum) (fn : Nat) (h0 : 0 < m) (h1 : m < 63) : wordBad (wordR3 m d a b fn) = false := by
  refine wordBad_of_major _ m ?_ h0 h1
  have hd := d.isLt; have ha := a.isLt; have hb := b.isLt
  have hf : fn % 2048 < 2048 := Nat.mod_lt _ (by decide)
  have o1 : d.toNat <<< 21 ||| (a.toNat <<< 16 ||| (b.toNat <<< 11 ||| fn % 2048)) < 2 ^ 26 := by
    refine Nat.or_lt_two_pow ?_ (Nat.or_lt_two_pow ?_ (Nat.or_lt_two_pow ?_ ?_)) <;> first | (rw [Nat.shiftLeft_eq]; omega) | omega
  unfold wordR3
  rw [Nat.or_assoc, Nat.or_assoc, Nat.or_assoc]
  exact major_of m _ h1 o1

theorem wordI16_ne (m : Nat) (d a : RegNum) (imm : BitVec 16) (h0 : 0 < m) (h1 : m < 63) : wordBad (wordI16 m d a imm) = false := by
  refine wordBad_of_major _ m ?_ h0 h1
  have hd := d.isLt; have ha := a.isLt; have hi := imm.isLt
  have o1 : d.toNat <<< 21 ||| (a.toNat <<< 16 ||| imm.toNat) < 2 ^ 26 := by
    refine Nat.or_lt_two_pow ?_ (Nat.or_lt_two_pow ?_ ?_) <;> first | (rw [Nat.shiftLeft_eq]; omega) | omega
  unfold wordI16
  rw [Nat.or_assoc, Nat.or_assoc]
  exact major_of m _ h1 o1

/-! Division is the two's complement division of bit vectors but for a zero divisor (R104). -/

theorem divS_eq (x y : W64) : divS x y = if y = 0 then BitVec.allOnes 64 else x.sdiv y := by
  unfold divS
  split
  · rfl
  · apply BitVec.eq_of_toInt_eq
    rw [BitVec.toInt_sdiv, BitVec.toInt_ofInt]

theorem remS_eq (x y : W64) : remS x y = if y = 0 then x else x.srem y := by
  unfold remS
  split
  · rfl
  · apply BitVec.eq_of_toInt_eq
    rw [BitVec.toInt_srem, BitVec.toInt_ofInt, ← BitVec.toInt_srem]
    exact BitVec.toInt_bmod_cancel _

end Sys2Proof.Machine
end

