-- ==== Sys2Proof/Laws/Lanes.lean ====
section
/-! SUPPORT. A lane of a vector built from lanes is the lane it was built from (R87). -/

namespace Sys2Proof.Machine

theorem ofLanes_lt (e : Nat) (l : List Nat) : ofLanes e l < 2 ^ (8 * e * l.length) := by
  induction l with
  | nil => simp [ofLanes]
  | cons x r ih =>
    simp only [ofLanes, List.length_cons, Nat.shiftLeft_eq]
    have h1 : x % 2 ^ (8 * e) < 2 ^ (8 * e) := Nat.mod_lt _ (Nat.two_pow_pos _)
    have h2 : 2 ^ (8 * e * (r.length + 1)) = 2 ^ (8 * e * r.length) * 2 ^ (8 * e) := by rw [← Nat.pow_add]; congr 1
    rw [h2]
    have h3 : (ofLanes e r + 1) * 2 ^ (8 * e) ≤ 2 ^ (8 * e * r.length) * 2 ^ (8 * e) := Nat.mul_le_mul_right _ ih
    rw [Nat.add_mul] at h3
    omega

theorem ofLanes_lane (e : Nat) (l : List Nat) : ∀ i, i < l.length → ofLanes e l / 2 ^ (8 * e * i) % 2 ^ (8 * e) = l.getD i 0 % 2 ^ (8 * e) := by
  induction l with
  | nil => intro i h; simp at h
  | cons x r ih =>
    intro i h
    simp only [ofLanes, Nat.shiftLeft_eq]
    have h1 : x % 2 ^ (8 * e) < 2 ^ (8 * e) := Nat.mod_lt _ (Nat.two_pow_pos _)
    cases i with
    | zero => simp
    | succ j =>
      have h2 : 2 ^ (8 * e * (j + 1)) = 2 ^ (8 * e) * 2 ^ (8 * e * j) := by rw [← Nat.pow_add]; congr 1; ring
      rw [h2, ← Nat.div_div_eq_div_mul, Nat.add_mul_div_right _ _ (Nat.two_pow_pos _), Nat.div_eq_of_lt h1, Nat.zero_add, ih j (by simpa using h)]
      simp

/-- A lane of lanes of 1, 2, 4 or 8 bytes. -/
theorem lane_mkLanes (k : Nat) (hk : k < 4) (f : Nat → Nat) (i : Nat) (hi : i < 64 / 2 ^ k) :
    lane (2 ^ k) (mkLanes (2 ^ k) f) i = f i % 2 ^ (8 * 2 ^ k) := by
  have hl : 8 * 2 ^ k * (64 / 2 ^ k) = 512 := by
    have : k = 0 ∨ k = 1 ∨ k = 2 ∨ k = 3 := by omega
    rcases this with rfl | rfl | rfl | rfl <;> rfl
  have h := ofLanes_lt (2 ^ k) ((List.range (laneCount (2 ^ k))).map f)
  rw [List.length_map, List.length_range, laneCount, hl] at h
  unfold lane mkLanes
  rw [BitVec.toNat_ofNat, laneCount, Nat.mod_eq_of_lt h, Nat.shiftRight_eq_div_pow, ofLanes_lane _ _ _ (by simpa using hi)]
  simp [hi]

theorem lane_lt (e : Nat) (v : V512) (i : Nat) : lane e v i < 2 ^ (8 * e) := Nat.mod_lt _ (Nat.two_pow_pos _)

end Sys2Proof.Machine
end

