-- ==== Sys2Proof/Laws/Outcome.lean ====
section
/-! SUPPORT. Every command is executed: exec answers a next state, never a fault or a refusal. -/

namespace Sys2Proof.Machine

/-- Every command at every state answers a next state whose queue is the one it found: no command stops the block. -/
theorem exec_next (i : Instr) (s : State) : ∃ h : Hw, exec i s = .next { s with hw := h } := by
  cases i
  case pieceEnd n w => cases w <;> exact ⟨_, rfl⟩
  all_goals exact ⟨_, rfl⟩

end Sys2Proof.Machine
end

