-- ==== Sys2Proof/Tests/Slice0.lean ====
section
/-! SUPPORT. Tests: a term that each check of WellFormed refuses, witnesses that the hypotheses of the statements can be met, and small tests of single commands. The numbers are worked out by hand from the rules named. -/

open Sys2Proof Sys2Proof.Machine

namespace Sys2Proof.Tests

set_option maxRecDepth 20000

/-! Small states. -/

/-- Whether an operation that can fail succeeds. -/
def okOf {ε α : Type} : Except ε α → Bool
  | .ok _ => true
  | .error _ => false

theorem okOf_ex {ε α : Type} {r : Except ε α} (h : okOf r = true) : ∃ a, r = .ok a := by
  cases r with
  | ok a => exact ⟨a, rfl⟩
  | error _ => cases h

theorem errOf_ex {ε α : Type} {r : Except ε α} (h : okOf r = false) : ∃ a, r = .error a := by
  cases r with
  | ok _ => cases h
  | error a => exact ⟨a, rfl⟩

/-- A package whose GiB 0 is initialised and belongs to partition 1, which owns compute die 1; thread 0 runs there on physical core 0 with the state x. -/
def pkg (x : Thread) : Hw :=
  let h0 : Hw := { dieOwner := [(1, 1)], thr := [(0, x)], partUp := [1] }
  let h1 := (h0.setReg .DCTL_LCMAP 1 0 0 0x80).setReg .HOME_RNGOWN 0 0 0 1
  (h1.setReg .HOME_ISET_A 0 0 0 0x8002000000000000).setReg .HOME_ISET_B 0 0 0 0x0000400000000001

/-- A thread at M that runs at 0x1000, with an address in g9, an odd address in g10, and numbers in g11 and g12. -/
def th : Thread := { run := .running, ven := true, pc := 0x1000, g := [(9, 0x2000), (10, 0x2001), (11, 7), (12, 5)] }

/-- The die holds the line at 0x2000 as its owner. -/
def owned : Hw := { pkg th with cdies := [(1, { dc := [(0x80, .M)] })] }

/-- Package services as a writer. -/
def ps : Who := ⟨0, true, 3, 0, .packageServices⟩

/-- What a command leaves, when it completes. -/
def after (i : Instr) (h : Hw) : Hw :=
  match exec i { hw := h } with
  | .next t => t.hw
  | _ => {}

/-- A command completes in a state. -/
def done (i : Instr) (h : Hw) : Bool :=
  match exec i { hw := h } with
  | .next _ => true
  | _ => false

/-- An operation that can fail succeeds with a value that passes a test. -/
def okWith {ε α : Type} (b : α → Bool) : Except ε α → Bool
  | .ok a => b a
  | .error _ => false

theorem okWith_ex {ε α : Type} {r : Except ε α} {b : α → Bool} (h : okWith b r = true) : ∃ a, r = .ok a ∧ b a = true := by
  cases r with
  | ok a => exact ⟨a, rfl, h⟩
  | error _ => cases h

/-- The conditions of Ready but for the fetch. -/
def still (h : Hw) (t : Nat) : Bool := h.canRun t && (h.openFills t).isEmpty && (h.thread t).pick == none

/-- A thread is ready for an instruction, and the package after the fetch passes a test. -/
theorem ready_with {h : Hw} {t n : Nat} {b : Hw → Bool} (a : still h t = true) (d : okWith b (fetchAll h t n) = true) : ∃ f, Ready h t n f ∧ b f = true := by
  obtain ⟨f, e, g⟩ := okWith_ex d
  simp only [still, Bool.and_eq_true, List.isEmpty_iff, beq_iff_eq] at a
  exact ⟨f, ⟨a.1.1, a.1.2, a.2, e⟩, g⟩

theorem ready_of {h : Hw} {t n : Nat} (a : still h t = true) (d : okOf (fetchAll h t n) = true) : ∃ f, Ready h t n f := by
  obtain ⟨f, e⟩ := okOf_ex d
  simp only [still, Bool.and_eq_true, List.isEmpty_iff, beq_iff_eq] at a
  exact ⟨f, a.1.1, a.1.2, a.2, e⟩

/-! Instructions: a thread that can run one. -/

theorem wit_ready_one : ∃ f, Ready (pkg th) 0 1 f := ready_of (by decide) (by decide)
theorem wit_ready_two : ∃ f, Ready (pkg th) 0 2 f := ready_of (by decide) (by decide)
theorem wit_ready_owned : ∃ f, Ready owned 0 1 f := ready_of (by decide) (by decide)

/-- VEN 0, and the register numbers of predicates. -/
theorem wit_vector_off : ({ th with ven := false } : Thread).ven = false ∧ ∃ f, Ready (pkg { th with ven := false }) 0 1 f :=
  ⟨rfl, ready_of (by decide) (by decide)⟩

/-- The words that may follow a PFX, and one that may not. -/
theorem wit_pair_words : ∀ m ∈ [0x02, 0x03, 0x04, 0x05, 0x06, 0x1F, 0x08, 0x13], I16Word (BitVec.ofNat 32 (m * 2 ^ 26 + 3 * 2 ^ 21 + 9 * 2 ^ 16 + 4)) m 3 9 := by unfold I16Word; decide

/-- The function codes that R103 leaves unassigned, and a branch and a helper with a field that must be zero. -/
theorem wit_unassigned_func : (0x006 : BitVec 11) ∉ [(0x000 : BitVec 11), 1, 2, 3, 4, 5, 8, 9, 10, 11] := by decide

/-- Finite, subnormal and NaN numbers of binary64, for the statements about one format. -/
theorem wit_float_numbers : (∃ neg m e, (fmtOf 3).decode 0x3FF0000000000000 = .fin neg m e ∧ 2 ^ (fmtOf 3).fb ≤ m) ∧ (∃ neg m e, (fmtOf 3).decode 1 = .fin neg m e ∧ m < 2 ^ (fmtOf 3).fb) ∧
    ((fmtOf 3).decode 0x7FF8000000000000).isNan = true := ⟨⟨_, _, _, rfl, by decide⟩, ⟨_, _, _, rfl, by decide⟩, by decide⟩

/-- A load and a store alone and prefixed. -/
theorem wit_load_store_forms : (∃ i, LoadForm i 0 .w 3 9 4 1 true) ∧ (∃ i, StoreForm i 0 .d 11 9 0 1) ∧ (∃ i off, LoadForm i 0 .d 3 9 off 2 false) ∧ (∃ i off, StoreForm i 0 .b 11 9 off 2) :=
  ⟨⟨.load 0 .w 3 9 4 true, .inl ⟨4, rfl, by decide, rfl⟩⟩, ⟨.store 0 .d 11 9 0, .inl ⟨0, rfl, by decide, rfl⟩⟩,
   ⟨.pfx 0 1 0x2C690004 false false, _, .inr ⟨1, 0x2C690004, false, rfl, by unfold I16Word; decide, rfl, rfl⟩⟩,
   ⟨.pfx 0 1 0x41690004 false false, _, .inr ⟨1, 0x41690004, false, false, rfl, by unfold I16Word; decide, rfl, rfl⟩⟩⟩

/-- The checks of an access of thread 0 after a fetch. -/
def checks (acc : Acc) (va : W64) (n : Nat) (f : Hw) : Except (Hw × Cause) (Hw × List MemPart) := checkWants 0 n true (sortWants (wants acc (va, n))) (f.fetched 0)

/-- The conditions of a load and of a store that go on, as tests. -/
def loadGoesB (h : Hw) (ps : List MemPart) : Bool :=
  !siblingHolds h 0 ps && ps.all (fun p => !has (h.cdie 1).lost (lineOf p.pa)) && h.loadRoom 0 &&
    (newLines h 0 ps).all (fun p => h.fillRoom 0 false && h.missRoom 0 false && h.sliceToken 0 (lineOf p.pa))
def provisionalB (s h : Hw) (ps : List MemPart) : Bool :=
  s.windowRoom 0 && (s.thread 0).deferred == none && h.mem == s.mem && !h.settleOnly 0 && (newLines h 0 ps).all (fun p => !h.sliceDefers 0 (lineOf p.pa))
def storeGoesB (h : Hw) (ps : List MemPart) : Bool := !siblingHolds h 0 ps && h.storeRoom 0 (ps.filter (·.isWb)).length && !aliasWaits h 0 ps

theorem loadGoes_of {h : Hw} {ps : List MemPart} (e : loadGoesB h ps = true) : LoadGoes h 0 ps := by
  simp only [loadGoesB, Bool.and_eq_true, Bool.not_eq_true', List.all_eq_true] at e
  exact ⟨e.1.1.1, e.1.1.2, e.1.2, fun p q => ⟨(e.2 p q).1.1, (e.2 p q).1.2, (e.2 p q).2⟩⟩
theorem provisional_of {s h : Hw} {ps : List MemPart} (e : provisionalB s h ps = true) : Provisional s h 0 ps := by
  simp only [provisionalB, Bool.and_eq_true, Bool.not_eq_true', List.all_eq_true, beq_iff_eq] at e
  exact ⟨e.1.1.1.1, e.1.1.1.2, e.1.1.2, e.1.2, e.2⟩
theorem storeGoes_of {h : Hw} {ps : List MemPart} (e : storeGoesB h ps = true) : StoreGoes h 0 ps := by
  simp only [storeGoesB, Bool.and_eq_true, Bool.not_eq_true'] at e
  exact ⟨e.1.1, e.1.2, e.2⟩

/-- A load completes with so many parts, all of N-WB memory. -/
def loadsB (s : Hw) (n : Nat) (r : Hw × List MemPart) : Bool :=
  r.2.length == n && r.2.all (fun p => p.mt == 0 && (List.range p.len).all (fun j => !r.1.lineStale 0 (lineOf (p.pa + j)))) && (r.1.openFills 0).isEmpty && loadGoesB r.1 r.2 && provisionalB s r.1 r.2 && (ncMissing r.1 0 r.2).isEmpty

/-- A store completes with so many parts, all of N-WB memory; whether its first line is written at once. -/
def storesB (n : Nat) (now : Bool) (r : Hw × List MemPart) : Bool :=
  r.2.length == n && r.2.all (fun p => p.mt == 0) && Memory.wf r.1.mem && storeGoesB r.1 r.2 &&
    r.2.all (fun p => !has (r.1.cdie 1).stale (lineOf p.pa) && (r.1.dieOwns 1 (lineOf p.pa) && ((r.1.thread 0).sqLine (lineOf p.pa)).isEmpty && !has (r.1.cdie 1).lost (lineOf p.pa)) == now)

/-- A check fails with a cause of its own. -/
def failsB {α : Type} : Except (Hw × Cause) α → Bool
  | .ok _ => false
  | .error c => c.2.code != 0

/-- A thread at H whose GiB 0 is mapped to itself, and whose GiB 1 is mapped to the same memory as N-NC. -/
def mixed : Hw :=
  let h := { pkg { th with level := 2, g := [(9, 0x40002000), (11, 7)], cr := [(0x880, 0x4000), (0x882, 1)] } with cdies := [(1, { dc := [(0x80, .M)] })] }
  (((h.writeNum 0x4000 8 0x5401).writeNum 0x5000 8 0x6401).writeNum 0x6000 8 0xCE3).writeNum 0x6008 8 0xC67

/-- ScalarLoadResults and ScalarStoreResults: one part, two parts at the end of a line, an address whose GiB has no memory, at which the checks fail, and N-NC memory, whose line must be asked of the home. -/
theorem wit_loads : (∃ f, Ready owned 0 1 f ∧ okWith (loadsB owned 1) (checks .load 0x2000 8 f) = true) ∧ (∃ f, Ready owned 0 2 f ∧ okWith (loadsB owned 2) (checks .load 0x203C 8 f) = true) ∧
    (∃ f, Ready owned 0 1 f ∧ failsB (checks .load 0x40000000 8 f) = true) ∧ owned.loadSettled 0 true = true ∧ owned.loadSettled 0 false = false ∧
    ∃ f, Ready mixed 0 1 f ∧ okWith (fun r => r.2.all (fun p => p.mt == 1) && (r.1.openFills 0).isEmpty && !siblingHolds r.1 0 r.2 && ncMissing r.1 0 r.2 == [0x80]) (checks .load 0x40002000 8 f) = true :=
  ⟨ready_with (by decide) (by decide), ready_with (by decide) (by decide), ready_with (by decide) (by decide), by decide, by decide, ready_with (by decide) (by decide +kernel)⟩
theorem wit_stores : (∃ f, Ready owned 0 1 f ∧ okWith (storesB 1 true) (checks .store 0x2000 8 f) = true) ∧ (∃ f, Ready (pkg th) 0 2 f ∧ okWith (storesB 2 false) (checks .store 0x203C 8 f) = true) ∧
    (∃ f, Ready owned 0 1 f ∧ failsB (checks .store 0x40000000 8 f) = true) ∧
    ∃ f, Ready mixed 0 1 f ∧ okWith (fun r => r.2.length == 1 && r.2.all (fun p => p.mt == 1) && Memory.wf r.1.mem && storeGoesB r.1 r.2) (checks .store 0x40002000 8 f) = true :=
  ⟨ready_with (by decide) (by decide), ready_with (by decide) (by decide), ready_with (by decide) (by decide), ready_with (by decide) (by decide +kernel)⟩

/-- VectorMemoryResults: VLD and VST of eight lanes of 8 bytes, and of lanes at an address whose GiB has no memory. -/
def vlanes (va : W64) : List (Nat × W64) := (List.range 8).map (fun n => (n, va + BitVec.ofNat 64 n * 8))
def vchecks (acc : Acc) (va : W64) (f : Hw) : Except (Hw × Cause) (Hw × List MemPart) := checkWants 0 8 true (sortWants ((vlanes va).flatMap (fun q => wants acc (q.2, 8)))) (f.fetched 0)
def plainLanes (acc : Acc) (va : W64) (f : Hw) : Bool := !byLanes (laneChecks 0 8 acc (vlanes va) (f.fetched 0)).2.1
theorem wit_vector_load : (∃ f, Ready owned 0 1 f ∧ (plainLanes .load 0x2000 f && okWith (loadsB owned 8) (vchecks .load 0x2000 f)) = true) ∧
    ∃ f, Ready owned 0 1 f ∧ (plainLanes .load 0x40000000 f && failsB (vchecks .load 0x40000000 f)) = true :=
  ⟨ready_with (by decide) (by decide +kernel), ready_with (by decide) (by decide +kernel)⟩
theorem wit_vector_store : (∃ f, Ready owned 0 1 f ∧ (plainLanes .store 0x2000 f && okWith (storesB 8 true) (vchecks .store 0x2000 f)) = true) ∧
    ∃ f, Ready owned 0 1 f ∧ (plainLanes .store 0x40000000 f && failsB (vchecks .store 0x40000000 f)) = true :=
  ⟨ready_with (by decide) (by decide +kernel), ready_with (by decide) (by decide +kernel)⟩

/-- ReservedPairResults: LRES of a line that the die owns and of one that it does not own, SCOND with the reservation, misaligned addresses, and a thread with and without a hold. -/
def reserved : Hw := { pkg { th with resv := some ⟨0x80, 0x2000, 8⟩ } with cdies := [(1, { dc := [(0x80, .M)] })] }
def pairGoes (own : Bool) (r : Hw × MemPart) : Bool :=
  !siblingHolds r.1 0 [r.2] && ((r.1.thread 0).sqLine (lineOf r.2.pa)).isEmpty && !aliasWaits r.1 0 [r.2] && r.1.dieOwns 1 (lineOf r.2.pa) == own && !r.1.lineStale 0 (lineOf r.2.pa)
theorem wit_reserved_pair : (∃ f, Ready owned 0 1 f ∧ okWith (pairGoes true) (resCheck 0 true 0x2000 .load (f.fetched 0)) = true) ∧ (∃ f, Ready (pkg th) 0 1 f ∧ okWith (pairGoes false) (resCheck 0 false 0x2004 .load (f.fetched 0)) = true) ∧
    (∃ f, Ready reserved 0 1 f ∧ ((f.thread 0).resv == some ⟨0x80, 0x2000, 8⟩ && okWith (fun r => pairGoes true r && Memory.wf r.1.mem && lineOf r.2.pa == 0x80 && r.2.pa == 0x2000) (resCheck 0 true 0x2000 .store (f.fetched 0))) = true) ∧
    (0x2001 : W64).toNat % 8 ≠ 0 ∧ (0x2002 : W64).toNat % 4 ≠ 0 ∧ th.hold = none ∧ th.noHoldUntil ≤ (pkg th).now ∧ ({ th with hold := some 0x80 } : Thread).hold ≠ none :=
  ⟨ready_with (by decide) (by decide), ready_with (by decide) (by decide), ready_with (by decide) (by decide), by decide⟩

/-- LongInstructionChunks: a long instruction before, at and past its end, one that has chunks left, and one whose chunk fails; and registers of BCRC that meet. -/
def quiet (f : Hw) : Bool := (f.thread 0).pick == none
theorem wit_long_chunks : (∃ f, Ready owned 0 1 f ∧ (quiet f && !(bfillOp 0 0x2000 7 65).finished 0 && okWith (fun r => !(bfillOp 0 0x2000 7 65).finished r.2) ((bfillOp 0 0x2000 7 65).chunk (f.fetched 0) 0)) = true) ∧
    (∃ f, Ready owned 0 1 f ∧ (quiet f && okWith (fun r => (bcrcOp 0 3 0x2000 64).finished r.2) ((bcrcOp 0 3 0x2000 64).chunk (f.fetched 0) 0)) = true) ∧
    (∃ f, Ready owned 0 1 f ∧ (quiet f && failsB ((bmoveOp 0 0x2000 0x40000000 64).chunk (f.fetched 0) 0)) = true) ∧ (bfillOp 0 0x2000 7 64).finished 64 = true ∧ (bfillOp 0 0x2000 7 64).finished 65 = true ∧ th.progress.getLsbD 63 = false :=
  ⟨ready_with (by decide) (by decide +kernel), ready_with (by decide) (by decide +kernel), ready_with (by decide) (by decide +kernel), by decide⟩

/-- LongChunkEffects: a chunk of each long instruction; BMOVE from 0x2000 to 0x2100, and the first lane of VGATHER and VSCATTER at 0x2000. -/
def owned2 : Hw := { pkg th with cdies := [(1, { dc := [(0x80, .M), (0x84, .M)] })] }
def chunkIn (h : Hw) (p : MemPart) : Bool := !siblingHolds h 0 [p] && !chunkWaits h 0 [p] && (List.range p.len).all (fun j => !h.lineStale 0 (lineOf (p.pa + j)))
def chunkOwned (h : Hw) (p : MemPart) : Bool := h.dieOwns 1 (lineOf p.pa) && !has (h.cdie 1).lost (lineOf p.pa) && !has (h.cdie 1).stale (lineOf p.pa)
def chunkOut (h : Hw) (p : MemPart) : Bool := storeGoesB h [p] && ((h.thread 0).sqLine (lineOf p.pa)).isEmpty && chunkOwned h p
theorem wit_chunk_load : ∃ f, Ready owned2 0 1 f ∧ (quiet f && okWith (fun r => r.2 == [⟨0x2000, 0x2000, 5, 0⟩] && Memory.wf r.1.mem && chunkIn r.1 ⟨0x2000, 0x2000, 5, 0⟩ && storeGoesB r.1 [])
    (checkWants 0 1 false (sortWants (wants .load (0x2000, 5))) (f.fetched 0))) = true := ready_with (by decide) (by decide +kernel)
theorem wit_chunk_store : ∃ f, Ready owned2 0 1 f ∧ (quiet f && okWith (fun r => r.2 == [⟨0x2000, 0x2000, 64, 0⟩] && Memory.wf r.1.mem && chunkOut r.1 ⟨0x2000, 0x2000, 64, 0⟩)
    (checkWants 0 1 false (sortWants (wants .store (0x2000, 64))) (f.fetched 0))) = true := ready_with (by decide) (by decide +kernel)
theorem wit_chunk_move : ∃ f, Ready owned2 0 1 f ∧ (quiet f && okWith (fun r => r.2 == [⟨0x2000, 0x2000, 64, 0⟩, ⟨0x2100, 0x2100, 64, 0⟩] && Memory.wf r.1.mem && chunkIn r.1 ⟨0x2000, 0x2000, 64, 0⟩ && chunkOut r.1 ⟨0x2100, 0x2100, 64, 0⟩ &&
      chunkOwned (chunkLoad 0 [⟨0x2000, 0x2000, 64, 0⟩] r.1).1 ⟨0x2100, 0x2100, 64, 0⟩)
    (checkWants 0 1 false (sortWants (wants .load (0x2000, 64) ++ wants .store (0x2100, 64))) (f.fetched 0))) = true := ready_with (by decide) (by decide +kernel)
theorem wit_chunk_lane : (th.readP 0).getLsbD 0 = true ∧ lane 8 (th.readV 2) 0 = 0 := by decide

/-- Control registers: not assigned, read-only, out of reach at S, and in reach at M. -/
theorem wit_control_registers : crAssigned 0x3FF = false ∧ crAssigned 0x010 = true ∧ crReadOnly 0x010 = true ∧ crAssigned 0xC80 = true ∧ crReadOnly 0xC80 = false ∧ crAllowed th 0xC80 true = true ∧ crAllowed th 0xC80 false = true ∧
    crAllowed { th with level := 1 } 0xC80 true = false ∧ crAllowed { th with level := 1 } 0xC80 false = false ∧ ({ th with level := 1 } : Thread).world = false := by decide

/-- Traps: room for a bank, none, a machine check while MCIP is 1, and causes that go to M, to S and to secure-S. -/
theorem wit_traps : th.resident < 4 ∧ th.mcip = false ∧ ({ th with cr := [(0xC4F, 1)] } : Thread).mcip = true ∧ (routeTo th { code := 0x04 }) = 3 ∧ (routeTo { th with level := 1, cr := [(0xC4D, 16), (0x84C, 16)] } { code := 0x04 }) = 1 ∧
    (routeTo { th with level := 1, world := true, cr := [(0xC4E, 16)] } { code := 0x04 }) = 5 ∧ (routeTo { th with level := 2 } { code := 0x12 }) = 2 := by decide

/-- TRAP_ENTRY: a deliverable event, and words of each unassigned kind. -/
def event : Event := { vector := 5, level := 3, inst := 1 }
def waiting : Hw := pkg { th with ie := true, slots := [event] }
theorem wit_trap_entry : waiting.canRun 0 = true ∧ waiting.openFills 0 = [] ∧ (waiting.thread 0).pick = some (.event event) ∧ (takeTrap waiting 0 { code := 0x30, tval := eventTval event, async := true, target := some event.level.toNat }).2 = .taken ∧
    (pkg { th with run := .inReset }).canRun 0 = false ∧ (BitVec.allOnes 32).extractLsb' 26 6 = 0x3F ∧ (0xF4000006 : W32).extractLsb' 26 6 = 0x3D ∧ (0xF300_0000 : W32).extractLsb' 26 6 = 0x3C ∧ (0xF300_0000 : W32).extractLsb' 24 2 = 3 := by decide

/-- TRET: at U, with a record of a higher level, of the other world, at depth 0, one level deep, and two levels deep with the frame beneath on M's stack and on none. -/
def deep (below : BitVec 3) : Hw :=
  (pkg { th with depth := 2, resident := 2, shbank := 2, banks := [(1, { below := below })], cr := [(0xC46, 0x3000), (0xC47, 1)] }).writeNum (0x3000 + 8 * 14) 8 0x7A5C0001000000C0
theorem wit_trap_return : ({ th with level := 0 } : Thread).level = 0 ∧ (pkg th).endArmed 0 = false ∧ ({ th with level := 1, banks := [(0, { tstat := 3 })] }.bank 0).tstat.extractLsb' 0 2 = 3 ∧
    ({ th with level := 1, banks := [(0, { tstat := 5 })] }.bank 0).tstat.getLsbD 2 = true ∧ th.depth = 0 ∧ ((th.bank 0).tstat.extractLsb' 0 2).toNat ≤ 3 ∧
    ¬ (2 ≤ ({ th with depth := 1, resident := 2, shbank := 1 } : Thread).depth ∧ ({ th with depth := 1, resident := 2, shbank := 1 } : Thread).resident ≤ 2) := by decide
theorem wit_trap_return_deep : (∃ f, Ready (deep 3) 0 1 f ∧ okOf (refill (f.fetched 0) 0 3 0 0) = true) ∧ (((deep 3).thread 0).bank 1).below = 3 ∧ (((deep 0).thread 0).bank 1).below = 0 ∧ ((deep 3).thread 0).sq = [] ∧
    ((((deep 3).thread 0).bank 2).tstat.extractLsb' 0 2).toNat ≤ 3 := ⟨ready_with (by decide) (by decide), by decide⟩

/-- Gateways: the secure world, a target that is not 4-aligned, STATE 0, 1 and 2, and a GRET at its own depth and at another, with DBG_EN 0 and 1. -/
def act0 : Act := { depth := 0, recAddr := 0x3000, lowm := 0, started := 0 }
def inSecure : Thread := { th with world := true, level := 1, act := some act0 }
def swctl (v : W64) : Hw := (pkg th).setReg .SEC_SWCTL 0 0 0 v
theorem wit_gateways : ((pkg { th with level := 1 }).fetched 0).fld .SEC_SWCTL 0 0 0 F.SEC_SWCTL_STATE = 0 ∧ ((pkg th).setFld .SEC_SWCTL 0 0 0 F.SEC_SWCTL_STATE 1).fld .SEC_SWCTL 0 0 0 F.SEC_SWCTL_STATE = 1 ∧
    ((pkg th).setFld .SEC_SWCTL 0 0 0 F.SEC_SWCTL_STATE 2).fld .SEC_SWCTL 0 0 0 F.SEC_SWCTL_STATE = 2 ∧ ({ th with level := 1 } : Thread).level ≠ 3 ∧ (0x2001 : W64).extractLsb' 0 2 ≠ 0 ∧ ({ inSecure with depth := 1 } : Thread).depth ≠ act0.depth := by decide
theorem wit_gateway_return : (∃ f, Ready (pkg { inSecure with world := true, level := 3 }) 0 1 f ∧ recordBad (f.fetched 0) 0 act0.recAddr (recordLen (f.fetched 0) act0.recAddr) = none) ∧ inSecure.depth = act0.depth ∧ inSecure.sq = [] ∧
    (pkg th).flag .SEC_SWCTL 0 0 0 F.SEC_SWCTL_DBG_EN = false ∧ ((pkg th).setFld .SEC_SWCTL 0 0 0 F.SEC_SWCTL_DBG_EN 1).flag .SEC_SWCTL 0 0 0 F.SEC_SWCTL_DBG_EN = true ∧ (pkg th).deepIdle = false ∧ (pkg th).domCur 0 0 = 0 :=
  ⟨(ready_with (b := fun f => recordBad (f.fetched 0) 0 act0.recAddr (recordLen (f.fetched 0) act0.recAddr) == none) (by decide) (by decide)).imp (fun _ p => ⟨p.1, by simpa using p.2⟩), by decide⟩

/-- A secure kernel's page: one leaf of 1 GiB with GW and X, under two pointers, and GMARK at 0x7000. The die owns the lines of the gate record. -/
def gated : Hw :=
  let h := { pkg { th with ven := false, g := [(9, 0x7000)], cr := [(0x680, 0x4000), (0x682, 1)] } with cdies := [(1, { dc := [(0, .M), (1, .M), (2, .M), (3, .M)] })] }
  (((h.writeNum 0x4000 8 0x5401).writeNum 0x5000 8 0x6401).writeNum 0x6000 8 0x00200000000004A3).writeNum 0x7000 4 0xF4005000

def gateLands (g0 h1 : Hw) (r : XRes) : Bool :=
  r.gw && h1.homePass 1 true r.pa && h1.mapped r.pa && !h1.poisoned r.pa &&
    okWith (fun h2 => h2.readNum r.pa 4 == 0xF4005000 && recordBad h2 0 (gateRec g0 0) (gateRecBytes (g0.thread 0)).length == none && Memory.wf h2.mem &&
      (lineRange (gateRec g0 0) (gateRecBytes (g0.thread 0)).length).all (fun l => h2.dieOwns 1 l && !has (h2.cdie 1).lost l && !has (h2.cdie 1).stale l)) (fetchLine h1 0 r 0x7000)
def gateOpens (f : Hw) : Bool :=
  let g0 := f.fetched 0
  let g1 := g0.inWorld 0 true
  okWith (fun q => gateLands g0 q.1 q.2) (xlate g1 0 (ctxOf (g1.thread 0) 0 (g0.partOf 0) 1 true) 0x7000 .fetch)
theorem wit_gate_opens : (∃ f, Ready gated 0 1 f ∧ gateOpens f = true) ∧ (gated.thread 0).readG 9 = 0x7000 ∧ (gated.thread 0).world = false ∧ (gated.thread 0).level = 3 ∧ (gated.thread 0).sq = [] :=
  ⟨ready_with (by decide) (by decide +kernel), by decide⟩

/-- WAIT that is allowed and not, and a thread in Satin with and without a wake cause, in Dust sheet and in neither. -/
theorem wit_waits : waitTraps (pkg th) 0 = false ∧ waitTraps ((pkg { th with level := 1 }).setReg .CORE_WAITCTL 1 0 0 0x20000) 0 = true ∧ (pkg th).pcoreOf 0 = some 0 ∧
    ({ th with run := .waiting 3 } : Thread).run = .waiting 3 ∧ ({ th with run := .waiting 1, slots := [event] } : Thread).wakePending = true ∧ ({ th with run := .waiting 1 } : Thread).wakePending = false ∧ th.run ≠ .waiting 3 := by decide

/-- FenceResults: masks, a fence that waits for a store and for TLB maintenance, and one that does not. -/
def covered : Hw := (pkg { th with tlbis := [(1, [(1, 0x80)])] }).setThread 1 { sq := [(0x2000, 1)], sqe := [(0x80, 0)] }
def fenceK (f : Hw) : Hw := (f.fetched 0).wcFlush 0
theorem wit_fences : (7 : BitVec 3).getLsbD 1 = true ∧ (7 : BitVec 3).getLsbD 0 = true ∧ ({ th with sq := [(0x2000, 1)] } : Thread).sq ≠ [] ∧
    (∃ f, Ready (pkg th) 0 1 f ∧ (!(fenceK f).dpOpen 0 && !((fenceK f).core ((fenceK f).coreKeyOf 0)).wcbs.any (fun w => w.thread == 0) && !tlbiWaits 2 0 (fenceK f)) = true) ∧
    ∃ f, Ready covered 0 1 f ∧ tlbiWaits 1 0 (fenceK f) = true :=
  ⟨by decide, by decide, by decide, ready_with (by decide) (by decide), ready_with (by decide) (by decide)⟩

/-- WriteCombiningTimeout: a buffer for the line, and none. -/
def combining : Hw := (pkg th).onCore 64 (fun c => { c with wcbs := [{ line := 0x80, thread := 0, world := false, bytes := [(0x2000, 9)] }] })
theorem wit_combining : ((combining.core (combining.coreKeyOf 0)).wcbs.find? (fun w => w.line == 0x80 && w.thread == 0 && !w.sent)).isSome = true ∧ (((pkg th).core ((pkg th).coreKeyOf 0)).wcbs.find? (fun w => w.line == 0x80 && w.thread == 0 && !w.sent)) = none := by decide

/-- TlbMaintenanceResults: legal and not, performed and not; nothing in the walk buffer after the fetch. -/
theorem wit_tlbi : tlbiBad .asid th 0 2 0 = false ∧ tlbiBad .asid { th with level := 0 } 0 2 0 = true ∧ tlbiBad .part th 0 3 0 = true ∧ combining.wcDone 0 = false ∧
    ∃ f, Ready (pkg th) 0 1 f ∧ (((f.fetched 0).wcFlush 0).wcDone 0 && !((f.fetched 0).wcFlush 0).dpOpen 0 && (f.thread 0).walkBuf.isEmpty && (f.thread 0).walkPtrs.isEmpty) = true :=
  ⟨by decide, by decide, by decide, by decide, ready_with (by decide) (by decide)⟩

/-! Homes and agents. -/

/-- The line that the tests use, and the first core of die 1. -/
def ln : Line := 0x80
def c0 : AgentRef := .core 0 0
def held (d : Dir) : Hw := { pkg th with dir := [(0x80, d)] }

/-- A packet comes in good order, and what it leaves passes a test. -/
def comes (b : Hw → Bool) : Except Hw (Hw × Bool) → Bool
  | .ok (h1, false) => b h1
  | _ => false
theorem comes_ex {r : Except Hw (Hw × Bool)} {b : Hw → Bool} (e : comes b r = true) : ∃ h1, r = .ok (h1, false) ∧ b h1 = true := by
  cases r with
  | error _ => cases e
  | ok q =>
    obtain ⟨h1, x⟩ := q
    cases x
    · exact ⟨h1, rfl, e⟩
    · cases e

/-- The conditions of Arrives but for the delivery, and those of StartsNow. -/
def arrivesB (h : Hw) (op : MsgOp) (a : AgentRef) (l : Line) (part : Nat) (world : Bool) (b : Hw → Bool) : Bool :=
  let p := h.pkt op (toAgent a) l.toNat part world
  comes (fun h1 => h1.scrimPass { p.msg with part := part, world := world } && h1.edgeOf { p.msg with part := part, world := world } == none &&
    !(p.waits && h1.isStale p.msg.ends.2 p.msg.epoch) && b h1) (h.receive p .good)
theorem arrives_of {h : Hw} {op : MsgOp} {a : AgentRef} {l : Line} {part : Nat} {world : Bool} {b : Hw → Bool} (e : arrivesB h op a l part world b = true) :
    ∃ h1, Arrives h op a l part world h1 ∧ b h1 = true := by
  obtain ⟨h1, x, y⟩ := comes_ex e
  simp only [Bool.and_eq_true, beq_iff_eq] at y
  exact ⟨h1, ⟨x, y.1.1.1, y.1.1.2, by simpa only [Bool.not_eq_true'] using y.1.2⟩, y.2⟩
def startsB (h : Hw) (r : HReq) : Bool :=
  !h.fenced r.agent && !h.busy (dirKey r.line) && !has h.dwb (dirKey r.line) && !h.setPinned (dirKey r.line) && h.homePass r.part r.world (r.line <<< 6) && h.mapped (r.line <<< 6) &&
    (!isFar r.line || h.flag .HOME_DIRCTL 0 (homeOfLine r.line) 0 F.HOME_DIRCTL_FAR_EN)
theorem starts_of {h : Hw} {r : HReq} (e : startsB h r = true) : StartsNow h r := by
  simp only [startsB, Bool.and_eq_true, Bool.not_eq_true', Bool.or_eq_true] at e
  exact ⟨e.1.1.1.1.1.1, e.1.1.1.1.1.2, e.1.1.1.1.2, e.1.1.1.2, e.1.1.2, e.1.2, fun f => by rcases e.2 with g | g; rw [f] at g; cases g; exact g⟩

/-- A request arrives at its home in a directory state, and the home can start it. -/
def asks (h : Hw) (op : MsgOp) (a : AgentRef) (b : Hw → Bool) : Bool := arrivesB h op a ln 1 false (fun h1 => startsB h1 (askedOf h op a ln 1 false) && b h1)
theorem asks_of {h : Hw} {op : MsgOp} {a : AgentRef} {b : Hw → Bool} (e : asks h op a b = true) :
    ∃ h1, Arrives h op a ln 1 false h1 ∧ StartsNow h1 (askedOf h op a ln 1 false) ∧ b h1 = true := by
  obtain ⟨h1, x, y⟩ := arrives_of e
  simp only [Bool.and_eq_true] at y
  exact ⟨h1, x, starts_of y.1, y.2⟩
def unc (h : Hw) : Bool := h.dirOf 0x80 == .unc

/-- UncachedLineGrants: each request of a line that is Uncached. -/
theorem wit_uncached : ∀ op ∈ [MsgOp.RDS, .RDO, .UPG, .OWN, .RDC], ∃ h1, Arrives (pkg th) op c0 ln 1 false h1 ∧ StartsNow h1 (askedOf (pkg th) op c0 ln 1 false) ∧ unc h1 = true :=
  fun _ m => asks_of ((by decide : ∀ op ∈ [MsgOp.RDS, .RDO, .UPG, .OWN, .RDC], asks (pkg th) op c0 unc = true) _ m)

/-- HeldLineRequests: a line that other dies share, that the requester alone shares, that another die owns, an engine, and a fenced die. -/
def shared (l : List Nat) (f : Nat) (h : Hw) : Bool := h.dirOf 0x80 == .shared l f && decide (f ≠ 0) && decide (f ∈ l)
def ownedBy (o : Agent) (fenced : Bool) (h : Hw) : Bool := h.dirOf 0x80 == .owned o 1 && !o.same (toAgent c0) && h.fenced o == fenced
def fencedDie : Hw := (held (.owned (.core 2 0) 1)).setReg .HOME_FENCE0 0 0 0 4
theorem wit_held_shared : ∀ op ∈ [MsgOp.RDS, .RDO, .UPG, .OWN, .RDC], (∃ h1, Arrives (held (.shared [2, 3] 2)) op c0 ln 1 false h1 ∧ StartsNow h1 (askedOf (held (.shared [2, 3] 2)) op c0 ln 1 false) ∧ shared [2, 3] 2 h1 = true) ∧
    ∃ h1, Arrives (held (.shared [1] 1)) op c0 ln 1 false h1 ∧ StartsNow h1 (askedOf (held (.shared [1] 1)) op c0 ln 1 false) ∧ shared [1] 1 h1 = true :=
  fun _ m => ⟨asks_of ((by decide : ∀ op ∈ [MsgOp.RDS, .RDO, .UPG, .OWN, .RDC], asks (held (.shared [2, 3] 2)) op c0 (shared [2, 3] 2) = true) _ m),
    asks_of ((by decide : ∀ op ∈ [MsgOp.RDS, .RDO, .UPG, .OWN, .RDC], asks (held (.shared [1] 1)) op c0 (shared [1] 1) = true) _ m)⟩
theorem wit_held_owned : (∃ h1, Arrives (held (.owned (.core 2 0) 1)) .RDS c0 ln 1 false h1 ∧ StartsNow h1 (askedOf (held (.owned (.core 2 0) 1)) .RDS c0 ln 1 false) ∧ ownedBy (.core 2 0) false h1 = true) ∧
    (∃ h1, Arrives (held (.owned (.eng 3) 1)) .RDC c0 ln 1 false h1 ∧ StartsNow h1 (askedOf (held (.owned (.eng 3) 1)) .RDC c0 ln 1 false) ∧ ownedBy (.eng 3) false h1 = true) ∧
    ∃ h1, Arrives fencedDie .RDO c0 ln 1 false h1 ∧ StartsNow h1 (askedOf fencedDie .RDO c0 ln 1 false) ∧ ownedBy (.core 2 0) true h1 = true := ⟨asks_of (by decide), asks_of (by decide), asks_of (by decide)⟩

/-- RequestsThatWaitOrAreRefused: a fenced agent, a Busy line, a partition that owns nothing. -/
def busyAt (t : Txn) : Hw := { pkg th with txns := [t] }
def fencedMe : Hw := (pkg th).setReg .HOME_FENCE0 0 0 0 2
def busyLine : Hw := busyAt { key := 0x80, line := 0x80, req := none, snoop := .INV, wait := [] }
def unowned : Hw := (pkg th).setReg .HOME_RNGOWN 0 0 0 2
theorem wit_not_started : (∃ h1, Arrives fencedMe .RDS c0 ln 1 false h1 ∧ h1.fenced (toAgent c0) = true) ∧ (∃ h1, Arrives busyLine .RDO c0 ln 1 false h1 ∧ (!h1.fenced (toAgent c0) && h1.busy 0x80) = true) ∧
    ∃ h1, Arrives unowned .OWN c0 ln 1 false h1 ∧ (!h1.fenced (toAgent c0) && !(h1.busy 0x80 || has h1.dwb 0x80 || h1.setPinned 0x80) && !h1.homePass 1 false (ln.toNat <<< 6)) = true :=
  ⟨arrives_of (by decide), arrives_of (by decide), arrives_of (by decide)⟩

/-- AgentWrites: a port's write that needs a commit and one that does not, a core's, and the commit of a write. -/
def p5 : AgentRef := .port 5
def ported : Hw := { pkg th with portOwner := [(5, 1)] }
def written (relaxed : Bool) : HReq := { askedOf ported .WRF p5 ln 1 false with relaxed := relaxed, data := 7 }
def committing : Hw := { ported with txns := [{ key := 0x80, line := 0x80, req := some { written false with op := .WRP, mask := 1 }, snoop := .INV, wait := [], cmt := true }] }
theorem wit_agent_writes : Memory.wf ported.mem = true ∧ (∀ b, ∃ h1, Arrives ported .WRF p5 ln 1 false h1 ∧ (startsB h1 (written b) && unc h1) = true) ∧
    (∃ h1, Arrives (pkg th) .WRP c0 ln 1 false h1 ∧ (startsB h1 { askedOf (pkg th) .WRP c0 ln 1 false with relaxed := true, mask := 3 } && unc h1) = true) ∧
    ∃ h1, Arrives committing .CMT p5 ln (committing.agentPart (toAgent p5)) false h1 ∧
      ((h1.txns.find? (fun t => t.key == dirKey ln.toNat && t.cmt && (t.req.map (fun r => r.agent == toAgent p5 && r.line == ln.toNat)).getD false)).isSome && h1.waitq == []) = true :=
  ⟨by decide, fun b => arrives_of (by cases b <;> decide), arrives_of (by decide), arrives_of (by decide)⟩

/-- An answer comes in good order. -/
def answerB (h : Hw) (op : MsgOp) (a : AgentRef) (b : Hw → Bool) : Bool := comes b (h.receive (h.pkt op (toAgent a) ln.toNat (h.agentPart (toAgent a)) (h.secureLine ln.toNat)) .good)

/-- SnoopAnswers: a fenced agent; no transaction; the first answer of two; the last answer to an RDO after INV, to an RDS after RCS and to an RDC after RCC. -/
def rq (op : MsgOp) : HReq := { op := op, line := 0x80, agent := .core 2 0, part := 1, world := false }
def txn (op snoop : MsgOp) (wait : List Agent) : Txn := { key := 0x80, line := 0x80, req := some (rq op), snoop := snoop, wait := wait }
def found (h : Hw) : Option Txn := h.txns.find? (fun t => t.key == 0x80 && t.wait.any (fun x => x.same (toAgent c0)))
def ownedTxn (t : Txn) : Hw := { busyAt t with dir := [(0x80, .owned (.core 1 0) 1)] }
theorem wit_snoop_answers : answerB fencedMe .ACK c0 (fun h => h.fenced (toAgent c0)) = true ∧ answerB (pkg th) .RCD c0 (fun h => !h.fenced (toAgent c0) && found h == none) = true ∧
    answerB (busyAt (txn .RDO .INV [.core 1 0, .core 3 0])) .ACK c0 (fun h => found h == some (txn .RDO .INV [.core 1 0, .core 3 0])) = true ∧ [Agent.core 1 0, .core 3 0].filter (fun x => !x.same (toAgent c0)) ≠ [] ∧
    answerB (busyAt (txn .RDO .INV [.core 1 0])) .ACK c0 (fun h => found h == some (txn .RDO .INV [.core 1 0]) && h.waitq == []) = true ∧ [Agent.core 1 0].filter (fun x => !x.same (toAgent c0)) = [] ∧
    (txn .RDO .INV [.core 1 0]).wb = [] ∧ (txn .RDO .INV [.core 1 0]).cmt = false ∧ (txn .RDO .INV [.core 1 0]).lost = false ∧
    answerB (ownedTxn (txn .RDS .RCS [.core 1 0])) .RCD c0 (fun h => found h == some (txn .RDS .RCS [.core 1 0]) && h.dirOf 0x80 == .owned (.core 1 0) 1) = true ∧ (rq .RDS).agent.cdie = some 2 ∧ (txn .RDS .RCS [.core 1 0]).absent = true ∧ (txn .RDS .RCS [.core 1 0]).back = [] ∧
    answerB (ownedTxn (txn .RDC .RCC [.core 1 0])) .RCD c0 (fun h => found h == some (txn .RDC .RCC [.core 1 0]) && h.dirOf 0x80 == .owned (.core 1 0) 1) = true ∧ isFar (rq .RDC).line = false ∧
    ((pkg th).pkt .RCD (toAgent c0) ln.toNat 1 false).msg.mask = 0 := by decide

/-- WriteBacksAndAppointments: of the owner, of a die that the state does not name, of the F die alone and with other sharers, of a die that is not F, and an appointment. -/
def wbOk (h : Hw) (op : MsgOp) (b : Hw → Bool) : Bool :=
  let p := h.pkt op (toAgent c0) ln.toNat 1 false
  comes (fun h1 => h1.scrimPass { p.msg with part := 1, world := false } && p.msg.info != 1 && !h1.fenced (toAgent c0) && h1.homePass 1 false (ln.toNat <<< 6) && !h1.busy 0x80 && b h1) (h.receive p .good)
def appointing : Txn := { txn .RDS .FAP [.core 1 0] with present := [1, 2] }
theorem wit_write_backs : wbOk (held (.owned (.core 1 0) 1)) .WB (fun h => h.dirOf 0x80 == .owned (.core 1 0) 1) = true ∧ wbOk (held (.owned (.core 1 0) 1)) .EVC (fun h => h.dirOf 0x80 == .owned (.core 1 0) 1) = true ∧
    wbOk { pkg th with dcs := [(dcsSet 0x80, [(0x80, true)])] } .WB (fun h => h.dcsHas 0x80 && unc h) = true ∧ wbOk (held (.shared [1] 1)) .EVF (fun h => h.dirOf 0x80 == .shared [1] 1) = true ∧ rem [1] 1 = [] ∧
    wbOk (held (.shared [1, 2] 1)) .EVF (fun h => h.dirOf 0x80 == .shared [1, 2] 1) = true ∧ rem [1, 2] 1 ≠ [] ∧ wbOk (held (.shared [1, 2] 2)) .EVF (fun h => h.dirOf 0x80 == .shared [1, 2] 2) = true ∧
    (toAgent c0).cdie = some 1 ∧ isFar ln.toNat = false ∧ (pkg th).waitq = [] ∧ has ({ pkg th with dwb := [0x80] } : Hw).dwb 0x80 = true ∧
    answerB (busyAt appointing) .ACKF c0 (fun h => !h.fenced (toAgent c0) && h.waitq == [] && h.txns.find? (fun t => t.key == 0x80 && t.snoop == .FAP && t.wait.any (fun x => x.same (toAgent c0))) == some appointing) = true := by decide

/-- ProvisionalReads: passed and refused, calm and poisoned, owned, and a settle notice before and after the read has been served. -/
def free0 (h : Hw) : Bool := !h.fenced (toAgent c0)
def passes (h : Hw) : Bool := h.homePass 1 false (ln.toNat <<< 6) && h.mapped (ln.toNat <<< 6)
def calmAt (h : Hw) : Bool := !(h.busy 0x80 || h.poisoned (ln.toNat <<< 6))
def provisional : Hw := { pkg th with msgs := [{ op := .RDP, addr := 0x80, agent := toAgent c0, part := 1 }] }
theorem wit_provisional : (∃ h1, Arrives (pkg th) .RDP c0 ln 1 false h1 ∧ (free0 h1 && passes h1 && calmAt h1 && unc h1) = true) ∧ (∃ h1, Arrives unowned .RDP c0 ln 1 false h1 ∧ (free0 h1 && !passes h1) = true) ∧
    (∃ h1, Arrives { pkg th with poison := [0x80] } .RDP c0 ln 1 false h1 ∧ (free0 h1 && passes h1 && !calmAt h1) = true) ∧
    (∃ h1, Arrives (held (.owned (.core 2 0) 1)) .RDP c0 ln 1 false h1 ∧ (free0 h1 && passes h1 && calmAt h1 && h1.dirOf 0x80 == .owned (.core 2 0) 1) = true) ∧
    (∃ h1, Arrives (pkg th) .STN c0 ln 1 false h1 ∧ ((h1.freeTok 0 (toAgent c0) ln.toNat).waitingMsg .RDP (toAgent c0) ln.toNat == none) = true) ∧
    ∃ h1, Arrives provisional .STN c0 ln 1 false h1 ∧ ((h1.freeTok 0 (toAgent c0) ln.toNat).waitingMsg .RDP (toAgent c0) ln.toNat).isSome = true :=
  ⟨arrives_of (by decide), arrives_of (by decide), arrives_of (by decide), arrives_of (by decide), arrives_of (by decide), arrives_of (by decide)⟩

/-- RetirementAndSettling: fills of thread 0 in core 0: provisional, settled and valid, with a byte that no longer stands, and behind an older load. -/
def use (seq : Nat) (bytes : List (Nat × Byte)) : FillUse := { seq := seq, bytes := bytes, snap := some th }
def fillOf (settled flight valid : Bool) (u : FillUse) : FillEnt := { line := 0x80, thread := 0, fetch := false, settled := settled, inFlight := flight, valid := valid, uses := [u] }
def filled (l : List FillEnt) : Hw := { owned with thr := [(0, { th with world := true })], cores := [(64, { fills := l })] }
def mineOf (h : Hw) : Option FillEnt := (h.core (h.coreKeyOf 0)).fills.find? (fun f => f.thread == 0 && f.line == 0x80 && f.fetch == false && !f.walk)
theorem wit_fills : (pkg th).pcoreOf 0 = some 0 ∧ mineOf owned = none ∧ mineOf (filled [fillOf false true false (use 1 [])]) = some (fillOf false true false (use 1 [])) ∧ mineOf (filled [fillOf true false true (use 1 [])]) = some (fillOf true false true (use 1 [])) ∧
    (∀ f ∈ (filled [fillOf true false true (use 1 [])]).openFills 0, f.walk = false) ∧ ((filled []).thread 0).world = true ∧ (filled []).dieState 1 0x80 ≠ .I ∧ (filled []).coreCacheOff 1 0 2 = false ∧ (filled []).coreCacheOff 1 0 1 = false ∧
    (filled [fillOf true false false (use 1 [(0x2000, 1)])]).openFills 0 = [fillOf true false false (use 1 [(0x2000, 1)])] ∧ ((use 1 [(0x2000, 1)]).bytes.any (fun b => (pkg th).byte b.1 != b.2)) = true ∧
    (∃ f ∈ (filled [{ fillOf true false true (use 1 []) with line := 0x81 }, fillOf true false true (use 2 [])]).openFills 0, f.walk = false ∧ ∃ v ∈ f.uses, v.snap.isSome = true ∧ v.seq < 2) := by decide
theorem wit_settling : ({ th with deferred := some (0x80, false) } : Thread).deferred = some (ln.toNat, false) ∧ th.deferred ≠ some (ln.toNat, false) ∧
    ((filled [fillOf false true false (use 1 [])]).openFills 0).find? (fun f => f.line == ln.toNat && !f.fetch && !f.settled) = some (fillOf false true false (use 1 [])) ∧
    ((filled [fillOf false false false (use 1 [])]).openFills 0).find? (fun f => f.line == ln.toNat && !f.fetch && !f.settled) = some (fillOf false false false (use 1 [])) ∧
    ((filled [fillOf false true false (use 1 [])]).core 64).fills.filter (fun f => (fillOf false true false (use 1 [])).same f) = [fillOf false true false (use 1 [])] ∧ (pkg th).dieState 1 0x80 = .I ∧ ((pkg th).cdie 1).parked = [] := by decide

/-- PacketsThatEnd: a device access with its response slot, a read of a line with its fill, a request's slot, the watchdog before and after its time. -/
def mmioPa : Nat := mmioBase + 5 * 2 ^ 41 + 0x10000000
def devAcc : DevAcc := { pa := mmioPa, va := 0x2000, val := 7, posted := false }
def devWait (write : Bool) : DevWait := { acc := [devAcc], size := 8, write := write, len := 4 }
def waitsFor (w : DevWait) : Hw := { pkg { th with dev := some w } with rsps := [{ src := 0, txid := 3, agent := .core 1 0, op := .REGRD, line := mmioPa }] }
def reading : Hw := { filled [{ fillOf true true false (use 1 []) with line := 0x80 }] with rsps := [{ src := 0, txid := 3, agent := .core 1 0, op := .RDS, line := 0x80 }] }
theorem wit_packets_end : (∀ m ∈ (pkg th).msgs, m.op ≠ .STALE ∧ m.op ≠ .FERR) ∧ (pkg th).domCur 0 0 ≠ 1 ∧ ((waitsFor (devWait false)).thread 0).devOpen = some (devWait false) ∧ (devWait false).addr = mmioPa ∧ paRange (devWait false).addr = .mmio ∧ ((pkg th).thread 0).devOpen = none ∧
    (waitsFor (devWait true)).ferrSlot (.access 0) = some { src := 0, txid := 3, agent := .core 1 0, op := .REGRD, line := mmioPa } ∧ (waitsFor (devWait true)).threadAgent 0 = .core 1 0 ∧ (waitsFor (devWait true)).pcoreOf 0 ≠ none ∧ (pkg th).ferrSlot (.access 0) = none ∧
    opOf (MsgOp.RDS.code) = some .RDS ∧ reading.rsps.find? (fun r => r.agent == toAgent c0 && r.op == .RDS && decide (r.line = ln.toNat)) = some { src := 0, txid := 3, agent := .core 1 0, op := .RDS, line := 0x80 } ∧
    reading.ferrSlot (.read 0 0) = some { src := 0, txid := 3, agent := .core 1 0, op := .RDS, line := 0x80 } ∧ reading.now < 0 + reading.rspTmo 0 ∧ 0 + ({ reading with now := 2 ^ 60 } : Hw).rspTmo 0 ≤ 2 ^ 60 ∧
    (reading.core (reading.coreKeyOf 0)).fills.filter (fun f => f.line == 0x80 && f.inFlight) = [fillOf true true false (use 1 [])] ∧ reading.openFills 0 = [fillOf true true false (use 1 [])] := by decide
theorem wit_no_other_waits (m : Nat) (e : m ≠ 0) : (waitsFor (devWait true)).thread m = {} := by
  simp [Hw.thread, waitsFor, pkg, look, Hw.setReg, e]

/-- SnoopsAtDies: a snoop of the die's partition that comes with the line in each state, one of another partition, one at a die in Dust sheet, one that waits for a miss and a stale one. -/
def dieHas (st : LState) : Hw := { pkg th with cdies := [(1, { dc := [(0x80, st)] })] }
def dieGets (h : Hw) (part : Nat) (b : Hw → Bool) : Bool := comes b (h.receive (h.pkt .INV (toAgent c0) ln.toNat part false) .good (h.dieDust 1))
def dusty : Hw := (pkg th).setFld .PWR_DOM 1 0 36 F.PWR_DOM_CUR 3
def oldInv : Msg := { op := .INV, addr := 0x80, agent := .core 1 0, part := 1, epoch := 1 }
/-- A package in which a message waits, with the slot that it holds. -/
def sent (h : Hw) (m : Msg) : Hw := { h with msgs := [m], toks := [{ dst := m.slotStop, kind := m.op.slotKind.getD 0, slot := m.token, src := m.ends.1, agent := some m.agent, line := m.addr }] }
def snooped : Hw := sent (pkg th) oldInv
theorem wit_die_snoops : (∀ st ∈ [LState.I, .F, .S, .E, .M], dieGets (dieHas st) 1 (fun h => h.agentPart (toAgent c0) == 1 && !h.snoopWaits .INV 1 0x80 && h.dieState 1 0x80 == st && h.sfCores 1 0x80 == [] && !has (h.cdie 1).pzn 0x80 &&
      (List.range 34).all (fun q => (h.core (coreKey 1 q)).fills.all (fun f => f.line != 0x80))) = true) ∧ dieGets (pkg th) 2 (fun h => h.agentPart (toAgent c0) != 2) = true ∧ dusty.dieDust 1 = true ∧ dieGets dusty 1 (fun _ => true) = true ∧
    dieGets { pkg th with cdies := [(1, { miss := [0x80] })] } 1 (fun h => h.snoopWaits .INV 1 0x80 && !h.dieSleeps 1) = true ∧ ((pkg th).pkt .INV (toAgent c0) ln.toNat 1 false).waits = false ∧ isFar ln.toNat = false := by decide
theorem wit_stale_snoop : dieGets snooped 1 (fun h => (snooped.pkt .INV (toAgent c0) ln.toNat 1 false).waits && h.isStale (snooped.pkt .INV (toAgent c0) ln.toNat 1 false).msg.ends.2 (snooped.pkt .INV (toAgent c0) ln.toNat 1 false).msg.epoch) = true := by decide

/-- EnginesAndPortsAsAgents: engine 3 and port 5, which hold nothing, a dirty line, a store or an AtomicOp that waits. -/
def e3 : AgentRef := .eng 3
def agents : Hw := { pkg th with engOwner := [(3, 1)], portOwner := [(5, 1)] }
def atomic : PAtomic := { addr := 0x2000, size := 8, kind := 0, a := 5, b := 0 }
def agentGets (h : Hw) (op : MsgOp) (a : AgentRef) (b : Hw → Bool) : Bool :=
  comes (fun h1 => (1 : Nat) == h1.agentPart (toAgent a) && b h1) (h.receive (h.pkt op (toAgent a) ln.toNat 1 false) .good)
theorem wit_agent_snoops : agentGets agents .INV e3 (fun h => !h.agHolds (toAgent e3) 0x80 && look .I (look [] h.elc 3) 0x80 == .I) = true ∧ agentGets agents .RCI p5 (fun h => !h.agHolds (toAgent p5) 0x80) = true ∧
    agentGets { agents with esq := [(3, [(0x2000, 1)])] } .RCS e3 (fun h => h.agHolds (toAgent e3) 0x80 && look .I (look [] h.elc 3) 0x80 == .I) = true ∧ agentGets { agents with patom := [(5, [atomic])] } .RCI p5 (fun h => h.agHolds (toAgent p5) 0x80) = true ∧
    agentGets { agents with elc := [(3, [(0x80, .M)])] } .RCC e3 (fun h => look .I (look [] h.elc 3) 0x80 == .M) = true := by decide
def grantB (h : Hw) (op : MsgOp) (a : AgentRef) (tag : Nat) (b : Hw → Bool) : Bool :=
  answerB h op a b && (h.pkt op (toAgent a) ln.toNat (h.agentPart (toAgent a)) (h.secureLine ln.toNat)).msg.info == tag
theorem answers_of {h : Hw} {op : MsgOp} {a : AgentRef} {tag : Nat} {b : Hw → Bool} (e : grantB h op a tag b = true) : ∃ h1, Answers h op (toAgent a) ln.toNat tag h1 ∧ b h1 = true := by
  simp only [grantB, Bool.and_eq_true, beq_iff_eq] at e
  obtain ⟨h1, x, y⟩ := comes_ex e.1
  exact ⟨h1, ⟨x, e.2⟩, y⟩
theorem wit_agent_grants : (∃ h1, Answers { agents with esq := [(3, [(0x2000, 1)])] } .GNTE (.eng 3) ln.toNat 0 h1 ∧ (h1.heldSn == []) = true) ∧
    ∃ h1, Answers { agents with patom := [(5, [atomic])] } .GNTO (.port 5) ln.toNat 0 h1 ∧ (h1.heldSn == [] && look [] h1.patom 5 == [atomic] && lineOf atomic.addr == 0x80 && lineOf (atomic.addr + atomic.size - 1) == 0x80) = true :=
  ⟨answers_of (a := e3) (by decide), answers_of (a := p5) (by decide)⟩

/-- RepliesAtRequesters: a miss alone, a provisional fill, an N-NC read, a write-back, a deferred read, a refused miss of a core and of an engine, a port's writes and a write-combining write. -/
def onlyMissB (h : Hw) : Bool :=
  (List.range 64).all (fun j => (h.thread j).sqLine 0x80 == []) && (List.range 34).all (fun j => (h.core (coreKey 1 j)).fills.all (fun f => f.line != 0x80) && !has (h.core (coreKey 1 j)).pfOut 0x80) && (h.cdie 1).heldSnoops == [] && (h.cdie 1).parked == []
theorem onlyMiss_of {h : Hw} (e : onlyMissB h = true) : OnlyMiss h 1 0x80 := by
  simp only [onlyMissB, Bool.and_eq_true, List.all_eq_true, List.mem_range, beq_iff_eq, bne_iff_ne, Bool.not_eq_true'] at e
  exact ⟨fun j l => by simpa using e.1.1.1 j l, fun j l => (e.1.1.2 j l).1, fun j l => (e.1.1.2 j l).2, e.1.2, e.2⟩
def missing : Hw := { pkg th with cdies := [(1, { miss := [0x80], wbb := [0x80] })] }
theorem wit_grants : ∀ op ∈ [MsgOp.GNTE, .GNTO, .GNTS, .GNTF], ∃ h1, Answers missing op (toAgent c0) ln.toNat 0 h1 ∧ OnlyMiss h1 1 0x80 ∧ h1.dcOff 1 = false := fun _ m => by
  obtain ⟨h1, x, y⟩ := answers_of ((by decide +kernel : ∀ op ∈ [MsgOp.GNTE, .GNTO, .GNTS, .GNTF], grantB missing op c0 0 (fun h => onlyMissB h && !h.dcOff 1) = true) _ m)
  simp only [Bool.and_eq_true, Bool.not_eq_true'] at y
  exact ⟨h1, x, onlyMiss_of y.1, y.2⟩
def fetchingNc : Hw := { pkg { th with ncReads := [(0x80, false)] } with msgs := [{ op := .DATA, addr := 0x80, agent := .core 1 0, part := 1, info := 1 }] }
def wrote : Hw := { pkg th with cores := [(64, { wcbs := [{ line := 0x80, thread := 0, world := false, bytes := [(0x2000, 9)], sent := true }] })], msgs := [{ op := .DONE, addr := 0x80, agent := .core 1 0, part := 1, info := 2 }] }
def running3 : Hw := { agents with run := [(3, { piece := { slot := 0, num := 0, grans := [] } })], esq := [(3, [(0x2000, 1)])] }
def posted (l : List PWrite) : Hw := { agents with pwr := [(5, l)] }
theorem wit_replies : grantB (filled [fillOf false true false (use 1 [])]) .DATA c0 0 (fun h => (h.cdie 1).heldSnoops == [] && (h.core 64).fills.all (fun f => !f.noticed)) = true ∧ grantB fetchingNc .DATA c0 1 (fun _ => true) = true ∧
    grantB missing .WBA c0 0 (fun h => (h.cdie 1).wbWait == [] && (h.cdie 1).parked == []) = true ∧ grantB agents .WBA e3 0 (fun _ => true) = true ∧
    grantB (filled [fillOf false true false (use 1 [])]) .DFR c0 0 (fun h => (h.core (h.coreKeyOf 0)).fills.filter (fun f => f.line == 0x80 && f.inFlight && !f.settled) == [fillOf false true false (use 1 [])] && h.coreKeyOf 0 == coreKey 1 0) = true ∧
    grantB (filled [fillOf true true false (use 1 [])]) .REF c0 0 (fun h => (h.cdie 1).heldSnoops == [] && (h.cdie 1).parked == [] && (h.core 64).fills.all (fun f => f.settled)) = true ∧
    grantB running3 .REF e3 0 (fun h => h.heldSn == [] && (look? h.run 3).isSome && h.engPending 3 0x80) = true ∧
    grantB (posted [{ line := 0x80 }]) .RDY p5 0 (fun h => look [] h.pwr 5 == [{ line := 0x80 }]) = true ∧ grantB (posted [{ line := 0x81 }, { line := 0x80 }]) .RDY p5 0 (fun h => look [] h.pwr 5 == [{ line := 0x81 }, { line := 0x80 }]) = true ∧
    grantB (posted [{ line := 0x80, relaxed := true }]) .DONE p5 0 (fun h => look [] h.pwr 5 == [{ line := 0x80, relaxed := true }]) = true ∧ grantB wrote .DONE c0 2 (fun h => (h.core 64).wcbs.length == 1 && (h.core 64).wcbs.all (fun w => w.sent && w.line == 0x80)) = true := by decide

/-- SnoopTimeouts: due and not, with and without a request that waits, and an entry held. -/
def timedOut (t : Txn) : Hw := { busyAt t with now := 2 ^ 40 }
theorem wit_snoop_timeout : (timedOut (txn .RDO .INV [.core 1 0])).snoopDue 0x80 = true ∧ (busyAt { txn .RDO .INV [.core 1 0] with due := 9 }).snoopDue 0x80 = false ∧
    (((timedOut (txn .RDO .INV [.core 1 0])).freeTok 2 (.core 1 0) 0x80).txns.find? (fun t => t.key == 0x80 && (t.wait ++ t.wb).any (fun x => x.same (.core 1 0)))) = some (txn .RDO .INV [.core 1 0]) ∧ (timedOut (txn .RDO .INV [.core 1 0])).waitq = [] ∧
    StartsNow { (timedOut (txn .RDO .INV [.core 1 0])).freeTok 2 (.core 1 0) 0x80 with txns := [] } (rq .RDO) ∧ (({ txn .RDO .INV [.core 1 0] with req := none } : Txn).req) = none ∧ look? ({ pkg th with dhold := [(0x80, 0)] } : Hw).dhold 0x80 = some 0 := ⟨by decide, by decide, by decide, by decide, starts_of (by decide), rfl, by decide⟩

/-- Package services in the secure world may write every register, in every state: the premise of the statements about the writes that start a command. -/
theorem ps_may (h : Hw) (r : RegRef) (v : W64) : h.mayWrite r ps v = .ok := by
  have a : ps.world = true := rfl
  have b : ps.part.val = 0 := rfl
  unfold Hw.mayWrite
  simp [a, b]

/-! Registers, resets, the structure image and migration. -/

/-- A thread of partition 2, and package services in the normal world. -/
def p2 : Who := ⟨2, false, 3, 0, .thread⟩
def psn : Who := ⟨0, false, 3, 0, .packageServices⟩
def waitctl : RegRef := .at .CORE_WAITCTL 1
def waitPa : BitVec 52 := BitVec.ofNat 52 (regAddr .CORE_WAITCTL 1 0 0)

theorem wit_register_write : paRange waitPa.toNat = .window ∧ waitPa.toNat % 8 = 0 ∧ hostSpAt waitPa.toNat = none ∧ findReg waitPa.toNat = some waitctl ∧ ps.src ≠ .platform ∧
    (pkg th).mayWrite waitctl p2 ((pkg th).permitValue waitctl .full 5) = .r10 ∧ imgSection waitctl.name = 0 ∧
    (pkg th).mayWrite (.at .CFG_CTL 0) p2 1 = .reject := by decide
theorem wit_register_plain (half : Half) (v : W64) (k : Hw) : k.regEffect waitctl ps half v = k.writeFields waitctl ps half v := rfl

/-- A register with a staged value, at its safe point and not. -/
def quota : RegRef := .at .HOME_RCWAY 0
theorem wit_safe_point : findReg (regAddr .HOME_RCWAY 0 0 0) = some quota ∧ quota.name ∉ [RegName.SKM_QBASE, .HOME_ISET_A, .HOME_ISET_B, .MTRX_RING] ∧ (pkg th).atSafePoint quota = true ∧ look? (pkg th).shadow (regAddr .HOME_RCWAY 0 0 0) = none ∧
    look? ({ pkg th with shadow := [(regAddr .HOME_RCWAY 0 0 0, 5)] } : Hw).shadow (regAddr .HOME_RCWAY 0 0 0) = some 5 ∧ ({ pkg th with run := [(engOf 0 0, { piece := { slot := 0, num := 0, grans := [] } })] } : Hw).atSafePoint (.at .SKM_RGN_FIRST 0) = false := by decide

/-- Caches of core 0 of die 1: on, being cleaned; and the die cache. -/
theorem wit_cache_disabling : ((pkg th).core 64).cleaning = 0 ∧ (pkg th).reg .CORE_CACHE_CTL 1 0 0 = 0 ∧ (4 : W64).toNat < 8 ∧ (7 : W64).toNat < 8 ∧ (pkg th).reg .DCACHE_CTL 1 0 0 = 0 ∧
    (((pkg th).onCore 64 (fun c => { c with cleaning := 7 })).core 64).cleaning ≠ 0 ∧ ((pkg th).cdie 1).dcCleaning = false ∧ (({ pkg th with cdies := [(1, { dcCleaning := true })] } : Hw).cdie 1).dcCleaning = true := by decide

/-- A thermal trip, the commit machine at rest, and each kind of die. -/
theorem wit_resets : (pkg th).tripped = false ∧ ({ pkg th with tripped := true } : Hw).tripped = true ∧ (pkg th).cfgState = 0 ∧ look 0 (pkg th).dieOwner (dieOfThread 0) = 1 ∧ (0 : DieIx).val = 0 ∧ (12 : DieIx).val ≤ 12 ∧ 13 ≤ (13 : DieIx).val ∧
    findReg (regAddr .CORE_WAITCTL 1 0 0) = some waitctl := by decide

def lastPieces (h : Hw) : Hw := ((List.range 56).filter (fun n => look 0 h.engOwner n == 1)).foldl (fun (x : Hw) n => x.pieceEnd n) (h.partCancel 1)
theorem wit_partition_reset : (lastPieces (pkg th)).piecesOn 1 = false ∧ (lastPieces running3).piecesOn 1 = true := by decide

/-- The commit machine in each of its states; with a live image that cannot be read (one that can needs a signature, which Config leaves open); and an apply that changes no section. -/
def inState (n : Nat) : Hw := (pkg th).setFld .CFG_STAT 0 0 0 F.CFG_STAT_STATE n
theorem wit_image : (∀ n, n < 6 → (inState n).cfgState = n) ∧ (inState 1).readLive structureEngine 0x40000000 = none ∧ (inState 2).stagedWait = 0 ∧
    (∀ t, 1 ≤ t → t ≤ 15 → (inState 2).secDiffers (inState 2).otherImg (inState 2).activeImg t = false) := by decide
theorem wit_confirm : (wbits ((1 : W64) &&& halfMask .full) 12 0) &&& 1 = 1 ∧ (0 ||| wbits ((2 : W64) &&& halfMask .full) 12 0) &&& 1 ≠ 1 ∧ (inState 5).stagedWait = 0 ∧
    ((pkg th).setFld .CFG_STAT 0 0 0 F.CFG_STAT_STATE 5 |>.setStaged 2 true).stagedWait ≠ 0 := by decide

/-- STAGED_WAIT with one section and with two, a move of a die and of a GiB, and an explicit apply of core 0's block. -/
def moving : Hw := { pkg th with commit := { dieMoves := [(1, 2)], gibQueue := [(0, 2)] } }
theorem wit_structure_points : (((inState 3).setStaged 14 true).setStaged 2 true).stagedWait.testBit 14 = true ∧ (((inState 3).setStaged 14 true).setStaged 2 true).stagedWait ≠ 2 ^ 14 ∧
    ((inState 3).setStaged 14 true).stagedDone ((inState 3).setStaged 14 true).targetImg 14 = true ∧ (inState 3).stagedWait.testBit 14 = false ∧ wbit 0x8000000000000000 63 = true ∧
    (pkg th).blockOwner (F.CFG_APPLY_BLOCK.get (0x8000000000000000 ||| waitPa.zeroExtend 64) <<< 20) ≠ 0 ∧ (pkg th).blockOwner (F.CFG_APPLY_BLOCK.get 0x8000000000000000 <<< 20) = 0 ∧ (pkg th).shadow = [] := by decide
theorem wit_structure_moves : look? (pkg th).commit.dieMoves 1 = none ∧ look? moving.commit.dieMoves 1 = some 2 ∧ (moving.setReg .HOME_FENCE0 0 0 0 2).fenced (.core 1 0) = true ∧ moving.fenced (.core 1 0) = false ∧
    (moving.setReg .EVR_ONLINE 0 0 0 1).dieOffline 1 = false ∧ look? moving.commit.gibQueue 0 = some 2 ∧ moving.gibMoves = [] ∧ moving.gibKeys 0 = [] ∧
    ({ moving with gibMoves := [{ gib := 0, owner := 2, why := .owner }] } : Hw).released 0 = true := by decide

/-- Migrations: of roles that are refused and that pass, in progress, drained and not, and copied. -/
def roles : Hw := (pkg th).setFld .CORE_STATUS 1 33 0 F.CORE_STATUS_ROLE 1
def migrating (m : Migration) : Hw := { roles with cdies := [(1, { migration := some m })] }
theorem wit_migration : wbit 0x10000 16 = true ∧ (pkg th).flag .DCTL_MIGRATE 1 0 0 F.DCTL_MIGRATE_BUSY = false ∧ ((pkg th).setFld .DCTL_MIGRATE 1 0 0 F.DCTL_MIGRATE_BUSY 1).flag .DCTL_MIGRATE 1 0 0 F.DCTL_MIGRATE_BUSY = true ∧
    roles.migCheck 1 0 33 = 0 ∧ roles.migCheck 1 0 0 ≠ 0 ∧ has roles.applying 3 = false ∧ ((migrating { src := 0, dst := 33 }).cdie 1).migration = some { src := 0, dst := 33 } ∧
    (migrating { src := 0, dst := 33 }).migDrained 1 { src := 0, dst := 33 } = true ∧ ((migrating { src := 0, dst := 33 }).setThread 0 { th with sq := [(0x2000, 1)] }).migDrained 1 { src := 0, dst := 33 } = false ∧
    (migrating { src := 0, dst := 33, copied := true }).cfgState ≠ 3 ∧ (∀ t ∈ roles.threadsOn 1 0, roles.oldestUse t = none) ∧ (migrating { src := 0, dst := 33 }).migStopped 1 { src := 0, dst := 33 } = false := by decide

/-! Memory tiers. -/

/-- Staged descriptors of set 1: of one far GiB, whose port's device has room for it; of GiB 0, which set 0 has; and one that is not valid. -/
def stageSet (a b : W64) : Hw := { pkg th with cap := [(101, 64)], shadow := [(regAddr .HOME_ISET_A 0 0 1, a), (regAddr .HOME_ISET_B 0 0 1, b)] }
theorem wit_interleave : (pkg th).isetBusy ((pkg th).iset 0) = true ∧ (pkg th).isetBusy ((pkg th).iset 1) = false ∧ has (pkg th).applying 5 = false ∧ (pkg th).isetBusy ⟨0xD042000000004000, 1⟩ = false ∧
    look? (stageSet 0xD042000000004000 1).shadow (regAddr .HOME_ISET_A 0 0 1) = some 0xD042000000004000 ∧ (stageSet 0xD042000000004000 1).isetOk 1 ⟨0xD042000000004000, 1⟩ = true ∧ (stageSet 0xD042000000004000 1).openIn 16384 1 = false ∧ (stageSet 0x8042000000000000 1).isetOk 1 ⟨0x8042000000000000, 1⟩ = false ∧
    (stageSet 0 1).isetOk 1 ⟨0, 1⟩ = true ∧ (pkg th).openIn 0 1 = false ∧ look? (pkg th).shadow (regAddr .HOME_ISET_A 0 0 1) = none ∧ look? ({ pkg th with shadow := [(regAddr .HOME_RCWAY 0 0 0, 3)] } : Hw).shadow (regAddr .HOME_RCWAY 0 0 0) = some 3 := by decide

/-- A channel with its walker on; a line of the render cache, clean and dirty; a channel that sweeps and one that copies; and one with a spare. -/
def scrubbed : Hw := (pkg th).setFld .MEMC_SCRUB 0 0 0 F.MEMC_SCRUB_EN 1
def rendered (d : Bool) : Hw := { pkg th with rc := [(rcSet 0x80, [{ way := 0, line := 0x80, ddirty := d }])] }
theorem wit_scrub : (scrubbed.channelOf 0x80).map (·.1) = some 0 ∧ scrubbed.flag .MEMC_SCRUB 0 0 0 F.MEMC_SCRUB_EN = true ∧ (pkg th).channelOf 0x1000000 = none ∧ ((pkg th).setFld .MEMC_SCRUB 0 0 0 F.MEMC_SCRUB_EN 0).flag .MEMC_SCRUB 0 0 0 F.MEMC_SCRUB_EN = false ∧
    (pkg th).busy (dirKey 0x80) = false ∧ (busyAt (txn .RDO .INV [])).busy (dirKey 0x80) = true ∧ (pkg th).rcFind 0x80 = none ∧ (rendered false).rcFind 0x80 = some { way := 0, line := 0x80, ddirty := false } ∧
    (rendered true).rcFind 0x80 = some { way := 0, line := 0x80, ddirty := true } ∧ (rendered true).dirOf (dirKey 0x80) = .unc ∧ (pkg th).flag .MEMC_SCRUB 0 0 0 F.MEMC_SCRUB_SWEEP_BUSY = false ∧
    ((pkg th).setFld .MEMC_SCRUB 0 0 0 F.MEMC_SCRUB_SWEEP_BUSY 1).flag .MEMC_SCRUB 0 0 0 F.MEMC_SCRUB_SWEEP_BUSY = true := by decide
/-- A package whose structure image is committed. -/
def committed : Hw := { pkg th with committed := true }
theorem wit_sparing : has committed.applying 15 = false ∧ wbit (committed.reg .MEMC_SPARE 0 0 0) 17 = false ∧ wbit (committed.reg .MEMC_SPARE 0 0 0) 36 = false ∧ has committed.chFail 0 = false ∧ committed.committed = true ∧ wbit (0 : W64) 32 = false ∧ (pkg th).flag .MEMC_SPARE 0 0 0 F.MEMC_SPARE_BUSY = false ∧
    ((pkg th).setFld .MEMC_SPARE 0 0 0 F.MEMC_SPARE_BUSY 1).flag .MEMC_SPARE 0 0 0 F.MEMC_SPARE_BUSY = true ∧ wbit (((pkg th).setFld .MEMC_SPARE 0 0 0 F.MEMC_SPARE_RSV_VALID 1).reg .MEMC_SPARE 0 0 0) 32 = true := by decide

/-- A GiB in transition whose initialisation is due, one of a set that is being initialised, a slice that snapshots and that does not, and a far line in its set. -/
def farSet : Hw := ((pkg th).setReg .HOME_ISET_A 0 0 1 0xD042000000004000).setReg .HOME_ISET_B 0 0 1 0x0000400000000001
theorem wit_initialisation : ({ pkg th with gibMoves := [{ gib := 5, owner := 2, why := .owner, init := true }] } : Hw).gibMoves.find? (fun x => decide (x.gib = 5) && x.init) = some { gib := 5, owner := 2, why := .owner, init := true } ∧
    (let h := (pkg th).setReg .HOME_ISET_B 0 0 0 1; (List.range 32).find? (fun j => (h.iset j).valid && decide (0 = (h.iset j).base + F.HOME_ISET_B_DONE.get (h.iset j).b) && decide (F.HOME_ISET_B_DONE.get (h.iset j).b < (h.iset j).size)) = some 0) ∧
    ((pkg th).setReg .HOME_ISET_B 0 0 0 1).initWaits 0 = false ∧ (pkg th).gibMoves = [] ∧ (pkg th).hubWrites = false ∧ look [] (pkg th).boot.stage 0 = [] ∧ (pkg th).gibOwner 0 ≤ 12 ∧ wbit ((pkg th).reg .HOME_HOTSNAP 0 0 0) 63 = false ∧ wbit (((pkg th).setFld .HOME_HOTSNAP 0 0 0 F.HOME_HOTSNAP_BUSY 1).reg .HOME_HOTSNAP 0 0 0) 63 = true ∧
    (pkg th).fld .HOME_HOTCTL 0 0 0 F.HOME_HOTCTL_QUOTA = 0 ∧ ((pkg th).setFld .HOME_HOTCTL 0 0 0 F.HOME_HOTCTL_QUOTA 1).fld .HOME_HOTCTL 0 0 0 F.HOME_HOTCTL_QUOTA ≠ 0 ∧ (pkg th).flag .HOME_HOTCTL 0 0 0 F.HOME_HOTCTL_EN = false ∧
    (pkg th).isetOf (0x4000000 <<< 6) = none ∧ farSet.isetOf (0x0100000000000) = some 1 ∧ isFar (0x0100000000000 / 64) = true := by decide

/-! Skim queues and pieces. -/

/-- A queue of partition 1 in GiB 0 that is enabled, has one descriptor pending, and may be read; another's ring is not readable. -/
def queued : Hw := ((((pkg th).setQFld .SKM_QCTL 0 F.SKM_QCTL_EN 1).setQFld .SKM_QCTL 0 F.SKM_QCTL_PART 1).setQFld .SKM_QTAIL 0 F.SKM_QTAIL_TAIL 1).setQFld .SKM_QBASE 0 F.SKM_QBASE_BASE 2
def someJob : Job := { queue := 0, order := 0, part := 1, world := false }
def theJob (j : Job) : Hw := { pkg th with jobs := [(0, j)] }
theorem wit_queues : queued.nextQueue = some 0 ∧ queued.freeJob = some 0 ∧ queued.ringSize 0 = 16 ∧ (queued.agentRead 1 false 0x2000 64).isSome = true ∧ queued.qFld .SKM_QHEAD 0 F.SKM_QHEAD_INFLIGHT < 255 ∧ (queued.agentRead 1 false 0x40000000 64) = none ∧
    (pkg th).nextQueue = none ∧ look? ({ pkg th with shadow := [(regAddr .SKM_QBASE 0 0 0, 0x3000)] } : Hw).shadow (regAddr .SKM_QBASE 0 0 0) = some 0x3000 ∧
    (16 + 65536 - queued.qFld .SKM_QHEAD 0 F.SKM_QHEAD_HEAD) % 65536 ≤ queued.ringSize 0 ∧ ¬ (17 + 65536 - queued.qFld .SKM_QHEAD 0 F.SKM_QHEAD_HEAD) % 65536 ≤ queued.ringSize 0 := by decide
/-- Engine 3 of partition 1, which runs a piece at 0x2000 of a job whose address space is the physical one, with its program line resident. -/
def job1 : Job := { queue := 0, order := 0, part := 1, world := false, progVa := 0x2000, outMode := 1, outVa := 0x8000, outLen := 8192 }
def piece1 : EngRun := { piece := { slot := 0, num := 0, grans := [] }, snap := [(0x80, { data := 0x33, poison := false, stream := true, locked := true })], s := [(9, 0x40), (10, 3), (11, 0x100)] }
def engine (j : Job) (r : EngRun) : Hw :=
  let h : Hw := { pkg th with engOwner := [(3, 1)], engLast := [(3, 1, false)], jobs := [(0, j)], run := [(3, r)] }
  (h.writeNum 0x4000 8 1).setReg .XTL_AST 0 0 0 0x8000000000004000

theorem wit_jobs : look? (pkg th).jobs 0 = none ∧ look? (theJob { someJob with nosplit := true }).jobs 0 = some { someJob with nosplit := true } ∧ (∃ e ∈ ({ pkg th with jobs := [(1, someJob), (0, { someJob with ordered := true, order := 1 })] } : Hw).jobs, e.2.queue = 0 ∧ e.2.order < 1) ∧
    ({ someJob with pieces := 1, steered := true } : Job).ended.length < ({ someJob with pieces := 1, steered := true } : Job).pieces ∧ ({ someJob with steered := true, silent := true } : Job).pieces ≤ 0 ∧ ((theJob someJob).setQFld .SKM_QCTL 0 F.SKM_QCTL_TMO_MS 1).qFld .SKM_QCTL 0 F.SKM_QCTL_TMO_MS ≠ 0 ∧
    okOf ((engine job1 piece1).cplPa { job1 with steered := true }) = true := by decide

def engineOk (h : Hw) (n len : Nat) (r : EngRun) : Bool :=
  match h.engRead n .prog 2 ((h.job r.piece.slot).progVa + r.pc) len with
  | .ok (f, _) => decide (look? h.run n = some r ∧ r.halted = false ∧ r.stop = none ∧ r.argDue = false ∧ h.fenced (.eng n) = false ∧ h.engDown n = false ∧ h.atBreakpoint n = false ∧ r.pc + len ≤ 6144) &&
      (match look? f.run n with
       | some y => y == r.keep y
       | none => false)
  | .error _ => false

theorem engineOk_ready {h : Hw} {n len : Nat} {r : EngRun} (a : engineOk h n len r = true) : ∃ f q, EngReady h n len r f q := by
  unfold engineOk at a
  split at a
  · rename_i f bs e
    rw [Bool.and_eq_true, decide_eq_true_eq] at a
    obtain ⟨⟨a1, a2, a3, a4, a5, a6, a7, a8⟩, b⟩ := a
    split at b
    · rename_i y ey
      exact ⟨f, y, a1, a2, a3, a4, a5, a6, a7, a8, ⟨bs, e⟩, ey, eq_of_beq b⟩
    · cases b
  · cases a

theorem wit_engine_ready : (∃ f q, EngReady (engine job1 piece1) 3 4 piece1 f q) ∧ (∃ f q, EngReady (engine job1 piece1) 3 2 piece1 f q) ∧ (∃ f q, EngReady (engine { job1 with compat := true } piece1) 3 4 piece1 f q) :=
  ⟨engineOk_ready (by decide), engineOk_ready (by decide), engineOk_ready (by decide)⟩

/-- In a delay slot, at a loop end, halted, in a step, at a breakpoint, and with a window of bank 18. -/
def slotted : EngRun := { piece1 with pc := 4, slot := some ⟨0, 0x10, [9]⟩ }
def looping : EngRun := { piece1 with loops := [(0, ⟨0, 0, 2⟩)] }
def windowed : EngRun := { piece1 with bankCur := 18, bankNew := 18, wd := [(0, 0x6000), (1, 0x8000000000070012)] }
theorem wit_engine_places : piece1.free ∧ piece1.placed [9] ∧ ¬ looping.free ∧ (∃ f q, EngReady (engine job1 slotted) 3 4 slotted f q) ∧ slotted.slot = some ⟨0, 0x10, [9]⟩ ∧ (∃ f q, EngReady (engine job1 looping) 3 4 looping f q) ∧
    (looping.lvl 0).lc ≠ 0 ∧ (looping.lvl 0).le = looping.pc ∧ 1 < (looping.lvl 0).lc ∧ (∀ i < 3, 0 < i → (looping.lvl i).lc = 0 ∨ (looping.lvl i).le ≠ looping.pc) ∧ slotted.placed [] ∧ slotted.placed [10] :=
  ⟨⟨rfl, by decide⟩, fun _ e => (by cases e), fun e => absurd e.2 (by decide), engineOk_ready (by decide), rfl, engineOk_ready (by decide), by decide, by decide, by decide, by decide,
   fun b e => by cases e; exact ⟨by decide, by decide⟩, fun b e => by cases e; exact ⟨by decide, by decide⟩⟩

/-- Pieces: waiting on an idle engine of the same owner and of another, stopped on a fenced engine; groups of the line cache and the host's regions. -/
def waitingPiece (last : List (Nat × Nat × Bool)) : Hw := { pkg th with engOwner := [(3, 1)], engLast := last, jobs := [(0, job1)], engq := [(3, [piece1.piece])] }
theorem wit_pieces : look [] (pkg th).engq 3 = [] ∧ look? (engine job1 piece1).run 3 = some piece1 ∧ look? (waitingPiece []).run 3 = none ∧ look [] (waitingPiece []).engq 3 = [piece1.piece] ∧ (waitingPiece []).fenced (.eng 3) = false ∧
    (waitingPiece []).engDown 3 = false ∧ (waitingPiece []).fld .SKM_UCODE 0 3 0 F.SKM_UCODE_STATE ≠ 2 ∧ 16 + job1.elcAddr ≤ (waitingPiece []).elcPowered 3 ∧ (waitingPiece []).fld .SKM_SPPWR 0 3 0 F.SKM_SPPWR_ZEROING = 0 ∧
    look? (waitingPiece [(3, 1, false)]).engLast 3 = some (job1.part, job1.world) ∧ look? (waitingPiece []).engLast 3 ≠ some (job1.part, job1.world) ∧ job1.argVa = 0 ∧ piece1.stop = none ∧
    ((engine job1 { piece1 with stop := some { status := 0 } }).setReg .HOME_FENCE1 0 0 0 8).fenced (.eng 3) = true ∧ (engine job1 piece1).held = [] := by decide
/-- A piece whose argument block is still to be read and is at its engine; one that has stopped, with a chunk to close, with a store or a line left, and with nothing left. -/
def argued : Hw := { engine { job1 with argVa := 0x6000 } { piece1 with argDue := true } with elc := [(3, [(0x180, .M)])] }
def keepsRunB {α : Type} (r : EngRun) (x : Except (Hw × SkErr) (Hw × α)) : Bool :=
  match x with
  | .ok (k, _) => (match look? k.run 3 with
    | some y => y == r.keep y
    | none => false)
  | .error _ => false
def stopped : EngRun := { piece1 with stop := some { status := 0 }, chunk := some ⟨0, 0, 0, 0⟩ }
theorem wit_piece_ends : keepsRunB { piece1 with argDue := true } (argued.engRead 3 .snapshot 2 0x6000 64) = true ∧ (argued.job 0).argVa = 0x6000 ∧
    keepsRunB stopped (({ engine job1 stopped with elc := [(3, [(0x200, .M)])] } : Hw).engWrite 3 0x8000 true (toBytes 8 0 ++ toBytes 4 0 ++ toBytes 4 0) |>.map (fun k => (k, ()))) = true ∧ (engine job1 stopped).resetWait = [] ∧
    ({ stopped with closed := true } : EngRun).closed = true ∧ look [] (engine job1 stopped).esq 3 = [] ∧ look [] (engine job1 stopped).elc 3 = [] ∧ (engine job1 stopped).engWbOpen 3 = false ∧ (engine job1 stopped).engDown 3 = false ∧ (engine job1 stopped).fenced (.eng 3) = false ∧
    skUnassigned 0x00000013 = false ∧ skUnassigned 0xFFFFFFFF = true := by decide
theorem wit_engine_power : ((pkg th).setFld .SKM_ELCPWR 0 3 0 F.SKM_ELCPWR_GRP_REQ 32).fld .SKM_ELCPWR 0 3 0 F.SKM_ELCPWR_GRP_REQ = 32 ∧ Nat.testBit 32 5 = true ∧ ((pkg th).fld .SKM_ELCPWR 0 3 0 F.SKM_ELCPWR_GRP_OFF).testBit 5 = false ∧
    (pkg th).groupHeld 3 5 = false ∧ ((pkg th).fld .SKM_ELCPWR 0 3 0 F.SKM_ELCPWR_GRP_REQ).testBit 5 = false ∧ 2 ≤ wbits (0x80000000 : W64) 31 30 ∧ wbits (0 : W64) 31 30 < 2 ∧ (ps.part.val = 0) ∧
    ((pkg th).setReg .SKM_RGN_HOST 0 3 0 0xE0001FFF00000000).spAllowed 3 2 0x7FFF8 8 true = true ∧ ((pkg th).setReg .SKM_RGN_HOST 0 3 0 0xE0001FFF00000000).spAllowed 3 2 0 8 false = true ∧ (pkg th).spAllowed 3 2 0 8 true = false := by decide

/-- The fetch of the resident program leaves the package as it was. -/
def sameFetch (h : Hw) (r : EngRun) (len : Nat) : Bool :=
  match h.engRead 3 .prog 2 ((h.job r.piece.slot).progVa + r.pc) len with
  | .ok (f, _) => decide (f.run = h.run ∧ f.mem = h.mem ∧ f.regs = h.regs ∧ f.jobs = h.jobs ∧ f.elc = h.elc)
  | .error _ => false

/-- An operation succeeds and leaves the piece as it was, but for what its accesses hold. -/
def keepsPiece {α : Type} (r : EngRun) (x : Except (Hw × SkErr) (Hw × α)) : Bool :=
  match x with
  | .ok (k, _) => (match look? k.run 3 with
    | some y => y == { r with bankPend := false }.keep y
    | none => false)
  | .error _ => false
def keepsPiece1 (r : EngRun) (x : Except (Hw × SkErr) Hw) : Bool := keepsPiece r (x.map (fun k => (k, ())))

/-- The scratchpad is reached and refused; an access wraps, leaves the addressable entries, the stream, the output area, has no window, or one that does not permit it, and one that does. -/
def readOnly : EngRun := { windowed with wd := [(0, 0x6000), (1, 0x8000000000010012)] }
def closedWindow : EngRun := { windowed with wd := [(0, 0x6000), (1, 0x8000000000000012)] }
def holds (l : Nat) (h : Hw) : Hw := { h with elc := [(3, [(l, .M)])] }
theorem wit_engine_scratchpad : sameFetch (engine job1 piece1) piece1 4 = true ∧ piece1.bankCur ≤ 7 ∧ 0xFFF8 + 8 ≤ 65536 ∧ (engine job1 piece1).spAllowed 3 0 0xFFF8 8 false = true ∧ (engine job1 piece1).spAllowed 3 0 0xFFF8 8 true = true ∧
    ((engine job1 piece1).setReg .SKM_RGN_FIRST 0 3 0 0).spAllowed 3 0 0xFFF8 8 false = false ∧ 65536 < 0xFFF9 + 8 ∧ ((8 - 8) * 4096 + 0 + 8 ≤ ({ job1 with elcAddr := 1 } : Job).elcAddr * 1024) ∧ 0x1000 < 0xFFC + 8 ∧ job1.outMode ≠ 2 ∧ (5 : SReg).getLsbD 3 = false ∧ (8 : SReg).getLsbD 3 = true ∧
    (engine { job1 with elcAddr := 1 } { piece1 with bankCur := 8 }).job 0 = { job1 with elcAddr := 1 } := by decide
theorem wit_engine_windows : windowed.window 18 = some (0x6000, 0x8000000000070012) ∧ ({ piece1 with bankCur := 18 } : EngRun).window 18 = none ∧ closedWindow.window 18 = some (0x6000, 0x8000000000000012) ∧ (0x8000000000000012 : W64).getLsbD 16 = false ∧
    (0x8000000000070012 : W64).getLsbD 16 = true ∧ (0x8000000000070012 : W64).getLsbD 17 = true ∧ (0x8000000000010012 : W64).getLsbD 17 = false ∧ readOnly.window 18 = some (0x6000, 0x8000000000010012) ∧
    keepsPiece windowed ((holds 0x180 (engine job1 windowed)).engRead 3 .live 2 0x6000 8) = true ∧ keepsPiece readOnly ((holds 0x180 (engine job1 readOnly)).engRead 3 .snapshot 2 0x6000 8) = true ∧
    keepsPiece1 windowed ((holds 0x180 (engine job1 windowed)).engWrite 3 0x6000 false (toBytes 8 7)) = true ∧ keepsPiece1 windowed ((engine job1 windowed).sectorRead 3 0x6000 .live) = true ∧ keepsPiece1 readOnly ((engine job1 readOnly).sectorRead 3 0x6000 .lock) = true := by decide

/-- The stream, and append-mode output: with a chunk in use, none granted, and none left. -/
def chunked : EngRun := { piece1 with chunk := some ⟨0, 0, 0, 0⟩ }
theorem wit_engine_output : (0x40 : W64).getLsbD 63 = false ∧ (0x8000000000000000 : W64).getLsbD 63 = true ∧ chunked.chunk = some ⟨0, 0, 0, 0⟩ ∧ 0 + 64 ≤ 4080 ∧ keepsPiece1 chunked ((holds 0x200 (engine job1 chunked)).engWrite 3 (0x8000 + 16) true ((toBytes 64 7).take 8)) = true ∧
    job1.outMode = 1 ∧ piece1.chunk = none ∧ piece1.granted = [] ∧ piece1.noChunk = false ∧ ({ piece1 with noChunk := true } : EngRun).noChunk = true ∧ (piece1.readS 10).toNat = 3 ∧ (piece1.readS 11).toNat % 2 ^ 24 / 65536 ≤ 7 ∧
    (engine job1 chunked).spAllowed 3 0 (0x100 % 2 ^ 24) 3 false = true ∧ keepsPiece1 chunked ((holds 0x200 (engine job1 chunked)).engWrite 3 (0x8000 + 16) true ((List.range 3).map (fun i => (engine job1 chunked).spByte 3 (0x100 + i)))) = true ∧
    (∃ f q, EngReady (engine job1 chunked) 3 4 chunked f q) := ⟨by decide, by decide, by decide, by decide, by decide, by decide, by decide, by decide, by decide, by decide, by decide, by decide, by decide, by decide, engineOk_ready (by decide)⟩

/-- DLOOK: entries inside banks 0 to 7, one beyond them, and one that the regions refuse. -/
theorem wit_dlook : (∀ i < 64, 0x100 + lane 1 (piece1.readW 2) i * 1 + 1 ≤ 0x80000 ∧ (engine job1 piece1).spAllowed 3 0 (0x100 + lane 1 (piece1.readW 2) i * 1) 1 false = true) ∧ (∃ i < 8, 0x80000 < 0x80000 + lane 8 (piece1.readW 2) i * 8 + 8) ∧
    (∃ i < 64, ((engine job1 piece1).setReg .SKM_RGN_FIRST 0 3 0 0).spAllowed 3 0 (0x100 + lane 1 (piece1.readW 2) i * 1) 1 false = false) := by decide +kernel

/-- The control flow: the length of the next instruction, a loop end that may be one and that may not, halts, a step, a secure queue and a breakpoint. -/
def halted : EngRun := { piece1 with halted := true }
def stepper : EngRun := { piece1 with stepping := true }
def ending : EngRun := { piece1 with snap := [(0x80, { data := 0x33 + 2 * 2 ^ 64, poison := false, stream := true, locked := true })] }
def okWord (x : SkM (Hw × Nat)) (p : Nat → Bool) : Bool :=
  match x with
  | .ok (_, q) => p q
  | .error _ => false
theorem wit_engine_control : keepsPiece piece1 ((engine job1 piece1).progLen 3 piece1 job1 4) = true ∧ keepsPiece piece1 ((engine job1 piece1).progWord 3 piece1 job1 8) = true ∧ okWord ((engine job1 piece1).progWord 3 piece1 job1 8) (fun q => !endClass q) = true ∧ okWord ((engine job1 ending).progWord 3 ending job1 8) endClass = true ∧
    (8 : Nat) ≠ piece1.pc ∧ (∀ m < 0, (piece1.lvl m).lc = 0) ∧ (piece1.readS 9).toNat ≤ 0xFFFFFFFF ∧ (piece1.readS 0).toNat = 0 ∧ 0xFFFFFFFF < (({ piece1 with s := [(9, 0x100000000)] } : EngRun).readS 9).toNat ∧ piece1.stepping = false := by decide
theorem wit_engine_halts : piece1.halted = false ∧ piece1.stop = none ∧ (engine job1 piece1).plat.resetLow = false ∧ job1.world = false ∧ halted.halted = true ∧ look? (engine job1 halted).run 3 = some halted ∧ (∃ f q, EngReady (engine job1 stepper) 3 4 stepper f q) ∧ stepper.stepping = true ∧ stepper.free ∧
    ((engine job1 piece1).setReg .SKM_BPADDR 0 3 0 0x8000000000000000).atBreakpoint 3 = true ∧ (engine job1 piece1).atBreakpoint 3 = false ∧ (engine { job1 with world := true } piece1).job 0 = { job1 with world := true } ∧ sameFetch (engine job1 stepper) stepper 4 = true :=
  ⟨by decide, by decide, by decide, by decide, by decide, by decide, engineOk_ready (by decide), by decide, ⟨rfl, by decide⟩, by decide, by decide, by decide, by decide⟩

/-! Device accesses, the router and the fabric. -/

/-- Port 5 with its link up, partition 1 as a requester, an address in its configuration space and one that no bus answers. -/
def up5 : Hw := { ported with portUp := [5] }
def p1 : Who := ⟨1, false, 3, 0, .thread⟩
def cfgPa : Nat := mmioBase + 5 * 2 ^ 41 + 0x100000
def reachesB (h : Hw) (op : MsgOp) (w : Who) (pa : Nat) (v : W64) (b : Hw → Bool) : Bool :=
  let p := h.accessPkt w op pa v
  comes (fun h1 => h1.edgeOf p.msg == none && !(p.waits && h1.isStale p.msg.ends.2 p.msg.epoch) && b h1) (h.receive p .good)
theorem reaches_of {h : Hw} {op : MsgOp} {w : Who} {pa : Nat} {v : W64} {b : Hw → Bool} (e : reachesB h op w pa v b = true) : ∃ h1, Reaches h op w pa v h1 ∧ b h1 = true := by
  obtain ⟨h1, x, y⟩ := comes_ex e
  simp only [Bool.and_eq_true, beq_iff_eq] at y
  exact ⟨h1, ⟨x, y.1.1, by simpa only [Bool.not_eq_true'] using y.1.2⟩, y.2⟩

/-- DeviceAccessResults: requests that a partition owns, on a link that is up and down; of another partition; of a configuration space; and at a register. -/
def owns5 (h : Hw) : Bool := look 0 h.portOwner 5 == 1
def at5 (w : DevWait) (h : Hw) : Bool := (h.thread 0).devOpen == some w && w.addr == mmioPa && !w.posted
theorem wit_device_requests : (∃ h1, Reaches up5 .POSTWR p1 mmioPa 7 h1 ∧ (owns5 h1 && has h1.portUp 5) = true) ∧ (∃ h1, Reaches ported .POSTWR p1 mmioPa 7 h1 ∧ (owns5 h1 && !has h1.portUp 5) = true) ∧
    (∃ h1, Reaches (pkg th) .REGRD p1 mmioPa 0 h1 ∧ (!owns5 h1 && (h1.thread 0).devOpen == none) = true) ∧ (∃ h1, Reaches (waitsFor (devWait true)) .REGWR p1 mmioPa 7 h1 ∧ (!owns5 h1 && at5 (devWait true) h1) = true) ∧
    (∃ h1, Reaches up5 .REGRD p1 mmioPa 0 h1 ∧ (owns5 h1 && has h1.portUp 5) = true) ∧ (∃ h1, Reaches { waitsFor (devWait false) with portOwner := [(5, 1)] } .REGRD p1 mmioPa 0 h1 ∧ (owns5 h1 && !has h1.portUp 5 && at5 (devWait false) h1) = true) ∧
    paRange mmioPa = .mmio ∧ portOfPa mmioPa = 5 ∧ busZero mmioPa = none ∧ p1.world = false ∧ isConfig cfgPa = true ∧ busZero (mmioBase + 5 * 2 ^ 41) = some true ∧ busZero (mmioBase + 5 * 2 ^ 41 + 0x8000) = some false :=
  ⟨reaches_of (by decide), reaches_of (by decide), reaches_of (by decide), reaches_of (by decide), reaches_of (by decide), reaches_of (by decide), by decide, by decide, by decide, by decide, by decide, by decide, by decide⟩
theorem wit_window_requests : (∃ h1, Reaches (pkg th) .REGRD p1 waitPa.toNat 0 h1 ∧ h1.mayRead waitctl p1 = true) ∧ (∃ h1, Reaches (pkg th) .REGRD p2 waitPa.toNat 0 h1 ∧ (!h1.mayRead waitctl p2) = true) ∧ (∃ h1, Reaches (pkg th) .REGWR ps waitPa.toNat 5 h1 ∧ true = true) ∧
    platformOk waitctl.name p1 = true ∧ platformOk waitctl.name p2 = true ∧ platformOk waitctl.name ps = true := ⟨reaches_of (by decide), reaches_of (by decide), reaches_of (by decide), by decide, by decide, by decide⟩

/-- A thread that waits for a load, for a D-S store, for a D-P store and for two lanes, and whose answer comes. -/
def replyB (h : Hw) (op : MsgOp) (w : DevWait) (b : Hw → Bool) : Bool := comes (fun h1 => b (h1.freeRsp (h.accessAnswer op 0 w).msg.ends.2 (h.accessAnswer op 0 w).msg.txid)) (h.receive (h.accessAnswer op 0 w) .good)
theorem reply_of {h : Hw} {op : MsgOp} {w : DevWait} {b : Hw → Bool} (e : replyB h op w b = true) : ∃ g, ReplyComes h op 0 w g ∧ b g = true := by
  obtain ⟨h1, x, y⟩ := comes_ex e
  exact ⟨_, ⟨h1, x, rfl⟩, y⟩
def answered (w : DevWait) (op : MsgOp) : Bool := replyB (waitsFor w) op w (fun g => (g.thread 0).dev == some w) && ((waitsFor w).thread 0).devOpen == some w && !(waitsFor w).devFlying 0 w
def loadWait : DevWait := { devWait false with dest := some (3, true) }
def postWait : DevWait := { devWait true with acc := [{ devAcc with posted := true }] }
def laneWait : DevWait := { devWait false with acc := [devAcc, { devAcc with pa := mmioPa + 8 }], vd := some (1, false) }
def configWait : DevWait := { loadWait with acc := [{ devAcc with pa := cfgPa }] }
theorem wit_device_waits : (∃ g, ReplyComes (waitsFor loadWait) .REGCPL 0 loadWait g ∧ ((g.thread 0).dev == some loadWait) = true) ∧ answered loadWait .REGCPL = true ∧ answered (devWait true) .REGCPL = true ∧ answered laneWait .REGCPL = true ∧ answered configWait .REGCPL = true ∧ answered postWait .POSTACK = true ∧
    postWait.posted = true ∧ loadWait.posted = false ∧ paRange loadWait.addr = .mmio ∧ isConfig configWait.addr = true ∧ isConfig loadWait.addr = false ∧ loadWait.got = [] ∧ loadWait.stop = none ∧ paRange (mmioPa + 8) = .mmio ∧ loadWait.atPort 5 = true := ⟨reply_of (by decide), by decide⟩

/-- Stores in a port's queue, and an error message on its way to a thread. -/
def inQueue : Hw := { up5 with dpq := [(5, [{ thread := 0, addr := mmioPa, data := [1] }])], dpErrs := [⟨5, 0, mmioPa, 0x44⟩] }
theorem wit_device_queues : (look [] inQueue.dpq 5).filter (fun e => e.thread == 0) = [{ thread := 0, addr := mmioPa, data := [1] }] ∧ (inQueue.thread 0).devOpen = none ∧ inQueue.dpErrs = ⟨5, 0, mmioPa, 0x44⟩ :: inQueue.dpErrs.drop 1 ∧
    (∀ e ∈ look [] inQueue.dpq 5, e.thread ≠ 1) ∧ (∀ e ∈ inQueue.dpErrs, ¬ (e.port = 5 ∧ e.thread = 1)) ∧ look [] up5.dpq 5 = [] ∧ (∀ b ∈ up5.thr, b.2.dev = none) ∧ has inQueue.portUp 5 = true ∧ has ported.portUp 5 = false := by decide
/-- Raises of source 0x230, of partition 1, enabled and not; with the partition's instance on and off, entries that route, mask, and are not valid, and a thread that is online. -/
def routes (r : Raise) (w : Option W64) (on : Bool) : Hw :=
  let h : Hw := { pkg th with raises := [r], evCache := (w.map (fun x => [(65536 + 7, x)])).getD [] }
  let h1 := ((h.setFld .EVR_SRC 0 0 r.source F.EVR_SRC_EN 1).setFld .EVR_SRC 0 0 r.source F.EVR_SRC_VECTOR 7).setReg .EVR_ONLINE 0 0 0 1
  if on then h1.setFld .EVR_CTL 0 0 1 F.EVR_CTL_EN 1 else h1
def port5 : Raise := { source := 0x23E, part := 1 }
theorem wit_router_sources : (routes port5 none false).raises = [port5] ∧ port5.vec = none ∧ srcAssigned port5.source = true ∧ (routes port5 none false).flag .EVR_SRC 0 0 port5.source F.EVR_SRC_EN = true ∧ srcMode port5.source ≠ 1 ∧ srcMode port5.source ≠ 2 ∧
    ({ pkg th with raises := [port5] } : Hw).flag .EVR_SRC 0 0 port5.source F.EVR_SRC_EN = false ∧ srcAssigned 0x23F = false ∧ ((routes port5 none false).srcPart port5.source).getD port5.part = 1 ∧ ((pkg th).srcPart 0x230).getD 0 = 0 ∧
    (routes port5 none true).flag .EVR_CTL 0 0 1 F.EVR_CTL_EN = true ∧ (routes port5 none false).flag .EVR_CTL 0 0 1 F.EVR_CTL_EN = false ∧ (routes port5 none true).evPend = [] := by decide
theorem wit_router_entries : look? (routes port5 (some 0x9000000000000000) true).evCache (65536 * 1 + 7) = some 0x9000000000000000 ∧ ((0x9000000000000000 : W64).getLsbD 63 = true ∧ wbits 0x9000000000000000 61 60 ≠ 0 ∧ wbits 0x9000000000000000 58 10 = 0 ∧ (0x9000000000000000 : W64).getLsbD 59 = false) ∧
    (0xD000000000000000 : W64).getLsbD 62 = true ∧ (0x9000000000000000 : W64).getLsbD 62 = false ∧ (0x1000000000000000 : W64).getLsbD 63 = false ∧ (routes port5 none true).evTarget 1 0 = true ∧ (look [] (routes port5 none true).evSlots 0).length < 4 ∧ ((routes port5 none true).thread 0).run ≠ .migrating ∧
    (routes port5 none true).fld .EVR_CTL 0 0 1 F.EVR_CTL_FALLBACK = 0 ∧ 4 ≤ (look [] [(0, [1, 2, 3, 4])] 0).length := by decide
theorem wit_router_messages : ({ pkg th with evFly := [(0, none)] } : Hw).firstFly 0 = some ((0, none), []) ∧ (pkg th).firstFly 0 = none ∧ ({ pkg th with evFly := [(0, some { vector := 7, level := 1, source := 0x1C8, sev := 0, code := 0, inst := 1 })] } : Hw).firstFly 0 = some ((0, some { vector := 7, level := 1, source := 0x1C8, sev := 0, code := 0, inst := 1 }), []) ∧
    paRange (0xEFFFFFFFF0000 + 0x1000) = .message ∧ (0xEFFFFFFFF0000 + 0x1000 - 0xEFFFFFFFF0000) / 0x1000 = 1 ∧ (0xEFFFFFFFF0000 + 0x1000) % 4 = 0 ∧ wbits (0xEFFF : W64) 31 16 = 0 ∧ wbits (0xEFFF : W64) 15 0 < 0xF000 ∧ ¬ wbits (0xF000 : W64) 15 0 < 0xF000 ∧
    look [] ported.pwr 5 = [] ∧ (pkg th).partOf 0 = 1 ∧ (pkg th).fenced (.core (dieOfThread 0) 0) = false ∧ (pkg th).evSlots = [] := by decide


/-- FabricResults: stops of engine 0 and of a home, a core's and a hub agent's; a shared slot that is free, one that is not, and a pool of none; a granted slot with a message that waits for it, and without; an answer at a domain's edge. -/
def home0 : StopRef := ⟨0, 0⟩
def eng0 : StopRef := ⟨0, 0x38⟩
def noFree : Hw := { pkg th with toks := (sharedPool (stopNum home0) (stopNum eng0) 0).map (fun k => ⟨stopNum home0, 0, k, stopNum eng0, none, 0⟩) }
def rdsOf (a : Agent) : Msg := { op := .RDS, addr := 0, agent := a }
def grantedSlot : Hw := { pkg th with toks := [⟨(rdsOf (.eng 0)).slotStop, 0, 5, (rdsOf (.eng 0)).ends.1, none, 0⟩], tokWait := [rdsOf (.eng 0)] }
def slotFor (m : Msg) : Bool := decide (m.slotStop = (rdsOf (.eng 0)).slotStop ∧ m.ends.1 = (rdsOf (.eng 0)).ends.1) && m.op.slotKind == some 0
theorem wit_fabric : stopOk home0 = true ∧ stopOk eng0 = true ∧ (pkg th).treqs = [] ∧ (pkg th).poolOpen (stopNum home0) = true ∧ ((pkg th).freeSlot (stopNum home0) 0 (sharedPool (stopNum home0) (stopNum eng0) 0)).isSome = true ∧ sharedPool (stopNum home0) (stopNum eng0) 0 ≠ [] ∧
    noFree.freeSlot (stopNum home0) 0 (sharedPool (stopNum home0) (stopNum eng0) 0) = none ∧ sharedPool (stopNum home0) (stopNum ⟨1, 0⟩) 1 = [] ∧ agentOfStop (stopNum eng0) = .eng 0 ∧ (agentOfStop (stopNum ⟨1, 2⟩)).cdie = some 1 ∧ opOf 1 = some .RDS ∧
    (rdsOf (.eng 0)).slotStop = stopNum home0 ∧ (rdsOf (.eng 0)).ends.1 = stopNum eng0 ∧ takeFirst slotFor grantedSlot.tokWait = some (rdsOf (.eng 0), []) ∧ takeFirst slotFor (pkg th).tokWait = none ∧ 5 ∉ dedicated (stopNum home0) (stopNum eng0) 0 ∧
    (pkg th).sleepers = [] ∧ (∃ x ∈ ({ pkg th with sleepers := [⟨stopNum home0, rdsOf (.eng 0)⟩] } : Hw).sleepers, x.names (stopNum home0) (stopNum eng0) 1 0 = true) := by decide
theorem wit_role_epochs : (pkg th).stopIdle (stopNum eng0) = true ∧ look [] (pkg th).epochPend 0 = [] ∧ look? (pkg th).epochAt 0 = none ∧ look? ({ pkg th with epochAt := [(0, 0)] } : Hw).epochAt 0 = some 0 ∧ ¬ 0 + 32000000 ≤ (pkg th).now ∧ 251 < age 0 (look ((0 + 5) % 256) [(0, 4)] 0) := by decide
/-! Power. -/

/-- Core 0 of die 1, running and in Satin; held, closing, waking, and requested; with a thread that permits deep states. -/
def sleeping : Hw := pkg { th with run := .offline }
def goal (h : Hw) (n g : Nat) : Hw := { h with domGoal := [(domKey 1 n, g)] }
theorem wit_domain_requests : (domDeepest 1 0).isSome = true ∧ (domDeepest 1 0).getD 0 = 3 ∧ ¬ (domDeepest 0 0).getD 0 ≥ 3 ∧ psn.world = false ∧ ps.world = true ∧ sleeping.domActive 1 0 = false ∧ (sleeping.reg .PWR_DOM 1 0 0).getLsbD 55 = false ∧ ((sleeping.setFld .PWR_DOM 1 0 0 F.PWR_DOM_SHELD 1).reg .PWR_DOM 1 0 0).getLsbD 55 = true ∧
    (sleeping.reg .PWR_REF0 1 0 0).getLsbD 63 = false ∧ wbits (0x0C00000000000000 : W64) 59 58 = 3 ∧ wbits (0x0C00000000000000 : W64) 57 56 = 0 ∧ sleeping.domCur 1 0 < 3 ∧ sleeping.childrenAt 1 0 3 = true ∧ sleeping.childrenAt 1 36 3 = false ∧ (pkg th).childrenAt 1 0 3 = false ∧
    psn.part.val = 0 ∧ sleeping.fld .PWR_DOM 1 0 0 F.PWR_DOM_AUTO ≤ 3 ∧ sleeping.fld .PWR_DOM 1 0 0 F.PWR_DOM_REQ ≤ 3 ∧ look? sleeping.domGoal (domKey 1 0) = none := by decide
theorem psn_may (h : Hw) : h.mayWrite (.at .PWR_DOM 1 0 0) psn 0x0C00000000000000 = .ok := by
  unfold Hw.mayWrite
  simp [psn, RegRef.at]
theorem wit_domain_closing : closes 1 36 = true ∧ closes 1 0 = false ∧ (look? (goal sleeping 36 2).domGoal (domKey 1 36) = some 2) ∧ sleeping.domCur 1 36 ≤ 3 ∧ sleeping.domBusy 1 36 = false ∧ ({ sleeping with cdies := [(1, { miss := [0x80] })] } : Hw).domBusy 1 36 = true ∧
    (sleeping.setCur 1 36 4).domCur 1 36 = 4 ∧ look? ({ sleeping with closing := [(domKey 1 36, { target := 3 })] } : Hw).closing (domKey 1 36) = some { target := 3 } ∧ ((sleeping.setCur 1 36 4).cdie 1).wbb = [] ∧ (sleeping.setCur 1 36 5).domCur 1 36 = 5 ∧
    look? (goal sleeping 36 8).domGoal (domKey 1 36) = some 8 ∧ look? (goal sleeping 0 2).domGoal (domKey 1 0) = some 2 ∧ sleeping.childrenAt 1 0 2 = true ∧ (sleeping.setCur 1 0 1).domCur 1 0 = 1 ∧ (sleeping.setCur 1 0 3).domCur 1 0 = 3 ∧ (sleeping.setFld .PWR_DOM 1 0 0 F.PWR_DOM_AUTO 1).fld .PWR_DOM 1 0 0 F.PWR_DOM_AUTO = 1 ∧
    sleeping.childrenAt 1 0 1 = true := by decide
theorem wit_domain_wakes : (let h := sleeping.setReg .PWR_AOTIMER 1 0 0 0x8000000000000000; (h.reg .PWR_AOTIMER 1 0 0).getLsbD 63 = true ∧ wbits (h.reg .PWR_AOTIMER 1 0 0) 47 0 ≤ h.aoTick ∧ wbits (h.reg .PWR_AOTIMER 1 0 0) 59 54 = 0) ∧ (sleeping.reg .PWR_AOTIMER 1 0 0).getLsbD 63 = false ∧
    sleeping.aoTick < wbits (0x8000000000000001 : W64) 47 0 ∧ (sleeping.setLinkState 0 4).linkState 0 true = 4 ∧ sleeping.linkState 0 true ≠ 4 ∧ (sleeping.setLinkState 0 2).linkState 0 true = 2 ∧ dieOfNode 0 = some 1 ∧ dieOfNode 19 = none ∧ sleeping.lathState 19 0 ≠ 4 := by decide

/-- A domain at a state of rest, at a tick at which nothing was recorded of it, wakes; a spare core and an idle core at Satin do not count. -/
def riseB (h : Hw) (d n : Nat) : Bool := !h.deepIdle && decide (1 ≤ h.domCur d n ∧ h.domCur d n ≤ 3) && !(decide (1 ≤ d ∧ d ≤ 12 ∧ n < 34) && (h.fld .CORE_STATUS d n 0 F.CORE_STATUS_ROLE == 1 || h.fld .CORE_STATUS d n 0 F.CORE_STATUS_ROLE == 2)) && (h.domCur d n != 3 || !h.heldIdle d n) &&
  (wbits (h.reg .PWR_WAKE_LAST d 0 0) 59 54 != n || wbits (h.reg .PWR_WAKE_LAST d 0 0) 63 60 == 0)
/-- Nothing holds up the end of a transition. -/
def stillB (h : Hw) (d n : Nat) : Bool := !h.deepIdle && !has h.reqPend (domKey d n) && (h.cdie d).heldSnoops.isEmpty
theorem wit_domain_rises : riseB (sleeping.setCur 1 0 1) 1 0 = true ∧ riseB (sleeping.setCur 1 0 3) 1 0 = true ∧ riseB (sleeping.setCur 1 36 3) 1 36 = true ∧ riseB ((sleeping.setCur 1 36 2).setLinkState 0 4) 1 36 = true ∧ ((sleeping.setCur 1 36 2).setLinkState 0 4).linkState 0 true = 4 ∧ riseB (sleeping.setCur 16 1 2) 16 1 = true ∧ hpDie 0 = 1 ∧
    (sleeping.setCur 1 0 1).fld .PWR_DOM 1 0 0 F.PWR_DOM_AUTO ≤ 3 ∧ look? (sleeping.setCur 1 0 1).domGoal (domKey 1 0) = none := by decide
theorem wit_domain_ends : stillB (sleeping.setCur 1 36 4) 1 36 = true ∧ stillB (sleeping.setCur 1 0 5) 1 0 = true ∧ (∀ p ∈ domParents 1 0, (sleeping.setCur 1 0 5).domCur 1 p = 0) ∧ (∃ p ∈ domParents 1 0, (sleeping.setCur 1 36 5).domCur 1 p ≠ 0) ∧ stillB sleeping 1 0 = true ∧
    fabricPort 1 36 = some 0 ∧ (sleeping.setLinkState 0 3).linkState 0 true = 3 ∧ sleeping.linkState 0 true ≠ 3 ∧ look? sleeping.sleepReq 0 = none ∧ (sleeping.setCur 16 1 5).domCur 16 1 = 5 ∧ look? ({ sleeping with domGoal := [(domKey 16 1, 8)] } : Hw).domGoal (domKey 16 1) = some 8 ∧
    sleeping.domCur 1 0 < sleeping.ownState 1 0 ∧ (sleeping.setCur 1 0 3).ownState 1 0 ≤ 3 ∧ (pkg th).ownState 1 0 ≤ (pkg th).domCur 1 0 ∧ (pkg { th with run := .waiting 1 }).domCur 1 0 = 0 ∧ (pkg { th with run := .waiting 1 }).ownState 1 0 = 1 := by decide

/-- A cluster below, above and at its goal; a die under fast throttle; a sensor that failed; currents and supplies at their limits; deep idle. -/
def allDust : Hw := (List.range 12).foldl (fun (h : Hw) i => h.setCur (i + 1) 36 3) { deepOk := true }
theorem wit_frequency : (let h := (pkg th).setFld .CLK_CLUSTER 1 0 0 F.CLK_CLUSTER_FCUR 6; h.fld .CLK_CLUSTER 1 0 0 F.CLK_CLUSTER_FCUR < min (min 0x22 (max 6 (h.fld .CLK_CLUSTER 1 0 0 F.CLK_CLUSTER_FMAX))) (h.fld .CLK_CLUSTER 1 0 0 F.CLK_CLUSTER_FCEIL) ∨ h.fld .CLK_CLUSTER 1 0 0 F.CLK_CLUSTER_FMAX ≤ 6) ∧
    (let h := (pkg th).setFld .CLK_CLUSTER 1 0 0 F.CLK_CLUSTER_FCUR 34; min 12 (min (min 0x22 (max 6 (h.fld .CLK_CLUSTER 1 0 0 F.CLK_CLUSTER_FMAX))) (h.fld .CLK_CLUSTER 1 0 0 F.CLK_CLUSTER_FCEIL)) < h.fld .CLK_CLUSTER 1 0 0 F.CLK_CLUSTER_FCUR) ∧
    (pkg th).pllRuns 1 34 = true ∧ ((pkg th).setCur 1 34 2).pllRuns 1 34 = false ∧ (pkg th).fld .PWR_THERM 1 0 0 F.PWR_THERM_FAST_THR = 0 ∧ (List.replicate 17 48).length = 17 ∧ (List.replicate 17 48).sum + 2 ≤ 820 ∧ 820 < (List.replicate 17 49).sum + 2 ∧ 50 < (51 :: List.replicate 16 1).getD 0 0 ∧ (pkg th).supplyW = none ∧ (pkg th).coolW = none := by decide
theorem wit_heat : (pkg th).sensorFailed 1 0 = false ∧ ((pkg th).setFld .PWR_TCAL 1 0 0 F.PWR_TCAL_FAILED 1).sensorFailed 1 0 = true ∧ (pkg th).fld .PWR_THERM 1 0 0 F.PWR_THERM_TCTL = 0 ∧ 105 - 5 < (101 : BitVec 8).toNat ∧ (98 : BitVec 8).toNat + min 20 (max 2 0) ≤ 105 - 5 ∧ 105 - 5 < (99 : BitVec 8).toNat + min 20 (max 2 0) ∧
    ((pkg th).setFld .PWR_THERM 1 0 0 F.PWR_THERM_CTL_THR 1).fld .PWR_THERM 1 0 0 F.PWR_THERM_CTL_THR = 1 ∧ 105 ≤ (105 : BitVec 8).toNat ∧ 105 + 10 ≤ (115 : BitVec 8).toNat ∧ (114 : BitVec 8).toNat < 105 + 10 ∧ 1500 < (1501 : BitVec 12).toNat ∧ (1500 : BitVec 12).toNat ≤ 1500 ∧ 99 ≤ look 0 ({ pkg th with curOver := [(1, 99)] } : Hw).curOver 1 ∧
    (899 : BitVec 12).toNat < 900 ∧ 999 ≤ look 0 ({ pkg th with curUnder := [(1, 999)] } : Hw).curUnder 1 ∧ (pkg th).plat.supplyCond = false ∧ has (pkg th).groupOff 0 = false ∧ 4 ≤ ({ pkg th with vinBad := 4 } : Hw).vinBad ∧ 630 < (631 : BitVec 12).toNat := by decide
theorem wit_deep_idle : allDust.deepOk = true ∧ allDust.deepIdle = false ∧ (∀ i < 12, allDust.domCur (i + 1) 36 = 3) ∧ allDust.jobs = [] ∧ (∀ q < 96, allDust.queueWaits q = false) ∧ allDust.portOwner = [] ∧ allDust.fld .CFG_STAT 0 0 0 F.CFG_STAT_STATE ∉ [3, 4, 5] ∧ ({ allDust with deepIdle := true } : Hw).deepIdle = true ∧ allDust.wakeOnExit = [] := by decide

/-! Links. -/

/-- Torus frames: whole, damaged, already taken, to a die that switches its firmware, and one that its source keeps. -/
def frame : FrameRef := { dst := 5, src := 0, type := 1, seq := 7, alt := false, p3 := false, payload := [1], crcOk := true }
def keptFrame (sends : Nat) : TFrame := { dst := 5, src := 0, type := 1, seq := 7, p3 := false, payload := [1], sends := sends }
theorem wit_torus : frame.payload.length ≤ 52 ∧ frame.crcOk = true ∧ ({ frame with crcOk := false } : FrameRef).crcOk = false ∧ (dieOfNode 5 = none ∧ (hubNode 5).isSome = true ∧ has ({ pkg th with fwSwitch := [0] } : Hw).fwSwitch 0 = true) ∧ has (pkg th).fwSwitch 0 = false ∧
    look? ({ pkg th with torusRx := [(100, keptFrame 1)] } : Hw).torusRx (20 * 5 + 0) = some (keptFrame 1) ∧ (pkg th).torusRx = [] ∧ (pkg th).torusTx = [] ∧ ((keptFrame 3).sends < 4 ∧ 4 ≤ (keptFrame 4).sends) ∧ decide ((keptFrame 4).src = 0 ∧ (keptFrame 4).dst = 5 ∧ (keptFrame 4).seq = 7) = true := by decide

/-- A lath link in each state, with envelopes kept, with failures counted, and with a lane under re-equalisation. -/
def lath (st : Nat) : Hw := ((pkg th).setLathFld 0 0 F.LATH_PORT_STATE st).setLathFld 4 1 F.LATH_PORT_STATE st
theorem wit_lath : (∀ st, st < 6 → (lath st).lathState 0 0 = st) ∧ peerNode 0 0 = 4 ∧ peerPort 0 = 1 ∧ (lathRef 0 0).isSome = true ∧ (lathRef 19 0).isSome = false ∧ ((lath 2).lathEnd 0 0).kept = [] ∧ (({ lath 2 with lath := [(0, { kept := [(1, keptFrame 1)] })] } : Hw).lathEnd 0 0).kept ≠ [] ∧
    (({ lath 2 with lath := [(0, { rxSeq := some 3 })] } : Hw).lathEnd 0 0).rxSeq = some 3 ∧ (lath 1).lathFld 0 0 F.LATH_PORT_FAILS < 2 ∧ 2 ≤ ((lath 1).setLathFld 0 0 F.LATH_PORT_FAILS 2).lathFld 0 0 F.LATH_PORT_FAILS ∧ (0 ||| 0 : BitVec 2).toNat = 0 ∧ (1 ||| 2 : BitVec 2).toNat = 3 ∧
    (({ lath 3 with lath := [(0, { reeq := some true })] } : Hw).lathEnd 0 0).reeq = some true ∧ ((lath 2).lathEnd 0 0).reeq = none := by decide

/-- A scrim link in each state, with spares in use, with a repair and a training in progress. -/
def scrim (st : Nat) : Hw := (pkg th).setLinkState 0 st
theorem wit_scrim : (∀ st, st < 6 → (scrim st).linkState 0 true = st ∧ (scrim st).linkState 0 false = st) ∧ hpDie 0 = 1 ∧ (7 : BitVec 4).toNat < linkGroups 0 ∧ (15 : BitVec 4).toNat < linkGroups 3 ∧ ¬ (8 : BitVec 4).toNat < linkGroups 0 ∧ (143 : BitVec 8).toNat < 144 ∧ (scrim 3).rmapList 0 true 0 true = [] ∧
    (scrim 3).rmapList 0 false 0 false = [] ∧ (let h := (scrim 3).setRmap 0 true 0 false [1, 2]; 2 < (union (h.rmapList 0 true 0 false) [3]).length) ∧ (let h := (scrim 3).setRmap 0 true 0 true [1, 2]; 2 < (union (h.rmapList 0 true 0 true) ([(3 : BitVec 8).toNat, (0xFF : BitVec 8).toNat].filter (fun x => decide (x < 144)))).length) ∧
    look? ({ scrim 3 with repairs := [(endKey 0 true, ⟨0, 5, 0⟩)] } : Hw).repairs (endKey 0 true) = some ⟨0, 5, 0⟩ ∧ look? ({ scrim 3 with sleepReq := [(0, 1)] } : Hw).sleepReq 0 = some 1 ∧ look? (scrim 3).sleepReq 0 = none ∧ look? (scrim 3).training 0 = none ∧
    look? ({ scrim 1 with training := [(0, true)] } : Hw).training 0 = some true ∧ look? ({ scrim 1 with training := [(0, false)] } : Hw).training 0 = some false ∧ look 0 (scrim 1).trainFails 0 < 2 ∧ 2 ≤ look 0 ({ scrim 1 with trainFails := [(0, 2)] } : Hw).trainFails 0 ∧
    (∃ e ∈ (held (.owned (.core 1 0) 1)).dir, (∃ d ∈ [0], e.2 = .owned (.core 1 d) 1)) ∧ (pkg th).dir = [] ∧ ((scrim 3).setFld .SLINK_CTL_HP 0 0 0 F.SLINK_CTL_RECAL_EN 1).fld .SLINK_CTL_HP 0 0 0 F.SLINK_CTL_RECAL_EN = 1 := by decide
theorem wit_scrim_maps : (scrim 3).fld .SLINK_CTL_HP 0 0 0 F.SLINK_CTL_RECAL_EN = 1 ∧ (∀ g < 16, (scrim 3).rmapList 0 true g true = []) ∧ (∀ g < 16, (scrim 3).rmapList 0 false g false = []) := by decide

/-! The secure world and boot. -/

def active (wd : Bool) (started : Nat) : Act := { depth := 0, recAddr := 0x3000, lowm := 0, started := started, wdRaised := wd }
def activation (a : Act) : Hw := { pkg { th with act := some a } with now := 1000000000 }
/-- A gate record area that is secure: GiB 0 of partition 1, marked. -/
def secureArea : Hw := (pkg th).setGibSecure 0 true
theorem wit_secure_world : ((pkg th).thread 0).act = none ∧ ((activation (active false 0)).thread 0).act = some (active false 0) ∧ (activation (active false 0)).now = 1000000000 ∧ (active false 0).started + 1000000 * max 1 ((activation (active false 0)).fld .SEC_SWCTL 0 0 0 F.SEC_SWCTL_WD_MS) ≤ 1000000000 ∧
    1000000000 < (active false 1).started + 1000000 * max 1 ((activation (active false 0)).fld .SEC_SWCTL 0 0 0 F.SEC_SWCTL_WD_MS) ∧ (active true 0).wdRaised = true ∧ psn.world = false ∧ (pkg th).fld .SEC_SWCTL 0 0 0 F.SEC_SWCTL_STATE = 0 ∧ wbits (0x4000000000000000 : W64) 63 62 = 1 ∧ secureArea.grecSecure 1 = true ∧ (pkg th).grecSecure 1 = false ∧
    ((pkg th).setFld .SEC_SWCTL 0 0 0 F.SEC_SWCTL_STATE 1).fld .SEC_SWCTL 0 0 0 F.SEC_SWCTL_STATE = 1 ∧ wbits (0x8000000000000000 : W64) 63 62 = 2 ∧ (pkg th).fld .SEC_RNGCMD 0 0 0 F.SEC_RNGCMD_BUSY = 0 ∧ ((pkg th).setFld .SEC_RNGCMD 0 0 0 F.SEC_RNGCMD_BUSY 1).fld .SEC_RNGCMD 0 0 0 F.SEC_RNGCMD_BUSY ≠ 0 ∧
    (pkg th).gibOwner 0 = 1 ∧ (pkg th).gibOwner 16 ≠ 1 ∧ 0 ∈ (pkg th).grecGibs 1 ∧ 5 ∉ (pkg th).grecGibs 1 ∧ ((pkg th).setGibOwner 5 1).gibOwner 5 = 1 := by decide

/-- The phases of boot, and PHASE with its conditions. -/
def phase (n : Nat) : Hw := (pkg th).setFld .PMP_STATE 0 0 0 F.PMP_STATE_PHASE n
def sizing (sent done : Bool) : Hw := { phase 1 with boot := { sizing := true }, plat := { invSent := sent, invDone := done } }
theorem wit_boot_start : ¬ ((phase 0).plat.resetLow = true ∨ (phase 0).tripped = true ∨ has (phase 0).groupOff 0 = true ∨ (phase 0).fld .PMP_STATE 0 0 0 F.PMP_STATE_PHASE ≠ 0) ∧ (phase 1).fld .PMP_STATE 0 0 0 F.PMP_STATE_PHASE ≠ 0 ∧ (phase 0).fld .SEC_BOOTSTAT 0 0 0 F.SEC_BOOTSTAT_STOP ≠ 4 ∧
    commitValid ((phase 0).commitRecord 0) = false ∧ commitValid ((phase 0).commitRecord 1) = false ∧ ((phase 0).setFld .SEC_BOOTSTAT 0 0 0 F.SEC_BOOTSTAT_STOP 4).fld .SEC_BOOTSTAT 0 0 0 F.SEC_BOOTSTAT_STOP = 4 ∧ ((phase 0).fld .SEC_BOOTSTAT 0 0 0 F.SEC_BOOTSTAT_EXCL).testBit 0 = false ∧
    (sizing false false).boot.sizing = true ∧ (sizing true false).plat.invSent = true ∧ (∀ i < 16, (sizing true true).fld .SLINK_DISC 0 0 i F.SLINK_DISC_RESULT ≠ 6) ∧ (∃ i < 16, ((sizing true true).setFld .SLINK_DISC 0 0 3 F.SLINK_DISC_RESULT 6).fld .SLINK_DISC 0 0 i F.SLINK_DISC_RESULT = 6) ∧
    (sizing true true).plat.invDone = true ∧ (phase 2).fld .PMP_STATE 0 0 0 F.PMP_STATE_PHASE ≠ 1 := by decide

/-- A partition that can start, floors, keys, and flash operations. -/
def starting : Hw := { phase 2 with thr := [], boot := { bootGib := [(1, 0)] } }
theorem wit_boot_commands : look? starting.boot.bootGib 1 = some 0 ∧ starting.bootThread 1 = some 0 ∧ starting.fld .PMP_STATE 0 0 0 F.PMP_STATE_PHASE = 2 ∧ starting.mapped (0 * 2 ^ 30) = true ∧ (starting.thread 0).run = .inReset ∧ has starting.partStopped 1 = false ∧ look? (phase 2).boot.bootGib 1 = none ∧
    (0x8000000000000000 : W64).getLsbD 63 = true ∧ ((pkg th).setFld .SEC_FLOOR 0 0 0 F.SEC_FLOOR_BUSY 1).fld .SEC_FLOOR 0 0 0 F.SEC_FLOOR_BUSY = 1 ∧ ((pkg th).setFld .SEC_FLOOR 0 0 0 F.SEC_FLOOR_CUR 3).fld .SEC_FLOOR 0 0 0 F.SEC_FLOOR_CUR < min 128 (wbits (0x8000000000000400 : W64) 15 8) ∧
    (pkg th).fld .SEC_BOOTSTAT 0 0 0 F.SEC_BOOTSTAT_SVN < min 128 (wbits (0x8000000000000400 : W64) 15 8) ∧ min 128 (wbits (0x8000000000000400 : W64) 15 8) ≤ ((pkg th).setFld .SEC_BOOTSTAT 0 0 0 F.SEC_BOOTSTAT_SVN 4).fld .SEC_BOOTSTAT 0 0 0 F.SEC_BOOTSTAT_SVN ∧
    ({ pkg th with boot := { floorBurn := some 4 } } : Hw).boot.floorBurn = some 4 ∧ (pkg th).boot.keyBurn = none ∧ (pkg th).fld .SEC_FLASHCMD 0 0 0 F.SEC_FLASHCMD_BUSY = 0 ∧ ((pkg th).setFld .SEC_FLASHCMD 0 0 0 F.SEC_FLASHCMD_BUSY 1).fld .SEC_FLASHCMD 0 0 0 F.SEC_FLASHCMD_BUSY = 1 ∧
    ({ pkg th with boot := { manifest := [1] } } : Hw).boot.manifest ≠ [] ∧ (pkg th).fld .SEC_BOOTSTAT 0 0 0 F.SEC_BOOTSTAT_SLOT = 0 ∧ (pkg th).boot.manifest = [] ∧ 0x20000 % 65536 = 0 ∧ 0x21000 % 65536 ≠ 0 ∧ 0x21000 % 4096 = 0 ∧ (pkg th).boot.flashOp = none ∧
    ({ pkg th with boot := { flashOp := some { op := 1, slot := 0, off := 0, data := [] } } } : Hw).boot.flashOp = some { op := 1, slot := 0, off := 0, data := [] } ∧ (pkg th).fld .SEC_MEXT 0 0 0 F.SEC_MEXT_BUSY = 0 ∧ wbits (0x8100000000000000 : W64) 59 56 = 1 ∧ (pkg th).agentRead 0 true 0x40000000 48 = none := by decide

/-! The meter. -/

/-- The meter on and off, at the end of an interval, with its seal open, and samples in and out of range. -/
def meter (m : Meter) : Hw := { pkg th with meter := m }
def sample (mv ma : Nat) : List (Nat × Nat) := List.replicate 17 (mv, ma)
theorem wit_meter : ({ on := false } : Meter).on = false ∧ ({} : Meter).on = true ∧ (sample 48000 100).length = 17 ∧ ({} : Meter).samples < 480000 ∧ 480000 ≤ ({ samples := 480000 } : Meter).samples ∧
    (∀ c < 17, 40000 ≤ ((sample 40000 1380).getD c (0, 0)).1 ∧ ((sample 40000 1380).getD c (0, 0)).1 ≤ 60000 ∧ 5 * ((sample 40000 1380).getD c (0, 0)).2 ≤ 6 * nominalMa c) ∧ ({} : Meter).outOfRange = false ∧ ((sample 39999 1).getD 3 (0, 0)).1 < 40000 ∧
    look 0 ({ owners := [(1, 2)] } : Meter).owners 1 ≠ 3 ∧ ({} : Meter).chg.length < 8 ∧ 8 ≤ ({ chg := List.replicate 8 (1, 2, 3) } : Meter).chg.length ∧ ({ pkg th with mtrx := { ownerPend := [(1, 2)] } } : Hw).mtrx.ownerPend = [(1, 2)] ∧ (List.replicate 5 (List.replicate 13 1)).length = 5 ∧
    (∀ t ∈ List.replicate 5 (List.replicate 13 1), t.length = 13) ∧ ({} : Meter).audit.length + 3 < 3686 ∧ ({ installing := some (2, [1]) } : Meter).installing = some (2, [1]) ∧ ({} : Meter).installing = none ∧ ({ sealOpen := true } : Meter).sealOpen = true ∧ ({} : Meter).records.length < 1024 := by decide
theorem wit_seal_port : look? ({ records := [(1, [7])] } : Meter).records 1 = some [7] ∧ ({ records := [(1, [7])] } : Meter).records.getLast? = some (1, [7]) ∧ ({} : Meter).records = [] ∧ (({} : Meter).audit[0]?).isSome = true ∧ ({} : Meter).audit.length ≤ 1 ∧
    5000 < 0 + (5001 : BitVec 32).toInt ∧ 0 + (5000 : BitVec 32).toInt ≤ 5000 ∧ -5000 ≤ 0 + (-5000 : BitVec 32).toInt ∧ (List.replicate 512 (0 : Byte)).length ≤ 512 ∧ (247 : BitVec 8).toNat ≤ 247 ∧ 247 < (248 : BitVec 8).toNat ∧ (List.replicate 16 (0 : Byte)).length = 16 ∧
    ({ outq := [[7]] } : Meter).outq = [7] :: [] ∧ (pkg th).fld .MTRX_RING 0 0 0 F.MTRX_RING_EN = 0 ∧ ((pkg th).setFld .MTRX_RING 0 0 0 F.MTRX_RING_EN 1).fld .MTRX_RING 0 0 0 F.MTRX_RING_EN = 1 ∧
    (let h := (pkg th).setFld .MTRX_RPTR 0 0 0 F.MTRX_RPTR_WR 16; (h.fld .MTRX_RPTR 0 0 0 F.MTRX_RPTR_WR + 65536 - h.fld .MTRX_RPTR 0 0 0 F.MTRX_RPTR_RD) % 65536 = 16 * 2 ^ min 6 (h.fld .MTRX_RING 0 0 0 F.MTRX_RING_SIZE)) ∧ (pkg th).fld .MTRX_CMD 0 0 0 F.MTRX_CMD_BUSY = 0 := by decide
theorem wit_audit_full : ({ audit := List.replicate 4080 [] } : Meter).audit.length = 4080 := List.length_replicate

/-! Service. -/

/-- A die that a partition owns with another, one that none owns, and losses that are being reported. -/
def twoDies : Hw := { pkg th with dieOwner := [(1, 1), (2, 1)], commit := { tolerant := [1] } }
def loss (slot : Option Nat) : DieLoss := { die := 1, part := 1, cause := 1, tick := 0, before := [], slot := slot }
def losing (slot : Option Nat) : Hw := { pkg th with losses := [loss slot] }
theorem wit_die_loss : has (pkg th).partStopped 1 = false ∧ has ({ pkg th with partStopped := [1] } : Hw).partStopped 1 = true ∧ has ({ pkg th with plat := { dumphold := [1] } } : Hw).plat.dumphold 1 = true ∧ (pkg th).cfgState ≠ 4 ∧ ((pkg th).treqs = [] ∧ (pkg th).run = [] ∧ (pkg th).engq = [] ∧ (pkg th).held = [] ∧ (pkg th).dpq = []) ∧ (pkg th).partOf 0 = 1 ∧
    look 0 (pkg th).dieOwner 2 = 0 ∧ look 0 twoDies.dieOwner 1 = 1 ∧ 1 ∈ twoDies.commit.tolerant ∧ look 0 twoDies.dieOwner 2 = 1 ∧ twoDies.fenced (.core 2 0) = false ∧ (∀ c ∈ twoDies.sweepChannels 1, c < 24) ∧ 1 ∉ (pkg th).commit.tolerant ∧ (pkg th).losses = [] ∧
    (losing none).losses = [loss none] ∧ ((losing none).agentRead 1 false (65536 * (losing none).fld .EVR_RPTBASE 0 0 1 F.EVR_RPTBASE_BASE + 16384 * 0) 4).isSome = true ∧ (losing (some 0)).losses = [loss (some 0)] ∧
    (∀ c ∈ (losing (some 0)).sweepChannels 1, (losing (some 0)).fld .MEMC_SCRUB 0 c 0 F.MEMC_SCRUB_SWEEP_BUSY = 0) ∧ ¬ (∀ c ∈ (losing (some 0)).sweepChannels 1, ((losing (some 0)).setFld .MEMC_SCRUB 0 0 0 F.MEMC_SCRUB_SWEEP_BUSY 1).fld .MEMC_SCRUB 0 c 0 F.MEMC_SCRUB_SWEEP_BUSY = 0) ∧
    ((pkg th).fld .PMP_NOTE 0 0 0 F.PMP_NOTE_WR + 65536 - (pkg th).fld .PMP_NOTE 0 0 0 F.PMP_NOTE_RD) % 65536 ≠ 32 := by decide
theorem wit_no_device_waits : ∀ t, (({} : Hw).thread t).dev = none := fun _ => rfl
theorem wit_reports_full : ∀ n, n < 4 → ∀ x, ((List.range 4).foldl (fun (h : Hw) k => h.writeNum (16384 * k) 4 1) (losing none)).agentRead 1 false (65536 * ((List.range 4).foldl (fun (h : Hw) k => h.writeNum (16384 * k) 4 1) (losing none)).fld .EVR_RPTBASE 0 0 1 F.EVR_RPTBASE_BASE + 16384 * n) 4 = some x → ofBytes x ≠ 0 := by
  intro n hn x e
  have h : ∀ n, n < 4 → (((List.range 4).foldl (fun (h : Hw) k => h.writeNum (16384 * k) 4 1) (losing none)).agentRead 1 false (65536 * ((List.range 4).foldl (fun (h : Hw) k => h.writeNum (16384 * k) 4 1) (losing none)).fld .EVR_RPTBASE 0 0 1 F.EVR_RPTBASE_BASE + 16384 * n) 4).map ofBytes = some 1 := by decide
  have := h n hn
  rw [e, Option.map_some, Option.some.injEq] at this
  omega

/-- Staged firmware and microcode, a switch and a load in progress, a queued update, recalibration and calibration, and a port. -/
def ucode (n : Nat) : Hw := (pkg th).setFld .SKM_UCODE 0 3 0 F.SKM_UCODE_STATE n
def sparingNow : Hw := ((pkg th).setFld .MEMC_RECAL 0 0 0 F.MEMC_RECAL_EN 1).setFld .MEMC_SPARE 0 0 0 F.MEMC_SPARE_BUSY 1
theorem wit_live_updates : dieId 1 ≠ 0 ∧ dieId 0 = 0 ∧ ((pkg th).setFld .DCTL_FW 1 0 0 F.DCTL_FW_STATE 1).fld .DCTL_FW 1 0 0 F.DCTL_FW_STATE = 1 ∧ (pkg th).fld .DCTL_FW 1 0 0 F.DCTL_FW_STATE ≠ 1 ∧ has (pkg th).fwSwitch 1 = false ∧ has ({ pkg th with fwSwitch := [1] } : Hw).fwSwitch 1 = true ∧
    (ucode 1).fld .SKM_UCODE 0 3 0 F.SKM_UCODE_STATE = 1 ∧ (ucode 1).engQuiet 3 = true ∧ ({ ucode 1 with run := [(3, piece1)] } : Hw).engQuiet 3 = false ∧ (ucode 2).fld .SKM_UCODE 0 3 0 F.SKM_UCODE_STATE = 2 ∧ (pkg th).fld .DCTL_UPD_CMD 0 0 0 F.DCTL_UPD_CMD_BUSY = 0 ∧
    ((pkg th).setFld .DCTL_UPD_CMD 0 0 0 F.DCTL_UPD_CMD_BUSY 1).fld .DCTL_UPD_CMD 0 0 0 F.DCTL_UPD_CMD_BUSY = 1 ∧ (pkg th).updq = [] ∧ ({ pkg th with updq := [(1, 4)] } : Hw).updq = (1, 4) :: [] ∧ sparingNow.fld .MEMC_RECAL 0 0 0 F.MEMC_RECAL_EN = 1 ∧ sparingNow.fld .MEMC_SPARE 0 0 0 F.MEMC_SPARE_BUSY = 1 ∧
    (pkg th).fld .MEMC_SPARE 0 0 0 F.MEMC_SPARE_BUSY ≠ 1 ∧ ¬ (((pkg th).setFld .MEMC_RECAL 0 0 0 F.MEMC_RECAL_EN 0).fld .MEMC_RECAL 0 0 0 F.MEMC_RECAL_EN = 1) ∧ (pkg th).fld .MEMC_RECAL 0 0 0 F.MEMC_RECAL_BUSY ≠ 1 ∧
    ((pkg th).setFld .PWR_THERM 1 0 0 F.PWR_THERM_FAST_THR 1).fld .PWR_THERM 1 0 0 F.PWR_THERM_FAST_THR = 1 ∧ ((0 : Nat) ||| (0x3FFFF : BitVec 40).toNat) % 2 ^ 18 + 1 = 2 ^ 18 := by decide

/-- Devices: a device of port 5 with an entry, which is translated through the partition stage to memory, and none; and the ends of a page. -/
def deviceTable : Hw := ((((up5.setReg .XTL_DEVT 0x10 0 5 0x8000000000004000).writeNum 0x4000 8 3).writeNum 0x4010 8 0x5000).writeNum 0x5000 8 0x6401).writeNum 0x6000 8 0x7401 |>.writeNum 0x7000 8 0xC63
def deviceMaps (acc : Acc) : Bool := okWith (fun (y : Hw × Ctx) => okWith (fun (z : Hw × Nat) => z.2 == 0x2000) (y.1.xtlTranslate 0x10 y.2 0x2000 acc) && !okOf (y.1.xtlTranslate 0x10 y.2 0x8000000000 acc)) (deviceTable.deviceCtx 5 0 1)
theorem wit_device_maps : okOf (up5.deviceCtx 5 0 1) = false ∧ deviceMaps .load = true ∧ deviceMaps .store = true := by decide +kernel
theorem wit_device_pages : (has up5.portUp 5 = true ∧ look 0 up5.portOwner 5 ≠ 0) ∧ ¬ (has up5.portUp 6 = true) ∧ 0xFC0 % 4096 + 64 ≤ 4096 ∧ ¬ 0xFC1 % 4096 + 64 ≤ 4096 ∧ paRange 0x2000 = .near ∧ paRange 0x0100000000000 = .far ∧
    paRange mmioPa = .mmio ∧ look 0 up5.portOwner (portOfPa mmioPa) = 1 ∧ up5.joinedOther 5 = false ∧ paRange 0x0900000000000 = .none ∧ 0x2000 % 64 + 64 ≤ 64 ∧ 0x2020 % 64 + 32 ≤ 64 ∧ msgCheck 1 false (0xEFFFFFFFF0000 + 0x1000) 4 7 = none := by decide +kernel

/-! The platform controller. -/

/-- A package in a PHASE with no request in progress, one whose request is in progress, and one that repeats. -/
def noReq : PmpReq := { seq := 1, last := false, arg := 0, payload := [] }
/-- A BOARD payload: 48 V, mode 0, 820 W of supply and of cooling, coolant at 25 °C, no slots. -/
def boardBytes : List Byte := toBytes 2 4800 ++ [0, 0] ++ toBytes 2 820 ++ [0, 0] ++ toBytes 2 820 ++ [25, 0] ++ toBytes 4 0 ++ toBytes 8 1 ++ List.replicate 8 0
theorem wit_requests : has (phase 1).groupOff 0 = false ∧ (phase 1).plat.resetLow = false ∧ ({ phase 1 with groupOff := [0] } : Hw).groupOff = [0] ∧ (phase 1).fld .PMP_REQ 0 0 0 F.PMP_REQ_BUSY = 0 ∧ ((phase 1).setFld .PMP_REQ 0 0 0 F.PMP_REQ_BUSY 1).fld .PMP_REQ 0 0 0 F.PMP_REQ_BUSY = 1 ∧
    (phase 1).plat.lastRsp ≠ some (1, noReq.seq.toNat) ∧ ({ phase 1 with plat := { lastRsp := some (1, 1) } } : Hw).plat.lastRsp = some (1, noReq.seq.toNat) ∧ noReq.payload.length ≤ 4080 ∧ (phase 3).fld .PMP_STATE 0 0 0 F.PMP_STATE_PHASE ∉ [1, 2] ∧ (phase 5).fld .PMP_STATE 0 0 0 F.PMP_STATE_PHASE ∈ [2, 5] := by decide
theorem wit_board : boardBytes.length = 32 ∧ zeroAt boardBytes 11 5 = true ∧ zeroAt boardBytes 24 8 = true ∧ 4800 ≤ dsc boardBytes 0 2 ∧ dsc boardBytes 0 2 ≤ 8800 ∧ dsc boardBytes 2 1 ≤ 2 ∧ dsc boardBytes 3 1 ≤ 1 ∧ (486 ≤ dsc boardBytes 4 2 ∧ 448 ≤ dsc boardBytes 8 2 ∧ 5 ≤ dsc boardBytes 10 1 ∧ dsc boardBytes 10 1 ≤ 45) ∧
    dsc (toBytes 2 4799 ++ boardBytes.drop 2) 0 2 < 4800 ∧ 8800 < dsc (toBytes 2 8801 ++ boardBytes.drop 2) 0 2 ∧ noReq.payload.length ≠ 32 ∧ (∀ i, i < 48 → has ({ dimmSeen := List.range 48 } : Plat).dimmSeen i = true) ∧ (∀ i, i < 48 → (has ({ dimmSeen := List.range 47 } : Plat).dimmSeen i = true ↔ i ≠ 47)) ∧
    (dsc boardBytes 16 8).testBit 0 = true ∧ (dsc boardBytes 16 8).testBit 1 = false := by decide

/-- Payloads of DIMM, PORTS, PARTREQ, LIMITS and SLOTEVT that keep their forms at the ends of their ranges. -/
def limitsBytes : List Byte := toBytes 2 486 ++ toBytes 2 448 ++ [45, 0, 0, 0]
theorem wit_reports : (let p : List Byte := [23, 1, 1] ++ List.replicate 1037 0; p.length = 1040 ∧ zeroAt p 3 13 = true ∧ dsc p 0 1 ≤ 23 ∧ dsc p 1 1 ≤ 1 ∧ dsc p 2 1 = 1) ∧ (let p : List Byte := [63, 2, 3] ++ List.replicate 29 0; p.length = 32 ∧ zeroAt p 3 1 = true ∧ zeroAt p 4 4 = true ∧ zeroAt p 8 24 = true ∧ dsc p 0 1 ≤ 63 ∧ dsc p 1 1 ≤ 2 ∧ dsc p 2 1 ≤ 3) ∧
    (let p : List Byte := [12, 1, 0xFE, 0x1F] ++ List.replicate 12 0; p.length = 16 ∧ dsc p 1 1 ≤ 1 ∧ dsc p 0 1 ≤ 12 ∧ dsc p 2 2 % 2 = 0 ∧ dsc p 2 2 ≤ 0x1FFF) ∧ (limitsBytes.length = 8 ∧ zeroAt limitsBytes 5 3 = true ∧ 486 ≤ dsc limitsBytes 0 2 ∧ 448 ≤ dsc limitsBytes 2 2 ∧ dsc limitsBytes 4 1 ≤ 45) ∧
    (let p : List Byte := [0, 6, 0, 0, 0, 0, 0, 0]; p.length = 8 ∧ zeroAt p 2 6 = true ∧ (dsc boardBytes 16 8).testBit (dsc p 0 1) = true ∧ dsc p 1 1 ≤ 6) ∧ ({ phase 2 with authority := 1 } : Hw).authority ≠ 0 ∧ has ({ dumphold := [1], resetHeld := [1] } : Plat).resetHeld 1 = true ∧ has ({} : Plat).dumphold 12 = false ∧
    (∃ e ∈ ({ slotWait := [(5, true)] } : Plat).slotWait, e.1 = 5) ∧ (∀ e ∈ ({} : Plat).slotWait, e.1 ≠ 5) := by decide

/-- Image sequences: of each purpose, at the first manifest block, past it, and at their end. -/
def seq (p : Nat) : ImgSeq := { purpose := p, blocks := 1, next := 0x10000 }
def imaging (q : ImgSeq) : Hw := { phase (if q.purpose = 0 then 3 else 2) with plat := { image := some q } }
theorem wit_images : wbits (0x00010001 : W64) 7 0 = 1 ∧ wbits (0x00010001 : W64) 15 8 = 0 ∧ wbits (0x00010001 : W64) 63 32 = 0 ∧ 1 < wbits (2 : W64) 7 0 ∧ (imaging (seq 0)).fld .PMP_STATE 0 0 0 F.PMP_STATE_PHASE = 3 ∧ (imaging (seq 1)).fld .PMP_STATE 0 0 0 F.PMP_STATE_PHASE = 2 ∧ (imaging (seq 1)).plat.image = some (seq 1) ∧
    (phase 2).plat.image = none ∧ wbits (0x0001000000010000 : W64) 63 32 = 65536 ∧ wbits (0x0001000000010000 : W64) 31 0 = (seq 1).next ∧ 0x10000 < 0x50000 ∧ wbits (0x0000000100020000 : W64) 31 0 ≠ (seq 1).next ∧ (seq 1).count ≠ (seq 1).blocks ∧ ({ seq 1 with next := 0, count := 1 } : ImgSeq).count = (seq 1).blocks ∧
    0x40000 < ({ seq 1 with data := [(0x10000, List.replicate 20 0xFF)] } : ImgSeq).mlen ∧ ({ seq 1 with data := [(0x10000, [0])] } : ImgSeq).mlen ≤ 0x40000 ∧ compBlocks [] = [] := by decide
theorem wit_block_length : (List.replicate 65536 (0 : Byte)).length = 65536 := List.length_replicate
theorem wit_wakes : (0xA5C35A3C : BitVec 32) = 0xA5C35A3C ∧ ¬ (0xA5C35A3D : BitVec 32) = 0xA5C35A3C ∧ (phase 5).fld .PMP_STATE 0 0 0 F.PMP_STATE_PHASE = 5 ∧ ({ phase 5 with deepIdle := true } : Hw).deepIdle = true ∧ ({ phase 5 with deepIdle := true } : Hw).wakeOnExit = [] := by decide

/-- Pins and supplies. -/
theorem wit_pins : (pkg th).plat.resetLow = false ∧ ({ resetLow := true } : Plat).resetLow = true ∧ (pkg th).tripped = false ∧ has (pkg th).groupOff 0 = false ∧ has ({ pkg th with groupOff := [0] } : Hw).groupOff 0 = true ∧ (pkg th).cfgState = 0 ∧ (pkg th).v33Left = false ∧ ({ pkg th with v33Left := true } : Hw).v33Left = true ∧
    has ({ refclkBad := [0, 4] } : Plat).refclkBad 4 = true ∧ has (pkg th).plat.refclkBad 4 = false ∧ ({ pkg th with tripped := true } : Hw).tripped = true := by decide


/-! Steps, the queue and the memory. -/

theorem wit_steps : ({ State.reset with pending := [.inventoryTimeout] } : State).pending = .inventoryTimeout :: [] ∧ State.reset.pending = [] ∧ State.reset.hw.clockOn = true ∧ State.reset.hw.wakeDue = [] ∧ (∀ e ∈ State.reset.hw.thr, e.2.run ≠ .running) ∧
    Memory.wf State.reset.hw.mem = true ∧ Memory.wf (pkg th |>.writeNum 0x2000 8 7).mem = true ∧ ((activation (active false 0)).thr.map (·.1)).Nodup := by decide

/-! WellFormed: for each of its checks a command that the check refuses. -/

def ill (i : Instr) : Bool := !wellFormed i
theorem ill_window : ill (.registerWrite ps 0x2000 .full 0) = true ∧ ill (.registerWrite ps (waitPa + 4) .full 0) = true ∧ wellFormed (.registerWrite ps waitPa .full 0) = true := by decide
theorem ill_access : ill (.registerReadRequest ps 0x2000 3 .good) = true ∧ ill (.registerWriteRequest ps 0x2000 3 0 .good) = true ∧ ill (.mmioPostedWrite ps waitPa 3 0 .good) = true ∧ ill (.messageSignalledWrite (.device 0) 0x2000 4 0) = true ∧ ill (.safePointApply 0x2000) = true := by decide
theorem ill_stops : ill (.treq ⟨0, 0x65⟩ ⟨0, 0⟩ false) = true ∧ ill (.tgnt ⟨1, 0x12⟩ ⟨0, 0⟩ false 0 true) = true ∧ ill (.epochUpdate 0 ⟨13, 0x1B⟩) = true ∧ ill (.openEdge ⟨0, 0⟩ ⟨0, 0x65⟩) = true ∧ ill (.asleep ⟨0, 0⟩ ⟨0, 0x65⟩ 0 0 false) = true ∧ ill (.roleChange ⟨0, 0x65⟩) = true := by decide
theorem ill_domains : ill (.domainClosing 1 0 2) = true ∧ ill (.domainClosing 1 38 2) = true ∧ ill (.domainStateRequest ps 0 56 .full 0) = true ∧ ill (.domainTransitionDone 13 10) = true ∧ ill (.domainIdleTimeout 1 38) = true ∧ ill (.domainWake 1 38 0 0) = true ∧ ill (.sheldSet ps 1 38) = true := by decide
theorem ill_links : ill (.rmap 0 true 8 true 0 0) = true ∧ ill (.repair 0 true 8 0 0 false false) = true ∧ ill (.repair 0 true 7 144 0 false false) = true ∧ ill (.wireThreshRepair 0 true 7 144 0 false) = true ∧ ill (.wireThreshRepair 0 true 8 0 0 false) = true := by decide
theorem ill_lengths : ill (.torusFrame { frame with payload := List.replicate 53 0 }) = true ∧ ill (.budgetTick 0 (List.replicate 16 0)) = true ∧ ill (.meterSample (sample 48000 1 |>.drop 1)) = true := by decide
theorem ill_dma : ill (.deviceDmaRequest 0 0 0x2000 false (.read 0)) = true ∧ ill (.deviceDmaRequest 0 0 0x2FC1 false (.read 64)) = true ∧ ill (.deviceDmaRequest 0 0 0x2004 false (.atomic true 0 0 0)) = true := by decide

/-! Single commands, one or two for each family; g9 is 0x2000, g10 0x2001, g11 7, g12 5. -/

def g (i : Instr) (n : Nat) : W64 := ((after i (pkg th)).thread 0).readG n
def pcAfter (i : Instr) : W64 := ((after i (pkg th)).thread 0).pc

/-- R103: SUB goes below zero and wraps; SLT is signed and SLTU is not; MULHU of 2^63 and 6 is 3. -/
theorem test_integer_alu : g (.integerAlu 0 3 12 11 0x001) 3 = 0xFFFFFFFFFFFFFFFE ∧ pcAfter (.integerAlu 0 3 12 11 0x001) = 0x1004 := by decide
theorem test_g0_discards : g (.addi 0 0 11 1) 0 = 0 ∧ g (.addi 0 3 11 0xFFFF) 3 = 6 := by decide
/-- R101: LUI writes imm << 16, sign-extended; ANDI zero-extends. -/
theorem test_immediates : g (.lui 0 3 0 0x8000) 3 = 0xFFFFFFFF80000000 ∧ g (.andi 0 3 10 0xFFFF) 3 = 0x2001 ∧ g (.shiftImmediate 0 3 11 2) 3 = 28 := by decide
/-- R101: a branch goes to the PC + 4 * off, or to the next word. -/
theorem test_branch : pcAfter (.branch 0 .ltu 12 11 3 false) = 0x100C ∧ pcAfter (.branch 0 .eq 12 11 3 false) = 0x1004 := by decide
/-- R105: a byte load sign-extends; a halfword store changes two bytes. -/
theorem test_load_sign : ((after (.load 0 .b 3 9 1 false) (owned.writeNum 0x2001 1 0x80)).thread 0).readG 3 = 0xFFFFFFFFFFFFFF80 := by decide
theorem test_store_half : (after (.store 0 .h 11 9 2) owned).byte 0x2002 = 7 ∧ (after (.store 0 .h 11 9 2) (owned.writeNum 0x2004 1 9)).byte 0x2004 = 9 := by decide
/-- R118: POPC of 7 is 3, CLZ of 7 is 61, BREV8 of 7 is 0xE0. R119: the CRC-32C of the byte 0 from 0xFFFFFFFF is 0xAD82ACAE complemented. -/
theorem test_bit_helpers : g (.popc 0 3 11 0) 3 = 3 ∧ g (.clz 0 3 11 0) 3 = 61 ∧ g (.brev8 0 3 11 0) 3 = 0xE0 ∧ g (.ctz 0 3 9 0) 3 = 13 := by decide
/-- R683: 1.0 + 2.0 = 3.0 in binary64, and 0.0 / 0.0 is the quiet NaN. -/
def fl : Hw := pkg { th with g := [(9, 0x3FF0000000000000), (10, 0x4000000000000000)] }
theorem test_float : ((after (.fadd 0 3 9 10 ⟨0, 3⟩) fl).thread 0).readG 3 = 0x4008000000000000 ∧ ((after (.fdiv 0 3 0 0 ⟨0, 3⟩) fl).thread 0).readG 3 = 0x7FF8000000000000 := by decide +kernel
/-- R135, R139: TRAP saves its own address and goes to the vector base; R141: the code is 0x02 in the record. -/
theorem test_unassigned_traps : ((after (.integerAlu 0 3 9 10 0x006) (pkg th)).thread 0).readG 3 = 0 ∧ ((after (.integerAlu 0 3 9 10 0x006) (pkg th)).thread 0).pc ≠ 0x1004 := by decide
/-- R262: a read of an uncached line of no die is granted exclusively, and the directory names the reader. -/
theorem test_rds : (after (.rds c0 ln 1 false .good) (pkg th)).dirOf 0x80 = .owned (.core 1 0) 1 ∨ (after (.rds c0 ln 1 false .good) (pkg th)).dirOf 0x80 = .shared [1] 1 := by decide
/-- R378, R390: SKIM ADDI adds the sign-extended immediate, and the PC advances by 4. -/
theorem test_skim_addi : ((look? (after (.skimAddi 3 5 9 0x1FFFF) (engine job1 piece1)).run 3).map (fun r => (r.readS 5, r.pc))) = some (0x3F, 4) := by decide
/-- R440: a request for a shared slot is granted at once. R439. -/
theorem test_token : (after (.treq home0 eng0 false) (pkg th)).toks.length = 1 := by decide
/-- R588: 48 V at 1,000 mA for one sample of 125 µs is 6 mJ. -/
theorem test_meter_sample : look 0 (after (.meterSample (sample 48000 1000)) (pkg th)).meter.chE 3 = 6 ∧ (after (.meterSample (sample 48000 1000)) (pkg th)).meter.samples = 1 := by decide
/-- R575: a floor above the running version is refused with RESULT 1. -/
theorem test_floor : (after (.floorRaise ps 0x8000000000000400) (pkg th)).fld .SEC_FLOOR 0 0 0 F.SEC_FLOOR_RESULT = 1 := by decide
/-- R642: a BOARD in PHASE 3 is answered with STATUS 3 and the PHASE in ARG. -/
theorem test_board_phase : (after (.board noReq) (phase 3)).fld .PMP_RSP 0 0 0 F.PMP_RSP_STATUS = 3 := by decide
/-- R663: IDCODE selects its register, and a TAP's ID ends in 1. -/
theorem test_idcode : look 0 (after (.idcode 1) (pkg th)).plat.tapIr 1 = 1 := by decide
/-- R18, R124: a core's reset leaves its thread in reset, at M. -/
theorem test_core_reset : ((after (.coreReset 0 0) (pkg th)).thread 0).run = .inReset := by decide
/-- A step takes the front command, and one on an empty queue lets a nanosecond pass (log entries 1 and 2). -/
theorem test_step : (match step { State.reset with pending := [.aoClockStop] } with
    | .next t => t.pending == [] && !t.hw.plat.aoRun
    | _ => false) = true ∧ (match step State.reset with
    | .next t => t.hw.now == 1 && t.hw.ao == 1
    | _ => false) = true := by decide

/-! The worked examples of the spec. -/

/-- Worked example of spec/02, of R40, and of spec/07, of R246: the slice and the homes of two lines. -/
theorem test_homes : dcSlice 0x48D159E27 = 7 ∧ homeOf 0x00123456789C0 = 31 ∧ homeOf 0x0123456789A40 = 17 := by decide
/-- Worked examples of spec/00: the CORE block of core 23 of die 5, the block of SK41, and thread 303's die. -/
theorem test_register_address : regAddr .CORE_STATUS 5 23 0 = 0xFFF0504700000 ∧ (regAddr .SKM_STATUS (engPlace 41).1 (engPlace 41).2 0) / 2 ^ 20 * 2 ^ 20 = 0xFFF1203100000 ∧ dieOfThread 303 = 5 := by decide
/-- Worked example of spec/08, of R290: the channel and the local address of a line in 24 channels. -/
theorem test_interleave_target : ((({} : Hw).setReg .HOME_ISET_A 0 0 0 0x9030000000000000).setReg .HOME_ISET_B 0 0 0 12288).target 0 0x00123456789C0 = (21, 0xC22E459C0) := by decide
/-- Worked example of spec/03, of R100 and R101: the prefixed LUI. -/
theorem test_prefixed_lui : g (.pfx 0 0x00FFF05 0x18A00470 false false) 5 = 0x000FFF0504700000 ∧ pcAfter (.pfx 0 0x00FFF05 0x18A00470 false false) = 0x1008 := by decide
/-- Worked example of spec/03, of R115: the CRC-32C of the nine bytes 123456789. -/
def digits : Hw := (pkg { th with g := [(9, 0xFFFFFFFF), (10, 0x2000), (11, 9)] }).writeMem 0x2000 [0x31, 0x32, 0x33, 0x34, 0x35, 0x36, 0x37, 0x38, 0x39]
theorem test_bcrc : ((after (.bcrc 0 9 10 11 1) digits).thread 0).readG 9 = 0x1CF96D7C := by decide
/-- Worked example of spec/03, of R118. -/
theorem test_helpers : ((after (.brev8 0 3 9 0) (pkg { th with g := [(9, 1)] })).thread 0).readG 3 = 0x80 ∧ ((after (.brev64 0 3 9 0) (pkg { th with g := [(9, 1)] })).thread 0).readG 3 = 0x8000000000000000 ∧ ((after (.par 0 3 9 0) (pkg { th with g := [(9, 0xF0)] })).thread 0).readG 3 = 0 := by decide
/-- Worked example of spec/05, of R166: a walk of four levels. -/
def walked : Hw := (((((pkg th).setReg .HOME_ISET_B 0 0 0 0x0004000000000010).setGibOwner 9 1).writeNum 0x240000558 8 0x240001001).writeNum 0x240001CD8 8 0x240002001).writeNum 0x240002DE0 8 0x240003001 |>.writeNum 0x240003488 8 0x315A000563
theorem test_walk : (match translate { regime := 0, s1en := true, s1base := 0x240000000, asid := 0x42, hwad1 := true, sum := false, psen := false, psbase := 0, vmid := 0, hwad2 := false, user := true, part := 1, world := false, thread := none, engine := false } [] [] 0x00ABCDEF12345678 .load walked with
    | .ok (_, r) => r.pa == 0x315A145678
    | .error _ => false) = true := by decide +kernel
/-- Worked example of spec/07, of R270 and R271: the F die evicts a line that two other dies may hold. -/
theorem test_evict_forward : ((after (.evf (.core 4 0) ln 1 false .good) (held (.shared [2, 5, 11] 5))).msgs.map (fun m => (m.op, m.agent.cdie))) = [(.WBA, some 5), (.PRB, some 2), (.PRB, some 11)] := by decide
/-- Worked example of spec/11, of R445: the primary and the alternate route from node (2,1) to node (0,3). -/
theorem test_torus_routes : (routeFrom 9 (routePorts 9 3 false)).map (·.1) = [9, 5, 1, 2] ∧ (routeFrom 9 (routePorts 9 3 true)).map (·.1) = [9, 10, 11, 7] := by decide
/-- Worked example of spec/12, of R472: the die on hub port HP05. -/
theorem test_hub_port : hpDie 5 = 5 := by decide
/-- Worked examples of spec/14 and spec/19, of R535 and R646: EFF_W under a limit of 820 W, a supply of 800 W and a cooling of 900 W. -/
theorem test_eff_w : (let k := after (.limits { seq := 0x12, last := false, arg := 0, payload := [0x20, 0x03, 0x84, 0x03, 0x23, 0, 0, 0] }) (((phase 2).setFld .PWR_PKGLIM 0 0 0 F.PWR_PKGLIM_LIMIT_W 820).setFld .PWR_PKGLIM 0 0 0 F.PWR_PKGLIM_VIN_DV 480); (k.fld .PWR_PKGLIM 0 0 0 F.PWR_PKGLIM_EFF_W, k.fld .PMP_RSP 0 0 0 F.PMP_RSP_STATUS, k.fld .PMP_RSP 0 0 0 F.PMP_RSP_SEQ)) = (737, 0, 0x12) := by decide
/-- Worked example of spec/15, of R549: the gate record of thread 303 of partition 2. -/
theorem test_gate_record : gateRec (({ dieOwner := [(5, 2)] } : Hw).setFld .SEC_GREC 0 0 1 F.SEC_GREC_BASE 0x4000000) 303 = 0x40000BD600 := by decide
end Sys2Proof.Tests
end

section
/-! PROOFS. The queue: every command completes, and as many steps as commands wait empty it. -/

namespace Sys2Proof.Machine

/-- A step takes one command off the queue, whatever it does to the package. -/
theorem step_next (s : State) : ∃ h : Hw, step s = .next { hw := h, pending := s.pending.tail } := by
  unfold step
  split
  case h_1 e => exact ⟨_, by rw [e]; rfl⟩
  case h_2 c r e =>
    obtain ⟨h, q⟩ := exec_next c { s with pending := r }
    exact ⟨h, by rw [q, e]; rfl⟩

/-- A run of n steps drops n commands and meets no fault or refusal. -/
theorem run_next (n : Nat) : ∀ s : State, ∃ t, Host.Core.run Sys2Proof.core n s = .next t ∧ t.pending = s.pending.drop n := by
  induction n with
  | zero => exact fun s => ⟨s, rfl, rfl⟩
  | succ n ih =>
    intro s
    obtain ⟨h, e⟩ := step_next s
    obtain ⟨t, run, left⟩ := ih { hw := h, pending := s.pending.tail }
    have first : Host.Core.run Sys2Proof.core (n + 1) s = Host.Core.run Sys2Proof.core n { hw := h, pending := s.pending.tail } := by
      simp only [Host.Core.run, show Sys2Proof.core.step s = _ from e]
    exact ⟨t, first.trans run, left.trans List.drop_tail⟩

end Sys2Proof.Machine

open Sys2Proof Sys2Proof.Machine

/-- Settles O5, by induction on the number of steps, each of which takes one command. -/
theorem theQueueIsCarriedOut : Obligations.TheQueueIsCarriedOut := by
  refine fun s => ⟨fun t taken => ?_, fun n _ => run_next n s⟩
  obtain ⟨h, e⟩ := step_next s
  cases e.symm.trans taken
  rfl

/-- Settles O4: the answer of a command is a next state, so neither a fault nor a refusal. -/
theorem everyCommandCompletes : Obligations.EveryCommandCompletes := by
  intro c s
  obtain ⟨h, e⟩ := exec_next c s
  rw [e]
  exact ⟨⟨_, rfl, rfl⟩, nofun, nofun⟩

end

section
/-! PROOFS. The state after reset: no register is held, so each reads its Reset entry. -/

namespace Sys2Proof.Machine

/-- A register that is not held reads its Reset entry (R17). -/
theorem Hw.reg_of_no_regs (h : Hw) (e : h.regs = []) (n : RegName) (die inst i : Nat) : h.reg n die inst i = regReset n die inst i := by
  rw [Hw.reg, e, look_nil]

theorem Hw.fld_of_no_regs (h : Hw) (e : h.regs = []) (n : RegName) (die inst i : Nat) (f : Fld) :
    h.fld n die inst i f = f.get (regReset n die inst i) := by
  rw [Hw.fld, h.reg_of_no_regs e]

/-- The Reset entries of MEMC_RECAL hold none that a fuse changes. -/
theorem regReset_memcRecal (d c x : Nat) : regReset .MEMC_RECAL d c x = regReset .MEMC_RECAL 0 0 0 := rfl

theorem regReset_clkCluster (d c x : Nat) : regReset .CLK_CLUSTER d c x = regReset .CLK_CLUSTER 0 0 0 := rfl

end Sys2Proof.Machine

open Sys2Proof Sys2Proof.Machine

/-- Settles O3: reset lists no thread, no register and no byte, so each reads its reset value. -/
theorem resetLeavesTheSpecsValues : Obligations.ResetLeavesTheSpecsValues := by
  have fld := State.reset.hw.fld_of_no_regs rfl
  refine ⟨rfl, reset_mem_wf, rfl, rfl, rfl, rfl, rfl, fun t => ⟨rfl, rfl, rfl, rfl, rfl⟩,
    State.reset.hw.reg_of_no_regs rfl, fun c _ => ⟨?enabled, ?period⟩, ?power, fun d c _ _ _ => ?ceiling⟩
  case enabled => rw [fld, regReset_memcRecal]; decide
  case period => rw [fld, regReset_memcRecal]; decide
  case power => rw [fld]; decide
  case ceiling => rw [fld, regReset_clkCluster]; decide

end

section
/-! SUPPORT. What the work of the homes leaves as it is: threads in reset, cores, the fences of dies, the queues of the ports, pending events and the states of the partitions. -/

namespace Sys2Proof.Machine

/-- The queues of the ports and their links and owners, pending events, and the partitions that are up and stopped. -/
def Hw.queues (h : Hw) := (h.dpq, h.pwr, h.portUp, h.portOwner, h.evPend, h.partUp, h.partStopped)

/-- Two packages alike in the queues of their ports, in pending events and in the states of their partitions. -/
structure QueuesKept (h k : Hw) : Prop where
  dpq : k.dpq = h.dpq
  pwr : k.pwr = h.pwr
  portUp : k.portUp = h.portUp
  portOwner : k.portOwner = h.portOwner
  evPend : k.evPend = h.evPend
  partUp : k.partUp = h.partUp
  partStopped : k.partStopped = h.partStopped

theorem QueuesKept.same {h k : Hw} (e : k.queues = h.queues) : QueuesKept h k := by
  simp only [Hw.queues, Prod.mk.injEq] at e
  obtain ⟨dpq, pwr, portUp, portOwner, evPend, partUp, partStopped⟩ := e
  exact ⟨dpq, pwr, portUp, portOwner, evPend, partUp, partStopped⟩

/-- Every thread in reset stays in reset; cores and the fences of dies are the same. -/
structure ResetKept (h k : Hw) : Prop where
  thread : ∀ n, h.thread n = {} → k.thread n = {}
  cores : k.cores = h.cores
  fence : k.reg .HOME_FENCE0 0 0 0 = h.reg .HOME_FENCE0 0 0 0

/-- What a home keeps through its work. -/
structure HomeKept (h k : Hw) : Prop extends ResetKept h k, QueuesKept h k

theorem QueuesKept.trans {h k m : Hw} (a : QueuesKept h k) (b : QueuesKept k m) : QueuesKept h m :=
  ⟨b.dpq.trans a.dpq, b.pwr.trans a.pwr, b.portUp.trans a.portUp, b.portOwner.trans a.portOwner, b.evPend.trans a.evPend,
    b.partUp.trans a.partUp, b.partStopped.trans a.partStopped⟩

theorem ResetKept.trans {h k m : Hw} (a : ResetKept h k) (b : ResetKept k m) : ResetKept h m :=
  ⟨fun n e => b.thread n (a.thread n e), b.cores.trans a.cores, b.fence.trans a.fence⟩

theorem ResetKept.same {h k : Hw} (e : (k.thr, k.cores, k.regs) = (h.thr, h.cores, h.regs)) : ResetKept h k := by
  simp only [Prod.mk.injEq] at e
  obtain ⟨thr, cores, regs⟩ := e
  exact ⟨fun n reset => (k.thread_congr h thr n).trans reset, cores, k.reg_congr h regs _ _ _ _⟩

theorem HomeKept.trans {h k m : Hw} (a : HomeKept h k) (b : HomeKept k m) : HomeKept h m :=
  ⟨a.toResetKept.trans b.toResetKept, a.toQueuesKept.trans b.toQueuesKept⟩

theorem HomeKept.same {h k : Hw} (e : (k.thr, k.cores, k.regs) = (h.thr, h.cores, h.regs)) (q : k.queues = h.queues) : HomeKept h k :=
  ⟨.same e, .same q⟩

theorem HomeKept.after {h k m : Hw} (b : HomeKept k m) (a : HomeKept h k) : HomeKept h m := a.trans b

theorem HomeKept.refl (h : Hw) : HomeKept h h := .same rfl rfl

theorem ResetKept.foldl {α : Type} (g : Hw → α → Hw) (hg : ∀ h a, ResetKept h (g h a)) (l : List α) : ∀ h : Hw, ResetKept h (l.foldl g h) := by
  induction l with
  | nil => exact fun h => .same rfl
  | cons a r ih => exact fun h => (hg h a).trans (ih _)

theorem HomeKept.foldl {α : Type} (g : Hw → α → Hw) (hg : ∀ h a, HomeKept h (g h a)) (l : List α) : ∀ h : Hw, HomeKept h (l.foldl g h) := by
  induction l with
  | nil => exact fun h => .refl h
  | cons a r ih => exact fun h => (hg h a).trans (ih _)

theorem HomeKept.ite {h a b : Hw} (c : Prop) [Decidable c] (x : HomeKept h a) (y : HomeKept h b) : HomeKept h (if c then a else b) := by
  split <;> assumption

theorem HomeKept.pair {h k : Hw} {β : Type} (b : β) (a : HomeKept h k) : HomeKept h (k, b).1 := a

/-! The register window: HOME_FENCE0 lies below every register that a home, the record sets or the event router write. -/

/-- The place of a register in the hub's window (R7). -/
def hubPlace (n : RegName) : Nat := (n.desc.block.place .hub).elim 0 (·.1) + n.desc.off

/-- A register whose place in the hub's window is above that of HOME_FENCE0. -/
def aboveFence (n : RegName) : Bool := decide (0x2000018 < hubPlace n)

theorem winBase_le_regAddr (n : RegName) (die inst i : Nat) : winBase die ≤ regAddr n die inst i := by
  unfold regAddr regPlace
  extract_lets d blk
  generalize d.c2 = c, d.s1 = s, d.s2 = t
  omega

theorem hubPlace_le_regAddr (n : RegName) (inst i : Nat) : winBase 0 + hubPlace n ≤ regAddr n 0 inst i := by
  unfold regAddr regPlace hubPlace
  extract_lets d blk
  have hub : (d.block.place .hub).elim 0 (·.1) = blk := rfl
  rw [hub]
  generalize d.c2 = c, d.s1 = s, d.s2 = t, d.off = w
  omega

theorem winBase_eq (die : Nat) : winBase die = 0xFFF0000000000 + die * 2 ^ 32 :=
  congrArg (0xFFF0000000000 + ·) (Nat.shiftLeft_eq die 32)

theorem fence_lt_regAddr (n : RegName) (above : aboveFence n = true) (die inst i : Nat) : regAddr .HOME_FENCE0 0 0 0 < regAddr n die inst i := by
  have fence : regAddr .HOME_FENCE0 0 0 0 = winBase 0 + 0x2000018 := by decide
  have place : 0x2000018 < hubPlace n := of_decide_eq_true above
  refine lt_of_eq_of_lt fence ?_
  by_cases hub : die = 0
  · subst hub
    have inWindow := hubPlace_le_regAddr n inst i
    generalize winBase 0 = w at inWindow ⊢
    omega
  · have zero := winBase_eq 0
    have window := winBase_eq die
    have inWindow := winBase_le_regAddr n die inst i
    generalize winBase 0 = v at zero ⊢
    generalize winBase die = w at window inWindow
    omega

theorem HomeKept.setReg (h : Hw) (n : RegName) (die inst i : Nat) (v : W64) (above : aboveFence n = true) :
    HomeKept h (h.setReg n die inst i v) :=
  ⟨⟨fun _ e => e, rfl, h.reg_setReg_ne _ _ _ _ _ _ _ _ _ (Nat.ne_of_lt (fence_lt_regAddr n above die inst i))⟩, .same rfl⟩

theorem HomeKept.setFld (h : Hw) (n : RegName) (die inst i : Nat) (f : Fld) (x : Nat) (above : aboveFence n = true) :
    HomeKept h (h.setFld n die inst i f x) := .setReg h n die inst i _ above

theorem HomeKept.record (h : Hw) (r : RecSet) (die inst i : Nat) (b : Bool) (addr info : W64)
    (above : (aboveFence r.addr0 && aboveFence r.info0 && aboveFence r.addr1 && aboveFence r.info1 && aboveFence r.stat) = true) :
    HomeKept h (h.record r die inst i b addr info) := by
  simp only [Bool.and_eq_true] at above
  obtain ⟨⟨⟨⟨addr0, info0⟩, addr1⟩, info1⟩, stat⟩ := above
  unfold Hw.record
  extract_lets v0 v1 s c
  exact .ite _ ((HomeKept.setReg h _ _ _ _ _ addr0).trans (.setReg _ _ _ _ _ _ info0))
    (.ite _ ((HomeKept.setReg h _ _ _ _ _ addr1).trans (.setReg _ _ _ _ _ _ info1)) (.setReg h _ _ _ _ _ stat))

theorem HomeKept.rasSlot (h : Hw) (die set : Nat) (r : RasInfo) : HomeKept h (h.rasSlot die set r) := by
  unfold Hw.rasSlot
  extract_lets rs addr free0 free1 h1
  have recorded : HomeKept h h1 := .record h rs die 0 set _ _ _ rfl
  exact .ite _ ((recorded.trans (.setReg _ _ _ _ _ _ rfl)).trans (.setReg _ _ _ _ _ _ rfl))
    (.ite _ ((recorded.trans (.setReg _ _ _ _ _ _ rfl)).trans (.setReg _ _ _ _ _ _ rfl)) recorded)

theorem HomeKept.raise (h : Hw) (r : Raise) : HomeKept h (h.raise r) := .same rfl rfl

theorem HomeKept.rasRaise (h : Hw) (die set : Nat) (r : RasInfo) : HomeKept h (h.rasRaise die set r) :=
  (HomeKept.rasSlot h die set r).trans (.raise _ _)

theorem HomeKept.rasRecurs (h : Hw) (die set thr : Nat) (r : RasInfo) : HomeKept h (h.rasRecurs die set thr r) := by
  unfold Hw.rasRecurs
  extract_lets key same l
  exact .ite _ (.refl h) (.ite _ ((HomeKept.rasRaise _ _ _ _).after (.same rfl rfl)) (.same rfl rfl))

theorem HomeKept.ras (h : Hw) (die set : Nat) (r : RasInfo) : HomeKept h (h.ras die set r) := by
  unfold Hw.ras
  extract_lets ctl h1 n thr h2
  have first : HomeKept h h1 := .ite _ (.rasSlot h die set r) (.refl h)
  have counted : HomeKept h h2 := .ite _ ((first.trans (.setFld _ _ _ _ _ _ _ rfl)).trans (.raise _ _)) (first.trans (.setFld _ _ _ _ _ _ _ rfl))
  exact .ite _ (counted.trans (.rasRecurs _ _ _ _ _)) (.rasRaise h die set r)

/-! Messages and slots. -/

theorem HomeKept.send (h : Hw) (m : Msg) : HomeKept h (h.send m) := by
  obtain ⟨_, _, _, _, e⟩ := h.send_only m
  rw [e]
  exact .same rfl rfl

/-- The grants of a destination change messages, slots and requests for slots, and nothing else (R440). -/
theorem Hw.grantToks_only (n dst : Nat) : ∀ h : Hw, ∃ ms tk tr, Hw.grantToks n dst h = { h with msgs := ms, toks := tk, treqs := tr } := by
  induction n with
  | zero => exact fun h => ⟨h.msgs, h.toks, h.treqs, rfl⟩
  | succ n ih =>
    intro h
    unfold Hw.grantToks
    split
    case h_1 r rest _ =>
      split
      case h_1 k _ =>
        obtain ⟨ms, tk, tr, e⟩ := ih (({ h with treqs := rest, toks := h.toks ++ [⟨r.dst, r.kind, k, r.src, none, 0⟩] } : Hw).inject
          { op := .TGNT, addr := dst, agent := agentOfStop r.src, data := r.src, mask := r.kind, info := k })
        exact ⟨ms, tk, tr, e⟩
      case h_2 => exact ⟨h.msgs, h.toks, h.treqs, rfl⟩
    case h_2 => exact ⟨h.msgs, h.toks, h.treqs, rfl⟩

theorem HomeKept.grantToks (h : Hw) (n dst : Nat) : HomeKept h (Hw.grantToks n dst h) := by
  obtain ⟨_, _, _, e⟩ := Hw.grantToks_only n dst h
  rw [e]
  exact .same rfl rfl

theorem HomeKept.serveSlot (h : Hw) (dst kind slot : Nat) : HomeKept h (h.serveSlot dst kind slot) := by
  unfold Hw.serveSlot
  split
  case h_1 => exact .same rfl rfl
  case h_2 => exact .refl h

theorem HomeKept.dropSlot (h : Hw) (t : TokSlot) : HomeKept h (h.dropSlot t) := by
  unfold Hw.dropSlot
  extract_lets h1
  have dropped : HomeKept h h1 := .same rfl rfl
  exact .ite _ (dropped.trans (.serveSlot _ _ _ _)) (dropped.trans (.grantToks _ _ _))

theorem HomeKept.freeTok (h : Hw) (kind : Nat) (a : Agent) (line : Nat) : HomeKept h (h.freeTok kind a line) := by
  unfold Hw.freeTok
  split
  case h_1 t _ => exact .dropSlot h t
  case h_2 => exact .refl h

theorem HomeKept.reply (h : Hw) (op : MsgOp) (r : HReq) : HomeKept h (h.reply op r) :=
  HomeKept.trans (.ite _ (.refl h) (.freeTok h _ _ _)) (.send _ _)

/-! Memory and the directory. -/

/-- A thread in reset holds no reservation to lose. -/
theorem look_dropResv_reset (keep : Option Nat) (line n : Nat) (l : List (Nat × Thread)) (e : look {} l n = {}) : look {} (dropResv keep line l) n = {} := by
  induction l with
  | nil => rfl
  | cons x l ih =>
    obtain ⟨k, x⟩ := x
    simp only [look] at e
    unfold dropResv
    simp only [List.map_cons]
    by_cases own : n = k
    · rw [if_pos own] at e
      rw [e]
      exact if_pos own
    · rw [if_neg own] at e
      have rest : look {} (dropResv keep line l) n = {} := ih e
      split
      · split
        · exact (if_neg own).trans rest
        · exact (if_neg own).trans rest
      · exact (if_neg own).trans rest

theorem HomeKept.writeMem (h : Hw) (a : Nat) (bs : List Byte) : HomeKept h (h.writeMem a bs) := by
  refine ⟨⟨fun n e => ?_, rfl, rfl⟩, .same rfl⟩
  have first : look {} (dropResv none (lineOf a) h.thr) n = {} := look_dropResv_reset _ _ _ _ e
  unfold Hw.writeMem Hw.thread
  simp only
  split
  · exact first
  · exact look_dropResv_reset _ _ _ _ first

theorem HomeKept.writeNum (h : Hw) (a n v : Nat) : HomeKept h (h.writeNum a n v) := .writeMem h _ _

theorem HomeKept.writeCells (h : Hw) (l : List (Nat × Byte)) : HomeKept h (h.writeCells l) := .foldl _ (fun h _ => .writeMem h _ _) l h

theorem HomeKept.homeWrite (h : Hw) (r : HReq) : HomeKept h (h.homeWrite r) := by
  unfold Hw.homeWrite
  extract_lets h1
  have written : HomeKept h h1 := .writeCells h _
  exact .ite _ (written.trans (.same rfl rfl)) written

theorem HomeKept.setPoison (h : Hw) (l : Nat) : HomeKept h (h.setPoison l) := .same rfl rfl

theorem HomeKept.poisonLines (h : Hw) (l : List Nat) : HomeKept h (h.poisonLines l) := .foldl _ HomeKept.setPoison l h

theorem HomeKept.rcPut (h : Hw) (s : Nat) (l : List RcWay) : HomeKept h (h.rcPut s l) := .same rfl rfl

theorem HomeKept.rcDirty (h : Hw) (line : Nat) : HomeKept h (h.rcDirty line) := .rcPut h _ _

theorem HomeKept.rcTouch (h : Hw) (line way : Nat) : HomeKept h (h.rcTouch line way) := .same rfl rfl

theorem HomeKept.weigh (h : Hw) (unit p : Nat) : HomeKept h (h.weigh unit p) := .same rfl rfl

theorem HomeKept.weighFar (h : Hw) (line n : Nat) : HomeKept h (h.weighFar line n) := by
  unfold Hw.weighFar
  split
  · split
    · exact .foldl _ (fun h _ => .weigh h _ _) _ h
    · exact .refl h
  · exact .refl h

theorem HomeKept.rcFill (h : Hw) (line : Nat) (dirty : Bool) : HomeKept h (h.rcFill line dirty) := by
  unfold Hw.rcFill
  extract_lets mask s l free way h1
  have evicted : HomeKept h h1 := .foldl _ (fun h _ => .weighFar h _ _) _ h
  exact .ite _ (.refl h) ((evicted.trans (.rcPut _ _ _)).trans (.rcTouch _ _ _))

theorem HomeKept.rcServe (h : Hw) (op : MsgOp) (eng : Bool) (line : Nat) : HomeKept h (h.rcServe op eng line).1 := by
  unfold Hw.rcServe
  split
  case h_1 w _ =>
    split
    case h_1 => exact .ite _ (.refl h) (.rcTouch h _ _)
    case h_2 => exact .refl h
    case h_3 => exact .refl h
    case h_4 => exact .rcDirty h _
    case h_5 => exact .rcDirty h _
    case h_6 => exact .rcDirty h _
    case h_7 => exact .rcTouch h _ _
  case h_2 =>
    extract_lets q write
    have written : HomeKept h write := .ite _ (.rcFill h _ _) (.weighFar h _ _)
    split
    case h_1 => exact .weighFar h _ _
    case h_2 => exact .weighFar h _ _
    case h_3 => exact .refl h
    case h_4 => exact written
    case h_5 => exact written
    case h_6 => exact written
    case h_7 => exact .ite _ ((HomeKept.weighFar h _ _).trans (.rcFill _ _ _)) (.weighFar h _ _)

theorem HomeKept.dirStore (h : Hw) (key : Nat) : HomeKept h (h.dirStore key) := by
  unfold Hw.dirStore
  split
  · exact .refl h
  · split
    · exact .writeNum h _ _ _
    · exact .refl h

theorem HomeKept.dirTouch (h : Hw) (key : Nat) (dirty : Bool) : HomeKept h (h.dirTouch key dirty) := by
  unfold Hw.dirTouch
  extract_lets s l was l1
  split
  · split
    · exact .same rfl rfl
    · exact .same rfl rfl
  · exact .same rfl rfl

theorem HomeKept.setDir (h : Hw) (key : Nat) (d : Dir) : HomeKept h (h.setDir key d) := by
  unfold Hw.setDir
  extract_lets changed h1 h2 h3
  have entered : HomeKept h h1 := .same rfl rfl
  have cached : HomeKept h h2 := .ite _ (entered.trans (.rcDirty _ _)) entered
  have touched : HomeKept h h3 := cached.trans (.dirTouch _ _ _)
  exact .ite _ (touched.trans (.dirStore _ _)) touched

/-! Requests at a home. -/

theorem HomeKept.homeRefusal (h : Hw) (part : Nat) (w : Bool) (pa : Nat) : HomeKept h (h.homeRefusal part w pa) := .ras h _ _ _

theorem HomeKept.homeErr (h : Hw) (code sev line : Nat) (a : Option Agent) : HomeKept h (h.homeErr code sev line a) := by
  unfold Hw.homeErr
  extract_lets n part addr info
  exact (HomeKept.record h _ _ _ _ _ _ _ rfl).trans (.raise _ _)

theorem HomeKept.farLate (h : Hw) (line : Nat) : HomeKept h (h.farLate line) := by
  unfold Hw.farLate
  extract_lets pa
  split
  · exact (HomeKept.ras _ _ _ _).after (.same rfl rfl)
  · exact .refl h

theorem HomeKept.farRead (h : Hw) (op : MsgOp) (hit : Bool) (line : Nat) : HomeKept h (h.farRead op hit line) := by
  unfold Hw.farRead
  split
  · split
    · exact .ite _ (.farLate h _) (.ite _ ((HomeKept.farLate h _).trans (.same rfl rfl)) (.refl h))
    · exact .refl h
  · exact .refl h

theorem HomeKept.hotCount (h : Hw) (op : MsgOp) (eng w : Bool) (part line : Nat) (hit : Bool) : HomeKept h (h.hotCount op eng w part line hit) := by
  unfold Hw.hotCount
  extract_lets n ctl isWr kind tier memAccess
  exact .ite _ (.refl h) (.ite _ (.ite _ (.same rfl rfl) (.same rfl rfl)) (.refl h))

/-- A new directory state and the answer with it. -/
theorem HomeKept.grant (h : Hw) (key : Nat) (d : Dir) (op : MsgOp) (r : HReq) (ended : Bool) : HomeKept h ((h.setDir key d).reply op r, ended).1 :=
  (HomeKept.setDir h key d).trans (.reply _ _ _)

/-- A write of a request that may pass it is made at once, and of another is appointed (R262). -/
theorem HomeKept.completeWrite (h : Hw) (key : Nat) (r : HReq) :
    HomeKept h (if r.relaxed then (((h.setDir key .unc).homeWrite r).reply .DONE r, true) else ((h.setDir key .unc).reply .RDY r, false)).1 := by
  split
  · show HomeKept h (((h.setDir key .unc).homeWrite r).reply .DONE r)
    exact ((HomeKept.setDir h key .unc).trans (.homeWrite _ _)).trans (.reply _ _ _)
  · exact .grant h key .unc _ _ _

theorem HomeKept.complete (h0 : Hw) (r : HReq) (st : Dir) : HomeKept h0 (h0.complete r st).1 := by
  unfold Hw.complete
  extract_lets key d eng upg
  split
  rename_i h1 hit cached
  extract_lets h touched h1'
  have served : HomeKept h0 h1 := by
    have e : h1 = (if upg then (h0, true) else h0.rcServe r.op eng r.line).1 := by rw [cached]
    rw [e]
    split
    · exact .refl h0
    · exact .rcServe h0 _ _ _
  refine HomeKept.trans ((served.trans (.farRead _ _ _ _)).trans (.hotCount _ _ _ _ _ _ _) : HomeKept h0 h) ?_
  clear_value h
  split
  case h_1 =>
    split
    case h_1 => split <;> exact .grant h _ _ _ _ _
    case h_2 => split <;> exact .grant h _ _ _ _ _
    case h_3 => split <;> exact .grant h _ _ _ _ _
  case h_2 => exact (HomeKept.grant { h with ownLines := ins h.ownLines r.line } _ _ _ _ true).after (.same rfl rfl)
  case h_3 => split <;> exact .grant h _ _ _ _ _
  case h_4 =>
    have looked : HomeKept h touched := .ite _ (.refl h) (.dirTouch h _ _)
    split
    · exact .pair true ((looked.trans (.freeTok _ _ _ _)).trans (.send _ _))
    · exact .pair true (looked.trans (.reply _ _ _))
  case h_5 => exact .completeWrite h key r
  case h_6 => exact .completeWrite h key r
  case h_7 => exact .grant h _ _ _ _ _

theorem HomeKept.makeStale (h : Hw) (a : Agent) (l : List Nat) : HomeKept h (h.makeStale a l) := by
  cases a <;> exact .same rfl rfl

theorem HomeKept.loseAgent (h : Hw) (a : Agent) (line c : Nat) (ls : List Nat) : HomeKept h (h.loseAgent a line c ls) := by
  unfold Hw.loseAgent
  extract_lets h1
  have lost : HomeKept h h1 := ((HomeKept.poisonLines h ls).trans (.makeStale _ a ls)).trans (.homeErr _ _ _ _ _)
  exact (lost.trans (.setDir _ _ _)).trans (.same rfl rfl)

theorem HomeKept.recallFenced (h : Hw) (a : Agent) (line : Nat) : HomeKept h (h.recallFenced a line) := .loseAgent h _ _ _ _

theorem HomeKept.sendSnoops (h : Hw) (t : Txn) (op : MsgOp) (l : List Agent) : HomeKept h (h.sendSnoops t op l) :=
  .foldl _ (fun h _ => .send h _) l h

theorem HomeKept.openTxn (h : Hw) (t : Txn) : HomeKept h (h.openTxn t) := by
  unfold Hw.openTxn
  extract_lets k t'
  exact ((HomeKept.sendSnoops _ _ _ _).after (.dirTouch _ _ _)).after (.same rfl rfl)

/-- A request that is completed, or that its commit keeps open (R262). -/
theorem HomeKept.completeOrOpen (h : Hw) (r : HReq) (st : Dir) (t : Txn) :
    HomeKept h (match h.complete r st with | (h1, ended) => if ended then h1 else h1.openTxn t) := by
  have done := HomeKept.complete h r st
  split
  rename_i e
  rw [e] at done
  exact .ite _ done (done.trans (.openTxn _ _))

theorem HomeKept.startReq (h : Hw) (r : HReq) : HomeKept h (h.startReq r) := by
  unfold Hw.startReq
  extract_lets key pa h0 h' st t0 fin
  have weighed : HomeKept h h' := .weigh h _ _
  have fin_kept (k : Hw) (st : Dir) : HomeKept k (fin k st) := .completeOrOpen k r st _
  have opened (t : Txn) : HomeKept h (h'.openTxn t) := weighed.trans (.openTxn _ _)
  refine .ite _ ((HomeKept.homeRefusal h _ _ _).trans (.reply _ _ _)) (.ite _ ?_ ?_)
  · exact (HomeKept.ite _ (.homeRefusal h _ _ _) (.refl h)).trans (.reply _ _ _)
  clear_value st fin h'
  cases st with
  | unc => exact weighed.trans (fin_kept _ _)
  | owned a m =>
    refine .ite _ (.ite _ (weighed.trans (fin_kept _ _)) (opened _)) (.ite _ ?_ (opened _))
    exact (weighed.trans (.recallFenced _ _ _)).trans (fin_kept _ _)
  | shared vec f =>
    refine .ite _ (.ite _ ((weighed.trans (.setDir _ _ _)).trans (fin_kept _ _)) ((HomeKept.openTxn _ _).after (.same rfl rfl))) ?_
    extract_lets others
    split
    case h_1 => exact weighed.trans (fin_kept _ _)
    case h_2 => exact weighed.trans (fin_kept _ _)
    case h_3 => exact opened _
    case h_4 => exact opened _
    case h_5 => exact .ite _ (weighed.trans (fin_kept _ _)) (opened _)

theorem HomeKept.homeRequest (h : Hw) (r : HReq) : HomeKept h (h.homeRequest r) := by
  unfold Hw.homeRequest
  extract_lets key
  exact .ite _ (.refl h) (.ite _ (.same rfl rfl) (.startReq h r))

/-! The change of a GiB's owner, and a new key (R509, R577). -/

theorem HomeKept.sweepRecall (h : Hw) (key : Nat) (d : Dir) : HomeKept h (h.sweepRecall key d) := by
  unfold Hw.sweepRecall
  extract_lets line
  refine .ite _ (.refl h) ?_
  split
  case h_1 a _ => exact .ite _ (.recallFenced h _ _) (.openTxn h _)
  case h_2 vec f => exact .ite _ (.setDir h _ _) (.openTxn h _)
  case h_3 => exact .refl h

theorem HomeKept.releaseSweep (h : Hw) (g : Nat) : HomeKept h (h.releaseSweep g) := .foldl _ (fun h _ => .sweepRecall h _ _) _ h

theorem HomeKept.gibStart (h : Hw) (g owner : Nat) (why : GibWhy) : HomeKept h (h.gibStart g owner why) := by
  unfold Hw.gibStart
  extract_lets h1 h2
  have taken : HomeKept h h1 := .ite _ (.setReg h _ _ _ _ _ rfl) (.setReg h _ _ _ _ _ rfl)
  exact (taken.trans (.same rfl rfl) : HomeKept h h2).trans (.releaseSweep _ _)

theorem HomeKept.drawKey (h : Hw) (p : Nat) : HomeKept h (h.drawKey p) := .same rfl rfl

theorem HomeKept.rekey (h : Hw) (p : Nat) : HomeKept h (h.rekey p) :=
  (HomeKept.drawKey h p).trans (.foldl _ (fun h _ => .gibStart h _ _ _) _ _)

/-! The event router (R612 to R615): events move, and what a home keeps beside them stays. -/

theorem ResetKept.ite {h a b : Hw} (c : Prop) [Decidable c] (x : ResetKept h a) (y : ResetKept h b) : ResetKept h (if c then a else b) := by
  split <;> assumption

theorem HomeKept.vecEntry (h : Hw) (p v : Nat) : HomeKept h (h.vecEntry p v).1 := by
  unfold Hw.vecEntry
  extract_lets key sec base pa h1
  split
  case h_1 => exact .refl h
  case h_2 =>
    split
    · exact .refl h
    · split
      · exact .pair none (.ite _ (.refl h) (.homeRefusal h _ _ _))
      · exact .pair (some _) ((HomeKept.homeRequest h _ : HomeKept h h1).trans (.same rfl rfl))

theorem ResetKept.evSend (h : Hw) (e : EvPend) (t level : Nat) (fbk : Bool) : ResetKept h (h.evSend e t level fbk) := by
  unfold Hw.evSend
  extract_lets ev h1
  exact (.same rfl : ResetKept h h1).trans (HomeKept.send _ _).toResetKept

theorem ResetKept.evFallback (h : Hw) (e : EvPend) : ResetKept h (h.evFallback e) := by
  unfold Hw.evFallback
  split
  · exact .ite _ (.same rfl) (.evSend h _ _ _ _)
  · exact .same rfl

theorem ResetKept.evTry (h : Hw) (e : EvPend) : ResetKept h (h.evTry e) := by
  have read := (HomeKept.vecEntry h e.inst e.vector).toResetKept
  unfold Hw.evTry
  refine .ite _ (.same rfl) (.ite _ (.evFallback h e) ?_)
  split
  case h_1 h1 e1 =>
    rw [e1] at read
    exact read.trans (.evFallback _ _)
  case h_2 h1 w e1 =>
    rw [e1] at read
    exact .ite _ (read.trans (.evFallback _ _)) (.ite _ read (.ite _ (read.trans (.evFallback _ _)) (.ite _ read (read.trans (.evSend _ _ _ _ _)))))

theorem ResetKept.evPump (h : Hw) : ResetKept h h.evPump := .foldl _ ResetKept.evTry _ h

theorem ResetKept.setPending (h : Hw) (e : EvPend) : ResetKept h (h.setPending e) :=
  .ite _ (.ite _ (.same rfl) (.same rfl)) (.ite _ (.same rfl) (.same rfl))

theorem ResetKept.offlined (h : Hw) (t : Nat) : ResetKept h (h.offlined t) := by
  unfold Hw.offlined
  split
  extract_lets slots h1 h2
  have taken : ResetKept h h1 := .same rfl
  have pended : ResetKept h h2 := taken.trans (.foldl _ (fun h _ => .setPending h _) _ _)
  exact pended.trans (.foldl _ (fun h _ => .setPending h _) _ _)

theorem ResetKept.onlineSet (h : Hw) (w : Nat) (v : W64) : ResetKept h (h.onlineSet w v) := by
  unfold Hw.onlineSet
  extract_lets old h1
  have set : ResetKept h h1 := (HomeKept.setReg h _ _ _ _ _ rfl).toResetKept
  exact (set.trans (.foldl _ (fun h _ => .offlined h _) _ _)).trans (.evPump _)

end Sys2Proof.Machine
end

section
/-! SUPPORT. The queues of the ports through the work of a die: its caches, its answers, the walks and the traps of its threads, and the end of a device access. -/

namespace Sys2Proof.Machine

theorem QueuesKept.after {h k m : Hw} (b : QueuesKept k m) (a : QueuesKept h k) : QueuesKept h m := a.trans b

theorem QueuesKept.refl (h : Hw) : QueuesKept h h := .same rfl

theorem QueuesKept.foldl {α : Type} (g : Hw → α → Hw) (hg : ∀ h a, QueuesKept h (g h a)) (l : List α) : ∀ h : Hw, QueuesKept h (l.foldl g h) := by
  induction l with
  | nil => exact fun h => .refl h
  | cons a r ih => exact fun h => (hg h a).trans (ih _)

theorem QueuesKept.ite {h a b : Hw} (c : Prop) [Decidable c] (x : QueuesKept h a) (y : QueuesKept h b) : QueuesKept h (if c then a else b) := by
  split <;> assumption

theorem CacheOnly.queues {h k : Hw} (c : CacheOnly h k) : QueuesKept h k := by
  obtain ⟨_, _, _, _, _, _, _, _, _, _, _, e⟩ := c.rest
  rw [e]
  exact .same rfl

/-! The caches of a core and of a die are cleaned. -/

theorem QueuesKept.replayAt (h : Hw) (t seq : Nat) : QueuesKept h (h.replayAt t seq) := by
  unfold Hw.replayAt
  extract_lets key fs snap cut gone later h1 h2
  have cutting : QueuesKept h h1 := .same rfl
  have installed : QueuesKept h h2 := cutting.trans (.foldl _ (fun h e => (cacheOnly_installFill h e).queues) _ _)
  split
  · exact installed.trans ((cacheOnly_flushQ _ t).queues.after (.same rfl))
  · exact installed

theorem QueuesKept.flushOpen (h : Hw) (t : Nat) : QueuesKept h (h.flushOpen t) := by
  unfold Hw.flushOpen
  split
  · exact .replayAt h t _
  · exact .refl h

theorem QueuesKept.send (h : Hw) (m : Msg) : QueuesKept h (h.send m) := (HomeKept.send h m).toQueuesKept

theorem QueuesKept.wcFlushOne (h : Hw) (key : Nat) (b : WcBuf) : QueuesKept h (h.wcFlushOne key b) :=
  .ite _ (.refl h) ((QueuesKept.send _ _).after (.same rfl))

theorem QueuesKept.wcFlush (h : Hw) (t : Nat) : QueuesKept h (h.wcFlush t) := .foldl _ (fun h _ => .wcFlushOne h _ _) _ h

theorem QueuesKept.cleanCore (h : Hw) (die p : Nat) : QueuesKept h (h.cleanCore die p) := by
  unfold Hw.cleanCore
  extract_lets h1 h2
  have flushed : QueuesKept h h1 := .foldl _ (fun h t => (QueuesKept.flushOpen h t).trans (.wcFlush _ t)) _ h
  have dropped : QueuesKept h h2 := flushed.trans (.foldl _ (fun h l => (cacheOnly_l2Drop h die p l).queues) _ _)
  exact dropped.trans (.same rfl)

theorem QueuesKept.answer (h : Hw) (op : MsgOp) (a : Agent) (line info pz : Nat) : QueuesKept h (h.answer op a line info pz) :=
  ((HomeKept.freeTok h _ _ _).trans (.send _ _)).toQueuesKept

theorem QueuesKept.cleanDie (h : Hw) (die : Nat) : QueuesKept h (h.cleanDie die) := by
  unfold Hw.cleanDie
  extract_lets h1 h2 h3
  have cores : QueuesKept h h1 := .foldl _ (fun h p => .cleanCore h die p) _ h
  have lines : QueuesKept h h2 := cores.trans (.foldl _ (fun h l => (cacheOnly_dieGiveUp h die l).queues) _ _)
  have snoops : QueuesKept h h3 := lines.trans (.foldl _ (fun h _ => .answer h _ _ _ _ _) _ _)
  exact snoops.trans (cacheOnly_onCDie h3 die _).queues

/-! Answers of a die to snoops. -/

theorem cacheOnly_snoopLine (h : Hw) (op : MsgOp) (die line : Nat) : CacheOnly h (h.snoopLine op die line) := by
  have shared : CacheOnly h ((h.fillsInvalid die line).l2Share die line) :=
    (cacheOnly_foldl _ (fun h p => cacheOnly_fillsBad h die p line) _ h).trans (cacheOnly_l2Share _ die line)
  have dropped : CacheOnly h ((h.l2DropOthers die line none).fillsInvalid die line) :=
    (cacheOnly_l2DropOthers h die line none).trans (cacheOnly_foldl _ (fun h p => cacheOnly_fillsBad h die p line) _ _)
  unfold Hw.snoopLine
  extract_lets st inval
  have inval_kept : CacheOnly h (inval h) := dropped.trans (cacheOnly_onCDie _ _ _)
  clear_value st inval
  split
  case h_1 => exact .refl h
  case h_2 => exact shared.trans (cacheOnly_onCDie _ _ _)
  case h_3 => exact shared.trans (cacheOnly_onCDie _ _ _)
  case h_4 => exact cacheOnly_onCDie h _ _
  case h_5 => exact .refl h
  case h_6 => exact inval_kept

theorem QueuesKept.dieAnswer (h : Hw) (op : MsgOp) (die line : Nat) : QueuesKept h (h.dieAnswer op die line) := by
  unfold Hw.dieAnswer
  extract_lets a ls held pend flags dirty pz h1
  have snooped : QueuesKept h h1 := .foldl _ (fun h l => (cacheOnly_snoopLine h op die l).queues) _ h
  refine .ite _ (.answer h _ _ _ _ _) (.ite _ ((QueuesKept.answer h _ _ _ _ _).trans (HomeKept.ras _ _ _ _).toQueuesKept) ?_)
  split
  case h_1 => exact snooped.trans (.answer _ _ _ _ _ _)
  case h_2 => exact snooped.trans (.answer _ _ _ _ _ _)
  case h_3 => exact snooped.trans (.answer _ _ _ _ _ _)
  case h_4 => exact .ite _ (snooped.trans (.answer _ _ _ _ _ _)) (snooped.trans (.answer _ _ _ _ _ _))

theorem QueuesKept.serveHeld (h : Hw) (die : Nat) : QueuesKept h (h.serveHeld die) := by
  unfold Hw.serveHeld
  extract_lets ready l
  exact (QueuesKept.foldl _ (fun h _ => .dieAnswer h _ _ _) _ _).after (.same rfl)

theorem QueuesKept.endHold (h : Hw) (t : Nat) : QueuesKept h (h.endHold t) := by
  unfold Hw.endHold
  split
  · exact (QueuesKept.serveHeld _ _).after (.same rfl)
  · exact .refl h

/-! Notes to the platform (R650). -/

theorem QueuesKept.setFld (h : Hw) (n : RegName) (die inst i : Nat) (f : Fld) (x : Nat) : QueuesKept h (h.setFld n die inst i f x) := .same rfl

/-- A change of the status flags touches the platform's side, and draws a free value. -/
theorem Hw.flagsIbi_only (h : Hw) : ∃ x p, h.flagsIbi = { h with free := x, plat := p } := by
  unfold Hw.flagsIbi
  split
  · exact ⟨h.free, h.plat, rfl⟩
  · exact ⟨_, _, rfl⟩

theorem QueuesKept.flagsIbi (h : Hw) : QueuesKept h h.flagsIbi := by
  obtain ⟨_, _, e⟩ := h.flagsIbi_only
  rw [e]
  exact .same rfl

theorem QueuesKept.notify (h : Hw) (type : Nat) (alert : Bool) (payload : List Byte) : QueuesKept h (h.notify type alert payload) := by
  unfold Hw.notify
  extract_lets v wr
  exact .ite _ ((QueuesKept.flagsIbi _).after (.same rfl)) ((QueuesKept.flagsIbi _).after (.same rfl))

theorem QueuesKept.checkStop (h : Hw) (t cond stack : Nat) : QueuesKept h (h.checkStop t cond stack) := by
  unfold Hw.checkStop
  extract_lets die h1 h2 h3 h4
  have marked : QueuesKept h h2 := by
    show QueuesKept h (match h.pcoreOf t with | some p => h1.setFld .CORE_STATUS die p 0 F.CORE_STATUS_CHECKSTOP 1 | none => h1)
    split
    · exact .same rfl
    · exact .same rfl
  have recorded : QueuesKept h h3 := marked.trans (HomeKept.ras _ _ _ _).toQueuesKept
  have raised : QueuesKept h h4 := recorded.trans (.same rfl)
  exact raised.trans (.notify _ _ _ _)

/-! Stores of a thread into lines that its die owns. -/

theorem QueuesKept.storeOwned (h : Hw) (t line vset : Nat) (bs : List (Nat × Byte)) : QueuesKept h (h.storeOwned t line vset bs) := by
  unfold Hw.storeOwned
  extract_lets die p w h1 h2 h3
  have written : QueuesKept h h1 :=
    ((cacheOnly_countRecalls h _ _ _ _).trans (cacheOnly_l2DropOthers _ _ _ _)).queues.trans (HomeKept.writeCells _ _).toQueuesKept
  have owned : QueuesKept h h2 := written.trans ((cacheOnly_dieSet h1 _ _ _).trans (cacheOnly_l2Install _ _ _ _ _ _)).queues
  have held : QueuesKept h h3 := owned.trans (cacheOnly_l1dInstall h2 _ _ _ _ _).queues
  exact .ite _ (.refl h) (.ite _ (held.trans (cacheOnly_dieGiveUp h3 _ _).queues) held)

theorem QueuesKept.writeRange (h : Hw) (t pa : Nat) (bs : List Byte) : QueuesKept h (h.writeRange t pa bs) :=
  .foldl _ (fun h _ => .storeOwned h _ _ _ _) _ h

theorem QueuesKept.ownRange (h : Hw) (t : Nat) (ls : List Nat) : QueuesKept h (h.ownRange t ls).1 := by
  unfold Hw.ownRange
  extract_lets die ready
  split
  · exact .refl h
  · split
    · exact .refl h
    · exact .foldl _ (fun h l => .ite _ (.refl h) (cacheOnly_dieRequest h _ _ _ _ _ _).queues) _ h

/-! Walks of the partition stage (R167, R179). -/

/-- The package that a walk leaves, whether it ends in a fault or in a translation. -/
def pkgOf {ε α : Type} : Except (Hw × ε) (Hw × α) → Hw
  | .error e => e.1
  | .ok v => v.1

theorem cacheOnly_walkTouch (h : Hw) (t pa : Nat) (waits : Bool) : CacheOnly h (h.walkTouch t pa waits).1 := by
  unfold Hw.walkTouch
  extract_lets x line behind st hit u e
  split
  · exact cacheOnly_ite _ (cacheOnly_setFill h _ _) (.refl h)
  · split
    · exact cacheOnly_ite _ (cacheOnly_onCore h _ _) (cacheOnly_hitTouch h _)
    · split
      · exact .refl h
      · exact cacheOnly_addFill h e

theorem QueuesKept.pkg_ite {ε α : Type} {h : Hw} {a b : Except (Hw × ε) (Hw × α)} (c : Prop) [Decidable c]
    (x : QueuesKept h (pkgOf a)) (y : QueuesKept h (pkgOf b)) : QueuesKept h (pkgOf (if c then a else b)) := by
  split <;> assumption

theorem QueuesKept.readPte (h : Hw) (c : Ctx) (lvl pa : Nat) : QueuesKept h (pkgOf (readPte h c lvl pa)) := by
  unfold Machine.readPte
  refine .pkg_ite _ (.refl h) (.pkg_ite _ (HomeKept.homeRefusal h _ _ _).toQueuesKept (.pkg_ite _ (.refl h) (.pkg_ite _ (.refl h) ?_)))
  extract_lets v
  split
  case h_1 t _ =>
    extract_lets r
    have touched : QueuesKept h r.1 := (cacheOnly_walkTouch h _ _ _).queues
    exact .pkg_ite _ touched touched
  case h_2 =>
    dsimp only [pkgOf]
    exact .send h _

theorem QueuesKept.readPteC (h : Hw) (c : Ctx) (wc : List WalkEnt) (s2 st : Bool) (lvl pa : Nat) : QueuesKept h (pkgOf (readPteC h c wc s2 st lvl pa)) := by
  unfold Machine.readPteC
  split
  · split
    · exact .readPte h c lvl pa
    · exact .refl h
  · exact .readPte h c lvl pa

theorem QueuesKept.passPte (h : Hw) (c : Ctx) (s2 : Bool) (pa : Nat) (e : W64) (hwad : Bool) : QueuesKept h (passPte h c s2 pa e hwad) := by
  have noted (h : Hw) (e : W64) : QueuesKept h (notePtr h c s2 pa e) := by
    unfold notePtr
    split
    · exact .ite _ (.same rfl) (.refl h)
    · exact .refl h
  exact .ite _ ((HomeKept.writeNum h _ _ _).toQueuesKept.trans (noted _ _)) (noted h e)

theorem QueuesKept.setDs (h : Hw) (l : List Nat) : QueuesKept h (setDs h l) := .foldl _ (fun h _ => (HomeKept.writeNum h _ _ _).toQueuesKept) l h

theorem QueuesKept.psWalk (c : Ctx) (wc : List WalkEnt) (ia : Nat) (table st : Bool) (lvl : Nat) :
    ∀ (base : Nat) (h : Hw), QueuesKept h (pkgOf (psWalk c wc ia table st lvl base h)) := by
  induction lvl with
  | zero =>
    intro base h
    unfold Machine.psWalk
    extract_lets idx pa
    have read := QueuesKept.readPteC h c wc true st 0 pa
    split
    case h_1 e q => rw [q] at read; exact read
    case h_2 h1 e q =>
      rw [q] at read
      have passed := read.trans (.passPte h1 c true pa e c.hwad2)
      exact .pkg_ite _ read (.pkg_ite _ read (.pkg_ite _ read passed))
  | succ n ih =>
    intro base h
    unfold Machine.psWalk
    extract_lets idx pa
    have read := QueuesKept.readPteC h c wc true st (n + 1) pa
    split
    case h_1 e q => rw [q] at read; exact read
    case h_2 h1 e q =>
      rw [q] at read
      have passed := read.trans (.passPte h1 c true pa e c.hwad2)
      exact .pkg_ite _ read (.pkg_ite _ read (.pkg_ite _ read (passed.trans (ih _ _))))

theorem QueuesKept.psTranslate (c : Ctx) (wc : List WalkEnt) (ia : Nat) (acc : Acc) (table : Bool) (h : Hw) :
    QueuesKept h (pkgOf (psTranslate c wc ia acc table h)) := by
  unfold Machine.psTranslate
  have walked := QueuesKept.psWalk c wc ia table (decide (acc = .store)) 4 c.psbase h
  split
  case h_1 e q => rw [q] at walked; exact walked
  case h_2 h1 l q =>
    rw [q] at walked
    extract_lets ok needD
    exact .pkg_ite _ walked (.pkg_ite _ walked (walked.trans (.passPte h1 _ _ _ _ _)))

/-! Traps (R139). -/

theorem QueuesKept.frameAddr (h : Hw) (t code addr : Nat) (acc : Acc) : QueuesKept h (pkgOf (frameAddr h t code addr acc)) := by
  unfold Machine.frameAddr
  extract_lets x part world check c c'
  have checked (k : Hw) (pa : Nat) : QueuesKept k (pkgOf (check k pa)) :=
    .pkg_ite _ (.refl k) (.pkg_ite _ (HomeKept.homeRefusal k _ _ _).toQueuesKept (.pkg_ite _ (.refl k) (.refl k)))
  clear_value check
  refine .pkg_ite _ (.pkg_ite _ ?_ (checked h addr)) (checked h addr)
  have walked := QueuesKept.psTranslate c' (h.core (h.coreKeyOf t)).walk2 addr acc false h
  split
  case h_1 h1 e q => rw [q] at walked; exact walked
  case h_2 h1 pa l ds q =>
    rw [q] at walked
    exact .pkg_ite _ walked ((walked.trans (.setDs h1 ds)).trans (checked _ _))

/-- The package that a spill leaves, whether it ends or not. -/
def spillPkg : Except (Hw × SpillErr) Hw → Hw
  | .error e => e.1
  | .ok k => k

theorem QueuesKept.pushFrame (h : Hw) (t code : Nat) (diverted : Bool) : QueuesKept h (spillPkg (pushFrame h t code diverted)) := by
  unfold Machine.pushFrame
  extract_lets x base cnt frame
  have address := QueuesKept.frameAddr h t code frame .store
  split
  · exact .refl h
  split
  case h_1 h1 ps q => rw [q] at address; exact address
  case h_2 h1 pa q =>
    rw [q] at address
    have owned := address.trans (.ownRange h1 t (lineRange pa 128))
    split
    case h_1 h2 q2 => rw [q2] at owned; exact owned
    case h_2 h2 q2 =>
      rw [q2] at owned
      exact (owned.trans (.writeRange h2 t pa _)).trans (.same rfl)

theorem QueuesKept.enterTrap (h : Hw) (t : Nat) (c : Cause) (target : Nat) : QueuesKept h (enterTrap h t c target) := .same rfl

theorem QueuesKept.takeTrap (h : Hw) (t : Nat) (c : Cause) : QueuesKept h (takeTrap h t c).1 := by
  unfold Machine.takeTrap
  extract_lets h1 x target y
  have begun : QueuesKept h h1 := (QueuesKept.wcFlush h t).trans (.endHold _ t)
  refine QueuesKept.trans begun ?_
  clear_value h1
  have spilled := QueuesKept.pushFrame h1 t y false
  split
  · exact .checkStop h1 _ _ _
  split
  · exact .enterTrap h1 _ _ _
  split
  case h_1 h2 q => rw [q] at spilled; exact spilled.trans (.enterTrap h2 _ _ _)
  case h_2 h2 q => rw [q] at spilled; exact spilled
  case h_3 h2 e _ q =>
    rw [q] at spilled
    have again := spilled.trans (.pushFrame h2 t 3 true)
    split
    · exact spilled.trans (.checkStop h2 _ _ _)
    extract_lets frame
    split
    case h_1 h3 q2 => rw [q2] at again; exact again
    case h_2 h3 e2 _ q2 => rw [q2] at again; exact again.trans (.checkStop h3 _ _ _)
    case h_3 h3 q2 => rw [q2] at again; exact again.trans (.enterTrap h3 _ _ _)

/-! A port's devices (R228 to R235). -/

theorem QueuesKept.devTrap (h : Hw) (t : Nat) (c : Cause) : QueuesKept h (h.devTrap t c) := by
  unfold Hw.devTrap
  have ended : QueuesKept h (h.onThread t (fun x => { x with dev := none })) := .same rfl
  have trapped := ended.trans (.takeTrap _ t c)
  split
  case h_1 h1 q => rw [q] at trapped; exact trapped.trans (.same rfl)
  case h_2 h1 _ _ q => rw [q] at trapped; exact trapped

theorem QueuesKept.devRecord (h : Hw) (n t pa cls : Nat) : QueuesKept h (h.devRecord n t pa cls) :=
  (HomeKept.ras h _ _ _).toQueuesKept.trans (.same rfl)

theorem QueuesKept.devFail (h : Hw) (t cls : Nat) : QueuesKept h (h.devFail t cls) := by
  unfold Hw.devFail
  split
  · exact (QueuesKept.devRecord h _ _ _ _).trans (.devTrap _ _ _)
  · exact .refl h

theorem QueuesKept.portPump (h : Hw) (n : Nat) : QueuesKept h (h.portPump n) := (HomeKept.grantToks h _ _).toQueuesKept

/-- The end of every access at a port takes the port's stores from its queue, and nothing else of the queues. -/
theorem Hw.portAbort_queues (h : Hw) (n : Nat) : QueuesKept { h with dpq := del h.dpq n } (h.portAbort n) := by
  unfold Hw.portAbort
  extract_lets q waiting errs count h1 h2
  have emptied : QueuesKept { h with dpq := del h.dpq n } h1 := .same rfl
  have recorded : QueuesKept { h with dpq := del h.dpq n } h2 := .ite _ emptied ((emptied.trans (HomeKept.ras h1 _ _ _).toQueuesKept).trans (.same rfl))
  exact (recorded.trans (.foldl _ (fun h _ => .devFail h _ _) _ _)).trans (.portPump _ _)

theorem Hw.portReset_queues (h : Hw) (n : Nat) :
    QueuesKept { h with dpq := del h.dpq n, portUp := rem h.portUp n, pwr := del h.pwr n } (h.portReset n) := by
  obtain ⟨dpq, _, portUp, portOwner, evPend, partUp, partStopped⟩ := ({ h with portUp := rem h.portUp n } : Hw).portAbort_queues n
  exact ⟨dpq, rfl, portUp, portOwner, evPend, partUp, partStopped⟩

end Sys2Proof.Machine
end

section
/-! SUPPORT. The work of a reset on registers, links, domains, jobs and the commit machine leaves threads, cores, dies, the directory and the queues as they are. -/

namespace Sys2Proof.Machine

/-- Two packages alike in threads and in the queues. -/
structure ThreadsKept (h k : Hw) : Prop extends QueuesKept h k where
  thr : k.thr = h.thr

/-- Two packages alike in threads, cores, compute dies, the directory and the queues. -/
structure UnitsKept (h k : Hw) : Prop extends ThreadsKept h k where
  cores : k.cores = h.cores
  cdies : k.cdies = h.cdies
  dir : k.dir = h.dir

theorem ThreadsKept.same {h k : Hw} (thr : k.thr = h.thr) (q : k.queues = h.queues) : ThreadsKept h k := ⟨.same q, thr⟩

theorem UnitsKept.same {h k : Hw} (e : (k.thr, k.cores, k.cdies, k.dir) = (h.thr, h.cores, h.cdies, h.dir)) (q : k.queues = h.queues) : UnitsKept h k := by
  simp only [Prod.mk.injEq] at e
  obtain ⟨thr, cores, cdies, dir⟩ := e
  exact ⟨.same thr q, cores, cdies, dir⟩

theorem UnitsKept.refl (h : Hw) : UnitsKept h h := .same rfl rfl

theorem ThreadsKept.trans {h k m : Hw} (a : ThreadsKept h k) (b : ThreadsKept k m) : ThreadsKept h m :=
  ⟨a.toQueuesKept.trans b.toQueuesKept, b.thr.trans a.thr⟩

theorem ThreadsKept.after {h k m : Hw} (b : ThreadsKept k m) (a : ThreadsKept h k) : ThreadsKept h m := a.trans b

theorem ThreadsKept.foldl {α : Type} (g : Hw → α → Hw) (hg : ∀ h a, ThreadsKept h (g h a)) (l : List α) : ∀ h : Hw, ThreadsKept h (l.foldl g h) := by
  induction l with
  | nil => exact fun h => .same rfl rfl
  | cons a r ih => exact fun h => (hg h a).trans (ih _)

theorem ThreadsKept.thread {h k : Hw} (u : ThreadsKept h k) (n : Nat) : k.thread n = h.thread n := k.thread_congr h u.thr n

theorem UnitsKept.trans {h k m : Hw} (a : UnitsKept h k) (b : UnitsKept k m) : UnitsKept h m :=
  ⟨a.toThreadsKept.trans b.toThreadsKept, b.cores.trans a.cores, b.cdies.trans a.cdies, b.dir.trans a.dir⟩

theorem UnitsKept.after {h k m : Hw} (b : UnitsKept k m) (a : UnitsKept h k) : UnitsKept h m := a.trans b

theorem UnitsKept.foldl {α : Type} (g : Hw → α → Hw) (hg : ∀ h a, UnitsKept h (g h a)) (l : List α) : ∀ h : Hw, UnitsKept h (l.foldl g h) := by
  induction l with
  | nil => exact fun h => .refl h
  | cons a r ih => exact fun h => (hg h a).trans (ih _)

theorem UnitsKept.ite {h a b : Hw} (c : Prop) [Decidable c] (x : UnitsKept h a) (y : UnitsKept h b) : UnitsKept h (if c then a else b) := by
  split <;> assumption

theorem UnitsKept.core {h k : Hw} (u : UnitsKept h k) (n : Nat) : k.core n = h.core n := by rw [Hw.core, Hw.core, u.cores]

theorem UnitsKept.cdie {h k : Hw} (u : UnitsKept h k) (d : Nat) : k.cdie d = h.cdie d := by rw [Hw.cdie, Hw.cdie, u.cdies]

theorem UnitsKept.send (h : Hw) (m : Msg) : UnitsKept h (h.send m) := by
  obtain ⟨_, _, _, _, e⟩ := h.send_only m
  rw [e]
  exact .same rfl rfl

/-! Registers. -/

theorem UnitsKept.setReg (h : Hw) (n : RegName) (die inst i : Nat) (v : W64) : UnitsKept h (h.setReg n die inst i v) := .same rfl rfl

theorem UnitsKept.setFld (h : Hw) (n : RegName) (die inst i : Nat) (f : Fld) (x : Nat) : UnitsKept h (h.setFld n die inst i f x) := .same rfl rfl

/-- Registers that are mapped are all that changes. -/
theorem Hw.mapRegs_only (h : Hw) (sel : RegRef → Bool) (f : RegRef → W64 → W64) : ∃ r, h.mapRegs sel f = { h with regs := r } := by
  have step (l : List (Nat × W64)) : ∀ k : Hw, ∃ r, l.foldl (fun (x : Hw) e => match findReg e.1 with
      | some r => if sel r then x.setReg r.name r.die r.inst r.idx (f r e.2) else x
      | none => x) k = { k with regs := r } := by
    induction l with
    | nil => exact fun k => ⟨k.regs, rfl⟩
    | cons e l ih =>
      intro k
      rw [List.foldl_cons]
      split
      · split
        · obtain ⟨r, q⟩ := ih (k.setReg _ _ _ _ _)
          exact ⟨r, q⟩
        · exact ih k
      · exact ih k
  exact step h.regs h

theorem UnitsKept.resetRegs (h : Hw) (k : Narrow) (sel : RegRef → Bool) : UnitsKept h (h.resetRegs k sel) := by
  unfold Hw.resetRegs
  extract_lets ok h1
  obtain ⟨r, e⟩ := h.mapRegs_only ok (fun r v => h.narrowValue k r v)
  have mapped : h1 = { h with regs := r } := e
  rw [mapped]
  exact .same rfl rfl

theorem UnitsKept.rolesFromMap (h : Hw) (die : Nat) : UnitsKept h (h.rolesFromMap die) := by
  refine .foldl _ (fun h p => ?_) _ h
  extract_lets fused bad
  split
  · exact .same rfl rfl
  · exact .same rfl rfl

theorem UnitsKept.setMreg (h : Hw) (n : Nat) (d : BitVec 384) : UnitsKept h (h.setMreg n d) := .foldl _ (fun h _ => .setReg h _ _ _ _ _) _ h

/-! Links, torus nodes and domains. -/

theorem UnitsKept.setLinkFld (h : Hw) (hp : Nat) (hub : Bool) (f : Fld) (v : Nat) : UnitsKept h (h.setLinkFld hp hub f v) :=
  .ite _ (.setFld h _ _ _ _ _ _) (.setFld h _ _ _ _ _ _)

theorem UnitsKept.setLathFld (h : Hw) (n p : Nat) (f : Fld) (v : Nat) : UnitsKept h (h.setLathFld n p f v) := by
  unfold Hw.setLathFld
  split
  · exact .setFld h _ _ _ _ _ _
  · exact .refl h

theorem UnitsKept.lathDown (h : Hw) (n p : Nat) : UnitsKept h (h.lathDown n p) := by
  have idle : UnitsKept h ((h.onLath n p (fun _ => {})).onLath (peerNode n p) (peerPort p) (fun _ => {})) := .same rfl rfl
  exact (idle.trans (.setLathFld _ _ _ _ _)).trans (.setLathFld _ _ _ _ _)

theorem UnitsKept.torusReset (h : Hw) (n : Nat) : UnitsKept h (h.torusReset n) := by
  unfold Hw.torusReset
  extract_lets h1
  have down : UnitsKept h h1 := by
    refine .foldl _ (fun h p => ?_) _ h
    extract_lets y
    have end_down : UnitsKept h y := .lathDown h n p
    split
    · exact end_down.trans (.setReg y _ _ _ _ _)
    · exact end_down
  exact down.trans (.same rfl rfl)

theorem UnitsKept.linkReset (h : Hw) (die : Nat) : UnitsKept h (h.linkReset die) := by
  unfold Hw.linkReset
  extract_lets hp h1
  have training : UnitsKept h h1 := .same rfl rfl
  have down : UnitsKept h (h1.linkDownEnd hp true 0 4) := (training.trans (.setLinkFld _ _ _ _ _)).trans (.setLinkFld _ _ _ _ _)
  exact ((down.trans (.setLinkFld _ _ _ _ _)).trans (.torusReset _ _)).trans (.setFld _ _ _ _ _ _ _)

theorem UnitsKept.sendOpens (h : Hw) (die n : Nat) : UnitsKept h (h.sendOpens die n) := by
  unfold Hw.sendOpens
  split
  · exact .refl h
  · exact (UnitsKept.foldl _ (fun h _ => .send h _) _ _).after (.same rfl rfl)

theorem UnitsKept.dropTransitions (h : Hw) (die : Nat) (doms : List Nat) : UnitsKept h (h.dropTransitions die doms) := by
  refine .foldl _ (fun h n => ?_) doms h
  extract_lets k sent y
  have opened : UnitsKept h y := (UnitsKept.sendOpens h die n).trans (.same rfl rfl)
  exact .ite _ (opened.trans (.setFld y _ _ _ _ _ _)) opened

/-! Jobs and pieces (R346, R371, R372). -/

theorem UnitsKept.stopRun (h : Hw) (n : Nat) (p : PieceStop) : UnitsKept h (h.stopRun n p) := by
  unfold Hw.stopRun
  split
  · exact (UnitsKept.setReg _ _ _ _ _ _).after (.same rfl rfl)
  · exact .refl h

theorem UnitsKept.pieceReport (h : Hw) (slot num : Nat) (p : PieceStop) (s1 : W64) (bytes : Nat) : UnitsKept h (h.pieceReport slot num p s1 bytes) := .same rfl rfl

theorem UnitsKept.stopPieces (h : Hw) (sel : Nat → Piece → Bool) (status : Nat) : UnitsKept h (h.stopPieces sel status) := by
  unfold Hw.stopPieces
  extract_lets h1 h2
  have stopped : UnitsKept h h1 := by
    refine .foldl _ (fun h n => ?_) _ h
    split
    · exact .ite _ (.stopRun h n _) (.refl h)
    · exact .refl h
  have dropped : UnitsKept h1 h2 := by
    refine .foldl _ (fun h n => ?_) _ h1
    extract_lets q
    have taken : UnitsKept h { h with engq := put h.engq n (q.filter (fun p => !sel n p)) } := .same rfl rfl
    exact taken.trans (.foldl _ (fun h _ => .pieceReport h _ _ _ _ _) _ _)
  clear_value h1 h2
  have unheld : UnitsKept h2 { h2 with held := h2.held.filter (fun e => !sel e.1 e.2) } := .same rfl rfl
  exact ((stopped.trans dropped).trans unheld).trans (.foldl _ (fun h _ => .pieceReport h _ _ _ _ _) _ _)

theorem UnitsKept.engCancel (h : Hw) (n status : Nat) : UnitsKept h (h.engCancel n status) := .stopPieces h _ _

theorem UnitsKept.partCancel (h : Hw) (p : Nat) : UnitsKept h (h.partCancel p) := by
  unfold Hw.partCancel
  extract_lets h1
  exact ((UnitsKept.stopPieces h1 _ _).after (.same rfl rfl) : UnitsKept h _)

/-! The commit machine (R497 to R499). -/

theorem UnitsKept.applyStatic (h : Hw) (img : List Byte) (p t : Nat) : UnitsKept h (h.applyStatic img p t) := by
  unfold Hw.applyStatic
  extract_lets c take owner mine
  exact .ite _ (.same rfl rfl) (.ite _ (.same rfl rfl) (.refl h))

theorem UnitsKept.staticAtReset (h : Hw) (p : Nat) : UnitsKept h (h.staticAtReset p) := by
  unfold Hw.staticAtReset
  extract_lets mine h1 waiting h2
  have applied : UnitsKept h h1 := .foldl _ (fun h e => .applyStatic h _ _ _) _ h
  clear_value h1
  have ended : UnitsKept h1 h2 := .same rfl rfl
  exact (applied.trans ended).trans (.setReg h2 _ _ _ _ _)

theorem UnitsKept.mregExt (h : Hw) (n type : Nat) (d : BitVec 384) : UnitsKept h (h.mregExt n type d) := by
  have logged (k : Hw) (b : Boot) : UnitsKept k { k with boot := b } := .same rfl rfl
  exact (UnitsKept.setMreg h n _).trans (logged _ _)

theorem UnitsKept.cfgEnter (h : Hw) (st : Nat) : UnitsKept h (h.cfgEnter st) := .same rfl rfl

theorem UnitsKept.cfgResult (h : Hw) (r : Nat) : UnitsKept h (h.cfgResult r) := .same rfl rfl

theorem UnitsKept.cfgCommit (h : Hw) : UnitsKept h h.cfgCommit := by
  unfold Hw.cfgCommit
  extract_lets img st parts pkg was
  split
  extract_lets h0 h1 applied h2 mask v v1
  have waiting : UnitsKept h h0 := .same rfl rfl
  have static : UnitsKept h h1 := waiting.trans (.foldl _ (fun h _ => .applyStatic h _ _ _) _ h0)
  have committed : UnitsKept h1 h2 := .same rfl rfl
  clear_value h2 h1
  have written := (UnitsKept.setReg h2 .CFG_STAT 0 0 0 v1).trans ((UnitsKept.cfgResult _ 0).trans (.setReg _ .CFG_CONFIRM 0 0 0 0))
  exact (static.trans committed).trans (written.trans ((UnitsKept.mregExt _ _ _ _).trans (.cfgEnter _ _)))

theorem UnitsKept.confirmLeave (h : Hw) (p : Nat) : UnitsKept h (h.confirmLeave p) := by
  unfold Hw.confirmLeave Hw.confirmCheck
  exact .ite _ (UnitsKept.trans (.setReg h _ _ _ _ _) (.ite _ (.cfgCommit _) (.refl _))) (.refl h)

end Sys2Proof.Machine
end

section
/-! PROOFS. The resets of cold, package, partition, die and core scope (R17, R18, R71, R679). -/

namespace Sys2Proof.Machine

/-! Folds and lists. -/

/-- What one element establishes, and no element undoes, holds after a fold over a list with it. -/
theorem foldl_reaches {α β : Type} (f : β → α → β) (P : β → Prop) (keep : ∀ b a, P b → P (f b a)) (a : α) (hit : ∀ b, P (f b a)) (l : List α) (at_ : a ∈ l) :
    ∀ b, P (l.foldl f b) := by
  have kept (l : List α) : ∀ b, P b → P (l.foldl f b) := by
    induction l with
    | nil => exact fun _ p => p
    | cons x l ih => exact fun b p => ih _ (keep b x p)
  induction l with
  | nil => cases at_
  | cons x l ih =>
    intro b
    cases at_ with
    | head => exact kept l _ (hit b)
    | tail _ rest => exact ih rest _

theorem look_filter_key {β : Type} (d : β) (sel : Nat → Bool) (a : Nat) (l : List (Nat × β)) :
    look d (l.filter (fun e => sel e.1)) a = if sel a then look d l a else d := by
  induction l with
  | nil => simp
  | cons e l ih =>
    obtain ⟨k, v⟩ := e
    by_cases own : a = k
    · subst own
      cases chosen : sel a with
      | true => simp [look, chosen]
      | false => simpa [List.filter_cons, chosen] using ih
    · cases chosen : sel k with
      | true => simpa [List.filter_cons, look, chosen, own] using ih
      | false => simpa [List.filter_cons, look, chosen, own] using ih

/-! Package resets. -/

theorem Hw.drawKeys_only (h : Hw) : ∃ x k, h.drawKeys = { h with free := x, keys := k } := by
  have step (l : List Nat) : ∀ h : Hw, ∃ x k, l.foldl (fun (x : Hw) p => x.drawKey p) h = { h with free := x, keys := k } := by
    induction l with
    | nil => exact fun h => ⟨h.free, h.keys, rfl⟩
    | cons p l ih =>
      intro h
      obtain ⟨x, k, e⟩ := ih (h.drawKey p)
      exact ⟨x, k, e⟩
  exact step _ h

/-- Keys and status flags are drawn: the rest of the package is as it was. -/
theorem Hw.drawn_only (h : Hw) : ∃ x k p, h.drawKeys.flagsIbi = { h with free := x, keys := k, plat := p } := by
  obtain ⟨x, k, e⟩ := h.drawKeys_only
  obtain ⟨x', p, e'⟩ := ({ h with free := x, keys := k } : Hw).flagsIbi_only
  exact ⟨x', k, p, by rw [e, e']⟩

/-- Two registers that their addresses find have different names only at different addresses. -/
theorem regAddr_ne_of_name {r q : RegRef} (fr : findReg (regAddr r.name r.die r.inst r.idx) = some r) (fq : findReg (regAddr q.name q.die q.inst q.idx) = some q)
    (ne : r.name ≠ q.name) : regAddr r.name r.die r.inst r.idx ≠ regAddr q.name q.die q.inst q.idx := by
  intro same
  rw [same] at fr
  exact ne (congrArg RegRef.name (Option.some.inj (fr.symm.trans fq)))

/-- Of an empty register window, the fuses give SEC_KEYSTAT and SEC_FLOOR, and every other register reads its Reset entry (R17). -/
theorem Hw.reg_fuseRegs (h : Hw) (e : h.regs = []) (r : RegRef) (found : findReg (regAddr r.name r.die r.inst r.idx) = some r)
    (keys : r.name ≠ .SEC_KEYSTAT) (floor : r.name ≠ .SEC_FLOOR) : h.fuseRegs.reg r.name r.die r.inst r.idx = regReset r.name r.die r.inst r.idx := by
  have apartKeys := regAddr_ne_of_name (q := ⟨.SEC_KEYSTAT, 0, 0, 0⟩) found (by decide) keys
  have apartFloor := regAddr_ne_of_name (q := ⟨.SEC_FLOOR, 0, 0, 0⟩) found (by decide) floor
  unfold Hw.fuseRegs Hw.setFld
  rw [Hw.reg_setReg_ne _ _ _ _ _ _ _ _ _ _ apartFloor, Hw.reg_setReg_ne _ _ _ _ _ _ _ _ _ _ apartKeys, h.reg_of_no_regs e]

/-- What a cold reset leaves (R17, R18). -/
structure ColdLeft (h k : Hw) : Prop where
  reg : ∀ r, findReg (regAddr r.name r.die r.inst r.idx) = some r → r.name ≠ .SEC_KEYSTAT → r.name ≠ .SEC_FLOOR →
    k.reg r.name r.die r.inst r.idx = regReset r.name r.die r.inst r.idx
  empty : k.mem = [] ∧ k.thr = [] ∧ k.cores = [] ∧ k.dir = [] ∧ k.committed = false ∧ k.now = 0 ∧ k.ao = 0
  kept : k.boot.flash = h.boot.flash ∧ k.boot.revoked = h.boot.revoked ∧ k.boot.floor = h.boot.floor ∧ k.meter = h.meter

theorem Hw.coldReset_left (h : Hw) : ColdLeft h h.coldReset := by
  unfold Hw.coldReset
  extract_lets h1
  obtain ⟨x, k, p, e⟩ := h1.fuseRegs.drawn_only
  have registers : h1.fuseRegs.drawKeys.flagsIbi.regs = h1.fuseRegs.regs := by rw [e]
  refine ⟨fun r found keys floor => ?reg, ?rest, ?kept⟩
  case reg =>
    rw [Hw.reg_congr _ _ registers]
    exact h1.reg_fuseRegs rfl r found keys floor
  case rest =>
    rw [e]
    exact ⟨rfl, rfl, rfl, rfl, rfl, rfl, rfl⟩
  case kept =>
    rw [e]
    exact ⟨rfl, rfl, rfl, rfl⟩

/-- What a package warm reset leaves (R18). -/
structure WarmLeft (h k : Hw) : Prop where
  empty : k.mem = [] ∧ k.thr = [] ∧ k.cores = [] ∧ k.dir = [] ∧ k.committed = false ∧ k.now = 0
  kept : k.ao = h.ao ∧ k.boot.flash = h.boot.flash ∧ k.commit.bank0 = h.commit.bank0 ∧ k.commit.bank1 = h.commit.bank1 ∧ k.meter = h.meter

theorem Hw.warmReset_left (h : Hw) : WarmLeft h.cfgWarm h.warmReset := by
  unfold Hw.warmReset
  extract_lets st h0 h1 h2
  obtain ⟨r, mapped⟩ := h1.mapRegs_only (fun _ => true) warmValue
  have registers : ∃ r, (if 3 ≤ st then h2.cfgResult 0xB else h2) = { h1 with regs := r } := by
    have fused : ∃ r, h2 = { h1 with regs := r } := ⟨_, by rw [show h2 = (h1.mapRegs (fun _ => true) warmValue).fuseRegs from rfl, mapped]; rfl⟩
    obtain ⟨q, e⟩ := fused
    rw [e]
    split
    · exact ⟨_, rfl⟩
    · exact ⟨q, rfl⟩
  obtain ⟨q, e⟩ := registers
  rw [e]
  obtain ⟨x, k, p, drawn⟩ := ({ h1 with regs := q } : Hw).drawn_only
  rw [drawn]
  exact ⟨⟨rfl, rfl, rfl, rfl, rfl, rfl⟩, ⟨rfl, rfl, rfl, rfl, rfl⟩⟩

/-- An idle commit machine gives up nothing at a warm reset (R500). -/
theorem Hw.cfgWarm_idle (h : Hw) (idle : h.cfgState = 0) : h.cfgWarm = h := by
  simp [Hw.cfgWarm, idle]

/-! Ports, threads and cores in reset. -/

/-- No access of a thread or of a device is under way at a port, and its link is down. -/
structure PortIdle (h : Hw) (n : Nat) : Prop where
  dpq : look [] h.dpq n = []
  pwr : look [] h.pwr n = []
  portUp : has h.portUp n = false

theorem Hw.dpq_portReset (h : Hw) (n m : Nat) : look [] (h.portReset n).dpq m = if m = n then [] else look [] h.dpq m := by
  rw [(h.portReset_queues n).dpq, look_del]

theorem Hw.portReset_hit (h : Hw) (n : Nat) : PortIdle (h.portReset n) n := by
  have q := h.portReset_queues n
  exact ⟨by rw [h.dpq_portReset, if_pos rfl], by rw [q.pwr, look_del, if_pos rfl], by rw [q.portUp, has_rem]; simp⟩

theorem PortIdle.portReset {h : Hw} {m : Nat} (i : PortIdle h m) (n : Nat) : PortIdle (h.portReset n) m := by
  have q := h.portReset_queues n
  refine ⟨?_, ?_, ?_⟩
  · rw [h.dpq_portReset, i.dpq, ite_self]
  · rw [q.pwr, look_del, i.pwr, ite_self]
  · rw [q.portUp, has_rem, i.portUp, Bool.and_false]

/-- The ports of an owner are reset, and no store of a thread waits at one of them (R235). -/
theorem Hw.portsOf_reset (h : Hw) (p n : Nat) (inRange : n < 64) (owned : look 0 h.portOwner n = p) :
    look [] ((List.range 64).foldl (fun (x : Hw) n => if look 0 x.portOwner n = p then x.portReset n else x) h).dpq n = [] := by
  have owners (x : Hw) (m : Nat) : (if look 0 x.portOwner m = p then x.portReset m else x).portOwner = x.portOwner := by
    split
    · exact (x.portReset_queues m).portOwner
    · rfl
  have done := foldl_reaches (fun (x : Hw) n => if look 0 x.portOwner n = p then x.portReset n else x)
    (fun x => look 0 x.portOwner n = p → look [] x.dpq n = []) (fun x m empty own => ?keep) n (fun x own => ?hit) (List.range 64) (List.mem_range.mpr inRange) h
  case keep =>
    rw [owners] at own
    split
    · rw [x.dpq_portReset, empty own, ite_self]
    · exact empty own
  case hit =>
    rw [owners] at own
    rw [if_pos own, x.dpq_portReset, if_pos rfl]
  refine done ?_
  have kept := List.foldlRecOn (motive := fun x : Hw => x.portOwner = h.portOwner) (List.range 64)
    (fun (x : Hw) n => if look 0 x.portOwner n = p then x.portReset n else x) rfl (fun x e m _ => (owners x m).trans e)
  rw [kept]
  exact owned

theorem Hw.thread_resetThreads (h : Hw) (die t : Nat) : (h.resetThreads die).thread t = if dieOfThread t = die then {} else h.thread t := by
  have filtered := look_filter_key ({} : Thread) (fun n => decide (dieOfThread n ≠ die)) t h.thr
  have e : (h.resetThreads die).thread t = look {} (h.thr.filter (fun e => decide (dieOfThread e.1 ≠ die))) t := rfl
  rw [e, filtered]
  by_cases own : dieOfThread t = die
  · simp [own]
  · simp [own, Hw.thread]

/-- The threads of every die of a list are in reset. -/
theorem Hw.thread_resetThreads_all (h : Hw) (dies : List Nat) (t : Nat) (among : dieOfThread t ∈ dies) :
    (dies.foldl (fun (x : Hw) d => x.resetThreads d) h).thread t = {} := by
  refine foldl_reaches _ (fun x => x.thread t = {}) (fun x d e => ?_) (dieOfThread t) (fun x => ?_) dies among h
  · rw [x.thread_resetThreads, e, ite_self]
  · rw [x.thread_resetThreads, if_pos rfl]

theorem Hw.resetThreads_only (dies : List Nat) : ∀ h : Hw, ∃ th co, dies.foldl (fun (x : Hw) d => x.resetThreads d) h = { h with thr := th, cores := co } := by
  induction dies with
  | nil => exact fun h => ⟨h.thr, h.cores, rfl⟩
  | cons d l ih =>
    intro h
    obtain ⟨th, co, e⟩ := ih (h.resetThreads d)
    exact ⟨th, co, e⟩

/-! The reset of a partition. -/

/-- The compute dies of a partition. -/
def Hw.diesOf (h : Hw) (p : Nat) : List Nat := (List.range 13).filter (fun d => d != 0 && look 0 h.dieOwner d == p)

theorem Hw.mem_diesOf (h : Hw) (p die : Nat) (lo : 1 ≤ die) (hi : die ≤ 12) (owned : look 0 h.dieOwner die = p) : die ∈ h.diesOf p := by
  simp only [Hw.diesOf, List.mem_filter, List.mem_range, Bool.and_eq_true, bne_iff_ne, ne_eq, beq_iff_eq]
  omega

/-- What a partition's reset leaves when it applies (R18, R235, R679). -/
structure PartLeft (h k : Hw) (p : Nat) : Prop where
  thread : ∀ t, 1 ≤ dieOfThread t → dieOfThread t ≤ 12 → look 0 h.dieOwner (dieOfThread t) = p → k.thread t = {}
  partUp : has k.partUp p = false
  partStopped : has k.partStopped p = false
  evPend : ∀ e ∈ k.evPend, e.inst ≠ p
  dpq : ∀ n, n < 64 → look 0 h.portOwner n = p → look [] k.dpq n = []

theorem PartLeft.kept {h k m : Hw} {p : Nat} (l : PartLeft h k p) (thread : ∀ n, k.thread n = {} → m.thread n = {}) (q : QueuesKept k m) : PartLeft h m p :=
  ⟨fun t lo hi owned => thread t (l.thread t lo hi owned), q.partUp ▸ l.partUp, q.partStopped ▸ l.partStopped, q.evPend ▸ l.evPend, q.dpq ▸ l.dpq⟩

theorem Hw.partResetNow_left (h : Hw) (p : Nat) : PartLeft h (h.partResetNow p) p := by
  unfold Hw.partResetNow
  extract_lets dies engs h0 h1 h2 h3 h4 h5 h6 h7 h8 h9
  have ports (n : Nat) (inRange : n < 64) (owned : look 0 h.portOwner n = p) : look [] h0.dpq n = [] := h.portsOf_reset p n inRange owned
  have stopped : QueuesKept h0 h1 := ((UnitsKept.staticAtReset h0 p).trans (.partCancel _ p)).toQueuesKept
  have cleaned : QueuesKept h0 h2 := stopped.trans (.foldl _ (fun h d => .cleanDie h d) dies h1)
  have threads (t : Nat) (among : dieOfThread t ∈ dies) : h3.thread t = {} := h2.thread_resetThreads_all dies t among
  have queued : h3.dpq = h2.dpq := by
    obtain ⟨_, _, e⟩ := Hw.resetThreads_only dies h2
    show (dies.foldl (fun (x : Hw) d => x.resetThreads d) h2).dpq = h2.dpq
    rw [e]
  have events : ∀ e ∈ h3.evPend, e.inst ≠ p := fun e among => of_decide_eq_true (List.mem_filter.mp among).2
  clear_value h0 h1 h2 h3
  have registers : ThreadsKept h3 h4 := (UnitsKept.resetRegs h3 _ _).toThreadsKept
  have domains : ThreadsKept h3 h5 := registers.trans
    ((UnitsKept.foldl _ (fun h d => .dropTransitions h d _) dies h4).trans (.foldl _ (fun h n => .dropTransitions h _ _) engs _)).toThreadsKept
  have roles : ThreadsKept h3 h6 := domains.trans
    (.foldl _ (fun h d => (UnitsKept.rolesFromMap (h.onCDie d (fun c => { c with migration := none })) d).toThreadsKept.after (.same rfl rfl)) dies h5)
  clear_value h4 h5 h6
  have measured : ThreadsKept h3 h7 := roles.trans ((UnitsKept.setFld h6 _ _ _ _ _ _).trans (.setMreg _ _ _)).toThreadsKept
  clear_value h7
  have left : PartLeft h h8 p := by
    refine ⟨fun t lo hi owned => ?_, ?_, ?_, ?_, fun n inRange owned => ?_⟩
    · exact (measured.thread t).trans (threads t (h.mem_diesOf p _ lo hi owned))
    · simp [h8]
    · simp [h8]
    · show ∀ e ∈ h7.evPend, e.inst ≠ p
      rw [measured.evPend]
      exact events
    · show look [] h7.dpq n = []
      rw [measured.dpq, queued, cleaned.dpq]
      exact ports n inRange owned
  have confirmed : UnitsKept h8 h9 := .confirmLeave h8 p
  have after : PartLeft h h9 p := left.kept (fun n e => (confirmed.thread n).trans e) confirmed.toQueuesKept
  clear_value h9
  split
  · have rekeyed := HomeKept.rekey h9 p
    exact after.kept rekeyed.thread rekeyed.toQueuesKept
  · exact after

/-- The pieces of a partition's engines each take a step of their end (R346). -/
def Hw.piecesEnded (h : Hw) (p : Nat) : Hw :=
  ((List.range 56).filter (fun n => look 0 h.engOwner n == p)).foldl (fun (x : Hw) n => x.pieceEnd n) (h.partCancel p)

theorem Hw.partReset_left (h : Hw) (p : Nat) (ended : (h.piecesEnded p).piecesOn p = false) : PartLeft (h.piecesEnded p) (h.partReset p) p := by
  have now : h.partReset p = (h.piecesEnded p).partResetNow p := if_neg (Bool.eq_false_iff.mp ended)
  rw [now]
  exact Hw.partResetNow_left _ p

/-- The partition is stopped with its threads in reset, and its reset waits (R372). -/
def Hw.resetHeld (h : Hw) (p : Nat) : Hw :=
  { (h.diesOf p).foldl (fun (x : Hw) d => x.resetThreads d) h with partStopped := ins h.partStopped p, resetWait := ins h.resetWait p }

theorem Hw.partReset_held (h : Hw) (p : Nat) (runs : (h.piecesEnded p).piecesOn p = true) : h.partReset p = (h.piecesEnded p).resetHeld p := if_pos runs

theorem Hw.mem_resetHeld (h : Hw) (p : Nat) : (h.resetHeld p).mem = h.mem := by
  obtain ⟨_, _, e⟩ := Hw.resetThreads_only (h.diesOf p) h
  rw [Hw.resetHeld, e]

theorem Hw.thread_resetHeld (h : Hw) (p t : Nat) (lo : 1 ≤ dieOfThread t) (hi : dieOfThread t ≤ 12) (owned : look 0 h.dieOwner (dieOfThread t) = p) :
    (h.resetHeld p).thread t = {} := h.thread_resetThreads_all _ t (h.mem_diesOf p _ lo hi owned)

/-! The resets of a die and of a core. -/

/-- The reset of a compute die leaves its threads in reset and its caches empty; of a die without a fence, the directory forgets what it owned (R279). -/
structure DieLeft (h k : Hw) (die : Nat) : Prop where
  thread : ∀ t, dieOfThread t = die → k.thread t = {}
  cdie : k.cdie die = {}
  dir : h.fenced (.core die 0) = false → ∀ e ∈ k.dir, ∀ x m, e.2 ≠ .owned (.core die x) m

theorem Hw.dir_forgetDie (h : Hw) (die : Nat) (e : Nat × Dir) (listed : e ∈ (h.forgetDie die).dir) (x m : Nat) : e.2 ≠ .owned (.core die x) m := by
  unfold Hw.forgetDie at listed
  extract_lets dirty h1 at listed
  obtain ⟨old, _, kept⟩ := List.mem_filterMap.mp listed
  intro owned
  split at kept
  case h_1 d _ _ was =>
    split at kept
    case isTrue => cases kept
    case isFalse apart =>
      cases kept
      rw [was] at owned
      cases owned
      exact apart rfl
  case h_2 vec f was =>
    split at kept
    case isTrue => cases kept
    case isFalse =>
      cases kept
      cases owned
  case h_3 other _ =>
    cases kept
    exact other _ _ _ owned

theorem Hw.fenced_core_congr {h k : Hw} (e : k.reg .HOME_FENCE0 0 0 0 = h.reg .HOME_FENCE0 0 0 0) (d p : Nat) : k.fenced (.core d p) = h.fenced (.core d p) := by
  simp only [Hw.fenced, e]

theorem Hw.dieReset_left (h : Hw) (die : Nat) (lo : 1 ≤ die) (hi : die ≤ 12) : DieLeft h (h.dieReset die) die := by
  unfold Hw.dieReset
  rw [if_neg (by omega : ¬ die = 0)]
  extract_lets h0 unfenced h1 h2 h3
  have online : h0.fenced (.core die 0) = h.fenced (.core die 0) := Hw.fenced_core_congr (ResetKept.onlineSet h _ _).fence die 0
  have source : unfenced = if h0.fenced (.core die 0) then h0 else h0.forgetDie die := rfl
  have emptied : h1 = ({ unfenced with cdies := del h0.cdies die } : Hw).resetThreads die := if_pos hi
  clear_value h0 unfenced h1
  have left : DieLeft h h1 die := by
    rw [emptied]
    refine ⟨fun t own => ?_, ?_, fun allowed e listed => ?_⟩
    · rw [Hw.thread_resetThreads, if_pos own]
    · show look {} (del h0.cdies die) die = {}
      rw [look_del, if_pos rfl]
    · have among : e ∈ unfenced.dir := listed
      rw [source, online, allowed, if_neg Bool.false_ne_true] at among
      exact h0.dir_forgetDie die e among
  have registers : UnitsKept h1 h2 := ((UnitsKept.resetRegs h1 _ _).trans (.dropTransitions _ _ _)).trans (.linkReset _ _)
  have links : UnitsKept h1 h3 := registers.trans (.setLinkFld h2 _ _ _ _)
  have roles := links.trans (UnitsKept.rolesFromMap h3 die)
  rw [if_pos hi]
  clear_value h2 h3
  refine ⟨fun t own => (roles.thread t).trans (left.thread t own), (roles.cdie die).trans left.cdie, fun unfenced => ?_⟩
  rw [roles.dir]
  exact left.dir unfenced

theorem PortIdle.kept {h k : Hw} {n : Nat} (i : PortIdle h n) (q : QueuesKept h k) : PortIdle k n :=
  ⟨q.dpq ▸ i.dpq, q.pwr ▸ i.pwr, q.portUp ▸ i.portUp⟩

theorem UnitsKept.engsCancel (h : Hw) (k : Nat) : UnitsKept h ((List.range 8).foldl (fun (x : Hw) i => x.engCancel (24 + 8 * k + i) 8) h) :=
  .foldl _ (fun h _ => .engCancel h _ _) _ h

theorem UnitsKept.dropContexts (h : Hw) (die : Nat) : UnitsKept h { h with xctx := h.xctx.filter (fun e => e.die != die), xtl := del h.xtl die } := .same rfl rfl

/-- The ports of a die, of which n is one, are reset. -/
theorem Hw.portsOfDie_idle (h : Hw) (k n : Nat) (own : n / 16 = k) : PortIdle ((List.range 16).foldl (fun (x : Hw) i => x.portReset (16 * k + i)) h) n := by
  have place : 16 * k + n % 16 = n := by omega
  refine foldl_reaches _ (fun x => PortIdle x n) (fun x i idle => idle.portReset _) (n % 16) (fun x => ?_) _ (List.mem_range.mpr (Nat.mod_lt _ (by decide))) h
  rw [place]
  exact x.portReset_hit n

theorem Hw.resetPortDie_idle (h : Hw) (die n : Nat) (own : die = 0x10 + n / 16) : PortIdle (h.resetPortDie die) n := by
  have place : n / 16 = die - 0x10 := by omega
  exact ((h.portsOfDie_idle _ n place).kept (UnitsKept.engsCancel _ _).toQueuesKept).kept (UnitsKept.dropContexts _ die).toQueuesKept

theorem Hw.portDieReset_idle (h : Hw) (die n : Nat) (own : die = 0x10 + n / 16) : PortIdle (h.dieReset die) n := by
  have logic : ¬ die = 0 := by omega
  have beyond : ¬ die ≤ 12 := by omega
  unfold Hw.dieReset
  rw [if_neg logic]
  extract_lets h0 unfenced h1 h2 h3
  have ports : h1 = h.resetPortDie die := if_neg beyond
  have idle : PortIdle h1 n := ports ▸ h.resetPortDie_idle die n own
  clear_value h1
  have registers : UnitsKept h1 h2 := ((UnitsKept.resetRegs h1 _ _).trans (.dropTransitions _ _ _)).trans (.linkReset _ _)
  have links : UnitsKept h1 h3 := registers.trans (.setLinkFld h2 _ _ _ _)
  rw [if_neg beyond]
  exact idle.kept links.toQueuesKept

/-- A thread's reset leaves it in reset, and the threads in reset and the cores as they were. -/
theorem Hw.threadReset_kept (h : Hw) (t : Nat) : (∀ n, h.thread n = {} ∨ n = t → (h.threadReset t).thread n = {}) ∧ (h.threadReset t).cores = h.cores := by
  have online := ResetKept.onlineSet (h.setThread t {}) (t / 64) (setWbits (h.reg .EVR_ONLINE 0 0 (t / 64)) (t % 64) (t % 64) 0)
  refine ⟨fun n reset => online.thread n ?_, online.cores⟩
  rw [Hw.thread_setThread]
  split
  · rfl
  · exact reset.resolve_right ‹_›

theorem Hw.coreReset_left (h : Hw) (die p : Nat) : (∀ t ∈ h.threadsOn die p, (h.coreReset die p).thread t = {}) ∧ (h.coreReset die p).core (coreKey die p) = {} := by
  unfold Hw.coreReset
  extract_lets ts h1 h2
  have cleaned : h1.core (coreKey die p) = {} := by
    show ((Hw.onCore _ (coreKey die p) (fun _ => {})).core (coreKey die p)) = {}
    rw [Hw.core_onCore, if_pos rfl]
  have threads (t : Nat) (among : t ∈ ts) : h2.thread t = {} :=
    foldl_reaches _ (fun x => x.thread t = {}) (fun x n e => (x.threadReset_kept n).1 t (.inl e)) t (fun x => (x.threadReset_kept t).1 t (.inr rfl)) ts among h1
  have cores : h2.cores = h1.cores :=
    List.foldlRecOn (motive := fun x : Hw => x.cores = h1.cores) ts _ rfl (fun x e n _ => (x.threadReset_kept n).2.trans e)
  clear_value h1 h2
  have registers := UnitsKept.resetRegs h2 .core (fun r => decide (r.die = die) && decide (r.name.desc.block = .CORE) && decide (r.inst = p))
  refine ⟨fun t among => (registers.thread t).trans (threads t among), (registers.core _).trans ?_⟩
  rw [Hw.core, cores]
  exact cleaned

/-- A command that only changes the package does what the change leaves. -/
theorem does_of_hw {s : State} {i : Instr} {k : Hw} {P : Hw → Prop} (e : exec i s = .next { s with hw := k }) (left : P k) : Does s i P := ⟨_, e, rfl, left⟩

theorem exec_packageWarmReset (s : State) (running : s.hw.tripped = false) : exec .packageWarmReset s = .next { s with hw := s.hw.warmReset } := by
  have carried : exec .packageWarmReset s = .next { s with hw := if s.hw.tripped then s.hw else s.hw.warmReset } := rfl
  rw [carried, running, if_neg Bool.false_ne_true]

end Sys2Proof.Machine

open Sys2Proof Sys2Proof.Machine

/-- Settles O33: each reset is a chain of steps, of which the first ones put its units in reset and the rest leave them so. -/
theorem resetResults : Obligations.ResetResults := by
  intro s p d c q
  refine ⟨does_of_hw rfl ?cold, fun tripped => ?tripped, fun running idle => does_of_hw (exec_packageWarmReset s running) ?warm,
    ⟨fun ended => does_of_hw rfl ?partNow, fun runs => does_of_hw (k := s.hw.partReset (p.val + 1)) rfl ?partLater⟩, fun hub => ?hub,
    fun lo hi => does_of_hw (k := s.hw.dieReset (dieId d)) rfl ?compute, fun hi => does_of_hw rfl ?port, does_of_hw rfl ?core, rfl, rfl, rfl⟩
  case cold =>
    obtain ⟨reg, ⟨mem, thr, cores, dir, committed, now, ao⟩, kept⟩ := s.hw.coldReset_left
    exact ⟨reg, mem, thr, cores, dir, committed, now, ao, kept⟩
  case tripped => exact congrArg (fun k => Host.Outcome.next { s with hw := k }) (if_pos tripped)
  case warm =>
    have left := s.hw.warmReset_left
    rw [s.hw.cfgWarm_idle idle] at left
    obtain ⟨⟨mem, thr, cores, dir, committed, now⟩, kept⟩ := left
    exact ⟨mem, thr, cores, dir, committed, now, kept⟩
  case partNow =>
    obtain ⟨thread, partUp, partStopped, evPend, dpq⟩ := s.hw.partReset_left _ ended
    exact ⟨thread, partUp, partStopped, evPend, dpq⟩
  case partLater =>
    rw [s.hw.partReset_held _ runs]
    exact ⟨by simp [Hw.resetHeld], by simp [Hw.resetHeld], Hw.mem_resetHeld _ _, fun t => Hw.thread_resetHeld _ _ t⟩
  case hub =>
    have die : dieId d = 0 := by simp [dieId, hub]
    have carried : exec (.dieReset d) s = .next { s with hw := s.hw.dieReset (dieId d) } := rfl
    rw [carried, die]
    rfl
  case compute =>
    have die : dieId d = d.val := if_pos hi
    obtain ⟨thread, cdie, dir⟩ := s.hw.dieReset_left d.val lo hi
    rw [die]
    exact ⟨thread, cdie, dir⟩
  case port =>
    intro n own
    have die : dieId d = 0x10 + n / 16 := by
      rw [dieId, if_neg (by omega), own]
    obtain ⟨dpq, pwr, portUp⟩ := s.hw.portDieReset_idle (dieId d) n die
    exact ⟨dpq, pwr, portUp⟩
  case core => exact s.hw.coreReset_left _ _

end

section
/-! PROOFS. The completion of a device access leaves `atVector` as it found it: the fetch of the instruction cleared it, and nothing at the retirement does. -/

namespace Sys2Proof.Machine

theorem Hw.thread_portPump (h : Hw) (n t : Nat) : (h.portPump n).thread t = h.thread t := by
  obtain ⟨_, _, _, e⟩ := Hw.grantToks_only h.treqs.length (Agent.port n).stop h
  rw [Hw.portPump, e]
  rfl

/-- What an instruction of thread t leaves, once its counters, its walks and its port's slots are done, stands at a vector only where its own result does. -/
theorem Counted.atVector_done {t : Nat} {k m : Hw} {x : Thread} (c : Counted t (k.setThread t x) m) (n : Nat) :
    (((m.walksDone t).portPump n).thread t).atVector = x.atVector := by
  obtain ⟨_, _, _, own⟩ := c.own
  have walks : ((m.walksDone t).thread t).atVector = (m.thread t).atVector := by rw [(cacheOnly_walksDone m t).kept t]
  rw [Hw.thread_portPump, walks, own, Hw.setThread_thread]

/-- A D-S store of 8 B to port 0, sent and not yet completed (R228). -/
def storeWait : DevWait := { acc := [⟨mmioBase, 0, 0, false, []⟩], size := 8, write := true, len := 4 }

/-- Thread 0 awaits the completion of its store, and is still marked as standing at a vector. -/
def waitsAtVector : State := { hw := { thr := [(0, { dev := some storeWait, atVector := true })] } }

/-- The package when the answer to the store has come: without a message that waits, nothing in it has changed. -/
theorem waitsAtVector_answered : ReplyComes waitsAtVector.hw .REGCPL 0 storeWait waitsAtVector.hw := ⟨waitsAtVector.hw, by decide, by decide⟩

/-- Thread 0 stands at a vector after the outcome. -/
def standsAtVector : Host.Outcome State Fault Refusal → Bool
  | .next u => (u.hw.thread 0).atVector
  | _ => false

theorem storeCompletes_atVector : standsAtVector (exec (.registerCompletion 0 0 .ok .good) waitsAtVector) = true := by decide

end Sys2Proof.Machine

open Sys2Proof Sys2Proof.Machine

/-- Refutes O43: a thread that is marked as standing at a vector while it awaits the completion of a D-S store retires the store with the mark still set; the statement gives it the thread that `Thread.after` leaves, whose mark is clear. -/
theorem not_deviceAccessResults : ¬ Obligations.DeviceAccessResults := by
  unfold Obligations.DeviceAccessResults
  intro all
  obtain ⟨_, _, completes, _⟩ := all waitsAtVector ⟨0, false, 0, 0, .thread⟩ 0 0 0 0 0 0 .ok .good storeWait storeWait.cur storeWait.cur
    ⟨0, 0, [], false⟩ [] ⟨0, 0, 0, 0⟩ ⟨.DCTL_IDENT, 0, 0, 0⟩ false 0 waitsAtVector.hw waitsAtVector.hw
  have waits : (waitsAtVector.hw.thread 0).devOpen = some storeWait ∧ waitsAtVector.hw.devFlying 0 storeWait = false := by decide
  have atPort : paRange storeWait.addr = .mmio ∧ storeWait.posted = false ∧ (waitsAtVector.hw.thread 0).dev = some storeWait := by decide
  obtain ⟨mmio, notPosted, dev⟩ := atPort
  obtain ⟨store, _, _⟩ := completes waits ⟨mmio, notPosted, waitsAtVector_answered, dev⟩ rfl rfl
  obtain ⟨u, done, _, m, counted, left⟩ := store rfl rfl rfl
  have set : (u.hw.thread 0).atVector = true := by
    have after := storeCompletes_atVector
    rwa [show exec (.registerCompletion 0 0 .ok .good) waitsAtVector = .next u from done] at after
  have clear : (u.hw.thread 0).atVector = false := by rw [left]; exact counted.atVector_done _
  exact Bool.noConfusion (set.symm.trans clear)

end

section
/-! PROOFS. Snoop timeouts: the owner of a range beyond the memory tiers stands where a home keeps its error record. HOME_RNGOWN has 9,216 registers, one for 16 GiB of the tiers each; the home of a line of GiB 0x18020F reads number 0x18020, whose address is that of HOME_ERR0_ADDR of slice 1. -/

namespace Sys2Proof.Machine

/-- A line of GiB 0x18020F, between the far tier and the MMIO windows (R177), whose home is slice 1. -/
def strayLine : Line := BitVec.ofNat 46 (0x18020F * 2 ^ 24 + 0x1D00)

/-- A core of die 2 asks for ownership of the line. -/
def strayAsk : HReq := { op := .RDO, line := strayLine.toNat, agent := .core 2 0, part := 0, world := false }

/-- Its home has recalled the line from die 1, and the time of that snoop is over. -/
def strayRecall : Txn := { key := dirKey strayLine.toNat, line := strayLine.toNat, req := some strayAsk, snoop := .RCI, wait := [.core 1 0] }

/-- Interleave set 0 maps that GiB alone, and slice 1 serves the far tier; the recall is open. -/
def strayTimeout : State :=
  { hw := { regs := [(regAddr .HOME_DIRCTL 0 1 0, F.HOME_DIRCTL_FAR_EN.set 0 1),
                     (regAddr .HOME_ISET_A 0 0 0, F.HOME_ISET_A_BASE.set (F.HOME_ISET_A_VALID.set 0 1) 0x18020F),
                     (regAddr .HOME_ISET_B 0 0 0, F.HOME_ISET_B_SIZE.set (F.HOME_ISET_B_DONE.set 0 1) 1)],
            txns := [strayRecall] } }

/-- Before the timeout the home could serve the request: the GiB has no owner, which is the request's partition. -/
theorem strayAsk_startsNow : StartsNow { strayTimeout.hw.freeTok 2 (.core 1 0) strayLine.toNat with txns := [] } strayAsk where
  fenced := by decide
  busy := by decide
  dwb := by decide
  pinned := by decide
  pass := by decide
  mapped := by decide
  far := fun _ => by decide

/-- The directory state of a key after the outcome. -/
def dirAfter (key : Nat) : Host.Outcome State Fault Refusal → Dir
  | .next u => look .unc u.hw.dir key
  | _ => .unc

/-- The record of the timeout gives the GiB another owner, so the request is refused and the line stays Uncached. -/
theorem strayTimeout_refuses : dirAfter (dirKey strayLine.toNat) (exec (.snoopTimeout (.core 0 0) strayLine) strayTimeout) = .unc := by decide

end Sys2Proof.Machine

open Sys2Proof Sys2Proof.Machine

/-- Refutes O31: a snoop of a line beyond the memory tiers times out, and its error record overwrites what the home reads as the owner of the line's range; the waiting RDO is refused and not granted. -/
theorem not_repliesAndTimeouts : ¬ Obligations.RepliesAndTimeouts := by
  unfold Obligations.RepliesAndTimeouts
  rintro ⟨_, timeouts⟩
  obtain ⟨_, due, _⟩ := timeouts strayTimeout (.core 0 0) strayLine strayRecall strayAsk 0
  obtain ⟨_, served⟩ := due (by decide) (by decide) rfl
  obtain ⟨u, done, _, _, owned⟩ := served rfl rfl rfl strayAsk_startsNow
  have uncached := strayTimeout_refuses
  rw [show exec _ strayTimeout = .next u from done] at uncached
  exact Dir.noConfusion (owned.symm.trans uncached)

end

section
/-! PROOFS. The power states of domains: while the POWER section of a structure image is being applied, its fields refuse a write. -/

namespace Sys2Proof.Machine

/-- The POWER section (0x0D) of a structure image is being applied (R493, R500); everything else is as after reset. -/
def powerApplying : State := { hw := { applying := [0x0D] } }

/-- Package services: of no partition, so every write may go on, and outside the secure world. -/
def packageWho : Who := ⟨0, false, 3, 0, .packageServices⟩

/-- A value of PWR_DOM with REQ 1 and AUTO 0. -/
def askSatin : W64 := 1 <<< 58

/-- REQ of the hub's domain 0 after the outcome. -/
def reqOfDomain0 : Host.Outcome State Fault Refusal → Nat
  | .next u => u.hw.fld .PWR_DOM 0 0 0 F.PWR_DOM_REQ
  | _ => 0

/-- The write finds REQ, an img field, held by the apply, and REQ keeps its 0. -/
theorem powerApplying_keeps_req : reqOfDomain0 (exec (.domainStateRequest packageWho 0 0 .full askSatin) powerApplying) = 0 := by decide

end Sys2Proof.Machine

open Sys2Proof Sys2Proof.Machine

/-- Refutes O46: while the POWER section is being applied, a permitted request of Satin by an idle domain keeps REQ (R500); the statement has it take the value written. -/
theorem not_domainPowerStates : ¬ Obligations.DomainPowerStates := by
  unfold Obligations.DomainPowerStates
  intro all
  obtain ⟨requests, _⟩ := all powerApplying packageWho 0 0 0 0 0 0 0 0 askSatin 0 { target := 0 }
  obtain ⟨_, _, entry, _⟩ := requests (by decide) (by decide) rfl (by decide) (fun _ => by decide)
  obtain ⟨u, done, _, req, _⟩ := entry (by decide) (by decide) (by decide) rfl (by decide)
  have kept := powerApplying_keeps_req
  rw [show exec _ powerApplying = .next u from done] at kept
  exact absurd (req.symm.trans kept) (by decide)

end

section
/-! SUPPORT. What the work of a compute die leaves of one of its cores: its fill buffers but for marks of invalid lines, the lines of its caches that nothing drops, which caches are off, and which core carries which thread. -/

namespace Sys2Proof.Machine

/-! The places of registers in the window of a compute die (R7). -/

/-- The place of a register in the window of a compute die. -/
def computePlace (n : RegName) (inst i : Nat) : Nat :=
  (n.desc.block.place .compute).elim 0 (·.1) + (if n.desc.shared then 0 else inst) * 0x100000 + n.desc.off + i / n.desc.c2 * n.desc.s1 + i % n.desc.c2 * n.desc.s2

theorem regAddr_compute (n : RegName) (die inst i : Nat) (lo : 1 ≤ die) (hi : die ≤ 12) : regAddr n die inst i = winBase die + computePlace n inst i := by
  have kind : dieKind die = some .compute := by rw [dieKind, if_neg (by omega), if_pos hi]
  simp only [regAddr, regPlace, kind, computePlace, Nat.add_assoc]

theorem computePlace_lcmap (i : Nat) : computePlace .DCTL_LCMAP 0 i = 0x100 + 8 * i := by
  simp [computePlace, RegName.desc, Block.place, Nat.mod_one, Nat.mul_comm]

theorem computePlace_cacheCtl (p : Nat) : computePlace .CORE_CACHE_CTL p 0 = 0x3000008 + 0x100000 * p := by
  simp [computePlace, RegName.desc, Block.place]
  omega

theorem computePlace_perfSel (n : Nat) : computePlace .PERF_SEL 0 n = 0xA000000 + 8 * n := by
  simp [computePlace, RegName.desc, Block.place, Nat.mod_one, Nat.mul_comm]

theorem computePlace_perfCnt (n : Nat) : computePlace .PERF_CNT 0 n = 0xA000100 + 8 * n := by
  simp [computePlace, RegName.desc, Block.place, Nat.mod_one, Nat.mul_comm]

theorem computePlace_pwrDom (n : Nat) : computePlace .PWR_DOM 0 n = 0x6000000 + 8 * n := by
  simp [computePlace, RegName.desc, Block.place, Nat.mod_one, Nat.mul_comm]

theorem computePlace_wakeLast : computePlace .PWR_WAKE_LAST 0 0 = 0x6000200 := rfl

theorem computePlace_wakeHist (i : Nat) : computePlace .PWR_WAKE_HIST 0 i = 0x6000208 + 8 * i := by
  simp [computePlace, RegName.desc, Block.place, Nat.mod_one, Nat.mul_comm]

/-- A listed value does not depend on what an unlisted key reads as. -/
theorem look_eq (β : Type) (d : β) (l : List (Nat × β)) (a : Nat) : look d l a = (look? l a).getD d := by
  induction l with
  | nil => rfl
  | cons e r ih => 
    obtain ⟨k, v⟩ := e
    by_cases here : a = k <;> simp [look, look?, here, ih]

theorem wbit_pwrDomReset (die q b : Nat) (low : b < 32) : wbit (regReset .PWR_DOM die 0 q) b = false := by
  simp only [regReset, RegName.desc, List.foldl_cons, List.foldl_nil]
  rw [wbit_setWbits_ne, wbit_setWbits_ne, wbit_setWbits_ne, wbit_setWbits_ne, wbit_setWbits_ne, wbit_setWbits_ne]
  · simp [wbit]
  all_goals simp only [F.PWR_DOM_CUR, F.PWR_DOM_REQ, F.PWR_DOM_AUTO, F.PWR_DOM_SHELD, F.PWR_DOM_REQ_STATUS, F.PWR_DOM_IDLE_US]; omega

theorem regReset_cacheCtl (die p : Nat) : regReset .CORE_CACHE_CTL die p 0 = regReset .CORE_CACHE_CTL 0 0 0 := rfl

theorem regReset_cacheCtl_zero : regReset .CORE_CACHE_CTL 0 0 0 = 0 := by decide

/-! Keys in the order of their last use: the one at the front is listed once, and stays while others leave. -/

/-- A key stands at the front of its list, and nowhere else in it. -/
def Front {β : Type} (k : Nat) (l : List (Nat × β)) : Prop := ∃ x r, l = (k, x) :: r ∧ ∀ y ∈ r, y.1 ≠ k

theorem front_mruPut {β : Type} (l : List (Nat × β)) (k : Nat) (x : β) : Front k (mruPut l k x) :=
  ⟨x, _, rfl, fun _ listed => by simpa using (List.mem_filter.mp listed).2⟩

theorem front_mruDel {β : Type} {l : List (Nat × β)} {k v : Nat} (front : Front k l) (ne : k ≠ v) : Front k (mruDel l v) := by
  obtain ⟨x, r, rfl, others⟩ := front
  exact ⟨x, mruDel r v, by simp [mruDel, ne], fun y listed => others y (List.mem_filter.mp listed).1⟩

/-- The key at the front is not the one that leaves its set. -/
theorem mruVictim_ne_front {β : Type} {l : List (Nat × β)} {k v : Nat} {q : Nat → β → Bool} {ways : Nat} (front : Front k l) (some_way : 0 < ways)
    (left : mruVictim l q ways = some v) : v ≠ k := by
  obtain ⟨x, r, rfl, others⟩ := front
  unfold mruVictim at left
  extract_lets s at left
  split at left
  case isFalse => cases left
  case isTrue full =>
    obtain ⟨e, last, rfl⟩ := Option.map_eq_some_iff.mp left
    have apart : ∀ y ∈ r.filter (fun e => q e.1 e.2), y.1 ≠ k := fun y listed => others y (List.mem_filter.mp listed).1
    have set_eq : s = if q k x then (k, x) :: r.filter (fun e => q e.1 e.2) else r.filter (fun e => q e.1 e.2) := List.filter_cons
    generalize r.filter (fun e => q e.1 e.2) = rest at apart set_eq
    rw [set_eq] at last full
    split at last
    case isFalse => exact apart e (List.mem_of_getLast? last)
    case isTrue inSet =>
      rw [if_pos inSet] at full
      cases rest with
      | nil => simp at full; omega
      | cons y ys => rw [List.getLast?_cons_cons] at last; exact apart e (List.mem_of_getLast? last)

theorem look_mruDel_ne {β : Type} (d : β) (l : List (Nat × β)) (v line : Nat) (ne : line ≠ v) : look d (mruDel l v) line = look d l line := by
  induction l with
  | nil => rfl
  | cons e r ih =>
    obtain ⟨k, x⟩ := e
    unfold mruDel at ih ⊢
    by_cases gone : k = v
    · simp [gone, look, ne, ih]
    · simp [gone, look, ih]

theorem look?_mruDel_ne {β : Type} (l : List (Nat × β)) (v line : Nat) (ne : line ≠ v) : look? (mruDel l v) line = look? l line := by
  induction l with
  | nil => rfl
  | cons e r ih =>
    obtain ⟨k, x⟩ := e
    unfold mruDel at ih ⊢
    by_cases gone : k = v
    · simp [gone, look?, ne, ih]
    · simp [gone, look?, ih]

theorem look_mruPut_self {β : Type} (d : β) (l : List (Nat × β)) (k : Nat) (x : β) : look d (mruPut l k x) k = x := by simp [mruPut, look]

theorem look?_mruPut_self {β : Type} (l : List (Nat × β)) (k : Nat) (x : β) : look? (mruPut l k x) k = some x := by simp [mruPut, look?]

/-! A core through the work of its die. -/

/-- A core before and after: no fill entry is new, and an old one differs at most in the mark of an invalid line, which only a settled one takes (R58); the lines that are not among those gone stay in its caches. -/
structure Core.Holds (gone : Nat → Prop) (c d : Core) : Prop where
  fills : ∀ f ∈ d.fills, ∃ g ∈ c.fills, f = g ∨ (g.settled = true ∧ f = { g with bad := true })
  l2 : ∀ line, ¬ gone line → look .I c.l2 line ≠ .I → look .I d.l2 line ≠ .I
  front : ∀ line, ¬ gone line → Front line c.l2 → Front line d.l2
  l1d : ∀ line, ¬ gone line → (look? c.l1d line).isSome = true → (look? d.l1d line).isSome = true
  l1i : ∀ line, ¬ gone line → (look? c.l1i line).isSome = true → (look? d.l1i line).isSome = true
  cleaning : d.cleaning = c.cleaning

/-- Core p of a die before and after, and the registers that say which core carries which thread and which caches of the core are off. -/
structure CoreKept (die p : Nat) (gone : Nat → Prop) (h k : Hw) : Prop where
  core : Core.Holds gone (h.core (coreKey die p)) (k.core (coreKey die p))
  lcmap : ∀ i < 4, k.reg .DCTL_LCMAP die 0 i = h.reg .DCTL_LCMAP die 0 i
  off : ∀ b < 32, wbit (k.reg .CORE_CACHE_CTL die p 0) b = wbit (h.reg .CORE_CACHE_CTL die p 0) b

theorem Core.Holds.refl (gone : Nat → Prop) (c : Core) : Core.Holds gone c c :=
  ⟨fun f listed => ⟨f, listed, .inl rfl⟩, fun _ _ => id, fun _ _ => id, fun _ _ => id, fun _ _ => id, rfl⟩

theorem Core.Holds.trans {gone : Nat → Prop} {c d e : Core} (a : Core.Holds gone c d) (b : Core.Holds gone d e) : Core.Holds gone c e where
  fills f listed := by
    obtain ⟨g, inD, fg⟩ := b.fills f listed
    obtain ⟨g0, inC, gg⟩ := a.fills g inD
    refine ⟨g0, inC, ?_⟩
    rcases fg with rfl | ⟨settled, rfl⟩ <;> rcases gg with rfl | ⟨settled0, rfl⟩ <;> simp_all
  l2 line stays := b.l2 line stays ∘ a.l2 line stays
  front line stays := b.front line stays ∘ a.front line stays
  l1d line stays := b.l1d line stays ∘ a.l1d line stays
  l1i line stays := b.l1i line stays ∘ a.l1i line stays
  cleaning := b.cleaning.trans a.cleaning

/-- Fewer lines are gone than may be. -/
theorem Core.Holds.mono {gone more : Nat → Prop} {c d : Core} (a : Core.Holds gone c d) (le : ∀ line, gone line → more line) : Core.Holds more c d :=
  ⟨a.fills, fun line stays => a.l2 line (stays ∘ le line), fun line stays => a.front line (stays ∘ le line), fun line stays => a.l1d line (stays ∘ le line), fun line stays => a.l1i line (stays ∘ le line), a.cleaning⟩

/-- A core whose fill buffers, caches and cleaning are the same. -/
theorem Core.Holds.same {gone : Nat → Prop} {c d : Core} (fills : d.fills = c.fills) (l2 : d.l2 = c.l2) (l1d : d.l1d = c.l1d) (l1i : d.l1i = c.l1i)
    (cleaning : d.cleaning = c.cleaning) : Core.Holds gone c d := by
  refine ⟨fun f listed => ⟨f, fills ▸ listed, .inl rfl⟩, ?_, ?_, ?_, ?_, cleaning⟩
  · rw [l2]; exact fun _ _ => id
  · rw [l2]; exact fun _ _ => id
  · rw [l1d]; exact fun _ _ => id
  · rw [l1i]; exact fun _ _ => id

section
variable {key die p : Nat} {gone : Nat → Prop} {h k m a b : Hw}

theorem CoreKept.trans (x : CoreKept die p gone h k) (y : CoreKept die p gone k m) : CoreKept die p gone h m :=
  ⟨x.core.trans y.core, fun i lt => (y.lcmap i lt).trans (x.lcmap i lt), fun b lt => (y.off b lt).trans (x.off b lt)⟩

theorem CoreKept.mono {more : Nat → Prop} (x : CoreKept die p gone h k) (le : ∀ line, gone line → more line) : CoreKept die p more h k :=
  ⟨x.core.mono le, x.lcmap, x.off⟩

theorem CoreKept.same (cores : k.cores = h.cores) (regs : k.regs = h.regs) : CoreKept die p gone h k := by
  refine ⟨?_, fun i _ => k.reg_congr h regs _ _ _ _, fun b _ => by rw [k.reg_congr h regs]⟩
  rw [Hw.core, Hw.core, cores]
  exact .refl gone _

theorem CoreKept.refl (h : Hw) : CoreKept die p gone h h := .same rfl rfl

theorem CoreKept.ite (c : Prop) [Decidable c] (x : CoreKept die p gone h a) (y : CoreKept die p gone h b) : CoreKept die p gone h (if c then a else b) := by
  split <;> assumption

theorem CoreKept.foldl {α : Type} (g : Hw → α → Hw) (hg : ∀ h a, CoreKept die p gone h (g h a)) (l : List α) : ∀ h : Hw, CoreKept die p gone h (l.foldl g h) := by
  induction l with
  | nil => exact .refl
  | cons a r ih => exact fun h => (hg h a).trans (ih _)

theorem CoreKept.send (h : Hw) (m : Msg) : CoreKept die p gone h (h.send m) := by
  obtain ⟨_, _, _, _, e⟩ := h.send_only m
  rw [e]
  exact .same rfl rfl

theorem CoreKept.onCDie (h : Hw) (d : Nat) (f : CDieSt → CDieSt) : CoreKept die p gone h (h.onCDie d f) := .same rfl rfl

theorem CoreKept.onThread (h : Hw) (t : Nat) (f : Thread → Thread) : CoreKept die p gone h (h.onThread t f) := .same rfl rfl

theorem CoreKept.raise (h : Hw) (r : Raise) : CoreKept die p gone h (h.raise r) := .same rfl rfl

theorem CoreKept.onCore (h : Hw) (n : Nat) (f : Core → Core) (holds : ∀ c, Core.Holds gone c (f c)) : CoreKept die p gone h (h.onCore n f) := by
  refine ⟨?_, fun _ _ => rfl, fun _ _ => rfl⟩
  rw [Hw.core_onCore]
  split
  case isTrue here => rw [← here]; exact holds _
  case isFalse => exact .refl gone _

/-! Registers that the work of a die writes. -/

theorem CoreKept.setReg (lo : 1 ≤ die) (hi : die ≤ 12) (h : Hw) (n : RegName) (i : Nat) (v : W64)
    (lcmap : ∀ j < 4, computePlace .DCTL_LCMAP 0 j ≠ computePlace n 0 i) (ctl : computePlace .CORE_CACHE_CTL p 0 ≠ computePlace n 0 i) :
    CoreKept die p gone h (h.setReg n die 0 i v) := by
  have apart (q : RegName) (inst j : Nat) (ne : computePlace q inst j ≠ computePlace n 0 i) : regAddr q die inst j ≠ regAddr n die 0 i := by
    rw [regAddr_compute _ _ _ _ lo hi, regAddr_compute _ _ _ _ lo hi]
    omega
  exact ⟨.refl gone _, fun j lt => h.reg_setReg_ne _ _ _ _ _ _ _ _ _ (apart _ _ _ (lcmap j lt)), fun b _ => by rw [h.reg_setReg_ne _ _ _ _ _ _ _ _ _ (apart _ _ _ ctl)]⟩

theorem CoreKept.perfSel (lo : 1 ≤ die) (hi : die ≤ 12) (lt : p < 64) (h : Hw) (n : Nat) (f : Fld) (x : Nat) : CoreKept die p gone h (h.setFld .PERF_SEL die 0 n f x) := by
  refine .setReg lo hi h _ _ _ (fun j _ => ?_) ?_
  · rw [computePlace_lcmap, computePlace_perfSel]; omega
  · rw [computePlace_cacheCtl, computePlace_perfSel]; omega

theorem CoreKept.perfCnt (lo : 1 ≤ die) (hi : die ≤ 12) (lt : p < 64) (h : Hw) (n : Nat) (f : Fld) (x : Nat) : CoreKept die p gone h (h.setFld .PERF_CNT die 0 n f x) := by
  refine .setReg lo hi h _ _ _ (fun j _ => ?_) ?_
  · rw [computePlace_lcmap, computePlace_perfCnt]; omega
  · rw [computePlace_cacheCtl, computePlace_perfCnt]; omega

/-- CUR of a domain lies above the bits of CORE_CACHE_CTL, which has the same place where the map names a core that the die does not have. -/
theorem CoreKept.setCur (lo : 1 ≤ die) (hi : die ≤ 12) (h : Hw) (q st : Nat) : CoreKept die p gone h (h.setCur die q st) := by
  refine ⟨.refl gone _, fun j lt => h.reg_setReg_ne _ _ _ _ _ _ _ _ _ ?_, fun b lt => ?_⟩
  · rw [regAddr_compute _ _ _ _ lo hi, regAddr_compute _ _ _ _ lo hi, computePlace_lcmap, computePlace_pwrDom]; omega
  by_cases shared : regAddr .CORE_CACHE_CTL die p 0 = regAddr .PWR_DOM die 0 q
  case neg => rw [Hw.setCur, Hw.setFld, h.reg_setReg_ne _ _ _ _ _ _ _ _ _ shared]
  case pos =>
    have written : (h.setCur die q st).reg .CORE_CACHE_CTL die p 0 = F.PWR_DOM_CUR.set (h.reg .PWR_DOM die 0 q) st := by
      simp [Hw.setCur, Hw.setFld, Hw.setReg, Hw.reg, shared]
    rw [written, Fld.set, wbit_setWbits_ne _ _ _ _ _ (by decide) (.inl (by simp only [F.PWR_DOM_CUR]; omega)), Hw.reg, Hw.reg, shared, look_eq, look_eq W64 (regReset .CORE_CACHE_CTL die p 0)]
    generalize look? h.regs (regAddr .PWR_DOM die 0 q) = listed
    cases listed with
    | some v => simp only [Option.getD_some]
    | none =>
      simp only [Option.getD_none]
      rw [wbit_pwrDomReset _ _ _ lt, regReset_cacheCtl, regReset_cacheCtl_zero]
      exact BitVec.getLsbD_zero.symm

theorem CoreKept.recordWake (lo : 1 ≤ die) (hi : die ≤ 12) (h : Hw) (src nn d : Nat) : CoreKept die p gone h (h.recordWake die src nn d) := by
  have last (h : Hw) (v : W64) : CoreKept die p gone h (h.setReg .PWR_WAKE_LAST die 0 0 v) := by
    refine .setReg lo hi h _ _ _ (fun j _ => ?_) ?_
    · rw [computePlace_lcmap, computePlace_wakeLast]; omega
    · rw [computePlace_cacheCtl, computePlace_wakeLast]; omega
  have history (h : Hw) (i : Nat) (lt : i < 8) (v : W64) : CoreKept die p gone h (h.setReg .PWR_WAKE_HIST die 0 i v) := by
    refine .setReg lo hi h _ _ _ (fun j _ => ?_) ?_
    · rw [computePlace_lcmap, computePlace_wakeHist]; omega
    · rw [computePlace_cacheCtl, computePlace_wakeHist]; omega
  unfold Hw.recordWake
  extract_lets v l hist
  have moved : CoreKept die p gone h hist := .foldl _ (fun h i => history h (7 - i) (by omega) _) _ h
  exact .ite _ (.ite _ (last h v) (.refl h)) ((moved.trans (history _ 0 (by omega) _)).trans (last _ v))

theorem CoreKept.countDie (lo : 1 ≤ die) (hi : die ≤ 12) (lt : p < 64) (h : Hw) (stop ev : Nat) (w : Bool) : CoreKept die p gone h (h.countDie die stop ev w) := by
  refine .ite _ (.refl h) (.foldl _ (fun h n => ?_) _ h)
  unfold countDieOne
  extract_lets sel m h1 h2
  have counted : CoreKept die p gone h h1 := .perfCnt lo hi lt h _ _ _
  have wrapped : CoreKept die p gone h h2 := counted.trans (.perfSel lo hi lt _ _ _ _)
  exact .ite _ (.ite _ (.ite _ (wrapped.trans (.raise _ _)) wrapped) counted) (.refl h)

theorem CoreKept.sliceLookup (lo : 1 ≤ die) (hi : die ≤ 12) (lt : p < 64) (h : Hw) (q line : Nat) (w : Bool) : CoreKept die p gone h (h.sliceLookup die q line w) := by
  have ring (h : Hw) (a b : Nat) (asc : Bool) (n : Nat) : CoreKept die p gone h (h.countRing die a b asc n w) :=
    .foldl _ (fun h _ => .foldl _ (fun h _ => .countDie lo hi lt h _ _ _) _ h) _ h
  exact ((ring _ _ _ _ _).trans (ring _ _ _ _ _)).trans (.countDie lo hi lt _ _ _ _)

theorem CoreKept.countRecalls (lo : 1 ≤ die) (hi : die ≤ 12) (lt : p < 64) (h : Hw) (line : Nat) (keep : Option Nat) (w : Bool) :
    CoreKept die p gone h (h.countRecalls die line keep w) :=
  .foldl _ (fun h _ => .countDie lo hi lt h _ _ _) _ h

/-! Domains, and lines that the die gives up. -/

theorem CoreKept.wakeBase (lo : 1 ≤ die) (hi : die ≤ 12) (h : Hw) (nn : Nat) : CoreKept die p gone h (h.wakeBase die nn).1 := by
  unfold Hw.wakeBase
  extract_lets c k role
  split
  · exact .refl h
  split
  · have aimed : CoreKept die p gone h { h with domGoal := put h.domGoal k (if c = 3 then 8 else 0) } := .same rfl rfl
    exact aimed.trans (CoreKept.setCur lo hi _ nn 5)
  split
  · exact .same rfl rfl
  · exact .refl h

theorem CoreKept.coreWake (lo : 1 ≤ die) (hi : die ≤ 12) (h : Hw) (q stop : Nat) : CoreKept die p gone h (h.coreWake die q stop) := by
  have woken := CoreKept.wakeBase (p := p) (gone := gone) lo hi h q
  unfold Hw.coreWake
  exact .ite _ (.ite _ ((woken.trans (.recordWake lo hi _ _ _ _)).trans (.wakeBase lo hi _ _)) woken) (.refl h)

theorem CoreKept.coreLosesLine (h : Hw) (d q line : Nat) : CoreKept die p gone h (h.coreLosesLine d q line) := by
  refine .foldl _ (fun h t => ?_) _ h
  split
  · exact .ite _ (.onThread h _ _) (.refl h)
  · exact .refl h

theorem CoreKept.sendGiveUp (lo : 1 ≤ die) (hi : die ≤ 12) (lt : p < 64) (h : Hw) (op : MsgOp) (line : Nat) : CoreKept die p gone h (h.sendGiveUp op die line) := by
  unfold Hw.sendGiveUp
  extract_lets m h0
  have counted : CoreKept die p gone h h0 := .ite _ (.countDie lo hi lt h _ _ _) (.refl h)
  exact .ite _ (counted.trans (.onCDie _ _ _)) ((counted.trans (.onCDie _ _ _)).trans (.send _ _))

theorem CoreKept.dieGiveUp (lo : 1 ≤ die) (hi : die ≤ 12) (lt : p < 64) (h : Hw) (line : Nat) : CoreKept die p gone h (h.dieGiveUp die line) := by
  unfold Hw.dieGiveUp
  extract_lets st h1
  refine .ite _ (.refl h) (CoreKept.trans ?_ (.onCDie h1 die _))
  show CoreKept die p gone h (match st with | .M => _ | .E => _ | .F => _ | .S => _ | .I => _)
  cases st
  case I | S => exact .refl h
  case E | F | M => exact .sendGiveUp lo hi lt h _ _

theorem CoreKept.dcTrim (lo : 1 ≤ die) (hi : die ≤ 12) (lt : p < 64) (h : Hw) (line : Nat) : CoreKept die p gone h (h.dcTrim die line) := by
  unfold Hw.dcTrim
  split
  · exact .dieGiveUp lo hi lt h _
  · exact .refl h

/-! Lines that enter and leave the caches of a core. -/

theorem CoreKept.fillsBad (h : Hw) (d q line : Nat) : CoreKept die p gone h (h.fillsBad d q line) := by
  refine .onCore h _ _ (fun c => ⟨fun f listed => ?_, fun _ _ => id, fun _ _ => id, fun _ _ => id, fun _ _ => id, rfl⟩)
  obtain ⟨g, old, rfl⟩ := List.mem_map.mp listed
  refine ⟨g, old, ?_⟩
  split
  case isTrue marked => exact .inr ⟨by simp_all, rfl⟩
  case isFalse => exact .inl rfl

theorem CoreKept.l2Drop (lo : 1 ≤ die) (hi : die ≤ 12) (lt : p < 64) (h : Hw) (q v : Nat) (left : gone v) : CoreKept die p gone h (h.l2Drop die q v) := by
  unfold Hw.l2Drop
  extract_lets dirty h1 h2 h3
  have dropped : CoreKept die p gone h h1 := by
    refine .onCore h _ _ (fun c => ⟨fun f listed => ⟨f, listed, .inl rfl⟩, fun line stays => ?_, fun line stays front => ?_, fun line stays => ?_, fun line stays => ?_, rfl⟩)
    all_goals have ne : line ≠ v := fun e => stays (e ▸ left)
    · rw [look_mruDel_ne _ _ _ _ ne]; exact id
    · exact front_mruDel front ne
    · rw [look?_mruDel_ne _ _ _ ne]; exact id
    · rw [look?_mruDel_ne _ _ _ ne]; exact id
  have lost : CoreKept die p gone h h3 := (dropped.trans (.onCDie h1 _ _)).trans (.coreLosesLine h2 _ _ _)
  exact .ite _ (.ite _ (lost.trans (.dieGiveUp lo hi lt _ _)) (lost.trans (.dcTrim lo hi lt _ _))) lost

theorem CoreKept.l2DropOthers (lo : 1 ≤ die) (hi : die ≤ 12) (lt : p < 64) (h : Hw) (v : Nat) (keep : Option Nat) (left : gone v) :
    CoreKept die p gone h (h.l2DropOthers die v keep) :=
  .foldl _ (fun h _ => .ite _ (.refl h) (((CoreKept.coreWake lo hi h _ _).trans (.fillsBad _ _ _ _)).trans (.l2Drop lo hi lt _ _ _ left))) _ h

/-- The snoop filter makes room by lines other than the one that it records (R39, R44). -/
theorem CoreKept.sfRecord (lo : 1 ≤ die) (hi : die ≤ 12) (lt : p < 64) (h : Hw) (q line : Nat) (w : Bool) : CoreKept die p (· ≠ line) h (h.sfRecord die q line w) := by
  unfold Hw.sfRecord
  extract_lets h1
  have recorded : CoreKept die p (· ≠ line) h h1 := .onCDie h _ _
  split
  case h_1 v left =>
    have other : v ≠ line := by
      rw [show h1.cdie die = _ from (h.cdie_onCDie die die _).trans (if_pos rfl)] at left
      exact mruVictim_ne_front (front_mruPut _ _ _) (by decide) left
    exact (recorded.trans (.countDie lo hi lt _ _ _ _)).trans (.l2DropOthers lo hi lt _ v none other)
  case h_2 => exact recorded

/-- Once a line has entered L2 it stands at the front, and the line that makes room is another (R39). -/
theorem CoreKept.roomInL2 (lo : 1 ≤ die) (hi : die ≤ 12) (lt : p < 64) (h : Hw) (line : Nat) (st : LState) (w : Bool) (on : h.coreCacheOff die p 2 = false) :
    CoreKept die p (· ≠ line) (h.onCore (coreKey die p) (fun c => { c with l2 := mruPut c.l2 line st })) (h.l2Install die p line st w) := by
  unfold Hw.l2Install
  extract_lets key h1
  rw [if_neg (by simp [on])]
  have recorded : CoreKept die p (· ≠ line) (h.onCore key (fun c => { c with l2 := mruPut c.l2 line st })) h1 := .sfRecord lo hi lt _ p line w
  split
  case h_1 v left =>
    have front : Front line (h1.core key).l2 := recorded.core.front line (not_not.mpr rfl) (by rw [Hw.core_onCore, if_pos rfl]; exact front_mruPut _ _ _)
    exact recorded.trans (.l2Drop lo hi lt _ _ v (mruVictim_ne_front front (by decide) left))
  case h_2 => exact recorded

theorem CoreKept.l2Install (lo : 1 ≤ die) (hi : die ≤ 12) (lt : p < 64) (h : Hw) (line : Nat) (st : LState) (valid : st ≠ .I) (w : Bool) :
    CoreKept die p (· ≠ line) h (h.l2Install die p line st w) := by
  by_cases off : h.coreCacheOff die p 2 = true
  case pos => rw [Hw.l2Install, if_pos off]; exact .refl h
  case neg =>
    refine CoreKept.trans (.onCore h _ _ (fun c => ?_)) (.roomInL2 lo hi lt h line st w (Bool.eq_false_iff.mpr off))
    refine ⟨fun f listed => ⟨f, listed, .inl rfl⟩, fun l stays _ => ?_, fun l stays _ => ?_, fun _ _ => id, fun _ _ => id, rfl⟩
    all_goals have here : l = line := not_not.mp stays
    · rw [here, look_mruPut_self]
      exact valid
    · rw [here]
      exact front_mruPut _ _ _

theorem l2State_l2Install (lo : 1 ≤ die) (hi : die ≤ 12) (lt : p < 64) (h : Hw) (line : Nat) (st : LState) (valid : st ≠ .I) (w : Bool)
    (on : h.coreCacheOff die p 2 = false) : (h.l2Install die p line st w).l2State die p line ≠ .I := by
  refine (CoreKept.roomInL2 lo hi lt h line st w on).core.l2 line (not_not.mpr rfl) ?_
  rw [Hw.core_onCore, if_pos rfl]
  exact (look_mruPut_self LState.I _ _ _).trans_ne valid

theorem CoreKept.roomInL1d (h : Hw) (line vset : Nat) (st : LState) (on : h.coreCacheOff die p 1 = false) :
    CoreKept die p (· ≠ line) (h.onCore (coreKey die p) (fun c => { c with l1d := mruPut c.l1d line (vset, st) })) (h.l1dInstall die p line vset st) := by
  unfold Hw.l1dInstall
  extract_lets key h1
  rw [if_neg (by simp [on])]
  split
  case h_1 v left =>
    rw [Hw.core_onCore, if_pos rfl] at left
    have other := mruVictim_ne_front (front_mruPut _ _ _) (by decide) left
    refine CoreKept.trans (.onCore h1 _ _ (fun c => ?_)) (.coreLosesLine _ _ _ _)
    refine ⟨fun f listed => ⟨f, listed, .inl rfl⟩, fun _ _ => id, fun _ _ => id, fun l stays => ?_, fun _ _ => id, rfl⟩
    rw [look?_mruDel_ne _ _ _ (not_not.mp stays ▸ other.symm)]
    exact id
  case h_2 => exact .refl h1

theorem CoreKept.roomInL1i (h : Hw) (line vset : Nat) (on : h.coreCacheOff die p 0 = false) :
    CoreKept die p (· ≠ line) (h.onCore (coreKey die p) (fun c => { c with l1i := mruPut c.l1i line vset })) (h.l1iInstall die p line vset) := by
  unfold Hw.l1iInstall
  extract_lets key h1
  rw [if_neg (by simp [on])]
  split
  case h_1 v left =>
    rw [Hw.core_onCore, if_pos rfl] at left
    have other := mruVictim_ne_front (front_mruPut _ _ _) (by decide) left
    refine .onCore h1 _ _ (fun c => ⟨fun f listed => ⟨f, listed, .inl rfl⟩, fun _ _ => id, fun _ _ => id, fun _ _ => id, fun l stays => ?_, rfl⟩)
    rw [look?_mruDel_ne _ _ _ (not_not.mp stays ▸ other.symm)]
    exact id
  case h_2 => exact .refl h1

theorem CoreKept.l1dInstall (h : Hw) (line vset : Nat) (st : LState) : CoreKept die p (· ≠ line) h (h.l1dInstall die p line vset st) := by
  by_cases off : h.coreCacheOff die p 1 = true
  case pos => rw [Hw.l1dInstall, if_pos off]; exact .refl h
  case neg =>
    refine CoreKept.trans (.onCore h _ _ (fun c => ?_)) (.roomInL1d h line vset st (Bool.eq_false_iff.mpr off))
    refine ⟨fun f listed => ⟨f, listed, .inl rfl⟩, fun _ _ => id, fun _ _ => id, fun l stays _ => ?_, fun _ _ => id, rfl⟩
    rw [not_not.mp stays, look?_mruPut_self]
    rfl

theorem CoreKept.l1iInstall (h : Hw) (line vset : Nat) : CoreKept die p (· ≠ line) h (h.l1iInstall die p line vset) := by
  by_cases off : h.coreCacheOff die p 0 = true
  case pos => rw [Hw.l1iInstall, if_pos off]; exact .refl h
  case neg =>
    refine CoreKept.trans (.onCore h _ _ (fun c => ?_)) (.roomInL1i h line vset (Bool.eq_false_iff.mpr off))
    refine ⟨fun f listed => ⟨f, listed, .inl rfl⟩, fun _ _ => id, fun _ _ => id, fun _ _ => id, fun l stays _ => ?_, rfl⟩
    rw [not_not.mp stays, look?_mruPut_self]
    rfl

theorem l1d_l1dInstall (h : Hw) (line vset : Nat) (st : LState) (on : h.coreCacheOff die p 1 = false) :
    (look? ((h.l1dInstall die p line vset st).core (coreKey die p)).l1d line).isSome = true := by
  refine (CoreKept.roomInL1d h line vset st on).core.l1d line (not_not.mpr rfl) ?_
  rw [Hw.core_onCore, if_pos rfl]
  exact congrArg Option.isSome (look?_mruPut_self _ _ _)

theorem l1i_l1iInstall (h : Hw) (line vset : Nat) (on : h.coreCacheOff die p 0 = false) :
    (look? ((h.l1iInstall die p line vset).core (coreKey die p)).l1i line).isSome = true := by
  refine (CoreKept.roomInL1i h line vset on).core.l1i line (not_not.mpr rfl) ?_
  rw [Hw.core_onCore, if_pos rfl]
  exact congrArg Option.isSome (look?_mruPut_self _ _ _)

/-- A cache that is on stays on (R48). -/
theorem CoreKept.coreCacheOff (x : CoreKept die p gone h k) (which : Nat) (lt : which < 3) : k.coreCacheOff die p which = h.coreCacheOff die p which := by
  simp only [Hw.coreCacheOff, x.core.cleaning, x.off _ (show 8 + which < 32 by omega), x.off 10 (by decide)]

end

end Sys2Proof.Machine
end

section
/-! SUPPORT. The retirement of a load or fetch of a thread of the secure world, which trains no prefetcher: its entry leaves the fill buffer, and a missed line that the die holds enters L2 and L1 (R57, R59, R69). -/

namespace Sys2Proof.Machine

theorem Hw.coreKeyOf_eq (h : Hw) {t p : Nat} (carried : h.pcoreOf t = some p) : h.coreKeyOf t = coreKey (dieOfThread t) p := by
  rw [Hw.coreKeyOf, carried]
  rfl

theorem one_le_dieOfThread (t : Nat) : 1 ≤ dieOfThread t := Nat.le_add_left 1 _

theorem dieOfThread_le (t : Gtn) : dieOfThread t.val ≤ 12 := by
  have lt := t.isLt
  unfold dieOfThread
  omega

/-! Steps that leave the caches and fill buffers of every core. -/

theorem holds_onCore {gone : Nat → Prop} (h : Hw) (n key : Nat) (f : Core → Core) (holds : ∀ c, Core.Holds gone c (f c)) :
    Core.Holds gone (h.core key) ((h.onCore n f).core key) := by
  rw [Hw.core_onCore]
  split
  case isTrue here => rw [← here]; exact holds _
  case isFalse => exact .refl gone _

theorem Counted.core {t : Nat} {h k : Hw} (c : Counted t h k) (key : Nat) : k.core key = h.core key := by
  obtain ⟨_, _, e⟩ := c.rest
  rw [e]
  rfl

theorem holds_installWalks {gone : Nat → Prop} (h : Hw) (t key : Nat) (before : Option Nat) : Core.Holds gone (h.core key) ((h.installWalks t before).core key) := by
  unfold Hw.installWalks
  extract_lets x due w p set ents h1
  split
  · exact .refl gone _
  · show Core.Holds gone (h.core key) (h1.core key)
    exact holds_onCore h _ _ _ (fun _ => .same rfl rfl rfl rfl rfl)

theorem Core.Holds.trainPred {gone : Nat → Prop} (c : Core) (e : PredEnt) : Core.Holds gone c (c.trainPred e) := by
  unfold Core.trainPred
  split <;> exact .same rfl rfl rfl rfl rfl

theorem Core.Holds.trainPreds {gone : Nat → Prop} (l : List PredEnt) : ∀ c : Core, Core.Holds gone c (l.foldl Core.trainPred c) := by
  induction l with
  | nil => exact .refl gone
  | cons e r ih => exact fun c => (Core.Holds.trainPred c e).trans (ih _)

theorem holds_flushQ {gone : Nat → Prop} (h : Hw) (t key : Nat) : Core.Holds gone (h.core key) ((h.flushQ t).core key) := by
  unfold Hw.flushQ
  extract_lets x h1
  split
  · exact .refl gone _
  have counted : Core.Holds gone (h.core key) (h1.core key) := by
    show Core.Holds gone (h.core key) (Hw.core (if _ then h else _) key)
    split
    · exact .refl gone _
    · have events := (Hw.counts_counted (h.onThread t (fun x => { x with evq := [], trainq := [], lseq := 0 })) t x.evq).core key
      have trained := holds_onCore (gone := gone) ((h.onThread t (fun x => { x with evq := [], trainq := [], lseq := 0 })).counts t x.evq)
        (h.coreKeyOf t) key _ (fun c => Core.Holds.trainPreds x.trainq c)
      rw [events] at trained
      exact trained
  exact counted.trans (holds_installWalks h1 t key none)

/-! The line of an entry enters the caches. -/

section
variable {p : Nat} {h : Hw} {e : FillEnt}

theorem l2Grant_ne (h : Hw) (die q line : Nat) : h.l2Grant die q line ≠ .I := by
  unfold Hw.l2Grant
  extract_lets owns
  split <;> exact LState.noConfusion

theorem CoreKept.installFill (hi : dieOfThread e.thread ≤ 12) (carried : h.pcoreOf e.thread = some p) :
    CoreKept (dieOfThread e.thread) p (fun _ => True) h (h.installFill e) := by
  have lo := one_le_dieOfThread e.thread
  have lt := h.pcoreOf_lt _ _ carried
  have any (line : Nat) (l : Nat) (_ : l ≠ line) : True := trivial
  unfold Hw.installFill
  extract_lets die q cur st h2
  have core : q = p := by simp only [q, carried, Option.getD_some]
  clear_value q
  subst core
  have valid : st ≠ .I := by
    show (if _ then _ else _) ≠ LState.I
    split
    · exact l2Grant_ne _ _ _ _
    · simp_all
  have entered : CoreKept die q (fun _ => True) h h2 := (CoreKept.l2Install lo hi lt h e.line st valid _).mono (any e.line)
  refine .ite _ (.refl h) (.ite _ (.l2Drop lo hi lt h q e.line trivial) (.ite _ entered (.ite _ (entered.trans ?_) (entered.trans ?_))))
  · exact (CoreKept.l1iInstall h2 e.line e.vset).mono (any e.line)
  · exact (CoreKept.l1dInstall h2 e.line e.vset st).mono (any e.line)

/-- The line of an entry is in L2, and in the L1 of its kind where that is on. -/
structure Entered (h k : Hw) (e : FillEnt) (p : Nat) : Prop where
  l2 : k.l2State (dieOfThread e.thread) p e.line ≠ .I
  l1i : e.fetch = true → h.coreCacheOff (dieOfThread e.thread) p 0 = false → (look? (k.core (coreKey (dieOfThread e.thread) p)).l1i e.line).isSome = true
  l1d : e.fetch = false → h.coreCacheOff (dieOfThread e.thread) p 1 = false → (look? (k.core (coreKey (dieOfThread e.thread) p)).l1d e.line).isSome = true

theorem Entered.holds {k m : Hw} (x : Entered h k e p)
    (c : Core.Holds (· ≠ e.line) (k.core (coreKey (dieOfThread e.thread) p)) (m.core (coreKey (dieOfThread e.thread) p))) : Entered h m e p :=
  have here : ¬ e.line ≠ e.line := not_not.mpr rfl
  ⟨c.l2 _ here x.l2, fun f on => c.l1i _ here (x.l1i f on), fun f on => c.l1d _ here (x.l1d f on)⟩

theorem installFill_enters (hi : dieOfThread e.thread ≤ 12) (carried : h.pcoreOf e.thread = some p) (access : e.walk = false)
    (held : h.dieState (dieOfThread e.thread) e.line ≠ .I) (on : h.coreCacheOff (dieOfThread e.thread) p 2 = false) : Entered h (h.installFill e) e p := by
  have lo := one_le_dieOfThread e.thread
  have lt := h.pcoreOf_lt _ _ carried
  unfold Hw.installFill
  extract_lets die q cur st h2
  have core : q = p := by simp only [q, carried, Option.getD_some]
  clear_value q
  subst core
  have valid : st ≠ .I := by
    show (if _ then _ else _) ≠ LState.I
    split
    · exact l2Grant_ne _ _ _ _
    · simp_all
  have kept : CoreKept die q (· ≠ e.line) h h2 := .l2Install lo hi lt h e.line st valid _
  have inL2 : h2.l2State die q e.line ≠ .I := l2State_l2Install lo hi lt h e.line st valid _ on
  have here : ¬ e.line ≠ e.line := not_not.mpr rfl
  rw [if_neg (by simpa using held), if_neg (by simpa using on), if_neg (by simp [access])]
  split
  case isTrue fetch =>
    refine ⟨(CoreKept.l1iInstall h2 e.line e.vset).core.l2 _ here inL2, fun _ on0 => l1i_l1iInstall h2 _ _ ?_, fun load => absurd fetch (by simp [load])⟩
    rw [kept.coreCacheOff 0 (by decide)]
    exact on0
  case isFalse load =>
    refine ⟨(CoreKept.l1dInstall h2 e.line e.vset st).core.l2 _ here inL2, fun fetch => absurd fetch load, fun _ on1 => l1d_l1dInstall h2 _ _ _ ?_⟩
    rw [kept.coreCacheOff 1 (by decide)]
    exact on1

/-- A recorded hit moves lines of the caches, and no entry of the fill buffers (R59). -/
theorem CoreKept.hitTouch (carried : h.pcoreOf e.thread = some p) : CoreKept (dieOfThread e.thread) p (fun _ => True) h (h.hitTouch e) := by
  have any (line : Nat) (l : Nat) (_ : l ≠ line) : True := trivial
  have moved (h : Hw) (n : Nat) (f : Core → Core) (fills : ∀ c, (f c).fills = c.fills) (cleaning : ∀ c, (f c).cleaning = c.cleaning) :
      CoreKept (dieOfThread e.thread) p (fun _ => True) h (h.onCore n f) :=
    .onCore h n f (fun c => ⟨fun g listed => ⟨g, fills c ▸ listed, .inl rfl⟩, fun _ stays => absurd trivial stays, fun _ stays => absurd trivial stays,
      fun _ stays => absurd trivial stays, fun _ stays => absurd trivial stays, cleaning c⟩)
  unfold Hw.hitTouch
  extract_lets die q key c
  have core : q = p := by simp only [q, carried, Option.getD_some]
  clear_value q
  subst core
  refine .ite _ (moved h key _ (fun c => by split <;> rfl) (fun c => by split <;> rfl)) ?_
  split
  case h_1 st _ =>
    have touched := moved h key (fun c => { c with l2 := mruPut c.l2 e.line st }) (fun _ => rfl) (fun _ => rfl)
    refine .ite _ touched (.ite _ (touched.trans ?_) (touched.trans ?_))
    · exact (CoreKept.l1iInstall _ e.line e.vset).mono (any e.line)
    · exact (CoreKept.l1dInstall _ e.line e.vset st).mono (any e.line)
  case h_2 => exact .refl h

end

/-! Retirement. -/

/-- The first load of an entry has left it, and an entry without others its buffer (R57, R59). -/
def Hw.useLeaves (h : Hw) (e : FillEnt) : Hw :=
  h.onCore (h.coreKeyOf e.thread) (fun c =>
    { c with fills := c.fills.filterMap (fun f => if !e.same f then some f else if (e.uses.drop 1).isEmpty then none
        else some { f with uses := e.uses.drop 1, hit := if e.hit != 0 then e.hit else if e.walk then 2 else 1 }) })

/-- The line of an entry whose first load retires: installed, or a recorded hit (R57, R59). -/
def Hw.useCached (h : Hw) (e : FillEnt) : Hw := if e.hit = 0 then (h.useLeaves e).installFill e else (h.useLeaves e).hitTouch e

theorem cacheOnly_useCached (h : Hw) (e : FillEnt) : CacheOnly h (h.useCached e) := by
  have left : CacheOnly h (h.useLeaves e) := cacheOnly_onCore h _ _
  exact cacheOnly_iteP _ (left.trans (cacheOnly_installFill _ e)) (left.trans (cacheOnly_hitTouch _ e))

theorem Thread.FetchKept.world {x y : Thread} (k : x.FetchKept y) : y.world = x.world := by rw [k]

theorem Thread.FetchKept.pc {x y : Thread} (k : x.FetchKept y) : y.pc = x.pc := by rw [k]

theorem train_of_world (h : Hw) (t line : Nat) (pc : W64) (fetch miss : Bool) (world : (h.thread t).world = true) : h.train t line pc fetch miss = h := by
  unfold Hw.train
  extract_lets die p on
  exact if_pos world

/-- After its line has entered the caches, the retirement of a load in the secure world leaves the caches and the fill buffers as they are. -/
theorem retireUse_holds {gone : Nat → Prop} (h : Hw) (e : FillEnt) (u : FillUse) (key : Nat) (world : (h.thread e.thread).world = true) :
    Core.Holds gone ((h.useCached e).core key) ((h.retireUse e u).core key) := by
  unfold Hw.retireUse
  extract_lets t left h1 h2 h3 h4 h5
  have cached : CacheOnly h h2 := cacheOnly_useCached h e
  have used : Core.Holds gone (h2.core key) (h3.core key) := by
    show Core.Holds gone (h2.core key) (Hw.core (if _ then _ else h2) key)
    split
    · rw [((Hw.count_counted _ _ _).core key)]
      exact holds_onCore h2 _ key _ (fun _ => .same rfl rfl rfl rfl rfl)
    · exact .refl gone _
  have kept3 : CacheOnly h h3 := cached.trans (cacheOnly_ite _ ((cacheOnly_onCore h2 _ _).trans (Hw.count_counted _ _ _).cacheOnly) (.refl h2))
  have counted : h4.core key = h3.core key := by
    show Hw.core (if _ then _ else h3) key = _
    split
    · exact (h3.count_counted _ _).core key
    · rfl
  have kept4 : CacheOnly h h4 := kept3.trans (cacheOnly_ite _ (h3.count_counted _ _).cacheOnly (.refl h3))
  have untrained : h5 = h4 := by
    have secure : (h4.thread t).world = true := (kept4.kept t).world.trans world
    show (if _ then h4 else h4.train _ _ _ _ _) = h4
    rw [train_of_world h4 _ _ _ _ _ secure, ite_self]
  refine used.trans ?_
  rw [← counted, ← untrained]
  split
  · exact holds_installWalks h5 _ _ _
  · exact holds_flushQ h5 _ _

/-- The last load of an entry retires (R57): the entry is gone. -/
theorem retireUse_removes {h : Hw} {e : FillEnt} {p : Nat} (u : FillUse) (hi : dieOfThread e.thread ≤ 12) (carried : h.pcoreOf e.thread = some p)
    (last : e.uses.drop 1 = []) (world : (h.thread e.thread).world = true) :
    ∀ f ∈ ((h.retireUse e u).core (coreKey (dieOfThread e.thread) p)).fills, e.same f = false := by
  have left : ∀ f ∈ ((h.useLeaves e).core (coreKey (dieOfThread e.thread) p)).fills, e.same f = false := by
    intro f listed
    rw [Hw.useLeaves, h.coreKeyOf_eq carried, Hw.core_onCore, if_pos rfl] at listed
    obtain ⟨g, _, from_g⟩ := List.mem_filterMap.mp listed
    cases same : e.same g <;> simp_all
  have cached : CoreKept (dieOfThread e.thread) p (fun _ => True) (h.useLeaves e) (h.useCached e) := .ite _ (.installFill hi carried) (.hitTouch carried)
  intro f listed
  obtain ⟨g, old, marked⟩ := (cached.core.trans (retireUse_holds h e u _ world)).fills f listed
  have gone := left g old
  rcases marked with rfl | ⟨_, rfl⟩ <;> exact gone

/-- A missed line that the die holds is in the caches once its load has retired (R57, R59). -/
theorem retireUse_enters {h : Hw} {e : FillEnt} {p : Nat} (u : FillUse) (hi : dieOfThread e.thread ≤ 12) (carried : h.pcoreOf e.thread = some p)
    (access : e.walk = false) (world : (h.thread e.thread).world = true) (missed : e.hit = 0) (held : h.dieState (dieOfThread e.thread) e.line ≠ .I)
    (on : h.coreCacheOff (dieOfThread e.thread) p 2 = false) : Entered h (h.retireUse e u) e p := by
  have kept : ((h.useLeaves e).core (coreKey (dieOfThread e.thread) p)).cleaning = (h.core (coreKey (dieOfThread e.thread) p)).cleaning := by
    rw [Hw.useLeaves, h.coreKeyOf_eq carried, Hw.core_onCore, if_pos rfl]
  have off (which : Nat) : (h.useLeaves e).coreCacheOff (dieOfThread e.thread) p which = h.coreCacheOff (dieOfThread e.thread) p which := by
    simp only [Hw.coreCacheOff, kept]
    rfl
  have installed : Entered (h.useLeaves e) ((h.useLeaves e).installFill e) e p := installFill_enters hi carried access held ((off 2).trans on)
  have cached : h.useCached e = (h.useLeaves e).installFill e := if_pos missed
  have rest := retireUse_holds (gone := (· ≠ e.line)) h e u (coreKey (dieOfThread e.thread) p) world
  rw [cached] at rest
  obtain ⟨l2, l1i, l1d⟩ := installed.holds rest
  exact ⟨l2, fun f on0 => l1i f ((off 0).trans on0), fun f on1 => l1d f ((off 1).trans on1)⟩

end Sys2Proof.Machine
end

section
/-! SUPPORT. INSTRUCTION_RETIRE (R54 to R58, R61): what keeps a load from retiring, the retirement of the last load of an entry, and the replay of the one load that a thread has open. -/

namespace Sys2Proof.Machine

variable {h k : Hw} {e : FillEnt} {u : FillUse} {y : Thread}

/-! Replays. -/

/-- The only load that a thread has open is u: it stands in an entry of the thread, and every load of the thread that has not retired is it. -/
structure OnlyUse (h : Hw) (t : Nat) (u : FillUse) : Prop where
  listed : ∃ f ∈ (h.core (h.coreKeyOf t)).fills, f.thread = t ∧ u ∈ f.uses
  alone : ∀ f ∈ (h.core (h.coreKeyOf t)).fills, f.thread = t → ∀ v ∈ f.uses, v.snap.isSome = true → v = u

theorem OnlyUse.of_openFills {t : Nat} (opened : h.openFills t = [e]) (uses : e.uses = [u]) : OnlyUse h t u where
  listed := by
    have only : e ∈ h.openFills t := opened ▸ List.mem_singleton_self e
    obtain ⟨listed, mine⟩ := List.mem_filter.mp only
    simp only [Bool.and_eq_true, beq_iff_eq] at mine
    exact ⟨e, listed, mine.1, by simp [uses]⟩
  alone := by
    intro f listed mine v used waiting
    have isOpen : f.isOpen = true := List.any_eq_true.mpr ⟨v, used, waiting⟩
    have only : f ∈ h.openFills t := List.mem_filter.mpr ⟨listed, by simp [mine, isOpen]⟩
    rw [opened, List.mem_singleton] at only
    simpa [only, uses] using used

theorem Hw.coreKeyOf_setFill (h : Hw) (e : FillEnt) (g : FillEnt → FillEnt) (t : Nat) : (h.setFill e g).coreKeyOf t = h.coreKeyOf t := rfl

theorem Hw.fills_setFill (h : Hw) (e : FillEnt) (g : FillEnt → FillEnt) :
    ((h.setFill e g).core (h.coreKeyOf e.thread)).fills = mapIf (fun f => e.same f) g (h.core (h.coreKeyOf e.thread)).fills := by
  rw [Hw.setFill, Hw.core_onCore, if_pos rfl]

/-- A change of an entry that keeps its thread and its loads keeps the open load. -/
theorem OnlyUse.setFill (only : OnlyUse h e.thread u) (g : FillEnt → FillEnt) (thread : ∀ f, (g f).thread = f.thread) (uses : ∀ f, (g f).uses = f.uses) :
    OnlyUse (h.setFill e g) e.thread u where
  listed := by
    obtain ⟨f, listed, mine, used⟩ := only.listed
    rw [h.coreKeyOf_setFill, h.fills_setFill]
    refine ⟨_, List.mem_map_of_mem listed, ?_⟩
    split
    · exact ⟨(thread f).trans mine, (uses f).symm ▸ used⟩
    · exact ⟨mine, used⟩
  alone := by
    intro f listed
    rw [h.coreKeyOf_setFill, h.fills_setFill] at listed
    obtain ⟨f0, old, rfl⟩ := List.mem_map.mp listed
    split
    · rw [thread, uses]; exact only.alone f0 old
    · exact only.alone f0 old

/-- What a replay searches for is the open load. -/
theorem OnlyUse.find {t : Nat} (only : OnlyUse h t u) (pending : u.snap = some y) :
    (((h.core (h.coreKeyOf t)).fills.filter (fun f => f.thread == t)).flatMap (·.uses)).find? (fun v => v.seq == u.seq && v.snap.isSome) = some u := by
  obtain ⟨f, listed, mine, used⟩ := only.listed
  have among : u ∈ ((h.core (h.coreKeyOf t)).fills.filter (fun f => f.thread == t)).flatMap (·.uses) :=
    List.mem_flatMap.mpr ⟨f, List.mem_filter.mpr ⟨listed, by simpa using mine⟩, used⟩
  cases found : List.find? _ _ with
  | none => exact absurd (List.find?_eq_none.mp found u among) (by simp [pending])
  | some v =>
    obtain ⟨g, passed, used_g⟩ := List.mem_flatMap.mp (List.mem_of_find?_eq_some found)
    obtain ⟨old, mine_g⟩ := List.mem_filter.mp passed
    have waiting := List.find?_some found
    simp only [Bool.and_eq_true, beq_iff_eq] at waiting mine_g
    rw [only.alone g old mine_g v used_g waiting.2]

/-- The thread stands where y stood, with y's general registers, and memory is as it was. -/
structure ReplaysTo (h k : Hw) (t : Nat) (y : Thread) : Prop where
  mem : k.mem = h.mem
  pc : (k.thread t).pc = y.pc
  readG : ∀ n, (k.thread t).readG n = y.readG n

theorem ReplaysTo.cacheOnly {m : Hw} {t : Nat} (r : ReplaysTo h k t y) (c : CacheOnly k m) : ReplaysTo h m t y :=
  ⟨c.mem.trans r.mem, (c.kept t).pc.trans r.pc, fun n => ((c.kept t).readG n).trans (r.readG n)⟩

theorem ReplaysTo.after {m : Hw} {t : Nat} (r : ReplaysTo k m t y) (mem : k.mem = h.mem) : ReplaysTo h m t y := ⟨r.mem.trans mem, r.pc, r.readG⟩

/-- The open load and what follows it are flushed, and the thread stands before it again (R56, R58). -/
theorem replayAt_replaysTo {t : Nat} (only : OnlyUse h t u) (pending : u.snap = some y) : ReplaysTo h (h.replayAt t u.seq) t y := by
  unfold Hw.replayAt
  extract_lets key fs snap cut gone later h1 h2
  have found : snap = some u := only.find pending
  have kept : CacheOnly h h2 := (cacheOnly_onCore h _ _).trans (cacheOnly_foldl _ (fun h f => cacheOnly_installFill h f) _ h1)
  rw [found]
  simp only [Option.bind_some, pending]
  refine ReplaysTo.cacheOnly ?_ (cacheOnly_flushQ _ t)
  have brought : (h2.onThread t (fun x => x.replayTo y)).thread t = (h2.thread t).replayTo y := by
    rw [Hw.thread_onThread, if_pos rfl]
  refine ⟨kept.mem, ?_, fun n => ?_⟩
  · rw [brought]; rfl
  · rw [brought]; rfl

theorem FillEnt.firstSeq_of_uses {r : List FillUse} (uses : e.uses = u :: r) : e.firstSeq = u.seq := by simp [FillEnt.firstSeq, uses]

/-- A poisoned or changed line has its load executed again (R56, R58, R62). -/
theorem validate_replaysTo (only : OnlyUse h e.thread u) (uses : e.uses = [u]) (pending : u.snap = some y)
    (differs : e.bad = true ∨ (u.bytes ≠ [] ∧ (h.poisoned (e.line <<< 6) || has (h.cdie (dieOfThread e.thread)).pzn e.line) = true) ∨
      (u.bytes.any (fun b => h.byte b.1 != b.2)) = true) :
    (h.validate e).2 = true ∧ ReplaysTo h (h.validate e).1 e.thread y := by
  unfold Hw.validate
  extract_lets h1
  split
  · exact ⟨rfl, FillEnt.firstSeq_of_uses uses ▸ (replayAt_replaysTo (only.setFill (fun f => { f with bad := true }) (fun _ => rfl) (fun _ => rfl)) pending).after rfl⟩
  case isFalse fresh =>
    have changed : (u.bytes.any (fun b => h.byte b.1 != b.2)) = true := by
      rcases differs with bad | ⟨bytes, lost⟩ | changed
      · exact absurd (by simp [bad]) fresh
      · exact absurd (by simp [uses, bytes, lost]) fresh
      · exact changed
    have found : e.uses.find? (fun u => u.snap.isSome && u.bytes.any (fun b => h.byte b.1 != b.2)) = some u := by
      rw [uses]
      exact List.find?_cons_of_pos (by simp [pending, changed])
    rw [found]
    have again : ReplaysTo h (h1.replayAt e.thread u.seq) e.thread y :=
      (replayAt_replaysTo (only.setFill (fun f => { f with settled := true, valid := true }) (fun _ => rfl) (fun _ => rfl)) pending).after rfl
    exact ⟨rfl, again.cacheOnly (Hw.count_counted _ _ _).cacheOnly⟩

/-! What INSTRUCTION_RETIRE does with the oldest load of its entry. -/

/-- Without an open table read no walk retires (R61). -/
theorem retireWalks_of_no_walk {t : Nat} (accesses : ∀ f ∈ h.openFills t, f.walk = false) (seq n : Nat) : h.retireWalks t seq n = (h, false) := by
  have none_walks : (h.openFills t).filter (fun f => f.walk) = [] := List.filter_eq_nil_iff.mpr (fun f listed => by simp [accesses f listed])
  cases n with
  | zero => rfl
  | succ n =>
    have no_use : h.walkUse t seq = none := by rw [Hw.walkUse, none_walks]; rfl
    rw [Hw.retireWalks, no_use]

/-- The entry of a thread's load or fetch of a line. -/
def FillEnt.isAccess (t line : Nat) (fetch : Bool) (f : FillEnt) : Bool := f.thread == t && f.line == line && f.fetch == fetch && !f.walk

theorem FillEnt.isAccess_iff {t line : Nat} {fetch : Bool} {f : FillEnt} :
    f.isAccess t line fetch = true ↔ f.thread = t ∧ f.line = line ∧ f.fetch = fetch ∧ f.walk = false := by
  simp [FillEnt.isAccess, and_assoc]

/-- An older load of the thread has not retired. -/
def Hw.olderUse (h : Hw) (t : Nat) (u : FillUse) : Prop := ∃ f ∈ h.openFills t, f.walk = false ∧ ∃ v ∈ f.uses, v.snap.isSome = true ∧ v.seq < u.seq

theorem Hw.olderUse_iff (h : Hw) (t : Nat) (u : FillUse) :
    (h.openFills t).any (fun f => !f.walk && f.uses.any (fun v => v.snap.isSome && decide (v.seq < u.seq))) = true ↔ h.olderUse t u := by
  simp [Hw.olderUse]

section
variable {t line : Nat} {fetch : Bool} {pc : W64} {r : List FillUse}

theorem retireFill_of_none (no_entry : (h.core (h.coreKeyOf t)).fills.find? (FillEnt.isAccess t line fetch) = none) : h.retireFill t line fetch pc = h.walksDone t := by
  unfold Hw.retireFill
  extract_lets mine
  rw [show List.find? mine _ = none from no_entry]

variable (entry : (h.core (h.coreKeyOf t)).fills.find? (FillEnt.isAccess t line fetch) = some e) (uses : e.uses = u :: r)
include entry uses

/-- A load whose entry is provisional, whose data has not come, or that stands behind an older one does not retire (R56). -/
theorem retireFill_waits (waits : e.settled = false ∨ e.inFlight = true ∨ h.olderUse t u) : h.retireFill t line fetch pc = h := by
  rw [← h.olderUse_iff] at waits
  unfold Hw.retireFill
  extract_lets mine
  rw [show List.find? mine _ = some e from entry]
  simp only [uses, List.head?_cons]
  refine if_pos ?_
  rcases waits with settled | flight | older
  · simp [settled]
  · simp [flight]
  · simp [older]

variable (settled : e.settled = true) (here : e.inFlight = false) (oldest : ¬ h.olderUse t u) (accesses : ∀ f ∈ h.openFills t, f.walk = false)
include settled here oldest accesses

/-- The load of a validated entry retires (R57). -/
theorem retireFill_retires (valid : e.valid = true) (good : e.bad = false) : h.retireFill t line fetch pc = h.retireUse e { u with pc := pc } := by
  rw [← h.olderUse_iff, Bool.not_eq_true] at oldest
  unfold Hw.retireFill
  extract_lets mine
  have entry : List.find? mine _ = some e := entry
  simp [entry, uses, settled, here, oldest, retireWalks_of_no_walk accesses, valid, good]

/-- The load of an entry whose validation flushes the thread does not retire (R56). -/
theorem retireFill_flushes (unchecked : e.valid = false ∨ e.bad = true) (flushed : (h.validate e).2 = true) : h.retireFill t line fetch pc = (h.validate e).1 := by
  rw [← h.olderUse_iff, Bool.not_eq_true] at oldest
  unfold Hw.retireFill
  extract_lets mine
  have entry : List.find? mine _ = some e := entry
  have check : (e.valid && !e.bad) = false := by rcases unchecked with h | h <;> simp [h]
  have all : h.validate e = ((h.validate e).1, true) := by rw [← flushed]
  simp only [entry, uses, settled, here, oldest, retireWalks_of_no_walk accesses, check, List.head?_cons]
  rw [all]
  rfl

end

section
variable {s : State} {t : Gtn} {line : BitVec 46} {fetch : Bool} {pc : W64} {p : Nat}

/-- A thread that has check-stopped retires nothing (R161). -/
theorem exec_instructionRetire_checkStopped (stopped : (s.hw.thread t.val).run = .checkStopped) : exec (.instructionRetire t line fetch pc) s = .next s := by
  have carried : exec (.instructionRetire t line fetch pc) s = execInstructionRetire t line fetch pc s := rfl
  rw [carried, execInstructionRetire, State.onHw_eq, if_pos (by simp [stopped])]

theorem exec_instructionRetire_running (mapped : s.hw.pcoreOf t.val = some p) (running : (s.hw.thread t.val).run ≠ .checkStopped) :
    exec (.instructionRetire t line fetch pc) s = .next { s with hw := s.hw.retireFill t.val line.toNat fetch pc } := by
  have carried : exec (.instructionRetire t line fetch pc) s = execInstructionRetire t line fetch pc s := rfl
  rw [carried, execInstructionRetire, State.onHw_eq, if_neg (by simp [mapped, running])]

end

/-- What the retirement of the last load of an entry of thread t leaves, in the secure world: the entry is gone, and a missed line that the die holds is in the caches (R57, R59). -/
structure LastRetired (h k : Hw) (e : FillEnt) (p : Nat) : Prop where
  mem : k.mem = h.mem
  gone : ∀ f ∈ (k.core (coreKey (dieOfThread e.thread) p)).fills, e.same f = false
  pc : (k.thread e.thread).pc = (h.thread e.thread).pc
  cached : e.hit = 0 → h.dieState (dieOfThread e.thread) e.line ≠ .I → h.coreCacheOff (dieOfThread e.thread) p 2 = false → Entered h k e p

theorem retireUse_lastRetired {p : Nat} (v : FillUse) (hi : dieOfThread e.thread ≤ 12) (mapped : h.pcoreOf e.thread = some p) (access : e.walk = false)
    (last : e.uses.drop 1 = []) (world : (h.thread e.thread).world = true) : LastRetired h (h.retireUse e v) e p :=
  have kept := cacheOnly_retireUse h e v
  ⟨kept.mem, retireUse_removes v hi mapped last world, (kept.kept _).pc, fun missed held on => retireUse_enters v hi mapped access world missed held on⟩

/-- The line of an entry, in the words of the statement: in the L1 of its kind where that is on. -/
theorem Entered.l1 {p : Nat} (x : Entered h k e p) (on : h.coreCacheOff (dieOfThread e.thread) p (if e.fetch then 0 else 1) = false) :
    if e.fetch then (look? (k.core (coreKey (dieOfThread e.thread) p)).l1i e.line).isSome = true
    else (look? (k.core (coreKey (dieOfThread e.thread) p)).l1d e.line).isSome = true := by
  cases kind : e.fetch
  · rw [kind] at on; exact x.l1d kind on
  · rw [kind] at on; exact x.l1i kind on

section
variable {s : State} {t : Gtn} {line : BitVec 46} {fetch : Bool} {pc : W64} {p : Nat}
variable (mapped : s.hw.pcoreOf t.val = some p) (running : (s.hw.thread t.val).run ≠ .checkStopped)
  (entry : (s.hw.core (s.hw.coreKeyOf t.val)).fills.find? (FillEnt.isAccess t.val line.toNat fetch) = some e) (uses : e.uses = [u])
  (settled : e.settled = true) (here : e.inFlight = false) (oldest : ¬ s.hw.olderUse t.val u) (accesses : ∀ f ∈ s.hw.openFills t.val, f.walk = false)
include mapped running entry uses settled here oldest accesses

/-- The last load of a validated entry retires (R57). -/
theorem instructionRetire_retires (valid : e.valid = true) (good : e.bad = false) (world : (s.hw.thread t.val).world = true) :
    Does s (.instructionRetire t line fetch pc) (fun k => LastRetired s.hw k e p) := by
  obtain ⟨ofThread, -, -, access⟩ := FillEnt.isAccess_iff.mp (List.find?_some entry)
  have carried := exec_instructionRetire_running (line := line) (fetch := fetch) (pc := pc) mapped running
  rw [retireFill_retires entry uses settled here oldest accesses valid good] at carried
  rw [← ofThread] at mapped world
  exact does_of_hw carried (retireUse_lastRetired _ (ofThread ▸ dieOfThread_le t) mapped access (by rw [uses]; rfl) world)

/-- The only open load of a thread is executed again where its line is lost or has changed (R56, R58, R62). -/
theorem instructionRetire_replays (only : s.hw.openFills t.val = [e]) (pending : u.snap = some y) (unchecked : e.valid = false ∨ e.bad = true)
    (differs : e.bad = true ∨ (u.bytes ≠ [] ∧ (s.hw.poisoned (line.toNat <<< 6) || has (s.hw.cdie (dieOfThread t.val)).pzn line.toNat) = true) ∨
      (u.bytes.any (fun b => s.hw.byte b.1 != b.2)) = true) : Does s (.instructionRetire t line fetch pc) (fun k => ReplaysTo s.hw k t.val y) := by
  obtain ⟨ofThread, ofLine, -, -⟩ := FillEnt.isAccess_iff.mp (List.find?_some entry)
  have carried := exec_instructionRetire_running (line := line) (fetch := fetch) (pc := pc) mapped running
  have alone : OnlyUse s.hw e.thread u := ofThread ▸ OnlyUse.of_openFills only uses
  obtain ⟨flushed, replays⟩ := validate_replaysTo alone uses pending (by rw [ofThread, ofLine]; exact differs)
  rw [retireFill_flushes entry uses settled here oldest accesses unchecked flushed] at carried
  exact does_of_hw carried (ofThread ▸ replays)

end

end Sys2Proof.Machine
end

section
/-! SUPPORT. LOAD_SETTLES (R54 to R56): the settle notice, the settled read, and the entry that waits for it. -/

namespace Sys2Proof.Machine

variable {h k : Hw} {e : FillEnt}

/-! Memory through validation. -/

theorem replayAt_mem (h : Hw) (t seq : Nat) : (h.replayAt t seq).mem = h.mem := by
  unfold Hw.replayAt
  extract_lets key fs snap cut gone later h1 h2
  have kept : CacheOnly h h2 := (cacheOnly_onCore h _ _).trans (cacheOnly_foldl _ (fun h f => cacheOnly_installFill h f) _ h1)
  split
  · exact (cacheOnly_flushQ _ t).mem.trans kept.mem
  · exact kept.mem

theorem validate_mem (h : Hw) (e : FillEnt) : (h.validate e).1.mem = h.mem := by
  unfold Hw.validate
  extract_lets h1
  split
  · exact replayAt_mem _ _ _
  · split
    · rfl
    · exact (Hw.count_counted _ _ _).cacheOnly.mem.trans (replayAt_mem h1 _ _)

/-! The settled read of a line that the die cache does not hold. -/

theorem countDieOne_cdies (h : Hw) (die nn stop ev : Nat) : (countDieOne h die nn stop ev).cdies = h.cdies := by
  unfold countDieOne
  extract_lets sel m h1 h2
  split
  · split
    · split <;> rfl
    · rfl
  · rfl

theorem Hw.countDie_cdies (h : Hw) (die stop ev : Nat) (w : Bool) : (h.countDie die stop ev w).cdies = h.cdies := by
  unfold Hw.countDie
  split
  · rfl
  · exact List.foldlRecOn (motive := fun x : Hw => x.cdies = h.cdies) _ _ rfl (fun _ same _ _ => (countDieOne_cdies _ _ _ _ _).trans same)

theorem Hw.countRing_cdies (h : Hw) (die a b : Nat) (asc : Bool) (n : Nat) (w : Bool) : (h.countRing die a b asc n w).cdies = h.cdies :=
  List.foldlRecOn (motive := fun x : Hw => x.cdies = h.cdies) _ _ rfl (fun _ same _ _ =>
    List.foldlRecOn (motive := fun z : Hw => z.cdies = h.cdies) _ _ same (fun z same _ _ => (z.countDie_cdies _ _ _ _).trans same))

theorem Hw.sliceLookup_cdies (h : Hw) (die p line : Nat) (w : Bool) : (h.sliceLookup die p line w).cdies = h.cdies :=
  ((Hw.countDie_cdies _ _ _ _ _).trans (Hw.countRing_cdies _ _ _ _ _ _ _)).trans (Hw.countRing_cdies _ _ _ _ _ _ _)

theorem Hw.cdie_congr (h k : Hw) (same : k.cdies = h.cdies) (die : Nat) : k.cdie die = h.cdie die := by rw [Hw.cdie, same]; rfl

/-- A miss of a die is outstanding, or waits (R45, R46). -/
theorem dieRequest_misses (h : Hw) (op : MsgOp) (die p line part : Nat) (w : Bool) :
    let k := h.dieRequest op die p line part w
    has (k.cdie die).miss line = true ∨ (k.cdie die).parked.any (fun m => m.addr == line) = true := by
  intro k
  show has ((Hw.dieRequest _ _ _ _ _ _ _).cdie die).miss line = true ∨ ((Hw.dieRequest _ _ _ _ _ _ _).cdie die).parked.any _ = true
  unfold Hw.dieRequest
  extract_lets m
  split
  case isTrue out => exact .inl out
  case isFalse =>
    split
    · refine .inr ?_
      unfold Hw.park
      split
      case isTrue parked =>
        obtain ⟨x, listed, same⟩ := List.any_eq_true.mp parked
        simp only [Bool.and_eq_true] at same
        exact List.any_eq_true.mpr ⟨x, listed, same.1⟩
      case isFalse => simp [Hw.cdie_onCDie, m]
    · refine .inl ?_
      rw [Hw.cdie_congr _ _ (Hw.send_cdies _ _), Hw.cdie_onCDie, if_pos rfl]
      simp

section
variable {die p : Nat} {gone : Nat → Prop}

theorem CoreKept.park (h : Hw) (d : Nat) (m : Msg) : CoreKept die p gone h (h.park d m) := .ite _ (.refl h) (.onCDie h d _)

theorem CoreKept.dieRequest (lo : 1 ≤ die) (hi : die ≤ 12) (lt : p < 64) (h : Hw) (op : MsgOp) (q line part : Nat) (w : Bool) :
    CoreKept die p gone h (h.dieRequest op die q line part w) := by
  unfold Hw.dieRequest
  extract_lets m
  refine .ite _ (.refl h) (.ite _ (.park h die m) ?_)
  exact ((CoreKept.countDie lo hi lt h _ _ _).trans (.onCDie _ _ _)).trans (.send _ m)

/-- The core that carries a thread is the same where the map of its die is. -/
theorem CoreKept.pcoreOf (x : CoreKept die p gone h k) (t : Nat) (on : dieOfThread t = die) : k.pcoreOf t = h.pcoreOf t := by
  have byte : lcoreOf t / 8 < 4 := by unfold lcoreOf; omega
  simp only [Hw.pcoreOf, on, x.lcmap _ byte]

theorem CoreKept.coreKeyOf (x : CoreKept die p gone h k) (t : Nat) (on : dieOfThread t = die) : k.coreKeyOf t = h.coreKeyOf t := by
  simp only [Hw.coreKeyOf, x.pcoreOf t on]

end

/-- A settled read has been looked up in its slice, and the copies of other L2s have gone home (R42, R51). -/
def Hw.sliceCleared (h : Hw) (t line : Nat) : Hw :=
  let die := dieOfThread t
  let w := (h.thread t).world
  ((h.sliceLookup die ((h.pcoreOf t).getD 0) line w).countRecalls die line none w).l2DropOthers die line none

/-- A settled read of a line that the die does not hold goes to the home (R51). -/
theorem sliceRead_of_absent {t line : Nat} (absent : h.dieState (dieOfThread t) line = .I) :
    h.sliceRead t line = ((h.sliceCleared t line).dieRequest .RDS (dieOfThread t) ((h.pcoreOf t).getD 0) line (h.partOf t) (h.thread t).world, false) := by
  unfold Hw.sliceRead
  extract_lets die p w h1
  have none_here : h1.sliceHas die line = false := by
    rw [Hw.sliceHas, Hw.dieState, Hw.cdie_congr _ _ (h.sliceLookup_cdies _ _ _ _)]
    simp [show look .I (h.cdie die).dc line = .I from absent]
  exact if_neg (by simp [none_here])

theorem sliceRead_kept {t line p : Nat} (hi : dieOfThread t ≤ 12) (lt : p < 64) (absent : h.dieState (dieOfThread t) line = .I) :
    CoreKept (dieOfThread t) p (fun _ => True) h (h.sliceRead t line).1 := by
  have lo := one_le_dieOfThread t
  have cleared : CoreKept (dieOfThread t) p (fun _ => True) h (h.sliceCleared t line) :=
    ((CoreKept.sliceLookup lo hi lt h _ _ _).trans (.countRecalls lo hi lt _ _ _ _)).trans (.l2DropOthers lo hi lt _ _ _ trivial)
  rw [sliceRead_of_absent absent]
  exact cleared.trans (.dieRequest lo hi lt _ _ _ _ _ _)

/-! Entries that wait. -/

/-- The only entry of its kind: it is provisional, and its line is good. -/
structure OnlyProvisional (h : Hw) (e : FillEnt) : Prop where
  alone : (h.core (h.coreKeyOf e.thread)).fills.filter (fun f => e.same f) = [e]
  provisional : e.settled = false
  good : e.bad = false

theorem OnlyProvisional.eq (only : OnlyProvisional h e) {f : FillEnt} (listed : f ∈ (h.core (h.coreKeyOf e.thread)).fills) (same : e.same f = true) : f = e := by
  have among := List.mem_filter.mpr ⟨listed, same⟩
  rwa [only.alone, List.mem_singleton] at among

/-- Every entry of a kind waits for its data. -/
def Waiting (h : Hw) (e : FillEnt) : Prop := ∀ f ∈ (h.core (h.coreKeyOf e.thread)).fills, e.same f = true → f.bad = false ∧ f.inFlight = true

/-- An entry whose data is still to come goes no further (R55, R56). -/
theorem settleOne_of_waiting (only : OnlyProvisional h e) (waiting : Waiting (h.sendSettled e) e) : (h.settleOne e).1 = h.sendSettled e := by
  unfold Hw.settleOne
  extract_lets h1
  have sent : h1 = h.sendSettled e := if_neg (by simp [only.provisional, only.good])
  split
  case h_1 f found =>
    rw [sent] at found
    obtain ⟨good, flight⟩ := waiting f (List.mem_of_find?_eq_some found) (by simpa using List.find?_some found)
    rw [if_pos (by simp [good, flight])]
    exact sent
  case h_2 => exact sent

theorem OnlyProvisional.waiting (only : OnlyProvisional h e) (flight : e.inFlight = true) : Waiting h e := fun f listed same => by
  rw [only.eq listed same]
  exact ⟨only.good, flight⟩

theorem Waiting.send (waits : Waiting h e) (m : Msg) : Waiting (h.send m) e := by
  obtain ⟨_, _, _, _, only⟩ := h.send_only m
  rw [only]
  exact waits

/-- A change of an entry that leaves its line good and its data to come. -/
theorem waiting_setFill (g : FillEnt → FillEnt) (changed : ∀ f ∈ (h.core (h.coreKeyOf e.thread)).fills, e.same f = true → (g f).bad = false ∧ (g f).inFlight = true) : Waiting (h.setFill e g) e := by
  intro f listed same
  rw [h.coreKeyOf_setFill, h.fills_setFill] at listed
  obtain ⟨f0, old, rfl⟩ := List.mem_map.mp listed
  split
  case isTrue was => exact changed f0 old was
  case isFalse was => simp only [if_neg was] at same; exact absurd same was

/-- A notice follows the provisional read once (R55). -/
theorem settleOne_noticed (only : OnlyProvisional h e) (flight : e.inFlight = true) (noticed : e.noticed = true) : (h.settleOne e).1 = h := by
  have sent : h.sendSettled e = h := by simp [Hw.sendSettled, flight, noticed]
  rw [settleOne_of_waiting only (by rw [sent]; exact only.waiting flight), sent]

/-- A thread's settle notice about a line (R55). -/
def Hw.settleNotice (h : Hw) (t line : Nat) : Msg := { op := .STN, addr := line, agent := h.threadAgent t, part := h.partOf t, world := (h.thread t).world }

theorem settleOne_notices (only : OnlyProvisional h e) (flight : e.inFlight = true) (fresh : e.noticed = false)
    (gone : (h.cdie (dieOfThread e.thread)).parked.any (fun m => m.addr == e.line && m.op == .RDP) = false) :
    (h.settleOne e).1 = (h.setFill e (fun f => { f with noticed := true })).send (h.settleNotice e.thread e.line) := by
  have sent : h.sendSettled e = (h.setFill e (fun f => { f with noticed := true })).send (h.settleNotice e.thread e.line) := by
    simp only [Hw.sendSettled, flight, fresh, gone]
    rfl
  have waits : Waiting (h.setFill e (fun f => { f with noticed := true })) e :=
    waiting_setFill _ (fun f listed same => only.waiting flight f listed same)
  rw [← sent]
  exact settleOne_of_waiting only (sent ▸ waits.send _)

/-- The settled read of an entry whose data has come is sent (R55, R56). -/
theorem sendSettled_of_here (h : Hw) (here : e.inFlight = false) :
    let r := h.sliceRead e.thread e.line
    h.sendSettled e = r.1.setFill e (fun f => { f with settled := true, inFlight := !r.2, grant := r.1.dieState (dieOfThread e.thread) e.line }) := by
  simp [Hw.sendSettled, here]

theorem sendSettled_mem (h : Hw) (here : e.inFlight = false) : (h.sendSettled e).mem = h.mem := by
  rw [sendSettled_of_here h here]
  exact (cacheOnly_sliceRead h _ _).mem

theorem settleOne_mem (h : Hw) (here : e.inFlight = false) : (h.settleOne e).1.mem = h.mem := by
  unfold Hw.settleOne
  extract_lets h1
  have sent : h1.mem = h.mem := by
    show (if _ then h else h.sendSettled e).mem = h.mem
    split
    · rfl
    · exact sendSettled_mem h here
  split
  · split
    · exact sent
    · split
      · exact sent
      · exact (validate_mem h1 _).trans sent
  · exact sent

/-- The entry waits for the settled read of a line that the die does not hold, and the die for the line (R45, R56). -/
structure Asked (k : Hw) (e : FillEnt) (key : Nat) : Prop where
  misses : has (k.cdie (dieOfThread e.thread)).miss e.line = true ∨ (k.cdie (dieOfThread e.thread)).parked.any (fun m => m.addr == e.line) = true
  waits : ∀ f ∈ (k.core key).fills, e.same f = true → f.settled = true ∧ f.inFlight = true

theorem settleOne_asks {p : Nat} (only : OnlyProvisional h e) (hi : dieOfThread e.thread ≤ 12) (mapped : h.pcoreOf e.thread = some p) (here : e.inFlight = false)
    (absent : h.dieState (dieOfThread e.thread) e.line = .I) : Asked (h.settleOne e).1 e (h.coreKeyOf e.thread) := by
  have read := sliceRead_of_absent absent
  have kept := sliceRead_kept hi (h.pcoreOf_lt _ _ mapped) absent
  have key : (h.sliceRead e.thread e.line).1.coreKeyOf e.thread = h.coreKeyOf e.thread := kept.coreKeyOf e.thread rfl
  have old : ∀ f ∈ ((h.sliceRead e.thread e.line).1.core (h.coreKeyOf e.thread)).fills, e.same f = true → f = e := by
    intro f listed same
    have held := kept.core.fills
    rw [← h.coreKeyOf_eq mapped] at held
    obtain ⟨g, before, marked⟩ := held f listed
    rcases marked with rfl | ⟨settled, rfl⟩
    · exact only.eq before same
    · rw [only.eq before same, only.provisional] at settled
      exact absurd settled Bool.false_ne_true
  have sent := sendSettled_of_here h here
  have waiting : Waiting (h.sendSettled e) e := by
    rw [sent]
    refine waiting_setFill _ (fun f listed same => ?_)
    rw [key] at listed
    rw [old f listed same, read]
    exact ⟨only.good, rfl⟩
  rw [settleOne_of_waiting only waiting, sent, ← key, read]
  refine ⟨dieRequest_misses _ _ _ _ _ _ _, fun f listed same => ?_⟩
  rw [Hw.fills_setFill] at listed
  obtain ⟨f0, before, rfl⟩ := List.mem_map.mp listed
  split
  case isTrue => exact ⟨rfl, rfl⟩
  case isFalse other => rw [if_neg other] at same; exact absurd same other

/-! The command. -/

/-- The provisional entry of a thread's load of a line. -/
def Hw.provisional (h : Hw) (t line : Nat) : Option FillEnt := (h.openFills t).find? (fun f => f.line == line && !f.fetch && !f.settled)

section
variable {s : State} {t : Gtn} {line : BitVec 46}

/-- A deferred load that settles may send its settled read (R54). -/
theorem exec_loadSettles_deferred (waits : (s.hw.thread t.val).deferred = some (line.toNat, false)) :
    exec (.loadSettles t line) s = .next { s with hw := s.hw.onThread t.val (fun x => { x with deferred := some (line.toNat, true) }) } := by
  have carried : exec (.loadSettles t line) s = execLoadSettles t line s := rfl
  rw [carried, execLoadSettles, State.onHw_eq, if_pos waits]

theorem exec_loadSettles (sent : (s.hw.thread t.val).deferred ≠ some (line.toNat, false)) :
    exec (.loadSettles t line) s = .next { s with hw := match s.hw.provisional t.val line.toNat with
      | none => s.hw
      | some e => (s.hw.settleOne e).1 } := by
  have carried : exec (.loadSettles t line) s = execLoadSettles t line s := rfl
  rw [carried, execLoadSettles, State.onHw_eq, if_neg sent]
  rfl

theorem Hw.provisional_kind {t line : Nat} (found : h.provisional t line = some e) : e.thread = t ∧ e.settled = false := by
  obtain ⟨_, mine⟩ := List.mem_filter.mp (List.mem_of_find?_eq_some found)
  have kind := List.find?_some found
  simp only [Bool.and_eq_true, beq_iff_eq, Bool.not_eq_true'] at mine kind
  exact ⟨mine.1, kind.2⟩

theorem exec_loadSettles_none (sent : (s.hw.thread t.val).deferred ≠ some (line.toNat, false)) (closed : s.hw.provisional t.val line.toNat = none) :
    exec (.loadSettles t line) s = .next s := by
  rw [exec_loadSettles sent, closed]

variable (sent : (s.hw.thread t.val).deferred ≠ some (line.toNat, false)) (opened : s.hw.provisional t.val line.toNat = some e)
  (alone : (s.hw.core (s.hw.coreKeyOf t.val)).fills.filter (fun f => e.same f) = [e]) (good : e.bad = false)
include sent opened alone good

/-- An entry still in flight sends no second notice (R55). -/
theorem exec_loadSettles_noticed (flight : e.inFlight = true) (noticed : e.noticed = true) : exec (.loadSettles t line) s = .next s := by
  obtain ⟨mine, provisional⟩ := Hw.provisional_kind opened
  have only : OnlyProvisional s.hw e := ⟨mine ▸ alone, provisional, good⟩
  rw [exec_loadSettles sent, opened]
  simp only [settleOne_noticed only flight noticed]

/-- An entry still in flight sends a settle notice (R55). -/
theorem exec_loadSettles_notices (flight : e.inFlight = true) (fresh : e.noticed = false)
    (gone : (s.hw.cdie (dieOfThread t.val)).parked.any (fun m => m.addr == e.line && m.op == .RDP) = false) :
    exec (.loadSettles t line) s = .next { s with hw := (s.hw.setFill e (fun f => { f with noticed := true })).send (s.hw.settleNotice t.val e.line) } := by
  obtain ⟨mine, provisional⟩ := Hw.provisional_kind opened
  have only : OnlyProvisional s.hw e := ⟨mine ▸ alone, provisional, good⟩
  rw [exec_loadSettles sent, opened]
  rw [← mine] at gone ⊢
  simp only [settleOne_notices only flight fresh gone]

/-- An entry whose data has come sends a settled read (R55, R56). -/
theorem loadSettles_asks {p : Nat} (mapped : s.hw.pcoreOf t.val = some p) (here : e.inFlight = false) :
    Does s (.loadSettles t line) (fun k => k.mem = s.hw.mem ∧ (s.hw.dieState (dieOfThread t.val) e.line = .I → Asked k e (s.hw.coreKeyOf t.val))) := by
  obtain ⟨mine, provisional⟩ := Hw.provisional_kind opened
  have only : OnlyProvisional s.hw e := ⟨mine ▸ alone, provisional, good⟩
  have carried := exec_loadSettles sent
  rw [opened] at carried
  rw [← mine] at mapped ⊢
  exact does_of_hw carried ⟨settleOne_mem _ here, fun absent => settleOne_asks only (mine ▸ dieOfThread_le t) mapped here absent⟩

end

end Sys2Proof.Machine
end

section
/-! SUPPORT. STALE, FERR and the requester's watchdog where no packet of theirs waits (R443, R453): the command itself stands for the packet. -/

namespace Sys2Proof.Machine

/-- No STALE and no FERR waits. -/
def Hw.noStale (h : Hw) : Prop := ∀ m ∈ h.msgs, m.op ≠ .STALE ∧ m.op ≠ .FERR

variable {h : Hw}

theorem dropFirst_of_none {α : Type} {p : α → Bool} : ∀ {l : List α}, (∀ x ∈ l, p x = false) → dropFirst p l = l
  | [], _ => rfl
  | x :: l, none_here => by
    rw [dropFirst, none_here x (by simp), if_neg Bool.false_ne_true, dropFirst_of_none (fun y listed => none_here y (by simp [listed]))]

theorem Hw.dropFirst_msgs {p : Msg → Bool} (none_here : ∀ m ∈ h.msgs, p m = false) : ({ h with msgs := dropFirst p h.msgs } : Hw) = h := by
  rw [dropFirst_of_none none_here]

theorem Hw.arrivedBy_of_none {p : Msg → Bool} (none_here : ∀ m ∈ h.msgs, p m = false) : h.arrivedBy p = h := by
  have found : h.msgs.find? p = none := List.find?_eq_none.mpr (fun m listed => by simp [none_here m listed])
  rw [Hw.arrivedBy, found]

/-! A snoop (R276, R453). -/

theorem foldXor_lt (w n : Nat) : ∀ x, foldXor w n x < 2 ^ w := by
  induction n with
  | zero => exact fun _ => Nat.two_pow_pos w
  | succ n ih => exact fun x => Nat.xor_lt_two_pow (Nat.mod_lt _ (Nat.two_pow_pos w)) (ih _)

theorem homeOfLine_lt (line : Nat) : homeOfLine line < 32 := by
  unfold homeOfLine homeOf
  split <;> exact foldXor_lt 5 _ _

/-- The answer to a snoop goes to a home, in the domain of the homes. -/
theorem clockDomain_home (line : Nat) : clockDomain (homeOfLine line) = some (0, 0) := by
  have low := homeOfLine_lt line
  have die : homeOfLine line / 128 = 0 := by omega
  have stop : homeOfLine line % 128 = homeOfLine line := by omega
  simp [clockDomain, stopDomain, die, stop, low]

/-- The answer to a snoop that no packet carries, while the homes' clocks run, arrives as it is. -/
theorem receive_answer (a : Agent) (line part : Nat) (world : Bool) (none_here : ∀ m ∈ h.msgs, ¬ (m.op = .ACK ∧ m.addr = line ∧ m.agent = a)) (awake : h.domCur 0 0 ≠ 1) :
    h.receive (h.pkt .ACK a line part world) .good = .ok (h, false) := by
  have absent : h.waitingMsg .ACK a line = none := List.find?_eq_none.mpr (fun m listed => by simpa using none_here m listed)
  rw [Hw.pkt, absent]
  simp [Hw.receive, Hw.satinWake, Msg.ends, clockDomain_home, awake]

theorem exec_stale_snoop (s : State) (a : AgentRef) (l : Line) (quiet : s.hw.noStale) (none_here : ∀ m ∈ s.hw.msgs, ¬ (m.op = .ACK ∧ m.addr = l.toNat ∧ m.agent = toAgent a))
    (awake : s.hw.domCur 0 0 ≠ 1) : exec (.stale (.snoop a l)) s = exec (.ack a l true false false .good) s := by
  have stale : exec (.stale (.snoop a l)) s = execStale (.snoop a l) s := rfl
  have ack : exec (.ack a l true false false .good) s = execAck a l true false false .good s := rfl
  rw [stale, ack, execStale, execAck, State.onHw_eq, State.onHw_eq]
  simp only [answerCmd, receive_answer _ _ _ _ none_here awake]
  rw [Hw.arrivedBy_of_none (fun m listed => by simp [(quiet m listed).1])]
  rfl

/-! A request (R453). -/

theorem Hw.resendOf_request (h : Hw) (r : RspSlot) (part : Nat) :
    (h.resendOf r part).op = r.op ∧ (h.resendOf r part).addr = r.line ∧ (h.resendOf r part).agent = r.agent ∧ (h.resendOf r part).part = part := by
  unfold Hw.resendOf
  extract_lets m
  split
  · split <;> exact ⟨rfl, rfl, rfl, rfl⟩
  · split <;> exact ⟨rfl, rfl, rfl, rfl⟩
  all_goals exact ⟨rfl, rfl, rfl, rfl⟩

theorem exec_stale_request (s : State) (a : AgentRef) (l : Line) (op : BitVec 6) {o : MsgOp} {sl : RspSlot} (quiet : s.hw.noStale) (request : opOf op.toNat = some o)
    (slot : s.hw.rsps.find? (fun r => r.agent == toAgent a && r.op == o && decide (r.line = l.toNat)) = some sl) : ∃ m : Msg,
      exec (.stale (.request a l op)) s = .next { s with hw := (s.hw.freeRsp sl.src sl.txid).send m } ∧
      m.op = o ∧ m.addr = l.toNat ∧ m.agent = toAgent a ∧ m.part = s.hw.agentPart (toAgent a) := by
  have kind := List.find?_some slot
  simp only [Bool.and_eq_true, beq_iff_eq, decide_eq_true_eq] at kind
  obtain ⟨⟨agent, opcode⟩, line⟩ := kind
  obtain ⟨op_eq, addr_eq, agent_eq, part_eq⟩ := s.hw.resendOf_request sl (s.hw.agentPart (toAgent a))
  refine ⟨s.hw.resendOf sl (s.hw.agentPart (toAgent a)), ?_, op_eq.trans opcode, addr_eq.trans line, agent_eq.trans agent, part_eq⟩
  have stale : exec (.stale (.request a l op)) s = execStale (.request a l op) s := rfl
  rw [stale, execStale, State.onHw_eq]
  simp only [request]
  rw [Hw.dropFirst_msgs (fun m listed => by simp [(quiet m listed).1]), Hw.sendAgain, slot]

/-! FERR and the watchdog (R443). -/

/-- FERR that no packet carries fails the request that it names. -/
theorem exec_ferr (s : State) (ref : FerrReq) (request : ∀ a l, ref ≠ .snoop a l) (quiet : s.hw.noStale) :
    exec (.ferr ref) s = .next { s with hw := match s.hw.ferrSlot ref with
      | none => s.hw
      | some sl => s.hw.requestFails sl } := by
  have arrives : s.hw.ferrArrives ref = match s.hw.ferrSlot ref with
      | none => s.hw
      | some sl => s.hw.requestFails sl := by
    cases slot : s.hw.ferrSlot ref with
    | none => 
      unfold Hw.ferrArrives
      split
      · exact absurd rfl (request _ _)
      · rw [slot]
    | some sl => 
      unfold Hw.ferrArrives
      split
      · exact absurd rfl (request _ _)
      · simp only [slot]
        rw [Hw.dropFirst_msgs (fun m listed => by simp [(quiet m listed).2])]
  have ferr : exec (.ferr ref) s = execFerr ref s := rfl
  rw [ferr, execFerr, State.onHw_eq, ← arrives]
  split
  · rw [if_neg]
    simp only [List.any_eq_true, not_exists, not_and]
    exact fun m listed => by simp [(quiet m listed).2]
  · rfl

theorem exec_requesterWatchdog (s : State) (ref : FerrReq) : exec (.requesterWatchdog ref) s = .next { s with hw := match s.hw.ferrSlot ref with
      | none => s.hw
      | some sl => if sl.since + s.hw.rspTmo (sl.src / 128) ≤ s.hw.now then s.hw.requestFails sl else s.hw } := by
  have watchdog : exec (.requesterWatchdog ref) s = execRequesterWatchdog ref s := rfl
  rw [watchdog, execRequesterWatchdog, State.onHw_eq]
  cases s.hw.ferrSlot ref <;> rfl

end Sys2Proof.Machine
end

section
/-! SUPPORT. What refusals, records, answers to snoops and requests that wait again leave of threads and memory: no general register, no PC, and no byte. -/

namespace Sys2Proof.Machine

/-- Memory as it was, and of each thread what KeptAll keeps. -/
structure SoftKept (h k : Hw) : Prop where
  mem : k.mem = h.mem
  kept : KeptAll h k

theorem SoftKept.refl (h : Hw) : SoftKept h h := ⟨rfl, .refl h⟩

theorem SoftKept.trans {h k m : Hw} (a : SoftKept h k) (b : SoftKept k m) : SoftKept h m := ⟨b.mem.trans a.mem, a.kept.trans b.kept⟩

theorem SoftKept.after {h k m : Hw} (b : SoftKept k m) (a : SoftKept h k) : SoftKept h m := a.trans b

theorem SoftKept.same {h k : Hw} (e : (k.mem, k.thr) = (h.mem, h.thr)) : SoftKept h k := by
  obtain ⟨mem, thr⟩ := Prod.mk.inj e
  exact ⟨mem, (KeptAll.refl h).of_eq thr⟩

theorem CacheOnly.threads {h k : Hw} (c : CacheOnly h k) : SoftKept h k := ⟨c.mem, c.kept⟩

theorem SoftKept.foldl {α : Type} (g : Hw → α → Hw) (hg : ∀ h a, SoftKept h (g h a)) (l : List α) : ∀ h : Hw, SoftKept h (l.foldl g h) := by
  induction l with
  | nil => exact fun h => .refl h
  | cons a r ih => exact fun h => (hg h a).trans (ih _)

theorem SoftKept.ite {h a b : Hw} (c : Prop) [Decidable c] (x : SoftKept h a) (y : SoftKept h b) : SoftKept h (if c then a else b) := by
  split <;> assumption

/-! Records (R620). -/

theorem SoftKept.setReg (h : Hw) (n : RegName) (die inst i : Nat) (v : W64) : SoftKept h (h.setReg n die inst i v) := .same rfl

theorem SoftKept.record (h : Hw) (r : RecSet) (die inst i : Nat) (b : Bool) (addr info : W64) : SoftKept h (h.record r die inst i b addr info) :=
  .ite _ (.same rfl) (.ite _ (.same rfl) (.same rfl))

theorem SoftKept.rasSlot (h : Hw) (die set : Nat) (r : RasInfo) : SoftKept h (h.rasSlot die set r) := by
  unfold Hw.rasSlot
  extract_lets rs addr free0 free1 h1
  have recorded : SoftKept h h1 := .record h rs die 0 set _ _ _
  exact .ite _ (recorded.trans (.same rfl)) (.ite _ (recorded.trans (.same rfl)) recorded)

theorem SoftKept.rasRaise (h : Hw) (die set : Nat) (r : RasInfo) : SoftKept h (h.rasRaise die set r) := (SoftKept.rasSlot h die set r).trans (.same rfl)

theorem SoftKept.rasRecurs (h : Hw) (die set thr : Nat) (r : RasInfo) : SoftKept h (h.rasRecurs die set thr r) := by
  unfold Hw.rasRecurs
  extract_lets key same l
  exact .ite _ (.refl h) (.ite _ ((SoftKept.rasRaise _ _ _ _).after (.same rfl)) (.same rfl))

theorem SoftKept.ras (h : Hw) (die set : Nat) (r : RasInfo) : SoftKept h (h.ras die set r) := by
  unfold Hw.ras
  extract_lets ctl h1 n thr h2
  have first : SoftKept h h1 := .ite _ (.rasSlot h die set r) (.refl h)
  have counted : SoftKept h h2 := .ite _ (first.trans (.same rfl)) (first.trans (.same rfl))
  exact .ite _ (counted.trans (.rasRecurs _ _ _ _ _)) (.rasRaise h die set r)

theorem SoftKept.refuseReg (h : Hw) (die pa : Nat) (w : Who) : SoftKept h (h.refuseReg die pa w) := .ras h _ _ _

theorem SoftKept.devRecord (h : Hw) (n t pa cls : Nat) : SoftKept h (h.devRecord n t pa cls) := (SoftKept.ras h _ _ _).trans (.same rfl)

/-! Slots and messages. -/

theorem SoftKept.grantToks (h : Hw) (n dst : Nat) : SoftKept h (Hw.grantToks n dst h) := by
  obtain ⟨_, _, _, e⟩ := Hw.grantToks_only n dst h
  rw [e]
  exact .same rfl

theorem SoftKept.serveSlot (h : Hw) (dst kind slot : Nat) : SoftKept h (h.serveSlot dst kind slot) := by
  unfold Hw.serveSlot
  split
  · exact .same rfl
  · exact .refl h

theorem SoftKept.dropSlot (h : Hw) (t : TokSlot) : SoftKept h (h.dropSlot t) := by
  unfold Hw.dropSlot
  extract_lets h1
  have dropped : SoftKept h h1 := .same rfl
  exact .ite _ (dropped.trans (.serveSlot _ _ _ _)) (dropped.trans (.grantToks _ _ _))

theorem SoftKept.freeTok (h : Hw) (kind : Nat) (a : Agent) (line : Nat) : SoftKept h (h.freeTok kind a line) := by
  unfold Hw.freeTok
  split
  · exact .dropSlot h _
  · exact .refl h

theorem SoftKept.send (h : Hw) (m : Msg) : SoftKept h (h.send m) := (cacheOnly_send h m).threads

theorem SoftKept.wcFlushOne (h : Hw) (key : Nat) (b : WcBuf) : SoftKept h (h.wcFlushOne key b) :=
  .ite _ (.refl h) ((SoftKept.send _ _).after (.same rfl))

theorem SoftKept.wcFlush (h : Hw) (t : Nat) : SoftKept h (h.wcFlush t) := .foldl _ (fun h b => .wcFlushOne h _ b) _ h

/-! Answers to snoops, and requests that ask again. -/

theorem SoftKept.answer (h : Hw) (op : MsgOp) (a : Agent) (line info pz : Nat) : SoftKept h (h.answer op a line info pz) :=
  (SoftKept.freeTok h _ _ _).trans (.send _ _)

theorem SoftKept.dieAnswer (h : Hw) (op : MsgOp) (die line : Nat) : SoftKept h (h.dieAnswer op die line) := by
  unfold Hw.dieAnswer
  extract_lets a ls held pend flags dirty pz h1
  have snooped : SoftKept h h1 := .foldl _ (fun h l => (cacheOnly_snoopLine h op die l).threads) _ h
  refine .ite _ (.answer h _ _ _ _ _) (.ite _ ((SoftKept.answer h _ _ _ _ _).trans (.ras _ _ _ _)) ?_)
  split
  case h_4 => exact .ite _ (snooped.trans (.answer _ _ _ _ _ _)) (snooped.trans (.answer _ _ _ _ _ _))
  all_goals exact snooped.trans (.answer _ _ _ _ _ _)

theorem SoftKept.serveHeld (h : Hw) (die : Nat) : SoftKept h (h.serveHeld die) := by
  unfold Hw.serveHeld
  extract_lets ready l
  exact (SoftKept.foldl _ (fun h _ => .dieAnswer h _ _ _) _ _).after (.same rfl)

theorem SoftKept.unpark (h : Hw) (die : Nat) : SoftKept h (h.unpark die) := by
  refine (SoftKept.foldl _ (fun h m => ?_) _ _).after (.same rfl)
  split
  · exact .ite _ (cacheOnly_dieForward h _ _ _ _ _).threads (cacheOnly_dieRequest h _ _ _ _ _ _).threads
  · exact .refl h

end Sys2Proof.Machine
end

section
/-! SUPPORT. The traps and the retirement that end a device access (R139, R230, R234, R443, R453). -/

namespace Sys2Proof.Machine

variable {h k : Hw} {x y z : Thread} {t : Nat} {c : Cause} {w : DevWait}

/-! Trap entry. -/

/-- What a trap finds of a thread: its PC, depth, banks in use and control registers, and whether it waits for a device. -/
structure Thread.Poised (x y : Thread) : Prop where
  dev : y.dev = x.dev
  pc : y.pc = x.pc
  depth : y.depth = x.depth
  resident : y.resident = x.resident
  cr : y.cr = x.cr

theorem Thread.Poised.trans (a : x.Poised y) (b : y.Poised z) : x.Poised z :=
  ⟨b.dev.trans a.dev, b.pc.trans a.pc, b.depth.trans a.depth, b.resident.trans a.resident, b.cr.trans a.cr⟩

theorem Thread.FetchKept.poised (k : x.FetchKept y) : x.Poised y := by
  rw [k]
  exact ⟨rfl, rfl, rfl, rfl, rfl⟩

/-- A thread that waits for no device. -/
def Thread.freed (x : Thread) : Thread := { x with dev := none }

/-- TCAUSE of a cause (R139). -/
def Cause.tcause (c : Cause) : W64 := setWbits (setWbits (setWbits 0 63 63 (b2n c.async)) 23 16 c.detail) 15 0 c.code

/-- What a trap of thread t leaves, which stood as x: the record of its cause in the bank entered, one deeper, and memory as it was (R139); after a synchronous machine check the thread is at M with MCIP set (R157). -/
structure TrapEntered (h k : Hw) (t : Nat) (x : Thread) (c : Cause) : Prop where
  mem : k.mem = h.mem
  dev : (k.thread t).dev = x.dev
  depth : (k.thread t).depth = x.depth + 1
  tcause : ((k.thread t).bank (k.thread t).shbank.toNat).tcause = c.tcause
  tval : ((k.thread t).bank (k.thread t).shbank.toNat).tval = c.tval
  tpc : ((k.thread t).bank (k.thread t).shbank.toNat).tpc = x.pc
  checked : c.code = 0x20 → c.target = none → (k.thread t).level = 3 ∧ (k.thread t).mcip = true

theorem routeTo_check (x : Thread) (check : c.code = 0x20) (own : c.target = none) : routeTo x c = 3 := by
  simp [routeTo, own, check]

theorem Thread.mcip_setMcip (x : Thread) : (x.setMcip true).mcip = true := by
  rw [Thread.mcip, Thread.setMcip, Thread.crv, Thread.setCrv, look_put, if_pos rfl, wbit_setWbits_self _ _ _ (by decide)]
  rfl

theorem enterTrap_enters (h : Hw) (t : Nat) (c : Cause) (plain : c.fva = none) :
    TrapEntered h (enterTrap h t c (routeTo (h.thread t) c)) t (h.thread t) c := by
  unfold enterTrap
  extract_lets x cur nb tc ts b x1 x2 x3 x4
  have same : x4 = x3 := by simp only [x4, plain]
  have fields : x3.dev = x.dev ∧ x3.depth = x.depth + 1 ∧ x3.shbank = BitVec.ofNat 2 nb ∧ x3.banks = x1.banks ∧ x3.level = x2.level := by
    show (if _ then x2.setMcip true else x2).dev = _ ∧ (if _ then x2.setMcip true else x2).depth = _ ∧ (if _ then x2.setMcip true else x2).shbank = _ ∧
      (if _ then x2.setMcip true else x2).banks = _ ∧ (if _ then x2.setMcip true else x2).level = _
    split <;> exact ⟨rfl, rfl, rfl, rfl, rfl⟩
  obtain ⟨dev, depth, shbank, banks, level⟩ := fields
  have number : x3.shbank.toNat = nb := by
    rw [shbank, BitVec.toNat_ofNat]
    omega
  have entered : x3.bank x3.shbank.toNat = b := by
    rw [number, Thread.bank, banks]
    exact (look_put _ _ _ _ _).trans (if_pos rfl)
  have after : (h.setThread t x4).thread t = x3 := by rw [Hw.setThread_thread, same]
  refine ⟨rfl, ?_, ?_, ?_, ?_, ?_, fun check own => ?_⟩
  · rw [after, dev]
  · rw [after, depth]
  · rw [after, entered]; rfl
  · rw [after, entered]
  · rw [after, entered]
  · rw [after]
    refine ⟨?_, ?_⟩
    · rw [level]
      show BitVec.ofNat 2 (codeLevel (routeTo x c)) = 3
      rw [routeTo_check x check own]
      rfl
    · show (if _ then x2.setMcip true else x2).mcip = true
      rw [if_pos (.inl check), Thread.mcip_setMcip]

/-! A trap that is taken at once. -/

theorem endHold_poised (h : Hw) (t : Nat) : (h.endHold t).mem = h.mem ∧ (h.thread t).Poised ((h.endHold t).thread t) := by
  unfold Hw.endHold
  split
  · have served := SoftKept.serveHeld (h.onThread t (fun x => { x with hold := none, noHoldUntil := h.now + h.cycNs t 512 })) (dieOfThread t)
    have poised := (served.kept t).poised
    rw [Hw.thread_onThread, if_pos rfl] at poised
    exact ⟨served.mem, poised.dev, poised.pc, poised.depth, poised.resident, poised.cr⟩
  · exact ⟨rfl, rfl, rfl, rfl, rfl, rfl⟩

/-- What a trap that is taken at once leaves of a thread that stood as x. -/
theorem TrapEntered.of_poised (entered : TrapEntered h k t y c) (poised : x.Poised y) : TrapEntered h k t x c where
  mem := entered.mem
  dev := entered.dev.trans poised.dev
  depth := entered.depth.trans (congrArg (· + 1) poised.depth)
  tcause := entered.tcause
  tval := entered.tval
  tpc := entered.tpc.trans poised.pc
  checked := entered.checked

theorem TrapEntered.of_mem {g : Hw} (entered : TrapEntered g k t x c) (mem : g.mem = h.mem) : TrapEntered h k t x c :=
  { entered with mem := entered.mem.trans mem }

/-- With a bank free, and no synchronous machine check in M, a cause is taken at once (R139). -/
theorem takeTrap_takes (h : Hw) (t : Nat) (c : Cause) (plain : c.fva = none) (free : (h.thread t).resident < 4) (first : c.code = 0x20 → (h.thread t).mcip = false) :
    (takeTrap h t c).2 = .taken ∧ TrapEntered h (takeTrap h t c).1 t (h.thread t) c := by
  have flushed := SoftKept.wcFlush h t
  obtain ⟨mem, held⟩ := endHold_poised (h.wcFlush t) t
  have poised := (flushed.kept t).poised.trans held
  unfold takeTrap
  extract_lets h1 x target y
  have same_cr : x.mcip = (h.thread t).mcip := by rw [Thread.mcip, Thread.mcip, Thread.crv, Thread.crv, poised.cr]
  rw [if_neg (fun again => by rw [same_cr, first again.1] at again; exact Bool.false_ne_true again.2), if_pos (poised.resident ▸ free)]
  exact ⟨rfl, ((enterTrap_enters h1 t c plain).of_poised poised).of_mem (mem.trans flushed.mem)⟩

/-- A device access ends with a cause that is taken at once: the thread no longer waits (R234). -/
theorem devTrap_enters (h : Hw) (t : Nat) (c : Cause) (plain : c.fva = none) (free : (h.thread t).resident < 4) (first : c.code = 0x20 → (h.thread t).mcip = false) :
    TrapEntered h (h.devTrap t c) t (h.thread t).freed c := by
  have ended : (h.onThread t Thread.freed).thread t = (h.thread t).freed := by rw [Hw.thread_onThread, if_pos rfl]
  obtain ⟨taken, entered⟩ := takeTrap_takes (h.onThread t Thread.freed) t c plain (by rw [ended]; exact free) (by rw [ended]; exact first)
  rw [ended] at entered
  have carried : h.devTrap t c = (takeTrap (h.onThread t Thread.freed) t c).1 := by
    rw [Hw.devTrap]
    split
    case h_1 h1 waits => exact nomatch taken.symm.trans (congrArg (·.2) waits)
    case h_2 h1 e _ took => exact (congrArg (·.1) took).symm
  rw [carried]
  exact entered.of_mem rfl

/-- The same after work that keeps threads and memory. -/
theorem SoftKept.devTrap_enters (a : SoftKept h k) (t : Nat) (c : Cause) (plain : c.fva = none) (free : (h.thread t).resident < 4)
    (first : c.code = 0x20 → (h.thread t).mcip = false) : TrapEntered h (k.devTrap t c) t (h.thread t).freed c := by
  have poised := (a.kept t).poised
  have mcip : (k.thread t).mcip = (h.thread t).mcip := by rw [Thread.mcip, Thread.mcip, Thread.crv, Thread.crv, poised.cr]
  have entered := Machine.devTrap_enters k t c plain (poised.resident ▸ free) (mcip ▸ first)
  have ended : (h.thread t).freed.Poised (k.thread t).freed := ⟨rfl, poised.pc, poised.depth, poised.resident, poised.cr⟩
  exact (entered.of_poised ended).of_mem a.mem

/-! A store that completes without its device. -/

/-- A device store of one part completes: its instruction retires (R228). -/
structure StoreDone (h k : Hw) (t len : Nat) (x : Thread) : Prop where
  mem : k.mem = h.mem
  dev : (k.thread t).dev = none
  pc : (k.thread t).pc = x.pc + BitVec.ofNat 64 len
  readG : ∀ n, (k.thread t).readG n = x.readG n

/-- A thread past an instruction of some bytes, which has retired. -/
def Thread.past (x : Thread) (len : Nat) : Thread := { x.clearProg with pc := x.pc + BitVec.ofNat 64 len }

theorem Thread.readG_past_freed (x : Thread) (len n : Nat) : (x.freed.past len).readG n = x.readG n := by
  simp only [Thread.readG, Thread.bank, Thread.past, Thread.clearProg, Thread.freed]

theorem devDone_store (h : Hw) (t v : Nat) (wait : (h.thread t).devOpen = some w) (one : w.acc.length = 1) (ends : w.stop = none)
    (noReg : w.dest = none) (noVec : w.vd = none) : StoreDone h (h.devDone t v) t w.len (h.thread t) := by
  have last : w.acc.drop 1 = [] := List.drop_eq_nil_of_le (by omega)
  obtain ⟨m, counted, done⟩ := retire_counted ((h.onThread t Thread.freed).onThread t Thread.freed) t w.len []
  have carried : h.devDone t v = m.walksDone t := by
    rw [← done, Hw.devDone, wait]
    simp only [last, devRun, ends, Hw.devRetire, noReg, noVec]
    rfl
  have kept : CacheOnly (((h.onThread t Thread.freed).onThread t Thread.freed).onThread t (·.past w.len)) (m.walksDone t) :=
    counted.cacheOnly.trans (cacheOnly_walksDone m t)
  have ended : (((h.onThread t Thread.freed).onThread t Thread.freed).onThread t (·.past w.len)).thread t = (h.thread t).freed.past w.len := by
    simp only [Hw.thread_onThread, if_true]
    rfl
  have stands := kept.kept t
  rw [ended] at stands
  rw [carried]
  exact ⟨kept.mem, stands.poised.dev, stands.poised.pc, fun n => (stands.readG n).trans ((h.thread t).readG_past_freed w.len n)⟩

end Sys2Proof.Machine
end

section
/-! SUPPORT. Accesses of threads that are answered STALE or FERR (R443, R453). -/

namespace Sys2Proof.Machine

variable {h k : Hw} {x y : Thread} {t : Nat} {c : Cause} {w : DevWait} {sl : RspSlot}

/-! STALE. -/

theorem exec_stale_access (s : State) (t : Gtn) (quiet : s.hw.noStale) : exec (.stale (.access t)) s = .next { s with hw := s.hw.accessStale t.val } := by
  have stale : exec (.stale (.access t)) s = execStale (.access t) s := rfl
  have none_here : s.hw.arrivedBy (fun m => m.op == .STALE && decide (m.info = t.val) && !m.ofHome) = s.hw :=
    Hw.arrivedBy_of_none (fun m listed => by simp [(quiet m listed).1])
  rw [stale, execStale, State.onHw_eq]
  exact congrArg (fun k : Hw => Host.Outcome.next { s with hw := k.accessStale t.val }) none_here

theorem accessStale_none (waits : (h.thread t).devOpen = none) : h.accessStale t = h := by rw [Hw.accessStale, waits]

/-- A load whose access is stale takes an access fault (R453). -/
theorem accessStale_read (waits : (h.thread t).devOpen = some w) (free : (h.thread t).resident < 4) (load : w.write = false) :
    TrapEntered h (h.accessStale t) t (h.thread t).freed (accessFault false 0xF0 w.cur.va) := by
  rw [Hw.accessStale, waits]
  simp only [load]
  exact (SoftKept.refuseReg h 0 w.addr (h.who t)).devTrap_enters t _ rfl free (fun check => absurd check (by simp [accessFault]))

theorem tcause_accessFault_stale (va : W64) : (accessFault false 0xF0 va).tcause = 0xF0000A := by
  show setWbits (setWbits (setWbits 0 63 63 0) 23 16 0xF0) 15 0 0x0A = 0xF0000A
  decide

theorem SoftKept.devOpen (a : SoftKept h k) (t : Nat) : (k.thread t).devOpen = (h.thread t).devOpen := by
  rw [Thread.devOpen, (a.kept t).poised.dev, Thread.devOpen]

/-- A store whose access is stale is discarded, and retires (R453). -/
theorem accessStale_write (waits : (h.thread t).devOpen = some w) (store : w.write = true) (one : w.acc.length = 1) (ends : w.stop = none)
    (noReg : w.dest = none) (noVec : w.vd = none) : StoreDone h (h.accessStale t) t w.len (h.thread t) := by
  have refused := SoftKept.refuseReg h 0 w.addr (h.who t)
  have done := devDone_store (h.refuseReg 0 w.addr (h.who t)) t 0 ((refused.devOpen t).trans waits) one ends noReg noVec
  rw [Hw.accessStale, waits]
  simp only [store]
  exact ⟨done.mem.trans refused.mem, done.dev, done.pc.trans (by rw [(refused.kept t).pc]), fun n => (done.readG n).trans ((refused.kept t).readG n)⟩

/-! FERR. -/

/-- The cause of an access that is answered FERR (R443, R682). -/
def ferrCause (w : DevWait) : Cause :=
  { code := 0x20, detail := if w.write then 0x44 else 0x04, tval := if w.write then BitVec.ofNat 64 w.addr else w.cur.va }

theorem tcause_ferrCause (w : DevWait) : (ferrCause w).tcause = if w.write then 0x440020 else 0x40020 := by
  cases kind : w.write
  · have cause : (ferrCause w).tcause = setWbits (setWbits (setWbits 0 63 63 0) 23 16 0x04) 15 0 0x20 := by simp [Cause.tcause, ferrCause, kind, b2n]
    rw [cause]
    decide
  · have cause : (ferrCause w).tcause = setWbits (setWbits (setWbits 0 63 63 0) 23 16 0x44) 15 0 0x20 := by simp [Cause.tcause, ferrCause, kind, b2n]
    rw [cause]
    decide

/-- An access that fails takes a machine check of its class (R443, R682). -/
theorem accessFails_enters (waits : (h.thread t).devOpen = some w) (free : (h.thread t).resident < 4) (first : (h.thread t).mcip = false)
    (device : paRange w.addr = .mmio ∨ w.write = false) : TrapEntered h (h.accessFails t) t (h.thread t).freed (ferrCause w) := by
  rw [Hw.accessFails, waits]
  cases kind : w.write
  case false =>
    have cause : ferrCause w = { code := 0x20, detail := 0x04, tval := w.cur.va } := by simp [ferrCause, kind]
    rw [cause]
    simp only [kind]
    exact devTrap_enters h t { code := 0x20, detail := 0x04, tval := w.cur.va } rfl free (fun _ => first)
  case true =>
    have cause : ferrCause w = { code := 0x20, detail := 0x44, tval := BitVec.ofNat 64 w.addr } := by simp [ferrCause, kind]
    have mmio : paRange w.addr = .mmio := device.resolve_right (by simp [kind])
    rw [cause]
    simp only [kind, mmio, PaRange.isMem, Hw.devFail, waits]
    exact (SoftKept.devRecord h w.port t w.addr 0x44).devTrap_enters t { code := 0x20, detail := 0x44, tval := BitVec.ofNat 64 w.addr } rfl free (fun _ => first)

theorem mem_threadsOn (h : Hw) (t : Nat) {p : Nat} (mapped : h.pcoreOf t = some p) : t ∈ h.threadsOn (dieOfThread t) p := by
  refine List.mem_filter.mpr ⟨List.mem_map.mpr ⟨t % 64, List.mem_range.mpr (Nat.mod_lt _ (by decide)), ?_⟩, by simp [mapped]⟩
  simp only [dieOfThread]
  omega

/-- A thread waits for an access of an address. -/
def Hw.waitsAt (h : Hw) (addr n : Nat) : Bool :=
  match (h.thread n).devOpen with
  | some v => decide (v.addr = addr)
  | none => false

theorem Hw.waitsAt_iff (h : Hw) (addr n : Nat) : h.waitsAt addr n = true ↔ ∃ v, (h.thread n).devOpen = some v ∧ v.addr = addr := by
  unfold Hw.waitsAt
  split
  case h_1 v found => simp [found]
  case h_2 found => simp [found]

/-- The thread of a core that waits for an access of an address, where no other thread does. -/
theorem find_waitsAt {p : Nat} (mapped : h.pcoreOf t = some p) (waits : (h.thread t).devOpen = some w)
    (alone : ∀ n, n ≠ t → ∀ v, (h.thread n).devOpen = some v → v.addr ≠ w.addr) : (h.threadsOn (dieOfThread t) p).find? (h.waitsAt w.addr) = some t := by
  cases found : (h.threadsOn (dieOfThread t) p).find? (h.waitsAt w.addr) with
  | none => exact absurd ((h.waitsAt_iff _ _).mpr ⟨w, waits, rfl⟩) (List.find?_eq_none.mp found t (mem_threadsOn h t mapped))
  | some n =>
    obtain ⟨v, other, same⟩ := (h.waitsAt_iff _ _).mp (List.find?_some found)
    by_cases mine : n = t
    · rw [mine]
    · exact absurd same (alone n mine v other)

/-- The slot of a thread's access names the access (R443). -/
theorem requestFails_access {p : Nat} (mapped : h.pcoreOf t = some p) (agent : sl.agent = h.threadAgent t) (kind : sl.op = .REGRD ∨ sl.op = .REGWR)
    (waits : (h.thread t).devOpen = some w) (addr : w.addr = sl.line) (alone : ∀ n, n ≠ t → ∀ v, (h.thread n).devOpen = some v → v.addr ≠ sl.line) :
    h.requestFails sl = (h.freeRsp sl.src sl.txid).accessFails t := by
  have found : ((h.freeRsp sl.src sl.txid).threadsOn (dieOfThread t) p).find? ((h.freeRsp sl.src sl.txid).waitsAt sl.line) = some t :=
    addr ▸ find_waitsAt (h := h.freeRsp sl.src sl.txid) mapped waits (addr ▸ alone)
  have named : sl.agent = .core (dieOfThread t) p := by rw [agent, Hw.threadAgent, mapped]; rfl
  have carried : h.requestFails sl = match ((h.freeRsp sl.src sl.txid).threadsOn (dieOfThread t) p).find? ((h.freeRsp sl.src sl.txid).waitsAt sl.line) with
      | some n => (h.freeRsp sl.src sl.txid).accessFails n
      | none => h.freeRsp sl.src sl.txid := by
    unfold Hw.requestFails
    rw [named]
    unfold Hw.coreFails
    rcases kind with read | write
    · rw [read]; rfl
    · rw [write]; rfl
  rw [carried, found]

/-- An access that is answered FERR ends with its machine check (R443, R682). -/
theorem ferrAccess_enters {s : State} {t : Gtn} {p : Nat} (quiet : s.hw.noStale) (slot : s.hw.ferrSlot (.access t) = some sl) (mapped : s.hw.pcoreOf t.val = some p)
    (agent : sl.agent = s.hw.threadAgent t.val) (kind : sl.op = .REGRD ∨ sl.op = .REGWR) (waits : (s.hw.thread t.val).devOpen = some w) (addr : w.addr = sl.line)
    (alone : ∀ n, n ≠ t.val → ∀ v, (s.hw.thread n).devOpen = some v → v.addr ≠ sl.line) (device : paRange w.addr = .mmio ∨ w.write = false)
    (first : (s.hw.thread t.val).mcip = false) (free : (s.hw.thread t.val).resident < 4) :
    Does s (.ferr (.access t)) (fun k => TrapEntered s.hw k t.val (s.hw.thread t.val).freed (ferrCause w)) := by
  have carried := exec_ferr s (.access t) nofun quiet
  rw [slot] at carried
  simp only [requestFails_access mapped agent kind waits addr alone] at carried
  have entered : TrapEntered (s.hw.freeRsp sl.src sl.txid) _ t.val (s.hw.thread t.val).freed (ferrCause w) := accessFails_enters waits free first device
  exact does_of_hw carried (entered.of_mem rfl)

end Sys2Proof.Machine
end

section
/-! SUPPORT. A core's line read that is answered FERR (R62, R443): the load that waited for it is executed again, and its thread knows the line as failed. -/

namespace Sys2Proof.Machine

variable {h k : Hw} {x y : Thread} {t : Nat} {e : FillEnt} {u : FillUse}

/-- A thread before and after the requests of its die have ended: its PC, its general registers and its failed lines are the same. -/
structure Thread.Stays (x y : Thread) : Prop where
  pc : y.pc = x.pc
  readG : ∀ n, y.readG n = x.readG n
  ferrs : y.ferrs = x.ferrs

theorem Thread.Stays.trans {z : Thread} (a : x.Stays y) (b : y.Stays z) : x.Stays z :=
  ⟨b.pc.trans a.pc, fun n => (b.readG n).trans (a.readG n), b.ferrs.trans a.ferrs⟩

theorem Thread.FetchKept.stays (k : x.FetchKept y) : x.Stays y := ⟨k.pc, k.readG, by rw [k]⟩

/-- A thread loses the stores to a line that wait for its ownership. -/
def Thread.dropStores (x : Thread) (line : Nat) : Thread :=
  { x with sq := x.sq.filter (fun q => !(lineOf q.1 == line)), sqe := x.sqe.filter (fun q => !(q.1 == line)) }

theorem Thread.dropStores_stays (x : Thread) (line : Nat) : x.Stays (x.dropStores line) := ⟨rfl, fun _ => rfl, rfl⟩

/-- Some threads of a list lose such stores. -/
theorem look_mapIf_stays (p : Nat × Thread → Bool) (line n : Nat) (l : List (Nat × Thread)) :
    (look {} l n).Stays (look {} (mapIf p (fun e => (e.1, e.2.dropStores line)) l) n) := by
  induction l with
  | nil => exact ⟨rfl, fun _ => rfl, rfl⟩
  | cons e l ih =>
    obtain ⟨key, x⟩ := e
    have next : mapIf p (fun e => (e.1, e.2.dropStores line)) ((key, x) :: l) = (key, if p (key, x) then x.dropStores line else x) :: mapIf p (fun e => (e.1, e.2.dropStores line)) l := by
      unfold mapIf
      rw [List.map_cons]
      split <;> rfl
    rw [next]
    simp only [look]
    split
    · split
      · exact x.dropStores_stays line
      · exact (Thread.FetchKept.refl x).stays
    · exact ih

/-- A request that ends without a grant leaves memory, and of each thread its PC, its registers and its failed lines (R62). -/
theorem dieRequestEnds_stays (h : Hw) (die line n : Nat) : (h.dieRequestEnds die line).mem = h.mem ∧ (h.thread n).Stays ((h.dieRequestEnds die line).thread n) := by
  unfold Hw.dieRequestEnds
  extract_lets h1 h2 drop h3
  have ended : CacheOnly h h2 := by
    refine (cacheOnly_onCDie h die _).trans (cacheOnly_foldl _ ?_ _ h1)
    exact fun h p => cacheOnly_onCore h _ _
  clear_value h2
  have asked : SoftKept h3 ((h3.unpark die).serveHeld die) := (SoftKept.unpark h3 die).trans (.serveHeld _ die)
  have dropped : (h2.thread n).Stays (h3.thread n) := look_mapIf_stays (fun e => dieOfThread e.1 == die && e.2.sqe.any (fun q => q.1 == line)) line n h2.thr
  exact ⟨asked.mem.trans ended.mem, ((ended.kept n).stays.trans dropped).trans (asked.kept n).stays⟩

/-- The failed read of a line has the load that waited for it executed again (R62, R443). -/
structure ReadFailed (h k : Hw) (t line : Nat) (y : Thread) : Prop extends ReplaysTo h k t y where
  failed : line ∈ (k.thread t).ferrs

theorem coreReadFails_replays {p line : Nat} (waits : (h.core (coreKey (dieOfThread e.thread) p)).fills.filter (fun f => f.line == line && f.inFlight) = [e])
    (only : OnlyUse h e.thread u) (uses : e.uses = [u]) (pending : u.snap = some y) :
    ReadFailed h (h.coreReadFails (dieOfThread e.thread) p line) e.thread line y := by
  have marked : OnlyUse (h.setFill e (fun f => { f with bad := true })) e.thread u := only.setFill _ (fun _ => rfl) (fun _ => rfl)
  have again := (replayAt_replaysTo marked pending).after (h := h) rfl
  unfold Hw.coreReadFails
  extract_lets l h1
  have one : h1 = ((h.setFill e (fun f => { f with bad := true })).replayAt e.thread u.seq).onThread e.thread (fun x => { x with ferrs := ins x.ferrs line }) := by
    show List.foldl _ h l = _
    rw [show l = [e] from waits, ← FillEnt.firstSeq_of_uses uses]
    rfl
  obtain ⟨mem, stays⟩ := dieRequestEnds_stays h1 (dieOfThread e.thread) line e.thread
  have known : h1.thread e.thread = { ((h.setFill e (fun f => { f with bad := true })).replayAt e.thread u.seq).thread e.thread with
      ferrs := ins (((h.setFill e (fun f => { f with bad := true })).replayAt e.thread u.seq).thread e.thread).ferrs line } := by
    rw [one, Hw.thread_onThread, if_pos rfl]
  clear_value h1
  subst one
  rw [known] at stays
  refine ⟨⟨mem.trans again.mem, stays.pc.trans again.pc, fun n => (stays.readG n).trans (again.readG n)⟩, ?_⟩
  rw [stays.ferrs]
  exact (mem_ins _ _ _).mpr (.inl rfl)

/-- The slot of a core's line read. -/
theorem requestFails_read {p : Nat} {sl : RspSlot} {die : Nat} (agent : sl.agent = .core die p) (kind : sl.op = .RDS) :
    h.requestFails sl = (h.freeRsp sl.src sl.txid).coreReadFails die p sl.line := by
  unfold Hw.requestFails
  rw [agent]
  unfold Hw.coreFails
  rw [kind]

/-- A core's line read that is answered FERR has the one open load of its thread executed again (R62, R443). -/
theorem ferrRead_replays {s : State} {t : Gtn} {va : W64} {p : Nat} {sl : RspSlot} (quiet : s.hw.noStale) (slot : s.hw.ferrSlot (.read t va) = some sl)
    (agent : sl.agent = .core (dieOfThread t.val) p) (mapped : s.hw.pcoreOf t.val = some p) (kind : sl.op = .RDS)
    (waits : (s.hw.core (s.hw.coreKeyOf t.val)).fills.filter (fun f => f.line == sl.line && f.inFlight) = [e]) (mine : e.thread = t.val)
    (opened : s.hw.openFills t.val = [e]) (uses : e.uses = [u]) (pending : u.snap = some y) :
    Does s (.ferr (.read t va)) (fun k => ReadFailed s.hw k t.val sl.line y) := by
  have carried := exec_ferr s (.read t va) nofun quiet
  rw [slot] at carried
  simp only [requestFails_read agent kind] at carried
  have only : OnlyUse (s.hw.freeRsp sl.src sl.txid) t.val u := OnlyUse.of_openFills opened uses
  rw [s.hw.coreKeyOf_eq mapped] at waits
  rw [← mine] at waits only carried ⊢
  have failed : ReadFailed (s.hw.freeRsp sl.src sl.txid) _ e.thread sl.line y := coreReadFails_replays waits only uses pending
  exact does_of_hw carried ⟨⟨failed.mem, failed.pc, failed.readG⟩, failed.failed⟩

end Sys2Proof.Machine
end

section
/-! PROOFS. Retirement, settled loads, and requests that end without an answer (R54 to R62, R443, R453, R682). -/

open Sys2Proof Sys2Proof.Machine

/-- Settles O26, by the lemmas above on what each command does: a retirement keeps the line that it installs in the caches of its core, a replay brings back the one open load, and a refused access ends in a trap or a retirement. -/
theorem retirementAndAbandonedRequests : Obligations.RetirementAndAbandonedRequests := by
  refine ⟨fun s t line fetch pc p mapped => ?thread, fun s t a l op va w sl ref => ?packets⟩
  case thread =>
    refine ⟨exec_instructionRetire_checkStopped, fun running => ⟨fun no_entry => ?noEntry, fun e u r entry uses => ⟨fun waits => ?waits,
      fun settled here oldest accesses => ⟨fun valid good last world => ?retires, fun y only last pending unchecked differs => ?replays⟩⟩⟩,
      exec_loadSettles_deferred, fun sent => ⟨exec_loadSettles_none sent, fun e opened alone good flight =>
        ⟨exec_loadSettles_noticed sent opened alone good flight, fun fresh gone => exec_loadSettles_notices sent opened alone good flight fresh gone⟩,
        fun e opened alone good here => ?settledRead⟩⟩
    case noEntry => rw [exec_instructionRetire_running mapped running, retireFill_of_none no_entry]
    case waits => rw [exec_instructionRetire_running mapped running, retireFill_waits entry uses waits]
    case retires =>
      obtain ⟨ofThread, ofLine, ofKind, -⟩ := FillEnt.isAccess_iff.mp (List.find?_some entry)
      obtain ⟨k, done, same, mem, gone, pc, cached⟩ := instructionRetire_retires (pc := pc) mapped running entry (last ▸ uses) settled here oldest accesses valid good world
      have key := s.hw.coreKeyOf_eq mapped
      refine ⟨k, done, same, mem, ?_, ofThread ▸ pc, fun missed held on => ?_⟩
      · rw [key, ← ofThread]; exact gone
      · rw [key]
        simp only [← ofThread, ← ofLine, ← ofKind] at held on ⊢
        have entered := cached missed held on
        exact ⟨entered.l2, entered.l1⟩
    case replays =>
      obtain ⟨k, done, same, mem, pc, readG⟩ := instructionRetire_replays (pc := pc) mapped running entry (last ▸ uses) settled here oldest accesses only pending unchecked differs
      exact ⟨k, done, same, mem, pc, readG⟩
    case settledRead =>
      have mine := (Hw.provisional_kind opened).1
      obtain ⟨k, done, same, mem, asked⟩ := loadSettles_asks sent opened alone good mapped here
      exact ⟨k, done, same, mem, fun absent => ⟨mine ▸ (asked absent).misses, (asked absent).waits⟩⟩
  case packets =>
    refine ⟨exec_stale_snoop s a l, fun quiet o request slot => exec_stale_request s a l op quiet request slot, fun quiet closed => ?closed,
      fun quiet awaits free load => ?load, fun quiet awaits store one ends noReg noVec => ?store, fun request absent quiet => ?absent,
      fun request slot => ⟨fun quiet due => ?due, fun early => ?early⟩, fun quiet slot agent kind mapped alone awaits addr device first free => ?access,
      fun e u y p quiet slot agent mapped kind waits mine opened uses pending => ?read⟩
    case closed => rw [exec_stale_access s t quiet, accessStale_none closed]
    case load =>
      have entered := accessStale_read awaits free load
      exact does_of_hw (exec_stale_access s t quiet) ⟨⟨entered.dev, entered.depth, entered.tcause.trans (tcause_accessFault_stale _), entered.tval, entered.tpc⟩, entered.mem⟩
    case store =>
      obtain ⟨mem, dev, pc, readG⟩ := accessStale_write awaits store one ends noReg noVec
      exact does_of_hw (exec_stale_access s t quiet) ⟨mem, dev, pc, readG⟩
    case absent => rw [exec_ferr s ref request quiet, exec_requesterWatchdog, absent]; exact ⟨rfl, rfl⟩
    case due => rw [exec_ferr s ref request quiet, exec_requesterWatchdog, slot]; simp only [if_pos due]
    case early => rw [exec_requesterWatchdog, slot]; simp only [if_neg (Nat.not_le.mpr early)]
    case access =>
      obtain ⟨p, mapped⟩ := Option.ne_none_iff_exists'.mp mapped
      obtain ⟨k, done, same, entered⟩ := ferrAccess_enters quiet slot mapped agent kind awaits addr alone device first free
      obtain ⟨level, mcip⟩ := entered.checked rfl rfl
      exact ⟨k, done, same, ⟨entered.dev, entered.depth, entered.tcause.trans (tcause_ferrCause w), entered.tval, entered.tpc⟩, level, mcip⟩
    case read =>
      obtain ⟨k, done, same, replays, failed⟩ := ferrRead_replays quiet slot agent mapped kind waits mine opened uses pending
      exact ⟨k, done, same, replays.mem, replays.pc, failed⟩

end

section
/-! SUPPORT. Numbers as little-endian bytes, and the bytes of memory (R89). -/

namespace Sys2Proof.Machine

theorem toBytes_length (n : Nat) : ∀ x, (toBytes n x).length = n := by
  induction n with
  | zero => exact fun _ => rfl
  | succ n ih => exact fun x => congrArg (· + 1) (ih (x >>> 8))

theorem toBytes_getD (n : Nat) : ∀ x i, i < n → (toBytes n x).getD i 0 = BitVec.ofNat 8 (x / 256 ^ i) := by
  induction n with
  | zero => exact fun _ _ h => absurd h (Nat.not_lt_zero _)
  | succ n ih =>
    intro x i h
    cases i with
    | zero => simp [toBytes]
    | succ i =>
      have := ih (x >>> 8) i (Nat.lt_of_succ_lt_succ h)
      rw [toBytes, List.getD_cons_succ, this, Nat.shiftRight_eq_div_pow, Nat.div_div_eq_div_mul, ← Nat.pow_succ']

/-- The bytes of a number give its low bytes back. -/
theorem ofBytes_toBytes (n : Nat) : ∀ x, ofBytes (toBytes n x) = x % 256 ^ n := by
  induction n with
  | zero => exact fun x => (Nat.mod_one x).symm
  | succ n ih =>
    intro x
    rw [toBytes, ofBytes, ih, Nat.shiftLeft_eq, Nat.shiftRight_eq_div_pow, BitVec.toNat_ofNat, Nat.mul_comm, Nat.pow_succ' (m := 256), Nat.mod_mul]

theorem Hw.bytes_length (h : Hw) (n : Nat) : ∀ a, (h.bytes a n).length = n := by
  induction n with
  | zero => exact fun _ => rfl
  | succ n ih => exact fun a => congrArg (· + 1) (ih (a + 1))

/-- The bytes read from memory, each from its own address. -/
theorem Hw.bytes_eq_map (h : Hw) (n : Nat) : ∀ a, h.bytes a n = (List.range n).map (fun i => h.byte (a + i)) := by
  induction n with
  | zero => exact fun _ => rfl
  | succ n ih =>
    intro a
    rw [Hw.bytes, ih, List.range_succ_eq_map]
    simp [Function.comp_def, Nat.add_right_comm a 1, ← Nat.add_assoc]

theorem toBytes_eq_map (n x : Nat) : toBytes n x = (List.range n).map (fun i => BitVec.ofNat 8 (x / 256 ^ i)) := by
  refine List.ext_getElem (by simp [toBytes_length]) fun i h _ => ?_
  have small : i < n := toBytes_length n x ▸ h
  have byte := toBytes_getD n x i small
  rw [List.getD_eq_getElem _ _ h] at byte
  simp [byte]

theorem Hw.byte_writeMem_inside (h : Hw) (a : Nat) (bs : List Byte) {i : Nat} (inside : i < bs.length) :
    (h.writeMem a bs).byte (a + i) = bs.getD i 0 := by
  rw [Hw.byte_writeMem, if_pos (by omega), Nat.add_sub_cancel_left]

theorem Hw.byte_writeMem_outside (h : Hw) (a : Nat) (bs : List Byte) {b : Nat} (outside : b < a ∨ a + bs.length ≤ b) :
    (h.writeMem a bs).byte b = h.byte b := by
  rw [Hw.byte_writeMem, if_neg (by omega)]

theorem Hw.byte_writeNum (h : Hw) (a n v : Nat) {i : Nat} (inside : i < n) : (h.writeNum a n v).byte (a + i) = BitVec.ofNat 8 (v / 256 ^ i) :=
  (h.byte_writeMem_inside a _ (by rwa [toBytes_length])).trans (toBytes_getD n v i inside)

theorem Hw.bytes_writeNum (h : Hw) (a n v : Nat) : (h.writeNum a n v).bytes a n = toBytes n v := by
  rw [Hw.bytes_eq_map, toBytes_eq_map]
  exact List.map_congr_left fun i inside => h.byte_writeNum a n v (List.mem_range.mp inside)

end Sys2Proof.Machine

open Sys2Proof Sys2Proof.Machine

/-- Settles O7: a write replaces the bytes at its addresses and no others, and a number is its bytes. -/
theorem memoryReadsWhatWasWritten : Obligations.MemoryReadsWhatWasWritten := fun h a n v bs =>
  ⟨fun _ inside => h.byte_writeMem_inside a bs inside, fun _ outside => h.byte_writeMem_outside a bs outside,
    fun _ inside => h.byte_writeNum a n v inside, by rw [Hw.bytes_writeNum, ofBytes_toBytes], h.writeMem_wf a bs⟩

end

section
/-! SUPPORT. The integer ALU and the immediate forms: their results by func, and the words that are illegal (R99, R101 to R104). -/

namespace Sys2Proof.Machine

/-- The results of the integer ALU by func (R103, R104). -/
def aluTable (x y : W64) : List (BitVec 11 × W64) :=
  let sh := y.toNat % 64
  let low (z : W64) : W64 := (z.extractLsb' 0 32).signExtend 64
  [(0x000, x + y), (0x001, x - y), (0x002, x &&& y), (0x003, x ||| y), (0x004, x ^^^ y), (0x005, x &&& ~~~y),
   (0x008, x <<< sh), (0x009, x >>> sh), (0x00A, x.sshiftRight sh), (0x00B, x.rotateRight sh),
   (0x010, if x.toInt < y.toInt then 1 else 0), (0x011, if x.toNat < y.toNat then 1 else 0),
   (0x012, if x.toInt < y.toInt then x else y), (0x013, if x.toInt < y.toInt then y else x),
   (0x014, if x.toNat < y.toNat then x else y), (0x015, if x.toNat < y.toNat then y else x),
   (0x020, x * y), (0x021, BitVec.ofInt 64 (x.toInt * y.toInt / 2 ^ 64)), (0x022, BitVec.ofNat 64 (x.toNat * y.toNat / 2 ^ 64)),
   (0x024, if y = 0 then BitVec.allOnes 64 else x.sdiv y), (0x025, if y = 0 then BitVec.allOnes 64 else x / y),
   (0x026, if y = 0 then x else x.srem y), (0x027, if y = 0 then x else x % y),
   (0x030, low (x + y)), (0x031, low (x - y))]

theorem divU_eq (x y : W64) : divU x y = if y = 0 then BitVec.allOnes 64 else x / y := by
  unfold divU
  split
  · rfl
  · exact BitVec.udiv_def.symm

theorem remU_eq (x y : W64) : remU x y = if y = 0 then x else x % y := by
  unfold remU
  split
  · rfl
  · exact BitVec.umod_def.symm

theorem sextW_eq (x : W64) : sextW x = (x.extractLsb' 0 32).signExtend 64 := by
  unfold sextW
  rw [BitVec.setWidth_eq_extractLsb' (by decide)]

theorem aluOp_of_mem (x y : W64) : ∀ p ∈ aluTable x y, aluOp p.1.toNat x y = some p.2 := by
  simp [aluTable, aluOp, b2w, BitVec.slt, BitVec.ult, divS_eq, divU_eq, remS_eq, remU_eq, sextW_eq, Nat.shiftRight_eq_div_pow]

/-- A func outside the table gives no result. -/
theorem aluOp_none (x y : W64) (n : Nat) (out : n ∉ (aluTable x y).map (fun p => p.1.toNat)) : aluOp n x y = none := by
  unfold aluOp
  extract_lets sh
  split
  case h_26 => rfl
  all_goals exact absurd (by simp [aluTable]) out

theorem aluOp_out_of_table (x y : W64) (func : BitVec 11) (out : func ∉ (aluTable x y).map (·.1)) : aluOp func.toNat x y = none := by
  refine aluOp_none x y _ fun inside => out ?_
  obtain ⟨p, listed, same⟩ := List.mem_map.mp inside
  exact List.mem_map.mpr ⟨p, listed, BitVec.eq_of_toNat_eq same⟩

section
variable {s : State} {t : Gtn} {f : Hw}

theorem writesG_integerAlu {d a b : RegNum} {func : BitVec 11} {v : W64} (r : Ready s.hw t.val 1 f)
    (op : aluOp func.toNat ((s.hw.thread t.val).readG a.toNat) ((s.hw.thread t.val).readG b.toNat) = some v) :
    WritesG s (.integerAlu t d a b func) t.val f d v ((s.hw.thread t.val).pc + 4) := by
  refine writesG_of (len := 4) (evs := []) rfl r ?_
  simp [aluBody, wordR3_ne, r.readG, op]

theorem traps_integerAlu {d a b : RegNum} {func : BitVec 11} (r : Ready s.hw t.val 1 f)
    (op : aluOp func.toNat ((s.hw.thread t.val).readG a.toNat) ((s.hw.thread t.val).readG b.toNat) = none) :
    Traps s (.integerAlu t d a b func) t.val f (illegal (wordR3 0x01 d a b func.toNat)) := by
  refine traps_of rfl r ?_
  simp [aluBody, wordR3_ne, r.readG, op]

/-- An immediate form that is legal writes its result (R101). -/
theorem writesG_imm {i : Instr} {o : ImmOp} {d a : RegNum} {imm : BitVec 16} (r : Ready s.hw t.val 1 f)
    (e : exec i s = s.onHw (issue t.val 1 (immBody1 o t.val d a imm))) (legal : o = .lui → a = 0) :
    WritesG s i t.val f d (o.result ((s.hw.thread t.val).readG a.toNat) (o.ext imm)) ((s.hw.thread t.val).pc + 4) := by
  have word : wordBad (wordI16 o.major d a imm) = false := wordI16_ne _ _ _ _ (by cases o <;> decide) (by cases o <;> decide)
  refine writesG_of (len := 4) (evs := []) e r ?_
  rw [immBody1, immBody, word, r.readG, if_neg (by simpa using legal)]

theorem traps_lui {d a : RegNum} {imm : BitVec 16} (r : Ready s.hw t.val 1 f) (named : a ≠ 0) :
    Traps s (.lui t d a imm) t.val f (illegal (wordI16 0x06 d a imm)) := by
  refine traps_of rfl r ?_
  rw [immBody1, immBody, if_pos (by simp only [decide_true, Bool.true_and, Bool.or_eq_true]; exact .inr (bne_iff_ne.mpr named))]
  rfl

/-- The two used fields of a shift immediate (R102). -/
theorem shiftImmOp_eq (imm : BitVec 16) (x : W64) : shiftImmOp imm x =
    let sh := (imm.extractLsb' 0 6).toNat
    let kind := (imm.extractLsb' 8 8).toNat
    if imm.extractLsb' 6 2 = 0 ∧ kind ≤ 3 then
      some (if kind = 0 then x <<< sh else if kind = 1 then x >>> sh else if kind = 2 then x.sshiftRight sh else x.rotateRight sh)
    else none := by
  have sh : (imm.extractLsb' 0 6).toNat = imm.toNat % 64 := by simp
  have kind : (imm.extractLsb' 8 8).toNat = imm.toNat >>> 8 := by
    have := imm.isLt
    rw [BitVec.extractLsb'_toNat, Nat.shiftRight_eq_div_pow]
    omega
  have zero : imm.extractLsb' 6 2 = 0 ↔ nbits imm.toNat 7 6 = 0 := by
    rw [← BitVec.toNat_inj, BitVec.extractLsb'_toNat]
    rfl
  simp only [sh, kind, zero, shiftImmOp]
  by_cases z : nbits imm.toNat 7 6 = 0
  · simp only [z, bne_self_eq_false, Bool.false_eq_true, if_false, true_and]
    generalize imm.toNat >>> 8 = k
    match k with
    | 0 => rfl
    | 1 => rfl
    | 2 => rfl
    | 3 => rfl
    | k + 4 => rfl
  · simp [z]

theorem writesG_shiftImmediate {d a : RegNum} {imm : BitVec 16} {v : W64} (r : Ready s.hw t.val 1 f)
    (op : shiftImmOp imm ((s.hw.thread t.val).readG a.toNat) = some v) :
    WritesG s (.shiftImmediate t d a imm) t.val f d v ((s.hw.thread t.val).pc + 4) := by
  refine writesG_of (len := 4) (evs := []) rfl r ?_
  simp [shiftBody, r.readG, op]

theorem traps_shiftImmediate {d a : RegNum} {imm : BitVec 16} (r : Ready s.hw t.val 1 f)
    (op : shiftImmOp imm ((s.hw.thread t.val).readG a.toNat) = none) :
    Traps s (.shiftImmediate t d a imm) t.val f (illegal (wordI16 0x07 d a imm)) := by
  refine traps_of rfl r ?_
  simp [shiftBody, r.readG, op]

end

end Sys2Proof.Machine

open Sys2Proof Sys2Proof.Machine

/-- Settles O8: each func and each immediate form by its result, and every other encoding by the exception. -/
theorem integerAluAndImmediates : Obligations.IntegerAluAndImmediates := by
  refine ⟨fun s t d a b f r => ⟨fun p listed => writesG_integerAlu r (aluOp_of_mem _ _ p listed), fun func out => traps_integerAlu r (aluOp_out_of_table _ _ func out)⟩,
    fun s t d a imm f r => ⟨writesG_imm (o := .addi) r rfl nofun, writesG_imm (o := .andi) r rfl nofun, writesG_imm (o := .ori) r rfl nofun, writesG_imm (o := .xori) r rfl nofun, fun zero => writesG_imm (o := .lui) r rfl fun _ => zero,
      traps_lui r, fun zero kind => writesG_shiftImmediate r ?_, fun bad => traps_shiftImmediate r ?_⟩⟩
  · rw [shiftImmOp_eq]; exact if_pos ⟨zero, kind⟩
  · rw [shiftImmOp_eq]; exact if_neg bad

end

section
/-! SUPPORT. What a vector instruction finds in its thread once it is fetched, its checks (R99, R107), and its retirement with a vector register, a predicate or flags written. -/

namespace Sys2Proof.Machine

section
variable {h f : Hw} {t w : Nat}

theorem Ready.thread (r : Ready h t w f) : ∃ wb wp m l q tr n rs, (f.fetched t).thread t =
    { h.thread t with atVector := false, walkBuf := wb, walkPtrs := wp, missed := m, locals := l, evq := q, trainq := tr, lseq := n, resv := rs } := by
  rw [r.fetchedThread, r.kept t]
  exact ⟨_, _, _, _, _, _, _, _, rfl⟩

theorem Ready.readV (r : Ready h t w f) (n : Nat) : ((f.fetched t).thread t).readV n = (h.thread t).readV n := by
  obtain ⟨_, _, _, _, _, _, _, _, e⟩ := r.thread
  rw [e]; rfl

theorem Ready.readP (r : Ready h t w f) (n : Nat) : ((f.fetched t).thread t).readP n = (h.thread t).readP n := by
  obtain ⟨_, _, _, _, _, _, _, _, e⟩ := r.thread
  rw [e]; rfl

theorem Ready.ven (r : Ready h t w f) : ((f.fetched t).thread t).ven = (h.thread t).ven := by
  obtain ⟨_, _, _, _, _, _, _, _, e⟩ := r.thread
  rw [e]

theorem Ready.fpcsr (r : Ready h t w f) : ((f.fetched t).thread t).fpcsr = (h.thread t).fpcsr := by
  obtain ⟨_, _, _, _, _, _, _, _, e⟩ := r.thread
  rw [e]

end

theorem Hw.onThread_onThread (h : Hw) (t : Nat) (g k : Thread → Thread) : (h.onThread t g).onThread t k = h.onThread t (fun x => k (g x)) := by
  rw [Hw.onThread_eq, Hw.onThread_eq, Hw.setThread_thread, Hw.setThread_setThread, Hw.onThread_eq]

/-! The checks of a vector instruction. -/

theorem vecGuard_goes {t : Nat} {h : Hw} (on : (h.thread t).ven = true) (w : W32) (k : Hw → Exe) : vecGuard false w t h k = k h := by
  simp [vecGuard, on]

section
variable {s : State} {i : Instr} {t : Nat} {f : Hw} {body : Hw → Exe} {bad : Bool} {w : W32} {k : Hw → Exe}
variable (e : exec i s = s.onHw (issue t 1 body)) (r : Ready s.hw t 1 f) (checks : body (f.fetched t) = vecGuard bad w t (f.fetched t) k)
include e r checks

theorem traps_vecIllegal (illegal_word : bad = true) : Traps s i t f { code := 0x04, tval := w.zeroExtend 64 } :=
  traps_of e r (checks.trans (by rw [vecGuard, if_pos illegal_word]; rfl))

theorem traps_vecDisabled (legal : bad = false) (off : (s.hw.thread t).ven = false) : Traps s i t f { code := 0x06, tval := w.zeroExtend 64 } :=
  traps_of e r (checks.trans (by rw [vecGuard, if_neg (by simp [legal]), if_pos (by simp [r.ven, off])]; rfl))

omit e in
theorem vecGuard_enabled (legal : bad = false) (on : (s.hw.thread t).ven = true) : body (f.fetched t) = k (f.fetched t) := by
  rw [checks, legal]
  exact vecGuard_goes (r.ven.trans on) w k

end

/-! Retirement. -/

/-- A ready instruction that changes its thread, and retires at the next word. -/
theorem retires_next {s : State} {i : Instr} {t : Nat} {body : Hw → Exe} {f : Hw} {g : Thread → Thread} (e : exec i s = s.onHw (issue t 1 body))
    (r : Ready s.hw t 1 f) (b : body (f.fetched t) = .ok (retire ((f.fetched t).onThread t g) t 4))
    (own : ∀ x : Thread, { (g { x with atVector := false }).clearProg with pc := (g { x with atVector := false }).pc + 4 } = g (x.after (x.pc + 4))) :
    ∃ u, exec i s = .next u ∧ Retires s u t f (g ((f.thread t).after ((s.hw.thread t).pc + 4))) := by
  obtain ⟨u, done, retired⟩ := retires_onThread (len := 4) (evs := []) e r b
  exact ⟨u, done, by rw [← r.pc, ← own]; exact retired⟩

theorem Thread.retire_writeV (x : Thread) (n : Nat) (v : V512) :
    { (({ x with atVector := false } : Thread).writeV n v).clearProg with pc := (({ x with atVector := false } : Thread).writeV n v).pc + 4 } = (x.after (x.pc + 4)).writeV n v := rfl

/-! Lanes. -/

theorem eBytes_pos (v : VFields) : 0 < eBytes v := Nat.two_pow_pos _

theorem eBytes_eq_one (v : VFields) : eBytes v = 1 ↔ v.esize = 0 := by
  rw [eBytes, Nat.pow_eq_one, ← BitVec.toNat_inj]
  simp

/-- A lane of a result under a predicate (R88). -/
theorem lane_maskLanes (v : VFields) (p : W64) (z : Bool) (old : V512) (f : Nat → Nat) {n : Nat} (lt : n < 64 / eBytes v) :
    lane (eBytes v) (maskLanes (eBytes v) p z old f) n =
      if p.getLsbD (n * eBytes v) then f n % 2 ^ (8 * eBytes v) else if z then 0 else lane (eBytes v) old n := by
  rw [maskLanes, eBytes, lane_mkLanes _ v.esize.isLt _ _ lt, laneActive]
  split
  · rfl
  · split
    · exact Nat.zero_mod _
    · exact Nat.mod_eq_of_lt (lane_lt _ _ _)

/-! Flags of floating point (R95). -/

theorem testBit_b2n_shiftLeft (b : Bool) (n k : Nat) : (b2n b <<< n).testBit k = (decide (k = n) && b) := by
  cases b
  · simp [b2n]
  · simp [b2n, Nat.shiftLeft_eq, Nat.testBit_two_pow, eq_comm]

theorem getLsbD_flags (a : FFlags) (k : Nat) : a.word.getLsbD k =
    (decide (k = 4) && a.nv || decide (k = 5) && a.dz || decide (k = 6) && a.of || decide (k = 7) && a.uf || decide (k = 8) && a.nx) := by
  rw [FFlags.word, BitVec.getLsbD_ofNat]
  simp only [Nat.testBit_or, testBit_b2n_shiftLeft]
  by_cases small : k < 64
  · simp [small]
  · have : k ≠ 4 ∧ k ≠ 5 ∧ k ≠ 6 ∧ k ≠ 7 ∧ k ≠ 8 := by omega
    simp [small, this]

theorem FFlags.word_or (a b : FFlags) : (a.or b).word = a.word ||| b.word := by
  refine BitVec.eq_of_getLsbD_eq fun k _ => ?_
  simp only [BitVec.getLsbD_or, getLsbD_flags, FFlags.or, Bool.and_or_distrib_left]
  ac_rfl

/-- The flags of several lanes are the flags of any of them. -/
theorem getLsbD_foldl_flags {α : Type} (g : α → FFlags) (k : Nat) (l : List α) : ∀ a : FFlags,
    (l.foldl (fun fl i => fl.or (g i)) a).word.getLsbD k = (a.word.getLsbD k || l.any (fun i => (g i).word.getLsbD k)) := by
  induction l with
  | nil => simp
  | cons x l ih => exact fun a => by rw [List.foldl_cons, ih, FFlags.word_or, BitVec.getLsbD_or, List.any_cons, Bool.or_assoc]

theorem getLsbD_lane_flags (e : Nat) (p : W64) (g : Nat → FFlags) (k : Nat) :
    ((activeLanes e p).foldl (fun (fl : FFlags) i => fl.or (g i)) {}).word.getLsbD k =
      decide (∃ n < 64 / e, p.getLsbD (n * e) = true ∧ (g n).word.getLsbD k = true) := by
  rw [getLsbD_foldl_flags, Bool.eq_iff_iff]
  simp [getLsbD_flags, activeLanes, laneActive, laneCount]

end Sys2Proof.Machine
end

section
/-! SUPPORT. Vector arithmetic: the lanes of major 0x20 by func (R87, R88, R95, R107). -/

namespace Sys2Proof.Machine

/-- The integer operation of a func on two lanes of e bytes (R107). -/
def vaddTable (e : Nat) : List (BitVec 5 × (Nat → Nat → Nat)) :=
  [(0x00, fun a b => (a + b) % 2 ^ (8 * e)), (0x01, fun a b => (a + 2 ^ (8 * e) - b) % 2 ^ (8 * e)), (0x02, fun a b => a &&& b),
   (0x03, fun a b => a ||| b), (0x04, fun a b => a ^^^ b), (0x08, fun a b => a * b % 2 ^ (8 * e)),
   (0x0C, fun a b => if laneS e a ≤ laneS e b then a else b), (0x0D, fun a b => if laneS e a ≤ laneS e b then b else a),
   (0x0E, fun a b => if a ≤ b then a else b), (0x0F, fun a b => if a ≤ b then b else a)]

/-- The floating-point operation of a func (R107). -/
def vfpTable : List (BitVec 5 × FOp) := [(0x10, .add), (0x11, .sub), (0x12, .mul), (0x13, .fma), (0x14, .div), (0x15, .min), (0x16, .max)]

theorem vaddOp_of_mem (e : Nat) : ∀ c ∈ vaddTable e, ∀ a b, vaddOp e c.1.toNat a b = some (c.2 a b) := by
  simp [vaddTable, vaddOp, Nat.min_def, Nat.max_def]

theorem vfpOp_of_mem : ∀ c ∈ vfpTable, vfpOp c.1.toNat = some c.2 := by simp [vfpTable, vfpOp]

theorem vfpOp_of_vadd (e : Nat) : ∀ c ∈ vaddTable e, vfpOp c.1.toNat = none := by simp [vaddTable, vfpOp]

/-- The result of an integer operation on lanes is a lane. -/
theorem vaddTable_lt (e : Nat) : ∀ c ∈ vaddTable e, ∀ a b, a < 2 ^ (8 * e) → b < 2 ^ (8 * e) → c.2 a b < 2 ^ (8 * e) := by
  have pos := Nat.two_pow_pos (8 * e)
  have pick (c : Prop) [Decidable c] (a b : Nat) (lta : a < 2 ^ (8 * e)) (ltb : b < 2 ^ (8 * e)) : (if c then a else b) < 2 ^ (8 * e) := by split <;> assumption
  simp only [vaddTable, List.forall_mem_cons]
  refine ⟨fun _ _ _ _ => Nat.mod_lt _ pos, fun _ _ _ _ => Nat.mod_lt _ pos, fun _ _ lt _ => Nat.and_lt_two_pow _ ‹_›, fun _ _ => Nat.or_lt_two_pow, fun _ _ => Nat.xor_lt_two_pow,
    fun _ _ _ _ => Nat.mod_lt _ pos, fun _ _ => pick _ _ _, fun _ _ lta ltb => pick _ _ _ ltb lta, fun _ _ => pick _ _ _, fun _ _ lta ltb => pick _ _ _ ltb lta, nofun⟩

theorem vaddOp_none (e n a b : Nat) (out : n ∉ (vaddTable e).map (fun c => c.1.toNat)) : vaddOp e n a b = none := by
  unfold vaddOp
  split
  case h_11 => rfl
  all_goals exact absurd (by simp [vaddTable]) out

theorem vaddOp_out_of_table (e : Nat) (func : BitVec 5) (a b : Nat) (out : func ∉ (vaddTable e).map (·.1)) : vaddOp e func.toNat a b = none := by
  refine vaddOp_none e _ a b fun inside => out ?_
  obtain ⟨c, listed, same⟩ := List.mem_map.mp inside
  exact List.mem_map.mpr ⟨c, listed, BitVec.eq_of_toNat_eq same⟩

theorem vfpOp_none (n : Nat) (out : ¬ (0x10 ≤ n ∧ n ≤ 0x16)) : vfpOp n = none := by
  unfold vfpOp
  split
  case h_8 => rfl
  all_goals exact absurd (by decide) out

section
variable {s : State} {i : Instr} {t : Nat} {v : VFields} {func : BitVec 5} {f : Hw}
variable (e : exec i s = s.onHw (issue t 1 (vec20Body t v func))) (r : Ready s.hw t 1 f)
include e r

theorem traps_vec20_unassigned (no_int : vaddOp (eBytes v) func.toNat 0 0 = none) (no_fp : vfpOp func.toNat = none) :
    Traps s i t f { code := 0x04, tval := (wordV 0x20 v func).zeroExtend 64 } :=
  traps_vecIllegal e r (by rw [vec20Body, no_fp]) (by rw [no_int]; rfl)

theorem traps_vec20_disabled (c : BitVec 5 × (Nat → Nat → Nat)) (listed : c ∈ vaddTable (eBytes v)) (same : func = c.1) (off : (s.hw.thread t).ven = false) :
    Traps s i t f { code := 0x06, tval := (wordV 0x20 v func).zeroExtend 64 } := by
  subst same
  exact traps_vecDisabled e r (by rw [vec20Body, vfpOp_of_vadd _ c listed]) (by rw [vaddOp_of_mem _ c listed]; rfl) off

/-- An integer operation on the active lanes (R88, R107). -/
theorem retires_vec20_int (c : BitVec 5 × (Nat → Nat → Nat)) (listed : c ∈ vaddTable (eBytes v)) (same : func = c.1) (on : (s.hw.thread t).ven = true) :
    let x := s.hw.thread t
    ∃ u r, exec i s = .next u ∧ Retires s u t f (((f.thread t).after (x.pc + 4)).writeV v.d.toNat r) ∧
      ∀ n < 64 / eBytes v, lane (eBytes v) r n = if (x.readP v.pred.toNat).getLsbD (n * eBytes v) then
        c.2 (lane (eBytes v) (x.readV v.a.toNat) n) (lane (eBytes v) (x.readV v.b.toNat) n) else if v.z then 0 else lane (eBytes v) (x.readV v.d.toNat) n := by
  subst same
  extract_lets x
  have work := vecGuard_enabled (body := vec20Body t v c.1) r (by rw [vec20Body, vfpOp_of_vadd _ c listed]) (by rw [vaddOp_of_mem _ c listed]; rfl) on
  simp only [r.readV, r.readP] at work
  obtain ⟨u, done, retired⟩ := retires_next e r work (fun y => y.retire_writeV _ _)
  refine ⟨u, _, done, retired, fun n lt => ?_⟩
  rw [lane_maskLanes _ _ _ _ _ lt, vaddOp_of_mem _ c listed, Option.getD_some, Nat.mod_eq_of_lt (vaddTable_lt _ c listed _ _ (lane_lt _ _ _) (lane_lt _ _ _))]

section
variable (c : BitVec 5 × FOp) (listed : c ∈ vfpTable) (same : func = c.1)
include listed same

theorem traps_vec20_bytes (bytes : v.esize = 0) : Traps s i t f { code := 0x04, tval := (wordV 0x20 v func).zeroExtend 64 } := by
  subst same
  exact traps_vecIllegal e r (by rw [vec20Body, vfpOp_of_mem c listed]) (decide_eq_true ((eBytes_eq_one v).mpr bytes))

theorem traps_vec20_fpDisabled (elements : v.esize ≠ 0) (off : (s.hw.thread t).ven = false) :
    Traps s i t f { code := 0x06, tval := (wordV 0x20 v func).zeroExtend 64 } := by
  subst same
  exact traps_vecDisabled e r (by rw [vec20Body, vfpOp_of_mem c listed]) (decide_eq_false (mt (eBytes_eq_one v).mp elements)) off

/-- A floating-point operation on the active lanes, and their flags (R88, R95, R107). -/
theorem retires_vec20_fp (elements : v.esize ≠ 0) (on : (s.hw.thread t).ven = true) :
    let x := s.hw.thread t
    let res (n : Nat) := c.2.run (fmtOf v.esize.toNat) (fctlOf x.fpcsr) (lane (eBytes v) (x.readV v.a.toNat) n) (lane (eBytes v) (x.readV v.b.toNat) n) (lane (eBytes v) (x.readV v.d.toNat) n)
    ∃ (u : State) (r : V512) (fl : W64), exec i s = .next u ∧
      Retires s u t f { ((f.thread t).after (x.pc + 4)).writeV v.d.toNat r with fpcsr := x.fpcsr ||| fl } ∧
      (∀ n < 64 / eBytes v, lane (eBytes v) r n =
        if (x.readP v.pred.toNat).getLsbD (n * eBytes v) then (res n).1 % 2 ^ (8 * eBytes v) else if v.z then 0 else lane (eBytes v) (x.readV v.d.toNat) n) ∧
      (∀ k : Nat, fl.getLsbD k = decide (∃ n < 64 / eBytes v, (x.readP v.pred.toNat).getLsbD (n * eBytes v) = true ∧ (res n).2.word.getLsbD k = true)) := by
  subst same
  extract_lets x res
  have work := vecGuard_enabled (body := vec20Body t v c.1) r (by rw [vec20Body, vfpOp_of_mem c listed]) (decide_eq_false (mt (eBytes_eq_one v).mp elements)) on
  simp only [r.readV, r.readP, r.fpcsr, Hw.addFlags, Hw.onThread_onThread] at work
  obtain ⟨u, done, retired⟩ := retires_next e r work (fun _ => rfl)
  have fpcsr : (f.thread t).fpcsr = x.fpcsr := by rw [r.kept t]
  refine ⟨u, _, _, done, ?_, fun n lt => lane_maskLanes v _ _ _ _ lt, getLsbD_lane_flags _ _ (fun n => (res n).2)⟩
  rw [← fpcsr]
  exact retired

end

end

end Sys2Proof.Machine

open Sys2Proof Sys2Proof.Machine

/-- Settles O11, by the result of each func on the lanes. -/
theorem vectorLaneResults : Obligations.VectorLaneResults := by
  have runs (s : State) (t : Gtn) (v : VFields) (func : BitVec 5) : ∀ i ∈ [Instr.vectorAlu t v func, Instr.vectorFp t v func],
      exec i s = s.onHw (issue t.val 1 (vec20Body t.val v func)) := List.forall_mem_cons.mpr ⟨rfl, List.forall_mem_singleton.mpr rfl⟩
  refine ⟨fun s t v f r => ⟨fun c listed i form => ?ints, fun func out no_fp i form => ?unassigned⟩, fun s t v f r c listed i form => ?floats⟩
  case ints =>
    have entry : ∃ c' ∈ vaddTable (eBytes v), c.1 = c'.1 ∧ c.2 = fun n => c'.2 (lane (eBytes v) ((s.hw.thread t.val).readV v.a.toNat) n) (lane (eBytes v) ((s.hw.thread t.val).readV v.b.toNat) n) :=
      (List.mem_map (f := fun c' => (c'.1, fun n => c'.2 (lane (eBytes v) ((s.hw.thread t.val).readV v.a.toNat) n) (lane (eBytes v) ((s.hw.thread t.val).readV v.b.toNat) n))).mp listed).imp
        fun _ => fun ⟨listed, same⟩ => ⟨listed, congrArg Prod.fst same.symm, congrArg Prod.snd same.symm⟩
    obtain ⟨c', listed', same, result⟩ := entry
    rw [result]
    exact ⟨retires_vec20_int (runs s t v c.1 i form) r c' listed' same, traps_vec20_disabled (runs s t v c.1 i form) r c' listed' same⟩
  case unassigned => exact traps_vec20_unassigned (runs s t v func i form) r (vaddOp_out_of_table _ _ _ _ out) (vfpOp_none _ no_fp)
  case floats =>
    have e := runs s t v c.1 i form
    exact ⟨traps_vec20_bytes e r c listed rfl, traps_vec20_fpDisabled e r c listed rfl, retires_vec20_fp e r c listed rfl⟩

end

section
/-! SUPPORT. Predicates as lane masks, the compares of PCOMP by func, and predicate logic (R85 to R88, R102, R107). -/

namespace Sys2Proof.Machine

/-! Bits that are gathered into a predicate. -/

/-- The number whose bits are gathered one by one has these bits. -/
theorem testBit_gather (g : Nat → Bool) (n : Nat) :
    let x := (List.range n).foldl (fun acc b => acc + (b2n (g b) <<< b)) 0
    x < 2 ^ n ∧ ∀ k, x.testBit k = (decide (k < n) && g k) := by
  induction n with
  | zero => simp
  | succ n ih =>
    simp only [List.range_succ, List.foldl_append, List.foldl_cons, List.foldl_nil]
    obtain ⟨lt, bits⟩ := ih
    generalize (List.range n).foldl (fun acc b => acc + (b2n (g b) <<< b)) 0 = x at lt bits
    have bit : b2n (g n) < 2 := by cases g n <;> decide
    refine ⟨?_, fun k => ?_⟩
    · rw [Nat.shiftLeft_eq, Nat.pow_succ]
      have := Nat.mul_le_mul_right (2 ^ n) (Nat.le_of_lt_succ bit)
      omega
    · rw [Nat.add_comm, Nat.shiftLeft_eq, Nat.mul_comm, Nat.testBit_two_pow_mul_add _ lt, bits]
      rcases Nat.lt_trichotomy k n with below | rfl | above
      · simp [below, Nat.lt_succ_of_lt below]
      · cases g k <;> simp [b2n]
      · have high : (b2n (g n)).testBit (k - n) = false := Nat.testBit_lt_two_pow (Nat.lt_of_lt_of_le bit (Nat.pow_le_pow_right (n := 2) (by decide) (show 1 ≤ k - n by omega)))
        rw [if_neg (by omega), high]
        simp [show ¬ k < n + 1 by omega]

/-- A bit of a predicate is the result of its lane, in the active lanes (R87, R88). -/
theorem getLsbD_mkPred (e : Nat) (p : W64) (f : Nat → Bool) {k : Nat} (lt : k < 64) :
    (mkPred e p f).getLsbD k = (p.getLsbD (k / e * e) && f (k / e)) := by
  unfold mkPred
  generalize bytes : (List.range 8).map _ = l
  have byte : ofLanes 1 l / 2 ^ (8 * (k / 8)) % 2 ^ 8 = l.getD (k / 8) 0 % 2 ^ 8 := ofLanes_lane 1 l (k / 8) (by rw [← bytes, List.length_map, List.length_range]; omega)
  have split_bit : (ofLanes 1 l).testBit k = (ofLanes 1 l / 2 ^ (8 * (k / 8)) % 2 ^ 8).testBit (k % 8) := by
    rw [Nat.testBit_mod_two_pow, Nat.testBit_div_two_pow, Nat.mod_add_div]
    simp [Nat.mod_lt]
  rw [BitVec.getLsbD_ofNat, split_bit, byte, ← bytes, Nat.testBit_mod_two_pow, List.getD_eq_getElem _ _ (by simp; omega)]
  simp only [List.getElem_map, List.getElem_range]
  rw [(testBit_gather (fun b => laneActive e p ((8 * (k / 8) + b) / e) && f ((8 * (k / 8) + b) / e)) 8).2 (k % 8), show 8 * (k / 8) + k % 8 = k by omega]
  simp [lt, Nat.mod_lt, laneActive]

/-! Retirement with a predicate written (R86). -/

theorem Thread.retire_writeP (x : Thread) (n : Nat) (v : W64) :
    { (({ x with atVector := false } : Thread).writeP n v).clearProg with pc := (({ x with atVector := false } : Thread).writeP n v).pc + 4 } = (x.after (x.pc + 4)).writeP n v := by
  unfold Thread.writeP Thread.after Thread.clearProg; split <;> rfl

theorem Thread.retire_writeP_flags (x : Thread) (n : Nat) (v fl : W64) :
    let y : Thread := { (({ x with atVector := false } : Thread).writeP n v) with fpcsr := (({ x with atVector := false } : Thread).writeP n v).fpcsr ||| fl }
    let z := (x.after (x.pc + 4)).writeP n v
    { y.clearProg with pc := y.pc + 4 } = { z with fpcsr := z.fpcsr ||| fl } := by
  unfold Thread.writeP Thread.after Thread.clearProg; split <;> rfl

/-- Lanes without flags leave cr.fpcsr as it is. -/
theorem lane_flags_none (e : Nat) (p : W64) : ((activeLanes e p).foldl (fun (fl : FFlags) _ => fl.or {}) {}).word = 0#64 := by
  refine BitVec.eq_of_getLsbD_eq fun k _ => ?_
  rw [getLsbD_lane_flags e p (fun _ => {})]
  simp [getLsbD_flags]

/-! PCOMP (R107). -/

/-- The integer compare of a func on two lanes of e bytes. -/
def pcompTable (e : Nat) : List (BitVec 5 × (Nat → Nat → Bool)) :=
  [(0x00, fun a b => decide (a = b)), (0x01, fun a b => decide (a ≠ b)), (0x02, fun a b => decide (laneS e a < laneS e b)),
   (0x03, fun a b => decide (a < b)), (0x04, fun a b => decide (laneS e a ≤ laneS e b)), (0x05, fun a b => decide (a ≤ b))]

/-- The floating compare of a func. -/
def pcompFpTable : List (BitVec 5 × FCmpOp) := [(0x08, .eq), (0x09, .lt), (0x0A, .le), (0x0B, .unord)]

theorem pcompInt_of_mem (e : Nat) : ∀ c ∈ pcompTable e, ∀ a b, pcompInt e c.1.toNat a b = some (c.2 a b) := by
  simp [pcompTable, pcompInt, bne, beq_eq_decide]

theorem pcompFp_of_mem : ∀ c ∈ pcompFpTable, pcompFp c.1.toNat = some c.2 := by simp [pcompFpTable, pcompFp]

theorem pcompFp_of_int (e : Nat) : ∀ c ∈ pcompTable e, pcompFp c.1.toNat = none := by simp [pcompTable, pcompFp]

theorem pcompInt_isSome {e n a b : Nat} (known : (pcompInt e n a b).isSome = true) : n ∈ (pcompTable e).map (fun c => c.1.toNat) := by
  unfold pcompInt at known
  split at known
  case h_7 => cases known
  all_goals simp [pcompTable]

theorem pcompFp_some {n : Nat} {o : FCmpOp} (known : pcompFp n = some o) : n ∈ pcompFpTable.map (fun c => c.1.toNat) := by
  unfold pcompFp at known
  split at known
  case h_5 => cases known
  all_goals simp [pcompFpTable]

theorem mem_codes {α : Type} {l : List (BitVec 5 × α)} {func : BitVec 5} (listed : func.toNat ∈ l.map (fun c => c.1.toNat)) : func ∈ l.map (·.1) := by
  obtain ⟨c, inside, same⟩ := List.mem_map.mp listed
  exact List.mem_map.mpr ⟨c, inside, BitVec.eq_of_toNat_eq same⟩

/-- The funcs of PCOMP that a word may hold (R99, R107). -/
def pcompKnown (v : VFields) (func : BitVec 5) : Prop :=
  func ∈ (pcompTable (eBytes v)).map (·.1) ∨ (func ∈ pcompFpTable.map (·.1) ∧ v.esize ≠ 0)

/-- The check of PCOMP (R98, R99). -/
def pcompBad (v : VFields) (func : BitVec 5) : Bool :=
  decide (8 ≤ v.d.toNat) || (match pcompFp func.toNat with
    | some _ => decide (eBytes v = 1)
    | none => (pcompInt (eBytes v) func.toNat 0 0).isNone)

theorem pcompBad_eq_false {v : VFields} {func : BitVec 5} : pcompBad v func = false ↔ v.d.toNat < 8 ∧ pcompKnown v func := by
  rw [pcompBad, Bool.or_eq_false_iff, decide_eq_false_iff_not, Nat.not_le]
  refine and_congr_right fun _ => ⟨fun legal => ?_, fun known => ?_⟩
  · split at legal
    case h_1 o found => exact .inr ⟨mem_codes (pcompFp_some found), mt (eBytes_eq_one v).mpr (of_decide_eq_false legal)⟩
    case h_2 => exact .inl (mem_codes (pcompInt_isSome (Option.isNone_eq_false_iff.mp legal)))
  · rcases known with int | ⟨fp, elements⟩
    · obtain ⟨c, listed, rfl⟩ := List.mem_map.mp int
      rw [pcompFp_of_int _ c listed]
      exact congrArg Option.isNone (pcompInt_of_mem _ c listed 0 0)
    · obtain ⟨c, listed, rfl⟩ := List.mem_map.mp fp
      rw [pcompFp_of_mem c listed]
      exact decide_eq_false (mt (eBytes_eq_one v).mp elements)

section
variable {s : State} {t : Gtn} {v : VFields} {func : BitVec 5} {f : Hw} (r : Ready s.hw t.val 1 f)
include r

theorem traps_pcomp_illegal (bad : 8 ≤ v.d.toNat ∨ ¬ pcompKnown v func) : Traps s (.pcomp t v func) t.val f { code := 0x04, tval := (wordV 0x22 v func).zeroExtend 64 } := by
  refine traps_vecIllegal (body := pcompBody t.val v func) rfl r (by rw [pcompBody]) (Bool.eq_true_of_not_eq_false fun legal => ?_)
  obtain ⟨low, known⟩ := pcompBad_eq_false.mp legal
  exact bad.elim (Nat.not_le.mpr low) (not_not.mpr known)

theorem traps_pcomp_disabled (low : v.d.toNat < 8) (known : pcompKnown v func) (off : (s.hw.thread t.val).ven = false) :
    Traps s (.pcomp t v func) t.val f { code := 0x06, tval := (wordV 0x22 v func).zeroExtend 64 } :=
  traps_vecDisabled (body := pcompBody t.val v func) rfl r (by rw [pcompBody]) (by exact pcompBad_eq_false.mpr ⟨low, known⟩) off

section
variable (on : (s.hw.thread t.val).ven = true) (low : v.d.toNat < 8)
include on low

/-- An integer compare of the active lanes. -/
theorem retires_pcomp_int (c : BitVec 5 × (Nat → Nat → Bool)) (listed : c ∈ pcompTable (eBytes v)) :
    let x := s.hw.thread t.val
    ∃ p : W64, (∃ u, exec (.pcomp t v c.1) s = .next u ∧ Retires s u t.val f (((f.thread t.val).after (x.pc + 4)).writeP v.d.toNat p)) ∧
      ∀ k < 64, p.getLsbD k = ((x.readP v.pred.toNat).getLsbD (k / eBytes v * eBytes v) &&
        c.2 (lane (eBytes v) (x.readV v.a.toNat) (k / eBytes v)) (lane (eBytes v) (x.readV v.b.toNat) (k / eBytes v))) := by
  extract_lets x
  have work := vecGuard_enabled (body := pcompBody t.val v c.1) r (by rw [pcompBody]) (by exact pcompBad_eq_false.mpr ⟨low, .inl (List.mem_map_of_mem listed)⟩) on
  simp only [r.readV, r.readP, pcompFp_of_int _ c listed, pcompInt_of_mem _ c listed, Hw.addFlags, Hw.onThread_onThread, lane_flags_none] at work
  obtain ⟨u, done, retired⟩ := retires_next (i := .pcomp t v c.1) rfl r work (fun y => y.retire_writeP_flags _ _ _)
  rw [BitVec.or_zero] at retired
  exact ⟨_, ⟨u, done, retired⟩, fun k lt => getLsbD_mkPred _ _ _ lt⟩

/-- A floating compare of the active lanes, with its flags. -/
theorem retires_pcomp_fp (elements : v.esize ≠ 0) (c : BitVec 5 × FCmpOp) (listed : c ∈ pcompFpTable) :
    let x := s.hw.thread t.val
    ∃ (u : State) (p fl : W64), exec (.pcomp t v c.1) s = .next u ∧
      Retires s u t.val f { ((f.thread t.val).after (x.pc + 4)).writeP v.d.toNat p with fpcsr := x.fpcsr ||| fl } ∧
      ∀ k < 64, p.getLsbD k = ((x.readP v.pred.toNat).getLsbD (k / eBytes v * eBytes v) &&
        (c.2.run (fmtOf v.esize.toNat) (lane (eBytes v) (x.readV v.a.toNat) (k / eBytes v)) (lane (eBytes v) (x.readV v.b.toNat) (k / eBytes v))).1) := by
  extract_lets x
  have work := vecGuard_enabled (body := pcompBody t.val v c.1) r (by rw [pcompBody]) (by exact pcompBad_eq_false.mpr ⟨low, .inr ⟨List.mem_map_of_mem listed, elements⟩⟩) on
  simp only [r.readV, r.readP, pcompFp_of_mem c listed, Hw.addFlags, Hw.onThread_onThread] at work
  obtain ⟨u, done, retired⟩ := retires_next (i := .pcomp t v c.1) rfl r work (fun y => y.retire_writeP_flags _ _ _)
  have fpcsr : (f.thread t.val).fpcsr = x.fpcsr := by rw [r.kept t.val]
  rw [Thread.writeP_fpcsr, show ((f.thread t.val).after (x.pc + 4)).fpcsr = x.fpcsr from fpcsr] at retired
  exact ⟨u, _, _, done, retired, fun k lt => getLsbD_mkPred _ _ (fun i => (c.2.run _ _ _).1) lt⟩

end

end

/-! Predicate logic (R102). -/

/-- Predicate logic by func. -/
def predTable (t : Gtn) (d a b : RegNum) : List (Nat × Instr × (W64 → W64 → W64)) :=
  [(0, .pand t d a b, (· &&& ·)), (1, .por t d a b, (· ||| ·)), (2, .pxor t d a b, (· ^^^ ·)), (3, .pnot t d a b, fun p _ => ~~~p)]

section
variable {s : State} {t : Gtn} {d a b : RegNum} {f : Hw} (r : Ready s.hw t.val 1 f)

theorem exec_predTable (s : State) : ∀ q ∈ predTable t d a b, exec q.2.1 s = s.onHw (issue t.val 1 (predBody q.1 q.2.2 t.val d a b)) := by
  simp only [predTable, List.forall_mem_cons]
  exact ⟨rfl, rfl, rfl, rfl, List.forall_mem_nil _⟩

/-- The check of predicate logic (R99, R102). -/
def predBad (func : Nat) (d a b : RegNum) : Bool := decide (8 ≤ d.toNat) || decide (8 ≤ a.toNat) || decide (8 ≤ b.toNat) || (func == 3 && b != 0)

theorem predBad_eq_false {func : Nat} : predBad func d a b = false ↔ (d.toNat < 8 ∧ a.toNat < 8 ∧ b.toNat < 8) ∧ (func = 3 → b = 0) := by
  simp only [predBad, Bool.or_eq_false_iff, Bool.and_eq_false_iff, decide_eq_false_iff_not, Nat.not_le, beq_eq_false_iff_ne, bne_eq_false_iff_eq, and_assoc, ne_eq,
    ← imp_iff_not_or]

include r

theorem traps_pred_illegal (q : Nat × Instr × (W64 → W64 → W64)) (listed : q ∈ predTable t d a b)
    (bad : ¬ (d.toNat < 8 ∧ a.toNat < 8 ∧ b.toNat < 8) ∨ (q.1 = 3 ∧ b ≠ 0)) : Traps s q.2.1 t.val f { code := 0x04, tval := (wordR3 0x25 d a b q.1).zeroExtend 64 } := by
  refine traps_vecIllegal (exec_predTable s q listed) r (by rw [predBody]) (Bool.eq_true_of_not_eq_false fun legal => ?_)
  obtain ⟨names, zero⟩ := predBad_eq_false.mp legal
  exact bad.elim (not_not.mpr names) fun ⟨not_op, named⟩ => named (zero not_op)

theorem traps_pred_disabled (q : Nat × Instr × (W64 → W64 → W64)) (listed : q ∈ predTable t d a b)
    (names : d.toNat < 8 ∧ a.toNat < 8 ∧ b.toNat < 8) (zero : q.1 = 3 → b = 0) (off : (s.hw.thread t.val).ven = false) :
    Traps s q.2.1 t.val f { code := 0x06, tval := (wordR3 0x25 d a b q.1).zeroExtend 64 } :=
  traps_vecDisabled (exec_predTable s q listed) r (by rw [predBody]) (by exact predBad_eq_false.mpr ⟨names, zero⟩) off

theorem retires_pred (q : Nat × Instr × (W64 → W64 → W64)) (listed : q ∈ predTable t d a b)
    (names : d.toNat < 8 ∧ a.toNat < 8 ∧ b.toNat < 8) (zero : q.1 = 3 → b = 0) (on : (s.hw.thread t.val).ven = true) :
    let x := s.hw.thread t.val
    ∃ u, exec q.2.1 s = .next u ∧ Retires s u t.val f (((f.thread t.val).after (x.pc + 4)).writeP d.toNat (q.2.2 (x.readP a.toNat) (x.readP b.toNat))) := by
  have work := vecGuard_enabled (body := predBody q.1 q.2.2 t.val d a b) r (by rw [predBody]) (by exact predBad_eq_false.mpr ⟨names, zero⟩) on
  simp only [r.readP] at work
  exact retires_next (exec_predTable s q listed) r work (fun y => y.retire_writeP _ _)

end

end Sys2Proof.Machine

open Sys2Proof Sys2Proof.Machine

/-- Settles O12, by the compare of each func on the lanes and by the operation of each func on whole predicates. -/
theorem predicateResults : Obligations.PredicateResults := by
  intro s t v d a b f r x e w next la lb sg table ftable writesP cword lword known names logic
  have codes : table.map (·.1) = (pcompTable (eBytes v)).map (·.1) := rfl
  have ints (c : BitVec 5 × (Nat → Bool)) (listed : c ∈ table) : ∃ c' ∈ pcompTable (eBytes v), c.1 = c'.1 ∧ c.2 = fun n => c'.2 (la n) (lb n) :=
    (List.mem_map (f := fun c' : BitVec 5 × (Nat → Nat → Bool) => (c'.1, fun n => c'.2 (la n) (lb n))).mp listed).imp
      fun _ => fun ⟨listed, same⟩ => ⟨listed, congrArg Prod.fst same.symm, congrArg Prod.snd same.symm⟩
  have logics (q : Nat × Instr) (listed : q ∈ logic) : ∃ q' ∈ predTable t d a b, q = (q'.1, q'.2.1) :=
    (List.mem_map (f := fun q' : Nat × Instr × (W64 → W64 → W64) => (q'.1, q'.2.1)).mp listed).imp fun _ => And.imp_right Eq.symm
  refine ⟨fun func bad => traps_pcomp_illegal r bad, fun func low known off => traps_pcomp_disabled r low known off, fun q listed => ?logic,
    fun on low c listed => ?int, fun on low elements c listed => retires_pcomp_fp r on low elements c listed, fun on named => ?ops⟩
  case logic =>
    obtain ⟨q', listed', rfl⟩ := logics q listed
    exact ⟨traps_pred_illegal r q' listed', traps_pred_disabled r q' listed'⟩
  case int =>
    obtain ⟨c', listed', same, result⟩ := ints c listed
    rw [result, same]
    exact retires_pcomp_int r on low c' listed'
  case ops =>
    have retires := fun q listed zero => retires_pred (s := s) (t := t) (d := d) (a := a) (b := b) r q listed named zero on
    exact ⟨retires (0, .pand t d a b, (· &&& ·)) (by simp [predTable]) nofun, retires (1, .por t d a b, (· ||| ·)) (by simp [predTable]) nofun,
      retires (2, .pxor t d a b, (· ^^^ ·)) (by simp [predTable]) nofun, fun zero => retires (3, .pnot t d a b, fun p _ => ~~~p) (by simp [predTable]) fun _ => zero⟩

end

section
/-! SUPPORT. The permutes: the active lanes in ascending order, and what each permute leaves in the lanes of its result (R87, R109). -/

namespace Sys2Proof.Machine

/-- The element that meets a test and has k such elements below it is number k of those that meet it. -/
theorem getElem?_filter_range {p : Nat → Bool} {j m k : Nat} (lt : j < m) (met : p j = true) (below : (List.range j).countP p = k) :
    ((List.range m).filter p)[k]? = some j := by
  obtain ⟨d, rfl⟩ := Nat.exists_eq_add_of_lt lt
  rw [show j + d + 1 = j + (d + 1) by omega, List.range_add, List.filter_append, List.range_succ_eq_map, List.map_cons, List.filter_cons_of_pos (by simpa using met),
    List.getElem?_append_right (by rw [← List.countP_eq_length_filter, below]), ← List.countP_eq_length_filter, below]
  simp

theorem getElem?_filter_range_none {p : Nat → Bool} {m k : Nat} (high : (List.range m).countP p ≤ k) : ((List.range m).filter p)[k]? = none :=
  List.getElem?_eq_none (by rwa [← List.countP_eq_length_filter])

theorem lane_mkLanes_esize (v : VFields) (f : Nat → Nat) {n : Nat} (lt : n < 64 / eBytes v) :
    lane (eBytes v) (mkLanes (eBytes v) f) n = f n % 2 ^ (8 * eBytes v) := lane_mkLanes _ v.esize.isLt _ _ lt

/-! The lanes of each permute (R109). -/

section
variable (v : VFields) (p : W64) (z : Bool) (a d : V512) {n : Nat} (lt : n < 64 / eBytes v)
include lt

/-- A lane that an active lane is packed into. -/
theorem lane_compressLanes_packed {j : Nat} (inside : j < 64 / eBytes v) (active : laneActive (eBytes v) p j = true)
    (below : (List.range j).countP (laneActive (eBytes v) p) = n) : lane (eBytes v) (compressLanes (eBytes v) p z a d) n = lane (eBytes v) a j := by
  rw [compressLanes, lane_mkLanes_esize v _ lt, activeLanes, laneCount, getElem?_filter_range inside active below]
  exact Nat.mod_eq_of_lt (lane_lt _ _ _)

/-- A lane above those that are packed. -/
theorem lane_compressLanes_rest (above : (List.range (64 / eBytes v)).countP (laneActive (eBytes v) p) ≤ n) :
    lane (eBytes v) (compressLanes (eBytes v) p z a d) n = if z then 0 else lane (eBytes v) d n := by
  rw [compressLanes, lane_mkLanes_esize v _ lt, activeLanes, laneCount, getElem?_filter_range_none above]
  cases z
  · exact Nat.mod_eq_of_lt (lane_lt _ _ _)
  · exact Nat.zero_mod _

theorem lane_expandLanes : lane (eBytes v) (expandLanes (eBytes v) p z a d) n =
    if laneActive (eBytes v) p n then lane (eBytes v) a ((List.range n).countP (laneActive (eBytes v) p)) else if z then 0 else lane (eBytes v) d n := by
  rw [expandLanes, lane_maskLanes v _ _ _ _ lt, Nat.mod_eq_of_lt (lane_lt _ _ _), activeBelow, ← List.countP_eq_length_filter]
  rfl

theorem lane_insert (x gi : Nat) : lane (eBytes v) (mkLanes (eBytes v) (fun i => if i = gi then x else lane (eBytes v) d i)) n =
    if n = gi then x % 2 ^ (8 * eBytes v) else lane (eBytes v) d n := by
  rw [lane_mkLanes_esize v _ lt]
  split
  · rfl
  · exact Nat.mod_eq_of_lt (lane_lt _ _ _)

end

/-! The permutes as instructions. -/

/-- The command of a permute. -/
def VPerm.instr (t : Gtn) (v : VFields) : VPerm → Instr
  | .compress => .vcompress t v
  | .expand => .vexpand t v
  | .bcast => .vbcast t v
  | .extract => .vextract t v
  | .insert => .vinsert t v

/-- The permutes of one lane name no predicate (R109). -/
def VPerm.legal (k : VPerm) (v : VFields) : Prop := k = .extract ∨ k = .insert → v.pred = 0

section
variable {s : State} {t : Gtn} {v : VFields} {f : Hw} (k : VPerm)

theorem exec_perm (s : State) : exec (k.instr t v) s = s.onHw (issue t.val 1 (permBody k t.val v)) := by
  cases k <;> rfl

variable (r : Ready s.hw t.val 1 f)
include r

theorem traps_perm_illegal (bad : ¬ k.legal v) : Traps s (k.instr t v) t.val f { code := 0x04, tval := (wordV 0x24 v k.func).zeroExtend 64 } := by
  refine traps_vecIllegal (exec_perm k s) r (by rw [permBody]) ?_
  rw [VPerm.legal, Classical.not_imp] at bad
  exact (Bool.and_eq_true _ _).mpr ⟨decide_eq_true bad.1, bne_iff_ne.mpr bad.2⟩

omit r in
theorem permBad_of_legal (legal : k.legal v) : (decide (k = .extract ∨ k = .insert) && v.pred != 0) = false := by
  rw [Bool.and_eq_false_iff, decide_eq_false_iff_not, bne_eq_false_iff_eq]
  exact imp_iff_not_or.mp legal

theorem traps_perm_disabled (legal : k.legal v) (off : (s.hw.thread t.val).ven = false) :
    Traps s (k.instr t v) t.val f { code := 0x06, tval := (wordV 0x24 v k.func).zeroExtend 64 } :=
  traps_vecDisabled (exec_perm k s) r (by rw [permBody]) (by exact permBad_of_legal k legal) off

/-- A permute that writes a vector register. -/
theorem retires_perm {g : V512}
    (work : permBody k t.val v (f.fetched t.val) = .ok (retire ((f.fetched t.val).onThread t.val (fun x => x.writeV v.d.toNat g)) t.val 4)) :
    ∃ u, exec (k.instr t v) s = .next u ∧ Retires s u t.val f (((f.thread t.val).after ((s.hw.thread t.val).pc + 4)).writeV v.d.toNat g) :=
  retires_next (exec_perm k s) r work (fun y => y.retire_writeV _ _)

end

end Sys2Proof.Machine

open Sys2Proof Sys2Proof.Machine

/-- Settles O13, by what each permute leaves in the lanes. -/
theorem permuteResults : Obligations.PermuteResults := by
  intro s t v f r x e m p active a old ga gi next writesV word all
  have perms (q : BitVec 5 × Instr) (listed : q ∈ all) : ∃ k : VPerm, q = (k.func, k.instr t v) := by
    obtain ⟨k, -, same⟩ := (List.mem_map (f := fun k : VPerm => (k.func, k.instr t v)) (l := [.compress, .expand, .bcast, .extract, .insert])).mp listed
    exact ⟨k, same.symm⟩
  have one_lane (k : VPerm) : k.func ∈ [3, 4] ↔ k = .extract ∨ k = .insert := by cases k <;> decide
  refine ⟨fun q listed legal off => ?disabled, fun q listed lane named => ?illegal, ?on⟩
  case disabled =>
    obtain ⟨k, rfl⟩ := perms q listed
    exact traps_perm_disabled k r (fun lane => legal.resolve_left (not_not.mpr ((one_lane k).mpr lane))) off
  case illegal =>
    obtain ⟨k, rfl⟩ := perms q listed
    exact traps_perm_illegal k r fun legal => named (legal ((one_lane k).mp lane))
  case on =>
    intro on
    have work (k : VPerm) (legal : k.legal v) := vecGuard_enabled (body := permBody k t.val v) r (by rw [permBody]) (by exact permBad_of_legal k legal) on
    simp only [r.readV, r.readP, r.readG] at work
    have many {k : VPerm} (ne : ¬ (k = .extract ∨ k = .insert)) : k.legal v := fun lane => absurd lane ne
    refine ⟨?packs, ?spreads, ?copies, fun zero => ?reads, fun zero => ?replaces⟩
    case packs =>
      obtain ⟨u, done, retired⟩ := retires_perm .compress r (work _ (many (by decide)))
      exact ⟨u, _, done, retired, fun n lt => ⟨fun j inside act below => lane_compressLanes_packed v p v.z _ _ lt inside act below, lane_compressLanes_rest v p v.z _ _ lt⟩⟩
    case spreads =>
      obtain ⟨u, done, retired⟩ := retires_perm .expand r (work _ (many (by decide)))
      exact ⟨u, _, done, retired, fun n lt => lane_expandLanes v p v.z _ _ lt⟩
    case copies =>
      obtain ⟨u, done, retired⟩ := retires_perm .bcast r (work _ (many (by decide)))
      exact ⟨u, _, done, retired, fun n lt => lane_maskLanes v p v.z _ _ lt⟩
    case reads => exact writesG_of (len := 4) (evs := []) (exec_perm .extract s) r (work _ fun _ => zero)
    case replaces =>
      obtain ⟨u, done, retired⟩ := retires_perm .insert r (work _ fun _ => zero)
      exact ⟨u, _, done, retired, fun n lt => lane_insert v _ lt _ _⟩

end

section
/-! SUPPORT. Floating-point numbers and their bit patterns: what a pattern holds, and the rounding of a magnitude that needs none (R95, R683). -/

namespace Sys2Proof.Machine

theorem log_mul_two_pow {m : Nat} (pos : m ≠ 0) (k : Nat) : Nat.log 2 (m * 2 ^ k) = Nat.log 2 m + k := by
  induction k with
  | zero => rw [Nat.pow_zero, Nat.mul_one, Nat.add_zero]
  | succ k ih => rw [Nat.pow_succ, ← Nat.mul_assoc, Nat.log_mul_base (by decide) (Nat.mul_ne_zero pos (Nat.two_pow_pos k).ne'), ih, Nat.add_assoc]

theorem bitLen_shiftLeft {m : Nat} (pos : m ≠ 0) (k : Nat) : bitLen (m <<< k) = bitLen m + k := by
  have shifted : m <<< k ≠ 0 := by simp [Nat.shiftLeft_eq, pos]
  rw [bitLen, if_neg shifted, bitLen, if_neg pos, Nat.log2_eq_log_two, Nat.log2_eq_log_two, Nat.shiftLeft_eq, log_mul_two_pow pos]
  omega

theorem bitLen_le {m k : Nat} (lt : m < 2 ^ k) : bitLen m ≤ k := by
  unfold bitLen
  split
  · exact Nat.zero_le _
  · exact Nat.log2_lt ‹_› |>.mpr lt

theorem lt_bitLen {m k : Nat} (le : 2 ^ k ≤ m) : k < bitLen m := by
  have pos : m ≠ 0 := Nat.ne_of_gt (Nat.lt_of_lt_of_le (Nat.two_pow_pos k) le)
  rw [bitLen, if_neg pos]
  exact Nat.lt_succ_of_le ((Nat.le_log2 pos).mpr le)

theorem roundsUp_zero (rm : Nat) (neg : Bool) (mant d : Nat) : roundsUp rm neg mant 0 d = false := rfl

/-- The pattern of a magnitude of at most fb + 1 bits in units of 2 ^ e. -/
def FFmt.bitsOf (f : FFmt) (m : Nat) (e : Int) : Nat := if m < 2 ^ f.fb then m else ((e - f.qmin + 1).toNat <<< f.fb) + (m - 2 ^ f.fb)

/-- A magnitude whose last place is that of the format is not rounded. -/
theorem FFmt.round_exact {f : FFmt} {m : Nat} {e : Int} (c : FCtl) (neg : Bool) (pos : m ≠ 0) (place : max (e + bitLen m - (f.fb + 1 : Nat)) f.qmin = e)
    (finite : f.bitsOf m e < (2 ^ f.eb - 1) <<< f.fb) (kept : c.ftz = false ∨ 2 ^ f.fb ≤ f.bitsOf m e) : f.round c neg m e false = (f.zero neg + f.bitsOf m e, {}) := by
  unfold FFmt.round
  extract_lets p m1 e1 qn q d mant rest mant1 inexact bits dn mn mn1 tinyBefore tinyAfter tiny toInf
  have shifted : m1 = m <<< (p + 3) := rfl
  have last : q = e := by
    have units : qn = e + bitLen m - p := by
      simp only [qn, e1, shifted, bitLen_shiftLeft pos]
      push_cast
      omega
    rw [← place]
    exact congrArg (max · f.qmin) units
  have cut : d = p + 3 := by
    simp only [d, last, e1]
    omega
  have whole : mant = m := by simp only [mant, shifted, cut, Nat.shiftLeft_shiftRight]
  have exact : rest = 0 := by simp only [rest, shifted, cut, Nat.shiftLeft_eq, Nat.mul_mod_left]
  have unrounded : mant1 = m := by rw [show mant1 = mant + b2n (roundsUp c.rm neg mant rest d) from rfl, exact, whole]; rfl
  have pattern : bits = f.bitsOf m e := by simp only [bits, unrounded, last, FFmt.bitsOf]
  have sure : inexact = false := by simp [inexact, exact]
  rw [pattern, sure, if_neg (Nat.not_le.mpr finite), if_neg, if_neg Bool.false_ne_true]
  rintro ⟨flush, -, low⟩
  exact kept.elim (Bool.eq_false_iff.mp · flush) (Nat.not_le.mpr low)

/-- The sign, exponent and fraction fields of a pattern. -/
theorem FFmt.fields {f : FFmt} {x : Nat} (exponent : 0 < f.eb) (lt : x < 2 ^ (1 + f.eb + f.fb)) :
    x = f.zero (x.testBit (f.eb + f.fb)) + (nbits x (f.eb + f.fb - 1) f.fb <<< f.fb + x % 2 ^ f.fb) := by
  have split := split_bits x f.fb f.eb
  have sign : x / 2 ^ (f.fb + f.eb) = b2n (x.testBit (f.eb + f.fb)) := by
    have small : x / 2 ^ (f.fb + f.eb) < 2 := Nat.div_lt_of_lt_mul (by rwa [← Nat.pow_succ, show (f.fb + f.eb).succ = 1 + f.eb + f.fb by omega])
    rw [Nat.testBit_eq_decide_div_mod_eq, Nat.add_comm f.eb, Nat.mod_eq_of_lt small]
    generalize x / 2 ^ (f.fb + f.eb) = b at small
    interval_cases b <;> rfl
  rw [nbits, show f.eb + f.fb - 1 + 1 - f.fb = f.eb by omega, FFmt.zero, ← sign, Nat.shiftLeft_eq, Nat.shiftLeft_eq, Nat.add_comm f.eb f.fb]
  omega

/-- A finite number of a format has the pattern that its magnitude gives, below infinity, and its last place is one of the format's (R683). -/
theorem FFmt.decode_fin {f : FFmt} {x m : Nat} {neg : Bool} {e : Int} (exponent : 0 < f.eb) (lt : x < 2 ^ (1 + f.eb + f.fb)) (number : f.decode x = .fin neg m e) :
    x = f.zero neg + f.bitsOf m e ∧ f.bitsOf m e < (2 ^ f.eb - 1) <<< f.fb ∧ (2 ^ f.fb ≤ m → 2 ^ f.fb ≤ f.bitsOf m e) ∧
      (m ≠ 0 → max (e + bitLen m - (f.fb + 1 : Nat)) f.qmin = e) := by
  have whole := FFmt.fields exponent lt
  have fraction : x % 2 ^ f.fb < 2 ^ f.fb := Nat.mod_lt _ (Nat.two_pow_pos _)
  have range : nbits x (f.eb + f.fb - 1) f.fb < 2 ^ f.eb := by
    rw [nbits, show f.eb + f.fb - 1 + 1 - f.fb = f.eb by omega]
    exact Nat.mod_lt _ (Nat.two_pow_pos _)
  unfold FFmt.decode at number
  extract_lets s ex fr at number
  split at number
  case isTrue => split at number <;> cases number
  case isFalse finite =>
    have width : (2 ^ f.eb - 1) <<< f.fb = (2 ^ f.eb - 1) * 2 ^ f.fb := Nat.shiftLeft_eq _ _
    split at number
    case isTrue zero =>
      obtain ⟨rfl, rfl, rfl⟩ := FVal.fin.inj number
      have some_exponent : 1 ≤ 2 ^ f.eb - 1 := Nat.le_sub_of_add_le (Nat.pow_le_pow_right (n := 2) (by decide) exponent)
      have pattern : f.bitsOf fr f.qmin = fr := if_pos fraction
      have room := Nat.mul_le_mul_right (2 ^ f.fb) some_exponent
      refine ⟨?_, ?_, fun normal => absurd fraction (Nat.not_lt.mpr normal), fun _ => ?_⟩
      · rw [pattern]
        rw [show nbits x (f.eb + f.fb - 1) f.fb = 0 from zero, Nat.zero_shiftLeft, Nat.zero_add] at whole
        exact whole
      · rw [pattern, width]
        omega
      · have short : bitLen fr ≤ f.fb := bitLen_le fraction
        refine max_eq_right ?_
        push_cast
        omega
    case isFalse normal =>
      obtain ⟨rfl, rfl, rfl⟩ := FVal.fin.inj number
      have pattern : f.bitsOf (fr + 2 ^ f.fb) ((ex : Int) - 1 + f.qmin) = ex <<< f.fb + fr := by
        rw [FFmt.bitsOf, if_neg (by omega), show ((ex : Int) - 1 + f.qmin - f.qmin + 1).toNat = ex by omega, Nat.add_sub_cancel]
      have room : (ex + 1) * 2 ^ f.fb ≤ (2 ^ f.eb - 1) * 2 ^ f.fb := Nat.mul_le_mul_right _ (by omega)
      have least : 1 * 2 ^ f.fb ≤ ex * 2 ^ f.fb := Nat.mul_le_mul_right _ (by omega)
      rw [Nat.add_mul] at room
      refine ⟨whole.trans (congrArg _ pattern.symm), ?_, fun _ => ?_, fun _ => ?_⟩
      · rw [pattern, width, Nat.shiftLeft_eq]
        omega
      · rw [pattern, Nat.shiftLeft_eq]
        omega
      · have low : f.fb < bitLen (fr + 2 ^ f.fb) := lt_bitLen (Nat.le_add_left _ _)
        have high : bitLen (fr + 2 ^ f.fb) ≤ f.fb + 1 := bitLen_le (by rw [Nat.pow_succ]; omega)
        push_cast
        omega

end Sys2Proof.Machine

open Sys2Proof Sys2Proof.Machine

/-- Settles O15: a finite number of a format is its own rounding. -/
theorem floatRoundingIsExactOnTheFormat : Obligations.FloatRoundingIsExactOnTheFormat := by
  intro code c x neg m e named f lt number kept
  have exponent : 0 < f.eb := by
    simp only [List.mem_cons, List.not_mem_nil, or_false] at named
    rcases named with rfl | rfl | rfl <;> decide
  obtain ⟨pattern, finite, normal, place⟩ := FFmt.decode_fin exponent lt number
  show f.fromExact c neg m e = (x, {})
  rw [FFmt.fromExact, pattern]
  split
  case isTrue zero => rw [zero, FFmt.bitsOf, if_pos (Nat.two_pow_pos _), Nat.add_zero]
  case isFalse pos => exact FFmt.round_exact c neg pos (place pos) finite (kept.imp_right fun rest => normal (rest.resolve_left pos))

end

section
/-! SUPPORT. The control registers: their instructions (R91, R94, R99, R113), and what reads and writes of single registers give (R90, R92 to R95, R111). -/

namespace Sys2Proof.Machine

/-- As `traps_of`, for an instruction that waits until its thread's loads are settled. -/
theorem traps_ofSettled {i : Instr} {s : State} {t w : Nat} {body : Hw → Exe} {f : Hw} {c : Cause}
    (e : exec i s = s.onHw (issueSettled t w body)) (r : Ready s.hw t w f) (b : body (f.fetched t) = .error (f.fetched t, c))
    (z : c.code ≠ 0 := by simp [illegal, privReg]) : Traps s i t f c := by
  rw [Traps, e, State.onHw_eq, issueSettled_trap r b z]

theorem Ready.crAllowed {h f : Hw} {t w : Nat} (r : Ready h t w f) (n : Nat) (write : Bool) :
    Machine.crAllowed ((f.fetched t).thread t) n write = Machine.crAllowed (h.thread t) n write := by
  obtain ⟨_, _, _, _, _, _, _, _, e⟩ := r.thread
  rw [e]; rfl

/-! A write of a control register stays within the registers of its thread, and its PC stays. -/

theorem Thread.setMcip_pc (x : Thread) (b : Bool) : (x.setMcip b).pc = x.pc := rfl

theorem Hw.crWrite_pc (h : Hw) (t n : Nat) (v : W64) : ((h.crWrite t n v).thread t).pc = (h.thread t).pc := by
  unfold Hw.crWrite
  extract_lets x
  have set (y : Thread) (same : y.pc = x.pc) : ((h.setThread t y).thread t).pc = x.pc := by rw [Hw.setThread_thread, same]
  split
  · exact set _ rfl
  split
  · exact set _ rfl
  split
  · split
    · split
      · rfl
      · rfl
    · rfl
  split
  · exact set _ rfl
  split
  · exact set _ (x.setMcip_pc _)
  split
  · split
    · exact set _ rfl
    · rfl
  split
  · split
    · exact set _ rfl
    · rfl
  split
  · exact set _ rfl
  · rfl

/-! The instructions. -/

/-- The command of a control register instruction. -/
def CrOp.instr (t : Gtn) (d a : RegNum) (crn : BitVec 12) : CrOp → Instr
  | .rd => .crrd t d a crn
  | .wr => .crwr t d a crn
  | .set => .crset t d a crn
  | .clr => .crclr t d a crn

/-- The encodings and numbers that an operation may not name (R92, R99). -/
def CrOp.bad (o : CrOp) (d a : RegNum) (n : Nat) : Bool :=
  (decide (o = .rd) && a != 0) || (decide (o = .wr) && d != 0) || !crAssigned n || (decide (o ≠ .rd) && crReadOnly n)

theorem CrOp.bad_eq_false {o : CrOp} {d a : RegNum} {n : Nat} :
    o.bad d a n = false ↔ (o = .rd → a = 0) ∧ (o = .wr → d = 0) ∧ crAssigned n = true ∧ (o ≠ .rd → crReadOnly n = false) := by
  simp only [CrOp.bad, Bool.or_eq_false_iff, Bool.and_eq_false_iff, decide_eq_false_iff_not, bne_eq_false_iff_eq, Bool.not_eq_false', ← imp_iff_not_or, and_assoc]

/-- The work of a control register instruction that is legal and allowed. -/
def CrOp.work (o : CrOp) (t : Nat) (d : RegNum) (n : Nat) (g : W64) (h : Hw) : Hw :=
  let old := h.crRead t n
  match o with
  | .rd => h.setG t d.toNat old
  | .wr => h.crWrite t n g
  | .set => (h.crWrite t n (old ||| g)).setG t d.toNat old
  | .clr => (h.crWrite t n (old &&& ~~~g)).setG t d.toNat old

theorem crBody_bad {o : CrOp} {t : Nat} {d a : RegNum} {crn : BitVec 12} {h : Hw} (bad : o.bad d a crn.toNat = true) :
    crBody o t d a crn h = .error (h, illegal (wordSys o.sub d a crn)) := if_pos bad

theorem crBody_forbidden {o : CrOp} {t : Nat} {d a : RegNum} {crn : BitVec 12} {h : Hw} (legal : o.bad d a crn.toNat = false)
    (forbidden : crAllowed (h.thread t) crn.toNat (decide (o ≠ .rd)) = false) : crBody o t d a crn h = .error (h, privReg (wordSys o.sub d a crn)) :=
  (if_neg (Bool.eq_false_iff.mp legal)).trans (if_pos (by rw [forbidden]; rfl))

theorem crBody_work {o : CrOp} {t : Nat} {d a : RegNum} {crn : BitVec 12} {h : Hw} (legal : o.bad d a crn.toNat = false)
    (allowed : crAllowed (h.thread t) crn.toNat (decide (o ≠ .rd)) = true) :
    crBody o t d a crn h = .ok (retireCr (o.work t d crn.toNat ((h.thread t).readG a.toNat) h) t (decide (o ≠ .rd) && crn.toNat == 0x002)) := by
  refine ((if_neg (Bool.eq_false_iff.mp legal)).trans (if_neg (by rw [allowed]; exact Bool.false_ne_true))).trans ?_
  cases o <;> rfl

/-- A write of cr.progress leaves VALID as written; any other control register instruction clears it (R113). -/
theorem retireCr_counted (h : Hw) (t : Nat) (wrote : Bool) : ∃ m,
    Counted t (h.onThread t (fun x => { x.clearProg with pc := x.pc + 4, progress := if wrote then x.progress else setWbits x.progress 63 63 0 })) m ∧ retireCr h t wrote = m.walksDone t := by
  cases wrote
  case false => exact retire_counted h t 4 []
  case true => exact ⟨_, (h.note_counted t _).onThread _ (fun _ _ _ _ => rfl), rfl⟩

theorem CrOp.work_pc (o : CrOp) (t : Nat) (d : RegNum) (n : Nat) (g : W64) (h : Hw) : ((o.work t d n g h).thread t).pc = (h.thread t).pc := by
  have named (k : Hw) (v : W64) : ((k.setG t d.toNat v).thread t).pc = (k.thread t).pc := by
    rw [Hw.setG, Hw.thread_onThread, if_pos rfl, Thread.writeG_pc]
  cases o
  case rd => exact named _ _
  case wr => exact h.crWrite_pc _ _ _
  case set => exact (named _ _).trans (h.crWrite_pc _ _ _)
  case clr => exact (named _ _).trans (h.crWrite_pc _ _ _)

section
variable {s : State} {t : Gtn} {d a : RegNum} {crn : BitVec 12} {f : Hw} (o : CrOp) (r : Ready s.hw t.val 1 f)
include r

theorem traps_cr {c : Cause} (b : crBody o t.val d a crn (f.fetched t.val) = .error (f.fetched t.val, c)) (z : c.code ≠ 0) :
    Traps s (o.instr t d a crn) t.val f c := by
  cases o
  case rd => exact traps_of rfl r b z
  case wr => exact traps_ofSettled rfl r b z
  case set => exact traps_ofSettled rfl r b z
  case clr => exact traps_ofSettled rfl r b z

theorem traps_cr_bad (bad : o.bad d a crn.toNat = true) :
    Traps s (o.instr t d a crn) t.val f { code := 0x04, tval := (wordSys o.sub d a crn).zeroExtend 64 } := traps_cr o r (crBody_bad bad) (show 0x04 ≠ 0 by decide)

theorem traps_cr_forbidden (legal : o.bad d a crn.toNat = false) (forbidden : crAllowed (s.hw.thread t.val) crn.toNat (decide (o ≠ .rd)) = false) :
    Traps s (o.instr t d a crn) t.val f { code := 0x05, tval := (wordSys o.sub d a crn).zeroExtend 64 } :=
  traps_cr o r (crBody_forbidden legal (by rw [r.crAllowed, forbidden])) (show 0x05 ≠ 0 by decide)

/-- A write of a control register that is legal and allowed. -/
theorem ends_cr (writes : o ≠ .rd) (legal : o.bad d a crn.toNat = false) (allowed : crAllowed (s.hw.thread t.val) crn.toNat true = true) :
    let k := o.work t.val d crn.toNat ((s.hw.thread t.val).readG a.toNat) (f.fetched t.val)
    ∃ u, exec (o.instr t d a crn) s = .next u ∧ Retires s u t.val k { (k.thread t.val).clearProg with
      pc := (s.hw.thread t.val).pc + 4
      progress := if crn.toNat = 0x002 then (k.thread t.val).progress else setWbits (k.thread t.val).progress 63 63 0 } := by
  intro k
  have settled : exec (o.instr t d a crn) s = s.onHw (issueSettled t.val 1 (crBody o t.val d a crn)) := by
    cases o
    case rd => exact absurd rfl writes
    all_goals rfl
  have write : decide (o ≠ .rd) = true := decide_eq_true writes
  have work := crBody_work (t := t.val) (h := f.fetched t.val) legal (by rw [r.crAllowed, write, allowed])
  rw [r.readG] at work
  obtain ⟨m, counted, left⟩ := retireCr_counted k t.val (decide (o ≠ .rd) && crn.toNat == 0x002)
  refine ⟨_, settled, rfl, m, ?_, (issueSettled_ok r work).trans left⟩
  have pc : (s.hw.thread t.val).pc = (k.thread t.val).pc := by rw [o.work_pc, Hw.fetched, Hw.thread_onThread, if_pos rfl, r.pc]
  rw [write, Hw.onThread_eq] at counted
  simpa [pc] using counted

end

/-! What single registers read, and what a write of them leaves. -/

theorem getLsbD_setWbits (x : W64) (hi lo v i : Nat) (le : lo ≤ hi) (lt : i < 64) :
    (setWbits x hi lo v).getLsbD i = if lo ≤ i ∧ i ≤ hi then v.testBit (i - lo) else x.getLsbD i := by
  rw [setWbits, BitVec.getLsbD_ofNat, setNbits_testBit _ _ _ _ _ le, decide_eq_true lt, Bool.true_and]
  rfl

/-- The bits of cr.status (R93). -/
theorem getLsbD_status (h : Hw) (t : Nat) {i : Nat} (lt : i < 64) : (h.statusOf t).getLsbD i =
    ((decide (10 ≤ i) && (h.thread t).shbank.getLsbD (i - 10)) || (decide (i = 9) && h.settleOnly t) || (decide (i = 8) && (h.thread t).ven) ||
      (decide (i = 3) && (h.thread t).ie) || (decide (i = 2) && (h.thread t).world) || (h.thread t).level.getLsbD i) := by
  rw [Hw.statusOf, BitVec.getLsbD_ofNat, decide_eq_true lt, Bool.true_and]
  simp only [Nat.testBit_or, testBit_b2n_shiftLeft]
  rw [Nat.testBit_shiftLeft]
  rfl

theorem status_fields (h : Hw) (t : Nat) :
    let x := h.thread t
    let r := h.statusOf t
    r.extractLsb' 0 2 = x.level ∧ r.getLsbD 2 = x.world ∧ r.getLsbD 3 = x.ie ∧ r.getLsbD 8 = x.ven ∧ r.getLsbD 9 = h.settleOnly t ∧ r.extractLsb' 10 2 = x.shbank := by
  have high {i : Nat} (ge : 2 ≤ i) : (h.thread t).level.getLsbD i = false := BitVec.getLsbD_of_ge _ i ge
  refine ⟨BitVec.eq_of_getLsbD_eq fun i lt => ?_, ?_, ?_, ?_, ?_, BitVec.eq_of_getLsbD_eq fun i lt => ?_⟩
  · rw [BitVec.getLsbD_extractLsb', decide_eq_true lt, Bool.true_and, Nat.zero_add, getLsbD_status h t (by omega)]
    simp [show ¬ 10 ≤ i by omega, show i ≠ 9 by omega, show i ≠ 8 by omega, show i ≠ 3 by omega, show i ≠ 2 by omega]
  · rw [getLsbD_status h t (by decide), high (by decide)]; simp
  · rw [getLsbD_status h t (by decide), high (by decide)]; simp
  · rw [getLsbD_status h t (by decide), high (by decide)]; simp
  · rw [getLsbD_status h t (by decide), high (by decide)]; simp
  · rw [BitVec.getLsbD_extractLsb', decide_eq_true lt, Bool.true_and, getLsbD_status h t (by omega), high (by omega)]
    simp [show 10 + i ≠ 9 by omega, show 10 + i ≠ 8 by omega, show 10 + i ≠ 3 by omega, show 10 + i ≠ 2 by omega]

/-- RM of a value of cr.fpcsr, as a number. -/
theorem wbits_rm (v : W64) : wbits v 2 0 = (v.extractLsb' 0 3).toNat := by
  rw [BitVec.extractLsb'_toNat]
  rfl

theorem getLsbD_fpcsrWrite (old v : W64) {i : Nat} (lt : i < 64) : (fpcsrWrite old v).getLsbD i =
    if i ≤ 2 then (if (v.extractLsb' 0 3).toNat ≤ 4 then v else old).getLsbD i else v.getLsbD i && (0x3F0 : W64).getLsbD i := by
  rw [fpcsrWrite, getLsbD_setWbits _ _ _ _ _ (by decide) lt]
  simp only [Nat.zero_le, true_and, BitVec.getLsbD_and, wbits_rm, Nat.sub_zero]
  refine if_ctx_congr Iff.rfl (fun low => ?_) (fun _ => rfl)
  have bit (w : W64) : (w.extractLsb' 0 3).toNat.testBit i = w.getLsbD i := by
    have := BitVec.getLsbD_extractLsb' (x := w) (start := 0) (len := 3) (i := i)
    rwa [decide_eq_true (by omega), Bool.true_and, Nat.zero_add] at this
  split <;> exact bit _

theorem fpcsr_fields (old v : W64) :
    let r := fpcsrWrite old v
    (∀ k, 4 ≤ k → k ≤ 9 → r.getLsbD k = v.getLsbD k) ∧ (∀ k, 10 ≤ k → r.getLsbD k = false) ∧ r.getLsbD 3 = false ∧
      r.extractLsb' 0 3 = if (v.extractLsb' 0 3).toNat ≤ 4 then v.extractLsb' 0 3 else old.extractLsb' 0 3 := by
  have mask : ∀ k, 4 ≤ k → k ≤ 9 → (0x3F0 : W64).getLsbD k = true := by decide
  refine ⟨fun k low high => ?_, fun k high => ?_, ?_, BitVec.eq_of_getLsbD_eq fun i lt => ?_⟩
  · rw [getLsbD_fpcsrWrite _ _ (by omega), if_neg (by omega), mask k low high, Bool.and_true]
  · by_cases lt : k < 64
    · have clear : (0x3F0 : W64).getLsbD k = false := Nat.testBit_lt_two_pow (Nat.lt_of_lt_of_le (by decide) (Nat.pow_le_pow_right (n := 2) (by decide) high))
      rw [getLsbD_fpcsrWrite _ _ lt, if_neg (by omega), clear, Bool.and_false]
    · exact BitVec.getLsbD_of_ge _ _ (by omega)
  · rw [getLsbD_fpcsrWrite _ _ (by decide)]; simp
  · rw [BitVec.getLsbD_extractLsb', decide_eq_true lt, Bool.true_and, getLsbD_fpcsrWrite _ _ (by omega), if_pos (by omega)]
    split <;> rw [BitVec.getLsbD_extractLsb', decide_eq_true lt, Bool.true_and]

/-- Reserved bits of cr.progress stay zero (R111). -/
theorem progress_fields (v : W64) :
    let r := v &&& progMask
    r.getLsbD 63 = v.getLsbD 63 ∧ r.extractLsb' 57 6 = 0 ∧ r.extractLsb' 0 57 = v.extractLsb' 0 57 := by
  have reserved : ∀ i < 6, progMask.getLsbD (57 + i) = false := by decide
  have kept : ∀ i < 57, progMask.getLsbD (0 + i) = true := by decide
  refine ⟨?_, BitVec.eq_of_getLsbD_eq fun i lt => ?_, BitVec.eq_of_getLsbD_eq fun i lt => ?_⟩
  · rw [BitVec.getLsbD_and, show progMask.getLsbD 63 = true by decide, Bool.and_true]
  · rw [BitVec.getLsbD_extractLsb', BitVec.getLsbD_and, reserved i lt]; simp
  · rw [BitVec.getLsbD_extractLsb', BitVec.getLsbD_and, kept i lt, Bool.and_true, BitVec.getLsbD_extractLsb']

/-- A table base reads bits [51:12] of what was written (R184). -/
theorem crRead_crWrite_base (h : Hw) (t : Nat) (v : W64) : ∀ n ∈ [0x480, 0x680, 0x880, 0xC80, 0x884, 0xC84], (h.crWrite t n v).crRead t n = v &&& 0x000FFFFFFFFFF000 := by
  simp [Hw.crWrite, Hw.crRead, trapAssigned, setCode, plainMask, Thread.crv, Thread.setCrv]

/-- A register is out of reach for a level below its own, and a secure number outside the secure world but at M (R90). -/
theorem crAllowed_false {x : Thread} {n : Nat} (out : x.level.toNat < n >>> 10 ∨ (n.testBit 9 = true ∧ x.world = false ∧ x.level ≠ 3)) (write : Bool) :
    crAllowed x n write = false := by
  have base : (decide (n >>> 10 ≤ x.level.toNat) && (decide (x.level.toNat = 3) || !n.testBit 9 || x.world)) = false := by
    rcases out with below | ⟨secure, world, level⟩
    · rw [decide_eq_false (Nat.not_le.mpr below), Bool.false_and]
    · have level : x.level.toNat ≠ 3 := fun e => level (BitVec.eq_of_toNat_eq e)
      simp [secure, world, level]
  unfold crAllowed
  extract_lets lvl b
  rw [show b = false from base]
  split <;> rfl

end Sys2Proof.Machine

open Sys2Proof Sys2Proof.Machine

/-- Settles O20: the four instructions by their common work, and the registers by their fields. -/
theorem controlRegisters : Obligations.ControlRegisters := by
  refine ⟨fun s t d a crn f r => ?instructions, fun h t v => ?registers⟩
  case instructions =>
    have bad {o : CrOp} (not_legal : ¬ ((o = .rd → a = 0) ∧ (o = .wr → d = 0) ∧ crAssigned crn.toNat = true ∧ (o ≠ .rd → crReadOnly crn.toNat = false))) :
        o.bad d a crn.toNat = true := Bool.eq_true_of_not_eq_false (mt CrOp.bad_eq_false.mp not_legal)
    have write {o : CrOp} (writes : o ≠ .rd) (fit : o = .wr → d = 0) (writable : crAssigned crn.toNat = true ∧ crReadOnly crn.toNat = false) : o.bad d a crn.toNat = false :=
      CrOp.bad_eq_false.mpr ⟨fun read => absurd read writes, fit, writable.1, fun _ => writable.2⟩
    refine ⟨fun unfit => traps_cr_bad .rd r (bad fun ⟨zero, _, assigned, _⟩ => ?badRead), fun zero assigned => ?reads,
      fun unfit => traps_cr_bad .wr r (bad fun ⟨_, zero, assigned, writable⟩ => ?badWrite), fun zero writable => ?writes,
      fun unfit => ⟨traps_cr_bad .set r (bad fun ⟨_, _, assigned, writable⟩ => unfit ⟨assigned, writable nofun⟩),
        traps_cr_bad .clr r (bad fun ⟨_, _, assigned, writable⟩ => unfit ⟨assigned, writable nofun⟩)⟩,
      fun writable forbidden => ⟨traps_cr_forbidden .set r (write nofun nofun writable) forbidden, traps_cr_forbidden .clr r (write nofun nofun writable) forbidden⟩,
      fun writable allowed => ⟨ends_cr .set r nofun (write nofun nofun writable) allowed, ends_cr .clr r nofun (write nofun nofun writable) allowed⟩⟩
    case badRead => exact unfit.elim (fun named => named (zero rfl)) (Bool.eq_false_iff.mp · assigned)
    case badWrite => exact unfit.elim (fun named => named (zero rfl)) (fun fixed => fixed ⟨assigned, writable nofun⟩)
    case reads =>
      have legal : CrOp.bad .rd d a crn.toNat = false := CrOp.bad_eq_false.mpr ⟨fun _ => zero, nofun, assigned, fun write => absurd rfl write⟩
      refine ⟨traps_cr_forbidden .rd r legal, fun allowed => ?_⟩
      exact writesG_of (len := 4) (evs := []) rfl r (crBody_work legal (by rw [r.crAllowed]; exact allowed))
    case writes =>
      have legal : CrOp.bad .wr d a crn.toNat = false := write nofun (fun _ => zero) writable
      exact ⟨traps_cr_forbidden .wr r legal, ends_cr .wr r nofun legal⟩
  case registers =>
    refine ⟨rfl, rfl, rfl, status_fields h t, ?_, ?_, ?_, crRead_crWrite_base h t v, fun n secure world level => ?_, fun n below => ?_⟩
    · exact Hw.setThread_thread h t _
    · rw [Hw.crWrite, if_pos rfl, Hw.setThread_thread]
      exact fpcsr_fields _ _
    · rw [Hw.crWrite, if_neg (by decide), if_pos rfl, Hw.setThread_thread]
      exact progress_fields v
    · exact ⟨crAllowed_false (.inr ⟨secure, world, level⟩) _, crAllowed_false (.inr ⟨secure, world, level⟩) _⟩
    · exact ⟨crAllowed_false (.inl below) _, crAllowed_false (.inl below) _⟩

end

section
/-! SUPPORT. Fences and the timeout of a write-combining buffer (R98, R219 to R221, R224, R228). -/

namespace Sys2Proof.Machine

/-! The writes of the write-combining buffers leave every thread as it is. -/

theorem Hw.wcFlushOne_thr (h : Hw) (key : Nat) (b : WcBuf) : (h.wcFlushOne key b).thr = h.thr := by
  unfold Hw.wcFlushOne
  split
  · rfl
  · rw [Hw.send_thr]; rfl

theorem wcFlushes_thr (key : Nat) (l : List WcBuf) (h : Hw) : (l.foldl (fun h b => h.wcFlushOne key b) h).thr = h.thr := by
  induction l generalizing h with
  | nil => rfl
  | cons b l ih => rw [List.foldl_cons, ih, h.wcFlushOne_thr]

theorem Hw.wcFlush_thread (h : Hw) (t n : Nat) : (h.wcFlush t).thread n = h.thread n := by
  unfold Hw.thread Hw.wcFlush
  rw [wcFlushes_thr]

/-! Fences. -/

/-- A settled instruction whose work must wait: its attempt ends. -/
theorem issueSettled_waits {h f k : Hw} {t w : Nat} {body : Hw → Exe} (r : Ready h t w f) (b : body (f.fetched t) = .error (k, notNow)) :
    issueSettled t w body h = k.tryEnds t (h.thread t) := by
  rw [issueSettled_ready r]
  simp [runInstr, r.fetch, b, notNow]

section
variable {scope t : Nat} {p q : BitVec 3} {z : BitVec 18} {h : Hw}

/-- A fence's package once the buffers that it orders are written. -/
def Hw.fenceStart (h : Hw) (t : Nat) (p : BitVec 3) : Hw := if p.getLsbD 1 then h.wcFlush t else h

theorem fenceStart_thread (h : Hw) (t n : Nat) (p : BitVec 3) : (h.fenceStart t p).thread n = h.thread n := by
  unfold Hw.fenceStart
  split
  · exact h.wcFlush_thread t n
  · rfl

theorem fenceBody_bad (bad : z ≠ 0) : fenceBody scope t p q z h = .error (h, illegal (wordF scope p q z)) := if_pos (by simpa using bad)

theorem fenceBody_waits (waits : fenceWaits scope t p q (h.fenceStart t p) = true) :
    fenceBody scope t p q 0 h = .error ((h.fenceStart t p).onThread t (fun x => { x with fencing := true }), notNow) := by
  unfold fenceBody
  exact (if_neg (by decide)).trans (if_pos waits)

theorem fenceBody_goes (goes : ¬ fenceWaits scope t p q (h.fenceStart t p) = true) :
    fenceBody scope t p q 0 h = .ok (retire (if decide (scope = 0) && q.getLsbD 2 then (h.fenceStart t p).refetch t else h.fenceStart t p) t 4) := by
  unfold fenceBody
  exact (if_neg (by decide)).trans (if_neg goes)

/-- What a fence waits for, spelled out. -/
theorem fenceWaits_iff : fenceWaits scope t p q h = true ↔
    (p.getLsbD 1 = true ∧ ((h.thread t).sq ≠ [] ∨ ((h.core (h.coreKeyOf t)).wcbs.any (fun w => w.thread == t)) = true)) ∨
      (scope = 2 ∧ p.getLsbD 0 = true ∧ h.dpOpen t = true) ∨ ((p ≠ 0 ∨ q ≠ 0) ∧ tlbiWaits scope t h = true) := by
  unfold fenceWaits Hw.wcDone
  simp only [Bool.or_eq_true, Bool.and_eq_true, Bool.not_not, Bool.not_eq_true', List.isEmpty_eq_false_iff, decide_eq_true_eq, bne_iff_ne, or_assoc, and_assoc]

end

/-- The three fences are one instruction with a scope. -/
def fenceOf (t : Gtn) (p q : BitVec 3) (z : BitVec 18) (n : Fin 3) : Instr := if n = 0 then .fenceC t p q z else if n = 1 then .fenceD t p q z else .fenceS t p q z

theorem exec_fenceOf (s : State) (t : Gtn) (p q : BitVec 3) (z : BitVec 18) (n : Fin 3) :
    exec (fenceOf t p q z n) s = s.onHw (issueSettled t.val 1 (fenceBody n.val t.val p q z)) := by
  match n with
  | 0 => rfl
  | 1 => rfl
  | 2 => rfl

/-! The payload of a write-combining buffer: of the bytes written at one place the last. -/

/-- A byte enters the payload: its data and its bit of the mask. -/
def payloadStep (m : Nat × Nat) (e : Nat × Byte) : Nat × Nat :=
  (setNbits m.1 (8 * (e.1 % 64) + 7) (8 * (e.1 % 64)) e.2.toNat, m.2 ||| 2 ^ (e.1 % 64))

theorem WcBuf.payload_eq (b : WcBuf) : b.payload = b.bytes.foldl payloadStep (0, 0) := rfl

theorem payload_mask (l : List (Nat × Byte)) (m : Nat × Nat) (j : Nat) :
    (l.foldl payloadStep m).2.testBit j = (m.2.testBit j || l.any (fun e => e.1 % 64 == j)) := by
  induction l generalizing m with
  | nil => simp
  | cons e l ih =>
    rw [List.foldl_cons, ih, List.any_cons]
    simp only [payloadStep, Nat.testBit_or, Nat.testBit_two_pow, Bool.or_assoc]
    rfl

/-- Byte j of a number. -/
def byteAt (x j : Nat) : Byte := BitVec.ofNat 8 (x >>> (8 * j))

theorem byteAt_setNbits (x i j : Nat) (v : Byte) : byteAt (setNbits x (8 * i + 7) (8 * i) v.toNat) j = if i = j then v else byteAt x j := by
  apply BitVec.eq_of_getLsbD_eq
  intro k hk
  have bit (y : Nat) : (byteAt y j).getLsbD k = y.testBit (8 * j + k) := by
    rw [byteAt, BitVec.getLsbD_ofNat, Nat.testBit_shiftRight, decide_eq_true hk, Bool.true_and]
  rw [bit, setNbits_testBit _ _ _ _ _ (by omega)]
  by_cases same : i = j
  · rw [if_pos same, same, if_pos ⟨by omega, by omega⟩, Nat.add_sub_cancel_left]
    rfl
  · rw [if_neg same, if_neg (by omega), bit]

theorem payload_data (l : List (Nat × Byte)) (m : Nat × Nat) (j : Nat) :
    byteAt (l.foldl payloadStep m).1 j = ((l.reverse.find? (fun e => e.1 % 64 == j)).map (·.2)).getD (byteAt m.1 j) := by
  induction l generalizing m with
  | nil => rfl
  | cons e l ih =>
    rw [List.foldl_cons, ih, List.reverse_cons, List.find?_append]
    cases found : l.reverse.find? (fun e => e.1 % 64 == j) with
    | some b => rfl
    | none =>
      by_cases here : e.1 % 64 = j
      · simp [payloadStep, byteAt_setNbits, here]
      · simp [payloadStep, byteAt_setNbits, here]

theorem WcBuf.payload_mask (b : WcBuf) (j : Nat) : b.payload.2.testBit j = b.bytes.any (fun e => e.1 % 64 == j) := by
  rw [b.payload_eq, Machine.payload_mask]; simp

theorem WcBuf.payload_data (b : WcBuf) (j : Nat) : byteAt b.payload.1 j = ((b.bytes.reverse.find? (fun e => e.1 % 64 == j)).map (·.2)).getD 0 := by
  rw [b.payload_eq, Machine.payload_data]
  have zero : byteAt 0 j = 0 := by simp [byteAt]
  rw [zero]

/-- A buffer is full when it holds a byte at each of the 64 places. -/
theorem WcBuf.full_eq (b : WcBuf) : b.full = (List.range 64).all (fun j => b.bytes.any (fun e => e.1 % 64 == j)) := by
  rw [Bool.eq_iff_iff]
  simp only [WcBuf.full, beq_iff_eq, List.all_eq_true, List.mem_range, ← b.payload_mask]
  constructor
  · intro full j hj
    rw [full, Nat.testBit_two_pow_sub_one]
    simpa using hj
  · intro all
    refine Nat.eq_of_testBit_eq fun j => ?_
    rw [Nat.testBit_two_pow_sub_one]
    by_cases hj : j < 64
    · rw [all j hj, decide_eq_true hj]
    · rw [decide_eq_false hj, b.payload_mask]
      simp only [List.any_eq_false, beq_iff_eq]
      intro e _ at_j
      omega

/-- The timeout of a write-combining buffer: the thread's buffer for the line is written. -/
theorem execWcBufferTimeout_eq (t : Gtn) (line : BitVec 46) (s : State) {found : Option WcBuf}
    (e : (s.hw.core (s.hw.coreKeyOf t.val)).wcbs.find? (fun w => w.line == line.toNat && w.thread == t.val && !w.sent) = found) :
    exec (.wcBufferTimeout t line) s = .next { s with hw := found.elim s.hw (s.hw.wcFlushOne (s.hw.coreKeyOf t.val)) } := by
  subst e
  show Host.Outcome.next { s with hw := _ } = _
  congr 2
  dsimp only
  split <;> next found => rw [found]; rfl

end Sys2Proof.Machine

open Sys2Proof Sys2Proof.Machine

/-- Settles O24: the fence's work branch by branch, and the payload of a write-combining buffer byte by byte. -/
theorem fencesAndWriteCombining : Obligations.FencesAndWriteCombining := by
  refine ⟨?_, ?_⟩
  · intro s t p q z f n r x i k waits ahead m
    have work : exec i s = s.onHw (issueSettled t.val 1 (fenceBody n.val t.val p q z)) := exec_fenceOf s t p q z n
    have flushed : (f.fetched t.val).fenceStart t.val p = k := rfl
    have own : k.thread t.val = (f.fetched t.val).thread t.val := fenceStart_thread _ _ _ p
    have queue : (k.thread t.val).sq = x.sq := by
      rw [own, Hw.fetched, Hw.thread_onThread, if_pos rfl, r.kept t.val]
    have waiting : fenceWaits n.val t.val p q k = true ↔ waits := by
      rw [fenceWaits_iff, queue]
      simp only [waits, Fin.ext_iff]
      rfl
    have scope0 : (decide (n.val = 0) && q.getLsbD 2) = true ↔ n = 0 ∧ q.getLsbD 2 = true := by
      rw [Bool.and_eq_true, decide_eq_true_eq, Fin.ext_iff]
      rfl
    refine ⟨fun bad => traps_ofSettled work r (fenceBody_bad bad), ?_, ?_⟩
    · rintro rfl w
      rw [work, State.onHw_eq, issueSettled_waits r (fenceBody_waits (by rw [flushed]; exact waiting.2 w)), flushed]
    · rintro rfl w
      have body := fenceBody_goes (scope := n.val) (q := q) (by rw [flushed, waiting]; exact w)
      rw [flushed] at body
      simp only [scope0] at body
      obtain ⟨u, done, retired⟩ := retires_ofSettled work r body
      refine ⟨u, done, ?_⟩
      have same : m.thread t.val = k.thread t.val := by
        simp only [m]
        split <;> rfl
      have next : ({ (m.thread t.val).clearProg with pc := (m.thread t.val).pc + 4 } : Thread) = (m.thread t.val).after (x.pc + 4) := by
        rw [same, own, Hw.fetched, Hw.thread_onThread, if_pos rfl, ← r.pc]
        rfl
      rw [← next]
      exact retired
  · intro s t line key mine has
    refine ⟨fun none => execWcBufferTimeout_eq t line s none, fun b found => ?_⟩
    have fits : mine b = true := List.find?_some found
    simp only [mine, Bool.and_eq_true, beq_iff_eq, Bool.not_eq_true'] at fits
    obtain ⟨⟨same, thread⟩, unsent⟩ := fits
    refine ⟨{ op := if b.full then .WRF else .WRP, addr := b.line, agent := .core (key / 64) (key % 64), part := s.hw.partOf b.thread, world := b.world,
              info := 2, data := b.payload.1, mask := b.payload.2 }, ?_, ?_, ?_, ?_, rfl, fun j _ => ⟨b.payload_mask j, fun _ => b.payload_data j⟩⟩
    · rw [execWcBufferTimeout_eq t line s found, Option.elim_some, Hw.wcFlushOne, unsent]
      rfl
    · simp only [b.full_eq]; rfl
    · exact same
    · rw [thread]

end

section
/-! SUPPORT. What every walk and every fetch keep: a property of the package that each of their few steps keeps holds after the whole, and a property that every stop of theirs has holds where they fail (R61, R166 to R182, R190 to R194). -/

namespace Sys2Proof.Machine

/-- The outcome of an attempt: P holds where it succeeds, and Q where it fails. -/
def Ends {ε α : Type} (P Q : Hw → Prop) : Except (Hw × ε) (Hw × α) → Prop
  | .ok v => P v.1
  | .error v => Q v.1

/-- The same of an attempt that gives the package alone. -/
def EndsHw {ε : Type} (P Q : Hw → Prop) : Except (Hw × ε) Hw → Prop
  | .ok h => P h
  | .error v => Q v.1

section
variable {ε α : Type} {P Q : Hw → Prop} {h : Hw} {a : α} {x : ε}

theorem Ends.ok (p : P h) : Ends (ε := ε) P Q (.ok (h, a)) := p

theorem Ends.error (q : Q h) : Ends (α := α) P Q (.error (h, x)) := q

theorem EndsHw.error (q : Q h) : EndsHw P Q (.error (h, x)) := q

end

/-- P is kept by the steps of a walk in context c, and gives Q where the walk stops. -/
structure WalkKeeps (P Q : Hw → Prop) (c : Ctx) : Prop where
  stop : ∀ {h}, P h → Q h
  refuse : ∀ {h} part world pa, P h → Q (h.homeRefusal part world pa)
  wait : ∀ {h} t pa waits, c.thread = some t → P h → Q (h.walkTouch t pa waits).1
  touch : ∀ {h} t pa waits, c.thread = some t → P h → P (h.walkTouch t pa waits).1
  write : ∀ {h} a bs, P h → P (h.writeMem a bs)
  thread : ∀ {h} t g, P h → P (h.onThread t g)
  send : ∀ {h} m, P h → P (h.send m)
  draw : ∀ {h} n, P h → P (h.fresh n).2

section
variable {P Q : Hw → Prop} {c : Ctx} {wc : List WalkEnt} {h : Hw}

theorem WalkKeeps.orPte (k : WalkKeeps P Q c) (p : P h) (pa b : Nat) : P (orPte h pa b) := k.write _ _ p

theorem WalkKeeps.setDs (k : WalkKeeps P Q c) (l : List Nat) (p : P h) : P (setDs h l) := by
  induction l generalizing h with
  | nil => exact p
  | cons pa l ih => exact ih (k.orPte p pa 11)

theorem WalkKeeps.notePtr (k : WalkKeeps P Q c) (p : P h) (s2 : Bool) (pa : Nat) (e : W64) : P (notePtr h c s2 pa e) := by
  unfold Machine.notePtr
  split
  · split
    · exact k.thread _ _ p
    · exact p
  · exact p

theorem WalkKeeps.passPte (k : WalkKeeps P Q c) (p : P h) (s2 : Bool) (pa : Nat) (e : W64) (hwad : Bool) : P (passPte h c s2 pa e hwad) := by
  unfold Machine.passPte
  split
  · exact k.notePtr (k.orPte p pa 10) _ _ _
  · exact k.notePtr p _ _ _

theorem WalkKeeps.readPte (k : WalkKeeps P Q c) (p : P h) (lvl pa : Nat) : Ends P Q (readPte h c lvl pa) := by
  unfold Machine.readPte
  split
  · exact k.stop p
  split
  · exact k.refuse _ _ _ p
  split
  · exact k.stop p
  cases own : c.thread with
  | none =>
    dsimp only
    split
    · exact k.stop p
    · exact .ok (k.send _ p)
  | some t =>
    dsimp only
    split
    · exact k.stop p
    split
    · exact k.wait t pa _ own p
    · exact k.touch t pa _ own p

theorem WalkKeeps.readPteC (k : WalkKeeps P Q c) (p : P h) (s2 st : Bool) (lvl pa : Nat) : Ends P Q (readPteC h c wc s2 st lvl pa) := by
  unfold Machine.readPteC
  split
  · split
    · exact k.readPte p _ _
    · exact p
  · exact k.readPte p _ _

theorem WalkKeeps.psWalk (k : WalkKeeps P Q c) (ia : Nat) (table st : Bool) (lvl base : Nat) (p : P h) : Ends P Q (psWalk c wc ia table st lvl base h) := by
  induction lvl generalizing base h with
  | zero =>
    unfold Machine.psWalk
    extract_lets idx pa
    have read := k.readPteC (wc := wc) p true st 0 pa
    split
    · next e failed => rw [failed] at read; exact read
    · next h1 e found =>
      rw [found] at read
      extract_lets h2
      split
      · exact k.stop read
      split
      · exact k.stop read
      split
      · exact read
      · exact k.stop (k.passPte read _ _ _ _)
  | succ n ih =>
    unfold Machine.psWalk
    extract_lets idx pa
    have read := k.readPteC (wc := wc) p true st (n + 1) pa
    split
    · next e failed => rw [failed] at read; exact read
    · next h1 e found =>
      rw [found] at read
      extract_lets h2
      split
      · exact k.stop read
      split
      · exact k.stop read
      split
      · exact read
      · exact ih _ (k.passPte read _ _ _ _)

theorem WalkKeeps.psTranslate (k : WalkKeeps P Q c) (p : P h) (ia : Nat) (acc : Acc) (table : Bool) : Ends P Q (psTranslate c wc ia acc table h) := by
  unfold Machine.psTranslate
  have walked := k.psWalk (wc := wc) ia table (decide (acc = .store)) 4 c.psbase p
  split
  · next e failed => rw [failed] at walked; exact walked
  · next h1 l found =>
    rw [found] at walked
    extract_lets ok needD sh
    split
    · exact k.stop walked
    split
    · exact k.stop walked
    · exact k.passPte walked _ _ _ _

theorem WalkKeeps.s1ModCheck (k : WalkKeeps P Q c) (p : P h) (ia : Nat) : Ends P Q (s1ModCheck c wc ia h) := by
  unfold Machine.s1ModCheck
  have checked := k.psTranslate (wc := wc) p ia .store true
  split
  · exact p
  split
  · next e failed => rw [failed] at checked; exact checked
  · next found => rw [found] at checked; exact checked

theorem WalkKeeps.s1EntryPa (k : WalkKeeps P Q c) (p : P h) (ea : Nat) : Ends P Q (s1EntryPa c wc ea h) := by
  unfold Machine.s1EntryPa
  have found := k.psTranslate (wc := wc) p ea .load true
  split
  · exact p
  split
  · next e failed => rw [failed] at found; exact found
  · next ok =>
    rw [ok] at found
    split
    · exact k.stop found
    · exact found

theorem WalkKeeps.s1Pass (k : WalkKeeps P Q c) (p : P h) (ia pa : Nat) (e : W64) : EndsHw P Q (s1Pass c wc ia pa e h) := by
  unfold Machine.s1Pass
  have checked := k.s1ModCheck (wc := wc) p ia
  split
  · split
    · next x failed => rw [failed] at checked; exact checked
    · next ok => rw [ok] at checked; exact k.passPte (k.setDs _ checked) _ _ _ _
  · exact k.passPte p _ _ _ _

/-- One level of the stage-1 walk, given the walk of the level below. -/
theorem WalkKeeps.s1Level (k : WalkKeeps P Q c) (va lvl base : Nat) (p : P h)
    (below : ∀ j, lvl = j + 1 → ∀ base h, P h → Ends P Q (s1Walk c wc va j base h)) : Ends P Q (s1Walk c wc va lvl base h) := by
  unfold Machine.s1Walk
  extract_lets ea
  have placed := k.s1EntryPa (wc := wc) p ea
  split
  · next e failed => rw [failed] at placed; exact placed
  next h1 pa ok =>
  rw [ok] at placed
  have read := k.readPteC (wc := wc) placed false false lvl pa
  split
  · next e failed => rw [failed] at read; exact read
  next h2 e ok =>
  rw [ok] at read
  split
  · exact k.stop read
  split
  · exact k.stop read
  split
  · exact read
  have passed := k.s1Pass (wc := wc) read ea pa e
  split
  · next x failed => rw [failed] at passed; exact passed
  next h3 ok =>
  rw [ok] at passed
  cases lvl with
  | zero => exact k.stop passed
  | succ n => exact below n rfl _ _ passed

theorem WalkKeeps.s1Walk (k : WalkKeeps P Q c) (va lvl base : Nat) (p : P h) : Ends P Q (s1Walk c wc va lvl base h) := by
  induction lvl generalizing base h with
  | zero => exact k.s1Level va 0 base p nofun
  | succ n ih => exact k.s1Level va (n + 1) base p (fun j e base h p => by cases e; exact ih base p)

theorem WalkKeeps.stage1 (k : WalkKeeps P Q c) (p : P h) (va : Nat) (acc : Acc) : Ends P Q (stage1 c wc va acc h) := by
  unfold Machine.stage1
  have walked := k.s1Walk (wc := wc) va 4 c.s1base p
  split
  · next e failed => rw [failed] at walked; exact walked
  next h1 l ok =>
  rw [ok] at walked
  extract_lets needD upd
  split
  · exact k.stop walked
  split
  · exact k.stop walked
  have checked : Ends P Q (if upd = true then Machine.s1ModCheck c wc l.ia h1 else .ok (h1, [])) := by
    split
    · exact k.s1ModCheck walked _
    · exact walked
  split
  · next e failed => rw [failed] at checked; exact checked
  next h2 ds ok =>
  rw [ok] at checked
  show P (if _ then _ else h2)
  split
  · exact k.orPte (k.setDs ds checked) _ _
  · exact checked

theorem WalkKeeps.walkEnd (k : WalkKeeps P Q c) (p : P h) (va : Nat) (acc : Acc) (l1 : Option S1Leaf) (l2 : Option PsLeaf) (pa : Nat) (ds : List Nat) :
    Ends P Q (walkEnd c va acc l1 l2 pa ds h) := by
  unfold Machine.walkEnd
  extract_lets eff
  split
  · exact k.stop p
  · exact p

theorem WalkKeeps.walkPart (k : WalkKeeps P Q c) (p : P h) (va ia : Nat) (acc : Acc) (l1 : Option S1Leaf) (ds : List Nat) :
    Ends P Q (walkPart c wc va ia acc l1 ds h) := by
  unfold Machine.walkPart
  have translated := k.psTranslate (wc := wc) p ia acc false
  split
  · split
    · next e failed => rw [failed] at translated; exact translated
    · next ok => rw [ok] at translated; exact k.walkEnd translated _ _ _ _ _ _
  · exact k.walkEnd p _ _ _ _ _ _

theorem WalkKeeps.walkAll (k : WalkKeeps P Q c) (p : P h) (va : Nat) (acc : Acc) : Ends P Q (walkAll c wc va acc h) := by
  unfold Machine.walkAll
  have first := k.stage1 (wc := wc) p va acc
  split
  · split
    · next e failed => rw [failed] at first; exact first
    · next ok => rw [ok] at first; exact k.walkPart first _ _ _ _ _
  · exact k.walkPart p _ _ _ _ _

theorem WalkKeeps.translate (k : WalkKeeps P Q c) (p : P h) (es : List TlbEnt) (va : W64) (acc : Acc) : Ends P Q (translate c es wc va acc h) := by
  unfold Machine.translate
  split
  · exact k.stop p
  extract_lets v eff
  split
  · split
    · exact p
    · exact k.stop p
  split
  · exact k.walkAll p _ _
  · split
    · exact p
    · exact k.walkAll p _ _
  · have drawn : P (h.fresh 16).2 := k.draw 16 p
    dsimp only
    split
    · exact drawn
    · exact k.walkAll drawn _ _

theorem WalkKeeps.xlate (k : WalkKeeps P Q c) (p : P h) (t : Nat) (va : W64) (acc : Acc) : Ends P Q (xlate h t c va acc) := by
  unfold Machine.xlate
  extract_lets core
  have translated := k.translate (wc := core.walk1 ++ core.walk2) p (core.tlbFor (h.thread t) acc) va acc
  split
  · next e failed => rw [failed] at translated; exact translated
  next h1 r ok =>
  rw [ok] at translated
  split
  · exact .ok (k.thread _ _ translated)
  · exact translated

end

/-! Fetches. -/

/-- P is kept by the steps of a fetch of thread t, and gives Q where the fetch stops. -/
structure FetchKeeps (P Q : Hw → Prop) (t : Nat) : Prop where
  walk : ∀ c, c.thread = some t → WalkKeeps P Q c
  record : ∀ {h} die set r, P h → Q (h.ras die set r)
  ask : ∀ {h} line, P h → Q (h.ncAsk t line)
  forget : ∀ {h} g, P h → Q (h.onThread t g)
  fill : ∀ {h} pa va, P h → P (h.fetchFill t pa va)
  retire : ∀ {h}, P h → P (h.retireFetches t)

section
variable {P Q : Hw → Prop} {t : Nat} {h : Hw}

theorem Hw.ctx_thread (h : Hw) (t : Nat) : (h.ctx t).thread = some t := by
  unfold Hw.ctx ctxOf
  extract_lets x mk
  split
  · rfl
  split
  · rfl
  split <;> rfl

theorem FetchKeeps.own (k : FetchKeeps P Q t) (h : Hw) : WalkKeeps P Q (h.ctx t) := k.walk _ (h.ctx_thread t)

theorem FetchKeeps.xlateT (k : FetchKeeps P Q t) (p : P h) (va : W64) (acc : Acc) : Ends P Q (xlateT h t va acc) := by
  unfold Machine.xlateT
  have translated := (k.own h).xlate p t va acc
  split
  · next ok => rw [ok] at translated; exact translated
  · next failed => rw [failed] at translated; exact translated

/-- A cause that the home gives. -/
theorem FetchKeeps.homeCause (k : FetchKeeps P Q t) (p : P h) (pa : Nat) (va : W64) (acc : Acc) {k' : Hw} {c : Cause} (e : homeCause h t pa va acc = some (k', c)) : Q k' := by
  unfold Machine.homeCause at e
  extract_lets part world ac at e
  split at e
  · obtain ⟨rfl, _⟩ := Prod.mk.inj (Option.some.inj e)
    exact k.record _ _ _ p
  split at e
  · obtain ⟨rfl, _⟩ := Prod.mk.inj (Option.some.inj e)
    exact (k.own h).stop p
  split at e
  · obtain ⟨rfl, _⟩ := Prod.mk.inj (Option.some.inj e)
    exact k.forget _ p
  split at e
  · obtain ⟨rfl, _⟩ := Prod.mk.inj (Option.some.inj e)
    exact k.record _ _ _ p
  · cases e

/-- The line of a fetched word. -/
theorem FetchKeeps.fetchLine (k : FetchKeeps P Q t) (p : P h) (r : XRes) (va : W64) : match fetchLine h t r va with
    | .ok h' => P h'
    | .error h' => Q h' := by
  have stop : Q h := (k.own h).stop p
  unfold Machine.fetchLine
  split
  · next ok =>
    split at ok
    · split at ok
      · cases ok
      · rw [← Except.ok.inj ok]
        exact k.fill _ _ p
    split at ok
    · rw [← Except.ok.inj ok]
      exact p
    · cases ok
  · next failed =>
    split at failed
    · split at failed
      · rw [← Except.error.inj failed]
        exact stop
      · cases failed
    split at failed
    · cases failed
    · rw [← Except.error.inj failed]
      split
      · exact k.ask _ p
      · exact stop

theorem FetchKeeps.fetchWord (k : FetchKeeps P Q t) (p : P h) (va : W64) : EndsHw P Q (fetchWord h t va) := by
  unfold Machine.fetchWord
  split
  · exact .error ((k.own h).stop p)
  have translated := k.xlateT p va .fetch
  split
  · next failed => rw [failed] at translated; exact .error translated
  next h1 r ok =>
  rw [ok] at translated
  extract_lets h2
  have marked : P h2 := (k.own h1).setDs _ translated
  split
  · next refused => exact .error (k.homeCause marked _ _ _ refused)
  have line := k.fetchLine marked r va
  split
  · next got => rw [got] at line; exact line
  · next waits => rw [waits] at line; exact .error line

theorem FetchKeeps.fetchAll (k : FetchKeeps P Q t) (p : P h) (words : Nat) : EndsHw P Q (fetchAll h t words) := by
  unfold Machine.fetchAll
  extract_lets h1 pc
  have begun : P h1 := by
    show P (if _ then _ else h)
    split
    · exact k.retire p
    · exact p
  have first := k.fetchWord begun pc
  split
  · next failed => rw [failed] at first; exact first
  next h2 ok =>
  rw [ok] at first
  split
  · exact k.fetchWord first _
  · exact first

end

end Sys2Proof.Machine
end

section
/-! SUPPORT. A thread none of whose loads is open stays so through a fetch, on the core that carries it (R50, R61). -/

namespace Sys2Proof.Machine

/-- Core p carries thread t, and none of the thread's entries in the core's fill buffers is open. -/
structure Hw.Idle (t p : Nat) (h : Hw) : Prop where
  carried : h.pcoreOf t = some p
  shut : ∀ f ∈ (h.core (coreKey (dieOfThread t) p)).fills, f.thread = t → f.isOpen = false

theorem isEmpty_openFills_iff (h : Hw) (t : Nat) : h.openFills t = [] ↔ ∀ f ∈ (h.core (h.coreKeyOf t)).fills, f.thread = t → f.isOpen = false := by
  unfold Hw.openFills
  simp only [List.filter_eq_nil_iff, Bool.and_eq_true, beq_iff_eq, not_and, Bool.not_eq_true]

section
variable {t p : Nat} {h k : Hw}

theorem Hw.Idle.of_openFills (carried : h.pcoreOf t = some p) (none : h.openFills t = []) : h.Idle t p :=
  ⟨carried, by rw [isEmpty_openFills_iff, h.coreKeyOf_eq carried] at none; exact none⟩

theorem Hw.Idle.key (i : h.Idle t p) : h.coreKeyOf t = coreKey (dieOfThread t) p := h.coreKeyOf_eq i.carried

theorem Hw.Idle.openFills (i : h.Idle t p) : h.openFills t = [] := by
  rw [isEmpty_openFills_iff, i.key]
  exact i.shut

theorem Hw.Idle.olderValid (i : h.Idle t p) : h.olderValid t = true := by
  rw [Hw.olderValid, i.openFills]
  rfl

/-! Which core carries the thread. -/

theorem pcoreOf_congr (lcmap : ∀ i < 4, k.reg .DCTL_LCMAP (dieOfThread t) 0 i = h.reg .DCTL_LCMAP (dieOfThread t) 0 i) : k.pcoreOf t = h.pcoreOf t := by
  have byte : lcoreOf t / 8 < 4 := by unfold lcoreOf; omega
  simp only [Hw.pcoreOf, lcmap _ byte]

theorem computePlace_pmc (q n : Nat) : computePlace .CORE_PMC q n = 0x3000000 + 0x100000 * q + (RegName.desc .CORE_PMC).off + 8 * n := by
  simp [computePlace, RegName.desc, Block.place, Nat.mod_one, Nat.mul_comm]

theorem computePlace_pmsel (q n : Nat) : computePlace .CORE_PMSEL q n = 0x3000000 + 0x100000 * q + (RegName.desc .CORE_PMSEL).off + 8 * n := by
  simp [computePlace, RegName.desc, Block.place, Nat.mod_one, Nat.mul_comm]

theorem regReset_lcmap (die i : Nat) : regReset .DCTL_LCMAP die 0 i = 0 := by
  rw [show regReset .DCTL_LCMAP die 0 i = regReset .DCTL_LCMAP 0 0 0 from rfl]
  decide

/-- Counting an event leaves the map of the cores. -/
theorem Counted.pcoreOf (hi : dieOfThread t ≤ 12) (c : Counted t h k) : k.pcoreOf t = h.pcoreOf t := by
  have lo := one_le_dieOfThread t
  refine pcoreOf_congr (fun i lt => ?_)
  have same := c.window (regAddr .DCTL_LCMAP (dieOfThread t) 0 i) (fun q n _ _ => by
    rw [regAddr_compute _ _ _ _ lo hi, regAddr_compute _ _ _ _ lo hi, regAddr_compute _ _ _ _ lo hi, computePlace_lcmap, computePlace_pmc, computePlace_pmsel]
    omega)
  rw [Hw.reg, Hw.reg, regReset_lcmap]
  exact same

/-! Steps that keep it. -/

theorem Hw.Idle.holds {gone : Nat → Prop} (i : h.Idle t p) (carried : k.pcoreOf t = h.pcoreOf t)
    (c : Core.Holds gone (h.core (coreKey (dieOfThread t) p)) (k.core (coreKey (dieOfThread t) p))) : k.Idle t p := by
  refine ⟨carried.trans i.carried, fun f listed own => ?_⟩
  obtain ⟨g, old, marked⟩ := c.fills f listed
  rcases marked with rfl | ⟨_, rfl⟩
  · exact i.shut f old own
  · exact i.shut g old own

theorem Hw.Idle.coreKept {gone : Nat → Prop} (i : h.Idle t p) (c : CoreKept (dieOfThread t) p gone h k) : k.Idle t p :=
  i.holds (pcoreOf_congr c.lcmap) c.core

theorem Hw.Idle.same (i : h.Idle t p) (cores : k.cores = h.cores) (regs : k.regs = h.regs) : k.Idle t p :=
  i.coreKept (gone := fun _ => True) (.same cores regs)

theorem Hw.Idle.counted (hi : dieOfThread t ≤ 12) (i : h.Idle t p) (c : Counted t h k) : k.Idle t p :=
  i.holds (gone := fun _ => True) (c.pcoreOf hi) (by rw [c.core]; exact .refl _ _)

/-- The entries of a core change so that none of the thread's becomes open. -/
theorem Hw.Idle.onCore (i : h.Idle t p) (n : Nat) (f : Core → Core)
    (shut : ∀ c : Core, (∀ g ∈ c.fills, g.thread = t → g.isOpen = false) → ∀ g ∈ (f c).fills, g.thread = t → g.isOpen = false) : (h.onCore n f).Idle t p := by
  refine ⟨i.carried, ?_⟩
  rw [Hw.core_onCore]
  split
  · next here => exact shut _ (here ▸ i.shut)
  · exact i.shut

theorem Hw.Idle.onCore_same (i : h.Idle t p) (n : Nat) (f : Core → Core) (fills : ∀ c, (f c).fills = c.fills) : (h.onCore n f).Idle t p :=
  i.onCore n f (fun c shut => by rw [fills]; exact shut)

theorem Hw.Idle.ite (c : Prop) [Decidable c] {a b : Hw} (x : a.Idle t p) (y : b.Idle t p) : (if c then a else b).Idle t p := by
  split <;> assumption

theorem Hw.Idle.foldl {α : Type} {l : List α} {g : Hw → α → Hw} (hg : ∀ a ∈ l, ∀ h : Hw, h.Idle t p → (g h a).Idle t p) (i : h.Idle t p) : (l.foldl g h).Idle t p := by
  induction l generalizing h with
  | nil => exact i
  | cons a l ih => exact ih (fun b listed => hg b (List.mem_cons_of_mem _ listed)) (hg a List.mem_cons_self h i)

end

/-! A settled read at the slice. -/

section
variable {die p : Nat} {h : Hw}

/-- A core whose fill buffers are the same, and whose caches may have changed. -/
theorem Core.Holds.fillsSame {c d : Core} (fills : d.fills = c.fills) (cleaning : d.cleaning = c.cleaning) : Core.Holds (fun _ => True) c d :=
  ⟨fun f listed => ⟨f, fills ▸ listed, .inl rfl⟩, fun _ stays => absurd trivial stays, fun _ stays => absurd trivial stays,
    fun _ stays => absurd trivial stays, fun _ stays => absurd trivial stays, cleaning⟩

theorem CoreKept.any {gone : Nat → Prop} {k : Hw} (c : CoreKept die p gone h k) : CoreKept die p (fun _ => True) h k := c.mono (fun _ _ => trivial)

theorem CoreKept.l2Share (lo : 1 ≤ die) (hi : die ≤ 12) (h : Hw) (line : Nat) : CoreKept die p (fun _ => True) h (h.l2Share die line) := by
  refine .foldl _ (fun h q => ?_) _ h
  extract_lets st h1 h2
  have shared : CoreKept die p (fun _ => True) h h1 := (CoreKept.coreWake lo hi h _ _).trans (.onCore _ _ _ (fun _ => .fillsSame rfl rfl))
  have dirty : CoreKept die p (fun _ => True) h h2 := .ite _ (shared.trans (.onCDie _ _ _)) shared
  exact .ite _ (dirty.trans (.coreLosesLine _ _ _ _)) (.refl h)

theorem CoreKept.sliceRead {t : Nat} (hi : dieOfThread t ≤ 12) (lt : p < 64) (h : Hw) (line : Nat) :
    CoreKept (dieOfThread t) p (fun _ => True) h (h.sliceRead t line).1 := by
  have lo := one_le_dieOfThread t
  unfold Hw.sliceRead
  extract_lets die q w h1
  have looked : CoreKept die p (fun _ => True) h (h1.countRecalls die line none w) := (CoreKept.sliceLookup lo hi lt h _ _ _).trans (.countRecalls lo hi lt _ _ _ _)
  split
  · exact (looked.trans (.l2Share lo hi _ _)).trans (CoreKept.sfRecord lo hi lt _ _ _ _).any
  · exact (looked.trans (.l2DropOthers lo hi lt _ _ _ trivial)).trans (.dieRequest lo hi lt _ _ _ _ _ _)

end

/-! Fill buffers, retirement and prefetches of a thread that has no open load. -/

section
variable {t p : Nat} {h : Hw}

theorem Hw.Idle.pcore_lt (i : h.Idle t p) : p < 64 := h.pcoreOf_lt _ _ i.carried

theorem Hw.Idle.sliceRead (hi : dieOfThread t ≤ 12) (i : h.Idle t p) (line : Nat) : (h.sliceRead t line).1.Idle t p := i.coreKept (.sliceRead hi i.pcore_lt h line)

theorem Hw.Idle.addFill (hi : dieOfThread t ≤ 12) (i : h.Idle t p) {e : FillEnt} (own : e.thread = t) (settled : e.settled = true) (shut : e.isOpen = false) :
    (h.addFill e).Idle t p := by
  unfold Hw.addFill
  extract_lets t' die q put r
  rw [if_pos settled]
  refine Hw.Idle.onCore (own ▸ i.sliceRead hi e.line) _ _ (fun c old g listed ours => ?_)
  rcases List.mem_append.mp listed with was | new
  · exact old g was ours
  · rw [List.mem_singleton.mp new]
    exact shut

theorem Hw.Idle.hitTouch (i : h.Idle t p) {e : FillEnt} (own : e.thread = t) : (h.hitTouch e).Idle t p := by
  subst own
  exact i.coreKept (.hitTouch i.carried)

theorem Hw.Idle.installFill {e : FillEnt} (hi : dieOfThread t ≤ 12) (i : h.Idle t p) (own : e.thread = t) : (h.installFill e).Idle t p := by
  subst own
  exact i.coreKept (.installFill hi i.carried)

theorem Hw.Idle.count (hi : dieOfThread t ≤ 12) (i : h.Idle t p) (ev : Nat) : (h.count t ev).Idle t p := i.counted hi (h.count_counted t ev)

theorem Hw.Idle.prefetch (hi : dieOfThread t ≤ 12) (i : h.Idle t p) (line l : Nat) (fetch : Bool) : (h.prefetch t line l fetch).Idle t p := by
  unfold Hw.prefetch
  extract_lets die q c h1 r
  have read : r.1.Idle t p := (i.count hi _).sliceRead hi l
  split
  · exact i
  split
  · have core : q = p := by simp only [q, i.carried, Option.getD_some]
    have out : (r.1.onCore (coreKey die q) (fun c => { c with pfOut := rem c.pfOut l, pfLines := if r.1.coreCacheOff die q 2 then c.pfLines else ins c.pfLines l })).Idle t p :=
      read.onCore_same _ _ (fun _ => rfl)
    unfold Hw.prefetched
    refine out.coreKept (gone := (· ≠ l)) ?_
    subst core
    exact CoreKept.l2Install (one_le_dieOfThread t) hi i.pcore_lt _ _ _ (l2Grant_ne _ _ _ _) _
  · exact read.onCore_same _ _ (fun _ => rfl)

theorem Hw.Idle.train (hi : dieOfThread t ≤ 12) (i : h.Idle t p) (line : Nat) (pc : W64) (fetch miss : Bool) : (h.train t line pc fetch miss).Idle t p := by
  unfold Hw.train
  extract_lets die q on c st h0 h1 sm depth h3 h2
  have strides : h0.Idle t p := i.onCore_same _ _ (fun _ => rfl)
  have strode : h1.Idle t p := by
    show Hw.Idle t p (if _ then h else _)
    split
    · exact i
    split
    · exact strides.prefetch hi _ _ _
    · exact strides
  have streams : h3.Idle t p := strode.onCore_same _ _ (fun _ => rfl)
  have streamed : h2.Idle t p := by
    show Hw.Idle t p (if _ then h1 else if _ then _ else h3)
    split
    · exact strode
    split
    · exact .foldl (fun _ _ _ i => i.prefetch hi _ _ _) streams
    · exact streams
  split
  · exact i
  split
  · split
    · exact i.prefetch hi _ _ _
    · exact i
  split
  · exact strode
  split
  · exact streamed.prefetch hi _ _ _
  · exact streamed

theorem Hw.Idle.installWalks (i : h.Idle t p) (before : Option Nat) : (h.installWalks t before).Idle t p := by
  refine i.holds (gone := fun _ => True) ?_ (holds_installWalks h t _ before)
  unfold Hw.installWalks
  extract_lets x due w q set ents h1
  exact apply_ite (Hw.pcoreOf · t) _ _ _ |>.trans (ite_self _)

theorem trainPreds_fills (l : List PredEnt) (c : Core) : (l.foldl Core.trainPred c).fills = c.fills := by
  induction l generalizing c with
  | nil => rfl
  | cons e l ih =>
    rw [List.foldl_cons, ih, Core.trainPred]
    split <;> rfl

theorem Hw.Idle.flushQ (hi : dieOfThread t ≤ 12) (i : h.Idle t p) : (h.flushQ t).Idle t p := by
  unfold Hw.flushQ
  extract_lets x h1
  have emptied : (h.onThread t (fun x => { x with evq := [], trainq := [], lseq := 0 })).Idle t p := i.same rfl rfl
  have counted := emptied.counted hi (Hw.counts_counted _ t x.evq)
  have trained := counted.onCore_same (h.coreKeyOf t) (fun c => x.trainq.foldl Core.trainPred c) (trainPreds_fills x.trainq)
  exact .ite _ i (Hw.Idle.installWalks (.ite _ i trained) none)

/-- No load of the thread is open, so none is the oldest. -/
theorem Hw.Idle.oldestUse (i : h.Idle t p) : h.oldestUse t = none := by
  rw [Hw.oldestUse, i.openFills]
  rfl

/-- The last load of an entry of the thread retires. -/
theorem Hw.Idle.retireUse (hi : dieOfThread t ≤ 12) (i : h.Idle t p) {e : FillEnt} (own : e.thread = t) (last : e.uses.drop 1 = []) (u : FillUse) :
    (h.retireUse e u).Idle t p := by
  unfold Hw.retireUse
  extract_lets t' left h1 h2 h3 h4 h5
  have left1 : h1.Idle t p := by
    refine i.onCore _ _ (fun c old g listed ours => ?_)
    obtain ⟨f, was, kept⟩ := List.mem_filterMap.mp listed
    rw [show left.isEmpty = true from by rw [show left = [] from last]; rfl] at kept
    split at kept
    · cases kept
      exact old _ was ours
    · cases kept
  have cached : h2.Idle t p := .ite _ (left1.installFill hi own) (left1.hitTouch own)
  have own' : t' = t := own
  have used : h3.Idle t p := .ite _ (own' ▸ Hw.Idle.count (own'.symm ▸ hi) (own'.symm ▸ cached.onCore_same _ (fun c => { c with pfLines := rem c.pfLines e.line }) (fun _ => rfl)) _) cached
  have counted : h4.Idle t p := .ite _ (own' ▸ Hw.Idle.count (own'.symm ▸ hi) (own'.symm ▸ used) _) used
  have trained : h5.Idle t p := .ite _ counted (own' ▸ Hw.Idle.train (own'.symm ▸ hi) (own'.symm ▸ counted) _ _ _ _)
  clear_value h5
  subst own
  rw [trained.oldestUse]
  exact trained.flushQ hi

theorem Hw.Idle.retireFetches (hi : dieOfThread t ≤ 12) (i : h.Idle t p) : (h.retireFetches t).Idle t p := by
  unfold Hw.retireFetches
  extract_lets done c h1
  have kept : h1.Idle t p := by
    show Hw.Idle t p (if _ then _ else h)
    split
    · exact i.onCore _ _ (fun c old g listed ours => old g (List.mem_filter.mp listed).1 ours)
    · exact i
  refine .foldl (fun f listed h i => ?_) kept
  have own : done f = true := by
    have := (List.mem_filter.mp listed).2
    simp only [Bool.and_eq_true] at this
    exact this.1
  simp only [done, Bool.and_eq_true, beq_iff_eq] at own
  obtain ⟨⟨⟨⟨ours, _⟩, _⟩, _⟩, _⟩ := own
  exact i.retireUse (e := { f with uses := f.uses.take 1 }) hi ours (by rw [List.drop_take]; rfl) _

theorem Hw.Idle.fetchFill (hi : dieOfThread t ≤ 12) (i : h.Idle t p) (pa : Nat) (va : W64) : (h.fetchFill t pa va).Idle t p := by
  unfold Hw.fetchFill
  extract_lets x behind st line hit u e
  have ahead : behind = false := by simp only [behind, i.openFills]; rfl
  have shut : e.isOpen = false := by simp [e, FillEnt.isOpen, u, ahead]
  have settled : e.settled = true := by simp [e, st, i.olderValid]
  have own : e.thread = t := rfl
  have appended (c : Core) (old : ∀ g ∈ c.fills, g.thread = t → g.isOpen = false) : ∀ g ∈ c.fills ++ [e], g.thread = t → g.isOpen = false := by
    intro g listed ours
    rcases List.mem_append.mp listed with was | new
    · exact old g was ours
    · rw [List.mem_singleton.mp new]
      exact shut
  clear_value e behind
  subst ahead
  split
  · rw [Bool.false_and]; exact i
  · exact .ite _ (i.hitTouch own) (.ite _ (i.onCore _ _ appended) (i.addFill hi own settled shut))

theorem Hw.Idle.walkTouch (hi : dieOfThread t ≤ 12) (i : h.Idle t p) (pa : Nat) (waits : Bool) : (h.walkTouch t pa waits).1.Idle t p := by
  unfold Hw.walkTouch
  extract_lets x line behind st hit u e
  have ahead : behind = false := by simp only [behind, i.openFills]; rfl
  have shut : e.isOpen = false := by simp [e, FillEnt.isOpen, u, ahead]
  have settled : e.settled = true := by simp [e, st, i.olderValid]
  have own : e.thread = t := rfl
  clear_value e behind
  subst ahead
  split
  · exact i
  split
  · exact i.hitTouch own
  split
  · exact i
  · exact i.addFill hi own settled shut

/-- A fetch of the thread. -/
theorem idle_fetchKeeps (hi : dieOfThread t ≤ 12) : FetchKeeps (Hw.Idle t p) (fun _ => True) t where
  walk c own :=
    { stop := fun _ => trivial
      refuse := fun _ _ _ _ => trivial
      wait := fun _ _ _ _ _ => trivial
      touch := fun t' pa waits same i => by
        rw [own] at same
        cases same
        exact i.walkTouch hi pa waits
      write := fun _ _ i => i.same rfl rfl
      thread := fun _ _ i => i.same rfl rfl
      send := fun m i => i.coreKept (gone := fun _ => True) (.send _ m)
      draw := fun _ i => i.same rfl rfl }
  record _ _ _ _ := trivial
  ask _ _ := trivial
  forget _ _ := trivial
  fill pa va i := i.fetchFill hi pa va
  retire i := i.retireFetches hi

end

/-- No load of a ready thread is open after its fetch. -/
theorem Ready.openFills {h f : Hw} {t : Gtn} {w : Nat} (r : Ready h t.val w f) : f.openFills t.val = [] := by
  obtain ⟨runs, settled, _, fetch⟩ := r
  simp only [Hw.canRun, Bool.and_eq_true] at runs
  obtain ⟨p, carried⟩ := Option.isSome_iff_exists.mp runs.1.2
  have idle := (idle_fetchKeeps (dieOfThread_le t)).fetchAll (Hw.Idle.of_openFills carried settled) w
  rw [fetch] at idle
  exact Hw.Idle.openFills idle

end Sys2Proof.Machine
end

section
/-! SUPPORT. Branches and jumps: what the training of the predictor leaves of the thread, and where control goes (R70, R101, R102). -/

namespace Sys2Proof.Machine

/-- Training changes the predictors of the cores and the thread's global history. -/
theorem trainBranch_settled {h : Hw} {t : Nat} (settled : h.openFills t = []) (k : BranchKind) (pc : W64) (taken : Bool) (target : W64) :
    ∃ cores gh, trainBranch h t k pc taken target = ({ h with cores := cores } : Hw).onThread t (fun x => { x with ghist := gh }) := by
  unfold trainBranch
  extract_lets e h1
  have trained : h1 = h.onCore (h.coreKeyOf t) (fun c => c.trainPred e) := if_pos (by rw [settled]; rfl)
  exact ⟨_, (2 * (h.thread t).ghist + b2n taken) % 2 ^ 64, by rw [trained]; rfl⟩

/-- The same of a ready instruction. -/
theorem Ready.trainBranch {h f : Hw} {t : Gtn} {w : Nat} (r : Ready h t.val w f) (k : BranchKind) (pc : W64) (taken : Bool) (target : W64) :
    ∃ cores gh, Machine.trainBranch (f.fetched t.val) t.val k pc taken target =
      ((({ f with cores := cores } : Hw).fetched t.val).onThread t.val (fun x => { x with ghist := gh })) :=
  trainBranch_settled (h := f.fetched t.val) r.openFills k pc taken target

/-- A ready instruction that changes its thread and the predictors, and transfers control. -/
theorem lands_of {s : State} {i : Instr} {t : Gtn} {w : Nat} {body : Hw → Exe} {f k : Hw} {cores : List (Nat × Core)} {target : W64} {evs : List Nat} {g : Thread → Thread}
    (e : exec i s = s.onHw (issue t.val w body)) (r : Ready s.hw t.val w f) (b : body (f.fetched t.val) = .ok (retireTo k t.val target evs))
    (left : k = (({ f with cores := cores } : Hw).fetched t.val).onThread t.val g) :
    ∃ u, exec i s = .next u ∧
      Retires s u t.val { f with cores := cores } { (g { f.thread t.val with atVector := false }).clearProg with pc := target } := by
  obtain ⟨u, done, p, retired⟩ := retiresTo_of e r b
  refine ⟨u, done, p, ?_⟩
  have own : k = ({ f with cores := cores } : Hw).setThread t.val (g { f.thread t.val with atVector := false }) := by
    rw [left, Hw.fetched, Hw.onThread_eq, Hw.onThread_eq, Hw.setThread_thread, Hw.setThread_setThread]
    rfl
  rw [own, Hw.setThread_thread, Hw.setThread_setThread] at retired
  exact retired

/-- A write of a register before control goes to the target. -/
theorem Thread.jump_writeG (x : Thread) (n gh : Nat) (rs : List W64) (v target : W64) :
    { (({ x with atVector := false, ghist := gh, retStack := rs } : Thread).writeG n v).clearProg with pc := target } =
      ({ x.after target with ghist := gh, retStack := rs } : Thread).writeG n v := by
  unfold Thread.writeG Thread.setBank Thread.after Thread.clearProg
  split
  · rfl
  · split <;> rfl

theorem Thread.jump_ghist (x : Thread) (gh : Nat) (target : W64) :
    { ({ x with atVector := false, ghist := gh } : Thread).clearProg with pc := target } = ({ x.after target with ghist := gh, retStack := x.retStack } : Thread) := by
  unfold Thread.after Thread.clearProg
  rfl

/-- A condition, spelled out (R102). -/
theorem condHolds_eq (c : Cond) (x y : W64) : condHolds c x y = match c with
    | .eq => decide (x = y)
    | .ne => decide (x ≠ y)
    | .lt => decide (x.toInt < y.toInt)
    | .ge => decide (y.toInt ≤ x.toInt)
    | .ltu => decide (x.toNat < y.toNat)
    | .geu => decide (y.toNat ≤ x.toNat) := by
  cases c with
  | eq => rfl
  | ne => simp [condHolds, bne, beq_eq_decide]
  | lt => rfl
  | ge => rw [Bool.eq_iff_iff]; simp [condHolds, BitVec.slt_eq_decide]
  | ltu => rfl
  | geu => rw [Bool.eq_iff_iff]; simp [condHolds, BitVec.ult_eq_decide]

section
variable {s : State} {i : Instr} {t : Gtn} {w : Nat} {f : Hw}

theorem lands_branch {c : Cond} {a b : RegNum} {off : BitVec 16} {m taken : Bool} (e : exec i s = s.onHw (issue t.val w (branchBody t.val c a b off m)))
    (r : Ready s.hw t.val w f) (holds : condHolds c ((s.hw.thread t.val).readG a.toNat) ((s.hw.thread t.val).readG b.toNat) = taken) :
    let pc := (s.hw.thread t.val).pc
    ∃ (u : State) (cores : List (Nat × Core)) (gh : Nat) (rs : List W64), exec i s = .next u ∧
      Retires s u t.val { f with cores := cores } { (f.thread t.val).after (if taken then pc + (off.signExtend 64 <<< 2) else pc + 4) with ghist := gh, retStack := rs } := by
  intro pc
  have own : ((f.fetched t.val).thread t.val).pc = pc := by rw [r.fetchedThread]; exact r.pc
  obtain ⟨cores, gh, trained⟩ := r.trainBranch .cond pc taken (branchTarget pc off)
  have body : branchBody t.val c a b off m (f.fetched t.val) =
      .ok (retireTo (trainBranch (f.fetched t.val) t.val .cond pc taken (branchTarget pc off)) t.val (if taken then branchTarget pc off else pc + 4) (ctlEvents m)) := by
    rw [branchBody, own, r.readG, r.readG, holds]
  obtain ⟨u, done, retired⟩ := lands_of e r body trained
  refine ⟨u, cores, gh, (f.thread t.val).retStack, done, ?_⟩
  rw [← Thread.jump_ghist]
  exact retired

theorem lands_jal {off : BitVec 26} {m : Bool} (e : exec i s = s.onHw (issue t.val w (jalBody t.val off m))) (r : Ready s.hw t.val w f) :
    let pc := (s.hw.thread t.val).pc
    ∃ (u : State) (cores : List (Nat × Core)) (gh : Nat) (rs : List W64), exec i s = .next u ∧
      Retires s u t.val { f with cores := cores } (({ (f.thread t.val).after (pc + (off.signExtend 64 <<< 2)) with ghist := gh, retStack := rs } : Thread).writeG 31 (pc + 4)) := by
  intro pc
  have own : ((f.fetched t.val).thread t.val).pc = pc := by rw [r.fetchedThread]; exact r.pc
  obtain ⟨cores, gh, trained⟩ := r.trainBranch .direct pc true (branchTarget pc off)
  have body : jalBody t.val off m (f.fetched t.val) =
      .ok (retireTo (((trainBranch (f.fetched t.val) t.val .direct pc true (branchTarget pc off)).onThread t.val
        (fun x => { x with retStack := (pc + 4) :: x.retStack })).setG t.val 31 (pc + 4)) t.val (branchTarget pc off) (ctlEvents m)) := by
    rw [jalBody, own]
  obtain ⟨u, done, retired⟩ := lands_of (g := fun x => ({ x with ghist := gh, retStack := (pc + 4) :: x.retStack } : Thread).writeG 31 (pc + 4)) e r body
    (by rw [trained, Hw.setG, Hw.onThread_onThread, Hw.onThread_onThread])
  refine ⟨u, cores, gh, (pc + 4) :: (f.thread t.val).retStack, done, ?_⟩
  rw [← Thread.jump_writeG]
  exact retired

/-- The return stack after a JALR (R101). -/
def jalrStack (d a : RegNum) (l : List W64) : List W64 := if a.toNat = 31 ∧ d = 0 then l.drop 1 else l

theorem lands_jalr {d a : RegNum} {imm : W64} {len : Nat} {m : Bool} (e : exec i s = s.onHw (issue t.val w (jalrBody t.val d a imm len m))) (r : Ready s.hw t.val w f) :
    let x := s.hw.thread t.val
    ∃ (u : State) (cores : List (Nat × Core)) (gh : Nat) (rs : List W64), exec i s = .next u ∧
      Retires s u t.val { f with cores := cores }
        (({ (f.thread t.val).after ((x.readG a.toNat + imm) &&& ~~~3) with ghist := gh, retStack := rs } : Thread).writeG d.toNat (x.pc + BitVec.ofNat 64 len)) := by
  intro x
  have own : ((f.fetched t.val).thread t.val).pc = x.pc := by rw [r.fetchedThread]; exact r.pc
  obtain ⟨cores, gh, trained⟩ := r.trainBranch .indirect x.pc true ((x.readG a.toNat + imm) &&& ~~~3)
  have body : jalrBody t.val d a imm len m (f.fetched t.val) =
      .ok (retireTo (((trainBranch (f.fetched t.val) t.val .indirect x.pc true ((x.readG a.toNat + imm) &&& ~~~3)).onThread t.val
        (fun y => if a.toNat = 31 ∧ d = 0 then { y with retStack := y.retStack.drop 1 } else y)).setG t.val d.toNat (x.pc + BitVec.ofNat 64 len)) t.val
        ((x.readG a.toNat + imm) &&& ~~~3) (ctlEvents m)) := by
    rw [jalrBody, own, r.readG]
  have popped (y : Thread) : (if a.toNat = 31 ∧ d = 0 then { y with retStack := y.retStack.drop 1 } else y) = { y with retStack := jalrStack d a y.retStack } := by
    unfold jalrStack
    split <;> rfl
  obtain ⟨u, done, retired⟩ := lands_of
    (g := fun y => ({ y with ghist := gh, retStack := jalrStack d a y.retStack } : Thread).writeG d.toNat (x.pc + BitVec.ofNat 64 len)) e r body
    (by simp only [popped]; rw [trained, Hw.setG, Hw.onThread_onThread, Hw.onThread_onThread])
  refine ⟨u, cores, gh, jalrStack d a (f.thread t.val).retStack, done, ?_⟩
  rw [← Thread.jump_writeG]
  exact retired

end

end Sys2Proof.Machine

open Sys2Proof Sys2Proof.Machine

/-- Settles O9: no load of a ready thread is open after its fetch, so the predictors are trained at once, and the transfer itself changes the thread alone. -/
theorem controlTransferResults : Obligations.ControlTransferResults := by
  intro s t a b d c off off26 imm m f r x y pc holds lands
  exact ⟨lands_branch (i := .branch t c a b off m) (m := m) rfl r (condHolds_eq c x y), lands_jal rfl r, lands_jalr rfl r⟩

end

section
/-! SUPPORT. The scalar helpers bit by bit, and the prefixed pairs by the fields of their second word (R100, R101, R118, R119). -/

namespace Sys2Proof.Machine

/-! Bits of numbers. -/

theorem testBit_half (x i : Nat) : (x / 2).testBit i = x.testBit (i + 1) := by rw [Nat.testBit_succ]

theorem popCount_eq (n x : Nat) : popCount n x = (List.range n).countP (fun i => x.testBit i) := by
  induction n generalizing x with
  | zero => rfl
  | succ n ih =>
    rw [popCount, ih, List.range_succ_eq_map, List.countP_cons, List.countP_map]
    simp only [Function.comp_def, testBit_half, Nat.testBit_zero, Nat.succ_eq_add_one, decide_eq_true_eq]
    split <;> omega

theorem revBits_lt (n x : Nat) : revBits n x < 2 ^ n := by
  induction n generalizing x with
  | zero => exact Nat.one_pos
  | succ n ih =>
    have := ih (x / 2)
    rw [revBits, Nat.shiftLeft_eq, Nat.pow_succ]
    have := Nat.mod_lt x (show 2 > 0 by decide)
    nlinarith

theorem testBit_revBits (n x i : Nat) (lt : i < n) : (revBits n x).testBit i = x.testBit (n - 1 - i) := by
  induction n generalizing x with
  | zero => omega
  | succ n ih =>
    rw [revBits, Nat.shiftLeft_add_eq_or_of_lt (revBits_lt n (x / 2)), Nat.testBit_or, Nat.testBit_shiftLeft]
    by_cases last : i = n
    · subst last
      simp [Nat.testBit_lt_two_pow (revBits_lt i (x / 2)), Nat.testBit_zero]
    · rw [ih _ (by omega), testBit_half, show n - 1 - i + 1 = n + 1 - 1 - i by omega]
      simp only [ge_iff_le, show ¬ n ≤ i by omega, decide_false, Bool.false_and, Bool.false_or]

/-- The number of trailing zeros, below the width unless the low bits are all zero. -/
theorem ctzN_spec (n x : Nat) : (∀ i < ctzN n x, x.testBit i = false) ∧ (ctzN n x < n → x.testBit (ctzN n x) = true) ∧ ctzN n x ≤ n := by
  induction n generalizing x with
  | zero => exact ⟨fun i lt => absurd lt (Nat.not_lt_zero i), fun lt => absurd lt (Nat.not_lt_zero _), le_refl _⟩
  | succ n ih =>
    obtain ⟨zeros, one, le⟩ := ih (x / 2)
    rw [ctzN]
    split
    · next odd => exact ⟨fun i lt => absurd lt (Nat.not_lt_zero i), fun _ => by simp [Nat.testBit_zero, odd], Nat.zero_le _⟩
    · next even =>
      refine ⟨fun i lt => ?_, fun lt => ?_, by omega⟩
      · cases i with
        | zero => simp [Nat.testBit_zero, even]
        | succ i => rw [← testBit_half]; exact zeros i (by omega)
      · rw [Nat.add_comm, ← testBit_half]
        exact one (by omega)

/-- The number of leading zeros, below the width unless the low bits are all zero. -/
theorem clzN_spec (n x : Nat) : (∀ i < n, n - 1 < i + clzN n x → x.testBit i = false) ∧ (clzN n x < n → x.testBit (n - 1 - clzN n x) = true) ∧ clzN n x ≤ n := by
  induction n with
  | zero => exact ⟨fun i lt => absurd lt (Nat.not_lt_zero i), fun lt => absurd lt (Nat.not_lt_zero _), le_refl _⟩
  | succ n ih =>
    obtain ⟨zeros, one, le⟩ := ih
    rw [clzN]
    split
    · next top => exact ⟨fun i lt high => by omega, fun _ => top, Nat.zero_le _⟩
    · next clear =>
      refine ⟨fun i lt high => ?_, fun lt => ?_, by omega⟩
      · by_cases last : i = n
        · rw [last]; exact Bool.eq_false_iff.mpr clear
        · exact zeros i (by omega) (by omega)
      · rw [show n + 1 - 1 - (1 + clzN n x) = n - 1 - clzN n x by omega]
        exact one (by omega)

/-- A word with no bit set is zero. -/
theorem word_eq_zero (x : W64) (clear : ∀ i < 64, x.toNat.testBit i = false) : x = 0 := by
  refine BitVec.eq_of_getLsbD_eq (fun i lt => ?_)
  exact (clear i lt).trans BitVec.getLsbD_zero.symm

/-- The leading zeros of a word. -/
theorem clz_word (x : W64) : (x = 0 → clzN 64 x.toNat = 64) ∧
    (x ≠ 0 → clzN 64 x.toNat < 64 ∧ x.getLsbD (63 - clzN 64 x.toNat) = true ∧ ∀ i, 63 - clzN 64 x.toNat < i → x.getLsbD i = false) := by
  obtain ⟨zeros, one, le⟩ := clzN_spec 64 x.toNat
  refine ⟨fun zero => ?_, fun some_bit => ?_⟩
  · subst zero
    exact Nat.le_antisymm le (Nat.not_lt.mp fun lt => by simpa using one lt)
  · have lt : clzN 64 x.toNat < 64 := by
      refine Nat.lt_of_le_of_ne le fun full => some_bit (word_eq_zero x fun i lt => zeros i lt (by omega))
    refine ⟨lt, one lt, fun i high => ?_⟩
    by_cases inside : i < 64
    · exact zeros i inside (by omega)
    · exact BitVec.getLsbD_of_ge x i (by omega)

/-- The trailing zeros of a word. -/
theorem ctz_word (x : W64) : (x = 0 → ctzN 64 x.toNat = 64) ∧
    (x ≠ 0 → ctzN 64 x.toNat < 64 ∧ x.getLsbD (ctzN 64 x.toNat) = true ∧ ∀ i < ctzN 64 x.toNat, x.getLsbD i = false) := by
  obtain ⟨zeros, one, le⟩ := ctzN_spec 64 x.toNat
  refine ⟨fun zero => ?_, fun some_bit => ?_⟩
  · subst zero
    exact Nat.le_antisymm le (Nat.not_lt.mp fun lt => by simpa using one lt)
  · have lt : ctzN 64 x.toNat < 64 := Nat.lt_of_le_of_ne le fun full => some_bit (word_eq_zero x fun i lt => zeros i (by omega))
    exact ⟨lt, one lt, zeros⟩

theorem testBit_ofBytes (l : List Byte) (i : Nat) : (ofBytes l).testBit i = (l.getD (i / 8) 0).getLsbD (i % 8) := by
  induction l generalizing i with
  | nil => simp [ofBytes]
  | cons b l ih =>
    have small := b.isLt
    rw [ofBytes, Nat.add_comm, Nat.shiftLeft_add_eq_or_of_lt small, Nat.testBit_or, Nat.testBit_shiftLeft]
    by_cases low : i < 8
    · rw [Nat.div_eq_of_lt low, Nat.mod_eq_of_lt low, List.getD_cons_zero]
      simp [low, BitVec.getLsbD]
    · rw [ih, show i / 8 = (i - 8) / 8 + 1 by omega, List.getD_cons_succ, show i % 8 = (i - 8) % 8 by omega]
      simp [show 8 ≤ i by omega, Nat.testBit_lt_two_pow (Nat.lt_of_lt_of_le small (Nat.pow_le_pow_right (by decide) (show 8 ≤ i by omega)))]

theorem getLsbD_brev8Op (x : W64) {i : Nat} (lt : i < 64) : (brev8Op x).getLsbD i = x.getLsbD (8 * (i / 8) + (7 - i % 8)) := by
  have byte : ((toBytes 8 x.toNat).map (fun b => BitVec.ofNat 8 (revBits 8 b.toNat))).getD (i / 8) 0 =
      BitVec.ofNat 8 (revBits 8 (x.toNat / 256 ^ (i / 8) % 256)) := by
    rw [toBytes_eq_map, List.map_map, List.getD_eq_getElem?_getD, List.getElem?_map, List.getElem?_range (by omega)]
    rfl
  rw [brev8Op, BitVec.getLsbD_ofNat, testBit_ofBytes, byte, BitVec.getLsbD_ofNat, testBit_revBits _ _ _ (Nat.mod_lt i (by decide)),
    show (256 : Nat) = 2 ^ 8 from rfl, Nat.testBit_mod_two_pow, ← Nat.pow_mul, Nat.testBit_div_two_pow]
  simp [lt, Nat.mod_lt i (show 8 > 0 by decide), BitVec.getLsbD, show 8 - 1 - i % 8 < 8 by omega, Nat.add_comm]

/-! The helpers. -/

section
variable {s : State} {t : Gtn} {d a b : RegNum} {f : Hw}

/-- The unary helper as an instruction. -/
def Helper.instr (t : Gtn) (d a b : RegNum) : Helper → Instr
  | .par => .par t d a b
  | .popc => .popc t d a b
  | .brev8 => .brev8 t d a b
  | .brev64 => .brev64 t d a b
  | .clz => .clz t d a b
  | .ctz => .ctz t d a b

theorem exec_helper (k : Helper) (s : State) : exec (k.instr t d a b) s = s.onHw (issue t.val 1 (helperBody k t.val d a b)) := by
  cases k <;> rfl

/-- A unary helper writes its result, and is illegal when its b field is not zero. -/
theorem unary_helper (k : Helper) (r : Ready s.hw t.val 1 f) :
    (b = 0 → WritesG s (k.instr t d a b) t.val f d (k.result ((s.hw.thread t.val).readG a.toNat)) ((s.hw.thread t.val).pc + 4)) ∧
    (b ≠ 0 → Traps s (k.instr t d a b) t.val f { code := 0x04, tval := (wordR3 0x32 d a b k.func).zeroExtend 64 }) := by
  refine ⟨fun zero => writesG_of (len := 4) (evs := []) (exec_helper k s) r ?_, fun named => traps_of (exec_helper k s) r ?_⟩
  · rw [helperBody, if_neg (by simp [zero]), r.readG]
  · exact if_pos (by simpa using named)

theorem writesG_crc32c {size : BitVec 2} (r : Ready s.hw t.val 1 f) :
    WritesG s (.crc32c t d a b size) t.val f d (crcOp size ((s.hw.thread t.val).readG a.toNat) ((s.hw.thread t.val).readG b.toNat)) ((s.hw.thread t.val).pc + 4) := by
  refine writesG_of (len := 4) (evs := []) rfl r ?_
  rw [crcBody, r.readG, r.readG]

/-- The CRC over the low bytes of a word, byte by byte (R118, R119). -/
theorem crcOp_eq (size : BitVec 2) (x y : W64) : crcOp size x y =
    ((List.range (2 ^ size.toNat)).foldl (fun c k => crcByte c (y.extractLsb' (8 * k) 8)) (x.extractLsb' 0 32)).zeroExtend 64 := by
  have byte (k : Nat) : BitVec.ofNat 8 (y.toNat / 256 ^ k) = y.extractLsb' (8 * k) 8 := by
    apply BitVec.eq_of_toNat_eq
    rw [BitVec.extractLsb'_toNat, BitVec.toNat_ofNat, Nat.shiftRight_eq_div_pow, Nat.pow_mul]
  rw [crcOp, crcBytes, toBytes_eq_map, List.foldl_map, BitVec.setWidth_eq_extractLsb' (by decide)]
  simp only [byte]

end

/-! Prefixed pairs. -/

/-- The fields of a word (R98). -/
theorem major_eq (w : W32) : w.toNat >>> 26 = (w.extractLsb' 26 6).toNat := by
  have := w.isLt
  rw [BitVec.extractLsb'_toNat, Nat.shiftRight_eq_div_pow]
  omega

theorem fieldD_eq (w : W32) : fieldD w = w.extractLsb' 21 5 := by
  apply BitVec.eq_of_toNat_eq
  rw [BitVec.extractLsb'_toNat, fieldD, BitVec.toNat_ofNat]

theorem fieldA_eq (w : W32) : fieldA w = w.extractLsb' 16 5 := by
  apply BitVec.eq_of_toNat_eq
  rw [BitVec.extractLsb'_toNat, fieldA, BitVec.toNat_ofNat]

theorem pfxImm_eq (ext : BitVec 26) (next : W32) : pfxImm ext next = pairImm ext next := by
  rw [pfxImm, pairImm, BitVec.setWidth_eq_extractLsb' (by decide)]

theorem pfxOf_eq (next : W32) : pfxOf next = pfxForm (next.extractLsb' 26 6).toNat := by rw [pfxOf, major_eq]

section
variable {s : State} {t : Gtn} {ext : BitVec 26} {next : W32} {st m : Bool} {d a : RegNum} {f : Hw}

/-- A pair that neither loads nor stores. -/
theorem exec_pfx (loads : pfxLoads next = false) (stores : pfxStores next = false) :
    exec (.pfx t ext next st m) s = s.onHw (issue t.val 2 (pfxBody t.val ext next st m)) := by
  show s.onHw (if pfxLoads next then _ else _) = _
  rw [loads, stores]
  rfl

/-- A word whose major opcode is neither 0x00 nor 0x3F is not bad whatever else it holds (R99). -/
theorem wordBad_of_field {n : Nat} (major : (next.extractLsb' 26 6).toNat = n) (lo : 0 < n) (hi : n < 63) : wordBad next = false :=
  wordBad_of_major next n (by rw [← major, ← major_eq, Nat.shiftRight_eq_div_pow]) lo hi

/-- The major opcodes of the immediate forms. -/
theorem pfxForm_imm (o : ImmOp) : pfxForm o.major = some (.imm o) := by cases o <;> rfl

theorem exec_pfx_imm (o : ImmOp) (w : I16Word next o.major d a) :
    exec (.pfx t ext next st m) s = s.onHw (issue t.val 2 (immBody o t.val d a (pairImm ext next) 8 next)) := by
  obtain ⟨major, rfl, rfl⟩ := w
  have form : pfxOf next = some (.imm o) := by rw [pfxOf_eq, major, pfxForm_imm]
  rw [exec_pfx (by rw [pfxLoads, form]) (by rw [pfxStores, form])]
  congr 2
  funext h
  rw [pfxBody, form, fieldD_eq, fieldA_eq, pfxImm_eq]

/-- A prefixed immediate form that is legal writes its result. -/
theorem writesG_pfx_imm (o : ImmOp) (r : Ready s.hw t.val 2 f) (w : I16Word next o.major d a) (legal : o = .lui → a = 0) :
    WritesG s (.pfx t ext next st m) t.val f d (o.result ((s.hw.thread t.val).readG a.toNat) (pairImm ext next)) ((s.hw.thread t.val).pc + 8) := by
  refine writesG_of (len := 8) (evs := []) (exec_pfx_imm o w) r ?_
  have word : wordBad next = false := wordBad_of_field w.1 (by cases o <;> decide) (by cases o <;> decide)
  rw [immBody, word, r.readG, if_neg (by simpa using legal)]

theorem traps_pfx_lui (r : Ready s.hw t.val 2 f) (w : I16Word next 0x06 d a) (named : a ≠ 0) :
    Traps s (.pfx t ext next st m) t.val f { code := 0x04, tval := next.zeroExtend 64 } :=
  traps_of (exec_pfx_imm .lui w) r (if_pos (by simp only [decide_true, Bool.true_and, Bool.or_eq_true]; exact .inr (bne_iff_ne.mpr named)))

theorem exec_pfx_jalr (w : I16Word next 0x1F d a) :
    exec (.pfx t ext next st m) s = s.onHw (issue t.val 2 (jalrBody t.val d a (pairImm ext next) 8 m)) := by
  obtain ⟨major, rfl, rfl⟩ := w
  have form : pfxOf next = some .jalr := by rw [pfxOf_eq, major]; rfl
  rw [exec_pfx (by rw [pfxLoads, form]) (by rw [pfxStores, form])]
  congr 2
  funext h
  rw [pfxBody, form, fieldD_eq, fieldA_eq, pfxImm_eq]

/-- A PFX before any other word (R100). -/
theorem traps_pfx (r : Ready s.hw t.val 2 f) (none : pfxOf next = none) : Traps s (.pfx t ext next st m) t.val f { code := 0x04, tval := next.zeroExtend 64 } := by
  refine traps_of (exec_pfx (by rw [pfxLoads, none]) (by rw [pfxStores, none])) r ?_
  rw [pfxBody, none]
  rfl

end

/-- A major opcode outside the table has no form. -/
theorem pfxForm_none {n : Nat} (out : n ∉ [0x02, 0x03, 0x04, 0x05, 0x06, 0x08, 0x09, 0x0A, 0x0B, 0x0C, 0x0D, 0x0E, 0x10, 0x11, 0x12, 0x13, 0x1F]) :
    pfxForm n = none := by
  unfold pfxForm
  split
  case h_18 => rfl
  all_goals exact absurd (by simp) out

end Sys2Proof.Machine

open Sys2Proof Sys2Proof.Machine

/-- Settles O10: the helpers bit by bit, the CRC byte by byte, and the pairs by the form that the second word's major opcode gives. -/
theorem helpersAndPrefixedPairs : Obligations.HelpersAndPrefixedPairs := by
  refine ⟨fun s t d a b size f r => ?_, fun s t ext next st m d a f r => ?_⟩
  · intro x y next ones unary crc1
    have count : popCount 64 x.toNat = ones := popCount_eq 64 x.toNat
    refine ⟨?_, ?_, ⟨_, unary_helper .brev8 r, fun i lt => getLsbD_brev8Op x lt⟩, ⟨_, unary_helper .brev64 r, fun i lt => ?_⟩,
      ⟨clzN 64 x.toNat, unary_helper .clz r, ?_⟩, ⟨ctzN 64 x.toNat, unary_helper .ctz r, ?_⟩, ?_⟩
    · rw [← count]; exact unary_helper .par r
    · rw [← count]; exact unary_helper .popc r
    · show (BitVec.ofNat 64 (revBits 64 x.toNat)).getLsbD i = _
      rw [BitVec.getLsbD_ofNat, testBit_revBits _ _ _ lt]
      simp [lt, BitVec.getLsbD]
    · exact clz_word x
    · exact ctz_word x
    · have crc := writesG_crc32c (d := d) (a := a) (b := b) (size := size) r
      rw [crcOp_eq] at crc
      exact crc
  · refine ⟨fun w => writesG_pfx_imm .addi r w nofun, fun w => writesG_pfx_imm .andi r w nofun, fun w => writesG_pfx_imm .ori r w nofun,
      fun w => writesG_pfx_imm .xori r w nofun, fun w => ⟨fun zero => writesG_pfx_imm .lui r w (fun _ => zero), traps_pfx_lui r w⟩,
      fun w => lands_jalr (exec_pfx_jalr w) r, fun out => traps_pfx r ?_⟩
    rw [pfxOf_eq]
    exact pfxForm_none out

end

section
/-! PROOFS. Stores through a TLB entry whose physical address is not that of a page: they reach into the next line, where an older store of the thread may still wait in the store queue. R215 has the thread read its youngest store; the model looks for older stores in the line of the first byte alone. -/

namespace Sys2Proof.Machine

open Sys2Proof.Tests

set_option maxRecDepth 20000

/-- The page of the code, mapped to itself. -/
def codePage : TlbEnt :=
  { regime := 2, s1 := true, world := false, asid := none, vmid := none, part := 1, va := 0x1000, size := 12, pa := 0x1000, r := true, w := false, x := true, u := false,
    mt := 0, dirty := false, gw := false }

/-- A page of N-NC memory whose physical address lies four bytes below the end of a line. -/
def skewPage : TlbEnt := { codePage with va := 0x2000, pa := 0x203C, w := true, x := false, mt := 1, dirty := true }

/-- Thread 0 at M with stage 1 on, with these two entries in its TLBs; an older store of 0xFF to the next line waits in its queue. -/
def skewed : Hw :=
  (pkg { th with cr := [(0xC82, 1)], g := [(9, 0x2000)], p := [(1, 1)], sq := [(0x2040, 0xFF)], sqe := [(0x81, 0)] }).onCore 64
    (fun c => { c with itlb := [codePage], dtlb := [skewPage] })

/-- The part of a store of 8 B to that page. -/
def skewPart : MemPart := ⟨0x2000, 0x203C, 8, 1⟩

/-- The checks of a store leave its one part, and the store can be written now. -/
def skewGoes (r : Hw × List MemPart) : Bool := r.2 == [skewPart] && Memory.wf r.1.mem && storeGoesB r.1 r.2 && !has (r.1.cdie 1).stale 0x80

/-- The byte that thread 0 reads at an address after the outcome. -/
def readsAfter (a : Nat) : Host.Outcome State Fault Refusal → Byte
  | .next u => ownByte u.hw 0 a
  | _ => 0

/-- A store of zeros that is in order: the package after its checks. -/
theorem skewed_store (acc : Except (Hw × Cause) (Hw × List MemPart)) (goes : okWith skewGoes acc = true) :
    ∃ h1, acc = .ok (h1, [skewPart]) ∧ Memory.wf h1.mem = true ∧ StoreGoes h1 0 [skewPart] ∧ has (h1.cdie 1).stale 0x80 = false := by
  obtain ⟨⟨h1, ps⟩, ok, passed⟩ := okWith_ex goes
  simp only [skewGoes, Bool.and_eq_true, beq_iff_eq, Bool.not_eq_true'] at passed
  obtain ⟨⟨⟨rfl, wf⟩, room⟩, fresh⟩ := passed
  exact ⟨h1, ok, wf, storeGoes_of room, fresh⟩

/-- The scalar store of g11, which is zero, at g9. -/
def skewStore : Instr := .store 0 .d 11 9 0

theorem skewStore_checks : ∃ f, Ready skewed 0 1 f ∧
    okWith skewGoes (checkWants 0 8 true (sortWants (wants .store ((skewed.thread 0).readG 9 + (0 : BitVec 16).signExtend 64, 8))) (f.fetched 0)) = true :=
  ready_with (by decide) (by decide +kernel)

/-- The older store still stands before the new one. -/
theorem skewStore_reads : readsAfter 0x2040 (exec skewStore { hw := skewed }) = 0xFF := by decide +kernel

/-- The vector of lane 0 alone, at g9. -/
def skewLanes : VFields := { d := 0, a := 9, b := 0, pred := 1, esize := 3, z := false }

def skewVst : Instr := .vst 0 skewLanes

/-- Lane 0 is the only active one. -/
def skewLane : List (Nat × W64) := [(0, 0x2000)]

theorem skewVst_checks : ∃ f, Ready skewed 0 1 f ∧
    (!byLanes (laneChecks 0 8 .store skewLane (f.fetched 0)).2.1 && okWith skewGoes (checkWants 0 8 (decide (8 = 8)) (sortWants (skewLane.flatMap (fun q => wants .store (q.2, 8)))) (f.fetched 0))) = true :=
  ready_with (by decide) (by decide +kernel)

theorem skewVst_reads : readsAfter 0x2040 (exec skewVst { hw := skewed }) = 0xFF := by decide +kernel

end Sys2Proof.Machine

open Sys2Proof Sys2Proof.Machine Sys2Proof.Tests

/-- Refutes O16: a store of N-NC memory whose TLB entry is not aligned to its page reaches from line 0x80 into line 0x81, where an older store of 0xFF to 0x2040 waits in the queue; the thread then reads 0xFF there and not the 0 that it has just stored. -/
theorem not_scalarLoadsAndStores : ¬ Obligations.ScalarLoadsAndStores := by
  unfold Obligations.ScalarLoadsAndStores
  rintro ⟨_, stores⟩
  obtain ⟨f, ready, goes⟩ := skewStore_checks
  obtain ⟨h1, checked, wf, room, _⟩ := skewed_store _ goes
  obtain ⟨_, completes⟩ := stores { hw := skewed } skewStore 0 .d 11 9 ((0 : BitVec 16).signExtend 64) 1 f (.inl ⟨0, rfl, rfl, rfl⟩) ready
  obtain ⟨u, y, done, _, _, _, _, _, reads, _⟩ := completes h1 [skewPart] checked wf (by decide) room
  obtain ⟨_, stored⟩ := reads 0x203C rfl
  have zero : ownByte u.hw 0 0x2040 = 0 := stored 4 (by decide)
  have old := skewStore_reads
  rw [show exec skewStore { hw := skewed } = .next u from done, readsAfter, zero] at old
  exact absurd old (by decide)

/-- Refutes O17: the same store as the one active lane of a VST. -/
theorem not_vectorMemoryResults : ¬ Obligations.VectorMemoryResults := by
  unfold Obligations.VectorMemoryResults
  intro all
  obtain ⟨f, ready, both⟩ := skewVst_checks
  rw [Bool.and_eq_true, Bool.not_eq_true'] at both
  obtain ⟨plain, goes⟩ := both
  obtain ⟨h1, checked, wf, room, fresh⟩ := skewed_store _ goes
  obtain ⟨_, _, stores⟩ := all { hw := skewed } 0 skewLanes true f ready
  obtain ⟨_, completes⟩ := stores (by decide) plain
  obtain ⟨u, y, done, _, _, _, _, _, reads⟩ := completes h1 [skewPart] 1 checked (le_refl 1)
    (fun p listed => by rw [List.mem_singleton.mp listed]; exact ⟨rfl, fresh⟩) wf room
  have stored := reads (0, 0x2000) (by decide +kernel) 0x203C 4 (by decide +kernel) (by decide) (by decide +kernel)
  have zero : ownByte u.hw 0 0x2040 = 0 := stored.trans (by decide +kernel)
  have old := skewVst_reads
  rw [show exec skewVst { hw := skewed } = .next u from done, readsAfter, zero] at old
  exact absurd old (by decide)

end

section
/-! PROOFS. VGATHER takes its base from its own field a (R110), where the statement gives it the general register of the scalar operand a. -/

namespace Sys2Proof.Machine

open Sys2Proof.Tests

set_option maxRecDepth 20000

/-- Thread 0 owns line 0x80, whose first byte is 0xFF, and g9 is its address. -/
def gatherState : Hw := { owned with mem := [(0x2000, 0xFF)] }

/-- The VGATHER of 8-byte lanes with base g0 and the indices of v2, which are zero. -/
def gatherFields : VFields := { d := 1, a := 0, b := 2, pred := 0, esize := 3, z := false }

/-- The part that a load of lane 0 with base g9 has. -/
def gatherPart : MemPart := ⟨0x2000, 0x2000, 8, 0⟩

/-- The thread reads the byte of 0xFF, and the part can be loaded now. -/
def gatherGoes (r : Hw × List MemPart) : Bool :=
  r.2 == [gatherPart] && Memory.wf r.1.mem && chunkIn r.1 gatherPart && storeGoesB r.1 [] && ofBytes ((List.range 8).map (fun j => ownByte r.1 0 (0x2000 + j))) == 0xFF

theorem gather_checks : ∃ f, Ready gatherState 0 1 f ∧
    (quiet f && okWith gatherGoes (checkWants 0 1 false (sortWants (wants .load (0x2000, 8))) (f.fetched 0))) = true :=
  ready_with (by decide) (by decide +kernel)

/-- Lane 0 of the destination after the outcome. -/
def gatheredLane : Host.Outcome State Fault Refusal → Nat
  | .next u => lane (8) ((u.hw.thread 0).readV 1) 0
  | _ => 0

/-- The instruction loads lane 0 from address 0, whose bytes are zero. -/
theorem gather_loads_zero : gatheredLane (exec (.vgather 0 gatherFields 0 1) { hw := gatherState }) = 0 := by decide +kernel

/-- What the statement says of a load of lane 0 of 8 bytes, for a scalar operand a of its own. -/
theorem gather_claim (all : Obligations.LongInstructions) {s : State} {t : Gtn} {a : RegNum} {v : VFields} {f h1 : Hw} {va : W64} {pa : Nat} (r : Ready s.hw t.val 1 f)
    (still : (f.thread t.val).pick = none) (wf : Memory.wf h1.mem = true) (invalid : (s.hw.thread t.val).progress.getLsbD 63 = false) (wide : v.esize = 3)
    (on : (s.hw.thread t.val).ven = true) (active : ((s.hw.thread t.val).readP v.pred.toNat).getLsbD 0 = true) (index : lane 8 ((s.hw.thread t.val).readV v.b.toNat) 0 = 0)
    (base : (s.hw.thread t.val).readG a.toNat = va) (checked : checkWants t.val 1 false (sortWants (wants .load (va, 8))) (f.fetched t.val) = .ok (h1, [⟨va, pa, 8, 0⟩]))
    (loads : siblingHolds h1 t.val [⟨va, pa, 8, 0⟩] = false ∧ chunkWaits h1 t.val [⟨va, pa, 8, 0⟩] = false ∧ ∀ j < 8, h1.lineStale t.val (lineOf (pa + j)) = false)
    (room : StoreGoes h1 t.val []) :
    ∃ u, exec (.vgather t v 0 1) s = .next u ∧ lane 8 ((u.hw.thread t.val).readV v.d.toNat) 0 = ofBytes ((List.range 8).map (fun j => ownByte h1 t.val (pa + j))) := by
  obtain ⟨_, chunks⟩ := all
  obtain ⟨_, _, _, vectors⟩ := chunks s t 0 a 0 v 0 f h1 pa 0 0 0 r still wf invalid
  obtain ⟨d, va', vb, pred, esize, z⟩ := v
  obtain rfl : esize = 3 := wide
  have size : 2 ^ (3 : BitVec 2).toNat = 8 := rfl
  simp only [size, index, base, Nat.zero_mul] at vectors
  obtain ⟨gathers, _⟩ := vectors (by decide) on (by decide) active (fun m below => absurd below (Nat.not_lt_zero m))
  simp only [show (0 : Nat) < 2 ^ (8 * 8 - 1) by decide, if_true, BitVec.ofNat_eq_ofNat, BitVec.zero_mul, BitVec.add_zero] at gathers
  obtain ⟨u, done, _, _, lanes⟩ := gathers checked loads room
  exact ⟨u, done, (lanes 0 (by decide)).trans (if_pos rfl)⟩

end Sys2Proof.Machine

open Sys2Proof Sys2Proof.Machine Sys2Proof.Tests

/-- Refutes O19: the statement's addresses of the lanes of VGATHER start at g[a] of the scalar operand a, which the instruction has no field for; with a = g9 and the instruction's own base g0 the first lane is loaded from address 0 and not from g9. -/
theorem not_longInstructions : ¬ Obligations.LongInstructions := by
  intro all
  obtain ⟨f, ready, both⟩ := gather_checks
  rw [Bool.and_eq_true] at both
  obtain ⟨still, passes⟩ := both
  obtain ⟨⟨h1, ps⟩, checked, goes⟩ := okWith_ex passes
  simp only [gatherGoes, Bool.and_eq_true, beq_iff_eq] at goes
  obtain ⟨⟨⟨⟨rfl, wf⟩, loads⟩, room⟩, bytes⟩ := goes
  simp only [chunkIn, Bool.and_eq_true, Bool.not_eq_true', List.all_eq_true, List.mem_range] at loads
  obtain ⟨⟨held, waits⟩, fresh⟩ := loads
  obtain ⟨u, done, loaded⟩ := gather_claim all (s := { hw := gatherState }) (t := 0) (a := 9) (v := gatherFields) ready (by simpa [quiet] using still) wf (by decide) rfl rfl
    (by decide +kernel) (by decide +kernel) (by decide +kernel) checked ⟨held, waits, fresh⟩ (storeGoes_of room)
  have zero := gather_loads_zero
  rw [show exec (.vgather 0 gatherFields 0 1) { hw := gatherState } = .next u from done, gatheredLane,
    show lane 8 ((u.hw.thread 0).readV 1) 0 = 0xFF from loaded.trans bytes] at zero
  exact absurd zero (by decide)

end

section
/-! SUPPORT. What the work of caches, walks and stores leaves: the registers of the hub, the partitions of the dies, the platform, and no line newly stale (R281, R545, R558). -/

namespace Sys2Proof.Machine

/-- Two packages with the same registers of the hub, owners of dies, platform and deep idle; no copy is stale in the second that is not in the first. -/
structure HubKept (h k : Hw) : Prop where
  look : ∀ (d : W64) (a : Nat), a < winBase 1 → look d k.regs a = look d h.regs a
  stale : ∀ die line, has (h.cdie die).stale line = false → has (k.cdie die).stale line = false
  owner : k.dieOwner = h.dieOwner
  plat : k.plat = h.plat
  deep : k.deepIdle = h.deepIdle

namespace HubKept

section
variable {h k m a b : Hw} {die : Nat}

theorem refl (h : Hw) : HubKept h h := ⟨fun _ _ _ => rfl, fun _ _ => id, rfl, rfl, rfl⟩

theorem trans (x : HubKept h k) (y : HubKept k m) : HubKept h m :=
  ⟨fun d a low => (y.look d a low).trans (x.look d a low), fun die line => y.stale die line ∘ x.stale die line, y.owner.trans x.owner, y.plat.trans x.plat, y.deep.trans x.deep⟩

theorem ite (c : Prop) [Decidable c] (x : HubKept h a) (y : HubKept h b) : HubKept h (if c then a else b) := by
  split <;> assumption

theorem foldl {α : Type} (g : Hw → α → Hw) (hg : ∀ h a, HubKept h (g h a)) (l : List α) : ∀ h : Hw, HubKept h (l.foldl g h) := by
  induction l with
  | nil => exact refl
  | cons a r ih => exact fun h => (hg h a).trans (ih _)

/-- Nothing of these changes. -/
theorem same (regs : k.regs = h.regs) (cdies : k.cdies = h.cdies) (owner : k.dieOwner = h.dieOwner) (plat : k.plat = h.plat) (deep : k.deepIdle = h.deepIdle) : HubKept h k :=
  ⟨fun _ _ _ => by rw [regs], fun die _ clear => by rw [Hw.cdie_congr h k cdies die]; exact clear, owner, plat, deep⟩

theorem send (h : Hw) (m : Msg) : HubKept h (h.send m) := by
  obtain ⟨_, _, _, _, e⟩ := h.send_only m
  rw [e]
  exact .same rfl rfl rfl rfl rfl

theorem onThread (h : Hw) (t : Nat) (f : Thread → Thread) : HubKept h (h.onThread t f) := .same rfl rfl rfl rfl rfl

theorem onCore (h : Hw) (n : Nat) (f : Core → Core) : HubKept h (h.onCore n f) := .same rfl rfl rfl rfl rfl

theorem raise (h : Hw) (r : Raise) : HubKept h (h.raise r) := .same rfl rfl rfl rfl rfl

theorem writeMem (h : Hw) (a : Nat) (bs : List Byte) : HubKept h (h.writeMem a bs) := .same rfl rfl rfl rfl rfl

theorem fresh (h : Hw) (n : Nat) : HubKept h (h.fresh n).2 := .same rfl rfl rfl rfl rfl

theorem onCDie (h : Hw) (d : Nat) (f : CDieSt → CDieSt) (clears : ∀ c line, has c.stale line = false → has (f c).stale line = false) : HubKept h (h.onCDie d f) := by
  refine ⟨fun _ _ _ => rfl, fun die line clear => ?_, rfl, rfl, rfl⟩
  rw [Hw.cdie_onCDie]
  split
  · next here => exact clears _ _ (here ▸ clear)
  · exact clear

/-- The copies of a die that are stale stay so. -/
theorem onCDieSame (h : Hw) (d : Nat) (f : CDieSt → CDieSt) (same : ∀ c, (f c).stale = c.stale := by intro _; rfl) : HubKept h (h.onCDie d f) :=
  .onCDie h d f (fun c line => by rw [same c]; exact id)

theorem winBase_one_le_regAddr (lo : 1 ≤ die) (n : RegName) (i j : Nat) : winBase 1 ≤ regAddr n die i j := by
  have base : winBase 1 ≤ winBase die := Nat.add_le_add_left (by rw [Nat.shiftLeft_eq, Nat.shiftLeft_eq]; omega) _
  unfold regAddr regPlace
  dsimp only
  omega

/-- A register of a die other than the hub. -/
theorem setReg (lo : 1 ≤ die) (h : Hw) (n : RegName) (i j : Nat) (v : W64) : HubKept h (h.setReg n die i j v) := by
  have high := winBase_one_le_regAddr lo n i j
  exact ⟨fun d a low => look_put_ne d _ _ _ v (by omega), fun _ _ => id, rfl, rfl, rfl⟩

theorem setFld (lo : 1 ≤ die) (h : Hw) (n : RegName) (i j : Nat) (f : Fld) (x : Nat) : HubKept h (h.setFld n die i j f x) := setReg lo h n i j _

/-! Counters and domains. -/

theorem countN (h : Hw) (t ev n : Nat) : HubKept h (h.countN t ev n) := by
  have lo := one_le_dieOfThread t
  unfold Hw.countN
  extract_lets x
  split
  · refine foldl _ (fun h i => ?_) _ h
    unfold countOne
    extract_lets sel m h1 h2
    have counted : HubKept h h1 := setFld lo h _ _ _ _ _
    have wrapped : HubKept h h2 := counted.trans (setFld lo h1 _ _ _ _ _)
    exact ite _ (ite _ (ite _ (wrapped.trans (onThread _ _ _)) wrapped) counted) (refl h)
  · exact refl h

theorem counts (h : Hw) (t : Nat) (evs : List Nat) : HubKept h (h.counts t evs) := foldl _ (fun h ev => countN h t ev 1) _ h

section
variable (lo : 1 ≤ die)
include lo

theorem countDie (h : Hw) (stop ev : Nat) (w : Bool) : HubKept h (h.countDie die stop ev w) := by
  refine ite _ (refl h) (foldl _ (fun h n => ?_) _ h)
  unfold countDieOne
  extract_lets sel m h1 h2
  have counted : HubKept h h1 := setFld lo h _ _ _ _ _
  have wrapped : HubKept h h2 := counted.trans (setFld lo h1 _ _ _ _ _)
  exact ite _ (ite _ (ite _ (wrapped.trans (raise _ _)) wrapped) counted) (refl h)

theorem countRing (h : Hw) (a b : Nat) (asc : Bool) (n : Nat) (w : Bool) : HubKept h (h.countRing die a b asc n w) :=
  foldl _ (fun h _ => foldl _ (fun h _ => countDie lo h _ _ _) _ h) _ h

theorem sliceLookup (h : Hw) (q line : Nat) (w : Bool) : HubKept h (h.sliceLookup die q line w) :=
  ((countRing lo h _ _ _ _ _).trans (countRing lo _ _ _ _ _ _)).trans (countDie lo _ _ _ _)

theorem countRecalls (h : Hw) (line : Nat) (keep : Option Nat) (w : Bool) : HubKept h (h.countRecalls die line keep w) :=
  foldl _ (fun h _ => countDie lo h _ _ _) _ h

theorem recordWake (h : Hw) (src nn d : Nat) : HubKept h (h.recordWake die src nn d) := by
  unfold Hw.recordWake
  extract_lets v l hist
  have moved : HubKept h hist := foldl _ (fun h i => setReg lo h _ _ _ _) _ h
  exact ite _ (ite _ (setReg lo h _ _ _ _) (refl h)) ((moved.trans (setReg lo _ _ _ _ _)).trans (setReg lo _ _ _ _ _))

theorem wakeBase (h : Hw) (nn : Nat) : HubKept h (h.wakeBase die nn).1 := by
  unfold Hw.wakeBase
  extract_lets c k role
  split
  · exact refl h
  split
  · have aimed : HubKept h { h with domGoal := put h.domGoal k (if c = 3 then 8 else 0) } := same rfl rfl rfl rfl rfl
    exact aimed.trans (setFld lo _ _ _ _ _ _)
  split
  · exact same rfl rfl rfl rfl rfl
  · exact refl h

theorem coreWake (h : Hw) (q stop : Nat) : HubKept h (h.coreWake die q stop) := by
  have woken := wakeBase lo h q
  unfold Hw.coreWake
  exact ite _ (ite _ ((woken.trans (recordWake lo _ _ _ _)).trans (wakeBase lo _ _)) woken) (refl h)

end

/-! The caches of a die. -/

theorem coreLosesLine (h : Hw) (d q line : Nat) : HubKept h (h.coreLosesLine d q line) := by
  refine foldl _ (fun h t => ?_) _ h
  split
  · exact ite _ (onThread h _ _) (refl h)
  · exact refl h

theorem park (h : Hw) (d : Nat) (m : Msg) : HubKept h (h.park d m) := ite _ (refl h) (onCDieSame h d _)

section
variable (lo : 1 ≤ die)
include lo

theorem sendGiveUp (h : Hw) (op : MsgOp) (line : Nat) : HubKept h (h.sendGiveUp op die line) := by
  unfold Hw.sendGiveUp
  extract_lets m h0
  have counted : HubKept h h0 := ite _ (countDie lo h _ _ _) (refl h)
  exact ite _ (counted.trans (onCDieSame _ _ _)) ((counted.trans (onCDieSame _ _ _)).trans (send _ _))

theorem dieGiveUp (h : Hw) (line : Nat) : HubKept h (h.dieGiveUp die line) := by
  unfold Hw.dieGiveUp
  extract_lets st h1
  refine ite _ (refl h) (trans ?_ (onCDie h1 die _ (fun c l clear => ?_)))
  · show HubKept h (match st with | .M => _ | .E => _ | .F => _ | .S => _ | .I => _)
    cases st
    case I | S => exact refl h
    case E | F | M => exact sendGiveUp lo h _ _
  · rw [has_rem, clear, Bool.and_false]

theorem dcTrim (h : Hw) (line : Nat) : HubKept h (h.dcTrim die line) := by
  unfold Hw.dcTrim
  split
  · exact dieGiveUp lo h _
  · exact refl h

theorem dieSet (h : Hw) (line : Nat) (st : LState) : HubKept h (h.dieSet die line st) := (onCDieSame h die _).trans (dcTrim lo _ _)

theorem l2Drop (h : Hw) (q line : Nat) : HubKept h (h.l2Drop die q line) := by
  unfold Hw.l2Drop
  extract_lets dirty h1 h2 h3
  have lost : HubKept h h3 := ((onCore h _ _).trans (onCDieSame h1 _ _)).trans (coreLosesLine h2 _ _ _)
  exact ite _ (ite _ (lost.trans (dieGiveUp lo _ _)) (lost.trans (dcTrim lo _ _))) lost

theorem l2DropOthers (h : Hw) (line : Nat) (keep : Option Nat) : HubKept h (h.l2DropOthers die line keep) :=
  foldl _ (fun h _ => ite _ (refl h) (((coreWake lo h _ _).trans (onCore _ _ _)).trans (l2Drop lo _ _ _))) _ h

theorem l2Share (h : Hw) (line : Nat) : HubKept h (h.l2Share die line) := by
  refine foldl _ (fun h q => ?_) _ h
  extract_lets st h1 h2
  have woken : HubKept h h1 := (coreWake lo h q _).trans (onCore _ _ _)
  have written : HubKept h h2 := ite _ (woken.trans (onCDieSame h1 _ _)) woken
  exact ite _ (written.trans (coreLosesLine _ _ _ _)) (refl h)

theorem sfRecord (h : Hw) (q line : Nat) (w : Bool) : HubKept h (h.sfRecord die q line w) := by
  unfold Hw.sfRecord
  extract_lets h1
  have recorded : HubKept h h1 := onCDieSame h die _
  split
  · exact (recorded.trans (countDie lo h1 _ _ _)).trans (l2DropOthers lo _ _ _)
  · exact recorded

theorem l2Install (h : Hw) (q line : Nat) (st : LState) (w : Bool) : HubKept h (h.l2Install die q line st w) := by
  unfold Hw.l2Install
  extract_lets key h1
  have recorded : HubKept h h1 := (onCore h key _).trans (sfRecord lo _ q line w)
  refine ite _ (refl h) ?_
  split
  · exact recorded.trans (l2Drop lo h1 _ _)
  · exact recorded

omit lo in
theorem l1dInstall (h : Hw) (q line vset : Nat) (st : LState) : HubKept h (h.l1dInstall die q line vset st) := by
  unfold Hw.l1dInstall
  extract_lets key h1
  have installed : HubKept h h1 := onCore h key _
  refine ite _ (refl h) ?_
  split
  · exact (installed.trans (onCore h1 key _)).trans (coreLosesLine _ _ _ _)
  · exact installed

omit lo in
theorem l1iInstall (h : Hw) (q line vset : Nat) : HubKept h (h.l1iInstall die q line vset) := by
  unfold Hw.l1iInstall
  extract_lets key h1
  have installed : HubKept h h1 := onCore h key _
  refine ite _ (refl h) ?_
  split
  · exact installed.trans (onCore h1 key _)
  · exact installed

theorem dieRequest (h : Hw) (op : MsgOp) (q line part : Nat) (w : Bool) : HubKept h (h.dieRequest op die q line part w) := by
  unfold Hw.dieRequest
  extract_lets m
  exact ite _ (refl h) (ite _ (park h die m) (((countDie lo h _ _ _).trans (onCDieSame _ _ _)).trans (send _ m)))

theorem dieForward (h : Hw) (q line part : Nat) (w : Bool) : HubKept h (h.dieForward die q line part w) := by
  unfold Hw.dieForward
  extract_lets m
  exact ite _ (park h die m) ((countDie lo h _ _ _).trans (send _ m))

end

/-! The fill buffers of a core. -/

theorem sliceRead (h : Hw) (t line : Nat) : HubKept h (h.sliceRead t line).1 := by
  have lo := one_le_dieOfThread t
  unfold Hw.sliceRead
  extract_lets die p w h1
  have looked : HubKept h h1 := sliceLookup lo h p line w
  split
  · exact ((looked.trans (countRecalls lo h1 _ _ _)).trans (l2Share lo _ _)).trans (sfRecord lo _ _ _ _)
  · exact ((looked.trans (countRecalls lo h1 _ _ _)).trans (l2DropOthers lo _ _ _)).trans (dieRequest lo _ _ _ _ _ _)

theorem addFill (h : Hw) (e : FillEnt) : HubKept h (h.addFill e) := by
  have lo := one_le_dieOfThread e.thread
  unfold Hw.addFill
  extract_lets t die p put r h1 merged
  have entered (x : Hw) (b : Bool) : HubKept x (put x b) := onCore x _ _
  have looked : HubKept h h1 := sliceLookup lo h _ _ _
  refine ite _ ((sliceRead h t e.line).trans (entered _ _)) (ite _ (looked.trans (entered _ _)) (trans (looked.trans ?_) (entered _ _)))
  exact ite _ (refl h1) (dieForward lo h1 _ _ _ _)

theorem installFill (h : Hw) (e : FillEnt) : HubKept h (h.installFill e) := by
  have lo := one_le_dieOfThread e.thread
  unfold Hw.installFill
  extract_lets die p cur st h2
  have installed : HubKept h h2 := l2Install lo h _ _ _ _
  refine ite _ (refl h) (ite _ (l2Drop lo h _ _) (ite _ installed ?_))
  exact ite _ (installed.trans (l1iInstall h2 _ _ _)) (installed.trans (l1dInstall h2 _ _ _ _))

theorem hitTouch (h : Hw) (e : FillEnt) : HubKept h (h.hitTouch e) := by
  unfold Hw.hitTouch
  extract_lets die p key c
  refine ite _ (onCore h _ _) ?_
  split
  · next st _ =>
    have touched : HubKept h (h.onCore key (fun c => { c with l2 := mruPut c.l2 e.line st })) := onCore h _ _
    exact ite _ touched (ite _ (touched.trans (l1iInstall _ _ _ _)) (touched.trans (l1dInstall _ _ _ _ _)))
  · exact refl h

theorem lineTouch (h : Hw) (t line : Nat) : HubKept h (h.lineTouch t line) := by
  unfold Hw.lineTouch
  extract_lets hit e h1
  have added : HubKept h h1 := addFill h e
  refine ite _ (refl h) (ite _ (hitTouch h e) ?_)
  split
  · exact ite _ added ((added.trans (onCore h1 _ _)).trans (installFill _ _))
  · exact added

theorem readRange (h : Hw) (t pa n : Nat) : HubKept h (h.readRange t pa n) := foldl _ (fun h l => lineTouch h t l) _ h

theorem storeOwned (h : Hw) (t line vset : Nat) (bs : List (Nat × Byte)) : HubKept h (h.storeOwned t line vset bs) := by
  have lo := one_le_dieOfThread t
  unfold Hw.storeOwned
  extract_lets die p w h1 h2 h3
  have written : HubKept h h1 := ((countRecalls lo h _ _ _).trans (l2DropOthers lo _ _ _)).trans (foldl _ (fun h _ => writeMem h _ _) _ _)
  have installed : HubKept h h3 := written.trans (((dieSet lo h1 _ _).trans (l2Install lo _ _ _ _ _)).trans (l1dInstall _ _ _ _ _))
  exact ite _ (refl h) (ite _ (installed.trans (dieGiveUp lo _ _)) installed)

/-! Walks and fetched lines. -/

theorem walkTouch (h : Hw) (t pa : Nat) (waits : Bool) : HubKept h (h.walkTouch t pa waits).1 := by
  unfold Hw.walkTouch
  extract_lets x line behind st hit u e
  split
  · exact ite _ (onCore h _ _) (refl h)
  · split
    · exact ite _ (onCore h _ _) (hitTouch h _)
    · split
      · exact refl h
      · exact addFill h e

theorem walks (h : Hw) (c : Ctx) : WalkKeeps (HubKept h) (fun _ => True) c where
  stop _ := trivial
  refuse _ _ _ _ := trivial
  wait _ _ _ _ _ := trivial
  touch t pa waits _ kept := kept.trans (walkTouch _ t pa waits)
  write a bs kept := kept.trans (writeMem _ a bs)
  thread t g kept := kept.trans (onThread _ t g)
  send m kept := kept.trans (send _ m)
  draw n kept := kept.trans (fresh _ n)

theorem xlate {t : Nat} {c : Ctx} {va : W64} {acc : Acc} {v : Hw × XRes} (found : Machine.xlate h t c va acc = .ok v) : HubKept h v.1 := by
  have kept := (walks h c).xlate (refl h) t va acc
  rw [found] at kept
  exact kept

theorem fetchFill (h : Hw) (t pa : Nat) (va : W64) : HubKept h (h.fetchFill t pa va) := by
  unfold Hw.fetchFill
  extract_lets x behind st line hit u e
  split
  · exact ite _ (onCore h _ _) (refl h)
  · exact ite _ (hitTouch h e) (ite _ (onCore h _ _) (addFill h e))

theorem fetchLine {t : Nat} {r : XRes} {va : W64} (got : Machine.fetchLine h t r va = .ok k) : HubKept h k := by
  unfold Machine.fetchLine at got
  split at got
  · split at got
    · cases got
    · cases got; exact fetchFill h t r.pa va
  split at got
  · cases got; exact refl h
  · cases got

end

end HubKept

end Sys2Proof.Machine

end

section
/-! SUPPORT. Bytes that a thread writes into lines that its die owns (R60, R214, R551), and what the end of an instruction leaves of its thread. -/

namespace Sys2Proof.Machine

/-! Stores at once. -/

/-- From package h to k the bytes at an address are written; threads and the hub are kept. -/
structure Written (h k : Hw) (pa n : Nat) (bs : List Byte) : Prop where
  kept : KeptAll h k
  hub : HubKept h k
  byte : ∀ m, k.byte m = if pa ≤ m ∧ m < pa + n then bs.getD (m - pa) 0 else h.byte m

theorem cellsAt_cons (pa : Nat) (b : Byte) (bs : List Byte) : cellsAt pa (b :: bs) = (pa, b) :: cellsAt (pa + 1) bs := by
  rw [cellsAt, List.zipIdx_cons, List.zipIdx_eq_map_add]
  simp [cellsAt, Function.comp_def, Nat.add_comm, Nat.add_left_comm]

theorem Hw.byte_writeCells (bs : List Byte) : ∀ (h : Hw) (pa m : Nat),
    (h.writeCells (cellsAt pa bs)).byte m = if pa ≤ m ∧ m < pa + bs.length then bs.getD (m - pa) 0 else h.byte m := by
  induction bs with
  | nil =>
    intro h pa m
    rw [if_neg (by simp)]
    rfl
  | cons b bs ih =>
    intro h pa m
    rw [cellsAt_cons]
    show (Hw.writeCells (h.writeMem pa [b]) (cellsAt (pa + 1) bs)).byte m = _
    rw [ih, Hw.byte_writeMem]
    simp only [List.length_cons, List.length_nil]
    by_cases above : pa + 1 ≤ m ∧ m < pa + 1 + bs.length
    · rw [if_pos above, if_pos (by omega), show m - pa = (m - (pa + 1)) + 1 by omega, List.getD_cons_succ]
    · by_cases here : m = pa
      · subst here
        simp
      · rw [if_neg above, if_neg (by omega), if_neg (by omega)]

theorem keptAll_writeCells (l : List (Nat × Byte)) (h : Hw) : KeptAll h (h.writeCells l) :=
  keptAll_foldl (fun (h : Hw) (c : Nat × Byte) => h.writeMem c.1 [c.2]) (fun h c => keptAll_writeMem h c.1 [c.2]) l h

theorem keptAll_storeOwned (h : Hw) (t line vset : Nat) (bs : List (Nat × Byte)) : KeptAll h (h.storeOwned t line vset bs) := by
  unfold Hw.storeOwned
  extract_lets die p w h1 h2 h3
  split
  · exact KeptAll.refl h
  · have written : KeptAll h h1 := (((cacheOnly_countRecalls h _ _ _ _).trans (cacheOnly_l2DropOthers _ _ _ _)).kept).trans (keptAll_writeCells _ _)
    have installed : KeptAll h h3 := written.trans ((((cacheOnly_dieSet h1 _ _ _).trans (cacheOnly_l2Install _ _ _ _ _ _)).trans (cacheOnly_l1dInstall _ _ _ _ _ _)).kept)
    split
    · exact installed.trans (cacheOnly_dieGiveUp _ _ _).kept
    · exact installed

theorem byte_storeOwned {h : Hw} {t line : Nat} (clear : has (h.cdie (dieOfThread t)).stale line = false) (vset pa : Nat) (bs : List Byte) (m : Nat) :
    (h.storeOwned t line vset (cellsAt pa bs)).byte m = if pa ≤ m ∧ m < pa + bs.length then bs.getD (m - pa) 0 else h.byte m := by
  have mem := storeOwned_mem h t line vset (cellsAt pa bs)
  rw [clear, if_neg (by decide)] at mem
  rw [← Hw.byte_writeCells bs h pa m]
  unfold Hw.byte
  rw [mem]

theorem getD_take_drop (bs : List Byte) (i n : Nat) {j : Nat} (lt : j < n) : ((bs.drop i).take n).getD j 0 = bs.getD (i + j) 0 := by
  rw [List.getD_eq_getElem?_getD, List.getElem?_take_of_lt lt, List.getElem?_drop, List.getD_eq_getElem?_getD]

/-- The first n lines of a range, written in turn. -/
theorem written_lines {h : Hw} {t pa : Nat} (bs : List Byte) : ∀ {n : Nat}, (∀ i < n, has (h.cdie (dieOfThread t)).stale (lineOf pa + i) = false) →
    Written h ((List.range n).foldl (fun (h : Hw) i =>
      h.storeOwned t (lineOf pa + i) (nbits (pa + 64 * i) 12 6) (cellsAt (pa + 64 * i) ((bs.drop (64 * i)).take 64))) h) pa (min (64 * n) bs.length) bs
  | 0, _ => ⟨KeptAll.refl h, .refl h, fun m => by rw [if_neg (by omega)]; rfl⟩
  | n + 1, clear => by
    obtain ⟨kept, hub, byte⟩ := written_lines bs (fun i lt => clear i (Nat.lt_succ_of_lt lt))
    rw [List.range_succ, List.foldl_append]
    refine ⟨kept.trans (keptAll_storeOwned _ _ _ _ _), hub.trans (.storeOwned _ _ _ _ _), fun m => ?_⟩
    rw [List.foldl_cons, List.foldl_nil, byte_storeOwned (hub.stale _ _ (clear n (Nat.lt_succ_self n))), byte, List.length_take, List.length_drop]
    by_cases here : pa + 64 * n ≤ m ∧ m < pa + 64 * n + min 64 (bs.length - 64 * n)
    · rw [if_pos here, if_pos (by omega), getD_take_drop _ _ _ (by omega), show 64 * n + (m - (pa + 64 * n)) = m - pa by omega]
    · rw [if_neg here]
      by_cases low : pa ≤ m ∧ m < pa + min (64 * n) bs.length
      · rw [if_pos low, if_pos (by omega)]
      · rw [if_neg low, if_neg (by omega)]

theorem written_writeRange {h : Hw} {t pa : Nat} (bs : List Byte) (clear : ∀ l ∈ lineRange pa bs.length, has (h.cdie (dieOfThread t)).stale l = false) :
    Written h (h.writeRange t pa bs) pa bs.length bs := by
  have lines := written_lines (h := h) (t := t) (pa := pa) bs (n := (bs.length + 63) / 64)
    (fun i lt => clear _ (List.mem_map.mpr ⟨i, List.mem_range.mpr lt, rfl⟩))
  rwa [show min (64 * ((bs.length + 63) / 64)) bs.length = bs.length by omega] at lines

/-! The end of an instruction. -/

/-- The walks that enter the TLBs change the thread's walk buffers alone. -/
theorem walksDone_thread (h : Hw) (t n : Nat) : ∃ b p, (h.walksDone t).thread n = { h.thread n with walkBuf := b, walkPtrs := p } := by
  unfold Hw.walksDone
  split
  · unfold Hw.installWalks
    extract_lets x due w p set ents h1
    split
    · exact ⟨_, _, rfl⟩
    · rw [Hw.thread_onThread]
      split
      · next same =>
        subst same
        exact ⟨_, _, rfl⟩
      · exact ⟨_, _, rfl⟩
  · exact ⟨_, _, rfl⟩

theorem walksDone_others (h : Hw) {t n : Nat} (other : n ≠ t) : (h.walksDone t).thread n = h.thread n := by
  unfold Hw.walksDone
  split
  · unfold Hw.installWalks
    extract_lets x due w p set ents h1
    split
    · rfl
    · rw [Hw.thread_onThread, if_neg other]
      rfl
  · rfl

/-- What a settled command does, as that of any other, when its thread is ready. -/
theorem exec_issue {s : State} {i : Instr} {t w : Nat} {body : Hw → Exe} {f : Hw} (e : exec i s = s.onHw (issueSettled t w body)) (r : Ready s.hw t w f) :
    exec i s = s.onHw (issue t w body) := by
  rw [e, State.onHw_eq, State.onHw_eq, issueSettled_ready r, issue_ready r]

end Sys2Proof.Machine

end

section
/-! SUPPORT. GATE: its checks, the record that it writes, and the thread that it leaves in the secure world (R547, R548, R550, R551). -/

namespace Sys2Proof.Machine

/-! The registers of the hub that gates read. -/

theorem HubKept.partOf {h k : Hw} (kept : HubKept h k) (t : Nat) : k.partOf t = h.partOf t := by rw [Hw.partOf, Hw.partOf, kept.owner]

theorem HubKept.fld {h k : Hw} (kept : HubKept h k) {n : RegName} {i : Nat} (low : regAddr n 0 0 i < winBase 1) (f : Fld) : k.fld n 0 0 i f = h.fld n 0 0 i f := by
  rw [Hw.fld, Hw.fld, Hw.reg, Hw.reg, kept.look _ _ low]

theorem secGrec_in_hub : ∀ i < 12, regAddr .SEC_GREC 0 0 i < winBase 1 := by decide

theorem secSwctl_in_hub : ∀ i < 12, regAddr .SEC_SWCTL 0 0 i < winBase 1 := by decide

theorem pwrDom_in_hub : regAddr .PWR_DOM 0 0 0 < winBase 1 := by decide

/-- A home passes the requests of the twelve partitions alone. -/
theorem part_le_of_homePass {h : Hw} {part pa : Nat} {world : Bool} (pass : h.homePass part world pa = true) : part ≤ 12 := by
  unfold Hw.homePass at pass
  extract_lets g o at pass
  simp only [Bool.and_eq_true, decide_eq_true_eq] at pass
  obtain ⟨⟨same, le⟩, _⟩ := pass
  exact same ▸ le

theorem HubKept.gateRec {h k : Hw} {t : Nat} (kept : HubKept h k) (le : h.partOf t ≤ 12) : gateRec k t = gateRec h t := by
  unfold Machine.gateRec
  rw [kept.partOf, kept.fld (secGrec_in_hub _ (by omega))]

/-! What GATE keeps of its thread. -/

/-- Two threads alike in level, banks and registers, and in the stores that wait. -/
structure Thread.SameGate (x y : Thread) : Prop where
  level : y.level = x.level
  shbank : y.shbank = x.shbank
  depth : y.depth = x.depth
  cr : y.cr = x.cr
  sq : y.sq = x.sq
  general : ∀ n, y.readG n = x.readG n

theorem Thread.SameGate.trans {x y z : Thread} (a : x.SameGate y) (b : y.SameGate z) : x.SameGate z :=
  ⟨b.level.trans a.level, b.shbank.trans a.shbank, b.depth.trans a.depth, b.cr.trans a.cr, b.sq.trans a.sq, fun n => (b.general n).trans (a.general n)⟩

theorem Thread.FetchKept.gate {x y : Thread} (e : x.FetchKept y) : x.SameGate y := by
  rw [e]
  exact ⟨rfl, rfl, rfl, rfl, rfl, fun _ => rfl⟩

theorem Ready.gate {h f : Hw} {t w : Nat} (r : Ready h t w f) : (h.thread t).SameGate ((f.fetched t).thread t) := by
  obtain ⟨_, _, _, _, _, _, _, _, e⟩ := r.thread
  rw [e]
  exact ⟨rfl, rfl, rfl, rfl, rfl, fun _ => rfl⟩

theorem Ready.world {h f : Hw} {t w : Nat} (r : Ready h t w f) : ((f.fetched t).thread t).world = (h.thread t).world := by
  obtain ⟨_, _, _, _, _, _, _, _, e⟩ := r.thread
  rw [e]

theorem inWorld_gate (h : Hw) (t : Nat) (w : Bool) : (h.thread t).SameGate ((h.inWorld t w).thread t) := by
  rw [Hw.inWorld, Hw.thread_onThread, if_pos rfl]
  exact ⟨rfl, rfl, rfl, rfl, rfl, fun _ => rfl⟩

theorem setActive_thr (h : Hw) (t : Nat) (on : Bool) : (h.setActive t on).thr = h.thr := by
  unfold Hw.setActive
  split
  · extract_lets d
    split <;> rfl
  · rfl

theorem setActive_mem (h : Hw) (t : Nat) (on : Bool) : (h.setActive t on).mem = h.mem := by
  unfold Hw.setActive
  split
  · extract_lets d
    split <;> rfl
  · rfl

/-- A thread that enters the secure world (R547). -/
def Thread.entered (y : Thread) (level : BitVec 2) (act : Act) (target : W64) : Thread :=
  { y with missed := 0, deferred := none, ncReads := [], fencing := false, act := some act, level := level, world := true, ie := false, ven := false, progress := 0,
           pc := target, resv := none, ghist := 0, retStack := [] }

/-! The steps of GATE. -/

section
variable {t lt : Nat} {target : W64} {g h1 h2 : Hw} {r : XRes}

theorem gateTarget_ok (found : xlate g t (ctxOf (g.thread t) t (g.partOf t) lt true) target .fetch = .ok (h1, r)) (gw : r.gw = true)
    (pass : h1.homePass (g.partOf t) true r.pa = true) (mapped : h1.mapped r.pa = true) (clean : h1.poisoned r.pa = false)
    (got : fetchLine h1 t r target = .ok h2) (mark : h2.readNum r.pa 4 = 0xF4005000) : gateTarget t lt target g = .ok h2 := by
  simp [gateTarget, found, gw, pass, mapped, clean, got, mark]

theorem gateRecord_ok {x : Thread} {h : Hw} (good : recordBad h t (gateRec h t) (gateRecBytes x).length = none) (empty : (h.thread t).sq = [])
    (owns : ∀ l ∈ lineRange (gateRec h t) (gateRecBytes x).length, h.dieOwns (dieOfThread t) l = true ∧ has (h.cdie (dieOfThread t)).lost l = false) :
    gateRecord t target x h = .ok (h.writeRange t (gateRec h t) (gateRecBytes x)) := by
  have own : h.ownRange t (lineRange (gateRec h t) (gateRecBytes x).length) = (h, true) := by
    unfold Hw.ownRange
    extract_lets die ready
    rw [if_neg (by simp [empty]), if_pos]
    rw [List.all_eq_true]
    intro l listed
    obtain ⟨owned, kept⟩ := owns l listed
    simp only [ready, die, owned, kept, Bool.not_false, Bool.and_self]
  simp only [gateRecord, good, own]

/-- The thread that a GATE leaves is the one it found, entered, but for its counters and walk buffers. -/
theorem gateEnter_thread (h : Hw) : ∃ n b p, (h.thread t).FetchKept n ∧ (gateEnter t target h).thread t =
    { n.entered (if (h.thread t).level = 0 then 0 else 1) { depth := (h.thread t).depth, recAddr := gateRec h t, lowm := 0, started := h.now } target with walkBuf := b, walkPtrs := p } := by
  have noted := (h.note_counted t (0x0002 :: (h.thread t).missEvents ++ [])).kept t
  obtain ⟨b, p, e⟩ := walksDone_thread ((h.note t (0x0002 :: (h.thread t).missEvents ++ [])).onThread t (fun y =>
    y.entered (if (h.thread t).level = 0 then 0 else 1) { depth := (h.thread t).depth, recAddr := gateRec h t, lowm := 0, started := h.now } target)) t t
  rw [Hw.thread_onThread, if_pos rfl] at e
  exact ⟨_, b, p, noted, (Hw.thread_congr _ _ (setActive_thr _ t true) t).trans e⟩

theorem gateEnter_mem (h : Hw) : (gateEnter t target h).mem = h.mem := by
  unfold gateEnter
  extract_lets x h1
  rw [setActive_mem]
  exact (cacheOnly_walksDone _ t).mem.trans (h.note_counted t _).cacheOnly.mem

end

end Sys2Proof.Machine

end

section
/-! PROOFS. The gateway instructions (R121, R547, R548, R550 to R552, R558). -/

namespace Sys2Proof.Machine

/-! GATE. -/

theorem low_bits_eq_zero (v : W64) : wbits v 1 0 = 0 ↔ v.extractLsb' 0 2 = 0 := by
  rw [← BitVec.toNat_inj]
  simp [wbits, nbits, BitVec.extractLsb'_toNat]

section
variable {s : State} {t : Gtn} {a : RegNum} {f : Hw} (r : Ready s.hw t.val 1 f)
include r

theorem gateBody_secure (inside : (s.hw.thread t.val).world = true) :
    gateBody t.val 0 a 0 (f.fetched t.val) = .error (f.fetched t.val, illegal (wordSys 4 0 a 0)) :=
  if_pos (by simp [r.world, inside])

theorem gateBody_misaligned (outside : (s.hw.thread t.val).world = false) (odd : ((s.hw.thread t.val).readG a.toNat).extractLsb' 0 2 ≠ 0) :
    gateBody t.val 0 a 0 (f.fetched t.val) = .error (f.fetched t.val, gateFault 0x01 ((s.hw.thread t.val).readG a.toNat)) := by
  unfold gateBody
  extract_lets x target st
  rw [if_neg (by simp [x, r.world, outside]), show target = _ from r.readG _, if_pos (by simpa [low_bits_eq_zero] using odd)]

/-- The state of the partition's secure world, as GATE reads it. -/
def gateState (h : Hw) (t : Nat) : Nat := h.fld .SEC_SWCTL 0 0 (h.partOf t - 1) F.SEC_SWCTL_STATE

variable (outside : (s.hw.thread t.val).world = false) (aligned : ((s.hw.thread t.val).readG a.toNat).extractLsb' 0 2 = 0)
include outside aligned

theorem gateBody_off (off : gateState (f.fetched t.val) t.val ≠ 1) (below : (s.hw.thread t.val).level ≠ 3) : gateBody t.val 0 a 0 (f.fetched t.val) =
    .ok (retire ((f.fetched t.val).setG t.val 1 (if gateState (f.fetched t.val) t.val = 0 then 0x8000000000000001 else 0x8000000000000002)) t.val 4) := by
  unfold gateBody
  extract_lets x target st
  rw [if_neg (by simp [x, r.world, outside]), show target = _ from r.readG _, if_neg (by simp [low_bits_eq_zero, aligned]), if_pos ⟨off, by rwa [r.gate.level]⟩]
  rfl

/-- A GATE whose target and record pass every check. -/
theorem gateBody_enters (on : gateState (f.fetched t.val) t.val = 1 ∨ (s.hw.thread t.val).level = 3) {h2 h3 : Hw}
    (target : gateTarget t.val (if (s.hw.thread t.val).level = 0 then 0 else 1) ((s.hw.thread t.val).readG a.toNat) ((f.fetched t.val).inWorld t.val true) = .ok h2)
    (record : gateRecord t.val ((s.hw.thread t.val).readG a.toNat) ((f.fetched t.val).thread t.val) h2 = .ok h3) :
    gateBody t.val 0 a 0 (f.fetched t.val) = .ok (gateEnter t.val ((s.hw.thread t.val).readG a.toNat) (h3.inWorld t.val false)) := by
  unfold gateBody
  extract_lets x goal st
  rw [if_neg (by simp [x, r.world, outside]), show goal = _ from r.readG _, if_neg (by simp [low_bits_eq_zero, aligned]),
    if_neg (by rw [r.gate.level]; exact fun both => on.elim both.1 both.2), r.gate.level, target]
  dsimp only
  rw [record]

end

/-- What a GATE leaves that passes every check. -/
theorem gate_enters {s : State} {t : Gtn} {a : RegNum} {f h1 h2 : Hw} {tr : XRes} (r : Ready s.hw t.val 1 f) (outside : (s.hw.thread t.val).world = false)
    (aligned : ((s.hw.thread t.val).readG a.toNat).extractLsb' 0 2 = 0) (on : gateState (f.fetched t.val) t.val = 1 ∨ (s.hw.thread t.val).level = 3)
    (found : xlate ((f.fetched t.val).inWorld t.val true) t.val
      (ctxOf (((f.fetched t.val).inWorld t.val true).thread t.val) t.val ((f.fetched t.val).partOf t.val) (if (s.hw.thread t.val).level = 0 then 0 else 1) true)
      ((s.hw.thread t.val).readG a.toNat) .fetch = .ok (h1, tr)) (gw : tr.gw = true)
    (pass : h1.homePass ((f.fetched t.val).partOf t.val) true tr.pa = true) (mapped : h1.mapped tr.pa = true) (clean : h1.poisoned tr.pa = false)
    (got : fetchLine h1 t.val tr ((s.hw.thread t.val).readG a.toNat) = .ok h2) (mark : h2.readNum tr.pa 4 = 0xF4005000)
    (good : recordBad h2 t.val (gateRec (f.fetched t.val) t.val) (gateRecBytes ((f.fetched t.val).thread t.val)).length = none) (empty : (s.hw.thread t.val).sq = [])
    (owns : ∀ l ∈ lineRange (gateRec (f.fetched t.val) t.val) (gateRecBytes ((f.fetched t.val).thread t.val)).length,
      h2.dieOwns (dieOfThread t.val) l = true ∧ has (h2.cdie (dieOfThread t.val)).lost l = false ∧ has (h2.cdie (dieOfThread t.val)).stale l = false) :
    ∃ u, exec (.gate t 0 a 0) s = .next u ∧ u.pending = s.pending ∧
      (let x := s.hw.thread t.val
       let y := u.hw.thread t.val
       y.world = true ∧ y.level = BitVec.ofNat 2 (if x.level = 0 then 0 else 1) ∧ y.pc = x.readG a.toNat ∧ y.ie = false ∧ y.ven = false ∧ y.progress = 0 ∧ y.resv = none ∧
       y.shbank = x.shbank ∧ y.depth = x.depth ∧ (∀ n, y.readG n = x.readG n) ∧ y.cr = x.cr ∧
       ∃ act, y.act = some act ∧ act.depth = x.depth ∧ act.recAddr = gateRec (f.fetched t.val) t.val) ∧
      (∀ b, u.hw.byte b = if gateRec (f.fetched t.val) t.val ≤ b ∧ b < gateRec (f.fetched t.val) t.val + (gateRecBytes ((f.fetched t.val).thread t.val)).length then
        (gateRecBytes ((f.fetched t.val).thread t.val)).getD (b - gateRec (f.fetched t.val) t.val) 0 else h2.byte b) := by
  have hub : HubKept (f.fetched t.val) h2 := ((HubKept.onThread _ _ _).trans (.xlate found)).trans (.fetchLine got)
  have place := hub.gateRec (part_le_of_homePass pass)
  have worked : (s.hw.thread t.val).SameGate (h2.thread t.val) :=
    ((r.gate.trans (inWorld_gate _ _ true)).trans (kept_xlate found t.val).gate).trans ((cacheOnly_fetchLine got).kept t.val).gate
  rw [← place] at good owns ⊢
  have record := gateRecord_ok (target := (s.hw.thread t.val).readG a.toNat) good (worked.sq.trans empty) (fun l listed => ⟨(owns l listed).1, (owns l listed).2.1⟩)
  generalize gateRecBytes ((f.fetched t.val).thread t.val) = bs at *
  have written : Written h2 (h2.writeRange t.val (gateRec h2 t.val) bs) (gateRec h2 t.val) bs.length bs := written_writeRange bs (fun l listed => (owns l listed).2.2)
  generalize h2.writeRange t.val (gateRec h2 t.val) bs = h3 at *
  have left : (s.hw.thread t.val).SameGate ((h3.inWorld t.val false).thread t.val) := (worked.trans (written.kept t.val).gate).trans (inWorld_gate _ _ false)
  have still : gateRec (h3.inWorld t.val false) t.val = gateRec h2 t.val :=
    HubKept.gateRec (written.hub.trans (.onThread _ _ _)) (hub.partOf t.val ▸ part_le_of_homePass pass)
  obtain ⟨n, b, p, counted, thread⟩ := gateEnter_thread (t := t.val) (target := (s.hw.thread t.val).readG a.toNat) (h3.inWorld t.val false)
  have same := left.trans counted.gate
  rw [left.level, left.depth, still] at thread
  have body := gateBody_enters r outside aligned on (gateTarget_ok found gw pass mapped clean got mark) record
  refine ⟨_, State.onHw_eq s _, rfl, ?_, fun m => ?_⟩
  · rw [issueSettled_ok r body]
    dsimp only
    rw [thread]
    refine ⟨rfl, ?_, rfl, rfl, rfl, rfl, rfl, same.shbank, same.depth, same.general, same.cr, _, rfl, rfl, rfl⟩
    show (if _ then _ else _) = _
    split <;> rfl
  · rw [issueSettled_ok r body]
    have bytes := written.byte m
    unfold Hw.byte at bytes ⊢
    dsimp only
    rw [gateEnter_mem]
    exact bytes

/-! GMARK. -/

theorem Thread.after_eq (x : Thread) (n : W64) :
    x.after (x.pc + n) = { ({ x with atVector := false } : Thread).clearProg with pc := ({ x with atVector := false } : Thread).pc + n } := by
  unfold Thread.after Thread.clearProg
  rfl

theorem gmark_retires {s : State} {t : Gtn} {f : Hw} (r : Ready s.hw t.val 1 f) :
    ∃ u, exec (.gmark t 0 0 0) s = .next u ∧ Retires s u t.val f ((f.thread t.val).after ((s.hw.thread t.val).pc + 4)) := by
  obtain ⟨u, done, queue, m, counted, rest⟩ := retires_of (i := .gmark t 0 0 0) (len := 4) (evs := []) (body := gmarkBody t.val 0 0 0) rfl r rfl
  rw [r.fetchedThread, Hw.fetched, Hw.onThread_eq, Hw.setThread_setThread, ← Thread.after_eq, r.pc] at counted
  exact ⟨u, done, queue, m, counted, rest⟩

/-! GRET. -/

theorem cacheOnly_lineTouch (h : Hw) (t line : Nat) : CacheOnly h (h.lineTouch t line) := by
  unfold Hw.lineTouch
  extract_lets hit e h1
  have added : CacheOnly h h1 := cacheOnly_addFill h e
  refine cacheOnly_ite _ (.refl h) (cacheOnly_ite _ (cacheOnly_hitTouch h e) ?_)
  split
  · exact cacheOnly_ite _ added ((added.trans (cacheOnly_onCore h1 _ _)).trans (cacheOnly_installFill _ _))
  · exact added

theorem cacheOnly_readRange (h : Hw) (t pa n : Nat) : CacheOnly h (h.readRange t pa n) := cacheOnly_foldl _ (fun h l => cacheOnly_lineTouch h t l) _ h

/-- A thread that a record restores: its normal-world context, with the words that the record holds (R552). -/
def Thread.restored (y : Thread) (w : Nat → W64) (ps : List (Nat × W64)) (vs : List (Nat × V512)) (slots : List Event) : Thread :=
  { y with g := (List.range 23).map (fun i => (9 + i, w (48 + 8 * i))), p := ps, v := vs, fpcsr := w 40, level := BitVec.ofNat 2 (wbits (w 8) 1 0), ie := wbit (w 8) 3,
           ven := wbit (w 8) 8, world := false, progress := 0, missed := 0, deferred := none, ncReads := [], fencing := false, atVector := false, act := none, pc := w 0,
           resv := none, ghist := 0, retStack := [], slots := slots }

theorem Thread.restored_slots (y : Thread) (w : Nat → W64) (ps : List (Nat × W64)) (vs : List (Nat × V512)) (a b : List Event) :
    { y.restored w ps vs a with slots := b } = y.restored w ps vs b := by
  unfold Thread.restored
  rfl

/-- A word of a record in memory. -/
def recordWord (h : Hw) (addr k : Nat) : W64 := BitVec.ofNat 64 (h.readNum (addr + k) 8)

theorem recordRestore_thread (h : Hw) (t addr : Nat) : ∃ ps vs, (recordRestore h t addr).thread t = (h.thread t).restored (recordWord h addr) ps vs (h.thread t).slots := by
  unfold recordRestore
  extract_lets w st ven gs ps vs
  rw [Hw.thread_onThread, if_pos rfl]
  exact ⟨ps, vs, rfl⟩

/-- The withdrawal of the watchdog's event leaves memory, the hub, and of its thread all but the events. -/
theorem withdrawWatchdog_only (h : Hw) (t : Nat) :
    HubKept h (h.withdrawWatchdog t) ∧ (h.withdrawWatchdog t).mem = h.mem ∧ ∃ sl, (h.withdrawWatchdog t).thread t = { h.thread t with slots := sl } := by
  unfold Hw.withdrawWatchdog
  extract_lets src mine freed h1 h2 flies
  have credits : ∀ l : List Event, ∀ k : Hw, HubKept k (l.foldl (fun h e => h.send { op := .CREDIT, addr := t, agent := h.threadAgent t, part := e.inst, info := e.vector }) k) ∧
      (l.foldl (fun h e => h.send { op := .CREDIT, addr := t, agent := h.threadAgent t, part := e.inst, info := e.vector }) k).mem = k.mem ∧
      (l.foldl (fun h e => h.send { op := .CREDIT, addr := t, agent := h.threadAgent t, part := e.inst, info := e.vector }) k).thr = k.thr := by
    intro l
    induction l with
    | nil => exact fun k => ⟨.refl k, rfl, rfl⟩
    | cons e l ih =>
      intro k
      obtain ⟨hub, mem, thr⟩ := ih (k.send { op := .CREDIT, addr := t, agent := k.threadAgent t, part := e.inst, info := e.vector })
      exact ⟨(HubKept.send k _).trans hub, mem.trans (cacheOnly_send k _).mem, thr.trans (k.send_thr _)⟩
  obtain ⟨hub, mem, thr⟩ := credits freed h1
  have first : HubKept h h2 := (HubKept.onThread h _ _).trans hub
  refine ⟨first.trans (.same rfl rfl rfl rfl rfl), mem, (h.thread t).slots.filter (fun e => !mine e), ?_⟩
  refine (Hw.thread_congr _ h1 thr t).trans ?_
  rw [Hw.thread_onThread, if_pos rfl]

theorem HubKept.recordRestore (h : Hw) (t addr : Nat) : HubKept h (recordRestore h t addr) := by
  unfold Machine.recordRestore
  exact .onThread h t _

theorem HubKept.setActive (h : Hw) (t : Nat) (on : Bool) : HubKept h (h.setActive t on) := by
  have lo := one_le_dieOfThread t
  unfold Hw.setActive
  split
  · extract_lets d
    exact .ite _ (.setFld lo h _ _ _ _ _) (.setFld lo h _ _ _ _ _)
  · exact .refl h

/-- What a GRET restores, before the gap marker. -/
def gretRestored (h : Hw) (t : Nat) (act : Act) : Hw :=
  ((recordRestore (h.readRange t act.recAddr (recordLen h act.recAddr)) t act.recAddr).withdrawWatchdog t).setActive t false

theorem readNum_congr {h k : Hw} (mem : k.mem = h.mem) (a n : Nat) : k.readNum a n = h.readNum a n := by
  unfold Hw.readNum
  rw [Hw.bytes_eq_map, Hw.bytes_eq_map]
  unfold Hw.byte
  rw [mem]

theorem gretRestored_only (h : Hw) (t : Nat) (act : Act) : HubKept h (gretRestored h t act) ∧ (gretRestored h t act).mem = h.mem ∧
    ∃ y ps vs sl, (h.thread t).FetchKept y ∧ (gretRestored h t act).thread t = y.restored (recordWord h act.recAddr) ps vs sl := by
  unfold gretRestored
  have read := cacheOnly_readRange h t act.recAddr (recordLen h act.recAddr)
  have hub := HubKept.readRange h t act.recAddr (recordLen h act.recAddr)
  generalize h.readRange t act.recAddr (recordLen h act.recAddr) = h1 at *
  obtain ⟨withdrawn, mem, sl, thread⟩ := withdrawWatchdog_only (recordRestore h1 t act.recAddr) t
  obtain ⟨ps, vs, restored⟩ := recordRestore_thread h1 t act.recAddr
  have words : recordWord h1 act.recAddr = recordWord h act.recAddr := funext fun k => by rw [recordWord, recordWord, readNum_congr read.mem]
  refine ⟨((hub.trans (.recordRestore _ _ _)).trans withdrawn).trans (.setActive _ _ _), (setActive_mem _ _ _).trans (mem.trans read.mem), _, ps, vs, sl, read.kept t, ?_⟩
  rw [Hw.thread_congr _ _ (setActive_thr _ t false), thread, restored, words]
  exact Thread.restored_slots _ _ _ _ _ _

theorem look_map_range {β : Type} (d : β) (c : Nat) (g : Nat → β) {n : Nat} : ∀ {l : List Nat}, n ∈ l → look d (l.map (fun i => (c + i, g i))) (c + n) = g n
  | [], listed => nomatch listed
  | i :: l, listed => by
    rw [List.map_cons, look]
    by_cases here : n = i
    · rw [if_pos (by omega), here]
    · rw [if_neg (by omega), look_map_range d c g ((List.mem_cons.mp listed).resolve_left here)]

/-- The registers of a restored thread: those of its bank, and those of the record. -/
theorem restored_readG_bank (y : Thread) (w : Nat → W64) (ps : List (Nat × W64)) (vs : List (Nat × V512)) (sl : List Event) {n : Nat} (low : n ≤ 8) :
    (y.restored w ps vs sl).readG n = y.readG n := by
  unfold Thread.readG
  rw [if_pos low, if_pos low]
  rfl

theorem restored_readG_record (y : Thread) (w : Nat → W64) (ps : List (Nat × W64)) (vs : List (Nat × V512)) (sl : List Event) {n : Nat} (lt : n < 23) :
    (y.restored w ps vs sl).readG (9 + n) = w (48 + 8 * n) := by
  unfold Thread.readG
  rw [if_neg (by omega), if_neg (by omega)]
  exact look_map_range 0 9 (fun i => w (48 + 8 * i)) (List.mem_range.mpr lt)

theorem gapMarker_thread (h : Hw) (t n : Nat) (act : Act) : (h.gapMarker t act).thread n = h.thread n := by
  unfold Hw.gapMarker
  split <;> rfl

theorem gapMarker_mem (h : Hw) (t : Nat) (act : Act) : (h.gapMarker t act).mem = h.mem := by
  unfold Hw.gapMarker
  split <;> rfl

/-- The gap marker by the registers of a package whose hub is the same (R558, R664). -/
theorem gapMarker_trace {g h : Hw} {t : Nat} (kept : HubKept g h) (le : g.partOf t ≤ 12) (act : Act) : (h.gapMarker t act).plat.trace =
    if g.flag .SEC_SWCTL 0 0 (g.partOf t - 1) F.SEC_SWCTL_DBG_EN = false ∧ g.deepIdle = false ∧ g.domCur 0 0 = 0 then g.plat.trace ++ [(t, act.cycles)] else g.plat.trace := by
  have flag : h.flag .SEC_SWCTL 0 0 (h.partOf t - 1) F.SEC_SWCTL_DBG_EN = g.flag .SEC_SWCTL 0 0 (g.partOf t - 1) F.SEC_SWCTL_DBG_EN := by
    rw [kept.partOf, Hw.flag, Hw.flag, kept.fld (secSwctl_in_hub _ (by omega))]
  have domain : h.domCur 0 0 = g.domCur 0 0 := kept.fld pwrDom_in_hub _
  unfold Hw.gapMarker
  rw [flag, kept.deep, domain]
  cases g.flag .SEC_SWCTL 0 0 (g.partOf t - 1) F.SEC_SWCTL_DBG_EN with
  | true => simp [kept.plat]
  | false =>
    cases g.deepIdle with
    | true => simp [kept.plat]
    | false =>
      by_cases gloss : g.domCur 0 0 = 0
      · simp [gloss, kept.plat]
      · simp [gloss, kept.plat]

section
variable {s : State} {t : Gtn} {f : Hw} (r : Ready s.hw t.val 1 f)
include r

theorem Ready.act : ((f.fetched t.val).thread t.val).act = (s.hw.thread t.val).act := by
  obtain ⟨_, _, _, _, _, _, _, _, e⟩ := r.thread
  rw [e]

theorem gretBody_outside (outside : (s.hw.thread t.val).world = false) : gretBody t.val 0 0 0 (f.fetched t.val) = .error (f.fetched t.val, illegal (wordSys 6 0 0 0)) :=
  if_pos (by simp [r.world, outside])

variable (inside : (s.hw.thread t.val).world = true) {act : Act} (activation : (s.hw.thread t.val).act = some act)
include inside activation

theorem gretBody_depth (other : (s.hw.thread t.val).depth ≠ act.depth) : gretBody t.val 0 0 0 (f.fetched t.val) = .error (f.fetched t.val, illegalReturn 4) := by
  unfold gretBody
  extract_lets x
  rw [if_neg (by simp [x, r.world, inside]), show x.act = some act from r.act.trans activation]
  exact if_pos (by rwa [r.gate.depth])

theorem gretBody_returns (here : (s.hw.thread t.val).depth = act.depth)
    (good : recordBad (f.fetched t.val) t.val act.recAddr (recordLen (f.fetched t.val) act.recAddr) = none) (empty : (s.hw.thread t.val).sq = []) :
    gretBody t.val 0 0 0 (f.fetched t.val) = .ok ((gretRestored (f.fetched t.val) t.val act).gapMarker t.val act) := by
  unfold gretBody
  extract_lets x
  rw [if_neg (by simp [x, r.world, inside]), show x.act = some act from r.act.trans activation]
  dsimp only
  rw [if_neg (by rw [r.gate.depth]; exact fun ne => ne here), good]
  dsimp only
  rw [if_neg (by simp [x, r.gate.sq, empty])]
  rfl

end

theorem restored_level (v : W64) : BitVec.ofNat 2 (wbits v 1 0) = v.extractLsb' 0 2 := by
  refine BitVec.eq_of_toNat_eq ?_
  simp [wbits, nbits, BitVec.extractLsb'_toNat]

/-- What a restored thread has of the record, and of the thread before. -/
theorem restored_fields {x y : Thread} (same : x.SameGate y) (w : Nat → W64) (ps : List (Nat × W64)) (vs : List (Nat × V512)) (sl : List Event) :
    let z := y.restored w ps vs sl
    z.world = false ∧ z.act = none ∧ z.pc = w 0 ∧ z.level = (w 8).extractLsb' 0 2 ∧ z.ie = (w 8).getLsbD 3 ∧ z.ven = (w 8).getLsbD 8 ∧
      z.fpcsr = w 40 ∧ z.progress = 0 ∧ z.shbank = x.shbank ∧ z.depth = x.depth ∧
      (∀ n, n ≤ 8 → z.readG n = x.readG n) ∧ (∀ n < 23, z.readG (9 + n) = w (48 + 8 * n)) :=
  ⟨rfl, rfl, rfl, restored_level _, rfl, rfl, rfl, rfl, same.shbank, same.depth, fun n low => (restored_readG_bank _ _ _ _ _ low).trans (same.general n),
    fun _ lt => restored_readG_record _ _ _ _ _ lt⟩

/-- The record of an activation lies in memory of the thread's partition, which is one of the twelve. -/
theorem part_le_of_recordBad {h : Hw} {t addr at' : Nat} (good : recordBad h t addr (recordLen h at') = none) : h.partOf t ≤ 12 := by
  have some_line : 0 < (recordLen h at' + 63) / 64 := by
    unfold recordLen
    split <;> decide
  have first := List.find?_eq_none.mp good addr (List.mem_map.mpr ⟨0, List.mem_range.mpr some_line, rfl⟩)
  simp only [Bool.not_eq_true', Bool.not_eq_false, Bool.and_eq_true] at first
  obtain ⟨⟨⟨_, pass⟩, _⟩, _⟩ := first
  exact part_le_of_homePass pass

/-- What a GRET at its GATE's depth leaves. -/
theorem gret_returns {s : State} {t : Gtn} {f : Hw} (r : Ready s.hw t.val 1 f) (inside : (s.hw.thread t.val).world = true) {act : Act}
    (activation : (s.hw.thread t.val).act = some act) (here : (s.hw.thread t.val).depth = act.depth)
    (good : recordBad (f.fetched t.val) t.val act.recAddr (recordLen (f.fetched t.val) act.recAddr) = none) (empty : (s.hw.thread t.val).sq = []) :
    let g0 := f.fetched t.val
    let x := s.hw.thread t.val
    let w := recordWord g0 act.recAddr
    ∃ u, exec (.gret t 0 0 0) s = .next u ∧ u.pending = s.pending ∧ u.hw.mem = f.mem ∧
      (let y := u.hw.thread t.val
       y.world = false ∧ y.act = none ∧ y.pc = w 0 ∧ y.level = (w 8).extractLsb' 0 2 ∧ y.ie = (w 8).getLsbD 3 ∧ y.ven = (w 8).getLsbD 8 ∧
       y.fpcsr = w 40 ∧ y.progress = 0 ∧ y.shbank = x.shbank ∧ y.depth = x.depth ∧
       (∀ n, n ≤ 8 → y.readG n = x.readG n) ∧ (∀ n < 23, y.readG (9 + n) = w (48 + 8 * n))) ∧
      u.hw.plat.trace = if g0.flag .SEC_SWCTL 0 0 (g0.partOf t.val - 1) F.SEC_SWCTL_DBG_EN = false ∧ g0.deepIdle = false ∧ g0.domCur 0 0 = 0
        then g0.plat.trace ++ [(t.val, act.cycles)] else g0.plat.trace := by
  intro g0 x w
  obtain ⟨hub, mem, y, ps, vs, sl, kept, thread⟩ := gretRestored_only g0 t.val act
  have same := r.gate.trans kept.gate
  have body := gretBody_returns r inside activation here good empty
  have done : exec (.gret t 0 0 0) s = .next { s with hw := (gretRestored g0 t.val act).gapMarker t.val act } := by
    rw [show exec (.gret t 0 0 0) s = s.onHw (issueSettled t.val 1 (gretBody t.val 0 0 0)) from rfl, State.onHw_eq, issueSettled_ok r body]
  refine ⟨_, done, rfl, (gapMarker_mem _ _ _).trans mem, ?_, gapMarker_trace hub (part_le_of_recordBad good) act⟩
  dsimp only
  rw [gapMarker_thread, thread]
  exact restored_fields same _ ps vs sl

end Sys2Proof.Machine

end

section
/-! PROOFS. WAIT, WAIT_WAKE and the wake from Dust sheet (R523, R525), and the statement of gateways and waits. -/

namespace Sys2Proof.Machine

/-! WAIT. -/

/-- A WAIT after its retirement. -/
def waited (m : Hw) (t depth : Nat) : Hw :=
  let h := m.walksDone t
  if (h.thread t).wakePending then h else h.onThread t (fun x => { x with run := .waiting (BitVec.ofNat 2 depth) })

theorem waited_mem (m : Hw) (t depth : Nat) : (waited m t depth).mem = m.mem := by
  unfold waited
  extract_lets h
  split
  · exact (cacheOnly_walksDone m t).mem
  · exact (cacheOnly_walksDone m t).mem

theorem waited_others (m : Hw) {t n : Nat} (other : n ≠ t) (depth : Nat) : (waited m t depth).thread n = m.thread n := by
  unfold waited
  extract_lets h
  split
  · exact walksDone_others m other
  · rw [Hw.thread_onThread, if_neg other]
    exact walksDone_others m other

/-- The wake causes of a thread do not depend on its walk buffers. -/
theorem wakePending_walksDone (h : Hw) (t : Nat) : ((h.walksDone t).thread t).wakePending = (h.thread t).wakePending := by
  obtain ⟨b, p, e⟩ := walksDone_thread h t t
  rw [e]
  rfl

theorem waited_thread (m : Hw) (t depth : Nat) : ∃ b p, (waited m t depth).thread t =
    { m.thread t with walkBuf := b, walkPtrs := p, run := if (m.thread t).wakePending then (m.thread t).run else .waiting (BitVec.ofNat 2 depth) } := by
  have pending := wakePending_walksDone m t
  obtain ⟨b, p, e⟩ := walksDone_thread m t t
  refine ⟨b, p, ?_⟩
  unfold waited
  dsimp only
  rw [pending]
  split
  · exact e
  · rw [Hw.thread_onThread, if_pos rfl, e]

section
variable {s : State} {t : Gtn} {f : Hw} (r : Ready s.hw t.val 1 f)
include r

theorem waitTraps_fetched : waitTraps (f.fetched t.val) t.val = waitTraps f t.val := by
  unfold waitTraps
  rw [r.fetchedThread]
  rfl

theorem waitDepth_fetched : waitDepth (f.fetched t.val) t.val = waitDepth f t.val := by
  unfold waitDepth
  rw [r.fetchedThread]
  rfl

theorem wait_traps (illegal_here : waitTraps f t.val = true) : Traps s (.wait t 0 0 0) t.val f { code := 0x04, tval := (wordSys 9 0 0 0).zeroExtend 64 } :=
  traps_ofSettled (body := waitBody t.val 0 0 0) rfl r (if_pos (by rw [waitTraps_fetched r, illegal_here]; rfl))

/-- WAIT retires; its thread waits unless a cause is pending that ends the wait. -/
theorem wait_retires (legal : waitTraps f t.val = false) : ∃ m, Counted t.val (f.setThread t.val ((f.thread t.val).after ((s.hw.thread t.val).pc + 4))) m ∧
    exec (.wait t 0 0 0) s = .next { s with hw := waited m t.val (waitDepth f t.val) } := by
  obtain ⟨m, counted, retired⟩ := retire_counted (f.fetched t.val) t.val 4 []
  rw [Hw.onThread_eq, r.fetchedThread, Hw.fetched, Hw.onThread_eq, Hw.setThread_setThread, ← Thread.after_eq, r.pc] at counted
  refine ⟨m, counted, ?_⟩
  have body : waitBody t.val 0 0 0 (f.fetched t.val) = .ok (waited m t.val (waitDepth f t.val)) := by
    unfold waitBody
    rw [if_neg (by rw [waitTraps_fetched r, legal]; decide), waitDepth_fetched r, retired]
    rfl
  rw [show exec (.wait t 0 0 0) s = s.onHw (issueSettled t.val 1 (waitBody t.val 0 0 0)) from rfl, State.onHw_eq, issueSettled_ok r body]

end

theorem waitDepth_below {h : Hw} {t : Nat} (below : (h.thread t).level ≠ 3) : waitDepth h t = 1 := if_pos below

theorem Thread.after_readG (x : Thread) (next : W64) (n : Nat) : (x.after next).readG n = x.readG n := by
  unfold Thread.after
  rfl

/-! WAIT_WAKE. -/

theorem waitWake_pending {h : Hw} {t : Nat} (waiting : (h.thread t).run = .waiting 1 ∨ (h.thread t).run = .waiting 2) (pending : (h.thread t).wakePending = true) :
    h.waitWake t = h.setThread t { h.thread t with run := .running } := if_pos ⟨waiting, pending⟩

theorem waitWake_idle {h : Hw} {t : Nat} (idle : ¬ (((h.thread t).run = .waiting 1 ∨ (h.thread t).run = .waiting 2) ∧ (h.thread t).wakePending = true)) : h.waitWake t = h :=
  if_neg idle

/-! The wake from Dust sheet. -/

theorem dustSheetWake_thread {h : Hw} {t p : Nat} (carried : h.pcoreOf t = some p) (asleep : (h.thread t).run = .waiting 3) :
    (h.dustSheetWake t).mem = h.mem ∧
      (h.dustSheetWake t).thread t = (h.thread t).dustWake (BitVec.ofNat 64 (h.fld .CORE_WAKEPC (dieOfThread t) p (t % 2) F.CORE_WAKEPC_PC <<< 2)) := by
  unfold Hw.dustSheetWake
  rw [carried]
  extract_lets x other
  dsimp only
  rw [if_pos asleep]
  split
  · exact ⟨rfl, h.setThread_thread t _⟩
  · exact ⟨rfl, h.setThread_thread t _⟩

theorem dustSheetWake_awake {h : Hw} {t : Nat} (awake : (h.thread t).run ≠ .waiting 3) : h.dustSheetWake t = h := by
  unfold Hw.dustSheetWake
  extract_lets x other
  split
  · exact if_neg awake
  · rfl

theorem dustWake_readG (x : Thread) (pc : W64) (n : Nat) : (x.dustWake pc).readG n = 0 := by
  unfold Thread.readG
  split
  · rfl
  · split <;> rfl

end Sys2Proof.Machine

open Sys2Proof Sys2Proof.Machine

/-- Settles O23: a gateway by the steps that its checks leave it, with the hub's registers kept by walks and caches; a wait by its retirement. -/
theorem gatewaysAndWaits : Obligations.GatewaysAndWaits := by
  unfold Obligations.GatewaysAndWaits
  refine ⟨?_, ?_⟩
  · intro s t a f r x target g0 part st lt i die
    refine ⟨fun inside => traps_ofSettled (body := gateBody t.val 0 a 0) rfl r (gateBody_secure r inside),
      fun outside odd => traps_ofSettled (body := gateBody t.val 0 a 0) rfl r (gateBody_misaligned r outside odd) (by simp),
      fun outside aligned off below => writesG_of (body := gateBody t.val 0 a 0) (exec_issue rfl r) r (gateBody_off r outside aligned off below),
      fun outside aligned on h1 h2 tr => ?_, gmark_retires r, fun outside => traps_ofSettled (body := gretBody t.val 0 0 0) rfl r (gretBody_outside r outside),
      fun inside act activation other => traps_ofSettled (body := gretBody t.val 0 0 0) rfl r (gretBody_depth r inside activation other) (by simp),
      fun inside act activation here good empty => gret_returns r inside activation here good empty⟩
    intro g1 bs addr found gw pass mapped clean got mark good empty owns wf
    exact gate_enters r outside aligned on found gw pass mapped clean got mark good empty owns
  · intro s t f x
    refine ⟨fun r => wait_traps r, fun r legal => ?_, fun waiting pending => ?_, fun idle => ?_, fun p carried asleep => ?_, fun awake => ?_⟩
    · obtain ⟨m, counted, done⟩ := wait_retires r legal
      have level : (f.thread t.val).level = x.level := by rw [r.kept t.val]
      have run : (f.thread t.val).run = x.run := by rw [r.kept t.val]
      obtain ⟨l, q, n, own⟩ := counted.own
      rw [Hw.setThread_thread] at own
      obtain ⟨b, p, thread⟩ := waited_thread m t.val (waitDepth f t.val)
      refine ⟨_, done, rfl, m, counted, (waited_mem _ _ _).trans counted.cacheOnly.mem, fun n other => ?_, ?_, fun n => ?_, ?_, fun below => waitDepth_below (level ▸ below)⟩
      · exact (waited_others m other _).trans ((counted.others n other).trans (by rw [Hw.thread_setThread, if_neg other]))
      · dsimp only
        rw [thread, own]
        rfl
      · dsimp only
        rw [thread, own]
        exact (Thread.after_readG (f.thread t.val) (x.pc + 4) n).trans ((r.kept t.val).readG n)
      · dsimp only
        rw [thread, show (m.thread t.val).run = x.run by rw [own]; exact run]
    · rw [show exec (.waitWake t) s = s.onHw (fun h => h.waitWake t.val) from rfl, State.onHw_eq, waitWake_pending waiting pending]
    · rw [show exec (.waitWake t) s = s.onHw (fun h => h.waitWake t.val) from rfl, State.onHw_eq, waitWake_idle idle]
    · obtain ⟨mem, thread⟩ := dustSheetWake_thread carried asleep
      have done : exec (.dustSheetThreadWake t) s = .next { s with hw := s.hw.dustSheetWake t.val } := rfl
      refine ⟨_, done, rfl, mem, ?_⟩
      dsimp only
      rw [thread]
      exact ⟨rfl, rfl, rfl, rfl, rfl, dustWake_readG _ _, rfl, rfl, rfl, rfl, rfl, rfl⟩
    · rw [show exec (.dustSheetThreadWake t) s = s.onHw (fun h => h.dustSheetWake t.val) from rfl, State.onHw_eq, dustSheetWake_awake awake]

end

section
/-! SUPPORT. The canonical form of memory as a property of the package (log entry 3), and how it passes through the ways the model puts a package together: a record changed elsewhere, a choice, a fold, an attempt. -/

namespace Sys2Proof.Machine

/-- The memory of the package is in its canonical form. -/
def Hw.Wf (h : Hw) : Prop := Memory.wf h.mem = true

/-- The command answers no next state whose memory is out of form. -/
def Kept : Host.Outcome State Fault Refusal → Prop
  | .next t => t.hw.Wf
  | _ => True

section
variable {α ε : Type} {h k : Hw} {c : Prop} {_ : Decidable c}

/-- A change of other fields: the record as a whole, so that the package whose memory it keeps is read off the goal. -/
theorem Hw.Wf.same {now clockOn ao free poison regs shadow thr cores cdies dpq dpErrs portUp raises msgs dieOwner portOwner engOwner xtl xctx dir dcs dwb dhold txns waitq
    elc pwr patom prd dmaCpls esq ownLines heldSn agWb rc rcPlru hot tpoison rewrites devCount chFail cap hdm spared farHeld dimms isetWho jobs jobOrder
    queueTurn engq held run sp engLast treqs toks rsps tokWait sleepers closing epochLast epochPend epochAt torusTx torusSeq torusRx torusHeld coords
    coordBad lath training trainFails repairs edgeHeld sleepReq fwSwitch lcmds uncAt committed applying authority gibMoves commit partUp partStopped
    resetWait domGoal reqPend domWho wakeDue assist deepIdle deepOk wakeOnExit curOver curUnder groupOff vinBad v33Left budgets supplyW coolW ceilPwr
    ceilTherm thermTicks tripped thermtripPin tripInfo keys boot meter mtrx evPend evSlots evFly evCache svcEvents corrected losses updq updates plat} (w : h.Wf) :
    Hw.Wf (Hw.mk now clockOn ao free h.mem poison regs shadow thr cores cdies dpq dpErrs portUp raises msgs dieOwner portOwner engOwner xtl xctx dir dcs dwb dhold txns
      waitq elc pwr patom prd dmaCpls esq ownLines heldSn agWb rc rcPlru hot tpoison rewrites devCount chFail cap hdm spared farHeld dimms isetWho jobs
      jobOrder queueTurn engq held run sp engLast treqs toks rsps tokWait sleepers closing epochLast epochPend epochAt torusTx torusSeq torusRx torusHeld
      coords coordBad lath training trainFails repairs edgeHeld sleepReq fwSwitch lcmds uncAt committed applying authority gibMoves commit partUp
      partStopped resetWait domGoal reqPend domWho wakeDue assist deepIdle deepOk wakeOnExit curOver curUnder groupOff vinBad v33Left budgets supplyW coolW
      ceilPwr ceilTherm thermTicks tripped thermtripPin tripInfo keys boot meter mtrx evPend evSlots evFly evCache svcEvents corrected losses updq updates
      plat) := w

/-- A package whose memory lists nothing. -/
theorem Hw.Wf.blank (e : h.mem = []) : h.Wf := by
  rw [Hw.Wf, e]
  rfl

theorem Hw.Wf.ite {a b : Hw} (x : a.Wf) (y : b.Wf) : (if c then a else b).Wf := by
  split <;> assumption

theorem Hw.Wf.iteFst {a b : Hw × α} (x : a.1.Wf) (y : b.1.Wf) : (if c then a else b).1.Wf := by
  split <;> assumption

theorem Hw.Wf.foldl {f : Hw → α → Hw} {l : List α} (w : h.Wf) (step : ∀ {k a}, k.Wf → (f k a).Wf) : (l.foldl f h).Wf := by
  induction l generalizing h with
  | nil => exact w
  | cons a l ih => exact ih (step w)

theorem Hw.Wf.foldlFst {β : Type} {f : Hw × β → α → Hw × β} {l : List α} {p : Hw × β} (w : p.1.Wf) (step : ∀ {q a}, q.1.Wf → (f q a).1.Wf) : (l.foldl f p).1.Wf := by
  induction l generalizing p with
  | nil => exact w
  | cons a l ih => exact ih (step w)

theorem Hw.Wf.ofFst {r : Hw × α} {a : α} (w : r.1.Wf) (e : r = (k, a)) : k.Wf := by
  rw [e] at w
  exact w

theorem Hw.Wf.ofSnd {r : α × Hw} {a : α} (w : r.2.Wf) (e : r = (a, k)) : k.Wf := by
  rw [e] at w
  exact w

/-- There is nothing to ask of an answer that gives no package. -/
theorem Hw.Wf.nothing {P : α → Prop} : ∀ k, none = Option.some k → P k := nofun

theorem Hw.Wf.just (w : h.Wf) : ∀ k, Option.some h = Option.some k → k.Wf := fun _ e => Option.some.inj e ▸ w

theorem Hw.Wf.justFst {p : Hw × α} (w : p.1.Wf) : ∀ q, Option.some p = Option.some q → q.1.Wf := fun _ e => Option.some.inj e ▸ w

theorem Hw.Wf.getD {o : Option Hw} (w : h.Wf) (found : ∀ k, o = Option.some k → k.Wf) : (o.getD h).Wf := by
  cases o with
  | none => exact w
  | some k => exact found k rfl

end

section
variable {α β ε : Type} {P Q : Hw → Prop} {h : Hw} {c : Prop} {_ : Decidable c}

theorem Ends.ite {a b : Except (Hw × ε) (Hw × α)} (x : Ends P Q a) (y : Ends P Q b) : Ends P Q (if c then a else b) := by
  split <;> assumption

theorem EndsHw.ok (p : P h) : EndsHw (ε := ε) P Q (.ok h) := p

theorem EndsHw.ite {a b : Except (Hw × ε) Hw} (x : EndsHw P Q a) (y : EndsHw P Q b) : EndsHw P Q (if c then a else b) := by
  split <;> assumption

theorem Ends.ofOk {r : Except (Hw × ε) (Hw × α)} {v : Hw × α} (x : Ends P Q r) (e : r = .ok v) : P v.1 := by
  rw [e] at x
  exact x

theorem Ends.ofError {r : Except (Hw × ε) (Hw × α)} {v : Hw × ε} (x : Ends P Q r) (e : r = .error v) : Q v.1 := by
  rw [e] at x
  exact x

theorem EndsHw.ofOk {r : Except (Hw × ε) Hw} (x : EndsHw P Q r) (e : r = .ok h) : P h := by
  rw [e] at x
  exact x

theorem EndsHw.ofError {r : Except (Hw × ε) Hw} {v : Hw × ε} (x : EndsHw P Q r) (e : r = .error v) : Q v.1 := by
  rw [e] at x
  exact x

theorem Ends.bind {r : Except (Hw × ε) (Hw × α)} {f : Hw × α → Except (Hw × ε) (Hw × β)} (x : Ends P Q r) (step : ∀ {k a}, P k → Ends P Q (f (k, a))) : Ends P Q (r >>= f) := by
  cases r with
  | ok v => exact step x
  | error v => exact x

theorem Ends.bindHw {r : Except (Hw × ε) (Hw × α)} {f : Hw × α → Except (Hw × ε) Hw} (x : Ends P Q r) (step : ∀ {k a}, P k → EndsHw P Q (f (k, a))) : EndsHw P Q (r >>= f) := by
  cases r with
  | ok v => exact step x
  | error v => exact x

theorem EndsHw.bind {r : Except (Hw × ε) Hw} {f : Hw → Except (Hw × ε) (Hw × β)} (x : EndsHw P Q r) (step : ∀ {k}, P k → Ends P Q (f k)) : Ends P Q (r >>= f) := by
  cases r with
  | ok v => exact step x
  | error v => exact x

theorem EndsHw.foldlM {f : Hw → α → Except (Hw × ε) Hw} {l : List α} (p : P h) (step : ∀ {k a}, P k → EndsHw P Q (f k a)) : EndsHw P Q (l.foldlM f h) := by
  induction l generalizing h with
  | nil => exact p
  | cons a l ih =>
    have first := step (a := a) p
    rw [List.foldlM_cons]
    cases done : f h a with
    | ok k => exact ih (first.ofOk done)
    | error v => exact first.ofError done

theorem Ends.foldlM {f : Hw × β → α → Except (Hw × ε) (Hw × β)} {l : List α} {b : β} (p : P h) (step : ∀ {k b a}, P k → Ends P Q (f (k, b) a)) : Ends P Q (l.foldlM f (h, b)) := by
  induction l generalizing h b with
  | nil => exact p
  | cons a l ih =>
    have first := step (b := b) (a := a) p
    rw [List.foldlM_cons]
    cases done : f (h, b) a with
    | ok k => exact ih (first.ofOk done)
    | error v => exact first.ofError done

theorem EndsHw.bindHw {r : Except (Hw × ε) Hw} {f : Hw → Except (Hw × ε) Hw} (x : EndsHw P Q r) (step : ∀ {k}, P k → EndsHw P Q (f k)) : EndsHw P Q (r >>= f) := by
  cases r with
  | ok v => exact step x
  | error v => exact x

end

/-- A step that goes on or stops keeps the form either way. -/
def TriesWf {α : Type} : Except Hw (Hw × α) → Prop
  | .ok v => v.1.Wf
  | .error h => h.Wf

section
variable {α : Type} {h : Hw} {a : α} {r : Except Hw (Hw × α)} {c : Prop} {_ : Decidable c}

theorem TriesWf.ok (w : h.Wf) : TriesWf (.ok (h, a)) := w

theorem TriesWf.error (w : h.Wf) : TriesWf (.error h : Except Hw (Hw × α)) := w

theorem TriesWf.ite {a b : Except Hw (Hw × α)} (x : TriesWf a) (y : TriesWf b) : TriesWf (if c then a else b) := by
  split <;> assumption

theorem TriesWf.ofOk {v : Hw × α} (x : TriesWf r) (e : r = .ok v) : v.1.Wf := by
  rw [e] at x
  exact x

theorem TriesWf.ofError (x : TriesWf r) (e : r = .error h) : h.Wf := by
  rw [e] at x
  exact x

end

theorem Kept.onHw {s : State} {f : Hw → Hw} (w : (f s.hw).Wf) : Kept (s.onHw f) := w

/-! Memory itself: what is left of it, and runs of bytes laid over it. -/

theorem canonFrom_filter {β : Type} [DecidableEq β] (d : β) (p : Nat × β → Bool) (l : List (Nat × β)) :
    ∀ lo, canonFrom d lo l = true → canonFrom d lo (l.filter p) = true := by
  induction l with
  | nil => exact fun _ c => c
  | cons e l ih =>
    obtain ⟨k, v⟩ := e
    intro lo c
    simp only [canonFrom, Bool.and_eq_true] at c
    obtain ⟨⟨low, other⟩, rest⟩ := c
    rw [List.filter_cons]
    split
    · simp only [canonFrom, Bool.and_eq_true]
      exact ⟨⟨low, other⟩, ih _ rest⟩
    · exact canonFrom_mono d _ _ _ (Nat.le_succ_of_le (of_decide_eq_true low)) (ih _ rest)

theorem wf_filter (p : Host.Cell → Bool) (m : List Host.Cell) (w : Memory.wf m = true) : Memory.wf (m.filter p) = true :=
  canonFrom_filter memDefault p m 0 w

theorem wf_foldl_memSets {α : Type} (addr : α → Nat) (bytes : α → List Byte) (l : List α) (m : List Host.Cell) (w : Memory.wf m = true) :
    Memory.wf (l.foldl (fun x e => memSets x (addr e) (bytes e)) m) = true := by
  induction l generalizing m with
  | nil => exact w
  | cons e l ih => exact ih _ (memSets_wf _ _ _ w)

theorem Hw.Wf.writeMem {h : Hw} (w : h.Wf) {a : Nat} {bs : List Byte} : (h.writeMem a bs).Wf := Hw.writeMem_wf h a bs w

end Sys2Proof.Machine
end

section
/-! SUPPORT. Memory keeps its form: the named operations over the state: threads, cores, registers, memory, the error records and the raises. -/

namespace Sys2Proof.Machine

section
variable {h : Hw}

theorem Hw.Wf.setThread {t x} (w : h.Wf) : (h.setThread t x).Wf := w.same

theorem Hw.Wf.onThread {t f} (w : h.Wf) : (h.onThread t f).Wf := w.setThread

theorem Hw.Wf.onCore {a1 f} (w : h.Wf) : (h.onCore a1 f).Wf := w.same

theorem Hw.Wf.onCDie {d f} (w : h.Wf) : (h.onCDie d f).Wf := w.same

theorem Hw.Wf.setReg {n die inst i v} (w : h.Wf) : (h.setReg n die inst i v).Wf := w.same

theorem Hw.Wf.setFld {n die inst i f x} (w : h.Wf) : (h.setFld n die inst i f x).Wf := w.setReg

theorem Hw.Wf.fresh {a1} (w : h.Wf) : (h.fresh a1).2.Wf := w.same

theorem Hw.Wf.raise {r} (w : h.Wf) : (h.raise r).Wf := w.same

theorem Hw.Wf.record {r die inst i validInInfo addr info} (w : h.Wf) : (h.record r die inst i validInInfo addr info).Wf := .ite w.setReg.setReg (.ite w.setReg.setReg w.setReg)

theorem Hw.Wf.rasSlot {die set r} (w : h.Wf) : (h.rasSlot die set r).Wf := .ite w.record.setReg.setReg (.ite w.record.setReg.setReg w.record)

theorem Hw.Wf.rasRaise {die set r} (w : h.Wf) : (h.rasRaise die set r).Wf := w.rasSlot.raise

theorem Hw.Wf.rasRecurs {die set thr r} (w : h.Wf) : (h.rasRecurs die set thr r).Wf := .ite w (.ite w.same.rasRaise w.same)

theorem Hw.Wf.ras {die set r} (w : h.Wf) : (h.ras die set r).Wf := by
  unfold Hw.ras
  extract_lets _ h1
  have w1 : h1.Wf := .ite w.rasSlot w
  exact .ite (Hw.Wf.ite w1.setFld.raise w1.setFld).rasRecurs w.rasRaise

theorem Hw.Wf.cfgReject {pa a2 reason} (w : h.Wf) : (h.cfgReject pa a2 reason).Wf := w.record.raise

theorem Hw.Wf.flagsIbi (w : h.Wf) : (h.flagsIbi).Wf := by
  unfold Hw.flagsIbi
  refine .ite w ?_
  rcases e : h.fresh 8 with ⟨_, _⟩
  exact (w.fresh.ofSnd e).same

theorem Hw.Wf.notify {type alert payload} (w : h.Wf) : (h.notify type alert payload).Wf := by
  unfold Hw.notify
  extract_lets
  refine .ite w.same.setFld.flagsIbi ?_
  rcases e : h.fresh 16 with ⟨_, _⟩
  exact (w.fresh.ofSnd e).same.setFld.flagsIbi

theorem Hw.Wf.healthAlert {kind part die thread code} (w : h.Wf) : (h.healthAlert kind part die thread code).Wf := w.notify

theorem Hw.Wf.sendTlp {pa write posted size data} (w : h.Wf) : (h.sendTlp pa write posted size data).Wf := w.same

theorem Hw.Wf.setPoison {line} (w : h.Wf) : (h.setPoison line).Wf := w.same

theorem Hw.Wf.clearPoison {line} (w : h.Wf) : (h.clearPoison line).Wf := w.same

theorem Hw.Wf.writeNum {a n v} (w : h.Wf) : (h.writeNum a n v).Wf := w.writeMem

end

end Sys2Proof.Machine
end

section
/-! SUPPORT. Memory keeps its form: the packets of the fabric: stops, the ends and the way of a packet, its header, its reserved slots, and its form on a scrim link. -/

namespace Sys2Proof.Machine

section
variable {h : Hw}

theorem Hw.Wf.inject {m} (w : h.Wf) : (h.inject m).Wf := by
  unfold Hw.inject
  exact w.same

theorem Hw.Wf.injectWith {m kind slot} (w : h.Wf) : (h.injectWith m kind slot).Wf := w.same.inject

theorem Hw.Wf.askSlot {m kind} (w : h.Wf) : (h.askSlot m kind).Wf := .ite w w.inject

theorem Hw.Wf.post {m} (w : h.Wf) : (h.post m).Wf := by
  unfold Hw.post
  obtain _ | kind := m.op.slotKind
  · exact w.inject
  · dsimp -zeta only
    obtain _ | _ := h.freeSlot m.slotStop kind (dedicated m.slotStop m.ends.1 kind)
    · exact w.same.askSlot
    · exact w.injectWith

theorem Hw.Wf.send {m} (w : h.Wf) : (h.send m).Wf := .ite w.same.post w.post

theorem Hw.Wf.serveSlot {dst kind slot} (w : h.Wf) : (h.serveSlot dst kind slot).Wf := by
  unfold Hw.serveSlot
  obtain _ | _ := takeFirst _ _
  · exact w
  · exact w.same.injectWith

theorem Hw.Wf.grantToks {n dst} (w : h.Wf) : (Hw.grantToks n dst h).Wf := by
  induction n generalizing h with
  | zero => exact w
  | succ n ih =>
    unfold Hw.grantToks
    split
    · split
      · exact ih w.same.inject
      · exact w
    · exact w

theorem Hw.Wf.dropSlot {t} (w : h.Wf) : (h.dropSlot t).Wf := .ite w.same.serveSlot w.same.grantToks

theorem Hw.Wf.freeTok {kind a line} (w : h.Wf) : (h.freeTok kind a line).Wf := by
  unfold Hw.freeTok
  obtain _ | _ := List.find? _ _
  · exact w
  · exact w.dropSlot

theorem Hw.Wf.dropAgentSlots {a} (w : h.Wf) : (h.dropAgentSlots a).Wf := w.same.foldl fun w => w.dropSlot

theorem Hw.Wf.freeRsp {src txid} (w : h.Wf) : (h.freeRsp src txid).Wf := w.same

end

end Sys2Proof.Machine
end

section
/-! SUPPORT. Memory keeps its form: address translation. -/

namespace Sys2Proof.Machine

section
variable {h : Hw}

theorem Hw.Wf.homeRefusal {part world pa} (w : h.Wf) : (h.homeRefusal part world pa).Wf := w.ras

end

end Sys2Proof.Machine
end

section
/-! SUPPORT. Memory keeps its form: threads: their registers and banks, the core that carries one, its context of translation, and its write-combining buffers. -/

namespace Sys2Proof.Machine

section
variable {h : Hw}

theorem Hw.Wf.addMc {t detail tval} (w : h.Wf) : (h.addMc t detail tval).Wf := w.onThread

theorem Hw.Wf.writeCells {l} (w : h.Wf) : (h.writeCells l).Wf := by
  unfold Hw.writeCells
  refine w.foldl fun w => ?_
  split
  · exact w.writeMem

theorem Hw.Wf.wcFlushOne {key b} (w : h.Wf) : (h.wcFlushOne key b).Wf := .ite w w.onCore.send

theorem Hw.Wf.wcFlush {t} (w : h.Wf) : (h.wcFlush t).Wf := w.foldl fun w => w.wcFlushOne

theorem Hw.Wf.wcAnswered {key line refused} (w : h.Wf) : (h.wcAnswered key line refused).Wf := by
  unfold Hw.wcAnswered
  obtain _ | _ := takeFirst _ _
  · exact w
  · exact .ite w.onCore.addMc w.onCore

end

end Sys2Proof.Machine
end

section
/-! SUPPORT. Memory keeps its form: the per-thread counters of a core, the counters of a compute die, and the return of a thread to an earlier point of its execution. -/

namespace Sys2Proof.Machine

section
variable {h : Hw}

theorem Hw.Wf.countOne {t die pcore nn level ev n} (w : h.Wf) : (Machine.countOne h t die pcore nn level ev n).Wf := .ite (.ite (.ite w.setFld.setFld.onThread w.setFld.setFld) w.setFld) w

theorem Hw.Wf.countN {t ev n} (w : h.Wf) : (h.countN t ev n).Wf := by
  unfold Hw.countN
  extract_lets x
  obtain _ | _ := x.act
  · obtain _ | _ := h.pcoreOf t
    · exact w
    · exact w.foldl fun w => w.countOne
  · exact w

theorem Hw.Wf.count {t ev} (w : h.Wf) : (h.count t ev).Wf := w.countN

theorem Hw.Wf.counts {t evs} (w : h.Wf) : (h.counts t evs).Wf := w.foldl fun w => w.count

theorem Hw.Wf.countDieOne {die nn stop ev} (w : h.Wf) : (Machine.countDieOne h die nn stop ev).Wf := .ite (.ite (.ite w.setFld.setFld.raise w.setFld.setFld) w.setFld) w

theorem Hw.Wf.countDie {die stop ev world} (w : h.Wf) : (h.countDie die stop ev world).Wf := .ite w (w.foldl fun w => w.countDieOne)

theorem Hw.Wf.weigh {unit p} (w : h.Wf) : (h.weigh unit p).Wf := w.same

theorem Hw.Wf.countRing {die src dst asc slots world} (w : h.Wf) : (h.countRing die src dst asc slots world).Wf := w.foldl fun w => w.foldl fun w => w.countDie

theorem Hw.Wf.countLegs {m} (w : h.Wf) : (h.countLegs m).Wf := by
  unfold Hw.countLegs
  refine w.foldl fun w => ?_
  split
  · exact w.countRing
  · exact .ite w.countDie (.ite w.weigh w)
  · exact w

theorem Hw.Wf.sliceLookup {die pcore line world} (w : h.Wf) : (h.sliceLookup die pcore line world).Wf := w.countRing.countRing.countDie

theorem Hw.Wf.taken {m} (w : h.Wf) : (h.taken m).Wf := (Hw.Wf.ite w.same.freeRsp w.same).countLegs

theorem Hw.Wf.arrivedBy {p} (w : h.Wf) : (h.arrivedBy p).Wf := by
  unfold Hw.arrivedBy
  obtain _ | _ := List.find? p h.msgs
  · exact w
  · exact w.taken

end

end Sys2Proof.Machine
end

section
/-! SUPPORT. Memory keeps its form: the power domains, their states, and the record of their wakes. -/

namespace Sys2Proof.Machine

section
variable {h : Hw}

theorem Hw.Wf.setCur {die nn st} (w : h.Wf) : (h.setCur die nn st).Wf := w.setFld

theorem Hw.Wf.recordWake {die src nn detail} (w : h.Wf) : (h.recordWake die src nn detail).Wf := by
  unfold Hw.recordWake
  extract_lets _ _ hist
  have wist : hist.Wf := w.foldl fun w' => w'.setReg
  exact .ite (.ite w.setReg w) wist.setReg.setReg

theorem Hw.Wf.wakeBase {die nn} (w : h.Wf) : (h.wakeBase die nn).1.Wf := Hw.Wf.iteFst w (Hw.Wf.iteFst w.same.setCur (Hw.Wf.iteFst w.same w))

theorem Hw.Wf.coreWake {die pcore stop} (w : h.Wf) : (h.coreWake die pcore stop).Wf := by
  unfold Hw.coreWake
  refine .ite ?_ w
  rcases e : h.wakeBase die pcore with ⟨h1, _⟩
  have w1 : h1.Wf := w.wakeBase.ofFst e
  exact .ite w1.recordWake.wakeBase w1

end

end Sys2Proof.Machine
end

section
/-! SUPPORT. Memory keeps its form: the caches of a core and of a compute die: evictions, the snoop filter, requests to the home, the shares of the threads of a core, and the answers to snoops. -/

namespace Sys2Proof.Machine

section
variable {h : Hw}

theorem Hw.Wf.coreLosesLine {die pcore line} (w : h.Wf) : (h.coreLosesLine die pcore line).Wf := by
  unfold Hw.coreLosesLine
  refine w.foldl fun w => ?_
  obtain _ | _ := (Hw.thread _ _).resv
  · exact w
  · exact .ite w.onThread w

theorem Hw.Wf.sendGiveUp {op die line} (w : h.Wf) : (h.sendGiveUp op die line).Wf := by
  unfold Hw.sendGiveUp
  extract_lets _ h0
  have w0 : h0.Wf := .ite w.countDie w
  exact .ite w0.onCDie w0.onCDie.send

theorem Hw.Wf.dieGiveUp {die line} (w : h.Wf) : (h.dieGiveUp die line).Wf := by
  unfold Hw.dieGiveUp
  extract_lets st h1
  have w1 : h1.Wf := by
    unfold h1
    clear_value st
    obtain _ | _ | _ | _ | _ := st
    · exact w
    · exact w
    · exact w.sendGiveUp
    · exact w.sendGiveUp
    · exact w.sendGiveUp
  exact .ite w w1.onCDie

theorem Hw.Wf.dcTrim {die line} (w : h.Wf) : (h.dcTrim die line).Wf := by
  unfold Hw.dcTrim
  obtain _ | _ := mruVictim _ _ _
  · exact w
  · exact w.dieGiveUp

theorem Hw.Wf.fillsBad {die pcore line} (w : h.Wf) : (h.fillsBad die pcore line).Wf := w.onCore

theorem Hw.Wf.fillsInvalid {die line} (w : h.Wf) : (h.fillsInvalid die line).Wf := w.foldl fun w => w.fillsBad

theorem Hw.Wf.l2Drop {die pcore line} (w : h.Wf) : (h.l2Drop die pcore line).Wf := by
  unfold Hw.l2Drop
  extract_lets _ _ _ h3
  have w3 : h3.Wf := w.onCore.onCDie.coreLosesLine
  exact .ite (.ite w3.dieGiveUp w3.dcTrim) w3

theorem Hw.Wf.l2DropOthers {die line keep} (w : h.Wf) : (h.l2DropOthers die line keep).Wf := w.foldl fun w => .ite w w.coreWake.fillsBad.l2Drop

theorem Hw.Wf.countRecalls {die line keep world} (w : h.Wf) : (h.countRecalls die line keep world).Wf := w.foldl fun w => w.countDie

theorem Hw.Wf.l2Share {die line} (w : h.Wf) : (h.l2Share die line).Wf := by
  unfold Hw.l2Share
  refine w.foldl fun w => ?_
  extract_lets _ h1
  have w1 : h1.Wf := w.coreWake.onCore
  exact .ite (Hw.Wf.ite w1.onCDie w1).coreLosesLine w

theorem Hw.Wf.dieSet {die line st} (w : h.Wf) : (h.dieSet die line st).Wf := w.onCDie.dcTrim

theorem Hw.Wf.sfRecord {die pcore line world} (w : h.Wf) : (h.sfRecord die pcore line world).Wf := by
  unfold Hw.sfRecord
  extract_lets
  obtain _ | _ := mruVictim _ _ _
  · exact w.onCDie
  · exact w.onCDie.countDie.l2DropOthers

theorem Hw.Wf.l2Install {die pcore line st world} (w : h.Wf) : (h.l2Install die pcore line st world).Wf := by
  unfold Hw.l2Install
  refine .ite w ?_
  extract_lets _ h1
  have w1 : h1.Wf := w.onCore.sfRecord
  obtain _ | _ := mruVictim _ _ _
  · exact w1
  · exact w1.l2Drop

theorem Hw.Wf.l1dInstall {die pcore line vset st} (w : h.Wf) : (h.l1dInstall die pcore line vset st).Wf := by
  unfold Hw.l1dInstall
  refine .ite w ?_
  extract_lets
  obtain _ | _ := mruVictim _ _ _
  · exact w.onCore
  · exact w.onCore.onCore.coreLosesLine

theorem Hw.Wf.l1iInstall {die pcore line vset} (w : h.Wf) : (h.l1iInstall die pcore line vset).Wf := by
  unfold Hw.l1iInstall
  refine .ite w ?_
  extract_lets
  obtain _ | _ := mruVictim _ _ _
  · exact w.onCore
  · exact w.onCore.onCore

theorem Hw.Wf.park {die m} (w : h.Wf) : (h.park die m).Wf := .ite w w.onCDie

theorem Hw.Wf.dieRequest {op die pcore line part world} (w : h.Wf) : (h.dieRequest op die pcore line part world).Wf := .ite w (.ite w.park w.countDie.onCDie.send)

theorem Hw.Wf.dieForward {die pcore line part world} (w : h.Wf) : (h.dieForward die pcore line part world).Wf := .ite w.park w.countDie.send

theorem Hw.Wf.unpark {die} (w : h.Wf) : (h.unpark die).Wf := by
  unfold Hw.unpark
  refine w.onCDie.foldl fun w => ?_
  obtain _ | _ | _ | _ := Msg.agent _
  · exact .ite w.dieForward w.dieRequest
  · exact w
  · exact w
  · exact w

theorem Hw.Wf.storeOwned {t line vset bs} (w : h.Wf) : (h.storeOwned t line vset bs).Wf := by
  unfold Hw.storeOwned
  extract_lets _ _ _ _ _ h3
  have w3 : h3.Wf := w.countRecalls.l2DropOthers.writeCells.dieSet.l2Install.l1dInstall
  exact .ite w (.ite w3.dieGiveUp w3)

theorem Hw.Wf.drainThread {t line} (w : h.Wf) : (h.drainThread t line).Wf := .ite w w.setThread.storeOwned

theorem Hw.Wf.drainDie {die line} (w : h.Wf) : (h.drainDie die line).Wf := w.foldl fun w => w.drainThread

theorem Hw.Wf.answer {op a line info pz} (w : h.Wf) : (h.answer op a line info pz).Wf := w.freeTok.send

theorem Hw.Wf.snoopLine {op die line} (w : h.Wf) : (h.snoopLine op die line).Wf := by
  unfold Hw.snoopLine
  extract_lets st
  clear_value st
  split
  · exact w
  · exact w.fillsInvalid.l2Share.onCDie
  · exact w.fillsInvalid.l2Share.onCDie
  · exact w.onCDie
  · exact w
  · exact w.l2DropOthers.fillsInvalid.onCDie

theorem Hw.Wf.dieAnswer {op die line} (w : h.Wf) : (h.dieAnswer op die line).Wf := by
  unfold Hw.dieAnswer
  extract_lets _ _ _ _ _ _ _ h1
  have w1 : h1.Wf := w.foldl fun w => w.snoopLine
  refine .ite w.answer ?_
  refine .ite w.answer.ras ?_
  split
  · exact w1.answer
  · exact w1.answer
  · exact w1.answer
  · exact .ite w1.answer w1.answer

theorem Hw.Wf.serveHeld {die} (w : h.Wf) : (h.serveHeld die).Wf := w.onCDie.foldl fun w => w.dieAnswer

theorem Hw.Wf.endHold {t} (w : h.Wf) : (h.endHold t).Wf := by
  unfold Hw.endHold
  obtain _ | _ := (h.thread t).hold
  · exact w
  · exact w.onThread.serveHeld

end

end Sys2Proof.Machine
end

section
/-! SUPPORT. Memory keeps its form: the fill buffers of a core: provisional and settled reads, retirement, prefetching and training, value replays, and the grants that fill them. -/

namespace Sys2Proof.Machine

section
variable {h : Hw}

theorem Hw.Wf.sliceRead {t line} (w : h.Wf) : (h.sliceRead t line).1.Wf := by
  unfold Hw.sliceRead
  extract_lets _ _ _ h1
  have w1 : h1.Wf := w.sliceLookup
  exact Hw.Wf.iteFst w1.countRecalls.l2Share.sfRecord w1.countRecalls.l2DropOthers.dieRequest

theorem Hw.Wf.addFill {a1} (w : h.Wf) : (h.addFill a1).Wf := by
  unfold Hw.addFill
  extract_lets _ _ _ _ _ h1
  have w1 : h1.Wf := w.sliceLookup
  exact .ite w.sliceRead.onCore (.ite w1.onCore (Hw.Wf.ite w1 w1.dieForward).onCore)

theorem Hw.Wf.installWalks {t before} (w : h.Wf) : (h.installWalks t before).Wf := .ite w w.onCore.onThread

theorem Hw.Wf.prefetched {die pcore line world} (w : h.Wf) : (h.prefetched die pcore line world).Wf := w.onCore.l2Install

theorem Hw.Wf.prefetch {t line l fetch} (w : h.Wf) : (h.prefetch t line l fetch).Wf := by
  unfold Hw.prefetch
  extract_lets _ _ _ _ r
  have wR : r.1.Wf := w.count.sliceRead
  exact .ite w (.ite wR.prefetched wR.onCore)

theorem Hw.Wf.train {t line pc fetch miss} (w : h.Wf) : (h.train t line pc fetch miss).Wf := by
  unfold Hw.train
  extract_lets _ _ _ _ st _ h1 _ _ _ h2
  have w1 : h1.Wf := by
    unfold h1
    refine .ite w ?_
    obtain _ | _ := st.2
    · exact w.onCore
    · exact w.onCore.prefetch
  have w2 : h2.Wf := .ite w1 (.ite (w1.onCore.foldl fun w => w.prefetch) w1.onCore)
  exact .ite w (.ite (.ite w.prefetch w) (.ite w1 (.ite w2.prefetch w2)))

theorem Hw.Wf.flushQ {t} (w : h.Wf) : (h.flushQ t).Wf := .ite w (Hw.Wf.ite w w.onThread.counts.onCore).installWalks

theorem Hw.Wf.installFill {a1} (w : h.Wf) : (h.installFill a1).Wf := .ite w (.ite w.l2Drop (.ite w.l2Install (.ite w.l2Install.l1iInstall w.l2Install.l1dInstall)))

theorem Hw.Wf.hitTouch {a1} (w : h.Wf) : (h.hitTouch a1).Wf := by
  unfold Hw.hitTouch
  extract_lets _ _ _ c
  refine .ite w.onCore ?_
  obtain _ | _ := look? c.l2 a1.line
  · exact w
  · exact .ite w.onCore (.ite w.onCore.l1iInstall w.onCore.l1dInstall)

theorem Hw.Wf.retireUse {a1 u} (w : h.Wf) : (h.retireUse a1 u).Wf := by
  unfold Hw.retireUse
  extract_lets t _ _ h2 h3 h4 h5
  have w2 : h2.Wf := .ite w.onCore.installFill w.onCore.hitTouch
  have w3 : h3.Wf := .ite w2.onCore.count w2
  have w4 : h4.Wf := .ite w3.count w3
  have w5 : h5.Wf := .ite w4 w4.train
  obtain _ | _ := h5.oldestUse t
  · exact w5.flushQ
  · exact w5.installWalks

theorem Hw.Wf.replayAt {t seq} (w : h.Wf) : (h.replayAt t seq).Wf := by
  unfold Hw.replayAt
  extract_lets _ _ _ _ _ _ _ h2
  have w2 : h2.Wf := w.onCore.foldl fun w => w.installFill
  obtain _ | _ := Option.bind _ _
  · exact w2
  · exact w2.onThread.flushQ

theorem Hw.Wf.flushOpen {t} (w : h.Wf) : (h.flushOpen t).Wf := by
  unfold Hw.flushOpen
  obtain _ | _ := h.oldestUse t
  · exact w
  · exact w.replayAt

theorem Hw.Wf.setFill {a1 g} (w : h.Wf) : (h.setFill a1 g).Wf := w.onCore

theorem Hw.Wf.validate {a1} (w : h.Wf) : (h.validate a1).1.Wf := by
  unfold Hw.validate
  refine Hw.Wf.iteFst w.setFill.replayAt ?_
  extract_lets
  obtain _ | _ := List.find? _ _
  · exact w.setFill
  · exact w.setFill.replayAt.count

theorem Hw.Wf.sendSettled {a1} (w : h.Wf) : (h.sendSettled a1).Wf := .ite (.ite w (.ite w.onCDie.setFill.dieRequest w.setFill.send)) w.sliceRead.setFill

theorem Hw.Wf.settleOne {a1} (w : h.Wf) : (h.settleOne a1).1.Wf := by
  unfold Hw.settleOne
  extract_lets h1
  have w1 : h1.Wf := .ite w w.sendSettled
  obtain _ | _ := List.find? _ _
  · exact w1
  · exact Hw.Wf.iteFst w1 (Hw.Wf.iteFst w1 w1.validate)

theorem Hw.Wf.settleAll {t} (w : h.Wf) : (Machine.settleAll h t).1.Wf := Hw.Wf.foldlFst w fun w => .iteFst w w.settleOne

theorem Hw.Wf.retireAll {t} (w : h.Wf) : (Machine.retireAll h t).Wf := by
  unfold Machine.retireAll
  refine w.foldl fun w => ?_
  obtain _ | _ := Hw.oldestUse _ t
  · exact w
  · exact w.retireUse

theorem Hw.Wf.validateLine {die line} (w : h.Wf) : (h.validateLine die line).Wf := w.foldl fun w => .ite w.onCore.installFill w.validate

theorem Hw.Wf.dcSettle {die line} (w : h.Wf) : (h.dcSettle die line).Wf := .ite w.dieGiveUp w

theorem Hw.Wf.dieGranted {op die pcore line} (w : h.Wf) : (h.dieGranted op die pcore line).Wf := by
  unfold Hw.dieGranted
  extract_lets _ _ _ _ _ _ _ _ h3 h4
  have w3 : h3.Wf := (Hw.Wf.ite w.countDie w).onCDie.dieSet.foldl fun w => w.sfRecord.onCore
  have w4 : h4.Wf := Hw.Wf.validateLine (w3.foldl fun w => w.prefetched)
  exact (Hw.Wf.ite w4.drainDie (.ite w4.dieRequest w4)).dcSettle.unpark.serveHeld

theorem Hw.Wf.provisionalEnds {key line deferred} (w : h.Wf) : (h.provisionalEnds key line deferred).Wf := by
  unfold Hw.provisionalEnds
  refine w.foldl fun w => ?_
  extract_lets h1
  have w1 : h1.Wf := .ite w.onCore w.replayAt
  exact .ite w1.onThread.count w1.onThread

theorem Hw.Wf.dieRequestEnds {die line} (w : h.Wf) : (h.dieRequestEnds die line).Wf := by
  unfold Hw.dieRequestEnds
  extract_lets _ h2
  have w2 : h2.Wf := w.onCDie.foldl fun w => w.onCore
  exact w2.same.unpark.serveHeld

end

end Sys2Proof.Machine
end

section
/-! SUPPORT. Memory keeps its form: the walks of address translation: table reads, walk caches, accessed and dirty bits, and the use of TLB entries. -/

namespace Sys2Proof.Machine

section
variable {h : Hw}

theorem Hw.Wf.walkTouch {t pa waits} (w : h.Wf) : (h.walkTouch t pa waits).1.Wf := by
  unfold Hw.walkTouch
  extract_lets
  obtain _ | _ := List.find? _ _
  · exact Hw.Wf.iteFst (.ite w.onCore w.hitTouch) (Hw.Wf.iteFst w w.addFill)
  · exact .ite w.setFill w

theorem Hw.Wf.notePtr {c stage2 pa a4} (w : h.Wf) : (Machine.notePtr h c stage2 pa a4).Wf := by
  unfold Machine.notePtr
  obtain _ | _ := c.thread
  · exact w
  · exact .ite w.onThread w

theorem Hw.Wf.orPte {pa bitNo} (w : h.Wf) : (Machine.orPte h pa bitNo).Wf := w.writeNum

theorem Hw.Wf.passPte {c stage2 pa a4 hwad} (w : h.Wf) : (Machine.passPte h c stage2 pa a4 hwad).Wf := .ite w.orPte.notePtr w.notePtr

theorem Hw.Wf.setDs {l} (w : h.Wf) : (Machine.setDs h l).Wf := w.foldl fun w => w.orPte

/-- The steps of a walk keep the form. -/
theorem walkKeeps_wf (c : Ctx) : WalkKeeps Hw.Wf Hw.Wf c where
  stop := id
  refuse _ _ _ w := w.homeRefusal
  wait _ _ _ _ w := w.walkTouch
  touch _ _ _ _ w := w.walkTouch
  write _ _ w := w.writeMem
  thread _ _ w := w.onThread
  send _ w := w.send
  draw _ w := w.fresh

theorem Hw.Wf.psTranslate {c wc ia acc table} (w : h.Wf) : Ends Hw.Wf Hw.Wf (Machine.psTranslate c wc ia acc table h) := (walkKeeps_wf c).psTranslate w ia acc table

theorem Hw.Wf.translate {c es wc va acc} (w : h.Wf) : Ends Hw.Wf Hw.Wf (Machine.translate c es wc va acc h) := (walkKeeps_wf c).translate w es va acc

end

end Sys2Proof.Machine
end

section
/-! SUPPORT. Memory keeps its form: taking a trap. -/

namespace Sys2Proof.Machine

section
variable {h : Hw}

theorem Hw.Wf.checkStop {t cond stack} (w : h.Wf) : (h.checkStop t cond stack).Wf := by
  unfold Hw.checkStop
  extract_lets _ _ h2
  have w2 : h2.Wf := by
    unfold h2
    obtain _ | _ := h.pcoreOf t
    · exact w.onThread
    · exact w.onThread.setFld
  exact w2.ras.raise.healthAlert

theorem Hw.Wf.ownRange {t ls} (w : h.Wf) : (h.ownRange t ls).1.Wf := Hw.Wf.iteFst w (Hw.Wf.iteFst w (w.foldl fun w => .ite w w.dieRequest))

theorem Hw.Wf.writeRange {t pa bs} (w : h.Wf) : (h.writeRange t pa bs).Wf := w.foldl fun w => w.storeOwned

theorem Hw.Wf.lineTouch {t line} (w : h.Wf) : (h.lineTouch t line).Wf := by
  unfold Hw.lineTouch
  extract_lets
  refine .ite w ?_
  refine .ite w.hitTouch ?_
  obtain _ | _ := List.find? _ _
  · exact w.addFill
  · exact .ite w.addFill w.addFill.onCore.installFill

theorem Hw.Wf.readRange {t pa n} (w : h.Wf) : (h.readRange t pa n).Wf := w.foldl fun w => w.lineTouch

theorem Hw.Wf.frameAddr {t code addr acc} (w : h.Wf) : Ends Hw.Wf Hw.Wf (Machine.frameAddr h t code addr acc) := by
  unfold Machine.frameAddr
  extract_lets
  refine .ite ?_ (.ite (.error w) (.ite (.error w.homeRefusal) (.ite (.error w) (.ok w))))
  refine .ite ?_ (.ite (.error w) (.ite (.error w.homeRefusal) (.ite (.error w) (.ok w))))
  rcases e : Machine.psTranslate _ _ _ _ _ _ with ⟨h1, _⟩ | ⟨h1, _⟩
  · exact .error (w.psTranslate.ofError e)
  · have w1 : h1.Wf := w.psTranslate.ofOk e
    exact .ite (.error w1) (.ite (.error w1.setDs) (.ite (.error w1.setDs.homeRefusal) (.ite (.error w1.setDs) (.ok w1.setDs))))

theorem Hw.Wf.pushFrame {t code diverted} (w : h.Wf) : EndsHw Hw.Wf Hw.Wf (Machine.pushFrame h t code diverted) := by
  unfold Machine.pushFrame
  extract_lets _ _ _ frame
  refine .ite (.error w) ?_
  rcases e : Machine.frameAddr h t code frame Acc.store with ⟨h1, _⟩ | ⟨h1, pa⟩
  · exact .error (w.frameAddr.ofError e)
  · have w1 : h1.Wf := w.frameAddr.ofOk e
    dsimp -zeta only
    rcases e2 : h1.ownRange t (lineRange pa 128) with ⟨_, _ | _⟩
    · exact .error (w1.ownRange.ofFst e2)
    · exact .ok (w1.ownRange.ofFst e2).writeRange.onThread

theorem Hw.Wf.enterTrap {t c target} (w : h.Wf) : (Machine.enterTrap h t c target).Wf := w.setThread

theorem Hw.Wf.takeTrap {t c} (w : h.Wf) : (Machine.takeTrap h t c).1.Wf := by
  unfold Machine.takeTrap
  extract_lets h _ _ y
  have w : h.Wf := w.wcFlush.endHold
  refine Hw.Wf.iteFst w.checkStop ?_
  refine Hw.Wf.iteFst w.enterTrap ?_
  rcases e : Machine.pushFrame h t y false with (⟨h1, _ | _ | _⟩) | h1
  · have w1 : h1.Wf := w.pushFrame.ofError e
    dsimp -zeta only
    refine Hw.Wf.iteFst w1.checkStop ?_
    rcases e2 : Machine.pushFrame h1 t 3 true with (⟨_, _ | _ | _⟩) | _
    · exact (w1.pushFrame.ofError e2).checkStop
    · exact (w1.pushFrame.ofError e2).checkStop
    · exact w1.pushFrame.ofError e2
    · exact (w1.pushFrame.ofOk e2).enterTrap
  · have w1 : h1.Wf := w.pushFrame.ofError e
    dsimp -zeta only
    refine Hw.Wf.iteFst w1.checkStop ?_
    rcases e2 : Machine.pushFrame h1 t 3 true with (⟨_, _ | _ | _⟩) | _
    · exact (w1.pushFrame.ofError e2).checkStop
    · exact (w1.pushFrame.ofError e2).checkStop
    · exact w1.pushFrame.ofError e2
    · exact (w1.pushFrame.ofOk e2).enterTrap
  · exact w.pushFrame.ofError e
  · exact (w.pushFrame.ofOk e).enterTrap

theorem Hw.Wf.syncTrap {t c} (w : h.Wf) : (Machine.syncTrap h t c).Wf := w.takeTrap

theorem Hw.Wf.fetchTrap {t c} (w : h.Wf) : (Machine.fetchTrap h t c).Wf := .ite (.ite w.checkStop w.syncTrap) w.syncTrap

theorem Hw.Wf.takeAsync {t} (w : h.Wf) : ∀ k, Machine.takeAsync h t = some k → k.Wf := by
  unfold Machine.takeAsync
  extract_lets x
  clear_value x
  split
  · exact Hw.Wf.nothing
  · split
    next h1 _ e =>
    have w1 : h1.Wf := w.takeTrap.ofFst e
    exact .just (.ite w1.onThread w1)
  · split
    next h1 _ e =>
    have w1 : h1.Wf := w.takeTrap.ofFst e
    exact .just (.ite w1.onThread.send w1)
  · split
    next h1 _ e =>
    have w1 : h1.Wf := w.takeTrap.ofFst e
    exact .just (.ite w1.onThread w1)

end

end Sys2Proof.Machine
end

section
/-! SUPPORT. Memory keeps its form: what every Askist instruction shares: whether its thread can run it, the fetch, the encoding checks of R99, the counters, and retirement. -/

namespace Sys2Proof.Machine

section
variable {h : Hw}

theorem Hw.Wf.note {t evs} (w : h.Wf) : (h.note t evs).Wf := .ite w.count.counts w.count.onThread

theorem Hw.Wf.walksDone {t} (w : h.Wf) : (h.walksDone t).Wf := .ite w.installWalks w

theorem Hw.Wf.retireAs {t evs f} (w : h.Wf) : (Machine.retireAs h t evs f).Wf := w.note.onThread.walksDone

theorem Hw.Wf.retireTo {t target evs} (w : h.Wf) : (Machine.retireTo h t target evs).Wf := w.retireAs

theorem Hw.Wf.retire {t len evs} (w : h.Wf) : (Machine.retire h t len evs).Wf := w.retireTo

theorem Hw.Wf.setG {t n v} (w : h.Wf) : (h.setG t n v).Wf := w.onThread

theorem Hw.Wf.xlate {t c va acc} (w : h.Wf) : Ends Hw.Wf Hw.Wf (Machine.xlate h t c va acc) := (walkKeeps_wf c).xlate w t va acc

theorem Hw.Wf.xlateT {t va acc} (w : h.Wf) : Ends Hw.Wf Hw.Wf (Machine.xlateT h t va acc) := by
  unfold Machine.xlateT
  split
  · next e => exact .ok (w.xlate.ofOk e)
  · next e => exact .error (w.xlate.ofError e)

theorem Hw.Wf.retireFetches {t} (w : h.Wf) : (h.retireFetches t).Wf := (Hw.Wf.ite w.onCore w).foldl fun w => w.retireUse

theorem Hw.Wf.fetchFill {t pa va} (w : h.Wf) : (h.fetchFill t pa va).Wf := by
  unfold Hw.fetchFill
  extract_lets
  obtain _ | _ := List.find? _ _
  · exact .ite w.hitTouch (.ite w.onCore w.addFill)
  · exact .ite w.setFill w

theorem Hw.Wf.ncAsk {t line} (w : h.Wf) : (h.ncAsk t line).Wf := .ite w w.onThread.send

theorem Hw.Wf.ncArrived {die pcore line ok} (w : h.Wf) : (h.ncArrived die pcore line ok).Wf := w.foldl fun w => w.onThread

/-- The steps of a fetch keep the form. -/
theorem fetchKeeps_wf (t : Nat) : FetchKeeps Hw.Wf Hw.Wf t where
  walk c _ := walkKeeps_wf c
  record _ _ _ w := w.ras
  ask _ w := w.ncAsk
  forget _ w := w.onThread
  fill _ _ w := w.fetchFill
  retire w := w.retireFetches

theorem Hw.Wf.homeCause {t pa va acc} (w : h.Wf) : ∀ k, Machine.homeCause h t pa va acc = some k → k.1.Wf :=
  fun _ e => (fetchKeeps_wf t).homeCause w pa va acc e

theorem Hw.Wf.fetchLineOk {t r va k} (w : h.Wf) (e : Machine.fetchLine h t r va = .ok k) : k.Wf := by
  have line := (fetchKeeps_wf t).fetchLine w r va
  rw [e] at line
  exact line

theorem Hw.Wf.fetchLineError {t r va k} (w : h.Wf) (e : Machine.fetchLine h t r va = .error k) : k.Wf := by
  have line := (fetchKeeps_wf t).fetchLine w r va
  rw [e] at line
  exact line

theorem Hw.Wf.fetchAll {t words} (w : h.Wf) : EndsHw Hw.Wf Hw.Wf (Machine.fetchAll h t words) := (fetchKeeps_wf t).fetchAll w words

theorem Hw.Wf.fetched {t} (w : h.Wf) : (h.fetched t).Wf := w.onThread

theorem Hw.Wf.dropWalks {t x} (w : h.Wf) : (h.dropWalks t x).Wf := w.onThread

theorem Hw.Wf.tryEnds {t x} (w : h.Wf) : (h.tryEnds t x).Wf := w.dropWalks.onThread

theorem Hw.Wf.runInstr {t words body} (w : h.Wf) (kbody : ∀ {k}, k.Wf → EndsHw Hw.Wf Hw.Wf (body k)) : (Machine.runInstr t words body h).Wf := by
  unfold Machine.runInstr
  rcases e : Machine.fetchAll h t words with (⟨h1, _ | _⟩) | h1
  · exact (w.fetchAll.ofError e).tryEnds
  · exact (w.fetchAll.ofError e).dropWalks.fetchTrap
  · have w1 : h1.Wf := w.fetchAll.ofOk e
    dsimp -zeta only
    rcases e2 : body (h1.fetched t) with ⟨h2, _⟩ | h2
    · have w2 : h2.Wf := (kbody w1.fetched).ofError e2
      exact .ite w2.tryEnds w2.dropWalks.syncTrap
    · exact (kbody w1.fetched).ofOk e2

theorem Hw.Wf.devTrap {t c} (w : h.Wf) : (h.devTrap t c).Wf := by
  unfold Hw.devTrap
  rcases e : Machine.takeTrap _ _ _ with ⟨_, _ | _ | _⟩
  · exact w.onThread.takeTrap.ofFst e
  · exact w.onThread.takeTrap.ofFst e
  · exact (w.onThread.takeTrap.ofFst e).onThread

theorem Hw.Wf.dueTrap {t} (w : h.Wf) : (h.dueTrap t).Wf := by
  unfold Hw.dueTrap
  obtain _ | w0 := (h.thread t).dev
  · exact w
  · dsimp -zeta only
    obtain _ | _ := w0.stop
    · exact w
    · exact .ite w.devTrap w

theorem Hw.Wf.asyncNow {t} (w : h.Wf) : ∀ k, h.asyncNow t = some k → k.Wf := by
  unfold Hw.asyncNow
  split
  · exact Hw.Wf.nothing
  · exact Hw.Wf.takeAsync w.flushOpen

theorem Hw.Wf.issueSettled {t words body} (w : h.Wf) (kbody : ∀ {k}, k.Wf → EndsHw Hw.Wf Hw.Wf (body k)) : (Machine.issueSettled t words body h).Wf := by
  unfold Machine.issueSettled
  refine .ite w.dueTrap ?_
  rcases e : h.asyncNow t with _ | _
  · dsimp -zeta only
    rcases e : Machine.settleAll h t with ⟨_, _ | _⟩
    · exact (w.settleAll.ofFst e).retireAll.runInstr fun w => kbody w
    · exact w.settleAll.ofFst e
  · exact w.asyncNow _ e

theorem Hw.Wf.issue {t words body} (w : h.Wf) (kbody : ∀ {k}, k.Wf → EndsHw Hw.Wf Hw.Wf (body k)) : (Machine.issue t words body h).Wf := .ite (w.runInstr fun w => kbody w) (w.issueSettled fun w => kbody w)

end

end Sys2Proof.Machine
end

section
/-! SUPPORT. Memory keeps its form: the control registers and CRRD, CRWR, CRSET and CRCLR. -/

namespace Sys2Proof.Machine

section
variable {h : Hw} {s : State}

theorem Hw.Wf.crWrite {t n v} (w : h.Wf) : (h.crWrite t n v).Wf := by
  unfold Hw.crWrite
  extract_lets x
  refine .ite w.setThread ?_
  refine .ite w.setThread ?_
  refine .ite ?_ ?_
  · obtain _ | _ := h.pcoreOf t
    · exact w
    · exact .ite w w.setFld
  refine .ite w.setThread ?_
  refine .ite w.setThread ?_
  refine .ite ?_ ?_
  · obtain _ | _ := x.bankFor (setCode n)
    · exact w
    · exact w.setThread
  refine .ite ?_ ?_
  · obtain _ | _ := x.bankUnder (setCode n)
    · exact w
    · exact w.setThread
  obtain _ | _ := plainMask n
  · exact w
  · exact w.setThread

theorem Hw.Wf.retireCr {t wroteProgress} (w : h.Wf) : (Machine.retireCr h t wroteProgress).Wf := .ite w.retireAs w.retire

theorem Hw.Wf.crBody {o t d a crn} (w : h.Wf) : EndsHw Hw.Wf Hw.Wf (Machine.crBody o t d a crn h) := by
  unfold Machine.crBody
  extract_lets _ _ _ _ _ _ h1
  have w1 : h1.Wf := by
    unfold h1
    obtain _ | _ | _ | _ := o
    · exact w
    · exact w.crWrite
    · exact w.crWrite
    · exact w.crWrite
  exact .ite (.error w) (.ite (.error w) (.ok (Hw.Wf.ite w1 w1.setG).retireCr))

theorem Hw.Wf.execCrrd {t d a crn} (w : s.hw.Wf) : Kept (Machine.execCrrd t d a crn s) := .onHw (w.issue fun w => w.crBody)

theorem Hw.Wf.execCrwr {t d a crn} (w : s.hw.Wf) : Kept (Machine.execCrwr t d a crn s) := .onHw (w.issueSettled fun w => w.crBody)

theorem Hw.Wf.execCrset {t d a crn} (w : s.hw.Wf) : Kept (Machine.execCrset t d a crn s) := .onHw (w.issueSettled fun w => w.crBody)

theorem Hw.Wf.execCrclr {t d a crn} (w : s.hw.Wf) : Kept (Machine.execCrclr t d a crn s) := .onHw (w.issueSettled fun w => w.crBody)

end

end Sys2Proof.Machine
end

section
/-! SUPPORT. Memory keeps its form: scalar floating point: major 0x28. -/

namespace Sys2Proof.Machine

section
variable {h : Hw} {s : State}

theorem Hw.Wf.addFlags {t f} (w : h.Wf) : (h.addFlags t f).Wf := w.onThread

theorem Hw.Wf.fpDone {t d r} (w : h.Wf) : EndsHw Hw.Wf Hw.Wf (Machine.fpDone t d h r) := .ok w.setG.addFlags.retire

theorem Hw.Wf.fpBody {op un run t d a b fmt} (w : h.Wf) : EndsHw Hw.Wf Hw.Wf (Machine.fpBody op un run t d a b fmt h) := .ite (.error w) w.fpDone

theorem Hw.Wf.execFadd {t d a b fmt} (w : s.hw.Wf) : Kept (Machine.execFadd t d a b fmt s) := .onHw (w.issue fun w => w.fpBody)

theorem Hw.Wf.execFsub {t d a b fmt} (w : s.hw.Wf) : Kept (Machine.execFsub t d a b fmt s) := .onHw (w.issue fun w => w.fpBody)

theorem Hw.Wf.execFmul {t d a b fmt} (w : s.hw.Wf) : Kept (Machine.execFmul t d a b fmt s) := .onHw (w.issue fun w => w.fpBody)

theorem Hw.Wf.execFdiv {t d a b fmt} (w : s.hw.Wf) : Kept (Machine.execFdiv t d a b fmt s) := .onHw (w.issue fun w => w.fpBody)

theorem Hw.Wf.execFsqrt {t d a b fmt} (w : s.hw.Wf) : Kept (Machine.execFsqrt t d a b fmt s) := .onHw (w.issue fun w => w.fpBody)

theorem Hw.Wf.execFma {t d a b fmt} (w : s.hw.Wf) : Kept (Machine.execFma t d a b fmt s) := .onHw (w.issue fun w => w.fpBody)

theorem Hw.Wf.execFmin {t d a b fmt} (w : s.hw.Wf) : Kept (Machine.execFmin t d a b fmt s) := .onHw (w.issue fun w => w.fpBody)

theorem Hw.Wf.execFmax {t d a b fmt} (w : s.hw.Wf) : Kept (Machine.execFmax t d a b fmt s) := .onHw (w.issue fun w => w.fpBody)

theorem Hw.Wf.execFcmp {t d a b fmt a5} (w : s.hw.Wf) : Kept (Machine.execFcmp t d a b fmt a5 s) := .onHw (w.issue fun w => w.fpBody)

theorem Hw.Wf.fcvtBody {t d a b fmt a5} (w : h.Wf) : EndsHw Hw.Wf Hw.Wf (Machine.fcvtBody t d a b fmt a5 h) := .ite (.error w) w.fpBody

theorem Hw.Wf.execFcvt {t d a b fmt a5} (w : s.hw.Wf) : Kept (Machine.execFcvt t d a b fmt a5 s) := .onHw (w.issue fun w => w.fcvtBody)

end

end Sys2Proof.Machine
end

section
/-! SUPPORT. Memory keeps its form: the scalar integer instructions, the branches and the scalar helpers of Askist. -/

namespace Sys2Proof.Machine

section
variable {h : Hw} {s : State}

theorem Hw.Wf.aluBody {t d a b func} (w : h.Wf) : EndsHw Hw.Wf Hw.Wf (Machine.aluBody t d a b func h) := by
  unfold Machine.aluBody
  extract_lets
  refine .ite (.error w) ?_
  obtain _ | _ := aluOp _ _ _
  · exact .error w
  · exact .ok w.setG.retire

theorem Hw.Wf.execIntegerAlu {t d a b func} (w : s.hw.Wf) : Kept (Machine.execIntegerAlu t d a b func s) := .onHw (w.issue fun w => w.aluBody)

theorem Hw.Wf.immBody {o t d a imm len a6} (w : h.Wf) : EndsHw Hw.Wf Hw.Wf (Machine.immBody o t d a imm len a6 h) := .ite (.error w) (.ok w.setG.retire)

theorem Hw.Wf.immBody1 {o t d a imm} (w : h.Wf) : EndsHw Hw.Wf Hw.Wf (Machine.immBody1 o t d a imm h) := w.immBody

theorem Hw.Wf.execAddi {t d a imm} (w : s.hw.Wf) : Kept (Machine.execAddi t d a imm s) := .onHw (w.issue fun w => w.immBody1)

theorem Hw.Wf.execAndi {t d a imm} (w : s.hw.Wf) : Kept (Machine.execAndi t d a imm s) := .onHw (w.issue fun w => w.immBody1)

theorem Hw.Wf.execOri {t d a imm} (w : s.hw.Wf) : Kept (Machine.execOri t d a imm s) := .onHw (w.issue fun w => w.immBody1)

theorem Hw.Wf.execXori {t d a imm} (w : s.hw.Wf) : Kept (Machine.execXori t d a imm s) := .onHw (w.issue fun w => w.immBody1)

theorem Hw.Wf.execLui {t d a imm} (w : s.hw.Wf) : Kept (Machine.execLui t d a imm s) := .onHw (w.issue fun w => w.immBody1)

theorem Hw.Wf.shiftBody {t d a imm} (w : h.Wf) : EndsHw Hw.Wf Hw.Wf (Machine.shiftBody t d a imm h) := by
  unfold Machine.shiftBody
  extract_lets
  obtain _ | _ := shiftImmOp imm ((h.thread t).readG (BitVec.toNat a))
  · exact .error w
  · exact .ok w.setG.retire

theorem Hw.Wf.execShiftImmediate {t d a imm} (w : s.hw.Wf) : Kept (Machine.execShiftImmediate t d a imm s) := .onHw (w.issue fun w => w.shiftBody)

theorem Hw.Wf.trainBranch {t a2 pc taken target} (w : h.Wf) : (Machine.trainBranch h t a2 pc taken target).Wf := (Hw.Wf.ite w.onCore w.onThread).onThread

theorem Hw.Wf.branchBody {t c a b off mispredicted} (w : h.Wf) : EndsHw Hw.Wf Hw.Wf (Machine.branchBody t c a b off mispredicted h) := .ok w.trainBranch.retireTo

theorem Hw.Wf.execBranch {t c a b off mispredicted} (w : s.hw.Wf) : Kept (Machine.execBranch t c a b off mispredicted s) := .onHw (w.issue fun w => w.branchBody)

theorem Hw.Wf.jalBody {t off mispredicted} (w : h.Wf) : EndsHw Hw.Wf Hw.Wf (Machine.jalBody t off mispredicted h) := .ok w.trainBranch.onThread.setG.retireTo

theorem Hw.Wf.execJal {t off mispredicted} (w : s.hw.Wf) : Kept (Machine.execJal t off mispredicted s) := .onHw (w.issue fun w => w.jalBody)

theorem Hw.Wf.jalrBody {t d a imm len mispredicted} (w : h.Wf) : EndsHw Hw.Wf Hw.Wf (Machine.jalrBody t d a imm len mispredicted h) := .ok w.trainBranch.onThread.setG.retireTo

theorem Hw.Wf.execJalr {t d a imm mispredicted} (w : s.hw.Wf) : Kept (Machine.execJalr t d a imm mispredicted s) := .onHw (w.issue fun w => w.jalrBody)

theorem Hw.Wf.helperBody {a0 t d a b} (w : h.Wf) : EndsHw Hw.Wf Hw.Wf (Machine.helperBody a0 t d a b h) := .ite (.error w) (.ok w.setG.retire)

theorem Hw.Wf.execPar {t d a b} (w : s.hw.Wf) : Kept (Machine.execPar t d a b s) := .onHw (w.issue fun w => w.helperBody)

theorem Hw.Wf.execPopc {t d a b} (w : s.hw.Wf) : Kept (Machine.execPopc t d a b s) := .onHw (w.issue fun w => w.helperBody)

theorem Hw.Wf.execBrev8 {t d a b} (w : s.hw.Wf) : Kept (Machine.execBrev8 t d a b s) := .onHw (w.issue fun w => w.helperBody)

theorem Hw.Wf.execBrev64 {t d a b} (w : s.hw.Wf) : Kept (Machine.execBrev64 t d a b s) := .onHw (w.issue fun w => w.helperBody)

theorem Hw.Wf.execClz {t d a b} (w : s.hw.Wf) : Kept (Machine.execClz t d a b s) := .onHw (w.issue fun w => w.helperBody)

theorem Hw.Wf.execCtz {t d a b} (w : s.hw.Wf) : Kept (Machine.execCtz t d a b s) := .onHw (w.issue fun w => w.helperBody)

theorem Hw.Wf.crcBody {t d a b size} (w : h.Wf) : EndsHw Hw.Wf Hw.Wf (Machine.crcBody t d a b size h) := .ok w.setG.retire

theorem Hw.Wf.execCrc32c {t d a b size} (w : s.hw.Wf) : Kept (Machine.execCrc32c t d a b size s) := .onHw (w.issue fun w => w.crcBody)

end

end Sys2Proof.Machine
end

section
/-! SUPPORT. Memory keeps its form: vector arithmetic, compares, permutes and predicate logic. -/

namespace Sys2Proof.Machine

section
variable {h : Hw} {s : State}

theorem Hw.Wf.vecGuard {bad a1 t a4} (w : h.Wf) (ka4 : ∀ {k}, k.Wf → EndsHw Hw.Wf Hw.Wf (a4 k)) : EndsHw Hw.Wf Hw.Wf (Machine.vecGuard bad a1 t h a4) := .ite (.error w) (.ite (.error w) (ka4 w))

theorem Hw.Wf.vec20Body {t v func} (w : h.Wf) : EndsHw Hw.Wf Hw.Wf (Machine.vec20Body t v func h) := by
  unfold Machine.vec20Body
  extract_lets _ n
  obtain _ | _ := vfpOp n
  · exact w.vecGuard fun w => .ok w.onThread.retire
  · exact w.vecGuard fun w => .ok w.onThread.addFlags.retire

theorem Hw.Wf.execVectorAlu {t v func} (w : s.hw.Wf) : Kept (Machine.execVectorAlu t v func s) := .onHw (w.issue fun w => w.vec20Body)

theorem Hw.Wf.execVectorFp {t v func} (w : s.hw.Wf) : Kept (Machine.execVectorFp t v func s) := .onHw (w.issue fun w => w.vec20Body)

theorem Hw.Wf.pcompBody {t v func} (w : h.Wf) : EndsHw Hw.Wf Hw.Wf (Machine.pcompBody t v func h) := by
  unfold Machine.pcompBody
  exact w.vecGuard fun w => .ok w.onThread.addFlags.retire

theorem Hw.Wf.execPcomp {t v func} (w : s.hw.Wf) : Kept (Machine.execPcomp t v func s) := .onHw (w.issue fun w => w.pcompBody)

theorem Hw.Wf.permBody {a0 t v} (w : h.Wf) : EndsHw Hw.Wf Hw.Wf (Machine.permBody a0 t v h) := by
  unfold Machine.permBody
  extract_lets
  refine w.vecGuard fun w => ?_
  extract_lets _ _ _ _ _ _ h1
  have w1 : h1.Wf := by
    unfold h1
    obtain _ | _ | _ | _ | _ := a0
    · exact w.onThread
    · exact w.onThread
    · exact w.onThread
    · exact w.setG
    · exact w.onThread
  exact .ok w1.retire

theorem Hw.Wf.execVcompress {t v} (w : s.hw.Wf) : Kept (Machine.execVcompress t v s) := .onHw (w.issue fun w => w.permBody)

theorem Hw.Wf.execVexpand {t v} (w : s.hw.Wf) : Kept (Machine.execVexpand t v s) := .onHw (w.issue fun w => w.permBody)

theorem Hw.Wf.execVbcast {t v} (w : s.hw.Wf) : Kept (Machine.execVbcast t v s) := .onHw (w.issue fun w => w.permBody)

theorem Hw.Wf.execVextract {t v} (w : s.hw.Wf) : Kept (Machine.execVextract t v s) := .onHw (w.issue fun w => w.permBody)

theorem Hw.Wf.execVinsert {t v} (w : s.hw.Wf) : Kept (Machine.execVinsert t v s) := .onHw (w.issue fun w => w.permBody)

theorem Hw.Wf.predBody {func op t d a b} (w : h.Wf) : EndsHw Hw.Wf Hw.Wf (Machine.predBody func op t d a b h) := by
  unfold Machine.predBody
  extract_lets
  exact w.vecGuard fun w => .ok w.onThread.retire

theorem Hw.Wf.execPand {t d a b} (w : s.hw.Wf) : Kept (Machine.execPand t d a b s) := .onHw (w.issue fun w => w.predBody)

theorem Hw.Wf.execPor {t d a b} (w : s.hw.Wf) : Kept (Machine.execPor t d a b s) := .onHw (w.issue fun w => w.predBody)

theorem Hw.Wf.execPxor {t d a b} (w : s.hw.Wf) : Kept (Machine.execPxor t d a b s) := .onHw (w.issue fun w => w.predBody)

theorem Hw.Wf.execPnot {t d a b} (w : s.hw.Wf) : Kept (Machine.execPnot t d a b s) := .onHw (w.issue fun w => w.predBody)

end

end Sys2Proof.Machine
end

section
/-! SUPPORT. Memory keeps its form: how the loads and stores of a thread reach memory: its own waiting stores, the caches and fill buffers, reads of N-NC memory, the store queue and the write-combining buffers. -/

namespace Sys2Proof.Machine

section
variable {h : Hw}

theorem Hw.Wf.whenSettled {t a2} (w : h.Wf) (ka2 : ∀ {k}, k.Wf → EndsHw Hw.Wf Hw.Wf (a2 k)) : EndsHw Hw.Wf Hw.Wf (Machine.whenSettled t h a2) := .ite (ka2 w) (.error w)

theorem Hw.Wf.loadBytes {t a n} (w : h.Wf) : (Machine.loadBytes t a n h).1.Wf := by
  induction n generalizing h a with
  | zero => exact w
  | succ n ih =>
    unfold Machine.loadBytes
    dsimp only
    refine ih ?_
    split
    · exact w.fresh (a1 := 8)
    · exact w

theorem Hw.Wf.loadPieces {t ps} (w : h.Wf) : (Machine.loadPieces t ps h).1.Wf := by
  induction ps generalizing h with
  | nil => exact w
  | cons p ps ih => exact ih w.loadBytes

theorem Hw.Wf.loadTouch {t st snap p} (w : h.Wf) : (Machine.loadTouch t st snap p h).Wf := by
  unfold Machine.loadTouch
  extract_lets
  obtain _ | _ := List.find? _ _
  · exact .ite w.addFill (.ite w.retireUse w.onCore)
  · exact w.setFill

theorem Hw.Wf.loadParts {t st snap ps} (w : h.Wf) : (Machine.loadParts t st snap ps h).Wf := w.foldl fun w => w.loadTouch

theorem Hw.Wf.ncGate {t ps a3} (w : h.Wf) (ka3 : ∀ {k}, k.Wf → EndsHw Hw.Wf Hw.Wf (a3 k)) : EndsHw Hw.Wf Hw.Wf (Machine.ncGate t ps h a3) := by
  unfold Machine.ncGate
  refine .ite (ka3 w) ?_
  refine w.whenSettled fun w => ?_
  obtain _ | _ := ncMissing _ t ps
  · exact ka3 w
  · exact .error (w.foldl fun w => w.ncAsk)

theorem Hw.Wf.deferLoad {t line settled} (w : h.Wf) : (h.deferLoad t line settled).Wf := w.sliceLookup.countDie.count.onThread

theorem Hw.Wf.loadGate {t settled ps a4} (w : h.Wf) (ka4 : ∀ {b0 k}, k.Wf → EndsHw Hw.Wf Hw.Wf (a4 b0 k)) : EndsHw Hw.Wf Hw.Wf (Machine.loadGate t settled ps h a4) := by
  unfold Machine.loadGate
  extract_lets
  refine .ite (.error w) ?_
  split
  · exact .error w.deferLoad
  · exact .ite (ka4 w) (.error w)

theorem Hw.Wf.dropOwn {t line} (w : h.Wf) : (h.dropOwn t line).Wf := w.onThread

theorem Hw.Wf.storeWb {t pa vset bs} (w : h.Wf) : (Machine.storeWb t pa vset bs h).Wf := by
  unfold Machine.storeWb
  extract_lets _ _ _ _ _ h
  have w : h.Wf := .ite w.dropOwn w.dropOwn.sliceLookup
  exact .ite w.storeOwned (.ite w.onThread w.onThread.dieRequest)

theorem Hw.Wf.storeNc {t pa bs} (w : h.Wf) : (Machine.storeNc t pa bs h).Wf := by
  unfold Machine.storeNc
  extract_lets line key h1 v put used h2
  have w1 : h1.Wf := w.dropOwn
  have wput : ∀ {k b}, k.Wf → (put k b).Wf := fun w => .ite w.onCore.wcFlushOne w.onCore
  have w2 : h2.Wf := by
    unfold h2
    clear_value used
    split
    · exact w1
    · exact .ite w1.wcFlushOne w1
  split
  · exact wput w1.onCore
  · exact wput w2

theorem Hw.Wf.storePart {t p bs} (w : h.Wf) : (Machine.storePart t p bs h).Wf := .ite w.storeWb w.storeNc

theorem Hw.Wf.storeParts {t ps bs} (w : h.Wf) : (Machine.storeParts t ps bs h).Wf := by
  induction ps generalizing h bs with
  | nil => exact w
  | cons p ps ih => exact ih w.storePart

theorem Hw.Wf.aliasFlush {t ps} (w : h.Wf) : (Machine.aliasFlush h t ps).Wf := w.foldl fun w => w.wcFlushOne

theorem Hw.Wf.storeGate {t ps a3} (w : h.Wf) (ka3 : ∀ {k}, k.Wf → EndsHw Hw.Wf Hw.Wf (a3 k)) : EndsHw Hw.Wf Hw.Wf (Machine.storeGate t ps h a3) := .ite (.error w) (.ite (.error w.aliasFlush) (ka3 w))

theorem Hw.Wf.chunkTouch {t p} (w : h.Wf) : (Machine.chunkTouch t p h).Wf := by
  unfold Machine.chunkTouch
  extract_lets
  refine .ite w ?_
  refine .ite w.retireUse ?_
  obtain _ | _ := List.find? _ _
  · exact w.addFill
  · exact .ite w.addFill w.addFill.retireUse

theorem Hw.Wf.chunkLoad {t ps} (w : h.Wf) : (Machine.chunkLoad t ps h).1.Wf := by
  unfold Machine.chunkLoad
  rcases e : Machine.loadPieces t ps h with ⟨_, _⟩
  exact Hw.Wf.onThread ((w.loadPieces.ofFst e).counts.foldl fun w => w.chunkTouch)

theorem Hw.Wf.chunkGate {t ld st a4} (w : h.Wf) (ka4 : ∀ {k}, k.Wf → EndsHw Hw.Wf Hw.Wf (a4 k)) : EndsHw Hw.Wf Hw.Wf (Machine.chunkGate t ld st h a4) := .ite (.error w) (w.ncGate fun w => w.storeGate fun w => ka4 w)

end

end Sys2Proof.Machine
end

section
/-! SUPPORT. Memory keeps its form: accesses of threads to the ports: completions, posted acknowledgements, timeouts and links that go down. -/

namespace Sys2Proof.Machine

section
variable {h : Hw} {s : State}

theorem Hw.Wf.portRaise {n} (w : h.Wf) : (h.portRaise n).Wf := w.raise

theorem Hw.Wf.devRecord {n t pa cls} (w : h.Wf) : (h.devRecord n t pa cls).Wf := w.ras.portRaise

theorem Hw.Wf.devFail {t cls} (w : h.Wf) : (h.devFail t cls).Wf := by
  unfold Hw.devFail
  obtain _ | _ := (h.thread t).devOpen
  · exact w
  · exact w.devRecord.devTrap

theorem Hw.Wf.portPump {n} (w : h.Wf) : (h.portPump n).Wf := w.grantToks

theorem Hw.Wf.devSend {t a2} (w : h.Wf) : (h.devSend t a2).Wf := w.onThread.send

theorem Hw.Wf.portRefuse {n pa a3 write} (w : h.Wf) : (h.portRefuse n pa a3 write).Wf := by
  unfold Hw.portRefuse
  extract_lets
  obtain _ | _ := Thread.devOpen _
  · exact w.ras
  · exact .ite w.ras.devTrap w.ras

theorem Hw.Wf.postedArrives {a1 pa size v} (w : h.Wf) : (h.postedArrives a1 pa size v).Wf := .ite w.portRefuse (.ite w.send.sendTlp.same w.send.devRecord.same)

theorem Hw.Wf.execDeviceTimeout {port t} (w : s.hw.Wf) : Kept (Machine.execDeviceTimeout port t s) := by
  unfold Machine.execDeviceTimeout
  refine .onHw ?_
  obtain _ | _ := List.filter _ _
  · dsimp -zeta only
    obtain _ | _ := Thread.devOpen _
    · exact w
    · exact .ite w.devFail.portPump w
  · exact w.ras.portRaise.same.portPump

theorem Hw.Wf.execDpStoreErrorMessage {port t} (w : s.hw.Wf) : Kept (Machine.execDpStoreErrorMessage port t s) := by
  unfold Machine.execDpStoreErrorMessage
  refine .onHw ?_
  obtain _ | _ := takeFirst _ _
  · exact w
  · exact w.same.addMc

theorem Hw.Wf.portAbort {n} (w : h.Wf) : (h.portAbort n).Wf := Hw.Wf.portPump ((Hw.Wf.ite w.same w.same.ras.portRaise).foldl fun w => w.devFail)

theorem Hw.Wf.portDown {n} (w : h.Wf) : (h.portDown n).Wf := w.same.portAbort

theorem Hw.Wf.execPortLinkDown {port} (w : s.hw.Wf) : Kept (Machine.execPortLinkDown port s) := .onHw w.portDown

theorem Hw.Wf.execDpStoreComplete {port} (w : s.hw.Wf) : Kept (Machine.execDpStoreComplete port s) := by
  unfold Machine.execDpStoreComplete
  refine .onHw ?_
  obtain _ | _ := look _ _ _
  · exact w
  · exact .ite w.same.portPump w

end

end Sys2Proof.Machine
end

section
/-! SUPPORT. Memory keeps its form: access to the register window: who may write which register, what a write does to each field under its access and class code, and how a refused write is recorded. -/

namespace Sys2Proof.Machine

section
variable {h : Hw}

theorem Hw.Wf.refuseReg {die pa a3} (w : h.Wf) : (h.refuseReg die pa a3).Wf := w.ras

theorem Hw.Wf.writeFields {r a2 half v} (w : h.Wf) : (h.writeFields r a2 half v).Wf := by
  unfold Hw.writeFields
  extract_lets _ _ a _ h2
  have w2 : h2.Wf := by
    unfold h2
    obtain _ | _ := a.shadow
    · exact w.setReg
    · exact w.setReg.same
  exact w2.foldl fun w => w.cfgReject

theorem Hw.Wf.applyShadow {r} (w : h.Wf) : (h.applyShadow r).Wf := by
  unfold Hw.applyShadow
  extract_lets pa
  obtain _ | _ := look? h.shadow pa
  · exact w
  · exact w.setReg.same

theorem Hw.Wf.permit {r a2 v body} (w : h.Wf) (kbody : ∀ {k}, k.Wf → (body k).Wf) : (h.permit r a2 v body).Wf := by
  unfold Hw.permit
  obtain _ | _ | _ := h.mayWrite r a2 v
  · exact kbody w
  · exact w.refuseReg
  · exact w.cfgReject

end

end Sys2Proof.Machine
end

section
/-! SUPPORT. Memory keeps its form: the render cache and the hotness trackers of the home slices. -/

namespace Sys2Proof.Machine

section
variable {h : Hw}

theorem Hw.Wf.rcPut {a1 l} (w : h.Wf) : (h.rcPut a1 l).Wf := w.same

theorem Hw.Wf.rcTouch {line way} (w : h.Wf) : (h.rcTouch line way).Wf := w.same

theorem Hw.Wf.rcDirty {line} (w : h.Wf) : (h.rcDirty line).Wf := w.rcPut

theorem Hw.Wf.rcDrop {line} (w : h.Wf) : (h.rcDrop line).Wf := w.rcPut

theorem Hw.Wf.weighFar {line n} (w : h.Wf) : (h.weighFar line n).Wf := by
  unfold Hw.weighFar
  refine .ite ?_ w
  obtain _ | _ := h.isetOf (line <<< 6)
  · exact w
  · exact w.foldl fun w' => w'.weigh

theorem Hw.Wf.rcFill {line ddirty} (w : h.Wf) : (h.rcFill line ddirty).Wf := by
  unfold Hw.rcFill
  extract_lets _ _ _ _ _ h1
  have w1 : h1.Wf := w.foldl fun w => w.weighFar
  exact .ite w w1.rcPut.rcTouch

theorem Hw.Wf.rcServe {op eng line} (w : h.Wf) : (h.rcServe op eng line).1.Wf := by
  unfold Hw.rcServe
  obtain _ | _ := h.rcFind line
  · dsimp -zeta only
    extract_lets _ write
    have wWrite : write.Wf := .ite w.rcFill w.weighFar
    split
    · exact w.weighFar
    · exact w.weighFar
    · exact w
    · exact wWrite
    · exact wWrite
    · exact wWrite
    · exact .ite w.weighFar.rcFill w.weighFar
  · dsimp -zeta only
    split
    · exact .ite w w.rcTouch
    · exact w
    · exact w
    · exact w.rcDirty
    · exact w.rcDirty
    · exact w.rcDirty
    · exact w.rcTouch

theorem Hw.Wf.hotCount {op eng world part line hit} (w : h.Wf) : (h.hotCount op eng world part line hit).Wf := by
  unfold Hw.hotCount
  refine .ite w ?_
  extract_lets
  refine .ite ?_ w
  rcases e : h.fresh 32 with ⟨_, h1⟩
  have w1 : h1.Wf := w.fresh.ofSnd e
  exact .ite w1.same w1

end

end Sys2Proof.Machine
end

section
/-! SUPPORT. Memory keeps its form: the homes: directory, transactions, recalls, writes, the forward role, timeouts, poison and fences, and the agents' answers. -/

namespace Sys2Proof.Machine

section
variable {h : Hw}

theorem Hw.Wf.dirStore {key} (w : h.Wf) : (h.dirStore key).Wf := by
  unfold Hw.dirStore
  refine .ite w ?_
  obtain _ | _ := h.regionPa (key - 2 ^ 50)
  · exact w
  · exact w.writeNum

theorem Hw.Wf.dirTouch {key dirty} (w : h.Wf) : (h.dirTouch key dirty).Wf := by
  unfold Hw.dirTouch
  extract_lets
  refine .ite ?_ w.same
  obtain _ | _ := List.getLast? _
  · exact w.same
  · exact w.same

theorem Hw.Wf.setDir {key d} (w : h.Wf) : (h.setDir key d).Wf := by
  unfold Hw.setDir
  extract_lets _ _ h2
  have w2 : h2.Wf := .ite w.same.rcDirty w.same
  exact .ite w2.dirTouch.dirStore w2.dirTouch

theorem Hw.Wf.homeErr {code sev line a} (w : h.Wf) : (h.homeErr code sev line a).Wf := w.record.raise

theorem Hw.Wf.reply {op r} (w : h.Wf) : (h.reply op r).Wf := (Hw.Wf.ite w w.freeTok).send

theorem Hw.Wf.homeWrite {r} (w : h.Wf) : (h.homeWrite r).Wf := .ite w.writeCells.clearPoison w.writeCells

theorem Hw.Wf.farLate {line} (w : h.Wf) : (h.farLate line).Wf := by
  unfold Hw.farLate
  extract_lets pa
  obtain _ | i := h.isetOf pa
  · exact w
  · dsimp -zeta only
    exact w.same.ras

theorem Hw.Wf.farRead {op hit line} (w : h.Wf) : (h.farRead op hit line).Wf := by
  unfold Hw.farRead
  refine .ite ?_ w
  obtain _ | _ := h.isetOf (line <<< 6)
  · exact w
  · exact .ite w.farLate (.ite w.farLate.same w)

theorem Hw.Wf.complete {r st} (w : h.Wf) : (h.complete r st).1.Wf := by
  unfold Hw.complete
  extract_lets
  split
  · next h1 _ e =>
    extract_lets h h1
    have w : h.Wf := ((Hw.Wf.iteFst w w.rcServe).ofFst e).farRead.hotCount
    have w1 : h1.Wf := .ite w w.dirTouch
    split
    · obtain _ | _ | _ := st
      · exact Hw.Wf.iteFst w.setDir.reply w.setDir.reply
      · exact Hw.Wf.iteFst w.setDir.reply w.setDir.reply
      · exact Hw.Wf.iteFst w.setDir.reply w.setDir.reply
    · exact w.same.setDir.reply
    · obtain _ | _ | _ := st
      · exact w.setDir.reply
      · exact w.setDir.reply
      · exact w.setDir.reply
    · obtain _ | _ := h1.relayPort r
      · exact w1.reply
      · exact w1.freeTok.send
    · exact Hw.Wf.iteFst w.setDir.homeWrite.reply w.setDir.reply
    · exact Hw.Wf.iteFst w.setDir.homeWrite.reply w.setDir.reply
    · exact w.setDir.reply

theorem Hw.Wf.sendSnoops {t op l} (w : h.Wf) : (h.sendSnoops t op l).Wf := w.foldl fun w => w.send

theorem Hw.Wf.openTxn {t0} (w : h.Wf) : (h.openTxn t0).Wf := w.same.dirTouch.sendSnoops

theorem Hw.Wf.poisonLines {l} (w : h.Wf) : (h.poisonLines l).Wf := w.foldl fun w => w.setPoison

theorem Hw.Wf.makeStale {a lines} (w : h.Wf) : (h.makeStale a lines).Wf := by
  unfold Hw.makeStale
  obtain _ | _ | _ | _ := a
  · exact w.onCDie
  · exact w.same
  · exact w
  · exact w

theorem Hw.Wf.loseAgent {a line c ls} (w : h.Wf) : (h.loseAgent a line c ls).Wf := w.poisonLines.makeStale.homeErr.setDir.same

theorem Hw.Wf.recallFenced {a line} (w : h.Wf) : (h.recallFenced a line).Wf := w.loseAgent

theorem Hw.Wf.startReq {r} (w : h.Wf) : (h.startReq r).Wf := by
  unfold Hw.startReq
  refine .ite w.homeRefusal.reply ?_
  refine .ite (Hw.Wf.ite w.homeRefusal w).reply ?_
  extract_lets h0 h st t0 fin
  have wFin : ∀ {k0 b1}, k0.Wf → (fin k0 b1).Wf := by
    intro k0 b1 w
    unfold fin
    split
    · next h1 _ e =>
        have w1 : h1.Wf := w.complete.ofFst e
        exact .ite w1 w1.openTxn
  have weighed : h.Wf := w.weigh
  clear_value fin st h
  split
  · exact wFin weighed
  · exact .ite (.ite (wFin weighed) weighed.openTxn) (.ite (wFin weighed.recallFenced) weighed.openTxn)
  · refine .ite (.ite (wFin weighed.setDir) w.same.openTxn) ?_
    extract_lets others
    split
    · exact wFin weighed
    · exact wFin weighed
    · exact weighed.openTxn
    · exact weighed.openTxn
    · exact .ite (wFin weighed) weighed.openTxn

theorem Hw.Wf.homeRequest {r} (w : h.Wf) : (h.homeRequest r).Wf := .ite w (.ite w.same w.startReq)

theorem Hw.Wf.serveWaiters {n} (w : h.Wf) : (Hw.serveWaiters n h).Wf := by
  induction n generalizing h with
  | zero => exact w
  | succ n ih =>
    unfold Hw.serveWaiters
    split
    · exact ih w.same.startReq
    · exact w

theorem Hw.Wf.wakeWaiters (w : h.Wf) : (h.wakeWaiters).Wf := w.serveWaiters

theorem Hw.Wf.endTxn {key} (w : h.Wf) : (h.endTxn key).Wf := w.same

theorem Hw.Wf.probeNext {t} (w : h.Wf) : (h.probeNext t).Wf := by
  unfold Hw.probeNext
  obtain _ | _ := t.present
  · exact w.setDir.endTxn.wakeWaiters
  · exact w.setDir.same.sendSnoops

theorem Hw.Wf.settleSnooped {t} (w : h.Wf) : (h.settleSnooped t).Wf := by
  unfold Hw.settleSnooped
  split
  · exact w.setDir
  · exact w.setDir
  · exact w.setDir
  · exact .ite w.setDir w
  · exact w

theorem Hw.Wf.advance {key} (w : h.Wf) : (h.advance key).Wf := by
  unfold Hw.advance
  obtain _ | t := List.find? _ _
  · exact w
  · dsimp -zeta only
    refine .ite w ?_
    refine .ite w.poisonLines.setDir.homeErr.endTxn.wakeWaiters ?_
    obtain _ | r := t.req
    · exact .ite w.probeNext w.settleSnooped.endTxn.wakeWaiters
    · dsimp -zeta only
      extract_lets st
      rcases e : h.complete r st with ⟨h1, _⟩
      have w1 : h1.Wf := w.complete.ofFst e
      exact .ite w1.endTxn.wakeWaiters w1.same

theorem Hw.Wf.homeAnswer {a line absent wbpend present back} (w : h.Wf) : (h.homeAnswer a line absent wbpend present back).Wf := by
  unfold Hw.homeAnswer
  extract_lets key
  refine .ite w ?_
  obtain _ | _ := List.find? _ _
  · exact w.homeErr
  · dsimp -zeta only
    extract_lets _ h1 h2
    have w2 : h2.Wf := by
      unfold h2
      refine .ite ?_ w.same
      obtain _ | _ | _ := h1.dirOf key
      · exact w.same
      · obtain _ | _ := a.cdie
        · exact w.same
        · exact .ite w.same.setDir w.same
      · exact w.same
    refine .ite ?_ w2.advance
    obtain _ | _ := List.find? _ _
    · exact w2
    · exact w2.probeNext

theorem Hw.Wf.homeAckF {a line} (w : h.Wf) : (h.homeAckF a line).Wf := by
  unfold Hw.homeAckF
  extract_lets
  refine .ite w ?_
  obtain _ | _ := List.find? _ _
  · exact w.homeErr
  · obtain _ | _ := a.cdie
    · exact w.homeErr
    · exact w.setDir.endTxn.wakeWaiters

theorem Hw.Wf.wbStray {r} (w : h.Wf) : (h.wbStray r).Wf := w.reply.homeErr

theorem Hw.Wf.wbApply {r st bad} (w : h.Wf) : (h.wbApply r st bad).Wf := by
  unfold Hw.wbApply
  extract_lets _ hw h0
  have ww : hw.Wf := .ite w.rcServe w
  have w0 : h0.Wf := .ite ww.clearPoison ww
  exact (Hw.Wf.ite w0.setPoison w0).same.setDir.dirTouch.reply.same.advance

theorem Hw.Wf.homeWb {r bad} (w : h.Wf) : (h.homeWb r bad).Wf := by
  unfold Hw.homeWb
  refine .ite w ?_
  refine .ite w.reply.homeErr ?_
  refine .ite w.wbApply ?_
  obtain _ | _ := h.ownerGives r
  · exact w.wbStray
  · exact w.wbApply

theorem Hw.Wf.homeEvf {r} (w : h.Wf) : (h.homeEvf r).Wf := by
  unfold Hw.homeEvf
  extract_lets key
  refine .ite w ?_
  refine .ite w.reply.homeErr ?_
  obtain _ | _ | _ := h.dirOf key
  · exact w.wbStray
  · dsimp -zeta only
    extract_lets _ _ _ h1'
    have w1' : h1'.Wf := w.setDir.reply
    exact .ite w.setDir.wbStray.same.advance (.ite w1'.same.advance (.ite w1' w1'.openTxn))
  · exact w.wbStray

theorem Hw.Wf.snoopTimedOut {a line code} (w : h.Wf) : (h.snoopTimedOut a line code).Wf := by
  unfold Hw.snoopTimedOut
  extract_lets
  obtain _ | t := List.find? _ _
  · exact w
  · dsimp -zeta only
    extract_lets _ _ h2
    have w2 : h2.Wf := w.loseAgent.endTxn
    obtain _ | _ := t.req
    · exact w2.wakeWaiters
    · exact w2.startReq.wakeWaiters

theorem Hw.Wf.snoopsTimedOut {a line} (w : h.Wf) : (h.snoopsTimedOut a line).Wf := by
  unfold Hw.snoopsTimedOut
  obtain _ | _ := List.find? _ _
  · exact w
  · exact w.snoopTimedOut.foldl fun w => w.makeStale.homeErr

theorem Hw.Wf.dirLost {line} (w : h.Wf) : (h.dirLost line).Wf := .ite w (.ite w.openTxn.advance w.openTxn)

theorem Hw.Wf.agGiveUp {op a line} (w : h.Wf) : (h.agGiveUp op a line).Wf := w.same.send

theorem Hw.Wf.agWritten {a line} (w : h.Wf) : (h.agWritten a line).Wf := w.same

theorem Hw.Wf.elcAnswer {op n line} (w : h.Wf) : (h.elcAnswer op n line).Wf := by
  unfold Hw.elcAnswer
  extract_lets
  refine .ite w.answer ?_
  split
  · exact w.same.answer
  · exact .ite w.same.answer w.same.answer
  · exact .ite w.same.answer w.same.answer
  · exact w.answer

theorem Hw.Wf.agAnswer {op a line} (w : h.Wf) : (h.agAnswer op a line).Wf := by
  unfold Hw.agAnswer
  obtain _ | _ | _ | _ := a
  · exact w.answer
  · exact w.elcAnswer
  · exact w.answer
  · exact w.answer

theorem Hw.Wf.serveAgent {a} (w : h.Wf) : (h.serveAgent a).Wf := w.same.foldl fun w => w.agAnswer

theorem Hw.Wf.dmaCpl {n c} (w : h.Wf) : (h.dmaCpl n c).Wf := w.same

theorem Hw.Wf.portGranted {n line} (w : h.Wf) : (h.portGranted n line).Wf := by
  unfold Hw.portGranted
  extract_lets _ _ h1
  have w1 : h1.Wf := w.same.foldl fun w => w.writeNum.dmaCpl
  exact w1.agGiveUp.serveAgent

theorem Hw.Wf.engGranted {n line} (w : h.Wf) : (h.engGranted n line).Wf := w.same.writeCells.serveAgent

theorem Hw.Wf.portCommits {n} (w : h.Wf) : (h.portCommits n).Wf := by
  unfold Hw.portCommits
  obtain _ | _ := dropVisible (look [] h.pwr n)
  · exact w.same
  · exact .ite w.same.send w.same

theorem Hw.Wf.portReady {n line} (w : h.Wf) : (h.portReady n line).Wf := w.same.portCommits

theorem Hw.Wf.portVisible {n line} (w : h.Wf) : (h.portVisible n line).Wf := w.same.portCommits

theorem Hw.Wf.fenceAgent {a} (w : h.Wf) : (h.fenceAgent a).Wf := by
  unfold Hw.fenceAgent
  extract_lets
  refine w.same.dropAgentSlots.foldl fun w => ?_
  extract_lets h
  have w : h.Wf := .ite w.same w
  exact .ite (.ite w.same.advance w.snoopTimedOut) w

theorem Hw.Wf.fenceSet {engines v} (w : h.Wf) : (h.fenceSet engines v).Wf := w.setReg.foldl fun w => w.fenceAgent

theorem Hw.Wf.agentWrite {a part world pa bs} (w : h.Wf) : (h.agentWrite a part world pa bs).Wf := w.foldl fun w => w.homeRequest

end

end Sys2Proof.Machine
end

section
/-! SUPPORT. Memory keeps its form: the memory tiers: interleave descriptors, quotas, render-cache scrub, initialisation, hotness snapshots, patrol scrub, sweeps, sparing and channel failure. -/

namespace Sys2Proof.Machine

section
variable {h : Hw} {s : State}

theorem Hw.Wf.hdmProgram {nn} (w : h.Wf) : (h.hdmProgram nn).Wf := .ite (w.same.foldl fun w => w.same) w.same

theorem Hw.Wf.isetB {a1 nn half v slice} (w : h.Wf) : (h.isetB a1 nn half v slice).Wf := .ite w.cfgReject w.writeFields

theorem Hw.Wf.isetA {a1 nn half v slice} (w : h.Wf) : (h.isetA a1 nn half v slice).Wf := .ite w.cfgReject w.writeFields.same

theorem Hw.Wf.execIsetBWrite {who nn half v} (w : s.hw.Wf) : Kept (Machine.execIsetBWrite who nn half v s) := .onHw (w.permit fun w => w.isetB)

theorem Hw.Wf.execIsetAWrite {who nn half v} (w : s.hw.Wf) : Kept (Machine.execIsetAWrite who nn half v s) := .onHw (w.permit fun w => w.isetA)

theorem Hw.Wf.isetApplied {nn} (w : h.Wf) : (h.isetApplied nn).Wf := by
  unfold Hw.isetApplied
  extract_lets pa
  obtain _ | _ := look? h.shadow pa
  · exact w
  · exact .ite w (.ite w.same.setReg.setReg.hdmProgram w.same.cfgReject)

theorem Hw.Wf.execIsetApply {nn} (w : s.hw.Wf) : Kept (Machine.execIsetApply nn s) := .onHw w.isetApplied

theorem Hw.Wf.rcwayWrite {a1 slice idx half v} (w : h.Wf) : (h.rcwayWrite a1 slice idx half v).Wf := by
  unfold Hw.rcwayWrite
  extract_lets pa h1
  have w1 : h1.Wf := w.writeFields
  obtain _ | _ := look? h1.shadow pa
  · exact w1
  · exact w1.same

theorem Hw.Wf.execRcQuotaApply {slice p} (w : s.hw.Wf) : Kept (Machine.execRcQuotaApply slice p s) := .onHw w.applyShadow

theorem Hw.Wf.execRcScrubRead {l err} (w : s.hw.Wf) : Kept (Machine.execRcScrubRead l err s) := by
  unfold Machine.execRcScrubRead
  refine .onHw ?_
  extract_lets line
  obtain _ | _ := s.hw.rcFind line
  · exact w
  · dsimp -zeta only
    obtain _ | _ | _ | _ := err
    · exact w
    · exact w.ras
    · exact .ite w w.dirLost
    · dsimp -zeta only
      refine .ite w.rcDrop ?_
      obtain _ | _ | _ := s.hw.dirOf (dirKey line)
      · exact w.setPoison.homeErr
      · exact w.setPoison.homeErr
      · exact .ite w (.ite w.recallFenced w.openTxn)

theorem Hw.Wf.execCxlReadTimeout {l} (w : s.hw.Wf) : Kept (Machine.execCxlReadTimeout l s) := .onHw (.ite w.farLate w)

theorem Hw.Wf.discardGib {g} (w : h.Wf) : (h.discardGib g).Wf := w.same

theorem Hw.Wf.initGib {g} (w : h.Wf) : (h.initGib g).Wf := by
  have w1 : (h.discardGib g).Wf := w.discardGib
  have kept := wf_filter (fun c => decide (c.1 >>> 30 ≠ g)) _ w1
  unfold Hw.Wf Hw.initGib
  dsimp only
  split
  · exact wf_foldl_memSets _ _ _ _ kept
  · exact kept

theorem Hw.Wf.memReady {p g} (w : h.Wf) : (h.memReady p g).Wf := .ite w.raise w

theorem Hw.Wf.farEnable (w : h.Wf) : (h.farEnable).Wf := .ite (w.same.foldl fun w => w.setFld) w

theorem Hw.Wf.farHold (w : h.Wf) : (h.farHold).Wf := .ite (Hw.Wf.farEnable (w.same.foldl fun w => w.setFld)) w.same

theorem Hw.Wf.initDone {g} (w : h.Wf) : (h.initDone g).Wf := by
  unfold Hw.initDone
  obtain _ | _ := List.find? _ _
  · exact w
  · exact .ite w w.initGib.setFld.memReady.farEnable

theorem Hw.Wf.setGibOwner {g o} (w : h.Wf) : (h.setGibOwner g o).Wf := w.setReg

theorem Hw.Wf.setGibSecure {g b} (w : h.Wf) : (h.setGibSecure g b).Wf := w.setReg

theorem Hw.Wf.sweepRecall {key d} (w : h.Wf) : (h.sweepRecall key d).Wf := by
  unfold Hw.sweepRecall
  extract_lets
  refine .ite w ?_
  obtain _ | _ | _ := d
  · exact w
  · exact .ite w.setDir w.openTxn
  · exact .ite w.recallFenced w.openTxn

theorem Hw.Wf.releaseSweep {g} (w : h.Wf) : (h.releaseSweep g).Wf := w.foldl fun w => w.sweepRecall

theorem Hw.Wf.gibStart {g owner why} (w : h.Wf) : (h.gibStart g owner why).Wf := (Hw.Wf.ite w.setGibSecure w.setGibOwner).same.releaseSweep

theorem Hw.Wf.rngDone {g res} (w : h.Wf) : (h.rngDone g res).Wf := w.foldl fun w => .ite w.setFld.setFld w

theorem Hw.Wf.gibEnd {m} (w : h.Wf) : (h.gibEnd m).Wf := by
  unfold Hw.gibEnd
  extract_lets
  obtain _ | _ | _ | _ := m.why
  · exact w.same.setGibSecure.setGibOwner.rngDone.memReady
  · exact w.same.rngDone
  · exact w.same.setGibSecure.setGibOwner.rngDone
  · exact w.same.setGibOwner.memReady

theorem Hw.Wf.gibSwept {g} (w : h.Wf) : (h.gibSwept g).Wf := by
  unfold Hw.gibSwept
  obtain _ | _ := List.find? _ _
  · exact w
  · exact .ite w (.ite w.gibEnd (.ite w.discardGib.gibEnd w.discardGib.same))

theorem Hw.Wf.execMemInitGibDone {gib} (w : s.hw.Wf) : Kept (Machine.execMemInitGibDone gib s) := by
  unfold Machine.execMemInitGibDone
  refine .onHw ?_
  obtain _ | _ := List.find? _ _
  · exact w.initDone
  · exact w.initGib.gibEnd

theorem Hw.Wf.hotSlice {p op base quota a5} (w : h.Wf) : (h.hotSlice p op base quota a5).1.Wf := by
  unfold Hw.hotSlice
  extract_lets
  obtain _ | _ := List.find? _ _
  · exact w.same.agentWrite
  · exact w.same.agentWrite.homeRefusal

theorem Hw.Wf.hotsnapWrite {a1 idx half v} (w : h.Wf) : (h.hotsnapWrite a1 idx half v).Wf := by
  unfold Hw.hotsnapWrite
  extract_lets _ _ h1
  have w1 : h1.Wf := w.writeFields
  refine .ite w ?_
  refine .ite w1 ?_
  split
  · next h2 _ e =>
    have w2 : h2.Wf := by
      refine Hw.Wf.ofFst ?_ e
      refine Hw.Wf.iteFst w1 ?_
      refine Hw.Wf.foldlFst w1 fun w => ?_
      rcases e : Hw.hotSlice _ _ _ _ _ _ with ⟨_, _⟩
      exact w.hotSlice.ofFst e
    exact w2.setFld.setFld

theorem Hw.Wf.hotsnapCmd {op who nn v} (w : s.hw.Wf) : Kept (Machine.hotsnapCmd op who nn v s) := by
  unfold Machine.hotsnapCmd
  exact .onHw (w.permit fun w => w.hotsnapWrite)

theorem Hw.Wf.execHotsnapCopy {who nn v} (w : s.hw.Wf) : Kept (Machine.execHotsnapCopy who nn v s) := w.hotsnapCmd

theorem Hw.Wf.execHotsnapCopyClear {who nn v} (w : s.hw.Wf) : Kept (Machine.execHotsnapCopyClear who nn v s) := w.hotsnapCmd

theorem Hw.Wf.execHotsnapCopyHalve {who nn v} (w : s.hw.Wf) : Kept (Machine.execHotsnapCopyHalve who nn v s) := w.hotsnapCmd

theorem Hw.Wf.execHotsnapDone {nn} (w : s.hw.Wf) : Kept (Machine.execHotsnapDone nn s) := .onHw (.ite w.setFld.setFld.raise w)

theorem Hw.Wf.hotctlWrite {a1 slice idx half v} (w : h.Wf) : (h.hotctlWrite a1 slice idx half v).Wf := .ite w.writeFields w.writeFields.cfgReject

theorem Hw.Wf.memcErr {ch code sev pa loc dev} (w : h.Wf) : (h.memcErr ch code sev pa loc dev).Wf := (Hw.Wf.ite w.setReg w.record).raise

theorem Hw.Wf.devError {ch pa loc dev} (w : h.Wf) : (h.devError ch pa loc dev).Wf := by
  unfold Hw.devError
  extract_lets
  refine .ite w.memcErr ?_
  refine .ite w.same.memcErr ?_
  obtain _ | _ := List.find? _ _
  · exact w.memcErr
  · exact .ite w.memcErr w.setReg.same.memcErr

theorem Hw.Wf.uncorrectable {ch line loc} (w : h.Wf) : (h.uncorrectable ch line loc).Wf := by
  unfold Hw.uncorrectable
  extract_lets
  obtain _ | _ := h.tableRegions line
  · exact w.memcErr.dirLost
  · exact w.memcErr.foldl fun w => w.dirLost

theorem Hw.Wf.execPatrolScrubRead {l out} (w : s.hw.Wf) : Kept (Machine.execPatrolScrubRead l out s) := by
  unfold Machine.execPatrolScrubRead
  refine .onHw ?_
  obtain _ | _ := s.hw.channelOf (BitVec.toNat l)
  · exact w
  · dsimp -zeta only
    extract_lets
    refine .ite w ?_
    obtain _ | _ | _ := out
    · exact w
    · exact w.same.devError
    · exact w.uncorrectable

theorem Hw.Wf.execCorrectiveRewrite {l} (w : s.hw.Wf) : Kept (Machine.execCorrectiveRewrite l s) := .onHw (.ite w w.same)

theorem Hw.Wf.scrubWrite {a1 ch half v} (w : h.Wf) : (h.scrubWrite a1 ch half v).Wf := by
  unfold Hw.scrubWrite
  extract_lets h1
  have w1 : h1.Wf := w.writeFields
  exact .ite w1.setFld.setFld w1.setFld

theorem Hw.Wf.execDirectorySweepStart {who ch v} (w : s.hw.Wf) : Kept (Machine.execDirectorySweepStart who ch v s) := by
  unfold Machine.execDirectorySweepStart
  exact .onHw (w.permit fun w => w.scrubWrite)

theorem Hw.Wf.sweepKey {key d} (w : h.Wf) : (h.sweepKey key d).Wf := by
  unfold Hw.sweepKey
  obtain _ | _ | _ := d
  · exact w
  · exact .ite w w.setDir
  · exact .ite w.poisonLines.setDir w

theorem Hw.Wf.sweepDone {ch} (w : h.Wf) : (h.sweepDone ch).Wf := by
  unfold Hw.sweepDone
  refine .ite ?_ w
  extract_lets h1
  have w1 : h1.Wf := w.foldl fun w' => .ite w'.sweepKey w'
  exact w1.setFld

theorem Hw.Wf.execDirectorySweepDone {ch} (w : s.hw.Wf) : Kept (Machine.execDirectorySweepDone ch s) := .onHw w.sweepDone

theorem Hw.Wf.spareEnd {ch res} (w : h.Wf) : (h.spareEnd ch res).Wf := by
  unfold Hw.spareEnd
  extract_lets h1
  have w1 : h1.Wf := w.setFld.setFld.setFld
  exact .ite w1 w1.memcErr

theorem Hw.Wf.spareWrite {a1 ch half v} (w : h.Wf) : (h.spareWrite a1 ch half v).Wf := by
  unfold Hw.spareWrite
  extract_lets _ h1
  have w1 : h1.Wf := w.writeFields.setFld
  exact .ite w (.ite w1 (.ite w1.spareEnd (.ite w1.spareEnd (.ite w1.spareEnd w1.setFld))))

theorem Hw.Wf.execRankSpareStart {who ch v} (w : s.hw.Wf) : Kept (Machine.execRankSpareStart who ch v s) := by
  unfold Machine.execRankSpareStart
  exact .onHw (w.permit fun w => w.spareWrite)

theorem Hw.Wf.execRankSpareDone {ch} (w : s.hw.Wf) : Kept (Machine.execRankSpareDone ch s) := .onHw (.ite w.same.spareEnd.setFld.memcErr w)

theorem Hw.Wf.execChannelFail {ch} (w : s.hw.Wf) : Kept (Machine.execChannelFail ch s) := by
  unfold Machine.execChannelFail
  refine .onHw ?_
  extract_lets _ _ h3
  have w3 : h3.Wf := (Hw.Wf.ite w.memcErr.spareEnd w.memcErr).foldl fun w => .ite w.dirLost w
  exact w3.same

end

end Sys2Proof.Machine
end

section
/-! SUPPORT. Memory keeps its form: the hub and port translation units: address-space and device tables, contexts, and translation. -/

namespace Sys2Proof.Machine

section
variable {h : Hw}

theorem Hw.Wf.tableEntry {reg ix part world} (w : h.Wf) : Ends Hw.Wf Hw.Wf (h.tableEntry reg ix part world) := .ite (.error w) (.ite (.error w.homeRefusal) (.ite (.error w) (.ok w.send)))

theorem Hw.Wf.jobCtx {die part asid world} (w : h.Wf) : Ends Hw.Wf Hw.Wf (h.jobCtx die part asid world) := by
  unfold Hw.jobCtx
  extract_lets reg
  obtain _ | _ := List.find? _ _
  · dsimp -zeta only
    rcases e : h.tableEntry reg asid part world with _ | ⟨h1, _⟩
    · exact w.tableEntry.ofError e
    · have w1 : h1.Wf := w.tableEntry.ofOk e
      exact .ite (.error w1) (.ite (.error w1) (.ok w1.same))
  · exact .ite (.ok w) (.error w)

theorem Hw.Wf.xtlTranslate {die c va acc} (w : h.Wf) : Ends Hw.Wf Hw.Wf (h.xtlTranslate die c va acc) := by
  unfold Hw.xtlTranslate
  rcases e : Machine.translate c (look [] h.xtl die) [] va acc h with _ | ⟨h1, r⟩
  · exact w.translate.ofError e
  · have w1 : h1.Wf := w.translate.ofOk e
    dsimp -zeta only
    extract_lets
    obtain _ | _ := r.ent
    · exact .ok w1.setDs
    · exact .ok w1.setDs.same

theorem Hw.Wf.deviceCtx {port rid part} (w : h.Wf) : Ends Hw.Wf Hw.Wf (h.deviceCtx port rid part) := by
  unfold Hw.deviceCtx
  obtain ⟨s0, d⟩ := portPlace port
  dsimp -zeta only
  rcases e : h.tableEntry (h.reg RegName.XTL_DEVT s0 0 d) rid part false with ⟨h1, _⟩ | ⟨h1, _⟩
  · exact .error (w.tableEntry.ofError e)
  · have w1 : h1.Wf := w.tableEntry.ofOk e
    exact .ite (.error w1) (.ite (.error w1) (.ok w1))

end

end Sys2Proof.Machine
end

section
/-! SUPPORT. Memory keeps its form: A skim engine's memory: the engine line cache, snapshot and live reads, owned writes, the input stream, the scratchpad and the engine's own addresses. -/

namespace Sys2Proof.Machine

section
variable {h : Hw}

theorem Hw.Wf.setJob {slot j} (w : h.Wf) : (h.setJob slot j).Wf := w.same

theorem Hw.Wf.setRun {n r} (w : h.Wf) : (h.setRun n r).Wf := w.same

theorem Hw.Wf.engGiveUp {n line} (w : h.Wf) : (h.engGiveUp n line).Wf := by
  unfold Hw.engGiveUp
  extract_lets _ st
  clear_value st
  obtain _ | _ | _ | _ | _ := st
  · exact w.same
  · exact w.same
  · exact w.same.agGiveUp
  · exact w.same
  · exact w.same.agGiveUp

theorem Hw.Wf.engEvict {n sector} (w : h.Wf) : (h.engEvict n sector).Wf := w.foldl fun w => w.engGiveUp

theorem Hw.Wf.poolTouch {n sector} (w : h.Wf) : EndsHw Hw.Wf Hw.Wf (h.poolTouch n sector) := by
  unfold Hw.poolTouch
  obtain _ | _ := look? h.run n
  · exact .ok w
  · dsimp -zeta only
    refine .ite (.ok w.setRun) ?_
    refine .ite (.ok w.setRun) ?_
    obtain _ | _ := List.find? _ _
    · exact .error w
    · exact .ok w.engEvict.setRun

theorem Hw.Wf.poolUse {n sector} (w : h.Wf) : (h.poolUse n sector).Wf := by
  unfold Hw.poolUse
  obtain _ | _ := look? h.run n
  · exact w
  · exact .ite w.setRun w

theorem Hw.Wf.stageTouch {n sector} (w : h.Wf) : EndsHw Hw.Wf Hw.Wf (h.stageTouch n sector) := by
  unfold Hw.stageTouch
  obtain _ | r := look? h.run n
  · exact .ok w
  · dsimp -zeta only
    refine .ite (.ok w) ?_
    refine .ite (.ok w.setRun) ?_
    obtain _ | _ := r.outSecs.getLast?
    · exact .ok w
    · exact .ite (.error w) (.ok w.engEvict.setRun)

theorem Hw.Wf.engData {n line bad} (w : h.Wf) : (h.engData n line bad).Wf := by
  unfold Hw.engData
  obtain _ | _ := look? h.run n
  · exact w
  · dsimp -zeta only
    obtain _ | _ := takeFirst _ _
    · exact w
    · exact .ite w.setRun w.setRun

theorem Hw.Wf.engHere {n line a} (w : h.Wf) : ∀ k, h.engHere n line a = some k → k.1.Wf := by
  unfold Hw.engHere
  split
  · exact .justFst w
  split
  · exact Hw.Wf.nothing
  split
  · exact .justFst w.poolUse
  split
  · dsimp only
    split
    · exact .justFst w.poolUse.setRun
    · exact .justFst w.poolUse
  · split
    · intro k e
      obtain ⟨v, _, rfl⟩ := Option.map_eq_some_iff.mp e
      exact w
    · exact Hw.Wf.nothing

theorem Hw.Wf.engAsk {n line a} (w : h.Wf) : EndsHw Hw.Wf Hw.Wf (h.engAsk n line a) := by
  unfold Hw.engAsk
  split
  · exact .ok w
  · refine .ite (.error w.homeRefusal) (.ite (.error w) (.ite (.ok w.setRun) (.ite (.error w) (.ite ?_ ?_))))
    · refine EndsHw.bindHw (.ok w) fun w => ?_
      dsimp only
      split
      · exact .ok w
      · exact .ok w.setRun.send
    · refine w.poolTouch.bindHw fun w => ?_
      dsimp only
      split
      · exact .ok w
      · exact .ok w.setRun.send

theorem Hw.Wf.engLine {n line a3} (w : h.Wf) : Ends Hw.Wf Hw.Wf (h.engLine n line a3) := by
  unfold Hw.engLine
  rcases e : h.engHere n line a3 with _ | _
  · exact w.engAsk.bind fun w => .error w
  · exact w.engHere _ e

theorem Hw.Wf.engXlate {n va acc} (w : h.Wf) : Ends Hw.Wf Hw.Wf (h.engXlate n va acc) := by
  unfold Hw.engXlate
  obtain _ | _ := look? h.run n
  · exact .ok w
  · dsimp -zeta only
    extract_lets j
    rcases e : h.jobCtx (engXtl n) j.part j.asid j.world with _ | ⟨h, c⟩
    · exact .error (w.jobCtx.ofError e)
    · have w : h.Wf := w.jobCtx.ofOk e
      dsimp -zeta only
      rcases e2 : h.xtlTranslate (engXtl n) c (BitVec.ofNat 64 va) acc with _ | _
      · exact .error (w.xtlTranslate.ofError e2)
      · exact w.xtlTranslate.ofOk e2

theorem Hw.Wf.atVa {α} {va} {x : SkM (Hw × α)} (k : Ends Hw.Wf Hw.Wf x) : Ends Hw.Wf Hw.Wf (Machine.atVa va x) := by
  unfold Machine.atVa
  split
  · exact k
  · exact k

theorem Hw.Wf.engRead {n a fuel va len} (w : h.Wf) : Ends Hw.Wf Hw.Wf (h.engRead n a fuel va len) := by
  induction fuel generalizing h va len with
  | zero => exact .ok w
  | succ fuel ih =>
    unfold Hw.engRead
    refine .ite (.ok w) ?_
    refine w.engXlate.bind fun w => ?_
    refine (Hw.Wf.atVa w.engLine).bind fun w => ?_
    dsimp only
    exact .ite (.error w) ((ih w).bind fun w => .ok w)

theorem Hw.Wf.engStoreLine {n pa append bs} (w : h.Wf) : EndsHw Hw.Wf Hw.Wf (h.engStoreLine n pa append bs) := by
  unfold Hw.engStoreLine
  dsimp only
  obtain _ | _ := look? h.run n
  · exact .ok w
  · dsimp -zeta only
    refine .ite (.ok w.same.writeCells.poolUse) ?_
    refine .ite (.error w) ?_
    refine .ite (.error w) ?_
    refine .ite ?_ ?_
    · refine w.stageTouch.bindHw fun w' => ?_
      refine .ite ?_ ?_
      · refine .ok ?_
        refine Hw.Wf.send ?_
        obtain _ | _ := look? (Hw.run _) n
        · exact w'.same
        · exact w'.same.setRun
      refine .ok ?_
      obtain _ | _ := look? (Hw.run _) n
      · exact w'.same
      · exact w'.same.setRun
    refine w.poolTouch.bindHw fun w' => ?_
    refine .ite ?_ ?_
    · refine .ok ?_
      refine Hw.Wf.send ?_
      obtain _ | _ := look? (Hw.run _) n
      · exact w'.same
      · exact w'.same.setRun
    refine .ok ?_
    obtain _ | _ := look? (Hw.run _) n
    · exact w'.same
    · exact w'.same.setRun

theorem Hw.Wf.engStorePlan {n fuel va bs} (w : h.Wf) : Ends Hw.Wf Hw.Wf (h.engStorePlan n fuel va bs) := by
  induction fuel generalizing h va bs with
  | zero => exact .ok w
  | succ fuel ih =>
    cases bs with
    | nil => exact .ok w
    | cons b rest =>
      unfold Hw.engStorePlan
      refine w.engXlate.bind fun w => ?_
      dsimp only
      refine .ite (.error w.homeRefusal) (.ite (.error w) ?_)
      exact (ih w).bind fun w => .ok w

theorem Hw.Wf.engApply {n append plan} (w : h.Wf) : EndsHw Hw.Wf Hw.Wf (h.engApply n append plan) := by
  unfold Hw.engApply
  have applied : EndsHw Hw.Wf Hw.Wf (plan.foldlM (fun (h : Hw) p => h.engStoreLine n p.1 append p.2) h) := .foldlM w fun w => w.engStoreLine
  split
  · exact .error w
  · exact applied

theorem Hw.Wf.engWrite {n va append bs} (w : h.Wf) : EndsHw Hw.Wf Hw.Wf (h.engWrite n va append bs) := w.engStorePlan.bindHw fun w => w.engApply

theorem Hw.Wf.streamRead {n j segs fuel x len} (w : h.Wf) : Ends Hw.Wf Hw.Wf (h.streamRead n j segs fuel x len) := by
  induction fuel generalizing h x len with
  | zero => exact .ok w
  | succ fuel ih =>
    unfold Hw.streamRead
    refine .ite (.ok w) ?_
    split
    · exact .ok w
    · exact w.engRead.bind fun w => (ih w).bind fun w => .ok w

theorem Hw.Wf.spWrite {n a bs} (w : h.Wf) : (h.spWrite n a bs).Wf := w.same

theorem Hw.Wf.skRead {n bank a len} (w : h.Wf) : Ends Hw.Wf Hw.Wf (h.skRead n bank a len) := by
  unfold Hw.skRead
  split
  · exact .ok w
  · extract_lets
    split
    · next _ h0 e =>
      have w0 : h0.Wf := by
        refine Hw.Wf.ofSnd ?_ e
        split
        · exact w.fresh
        exact w
      split
      · exact .error w0
      · exact .ite (.ok w0) (.error w0)
      · exact .ok w0
      · exact w0.streamRead
      · exact w0.engRead

theorem Hw.Wf.skPlan {n bank a bs} (w : h.Wf) : Ends Hw.Wf Hw.Wf (h.skPlan n bank a bs) := by
  unfold Hw.skPlan
  obtain _ | r := look? h.run n
  · exact .ok w
  · dsimp -zeta only
    extract_lets j
    obtain _ | (_ | _ | _ | _) := skLoc j r bank a bs.length true false
    · exact .error w
    · exact .ite (.ok w) (.error w)
    · exact .ok w
    · exact .error w
    · exact w.engStorePlan.bind fun w => .ok w

theorem Hw.Wf.skApply {n p} (w : h.Wf) : EndsHw Hw.Wf Hw.Wf (h.skApply n p) := by
  unfold Hw.skApply
  obtain _ | _ | _ := p
  · exact .ok w.spWrite
  · dsimp -zeta only
    obtain _ | _ := look? h.run n
    · exact .ok w
    · exact .ok w.setRun
  · exact w.engApply

theorem Hw.Wf.skWrites {n bank l} (w : h.Wf) : EndsHw Hw.Wf Hw.Wf (h.skWrites n bank l) := by
  unfold Hw.skWrites
  refine Ends.bindHw (Ends.foldlM w fun w => w.skPlan.bind fun w => .ok w) fun {h1 plans} w => ?_
  have applied : EndsHw Hw.Wf Hw.Wf (plans.foldlM (fun (h : Hw) p => h.skApply n p) h1) := .foldlM w fun w => w.skApply
  dsimp only
  split
  · exact .error w
  · exact applied

end

end Sys2Proof.Machine
end

section
/-! SUPPORT. Memory keeps its form: skim jobs: command queues, descriptors, steering, pieces, completion, and the power of the engine line cache and the scratchpad. -/

namespace Sys2Proof.Machine

section
variable {h : Hw} {s : State}

theorem Hw.Wf.engStatus {n} (w : h.Wf) : (h.engStatus n).Wf := by
  unfold Hw.engStatus
  exact w.setReg

theorem Hw.Wf.engRaise {n} (w : h.Wf) : (h.engRaise n).Wf := w.raise

theorem Hw.Wf.setQFld {n q f v} (w : h.Wf) : (h.setQFld n q f v).Wf := w.setFld

theorem Hw.Wf.queueError {q err} (w : h.Wf) : (h.queueError q err).Wf := w.setQFld.setQFld.raise

theorem Hw.Wf.doorbell {a1 q half v} (w : h.Wf) : (h.doorbell a1 q half v).Wf := .ite w.writeFields w.queueError

theorem Hw.Wf.execDoorbell {who q half v} (w : s.hw.Wf) : Kept (Machine.execDoorbell who q half v s) := .onHw (w.permit fun w => w.doorbell)

theorem Hw.Wf.queueBaseApply {q} (w : h.Wf) : (h.queueBaseApply q).Wf := .ite w.applyShadow.setQFld.setQFld w

theorem Hw.Wf.execQueueBaseApply {q} (w : s.hw.Wf) : Kept (Machine.execQueueBaseApply q s) := .onHw (.ite w.queueBaseApply w)

theorem Hw.Wf.qctlWrite {a1 q half v} (w : h.Wf) : (h.qctlWrite a1 q half v).Wf := by
  unfold Hw.qctlWrite
  extract_lets h1
  have w1 : h1.Wf := w.writeFields
  exact .ite w1.setQFld w1

theorem Hw.Wf.execDescriptorRead (w : s.hw.Wf) : Kept (Machine.execDescriptorRead s) := by
  unfold Machine.execDescriptorRead
  refine .onHw ?_
  obtain _ | _ := s.hw.nextQueue
  · exact w
  · obtain _ | _ := s.hw.freeJob
    · exact w
    · dsimp -zeta only
      extract_lets part world _ pa h0
      obtain _ | _ := h0.agentRead part world pa 64
      · exact (Hw.Wf.ite w.same w.same.homeRefusal).setQFld.queueError
      · exact w.same.homeRequest.setQFld.setQFld.setJob.same

theorem Hw.Wf.steerWalk {j c fuel off a} (w : h.Wf) : (Hw.steerWalk j c fuel off h a).1.Wf := by
  induction fuel generalizing h off a with
  | zero => exact w
  | succ fuel ih =>
    unfold Hw.steerWalk
    refine .iteFst w ?_
    split
    · next e => exact w.xtlTranslate.ofError e
    · next h1 _ e =>
      have w1 : h1.Wf := w.xtlTranslate.ofOk e
      split
      · exact w1
      · exact ih w1

theorem Hw.Wf.dispatch {n p} (w : h.Wf) : (h.dispatch n p).Wf := .ite w.same.engStatus w.same

theorem Hw.Wf.steerWhole {slot j c} (w : h.Wf) : (h.steerWhole slot j c).Wf := by
  unfold Hw.steerWhole
  rcases e : h.xtlTranslate 0 c (BitVec.ofNat 64 j.progVa) Acc.load with ⟨h1, _⟩ | ⟨h1, pa⟩
  · exact (w.xtlTranslate.ofError e).setJob
  · have w1 : h1.Wf := w.xtlTranslate.ofOk e
    dsimp -zeta only
    obtain _ | _ := h1.steerTo j pa
    · exact w1.setJob
    · exact w1.setJob.dispatch

theorem Hw.Wf.jobSteer {slot} (w : h.Wf) : (h.jobSteer slot).Wf := by
  unfold Hw.jobSteer
  obtain _ | j := look? h.jobs slot
  · exact w
  · dsimp -zeta only
    refine .ite w ?_
    rcases e : h.jobCtx 0 j.part j.asid j.world with ⟨h1, _⟩ | ⟨h, _⟩
    · exact (w.jobCtx.ofError e).setJob
    · have w : h.Wf := w.jobCtx.ofOk e
      dsimp -zeta only
      refine .ite w.steerWhole ?_
      rcases e2 : Hw.steerWalk _ _ _ _ _ _ with ⟨h1, _⟩
      have w1 : h1.Wf := w.steerWalk.ofFst e2
      exact .ite w1.setJob (w1.setJob.foldl fun w => w.dispatch)

theorem Hw.Wf.execJobSteer {slot} (w : s.hw.Wf) : Kept (Machine.execJobSteer slot s) := .onHw w.jobSteer

theorem Hw.Wf.spZeroAll {n} (w : h.Wf) : (h.spZeroAll n).Wf := by
  unfold Hw.spZeroAll
  exact w.same.setFld

theorem Hw.Wf.rgnApply {n} (w : h.Wf) : (h.rgnApply n).Wf := by
  unfold Hw.rgnApply
  dsimp -zeta only
  extract_lets h1
  have w1 : h1.Wf := w.foldl fun w => w.applyShadow
  exact w1.foldl fun w => w.applyShadow

theorem Hw.Wf.stopRun {n p} (w : h.Wf) : (h.stopRun n p).Wf := by
  unfold Hw.stopRun
  obtain _ | _ := look? h.run n
  · exact w
  · exact w.setRun.engStatus

theorem Hw.Wf.argRead {n} (w : h.Wf) : (h.argRead n).Wf := by
  unfold Hw.argRead
  obtain _ | _ := look? h.run n
  · exact w
  · dsimp -zeta only
    extract_lets j
    refine .ite w ?_
    rcases e : h.engRead n ReadKind.snapshot 2 j.argVa 64 with (⟨h1, _ | _⟩) | ⟨h1, _⟩
    · exact w.engRead.ofError e
    · exact (w.engRead.ofError e).stopRun
    · have w1 : h1.Wf := w.engRead.ofOk e
      dsimp -zeta only
      obtain _ | _ := look? h1.run n
      · exact w1
      · exact w1.setRun

theorem Hw.Wf.pieceStart {n} (w : h.Wf) : (h.pieceStart n).Wf := by
  unfold Hw.pieceStart
  dsimp -zeta only
  obtain _ | _ := look? h.run n
  · obtain _ | _ := look [] h.engq n
    · exact w.argRead
    · exact .ite w (.ite w.spZeroAll.same w.same.rgnApply.setRun.argRead.engStatus)
  · exact w.argRead

theorem Hw.Wf.execPieceStart {n} (w : s.hw.Wf) : Kept (Machine.execPieceStart n s) := .onHw w.pieceStart

theorem Hw.Wf.pieceReport {slot num p s1 bytes} (w : h.Wf) : (h.pieceReport slot num p s1 bytes).Wf := w.setJob

theorem Hw.Wf.refillQueue {n} (w : h.Wf) : (h.refillQueue n).Wf := by
  unfold Hw.refillQueue
  obtain _ | _ := takeFirst _ _
  · exact w
  · exact w.same.dispatch

theorem Hw.Wf.pieceEnd {n} (w : h.Wf) : (h.pieceEnd n).Wf := by
  unfold Hw.pieceEnd
  obtain _ | r := look? h.run n
  · exact w
  · dsimp -zeta only
    obtain _ | _ := r.stop
    · exact w
    · dsimp -zeta only
      extract_lets j fin
      have wFin : ∀ {k0}, k0.Wf → (fin k0).Wf := by
        intro k0 w
        unfold fin
        exact w.same.pieceReport.setFld.refillQueue.engStatus
      refine .ite (wFin w) ?_
      obtain _ | c := r.chunk
      · exact .ite w (.ite (w.foldl fun w => w.engGiveUp) (.ite w (wFin w)))
      · obtain _ | _ := r.closed
        · dsimp -zeta only
          rcases e : h.engWrite n (j.outVa + 4096 * c.num) true (chunkHeader c) with (⟨h1, _ | _⟩) | h1
          · exact w.engWrite.ofError e
          · have w1 : h1.Wf := w.engWrite.ofError e
            dsimp -zeta only
            obtain _ | _ := look? h1.run n
            · exact w1
            · exact w1.setRun
          · have w1 : h1.Wf := w.engWrite.ofOk e
            dsimp -zeta only
            obtain _ | _ := look? h1.run n
            · exact w1
            · exact w1.setRun
        · exact .ite w (.ite (w.foldl fun w => w.engGiveUp) (.ite w (wFin w)))

theorem Hw.Wf.execAppendChunkRequest {n} (w : s.hw.Wf) : Kept (Machine.execAppendChunkRequest n s) := by
  unfold Machine.execAppendChunkRequest
  refine .onHw ?_
  obtain _ | _ := look? _ _
  · exact w
  · exact .ite (.ite w.setRun.setJob w.setRun) w

theorem Hw.Wf.jobDone {slot j event} (w : h.Wf) : (h.jobDone slot j event).Wf := by
  unfold Hw.jobDone
  extract_lets _ h1
  have w1 : h1.Wf := w.same.setQFld
  exact .ite w1.raise w1

theorem Hw.Wf.cplPa {j} (w : h.Wf) : TriesWf (h.cplPa j) := by
  unfold Hw.cplPa
  rcases e : h.jobCtx 0 j.part j.asid j.world with ⟨h1, _⟩ | ⟨h, c⟩
  · exact .error (w.jobCtx.ofError e)
  · have w : h.Wf := w.jobCtx.ofOk e
    dsimp -zeta only
    rcases e2 : h.xtlTranslate 0 c (BitVec.ofNat 64 j.cplVa) Acc.store with ⟨h1, _⟩ | ⟨h1, _⟩
    · exact .error (w.xtlTranslate.ofError e2)
    · have w1 : h1.Wf := w.xtlTranslate.ofOk e2
      exact .ite (.error w1.homeRefusal) (.ite (.error w1) (.ok w1))

theorem Hw.Wf.completionWrite {slot} (w : h.Wf) : (h.completionWrite slot).Wf := by
  unfold Hw.completionWrite
  obtain _ | j := look? h.jobs slot
  · exact w
  · dsimp -zeta only
    refine .ite w ?_
    refine .ite w.jobDone ?_
    rcases e : h.cplPa j with h1 | ⟨h1, _⟩
    · exact (w.cplPa.ofError e).queueError.jobDone
    · have w1 : h1.Wf := w.cplPa.ofOk e
      dsimp -zeta only
      extract_lets h2
      have w2 : h2.Wf := .ite w1 w1.setJob.agentWrite
      exact .ite w2 w2.jobDone

theorem Hw.Wf.execCompletionWrite {slot} (w : s.hw.Wf) : Kept (Machine.execCompletionWrite slot s) := .onHw w.completionWrite

theorem Hw.Wf.stopPieces {sel status} (w : h.Wf) : (h.stopPieces sel status).Wf := by
  unfold Hw.stopPieces
  extract_lets h1 h2
  have w1 : h1.Wf := by
    unfold h1
    refine w.foldl fun w => ?_
    obtain _ | _ := look? (Hw.run _) _
    · exact w
    · exact .ite w.stopRun w
  have w2 : h2.Wf := w1.foldl fun w => w.same.foldl fun w => w.pieceReport
  exact w2.same.foldl fun w => w.pieceReport

theorem Hw.Wf.execJobTimeout {slot} (w : s.hw.Wf) : Kept (Machine.execJobTimeout slot s) := by
  unfold Machine.execJobTimeout
  refine .onHw ?_
  obtain _ | _ := look? _ _
  · exact w
  · exact .ite w w.setJob.stopPieces

theorem Hw.Wf.engCancel {n status} (w : h.Wf) : (h.engCancel n status).Wf := w.stopPieces

theorem Hw.Wf.partCancel {p} (w : h.Wf) : (h.partCancel p).Wf := by
  unfold Hw.partCancel
  exact w.same.stopPieces

theorem Hw.Wf.engFenced {l} (w : h.Wf) : (h.engFenced l).Wf := by
  unfold Hw.engFenced
  refine w.foldl fun w => ?_
  split
  · exact w.engCancel.engRaise.engStatus
  · exact w

theorem Hw.Wf.execAgentFence {who engines v} (w : s.hw.Wf) : Kept (Machine.execAgentFence who engines v s) := .onHw (w.permit fun w => w.fenceSet.engFenced)

theorem Hw.Wf.elcpwrWrite {a1 n half v} (w : h.Wf) : (h.elcpwrWrite a1 n half v).Wf := by
  unfold Hw.elcpwrWrite
  exact w.writeFields.setFld.setFld

theorem Hw.Wf.execElcGroupPowerRequest {who n v} (w : s.hw.Wf) : Kept (Machine.execElcGroupPowerRequest who n v s) := by
  unfold Machine.execElcGroupPowerRequest
  split
  · exact .onHw (w.permit fun w => w.elcpwrWrite)

theorem Hw.Wf.execElcGroupCleanDone {n g} (w : s.hw.Wf) : Kept (Machine.execElcGroupCleanDone n g s) := by
  unfold Machine.execElcGroupCleanDone
  refine .onHw ?_
  dsimp -zeta only
  extract_lets _ _ h1
  have w1 : h1.Wf := w.foldl fun w => w.engGiveUp
  exact .ite w1.setFld.setFld w

theorem Hw.Wf.sppwrWrite {a1 n half v} (w : h.Wf) : (h.sppwrWrite a1 n half v).Wf := by
  unfold Hw.sppwrWrite
  exact w.writeFields.same.setFld

theorem Hw.Wf.execSpBankPowerChange {who n v} (w : s.hw.Wf) : Kept (Machine.execSpBankPowerChange who n v s) := by
  unfold Machine.execSpBankPowerChange
  split
  · exact .onHw (w.permit fun w => w.sppwrWrite)

theorem Hw.Wf.execScratchpadZeroDone {n bank} (w : s.hw.Wf) : Kept (Machine.execScratchpadZeroDone n bank s) := by
  unfold Machine.execScratchpadZeroDone
  refine .onHw ?_
  exact w.setFld

theorem Hw.Wf.hostSp {a1 n off half write v} (w : h.Wf) : (h.hostSp a1 n off half write v).1.Wf := by
  unfold Hw.hostSp
  exact Hw.Wf.iteFst w.refuseReg (Hw.Wf.iteFst w.refuseReg (Hw.Wf.iteFst w.spWrite w))

theorem Hw.Wf.execHostScratchpadAccess {who n off half write v} (w : s.hw.Wf) : Kept (Machine.execHostScratchpadAccess who n off half write v s) := by
  unfold Machine.execHostScratchpadAccess
  refine .onHw ?_
  rcases e : Hw.hostSp _ _ _ _ _ _ _ with ⟨_, _ | _⟩
  · exact (w.hostSp.ofFst e).send
  · exact (w.hostSp.ofFst e).send

end

end Sys2Proof.Machine
end

section
/-! SUPPORT. Memory keeps its form: the on-package fabric: stops, shared slots, closing domains' answers, and role epochs. -/

namespace Sys2Proof.Machine

section
variable {h : Hw} {s : State}

theorem Hw.Wf.execTreq {dst src wb} (w : s.hw.Wf) : Kept (Machine.execTreq dst src wb s) := .onHw (.ite w.arrivedBy w.arrivedBy.same.grantToks)

theorem Hw.Wf.granted {t} (w : h.Wf) : (h.granted t).Wf := by
  unfold Hw.granted
  extract_lets waits
  obtain _ | ⟨_, r⟩ := takeFirst waits h.tokWait
  · exact w.dropSlot
  · dsimp -zeta only
    extract_lets h1
    have w1 : h1.Wf := w.same.injectWith
    obtain _ | _ := List.find? waits r
    · exact w1
    · exact w1.askSlot

theorem Hw.Wf.execTgnt {dst src wb slot back} (w : s.hw.Wf) : Kept (Machine.execTgnt dst src wb slot back s) := .onHw (.ite w.arrivedBy (.ite w.arrivedBy.dropSlot w.arrivedBy.granted))

theorem Hw.Wf.execAsleep {dst src op l waking} (w : s.hw.Wf) : Kept (Machine.execAsleep dst src op l waking s) := by
  unfold Machine.execAsleep
  refine .onHw ?_
  extract_lets a
  refine .ite ?_ ?_
  · refine .ite w.arrivedBy ?_
    obtain _ | _ := opOf op.toNat
    · exact w.arrivedBy
    · exact w.arrivedBy.same
  clear_value a
  obtain _ | _ | _ | _ := a
  · exact w.arrivedBy.dieRequestEnds
  · exact w.arrivedBy
  · exact w.arrivedBy
  · exact w.arrivedBy

theorem Hw.Wf.execOpenEdge {dst src} (w : s.hw.Wf) : Kept (Machine.execOpenEdge dst src s) := by
  unfold Machine.execOpenEdge
  refine .onHw ?_
  extract_lets
  exact w.arrivedBy.same.foldl fun w => w.post

theorem Hw.Wf.showPend {die} (w : h.Wf) : (h.showPend die).Wf := w.setFld

theorem Hw.Wf.advanceEpoch {n} (w : h.Wf) : (h.advanceEpoch n).Wf := w.setFld.same.showPend

theorem Hw.Wf.execRoleChange {stop} (w : s.hw.Wf) : Kept (Machine.execRoleChange stop s) := .onHw (.ite w.advanceEpoch w)

theorem Hw.Wf.execEpochUpdate {die stop} (w : s.hw.Wf) : Kept (Machine.execEpochUpdate die stop s) := .onHw w.same.showPend

end

end Sys2Proof.Machine
end

section
/-! SUPPORT. Memory keeps its form: what the meter does with the frames of the hub's MTRX block that it acknowledges. -/

namespace Sys2Proof.Machine

section
variable {h : Hw}

theorem Hw.Wf.onMeter {f} (w : h.Wf) : (h.onMeter f).Wf := w.same

theorem Hw.Wf.mtrxDone {result} (w : h.Wf) : (h.mtrxDone result).Wf := w.setFld.setFld

theorem Hw.Wf.meterCommand {op arg} (w : h.Wf) : (h.meterCommand op arg).Wf := by
  unfold Hw.meterCommand
  split
  · exact w.onMeter
  · obtain _ | _ := look? h.meter.records arg
    · exact w.mtrxDone
    · exact w.onMeter
  · exact w.onMeter.mtrxDone
  · exact w

theorem Hw.Wf.meterAcked {f} (w : h.Wf) : (h.meterAcked f).Wf := by
  unfold Hw.meterAcked
  obtain _ | _ := f.payload
  · exact w
  · exact .ite w.same.setFld (.ite w.meterCommand w)

end

end Sys2Proof.Machine
end

section
/-! SUPPORT. Memory keeps its form: the control torus, the scrim links and the lath links. -/

namespace Sys2Proof.Machine

section
variable {h : Hw} {s : State}

theorem Hw.Wf.setLathFld {n p f v} (w : h.Wf) : (h.setLathFld n p f v).Wf := by
  unfold Hw.setLathFld
  obtain _ | _ := lathRef n p
  · exact w
  · exact w.setFld

theorem Hw.Wf.setLathBoth {n p f v} (w : h.Wf) : (h.setLathBoth n p f v).Wf := w.setLathFld.setLathFld

theorem Hw.Wf.onLath {n p f} (w : h.Wf) : (h.onLath n p f).Wf := w.same

theorem Hw.Wf.lathPump {n p} (w : h.Wf) : (h.lathPump n p).Wf := .ite w.onLath w

theorem Hw.Wf.lathSend {n p f} (w : h.Wf) : (h.lathSend n p f).Wf := w.onLath.lathPump

theorem Hw.Wf.torusHop {n f} (w : h.Wf) : (h.torusHop n f).Wf := by
  unfold Hw.torusHop
  obtain _ | _ := f.port n
  · exact w
  · exact w.lathSend

theorem Hw.Wf.torusLaunch {f} (w : h.Wf) : (h.torusLaunch f).Wf := .ite w.torusHop.torusHop w.torusHop

theorem Hw.Wf.torusNext {src dst} (w : h.Wf) : (h.torusNext src dst).Wf := by
  unfold Hw.torusNext
  extract_lets mine
  obtain _ | _ := List.find? mine h.torusTx
  · exact w
  · exact .ite w.same.torusLaunch w

theorem Hw.Wf.torusSend {src dst type p3 payload} (w : h.Wf) : (h.torusSend src dst type p3 payload).Wf := w.same.torusNext

theorem Hw.Wf.torusTrouble {source a b} (w : h.Wf) : (h.torusTrouble source a b).Wf := w.ras.raise

theorem Hw.Wf.torusAccept {f} (w : h.Wf) : (h.torusAccept f).Wf := by
  unfold Hw.torusAccept
  extract_lets k
  obtain _ | _ := look? h.torusRx k
  · exact w.same
  · exact .ite w w.same

theorem Hw.Wf.torusAck {f} (w : h.Wf) : (h.torusAck f).Wf := w.torusHop

theorem Hw.Wf.execTorusFrame {f} (w : s.hw.Wf) : Kept (Machine.execTorusFrame f s) := .onHw (.ite w (.ite w.torusAck.torusAccept (.ite w.torusAck.same w)))

theorem Hw.Wf.execTorusAcknowledgement {src dst seq} (w : s.hw.Wf) : Kept (Machine.execTorusAcknowledgement src dst seq s) := by
  unfold Machine.execTorusAcknowledgement
  refine .onHw ?_
  extract_lets mine h1
  have w1 : h1.Wf := w.same.torusNext
  obtain _ | _ := List.find? mine s.hw.torusTx
  · exact w
  · exact .ite w1.setFld.meterAcked w1

theorem Hw.Wf.meterSend {kind payload} (w : h.Wf) : (h.meterSend kind payload).Wf := w.torusSend

theorem Hw.Wf.meterUndelivered {f} (w : h.Wf) : (h.meterUndelivered f).Wf := .ite (.ite w.setFld.setFld.setFld w.setFld) w

theorem Hw.Wf.execTorusResendTimeout {src dst seq} (w : s.hw.Wf) : Kept (Machine.execTorusResendTimeout src dst seq s) := by
  unfold Machine.execTorusResendTimeout
  refine .onHw ?_
  extract_lets mine
  obtain _ | _ := List.find? mine s.hw.torusTx
  · exact w
  · exact .ite w.same.torusLaunch w.same.meterUndelivered.torusTrouble.torusNext

theorem Hw.Wf.replay {n p} (w : h.Wf) : (h.replay n p).Wf := w.setLathFld

theorem Hw.Wf.execLathEnvelope {n p lseq f crc16Ok} (w : s.hw.Wf) : Kept (Machine.execLathEnvelope n p lseq f crc16Ok s) := by
  unfold Machine.execLathEnvelope
  refine .onHw ?_
  extract_lets _ _ _ h1
  have w1 : h1.Wf := w.onLath.lathPump
  exact .ite w (.ite w.setLathFld.replay (.ite w1 (.ite w1.onLath w1.onLath.torusHop)))

theorem Hw.Wf.execLathReplayTimeout {n p} (w : s.hw.Wf) : Kept (Machine.execLathReplayTimeout n p s) := .onHw w.replay

theorem Hw.Wf.learn {n p c} (w : h.Wf) : (h.learn n p c).Wf := by
  unfold Hw.learn
  extract_lets
  obtain _ | _ := h.coordOf n
  · exact w.same
  · exact .ite w w.same.raise

theorem Hw.Wf.handshake {n p own peer coord inTime} (w : h.Wf) : (h.handshake n p own peer coord inTime).Wf := by
  unfold Hw.handshake
  extract_lets _ _ _ _ _ h2 h3 _ h3'
  have w2 : h2.Wf := w.setLathFld.setLathFld.setLathFld.setLathFld
  have w3 : h3.Wf := w2.setLathBoth.setLathBoth.lathPump.lathPump
  have w3' : h3'.Wf := w2.setLathBoth
  refine .ite w ?_
  refine .ite ?_ (.ite w3'.setLathBoth.torusTrouble w3'.setLathBoth)
  obtain _ | _ := coord
  · exact w3
  · exact w3.setLathFld.learn

theorem Hw.Wf.execLathHandshake {n p own peer coord inTime} (w : s.hw.Wf) : Kept (Machine.execLathHandshake n p own peer coord inTime s) := .onHw w.handshake

theorem Hw.Wf.execLaneSleepEntry {n p} (w : s.hw.Wf) : Kept (Machine.execLaneSleepEntry n p s) := .onHw (.ite w.setLathBoth w)

theorem Hw.Wf.lathWake {n p} (w : h.Wf) : (h.lathWake n p).Wf := .ite w.setLathBoth w

theorem Hw.Wf.execLinkChirp {n p} (w : s.hw.Wf) : Kept (Machine.execLinkChirp n p s) := .onHw w.lathWake

theorem Hw.Wf.lathRetrain {n p} (w : h.Wf) : (h.lathRetrain n p).Wf := .ite w w.setLathBoth

theorem Hw.Wf.lathUnhold {n p} (w : h.Wf) : (h.lathUnhold n p).Wf := .ite w.setLathBoth.setLathBoth w

theorem Hw.Wf.lathWrite {n p v} (w : h.Wf) : (h.lathWrite n p v).Wf := by
  unfold Hw.lathWrite
  extract_lets h1 h2
  have w1 : h1.Wf := .ite w.setLathFld.setLathFld w
  have w2 : h2.Wf := .ite w1.lathRetrain w1
  exact .ite w2.lathUnhold w2

theorem Hw.Wf.lathCmd {who n p v} (w : h.Wf) : (h.lathCmd who n p v).Wf := by
  unfold Hw.lathCmd
  obtain _ | _ := lathRef n p
  · exact w
  · exact w.permit fun w => w.lathWrite

theorem Hw.Wf.execLathRetrain {who n p} (w : s.hw.Wf) : Kept (Machine.execLathRetrain who n p s) := .onHw w.lathCmd

theorem Hw.Wf.execUnhold {who n p} (w : s.hw.Wf) : Kept (Machine.execUnhold who n p s) := .onHw w.lathCmd

theorem Hw.Wf.execLathReequalise {n p lane done} (w : s.hw.Wf) : Kept (Machine.execLathReequalise n p lane done s) := .onHw (.ite (.ite w.onLath.setLathBoth w) (.ite w.onLath.setLathBoth w))

theorem Hw.Wf.lathDown {n p} (w : h.Wf) : (h.lathDown n p).Wf := w.onLath.onLath.setLathBoth

theorem Hw.Wf.execLathLinkLoss {n p} (w : s.hw.Wf) : Kept (Machine.execLathLinkLoss n p s) := .onHw w.lathDown

theorem Hw.Wf.torusReset {n} (w : h.Wf) : (h.torusReset n).Wf := by
  unfold Hw.torusReset
  extract_lets h1
  have w1 : h1.Wf := by
    unfold h1
    refine w.foldl fun w => ?_
    extract_lets
    obtain _ | _ := lathRef n _
    · exact w.lathDown
    · exact w.lathDown.setReg
  exact w1.same

theorem Hw.Wf.setLinkFld {hp hub f v} (w : h.Wf) : (h.setLinkFld hp hub f v).Wf := .ite w.setFld w.setFld

theorem Hw.Wf.setLinkState {hp st} (w : h.Wf) : (h.setLinkState hp st).Wf := w.setLinkFld.setLinkFld

theorem Hw.Wf.linkDownEnd {hp hub st cause} (w : h.Wf) : (h.linkDownEnd hp hub st cause).Wf := w.setLinkFld.setLinkFld

theorem Hw.Wf.stopDie {die} (w : h.Wf) : (h.stopDie die).Wf := by
  unfold Hw.stopDie
  extract_lets h1
  have w1 : h1.Wf := .ite w.same w
  exact .ite w1.same w1

theorem Hw.Wf.fenceDie {die} (w : h.Wf) : (h.fenceDie die).Wf := w.fenceSet.engFenced

theorem Hw.Wf.linkLost {hp cause} (w : h.Wf) : (h.linkLost hp cause).Wf := w.linkDownEnd.linkDownEnd.fenceDie.stopDie

theorem Hw.Wf.setRmap {hp hub g rx l} (w : h.Wf) : (h.setRmap hp hub g rx l).Wf := (Hw.Wf.ite w.setReg w.setReg).setLinkFld

theorem Hw.Wf.linkSend {hp toHub cmd arg} (w : h.Wf) : (h.linkSend hp toHub cmd arg).Wf := w.same

theorem Hw.Wf.linkTaken {hp toHub cmd arg} (w : h.Wf) : (h.linkTaken hp toHub cmd arg).Wf := w.same

theorem Hw.Wf.sendAssign {hp} (w : h.Wf) : (h.sendAssign hp).Wf := w.linkSend

theorem Hw.Wf.execAssign {hp id hpArg echo} (w : s.hw.Wf) : Kept (Machine.execAssign hp id hpArg echo s) := .onHw (.ite w.linkTaken (.ite w.linkTaken.setFld.linkSend (.ite w.linkTaken w.linkTaken.setReg)))

theorem Hw.Wf.execRmap {hp toHub group dir fail0 fail1} (w : s.hw.Wf) : Kept (Machine.execRmap hp toHub group dir fail0 fail1 s) := .onHw (.ite w (.ite w.linkLost w.setRmap.setRmap))

theorem Hw.Wf.execRepair {hp toHub group pos seq echo late} (w : s.hw.Wf) : Kept (Machine.execRepair hp toHub group pos seq echo late s) := by
  unfold Machine.execRepair
  refine .onHw ?_
  extract_lets _ _ _ k
  refine .ite w ?_
  refine .ite (.ite w.linkTaken.linkLost w.linkTaken.setRmap.linkSend) ?_
  obtain _ | _ := look? s.hw.repairs k
  · exact w
  · exact .ite (.ite w.linkTaken.same.linkSend w.linkTaken.same) w

theorem Hw.Wf.linkWarn {hp g} (w : h.Wf) : (h.linkWarn hp g).Wf := w.ras

theorem Hw.Wf.execWireThreshRepair {hp atHub group pos seq eye} (w : s.hw.Wf) : Kept (Machine.execWireThreshRepair hp atHub group pos seq eye s) := by
  unfold Machine.execWireThreshRepair
  refine .onHw ?_
  extract_lets _ _ h1
  have w1 : h1.Wf := .ite w w.setLinkFld
  exact .ite w (.ite w1 (.ite (.ite w1.setRmap w1.setRmap.same.linkSend) (.ite w1.linkLost w1.linkWarn)))

theorem Hw.Wf.execSleepLink {hp toHub mode ack} (w : s.hw.Wf) : Kept (Machine.execSleepLink hp toHub mode ack s) := .onHw (.ite w.linkTaken (.ite w.linkTaken.same.linkSend (.ite w.linkTaken.same.setLinkState w.linkTaken)))

theorem Hw.Wf.startTraining {hp full} (w : h.Wf) : (h.startTraining hp full).Wf := w.same.setLinkState

theorem Hw.Wf.execRetrain {hp full} (w : s.hw.Wf) : Kept (Machine.execRetrain hp full s) := .onHw (.ite w.same.startTraining w.same)

theorem Hw.Wf.unitError {hp atHub g} (w : h.Wf) : (h.unitError hp atHub g).Wf := by
  unfold Hw.unitError
  extract_lets _ _ _ h1
  have w1 : h1.Wf := w.setLinkFld.ras
  exact .ite w1.same.linkSend.startTraining w1.same

theorem Hw.Wf.linkReset {die} (w : h.Wf) : (h.linkReset die).Wf := w.same.linkDownEnd.setLinkFld.torusReset.setFld

theorem Hw.Wf.trained {hp a2} (w : h.Wf) : (h.trained hp a2).Wf := by
  unfold Hw.trained
  obtain _ | _ := look? h.training hp
  · exact w
  · dsimp -zeta only
    obtain _ | _ := a2
    · dsimp -zeta only
      extract_lets h1
      have w1 : h1.Wf := w.same.setLinkState
      exact .ite w1.sendAssign w1
    · exact .ite w.same (.ite w.same w.same.linkLost)

theorem Hw.Wf.execLinkTrainingDone {hp a1} (w : s.hw.Wf) : Kept (Machine.execLinkTrainingDone hp a1 s) := .onHw w.trained

theorem Hw.Wf.execHeartbeatLoss {hp atHub} (w : s.hw.Wf) : Kept (Machine.execHeartbeatLoss hp atHub s) := .onHw (.ite (.ite w.linkDownEnd.fenceDie w) (.ite w.stopDie.linkDownEnd.ras.torusSend w))

theorem Hw.Wf.execScrimRecalPass {hp atHub closed} (w : s.hw.Wf) : Kept (Machine.execScrimRecalPass hp atHub closed s) := .onHw (.ite w (w.foldl fun w => .ite w.linkWarn (w.foldl fun w => .ite w.setRmap.setRmap w)))

end

end Sys2Proof.Machine
end

section
/-! SUPPORT. Memory keeps its form: power states, wakes, deep idle, supplies, clocks and thermal control. -/

namespace Sys2Proof.Machine

section
variable {h : Hw} {s : State}

theorem Hw.Wf.wakeRegs {die keep} (w : h.Wf) : (h.wakeRegs die keep).Wf := w.same

theorem Hw.Wf.sendOpens {die nn} (w : h.Wf) : (h.sendOpens die nn).Wf := by
  unfold Hw.sendOpens
  obtain _ | _ := look? h.closing (domKey die nn)
  · exact w
  · exact w.same.foldl fun w => w.send

theorem Hw.Wf.edgeSnoops {die nn} (w : h.Wf) : (h.edgeSnoops die nn).Wf := .ite w.serveHeld w

theorem Hw.Wf.reqDue {die nn act} (w : h.Wf) (kact : ∀ {k}, k.Wf → (act k).Wf) : (h.reqDue die nn act).Wf := .ite (kact w.same) w

theorem Hw.Wf.wakeOne {die nn} (w : h.Wf) : (h.wakeOne die nn).1.Wf := by
  unfold Hw.wakeOne
  extract_lets _ _ h2
  have w2 : h2.Wf := by
    unfold h2
    obtain _ | _ := fabricPort die nn
    · exact w.same
    · exact .ite w.same.same.setLinkState w.same.same
  exact Hw.Wf.iteFst w2.setCur.sendOpens.edgeSnoops w.wakeBase

theorem Hw.Wf.leaveDeep {src detail} (w : h.Wf) : (h.leaveDeep src detail).Wf := by
  unfold Hw.leaveDeep
  refine .ite ?_ w
  extract_lets h1
  have w1 : h1.Wf := w.same.foldl fun w => w.setCur
  exact w1.same.recordWake.setFld.flagsIbi

theorem Hw.Wf.wake {die nn src detail} (w : h.Wf) : (h.wake die nn src detail).Wf := by
  unfold Hw.wake
  extract_lets h0
  rcases e : h0.wakeOne die nn with ⟨h1, _⟩
  have w1 : h1.Wf := w.leaveDeep.wakeOne.ofFst e
  exact .ite (w1.recordWake.foldl fun w => w.wakeOne) (.ite w.leaveDeep.recordWake w1)

theorem Hw.Wf.cleanCore {die pcore} (w : h.Wf) : (h.cleanCore die pcore).Wf := by
  unfold Hw.cleanCore
  extract_lets h1 h2
  have w1 : h1.Wf := w.foldl fun w => w.flushOpen.wcFlush
  have w2 : h2.Wf := w1.foldl fun w => w.l2Drop
  exact w2.onCore

theorem Hw.Wf.cleanDomain {die nn} (w : h.Wf) : (h.cleanDomain die nn).Wf := by
  unfold Hw.cleanDomain
  refine .ite (w.foldl fun w => w.dieGiveUp) ?_
  extract_lets eng
  clear_value eng
  obtain _ | _ := eng
  · exact w
  · exact w.foldl fun w => w.engGiveUp

theorem Hw.Wf.holdEdge {hp on} (w : h.Wf) : (h.holdEdge hp on).Wf := w.same.setFld

theorem Hw.Wf.setAssist {die nn a} (w : h.Wf) : (h.setAssist die nn a).Wf := w.same

theorem Hw.Wf.enterState {die nn st} (w : h.Wf) : (h.enterState die nn st).Wf := by
  unfold Hw.enterState
  extract_lets _ _ h1 h2 h3
  have w1 : h1.Wf := .ite w.same.cleanCore w.same
  have w2 : h2.Wf := by
    unfold h2
    obtain _ | _ := fabricPort die nn
    · exact w1
    · exact .ite w1.holdEdge w1
  have w3 : h3.Wf := by
    unfold h3
    obtain _ | _ := Option.filter _ _
    · exact w2
    · exact w2.same
  exact (Hw.Wf.ite w3.setAssist w3).setCur.edgeSnoops

theorem Hw.Wf.actReq {die nn} (w : h.Wf) : (h.actReq die nn).Wf := .ite w.same.wake (.ite w.same (.ite w.wake.same (.ite w (.ite w.same.setFld w.setFld))))

theorem Hw.Wf.actParents {die nn} (w : h.Wf) : (h.actParents die nn).Wf := w.foldl fun w => .ite w.actReq w

theorem Hw.Wf.powerRefusal {die nn st a4} (w : h.Wf) : (h.powerRefusal die nn st a4).Wf := by
  unfold Hw.powerRefusal
  extract_lets _ _ _ h1
  have w1 : h1.Wf := .ite w.setReg (.ite w.setReg w.setReg)
  exact .ite w1.raise w1

theorem Hw.Wf.domWrite {a1 die nn half v} (w : h.Wf) : (h.domWrite a1 die nn half v).Wf := by
  unfold Hw.domWrite
  extract_lets _ _ _ _ _ _ req auto _ _ _ h1 _ h3 h4 h5 _ _ h6 _ h7
  have w1 : h1.Wf := w.writeFields
  have w3 : h3.Wf := .ite w1.setFld.setFld w1.setFld
  have w4 : h4.Wf := by
    unfold h4
    clear_value req
    split
    · exact w3.powerRefusal
    · exact w3
  have w5 : h5.Wf := by
    unfold h5
    clear_value auto
    split
    · exact w4.powerRefusal
    · exact w4
  have w6 : h6.Wf := .ite w5.same w5
  have w7 : h7.Wf := w6.foldl fun w => w.powerRefusal
  refine .ite w7.same.setFld.setFld.wake ?_
  refine .ite ?_ w6
  clear_value req
  obtain _ | _ := req
  · exact w6
  · exact .ite w6.actReq w6.actReq.setFld

theorem Hw.Wf.execDomainStateRequest {who die dom half v} (w : s.hw.Wf) : Kept (Machine.execDomainStateRequest who die dom half v s) := .onHw (.ite w (w.permit fun w => w.domWrite))

theorem Hw.Wf.execSheldSet {who die dom} (w : s.hw.Wf) : Kept (Machine.execSheldSet who die dom s) := .onHw (.ite w (w.permit fun w => w.domWrite))

theorem Hw.Wf.execDomainClosing {die dom st} (w : s.hw.Wf) : Kept (Machine.execDomainClosing die dom st s) := .onHw (.ite w (.ite (Hw.Wf.ite w.cleanDomain w).same.setCur w))

theorem Hw.Wf.dieRestored {d} (w : h.Wf) : (h.dieRestored d).Wf := w.wakeRegs.setLinkFld.setLinkState

theorem Hw.Wf.wokenUp {die nn goal} (w : h.Wf) : (h.wokenUp die nn goal).Wf := by
  unfold Hw.wokenUp
  extract_lets _ _ h2 h3 h4 h5
  have w2 : h2.Wf := w.same.setCur.setAssist
  have w3 : h3.Wf := .ite w2.wakeRegs w2
  have w4 : h4.Wf := by
    unfold h4
    obtain _ | _ := Option.filter _ _
    · exact w3
    · exact w3.wakeRegs
  have w5 : h5.Wf := by
    unfold h5
    obtain _ | _ := fabricPort die nn
    · exact w4
    · exact .ite w4.setLinkState w4
  exact w5.sendOpens.edgeSnoops.reqDue fun w => w.actReq

theorem Hw.Wf.holdIdle {die nn} (w : h.Wf) : (h.holdIdle die nn).Wf := .ite w w.cleanDomain.enterState

theorem Hw.Wf.dropTransitions {die doms} (w : h.Wf) : (h.dropTransitions die doms).Wf := by
  unfold Hw.dropTransitions
  refine w.foldl fun w => ?_
  extract_lets
  exact .ite w.sendOpens.same.setCur w.sendOpens.same

theorem Hw.Wf.entered {die nn st} (w : h.Wf) : (h.entered die nn st).Wf := Hw.Wf.actParents (w.enterState.reqDue fun w => w.actReq)

theorem Hw.Wf.closedEnters {die nn target} (w : h.Wf) : (h.closedEnters die nn target).Wf := by
  unfold Hw.closedEnters
  obtain _ | _ := Option.filter _ _
  · exact w.entered
  · exact .ite w w.same.linkSend

theorem Hw.Wf.execDomainTransitionDone {die dom} (w : s.hw.Wf) : Kept (Machine.execDomainTransitionDone die dom s) := by
  unfold Machine.execDomainTransitionDone
  refine .onHw ?_
  refine .ite w ?_
  extract_lets _ _ _ k
  refine .ite ?_ ?_
  · obtain _ | _ := look? s.hw.closing k
    · exact w
    · exact .ite (w.wakeOne.reqDue fun w => w.actReq) (.ite w w.closedEnters)
  refine .ite (.ite w (.ite (.ite w w.dieRestored) w.wokenUp)) ?_
  obtain _ | _ := look? s.hw.domGoal k
  · exact .ite w.entered w
  · exact .ite w.entered w

theorem Hw.Wf.execDomainIdleTimeout {die dom} (w : s.hw.Wf) : Kept (Machine.execDomainIdleTimeout die dom s) := .onHw (.ite w (.ite w.same w))

theorem Hw.Wf.execDomainWake {die dom src detail} (w : s.hw.Wf) : Kept (Machine.execDomainWake die dom src detail s) := .onHw (.ite w w.wake)

theorem Hw.Wf.execDieWakeFromDustSheet {die} (w : s.hw.Wf) : Kept (Machine.execDieWakeFromDustSheet die s) := by
  unfold Machine.execDieWakeFromDustSheet
  refine .onHw ?_
  extract_lets _ _ h2
  have w2 : h2.Wf := w.dieRestored.onCDie.foldl fun w => w.onCore
  exact .ite w2.setAssist.raise w

theorem Hw.Wf.releaseEdge {hp} (w : h.Wf) : (h.releaseEdge hp).Wf := .ite (w.holdEdge.setLinkState.same.setCur.sendOpens.edgeSnoops.reqDue fun w => w.actReq) w

theorem Hw.Wf.edgeWrite {half v} (w : h.Wf) : (h.edgeWrite half v).Wf := w.foldl fun w => .ite w.releaseEdge w

theorem Hw.Wf.execEdgeRelease {who half v} (w : s.hw.Wf) : Kept (Machine.execEdgeRelease who half v s) := .onHw (w.permit fun w => w.edgeWrite)

theorem Hw.Wf.timerFire {die} (w : h.Wf) : (h.timerFire die).Wf := by
  unfold Hw.timerFire
  extract_lets _ _ h1
  have w1 : h1.Wf := w.setReg.setFld
  exact .ite (.ite w1.wake.raise w1.wake) w

theorem Hw.Wf.execAoTimerFire {die} (w : s.hw.Wf) : Kept (Machine.execAoTimerFire die s) := .onHw w.timerFire

theorem Hw.Wf.execScrimWakeToggle {hp} (w : s.hw.Wf) : Kept (Machine.execScrimWakeToggle hp s) := .onHw (.ite w.wake w)

theorem Hw.Wf.execDieChirp {n p} (w : s.hw.Wf) : Kept (Machine.execDieChirp n p s) := by
  unfold Machine.execDieChirp
  refine .onHw ?_
  extract_lets
  obtain _ | _ := dieOfNode _
  · exact w.lathWake
  · exact w.lathWake.wake

theorem Hw.Wf.execDeepIdleEnter {low} (w : s.hw.Wf) : Kept (Machine.execDeepIdleEnter low s) := by
  unfold Machine.execDeepIdleEnter
  refine .onHw ?_
  extract_lets _ h1
  have w1 : h1.Wf := w.foldl fun w => w.setCur
  exact .ite w1.setCur.same.setFld.flagsIbi w

theorem Hw.Wf.execDeepIdleExit {src detail} (w : s.hw.Wf) : Kept (Machine.execDeepIdleExit src detail s) := .onHw (.ite w.leaveDeep w)

theorem Hw.Wf.wakesDue (w : h.Wf) : (h.wakesDue).Wf := w.same.foldl fun w => w.wake

theorem Hw.Wf.setF {die c f} (w : h.Wf) : (h.setF die c f).Wf := w.setFld.setFld.setAssist

theorem Hw.Wf.execClusterFrequencyStep {die cluster} (w : s.hw.Wf) : Kept (Machine.execClusterFrequencyStep die cluster s) := .onHw (.ite w (.ite w.setF (.ite w.setF w)))

theorem Hw.Wf.setCeil {die c} (w : h.Wf) : (h.setCeil die c).Wf := w.setFld

theorem Hw.Wf.execFceilUpdate {die cluster f} (w : s.hw.Wf) : Kept (Machine.execFceilUpdate die cluster f s) := .onHw w.same.setCeil.setFld

theorem Hw.Wf.execBudgetTick {nowW budgets} (w : s.hw.Wf) : Kept (Machine.execBudgetTick nowW budgets s) := by
  unfold Machine.execBudgetTick
  refine .onHw ?_
  extract_lets _ h1
  have w1 : h1.Wf := w.setFld.setFld
  exact .ite w1.same w1

theorem Hw.Wf.throttleClusters {die} (w : h.Wf) : (h.throttleClusters die).Wf := .ite (w.foldl fun w => .ite w.setF w) w

theorem Hw.Wf.thermNotify {die tmax kind} (w : h.Wf) : (h.thermNotify die tmax kind).Wf := w.notify

theorem Hw.Wf.supplyNotify {dv kind} (w : h.Wf) : (h.supplyNotify dv kind).Wf := w.notify

theorem Hw.Wf.setTemp {die tmax sensor} (w : h.Wf) : (h.setTemp die tmax sensor).Wf := w.setFld.setFld

theorem Hw.Wf.thermEvent {die} (w : h.Wf) : (h.thermEvent die).Wf := .ite w.raise w

theorem Hw.Wf.execThermalControlTick {die tmax sensor cluster} (w : s.hw.Wf) : Kept (Machine.execThermalControlTick die tmax sensor cluster s) := by
  unfold Machine.execThermalControlTick
  refine .onHw ?_
  extract_lets d _ _ _ h1 _ _ _ _ _ _ h2 _ h2' h2''
  have w1 : h1.Wf := .ite w.setTemp.setFld.thermNotify w.setTemp
  have w2 : h2.Wf := .ite w1 w1.setFld.thermEvent.thermNotify
  have w2' : h2'.Wf := w1.setFld.thermEvent.thermNotify
  have w2'' : h2''.Wf := w1.foldl fun w => w.same.setCeil
  refine .ite w ?_
  refine .ite (.ite w2.same.same.setCeil w2.same) ?_
  refine .ite (.ite (.ite w2'.same w2') w1) ?_
  obtain _ | _ := look? h1.thermTicks d
  · exact w1
  · exact .ite w1.same (.ite w2''.same w2''.same)

theorem Hw.Wf.execFastThrottle {die tmax sensor} (w : s.hw.Wf) : Kept (Machine.execFastThrottle die tmax sensor s) := .onHw (.ite w (.ite w.setTemp.setFld.throttleClusters.thermNotify w.setTemp))

theorem Hw.Wf.logicOff (w : h.Wf) : (h.logicOff).Wf := w.same

theorem Hw.Wf.hubStageLost (w : h.Wf) : (h.hubStageLost).Wf := by
  unfold Hw.hubStageLost
  rcases e : h.fresh 8 with ⟨_, _⟩
  exact (w.fresh.ofSnd e).ras.healthAlert

theorem Hw.Wf.execThermalTrip {die tmax sensor} (w : s.hw.Wf) : Kept (Machine.execThermalTrip die tmax sensor s) := .onHw (.ite w.setTemp.logicOff.ras.same.thermNotify w.setTemp)

theorem Hw.Wf.execStageCurrentSample {die permille} (w : s.hw.Wf) : Kept (Machine.execStageCurrentSample die permille s) := .onHw (.ite (.ite w.same.logicOff.hubStageLost w.same.same.stopDie) (.ite w.same.setFld.throttleClusters (.ite w.same.setFld w.same)))

theorem Hw.Wf.execVinSample {dv} (w : s.hw.Wf) : Kept (Machine.execVinSample dv s) := by
  unfold Machine.execVinSample
  refine .onHw ?_
  extract_lets _ _ _ _ _ _ _ h3
  have w3 : h3.Wf := .ite (.ite w.setFld.same.setFld w.setFld.same.setFld.same.supplyNotify.raise) (.ite w.setFld.same.same.supplyNotify w.setFld.same)
  exact .ite w3.supplyNotify.logicOff w3

end

end Sys2Proof.Machine
end

section
/-! SUPPORT. Memory keeps its form: the event router: raises, vectors, delivery to threads, credits and message-signalled events. -/

namespace Sys2Proof.Machine

section
variable {h : Hw} {s : State}

theorem Hw.Wf.setPending {a1} (w : h.Wf) : (h.setPending a1).Wf := .ite (.ite w.same w.same) (.ite w.same w.same)

theorem Hw.Wf.vecEntry {p v} (w : h.Wf) : (h.vecEntry p v).1.Wf := by
  unfold Hw.vecEntry
  extract_lets key sec _ pa
  obtain _ | _ := look? h.evCache key
  · dsimp -zeta only
    refine Hw.Wf.iteFst w ?_
    obtain _ | _ := h.agentRead p sec pa 8
    · exact .ite w w.homeRefusal
    · exact w.homeRequest.same
  · exact w

theorem Hw.Wf.evSend {a1 t level fbk} (w : h.Wf) : (h.evSend a1 t level fbk).Wf := w.same.send

theorem Hw.Wf.evFallback {a1} (w : h.Wf) : (h.evFallback a1).Wf := by
  unfold Hw.evFallback
  obtain _ | _ := h.fallback a1.inst
  · exact w
  · exact .ite w w.evSend

theorem Hw.Wf.evTry {a1} (w : h.Wf) : (h.evTry a1).Wf := by
  unfold Hw.evTry
  refine .ite w ?_
  refine .ite w.evFallback ?_
  rcases e : h.vecEntry a1.inst a1.vector with ⟨h1, _ | _⟩
  · exact (w.vecEntry.ofFst e).evFallback
  · have w1 : h1.Wf := w.vecEntry.ofFst e
    exact .ite w1.evFallback (.ite w1 (.ite w1.evFallback (.ite w1 w1.evSend)))

theorem Hw.Wf.evPump (w : h.Wf) : (h.evPump).Wf := w.foldl fun w => w.evTry

theorem Hw.Wf.raiseArrives {r} (w : h.Wf) : (h.raiseArrives r).Wf := by
  unfold Hw.raiseArrives
  extract_lets
  obtain _ | _ := r.vec
  · dsimp -zeta only
    refine .ite w ?_
    refine .ite w.setPending ?_
    split
    · exact Hw.Wf.evPump (w.foldl fun w => w.setPending)
    · refine Hw.Wf.evPump ?_
      obtain _ | _ := r.thread
      · exact w.setPending
      · exact .ite w.setPending w.setPending
    · exact w.setPending.evPump
  · exact w.setPending.evPump

theorem Hw.Wf.execEventRaise {svc} (w : s.hw.Wf) : Kept (Machine.execEventRaise svc s) := by
  unfold Machine.execEventRaise
  refine .onHw ?_
  obtain _ | _ := svc
  · dsimp -zeta only
    obtain _ | _ := s.hw.raises
    · exact w
    · exact w.same.raiseArrives
  · exact .ite w w.raiseArrives

theorem Hw.Wf.offlined {t} (w : h.Wf) : (h.offlined t).Wf := by
  unfold Hw.offlined
  dsimp -zeta only
  extract_lets _ _ h2
  have w2 : h2.Wf := w.same.foldl fun w => w.setPending
  exact w2.foldl fun w => w.setPending

theorem Hw.Wf.onlineSet {a1 v} (w : h.Wf) : (h.onlineSet a1 v).Wf := Hw.Wf.evPump (w.setReg.foldl fun w => w.offlined)

theorem Hw.Wf.onlineWrite {a1 half v} (w : h.Wf) : (h.onlineWrite a1 half v).Wf := w.onlineSet

theorem Hw.Wf.execEvrOnlineClear {who die half v} (w : s.hw.Wf) : Kept (Machine.execEvrOnlineClear who die half v s) := .onHw (w.permit fun w => w.onlineWrite)

theorem Hw.Wf.execSlotVoid {t} (w : s.hw.Wf) : Kept (Machine.execSlotVoid t s) := by
  unfold Machine.execSlotVoid
  refine .onHw ?_
  obtain _ | (⟨⟨_, _ | _⟩, _⟩) := Hw.firstFly _ _
  · exact w
  · exact w.same.onThread
  · exact w

theorem Hw.Wf.execEventMessage {t} (w : s.hw.Wf) : Kept (Machine.execEventMessage t s) := by
  unfold Machine.execEventMessage
  refine .onHw ?_
  obtain _ | (⟨⟨_, _ | _⟩, _⟩) := Hw.firstFly _ _
  · exact w
  · exact w
  · exact .ite w.same w.same.onThread

theorem Hw.Wf.execEventCreditReturn {t vector} (w : s.hw.Wf) : Kept (Machine.execEventCreditReturn t vector s) := .onHw w.same.same.evPump

theorem Hw.Wf.evDrop {p} (w : h.Wf) : (h.evDrop p).Wf := w.same

theorem Hw.Wf.evrCtlWrite {a1 p half v} (w : h.Wf) : (h.evrCtlWrite a1 p half v).Wf := by
  unfold Hw.evrCtlWrite
  extract_lets h1
  have w1 : h1.Wf := w.writeFields.setFld
  exact (Hw.Wf.ite w1.evDrop w1).evPump

theorem Hw.Wf.execEvrInvalidate {who p} (w : s.hw.Wf) : Kept (Machine.execEvrInvalidate who p s) := .onHw (w.permit fun w => w.evrCtlWrite)

theorem Hw.Wf.msgDiscard {port part world t pa data} (w : h.Wf) : (h.msgDiscard port part world t pa data).Wf := by
  unfold Hw.msgDiscard
  extract_lets
  obtain _ | _ := port
  · exact w.ras
  · exact w.ras

theorem Hw.Wf.msgRaise {part data} (w : h.Wf) : (h.msgRaise part data).Wf := w.setPending.evPump

/-- The check of the message stays a variable: the kernel is not asked to compute it. -/
theorem Hw.Wf.execMessageSignalledWrite {a pa size data} (w : s.hw.Wf) : Kept (Machine.execMessageSignalledWrite a pa size data s) := by
  refine .onHw (.ite w ?_)
  obtain ⟨check, named⟩ : ∃ check, msgCheck = check := ⟨_, rfl⟩
  rw [named]
  split
  · refine .ite w ?_
    dsimp only
    split
    · exact w.msgRaise
    · exact w.msgDiscard
  · dsimp only
    split
    · exact w.msgRaise.send
    · exact w.refuseReg.send
    · exact w.msgDiscard.send

end

end Sys2Proof.Machine
end

section
/-! SUPPORT. Memory keeps its form: the migration of a logical core to a spare physical core. -/

namespace Sys2Proof.Machine

section
variable {h : Hw}

theorem Hw.Wf.setLcmap {die c p} (w : h.Wf) : (h.setLcmap die c p).Wf := w.setReg

theorem Hw.Wf.setRole {die p role lcore} (w : h.Wf) : (h.setRole die p role lcore).Wf := w.setFld.setFld

theorem Hw.Wf.migEnd {die result} (w : h.Wf) : (h.migEnd die result).Wf := w.setReg.onCDie.raise

theorem Hw.Wf.migStart {die src dst byImage} (w : h.Wf) : (h.migStart die src dst byImage).Wf := by
  unfold Hw.migStart
  split
  · extract_lets _ _ _ _ h3
    have w3 : h3.Wf := w.setRole.setRole.setCur.setCur.setFld.foldl fun w => .ite w w.flushOpen.wcFlush.onThread
    exact w3.same.onCDie
  · exact w.migEnd

theorem Hw.Wf.copyCounters {die src dst} (w : h.Wf) : (h.copyCounters die src dst).Wf := by
  unfold Hw.copyCounters
  extract_lets h1
  have w1 : h1.Wf := w.foldl fun w => w.setReg.setReg
  exact w1.setReg

theorem Hw.Wf.migClean {die} (w : h.Wf) : (h.migClean die).Wf := by
  unfold Hw.migClean
  obtain _ | _ := (h.cdie die).migration
  · exact w
  · dsimp -zeta only
    refine .ite w ?_
    extract_lets h1
    have w1 : h1.Wf := w.foldl fun w => w.onThread
    exact w1.cleanCore.copyCounters.onCDie

theorem Hw.Wf.migLoseLines {die p} (w : h.Wf) : (h.migLoseLines die p).Wf := by
  unfold Hw.migLoseLines
  extract_lets _ _ _ h3
  have w3 : h3.Wf := w.onCDie.onCore.foldl fun w => w.l2Drop
  exact w3.onCore

theorem Hw.Wf.threadReset {t} (w : h.Wf) : (h.threadReset t).Wf := w.setThread.onlineSet

theorem Hw.Wf.migFinish {die} (w : h.Wf) : ∀ k, h.migFinish die = some k → k.1.Wf := by
  unfold Hw.migFinish
  split
  · exact Hw.Wf.nothing
  · next m _ =>
    extract_lets bad ts c h1 h2 h3 h4 h5
    have w1 : h1.Wf := .ite w.migLoseLines w
    have w3 : h3.Wf := w1.setLcmap.setRole.setRole.onCore
    have w4 : h4.Wf := .ite (w3.foldl fun w => w.threadReset) (w3.foldl fun w => w.onThread)
    have w5 : h5.Wf := w4.setCur.migEnd.evPump
    split
    · exact Hw.Wf.nothing
    · exact .justFst (.ite w5 w5.same)

theorem Hw.Wf.migrateWrite {a1 die half v} (w : h.Wf) : (h.migrateWrite a1 die half v).Wf := by
  unfold Hw.migrateWrite
  extract_lets _ _ h1
  have w1 : h1.Wf := w.writeFields.setFld
  exact .ite w (.ite w.cfgReject (.ite w1.migStart w1))

end

end Sys2Proof.Machine
end

section
/-! SUPPORT. Memory keeps its form: signed manifests, block-wise verification and the measurement registers. -/

namespace Sys2Proof.Machine

section
variable {h : Hw}

theorem Hw.Wf.setMreg {nn d} (w : h.Wf) : (h.setMreg nn d).Wf := w.foldl fun w => w.setReg

theorem Hw.Wf.mregExt {nn type d} (w : h.Wf) : (h.mregExt nn type d).Wf := w.setMreg.same

end

end Sys2Proof.Machine
end

section
/-! SUPPORT. Memory keeps its form: the structure image and the commit machine: loading, applying, confirming and rolling back, and the safe points of staged sections. -/

namespace Sys2Proof.Machine

section
variable {h : Hw} {s : State}

theorem Hw.Wf.cfgEnter {st} (w : h.Wf) : (h.cfgEnter st).Wf := w.setFld.raise

theorem Hw.Wf.cfgResult {r} (w : h.Wf) : (h.cfgResult r).Wf := w.setFld

theorem Hw.Wf.setBank {b img} (w : h.Wf) : (h.setBank b img).Wf := w.same

theorem Hw.Wf.setStaged {t b} (w : h.Wf) : (h.setStaged t b).Wf := w.setReg

theorem Hw.Wf.imgLoadReg {r v} (w : h.Wf) : (h.imgLoadReg r v).Wf := w.setReg

theorem Hw.Wf.imgLoad {img t} (w : h.Wf) : (h.imgLoad img t).Wf := by
  unfold Hw.imgLoad
  refine w.foldl fun w => ?_
  obtain _ | _ := findReg _
  · exact w
  · exact w.imgLoadReg

theorem Hw.Wf.rolesFromMap {die} (w : h.Wf) : (h.rolesFromMap die).Wf := by
  unfold Hw.rolesFromMap
  refine w.foldl fun w => ?_
  extract_lets
  obtain _ | _ := List.find? _ _
  · exact w.setRole.setCur
  · exact w.setRole

theorem Hw.Wf.takePower {img} (w : h.Wf) : (h.takePower img).Wf := w.same

theorem Hw.Wf.applyLive {img t} (w : h.Wf) : (h.applyLive img t).Wf := .ite w.imgLoad.takePower w.imgLoad

theorem Hw.Wf.ownerSend {die owner} (w : h.Wf) : (h.ownerSend die owner).Wf := w.same.setFld.meterSend

theorem Hw.Wf.idleUnowned (w : h.Wf) : (h.idleUnowned).Wf := w.same.foldl fun w => w.setCur

theorem Hw.Wf.applyAll {img} (w : h.Wf) : (h.applyAll img).Wf := by
  unfold Hw.applyAll
  extract_lets _ h1 h2 h3 _ _ h5 h6
  have w1 : h1.Wf := w.foldl fun w => w.imgLoad
  have w2 : h2.Wf := by
    unfold h2
    obtain _ | _ := h.commit.sparing
    · exact w1
    · dsimp -zeta only
      refine w1.foldl fun w => ?_
      obtain _ | _ := findReg _
      · exact w
      · exact w.setReg
  have w3 : h3.Wf := w2.foldl fun w => w.setGibOwner
  have w5 : h5.Wf := w3.same.takePower.foldl fun w => w.rolesFromMap
  have w6 : h6.Wf := w5.foldl fun w => w.ownerSend
  exact w6.idleUnowned.setReg.setReg

theorem Hw.Wf.startStaged {img t} (w : h.Wf) : (h.startStaged img t).Wf := by
  unfold Hw.startStaged
  extract_lets
  split
  · exact w.setStaged.same
  · exact w.setStaged.same
  · exact w.setStaged.foldl fun w => .ite w.same w.same
  · exact w.setStaged.same
  · exact w.setStaged.same.foldl fun w => w.engCancel
  · exact w.setStaged.foldl fun w => w.foldl fun w => w.same
  · exact w.setStaged

theorem Hw.Wf.advanceStops {a1} (w : h.Wf) : (h.advanceStops a1).Wf := by
  unfold Hw.advanceStops
  obtain _ | _ := a1
  · exact w
  · exact w.advanceEpoch.foldl fun w => w.same

theorem Hw.Wf.engMove {n o} (w : h.Wf) : (h.engMove n o).Wf := by
  unfold Hw.engMove
  extract_lets _ h2
  have w2 : h2.Wf := w.same.setReg.setFld
  exact .ite w2.holdIdle w2

theorem Hw.Wf.queuesMove {img} (w : h.Wf) : (h.queuesMove img).Wf := by
  unfold Hw.queuesMove
  refine w.foldl fun w => ?_
  extract_lets _ _ _ y
  have wY : y.Wf := w.setQFld.setQFld
  exact .ite w (.ite wY wY.setQFld)

theorem Hw.Wf.advanceDies {stops} (w : h.Wf) : (h.advanceDies stops).Wf := w.foldl fun w => w.advanceStops

theorem Hw.Wf.sparingGo {img} (w : h.Wf) : (h.sparingGo img).1.Wf := by
  unfold Hw.sparingGo
  refine Hw.Wf.foldlFst w fun w => ?_
  extract_lets
  refine .iteFst w ?_
  obtain _ | _ := List.find? _ _
  · exact w
  · exact w.migStart

theorem Hw.Wf.stagedUnits {img t} (w : h.Wf) : (h.stagedUnits img t).Wf := by
  unfold Hw.stagedUnits
  split
  · extract_lets _ _ _ h2
    have w2 : h2.Wf := w.same.foldl fun w => w.imgLoadReg
    exact w2.advanceDies
  · extract_lets _ _ _ h2
    have w2 : h2.Wf := Hw.Wf.advanceDies (w.same.foldl fun w => w.engMove)
    exact .ite w2.queuesMove w2
  · exact w

theorem Hw.Wf.awaitConfirm (w : h.Wf) : (h.awaitConfirm).Wf := w.same.setReg.cfgEnter

theorem Hw.Wf.applyStatic {img p t} (w : h.Wf) : (h.applyStatic img p t).Wf := .ite w.same (.ite w.same w)

theorem Hw.Wf.cfgCommit (w : h.Wf) : (h.cfgCommit).Wf := by
  unfold Hw.cfgCommit
  extract_lets
  dsimp -zeta only
  extract_lets _ h1
  have w1 : h1.Wf := w.same.foldl fun w => w.applyStatic
  exact w1.same.setReg.cfgResult.setReg.mregExt.cfgEnter

theorem Hw.Wf.staticAtReset {p} (w : h.Wf) : (h.staticAtReset p).Wf := by
  unfold Hw.staticAtReset
  extract_lets _ h1
  have w1 : h1.Wf := w.foldl fun w => w.applyStatic
  exact w1.same.setReg

theorem Hw.Wf.confirmCheck (w : h.Wf) : (h.confirmCheck).Wf := .ite w.cfgCommit w

theorem Hw.Wf.confirmLeave {p} (w : h.Wf) : (h.confirmLeave p).Wf := .ite w.setReg.confirmCheck w

theorem Hw.Wf.cfgNext (w : h.Wf) : (h.cfgNext).Wf := .ite w.awaitConfirm w

theorem Hw.Wf.startSections {img l} (w : h.Wf) : (h.startSections img l).Wf := by
  unfold Hw.startSections
  extract_lets h1
  have w1 : h1.Wf := w.foldl fun w => w.applyLive
  exact w1.foldl fun w => w.startStaged

theorem Hw.Wf.rollback {result} (w : h.Wf) : (h.rollback result).Wf := w.same.setReg.setReg.cfgEnter.startSections

theorem Hw.Wf.rolledBack (w : h.Wf) : (h.rolledBack).Wf := .ite w.same.setReg.setReg.setFld.cfgResult.cfgEnter w

theorem Hw.Wf.sparingStep (w : h.Wf) : (h.sparingStep).Wf := by
  unfold Hw.sparingStep
  refine .ite ?_ w
  rcases e : h.sparingGo h.activeImg with ⟨_, _ | _⟩
  · exact w.sparingGo.ofFst e
  · exact (w.sparingGo.ofFst e).rollback

theorem Hw.Wf.stagedApply {t} (w : h.Wf) : (h.stagedApply t).Wf := by
  unfold Hw.stagedApply
  refine .ite ?_ w
  extract_lets _ h1
  have w1 : h1.Wf := w.stagedUnits
  exact .ite w1.same.setStaged.cfgNext (.ite w1.sparingStep w1)

theorem Hw.Wf.cfgApply (w : h.Wf) : (h.cfgApply).Wf := w.same.setReg.setReg.setReg.setFld.cfgEnter.startSections.sparingStep.cfgNext

theorem Hw.Wf.cfgLoaded (w : h.Wf) : (h.cfgLoaded).Wf := by
  unfold Hw.cfgLoaded
  refine .ite w ?_
  obtain _ | _ := Hw.readLive _ _ _
  · exact w.cfgResult.cfgEnter
  · dsimp -zeta only
    extract_lets
    split
    · exact w.setBank.cfgResult.cfgEnter
    · exact w.setBank.cfgResult.cfgEnter

theorem Hw.Wf.cfgBit {a1 bit} (w : h.Wf) : (h.cfgBit a1 bit).Wf := by
  unfold Hw.cfgBit
  extract_lets
  split
  · exact .ite w.same.cfgEnter w.cfgReject
  · exact .ite w.cfgApply w.cfgReject
  · exact .ite w.rollback w.cfgReject
  · exact .ite w.setBank.cfgEnter w.cfgReject

theorem Hw.Wf.cfgCtlWrite {a1 v} (w : h.Wf) : (h.cfgCtlWrite a1 v).Wf := w.foldl fun w => w.cfgBit

theorem Hw.Wf.cfgCmd {bit who} (w : s.hw.Wf) : Kept (Machine.cfgCmd bit who s) := .onHw (w.permit fun w => w.cfgCtlWrite)

theorem Hw.Wf.execCfgLoad {who} (w : s.hw.Wf) : Kept (Machine.execCfgLoad who s) := w.cfgCmd

theorem Hw.Wf.execCfgLoadDone (w : s.hw.Wf) : Kept (Machine.execCfgLoadDone s) := .onHw w.cfgLoaded

theorem Hw.Wf.execCfgApply {who} (w : s.hw.Wf) : Kept (Machine.execCfgApply who s) := w.cfgCmd

theorem Hw.Wf.execCfgRollback {who} (w : s.hw.Wf) : Kept (Machine.execCfgRollback who s) := w.cfgCmd

theorem Hw.Wf.execCfgAbort {who} (w : s.hw.Wf) : Kept (Machine.execCfgAbort who s) := w.cfgCmd

theorem Hw.Wf.execStagedSectionApply {type} (w : s.hw.Wf) : Kept (Machine.execStagedSectionApply type s) := .onHw w.stagedApply

theorem Hw.Wf.execApplyTimeout (w : s.hw.Wf) : Kept (Machine.execApplyTimeout s) := .onHw (.ite w.rollback w)

theorem Hw.Wf.confirmWrite {half v} (w : h.Wf) : (h.confirmWrite half v).Wf := .ite w.setReg.confirmCheck w

theorem Hw.Wf.execCfgConfirm {who half v} (w : s.hw.Wf) : Kept (Machine.execCfgConfirm who half v s) := .onHw (w.permit fun w => w.confirmWrite)

theorem Hw.Wf.execConfirmWindowExpire (w : s.hw.Wf) : Kept (Machine.execConfirmWindowExpire s) := .onHw (.ite w.rollback w)

theorem Hw.Wf.execRollbackDone (w : s.hw.Wf) : Kept (Machine.execRollbackDone s) := .onHw w.rolledBack

theorem Hw.Wf.applyBlock {base} (w : h.Wf) : (h.applyBlock base).Wf := by
  unfold Hw.applyBlock
  refine w.foldl fun w => ?_
  obtain _ | _ := findReg _
  · exact w
  · exact .ite w.queueBaseApply w.applyShadow

theorem Hw.Wf.explicitWrite {a1 half v} (w : h.Wf) : (h.explicitWrite a1 half v).Wf := by
  unfold Hw.explicitWrite
  extract_lets h1
  have w1 : h1.Wf := w.writeFields.setFld
  exact .ite (.ite w1.cfgReject (.ite w1.cfgReject w1.applyBlock)) w1

theorem Hw.Wf.execExplicitApply {who half v} (w : s.hw.Wf) : Kept (Machine.execExplicitApply who half v s) := .onHw (w.permit fun w => w.explicitWrite)

theorem Hw.Wf.dieMove {die o} (w : h.Wf) : (h.dieMove die o).Wf := by
  unfold Hw.dieMove
  extract_lets _ _ _ h3
  have w3 : h3.Wf := w.advanceStops.same.ownerSend
  exact .ite w3 w3.wake.raise

theorem Hw.Wf.dustDie {die} (w : h.Wf) : (h.dustDie die).Wf := w.foldl fun w => w.setFld.actReq

theorem Hw.Wf.execDieLeavesPartition {die} (w : s.hw.Wf) : Kept (Machine.execDieLeavesPartition die s) := by
  unfold Machine.execDieLeavesPartition
  refine .onHw ?_
  extract_lets d
  obtain _ | _ := look? s.hw.commit.dieMoves d
  · exact w
  · exact .ite w.dieMove (.ite w (.ite (.ite w.dieMove w) w.dustDie))

theorem Hw.Wf.execGibOwnerChange {gib} (w : s.hw.Wf) : Kept (Machine.execGibOwnerChange gib s) := by
  unfold Machine.execGibOwnerChange
  refine .onHw ?_
  obtain _ | _ := look? s.hw.commit.gibQueue gib.toNat
  · exact w
  · exact .ite w w.same.gibStart

theorem Hw.Wf.execGibReleaseSweepDone {gib} (w : s.hw.Wf) : Kept (Machine.execGibReleaseSweepDone gib s) := .onHw w.gibSwept

theorem Hw.Wf.execMigrateStart {who die v} (w : s.hw.Wf) : Kept (Machine.execMigrateStart who die v s) := .onHw (w.permit fun w => w.migrateWrite)

theorem Hw.Wf.execMigrationSourceCleaned {die} (w : s.hw.Wf) : Kept (Machine.execMigrationSourceCleaned die s) := .onHw w.migClean

theorem Hw.Wf.execMigrationDone {die} (w : s.hw.Wf) : Kept (Machine.execMigrationDone die s) := by
  unfold Machine.execMigrationDone
  refine .onHw ?_
  rcases e : Hw.migFinish _ _ with _ | ⟨h1, _⟩
  · exact w
  · have w1 : h1.Wf := w.migFinish _ e
    exact .ite w1.rollback w1.sparingStep

end

end Sys2Proof.Machine
end

section
/-! SUPPORT. Memory keeps its form: the secure world outside the cores: the watchdog, the end of activations, the state of secure services, secure memory and engines, and the memory keys. -/

namespace Sys2Proof.Machine

section
variable {h : Hw} {s : State}

theorem Hw.Wf.execSecureWatchdog {t} (w : s.hw.Wf) : Kept (Machine.execSecureWatchdog t s) := by
  unfold Machine.execSecureWatchdog
  refine .onHw ?_
  obtain _ | _ := Thread.act _
  · exact w
  · exact .ite w.onThread.raise w

theorem Hw.Wf.secactWrite {a1 die pcore half v} (w : h.Wf) : (h.secactWrite a1 die pcore half v).Wf := w.writeFields.setReg

theorem Hw.Wf.execActivationEndArm {who die pcore v} (w : s.hw.Wf) : Kept (Machine.execActivationEndArm who die pcore v s) := .onHw (w.permit fun w => w.secactWrite)

theorem Hw.Wf.secureEnd {p} (w : h.Wf) : (h.secureEnd p).Wf := w.foldl fun w => w.raise

theorem Hw.Wf.swctlWrite {a1 p half v} (w : h.Wf) : (h.swctlWrite a1 p half v).Wf := by
  unfold Hw.swctlWrite
  extract_lets _ _ _ h1 h2
  have w1 : h1.Wf := w.writeFields
  have w2 : h2.Wf := .ite w1.cfgReject w1
  exact .ite w2.secureEnd w2

theorem Hw.Wf.execSecureStateWrite {who p half v} (w : s.hw.Wf) : Kept (Machine.execSecureStateWrite who p half v s) := .onHw (w.permit fun w => w.swctlWrite)

theorem Hw.Wf.rngStart {a1 p op g} (w : h.Wf) : (h.rngStart a1 p op g).Wf := .ite w (.ite w.setFld (.ite w.setFld.cfgReject w.setFld.gibStart))

theorem Hw.Wf.rngcmdWrite {a1 p half v} (w : h.Wf) : (h.rngcmdWrite a1 p half v).Wf := .ite w w.writeFields.rngStart

theorem Hw.Wf.rngCmd {op who p gib} (w : s.hw.Wf) : Kept (Machine.rngCmd op who p gib s) := by
  unfold Machine.rngCmd
  exact .onHw (w.permit fun w => w.rngcmdWrite)

theorem Hw.Wf.execMarkSecure {who p gib} (w : s.hw.Wf) : Kept (Machine.execMarkSecure who p gib s) := w.rngCmd

theorem Hw.Wf.execUnmarkSecure {who p gib} (w : s.hw.Wf) : Kept (Machine.execUnmarkSecure who p gib s) := w.rngCmd

theorem Hw.Wf.sengWrite {a1 half v} (w : h.Wf) : (h.sengWrite a1 half v).Wf := w.writeFields

theorem Hw.Wf.execSecureEngineReserve {who half v} (w : s.hw.Wf) : Kept (Machine.execSecureEngineReserve who half v s) := .onHw (w.permit fun w => w.sengWrite)

theorem Hw.Wf.drawKey {p} (w : h.Wf) : (h.drawKey p).Wf := by
  unfold Hw.drawKey
  rcases e : h.fresh 512 with ⟨_, _⟩
  exact (w.fresh.ofSnd e).same

theorem Hw.Wf.drawKeys (w : h.Wf) : (h.drawKeys).Wf := w.foldl fun w => w.drawKey

theorem Hw.Wf.rekey {p} (w : h.Wf) : (h.rekey p).Wf := w.drawKey.foldl fun w => w.gibStart

end

end Sys2Proof.Machine
end

section
/-! SUPPORT. Memory keeps its form: the Skim-2 instruction set and its compatibility mode: registers, issue, loops, delay slots, program faults, halts and restart. -/

namespace Sys2Proof.Machine

section
variable {h : Hw} {s : State}

theorem Hw.Wf.skHalt {n cause} (w : h.Wf) : (h.skHalt n cause).Wf := by
  unfold Hw.skHalt
  obtain _ | _ := look? h.run n
  · exact w
  · dsimp -zeta only
    refine .ite w ?_
    exact w.setRun.setReg.setFld.setFld.engRaise

theorem Hw.Wf.skResume {n stepping} (w : h.Wf) : (h.skResume n stepping).Wf := by
  unfold Hw.skResume
  obtain _ | _ := look? h.run n
  · exact w
  · dsimp -zeta only
    refine .ite w ?_
    exact w.setRun.setReg.setFld.setFld

theorem Hw.Wf.dbgWrite {n v} (w : h.Wf) : (h.dbgWrite n v).Wf := .ite (.ite w.skResume (.ite w.skResume w)) (.ite w.skHalt w)

theorem Hw.Wf.writeFault {n cause addr bank r} (w : h.Wf) : (h.writeFault n cause addr bank r).Wf := by
  unfold Hw.writeFault
  exact w.setReg.engRaise

theorem Hw.Wf.skCommit {n len old redirect} (w : h.Wf) : (h.skCommit n len old redirect).Wf := by
  unfold Hw.skCommit
  obtain _ | r := look? h.run n
  · exact w
  · dsimp -zeta only
    exact .ite w.setRun.skHalt w.setRun

theorem Hw.Wf.skWait {n old} (w : h.Wf) : (h.skWait n old).Wf := by
  unfold Hw.skWait
  obtain _ | _ := look? h.run n
  · exact w
  · exact w.setRun

theorem Hw.Wf.skFinish {n len old x} (kx : Ends Hw.Wf Hw.Wf x) : (Machine.skFinish n len old x).Wf := by
  unfold Machine.skFinish
  obtain (⟨h1, _ | ⟨_, f⟩⟩) | ⟨h1, _⟩ := x
  · have w1 : h1.Wf := kx
    exact w1.skWait
  · have w1 : h1.Wf := kx
    dsimp -zeta only
    extract_lets h2
    have w2 : h2.Wf := by
      unfold h2
      obtain _ | _ := f
      · exact w1
      · exact w1.writeFault
    exact w2.stopRun
  · have w1 : h1.Wf := kx
    exact w1.skCommit

theorem Hw.Wf.skIssue {n m illegal body} (w : h.Wf) (kbody : ∀ {k r j}, k.Wf → Ends Hw.Wf Hw.Wf (body k r j)) : (Machine.skIssue n m illegal body h).Wf := by
  unfold Machine.skIssue
  split
  · exact w
  · refine .ite w (.ite w.skHalt (.ite w.argRead (Hw.Wf.skFinish (.ite (.error w) (w.engRead.bind fun w => ?_)))))
    refine .ite (.error w) (.ite (.error w) ?_)
    dsimp only
    split
    · exact .ok w
    · exact kbody w.setRun

theorem Hw.Wf.progHalf {n r j pc} (w : h.Wf) : Ends Hw.Wf Hw.Wf (h.progHalf n r j pc) := .ite (.error w) (w.engRead.bind fun w => .ok w)

theorem Hw.Wf.progLen {n r j pc} (w : h.Wf) : Ends Hw.Wf Hw.Wf (h.progLen n r j pc) := w.progHalf.bind fun w => .ok w

theorem Hw.Wf.skScalar {n m illegal d f} (w : h.Wf) : (Machine.skScalar n m illegal d f h).Wf := w.skIssue fun w => .ok w.setRun

theorem Hw.Wf.execSkimAlu {n d a b func} (w : s.hw.Wf) : Kept (Machine.execSkimAlu n d a b func s) := .onHw w.skScalar

theorem Hw.Wf.execSkimAddi {n d a imm} (w : s.hw.Wf) : Kept (Machine.execSkimAddi n d a imm s) := .onHw w.skScalar

theorem Hw.Wf.execSkimLogicImmediate {n op d a imm} (w : s.hw.Wf) : Kept (Machine.execSkimLogicImmediate n op d a imm s) := .onHw w.skScalar

theorem Hw.Wf.execLis {n d a imm} (w : s.hw.Wf) : Kept (Machine.execLis n d a imm s) := .onHw w.skScalar

theorem Hw.Wf.execSkimShiftImmediate {n d a imm} (w : s.hw.Wf) : Kept (Machine.execSkimShiftImmediate n d a imm s) := .onHw w.skScalar

theorem Hw.Wf.execSkimCrc32c {n d a b size} (w : s.hw.Wf) : Kept (Machine.execSkimCrc32c n d a b size s) := .onHw w.skScalar

theorem Hw.Wf.execCrcp {n d a b size} (w : s.hw.Wf) : Kept (Machine.execCrcp n d a b size s) := by
  unfold Machine.execCrcp
  refine .onHw ?_
  refine w.skIssue fun w => ?_
  extract_lets v
  refine .ite ?_ (.ok w.setRun)
  rcases e : Hw.fresh _ v with ⟨_, _⟩
  exact .ok (w.fresh.ofSnd e).setRun

theorem Hw.Wf.execSkimBitHelper {n d a b func} (w : s.hw.Wf) : Kept (Machine.execSkimBitHelper n d a b func s) := .onHw w.skScalar

theorem Hw.Wf.execHmix {n d a b} (w : s.hw.Wf) : Kept (Machine.execHmix n d a b s) := .onHw w.skScalar

theorem Hw.Wf.execSkimLoad {n a1 d a imm} (w : s.hw.Wf) : Kept (Machine.execSkimLoad n a1 d a imm s) := by
  unfold Machine.execSkimLoad
  refine .onHw ?_
  refine w.skIssue fun w => ?_
  refine w.skRead.bind fun w => ?_
  dsimp only
  obtain _ | _ := look? _ _
  · exact .ok w
  · exact .ok w.setRun

theorem Hw.Wf.execSkimStore {n a1 d a imm} (w : s.hw.Wf) : Kept (Machine.execSkimStore n a1 d a imm s) := .onHw (w.skIssue fun w => w.skWrites.bind fun w => .ok w)

theorem Hw.Wf.execSkimVld {n d a b off} (w : s.hw.Wf) : Kept (Machine.execSkimVld n d a b off s) := by
  unfold Machine.execSkimVld
  refine .onHw (w.skIssue fun w => ?_)
  dsimp only
  refine .ite ?_ ?_
  · refine w.skRead.bind fun w => ?_
    dsimp only
    split
    · exact .ok w.setRun
    · exact .ok w
  · refine Ends.bind (Ends.foldlM w fun w => w.skRead.bind fun w => .ok w) fun w => ?_
    dsimp only
    split
    · exact .ok w.setRun
    · exact .ok w

theorem Hw.Wf.execSkimVst {n d a b off} (w : s.hw.Wf) : Kept (Machine.execSkimVst n d a b off s) := .onHw (w.skIssue fun w => w.skWrites.bind fun w => .ok w)

theorem Hw.Wf.skVector {n m illegal d f} (w : h.Wf) : (Machine.skVector n m illegal d f h).Wf := w.skIssue fun w => .ok w.setRun

theorem Hw.Wf.execSkimVectorAlu {n f func} (w : s.hw.Wf) : Kept (Machine.execSkimVectorAlu n f func s) := .onHw w.skVector

theorem Hw.Wf.execSkimVectorShift {n f func} (w : s.hw.Wf) : Kept (Machine.execSkimVectorShift n f func s) := .onHw w.skVector

theorem Hw.Wf.execVcmp {n f func} (w : s.hw.Wf) : Kept (Machine.execVcmp n f func s) := .onHw w.skScalar

theorem Hw.Wf.execVcmps {n f func} (w : s.hw.Wf) : Kept (Machine.execVcmps n f func s) := .onHw w.skScalar

theorem Hw.Wf.execVcprs {n f} (w : s.hw.Wf) : Kept (Machine.execVcprs n f s) := .onHw w.skVector

theorem Hw.Wf.execSkimVbcast {n f} (w : s.hw.Wf) : Kept (Machine.execSkimVbcast n f s) := .onHw w.skVector

theorem Hw.Wf.execVext {n f} (w : s.hw.Wf) : Kept (Machine.execVext n f s) := .onHw w.skScalar

theorem Hw.Wf.execVins {n f} (w : s.hw.Wf) : Kept (Machine.execVins n f s) := .onHw w.skVector

theorem Hw.Wf.execVhmix {n f} (w : s.hw.Wf) : Kept (Machine.execVhmix n f s) := .onHw w.skVector

theorem Hw.Wf.execVcrc32c {n f} (w : s.hw.Wf) : Kept (Machine.execVcrc32c n f s) := .onHw w.skScalar

theorem Hw.Wf.execDlook {n f} (w : s.hw.Wf) : Kept (Machine.execDlook n f s) := by
  unfold Machine.execDlook
  refine .onHw ?_
  refine w.skIssue fun w => ?_
  extract_lets
  refine .ite (.error w) ?_
  obtain _ | _ := List.find? _ _
  · exact .ok w.setRun
  · exact .error w

theorem Hw.Wf.srdValue {r j sr} (w : h.Wf) : ∀ k, Machine.srdValue h r j sr = some k → k.1.Wf := by
  unfold Machine.srdValue
  split
  case h_5 => exact .justFst (w.fresh (a1 := 64))
  case h_17 =>
    split
    · exact .justFst w
    · exact Hw.Wf.nothing
  all_goals exact .justFst w

theorem Hw.Wf.execSrd {n d sr} (w : s.hw.Wf) : Kept (Machine.execSrd n d sr s) := by
  unfold Machine.execSrd
  refine .onHw ?_
  refine w.skIssue fun w => ?_
  rcases e : Machine.srdValue _ _ _ sr.toNat with _ | _
  · exact .error w
  · exact .ok (w.srdValue _ e).setRun

theorem Hw.Wf.execSwr {n sr a} (w : s.hw.Wf) : Kept (Machine.execSwr n sr a s) := by
  unfold Machine.execSwr
  refine .onHw ?_
  refine w.skIssue fun w => ?_
  obtain _ | _ := swrRun _ sr.toNat (EngRun.readS _ a)
  · exact .error w
  · exact .ok w.setRun

theorem Hw.Wf.advanceBody {n amount a2 r j} (w : h.Wf) : Ends Hw.Wf Hw.Wf (Machine.advanceBody n amount a2 h r j) := .ite (.error w) (.ok w.setRun)

theorem Hw.Wf.execSadv {n a imm} (w : s.hw.Wf) : Kept (Machine.execSadv n a imm s) := .onHw (w.skIssue fun w => w.advanceBody)

theorem Hw.Wf.emitInto {n j c bs} (w : h.Wf) : Ends Hw.Wf Hw.Wf (h.emitInto n j c bs) := by
  unfold Hw.emitInto
  refine w.engWrite.bind fun w => ?_
  obtain _ | _ := look? (Hw.run _) n
  · exact .ok w
  · exact .ok w.setRun

theorem Hw.Wf.emit {n r j bs} (w : h.Wf) : Ends Hw.Wf Hw.Wf (h.emit n r j bs) := by
  unfold Hw.emit
  extract_lets fits off res
  have emitted : Ends Hw.Wf Hw.Wf res := by
    unfold res
    clear_value fits
    split
    · exact w.emitInto
    split
    · exact .ite (.error w) (.error w)
    dsimp only
    split
    · refine w.engWrite.bind fun w => ?_
      split
      · exact w.setRun.emitInto
      · exact .ok w
    · refine EndsHw.bind (.ok w) fun w => ?_
      split
      · exact w.setRun.emitInto
      · exact .ok w
  clear_value res
  split
  · exact .error w
  · exact emitted

theorem Hw.Wf.execEmitv {n a imm} (w : s.hw.Wf) : Kept (Machine.execEmitv n a imm s) := .onHw (w.skIssue fun w => .ite (.error w) w.emit)

theorem Hw.Wf.execEmitm {n a b} (w : s.hw.Wf) : Kept (Machine.execEmitm n a b s) := by
  unfold Machine.execEmitm
  refine .onHw ?_
  refine w.skIssue fun w => ?_
  extract_lets
  refine .ite (.error w) ?_
  refine w.skRead.bind fun w => ?_
  dsimp only
  obtain _ | _ := look? _ _
  · exact .ok w
  · exact w.emit

theorem Hw.Wf.sectorRead {n va a} (w : h.Wf) : EndsHw Hw.Wf Hw.Wf (h.sectorRead n va a) := by
  unfold Hw.sectorRead
  refine w.engXlate.bindHw fun w => EndsHw.foldlM w fun w => ?_
  dsimp only
  split
  · next e => exact .ok (w.engHere _ e)
  · exact .ite (.ok w) w.engAsk

theorem Hw.Wf.sectorBody {n a lock r j} (w : h.Wf) : Ends Hw.Wf Hw.Wf (Machine.sectorBody n a lock h r j) := by
  unfold Machine.sectorBody
  extract_lets
  refine .ite (.error w) ?_
  obtain _ | _ := r.window r.bankCur
  · exact .error w
  · exact .ite (.error w) (w.sectorRead.bind fun w => .ok w)

theorem Hw.Wf.execPref {n a} (w : s.hw.Wf) : Kept (Machine.execPref n a s) := .onHw (w.skIssue fun w => w.sectorBody)

theorem Hw.Wf.execPlock {n a} (w : s.hw.Wf) : Kept (Machine.execPlock n a s) := .onHw (w.skIssue fun w => w.sectorBody)

theorem Hw.Wf.condBody {n len reads taken an target r j} (w : h.Wf) : Ends Hw.Wf Hw.Wf (Machine.condBody n len reads taken an target h r j) := .ite (.ok w.setRun) (w.progLen.bind fun w => .ite (.ok w.setRun) (.ite (.ok w.setRun) (.ok w.setRun)))

theorem Hw.Wf.execSkimBranch {n c a b an off} (w : s.hw.Wf) : Kept (Machine.execSkimBranch n c a b an off s) := .onHw (w.skIssue fun w => .ite (.error w) w.condBody)

theorem Hw.Wf.jumpBody {n d reads target r j} (w : h.Wf) : Ends Hw.Wf Hw.Wf (Machine.jumpBody n d reads target h r j) := .ite (.ok w.setRun) (w.progLen.bind fun w => .ok w.setRun)

theorem Hw.Wf.execSkimJal {n d off} (w : s.hw.Wf) : Kept (Machine.execSkimJal n d off s) := .onHw (w.skIssue fun w => w.jumpBody)

theorem Hw.Wf.execSkimJalr {n d a} (w : s.hw.Wf) : Kept (Machine.execSkimJalr n d a s) := .onHw (w.skIssue fun w => w.jumpBody)

theorem Hw.Wf.endBody {n r a3} (w : h.Wf) : Ends Hw.Wf Hw.Wf (Machine.endBody n h r a3) := .ok w.setRun

theorem Hw.Wf.execSkEnd {n} (w : s.hw.Wf) : Kept (Machine.execSkEnd n s) := .onHw (Hw.Wf.engStatus (w.skIssue fun w => w.endBody))

theorem Hw.Wf.progWord {n r j pc} (w : h.Wf) : Ends Hw.Wf Hw.Wf (h.progWord n r j pc) := .ite (.ok w) (w.progHalf.bind fun w => .ite (.ite (.ok w) (w.progHalf.bind fun w => .ok w)) (.ok w))

theorem Hw.Wf.execLoop {n z lvl a off} (w : s.hw.Wf) : Kept (Machine.execLoop n z lvl a off s) := by
  unfold Machine.execLoop
  refine .onHw ?_
  refine w.skIssue fun w => ?_
  extract_lets
  refine .ite (.error w) ?_
  refine w.progWord.bind fun w => ?_
  dsimp only
  refine .ite (.error w) ?_
  refine .ite (.ok w) ?_
  obtain _ | _ := look? _ _
  · exact .ok w
  · exact .ok w.setRun

theorem Hw.Wf.execCMv {n d a} (w : s.hw.Wf) : Kept (Machine.execCMv n d a s) := .onHw w.skScalar

theorem Hw.Wf.execCAlu {n op d a} (w : s.hw.Wf) : Kept (Machine.execCAlu n op d a s) := .onHw w.skScalar

theorem Hw.Wf.execCSadv {n d a} (w : s.hw.Wf) : Kept (Machine.execCSadv n d a s) := .onHw (w.skIssue fun w => w.advanceBody)

theorem Hw.Wf.execCNop {n a} (w : s.hw.Wf) : Kept (Machine.execCNop n a s) := .onHw (w.skIssue fun w => .ok w)

theorem Hw.Wf.execCEnd {n a} (w : s.hw.Wf) : Kept (Machine.execCEnd n a s) := .onHw (Hw.Wf.engStatus (w.skIssue fun w => w.endBody))

theorem Hw.Wf.setbankBody {n bank r a4} (w : h.Wf) : Ends Hw.Wf Hw.Wf (Machine.setbankBody n bank h r a4) := .ok w.setRun

theorem Hw.Wf.execCSetbank {n z bank} (w : s.hw.Wf) : Kept (Machine.execCSetbank n z bank s) := .onHw (w.skIssue fun w => w.setbankBody)

theorem Hw.Wf.execCAddi {n d imm} (w : s.hw.Wf) : Kept (Machine.execCAddi n d imm s) := by
  unfold Machine.execCAddi
  refine .onHw ?_
  split
  · exact w.skIssue fun w => w.setbankBody
  · exact w.skScalar

theorem Hw.Wf.execCBeqz {n a an off} (w : s.hw.Wf) : Kept (Machine.execCBeqz n a an off s) := .onHw (w.skIssue fun w => w.condBody)

theorem Hw.Wf.execCBnez {n a an off} (w : s.hw.Wf) : Kept (Machine.execCBnez n a an off s) := .onHw (w.skIssue fun w => w.condBody)

theorem Hw.Wf.skUnassignedAt {n a2} (w : h.Wf) : (h.skUnassignedAt n a2).Wf := .ite (w.skIssue fun w => .ok w) w

theorem Hw.Wf.dbgCmd {who n v} (w : s.hw.Wf) : Kept (Machine.dbgCmd who n v s) := by
  unfold Machine.dbgCmd
  split
  · exact .onHw (w.permit fun w => w.dbgWrite)

theorem Hw.Wf.execHalt {who n} (w : s.hw.Wf) : Kept (Machine.execHalt who n s) := w.dbgCmd

theorem Hw.Wf.execResume {who n} (w : s.hw.Wf) : Kept (Machine.execResume who n s) := w.dbgCmd

theorem Hw.Wf.execStep {who n} (w : s.hw.Wf) : Kept (Machine.execStep who n s) := w.dbgCmd

theorem Hw.Wf.execBreakpointHalt {n} (w : s.hw.Wf) : Kept (Machine.execBreakpointHalt n s) := .onHw (.ite w.skHalt w)

theorem Hw.Wf.execDebugPortHalt {n} (w : s.hw.Wf) : Kept (Machine.execDebugPortHalt n s) := .onHw w.skHalt

end

end Sys2Proof.Machine
end

section
/-! SUPPORT. Memory keeps its form: the resets of cold, package, partition, die and core scope. -/

namespace Sys2Proof.Machine

section
variable {h : Hw} {s : State}

theorem Hw.Wf.mapRegs {sel f} (w : h.Wf) : (h.mapRegs sel f).Wf := by
  unfold Hw.mapRegs
  refine w.foldl fun w => ?_
  obtain _ | _ := findReg _
  · exact w
  · exact .ite w.setReg w

theorem Hw.Wf.fuseRegs (w : h.Wf) : (h.fuseRegs).Wf := w.setFld.setFld

theorem Hw.Wf.cfgWarm (w : h.Wf) : (h.cfgWarm).Wf := .ite w.setBank (.ite w.setFld.setReg.setReg w)

theorem Hw.Wf.warmReset : (h.warmReset).Wf := by
  unfold Hw.warmReset
  extract_lets _ _ h1 h2
  have w1 : h1.Wf := .blank rfl
  have w2 : h2.Wf := w1.mapRegs.fuseRegs
  exact (Hw.Wf.ite w2.cfgResult w2).drawKeys.flagsIbi

theorem Hw.Wf.coldReset : (h.coldReset).Wf := (Hw.Wf.blank rfl).fuseRegs.drawKeys.flagsIbi

theorem Hw.Wf.execColdReset : Kept (Machine.execColdReset s) := .onHw Hw.Wf.coldReset

theorem Hw.Wf.execPackageWarmReset (w : s.hw.Wf) : Kept (Machine.execPackageWarmReset s) := .onHw (.ite w Hw.Wf.warmReset)

theorem Hw.Wf.resetRegs {a1 sel} (w : h.Wf) : (h.resetRegs a1 sel).Wf := w.mapRegs.same

theorem Hw.Wf.cleanDie {die} (w : h.Wf) : (h.cleanDie die).Wf := by
  unfold Hw.cleanDie
  extract_lets h1 h2 h3
  have w1 : h1.Wf := w.foldl fun w => w.cleanCore
  have w2 : h2.Wf := w1.foldl fun w => w.dieGiveUp
  have w3 : h3.Wf := w2.foldl fun w => w.answer
  exact w3.onCDie

theorem Hw.Wf.resetThreads {die} (w : h.Wf) : (h.resetThreads die).Wf := w.same

theorem Hw.Wf.resetRouter {p} (w : h.Wf) : (h.resetRouter p).Wf := w.evDrop.same

theorem Hw.Wf.portReset {n} (w : h.Wf) : (h.portReset n).Wf := w.portDown.same

theorem Hw.Wf.partResetNow {p} (w : h.Wf) : (h.partResetNow p).Wf := by
  unfold Hw.partResetNow
  extract_lets _ _ h0 _ h2 h3 _ h5 h6 _ _ h9
  have w0 : h0.Wf := w.foldl fun w => .ite w.portReset w
  have w2 : h2.Wf := w0.staticAtReset.partCancel.foldl fun w => w.cleanDie
  have w3 : h3.Wf := Hw.Wf.resetRouter (w2.foldl fun w => w.resetThreads)
  have w5 : h5.Wf := Hw.Wf.foldl (w3.resetRegs.foldl fun w => w.dropTransitions) fun w => w.dropTransitions
  have w6 : h6.Wf := w5.foldl fun w => w.onCDie.rolesFromMap
  have w9 : h9.Wf := w6.setFld.setMreg.same.confirmLeave
  exact .ite w9.rekey w9

theorem Hw.Wf.partReset {p} (w : h.Wf) : (h.partReset p).Wf := by
  unfold Hw.partReset
  extract_lets h1 x
  have w1 : h1.Wf := w.partCancel.foldl fun w => w.pieceEnd
  have wX : x.Wf := w1.foldl fun w => w.resetThreads
  exact .ite wX.same w1.partResetNow

theorem Hw.Wf.ucodeDue {n was} (w : h.Wf) : (h.ucodeDue n was).Wf := by
  unfold Hw.ucodeDue
  exact .ite w.setFld w

theorem Hw.Wf.pieceEnds {n} (w : h.Wf) : (h.pieceEnds n).Wf := w.pieceEnd.ucodeDue.foldl fun w => w.partResetNow

theorem Hw.Wf.execPieceEnd {n word} (w : s.hw.Wf) : Kept (Machine.execPieceEnd n word s) := by
  unfold Machine.execPieceEnd
  split
  · exact .onHw w.skUnassignedAt
  · exact .onHw w.pieceEnds

theorem Hw.Wf.execPartitionReset {p} (w : s.hw.Wf) : Kept (Machine.execPartitionReset p s) := .onHw w.partReset

theorem Hw.Wf.forgetDie {die} (w : h.Wf) : (h.forgetDie die).Wf := by
  unfold Hw.forgetDie
  extract_lets _ h1
  have w1 : h1.Wf := w.foldl fun w => w.setPoison
  exact w1.same

theorem Hw.Wf.resetPortDie {die} (w : h.Wf) : (h.resetPortDie die).Wf := by
  unfold Hw.resetPortDie
  extract_lets _ h1
  have w1 : h1.Wf := Hw.Wf.foldl (w.foldl fun w => w.portReset) fun w => w.engCancel
  exact w1.same

theorem Hw.Wf.dieReset {die} (w : h.Wf) : (h.dieReset die).Wf := by
  unfold Hw.dieReset
  refine .ite (.ite w Hw.Wf.warmReset) ?_
  extract_lets _ _ _ _ h3
  have w3 : h3.Wf := (Hw.Wf.ite (Hw.Wf.ite w.onlineSet w.onlineSet.forgetDie).same.resetThreads w.resetPortDie).resetRegs.dropTransitions.linkReset.setLinkFld
  exact .ite w3.rolesFromMap w3

theorem Hw.Wf.execDieReset {die} (w : s.hw.Wf) : Kept (Machine.execDieReset die s) := .onHw w.dieReset

theorem Hw.Wf.coreReset {die pcore} (w : h.Wf) : (h.coreReset die pcore).Wf := by
  unfold Hw.coreReset
  extract_lets _ _ h2
  have w2 : h2.Wf := w.cleanCore.foldl fun w => w.threadReset
  exact w2.resetRegs

theorem Hw.Wf.execCoreReset {die pcore} (w : s.hw.Wf) : Kept (Machine.execCoreReset die pcore s) := .onHw w.coreReset

end

end Sys2Proof.Machine
end

section
/-! SUPPORT. Memory keeps its form: boot: the Primer, the Sizing loader, the boot GiBs, recovery, the fuses and the flash. -/

namespace Sys2Proof.Machine

section
variable {h : Hw} {s : State}

theorem Hw.Wf.flashProgram {slot off bs} (w : h.Wf) : (h.flashProgram slot off bs).Wf := w.same

theorem Hw.Wf.flashErase {slot off} (w : h.Wf) : (h.flashErase slot off).Wf := w.same

theorem Hw.Wf.setBoot {f v} (w : h.Wf) : (h.setBoot f v).Wf := w.setFld.setReg

theorem Hw.Wf.setPhase {p} (w : h.Wf) : (h.setPhase p).Wf := w.setFld.flagsIbi

theorem Hw.Wf.bootNotify {flags} (w : h.Wf) : (h.bootNotify flags).Wf := w.notify

theorem Hw.Wf.trySlots {bad l} (w : h.Wf) : (Hw.trySlots bad l h).1.Wf := by
  induction l generalizing h with
  | nil => exact w
  | cons a l ih => exact .iteFst w.setBoot (ih w.setBoot)

theorem Hw.Wf.enterRecovery {stop} (w : h.Wf) : (h.enterRecovery stop).Wf := w.setBoot.same.setPhase.notify

theorem Hw.Wf.primed {slot} (w : h.Wf) : (h.primed slot).Wf := by
  unfold Hw.primed
  extract_lets m _ _ _ _ h3 _ h5
  have w3 : h3.Wf := w.same.setBoot.setBoot.setBoot.setBoot.setBoot
  have w5 : h5.Wf := by
    unfold h5
    obtain _ | _ := compOf m 1 0
    · exact w3.mregExt
    · exact w3.mregExt.mregExt
  exact w5.setPhase

theorem Hw.Wf.primer {bad} (w : h.Wf) : (h.primer bad).Wf := by
  unfold Hw.primer
  refine .ite w ?_
  refine .ite w.enterRecovery ?_
  extract_lets h1
  have w1 : h1.Wf := w.foldl fun w => w.setBoot
  rcases e : Hw.trySlots bad h1.slotOrder h1 with ⟨_, _ | _⟩
  · exact (w1.trySlots.ofFst e).enterRecovery
  · exact (w1.trySlots.ofFst e).primed

theorem Hw.Wf.execPrimerStart {bad} (w : s.hw.Wf) : Kept (Machine.execPrimerStart bad s) := .onHw w.primer

theorem Hw.Wf.bootRestart : (h.bootRestart).Wf := by
  unfold Hw.bootRestart
  extract_lets z _ _ _ z1 _ z2
  have wz : z.Wf := Hw.Wf.warmReset
  have w1 : z1.Wf := wz.same
  have w2 : z2.Wf := w1.foldl fun w => w.foldl fun w => w.setReg
  exact w2.setBoot.setPhase

theorem Hw.Wf.bootFail {reason} : (h.bootFail reason).Wf := Hw.Wf.bootRestart

theorem Hw.Wf.execBootRestart {reason} (w : s.hw.Wf) : Kept (Machine.execBootRestart reason s) := .onHw (.ite Hw.Wf.bootFail w)

theorem Hw.Wf.notifyExcluded {kind ix code} (w : h.Wf) : (h.notifyExcluded kind ix code).Wf := w.notify

theorem Hw.Wf.discover {hp r} (w : h.Wf) : (h.discover hp r).Wf := by
  unfold Hw.discover
  exact .ite w.setReg.setLinkState.setFld w.setReg.linkDownEnd.linkDownEnd.notifyExcluded

theorem Hw.Wf.sizingStop {stop} (w : h.Wf) : (h.sizingStop stop).Wf := w.setBoot.setPhase.bootNotify

theorem Hw.Wf.trainChannels {m} (w : h.Wf) : (h.trainChannels m).Wf := by
  unfold Hw.trainChannels
  extract_lets _ _ _ _ h1 _ _ h2
  have w1 : h1.Wf := w.foldl fun w => w.memcErr
  rcases e : h2.fresh 8 with ⟨_, _⟩
  dsimp -zeta only
  extract_lets h4
  have w4 : h4.Wf := (w1.same.fresh.ofSnd e).foldl fun w => w.notifyExcluded
  exact .ite w4 w4.raise

theorem Hw.Wf.mapDevice {n ident} (w : h.Wf) : (h.mapDevice n ident).Wf := by
  unfold Hw.mapDevice
  obtain _ | _ := h.portReport n
  · exact w
  · exact .ite w.notifyExcluded.same w.same

theorem Hw.Wf.trainPorts {m} (w : h.Wf) : (h.trainPorts m).Wf := w.same.foldl fun w => w.mapDevice

theorem Hw.Wf.programHdm {m} (w : h.Wf) : (h.programHdm m).Wf := by
  unfold Hw.programHdm
  extract_lets _ _ h1 _ h3
  have w1 : h1.Wf := w.foldl fun w => w.same.notifyExcluded
  have w3 : h3.Wf := (Hw.Wf.ite w1 w1.raise).foldl fun w => w.hdmProgram
  exact w3.same

theorem Hw.Wf.checkWidths (w : h.Wf) : (h.checkWidths).Wf := w.foldl fun w => .ite w w.same.notifyExcluded

theorem Hw.Wf.stageBoot {slot p undercoat} (w : h.Wf) : (h.stageBoot slot p undercoat).Wf := by
  unfold Hw.stageBoot
  obtain _ | _ := h.bootGibOf p
  · exact w
  · exact w.same

theorem Hw.Wf.loadFirmware (w : h.Wf) : (h.loadFirmware).Wf := by
  unfold Hw.loadFirmware
  rcases e : h.fresh 32 with ⟨_, h1⟩
  dsimp -zeta only
  rcases e2 : h1.fresh 32 with ⟨_, h1⟩
  dsimp -zeta only
  rcases e3 : h1.fresh 32 with ⟨_, _⟩
  dsimp -zeta only
  extract_lets h4 h5
  have w4 : h4.Wf := (((w.fresh.ofSnd e).fresh.ofSnd e2).fresh.ofSnd e3).foldl fun w => w.setFld
  have w5 : h5.Wf := w4.foldl fun w => w.setFld
  exact w5.foldl fun w => w.setFld

theorem Hw.Wf.dropSets (w : h.Wf) : (h.dropSets).Wf := w.foldl fun w => .ite w.setFld w

theorem Hw.Wf.bootMregs {img} (w : h.Wf) : (h.bootMregs img).Wf := by
  unfold Hw.bootMregs
  extract_lets h1 h2
  have w2 : h2.Wf := by
    unfold h2
    obtain _ | _ := compOf h1.boot.manifest 3 0
    · exact w.mregExt
    · exact w.mregExt.mregExt
  exact w2.foldl fun w => w.mregExt

theorem Hw.Wf.sizingApply {m slot img dig fresh undercoat} (w : h.Wf) : (h.sizingApply m slot img dig fresh undercoat).Wf := by
  unfold Hw.sizingApply
  extract_lets _ _ h5
  have w5 : h5.Wf := (Hw.Wf.ite w.setBank.setFld.setReg w).applyAll.trainPorts.checkWidths.programHdm.dropSets.farHold.loadFirmware.bootMregs.foldl fun w => w.stageBoot
  exact w5.setBoot.setPhase.bootNotify

theorem Hw.Wf.sizingRun {m} (w : h.Wf) : (h.sizingRun m).Wf := by
  unfold Hw.sizingRun
  extract_lets slot h2
  have w2 : h2.Wf := w.trainChannels
  obtain _ | _ := h.bootImage slot
  · exact Hw.Wf.bootFail
  · dsimp -zeta only
    extract_lets
    refine .ite Hw.Wf.bootFail ?_
    obtain _ | _ := h.bootComps slot [4, 5, 6]
    · exact Hw.Wf.bootFail
    · dsimp -zeta only
      refine .ite w2.sizingStop ?_
      obtain _ | _ := h2.bootComps slot [3]
      · exact Hw.Wf.bootFail
      · exact w2.sizingApply

theorem Hw.Wf.sizing {disc m} (w : h.Wf) : (h.sizing disc m).Wf := by
  unfold Hw.sizing
  refine .ite w ?_
  extract_lets h1 _ h2
  have w1 : h1.Wf := .ite w (w.setFld.foldl fun w => w.discover)
  have w2 : h2.Wf := .ite w1 w1.same.notify
  exact .ite w1.sizingStop (.ite w2.sizingRun w2)

theorem Hw.Wf.execSizingLoaderStart {disc mem} (w : s.hw.Wf) : Kept (Machine.execSizingLoaderStart disc mem s) := .onHw w.sizing

theorem Hw.Wf.execInventoryTimeout (w : s.hw.Wf) : Kept (Machine.execInventoryTimeout s) := .onHw (.ite w.sizingStop w)

theorem Hw.Wf.bootRelease {p} (w : h.Wf) : (h.bootRelease p).Wf := by
  unfold Hw.bootRelease
  obtain _ | _ := look? h.boot.bootGib p
  · exact w
  · obtain _ | _ := h.bootThread p
    · exact w
    · exact .ite w.same.setThread w

theorem Hw.Wf.execBootThreadRelease {p} (w : s.hw.Wf) : Kept (Machine.execBootThreadRelease p s) := .onHw w.bootRelease

theorem Hw.Wf.floorWrite {a1 half v} (w : h.Wf) : (h.floorWrite a1 half v).Wf := by
  unfold Hw.floorWrite
  extract_lets _ h1
  have w1 : h1.Wf := w.writeFields.setFld
  exact .ite w (.ite w1 (.ite w1.setFld (.ite w1.setFld w1.same.setFld)))

theorem Hw.Wf.execFloorRaise {who v} (w : s.hw.Wf) : Kept (Machine.execFloorRaise who v s) := .onHw (w.permit fun w => w.floorWrite)

theorem Hw.Wf.keyrevWrite {a1 half v} (w : h.Wf) : (h.keyrevWrite a1 half v).Wf := by
  unfold Hw.keyrevWrite
  extract_lets _ h1
  have w1 : h1.Wf := w.writeFields.setFld
  exact .ite w (.ite w1 (.ite w1.setFld (.ite w1.setFld (.ite w1.setFld w1.same.setFld))))

theorem Hw.Wf.execKeyRevoke {who v} (w : s.hw.Wf) : Kept (Machine.execKeyRevoke who v s) := .onHw (w.permit fun w => w.keyrevWrite)

theorem Hw.Wf.execFuseBurnDone {floor} (w : s.hw.Wf) : Kept (Machine.execFuseBurnDone floor s) := by
  unfold Machine.execFuseBurnDone
  refine .onHw ?_
  refine .ite ?_ ?_
  · obtain _ | _ := s.hw.boot.floorBurn
    · exact w
    · exact w.same.fuseRegs.setFld.setFld
  obtain _ | _ := s.hw.boot.keyBurn
  · exact w
  · exact w.same.fuseRegs.setFld.setFld

theorem Hw.Wf.flashRes {r} (w : h.Wf) : (h.flashRes r).Wf := w.setFld.setFld

theorem Hw.Wf.flashWrite {a1 half v} (w : h.Wf) : (h.flashWrite a1 half v).Wf := by
  unfold Hw.flashWrite
  extract_lets _ h1 _ _ _ buf
  have w1 : h1.Wf := w.writeFields.setFld
  refine .ite w ?_
  refine .ite w1 ?_
  refine .ite w1.flashRes ?_
  refine .ite w1.flashRes ?_
  refine .ite ?_ (.ite w1.flashRes w1.same.setFld)
  obtain _ | _ := h1.agentRead 0 a1.world buf 4096
  · exact w1.flashRes
  · exact w1.same.setFld

theorem Hw.Wf.flashCmd {op who slot foff} (w : s.hw.Wf) : Kept (Machine.flashCmd op who slot foff s) := by
  unfold Machine.flashCmd
  exact .onHw (w.permit fun w => w.flashWrite)

theorem Hw.Wf.execFlashErase {who slot foff} (w : s.hw.Wf) : Kept (Machine.execFlashErase who slot foff s) := w.flashCmd

theorem Hw.Wf.execFlashProgram {who slot foff} (w : s.hw.Wf) : Kept (Machine.execFlashProgram who slot foff s) := w.flashCmd

theorem Hw.Wf.execFlashRead {who slot foff} (w : s.hw.Wf) : Kept (Machine.execFlashRead who slot foff s) := w.flashCmd

theorem Hw.Wf.execFlashOpDone {err} (w : s.hw.Wf) : Kept (Machine.execFlashOpDone err s) := by
  unfold Machine.execFlashOpDone
  refine .onHw ?_
  obtain _ | _ := s.hw.boot.flashOp
  · exact w
  · exact .ite w.same.flashRes (.ite w.same.flashErase.flashRes (.ite w.same.flashProgram.flashRes w.same.agentWrite.flashRes))

theorem Hw.Wf.mextWrite {a1 half v} (w : h.Wf) : (h.mextWrite a1 half v).Wf := by
  unfold Hw.mextWrite
  extract_lets _ h1
  have w1 : h1.Wf := w.writeFields.setFld
  refine .ite w ?_
  refine .ite w1 ?_
  refine .ite w1.setFld ?_
  obtain _ | _ := Hw.agentRead _ _ _ _ _
  · exact w1.setFld
  · exact w1.mregExt.setFld

theorem Hw.Wf.execMregExtend {who v} (w : s.hw.Wf) : Kept (Machine.execMregExtend who v s) := .onHw (w.permit fun w => w.mextWrite)

end

end Sys2Proof.Machine
end

section
/-! SUPPORT. Memory keeps its form: the sealed energy meter: its channels, accounts, records, seal, audit log and mailbox. -/

namespace Sys2Proof.Machine

section
variable {h : Hw} {s : State}

theorem Hw.Wf.meterAlert {code} (w : h.Wf) : (h.meterAlert code).Wf := by
  unfold Hw.meterAlert
  extract_lets _ h1
  have w1 : h1.Wf := w.leaveDeep.raise.notify
  exact .ite w1.setFld (.ite w1.setFld (.ite w1.setFld w1))

theorem Hw.Wf.meterAudit {type data} (w : h.Wf) : (h.meterAudit type data).Wf := .ite w (.ite w.onMeter.meterAlert (.ite w.onMeter.meterAlert w.onMeter))

theorem Hw.Wf.execIntervalClose (w : s.hw.Wf) : Kept (Machine.execIntervalClose s) := .onHw (.ite w.onMeter w)

theorem Hw.Wf.meterInstalled (w : h.Wf) : (h.meterInstalled).Wf := by
  unfold Hw.meterInstalled
  obtain _ | _ := h.meter.installing
  · exact w
  · dsimp -zeta only
    rcases e : h.fresh 15 with ⟨_, _⟩
    exact (w.fresh.ofSnd e).onMeter.meterAudit

theorem Hw.Wf.meterSample {a1} (w : h.Wf) : (h.meterSample a1).Wf := by
  unfold Hw.meterSample
  extract_lets h _ _ _ _ h2
  have w : h.Wf := w.meterInstalled
  have w2 : h2.Wf := (Hw.Wf.ite w.onMeter w).onMeter.foldl fun w => .ite w.meterAlert w
  exact .ite w2 w2.meterAlert

theorem Hw.Wf.execMeterSample {v} (w : s.hw.Wf) : Kept (Machine.execMeterSample v s) := .onHw (.ite w.meterSample w)

theorem Hw.Wf.execOwner {die o} (w : s.hw.Wf) : Kept (Machine.execOwner die o s) := .onHw (.ite w.onMeter w)

theorem Hw.Wf.execOwnerResend (w : s.hw.Wf) : Kept (Machine.execOwnerResend s) := .onHw (w.foldl fun w => .ite w w.meterSend)

theorem Hw.Wf.newSecond (w : h.Wf) : (h.newSecond).Wf := w.same

theorem Hw.Wf.execTraffic (w : s.hw.Wf) : Kept (Machine.execTraffic s) := .onHw (.ite w.newSecond.onMeter w.newSecond)

theorem Hw.Wf.execTrafficLate (w : s.hw.Wf) : Kept (Machine.execTrafficLate s) := .onHw (.ite w.newSecond.onMeter w.newSecond)

theorem Hw.Wf.execMeterSupplyLoss (w : s.hw.Wf) : Kept (Machine.execMeterSupplyLoss s) := .onHw (.ite w.onMeter w)

theorem Hw.Wf.execMeterSupplyRestore {ms} (w : s.hw.Wf) : Kept (Machine.execMeterSupplyRestore ms s) := by
  unfold Machine.execMeterSupplyRestore
  refine .onHw ?_
  refine .ite w ?_
  extract_lets _ ha
  have wa : ha.Wf := w.onMeter.meterAudit.onMeter.meterAudit
  exact (Hw.Wf.ite wa.onMeter.meterAudit wa).onMeter

theorem Hw.Wf.execSealOpen (w : s.hw.Wf) : Kept (Machine.execSealOpen s) := .onHw (.ite w w.onMeter.meterAudit.onMeter.meterAlert)

theorem Hw.Wf.execSealClose (w : s.hw.Wf) : Kept (Machine.execSealClose s) := .onHw (.ite w w.meterAudit.meterAlert.onMeter)

theorem Hw.Wf.sealAnswer {cmd status bs} (w : h.Wf) : (h.sealAnswer cmd status bs).Wf := w.onMeter

theorem Hw.Wf.stateSealCmd {f} (w : s.hw.Wf) (kf : ∀ {k}, k.Wf → (f k).Wf) : Kept (Machine.State.sealCmd s f) := .onHw (.ite (kf w) w)

theorem Hw.Wf.stateOpenCmd {cmd ok full f} (w : s.hw.Wf) (kf : ∀ {k}, k.Wf → (f k).Wf) : Kept (Machine.State.openCmd s cmd ok full f) := w.stateSealCmd fun w => .ite w.sealAnswer (.ite w.sealAnswer (.ite w.sealAnswer (kf w)))

theorem Hw.Wf.execIdent (w : s.hw.Wf) : Kept (Machine.execIdent s) := w.stateSealCmd fun w => w.sealAnswer

theorem Hw.Wf.execGetrec {rseq} (w : s.hw.Wf) : Kept (Machine.execGetrec rseq s) := by
  unfold Machine.execGetrec
  refine w.stateSealCmd fun w => ?_
  obtain _ | _ := look? (Hw.meter _).records (BitVec.toNat rseq)
  · exact w.sealAnswer
  · exact w.sealAnswer

theorem Hw.Wf.execGetlatest (w : s.hw.Wf) : Kept (Machine.execGetlatest s) := by
  unfold Machine.execGetlatest
  refine w.stateSealCmd fun w => ?_
  obtain _ | _ := (Hw.meter _).records.getLast?
  · exact w.sealAnswer
  · exact w.sealAnswer

theorem Hw.Wf.execGetlog {ix} (w : s.hw.Wf) : Kept (Machine.execGetlog ix s) := by
  unfold Machine.execGetlog
  refine w.stateSealCmd fun w => ?_
  obtain _ | _ := (Hw.meter _).audit[ix.toNat]?
  · exact w.sealAnswer
  · exact w.sealAnswer

theorem Hw.Wf.execSync {adj} (w : s.hw.Wf) : Kept (Machine.execSync adj s) := w.stateSealCmd fun w => .ite w.sealAnswer w.onMeter.meterAudit.sealAnswer

theorem Hw.Wf.execCalwrite {data} (w : s.hw.Wf) : Kept (Machine.execCalwrite data s) := w.stateOpenCmd fun w => w.onMeter.meterAudit.sealAnswer

theorem Hw.Wf.execFwload {off data} (w : s.hw.Wf) : Kept (Machine.execFwload off data s) := w.stateOpenCmd fun w => w.onMeter.sealAnswer

theorem Hw.Wf.execFwcommit {version manifest} (w : s.hw.Wf) : Kept (Machine.execFwcommit version manifest s) := w.stateOpenCmd fun w => .ite w.onMeter.sealAnswer w.meterAudit.meterAlert.sealAnswer

theorem Hw.Wf.execSetaddr {addr} (w : s.hw.Wf) : Kept (Machine.execSetaddr addr s) := w.stateOpenCmd fun w => w.onMeter.meterAudit.sealAnswer

theorem Hw.Wf.execVerify {id} (w : s.hw.Wf) : Kept (Machine.execVerify id s) := w.stateOpenCmd fun w => w.meterAudit.sealAnswer

theorem Hw.Wf.mtrxSlot {r} (w : h.Wf) : (h.mtrxSlot r).Wf := .ite w (.ite w.setFld w.agentWrite.setFld.raise)

theorem Hw.Wf.mtrxNews {r} (w : h.Wf) : (h.mtrxNews r).Wf := by
  unfold Hw.mtrxNews
  extract_lets _ h1
  have w1 : h1.Wf := w.setFld.setFld
  exact .ite (.ite w1 w1.setFld) w

theorem Hw.Wf.mtrxAnswer {r} (w : h.Wf) : (h.mtrxAnswer r).Wf := .ite w.mtrxDone w

theorem Hw.Wf.execMeterRecordDelivery (w : s.hw.Wf) : Kept (Machine.execMeterRecordDelivery s) := by
  unfold Machine.execMeterRecordDelivery
  refine .onHw ?_
  obtain _ | _ := s.hw.meter.outq
  · exact w
  · exact w.onMeter.mtrxSlot.mtrxNews.mtrxAnswer

theorem Hw.Wf.mtrxCmdWrite {a1 half v} (w : h.Wf) : (h.mtrxCmdWrite a1 half v).Wf := by
  unfold Hw.mtrxCmdWrite
  extract_lets _ h1
  have w1 : h1.Wf := w.writeFields.setFld
  exact .ite w (.ite w1.setFld.meterSend w1)

theorem Hw.Wf.mtrxCmd {a1 v} (w : h.Wf) : (h.mtrxCmd a1 v).Wf := w.permit fun w => w.mtrxCmdWrite

theorem Hw.Wf.execMtrxIdent {who} (w : s.hw.Wf) : Kept (Machine.execMtrxIdent who s) := .onHw w.mtrxCmd

theorem Hw.Wf.execResend {who rseq} (w : s.hw.Wf) : Kept (Machine.execResend who rseq s) := .onHw w.mtrxCmd

theorem Hw.Wf.execTimemark {who} (w : s.hw.Wf) : Kept (Machine.execTimemark who s) := .onHw w.mtrxCmd

theorem Hw.Wf.mtrxRingWrite {a1 half v} (w : h.Wf) : (h.mtrxRingWrite a1 half v).Wf := by
  unfold Hw.mtrxRingWrite
  extract_lets _ h1
  have w1 : h1.Wf := w.writeFields
  exact .ite w1 w1.applyShadow.setReg

end

end Sys2Proof.Machine
end

section
/-! SUPPORT. Memory keeps its form: escalation, die loss, live updates, calibration in service, hot plug and device requests. -/

namespace Sys2Proof.Machine

section
variable {h : Hw} {s : State}

theorem Hw.Wf.stopPartition {p} (w : h.Wf) : (h.stopPartition p).Wf := w.same

theorem Hw.Wf.fatalReset {p} (w : h.Wf) : (h.fatalReset p).Wf := .ite w.same w.partReset

theorem Hw.Wf.partFatal {p die} (w : h.Wf) : (h.partFatal p die).Wf := by
  unfold Hw.partFatal
  refine .ite w ?_
  extract_lets _ h2
  have w2 : h2.Wf := w.same.stopPartition.partCancel.foldl fun w => .ite w.portAbort w
  exact w2.raise.raise.healthAlert.confirmLeave.fatalReset

theorem Hw.Wf.execPartitionFatal {p die} (w : s.hw.Wf) : Kept (Machine.execPartitionFatal p die s) := .onHw w.partFatal

theorem Hw.Wf.execPackageFatal {kind} : Kept (Machine.execPackageFatal kind s) := .onHw Hw.Wf.warmReset

theorem Hw.Wf.dieLost {die} (w : h.Wf) : (h.dieLost die).Wf := by
  unfold Hw.dieLost
  extract_lets _ _ _ _ _ _ h3
  have w3 : h3.Wf := w.fenceDie.stopDie.onlineSet.ras.healthAlert.foldl fun w => w.setFld
  exact .ite w3 (.ite w3.partFatal w3.same)

theorem Hw.Wf.execDieLoss {die} (w : s.hw.Wf) : Kept (Machine.execDieLoss die s) := .onHw w.dieLost

theorem Hw.Wf.dieReport {die complete} (w : h.Wf) : (h.dieReport die complete).Wf := by
  unfold Hw.dieReport
  obtain _ | l := List.find? _ _
  · exact w
  · dsimp -zeta only
    extract_lets _ free
    obtain _ | _ := l.slot <|> List.find? free (List.range 4)
    · exact w
    · dsimp -zeta only
      extract_lets h1
      have w1 : h1.Wf := w.agentWrite.raise
      exact .ite w1.same w1.same

theorem Hw.Wf.execDieLostReport {die complete} (w : s.hw.Wf) : Kept (Machine.execDieLostReport die complete s) := .onHw w.dieReport

theorem Hw.Wf.portDieLost {a1} (w : h.Wf) : (h.portDieLost a1).Wf := by
  unfold Hw.portDieLost
  extract_lets _ _ _ _ h2
  have w2 : h2.Wf := w.fenceDie.stopDie.foldl fun w => w.portDown
  exact w2.ras.healthAlert.foldl fun w => w.raise

theorem Hw.Wf.execPortDieLoss {die} (w : s.hw.Wf) : Kept (Machine.execPortDieLoss die s) := .onHw w.portDieLost

theorem Hw.Wf.fwWrite {a1 die half v} (w : h.Wf) : (h.fwWrite a1 die half v).Wf := by
  unfold Hw.fwWrite
  extract_lets _ h1
  have w1 : h1.Wf := w.writeFields.setFld
  exact .ite w1.same.setFld w1

theorem Hw.Wf.execFirmwareSwitch {who die} (w : s.hw.Wf) : Kept (Machine.execFirmwareSwitch who die s) := .onHw (.ite w.refuseReg (w.permit fun w => w.fwWrite))

theorem Hw.Wf.execFirmwareSwitchDone {die ok version} (w : s.hw.Wf) : Kept (Machine.execFirmwareSwitchDone die ok version s) := by
  unfold Machine.execFirmwareSwitchDone
  refine .onHw ?_
  extract_lets _ h1
  have w1 : h1.Wf := w.same.setFld
  exact .ite w ((Hw.Wf.ite w1.setFld.setFld w1).same.foldl fun w => w.torusAccept)

theorem Hw.Wf.ucodeWrite {a1 n half v} (w : h.Wf) : (h.ucodeWrite a1 n half v).Wf := by
  unfold Hw.ucodeWrite
  dsimp -zeta only
  extract_lets _ h1
  have w1 : h1.Wf := w.writeFields.setFld
  refine .ite w1 ?_
  refine .ite w1.setFld ?_
  obtain _ | _ := look? h1.run n
  · exact w1
  · exact .ite w1.setRun w1

theorem Hw.Wf.execUcodeLoad {who n} (w : s.hw.Wf) : Kept (Machine.execUcodeLoad who n s) := .onHw (w.permit fun w => w.ucodeWrite)

theorem Hw.Wf.execUcodeLoadDone {n ok version} (w : s.hw.Wf) : Kept (Machine.execUcodeLoadDone n ok version s) := by
  unfold Machine.execUcodeLoadDone
  refine .onHw ?_
  exact .ite w (.ite w.setFld.setFld w.setFld)

theorem Hw.Wf.updWrite {a1 p half v} (w : h.Wf) : (h.updWrite a1 p half v).Wf := by
  unfold Hw.updWrite
  extract_lets _ _ h1
  have w1 : h1.Wf := w.writeFields.setFld
  exact .ite w1.same.setFld w1

theorem Hw.Wf.execUpdateVerify {who p type} (w : s.hw.Wf) : Kept (Machine.execUpdateVerify who p type s) := by
  unfold Machine.execUpdateVerify
  exact .onHw (w.permit fun w => w.updWrite)

theorem Hw.Wf.execUpdateVerifyDone (w : s.hw.Wf) : Kept (Machine.execUpdateVerifyDone s) := by
  unfold Machine.execUpdateVerifyDone
  refine .onHw ?_
  obtain _ | ⟨⟨p, type⟩, _⟩ := s.hw.updq
  · exact w
  · dsimp -zeta only
    extract_lets _ h1
    obtain _ | _ := h1.updCheck p type
    · exact w.same.setFld.setFld.raise
    · exact (Hw.Wf.ite w.same.mregExt w.same).setFld.setFld.raise

theorem Hw.Wf.recalWrite {a1 ch half v} (w : h.Wf) : (h.recalWrite a1 ch half v).Wf := by
  unfold Hw.recalWrite
  extract_lets _ h1
  have w1 : h1.Wf := w.writeFields.setFld
  exact .ite w1.setFld w1

theorem Hw.Wf.execDdrRecalibrationPass {ch bad} (w : s.hw.Wf) : Kept (Machine.execDdrRecalibrationPass ch bad s) := by
  unfold Machine.execDdrRecalibrationPass
  refine .onHw ?_
  extract_lets
  refine .ite w ?_
  refine .ite w.setFld ?_
  obtain _ | _ := bad
  · exact w.setFld.setFld
  · exact w.setFld.setFld.memcErr

theorem Hw.Wf.execSensorCalibration {die failed} (w : s.hw.Wf) : Kept (Machine.execSensorCalibration die failed s) := by
  unfold Machine.execSensorCalibration
  refine .onHw ?_
  extract_lets _ _ _ _ h2
  have w2 : h2.Wf := .ite (w.setFld.foldl fun w => w.setCeil) w.setFld
  exact .ite w (.ite w.setFld w2.ras)

theorem Hw.Wf.portLinkUp {n identify} (w : h.Wf) : (h.portLinkUp n identify).Wf := by
  unfold Hw.portLinkUp
  extract_lets
  obtain _ | _ := identify
  · exact w.same
  · exact w.same.mapDevice

theorem Hw.Wf.execHotPlugEvent {port bits up down identify} (w : s.hw.Wf) : Kept (Machine.execHotPlugEvent port bits up down identify s) := .onHw (Hw.Wf.ite w.same.portDown.same (.ite w.same.portLinkUp w.same)).portRaise

theorem Hw.Wf.xtlFault {port rid va write cause detail} (w : h.Wf) : (h.xtlFault port rid va write cause detail).Wf := by
  unfold Hw.xtlFault
  exact w.record.raise

theorem Hw.Wf.dmaRefuse {port rid va op cause detail} (w : h.Wf) : (h.dmaRefuse port rid va op cause detail).Wf := by
  unfold Hw.dmaRefuse
  obtain _ | _ | _ := op
  · exact w.xtlFault.dmaCpl
  · exact w.xtlFault
  · exact w.xtlFault.dmaCpl

theorem Hw.Wf.dmaMem {port rid va part pa op} (w : h.Wf) : (h.dmaMem port rid va part pa op).Wf := by
  unfold Hw.dmaMem
  obtain _ | _ | _ := op
  · exact w.same.foldl fun w => w.send
  · exact w.foldl fun w => w.same.send
  · exact w.same.send

theorem Hw.Wf.portData {n line bad} (w : h.Wf) : (h.portData n line bad).Wf := w.same.foldl fun w => w.dmaCpl

theorem Hw.Wf.portRefused {n line tag} (w : h.Wf) : (h.portRefused n line tag).Wf := by
  unfold Hw.portRefused
  refine .ite ?_ ?_
  · obtain _ | _ := takeFirst _ _
    · exact w
    · exact w.same.dmaRefuse
  refine .ite ?_ ?_
  · obtain _ | _ := takeFirst _ _
    · exact w
    · exact w.same.dmaRefuse
  obtain _ | _ := takeFirst (openWrite line) (look [] h.pwr n)
  · exact w
  · exact w.same.dmaRefuse.portCommits

/-- DMA_MESSAGE by the check of its message: the check is a variable of what follows. -/
theorem dmaMessage_eq : @Hw.dmaMessage = fun h port part pa data => match msgCheck part false pa data.length (BitVec.ofNat 64 (ofBytes (data.take 8))) with
    | none => h.msgRaise part (BitVec.ofNat 64 (ofBytes (data.take 8)))
    | some _ => h.msgDiscard (some port) part false 0x3FF pa (BitVec.ofNat 64 (ofBytes (data.take 8))) := rfl

theorem Hw.Wf.dmaMessage {port part pa data} (w : h.Wf) : (h.dmaMessage port part pa data).Wf := by
  rw [dmaMessage_eq]
  beta_reduce
  generalize msgCheck _ _ _ _ _ = found
  cases found with
  | none => exact w.msgRaise
  | some why => exact w.msgDiscard

theorem Hw.Wf.dmaGo {port rid va part pa op} (w : h.Wf) : (h.dmaGo port rid va part pa op).Wf := by
  unfold Hw.dmaGo
  obtain _ | _ | _ | _ | _ | _ := paRange pa
  · exact w.dmaMem
  · exact w.dmaMem
  · exact .ite w.sendTlp w.ras.dmaRefuse
  · dsimp -zeta only
    obtain _ | _ | _ := op
    · exact w.dmaRefuse
    · exact .ite w.dmaMessage w
    · exact w.dmaRefuse
  · exact w.dmaRefuse
  · exact w.dmaRefuse

theorem Hw.Wf.dma {port rid va pasid op} (w : h.Wf) : (h.dma port rid va pasid op).Wf := by
  unfold Hw.dma
  extract_lets part
  refine .ite w.dmaRefuse ?_
  rcases e : h.deviceCtx port rid part with _ | ⟨h, _⟩
  · exact (w.deviceCtx.ofError e).dmaRefuse
  · have w : h.Wf := w.deviceCtx.ofOk e
    dsimp -zeta only
    rcases e2 : Hw.xtlTranslate _ _ _ _ _ with _ | _
    · exact (w.xtlTranslate.ofError e2).dmaRefuse
    · exact (w.xtlTranslate.ofOk e2).dmaGo

theorem Hw.Wf.execDeviceDmaRequest {port rid va pasid op} (w : s.hw.Wf) : Kept (Machine.execDeviceDmaRequest port rid va pasid op s) := .onHw (.ite w.dma w)

end

end Sys2Proof.Machine
end

section
/-! SUPPORT. Memory keeps its form: the platform controller's requests, slots, images, the I3C target, the package pins, the supplies, the reference clocks and the TAPs. -/

namespace Sys2Proof.Machine

section
variable {h : Hw} {s : State}

theorem Hw.Wf.pmpRespond {type r status arg payload} (w : h.Wf) : (h.pmpRespond type r status arg payload).Wf := w.same.setReg.setFld

theorem Hw.Wf.pmpAgain {seq} (w : h.Wf) : (h.pmpAgain seq).Wf := w.setReg

theorem Hw.Wf.pmpRequest {type r check body} (w : h.Wf) (kbody : ∀ {k}, k.Wf → (body k).Wf) : (h.pmpRequest type r check body).Wf := by
  unfold Hw.pmpRequest
  refine .ite w ?_
  refine .ite w.setFld ?_
  extract_lets _ h1
  refine .ite w.same.pmpAgain ?_
  obtain _ | _ := check h1
  · exact kbody w.same
  · exact w.same.pmpRespond

theorem Hw.Wf.pmpGo (w : h.Wf) : (h.pmpGo).Wf := .ite w (.ite w.setFld (.ite w.pmpAgain (.ite w.pmpRespond w)))

theorem Hw.Wf.pmpDone {type r} (w : h.Wf) : (h.pmpDone type r).Wf := .ite w.pmpRespond (.ite w.same.pmpRespond w.pmpRespond.notify)

theorem Hw.Wf.takeLimits {sup cool inlet} (w : h.Wf) : (h.takeLimits sup cool inlet).Wf := w.same.setFld

theorem Hw.Wf.takeBoard {r} (w : h.Wf) : (h.takeBoard r).Wf := w.same.takeLimits

theorem Hw.Wf.execBoard {r} (w : s.hw.Wf) : Kept (Machine.execBoard r s) := by
  unfold Machine.execBoard
  exact .onHw (w.pmpRequest fun w => w.takeBoard.pmpDone)

theorem Hw.Wf.takeDimm {a1} (w : h.Wf) : (h.takeDimm a1).Wf := w.same

theorem Hw.Wf.execDimm {r} (w : s.hw.Wf) : Kept (Machine.execDimm r s) := by
  unfold Machine.execDimm
  exact .onHw (w.pmpRequest fun w => Hw.Wf.pmpDone (w.foldl fun w => w.takeDimm))

theorem Hw.Wf.takePort {a1} (w : h.Wf) : (h.takePort a1).Wf := w.same

theorem Hw.Wf.execPorts {r} (w : s.hw.Wf) : Kept (Machine.execPorts r s) := by
  unfold Machine.execPorts
  exact .onHw (w.pmpRequest fun w => Hw.Wf.pmpDone (w.foldl fun w => w.takePort))

theorem Hw.Wf.takePartreq {r} (w : h.Wf) : (h.takePartreq r).Wf := .ite w.same.raise w.same

theorem Hw.Wf.execPartreq {r} (w : s.hw.Wf) : Kept (Machine.execPartreq r s) := by
  unfold Machine.execPartreq
  exact .onHw (w.pmpRequest fun w => w.takePartreq.pmpDone)

theorem Hw.Wf.execLimits {r} (w : s.hw.Wf) : Kept (Machine.execLimits r s) := by
  unfold Machine.execLimits
  exact .onHw (w.pmpRequest fun w => w.takeLimits.pmpDone)

theorem Hw.Wf.execHealth {r} (w : s.hw.Wf) : Kept (Machine.execHealth r s) := by
  unfold Machine.execHealth
  exact .onHw (w.pmpRequest fun w => w.pmpRespond)

theorem Hw.Wf.slotSet {n bits} (w : h.Wf) : (h.slotSet n bits).Wf := w.same

theorem Hw.Wf.slotEvent {n event} (w : h.Wf) : (h.slotEvent n event).Wf := by
  unfold Hw.slotEvent
  extract_lets _ _ h1
  have w1 : h1.Wf := w.same.slotSet
  exact (Hw.Wf.ite w1.portAbort w1).portRaise

theorem Hw.Wf.execSlotevt {r} (w : s.hw.Wf) : Kept (Machine.execSlotevt r s) := by
  unfold Machine.execSlotevt
  exact .onHw (w.pmpRequest fun w => w.slotEvent.pmpDone)

theorem Hw.Wf.execSlotControlWrite {port v} (w : s.hw.Wf) : Kept (Machine.execSlotControlWrite port v s) := .onHw (.ite w.same.same.notify w.same)

theorem Hw.Wf.execSlotctlTimeout {port} (w : s.hw.Wf) : Kept (Machine.execSlotctlTimeout port s) := .onHw (.ite w.same.slotSet.ras.portRaise w)

theorem Hw.Wf.flashBlocks {slot l} (w : h.Wf) : (h.flashBlocks slot l).Wf := w.foldl fun w => w.flashErase.flashProgram

theorem Hw.Wf.imgStore {q off} (w : h.Wf) : (h.imgStore q off).Wf := .ite w.flashBlocks (.ite w.flashBlocks w)

theorem Hw.Wf.setImage {q} (w : h.Wf) : (h.setImage q).Wf := w.same

theorem Hw.Wf.execImageBegin {r} (w : s.hw.Wf) : Kept (Machine.execImageBegin r s) := by
  unfold Machine.execImageBegin
  exact .onHw (w.pmpRequest fun w => (Hw.Wf.ite w.flashErase w).setImage.pmpDone)

theorem Hw.Wf.execImageBlock {r block} (w : s.hw.Wf) : Kept (Machine.execImageBlock r block s) := by
  unfold Machine.execImageBlock
  extract_lets
  refine .onHw ?_
  refine w.same.pmpRequest fun w => ?_
  obtain _ | _ := (Hw.plat _).image
  · exact w
  · dsimp -zeta only
    obtain _ | _ := Hw.imgBlock _ _ _ _
    · exact w.setImage.pmpRespond
    · exact (Hw.Wf.ite w.imgStore w).setImage.pmpDone

theorem Hw.Wf.recoveryEnd {m} : (h.recoveryEnd m).Wf := Hw.Wf.bootRestart

theorem Hw.Wf.stageComp {c} (w : h.Wf) : (h.stageComp c).Wf := by
  unfold Hw.stageComp
  extract_lets h1
  have w1 : h1.Wf := w.same.mregExt
  refine .ite ?_ (w1.foldl fun w => .ite w w.setFld)
  refine w1.foldl fun w => ?_
  exact .ite w w.setFld

theorem Hw.Wf.execImageEnd {r} (w : s.hw.Wf) : Kept (Machine.execImageEnd r s) := by
  unfold Machine.execImageEnd
  extract_lets
  refine .onHw ?_
  refine w.pmpRequest fun w => ?_
  obtain _ | _ := (Hw.plat _).image
  · exact w
  · exact .ite Hw.Wf.recoveryEnd (Hw.Wf.pmpDone (w.setImage.foldl fun w => w.stageComp))

theorem Hw.Wf.execDumphold {r} (w : s.hw.Wf) : Kept (Machine.execDumphold r s) := by
  unfold Machine.execDumphold
  exact .onHw (w.pmpRequest fun w => .ite (Hw.Wf.ite w.same.partReset w.same).pmpDone w.same.pmpDone)

theorem Hw.Wf.wakePat (w : h.Wf) : (h.wakePat).Wf := .ite w.leaveDeep w

theorem Hw.Wf.execWakePattern {v} (w : s.hw.Wf) : Kept (Machine.execWakePattern v s) := .onHw (.ite w.wakePat w)

theorem Hw.Wf.execI3cWake {data} (w : s.hw.Wf) : Kept (Machine.execI3cWake data s) := .onHw (.ite w.wakePat w)

theorem Hw.Wf.execStatusBlockRead (w : s.hw.Wf) : Kept (Machine.execStatusBlockRead s) := .onHw w.same

theorem Hw.Wf.execDynamicAddressAssignment {addr} (w : s.hw.Wf) : Kept (Machine.execDynamicAddressAssignment addr s) := .onHw w.same

theorem Hw.Wf.execPkgResetAssert (w : s.hw.Wf) : Kept (Machine.execPkgResetAssert s) := .onHw w.same

theorem Hw.Wf.resetRelease {us recov} (w : h.Wf) : (h.resetRelease us recov).Wf := by
  unfold Hw.resetRelease
  extract_lets _ h1
  exact .ite w.same (.ite Hw.Wf.warmReset.setBoot Hw.Wf.warmReset)

theorem Hw.Wf.execPkgResetRelease {us recov} (w : s.hw.Wf) : Kept (Machine.execPkgResetRelease us recov s) := .onHw w.resetRelease

theorem Hw.Wf.powerBack : (h.powerBack).Wf := (Hw.Wf.ite Hw.Wf.coldReset Hw.Wf.warmReset).same

theorem Hw.Wf.execPowerUp : Kept (Machine.execPowerUp s) := .onHw Hw.Wf.powerBack.same.flagsIbi

theorem Hw.Wf.execSupplyRestored (w : s.hw.Wf) : Kept (Machine.execSupplyRestored s) := .onHw (.ite Hw.Wf.powerBack.setFld.supplyNotify.flagsIbi w)

theorem Hw.Wf.execAoSupplyLoss (w : s.hw.Wf) : Kept (Machine.execAoSupplyLoss s) := .onHw w.logicOff.same

theorem Hw.Wf.execRefclkLoss {n} (w : s.hw.Wf) : Kept (Machine.execRefclkLoss n s) := by
  unfold Machine.execRefclkLoss
  refine .onHw ?_
  extract_lets _ h1
  refine .ite ?_ w.same.linkLost.portDieLost
  rcases e : h1.fresh 8 with ⟨_, _⟩
  exact (w.same.fresh.ofSnd e).ras.healthAlert

theorem Hw.Wf.execRefclkRestored {n} (w : s.hw.Wf) : Kept (Machine.execRefclkRestored n s) := .onHw (.ite w (.ite (.ite w.same Hw.Wf.warmReset) w.same.dieReset.same.setLinkState))

theorem Hw.Wf.execAoClockStop (w : s.hw.Wf) : Kept (Machine.execAoClockStop s) := .onHw w.ras.same

theorem Hw.Wf.tap {die ir} (w : h.Wf) : (h.tap die ir).Wf := w.same

theorem Hw.Wf.tapTest {die ir} (w : h.Wf) : (h.tapTest die ir).Wf := w.tap

theorem Hw.Wf.execBypass {die} (w : s.hw.Wf) : Kept (Machine.execBypass die s) := .onHw w.tap

theorem Hw.Wf.execIdcode {die} (w : s.hw.Wf) : Kept (Machine.execIdcode die s) := .onHw w.tap.same

theorem Hw.Wf.execSamplePreload {die v} (w : s.hw.Wf) : Kept (Machine.execSamplePreload die v s) := .onHw w.tap.same

theorem Hw.Wf.execExtest {die} (w : s.hw.Wf) : Kept (Machine.execExtest die s) := .onHw w.tapTest

theorem Hw.Wf.execExtestPulse {die} (w : s.hw.Wf) : Kept (Machine.execExtestPulse die s) := .onHw w.tapTest

theorem Hw.Wf.execExtestTrain {die} (w : s.hw.Wf) : Kept (Machine.execExtestTrain die s) := .onHw w.tapTest

end

end Sys2Proof.Machine
end

section
/-! SUPPORT. Memory keeps its form: the register window as a whole: what a read shows, what a write does, the accesses that R8 to R10 refuse, the safe points and the disabling of caches. -/

namespace Sys2Proof.Machine

section
variable {h : Hw} {s : State}

theorem Hw.Wf.winRead {a1 pa size} (w : h.Wf) : (h.winRead a1 pa size).1.Wf := by
  unfold Hw.winRead
  obtain _ | half := halfOf pa size
  · exact w
  · dsimp -zeta only
    obtain _ | ⟨base, n⟩ := hostSpAt pa
    · dsimp -zeta only
      obtain _ | _ := findReg pa
      · exact w
      · exact Hw.Wf.iteFst w (Hw.Wf.iteFst w w.refuseReg)
    · dsimp -zeta only
      rcases e : h.hostSp a1 base n half false 0 with ⟨_, _ | _⟩
      · exact w.hostSp.ofFst e
      · exact w.hostSp.ofFst e

theorem Hw.Wf.slinkWrite {r a2 half v} (w : h.Wf) : (h.slinkWrite r a2 half v).Wf := by
  unfold Hw.slinkWrite
  extract_lets h1
  have w1 : h1.Wf := w.writeFields.setFld
  exact .ite w1.setLinkFld.setLinkFld w1

theorem Hw.Wf.pmpWrite {r a2 half v} (w : h.Wf) : (h.pmpWrite r a2 half v).Wf := by
  unfold Hw.pmpWrite
  refine .ite w ?_
  split
  · extract_lets h1
    have w1 : h1.Wf := w.writeFields
    exact .ite w1 w1.same.flagsIbi
  · exact .ite w.wakePat w
  · exact w.writeFields
  · exact .ite w.pmpGo w
  · exact w

theorem Hw.Wf.coreCacheWrite {a1 die pcore half v} (w : h.Wf) : (h.coreCacheWrite a1 die pcore half v).Wf := by
  unfold Hw.coreCacheWrite
  extract_lets _ h1 _ _ _ _ h0 h2
  have w1 : h1.Wf := w.writeFields
  have w0 : h0.Wf := .ite w1.onCore.setFld w1
  have w2 : h2.Wf := .ite w0 w0.onCore.setFld
  exact .ite w2 (w2.foldl fun w => w.setReg)

theorem Hw.Wf.dieCacheWrite {a1 die half v} (w : h.Wf) : (h.dieCacheWrite a1 die half v).Wf := by
  unfold Hw.dieCacheWrite
  extract_lets _ h1 _ h2
  have w1 : h1.Wf := w.writeFields
  have w2 : h2.Wf := .ite w1.onCDie.setFld w1
  exact .ite w2 w2.setFld

theorem Hw.Wf.errstatWrite {r a2 half v} (w : h.Wf) : (h.errstatWrite r a2 half v).Wf := by
  unfold Hw.errstatWrite
  extract_lets h1
  have w1 : h1.Wf := w.writeFields
  exact .ite w1.setReg w1

theorem Hw.Wf.regEffect {r a2 half v} (w : h.Wf) : (h.regEffect r a2 half v).Wf := by
  unfold Hw.regEffect
  extract_lets
  split
  · exact w.coreCacheWrite
  · exact w.dieCacheWrite
  · exact w.secactWrite
  · exact w.migrateWrite
  · exact w.fenceSet.engFenced
  · exact w.fenceSet.engFenced
  · exact w.rcwayWrite
  · exact w.hotctlWrite
  · exact w.hotsnapWrite
  · exact w.isetA
  · exact w.isetB
  · exact w.scrubWrite
  · exact w.spareWrite
  · exact w.recalWrite
  · exact w.qctlWrite
  · exact w.doorbell
  · exact w.elcpwrWrite
  · exact w.sppwrWrite
  · exact w.dbgWrite
  · exact w.ucodeWrite
  · exact w.fwWrite
  · exact w.updWrite
  · exact w.slinkWrite
  · exact w.slinkWrite
  · exact w.lathWrite
  · exact w.lathWrite
  · exact w.cfgCtlWrite
  · exact w.confirmWrite
  · exact w.explicitWrite
  · exact w.domWrite
  · exact w.edgeWrite
  · exact w.writeFields.setFld
  · exact w.swctlWrite
  · exact w.rngcmdWrite
  · exact w.sengWrite
  · exact w.keyrevWrite
  · exact w.floorWrite
  · exact w.flashWrite
  · exact w.mextWrite
  · exact w.mtrxCmdWrite
  · exact w.mtrxRingWrite
  · exact w.evrCtlWrite
  · exact w.onlineWrite
  · exact w.errstatWrite
  · exact w.errstatWrite
  · exact w.errstatWrite
  · exact w.errstatWrite
  · exact w.errstatWrite
  · exact w.errstatWrite
  · exact .ite w.pmpWrite w.writeFields

theorem Hw.Wf.winWriteHalf {a1 pa half v} (w : h.Wf) : (h.winWriteHalf a1 pa half v).Wf := by
  unfold Hw.winWriteHalf
  obtain _ | _ := hostSpAt pa
  · dsimp -zeta only
    obtain _ | _ := findReg pa
    · exact w.refuseReg
    · exact .ite w (w.permit fun w => w.regEffect)
  · exact w.hostSp

theorem Hw.Wf.winWrite {a1 pa size v} (w : h.Wf) : (h.winWrite a1 pa size v).Wf := by
  unfold Hw.winWrite
  obtain _ | _ := halfOf pa size
  · exact w.refuseReg
  · exact w.winWriteHalf

theorem Hw.Wf.execRegisterWrite {who pa half v} (w : s.hw.Wf) : Kept (Machine.execRegisterWrite who pa half v s) := .onHw (.ite w.winWriteHalf w.refuseReg)

theorem Hw.Wf.safePoint {r} (w : h.Wf) : (h.safePoint r).Wf := by
  unfold Hw.safePoint
  refine .ite w ?_
  split
  · exact w.queueBaseApply
  · exact w.isetApplied
  · exact w.isetApplied
  · exact .ite w w.applyShadow.setReg
  · exact w.applyShadow

theorem Hw.Wf.execSafePointApply {pa} (w : s.hw.Wf) : Kept (Machine.execSafePointApply pa s) := by
  unfold Machine.execSafePointApply
  refine .onHw ?_
  obtain _ | _ := findReg pa.toNat
  · exact w
  · exact w.safePoint

theorem Hw.Wf.execCacheDisableRequest {who die core v} (w : s.hw.Wf) : Kept (Machine.execCacheDisableRequest who die core v s) := by
  unfold Machine.execCacheDisableRequest
  refine .onHw ?_
  extract_lets
  obtain _ | _ := core
  · exact w.permit fun w => w.dieCacheWrite
  · exact w.permit fun w => w.coreCacheWrite

theorem Hw.Wf.coreCleaned {die pcore} (w : h.Wf) : (h.coreCleaned die pcore).Wf := by
  unfold Hw.coreCleaned
  extract_lets _ _ h1 _ h3
  have w1 : h1.Wf := .ite (w.foldl fun w => w.l2Drop) w
  have w3 : h3.Wf := .ite (w1.onCore.foldl fun w => w.coreLosesLine) w1.onCore
  exact w3.setReg

theorem Hw.Wf.dieCleaned {die} (w : h.Wf) : (h.dieCleaned die).Wf := by
  unfold Hw.dieCleaned
  extract_lets _ h1
  have w1 : h1.Wf := w.foldl fun w => w.l2DropOthers.dieGiveUp
  exact w1.onCDie.setFld.setFld

theorem Hw.Wf.execCacheCleanDone {die core} (w : s.hw.Wf) : Kept (Machine.execCacheCleanDone die core s) := by
  unfold Machine.execCacheCleanDone
  refine .onHw ?_
  extract_lets
  obtain _ | _ := core
  · exact .ite w.dieCleaned w
  · exact .ite w w.coreCleaned

end

end Sys2Proof.Machine
end

section
/-! SUPPORT. Memory keeps its form: the completion of device accesses of threads, and the requests that reach a port or a register access port. -/

namespace Sys2Proof.Machine

section
variable {h : Hw}

theorem Hw.Wf.devRetire {t a2} (w : h.Wf) : (h.devRetire t a2).Wf := w.onThread.retire

theorem Hw.Wf.devWindow {t size write a} (w : h.Wf) : Ends Hw.Wf Hw.Wf (h.devWindow t size write a) := by
  unfold Hw.devWindow
  refine .ite (.ite (.ok w.refuseReg) (.error w.refuseReg)) ?_
  refine .ite (.ok w.winWrite) ?_
  rcases e : h.winRead (h.who t) a.pa size with ⟨h1, r⟩
  have w1 : h1.Wf := w.winRead.ofFst e
  dsimp -zeta only
  obtain _ | _ := r
  · exact .error w1
  · exact .ok w1

theorem Hw.Wf.devMessage {t size write a} (w : h.Wf) : Ends Hw.Wf Hw.Wf (h.devMessage t size write a) := by
  unfold Hw.devMessage
  extract_lets part world data
  refine .ite (.error w.msgDiscard) ?_
  obtain _ | (_ | _) := msgCheck part world a.pa size data
  · exact .ok w.msgRaise
  · exact .error w.refuseReg
  · exact .error w.msgDiscard

theorem Hw.Wf.devLane {t size write a} (w : h.Wf) : (h.devLane t size write a).1.Wf := Hw.Wf.iteFst w.storeParts w.chunkLoad

theorem Hw.Wf.devHome {t a2} (w : h.Wf) : (h.devHome t a2).Wf := w.onThread.send

theorem Hw.Wf.devRun {t d l got} (w : h.Wf) : (Machine.devRun t d l got h).Wf := by
  induction l generalizing h got with
  | nil =>
    unfold Machine.devRun
    split
    · exact w.devTrap
    · exact w.devRetire
  | cons a l ih =>
    unfold Machine.devRun
    extract_lets k got'
    refine .ite (ih w.devLane) (.ite w.devSend (.ite ?_ ?_))
    · split
      · next e => exact Hw.Wf.devTrap (w.homeCause _ e)
      · exact w.devHome
    · have access : Ends Hw.Wf Hw.Wf (if k = .window then h.devWindow t d.size d.write a else h.devMessage t d.size d.write a) := .ite w.devWindow w.devMessage
      split
      · next e => exact Hw.Wf.devTrap (access.ofError e)
      · next e => exact ih (access.ofOk e)

theorem Hw.Wf.devDone {t v} (w : h.Wf) : (h.devDone t v).Wf := by
  unfold Hw.devDone
  obtain _ | _ := (h.thread t).devOpen
  · exact w
  · exact w.onThread.devRun

theorem Hw.Wf.devAnswered {die pcore line refused} (w : h.Wf) : (h.devAnswered die pcore line refused).Wf := by
  unfold Hw.devAnswered
  extract_lets mine
  obtain _ | kind := List.find? mine (h.threadsOn die pcore)
  · exact w
  · dsimp -zeta only
    obtain _ | w0 := (h.thread kind).devOpen
    · exact w
    · dsimp -zeta only
      extract_lets acc
      rcases e : Machine.homeCause h kind w0.addr w0.cur.va acc with _ | _
      · exact .ite w.devTrap w.devDone
      · exact (w.homeCause _ e).devTrap

theorem Hw.Wf.mmioArrives {a1 pa size write v} (w : h.Wf) : (h.mmioArrives a1 pa size write v).Wf := by
  unfold Hw.mmioArrives
  extract_lets
  refine .ite w.portRefuse ?_
  obtain _ | (_ | _) := busZero pa
  · exact .ite w.sendTlp (.ite w.devFail w.devRecord)
  · exact .ite w.devDone w
  · exact w

theorem Hw.Wf.regReply {a1 pa r} (w : h.Wf) : (h.regReply a1 pa r).Wf := by
  unfold Hw.regReply
  extract_lets
  obtain _ | _ := r
  · exact w.send
  · exact w.send

end

end Sys2Proof.Machine
end

section
/-! SUPPORT. Memory keeps its form: scalar and vector loads and stores of Askist, and the pairs of two words. -/

namespace Sys2Proof.Machine

section
variable {h : Hw} {s : State}

theorem Hw.Wf.checkWant {t esz devOk a3} (w : h.Wf) : Ends Hw.Wf Hw.Wf (Machine.checkWant t esz devOk a3 h) := by
  unfold Machine.checkWant
  rcases e : Machine.xlate h t (h.ctx t) a3.va a3.acc with ⟨h1, _⟩ | ⟨h1, r⟩
  · exact .error (w.xlate.ofError e)
  · have w1 : h1.Wf := w.xlate.ofOk e
    dsimp -zeta only
    extract_lets
    refine .ite ?_ ?_
    · obtain _ | _ := deviceCheck h1 r a3 esz devOk
      · exact .ok w1
      · exact .error w1
    refine .ite (.ok w1) ?_
    rcases e2 : Machine.homeCause h1 t r.pa a3.va a3.acc with _ | _
    · exact .ok w1
    · exact w1.homeCause _ e2

theorem Hw.Wf.checkEach {t esz devOk l} (w : h.Wf) : Ends Hw.Wf Hw.Wf (Machine.checkEach t esz devOk l h) := by
  induction l generalizing h with
  | nil => exact .ok w
  | cons a l ih =>
    unfold Machine.checkEach
    split
    · next e => exact w.checkWant.ofError e
    · next h1 _ _ e =>
      have w1 : h1.Wf := w.checkWant.ofOk e
      split
      · next e => exact (ih w1).ofError e
      · next e => exact .ok ((ih w1).ofOk e)

theorem Hw.Wf.checkWants {t esz devOk l} (w : h.Wf) : Ends Hw.Wf Hw.Wf (Machine.checkWants t esz devOk l h) := by
  unfold Machine.checkWants
  rcases e : Machine.checkEach t esz devOk l h with _ | _
  · exact w.checkEach.ofError e
  · exact .ok (w.checkEach.ofOk e).setDs

theorem Hw.Wf.loadBody {t a1 d a off len settled} (w : h.Wf) : EndsHw Hw.Wf Hw.Wf (Machine.loadBody t a1 d a off len settled h) := by
  unfold Machine.loadBody
  dsimp -zeta only
  extract_lets
  rcases e : Machine.checkWants _ _ _ _ _ with _ | ⟨h1, ps⟩
  · exact w.checkWants.ofError e
  · have w1 : h1.Wf := w.checkWants.ofOk e
    dsimp -zeta only
    refine .ite (.error w1) ?_
    refine .ite (w1.whenSettled fun w => .ok w.devRun) ?_
    refine w1.ncGate fun w => ?_
    refine w.loadGate fun w => ?_
    rcases e2 : Machine.loadPieces t ps _ with ⟨_, _⟩
    exact .ok (w.loadPieces.ofFst e2).loadParts.setG.retire

theorem Hw.Wf.issueLoad {t words settled body} (w : h.Wf) (kbody : ∀ {b0 k}, k.Wf → EndsHw Hw.Wf Hw.Wf (body b0 k)) : (Machine.issueLoad t words settled body h).Wf := by
  unfold Machine.issueLoad
  refine .ite (w.issue fun w => kbody w) ?_
  refine .ite w.dueTrap ?_
  rcases e : h.asyncNow t with _ | _
  · exact .ite (w.runInstr fun w => kbody w) w
  · exact w.asyncNow _ e

theorem Hw.Wf.execLoad {t a1 d a imm settled} (w : s.hw.Wf) : Kept (Machine.execLoad t a1 d a imm settled s) := .onHw (w.issueLoad fun w => w.loadBody)

theorem Hw.Wf.storeBody {t a1 d a off len} (w : h.Wf) : EndsHw Hw.Wf Hw.Wf (Machine.storeBody t a1 d a off len h) := by
  unfold Machine.storeBody
  extract_lets
  rcases e : Machine.checkWants _ _ _ _ _ with _ | ⟨h1, _⟩
  · exact w.checkWants.ofError e
  · have w1 : h1.Wf := w.checkWants.ofOk e
    exact .ite (.ok w1.devRun) (w1.storeGate fun w => .ok w.storeParts.retire)

theorem Hw.Wf.execStore {t a1 d a imm} (w : s.hw.Wf) : Kept (Machine.execStore t a1 d a imm s) := .onHw (w.issueSettled fun w => w.storeBody)

theorem Hw.Wf.pfxBody {t ext next settled mispredicted} (w : h.Wf) : EndsHw Hw.Wf Hw.Wf (Machine.pfxBody t ext next settled mispredicted h) := by
  unfold Machine.pfxBody
  extract_lets
  obtain _ | (_ | _ | _ | _) := pfxOf next
  · exact .error w
  · exact w.immBody
  · exact w.jalrBody
  · exact w.loadBody
  · exact w.storeBody

theorem Hw.Wf.execPfx {t ext next settled mispredicted} (w : s.hw.Wf) : Kept (Machine.execPfx t ext next settled mispredicted s) := by
  unfold Machine.execPfx
  refine .onHw ?_
  split
  · exact w.issueLoad fun w => w.pfxBody
  · split
    · exact w.issueSettled fun w => w.pfxBody
    · exact w.issue fun w => w.pfxBody

theorem Hw.Wf.laneChecks {t n acc l} (w : h.Wf) : (Machine.laneChecks t n acc l h).1.Wf := by
  induction l generalizing h with
  | nil => exact w
  | cons a l ih =>
    unfold Machine.laneChecks
    split
    · next e => exact w.checkWants.ofError e
    · next e => exact ih (w.checkWants.ofOk e)

theorem Hw.Wf.vldBody {t v settled} (w : h.Wf) : EndsHw Hw.Wf Hw.Wf (Machine.vldBody t v settled h) := by
  unfold Machine.vldBody
  refine w.vecGuard fun w => ?_
  extract_lets _ e _ lanes
  rcases e : Machine.laneChecks t e Acc.load lanes _ with ⟨h2, _⟩
  have w2 : h2.Wf := w.laneChecks.ofFst e
  dsimp -zeta only
  refine .ite (.ite (.error w2) (w2.whenSettled fun w => w.chunkGate fun w => .ok w.devRun)) ?_
  rcases e2 : Machine.checkWants _ _ _ _ _ with _ | ⟨h1, ps⟩
  · exact w.checkWants.ofError e2
  · have w1 : h1.Wf := w.checkWants.ofOk e2
    dsimp -zeta only
    refine .ite (.error w1) ?_
    refine w1.ncGate fun w => ?_
    refine w.loadGate fun w => ?_
    rcases e3 : Machine.loadPieces t ps _ with ⟨_, _⟩
    exact .ok (w.loadPieces.ofFst e3).loadParts.onThread.retire

theorem Hw.Wf.execVld {t v settled} (w : s.hw.Wf) : Kept (Machine.execVld t v settled s) := .onHw (w.issueLoad fun w => w.vldBody)

theorem Hw.Wf.vstBody {t v} (w : h.Wf) : EndsHw Hw.Wf Hw.Wf (Machine.vstBody t v h) := by
  unfold Machine.vstBody
  refine w.vecGuard fun w => ?_
  extract_lets _ e _ lanes
  rcases e : Machine.laneChecks t e Acc.store lanes _ with ⟨h2, _⟩
  have w2 : h2.Wf := w.laneChecks.ofFst e
  dsimp -zeta only
  refine .ite (.ite (.error w2) (w2.chunkGate fun w => .ok w.devRun)) ?_
  rcases e2 : Machine.checkWants _ _ _ _ _ with _ | _
  · exact w.checkWants.ofError e2
  · dsimp -zeta only
    refine (w.checkWants.ofOk e2).storeGate fun w => ?_
    extract_lets h2
    have w2 : h2.Wf := w.foldl fun w => w.storeParts
    exact .ok w2.retire

theorem Hw.Wf.execVst {t v} (w : s.hw.Wf) : Kept (Machine.execVst t v s) := .onHw (w.issueSettled fun w => w.vstBody)

theorem Hw.Wf.resCheck {t wide va acc} (w : h.Wf) : Ends Hw.Wf Hw.Wf (Machine.resCheck t wide va acc h) := by
  unfold Machine.resCheck
  refine .ite (.error w) ?_
  rcases e : Machine.xlateT h t va acc with _ | ⟨h1, r⟩
  · exact w.xlateT.ofError e
  · have w1 : h1.Wf := w.xlateT.ofOk e
    dsimp -zeta only
    refine .ite (.error w1) ?_
    rcases e2 : Machine.homeCause h1 t r.pa va acc with _ | _
    · exact .ok w1.setDs
    · exact w1.homeCause _ e2

theorem Hw.Wf.lresDone {t d p} (w : h.Wf) : (Machine.lresDone t d p h).Wf := by
  unfold Machine.lresDone
  extract_lets _ _ _ _ _ h2
  rcases e : Machine.loadBytes t p.pa p.len h2 with ⟨_, _⟩
  exact (w.endHold.countRecalls.l2DropOthers.l2Install.l1dInstall.loadBytes.ofFst e).onThread.setG.retire

theorem Hw.Wf.lresBody {t d a b wide} (w : h.Wf) : EndsHw Hw.Wf Hw.Wf (Machine.lresBody t d a b wide h) := by
  unfold Machine.lresBody
  refine .ite (.error w) ?_
  rcases e : Machine.resCheck _ _ _ _ _ with _ | ⟨h1, _⟩
  · exact w.resCheck.ofError e
  · have w1 : h1.Wf := w.resCheck.ofOk e
    exact .ite (.error w1.aliasFlush) (.ite (.ok w1.lresDone) (.error w1.dieRequest))

theorem Hw.Wf.execLres {t d a b wide} (w : s.hw.Wf) : Kept (Machine.execLres t d a b wide s) := .onHw (w.issueSettled fun w => w.lresBody)

theorem Hw.Wf.scondBody {t d a b wide spurious} (w : h.Wf) : EndsHw Hw.Wf Hw.Wf (Machine.scondBody t d a b wide spurious h) := by
  unfold Machine.scondBody
  extract_lets x
  rcases e : Machine.resCheck t wide (x.readG (BitVec.toNat a)) Acc.store h with _ | ⟨h1, _⟩
  · exact w.resCheck.ofError e
  · have w1 : h1.Wf := w.resCheck.ofOk e
    dsimp -zeta only
    extract_lets _ ok _ h3
    have w3 : h3.Wf := (Hw.Wf.ite w1.storeOwned w1).onThread
    exact .ite (.error w1.aliasFlush) (.ok (Hw.Wf.ite w3.serveHeld w3).setG.retire)

theorem Hw.Wf.execScond {t d a b wide spurious} (w : s.hw.Wf) : Kept (Machine.execScond t d a b wide spurious s) := .onHw (w.issueSettled fun w => w.scondBody)

theorem Hw.Wf.execLresHoldExpire {t} (w : s.hw.Wf) : Kept (Machine.execLresHoldExpire t s) := .onHw w.endHold

end

end Sys2Proof.Machine
end

section
/-! SUPPORT. Memory keeps its form: the long instructions: BMOVE, BFILL, BCRC, VGATHER and VSCATTER, their chunks and cr.progress. -/

namespace Sys2Proof.Machine

section
variable {h : Hw} {s : State}

/-- The parts of a long instruction keep the form. -/
structure LongOp.Keeps (o : LongOp) : Prop where
  chunk : ∀ {h done}, h.Wf → Ends Hw.Wf Hw.Wf (o.chunk h done)
  pause : ∀ {h}, h.Wf → (o.pause h).Wf
  finish : ∀ {h}, h.Wf → (o.finish h).Wf

theorem LongOp.Keeps.stop {o : LongOp} {done} (k : o.Keeps) (w : h.Wf) : (o.stop h done).Wf := (k.pause w).onThread

theorem LongOp.Keeps.complete {o : LongOp} (k : o.Keeps) (w : h.Wf) : (o.complete h).Wf := Hw.Wf.onThread (k.finish w).retire

theorem LongOp.Keeps.run {o : LongOp} {n done} (k : o.Keeps) (w : h.Wf) : EndsHw Hw.Wf Hw.Wf (o.run n done h) := by
  induction n generalizing h done with
  | zero => exact .ite (.ok (k.complete w)) (.ok (k.stop w))
  | succ n ih =>
    unfold LongOp.run
    refine .ite (.ok (k.complete w)) (.ite (.ok (k.stop w)) ?_)
    split
    · next e => exact .error (k.stop ((k.chunk w).ofError e))
    · next e => exact ih ((k.chunk w).ofOk e)

theorem Hw.Wf.chunkDo {t ld st next f} (w : h.Wf) (step : ∀ {k}, k.Wf → (f k).Wf) : Ends Hw.Wf Hw.Wf (Machine.chunkDo t ld st next h f) := by
  have gate : EndsHw Hw.Wf Hw.Wf (Machine.chunkGate t ld st h fun h => .ok (f h)) := w.chunkGate fun w => .ok (step w)
  unfold Machine.chunkDo
  cases done : Machine.chunkGate t ld st h fun h => .ok (f h) with
  | ok k => exact .ok (gate.ofOk done)
  | error v => exact gate.ofError done

theorem bmoveOp_keeps (t : Nat) (dst src len : W64) : (bmoveOp t dst src len).Keeps where
  chunk w := by
    unfold bmoveOp
    dsimp only
    split
    · next e => exact w.checkWants.ofError e
    · next e => exact Hw.Wf.chunkDo (w.checkWants.ofOk e) fun w => w.chunkLoad.storeParts
  pause w := w
  finish w := w

theorem Hw.Wf.execBmove {t d a b chunks} (w : s.hw.Wf) : Kept (Machine.execBmove t d a b chunks s) :=
  .onHw (w.issueSettled fun w => (bmoveOp_keeps _ _ _ _).run w)

theorem bfillOp_keeps (t : Nat) (dst pattern len : W64) : (bfillOp t dst pattern len).Keeps where
  chunk w := by
    unfold bfillOp
    dsimp only
    split
    · next e => exact w.checkWants.ofError e
    · next e => exact Hw.Wf.chunkDo (w.checkWants.ofOk e) fun w => w.storeParts
  pause w := w
  finish w := w

theorem Hw.Wf.execBfill {t d a b chunks} (w : s.hw.Wf) : Kept (Machine.execBfill t d a b chunks s) :=
  .onHw (w.issueSettled fun w => (bfillOp_keeps _ _ _ _).run w)

theorem Hw.Wf.crcClear {t d} (w : h.Wf) : (Machine.crcClear t d h).Wf := w.setG

theorem bcrcOp_keeps (t : Nat) (d : RegNum) (src len : W64) : (bcrcOp t d src len).Keeps where
  chunk w := by
    unfold bcrcOp
    dsimp only
    split
    · next e => exact w.checkWants.ofError e
    · next e => exact Hw.Wf.chunkDo (w.checkWants.ofOk e) fun w => w.chunkLoad.setG
  pause w := w.setG
  finish w := w.setG

theorem Hw.Wf.execBcrc {t d a b chunks} (w : s.hw.Wf) : Kept (Machine.execBcrc t d a b chunks s) :=
  .onHw (w.issueSettled fun w => .ite (.error w) ((bcrcOp_keeps _ _ _ _).run w))

theorem gatherOp_keeps (t : Nat) (v : VFields) (scale : BitVec 2) (p : W64) : (gatherOp t v scale p).Keeps where
  chunk w := by
    unfold gatherOp
    dsimp only
    split
    · next e => exact w.checkWants.ofError e
    · next e => exact Hw.Wf.chunkDo (w.checkWants.ofOk e) fun w => w.chunkLoad.onThread
  pause w := w
  finish w := w.onThread

theorem scatterOp_keeps (t : Nat) (v : VFields) (scale : BitVec 2) (p : W64) : (scatterOp t v scale p).Keeps where
  chunk w := by
    unfold scatterOp
    dsimp only
    split
    · next e => exact w.checkWants.ofError e
    · next e => exact Hw.Wf.chunkDo (w.checkWants.ofOk e) fun w => w.storeParts
  pause w := w
  finish w := w

theorem Hw.Wf.longVec {t v scatter scale chunks} (w : h.Wf) : EndsHw Hw.Wf Hw.Wf (Machine.longVec t v scatter scale chunks h) := by
  refine w.vecGuard fun w => LongOp.Keeps.run ?_ w
  split
  · exact scatterOp_keeps _ _ _ _
  · exact gatherOp_keeps _ _ _ _

theorem Hw.Wf.execVgather {t v scale chunks} (w : s.hw.Wf) : Kept (Machine.execVgather t v scale chunks s) := .onHw (w.issueSettled fun w => w.longVec)

theorem Hw.Wf.execVscatter {t v scale chunks} (w : s.hw.Wf) : Kept (Machine.execVscatter t v scale chunks s) := .onHw (w.issueSettled fun w => w.longVec)

end

end Sys2Proof.Machine
end

section
/-! SUPPORT. Memory keeps its form: traps by instruction, TRET, the gateway instructions and WAIT. -/

namespace Sys2Proof.Machine

section
variable {h : Hw} {s : State}

theorem Hw.Wf.trapBody {d a code} (w : h.Wf) : EndsHw Hw.Wf Hw.Wf (Machine.trapBody d a code h) := .ite (.error w) (.error w)

theorem Hw.Wf.execTrap {t d a code} (w : s.hw.Wf) : Kept (Machine.execTrap t d a code s) := .onHw (w.issue fun w => w.trapBody)

theorem Hw.Wf.asyncEntry {t} (w : h.Wf) : (h.asyncEntry t).Wf := .ite w.dueTrap (w.getD w.asyncNow)

theorem Hw.Wf.execTrapEntry {t word} (w : s.hw.Wf) : Kept (Machine.execTrapEntry t word s) := by
  unfold Machine.execTrapEntry
  refine .onHw ?_
  obtain _ | _ := word
  · exact w.asyncEntry
  · exact .ite w.asyncEntry (w.issue fun w => .error w)

theorem Hw.Wf.refillFrom {t y addr count bankNo bankDepth} (w : h.Wf) : EndsHw Hw.Wf Hw.Wf (Machine.refillFrom h t y addr count bankNo bankDepth) := by
  unfold Machine.refillFrom
  rcases e : Machine.frameAddr h t y addr Acc.load with _ | _
  · exact .error (w.frameAddr.ofError e)
  · dsimp -zeta only
    extract_lets h2
    have w2 : h2.Wf := (w.frameAddr.ofOk e).readRange
    exact .ite (.ok w2.onThread) (.error w2)

theorem Hw.Wf.refill {t y bankNo bankDepth} (w : h.Wf) : EndsHw Hw.Wf Hw.Wf (Machine.refill h t y bankNo bankDepth) := by
  unfold Machine.refill
  extract_lets _ _ tsp cnt
  rcases e : Machine.refillFrom h t y (BitVec.toNat tsp) cnt bankNo bankDepth with _ | _
  · exact w.refillFrom.ofError e
  · exact .ok (w.refillFrom.ofOk e).onThread

theorem Hw.Wf.refillFails {t a2} (w : h.Wf) : EndsHw Hw.Wf Hw.Wf (Machine.refillFails h t a2) := by
  unfold Machine.refillFails
  obtain _ | _ := a2
  · exact .error w
  · exact .ite (.ok w.checkStop) (.error w)

theorem Hw.Wf.tretSteps {t} (w : h.Wf) : EndsHw Hw.Wf Hw.Wf (Machine.tretSteps t h) := by
  unfold Machine.tretSteps
  extract_lets x _ _ p _ y
  refine .ite (.error w) ?_
  refine .ite (.error w) ?_
  refine .ite (.ok w.retireAs) ?_
  refine .ite ?_ (.ok w.retireAs)
  refine .ite (.error w) ?_
  refine .ite (.error w) ?_
  rcases e : Machine.refill h t y ((p + 3) % 4) (x.depth - 2) with _ | _
  · exact (w.refill.ofError e).refillFails
  · exact .ok (w.refill.ofOk e).retireAs

theorem Hw.Wf.recordRefused {t a} (w : h.Wf) : (h.recordRefused t a).Wf := .ite w.homeRefusal w

theorem Hw.Wf.setActive {t on} (w : h.Wf) : (h.setActive t on).Wf := by
  unfold Hw.setActive
  obtain _ | _ := h.pcoreOf t
  · exact w
  · exact .ite w.setFld w.setFld

theorem Hw.Wf.gateEnter {t target} (w : h.Wf) : (Machine.gateEnter t target h).Wf := w.retireAs.setActive

theorem Hw.Wf.gateTarget {t lt target} (w : h.Wf) : EndsHw Hw.Wf Hw.Wf (Machine.gateTarget t lt target h) := by
  have found : Ends Hw.Wf Hw.Wf (Machine.xlate h t (ctxOf (h.thread t) t (h.partOf t) lt true) target .fetch) := w.xlate
  unfold Machine.gateTarget
  split
  · next e => exact .error (found.ofError e)
  · next e => exact .error (found.ofError e)
  · next e => exact .error (found.ofError e)
  · next h1 _ e =>
    have w1 : h1.Wf := found.ofOk e
    refine .ite (.error w1) (.ite (.error w1.homeRefusal) (.ite (.error w1) (.ite (.error w1) ?_)))
    split
    · next e => exact EndsHw.error (w1.fetchLineError e)
    · next h2 e =>
      have w2 : h2.Wf := w1.fetchLineOk e
      refine EndsHw.ite ?_ ?_
      · exact .error w2
      · exact .ok w2

theorem Hw.Wf.inWorld {t a2} (w : h.Wf) : (h.inWorld t a2).Wf := w.onThread

theorem Hw.Wf.gateRecord {t target x} (w : h.Wf) : EndsHw Hw.Wf Hw.Wf (Machine.gateRecord t target x h) := by
  unfold Machine.gateRecord
  extract_lets bs addr
  obtain _ | _ := recordBad h t addr bs.length
  · dsimp -zeta only
    rcases e : h.ownRange t (lineRange addr bs.length) with ⟨_, _ | _⟩
    · exact .error (w.ownRange.ofFst e)
    · exact .ok (w.ownRange.ofFst e).writeRange
  · exact .error w.recordRefused

theorem Hw.Wf.gateBody {t d a crn} (w : h.Wf) : EndsHw Hw.Wf Hw.Wf (Machine.gateBody t d a crn h) := by
  unfold Machine.gateBody
  extract_lets x target
  refine .ite (.error w) ?_
  refine .ite (.error w) ?_
  refine .ite (.ok w.setG.retire) ?_
  rcases e : Machine.gateTarget _ _ _ _ with ⟨h2, _⟩ | h2
  · exact .error (w.inWorld.gateTarget.ofError e).inWorld
  · have w2 : h2.Wf := w.inWorld.gateTarget.ofOk e
    dsimp -zeta only
    rcases e2 : Machine.gateRecord t target x h2 with _ | _
    · exact .error (w2.gateRecord.ofError e2).inWorld
    · exact .ok (w2.gateRecord.ofOk e2).inWorld.gateEnter

theorem Hw.Wf.execGate {t d a crn} (w : s.hw.Wf) : Kept (Machine.execGate t d a crn s) := .onHw (w.issueSettled fun w => w.gateBody)

theorem Hw.Wf.gmarkBody {t d a crn} (w : h.Wf) : EndsHw Hw.Wf Hw.Wf (Machine.gmarkBody t d a crn h) := .ite (.error w) (.ok w.retire)

theorem Hw.Wf.execGmark {t d a crn} (w : s.hw.Wf) : Kept (Machine.execGmark t d a crn s) := .onHw (w.issue fun w => w.gmarkBody)

theorem Hw.Wf.recordRestore {t addr} (w : h.Wf) : (Machine.recordRestore h t addr).Wf := w.onThread

theorem Hw.Wf.withdrawWatchdog {t} (w : h.Wf) : (h.withdrawWatchdog t).Wf := by
  unfold Hw.withdrawWatchdog
  extract_lets _ _ _ _ h2
  have w2 : h2.Wf := w.onThread.foldl fun w => w.send
  exact w2.same

theorem Hw.Wf.gapMarker {t act} (w : h.Wf) : (h.gapMarker t act).Wf := .ite w w.same

theorem Hw.Wf.gretBody {t d a crn} (w : h.Wf) : EndsHw Hw.Wf Hw.Wf (Machine.gretBody t d a crn h) := by
  unfold Machine.gretBody
  extract_lets x
  refine .ite (.error w) ?_
  obtain _ | act := x.act
  · exact .error w
  · dsimp -zeta only
    refine .ite (.error w) ?_
    obtain _ | _ := recordBad h t act.recAddr (recordLen h act.recAddr)
    · exact .ite (.error w) (.ok w.readRange.recordRestore.withdrawWatchdog.setActive.gapMarker)
    · exact .error w.recordRefused

theorem Hw.Wf.execGret {t d a crn} (w : s.hw.Wf) : Kept (Machine.execGret t d a crn s) := .onHw (w.issueSettled fun w => w.gretBody)

theorem Hw.Wf.clearEnd {t} (w : h.Wf) : (h.clearEnd t).Wf := by
  unfold Hw.clearEnd
  obtain _ | _ := h.pcoreOf t
  · exact w
  · exact .ite w.setFld w.setFld

theorem Hw.Wf.endRefill {t depth bankNo low stk ss} (w : h.Wf) : EndsHw Hw.Wf Hw.Wf (Machine.endRefill h t depth bankNo low stk ss) := by
  unfold Machine.endRefill
  extract_lets step1
  have wStep1 : EndsHw Hw.Wf Hw.Wf step1 := .ite (.ok w) (.ite w.refillFrom w.refill)
  clear_value step1
  obtain e0 | h1 := step1
  · have wE0 : e0.1.Wf := wStep1
    exact wE0
  · have w1 : h1.Wf := wStep1
    exact .ite (.ok w1) (.ite (.error w1) w1.refill)

theorem Hw.Wf.endActivation {t act} (w : h.Wf) : EndsHw Hw.Wf Hw.Wf (Machine.endActivation t act h) := by
  unfold Machine.endActivation
  refine .ite (.error w) ?_
  extract_lets h _ addr _ _ _ _ _ _ h1
  have w1 : h1.Wf := w.readRange.onThread
  obtain _ | _ := recordBad h t addr (recordLen h addr)
  · dsimp -zeta only
    rcases e : Machine.endRefill _ _ _ _ _ _ _ with _ | _
    · exact (w1.endRefill.ofError e).setThread.refillFails
    · dsimp -zeta only
      extract_lets _ _ h4
      have w4 : h4.Wf := (w1.endRefill.ofOk e).onThread.foldl fun w => w.send
      exact .ok w4.recordRestore.withdrawWatchdog.setActive.clearEnd.gapMarker.note.ras
  · exact .ok w.readRange.recordRefused.checkStop

theorem Hw.Wf.tretBody {t d a crn} (w : h.Wf) : EndsHw Hw.Wf Hw.Wf (Machine.tretBody t d a crn h) := by
  unfold Machine.tretBody
  extract_lets x
  refine .ite (.error w) ?_
  refine .ite ?_ w.tretSteps
  obtain _ | _ := x.act
  · exact w.clearEnd.tretSteps
  · exact w.endActivation

theorem Hw.Wf.execTret {t d a crn} (w : s.hw.Wf) : Kept (Machine.execTret t d a crn s) := .onHw (w.issueSettled fun w => w.tretBody)

theorem Hw.Wf.waitBody {t d a crn} (w : h.Wf) : EndsHw Hw.Wf Hw.Wf (Machine.waitBody t d a crn h) := .ite (.error w) (.ok (.ite w.retire w.retire.onThread))

theorem Hw.Wf.execWait {t d a crn} (w : s.hw.Wf) : Kept (Machine.execWait t d a crn s) := .onHw (w.issueSettled fun w => w.waitBody)

theorem Hw.Wf.waitWake {t} (w : h.Wf) : (h.waitWake t).Wf := .ite w.setThread w

theorem Hw.Wf.execWaitWake {t} (w : s.hw.Wf) : Kept (Machine.execWaitWake t s) := .onHw w.waitWake

theorem Hw.Wf.dustSheetWake {t} (w : h.Wf) : (h.dustSheetWake t).Wf := by
  unfold Hw.dustSheetWake
  extract_lets
  obtain _ | _ := h.pcoreOf t
  · exact w
  · exact .ite (.ite w.setThread w.setThread.onCore) w

theorem Hw.Wf.execDustSheetThreadWake {t} (w : s.hw.Wf) : Kept (Machine.execDustSheetThreadWake t s) := .onHw w.dustSheetWake

end

end Sys2Proof.Machine
end

section
/-! SUPPORT. Memory keeps its form: fences, write-combining timeouts, TLB maintenance, the retirement of fills, and requests that end stale or in FERR. -/

namespace Sys2Proof.Machine

section
variable {h : Hw} {s : State}

theorem Hw.Wf.refetch {t} (w : h.Wf) : (h.refetch t).Wf := w.onCore

theorem Hw.Wf.fenceBody {scope t p q zero} (w : h.Wf) : EndsHw Hw.Wf Hw.Wf (Machine.fenceBody scope t p q zero h) := by
  unfold Machine.fenceBody
  refine .ite (.error w) ?_
  extract_lets h1
  have w1 : h1.Wf := .ite w.wcFlush w
  exact .ite (.error w1.onThread) (.ok (Hw.Wf.ite w1.refetch w1).retire)

theorem Hw.Wf.execFenceC {t p q zero} (w : s.hw.Wf) : Kept (Machine.execFenceC t p q zero s) := .onHw (w.issueSettled fun w => w.fenceBody)

theorem Hw.Wf.execFenceD {t p q zero} (w : s.hw.Wf) : Kept (Machine.execFenceD t p q zero s) := .onHw (w.issueSettled fun w => w.fenceBody)

theorem Hw.Wf.execFenceS {t p q zero} (w : s.hw.Wf) : Kept (Machine.execFenceS t p q zero s) := .onHw (w.issueSettled fun w => w.fenceBody)

theorem Hw.Wf.execWcBufferTimeout {t line} (w : s.hw.Wf) : Kept (Machine.execWcBufferTimeout t line s) := by
  unfold Machine.execWcBufferTimeout
  refine .onHw ?_
  extract_lets
  obtain _ | _ := List.find? _ _
  · exact w
  · exact w.wcFlushOne

theorem Hw.Wf.purgeCore {g die pcore} (w : h.Wf) : (h.purgeCore g die pcore).Wf := w.onCore.foldl fun w => w.onThread

theorem Hw.Wf.purgeDie {g die} (w : h.Wf) : (h.purgeDie g die).Wf := w.foldl fun w => w.purgeCore

theorem Hw.Wf.purge {g t scope} (w : h.Wf) : (h.purge g t scope).Wf := by
  unfold Hw.purge
  extract_lets _ _ h1
  have w1 : h1.Wf := w.foldl fun w => .ite w.purgeDie w
  exact .ite w.purgeCore (.ite w.purgeDie w1.same)

theorem Hw.Wf.noteTlbi {t scope} (w : h.Wf) : (h.noteTlbi t scope).Wf := w.onThread

theorem Hw.Wf.tlbiBody {o t d a scope hi} (w : h.Wf) : EndsHw Hw.Wf Hw.Wf (Machine.tlbiBody o t d a scope hi h) := .ite (.error w) (.ite (.error w.wcFlush) (.ok w.wcFlush.purge.noteTlbi.retire))

theorem Hw.Wf.execTlbiVA {t d a scope hi} (w : s.hw.Wf) : Kept (Machine.execTlbiVA t d a scope hi s) := .onHw (w.issueSettled fun w => w.tlbiBody)

theorem Hw.Wf.execTlbiVAALL {t d a scope hi} (w : s.hw.Wf) : Kept (Machine.execTlbiVAALL t d a scope hi s) := .onHw (w.issueSettled fun w => w.tlbiBody)

theorem Hw.Wf.execTlbiASID {t d a scope hi} (w : s.hw.Wf) : Kept (Machine.execTlbiASID t d a scope hi s) := .onHw (w.issueSettled fun w => w.tlbiBody)

theorem Hw.Wf.execTlbiREGIME {t d a scope hi} (w : s.hw.Wf) : Kept (Machine.execTlbiREGIME t d a scope hi s) := .onHw (w.issueSettled fun w => w.tlbiBody)

theorem Hw.Wf.execTlbiIA {t d a scope hi} (w : s.hw.Wf) : Kept (Machine.execTlbiIA t d a scope hi s) := .onHw (w.issueSettled fun w => w.tlbiBody)

theorem Hw.Wf.execTlbiVMID {t d a scope hi} (w : s.hw.Wf) : Kept (Machine.execTlbiVMID t d a scope hi s) := .onHw (w.issueSettled fun w => w.tlbiBody)

theorem Hw.Wf.execTlbiPART {t d a scope hi} (w : s.hw.Wf) : Kept (Machine.execTlbiPART t d a scope hi s) := .onHw (w.issueSettled fun w => w.tlbiBody)

theorem Hw.Wf.retireWalks {t seq n} (w : h.Wf) : (Hw.retireWalks t seq n h).1.Wf := by
  induction n generalizing h with
  | zero => exact w
  | succ n ih =>
    unfold Hw.retireWalks
    split
    · exact w
    · next ent _ _ =>
      refine .iteFst w ?_
      have checked : (if ent.valid && !ent.bad then (h, false) else h.validate ent).1.Wf := .iteFst w w.validate
      split
      · next e => exact checked.ofFst e
      · next h1 e =>
        have w1 : h1.Wf := checked.ofFst e
        refine ih ?_
        split
        · exact w1.retireUse
        · exact w1

theorem Hw.Wf.retireFill {t line fetch pc} (w : h.Wf) : (h.retireFill t line fetch pc).Wf := by
  unfold Hw.retireFill
  extract_lets mine
  obtain _ | e0 := List.find? mine (h.core (h.coreKeyOf t)).fills
  · exact w.walksDone
  · dsimp -zeta only
    obtain _ | _ := e0.uses.head?
    · exact w
    · dsimp -zeta only
      extract_lets
      refine .ite w ?_
      rcases e : Hw.retireWalks _ _ _ _ with ⟨h1, _ | _⟩
      · have w1 : h1.Wf := w.retireWalks.ofFst e
        dsimp -zeta only
        split
        · next h1 e2 => exact (Hw.Wf.iteFst w1 w1.validate).ofFst e2
        · next h1 e2 =>
          have w1 : h1.Wf := (Hw.Wf.iteFst w1 w1.validate).ofFst e2
          obtain _ | _ := List.find? mine (Hw.core _ (Hw.coreKeyOf _ t)).fills
          · exact w1
          · exact w1.retireUse
      · exact w.retireWalks.ofFst e

theorem Hw.Wf.execInstructionRetire {t line fetch pc} (w : s.hw.Wf) : Kept (Machine.execInstructionRetire t line fetch pc s) := .onHw (.ite w w.retireFill)

theorem Hw.Wf.execLoadSettles {t line} (w : s.hw.Wf) : Kept (Machine.execLoadSettles t line s) := by
  unfold Machine.execLoadSettles
  refine .onHw ?_
  refine .ite w.onThread ?_
  obtain _ | _ := List.find? _ _
  · exact w
  · exact w.settleOne

end

end Sys2Proof.Machine
end

section
/-! SUPPORT. Memory keeps its form: the arrival of packets at their destinations: what every packet is checked for, the requests at the homes, snoops at the agents, answers at homes and requesters, accesses at ports, and packets that fail. -/

namespace Sys2Proof.Machine

section
variable {h : Hw} {s : State}

theorem Hw.Wf.packetError {p bad lost} (w : h.Wf) : (h.packetError p bad lost).Wf := by
  unfold Hw.packetError
  split
  · next _ h1 e =>
    have w1 : h1.Wf := w.fresh.ofSnd e
    split
    · next _ h2 e2 =>
      have w2 : h2.Wf := by
        refine Hw.Wf.ofSnd ?_ e2
        split
        · exact w1.fresh
        exact w1
      exact w2.ras

theorem Hw.Wf.linkError {m down g} (w : h.Wf) : (h.linkError m down g).Wf := by
  unfold Hw.linkError
  obtain _ | (_ | _ | _ | _) := List.find? _ _
  · exact w
  · exact w
  · exact w
  · exact w.unitError
  · exact w

theorem Hw.Wf.satinWake {m} (w : h.Wf) : (h.satinWake m).Wf := by
  unfold Hw.satinWake
  obtain _ | _ := clockDomain m.ends.2
  · exact w
  · exact .ite w.wake w

theorem Hw.Wf.receive {p chk atScrim} (w : h.Wf) : TriesWf (h.receive p chk atScrim) := by
  unfold Hw.receive
  refine .ite (.error w) ?_
  extract_lets h1 ok
  have w1 : h1.Wf := .ite w.taken w
  obtain _ | _ | _ | _ := chk
  · exact .ite (.ok w1.satinWake) (.error w1.packetError)
  · exact .ite (.ok w1.satinWake.packetError) (.error w1.packetError)
  · exact .error w1.packetError
  · dsimp -zeta only
    extract_lets h2
    have w2 : h2.Wf := w1.linkError
    exact .ite (.error w2.packetError) (.ite (.ok w2.satinWake.packetError) (.error w2.packetError))

theorem Hw.Wf.edgeAnswer {m die nn} (w : h.Wf) : (h.edgeAnswer m die nn).Wf := by
  unfold Hw.edgeAnswer
  extract_lets _ _ _ h1
  have w1 : h1.Wf := w.freeTok.send
  exact .ite w1 (.ite w1.same w1.same.wake)

theorem Hw.Wf.partError {m die sev own other} (w : h.Wf) : (h.partError m die sev own other).Wf := w.ras

theorem Hw.Wf.scrimRefuse {m} (w : h.Wf) : (h.scrimRefuse m).Wf := w.freeTok.partError.send.partFatal

theorem Hw.Wf.requestCmd {op ar l part world chk take} (w : h.Wf) (ktake : ∀ {b0 b1 k}, k.Wf → (take b0 b1 k).Wf) : (Machine.requestCmd op ar l part world chk take h).Wf := by
  unfold Machine.requestCmd
  extract_lets _ p0 _ _ m
  rcases e : h.receive p0 chk with h1 | ⟨h1, _⟩
  · exact w.receive.ofError e
  · have w1 : h1.Wf := w.receive.ofOk e
    dsimp -zeta only
    refine .ite w1.scrimRefuse ?_
    obtain _ | _ := h1.edgeOf m
    · exact .ite w1.freeTok.send (.ite (.ite w1 (Hw.Wf.ite w1 w1.freeTok).send) (ktake w1))
    · exact .ite (ktake w1) w1.edgeAnswer

theorem Hw.Wf.takeRequest {a0 r} (w : h.Wf) : (Machine.takeRequest a0 r h).Wf := w.homeRequest

theorem Hw.Wf.execRds {a l part world chk} (w : s.hw.Wf) : Kept (Machine.execRds a l part world chk s) := .onHw (w.requestCmd fun w => w.takeRequest)

theorem Hw.Wf.execRdo {a l part world chk} (w : s.hw.Wf) : Kept (Machine.execRdo a l part world chk s) := .onHw (w.requestCmd fun w => w.takeRequest)

theorem Hw.Wf.execUpg {a l part world chk} (w : s.hw.Wf) : Kept (Machine.execUpg a l part world chk s) := .onHw (w.requestCmd fun w => w.takeRequest)

theorem Hw.Wf.execOwn {a l part world chk} (w : s.hw.Wf) : Kept (Machine.execOwn a l part world chk s) := .onHw (w.requestCmd fun w => w.takeRequest)

theorem Hw.Wf.execRdc {a l part world chk} (w : s.hw.Wf) : Kept (Machine.execRdc a l part world chk s) := .onHw (w.requestCmd fun w => w.takeRequest)

theorem Hw.Wf.takeProvisional {a0 r} (w : h.Wf) : (Machine.takeProvisional a0 r h).Wf := .ite w w.reply

theorem Hw.Wf.execRdp {a l part world chk} (w : s.hw.Wf) : Kept (Machine.execRdp a l part world chk s) := .onHw (w.requestCmd fun w => w.takeProvisional)

theorem Hw.Wf.takeNotice {a0 r} (w : h.Wf) : (Machine.takeNotice a0 r h).Wf := by
  unfold Machine.takeNotice
  extract_lets h0
  obtain _ | _ := h0.waitingMsg MsgOp.RDP r.agent r.line
  · exact w.freeTok
  · exact w.freeTok.taken.homeRequest

theorem Hw.Wf.execStn {a l part world chk} (w : s.hw.Wf) : Kept (Machine.execStn a l part world chk s) := .onHw (w.requestCmd fun w => w.takeNotice)

theorem Hw.Wf.takeWrite {relaxed mask data p r} (w : h.Wf) : (Machine.takeWrite relaxed mask data p r h).Wf := w.homeRequest

theorem Hw.Wf.execWrf {a l part world relaxed data chk} (w : s.hw.Wf) : Kept (Machine.execWrf a l part world relaxed data chk s) := .onHw (w.requestCmd fun w => w.takeWrite)

theorem Hw.Wf.execWrp {a l part world relaxed mask data chk} (w : s.hw.Wf) : Kept (Machine.execWrp a l part world relaxed mask data chk s) := .onHw (w.requestCmd fun w => w.takeWrite)

theorem Hw.Wf.takeCommit {a0 q} (w : h.Wf) : (Machine.takeCommit a0 q h).Wf := by
  unfold Machine.takeCommit
  obtain _ | t := List.find? _ _
  · exact w
  · dsimp -zeta only
    obtain _ | _ := t.req
    · exact w
    · dsimp -zeta only
      extract_lets h1
      have w1 : h1.Wf := w.homeWrite.endTxn.freeTok.wakeWaiters
      obtain _ | _ | _ | _ := q.agent
      · exact w1
      · exact w1
      · exact w1.portVisible
      · exact w1

theorem Hw.Wf.execCmt {a l chk} (w : s.hw.Wf) : Kept (Machine.execCmt a l chk s) := .onHw (w.requestCmd fun w => w.takeCommit)

theorem Hw.Wf.writebackCmd {op ar l part world chk take} (w : h.Wf) (ktake : ∀ {b0 b1 k}, k.Wf → (take b0 b1 k).Wf) : (Machine.writebackCmd op ar l part world chk take h).Wf := by
  unfold Machine.writebackCmd
  extract_lets _ p
  rcases e : h.receive p chk with h1 | ⟨h1, _⟩
  · exact w.receive.ofError e
  · have w1 : h1.Wf := w.receive.ofOk e
    exact .ite w1.scrimRefuse (ktake w1)

theorem Hw.Wf.execWb {a l part world chk} (w : s.hw.Wf) : Kept (Machine.execWb a l part world chk s) := .onHw (w.writebackCmd fun w => w.homeWb)

theorem Hw.Wf.execEvc {a l part world chk} (w : s.hw.Wf) : Kept (Machine.execEvc a l part world chk s) := .onHw (w.writebackCmd fun w => w.homeWb)

theorem Hw.Wf.execEvf {a l part world chk} (w : s.hw.Wf) : Kept (Machine.execEvf a l part world chk s) := .onHw (w.writebackCmd fun w => w.homeEvf)

theorem Hw.Wf.execDirectoryWritebackDrain {l} (w : s.hw.Wf) : Kept (Machine.execDirectoryWritebackDrain l s) := .onHw (.ite w.dirStore.same.wakeWaiters w)

theorem Hw.Wf.snoopTaken {m} (w : h.Wf) : (h.snoopTaken m).Wf := by
  unfold Hw.snoopTaken
  obtain _ | _ | _ | _ := m.agent
  · exact .ite (.ite w.onCDie.wake w.onCDie) w.dieAnswer
  · exact .ite w.same w.agAnswer
  · exact .ite w.same w.agAnswer
  · exact .ite w.same w.agAnswer

theorem Hw.Wf.snoopCmd {op ar l part world chk} (w : h.Wf) : (Machine.snoopCmd op ar l part world chk h).Wf := by
  unfold Machine.snoopCmd
  extract_lets _ _ p dust
  rcases e : h.receive p chk dust with h1 | ⟨h1, _⟩
  · exact w.receive.ofError e
  · have w1 : h1.Wf := w.receive.ofOk e
    exact .ite (.ite w1.answer w1.freeTok.snoopTimedOut) (.ite w1.answer.homeErr.partError (.ite w1.freeTok.send (.ite w1.freeTok.snoopTimedOut w1.snoopTaken)))

theorem Hw.Wf.execRcs {a l part world chk} (w : s.hw.Wf) : Kept (Machine.execRcs a l part world chk s) := .onHw w.snoopCmd

theorem Hw.Wf.execRci {a l part world chk} (w : s.hw.Wf) : Kept (Machine.execRci a l part world chk s) := .onHw w.snoopCmd

theorem Hw.Wf.execRcc {a l part world chk} (w : s.hw.Wf) : Kept (Machine.execRcc a l part world chk s) := .onHw w.snoopCmd

theorem Hw.Wf.execInv {a l part world chk} (w : s.hw.Wf) : Kept (Machine.execInv a l part world chk s) := .onHw w.snoopCmd

theorem Hw.Wf.execPrb {a l part world chk} (w : s.hw.Wf) : Kept (Machine.execPrb a l part world chk s) := .onHw w.snoopCmd

theorem Hw.Wf.execFap {a l part world chk} (w : s.hw.Wf) : Kept (Machine.execFap a l part world chk s) := .onHw w.snoopCmd

theorem Hw.Wf.flawedAnswer {m} (w : h.Wf) : (h.flawedAnswer m).Wf := by
  unfold Hw.flawedAnswer
  exact w.foldl fun w => w.freeTok.snoopTimedOut

theorem Hw.Wf.answerCmd {op ar l chk take} (w : h.Wf) (ktake : ∀ {b0 b1 k}, k.Wf → (take b0 b1 k).Wf) : (Machine.answerCmd op ar l chk take h).Wf := by
  unfold Machine.answerCmd
  extract_lets _ p
  rcases e : h.receive p chk with _ | _
  · exact w.receive.ofError e
  · exact ktake (w.receive.ofOk e)

theorem Hw.Wf.execAck {a l absent wbpend present chk} (w : s.hw.Wf) : Kept (Machine.execAck a l absent wbpend present chk s) := .onHw (w.answerCmd fun w => .ite w.flawedAnswer w.homeAnswer)

theorem Hw.Wf.execAckf {a l chk} (w : s.hw.Wf) : Kept (Machine.execAckf a l chk s) := .onHw (w.answerCmd fun w => .ite w.flawedAnswer w.homeAckF)

theorem Hw.Wf.execRcd {a l lines chk} (w : s.hw.Wf) : Kept (Machine.execRcd a l lines chk s) := .onHw (w.answerCmd fun w => w.poisonLines.homeAnswer)

theorem Hw.Wf.execSnoopTimeout {a l} (w : s.hw.Wf) : Kept (Machine.execSnoopTimeout a l s) := .onHw (.ite w.freeTok.snoopsTimedOut w)

theorem Hw.Wf.execPoisonEntryHoldExpire {l} (w : s.hw.Wf) : Kept (Machine.execPoisonEntryHoldExpire l s) := by
  unfold Machine.execPoisonEntryHoldExpire
  refine .onHw ?_
  obtain _ | _ := look? s.hw.dhold (dirKey (BitVec.toNat l))
  · exact w
  · exact .ite w.same.wakeWaiters w

theorem Hw.Wf.accessStale {t} (w : h.Wf) : (h.accessStale t).Wf := by
  unfold Hw.accessStale
  obtain _ | _ := (h.thread t).devOpen
  · exact w
  · exact .ite w.refuseReg.devDone w.refuseReg.devTrap

theorem Hw.Wf.coreReadFails {die pcore line} (w : h.Wf) : (h.coreReadFails die pcore line).Wf := by
  unfold Hw.coreReadFails
  extract_lets _ h1
  have w1 : h1.Wf := w.foldl fun w => w.setFill.replayAt.onThread
  exact w1.dieRequestEnds

theorem Hw.Wf.ncFails {die pcore line} (w : h.Wf) : (h.ncFails die pcore line).Wf := Hw.Wf.ncArrived (w.foldl fun w => .ite w.onThread w)

theorem Hw.Wf.accessFails {t} (w : h.Wf) : (h.accessFails t).Wf := by
  unfold Hw.accessFails
  obtain _ | _ := (h.thread t).devOpen
  · exact w
  · exact .ite (.ite w.devTrap w.devFail) w.devTrap

theorem Hw.Wf.coreFails {die pcore r} (w : h.Wf) : (h.coreFails die pcore r).Wf := by
  unfold Hw.coreFails
  split
  · obtain _ | _ := h.devThread die pcore r.line
    · exact w.ncFails
    · exact w.accessFails
  · refine .ite w.wcAnswered ?_
    obtain _ | _ := h.devThread die pcore r.line
    · exact w
    · exact w.accessFails
  · refine .ite w.wcAnswered ?_
    obtain _ | _ := h.devThread die pcore r.line
    · exact w
    · exact w.accessFails
  · obtain _ | _ := List.find? _ _
    · exact w
    · exact w.accessFails
  · obtain _ | _ := List.find? _ _
    · exact w
    · exact w.accessFails
  · obtain _ | _ := List.find? _ _
    · exact w
    · exact w.accessFails
  · exact w.coreReadFails

theorem Hw.Wf.portDrops {n line} (w : h.Wf) : (h.portDrops n line).Wf := by
  unfold Hw.portDrops
  obtain _ | _ := takeFirst (openWrite line) (look [] h.pwr n)
  · exact w
  · exact w.same.portCommits

theorem Hw.Wf.engStoreFails {n line p} (w : h.Wf) : (h.engStoreFails n line p).Wf := by
  unfold Hw.engStoreFails
  extract_lets _ h1
  have w1 : h1.Wf := w.same.serveAgent
  exact .ite w1.stopRun w1

theorem Hw.Wf.requestFails {r} (w : h.Wf) : (h.requestFails r).Wf := by
  unfold Hw.requestFails
  extract_lets
  obtain _ | _ | _ | _ := r.agent
  · exact w.freeRsp.coreFails
  · exact .ite w.freeRsp.engData w.freeRsp.engStoreFails
  · dsimp -zeta only
    split
    · exact w.freeRsp.portData
    · obtain _ | _ := takeFirst _ _
      · exact w.freeRsp
      · exact w.freeRsp.same.dmaCpl.serveAgent
    · exact w.freeRsp.portDrops
  · exact w.freeRsp

theorem Hw.Wf.flawedResponse {m} (w : h.Wf) : (h.flawedResponse m).Wf := by
  unfold Hw.flawedResponse
  exact w.foldl fun w => w.requestFails

theorem Hw.Wf.replyCmd {op a line chk take} (w : h.Wf) (ktake : ∀ {b0 b1 k}, k.Wf → (take b0 b1 k).Wf) : (Machine.replyCmd op a line chk take h).Wf := by
  unfold Machine.replyCmd
  extract_lets p
  rcases e : h.receive p chk with h1 | ⟨h1, _⟩
  · exact w.receive.ofError e
  · have w1 : h1.Wf := w.receive.ofOk e
    exact .ite w1.flawedResponse (ktake w1)

theorem Hw.Wf.grantTaken {op m bad} (w : h.Wf) : (Machine.grantTaken op m bad h).Wf := by
  unfold Machine.grantTaken
  obtain _ | _ | _ | _ := m.agent
  · exact (Hw.Wf.ite w.onCDie w).dieGranted
  · dsimp -zeta only
    extract_lets h1
    have w1 : h1.Wf := .ite w.setPoison w
    exact .ite w1.engGranted w1
  · dsimp -zeta only
    extract_lets h1
    have w1 : h1.Wf := .ite w.setPoison w
    exact .ite w1.portGranted w1
  · exact w

theorem Hw.Wf.execGntE {a l chk} (w : s.hw.Wf) : Kept (Machine.execGntE a l chk s) := .onHw (w.replyCmd fun w => w.grantTaken)

theorem Hw.Wf.execGntS {a l chk} (w : s.hw.Wf) : Kept (Machine.execGntS a l chk s) := .onHw (w.replyCmd fun w => w.grantTaken)

theorem Hw.Wf.execGntF {a l chk} (w : s.hw.Wf) : Kept (Machine.execGntF a l chk s) := .onHw (w.replyCmd fun w => w.grantTaken)

theorem Hw.Wf.execGntO {a l chk} (w : s.hw.Wf) : Kept (Machine.execGntO a l chk s) := .onHw (w.replyCmd fun w => w.grantTaken)

theorem Hw.Wf.provisionalData {die pcore line} (w : h.Wf) : (h.provisionalData die pcore line).Wf := Hw.Wf.serveHeld ((Hw.Wf.ite w.countDie w).onCore.foldl fun w => w.settleOne)

theorem Hw.Wf.relayData {m n bad} (w : h.Wf) : (h.relayData m n bad).Wf := w.send

theorem Hw.Wf.dataTaken {m bad} (w : h.Wf) : (Machine.dataTaken m bad h).Wf := by
  unfold Machine.dataTaken
  obtain _ | _ | _ | _ := m.agent
  · split
    · exact .ite w.ncFails w.ncArrived
    · refine .ite ?_ w.devAnswered
      obtain _ | _ := h.devThread _ _ m.addr
      · exact w
      · exact w.accessFails
    · exact .ite w.provisionalEnds.serveHeld w.provisionalData
    · exact .ite w.relayData w.portData
    · exact w.engData
    · exact w
  · exact w.engData
  · exact .ite w.relayData w.portData
  · exact w

theorem Hw.Wf.execData {a l chk} (w : s.hw.Wf) : Kept (Machine.execData a l chk s) := .onHw (w.replyCmd fun w => w.dataTaken)

theorem Hw.Wf.execRdy {a l chk} (w : s.hw.Wf) : Kept (Machine.execRdy a l chk s) := by
  unfold Machine.execRdy
  refine .onHw ?_
  refine w.replyCmd fun w => ?_
  obtain _ | _ | _ | _ := Msg.agent _
  · exact w
  · exact w
  · exact w.portReady
  · exact w

theorem Hw.Wf.execDone {a l chk} (w : s.hw.Wf) : Kept (Machine.execDone a l chk s) := by
  unfold Machine.execDone
  refine .onHw ?_
  refine w.replyCmd fun w => ?_
  obtain _ | _ | _ | _ := Msg.agent _
  · split
    · exact w.devAnswered
    · exact w.wcAnswered
    · exact w.portReady
    · exact w
  · exact w
  · exact w.portReady
  · exact w

theorem Hw.Wf.wbaArrives {die line} (w : h.Wf) : (h.wbaArrives die line).Wf := by
  unfold Hw.wbaArrives
  extract_lets _ h2
  have w2 : h2.Wf := by
    unfold h2
    obtain _ | _ := takeFirst _ _
    · exact w.onCDie
    · exact .ite w.onCDie w.onCDie.onCDie.send
  exact w2.unpark

theorem Hw.Wf.execWba {a l chk} (w : s.hw.Wf) : Kept (Machine.execWba a l chk s) := by
  unfold Machine.execWba
  refine .onHw ?_
  refine w.replyCmd fun w => ?_
  obtain _ | _ | _ | _ := Msg.agent _
  · exact w.wbaArrives
  · exact w.agWritten
  · exact w.agWritten
  · exact w.agWritten

theorem Hw.Wf.execDfr {t l chk} (w : s.hw.Wf) : Kept (Machine.execDfr t l chk s) := .onHw (w.replyCmd fun w => w.countDie.provisionalEnds.serveHeld)

theorem Hw.Wf.refArrives {a line} (w : h.Wf) : (h.refArrives a line).Wf := by
  unfold Hw.refArrives
  obtain _ | _ | _ | _ := a
  · exact .ite w.provisionalEnds.serveHeld w.dieRequestEnds
  · exact w.same.engStoreFails
  · exact w
  · exact w

theorem Hw.Wf.refTagged {a line tag} (w : h.Wf) : (h.refTagged a line tag).Wf := by
  unfold Hw.refTagged
  obtain _ | _ | _ | _ := a
  · split
    · exact w.ncArrived
    · exact w.wcAnswered
    · exact w.devAnswered
    · exact w.portRefused.serveAgent
    · exact w.refArrives
  · exact w.refArrives
  · exact w.portRefused.serveAgent
  · exact w.refArrives

theorem Hw.Wf.execRef {a l chk} (w : s.hw.Wf) : Kept (Machine.execRef a l chk s) := .onHw (w.replyCmd fun w => w.refTagged)

theorem Hw.Wf.sendAgain {op a line} (w : h.Wf) : (h.sendAgain op a line).Wf := by
  unfold Hw.sendAgain
  obtain _ | _ := List.find? _ _
  · exact w.send
  · exact w.freeRsp.send

theorem Hw.Wf.execStale {p} (w : s.hw.Wf) : Kept (Machine.execStale p s) := by
  unfold Machine.execStale
  refine .onHw ?_
  obtain ⟨a, a⟩ | ⟨a, a, a⟩ | a := p
  · exact w.arrivedBy.homeAnswer
  · dsimp -zeta only
    obtain _ | _ := opOf a.toNat
    · exact w
    · exact w.same.sendAgain
  · exact w.arrivedBy.accessStale

theorem Hw.Wf.ferrArrives {r} (w : h.Wf) : (h.ferrArrives r).Wf := by
  unfold Hw.ferrArrives
  obtain ⟨x, x⟩ | x | ⟨x, x⟩ | _ := r
  · dsimp -zeta only
    obtain _ | _ := Hw.ferrSlot _ _
    · exact w
    · exact w.same.requestFails
  · dsimp -zeta only
    obtain _ | _ := h.ferrSlot (Sys2Proof.FerrReq.access x)
    · exact w
    · exact w.same.requestFails
  · dsimp -zeta only
    obtain _ | _ := Hw.ferrSlot _ _
    · exact w
    · exact w.same.requestFails
  · exact w.freeTok.snoopTimedOut

theorem Hw.Wf.execFerr {r} (w : s.hw.Wf) : Kept (Machine.execFerr r s) := by
  unfold Machine.execFerr
  refine .onHw ?_
  split
  · exact .ite w.same.send w.ferrArrives
  · exact w.ferrArrives

theorem Hw.Wf.execRequesterWatchdog {r} (w : s.hw.Wf) : Kept (Machine.execRequesterWatchdog r s) := by
  unfold Machine.execRequesterWatchdog
  refine .onHw ?_
  obtain _ | _ := s.hw.ferrSlot r
  · exact w
  · exact .ite w.requestFails w

theorem Hw.Wf.accessCmd {op a1 pa v chk take} (w : h.Wf) (ktake : ∀ {k}, k.Wf → (take k).Wf) : (Machine.accessCmd op a1 pa v chk take h).Wf := by
  unfold Machine.accessCmd
  extract_lets p m
  rcases e : h.receive p chk with h1 | ⟨h1, _⟩
  · exact w.receive.ofError e
  · have w1 : h1.Wf := w.receive.ofOk e
    dsimp -zeta only
    obtain _ | _ := h1.edgeOf m
    · exact (Hw.Wf.ite w1.send (.ite w1.send (ktake w1))).freeTok
    · exact w1.edgeAnswer

theorem Hw.Wf.execMmioPostedWrite {who pa size v chk} (w : s.hw.Wf) : Kept (Machine.execMmioPostedWrite who pa size v chk s) := .onHw (.ite (w.accessCmd fun w => w.postedArrives) w)

theorem Hw.Wf.execRegisterReadRequest {who pa size chk} (w : s.hw.Wf) : Kept (Machine.execRegisterReadRequest who pa size chk s) := by
  unfold Machine.execRegisterReadRequest
  refine .onHw ?_
  refine .ite ?_ (.ite (w.accessCmd fun w => w.mmioArrives) w)
  refine w.accessCmd fun w => ?_
  rcases e : Hw.winRead _ who pa.toNat (2 ^ size.toNat) with ⟨_, _⟩
  exact (w.winRead.ofFst e).regReply

theorem Hw.Wf.execRegisterWriteRequest {who pa size v chk} (w : s.hw.Wf) : Kept (Machine.execRegisterWriteRequest who pa size v chk s) := .onHw (.ite (w.accessCmd fun w => w.winWrite.regReply) (.ite (w.accessCmd fun w => w.mmioArrives) w))

theorem Hw.Wf.accessReply {op t a2 chk take} (w : h.Wf) (ktake : ∀ {k}, k.Wf → (take k).Wf) : (Machine.accessReply op t a2 chk take h).Wf := by
  unfold Machine.accessReply
  extract_lets p
  rcases e : h.receive p chk with h1 | ⟨h1, _⟩
  · exact w.receive.ofError e
  · have w1 : h1.Wf := w.receive.ofOk e
    exact .ite w1.flawedResponse (ktake w1.freeRsp)

theorem Hw.Wf.execRegisterCompletion {t data cpl chk} (w : s.hw.Wf) : Kept (Machine.execRegisterCompletion t data cpl chk s) := by
  unfold Machine.execRegisterCompletion
  refine .onHw ?_
  obtain _ | _ := Thread.devOpen _
  · exact w
  · dsimp -zeta only
    refine .ite w ?_
    refine Hw.Wf.portPump ?_
    refine w.accessReply fun w => ?_
    obtain _ | _ | _ | _ := cpl
    · exact w.devDone
    · exact .ite w.devDone w.devFail
    · exact w.devFail
    · exact w.devFail

theorem Hw.Wf.execPostedAcknowledgement {t chk} (w : s.hw.Wf) : Kept (Machine.execPostedAcknowledgement t chk s) := by
  unfold Machine.execPostedAcknowledgement
  refine .onHw ?_
  obtain _ | _ := Thread.devOpen _
  · exact w
  · exact .ite w (w.accessReply fun w => .ite w.devDone w.devDone.same)

end

end Sys2Proof.Machine
end

section
/-! SUPPORT. Memory keeps its form: what a step does while no command waits (log entry 1). -/

namespace Sys2Proof.Machine

section
variable {h : Hw}

theorem Hw.Wf.countCycles (w : h.Wf) : (h.countCycles).Wf := by
  unfold Hw.countCycles
  refine w.foldl fun w => ?_
  extract_lets _ h1 h2
  have w1 : h1.Wf := w.countN.onThread
  have w2 : h2.Wf := .ite w1 w1.countN
  exact .ite w2 w2.countN

theorem Hw.Wf.tick (w : h.Wf) : (h.tick).Wf := .ite w.same.countCycles.wakesDue w.same

end

end Sys2Proof.Machine
end

section
/-! PROOFS. Every command and every tick keep the canonical form of memory: one lemma per command stands above, and a step is one of them (log entry 3). -/

namespace Sys2Proof.Machine

theorem Hw.Wf.exec {s : State} (w : s.hw.Wf) : ∀ i, Kept (Machine.exec i s)
  | .registerWrite .. => w.execRegisterWrite
  | .coldReset => Hw.Wf.execColdReset
  | .packageWarmReset => w.execPackageWarmReset
  | .partitionReset .. => w.execPartitionReset
  | .dieReset .. => w.execDieReset
  | .coreReset .. => w.execCoreReset
  | .integerAlu .. => w.execIntegerAlu
  | .addi .. => w.execAddi
  | .andi .. => w.execAndi
  | .ori .. => w.execOri
  | .xori .. => w.execXori
  | .lui .. => w.execLui
  | .shiftImmediate .. => w.execShiftImmediate
  | .pfx .. => w.execPfx
  | .load .. => w.execLoad
  | .store .. => w.execStore
  | .branch .. => w.execBranch
  | .jal .. => w.execJal
  | .jalr .. => w.execJalr
  | .vectorAlu .. => w.execVectorAlu
  | .vectorFp .. => w.execVectorFp
  | .vld .. => w.execVld
  | .vst .. => w.execVst
  | .pcomp .. => w.execPcomp
  | .vgather .. => w.execVgather
  | .vscatter .. => w.execVscatter
  | .vcompress .. => w.execVcompress
  | .vexpand .. => w.execVexpand
  | .vbcast .. => w.execVbcast
  | .vextract .. => w.execVextract
  | .vinsert .. => w.execVinsert
  | .pand .. => w.execPand
  | .por .. => w.execPor
  | .pxor .. => w.execPxor
  | .pnot .. => w.execPnot
  | .fadd .. => w.execFadd
  | .fsub .. => w.execFsub
  | .fmul .. => w.execFmul
  | .fdiv .. => w.execFdiv
  | .fsqrt .. => w.execFsqrt
  | .fma .. => w.execFma
  | .fmin .. => w.execFmin
  | .fmax .. => w.execFmax
  | .fcmp .. => w.execFcmp
  | .fcvt .. => w.execFcvt
  | .lres .. => w.execLres
  | .scond .. => w.execScond
  | .lresHoldExpire .. => w.execLresHoldExpire
  | .crc32c .. => w.execCrc32c
  | .par .. => w.execPar
  | .popc .. => w.execPopc
  | .brev8 .. => w.execBrev8
  | .brev64 .. => w.execBrev64
  | .clz .. => w.execClz
  | .ctz .. => w.execCtz
  | .bmove .. => w.execBmove
  | .bfill .. => w.execBfill
  | .bcrc .. => w.execBcrc
  | .fenceC .. => w.execFenceC
  | .fenceD .. => w.execFenceD
  | .fenceS .. => w.execFenceS
  | .wcBufferTimeout .. => w.execWcBufferTimeout
  | .crrd .. => w.execCrrd
  | .crwr .. => w.execCrwr
  | .crset .. => w.execCrset
  | .crclr .. => w.execCrclr
  | .trap .. => w.execTrap
  | .trapEntry .. => w.execTrapEntry
  | .tret .. => w.execTret
  | .gate .. => w.execGate
  | .gmark .. => w.execGmark
  | .gret .. => w.execGret
  | .wait .. => w.execWait
  | .waitWake .. => w.execWaitWake
  | .dustSheetThreadWake .. => w.execDustSheetThreadWake
  | .tlbiVA .. => w.execTlbiVA
  | .tlbiVAALL .. => w.execTlbiVAALL
  | .tlbiASID .. => w.execTlbiASID
  | .tlbiREGIME .. => w.execTlbiREGIME
  | .tlbiIA .. => w.execTlbiIA
  | .tlbiVMID .. => w.execTlbiVMID
  | .tlbiPART .. => w.execTlbiPART
  | .instructionRetire .. => w.execInstructionRetire
  | .loadSettles .. => w.execLoadSettles
  | .cacheDisableRequest .. => w.execCacheDisableRequest
  | .cacheCleanDone .. => w.execCacheCleanDone
  | .migrateStart .. => w.execMigrateStart
  | .migrationSourceCleaned .. => w.execMigrationSourceCleaned
  | .migrationDone .. => w.execMigrationDone
  | .deviceTimeout .. => w.execDeviceTimeout
  | .dpStoreErrorMessage .. => w.execDpStoreErrorMessage
  | .portLinkDown .. => w.execPortLinkDown
  | .rds .. => w.execRds
  | .rdo .. => w.execRdo
  | .upg .. => w.execUpg
  | .own .. => w.execOwn
  | .rdc .. => w.execRdc
  | .rdp .. => w.execRdp
  | .stn .. => w.execStn
  | .wrf .. => w.execWrf
  | .wrp .. => w.execWrp
  | .cmt .. => w.execCmt
  | .wb .. => w.execWb
  | .evc .. => w.execEvc
  | .evf .. => w.execEvf
  | .directoryWritebackDrain .. => w.execDirectoryWritebackDrain
  | .rcs .. => w.execRcs
  | .rci .. => w.execRci
  | .rcc .. => w.execRcc
  | .inv .. => w.execInv
  | .prb .. => w.execPrb
  | .fap .. => w.execFap
  | .ack .. => w.execAck
  | .ackf .. => w.execAckf
  | .rcd .. => w.execRcd
  | .gntE .. => w.execGntE
  | .gntS .. => w.execGntS
  | .gntF .. => w.execGntF
  | .data .. => w.execData
  | .gntO .. => w.execGntO
  | .rdy .. => w.execRdy
  | .done .. => w.execDone
  | .wba .. => w.execWba
  | .dfr .. => w.execDfr
  | .ref .. => w.execRef
  | .snoopTimeout .. => w.execSnoopTimeout
  | .poisonEntryHoldExpire .. => w.execPoisonEntryHoldExpire
  | .agentFence .. => w.execAgentFence
  | .isetBWrite .. => w.execIsetBWrite
  | .isetAWrite .. => w.execIsetAWrite
  | .isetApply .. => w.execIsetApply
  | .rcQuotaApply .. => w.execRcQuotaApply
  | .rcScrubRead .. => w.execRcScrubRead
  | .cxlReadTimeout .. => w.execCxlReadTimeout
  | .memInitGibDone .. => w.execMemInitGibDone
  | .hotsnapCopy .. => w.execHotsnapCopy
  | .hotsnapCopyClear .. => w.execHotsnapCopyClear
  | .hotsnapCopyHalve .. => w.execHotsnapCopyHalve
  | .hotsnapDone .. => w.execHotsnapDone
  | .patrolScrubRead .. => w.execPatrolScrubRead
  | .correctiveRewrite .. => w.execCorrectiveRewrite
  | .directorySweepStart .. => w.execDirectorySweepStart
  | .directorySweepDone .. => w.execDirectorySweepDone
  | .rankSpareStart .. => w.execRankSpareStart
  | .rankSpareDone .. => w.execRankSpareDone
  | .channelFail .. => w.execChannelFail
  | .doorbell .. => w.execDoorbell
  | .queueBaseApply .. => w.execQueueBaseApply
  | .descriptorRead => w.execDescriptorRead
  | .jobSteer .. => w.execJobSteer
  | .pieceStart .. => w.execPieceStart
  | .pieceEnd .. => w.execPieceEnd
  | .appendChunkRequest .. => w.execAppendChunkRequest
  | .completionWrite .. => w.execCompletionWrite
  | .jobTimeout .. => w.execJobTimeout
  | .elcGroupPowerRequest .. => w.execElcGroupPowerRequest
  | .elcGroupCleanDone .. => w.execElcGroupCleanDone
  | .spBankPowerChange .. => w.execSpBankPowerChange
  | .scratchpadZeroDone .. => w.execScratchpadZeroDone
  | .hostScratchpadAccess .. => w.execHostScratchpadAccess
  | .skimAlu .. => w.execSkimAlu
  | .skimAddi .. => w.execSkimAddi
  | .skimLogicImmediate .. => w.execSkimLogicImmediate
  | .lis .. => w.execLis
  | .skimShiftImmediate .. => w.execSkimShiftImmediate
  | .loop .. => w.execLoop
  | .skimLoad .. => w.execSkimLoad
  | .skimStore .. => w.execSkimStore
  | .skimVld .. => w.execSkimVld
  | .skimVst .. => w.execSkimVst
  | .skimVectorAlu .. => w.execSkimVectorAlu
  | .skimVectorShift .. => w.execSkimVectorShift
  | .vcmp .. => w.execVcmp
  | .vcmps .. => w.execVcmps
  | .vcprs .. => w.execVcprs
  | .skimVbcast .. => w.execSkimVbcast
  | .vext .. => w.execVext
  | .vins .. => w.execVins
  | .vhmix .. => w.execVhmix
  | .vcrc32c .. => w.execVcrc32c
  | .dlook .. => w.execDlook
  | .skimCrc32c .. => w.execSkimCrc32c
  | .crcp .. => w.execCrcp
  | .skimBitHelper .. => w.execSkimBitHelper
  | .hmix .. => w.execHmix
  | .srd .. => w.execSrd
  | .swr .. => w.execSwr
  | .sadv .. => w.execSadv
  | .emitv .. => w.execEmitv
  | .emitm .. => w.execEmitm
  | .pref .. => w.execPref
  | .plock .. => w.execPlock
  | .skimBranch .. => w.execSkimBranch
  | .skimJal .. => w.execSkimJal
  | .skimJalr .. => w.execSkimJalr
  | .skEnd .. => w.execSkEnd
  | .cMv .. => w.execCMv
  | .cAlu .. => w.execCAlu
  | .cSadv .. => w.execCSadv
  | .cNop .. => w.execCNop
  | .cEnd .. => w.execCEnd
  | .cAddi .. => w.execCAddi
  | .cSetbank .. => w.execCSetbank
  | .cBeqz .. => w.execCBeqz
  | .cBnez .. => w.execCBnez
  | .halt .. => w.execHalt
  | .resume .. => w.execResume
  | .step .. => w.execStep
  | .breakpointHalt .. => w.execBreakpointHalt
  | .debugPortHalt .. => w.execDebugPortHalt
  | .registerReadRequest .. => w.execRegisterReadRequest
  | .registerWriteRequest .. => w.execRegisterWriteRequest
  | .mmioPostedWrite .. => w.execMmioPostedWrite
  | .registerCompletion .. => w.execRegisterCompletion
  | .postedAcknowledgement .. => w.execPostedAcknowledgement
  | .eventMessage .. => w.execEventMessage
  | .treq .. => w.execTreq
  | .tgnt .. => w.execTgnt
  | .epochUpdate .. => w.execEpochUpdate
  | .openEdge .. => w.execOpenEdge
  | .asleep .. => w.execAsleep
  | .stale .. => w.execStale
  | .ferr .. => w.execFerr
  | .requesterWatchdog .. => w.execRequesterWatchdog
  | .roleChange .. => w.execRoleChange
  | .domainClosing .. => w.execDomainClosing
  | .torusFrame .. => w.execTorusFrame
  | .torusAcknowledgement .. => w.execTorusAcknowledgement
  | .torusResendTimeout .. => w.execTorusResendTimeout
  | .assign .. => w.execAssign
  | .rmap .. => w.execRmap
  | .repair .. => w.execRepair
  | .sleepLink .. => w.execSleepLink
  | .retrain .. => w.execRetrain
  | .linkTrainingDone .. => w.execLinkTrainingDone
  | .heartbeatLoss .. => w.execHeartbeatLoss
  | .scrimWakeToggle .. => w.execScrimWakeToggle
  | .scrimRecalPass .. => w.execScrimRecalPass
  | .lathEnvelope .. => w.execLathEnvelope
  | .lathReplayTimeout .. => w.execLathReplayTimeout
  | .lathHandshake .. => w.execLathHandshake
  | .laneSleepEntry .. => w.execLaneSleepEntry
  | .linkChirp .. => w.execLinkChirp
  | .dieChirp .. => w.execDieChirp
  | .lathRetrain .. => w.execLathRetrain
  | .unhold .. => w.execUnhold
  | .lathReequalise .. => w.execLathReequalise
  | .cfgLoad .. => w.execCfgLoad
  | .cfgLoadDone => w.execCfgLoadDone
  | .cfgApply .. => w.execCfgApply
  | .cfgRollback .. => w.execCfgRollback
  | .cfgAbort .. => w.execCfgAbort
  | .stagedSectionApply .. => w.execStagedSectionApply
  | .applyTimeout => w.execApplyTimeout
  | .cfgConfirm .. => w.execCfgConfirm
  | .confirmWindowExpire => w.execConfirmWindowExpire
  | .rollbackDone => w.execRollbackDone
  | .explicitApply .. => w.execExplicitApply
  | .dieLeavesPartition .. => w.execDieLeavesPartition
  | .gibOwnerChange .. => w.execGibOwnerChange
  | .gibReleaseSweepDone .. => w.execGibReleaseSweepDone
  | .domainStateRequest .. => w.execDomainStateRequest
  | .domainTransitionDone .. => w.execDomainTransitionDone
  | .domainIdleTimeout .. => w.execDomainIdleTimeout
  | .domainWake .. => w.execDomainWake
  | .dieWakeFromDustSheet .. => w.execDieWakeFromDustSheet
  | .edgeRelease .. => w.execEdgeRelease
  | .aoTimerFire .. => w.execAoTimerFire
  | .sheldSet .. => w.execSheldSet
  | .deepIdleEnter .. => w.execDeepIdleEnter
  | .deepIdleExit .. => w.execDeepIdleExit
  | .stageCurrentSample .. => w.execStageCurrentSample
  | .vinSample .. => w.execVinSample
  | .supplyRestored => w.execSupplyRestored
  | .budgetTick .. => w.execBudgetTick
  | .fceilUpdate .. => w.execFceilUpdate
  | .clusterFrequencyStep .. => w.execClusterFrequencyStep
  | .thermalControlTick .. => w.execThermalControlTick
  | .fastThrottle .. => w.execFastThrottle
  | .thermalTrip .. => w.execThermalTrip
  | .secureWatchdog .. => w.execSecureWatchdog
  | .activationEndArm .. => w.execActivationEndArm
  | .secureStateWrite .. => w.execSecureStateWrite
  | .markSecure .. => w.execMarkSecure
  | .unmarkSecure .. => w.execUnmarkSecure
  | .secureEngineReserve .. => w.execSecureEngineReserve
  | .primerStart .. => w.execPrimerStart
  | .sizingLoaderStart .. => w.execSizingLoaderStart
  | .bootRestart .. => w.execBootRestart
  | .bootThreadRelease .. => w.execBootThreadRelease
  | .floorRaise .. => w.execFloorRaise
  | .keyRevoke .. => w.execKeyRevoke
  | .flashErase .. => w.execFlashErase
  | .flashProgram .. => w.execFlashProgram
  | .flashRead .. => w.execFlashRead
  | .mregExtend .. => w.execMregExtend
  | .flashOpDone .. => w.execFlashOpDone
  | .fuseBurnDone .. => w.execFuseBurnDone
  | .meterSample .. => w.execMeterSample
  | .intervalClose => w.execIntervalClose
  | .owner .. => w.execOwner
  | .ownerResend => w.execOwnerResend
  | .traffic => w.execTraffic
  | .trafficLate => w.execTrafficLate
  | .meterSupplyLoss => w.execMeterSupplyLoss
  | .meterSupplyRestore .. => w.execMeterSupplyRestore
  | .sealOpen => w.execSealOpen
  | .sealClose => w.execSealClose
  | .ident => w.execIdent
  | .getrec .. => w.execGetrec
  | .getlatest => w.execGetlatest
  | .getlog .. => w.execGetlog
  | .sync .. => w.execSync
  | .calwrite .. => w.execCalwrite
  | .fwload .. => w.execFwload
  | .fwcommit .. => w.execFwcommit
  | .setaddr .. => w.execSetaddr
  | .verify .. => w.execVerify
  | .meterRecordDelivery => w.execMeterRecordDelivery
  | .mtrxIdent .. => w.execMtrxIdent
  | .resend .. => w.execResend
  | .timemark .. => w.execTimemark
  | .eventRaise .. => w.execEventRaise
  | .evrOnlineClear .. => w.execEvrOnlineClear
  | .slotVoid .. => w.execSlotVoid
  | .eventCreditReturn .. => w.execEventCreditReturn
  | .evrInvalidate .. => w.execEvrInvalidate
  | .messageSignalledWrite .. => w.execMessageSignalledWrite
  | .partitionFatal .. => w.execPartitionFatal
  | .packageFatal .. => Hw.Wf.execPackageFatal
  | .dieLoss .. => w.execDieLoss
  | .dieLostReport .. => w.execDieLostReport
  | .portDieLoss .. => w.execPortDieLoss
  | .firmwareSwitch .. => w.execFirmwareSwitch
  | .ucodeLoad .. => w.execUcodeLoad
  | .updateVerify .. => w.execUpdateVerify
  | .updateVerifyDone => w.execUpdateVerifyDone
  | .firmwareSwitchDone .. => w.execFirmwareSwitchDone
  | .ucodeLoadDone .. => w.execUcodeLoadDone
  | .ddrRecalibrationPass .. => w.execDdrRecalibrationPass
  | .sensorCalibration .. => w.execSensorCalibration
  | .hotPlugEvent .. => w.execHotPlugEvent
  | .deviceDmaRequest .. => w.execDeviceDmaRequest
  | .board .. => w.execBoard
  | .dimm .. => w.execDimm
  | .ports .. => w.execPorts
  | .partreq .. => w.execPartreq
  | .limits .. => w.execLimits
  | .health .. => w.execHealth
  | .slotevt .. => w.execSlotevt
  | .imageBegin .. => w.execImageBegin
  | .imageBlock .. => w.execImageBlock
  | .imageEnd .. => w.execImageEnd
  | .dumphold .. => w.execDumphold
  | .inventoryTimeout => w.execInventoryTimeout
  | .slotControlWrite .. => w.execSlotControlWrite
  | .slotctlTimeout .. => w.execSlotctlTimeout
  | .wakePattern .. => w.execWakePattern
  | .statusBlockRead => w.execStatusBlockRead
  | .i3cWake .. => w.execI3cWake
  | .dynamicAddressAssignment .. => w.execDynamicAddressAssignment
  | .pkgResetAssert => w.execPkgResetAssert
  | .pkgResetRelease .. => w.execPkgResetRelease
  | .powerUp => Hw.Wf.execPowerUp
  | .aoSupplyLoss => w.execAoSupplyLoss
  | .refclkLoss .. => w.execRefclkLoss
  | .aoClockStop => w.execAoClockStop
  | .bypass .. => w.execBypass
  | .idcode .. => w.execIdcode
  | .samplePreload .. => w.execSamplePreload
  | .extest .. => w.execExtest
  | .extestPulse .. => w.execExtestPulse
  | .extestTrain .. => w.execExtestTrain
  | .safePointApply .. => w.execSafePointApply
  | .dpStoreComplete .. => w.execDpStoreComplete
  | .wireThreshRepair .. => w.execWireThreshRepair
  | .lathLinkLoss .. => w.execLathLinkLoss
  | .refclkRestored .. => w.execRefclkRestored

theorem Hw.Wf.step {s : State} (w : s.hw.Wf) : Kept (Machine.step s) := by
  unfold Machine.step
  split
  · exact w.tick
  · next c r _ => exact Hw.Wf.exec (s := { s with pending := r }) w c

end Sys2Proof.Machine

open Sys2Proof Sys2Proof.Machine

/-- Settles O6: the memory of the answered state is the one the command or the tick leaves, and each of them keeps the form. -/
theorem everyStepKeepsTheMemoryForm : Obligations.EveryStepKeepsTheMemoryForm := by
  intro s t w stepped
  have kept : Kept (step s) := Hw.Wf.step w
  rw [stepped] at kept
  exact kept

end
